-- ==== Sys2Proof/Word.lean ====
section
/-! DEFINITION. The widths the manual names (00 R4: registers and words are 64 bits, little-endian) and the
plain unit numbers of Table 00.4. -/

namespace Sys2Proof

/-- A byte. -/
abbrev Byte := BitVec 8
/-- A 16-bit field. -/
abbrev Half := BitVec 16
/-- A 32-bit field, also the bits of an FP32 value. -/
abbrev W32 := BitVec 32
/-- A 64-bit word: every register, and the unit that carries a check byte (R4, R234). -/
abbrev Word := BitVec 64
/-- A device physical address (R33). -/
abbrev Addr := BitVec 48

/-- Sparse contents keyed by a number: keys rise strictly and no entry equals what an unlisted key reads as. -/
abbrev Cells (α : Type) := List (Nat × α)

/-- Compute dies CD0–CD7. -/
abbrev DieNo := Fin 8
/-- Enabled cores 0–47 of a die. -/
abbrev CoreNo := Fin 48
/-- Plinth dies PD0, PD1. -/
abbrev Pd := Fin 2
/-- Peer links PL0–PL23. -/
abbrev LinkNo := Fin 24
/-- Contexts 0–15. -/
abbrev Ctx := Fin 16
/-- DDR channels DC0–DC31. -/
abbrev ChanNo := Fin 32
/-- The ten dies with control-and-status units: 0–7 are CD0–CD7, 8 is PD0 and 9 is PD1. -/
abbrev UnitNo := Fin 10

end Sys2Proof
end

