-- ==== Sys2Proof/Syntax.lean ====
section
/-! DEFINITION. The commands of spec/opcode_table.json, one constructor a row, with the operands each step takes
from outside the state (95_what_each_step_holds.md). -/

namespace Sys2Proof

/-- An armature message, Table 02.3, less its CRC, which the frame that carries it shows (R57). -/
structure ArmMsg where
  mtype : Byte
  tag : Byte
  src : BitVec 12
  dest : BitVec 12
  ctx : BitVec 4
  strokeLo : BitVec 20
  payload : List Word
  ops : Half
  stage : BitVec 4
  msgSeq : W32
  subject : Word
deriving DecidableEq, Repr

/-- An armature frame as it reaches the port, Table 08.4: whether all four codewords decode and how many bytes
they corrected, its sequence fields, and the eight words of the message. -/
structure ArmFrame where
  codeOk : Bool
  corrected : Nat
  idle : Bool
  nak : Bool
  aseq : Byte
  aack : Byte
  words : List Word
deriving DecidableEq, Repr

/-- A peer-link flit, Table 08.3: header words 0 to 3 (CCRC and FCRC in word 3) and the payload words sent;
payload beyond the list is zero (R273). -/
structure Flit where
  h0 : Word
  h1 : Word
  h2 : Word
  h3 : Word
  payload : List Word
deriving DecidableEq, Repr

/-- An Umajo flit, Table 14.3: two header words and the payload words; payload beyond the list is zero. -/
structure UmFlit where
  h0 : Word
  h1 : Word
  payload : List Word
deriving DecidableEq, Repr

/-- An Umajo message, Table 14.4: header fields, `ARG`, data words and the two trailers (R463). -/
structure UmMsg where
  mtype : BitVec 6
  dlen : BitVec 13
  mtag : Half
  ctx : BitVec 4
  poisoned : Bool
  tagged : Bool
  etag : Byte
  addr : Addr
  arg : Word
  data : List Word
  poison : List Bool
  tags : List Byte
deriving DecidableEq, Repr

/-- A 64-bit word in flight with its bare check byte (R20, R236). -/
structure TWord where
  d : Word
  c : Byte
deriving DecidableEq, Repr

/-- A host command in a fetched queue entry: its queue (16 is the administrative queue), the header fields that a
completion returns (Table 14.9) and the eight words of its body. -/
structure HostCmd where
  queue : Fin 17
  opcode : Byte
  tag : W32
  hostRef : Word
  fence : Bool
  b0 : Word
  b1 : Word
  b2 : Word
  b3 : Word
  b4 : Word
  b5 : Word
  b6 : Word
  b7 : Word
deriving DecidableEq, Repr

/-- What one training pass found for one listed link (Table 08.2). -/
structure LinkTrain where
  link : LinkNo
  /-- every step passed on its lanes -/
  ok : Bool
  /-- bulk lanes good in both directions -/
  lanes : Byte
  peerDev : BitVec 12
  peerLink : BitVec 5
  peerDigest : BitVec 256
  /-- half the mean round trip, in cycles -/
  delay : Half
deriving DecidableEq, Repr

/-- A unit of the device as `FENCE` names it: unit number of Table 01.10 and index of Table 13.4. -/
structure UnitId where
  unit : BitVec 5
  index : Byte
deriving DecidableEq, Repr

/-- What SELFTEST finds on one start (Table 15.2): channels whose training fails, units that fail a known-answer
test, the modules' verdicts aside, and the two milestone times (R484). -/
structure SelfTest where
  ddrFail : BitVec 32
  katFail : List UnitId
  imageMs : Half
  katMs : Half
deriving DecidableEq, Repr

/-- The monitors' readings over the frame that ends (R520): input power, the four sensors of each of the ten dies,
and the six rails as PW_RAIL shows them. -/
structure PowerSample where
  watts : Half
  temps : List W32
  rails : List Word
deriving DecidableEq, Repr

/-- A detector's finding that has no row of its own (Table 13.1). -/
inductive Finding where
  /-- an SRAM word of a die, uncorrectable or corrected; `core` is the scratchpad's core -/
  | sram (core : CoreNo) (addr : Addr) (corrected : Bool)
  /-- a word of a table, a queue or a buffer of a compute die that is no scratchpad: a core's cache, slot queue or feeder
  buffers, an engine's job queue (R433); `index` of Table 13.4 -/
  | buffer (index : Byte) (place : BitVec 48) (corrected : Bool)
  /-- a command-store word of a core -/
  | store (core : CoreNo) (word : BitVec 12) (corrected : Bool)
  /-- a residue or duplicate mismatch in a core's vector engine -/
  | residueCore (core : CoreNo)
  /-- a residue or duplicate mismatch in an engine, index 0x34–0x39 of Table 13.4 -/
  | residueEngine (index : Byte)
  /-- a residue or duplicate mismatch in a link's collective unit -/
  | residueLink (link : Fin 12)
  /-- a control-core pair disagreed -/
  | lockstep (controller : Fin 4)
  /-- the die-to-die adapters' counts since the last report (R19) -/
  | dieToDie (crc retry repairs : Nat)
  /-- the corrected symbols of one bulk lane's FEC over this report (R270) -/
  | fec (link : Fin 12) (lane : Fin 8) (corrected uncorrectable : Nat)
  /-- the symbols that the FEC of the host link corrected on a lane since the last report (R457) -/
  | umFec (lane : Fin 16) (corrected : Nat)
deriving DecidableEq, Repr

/-- A die-to-die connection of Table 01.2. -/
inductive Connection where
  | plinth (die : DieNo) (pd : Pd)
  | ring (die : DieNo)
  | bridge
deriving DecidableEq, Repr

/-- Who issued a request: firmware on a control core (R27), an engine job, or a core's block or DMA program. -/
inductive Requester where
  | control (core : Fin 40)
  | engine (die : DieNo) (ctx : Ctx)
  | core (die : DieNo) (core : CoreNo) (ctx : Ctx)
deriving DecidableEq, Repr

/-- An access to consecutive 64-bit words. A write carries the words with their bare check bytes. -/
structure Access where
  who : Requester
  addr : Addr
  words : Nat
  write : Option (List TWord)
  /-- expected epoch of each word, where the reader names one (R239) -/
  expect : Option Byte
  /-- a run-ahead read (R252) -/
  runahead : Bool
deriving DecidableEq, Repr

/-- The statuses with which a lower tier may fail a request (R260–R262, Table 04.14). -/
inductive ReqFail where
  | gone
  | tierFail
  | denied
  | quarantined
deriving DecidableEq, Repr

/-- How a lower-tier request ended, as far as the device cannot compute it from its own state. -/
inductive ReqEnd where
  /-- the access is served by the device's own storage -/
  | served
  /-- host-window data came back, with each word's tag; poisoned words are marked -/
  | host (data : List Word) (tags : List Byte) (poison : List Bool)
  /-- the request failed -/
  | failed (how : ReqFail)
deriving DecidableEq, Repr

/-- The tiers below the scratchpad that have a deadline (Table 07.12). -/
inductive Tier where
  | ddr
  | host
  | flash
deriving DecidableEq, Repr

/-- A lower-tier request that has not completed within its limit (R260): a DMA channel's, a host-window read in its slot or
waiting for one, a posted host-window write, or one that the model carries out within a step (an engine's, a page-map port's,
an object command's), known by the sequence or the unit it works for. -/
inductive LateReq where
  | dma (die : DieNo) (core : CoreNo) (ch : Fin 4) (index : Nat)
  | hostRead (slot : Fin 1024)
  | hostWait (place : Nat)
  | hostWrite (mtag : BitVec 16)
  | object
  | request (handle : W32) (tier : Tier)
  | unit (ctx : Ctx) (tier : Tier)
deriving DecidableEq, Repr

/-- What a chunk deadline falls on (R285): a receive window or a collective. -/
inductive ChunkOwner where
  | window (src : BitVec 12) (stream : BitVec 7)
  | collective (cid : BitVec 6)
deriving DecidableEq, Repr

/-- A logical core of a program (Table 04.1): the words of its command store, by their indices, and the extents of resident
data that it reads, as address and bytes (R415). -/
structure LogicalCore where
  store : List (BitVec 12 × Word)
  reads : List (Nat × Nat)
deriving DecidableEq, Repr

/-- A block template as the slot plan runs it on a logical core: its `BLOCK` word and P1 to P4; and for the commands whose
time R138 takes from the memory tiers, by their numbers in the order of R135, the cycle assumed: for a `WAIT` the one in which
its counter is there, for a `DMA_START` the one in which its program ends. -/
structure Template where
  core : Nat
  start : BitVec 12
  params : List W32
  assumed : List (Nat × Nat)
deriving DecidableEq, Repr

/-- A matrix of a trained model's stage: its layer, its BF16 engine tiles down and across (R303), and the slots that the slot
plan gives the products on one of its pieces for a group, forward and backward (R312). -/
structure Matrix where
  layer : Nat
  tilesK : Nat
  tilesN : Nat
  forward : Nat
  backward : Nat
deriving DecidableEq, Repr

/-- A run of a pointing plan: `count` destination tiles of a matrix from the `first` on, all with the same builder, homes (one
for each replica) and path (R391–R395). `matrix` counts in the learning program's order; `ring` says that the homes pass the
tiles on by collectives, and `target` is the home that the builder sends them to. -/
structure PlanRun where
  matrix : Nat
  tensor : Nat
  dfmt : BitVec 4
  first : Nat
  count : Nat
  builder : BitVec 12
  homes : List (BitVec 12)
  ring : Bool
  target : BitVec 12
deriving DecidableEq, Repr

/-- The plan of a turn: its runs in the plan's order, the replicas, and the offset of the scale table in a copy (R400). -/
structure Plan where
  replicas : Nat
  runs : List PlanRun
  scaleAt : Nat
deriving DecidableEq, Repr

/-- What firmware reads from a compiled program (its byte format is not in the manual): what its logical cores hold, its
templates, its figures, and whether it passes the checks that this text gives no numbers for. -/
structure Program where
  accepted : Bool
  cores : List LogicalCore
  templates : List Template
  /-- kinds of the tensors that the forward pass keeps (R314) -/
  keep : List (BitVec 4)
  /-- the matrices of a learning program's stage in the order of use, and the elements of its vector parameters (R303) -/
  matrices : List Matrix
  vectors : List Nat
  layers : Nat
  headDim32 : BitVec 4
  kvFmt : BitVec 4
  kvHeads : BitVec 5
  /-- `RUN`, and the devices of a sequence-parallel group, 0 where the model uses none (R213, Table 06.7) -/
  run : Nat
  seqGroup : Nat
  vocab : Nat
  /-- balance batch B* of R347 for the model's weight format at full rates -/
  balance : Nat
  /-- bytes of the device's DDR that the configuration's keep sets need (R304, R316) -/
  regionBytes : Nat
  /-- w and a of R324: bytes per layer per member that micro-batches leave alone, and keep-set bytes per layer per group -/
  layerBytes : Nat
  keepBytes : Nat
  /-- tensors that a copy holds in E5M2 (R400) -/
  e5m2 : List Nat
  /-- experts of an expert layer, 0 for a model without (R326) -/
  experts : Nat
  /-- the layout is a sub-grid with rings over every stage (R302) -/
  layoutOk : Bool
  /-- for a generation program: its pointing plan, if it carries one for the learning layout (R395) -/
  plan : Option Plan
deriving DecidableEq, Repr

/-- What stands in the host window at a bundle shard's address (R498): its prologue, without the zeros that pad it at its end,
and its tile stream; `readFails`: a read of the shard, or of the object that a `LOAD_MODEL` names, fails. -/
structure Shard where
  readFails : Bool
  prologue : List Byte
  stream : List Byte
deriving DecidableEq, Repr

/-- One layer and key-value head of a decode row whose step skipped pages (R212, R216): the query vectors of its query heads,
and m and l of each member's partial for each of them, in FP32. -/
structure SkipHead where
  layer : Nat
  head : Nat
  queries : List (List W32)
  partials : List (List (W32 × W32))
deriving DecidableEq, Repr

/-- What a decode row's program computed in the step that ends, from which its skipped pages and their bound follow: its
request slot and its heads. -/
structure SkipReport where
  slot : BitVec 12
  heads : List SkipHead
deriving DecidableEq, Repr

/-- Who reaches a control-and-status block (R39): a control core, by its number of R27, or the host. -/
inductive Port where
  | control (core : Fin 40)
  | host
deriving DecidableEq, Repr

/-- What a write brings to a register, and what hardware sets there in the same cycle (R7). -/
structure WriteData where
  value : Word
  hardware : Word
deriving DecidableEq, Repr

/-- The register that a read names, and what hardware sets or adds there in the same cycle (R7). -/
structure ReadAddr where
  addr : Addr
  hardware : Word
deriving DecidableEq, Repr

/-- `WRITE` of the translation layer: the die that it is given to, and the targets of the blocks that failed program in it and
are retired (R259). -/
structure ObjWriting where
  pd : Pd
  retired : List (Fin 64)
deriving DecidableEq, Repr

/-- `READ` of the translation layer: the die that it is given to, and the segments that came back wrong from flash, each with
whether a second read brought it right (R258). -/
structure ObjReading where
  pd : Pd
  misread : List (Nat × Bool)
deriving DecidableEq, Repr

/-- The commands: one constructor for each row of spec/opcode_table.json. A constructor's operands are what its step
takes from outside the state; everything else it uses is in `State`. -/
inductive Instr where
  -- pins, rails, clocks and start-up (chapters 15 and 16)
  | railFault
  | railsWithinTolerance
  | resetAssert
  | resetRelease (found : SelfTest)
  | umajoLinkUp (lanes : BitVec 16) (adapter : W32)
  | linkTrainingEnd (found : List LinkTrain)
  | readyEntry (ms : W32)
  | haltAssert
  | haltRelease
  | thermalTrip (unit : UnitNo) (sensor : Fin 4) (temp : Byte)
  | clockMonitorWindow (unit : UnitNo) (domain : Fin 20) (khz : W32)
  | bypass
  | idcode
  | samplePreload (sampled preload : List Bool)
  | extest
  -- strokes (chapter 02)
  | strokeEdge
  | frameBoundary (power : PowerSample)
  | ddrRetrain (chan : ChanNo) (ok : Bool)
  | strokeMark (link : LinkNo) (msg : ArmMsg) (errNs : BitVec 16)
  | lockLoss
  | masterHandover
  -- armature messages
  | slipReq (link : LinkNo) (msg : ArmMsg)
  | fence (link : LinkNo) (msg : ArmMsg)
  | outcomeQuery (link : LinkNo) (msg : ArmMsg)
  | outcomeReply (link : LinkNo) (msg : ArmMsg)
  | throttle (link : LinkNo) (msg : ArmMsg)
  | vote (link : LinkNo) (msg : ArmMsg)
  | outcome (link : LinkNo) (msg : ArmMsg)
  | collective (link : LinkNo) (msg : ArmMsg)
  | barrier (link : LinkNo) (msg : ArmMsg)
  -- the seal
  | sealRegister (ctx : Ctx) (kind : BitVec 2) (seq : W32) (first last : Word) (group : List (BitVec 6 × BitVec 6))
  | votePost (ctx : Ctx) (seq : W32)
  | outcomePost (ctx : Ctx) (seq : W32)
  | outcomeMissing (ctx : Ctx) (seq : W32)
  | outcomeQueryTimeout (ctx : Ctx) (seq : W32)
  | collectiveTimeout (tag : BitVec 6)
  | faultReport (unit : UnitNo) (finding : Finding)
  | armatureSilence
  | ucieModuleDown (conn : Connection) (module : Fin 8)
  | budgetEnd
  -- core programs (chapter 04)
  | slotPush (die : DieNo) (core : CoreNo) (word3 : Word)
  | slotStart (die : DieNo) (core : CoreNo)
  | endBlock (die : DieNo) (core : CoreNo)
  | loop (die : DieNo) (core : CoreNo)
  | setp (die : DieNo) (core : CoreNo)
  | addp (die : DieNo) (core : CoreNo)
  | wait (die : DieNo) (core : CoreNo) (cycle : Half)
  | signal (die : DieNo) (core : CoreNo)
  | signalArrive (die : DieNo) (core : CoreNo) (ec : BitVec 4) (inc : BitVec 24)
  | evcWrite (die : DieNo) (core : CoreNo) (ec : BitVec 4) (value : BitVec 24)
  | matmul (die : DieNo) (core : CoreNo)
  | vec (die : DieNo) (core : CoreNo)
  | dmaStart (die : DieNo) (core : CoreNo) (cycle : Half)
  | dmaStop (die : DieNo) (core : CoreNo)
  | coll (die : DieNo) (core : CoreNo) (cycle : Half)
  | lookup (die : DieNo) (core : CoreNo)
  | appendSet (die : DieNo) (core : CoreNo)
  | appendRow (die : DieNo) (core : CoreNo) (arr : Fin 8)
  | blockComplete (die : DieNo) (core : CoreNo) (cycle : Half)
  | carryDeadline (die : DieNo) (core : CoreNo) (ch : Fin 4)
  | dmaMove (die : DieNo) (core : CoreNo) (ch : Fin 4)
  | dmaLoop (die : DieNo) (core : CoreNo) (ch : Fin 4)
  | dmaWait (die : DieNo) (core : CoreNo) (ch : Fin 4)
  | dmaSignal (die : DieNo) (core : CoreNo) (ch : Fin 4)
  | dmaEnd (die : DieNo) (core : CoreNo) (ch : Fin 4)
  | dmaRequestComplete (die : DieNo) (core : CoreNo) (ch : Fin 4) (index : Nat) (how : ReqEnd)
  | stalePageDefer (die : DieNo) (core : CoreNo) (ch : Fin 4) (handles : List W32)
  | scratchpadAccess (acc : Access)
  | ddrRequest (acc : Access)
  | hostWindowRequest (acc : Access)
  | tierDeadline (late : LateReq)
  | patrolScrub (addr : Addr) (words : Nat)
  -- arrays and fill passes (chapter 03)
  | arrayClockGate (die : DieNo) (core : CoreNo) (arr : Fin 8) (cycles : W32)
  | fillPass (die : DieNo) (core : CoreNo) (arr : Fin 8) (record : BitVec 128) (first : Bool)
  -- engines (chapters 05 and 11); whose pass a SAMPLE serves, how many shards a MERGE combines, and the drafts of each row
  -- with their distributions, which firmware gives by means that the manual does not name
  | jobPush (die : DieNo) (engine : Fin 6) (word3 : Word)
  | jobSlotCompare (die : DieNo) (engine : Fin 6)
  | sample (die : DieNo) (maquette : Bool)
  | shortlist (die : DieNo)
  | merge (die : DieNo) (shards : Nat)
  | verify (die : DieNo) (drafts : List (List (BitVec 20 × List (BitVec 20 × W32))))
  | raw (die : DieNo)
  | uniform (die : DieNo)
  | mask (die : DieNo)
  | normal (die : DieNo)
  | adamw (die : DieNo)
  | signmom (die : DieNo)
  | sgd (die : DieNo)
  | ssq (die : DieNo)
  | compare (die : DieNo)
  | sha256 (die : DieNo)
  | checkVerify (die : DieNo)
  | scan (die : DieNo) (engine : Fin 2)
  | cast (die : DieNo) (engine : Fin 2)
  | amaxExchange (ctx : Ctx)
  -- page map (chapter 06)
  | mapInsert (die : DieNo)
  | mapUpdate (die : DieNo)
  | mapRemove (die : DieNo)
  | mapRead (die : DieNo)
  | moveTo (die : DieNo) (target : BitVec 16)
  | pageSpill (die : DieNo) (ctx : Ctx)
  -- tiers (chapter 07)
  | segWrite (pd : Pd) (segment : BitVec 13)
  | segRead (pd : Pd) (segment : BitVec 13)
  | rewrite (pd : Pd) (host : Bool) (region : BitVec 22)
  | realloc (pd : Pd) (host : Bool) (region : BitVec 22)
  | epochRead (pd : Pd) (host : Bool) (region : BitVec 22)
  | objCreate (pd : Pd)
  | objWrite (job : ObjWriting)
  | objSeal (pd : Pd)
  | objRead (job : ObjReading)
  | objDelete (pd : Pd)
  | objStat (pd : Pd)
  | objectExpiry (pd : Pd) (object : Nat)
  | readReclaim (pd : Pd) (target : Fin 32) (block : Nat)
  | flashTargetFail (pd : Pd) (target : Fin 32)
  -- peer links (chapter 08)
  | flitSend (link : LinkNo)
  | flitReceive (link : LinkNo) (flit : Flit) (fecOk : Bool)
  | replayTimeout (link : LinkNo)
  | laneFail (link : LinkNo) (lane : Fin 8)
  | linkRetrainEnd (link : LinkNo) (locked : Bool)
  | armatureLaneFail (link : LinkNo)
  | armatureFrameReceive (link : LinkNo) (frame : ArmFrame)
  | chunkReceive (link : LinkNo)
  | chunkNak (link : LinkNo) (w1 w2 : Word)
  | chunkDeadline (owner : ChunkOwner)
  | send (die : DieNo) (core : CoreNo)
  | recv (die : DieNo) (core : CoreNo)
  | linkColl (die : DieNo) (core : CoreNo)
  | routeWrite (pd : Pd) (device : BitVec 12)
  | routeRead (pd : Pd) (device : BitVec 12)
  | fiCfgWrite (link : LinkNo) (value : Word) (host : Bool)
  -- learning (chapter 09)
  | learnStep (cmd : HostCmd) (program : Program)
  | loadBatch (cmd : HostCmd) (image : Option (List Word))
  | learnStepBegin (ctx : Ctx)
  | stepNormPost (ctx : Ctx)
  -- generation (chapter 10)
  | submit (cmd : HostCmd) (prompt : Option (List W32))
  | pause (cmd : HostCmd)
  | pauseObjectWrite (slot : BitVec 12)
  | resume (cmd : HostCmd)
  | registerPrefix (cmd : HostCmd) (tokens : Option (List W32))
  | dropPrefix (cmd : HostCmd)
  | loadModel (cmd : HostCmd) (shard : Shard) (program : Program)
  | replaceEvict (ctx : Ctx) (model : W32)
  | evictModel (cmd : HostCmd)
  | batchFormation (ctx : Ctx) (consumed : List (BitVec 12 × W32)) (skips : List SkipReport)
  -- turns (chapter 11)
  | startLoop (cmd : HostCmd)
  | stopLoop (cmd : HostCmd)
  | setTurnPolicy (cmd : HostCmd)
  | forceTurn (cmd : HostCmd)
  -- contexts (chapter 12)
  | createContext (cmd : HostCmd)
  | resetContext (cmd : HostCmd)
  | setShares (cmd : HostCmd)
  | contextSwitch (outgoing incoming : Ctx)
  | notifyTimer (queue : Fin 17)
  -- the host link (chapter 14)
  | umajoFlitReceive (flit : UmFlit) (fecOk : Bool)
  | umajoFlitSend
  | umajoReplayTimeout
  | umajoLaneFail (lane : Fin 16) (relocked : Option (BitVec 16))
  | umajoRetrainTimer
  | messageErrorReport (mtag : Half)
  | memCpl (msg : UmMsg)
  | csrWr (mtag : Half) (addr : Addr) (data : WriteData)
  | csrRd (mtag : Half) (addr : ReadAddr)
  | doorbellSqTail (queue : Fin 17) (value : W32)
  | doorbellEqConsumed (queue : Fin 17) (value : W32)
  | queueFetch (queue : Fin 17) (entries : List (List Word))
  | hwinWrite (region : BitVec 18)
  | hwinRead (region : BitVec 18)
  -- identity and boot flash (chapter 15)
  | quote
  | treeReady
  | update (image : Option (List Byte))
  -- register accesses (chapters 00 and 01); `hardware` is what hardware sets or adds in the same cycle (R7)
  | csrWrite (by_ : Port) (addr : Addr) (bytes : Nat) (data : WriteData)
  | csrReadClear (by_ : Port) (addr : Addr) (bytes : Nat) (hardware : Word)
deriving DecidableEq, Repr

end Sys2Proof
end

