-- ==== Sys2Proof/Config.lean ====
section
/-! DEFINITION. What one chip, its board and its fabric fix and the manual does not give, and the free values. None of
the opaque constants has a body: a claim about the model holds whatever they are. -/

namespace Sys2Proof

/-- The contents of the provenance die (Table 15.8). -/
structure Provenance where
  /-- eleven die records of 64 bytes: CD0–CD7, PD0, PD1, PV -/
  dies : List (List Byte)
  serial : Word
  /-- HSS public key of attestation, 60 bytes -/
  attKey : List Byte
  /-- 32-byte seed and 16-byte identifier -/
  seed : List Byte
  /-- the seed's SHA-256, which the signature covers in its place -/
  seedDigest : List Byte
  signature : List Byte
  /-- four sectors of 16-byte journal records, oldest first (R495) -/
  journal : List (List (List Byte))
  /-- the sector that takes the next record -/
  sector : Nat
deriving DecidableEq, Repr, Inhabited

/-- The xSPI boot flash (R499). -/
structure BootFlash where
  /-- 64-byte directory records of the two sectors -/
  dir0 : List (List Byte)
  dir1 : List (List Byte)
  slot0 : List Byte
  slot1 : List Byte
  mib : Nat
deriving DecidableEq, Repr, Inhabited

/-- A DDR channel's module: `none` capacity means no module. -/
structure DdrModule where
  present : Bool
  gib : Nat
  /-- highest rate it supports, MT/s -/
  mts : Nat
  /-- it is an MRDIMM, with ECC, of x4 devices in two 40-bit sub-channels -/
  mrdimm : Bool
  ecc : Bool
  x4 : Bool
  /-- modules on its channel -/
  count : Nat
deriving DecidableEq, Repr, Inhabited

/-- A flash target (R254, R259). -/
structure FlashTarget where
  present : Bool
  /-- 0x01 TLC, 0x02 QLC -/
  cell : Nat
  gib : Nat
  /-- erase blocks, those retired at run time, and the mean erase count in per cent of rated life -/
  blocks : Nat
  bad : Nat
  life : Nat
deriving DecidableEq, Repr, Inhabited

namespace Config

/-- A parity byte of an armature frame's codeword: its number 0 to 2 and the seventeen bytes that it covers. The spec gives no
field or generator for the code (R278, log 192). -/
opaque rsParity : Nat → List (BitVec 8) → BitVec 8

/-- Bytes of an erase block of the flash targets, which the manual does not give (R259). -/
opaque eraseBytes : Nat

/-- The free values: the value that stands wherever the manual leaves a value open, one for each draw. -/
opaque freeValue : Nat → Word

/-- What an undefined sum-buffer entry reads as (R91): by draw and entry. -/
opaque undefSum : Nat → Nat → W32

/-- The checksum record of each fill-pass pattern (R114): not printed in the manual. -/
opaque fillRecord : Nat → BitVec 128

/-- What an undefined byte of a weight set reads as: by draw and byte. -/
opaque undefWeight : Nat → Nat → Byte

/-- What the vector engine and the random-number engine deliver where the manual leaves a value open, or fixes it only to
within some units in the last place: by operation and operands. -/
opaque approx : Nat → Nat → Nat → W32

/-- The sampler's FP32 sum of exp(z − m) over some values z, whose order the manual does not give (R169), and its
logarithm of a sum. -/
opaque smpSum : Nat → List Nat → W32
opaque smpLn : Nat → W32
/-- The sampler's exp of an FP32 value, and gumbel(i) of a uniform (R169). -/
opaque smpExp : Nat → W32
opaque smpGumbel : Nat → W32

/-- The Celdenmark root key in the boot ROM, an HSS public key (R482: not printed in the manual). -/
opaque rootKey : List Byte

/-- What firmware's derivation of the attestation trees from the seed puts into the signature of a message, byte by byte
(R493: neither the derivation nor the randomizers are in the manual). -/
opaque attSig : List Byte → Nat → Byte

/-- What stands in the provenance die as the chip left manufacture. -/
opaque provenance : Provenance

/-- What stands in the boot flash of the board. -/
opaque bootFlash : BootFlash

/-- The 32 DDR modules of the board. -/
opaque ddrModules : List DdrModule

/-- The 64 flash targets of the board: 4 for each channel, FC0 first. -/
opaque flashTargets : List FlashTarget

end Config
end Sys2Proof
end

