-- ==== Sys2Proof/Machine/Bits.lean ====
section
/-! DEFINITION. Bit fields, byte order and small arithmetic that every chapter uses. -/

namespace Sys2Proof.Machine

/-- Bits [hi:lo] of a word as a number. -/
def bits (w : Word) (hi lo : Nat) : Nat := w.toNat / 2 ^ lo % 2 ^ (hi + 1 - lo)

/-- One bit of a word. -/
def bit (w : Word) (i : Nat) : Bool := w.getLsbD i

/-- A number as a 64-bit word, wrapping. -/
abbrev word (n : Nat) : Word := BitVec.ofNat 64 n

/-- A number's bits [hi:lo]. -/
def nbits (n hi lo : Nat) : Nat := n / 2 ^ lo % 2 ^ (hi + 1 - lo)

/-- 1 for true. -/
def b2n (b : Bool) : Nat := if b then 1 else 0

/-- ceil(a / b). -/
def ceilDiv (a b : Nat) : Nat := (a + b - 1) / b

/-- Two's complement of a field of `w` bits. -/
def sgn (w n : Nat) : Int := if n < 2 ^ (w - 1) then (n : Int) else (n : Int) - 2 ^ w

/-- The field of `w` bits that holds an integer, wrapping. -/
def unsgn (w : Nat) (i : Int) : Nat := (i % (2 ^ w : Int)).toNat

/-- Bytes of a number, little-endian (R4). -/
def leBytes : Nat → Nat → List Byte
  | 0, _ => []
  | k + 1, n => BitVec.ofNat 8 n :: leBytes k (n / 256)

/-- The number that little-endian bytes spell. -/
def leNat : List Byte → Nat
  | [] => 0
  | b :: bs => b.toNat + 256 * leNat bs

/-- Split a list into pieces of `n`; `fuel` is at least the number of pieces. -/
def chunks {α : Type} (n : Nat) : Nat → List α → List (List α)
  | 0, _ => []
  | _, [] => []
  | f + 1, l => l.take n :: chunks n f (l.drop n)

/-- 64-bit words of a byte list, little-endian, the last one padded with zeros. -/
def wordsOf (bs : List Byte) : List Word := (chunks 8 bs.length bs).map fun c => word (leNat c)

/-- The bytes of 64-bit words. -/
def bytesOf (ws : List Word) : List Byte := ws.flatMap fun w => leBytes 8 w.toNat

/-- `n` copies of a step. -/
def repeatN {α : Type} (f : α → α) : Nat → α → α
  | 0, a => a
  | n + 1, a => repeatN f n (f a)

/-- Number of 1 bits among the low `w`. -/
def popCount : Nat → Nat → Nat
  | 0, _ => 0
  | w + 1, n => n % 2 + popCount w (n / 2)

/-- Parity of the low `w` bits. -/
def parity (w n : Nat) : Bool := popCount w n % 2 == 1

/-- The numbers below `w` whose bit is 1, ascending. -/
def setBits (w n : Nat) : List Nat := (List.range w).filter fun i => n.testBit i

/-- The mask with the listed bits. -/
def maskOf (l : List Nat) : Nat := l.foldl (fun m i => m ||| 2 ^ i) 0

/-- ceil(log2 n), with 0 for n ≤ 1. -/
def clog2 (n : Nat) : Nat := if n ≤ 1 then 0 else Nat.log2 (n - 1) + 1

/-- The least element by a key, the earliest on a tie. -/
def minBy {α : Type} (key : α → Nat) : List α → Option α
  | [] => none
  | a :: l =>
    match minBy key l with
    | none => some a
    | some b => if key b < key a then some b else some a

/-- Set the element at a position; a position past the end changes nothing. -/
def setAt {α : Type} : List α → Nat → α → List α
  | [], _, _ => []
  | _ :: l, 0, v => v :: l
  | a :: l, n + 1, v => a :: setAt l n v

/-- One bit of the reflected CRC-32C polynomial. -/
def crcBit (c : W32) : W32 := if c.getLsbD 0 then (c >>> 1) ^^^ 0x82F63B78 else c >>> 1

/-- CRC-32C of a byte list. -/
def crc32c (bs : List Byte) : W32 :=
  ~~~ bs.foldl (fun c b => repeatN crcBit 8 (c ^^^ b.setWidth 32)) 0xFFFFFFFF

end Sys2Proof.Machine
end

