-- ==== Sys2Proof/Machine/Fp.lean ====
section
/-! DEFINITION. Number formats and exact arithmetic: values as exact dyadic numbers, one rounding to nearest even at
the end (R98–R107). -/

namespace Sys2Proof.Machine

/-- A floating-point value: (−1)^neg × m × 2^e, an infinity or a NaN. Zeros keep their sign. -/
inductive Fv where
  | nan
  | inf (neg : Bool)
  | fin (neg : Bool) (m : Nat) (e : Int)
deriving DecidableEq, Repr

/-- A binary floating-point format: exponent and mantissa bits and bias; `ieee` formats have infinities and NaNs at the
exponent of all ones, E4M3 has one NaN, E2M1 has neither (Table 03.8). -/
structure Fmt where
  eb : Nat
  mb : Nat
  bias : Nat
  ieee : Bool
  hasNan : Bool
deriving DecidableEq, Repr

namespace Fmt
def e2m1 : Fmt := ⟨2, 1, 1, false, false⟩
def e4m3 : Fmt := ⟨4, 3, 7, false, true⟩
def e5m2 : Fmt := ⟨5, 2, 15, true, true⟩
def fp16 : Fmt := ⟨5, 10, 15, true, true⟩
def bf16 : Fmt := ⟨8, 7, 127, true, true⟩
def fp32 : Fmt := ⟨8, 23, 127, true, true⟩
def fp64 : Fmt := ⟨11, 52, 1023, true, true⟩
end Fmt

/-- The value of an encoding (Table 03.8). -/
def Fmt.dec (f : Fmt) (x : Nat) : Fv :=
  let neg := x / 2 ^ (f.eb + f.mb) % 2 == 1
  let e := x / 2 ^ f.mb % 2 ^ f.eb
  let m := x % 2 ^ f.mb
  if f.ieee && e == 2 ^ f.eb - 1 then (if m = 0 then .inf neg else .nan)
  else if !f.ieee && f.hasNan && e == 2 ^ f.eb - 1 && m == 2 ^ f.mb - 1 then .nan
  else if e = 0 then .fin neg m (1 - (f.bias : Int) - f.mb)
  else .fin neg (2 ^ f.mb + m) ((e : Int) - f.bias - f.mb)

/-- m × 2^e rounded to an integer multiple of 2^q, ties to even. -/
def rneAt (m : Nat) (e q : Int) : Nat :=
  if q ≤ e then m * 2 ^ (e - q).toNat
  else
    let d := 2 ^ (q - e).toNat
    let n := m / d
    let r := m % d
    if 2 * r > d then n + 1 else if 2 * r = d then n + n % 2 else n

/-- The largest finite encoding, sign clear. -/
def Fmt.maxBits (f : Fmt) : Nat :=
  if f.ieee then (2 ^ f.eb - 2) * 2 ^ f.mb + (2 ^ f.mb - 1)
  else if f.hasNan then 2 ^ (f.eb + f.mb) - 2
  else 2 ^ (f.eb + f.mb) - 1

/-- The encoding, sign clear, of m × 2^e rounded to nearest even with the exponent range unbounded above: a result above
`maxBits` lies beyond the format's range (R106). -/
def Fmt.rne (f : Fmt) (m : Nat) (e : Int) : Nat :=
  if m = 0 then 0
  else
    let emin : Int := 1 - (f.bias : Int) - f.mb
    let q := max (e + Nat.log2 m - f.mb) emin
    let n := rneAt m e q
    let (n, q) := if n = 2 ^ (f.mb + 1) then (2 ^ f.mb, q + 1) else (n, q)
    if n < 2 ^ f.mb then n else (q + f.mb + f.bias).toNat * 2 ^ f.mb + (n - 2 ^ f.mb)

/-- The default NaN of a format: sign clear, and for the IEEE-like formats the top mantissa bit alone. -/
def Fmt.nanBits (f : Fmt) : Nat :=
  if f.ieee then (2 ^ f.eb - 1) * 2 ^ f.mb + 2 ^ (f.mb - 1) else 2 ^ (f.eb + f.mb) - 1

/-- Encode with one rounding: beyond the range a result becomes infinity, or the largest finite magnitude where the
format has no infinity or `sat` is set (Table 03.14). -/
def Fmt.enc (f : Fmt) (sat : Bool) (v : Fv) : Nat :=
  let sgnBit (neg : Bool) := b2n neg * 2 ^ (f.eb + f.mb)
  let beyond := if f.ieee && !sat then (2 ^ f.eb - 1) * 2 ^ f.mb else f.maxBits
  match v with
  | .nan => f.nanBits
  | .inf neg => sgnBit neg + beyond
  | .fin neg m e =>
    let x := f.rne m e
    sgnBit neg + (if x > f.maxBits then beyond else x)

namespace Fv

def zero : Fv := .fin false 0 0

def neg : Fv → Fv
  | .nan => .nan
  | .inf s => .inf (!s)
  | .fin s m e => .fin (!s) m e

def abs : Fv → Fv
  | .nan => .nan
  | .inf _ => .inf false
  | .fin _ m e => .fin false m e

def isNan : Fv → Bool
  | .nan => true
  | _ => false

def isFinite : Fv → Bool
  | .fin _ _ _ => true
  | _ => false

/-- Whether the value is a zero of either sign. -/
def isZero : Fv → Bool
  | .fin _ m _ => m == 0
  | _ => false

/-- Exact sum. Opposite infinities give NaN; a sum of opposite finite values is +0, and −0 only from two −0. -/
def add (a b : Fv) : Fv :=
  match a, b with
  | .nan, _ => .nan
  | _, .nan => .nan
  | .inf s, .inf t => if s = t then .inf s else .nan
  | .inf s, _ => .inf s
  | _, .inf t => .inf t
  | .fin s m e, .fin t n g =>
    if m = 0 ∧ n = 0 then .fin (s && t) 0 0
    else
      let q := min e g
      let x : Int := (if s then -1 else 1) * (m * 2 ^ (e - q).toNat : Nat)
      let y : Int := (if t then -1 else 1) * (n * 2 ^ (g - q).toNat : Nat)
      let z := x + y
      .fin (decide (z < 0)) z.natAbs q

def sub (a b : Fv) : Fv := add a b.neg

/-- Exact product; infinity × 0 gives NaN (R102). -/
def mul (a b : Fv) : Fv :=
  match a, b with
  | .nan, _ => .nan
  | _, .nan => .nan
  | .inf s, .inf t => .inf (s != t)
  | .inf s, .fin t n _ => if n = 0 then .nan else .inf (s != t)
  | .fin s m _, .inf t => if m = 0 then .nan else .inf (s != t)
  | .fin s m e, .fin t n g => .fin (s != t) (m * n) (e + g)

/-- Quotient, exact to 128 bits beyond the operands with a sticky bit below, enough for one correct rounding to any
format here. Zero by zero and infinity by infinity give NaN, a finite value by zero gives infinity. -/
def div (a b : Fv) : Fv :=
  match a, b with
  | .nan, _ => .nan
  | _, .nan => .nan
  | .inf _, .inf _ => .nan
  | .inf s, .fin t _ _ => .inf (s != t)
  | .fin s _ _, .inf t => .fin (s != t) 0 0
  | .fin s m e, .fin t n g =>
    if n = 0 then (if m = 0 then .nan else .inf (s != t))
    else if m = 0 then .fin (s != t) 0 0
    else
      let k := 128 + Nat.log2 n
      let x := m * 2 ^ k
      .fin (s != t) (2 * (x / n) + (if x % n = 0 then 0 else 1)) (e - g - k - 1)

/-- Multiply by 2^k. -/
def scale (a : Fv) (k : Int) : Fv :=
  match a with
  | .fin s m e => .fin s m (e + k)
  | v => v

/-- a < b, false when either is a NaN; −0 equals +0. -/
def lt (a b : Fv) : Bool :=
  match a, b with
  | .nan, _ => false
  | _, .nan => false
  | .inf s, .inf t => s && !t
  | .inf s, .fin _ _ _ => s
  | .fin _ _ _, .inf t => !t
  | .fin s m e, .fin t n g =>
    let q := min e g
    let x : Int := (if s then -1 else 1) * (m * 2 ^ (e - q).toNat : Nat)
    let y : Int := (if t then -1 else 1) * (n * 2 ^ (g - q).toNat : Nat)
    decide (x < y)

def eq (a b : Fv) : Bool := !a.isNan && !b.isNan && !lt a b && !lt b a

/-- The value of an integer. -/
def ofInt (i : Int) : Fv := .fin (decide (i < 0)) i.natAbs 0

/-- floor(log2 |v|) of a finite non-zero value. -/
def exponent : Fv → Int
  | .fin _ m e => e + Nat.log2 m
  | _ => 0

/-- The value rounded to a format. -/
def round (f : Fmt) (v : Fv) : Fv := f.dec (f.enc false v)

/-- Rounded to an integer, ties to even; NaN and infinities have none. -/
def toInt (v : Fv) : Option Int :=
  match v with
  | .fin s m e =>
    let n : Int := rneAt m e 0
    some (if s then -n else n)
  | _ => none

end Fv

/-- The integer square root, by bits from the top. -/
def isqrtGo (n : Nat) : Nat → Nat → Nat
  | 0, r => r
  | k + 1, r => isqrtGo n k (if (r + 2 ^ k) * (r + 2 ^ k) ≤ n then r + 2 ^ k else r)

def isqrt (n : Nat) : Nat := isqrtGo n (Nat.log2 n / 2 + 1) 0

/-- Square root, with a sticky bit for one correct rounding; a negative value other than −0 gives NaN. -/
def Fv.sqrt : Fv → Fv
  | .nan => .nan
  | .inf s => if s then .nan else .inf false
  | .fin s m e =>
    if m = 0 then .fin s 0 0
    else if s then .nan
    else
      let (m, e) := if e % 2 = 0 then (m, e) else (2 * m, e - 1)
      let x := m * 2 ^ 256
      let r := isqrt x
      .fin false (2 * r + (if r * r = x then 0 else 1)) (e / 2 - 129)

/-! FP32 and FP64 on encodings, each operation with one RNE. -/

def f32 (x : Nat) : Fv := Fmt.fp32.dec x
def f32enc (v : Fv) : Nat := Fmt.fp32.enc false v
def f32add (a b : Nat) : Nat := f32enc ((f32 a).add (f32 b))
def f32sub (a b : Nat) : Nat := f32enc ((f32 a).sub (f32 b))
def f32mul (a b : Nat) : Nat := f32enc ((f32 a).mul (f32 b))
def f32div (a b : Nat) : Nat := f32enc ((f32 a).div (f32 b))
def f32sqrt (a : Nat) : Nat := f32enc (f32 a).sqrt
/-- a × b + c with one rounding -/
def f32fma (a b c : Nat) : Nat := f32enc (((f32 a).mul (f32 b)).add (f32 c))
def f32ofInt (i : Int) : Nat := f32enc (.ofInt i)

def f64add (a b : Nat) : Nat := Fmt.fp64.enc false ((Fmt.fp64.dec a).add (Fmt.fp64.dec b))
def f64ofF32 (a : Nat) : Nat := Fmt.fp64.enc false (f32 a)
def f32ofF64 (a : Nat) : Nat := f32enc (Fmt.fp64.dec a)

/-- The greater of two values, +0 above −0, a NaN operand giving NaN (R102). -/
def Fv.max (a b : Fv) : Fv :=
  if a.isNan || b.isNan then .nan
  else if a.isZero && b.isZero then (match a with
    | .fin true _ _ => b
    | v => v)
  else if a.lt b then b else a

/-- The lesser, −0 below +0. -/
def Fv.min (a b : Fv) : Fv := (Fv.max a.neg b.neg).neg

def f32max (a b : Nat) : Nat := f32enc ((f32 a).max (f32 b))
def f32min (a b : Nat) : Nat := f32enc ((f32 a).min (f32 b))

end Sys2Proof.Machine
end

