-- ==== Sys2Proof/Machine/Approx.lean ====
section
/-! DEFINITION. Exponentials, logarithms and circular functions in fixed point, and results that the manual fixes only to
within some units in the last place (R157, R176). -/

namespace Sys2Proof.Machine

/-- One in fixed point. -/
def fxOne : Nat := 2 ^ 128
def fxLn2 : Nat := 235865763225513294137944142764154484399
def fxLog2e : Nat := 490923683258796565746369346286093237522
def fxPi : Nat := 1069028584064966747859680373161870783300

/-- A finite value in fixed point, rounded down. -/
def fxOf : Fv → Int
  | .fin s m e =>
    let n : Nat := if 0 ≤ e + 128 then m * 2 ^ (e + 128).toNat else m / 2 ^ (-(e + 128)).toNat
    if s then -(n : Int) else n
  | _ => 0

/-- The sum of x^n / n! from the n-th term on. -/
def expTerms : Nat → Nat → Nat → Nat → Nat
  | 0, _, _, _ => 0
  | fuel + 1, n, x, t => t + expTerms fuel (n + 1) x (t * x / fxOne / (n + 1))

/-- 2^t for t in fixed point. -/
def exp2Fx (t : Int) : Fv :=
  let k := t / (fxOne : Int)
  let f := (t % (fxOne : Int)).toNat
  .fin false (expTerms 40 0 (f * fxLn2 / fxOne) fxOne) (k - 128)

/-- 2^y for |y| < 4,096, to more than 100 bits. -/
def exp2Fv (y : Fv) : Fv := exp2Fx (fxOf y)

/-- e^y for |y| < 4,096, to more than 100 bits. -/
def expFv (y : Fv) : Fv := exp2Fx (fxOf y * (fxLog2e : Int) / (fxOne : Int))

/-- z + z³/3 + z⁵/5 + …, from the n-th power on. -/
def atanhTerms : Nat → Nat → Int → Int → Int
  | 0, _, _, _ => 0
  | fuel + 1, n, z, t => t / (n : Int) + atanhTerms fuel (n + 2) z (t * z / (fxOne : Int) * z / (fxOne : Int))

/-- The natural logarithm of a positive finite value, in fixed point. -/
def lnFx (v : Fv) : Int :=
  match v with
  | .fin _ m e =>
    let l := Nat.log2 m
    let x : Nat := m * 2 ^ 128 / 2 ^ l
    let k : Int := e + l
    let (x, k) := if 3 * fxOne < 2 * x then (x / 2, k + 1) else (x, k)
    let z : Int := ((x : Int) - fxOne) * fxOne / ((x : Int) + fxOne)
    k * (fxLn2 : Int) + 2 * atanhTerms 40 1 z z
  | _ => 0

/-- A fixed-point number as a value. -/
def fvOfFx (x : Int) : Fv := .fin (decide (x < 0)) x.natAbs (-128)

def lnFv (v : Fv) : Fv := fvOfFx (lnFx v)
def log2Fv (v : Fv) : Fv := fvOfFx (lnFx v * (fxLog2e : Int) / (fxOne : Int))

/-- The alternating series of the cosine (from n = 0) or the sine (from n = 1) of x. -/
def circTerms : Nat → Nat → Int → Int → Int
  | 0, _, _, _ => 0
  | fuel + 1, n, x, t =>
    t + circTerms fuel (n + 2) x (-(t * x / (fxOne : Int) * x / (fxOne : Int) / (((n + 1) * (n + 2) : Nat) : Int)))

/-- cos 2πu and sin 2πu for u in [0, 1), reduced to [−π, π). -/
def angleFx (u : Fv) : Int :=
  let t := fxOf u
  let t := if (fxOne : Int) ≤ 2 * t then t - fxOne else t
  t * (2 * fxPi : Nat) / (fxOne : Int)
def cosTurns (u : Fv) : Fv := fvOfFx (circTerms 40 0 (angleFx u) fxOne)
def sinTurns (u : Fv) : Fv := fvOfFx (circTerms 40 1 (angleFx u) (angleFx u))

/-- A unit in the last place of FP32 at a value. -/
def ulp32 (v : Fv) : Fv := .fin false 1 (max (v.exponent - 23) (-149))

/-- An FP32 result fixed to within `n` units in the last place of a value: the free value where it lies within, and the
correctly rounded value where it does not. -/
def within (n : Nat) (free : W32) (v : Fv) : Nat :=
  let c := f32 free.toNat
  let d := (c.sub v).abs
  if c.isFinite && !(Fv.lt ((ulp32 v).mul (Fv.ofInt n)) d) then free.toNat else f32enc v

end Sys2Proof.Machine
end

