-- ==== Sys2Proof/Machine/Cells.lean ====
section
/-! DEFINITION. Sparse contents in one canonical form: keys rise strictly and no entry equals what an unlisted key
reads as, so equal contents are equal data. -/

namespace Sys2Proof.Machine

variable {α : Type}

/-- The contents at a key; `d` is what an unlisted key reads as. -/
def cget (d : Nat → α) : Cells α → Nat → α
  | [], k => d k
  | (k', v) :: c, k => if k = k' then v else cget d c k

/-- List a value under a key. -/
def cput : Cells α → Nat → α → Cells α
  | [], k, v => [(k, v)]
  | (k', v') :: c, k, v =>
    if k < k' then (k, v) :: (k', v') :: c else if k = k' then (k, v) :: c else (k', v') :: cput c k v

/-- Take a key out. -/
def cdel : Cells α → Nat → Cells α
  | [], _ => []
  | (k', v') :: c, k => if k = k' then cdel c k else (k', v') :: cdel c k

/-- Write a value: writing what an unlisted key reads as takes the entry out. -/
def cset [DecidableEq α] (d : Nat → α) (c : Cells α) (k : Nat) (v : α) : Cells α :=
  if v = d k then cdel c k else cput c k v

/-- The canonical form. -/
def cwf [DecidableEq α] (d : Nat → α) : Cells α → Bool
  | [] => true
  | [(k, v)] => decide (v ≠ d k)
  | (k, v) :: (k', v') :: c => decide (v ≠ d k) && decide (k < k') && cwf d ((k', v') :: c)

end Sys2Proof.Machine
end

