-- ==== Sys2Proof/Machine/Sha.lean ====
section
/-! DEFINITION. SHA-256, the digest of images, provenance records, flash objects and bundles (R186, R485, R498), over natural
numbers below 2^32. -/

namespace Sys2Proof.Machine

/-- The first 32 fraction bits of the cube roots of the first 64 primes, that of 2 at the top. -/
def shaCubeRoots : Nat :=
  [0x428a2f9871374491b5c0fbcfe9b5dba53956c25b59f111f1923f82a4ab1c5ed5,
   0xd807aa9812835b01243185be550c7dc372be5d7480deb1fe9bdc06a7c19bf174,
   0xe49b69c1efbe47860fc19dc6240ca1cc2de92c6f4a7484aa5cb0a9dc76f988da,
   0x983e5152a831c66db00327c8bf597fc7c6e00bf3d5a7914706ca635114292967,
   0x27b70a852e1b21384d2c6dfc53380d13650a7354766a0abb81c2c92e92722c85,
   0xa2bfe8a1a81a664bc24b8b70c76c51a3d192e819d6990624f40e3585106aa070,
   0x19a4c1161e376c082748774c34b0bcb5391c0cb34ed8aa4a5b9cca4f682e6ff3,
   0x748f82ee78a5636f84c878148cc7020890befffaa4506cebbef9a3f7c67178f2].foldl (fun n x => n * 2 ^ 256 + x) 0

/-- The first 32 fraction bits of the square roots of the first eight primes, that of 2 at the top. -/
def shaSquareRoots : Nat := 0x6a09e667bb67ae853c6ef372a54ff53a510e527f9b05688c1f83d9ab5be0cd19

/-- Field `i` from the top of `n` fields of 32 bits. -/
def field32 (n x i : Nat) : Nat := x / 2 ^ (32 * (n - 1 - i)) % 2 ^ 32

/-- Turn a 32-bit number right. -/
def turn32 (k x : Nat) : Nat := x / 2 ^ k + x % 2 ^ k * 2 ^ (32 - k)

/-- The mixing of one word of the schedule: two turns and a shift. -/
def shaMix (i j k x : Nat) : Nat := turn32 i x ^^^ turn32 j x ^^^ x / 2 ^ k

/-- The mixing of one working variable: three turns. -/
def shaTurns (i j k x : Nat) : Nat := turn32 i x ^^^ turn32 j x ^^^ turn32 k x

/-- The running hash, and the working variables of a block. -/
structure ShaVars where
  a : Nat
  b : Nat
  c : Nat
  d : Nat
  e : Nat
  f : Nat
  g : Nat
  h : Nat

/-- Where bit i of `x` is 1, bit i of `y`, else that of `z`. -/
def pick32 (x y z : Nat) : Nat := (x &&& y) + ((2 ^ 32 - 1 - x) &&& z)

/-- The working variables after a round with word `w` and constant `k`. -/
def ShaVars.round (v : ShaVars) (w k : Nat) : ShaVars :=
  let p := v.h + shaTurns 6 11 25 v.e + pick32 v.e v.f v.g + k + w
  let q := shaTurns 2 13 22 v.a + pick32 (v.b ^^^ v.c) v.a v.b
  { a := (p + q) % 2 ^ 32, b := v.a, c := v.b, d := v.c, e := (v.d + p) % 2 ^ 32, f := v.e, g := v.f, h := v.g }

/-- The rounds that are left, over the sixteen words that come next in the schedule. -/
def ShaVars.rounds : Nat → List Nat → ShaVars → ShaVars
  | 0, _, v => v
  | n + 1, ws, v =>
    let w := ws.headD 0
    let next := (w + shaMix 7 18 3 (ws.getD 1 0) + ws.getD 9 0 + shaMix 17 19 10 (ws.getD 14 0)) % 2 ^ 32
    ShaVars.rounds n (ws.drop 1 ++ [next]) (v.round w (field32 64 shaCubeRoots (63 - n)))

/-- Fold a block of 64 bytes in. -/
def ShaVars.block (v : ShaVars) (bs : List Byte) : ShaVars :=
  let u := ShaVars.rounds 64 ((chunks 4 16 bs).map fun c => leNat c.reverse) v
  let add (x y : Nat) : Nat := (x + y) % 2 ^ 32
  { a := add v.a u.a, b := add v.b u.b, c := add v.c u.c, d := add v.d u.d,
    e := add v.e u.e, f := add v.f u.f, g := add v.g u.g, h := add v.h u.h }

def ShaVars.start : ShaVars :=
  let x := field32 8 shaSquareRoots
  { a := x 0, b := x 1, c := x 2, d := x 3, e := x 4, f := x 5, g := x 6, h := x 7 }

/-- The 32 bytes of the hash, each variable's top byte first. -/
def ShaVars.bytes (v : ShaVars) : List Byte :=
  [v.a, v.b, v.c, v.d, v.e, v.f, v.g, v.h].flatMap fun x => (leBytes 4 x).reverse

/-- A message with its padding: a 1 bit, zeros, and its length in bits at the end of a block. -/
def shaPadded (bs : List Byte) : List Byte :=
  bs ++ 0x80 :: List.replicate ((119 - bs.length % 64) % 64) 0 ++ (leBytes 8 (bs.length * 8)).reverse

/-- SHA-256 of a byte list, 32 bytes. -/
def sha256 (bs : List Byte) : List Byte :=
  let l := shaPadded bs
  ((chunks 64 l.length l).foldl ShaVars.block ShaVars.start).bytes

end Sys2Proof.Machine
end

