-- ==== Sys2Proof/Machine/Regs.lean ====
section
/-! DEFINITION. The control-and-status registers: the address of each block (R33, R35, R37), every field of every
field map with its access code (R6), and what each register holds after reset (R4). -/

namespace Sys2Proof.Machine

/-- Access codes, Table 00.5. -/
inductive Acc where
  | rw | ro | wo | w1c | rc | rwi
deriving DecidableEq, Repr

/-- A field of a register, or of `num` like registers `step` bytes apart, at an offset of its block. -/
structure Fld where
  off : Nat
  lo : Nat
  w : Nat
  acc : Acc
  num : Nat := 1
  step : Nat := 8
  /-- the field map marks it host-writable (R40) -/
  host : Bool := false
deriving DecidableEq, Repr

/-- The field's value in a register's word. -/
def Fld.get (f : Fld) (r : Word) : Nat := r.toNat / 2 ^ f.lo % 2 ^ f.w

/-- The word with the field set; a value too large for the field loses its high bits. -/
def Fld.put (f : Fld) (r : Word) (v : Nat) : Word :=
  BitVec.ofNat 64 (r.toNat / 2 ^ (f.lo + f.w) * 2 ^ (f.lo + f.w) + v % 2 ^ f.w * 2 ^ f.lo + r.toNat % 2 ^ f.lo)

/-- Offset in control-and-status space of a unit's block (R35). -/
def csr (unit blk : Nat) : Nat := unit * 0x1000000 + blk * 0x10000

/-- Unit number of a die (Table 01.10): 0–7 the compute dies, 0x10 and 0x11 the plinth dies. -/
def unitOf (u : UnitNo) : Nat := if u.val < 8 then u.val else 0x10 + (u.val - 8)

namespace Base
def dieId (d : Nat) : Nat := csr d 0x00
def hubId (p : Nat) : Nat := csr (0x10 + p) 0x00
/-- the ARMATURE block of either kind of die -/
def armature (unit : Nat) : Nat := csr unit 0x01
def device : Nat := csr 0x1F 0x00
def requests : Nat := csr 0x1F 0x01
def contexts : Nat := csr 0x1F 0x02
def phase : Nat := csr 0x1F 0x03
def sealBlk : Nat := csr 0x1F 0x04
def core (d c : Nat) : Nat := csr d 0x02 + c * 0x400
def pageMap (d : Nat) : Nat := csr d 0x03
def pointing (d e : Nat) : Nat := csr d 0x04 + e * 0x100
/-- engine 0 sampler, 1 random-number, 2 finishing, 3 check, 4 and 5 the pointing engines -/
def engine (d e : Nat) : Nat := if e < 4 then csr d (0x05 + e) else pointing d (e - 4)
def dma (d : Nat) : Nat := csr d 0x09
def cachePart (d : Nat) : Nat := csr d 0x0A
def coreBind (d : Nat) : Nat := csr d 0x0E
def ddr (c : Nat) : Nat := csr (0x10 + c / 16) 0x10 + c % 16 * 0x1000
def tier (p : Nat) : Nat := csr (0x10 + p) 0x11
def flash (p : Nat) : Nat := csr (0x10 + p) 0x12
def peerLink (l : Nat) : Nat := csr (0x10 + l / 12) 0x13 + l % 12 * 0x1000
def collective (p : Nat) : Nat := csr (0x10 + p) 0x14
def umajo : Nat := csr 0x10 0x15
def boot : Nat := csr 0x10 0x16
def identity : Nat := csr 0x10 0x17
def hubBind (p : Nat) : Nat := csr (0x10 + p) 0x1B
def linkFault (p : Nat) : Nat := csr (0x10 + p) 0x1C
def clock (u : Nat) : Nat := if u < 8 then csr u 0x0B else csr u 0x18
def power (u : Nat) : Nat := if u < 8 then csr u 0x0C else csr u 0x19
def errors (u : Nat) : Nat := if u < 8 then csr u 0x0D else csr u 0x1A
end Base

namespace Reg

/-! Tables 01.15–01.18 -/

def dieState : Fld := { off := 0x0000, lo := 56, w := 8, acc := .ro }
def dieStep : Fld := { off := 0x0000, lo := 48, w := 8, acc := .ro }
def enabledCount : Fld := { off := 0x0000, lo := 32, w := 8, acc := .ro }
def dieType : Fld := { off := 0x0000, lo := 4, w := 4, acc := .ro }
def dieNum : Fld := { off := 0x0000, lo := 0, w := 4, acc := .ro }
def corePos : Fld := { off := 0x0008, lo := 0, w := 64, acc := .ro, num := 6 }
def spare1 : Fld := { off := 0x0038, lo := 8, w := 8, acc := .ro }
def spare0 : Fld := { off := 0x0038, lo := 0, w := 8, acc := .ro }
def coreOk : Fld := { off := 0x0040, lo := 0, w := 48, acc := .ro }

/-! Table 01.19 -/

def hubState : Fld := { off := 0x0000, lo := 56, w := 8, acc := .ro }
def hubStep : Fld := { off := 0x0000, lo := 48, w := 8, acc := .ro }
def ddrPresent : Fld := { off := 0x0000, lo := 32, w := 16, acc := .ro }
def linkPresent : Fld := { off := 0x0000, lo := 20, w := 12, acc := .ro }
def flashPresent : Fld := { off := 0x0000, lo := 12, w := 8, acc := .ro }
def hostSide : Fld := { off := 0x0000, lo := 8, w := 1, acc := .ro }
def hubType : Fld := { off := 0x0000, lo := 4, w := 4, acc := .ro }
def hubNum : Fld := { off := 0x0000, lo := 0, w := 4, acc := .ro }

/-! Table 02.14 -/

def overrunMask : Fld := { off := 0x0000, lo := 0, w := 48, acc := .w1c, host := true }
def overrunCount : Fld := { off := 0x0008, lo := 32, w := 32, acc := .rc }
def abortCount : Fld := { off := 0x0008, lo := 0, w := 32, acc := .rc }
def edgeOffset : Fld := { off := 0x0010, lo := 0, w := 16, acc := .ro }

/-! Table 02.15 -/

def lockLosses : Fld := { off := 0x0000, lo := 32, w := 16, acc := .rc }
def parentLink : Fld := { off := 0x0000, lo := 16, w := 5, acc := .ro }
def correction : Fld := { off := 0x0000, lo := 0, w := 16, acc := .ro }
def armDiscarded : Fld := { off := 0x0008, lo := 32, w := 32, acc := .rc }
def armForwarded : Fld := { off := 0x0008, lo := 0, w := 32, acc := .rc }
def linkDelay : Fld := { off := 0x0100, lo := 0, w := 16, acc := .ro, num := 12 }

/-! Tables 02.10–02.12, 15.12 -/

def masterNum : Fld := { off := 0x0000, lo := 48, w := 12, acc := .ro }
def devNum : Fld := { off := 0x0000, lo := 36, w := 12, acc := .ro }
def lag : Fld := { off := 0x0000, lo := 35, w := 1, acc := .ro }
def isMaster : Fld := { off := 0x0000, lo := 34, w := 1, acc := .ro }
def locked : Fld := { off := 0x0000, lo := 33, w := 1, acc := .ro }
def throttleLevel : Fld := { off := 0x0000, lo := 8, w := 4, acc := .ro }
def devState : Fld := { off := 0x0000, lo := 0, w := 4, acc := .ro }
def strokeCount : Fld := { off := 0x0008, lo := 0, w := 64, acc := .ro }
def schedPos : Fld := { off := 0x0010, lo := 0, w := 64, acc := .ro }
def budget : Fld := { off := 0x0018, lo := 32, w := 16, acc := .ro }
def sealWait : Fld := { off := 0x0018, lo := 24, w := 8, acc := .ro }
def frameLog2 : Fld := { off := 0x0018, lo := 16, w := 4, acc := .ro }
def strokeUs : Fld := { off := 0x0018, lo := 0, w := 7, acc := .ro }
def idleCount : Fld := { off := 0x0020, lo := 32, w := 32, acc := .ro }
def slipCount : Fld := { off := 0x0020, lo := 0, w := 32, acc := .ro }
def imgSeq : Fld := { off := 0x0100, lo := 32, w := 32, acc := .ro }
def imgFw : Fld := { off := 0x0100, lo := 0, w := 32, acc := .ro }
def fiAllow : Fld := { off := 0x0108, lo := 0, w := 1, acc := .ro }
def imgDigest : Fld := { off := 0x0110, lo := 0, w := 64, acc := .ro, num := 4 }
def fabricDigest : Fld := { off := 0x0130, lo := 0, w := 64, acc := .ro, num := 4 }
def fabDevices : Fld := { off := 0x0150, lo := 40, w := 12, acc := .ro }
def fabHops : Fld := { off := 0x0150, lo := 32, w := 8, acc := .ro }
def floodNs : Fld := { off := 0x0150, lo := 16, w := 16, acc := .ro }

/-! Table 02.13 -/

def nextSeq : Fld := { off := 0x0000, lo := 32, w := 32, acc := .ro, num := 16, step := 0x20 }
def lastSealed : Fld := { off := 0x0000, lo := 0, w := 32, acc := .ro, num := 16, step := 0x20 }
def lastStatus : Fld := { off := 0x0008, lo := 48, w := 8, acc := .ro, num := 16, step := 0x20 }
def lastKind : Fld := { off := 0x0008, lo := 46, w := 2, acc := .ro, num := 16, step := 0x20 }
def repeats : Fld := { off := 0x0008, lo := 32, w := 8, acc := .ro, num := 16, step := 0x20 }
def lastReason : Fld := { off := 0x0008, lo := 0, w := 16, acc := .ro, num := 16, step := 0x20 }
def sealStroke : Fld := { off := 0x0010, lo := 0, w := 64, acc := .ro, num := 16, step := 0x20 }
def voidCount : Fld := { off := 0x0018, lo := 32, w := 32, acc := .rc, num := 16, step := 0x20 }
def sealCount : Fld := { off := 0x0018, lo := 0, w := 32, acc := .rc, num := 16, step := 0x20 }

/-! Tables 04.15, 03.18, 03.19 -/

def seqState : Fld := { off := 0x0000, lo := 56, w := 4, acc := .ro }
def seqCtx : Fld := { off := 0x0000, lo := 52, w := 4, acc := .ro }
def seqSlot : Fld := { off := 0x0000, lo := 32, w := 16, acc := .ro }
def seqPc : Fld := { off := 0x0000, lo := 16, w := 12, acc := .ro }
def lastEnd : Fld := { off := 0x0000, lo := 0, w := 16, acc := .ro }
def blocks : Fld := { off := 0x0008, lo := 32, w := 32, acc := .rc }
def lateIssue : Fld := { off := 0x0008, lo := 0, w := 32, acc := .rc }
def malformed : Fld := { off := 0x0010, lo := 56, w := 8, acc := .rc }
def missedSlots : Fld := { off := 0x0010, lo := 48, w := 8, acc := .rc }
def lastCause : Fld := { off := 0x0010, lo := 44, w := 4, acc := .ro }
def lastPc : Fld := { off := 0x0010, lo := 28, w := 12, acc := .ro }
def evcSat : Fld := { off := 0x0010, lo := 16, w := 12, acc := .rc }
def headSlot : Fld := { off := 0x0018, lo := 32, w := 16, acc := .ro }
def slotDepth : Fld := { off := 0x0018, lo := 0, w := 6, acc := .ro }
def slotIn : Fld := { off := 0x0020, lo := 0, w := 64, acc := .wo, num := 4 }
def param : Fld := { off := 0x0040, lo := 0, w := 32, acc := .ro, num := 8 }
def evc : Fld := { off := 0x0080, lo := 0, w := 24, acc := .rw, num := 16 }
def collGroup : Fld := { off := 0x0100, lo := 0, w := 48, acc := .rw, num := 4 }
def chLastStatus : Fld := { off := 0x0200, lo := 56, w := 8, acc := .ro, num := 4, step := 0x20 }
def chState : Fld := { off := 0x0200, lo := 48, w := 4, acc := .ro, num := 4, step := 0x20 }
def chCarry : Fld := { off := 0x0200, lo := 47, w := 1, acc := .ro, num := 4, step := 0x20 }
def chPc : Fld := { off := 0x0200, lo := 0, w := 20, acc := .ro, num := 4, step := 0x20 }
def chBase : Fld := { off := 0x0208, lo := 0, w := 32, acc := .ro, num := 4, step := 0x20 }
def chBytes : Fld := { off := 0x0210, lo := 0, w := 64, acc := .rc, num := 4, step := 0x20 }
def chNarrow : Fld := { off := 0x0218, lo := 32, w := 32, acc := .rc, num := 4, step := 0x20 }
def chRequests : Fld := { off := 0x0218, lo := 0, w := 32, acc := .rc, num := 4, step := 0x20 }
def fillPasses : Fld := { off := 0x0380, lo := 40, w := 24, acc := .rc, num := 8, step := 0x10 }
def failCount : Fld := { off := 0x0380, lo := 32, w := 8, acc := .rc, num := 8, step := 0x10 }
def lastFailPat : Fld := { off := 0x0380, lo := 28, w := 4, acc := .ro, num := 8, step := 0x10 }
def nextPat : Fld := { off := 0x0380, lo := 24, w := 4, acc := .ro, num := 8, step := 0x10 }
def withdrawn : Fld := { off := 0x0380, lo := 8, w := 1, acc := .ro, num := 8, step := 0x10 }
def arrMode : Fld := { off := 0x0380, lo := 0, w := 3, acc := .ro, num := 8, step := 0x10 }
def issueKcyc : Fld := { off := 0x0388, lo := 42, w := 22, acc := .rc, num := 8, step := 0x10 }
def fillKcyc : Fld := { off := 0x0388, lo := 20, w := 22, acc := .rc, num := 8, step := 0x10 }
def gatedKcyc : Fld := { off := 0x0388, lo := 0, w := 20, acc := .rc, num := 8, step := 0x10 }

/-! Table 04.17 -/

def runaheadDrops : Fld := { off := 0x0000, lo := 32, w := 32, acc := .rc }
def staleRefetch : Fld := { off := 0x0000, lo := 0, w := 32, acc := .rc }
def dmaStatus : Fld := { off := 0x0008, lo := 56, w := 8, acc := .ro }
def dmaCore : Fld := { off := 0x0008, lo := 50, w := 6, acc := .ro }
def dmaCh : Fld := { off := 0x0008, lo := 48, w := 2, acc := .ro }
def dmaAddr : Fld := { off := 0x0008, lo := 0, w := 48, acc := .ro }
def dmaErrors : Fld := { off := 0x0010, lo := 0, w := 32, acc := .rc }

/-! Table 05.11 -/

def engLastStatus : Fld := { off := 0x0000, lo := 56, w := 8, acc := .ro }
def engState : Fld := { off := 0x0000, lo := 52, w := 4, acc := .ro }
def engCtx : Fld := { off := 0x0000, lo := 48, w := 4, acc := .ro }
def engSlot : Fld := { off := 0x0000, lo := 32, w := 16, acc := .ro }
def engDepth : Fld := { off := 0x0000, lo := 0, w := 7, acc := .ro }
def engJobs : Fld := { off := 0x0008, lo := 32, w := 32, acc := .rc }
def engOverruns : Fld := { off := 0x0008, lo := 16, w := 16, acc := .rc }
def engMissed : Fld := { off := 0x0008, lo := 0, w := 16, acc := .rc }
def jobIn : Fld := { off := 0x0010, lo := 0, w := 64, acc := .wo, num := 4 }

/-! Table 05.12 -/

def smpTokens : Fld := { off := 0x0040, lo := 32, w := 32, acc := .rc }
def smpTruncated : Fld := { off := 0x0040, lo := 0, w := 32, acc := .rc }

/-! Table 05.12 -/

def seed : Fld := { off := 0x0100, lo := 0, w := 60, acc := .rw, num := 16 }

/-! Table 05.12 -/

def finSkipped : Fld := { off := 0x0040, lo := 48, w := 16, acc := .rc }
def finNonfinite : Fld := { off := 0x0040, lo := 0, w := 48, acc := .rc }

/-! Table 05.12 -/

def chkDisagree : Fld := { off := 0x0040, lo := 32, w := 32, acc := .rc }
def chkCorrected : Fld := { off := 0x0040, lo := 0, w := 32, acc := .rc }
def chkStatus : Fld := { off := 0x0048, lo := 56, w := 8, acc := .ro }
def chkAddr : Fld := { off := 0x0048, lo := 0, w := 48, acc := .ro }

/-! Table 11.11 -/

def ptTiles : Fld := { off := 0x0040, lo := 32, w := 32, acc := .rc }
def ptChunks : Fld := { off := 0x0040, lo := 0, w := 32, acc := .rc }
def ptSaturated : Fld := { off := 0x0048, lo := 32, w := 32, acc := .rc }
def ptScanned : Fld := { off := 0x0048, lo := 0, w := 32, acc := .rc }

/-! Tables 06.8, 06.9 -/

def mapInUse : Fld := { off := 0x0000, lo := 32, w := 17, acc := .ro }
def mapVictims : Fld := { off := 0x0000, lo := 16, w := 7, acc := .ro }
def mapLookups : Fld := { off := 0x0008, lo := 32, w := 32, acc := .rc }
def mapNotRes : Fld := { off := 0x0008, lo := 0, w := 32, acc := .rc }
def appendRows : Fld := { off := 0x0010, lo := 32, w := 32, acc := .rc }
def appendMiss : Fld := { off := 0x0010, lo := 0, w := 32, acc := .rc }
def skipSkipped : Fld := { off := 0x0018, lo := 32, w := 32, acc := .rc }
def skipCheckFail : Fld := { off := 0x0018, lo := 16, w := 16, acc := .rc }
def skipFullPass : Fld := { off := 0x0018, lo := 0, w := 16, acc := .rc }
def mapW : Fld := { off := 0x0020, lo := 0, w := 64, acc := .rw, num := 2 }
def mapOp : Fld := { off := 0x0030, lo := 60, w := 4, acc := .wo }
def mapCmdIndex : Fld := { off := 0x0030, lo := 0, w := 17, acc := .wo }
def mapStatus : Fld := { off := 0x0038, lo := 56, w := 8, acc := .ro }
def mapIndex : Fld := { off := 0x0038, lo := 0, w := 17, acc := .ro }
def mapR : Fld := { off := 0x0040, lo := 0, w := 64, acc := .ro, num := 2 }
def pgFmt : Fld := { off := 0x0100, lo := 56, w := 4, acc := .rwi, num := 16, step := 0x10 }
def pgDim32 : Fld := { off := 0x0100, lo := 52, w := 4, acc := .rwi, num := 16, step := 0x10 }
def pgHeads : Fld := { off := 0x0100, lo := 47, w := 5, acc := .rwi, num := 16, step := 0x10 }
def pgLayers : Fld := { off := 0x0100, lo := 39, w := 8, acc := .rwi, num := 16, step := 0x10 }
def pgTopClass : Fld := { off := 0x0100, lo := 35, w := 4, acc := .rwi, num := 16, step := 0x10 }
def pgSumMin : Fld := { off := 0x0100, lo := 31, w := 4, acc := .rwi, num := 16, step := 0x10 }
def pgRun : Fld := { off := 0x0100, lo := 23, w := 8, acc := .rwi, num := 16, step := 0x10 }
def skipEn : Fld := { off := 0x0108, lo := 63, w := 1, acc := .rwi, num := 16, step := 0x10 }
def epsLog2 : Fld := { off := 0x0108, lo := 58, w := 5, acc := .rwi, num := 16, step := 0x10 }
def keepCore : Fld := { off := 0x0108, lo := 52, w := 6, acc := .rwi, num := 16, step := 0x10 }
def fixupCore : Fld := { off := 0x0108, lo := 46, w := 6, acc := .rwi, num := 16, step := 0x10 }
def quotaUsed : Fld := { off := 0x0200, lo := 32, w := 17, acc := .ro, num := 16 }
def quotaLimit : Fld := { off := 0x0200, lo := 0, w := 17, acc := .rw, num := 16 }

/-! Table 07.13 -/

def cpWays : Fld := { off := 0x0000, lo := 0, w := 16, acc := .rw, num := 16 }
def cpHits : Fld := { off := 0x0080, lo := 32, w := 32, acc := .rc }
def cpMisses : Fld := { off := 0x0080, lo := 0, w := 32, acc := .rc }
def cpEpochMiss : Fld := { off := 0x0088, lo := 0, w := 32, acc := .rc }

/-! Table 07.14 -/

def ddrState : Fld := { off := 0x0000, lo := 56, w := 8, acc := .ro }
def ddrSpeed : Fld := { off := 0x0000, lo := 48, w := 8, acc := .ro }
def ddrCapGib : Fld := { off := 0x0000, lo := 32, w := 16, acc := .ro }
def retrainLimit : Fld := { off := 0x0000, lo := 16, w := 16, acc := .rw }
def ddrRetrains : Fld := { off := 0x0000, lo := 0, w := 16, acc := .rc }
def ddrCorrected : Fld := { off := 0x0008, lo := 32, w := 32, acc := .rc }
def ddrUncorr : Fld := { off := 0x0008, lo := 16, w := 16, acc := .rc }
def ddrPoisoned : Fld := { off := 0x0008, lo := 0, w := 16, acc := .rc }
def ddrStale : Fld := { off := 0x0010, lo := 32, w := 32, acc := .rc }
def scrubGib : Fld := { off := 0x0010, lo := 0, w := 32, acc := .rc }
def ddrRdMib : Fld := { off := 0x0018, lo := 32, w := 32, acc := .rc }
def ddrWrMib : Fld := { off := 0x0018, lo := 0, w := 32, acc := .rc }
def ddrErrStatus : Fld := { off := 0x0020, lo := 56, w := 8, acc := .ro }
def ddrErrAddr : Fld := { off := 0x0020, lo := 0, w := 48, acc := .ro }

/-! Table 07.15 -/

def segData : Fld := { off := 0x0000, lo := 0, w := 64, acc := .rw }
def segOp : Fld := { off := 0x0008, lo := 60, w := 4, acc := .wo }
def segSeg : Fld := { off := 0x0008, lo := 0, w := 13, acc := .wo }
def epochOp : Fld := { off := 0x0010, lo := 60, w := 4, acc := .wo }
def epochHost : Fld := { off := 0x0010, lo := 22, w := 1, acc := .wo }
def epochRegion : Fld := { off := 0x0010, lo := 0, w := 22, acc := .wo }
def epochStatus : Fld := { off := 0x0018, lo := 56, w := 8, acc := .ro }
def epochEpoch : Fld := { off := 0x0018, lo := 0, w := 8, acc := .ro }
def trackInUse : Fld := { off := 0x0020, lo := 32, w := 16, acc := .ro }
def trackMode : Fld := { off := 0x0020, lo := 16, w := 1, acc := .ro }
def trackHigh : Fld := { off := 0x0020, lo := 0, w := 16, acc := .rc }
def leadLat : Fld := { off := 0x0030, lo := 32, w := 16, acc := .rw, num := 2 }
def leadBw : Fld := { off := 0x0030, lo := 0, w := 32, acc := .rw, num := 2 }
def ddrLate : Fld := { off := 0x0040, lo := 48, w := 16, acc := .rc }
def hostLate : Fld := { off := 0x0040, lo := 32, w := 16, acc := .rc }
def flashLate : Fld := { off := 0x0040, lo := 16, w := 16, acc := .rc }
def tierSigBad : Fld := { off := 0x0040, lo := 0, w := 16, acc := .rc }
def hostHigh : Fld := { off := 0x0100, lo := 24, w := 8, acc := .rw, num := 16 }
def hostLow : Fld := { off := 0x0100, lo := 16, w := 8, acc := .rw, num := 16 }
def highPct : Fld := { off := 0x0100, lo := 8, w := 8, acc := .rw, num := 16 }
def lowPct : Fld := { off := 0x0100, lo := 0, w := 8, acc := .rw, num := 16 }

/-! Table 07.16 -/

def targetOk : Fld := { off := 0x0000, lo := 32, w := 32, acc := .ro }
def lifeUsed : Fld := { off := 0x0000, lo := 24, w := 8, acc := .ro }
def flCell : Fld := { off := 0x0000, lo := 16, w := 8, acc := .ro }
def freeGib : Fld := { off := 0x0008, lo := 32, w := 32, acc := .ro }
def usableGib : Fld := { off := 0x0008, lo := 0, w := 32, acc := .ro }
def readReclaims : Fld := { off := 0x0010, lo := 32, w := 32, acc := .rc }
def grownBad : Fld := { off := 0x0010, lo := 16, w := 16, acc := .rc }
def flExpired : Fld := { off := 0x0010, lo := 0, w := 16, acc := .rc }
def objNum : Fld := { off := 0x0020, lo := 44, w := 20, acc := .rw }
def objCtx : Fld := { off := 0x0020, lo := 40, w := 4, acc := .rw }
def objKind : Fld := { off := 0x0020, lo := 36, w := 4, acc := .rw }
def objBlocks : Fld := { off := 0x0020, lo := 0, w := 24, acc := .rw }
def objDdr : Fld := { off := 0x0028, lo := 0, w := 48, acc := .rw }
def objFirst : Fld := { off := 0x0030, lo := 40, w := 24, acc := .rw }
def objCount : Fld := { off := 0x0030, lo := 0, w := 24, acc := .rw }
def objTtl : Fld := { off := 0x0038, lo := 0, w := 32, acc := .rw }
def objOp : Fld := { off := 0x0040, lo := 60, w := 4, acc := .wo }
def objStatus : Fld := { off := 0x0048, lo := 56, w := 8, acc := .ro }
def objState : Fld := { off := 0x0048, lo := 52, w := 4, acc := .ro }
def objTtlLeft : Fld := { off := 0x0048, lo := 0, w := 32, acc := .ro }

/-! Table 08.10 -/

def linkState : Fld := { off := 0x0000, lo := 56, w := 8, acc := .ro }
def linkWidth : Fld := { off := 0x0000, lo := 52, w := 4, acc := .ro }
def laneOk : Fld := { off := 0x0000, lo := 44, w := 8, acc := .ro }
def armOk : Fld := { off := 0x0000, lo := 43, w := 1, acc := .ro }
def injecting : Fld := { off := 0x0000, lo := 42, w := 1, acc := .ro }
def peerDev : Fld := { off := 0x0000, lo := 24, w := 12, acc := .ro }
def peerLinkNo : Fld := { off := 0x0000, lo := 19, w := 5, acc := .ro }
def corrSym : Fld := { off := 0x0008, lo := 32, w := 32, acc := .rc }
def uncorrCw : Fld := { off := 0x0008, lo := 0, w := 32, acc := .rc }
def flitBad : Fld := { off := 0x0010, lo := 32, w := 32, acc := .rc }
def plReplays : Fld := { off := 0x0010, lo := 16, w := 16, acc := .rc }
def plRetrains : Fld := { off := 0x0010, lo := 0, w := 16, acc := .rc }
def crcFail : Fld := { off := 0x0018, lo := 48, w := 16, acc := .rc }
def retx : Fld := { off := 0x0018, lo := 32, w := 16, acc := .rc }
def chunkMissed : Fld := { off := 0x0018, lo := 16, w := 16, acc := .rc }
def unmatched : Fld := { off := 0x0018, lo := 0, w := 16, acc := .rc }
def plTxMib : Fld := { off := 0x0020, lo := 32, w := 32, acc := .rc }
def plRxMib : Fld := { off := 0x0020, lo := 0, w := 32, acc := .rc }
def armCorr : Fld := { off := 0x0028, lo := 32, w := 32, acc := .rc }
def armReplays : Fld := { off := 0x0028, lo := 16, w := 16, acc := .rc }
def armBad : Fld := { off := 0x0028, lo := 0, w := 16, acc := .rc }
def dateline : Fld := { off := 0x0030, lo := 32, w := 1, acc := .rwi }
def laneSerLimit : Fld := { off := 0x0030, lo := 0, w := 16, acc := .rw }

/-! Table 08.11 -/

def ringValid : Fld := { off := 0x0000, lo := 63, w := 1, acc := .rwi, num := 12 }
def ringNext : Fld := { off := 0x0000, lo := 58, w := 5, acc := .rwi, num := 12 }
def ringPrev : Fld := { off := 0x0000, lo := 53, w := 5, acc := .rwi, num := 12 }
def ringSize : Fld := { off := 0x0000, lo := 41, w := 12, acc := .rwi, num := 12 }
def ringPos : Fld := { off := 0x0000, lo := 29, w := 12, acc := .rwi, num := 12 }
def routeValid : Fld := { off := 0x0080, lo := 63, w := 1, acc := .rw }
def routeMask : Fld := { off := 0x0080, lo := 0, w := 24, acc := .rw }
def routeOp : Fld := { off := 0x0088, lo := 60, w := 4, acc := .wo }
def routeDev : Fld := { off := 0x0088, lo := 0, w := 12, acc := .wo }
def collDone : Fld := { off := 0x0090, lo := 32, w := 32, acc := .rc }
def collFailed : Fld := { off := 0x0090, lo := 0, w := 32, acc := .rc }
def calSampled : Fld := { off := 0x0098, lo := 32, w := 32, acc := .rc }
def calDisagree : Fld := { off := 0x0098, lo := 0, w := 32, acc := .rc }
def winInFlight : Fld := { off := 0x00a0, lo := 32, w := 7, acc := .ro }
def winWindows : Fld := { off := 0x00a0, lo := 0, w := 9, acc := .ro }

/-! Table 08.12 -/

def fiEnable : Fld := { off := 0x0000, lo := 63, w := 1, acc := .rw, num := 12, step := 0x10, host := true }
def fiTarget : Fld := { off := 0x0000, lo := 62, w := 1, acc := .rw, num := 12, step := 0x10, host := true }
def fiRetxToo : Fld := { off := 0x0000, lo := 61, w := 1, acc := .rw, num := 12, step := 0x10, host := true }
def fiDrop : Fld := { off := 0x0000, lo := 56, w := 5, acc := .rw, num := 12, step := 0x10, host := true }
def fiCorrupt : Fld := { off := 0x0000, lo := 51, w := 5, acc := .rw, num := 12, step := 0x10, host := true }
def fiReorder : Fld := { off := 0x0000, lo := 46, w := 5, acc := .rw, num := 12, step := 0x10, host := true }
def fiPayload : Fld := { off := 0x0000, lo := 41, w := 5, acc := .rw, num := 12, step := 0x10, host := true }
def fiSeed : Fld := { off := 0x0000, lo := 0, w := 32, acc := .rw, num := 12, step := 0x10, host := true }
def fiDropped : Fld := { off := 0x0008, lo := 48, w := 16, acc := .rc, num := 12, step := 0x10 }
def fiCorrupted : Fld := { off := 0x0008, lo := 32, w := 16, acc := .rc, num := 12, step := 0x10 }
def fiReordered : Fld := { off := 0x0008, lo := 16, w := 16, acc := .rc, num := 12, step := 0x10 }
def fiPayloads : Fld := { off := 0x0008, lo := 0, w := 16, acc := .rc, num := 12, step := 0x10 }

/-! Table 10.13 -/

def rqInUse : Fld := { off := 0x0000, lo := 32, w := 13, acc := .ro }
def rqPrefixes : Fld := { off := 0x0000, lo := 16, w := 11, acc := .ro }
def rqAdmitted : Fld := { off := 0x0008, lo := 32, w := 32, acc := .rc }
def rqEnded : Fld := { off := 0x0008, lo := 0, w := 32, acc := .rc }
def rqLateTokens : Fld := { off := 0x0010, lo := 32, w := 32, acc := .rc }
def rqLateEnds : Fld := { off := 0x0010, lo := 16, w := 16, acc := .rc }
def rqRetractions : Fld := { off := 0x0010, lo := 0, w := 16, acc := .rc }
def rqDrafted : Fld := { off := 0x0018, lo := 32, w := 32, acc := .rc }
def rqAccepted : Fld := { off := 0x0018, lo := 0, w := 32, acc := .rc }
def rqSelHost : Fld := { off := 0x0020, lo := 0, w := 12, acc := .rw, host := true }
def rqViewHost : Fld := { off := 0x0028, lo := 0, w := 64, acc := .ro, num := 4 }
def rqSelFw : Fld := { off := 0x0048, lo := 0, w := 12, acc := .rw }
def rqViewFw : Fld := { off := 0x0050, lo := 0, w := 64, acc := .ro, num := 4 }
def batchMax : Fld := { off := 0x0100, lo := 48, w := 16, acc := .rw, num := 16, host := true }
def prefillMax : Fld := { off := 0x0100, lo := 32, w := 16, acc := .rw, num := 16, host := true }

/-! Table 11.10 -/

def phPhase : Fld := { off := 0x0000, lo := 60, w := 4, acc := .ro, num := 16, step := 0x20 }
def phLoop : Fld := { off := 0x0000, lo := 59, w := 1, acc := .ro, num := 16, step := 0x20 }
def phForced : Fld := { off := 0x0000, lo := 58, w := 1, acc := .ro, num := 16, step := 0x20 }
def phMode : Fld := { off := 0x0000, lo := 56, w := 2, acc := .ro, num := 16, step := 0x20 }
def phStaleMax : Fld := { off := 0x0000, lo := 54, w := 2, acc := .ro, num := 16, step := 0x20 }
def phCast : Fld := { off := 0x0000, lo := 32, w := 16, acc := .ro, num := 16, step := 0x20 }
def phCastOldest : Fld := { off := 0x0000, lo := 16, w := 16, acc := .ro, num := 16, step := 0x20 }
def phVoids : Fld := { off := 0x0000, lo := 0, w := 8, acc := .ro, num := 16, step := 0x20 }
def phEntry : Fld := { off := 0x0008, lo := 0, w := 64, acc := .ro, num := 16, step := 0x20 }
def phLastStrokes : Fld := { off := 0x0010, lo := 32, w := 32, acc := .ro, num := 16, step := 0x20 }
def phTurns : Fld := { off := 0x0010, lo := 16, w := 16, acc := .rc, num := 16, step := 0x20 }
def phTurnVoids : Fld := { off := 0x0010, lo := 0, w := 16, acc := .rc, num := 16, step := 0x20 }
def phRollouts : Fld := { off := 0x0018, lo := 32, w := 32, acc := .ro, num := 16, step := 0x20 }
def phCycles : Fld := { off := 0x0018, lo := 0, w := 32, acc := .rc, num := 16, step := 0x20 }

/-! Table 12.9 -/

def cxState : Fld := { off := 0x0000, lo := 60, w := 4, acc := .ro, num := 16, step := 0x20 }
def cxPrio : Fld := { off := 0x0000, lo := 58, w := 2, acc := .ro, num := 16, step := 0x20 }
def cxQos : Fld := { off := 0x0000, lo := 56, w := 2, acc := .ro, num := 16, step := 0x20 }
def cxShared : Fld := { off := 0x0000, lo := 55, w := 1, acc := .ro, num := 16, step := 0x20 }
def cxSpLimit : Fld := { off := 0x0000, lo := 51, w := 4, acc := .ro, num := 16, step := 0x20 }
def cxSlots : Fld := { off := 0x0000, lo := 32, w := 13, acc := .ro, num := 16, step := 0x20 }
def cxDdrMask : Fld := { off := 0x0000, lo := 0, w := 32, acc := .ro, num := 16, step := 0x20 }
def cxVc0 : Fld := { off := 0x0008, lo := 56, w := 8, acc := .ro, num := 16, step := 0x20 }
def cxVc1 : Fld := { off := 0x0008, lo := 48, w := 8, acc := .ro, num := 16, step := 0x20 }
def cxVc2 : Fld := { off := 0x0008, lo := 40, w := 8, acc := .ro, num := 16, step := 0x20 }
def cxHost : Fld := { off := 0x0008, lo := 32, w := 8, acc := .ro, num := 16, step := 0x20 }
def cxFlashBw : Fld := { off := 0x0008, lo := 24, w := 8, acc := .ro, num := 16, step := 0x20 }
def cxWays : Fld := { off := 0x0008, lo := 0, w := 16, acc := .ro, num := 16, step := 0x20 }
def cxFlashGib : Fld := { off := 0x0010, lo := 32, w := 32, acc := .ro, num := 16, step := 0x20 }
def cxFlashUsed : Fld := { off := 0x0010, lo := 0, w := 32, acc := .ro, num := 16, step := 0x20 }
def cxSwitches : Fld := { off := 0x0018, lo := 32, w := 32, acc := .rc, num := 16, step := 0x20 }
def cxEvDropped : Fld := { off := 0x0018, lo := 16, w := 16, acc := .rc, num := 16, step := 0x20 }
def cxPreempts : Fld := { off := 0x0018, lo := 0, w := 16, acc := .rc, num := 16, step := 0x20 }
def freeSlots : Fld := { off := 0x0200, lo := 51, w := 13, acc := .ro }
def freeWays : Fld := { off := 0x0200, lo := 32, w := 16, acc := .ro }
def freeDdr : Fld := { off := 0x0200, lo := 0, w := 32, acc := .ro }

/-! Table 12.10 -/

def cbSharers : Fld := { off := 0x0000, lo := 48, w := 16, acc := .rw, num := 48 }
def cbRunCtx : Fld := { off := 0x0000, lo := 44, w := 4, acc := .rw, num := 48 }
def cbRunValid : Fld := { off := 0x0000, lo := 43, w := 1, acc := .rw, num := 48 }
def cbRunLimit : Fld := { off := 0x0000, lo := 32, w := 4, acc := .rw, num := 48 }
def cbSaveBase : Fld := { off := 0x0200, lo := 0, w := 48, acc := .rw, num := 16 }

/-! Table 12.11 -/

def pbVc0 : Fld := { off := 0x0000, lo := 56, w := 8, acc := .rw, num := 16 }
def pbVc1 : Fld := { off := 0x0000, lo := 48, w := 8, acc := .rw, num := 16 }
def pbVc2 : Fld := { off := 0x0000, lo := 40, w := 8, acc := .rw, num := 16 }
def pbHost : Fld := { off := 0x0000, lo := 32, w := 8, acc := .rw, num := 16 }
def pbFlashBw : Fld := { off := 0x0000, lo := 24, w := 8, acc := .rw, num := 16 }
def pbQos : Fld := { off := 0x0000, lo := 16, w := 2, acc := .rw, num := 16 }
def pbDdrLocal : Fld := { off := 0x0000, lo := 0, w := 16, acc := .rw, num := 16 }

/-! Table 13.8 -/

def errTotal : Fld := { off := 0x0000, lo := 32, w := 32, acc := .rc }
def errNext : Fld := { off := 0x0000, lo := 0, w := 5, acc := .ro }
def d2dCrc : Fld := { off := 0x0008, lo := 32, w := 32, acc := .rc }
def d2dRetry : Fld := { off := 0x0008, lo := 16, w := 16, acc := .rc }
def laneRepairs : Fld := { off := 0x0008, lo := 0, w := 16, acc := .rc }
def sramCorrected : Fld := { off := 0x0010, lo := 32, w := 32, acc := .rc }
def sramUncorr : Fld := { off := 0x0010, lo := 16, w := 16, acc := .rc }
def errResidue : Fld := { off := 0x0018, lo := 48, w := 16, acc := .rc }
def errSelftest : Fld := { off := 0x0018, lo := 32, w := 16, acc := .rc }
def errLockstep : Fld := { off := 0x0018, lo := 16, w := 16, acc := .rc }
def errClockTrips : Fld := { off := 0x0018, lo := 0, w := 16, acc := .rc }
def errDenied : Fld := { off := 0x0020, lo := 32, w := 32, acc := .rc }
def ctrlOk : Fld := { off := 0x0028, lo := 0, w := 4, acc := .ro }
def errRecW0 : Fld := { off := 0x0100, lo := 0, w := 64, acc := .ro, num := 32, step := 0x10 }
def errRecW1 : Fld := { off := 0x0108, lo := 0, w := 64, acc := .ro, num := 32, step := 0x10 }

/-! R453 -/

def quarRecW0 : Fld := { off := 0x0400, lo := 0, w := 64, acc := .ro, num := 9, step := 0x10 }
def quarRecW1 : Fld := { off := 0x0408, lo := 0, w := 64, acc := .ro, num := 9, step := 0x10 }

/-! Tables 14.12, 14.13 -/

def umState : Fld := { off := 0x0000, lo := 56, w := 8, acc := .ro }
def umWidth : Fld := { off := 0x0000, lo := 48, w := 8, acc := .ro }
def umLaneOk : Fld := { off := 0x0000, lo := 32, w := 16, acc := .ro }
def adapterId : Fld := { off := 0x0000, lo := 16, w := 16, acc := .ro }
def umCorrSym : Fld := { off := 0x0008, lo := 32, w := 32, acc := .rc }
def umUncorrCw : Fld := { off := 0x0008, lo := 0, w := 32, acc := .rc }
def umFlitBad : Fld := { off := 0x0010, lo := 32, w := 32, acc := .rc }
def umReplays : Fld := { off := 0x0010, lo := 16, w := 16, acc := .rc }
def umRetrains : Fld := { off := 0x0010, lo := 0, w := 16, acc := .rc }
def mcrcBad : Fld := { off := 0x0018, lo := 48, w := 16, acc := .rc }
def badType : Fld := { off := 0x0018, lo := 32, w := 16, acc := .rc }
def readLate : Fld := { off := 0x0018, lo := 16, w := 16, acc := .rc }
def dbBad : Fld := { off := 0x0018, lo := 0, w := 16, acc := .rc }
def umTxMib : Fld := { off := 0x0020, lo := 32, w := 32, acc := .rc }
def umRxMib : Fld := { off := 0x0020, lo := 0, w := 32, acc := .rc }
def sqLog2 : Fld := { off := 0x0040, lo := 48, w := 8, acc := .rwi, host := true }
def sqAddr : Fld := { off := 0x0040, lo := 0, w := 48, acc := .rwi, host := true }
def eqLog2 : Fld := { off := 0x0048, lo := 48, w := 8, acc := .rwi, host := true }
def eqAddr : Fld := { off := 0x0048, lo := 0, w := 48, acc := .rwi, host := true }
def admEn : Fld := { off := 0x0050, lo := 63, w := 1, acc := .rw, host := true }
def admCoalesce : Fld := { off := 0x0050, lo := 0, w := 32, acc := .rw, host := true }
def hwValid : Fld := { off := 0x0060, lo := 63, w := 1, acc := .rw, host := true }
def hwGuard : Fld := { off := 0x0060, lo := 62, w := 1, acc := .rw, host := true }
def hwAdm : Fld := { off := 0x0060, lo := 61, w := 1, acc := .rw, host := true }
def hwCtx : Fld := { off := 0x0060, lo := 57, w := 4, acc := .rw, host := true }
def hwOp : Fld := { off := 0x0068, lo := 60, w := 4, acc := .wo, host := true }
def hwRegion : Fld := { off := 0x0068, lo := 0, w := 18, acc := .wo, host := true }
def hwStatus : Fld := { off := 0x0070, lo := 56, w := 8, acc := .ro }
def sqHead : Fld := { off := 0x0100, lo := 32, w := 32, acc := .ro, num := 17, step := 0x10 }
def sqTail : Fld := { off := 0x0100, lo := 0, w := 32, acc := .ro, num := 17, step := 0x10 }
def eqProduced : Fld := { off := 0x0108, lo := 32, w := 32, acc := .ro, num := 17, step := 0x10 }
def eqConsumed : Fld := { off := 0x0108, lo := 0, w := 32, acc := .ro, num := 17, step := 0x10 }

/-! Table 15.10 -/

def bootStage : Fld := { off := 0x0000, lo := 56, w := 8, acc := .ro }
def failCause : Fld := { off := 0x0000, lo := 48, w := 8, acc := .ro }
def bootSlot : Fld := { off := 0x0000, lo := 47, w := 1, acc := .ro }
def bootFallback : Fld := { off := 0x0000, lo := 46, w := 1, acc := .ro }
def bootFw : Fld := { off := 0x0000, lo := 0, w := 32, acc := .ro }
def imageMs : Fld := { off := 0x0008, lo := 48, w := 16, acc := .ro }
def selftestMs : Fld := { off := 0x0008, lo := 32, w := 16, acc := .ro }
def readyMs : Fld := { off := 0x0008, lo := 0, w := 32, acc := .ro }
def flashMib : Fld := { off := 0x0010, lo := 32, w := 16, acc := .ro }
def otherFw : Fld := { off := 0x0010, lo := 0, w := 32, acc := .ro }
def updAddr : Fld := { off := 0x0018, lo := 0, w := 48, acc := .rw, host := true }
def updBytes : Fld := { off := 0x0020, lo := 0, w := 32, acc := .rw, host := true }
def updOp : Fld := { off := 0x0028, lo := 60, w := 4, acc := .wo, host := true }
def updStatus : Fld := { off := 0x0030, lo := 56, w := 8, acc := .ro }
def updState : Fld := { off := 0x0030, lo := 52, w := 4, acc := .ro }
def pendingFw : Fld := { off := 0x0030, lo := 0, w := 32, acc := .ro }

/-! Table 15.11 -/

def idSerial : Fld := { off := 0x0000, lo := 0, w := 64, acc := .ro }
def idDie : Fld := { off := 0x0008, lo := 0, w := 4, acc := .rw, host := true }
def idLot : Fld := { off := 0x0010, lo := 0, w := 64, acc := .ro }
def idTpIssue : Fld := { off := 0x0018, lo := 48, w := 16, acc := .ro }
def idWafer : Fld := { off := 0x0018, lo := 40, w := 8, acc := .ro }
def idX : Fld := { off := 0x0018, lo := 32, w := 8, acc := .ro }
def idY : Fld := { off := 0x0018, lo := 24, w := 8, acc := .ro }
def idDieType : Fld := { off := 0x0018, lo := 20, w := 4, acc := .ro }
def idDieNum : Fld := { off := 0x0018, lo := 16, w := 4, acc := .ro }
def idUmap : Fld := { off := 0x0020, lo := 0, w := 64, acc := .ro, num := 4 }
def attNonce : Fld := { off := 0x0040, lo := 0, w := 64, acc := .rw, num := 4, host := true }
def attAddr : Fld := { off := 0x0060, lo := 0, w := 48, acc := .rw, host := true }
def attOp : Fld := { off := 0x0068, lo := 60, w := 4, acc := .wo, host := true }
def attStatus : Fld := { off := 0x0070, lo := 56, w := 8, acc := .ro }
def attState : Fld := { off := 0x0070, lo := 52, w := 4, acc := .ro }
def attSigBytes : Fld := { off := 0x0070, lo := 0, w := 16, acc := .ro }
def attNextQ : Fld := { off := 0x0078, lo := 0, w := 40, acc := .ro }
def attReservedTo : Fld := { off := 0x0080, lo := 0, w := 40, acc := .ro }
def rootDigest : Fld := { off := 0x0088, lo := 0, w := 64, acc := .ro, num := 4 }

/-! Table 16.7 -/

def ctrlMhz : Fld := { off := 0x0000, lo := 48, w := 16, acc := .ro }
def fabricMhz : Fld := { off := 0x0000, lo := 32, w := 16, acc := .ro }
def arrayMhz : Fld := { off := 0x0000, lo := 16, w := 16, acc := .ro }
def sscDepth : Fld := { off := 0x0000, lo := 8, w := 4, acc := .ro }
def sscKhz : Fld := { off := 0x0000, lo := 0, w := 6, acc := .ro }
def clkTrips : Fld := { off := 0x0008, lo := 40, w := 24, acc := .rc }
def clkTripped : Fld := { off := 0x0008, lo := 20, w := 20, acc := .w1c }
def clkLocked : Fld := { off := 0x0008, lo := 0, w := 20, acc := .ro }
def measKhz : Fld := { off := 0x0100, lo := 0, w := 32, acc := .ro, num := 20 }

/-! Table 16.8 (every die) -/

def tempMax : Fld := { off := 0x0000, lo := 32, w := 8, acc := .rc }
def temps : Fld := { off := 0x0000, lo := 0, w := 32, acc := .ro }

/-! Table 16.8 (PD0) -/

def pFrameW : Fld := { off := 0x0020, lo := 48, w := 16, acc := .ro }
def levelP : Fld := { off := 0x0020, lo := 8, w := 4, acc := .ro }
def levelT : Fld := { off := 0x0020, lo := 4, w := 4, acc := .ro }
def levelReq : Fld := { off := 0x0020, lo := 0, w := 4, acc := .ro }
def capW : Fld := { off := 0x0028, lo := 0, w := 16, acc := .rw, host := true }
def tripC : Fld := { off := 0x0030, lo := 8, w := 8, acc := .ro }
def throttleC : Fld := { off := 0x0030, lo := 0, w := 8, acc := .ro }
def railMv : Fld := { off := 0x0100, lo := 48, w := 16, acc := .ro, num := 6 }
def railMa : Fld := { off := 0x0100, lo := 0, w := 32, acc := .ro, num := 6 }

/-- Tables 01.15–01.18 -/
def dieIdFields : List Fld :=
  [dieState, dieStep, enabledCount, dieType, dieNum, corePos, spare1, spare0, coreOk]

/-- Table 01.19 -/
def hubIdFields : List Fld :=
  [hubState, hubStep, ddrPresent, linkPresent, flashPresent, hostSide, hubType, hubNum]

/-- Table 02.14 -/
def armatureFields : List Fld :=
  [overrunMask, overrunCount, abortCount, edgeOffset]

/-- Table 02.15 -/
def armLockFields : List Fld :=
  [lockLosses, parentLink, correction, armDiscarded, armForwarded, linkDelay]

/-- Tables 02.10–02.12, 15.12 -/
def deviceFields : List Fld :=
  [masterNum, devNum, lag, isMaster, locked, throttleLevel, devState, strokeCount, schedPos, budget, sealWait,
   frameLog2, strokeUs, idleCount, slipCount, imgSeq, imgFw, fiAllow, imgDigest, fabricDigest, fabDevices,
   fabHops, floodNs]

/-- Table 02.13 -/
def sealFields : List Fld :=
  [nextSeq, lastSealed, lastStatus, lastKind, repeats, lastReason, sealStroke, voidCount, sealCount]

/-- Tables 04.15, 03.18, 03.19 -/
def coreFields : List Fld :=
  [seqState, seqCtx, seqSlot, seqPc, lastEnd, blocks, lateIssue, malformed, missedSlots, lastCause, lastPc,
   evcSat, headSlot, slotDepth, slotIn, param, evc, collGroup, chLastStatus, chState, chCarry, chPc, chBase,
   chBytes, chNarrow, chRequests, fillPasses, failCount, lastFailPat, nextPat, withdrawn, arrMode, issueKcyc,
   fillKcyc, gatedKcyc]

/-- Table 04.17 -/
def dmaFields : List Fld :=
  [runaheadDrops, staleRefetch, dmaStatus, dmaCore, dmaCh, dmaAddr, dmaErrors]

/-- Table 05.11 -/
def engineFields : List Fld :=
  [engLastStatus, engState, engCtx, engSlot, engDepth, engJobs, engOverruns, engMissed, jobIn]

/-- Table 05.12 -/
def samplerFields : List Fld :=
  [smpTokens, smpTruncated]

/-- Table 05.12 -/
def rngFields : List Fld :=
  [seed]

/-- Table 05.12 -/
def finishingFields : List Fld :=
  [finSkipped, finNonfinite]

/-- Table 05.12 -/
def checkFields : List Fld :=
  [chkDisagree, chkCorrected, chkStatus, chkAddr]

/-- Table 11.11 -/
def pointingFields : List Fld :=
  [ptTiles, ptChunks, ptSaturated, ptScanned]

/-- Tables 06.8, 06.9 -/
def pageMapFields : List Fld :=
  [mapInUse, mapVictims, mapLookups, mapNotRes, appendRows, appendMiss, skipSkipped, skipCheckFail, skipFullPass,
   mapW, mapOp, mapCmdIndex, mapStatus, mapIndex, mapR, pgFmt, pgDim32, pgHeads, pgLayers, pgTopClass, pgSumMin,
   pgRun, skipEn, epsLog2, keepCore, fixupCore, quotaUsed, quotaLimit]

/-- Table 07.13 -/
def cachePartFields : List Fld :=
  [cpWays, cpHits, cpMisses, cpEpochMiss]

/-- Table 07.14 -/
def ddrFields : List Fld :=
  [ddrState, ddrSpeed, ddrCapGib, retrainLimit, ddrRetrains, ddrCorrected, ddrUncorr, ddrPoisoned, ddrStale,
   scrubGib, ddrRdMib, ddrWrMib, ddrErrStatus, ddrErrAddr]

/-- Table 07.15 -/
def tierFields : List Fld :=
  [segData, segOp, segSeg, epochOp, epochHost, epochRegion, epochStatus, epochEpoch, trackInUse, trackMode,
   trackHigh, leadLat, leadBw, ddrLate, hostLate, flashLate, tierSigBad, hostHigh, hostLow, highPct, lowPct]

/-- Table 07.16 -/
def flashFields : List Fld :=
  [targetOk, lifeUsed, flCell, freeGib, usableGib, readReclaims, grownBad, flExpired, objNum, objCtx, objKind,
   objBlocks, objDdr, objFirst, objCount, objTtl, objOp, objStatus, objState, objTtlLeft]

/-- Table 08.10 -/
def peerLinkFields : List Fld :=
  [linkState, linkWidth, laneOk, armOk, injecting, peerDev, peerLinkNo, corrSym, uncorrCw, flitBad, plReplays,
   plRetrains, crcFail, retx, chunkMissed, unmatched, plTxMib, plRxMib, armCorr, armReplays, armBad, dateline,
   laneSerLimit]

/-- Table 08.11 -/
def collectiveFields : List Fld :=
  [ringValid, ringNext, ringPrev, ringSize, ringPos, routeValid, routeMask, routeOp, routeDev, collDone,
   collFailed, calSampled, calDisagree, winInFlight, winWindows]

/-- Table 08.12 -/
def linkFaultFields : List Fld :=
  [fiEnable, fiTarget, fiRetxToo, fiDrop, fiCorrupt, fiReorder, fiPayload, fiSeed, fiDropped, fiCorrupted,
   fiReordered, fiPayloads]

/-- Table 10.13 -/
def requestsFields : List Fld :=
  [rqInUse, rqPrefixes, rqAdmitted, rqEnded, rqLateTokens, rqLateEnds, rqRetractions, rqDrafted, rqAccepted,
   rqSelHost, rqViewHost, rqSelFw, rqViewFw, batchMax, prefillMax]

/-- Table 11.10 -/
def phaseFields : List Fld :=
  [phPhase, phLoop, phForced, phMode, phStaleMax, phCast, phCastOldest, phVoids, phEntry, phLastStrokes, phTurns,
   phTurnVoids, phRollouts, phCycles]

/-- Table 12.9 -/
def contextsFields : List Fld :=
  [cxState, cxPrio, cxQos, cxShared, cxSpLimit, cxSlots, cxDdrMask, cxVc0, cxVc1, cxVc2, cxHost, cxFlashBw,
   cxWays, cxFlashGib, cxFlashUsed, cxSwitches, cxEvDropped, cxPreempts, freeSlots, freeWays, freeDdr]

/-- Table 12.10 -/
def coreBindFields : List Fld :=
  [cbSharers, cbRunCtx, cbRunValid, cbRunLimit, cbSaveBase]

/-- Table 12.11 -/
def hubBindFields : List Fld :=
  [pbVc0, pbVc1, pbVc2, pbHost, pbFlashBw, pbQos, pbDdrLocal]

/-- Table 13.8 -/
def errorsFields : List Fld :=
  [errTotal, errNext, d2dCrc, d2dRetry, laneRepairs, sramCorrected, sramUncorr, errResidue, errSelftest,
   errLockstep, errClockTrips, errDenied, ctrlOk, errRecW0, errRecW1]

/-- R453 -/
def quarantineFields : List Fld :=
  [quarRecW0, quarRecW1]

/-- Tables 14.12, 14.13 -/
def umajoFields : List Fld :=
  [umState, umWidth, umLaneOk, adapterId, umCorrSym, umUncorrCw, umFlitBad, umReplays, umRetrains, mcrcBad,
   badType, readLate, dbBad, umTxMib, umRxMib, sqLog2, sqAddr, eqLog2, eqAddr, admEn, admCoalesce, hwValid,
   hwGuard, hwAdm, hwCtx, hwOp, hwRegion, hwStatus, sqHead, sqTail, eqProduced, eqConsumed]

/-- Table 15.10 -/
def bootFields : List Fld :=
  [bootStage, failCause, bootSlot, bootFallback, bootFw, imageMs, selftestMs, readyMs, flashMib, otherFw,
   updAddr, updBytes, updOp, updStatus, updState, pendingFw]

/-- Table 15.11 -/
def identityFields : List Fld :=
  [idSerial, idDie, idLot, idTpIssue, idWafer, idX, idY, idDieType, idDieNum, idUmap, attNonce, attAddr, attOp,
   attStatus, attState, attSigBytes, attNextQ, attReservedTo, rootDigest]

/-- Table 16.7 -/
def clockFields : List Fld :=
  [ctrlMhz, fabricMhz, arrayMhz, sscDepth, sscKhz, clkTrips, clkTripped, clkLocked, measKhz]

/-- Table 16.8 (every die) -/
def powerFields : List Fld :=
  [tempMax, temps]

/-- Table 16.8 (PD0) -/
def powerPd0Fields : List Fld :=
  [pFrameW, levelP, levelT, levelReq, capW, tripC, throttleC, railMv, railMa]

end Reg

/-- The field maps of a unit's block: the offset within its sub-window (the offset itself where the block has none)
and the fields; `none` for a reserved unit, a block its unit does not list, or an offset past the last sub-window
(R36, R37). -/
def blockFields (unit blk off : Nat) : Option (Nat × List Fld) :=
  if unit < 8 then
    match blk with
    | 0x00 => some (off, Reg.dieIdFields)
    | 0x01 => some (off, Reg.armatureFields)
    | 0x02 => if off < 48 * 0x400 then some (off % 0x400, Reg.coreFields) else none
    | 0x03 => some (off, Reg.pageMapFields)
    | 0x04 => if off < 0x200 then some (off % 0x100, Reg.engineFields ++ Reg.pointingFields) else none
    | 0x05 => some (off, Reg.engineFields ++ Reg.samplerFields)
    | 0x06 => some (off, Reg.engineFields ++ Reg.rngFields)
    | 0x07 => some (off, Reg.engineFields ++ Reg.finishingFields)
    | 0x08 => some (off, Reg.engineFields ++ Reg.checkFields)
    | 0x09 => some (off, Reg.dmaFields)
    | 0x0A => some (off, Reg.cachePartFields)
    | 0x0B => if off < 0x120 then some (off, Reg.clockFields) else none
    | 0x0C => some (off, Reg.powerFields)
    | 0x0D => some (off, Reg.errorsFields)
    | 0x0E => some (off, Reg.coreBindFields)
    | _ => none
  else if unit = 0x10 ∨ unit = 0x11 then
    match blk with
    | 0x00 => some (off, Reg.hubIdFields)
    | 0x01 => some (off, Reg.armLockFields)
    | 0x10 => some (off % 0x1000, Reg.ddrFields)
    | 0x11 => some (off, Reg.tierFields)
    | 0x12 => if unit = 0x11 ∧ 0x20 ≤ off then none else some (off, Reg.flashFields)
    | 0x13 => if off < 12 * 0x1000 then some (off % 0x1000, Reg.peerLinkFields) else none
    | 0x14 => some (off, Reg.collectiveFields)
    | 0x15 => if unit = 0x10 then some (off, Reg.umajoFields) else none
    | 0x16 => if unit = 0x10 then some (off, Reg.bootFields) else none
    | 0x17 => if unit = 0x10 then some (off, Reg.identityFields) else none
    | 0x18 => some (off, Reg.clockFields)
    | 0x19 => some (off, if unit = 0x10 then Reg.powerFields ++ Reg.powerPd0Fields else Reg.powerFields)
    | 0x1A => some (off, if unit = 0x10 then Reg.errorsFields ++ Reg.quarantineFields else Reg.errorsFields)
    | 0x1B => some (off, Reg.hubBindFields)
    | 0x1C => some (off, Reg.linkFaultFields)
    | _ => none
  else if unit = 0x1F then
    match blk with
    | 0x00 => some (off, Reg.deviceFields)
    | 0x01 => some (off, Reg.requestsFields)
    | 0x02 => some (off, Reg.contextsFields)
    | 0x03 => some (off, Reg.phaseFields)
    | 0x04 => some (off, Reg.sealFields)
    | _ => none
  else none

/-- Whether one of the field's registers stands at the offset. -/
def Fld.at? (f : Fld) (off : Nat) : Bool :=
  decide (f.off ≤ off) && (off - f.off) % f.step == 0 && decide ((off - f.off) / f.step < f.num)

/-- The fields of the register at an offset of control-and-status space; empty where the field maps define none. -/
def fieldsAt (a : Nat) : List Fld :=
  match blockFields (a / 0x1000000) (a / 0x10000 % 0x100) (a % 0x10000) with
  | some (off, fs) => fs.filter (·.at? off)
  | none => []

/-- `ROOT_DIGEST0`–`ROOT_DIGEST3`: the SHA-256 digest of the root key in the boot ROM, its first bytes lowest (R482). -/
def rootDigestWord (i : Nat) : Word := BitVec.ofNat 64 (leNat (((sha256 Config.rootKey).drop (8 * i)).take 8))

/-- What a register holds after reset: zero unless its field map states another value (R4). `DIE_NUM`, `DIE_TYPE` and
`HOST_SIDE` hold the package position, `ROOT_DIGEST` the digest of the boot ROM's key. -/
def resetWord (a : Nat) : Word :=
  let unit := a / 0x1000000
  let blk := a / 0x10000 % 0x100
  let off := a % 0x10000
  if unit = 0x1F then if blk = 0x00 ∧ off = 0x0000 then 0x1 else 0
  else if unit < 8 then
    if blk = 0x00 ∧ off = 0x0000 then BitVec.ofNat 64 (0x0001000000000010 + unit)
    else if blk = 0x0D ∧ off = 0x0028 then 0xF
    else 0
  else if unit = 0x10 ∨ unit = 0x11 then
    if blk = 0x00 ∧ off = 0x0000 then (if unit = 0x10 then 0x0001000000000120 else 0x0001000000000021)
    else if blk = 0x10 ∧ off % 0x1000 = 0x000 then 0x01000000
    else if blk = 0x11 ∧ 0x0100 ≤ off ∧ off < 0x0180 then 0x5A505A50
    else if blk = 0x13 ∧ off % 0x1000 = 0x030 ∧ off < 0xC000 then 0x40
    else if blk = 0x1A ∧ off = 0x0028 then 0xF
    else if unit = 0x10 ∧ blk = 0x17 ∧ 0x0088 ≤ off ∧ off ≤ 0x00A0 then rootDigestWord ((off - 0x88) / 8)
    else if unit = 0x10 ∧ blk = 0x19 ∧ off = 0x0030 then 0x7864
    else 0
  else 0

end Sys2Proof.Machine
end

