-- ==== Sys2Proof/Machine/State.lean ====
section
/-! DEFINITION. The state of one device: every register of its field maps in one register file, and beside it the
memories, queues, buffers and records that the chapters give it. Plain data throughout. -/

namespace Sys2Proof.Machine

/-- The boundary-scan instruction in force (R514). -/
inductive Jtag where
  | bypass | idcode | samplePreload | extest
deriving DecidableEq, Repr

/-- The control contacts, the rails and boundary scan (chapter 16). -/
structure Pins where
  /-- the filtered RESET_N is active -/
  resetN : Bool
  /-- the filtered HALT_N is active -/
  haltN : Bool
  /-- every rail is within tolerance (R509) -/
  railsOk : Bool
  /-- THERMTRIP_N is driven since a trip (R521) -/
  thermtrip : Bool
  /-- the array, vector-engine and engine clocks are gated by a trip (R521) -/
  gated : Bool
  jtag : Jtag
  /-- what the data register selected by the instruction shifts out: one bit for BYPASS, 32 for IDCODE, the
  boundary cells for SAMPLE/PRELOAD and EXTEST -/
  tdo : List Bool
  /-- the boundary cells preloaded for EXTEST -/
  cells : List Bool
  /-- EXTEST drives the contacts from the cells -/
  driven : Bool
deriving DecidableEq, Repr

/-- The kinds of stroke (R48). -/
inductive StrokeKind where
  | working | slip | idle
deriving DecidableEq, Repr

/-- The stroke timer and what the device holds for the strokes (chapter 02). -/
structure Strokes where
  /-- the stroke timer runs (R491) -/
  running : Bool
  kind : StrokeKind
  /-- a block overran in the stroke in progress (R67) -/
  overran : Bool
  /-- stroke numbers named as slip strokes (R67) -/
  slips : List Nat
  /-- the device state to which a release of HALT_N returns (R13) -/
  haltFrom : Nat
  /-- no slot runs before the next frame boundary (R53, R82) -/
  waitFrame : Bool
  /-- lock is lost and not yet regained (R53) -/
  lost : Bool
  /-- consecutive strokes with a correction of at most 8 ns, of more, and without a mark (R52) -/
  good : Nat
  bad : Nat
  silent : Nat
  /-- a mark was taken in the stroke in progress -/
  marked : Bool
  /-- lock was lost to silence: the next mark steps the timer to the parent's edge (R53) -/
  toStep : Bool
  /-- the budget end of the stroke in progress has passed -/
  ended : Bool
  /-- overruns of blocks, by die, core, command-store word and stroke, and the blocks that the next schedule splits over
  two slots (R70) -/
  overruns : List (Nat × Nat × Nat × Nat)
  split : List (Nat × Nat × Nat)
  /-- array cycles counted up to the edge of the stroke in progress (R45) -/
  cycles : Nat
  /-- nanoseconds by which the stroke timer has been moved in all, and the last difference seen -/
  moved : Int
  lastErr : Int
  /-- level announced for the next frame (R80), and the level applied in the frame before the one in progress (R520) -/
  announced : Nat
  prevLevel : Nat
  /-- last level received from each device -/
  levels : Cells (Option Nat)
  /-- the source followed while the stroke settles (R491) -/
  source : Option Nat
  /-- a mark of count 65,536 or more has been heard (R491) -/
  heardOld : Bool
  /-- the master to take over at the next frame boundary (R54) -/
  nextMaster : Option Nat
deriving DecidableEq, Repr

/-- A staged or registered unit of a context (R71) and how far its seal has come (R75–R77). -/
structure SealUnit where
  ctx : Nat
  kind : Nat
  seq : Nat
  first : Nat
  last : Nat
  staged : Bool
  /-- the first reason set in it here, and the slot in which it was -/
  cause : Option (Nat × Nat)
  /-- the stroke that ran the last slot (R75) -/
  k : Option Nat
  reasons : Half
  voted : Bool
  /-- the combined reasons, least and greatest sequence of the vote -/
  vote : Option (List Word)
  posted : Bool
  outcome : Option Bool
  /-- the stroke whose ending edge applies the outcome -/
  due : Option Nat
  queried : Bool
  /-- lowest and highest coordinate of the seal group in each dimension -/
  group : List (Nat × Nat)
deriving DecidableEq, Repr

/-- A member's value heard in a stage of a collective: dimension, coordinate, the link it came by and its message. -/
structure Heard where
  dim : Nat
  coord : Nat
  link : Nat
  msg : ArmMsg
deriving DecidableEq, Repr

/-- An armature collective in flight (R61–R64): votes, outcomes, collectives and barriers. -/
structure Coll where
  mtype : Nat
  tag : Nat
  ctx : Nat
  /-- kind of the seal unit whose work posted it, 3 for none -/
  kind : Nat
  subject : Word
  ops : List Nat
  /-- lowest and highest coordinate of the group in each dimension -/
  group : List (Nat × Nat)
  /-- the dimension whose stage is running -/
  dim : Nat
  /-- this member's value in the running stage -/
  value : List Word
  heard : List Heard
  /-- this member has posted its contribution -/
  posted : Bool
  result : Option (List Word)
  /-- 0 a core's, 1 a vote, 2 an outcome, 3 the norm of a learning step, 4 an AMAX exchange, 5 a pre-emption, 6 the
  barrier of a model load -/
  purpose : Nat
  /-- for a core's: die, core, scratchpad offset of the result and event counter -/
  poster : Nat × Nat × Nat × Nat
  /-- the stroke in which it was posted -/
  stroke : Nat
deriving DecidableEq, Repr

/-- The armature as one device sees it. -/
structure Arm where
  /-- flooded messages seen, by source and `MSG_SEQ` (R59) -/
  seen : List (Nat × Nat)
  /-- the next `MSG_SEQ` of this device -/
  msgSeq : Nat
  colls : List Coll
  /-- the status with which the last collective of each tag completed on this device (R62, R64) -/
  collDone : Cells Nat
  /-- strokes since a frame was last accepted on any link (R443) -/
  silence : Nat
  /-- links and devices seen fenced anywhere in the fabric (R443) -/
  links : List (Nat × Nat)
  devs : List Nat
  /-- devices outside the connected set, fenced from the last frame boundary on -/
  outside : List Nat
deriving DecidableEq, Repr

/-- One device record of the fabric map (R488). -/
structure DevRec where
  coords : List Nat
  sizes : List Nat
  links : List W32
deriving DecidableEq, Repr

/-- An entry of the trust list (R497). -/
structure TrustEntry where
  pubId : Nat
  ctxMask : Nat
  levels : Nat
  key : List Byte
deriving DecidableEq, Repr

/-- What the device holds of the configuration image it booted (Tables 15.3–15.6, R487, R488, R497). -/
structure Image where
  imgSeq : Nat
  fw : Nat
  fiAllow : Bool
  imageDigest : List Byte
  fabricDigest : List Byte
  devNum : Nat
  fabric : List DevRec
  /-- sixteen ceilings of five words -/
  partitions : List (List Word)
  strokeUs : Nat
  frameLog2 : Nat
  trackMode : Nat
  retrainLimit : Nat
  laneSerLimit : Nat
  water : Nat
  arrayMhz : Nat
  fabricMhz : Nat
  ctrlMhz : Nat
  ddrMts : Nat
  sscDepth : Nat
  sscKhz : Nat
  trust : List TrustEntry
deriving DecidableEq, Repr

/-- Start-up, identity and boot flash (chapter 15). The boot ROM, the provenance die and the boot flash keep their content. -/
structure Boot where
  /-- the boot ROM's one HSS public key (R482) -/
  rootKey : List Byte
  prov : Provenance
  flash : BootFlash
  image : Option Image
  treeReady : Bool
deriving DecidableEq, Repr

/-- A fault counted toward a trigger of Table 13.3: its kind, unit, a detail and the stroke. -/
structure Trigger where
  kind : Nat
  unit : UnitId
  detail : Nat
  stroke : Nat
deriving DecidableEq, Repr

/-- A self-test repeat that an array owes (R438). -/
structure Retest where
  die : Nat
  core : Nat
  arr : Nat
  pattern : Nat
  left : Nat
  failed : Bool
deriving DecidableEq, Repr

/-- Fault handling (chapter 13). -/
structure Faults where
  /-- units of this device that are fenced -/
  fenced : List UnitId
  /-- units to be fenced at the next edge (R442), each with the source, index and detail of its log record -/
  toFence : List (UnitId × Nat × Nat × Nat)
  /-- binding masks: context and unit (R430) -/
  bound : List (Nat × UnitId)
  triggers : List Trigger
  retests : List Retest
  /-- die-to-die modules taken down (R22) -/
  down : List (Connection × Nat)
  /-- monitors with one failing window: unit index and domain (R517) -/
  failing : List (Nat × Nat)
  /-- set-once marks of corrected symbols and other per-frame counts: key and count in the frame -/
  frameCounts : Cells Nat
deriving DecidableEq, Repr

/-- What the last access answered, and the die-to-die modules that it and its response crossed (R21, R23). -/
structure Answer where
  status : Byte
  data : Word
  path : List (Connection × Nat)
deriving DecidableEq, Repr

/-- A chunk being sent, assembled or kept (R280, Table 08.3). -/
structure Chunk where
  src : Nat
  dst : Nat
  coll : Bool
  stream : Nat
  cseq : Nat
  /-- words in the chunk -/
  clen : Nat
  phase : Nat
  piece : Nat
  cid : Nat
  ctx : Nat
  vc : Nat
  retx : Bool
  /-- this device sends it for the second time, on a NAK -/
  again : Bool
  badfwd : Bool
  /-- the words read or received so far -/
  words : List Word
  /-- flits of the chunk that carry POISON (R277) -/
  poison : List Nat
  ccrc : W32
  /-- requester number under R276 -/
  req : Nat
  /-- flits sent -/
  sent : Nat
  /-- every word of the chunk is there -/
  whole : Bool
deriving DecidableEq, Repr

/-- One peer link, beside its registers (R272–R279, R286, R298). -/
structure Link where
  /-- next `FSEQ` to send, next expected, and the last `ACK` received -/
  fseq : Nat
  expect : Nat
  acked : Nat
  /-- sequenced flits no `ACK` covers, oldest first, and those of them still to be sent again -/
  replay : List Flit
  resend : List Flit
  /-- `NAK` is to be set in the next flit; a gap is open -/
  nakSend : Bool
  nakOpen : Bool
  /-- chunk NAK records waiting -/
  control : List (Word × Word)
  /-- credits held, and credits to return, for VC0–VC2 -/
  credits : List Nat
  owed : List Nat
  cackOwed : Nat
  /-- replays without `ACK` advancing, and retrainings they caused in this frame -/
  noProgress : Nat
  stalls : Nat
  /-- chunks queued on VC0–VC2; the first is in progress once a flit of it is sent -/
  queues : List (List Chunk)
  /-- first in the order of R16: the virtual channels, and each one's requesters -/
  vcTurn : Nat
  reqTurn : List Nat
  /-- grants of the window in progress by context, and the first context in the order of R16, for VC0–VC2 (R414) -/
  grants : List (List Nat)
  ctxTurn : List Nat
  /-- chunks sent and not yet counted by a `CACK`, and words 1 and 2 of those whose retransmission this device asked for and
  that have not come again (R286) -/
  retention : List Chunk
  asked : List (Word × Word)
  /-- chunks arriving, and chunks whose last flit has arrived -/
  rx : List Chunk
  ready : List Chunk
  /-- the flit last put on the lanes, and one held back by `REORDER` -/
  tx : Option Flit
  held : Option Flit
  /-- the fault-injection generators and the FI_CFG word in force -/
  gens : List W32
  inForce : Word
  /-- symbols corrected on each bulk lane in this frame -/
  laneErr : List Nat
  /-- payload bytes not yet counted in the MiB counters -/
  txBytes : Nat
  rxBytes : Nat
  /-- armature lane: next `ASEQ` to send and expected, message frames kept for replay, those of them to be sent again, and
  messages waiting in the order of their classes -/
  aseq : Nat
  aexpect : Nat
  areplay : List (Nat × List Word)
  aresend : List (Nat × List Word)
  awaiting : List (List Word)
  anakSend : Bool
  anoProgress : Nat
  /-- the frames last put on the armature lane, of 82 bytes each (Table 08.4) -/
  asent : List (List Byte)
deriving DecidableEq, Repr

/-- A link that is not in service. -/
def Link.idle : Link :=
  { fseq := 0, expect := 0, acked := 4095, replay := [], resend := [], nakSend := false, nakOpen := false,
    control := [], credits := [0, 0, 0], owed := [0, 0, 0], cackOwed := 0, noProgress := 0, stalls := 0,
    queues := [[], [], []], vcTurn := 0, reqTurn := [0, 0, 0], grants := [[], [], []],
    ctxTurn := [0, 0, 0], retention := [], asked := [], rx := [], ready := [], tx := none,
    held := none, gens := [1, 1, 1, 1], inForce := 0, laneErr := [0, 0, 0, 0, 0, 0, 0, 0], txBytes := 0,
    rxBytes := 0, aseq := 0, aexpect := 0, areplay := [], aresend := [], awaiting := [],
    anakSend := false, anoProgress := 0, asent := [] }

/-- A receive window (R282). -/
structure Window where
  src : Nat
  stream : Nat
  ctx : Nat
  base : Nat
  cap : Nat
  /-- core key and event counter of the poster (R284) -/
  core : Nat
  ec : Nat
  /-- slot in which it was posted -/
  slot : Nat
  landed : List Nat
deriving DecidableEq, Repr

/-- A ring collective in flight on this member (R290). -/
structure Bulk where
  cid : Nat
  kind : Nat
  cop : Nat
  ring : Nat
  dirs : Nat
  cal : Bool
  accum : Bool
  sample : Nat
  lat : Nat
  lfmt : Nat
  dfmt : Nat
  src : Nat
  dst : Nat
  pieceBytes : Nat
  n : Nat
  pos : Nat
  ctx : Nat
  core : Nat
  ec : Nat
  slot : Nat
  /-- pieces' chunks whose result is written, by piece and chunk -/
  done : List (Nat × Nat)
  /-- chunks taken on their way here: phase, piece and chunk -/
  seen : List (Nat × Nat × Nat)
  /-- chunks of each member's slot, known from its length word (R293) -/
  need : List (Nat × Nat)
  /-- first results of sampled chunks waiting for the other path: piece, chunk and FP32 values; those compared -/
  paths : List (Nat × Nat × List Nat)
  compared : List (Nat × Nat)
  /-- the poster has its event -/
  told : Bool
deriving DecidableEq, Repr

/-- Where an array's append rows go (R131): the row table has `n` entries at offset `table`. -/
structure ArrTarget where
  layer : Nat
  head : Nat
  kv : Nat
  col : Nat
  table : Nat
  n : Nat
deriving DecidableEq, Repr

/-- A converted row handed to the append drain: its target, its row number, its format and its bytes (R105). -/
structure AppRow where
  arr : Nat
  target : ArrTarget
  row : Nat
  fmt : Nat
  ctx : Nat
  kind : Nat
  seq : Nat
  bytes : List Byte
deriving DecidableEq, Repr

/-- A matrix array (chapter 03). A set or an entry not written is undefined; `gen` names the draw that stands for such
contents. -/
structure Arr where
  active : Option (List Byte)
  shadow : Option (List Byte)
  sum : Cells (Option W32)
  /-- check bytes of the sum buffer's pairs; an unlisted one is that of a clean pair (R433) -/
  check : Cells (Option Byte)
  gen : Nat
  /-- the cycle, counted as `Strokes.cycles` is, at which the array accepts its next command (R95), and the bytes and
  cycles of the one in issue (R137) -/
  ready : Nat
  feed : Nat × Nat
  target : Option ArrTarget
  /-- it has had a command since reset (R113), and one above the stroke of its last one -/
  used : Bool
  lastCmd : Nat
  /-- fill passes that its past gaps still owe, oldest gap first, each with whether its first pass is still to come (R113) -/
  gaps : List (Nat × Bool)
  /-- passes in gaps that firmware has inserted (R116, R435) -/
  inserted : Nat
  /-- one above the stroke of its last pass, and of its last pass in a stroke without a command -/
  lastFill : Nat
  lastIdle : Nat
  /-- gated cycles not yet counted, and the cycle from which the array is gated where its gap lasts (R113) -/
  gate : Nat
  gateFrom : Nat
  /-- the earliest stroke whose work of a staged unit 16 passes do not yet cover, with the passes missing, and one above the
  last such stroke (R435) -/
  cover : Option (Nat × Nat)
  work : Nat
  /-- cycles not yet counted in the registers of Table 03.19 -/
  issueRem : Nat
  fillRem : Nat
  gatedRem : Nat
deriving DecidableEq, Repr

def Arr.new : Arr :=
  { active := none, shadow := none, sum := [], check := [], gen := 0, ready := 0, feed := (0, 1), target := none,
    used := false, lastCmd := 0, gaps := [], inserted := 0, lastFill := 0, lastIdle := 0, gate := 0, gateFrom := 0,
    cover := none, work := 0, issueRem := 0, fillRem := 0, gatedRem := 0 }

/-- What the vector engine keeps of its last command (R160, R161): the offset and bytes of its destination, its count, its
output format where it wrote one value per element, the commands chained up to it, and what it wrote. -/
structure VecPrev where
  dst : Nat
  bytes : Nat
  count : Nat
  ofmt : Option Nat
  chain : Nat
  /-- the bytes on its result path -/
  out : List Byte
deriving DecidableEq, Repr

/-- A loop a sequencer is in (R132): words [start, stop) run `count` times. -/
structure LoopFr where
  start : Nat
  stop : Nat
  count : Nat
  iter : Nat
  stride : Nat
deriving DecidableEq, Repr

/-- The block a core runs (R123, R124, R135). -/
structure BlockRun where
  ctx : Nat
  kind : Nat
  seq : Nat
  slot : Nat
  spanEnd : Bool
  cast : Nat
  base : Nat
  len : Nat
  pc : Nat
  loops : List LoopFr
  /-- issue cycle of the last command -/
  last : Nat
  ended : Bool
  overran : Bool
  /-- `Strokes.cycles` and the stroke number of the stroke in which it started -/
  edge : Nat
  began : Nat
  /-- the latest of its completions that Table 04.11 fixes; whether it holds a command whose completion is not fixed; the
  channels it waits for (R136) -/
  done : Nat
  unfixed : Bool
  holds : List Nat
  /-- the vector engine's last command (R160) -/
  vprev : Option VecPrev
deriving DecidableEq, Repr

/-- A word of a core cache line: data, bare check byte and tag (R244). -/
structure CWord where
  d : Word
  c : Byte
  tag : Byte
deriving DecidableEq, Repr

/-- A line of a core cache: 128 bytes from `addr`, with the words that have been read. -/
structure CLine where
  addr : Nat
  way : Nat
  ctx : Nat
  words : List (Option CWord)
deriving DecidableEq, Repr

/-- A read request of a MOVE: source bytes [lo, hi), and the words once they are there. `how`: 0 outstanding, 1 data
held, 2 written, 3 failed, 4 dropped. -/
structure DmaReq where
  index : Nat
  lo : Nat
  hi : Nat
  how : Nat
  /-- the stroke in which it went out; `none` while it waits at the core for quota (R248) -/
  issued : Option Nat
  /-- the epoch expected of its words -/
  expect : Option Nat
  /-- words of the extent: data, bare check byte, tag, and whether it was uncorrectable -/
  data : List (CWord × Bool)
  /-- 0 none, 1 some word stale with the same GEN, 2 some word with another GEN -/
  stale : Nat
  /-- data served by the core cache, or by a host read slot -/
  early : Option (List (CWord × Bool))
deriving DecidableEq, Repr

/-- A MOVE with its requests (R145, R146, R242). -/
structure DmaMv where
  src : Nat
  dst : Nat
  len : Nat
  half : Option Nat
  full : Option Nat
  /-- `ECHK` is 0b01: the writes of an attempt are held -/
  echk : Bool
  attempt : Nat
  runahead : Bool
  reqs : List DmaReq
  halfDone : Bool
deriving DecidableEq, Repr

/-- A DMA loop that is repeating (R143). -/
structure DmaLoop where
  pc : Nat
  body : Nat
  rep : Nat
  count : Nat
  sinc : Nat
  dinc : Nat
deriving DecidableEq, Repr

/-- A DMA channel beside its registers (R130, R142–R148). -/
structure Chan where
  ctx : Nat
  kind : Nat
  seq : Nat
  /-- word of the `DMA_START` that started the program, and one above the stroke of the block that holds it -/
  start : Nat
  began : Nat
  loops : List DmaLoop
  moves : List DmaMv
  next : Nat
  /-- END has been reached -/
  ended : Bool
  /-- MOVEs that met stale words of another GEN: source extents (R243) -/
  deferred : List (Nat × Nat)
deriving DecidableEq, Repr

def Chan.idle : Chan :=
  { ctx := 0, kind := 3, seq := 0, start := 0, began := 0, loops := [], moves := [], next := 0, ended := false, deferred := [] }

/-- A core beside its registers (chapters 03 and 04, R244–R247). -/
structure Core where
  /-- the command store, 4,096 words (R121) -/
  store : Cells Word
  /-- SLOT_IN0–SLOT_IN2 as last written -/
  latch : Cells Word
  /-- slot entries, head first (R122) -/
  queue : List (List Word)
  block : Option BlockRun
  /-- one above the stroke in which the head was last compared (R123) -/
  compared : Nat
  arrays : Cells Arr
  /-- the cycle, counted as `Strokes.cycles` is, at which the vector engine accepts its next command -/
  vready : Nat
  /-- rows handed to the append drain, oldest first (R207) -/
  rows : List AppRow
  chans : Cells Chan
  /-- first in the order of R16 among the channels that compete for quota (R147) -/
  chTurn : Nat
  /-- lines, the most recently used first -/
  cache : List CLine
deriving DecidableEq, Repr

def Core.new : Core :=
  { store := [], latch := [], queue := [], block := none, compared := 0, arrays := [], vready := 0, rows := [], chans := [], chTurn := 0, cache := [] }

/-- A fixed-function engine beside its registers (R163–R165). -/
structure Eng where
  /-- job entries, head first, and JOB_IN0–JOB_IN2 as last written -/
  queue : List (List Word)
  latch : Cells Word
  job : Option (List Word)
  /-- one above the stroke in which the head was last compared -/
  compared : Nat
  overran : Bool
  /-- segments whose digest mismatched, over the SHA256 jobs so far (R186) -/
  mismatches : Nat
deriving DecidableEq, Repr

def Eng.new : Eng := { queue := [], latch := [], job := none, compared := 0, overran := false, mismatches := 0 }

/-- An increment on its way to another core's event counter (R141). -/
structure Signal where
  die : Nat
  core : Nat
  ec : Nat
  inc : Nat
deriving DecidableEq, Repr

/-- The scratchpads and the DDR modules. A scratchpad byte is keyed by its device physical address; a byte of DDR
channel c at channel-local address x by 2^48 + c × 2^38 + x. Check bytes and tags are keyed by the word, a word's key
being its first byte's. An unlisted byte reads zero; an unlisted check byte is that of a clean word, and an unlisted
tag is 0x00 (R526). -/
structure Mem where
  data : List Host.Cell
  check : Cells (Option Byte)
  tag : List Host.Cell
deriving DecidableEq, Repr

/-- Storage of a page: bytes at an address of DDR or of the host window, or a flash object. -/
inductive Storage where
  | bytes (addr n : Nat)
  | object (num : Nat)
deriving DecidableEq, Repr

/-- A page whose rows are being read from host memory: its key, where they go, the bytes still to come, and the stroke in
which the reads were issued (R202, R219, R220). -/
structure PageMove where
  handle : Nat
  ord : Nat
  dest : Storage
  left : Nat
  began : Nat
deriving DecidableEq, Repr

/-- Whose read a read slot carries. -/
inductive RdOwner where
  | dma (die core ch index : Nat)
  /-- words of a page that is on its way: its key, and their offset in the page -/
  | page (handle ord off : Nat)
  | access
deriving DecidableEq, Repr

/-- A read slot of the Umajo port (R465). -/
structure RdSlot where
  gen : Nat
  busy : Bool
  /-- host-window offset and bytes -/
  addr : Nat
  bytes : Nat
  ctx : Nat
  /-- reported lost by the adapter, and lost in the device, once each (R464) -/
  told : Bool
  lost : Bool
  /-- the stroke in which the read was asked for (R260) -/
  began : Nat
  owner : RdOwner
deriving DecidableEq, Repr

def RdSlot.free : RdSlot :=
  { gen := 0, busy := false, addr := 0, bytes := 0, ctx := 0, told := false, lost := false, began := 0,
    owner := .access }

/-- A queue pair as the device holds it beside its registers (R419, R420, R472–R478). -/
structure HostQ where
  /-- the commands fetched and not completed, oldest first -/
  cmds : List HostCmd
  /-- records that wait for room in the event queue -/
  buffer : List (List Word)
  /-- a record was dropped since the last one written -/
  overflow : Bool
  /-- a read of entries failed: none is read before the next doorbell (R474) -/
  stalled : Bool
  /-- records written and not yet notified, and `COALESCE` of a context's queue -/
  unseen : Nat
  coalesce : Nat
  /-- submission and event queue words of a context's queue (Table 14.8) -/
  sq : Word
  eq : Word
deriving DecidableEq, Repr

def HostQ.new : HostQ :=
  { cmds := [], buffer := [], overflow := false, stalled := false, unseen := 0, coalesce := 0, sq := 0, eq := 0 }

/-- The Umajo port beside its registers (chapter 14). -/
structure Umajo where
  /-- host region table: entries in force and entries waiting for the frame boundary, laid out as HWIN_DATA -/
  regions : Cells Word
  waiting : Cells (Option Word)
  /-- the host window is fenced (R457) -/
  fenced : Bool
  slots : Cells RdSlot
  /-- reads that wait for a slot, and for their choice the grants of the window in progress by context and the first
  context in the order of R16 (R414) -/
  rdWait : List RdSlot
  grants : List Nat
  ctxTurn : Nat
  /-- the next `MTAG` of a write, and the last write sent under each, with whether it was sent again (R464), and the stroke in
  which it was posted (R260) -/
  mtag : Nat
  writes : Cells (Option (UmMsg × Bool × Nat))
  /-- messages waiting, posted, non-posted and completions, each with its place in the order of R469 -/
  out : List (List (Nat × UmMsg))
  stamp : Nat
  /-- first in the order of R16 among the classes -/
  turn : Nat
  /-- bytes of granted messages not yet in a flit -/
  stream : List Byte
  /-- corrected symbols attributed to each lane, with the stroke from which they are counted (R457) -/
  laneErr : Cells (Nat × Nat)
  credits : List Nat
  owed : List Nat
  fseq : Nat
  expect : Nat
  acked : Nat
  replay : List UmFlit
  resend : List UmFlit
  nakSend : Bool
  nakOpen : Bool
  /-- error reports waiting for a control flit -/
  control : List (Word × Word)
  noProgress : Nat
  /-- the flit last put on the lanes -/
  tx : Option UmFlit
  /-- bytes of messages received that are not yet whole, and messages received whole -/
  rx : List Byte
  inbox : List UmMsg
  queues : Cells HostQ
deriving DecidableEq, Repr

/-- A token stretch of a request that has no outcome yet (R346, R358). -/
structure Stretch where
  seq : Nat
  /-- next position and positions prefilled at its end -/
  pos : Nat
  pref : Nat
  /-- it holds token records; its last token ends the request -/
  recs : Bool
  last : Bool
  /-- the due stroke of its first token, and the cast of its tokens -/
  due : Nat
  cast : Nat
deriving DecidableEq, Repr

/-- A request in its slot (R340–R364, Tables 10.2, 10.9, 10.14). -/
structure Req where
  handle : Nat
  ctx : Nat
  model : Nat
  st : Nat
  dclass : Nat
  draft : Nat
  deff : Nat
  maxNew : Nat
  ttftUs : Nat
  tbtUs : Nat
  topP : Nat
  temp : Nat
  nonce : Nat
  stopEn : Bool
  stop : Nat
  topK : Nat
  /-- handle of the prefix, its positions, and the prompt's tokens -/
  pre : Nat
  preLen : Nat
  prompt : List Nat
  ringLog : Nat
  ringAddr : Nat
  produced : Nat
  consumed : Nat
  userTag : Nat
  /-- next position to compute, one past the last sealed, and where the request ends -/
  next : Nat
  sealed : Nat
  endPos : Nat
  prefilled : Nat
  prefSealed : Nat
  span : Nat
  due : Nat
  /-- acceptance stroke, and the delivery stroke of the last token -/
  accepted : Nat
  lastAt : Option Nat
  ttft : Nat
  tbtMax : Nat
  late : Nat
  /-- a soft request whose last token was late -/
  behind : Bool
  order : Nat
  /-- its cast, once it holds one (R387) -/
  cast : Nat
  held : Bool
  /-- positions of the prefill piece in the step under way, and whether the step holds a decode row -/
  piece : Nat
  inStep : Bool
  /-- skip checks of its row that have failed in a row, 3 where its row runs over every page (R218); the ordinals of the
  skippable pages that its next step keeps, as far as the last one shows it -/
  skipRound : Nat
  kept : List Nat
  /-- a sampler job has had its row in the step under way (R243) -/
  sampled : Bool
  /-- devices of its sequence-parallel group, 1 for this one alone (R213) -/
  parts : Nat
  stretches : List Stretch
  /-- status with which it is to end -/
  final : Option Nat
  /-- steps and accepted drafts of the window of R362 -/
  winSteps : Nat
  winAcc : Nat
  /-- the PAUSE under way and its time to live -/
  pausing : Option (HostCmd × Nat)
deriving DecidableEq, Repr

/-- A registered prefix (R365–R367). -/
structure PrefixRun where
  handle : Nat
  ctx : Nat
  model : Nat
  len : Nat
  span : Nat
  /-- `SPAN_TOKENS` (R366) -/
  spanToks : Nat
  tokens : List Nat
  prefilled : Nat
  prefSealed : Nat
  piece : Nat
  stretches : List Stretch
  order : Nat
  dropped : Bool
  /-- the command that has not completed -/
  cmd : Option HostCmd
deriving DecidableEq, Repr

/-- A resident model (R370–R373): `role` of Table 10.11. -/
structure Model where
  handle : Nat
  ctx : Nat
  role : Nat
  tp : Nat
  bytes : Nat
  maqOf : Nat
  prog : Program
  /-- the core, 48 × die + core, that each logical core of its program is bound to (R415) -/
  bound : List (Option Nat)
  /-- it is being replaced -/
  leaving : Bool
  /-- the cast numbers of its copies, oldest first (R385) -/
  casts : List Nat
deriving DecidableEq, Repr

/-- Where a copy of a model stands in DDR (R241, R385). -/
structure CopyAt where
  ctx : Nat
  model : Nat
  cast : Nat
  addr : Nat
  bytes : Nat
deriving DecidableEq, Repr

/-- A LOAD_MODEL that waits for a model to leave, for its barrier, or for a tag to post it under: `stage` 0, 1 and 2; the
status this member has found. -/
structure Load where
  cmd : HostCmd
  shard : Shard
  prog : Program
  stage : Nat
  status : Nat
deriving DecidableEq, Repr

/-- A page as a pause object keeps it: its entry and, where its storage could be read, its bytes. -/
structure PausedPage where
  die : Nat
  entry : Word × Word
  bytes : Option (List Byte)
deriving DecidableEq, Repr

/-- A flash object (R255–R257). `state`: 1 open, 2 sealed, 3 expired, 4 lost. -/
structure FlObj where
  num : Nat
  ctx : Nat
  kind : Nat
  blocks : Nat
  ttl : Nat
  state : Nat
  /-- the targets in service over which it is striped, by 32 × plinth die + target -/
  targets : List Nat
  /-- runs of blocks written: first and count -/
  written : List (Nat × Nat)
  /-- content, by 64-bit word; content whose form the manual does not give is the free values from a draw on -/
  data : Cells Word
  draw : Option Nat
  /-- the sealed state of a paused request, and its pages (R368) -/
  paused : Option (Req × List PausedPage)
  /-- the digest of each 1 MiB segment -/
  digests : List (List Byte)
  /-- running time at which it was sealed, in µs -/
  sealedAt : Nat
deriving DecidableEq, Repr

/-- The flash targets and the translation layer's map, which survive reset (R254–R259). -/
structure Flash where
  targets : List FlashTarget
  objects : List FlObj
  /-- erase blocks erased since start-up, by target (R259) -/
  erases : Cells Nat
  /-- blocks retired on each target (R259) -/
  grown : Cells Nat
  /-- running time in READY, RUNNING and HALTED, in µs (R256) -/
  us : Nat
deriving DecidableEq, Repr

/-- A batch of a context (R337–R339): its sequences as length, handle, tag and first token entry, and the token entries.
`looped`: firmware formed it in a loop. -/
structure Batch where
  num : Nat
  bytes : Nat
  seqs : List (Nat × Nat × Nat × Nat)
  tokens : List Word
  looped : Bool
deriving DecidableEq, Repr

/-- A learning configuration (Table 09.6). -/
structure LearnCfg where
  model : Nat
  steps : Nat
  stages : Nat
  opt : Nat
  test : Bool
  offload : Bool
  wire32 : Bool
  tokenMean : Bool
  group : Nat
  wd : Nat
  lr : Nat
  beta1 : Nat
  beta2 : Nat
  clip : Nat
  eps : Nat
  batch : Nat
  mb : Nat
  lossScale : Int
  qdepth : Nat
  stepEvents : Bool
deriving DecidableEq, Repr

/-- The gather of a piece (R310–R312): the group and pass that it serves, its matrix and number, its buffer, and, in slots
from the step's first, when it is posted and when its products begin and end; the slots that the cores idle before that. -/
structure Gather where
  group : Nat
  back : Bool
  matrix : Nat
  layer : Nat
  piece : Nat
  buffer : Nat
  post : Nat
  first : Nat
  stop : Nat
  idle : Nat
deriving DecidableEq, Repr

/-- The learning step under way (R305–R309, R312, R321, R329). -/
structure LearnRun where
  batch : Nat
  /-- the seal sequence that the attempt takes (R71, R305) -/
  seq : Nat
  /-- whole-pass mode -/
  whole : Bool
  /-- where each sequence was dealt: sequence, first member and members -/
  deal : List (Nat × Nat × Nat)
  /-- groups of micro-batches, the largest count over the members -/
  groups : Nat
  /-- the gathers of the step, those posted, the rings on which the next one is, and what the two gather buffers hold -/
  gathers : List Gather
  sent : Nat
  onRings : Nat
  buffers : List (Option Gather)
  /-- what this device's stage does in each slot of the pipeline: 0 nothing, 1 a group forward, 2 a group backward (R327) -/
  pipe : List Nat
  /-- each die's share of the shard for the finishing jobs: first element and count (R331) -/
  shares : List (Nat × Nat)
  /-- the norm has been posted; the reduced squared norm and token count -/
  posted : Bool
  norm : Option (Word × Word)
  /-- `LR`, `WD`, `BETA1`, `BETA2`, `EPS`, `BC1`, `BC2`, `CLIP` and `INV_SCALE` of its finishing records, once they are
  formed (R330) -/
  record : List Nat
deriving DecidableEq, Repr

/-- Learning in a context (chapter 09). -/
structure Learn where
  cfg : Option LearnCfg
  prog : Option Program
  /-- the core that each logical core of its program is bound to -/
  bound : List (Option Nat)
  /-- the next step is the first after a change of the configuration -/
  changed : Bool
  cmd : Option HostCmd
  /-- n and t of R307, and LIVE_SET -/
  step : Nat
  opt : Nat
  live : Nat
  batches : List Batch
  run : Option LearnRun
  /-- the batch of the next step, and the steps still to run -/
  next : Nat
  left : Nat
  /-- steps sealed by the command, and voids of the step under way -/
  sealed : Nat
  voids : Nat
  /-- what Table 09.7 reports of the last step -/
  gnorm : Nat
  tokens : Nat
  skipped : Bool
  faultReason : Nat
  faultLayer : Nat
  faultRs : Bool
  idle : Nat
  /-- bytes of its regions in DDR (R304) -/
  regions : Nat
  /-- this member's tiles of each matrix and its runs of 32 elements of each vector: first and count (R303) -/
  tiles : List (Nat × Nat)
  runs : List (Nat × Nat)
  /-- layers of each stage (R324, R328) -/
  layers : List Nat
  /-- where each die keeps its FP64 partial (R320) -/
  partials : Cells Nat
deriving DecidableEq, Repr

def Learn.none : Learn :=
  { cfg := Option.none, prog := Option.none, bound := [], changed := false, cmd := Option.none, step := 0, opt := 0, live := 0,
    batches := [], run := Option.none, next := 0, left := 0, sealed := 0, voids := 0, gnorm := 0, tokens := 0,
    skipped := false, faultReason := 0, faultLayer := 511, faultRs := false, idle := 0, regions := 0, tiles := [], runs := [], layers := [], partials := [] }

/-- A turn policy (Table 11.8). -/
structure Policy where
  learn : Nat
  gen : Nat
  mode : Nat
  stale : Nat
  steps : Nat
  quota : Nat
  timeMs : Nat
deriving DecidableEq, Repr

/-- A move of a turn's plan: the slot, counted from the turn's first, and destination tiles of a matrix to scan the source tiles
of or to build (R395). -/
structure TurnMove where
  scan : Bool
  slot : Nat
  matrix : Nat
  first : Nat
  count : Nat
deriving DecidableEq, Repr

/-- The loop and the turns of a context, beside its PHASE registers (chapter 11). -/
structure Loop where
  policy : Option Policy
  /-- a policy set while the loop runs, whose values are not yet all in force -/
  waiting : Option Policy
  turnEvents : Bool
  ref : Nat
  reward : Nat
  /-- layers of each stage of the reference and the reward model (R325) -/
  refLayers : List Nat
  rewardLayers : List Nat
  /-- number of the next batch that SCORE forms, and of the next one that LEARN uses -/
  formed : Nat
  used : Nat
  stop : Option HostCmd
  forced : List HostCmd
  /-- rollouts counted in GENERATE: handle and sealed positions -/
  rollouts : List (Nat × Nat)
  /-- learning steps sealed in this LEARN -/
  sealed : Nat
  /-- the stroke of the turn's first slot, and its voids -/
  first : Option Nat
  voids : Nat
  /-- each die's tensor table, one above the highest tensor scanned, and the next group of eight to be exchanged -/
  tables : Cells Nat
  top : Nat
  next : Nat
  /-- what the turn under way runs in each of its slots (R395) -/
  moves : List TurnMove
deriving DecidableEq, Repr

def Loop.none : Loop :=
  { policy := Option.none, waiting := Option.none, turnEvents := false, ref := 0, reward := 0, refLayers := [], rewardLayers := [], formed := 0, used := 0,
    stop := Option.none, forced := [], rollouts := [], sealed := 0, first := Option.none, voids := 0, tables := [],
    top := 0, next := 0, moves := [] }

/-- A context beside its CONTEXTS registers (chapter 12). -/
structure CtxRec where
  dieMask : Nat
  coreFirst : Nat
  cores : Nat
  slice : Nat
  mapLimit : Nat
  flashBw : Nat
  /-- a share body whose shares apply at the next frame boundary -/
  shares : Option (List Word)
  /-- frames it has run on its set since it took it, and frames it has waited -/
  ran : Nat
  waited : Nat
  /-- every member wants it pre-empted; every member can run it (R416) -/
  preempt : Bool
  resume : Bool
  /-- batches formed so far: the number of the step under way -/
  steps : Nat
  /-- the steps that the last formation formed, in the order in which they run: model and cast of each (R388) -/
  casts : List (Nat × Nat)
  /-- a span is in progress (R81), and one above the stroke that ran its last slot -/
  span : Bool
  spanLast : Nat
  /-- the stroke in which a reset was accepted, the steps of Table 12.6 done, its commands and `KEEP_OBJ` -/
  resetAt : Nat
  stage : Nat
  resets : List HostCmd
  keep : Bool
deriving DecidableEq, Repr

def CtxRec.none : CtxRec :=
  { dieMask := 0, coreFirst := 0, cores := 0, slice := 0, mapLimit := 0, flashBw := 0, shares := Option.none, ran := 0,
    waited := 0, preempt := false, resume := false, steps := 0, casts := [], span := false, spanLast := 0, resetAt := 0, stage := 0, resets := [], keep := false }

/-- A core's partition as a save area holds it: bytes and check bytes by their addresses, and event counters (R417). -/
structure Saved where
  ctx : Nat
  core : Nat
  data : List Host.Cell
  check : Cells (Option Byte)
  evc : List Nat
deriving DecidableEq, Repr

/-- The reasons for which the block stops. -/
inductive Fault where
  /-- raised by RESET_RELEASE when the image's clocks break a limit of R518: outside them no chapter of the manual
  holds, so no effect is given. Safe: the model stops where the part goes on in a way the manual does not tell. -/
  | clockLimits
deriving DecidableEq, Repr

/-- The reasons for which the model has no meaning for a command. -/
inductive Refusal where
  /-- raised by an arm of `exec` whose command has no meaning yet. Safe. -/
  | notModelled (mnemonic : String)
deriving DecidableEq, Repr

/-- The device. -/
structure State where
  pins : Pins
  /-- the control-and-status registers, by offset in control-and-status space -/
  regs : Cells Word
  /-- the values in force of the registers whose writes take effect at a boundary: CP_WAYS at the next stroke edge (R246),
  the CTX_BIND blocks and CAP_W at the next frame boundary (R428, R525) -/
  eff : Cells Word
  strokes : Strokes
  arm : Arm
  units : List SealUnit
  /-- outcomes applied: context, sequence and whether it sealed -/
  outcomes : List (Nat × Nat × Bool)
  /-- the seal group of each context, empty for this device alone (R71) -/
  groups : Cells (List (Nat × Nat))
  boot : Boot
  faults : Faults
  ddr : List DdrModule
  mem : Mem
  /-- segment tables: 8,192 entries a plinth die, by 8,192 × die + segment (R230, R231) -/
  segs : Cells Word
  /-- region epochs: DDR by 4,194,304 × die + region, and the host window's on PD0 (R240) -/
  epochs : Cells Byte
  hostEpochs : Cells Byte
  /-- PL0–PL23 -/
  links : Cells Link
  /-- route tables: 4,096 entries a plinth die, by 4096 × die + device (R281) -/
  routes : Cells Word
  windows : List Window
  bulk : List Bulk
  /-- the cores, by 48 × die + core -/
  cores : Cells Core
  signals : List Signal
  /-- the engines, by 8 × die + engine: 0 sampler, 1 random-number, 2 finishing, 3 check, 4 and 5 pointing -/
  engines : Cells Eng
  /-- page maps, by 65,536 × die + entry: the two words of an entry (R195, R197) -/
  maps : Cells (Word × Word)
  /-- the stroke in which an entry was last looked up or appended to, and one above the step in which it last received rows,
  by the same number -/
  mapUse : Cells (Nat × Nat)
  /-- the pages that each append drain resolved last, the latest first: handle, ordinal and entry (R206), by 48 × die + core -/
  drains : Cells (List (Nat × Nat × Nat))
  /-- where in DDR the summaries of a page at tier 2 or 3 stay (R219), by 2^20 × handle + ordinal -/
  sums : Cells Nat
  /-- pages with a row that was appended more than once, whose summaries are to be rewritten: handle and ordinal (R360) -/
  redone : List (Nat × Nat)
  moving : List PageMove
  /-- old storage of moved pages, with the stroke from which it may be released (R202) -/
  toRelease : List (Nat × Storage)
  flash : Flash
  /-- request slots, prefixes by index, and the last `USE` of each index: 65,536 × kind + 4,096 × context + index (R341) -/
  reqs : Cells (Option Req)
  prefixes : Cells (Option PrefixRun)
  uses : Cells Nat
  models : List Model
  copies : List CopyAt
  loading : List Load
  learns : Cells Learn
  loops : Cells Loop
  ctxs : Cells CtxRec
  saves : List Saved
  /-- requests and prefixes accepted so far -/
  taken : Nat
  um : Umajo
  /-- what has been counted and does not yet make up a unit of a counter of MiB or GiB: by counter -/
  parts : Cells Nat
  answer : Answer
  /-- draws of free values so far: the model's own, not the spec's -/
  free : Nat
  /-- commands waiting, first in, first out -/
  pending : List Instr
deriving DecidableEq, Repr

/-- A register's word. -/
def State.reg (s : State) (a : Nat) : Word := cget resetWord s.regs a

/-- Set a register's word. -/
def State.setReg (s : State) (a : Nat) (v : Word) : State := { s with regs := cset resetWord s.regs a v }

/-- A field of register `i` of the like registers at a block's base. -/
def State.get (s : State) (base : Nat) (f : Fld) (i : Nat := 0) : Nat := f.get (s.reg (base + f.off + i * f.step))

/-- Set a field. -/
def State.put (s : State) (base : Nat) (f : Fld) (v : Nat) (i : Nat := 0) : State :=
  s.setReg (base + f.off + i * f.step) (f.put (s.reg (base + f.off + i * f.step)) v)

/-- Count in a field, which stops at its largest value. -/
def State.count (s : State) (base : Nat) (f : Fld) (n : Nat := 1) (i : Nat := 0) : State :=
  s.put base f (min (s.get base f i + n) (2 ^ f.w - 1)) i

/-- The state right after reset: RESET_N held, the rails within tolerance, every register at its reset value, no
command waiting. -/
def State.reset : State where
  pins := { resetN := true, haltN := false, railsOk := true, thermtrip := false, gated := false, jtag := .bypass,
            tdo := [], cells := [], driven := false }
  regs := []
  eff := []
  strokes := { running := false, kind := .working, overran := false, slips := [], haltFrom := 0, waitFrame := false,
               lost := false, good := 0, bad := 0, silent := 0, marked := false, toStep := false, ended := false,
               overruns := [], split := [], cycles := 0, moved := 0, lastErr := 0, announced := 0, prevLevel := 0,
               levels := [], source := none, heardOld := false, nextMaster := none }
  arm := { seen := [], msgSeq := 0, colls := [], collDone := [], silence := 0, links := [], devs := [], outside := [] }
  units := []
  outcomes := []
  groups := []
  boot := { rootKey := Config.rootKey, prov := Config.provenance, flash := Config.bootFlash, image := none, treeReady := false }
  faults := { fenced := [], toFence := [], bound := [], triggers := [], retests := [], down := [], failing := [],
              frameCounts := [] }
  ddr := Config.ddrModules
  mem := { data := [], check := [], tag := [] }
  segs := []
  epochs := []
  hostEpochs := []
  links := []
  routes := []
  windows := []
  bulk := []
  cores := []
  signals := []
  engines := []
  maps := []
  mapUse := []
  drains := []
  sums := []
  redone := []
  moving := []
  toRelease := []
  flash := { targets := Config.flashTargets, objects := [], erases := [], grown := [], us := 0 }
  reqs := []
  prefixes := []
  uses := []
  models := []
  copies := []
  loading := []
  learns := []
  loops := []
  ctxs := []
  saves := []
  taken := 0
  um := { regions := [], waiting := [], fenced := false, slots := [], rdWait := [], grants := [], ctxTurn := 0, mtag := 0, writes := [],
          out := [[], [], []], stamp := 0, turn := 0, stream := [], laneErr := [], credits := [1024, 256, 1024], owed := [0, 0, 0],
          fseq := 0, expect := 0, acked := 4095, replay := [], resend := [], nakSend := false, nakOpen := false,
          control := [], noProgress := 0, tx := none, rx := [], inbox := [], queues := [] }
  parts := []
  answer := { status := 0, data := 0, path := [] }
  free := 0
  pending := []

end Sys2Proof.Machine
end

