-- ==== Sys2Proof/Machine/Ops.lean ====
section
/-! DEFINITION. The operations that many commands share: free values, device states, log records, void reasons and
their scope, the fabric map, and sending on the armature. -/

namespace Sys2Proof.Machine

/-! Status codes, Table 00.7 -/
namespace Status
def ok : Nat := 0x00
def late : Nat := 0x01
def lateEnd : Nat := 0x02
def void : Nat := 0x03
def gone : Nat := 0x04
def stale : Nat := 0x05
def tierFail : Nat := 0x06
def expired : Nat := 0x07
def notResident : Nat := 0x08
def overrun : Nat := 0x09
def sigBad : Nat := 0x0A
def topology : Nat := 0x0B
def retracted : Nat := 0x0C
def denied : Nat := 0x0D
def quarantined : Nat := 0x0E
end Status

/-! Device states, Table 02.11 -/
namespace Dev
def off : Nat := 0
def reset : Nat := 1
def booting : Nat := 2
def selftest : Nat := 3
def ready : Nat := 4
def running : Nat := 5
def halted : Nat := 6
def failed : Nat := 7
end Dev

/-! Bits of the void reasons, Table 02.8 -/
namespace Reason
def check : Nat := 0
def chunk : Nat := 1
def calipers : Nat := 2
def gone : Nat := 3
def overrun : Nat := 4
def missing : Nat := 5
def mismatch : Nat := 6
def tierFail : Nat := 7
def selftest : Nat := 8
def clock : Nat := 9
def lockstep : Nat := 10
def preempt : Nat := 11
def halt : Nat := 12
def lock : Nat := 13
def priorVoid : Nat := 14
end Reason

/-- The next free value. -/
def State.draw (s : State) : Word × State := (Config.freeValue s.free, { s with free := s.free + 1 })

def State.devState (s : State) : Nat := s.get Base.device Reg.devState
def State.setDevState (s : State) (v : Nat) : State := s.put Base.device Reg.devState v
/-- `STROKE_COUNT` -/
def State.stroke (s : State) : Nat := s.get Base.device Reg.strokeCount
/-- `SCHED_POS` -/
def State.sched (s : State) : Nat := s.get Base.device Reg.schedPos
def State.myNum (s : State) : Nat := s.get Base.device Reg.devNum
/-- The length of a frame in strokes (R49). -/
def State.frame (s : State) : Nat := 2 ^ s.get Base.device Reg.frameLog2
/-- READY, RUNNING or HALTED: the states in which commands are taken in (Table 00.8). -/
def State.serving (s : State) : Bool :=
  s.devState == Dev.ready || s.devState == Dev.running || s.devState == Dev.halted

/-- Answer a register access. -/
def State.reply (s : State) (status : Nat) (data : Word := 0) : State :=
  { s with answer := { status := BitVec.ofNat 8 status, data := data, path := [] } }

/-! Control cores (R27) -/

/-- The control-and-status unit of a control core's die: die controller c of CDn is 4n + c, hub controller h of PDp is
32 + 4p + h. -/
def controlUnit (n : Nat) : Nat := if n < 32 then n / 4 else 0x10 + (n - 32) / 4
/-- The index of Table 13.4 of a control core. -/
def controlIndex (n : Nat) : Nat := (if n < 32 then 0x30 else 0x40) + n % 4
/-- Hub controller 0 of PD0. -/
def bootController : Fin 40 := 32
/-- The die controller that supervises a core of its die. -/
def supervisor (core : Nat) : Nat := core / 12

/-- Controllers of a die that are in service. -/
def State.ctrlsUp (s : State) (unit : Nat) : List Nat :=
  (List.range 4).filter fun c => (s.get (Base.errors unit) Reg.ctrlOk).testBit c

/-- The controller of a die that has a duty: the one it belongs to, or else the die's lowest-numbered one in service
(R440). -/
def State.dutyOf (s : State) (unit c : Nat) : Nat :=
  if (s.ctrlsUp unit).contains c then c else (s.ctrlsUp unit).headD c

/-- The controller that supervises a core now, and the control core that has the boot controller's run-time duties. -/
def State.supervisorNow (s : State) (die core : Nat) : Nat := 4 * die + s.dutyOf die (supervisor core)
def State.bootNow (s : State) : Fin 40 := ⟨32 + s.dutyOf 0x10 0 % 4, by omega⟩

/-- A unit of the device as `FENCE` names it. -/
def uid (unit index : Nat) : UnitId := ⟨BitVec.ofNat 5 unit, BitVec.ofNat 8 index⟩

/-- The unit, or the whole die it lies on, is fenced. -/
def State.isFenced (s : State) (unit index : Nat) : Bool :=
  s.faults.fenced.any fun u => u.unit.toNat == unit && (u.index.toNat == index || u.index.toNat == 0xFF)

/-- One unit lies within the other: they are equal, or one is the whole die. -/
def unitMeets (u v : UnitId) : Bool :=
  u.unit == v.unit && (u.index == v.index || u.index == 0xFF || v.index == 0xFF)

/-- Log a record in a die's ERROR block (R452, Table 13.9). -/
def State.log (s : State) (unit action : Nat) (ctx : Option Nat) (source index detail : Nat) : State :=
  let b := Base.errors unit
  let i := s.get b Reg.errNext
  let w0 := action * 2 ^ 62 + b2n ctx.isSome * 2 ^ 61 + s.stroke % 2 ^ 61
  let w1 := source % 64 * 2 ^ 58 + index % 64 * 2 ^ 52 + ctx.getD 0 % 16 * 2 ^ 48 + detail % 2 ^ 48
  (((s.put b Reg.errRecW0 w0 i).put b Reg.errRecW1 w1 i).put b Reg.errNext ((i + 1) % 32)).count b Reg.errTotal

/-- Set a reason in every staged unit of the contexts (R73). -/
def State.addReason (s : State) (ctxs : List Nat) (r : Nat) : State :=
  { s with units := s.units.map fun u =>
      if u.staged && ctxs.contains u.ctx then
        { u with reasons := u.reasons ||| (1#16 <<< r), cause := u.cause.orElse fun _ => some (r, s.sched) } else u }

/-- Whether some unit of the contexts is staged. -/
def State.anyStaged (s : State) (ctxs : List Nat) : Bool := s.units.any fun u => u.staged && ctxs.contains u.ctx

/-- The contexts bound to a unit (R430). -/
def State.boundCtxs (s : State) (u : UnitId) : List Nat :=
  (List.range 16).filter fun c => s.faults.bound.any fun p => p.1 == c && unitMeets p.2 u

/-- Hardware adds a unit to a context's mask at its first grant to that context (R430). -/
def State.grant (s : State) (ctx : Nat) (u : UnitId) : State :=
  if s.faults.bound.contains (ctx, u) then s
  else { s with faults := { s.faults with bound := s.faults.bound ++ [(ctx, u)] } }

/-- A detector's report (R431): the reason in every staged unit of the contexts bound to the unit, and a log record
whose `ACTION` says whether one was set (R452). A report of a unit already fenced is ignored (Table 13.5). -/
def State.report (s : State) (u : UnitId) (r source index detail : Nat) (ctx : Option Nat := none) : State :=
  if s.isFenced u.unit.toNat u.index.toNat then s
  else
    let ctxs := s.boundCtxs u
    (s.addReason ctxs r).log u.unit.toNat (b2n (s.anyStaged ctxs)) ctx source index detail

/-- A reason for the staged units of one context, with a log record on a die. -/
def State.reportCtx (s : State) (unit ctx r source index detail : Nat) : State :=
  (s.addReason [ctx] r).log unit (b2n (s.anyStaged [ctx])) (some ctx) source index detail

/-- Note a trigger (R439). Those of a command store, kind 2, have no window; the others count for 1,024 strokes. -/
def State.trigger (s : State) (kind : Nat) (u : UnitId) (detail : Nat := 0) : State :=
  { s with faults := { s.faults with triggers :=
      { kind := kind, unit := u, detail := detail, stroke := s.stroke } ::
        (s.faults.triggers.filter fun t => decide (s.stroke < t.stroke + 1024)) } }

/-- The triggers of a kind at a unit that still count. -/
def State.triggers (s : State) (kind : Nat) (u : UnitId) : List Trigger :=
  s.faults.triggers.filter fun t =>
    t.kind == kind && t.unit == u && (kind == 2 || decide (s.stroke < t.stroke + 1024))

/-! What each context holds -/

def State.learn (s : State) (c : Nat) : Learn := cget (fun _ => Learn.none) s.learns c
def State.setLearn (s : State) (c : Nat) (x : Learn) : State :=
  { s with learns := cset (fun _ => Learn.none) s.learns c x }
def State.loop (s : State) (c : Nat) : Loop := cget (fun _ => Loop.none) s.loops c
def State.setLoop (s : State) (c : Nat) (x : Loop) : State := { s with loops := cset (fun _ => Loop.none) s.loops c x }
def State.ctxRec (s : State) (c : Nat) : CtxRec := cget (fun _ => CtxRec.none) s.ctxs c
def State.setCtxRec (s : State) (c : Nat) (x : CtxRec) : State :=
  { s with ctxs := cset (fun _ => CtxRec.none) s.ctxs c x }

/-! Arbitration (R16, R414) -/

/-- The winner among requesters of `n` under an order that starts at `turn`, and where the order starts afterwards: only a
contended grant rotates it. -/
def r16 (turn n : Nat) (req : List Nat) : Option (Nat × Nat) :=
  (minBy (fun r => (r + n - turn) % n) req).map fun w =>
    (w, if (req.filter (· != w)).isEmpty then turn else (w + 1) % n)

/-- A grant by share: a context below its share in the window goes first, then the lowest class; among equals R16 decides.
Answers the context, the next order and the window's grants, which start again after 64. -/
def sharePick (grants : List Nat) (turn : Nat) (share qos : Nat → Nat) (ctxs : List Nat) :
    Option (Nat × Nat × List Nat) :=
  let n (c : Nat) : Nat := grants.getD c 0
  let claims := ctxs.filter fun c => decide (n c < share c)
  let pool := if claims.isEmpty then ctxs else claims
  let low := (minBy id (pool.map qos)).getD 0
  (r16 turn 16 (pool.filter fun c => qos c == low)).map fun (c, t) =>
    let g := (List.range 16).map fun i => n i + if i = c then 1 else 0
    (c, t, if 64 ≤ g.foldl (· + ·) 0 then [] else g)

/-! The fabric map (R488) -/

def lwListed (w : W32) : Bool := w.getLsbD 31
def lwDateline (w : W32) : Bool := w.getLsbD 30
def lwPeer (w : W32) : Nat := w.toNat / 2 ^ 18 % 4096
def lwLink (w : W32) : Nat := w.toNat / 2 ^ 13 % 32
def lwFlight (w : W32) : Nat := w.toNat / 2 ^ 4 % 512

def State.fabric (s : State) : List DevRec :=
  match s.boot.image with
  | some i => i.fabric
  | none => []

/-- The devices of the map that are in service as this device sees them (R443). -/
def State.devsInService (s : State) : List Nat :=
  (List.range s.fabric.length).filter fun d => !s.arm.devs.contains d && !s.arm.outside.contains d

/-- Neighbours of a device in a map over listed links that nobody fenced. -/
def adjacent (fabric : List DevRec) (links : List (Nat × Nat)) (devs : List Nat) (d : Nat) : List Nat :=
  match fabric[d]? with
  | none => []
  | some r => (r.links.mapIdx fun l w =>
      if lwListed w && !links.contains (d, l) && !links.contains (lwPeer w, lwLink w) && devs.contains (lwPeer w)
      then [lwPeer w] else []).flatten

/-- Breadth-first search: the devices reached, with their distances. -/
def bfs (adj : Nat → List Nat) : Nat → Nat → List Nat → List (Nat × Nat) → List (Nat × Nat)
  | 0, _, _, seen => seen
  | fuel + 1, d, front, seen =>
    let next := (front.flatMap adj).eraseDups.filter fun x => !(seen.map (·.1)).contains x
    if next.isEmpty then seen else bfs adj fuel (d + 1) next (seen ++ next.map fun x => (x, d + 1))

/-- Distances from a device to every device it reaches over links in service. -/
def State.distances (s : State) (src : Nat) : List (Nat × Nat) :=
  bfs (adjacent s.fabric s.arm.links s.devsInService) s.fabric.length 0 [src] [(src, 0)]

/-- Hop count between two devices over links in service. -/
def State.dist (s : State) (a b : Nat) : Option Nat := ((s.distances a).find? fun p => p.1 == b).map (·.2)

/-! The armature (R57–R60, R278, R279) -/

def State.link (s : State) (l : Nat) : Link := cget (fun _ => Link.idle) s.links l
def State.setLink (s : State) (l : Nat) (k : Link) : State :=
  { s with links := cset (fun _ => Link.idle) s.links l k }

/-- The link is in service. -/
def State.linkUp (s : State) (l : Nat) : Bool := s.get (Base.peerLink l) Reg.linkState == 2
/-- The link carries armature messages: in service or retraining, its armature lane in service (R271). -/
def State.armUp (s : State) (l : Nat) : Bool :=
  (s.get (Base.peerLink l) Reg.linkState == 2 || s.get (Base.peerLink l) Reg.linkState == 3) &&
    s.get (Base.peerLink l) Reg.armOk == 1
def State.peer (s : State) (l : Nat) : Nat := s.get (Base.peerLink l) Reg.peerDev

/-- The lowest-numbered link of the armature graph to each neighbour. -/
def State.armLinks (s : State) : List Nat :=
  (List.range 24).filter fun l =>
    s.armUp l && !((List.range l).any fun m => s.armUp m && s.peer m == s.peer l)

/-- The lowest-numbered link of the armature graph to a device. -/
def State.linkTo (s : State) (dev : Nat) : Option Nat := s.armLinks.find? fun l => s.peer l == dev

/-- The link toward a device: the lowest-numbered one to a neighbour on a shortest path. -/
def State.hopTo (s : State) (dev : Nat) : Option Nat :=
  let ds := s.distances dev
  match ds.find? fun p => p.1 == s.myNum with
  | none => none
  | some (_, d) => s.armLinks.find? fun l => ds.contains (s.peer l, d - 1) && decide (0 < d)

/-- The message in eight words, its CRC in the last (Table 02.3). -/
def armWords (m : ArmMsg) : List Word :=
  let w0 := m.strokeLo.toNat * 2 ^ 44 + m.ctx.toNat * 2 ^ 40 + m.dest.toNat * 2 ^ 28 + m.src.toNat * 2 ^ 16
    + m.tag.toNat * 2 ^ 8 + m.mtype.toNat
  let w5 := m.ops.toNat * 2 ^ 48 + m.stage.toNat * 2 ^ 44 + m.msgSeq.toNat
  let ws := [word w0] ++ ((m.payload ++ [0, 0, 0, 0]).take 4) ++ [word w5, m.subject]
  ws ++ [word (crc32c (bytesOf ws)).toNat]

/-- The message that eight words hold. -/
def armOfWords (ws : List Word) : ArmMsg :=
  let w0 := ws.getD 0 0
  let w5 := ws.getD 5 0
  { mtype := BitVec.ofNat 8 (bits w0 7 0), tag := BitVec.ofNat 8 (bits w0 15 8), src := BitVec.ofNat 12 (bits w0 27 16),
    dest := BitVec.ofNat 12 (bits w0 39 28), ctx := BitVec.ofNat 4 (bits w0 43 40),
    strokeLo := BitVec.ofNat 20 (bits w0 63 44), payload := (ws.drop 1).take 4, ops := BitVec.ofNat 16 (bits w5 63 48),
    stage := BitVec.ofNat 4 (bits w5 47 44), msgSeq := BitVec.ofNat 32 (bits w5 31 0), subject := ws.getD 6 0 }

/-- One step of a fault-injection generator (R298). -/
def xorshift (x : W32) : W32 :=
  let x := x ^^^ (x <<< 13)
  let x := x ^^^ (x >>> 17)
  x ^^^ (x <<< 5)

/-- The generator's value chooses the flit or frame. -/
def injChosen (x : W32) (k : Nat) : Bool := k != 0 && x.toNat % 2 ^ k == 0

/-- The class of a message by its type (Table 02.4). -/
def armClass (ws : List Word) : Nat :=
  let t := bits (ws.getD 0 0) 7 0
  if t = 1 then 0 else if t < 7 then 1 else 2

/-- A message among those waiting: behind every one of its own class or a lower one. -/
def armInsert (ws : List Word) : List (List Word) → List (List Word)
  | [] => [ws]
  | x :: xs => if armClass ws < armClass x then ws :: x :: xs else x :: armInsert ws xs

/-- A message waits for a link's armature lane, one of a lower class before those of a higher one (R58). -/
def State.armFrame (s : State) (l : Nat) (ws : List Word) : State :=
  let k := s.link l
  s.setLink l { k with awaiting := armInsert ws k.awaiting }

/-- A new message of this device. -/
def State.mkMsg (s : State) (mtype dest ctx tag : Nat) (payload : List Word) (ops stage : Nat) (subject : Word) :
    ArmMsg × State :=
  ({ mtype := BitVec.ofNat 8 mtype, tag := BitVec.ofNat 8 tag, src := BitVec.ofNat 12 s.myNum,
     dest := BitVec.ofNat 12 dest, ctx := BitVec.ofNat 4 ctx, strokeLo := BitVec.ofNat 20 s.stroke,
     payload := (payload ++ [0, 0, 0, 0]).take 4, ops := BitVec.ofNat 16 ops, stage := BitVec.ofNat 4 stage,
     msgSeq := BitVec.ofNat 32 s.arm.msgSeq, subject := subject },
   { s with arm := { s.arm with msgSeq := (s.arm.msgSeq + 1) % 2 ^ 32 } })

/-- Send on a list of links. -/
def State.armFrames (s : State) (ls : List Nat) (ws : List Word) : State := ls.foldl (fun s l => s.armFrame l ws) s

/-- Note a flooded message as seen (R59). -/
def State.see (s : State) (m : ArmMsg) : State :=
  { s with arm := { s.arm with seen := (m.src.toNat, m.msgSeq.toNat) :: s.arm.seen } }

def State.seenMsg (s : State) (m : ArmMsg) : Bool := s.arm.seen.contains (m.src.toNat, m.msgSeq.toNat)

/-- Flood a message of this device to every neighbour. -/
def State.flood (s : State) (mtype ctx : Nat) (payload : List Word) (subject : Word) : State :=
  let (m, s) := s.mkMsg mtype 0xFFF ctx 0 payload 0 0 subject
  (s.see m).armFrames s.armLinks (armWords m)

/-- A message came, so a frame was accepted (R443). -/
def State.armHeard (s : State) : State := { s with arm := { s.arm with silence := 0 } }

/-- Count forwarded messages at the switches of the links they leave by. -/
def State.countForward (s : State) (ls : List Nat) : State :=
  ls.foldl (fun s l => s.count (Base.armature (0x10 + l / 12)) Reg.armForwarded) s

/-- Forward a flooded message once, to every neighbour but the one it came from (R59). -/
def State.forwardFlood (s : State) (l : Nat) (m : ArmMsg) : State :=
  let ls := s.armLinks.filter fun k => s.peer k != s.peer l
  ((s.see m).armFrames ls (armWords m)).countForward ls

/-- Send a message toward its destination; with no path it goes nowhere. -/
def State.sendTo (s : State) (dest : Nat) (m : ArmMsg) : State :=
  match s.hopTo dest with
  | some l => s.armFrame l (armWords m)
  | none => s

/-- Forward a message that is not for this device. -/
def State.forwardTo (s : State) (m : ArmMsg) : State :=
  match s.hopTo m.dest.toNat with
  | some l => (s.armFrame l (armWords m)).countForward [l]
  | none => s

/-- A unit is fenced, lies on a fenced die, or is to be fenced at the next edge. -/
def State.goneUnit (s : State) (u : UnitId) : Bool :=
  s.isFenced u.unit.toNat u.index.toNat || s.faults.toFence.any fun p => p.1 == u || p.1 == ⟨u.unit, 0xFF⟩

/-- Note a unit of this device to be fenced at the next edge, once (R442, Table 13.5). -/
def State.quarantine1 (s : State) (u : UnitId) (source index detail : Nat) : State :=
  if s.goneUnit u then s
  else { s with faults := { s.faults with toFence := s.faults.toFence ++ [(u, source, index, detail)] } }

/-- The units whose loss takes their whole die (Table 13.3): of a compute die all four die controllers, the sampler,
random-number, finishing or check engine, or both pointing engines; of a plinth die all four hub controllers. -/
def State.dieLost (s : State) (unit : Nat) : Bool :=
  let gone (i : Nat) : Bool := s.goneUnit (uid unit i)
  if unit < 8 then
    [0x30, 0x31, 0x32, 0x33].all gone || [0x36, 0x37, 0x38, 0x39].any gone || (gone 0x34 && gone 0x35)
  else [0x40, 0x41, 0x42, 0x43].all gone

/-- Decide on a quarantine: the unit, and its die where that is lost with it. -/
def State.quarantine (s : State) (u : UnitId) (source index detail : Nat) : State :=
  let s := s.quarantine1 u source index detail
  if s.dieLost u.unit.toNat then s.quarantine1 ⟨u.unit, 0xFF⟩ source index detail else s

/-- Enter FAILED, with the cause of Table 15.10 where the start-up sequence failed; ALERT_N follows. -/
def State.fail (s : State) (cause : Option Nat) : State :=
  let s := s.setDevState Dev.failed
  let s := s.put Base.boot Reg.bootStage 0xFF
  match cause with
  | some c => s.put Base.boot Reg.failCause c
  | none => s

end Sys2Proof.Machine
end

