-- ==== Sys2Proof/Machine/Mem.lean ====
section
/-! DEFINITION. The memories: the address map (R33), the placing of DDR addresses (R230–R232), the check byte, the fold
and the tag (R234–R238), and loading and storing one word. -/

namespace Sys2Proof.Machine

/-- What stands at a device physical address (Table 01.9, R34). -/
inductive Place where
  | ddr
  | scratch (die core off : Nat)
  | host
  | csr
  | reserved
deriving DecidableEq, Repr

/-- The bank of a scratchpad offset, and its row in the bank: 3,072 rows of 64 bytes in each of 32 banks (R28). -/
def scratchBank (off : Nat) : Nat := off / 2 ^ 6 % 32
def scratchRow (off : Nat) : Nat := off / 2 ^ 11

/-- The part of the address map that holds an address. -/
def placeOf (a : Nat) : Place :=
  if a < 0x080000000000 then .ddr
  else if 0x100000000000 ≤ a ∧ a < 0x100200000000 then
    let x := a - 0x100000000000
    let core := x / 2 ^ 24 % 64
    let off := x % 2 ^ 24
    if core < 48 ∧ scratchRow off < 3072 then .scratch (x / 2 ^ 30) core off else .reserved
  else if 0x200000000000 ≤ a ∧ a < 0x300000000000 then .host
  else if 0x300000000000 ≤ a ∧ a < 0x300020000000 then .csr
  else .reserved

/-- The device physical address of a scratchpad byte. -/
def scratchAddr (die core off : Nat) : Nat := 0x100000000000 + die * 2 ^ 30 + core * 2 ^ 24 + off

/-! The code (R234, R235) -/

/-- The columns of the data bits: the 8-bit values of weight 3, then the first eight of weight 5. -/
def eccColumns : List Nat :=
  ((List.range 256).filter fun n => popCount 8 n == 3) ++ [0x1F, 0x2F, 0x37, 0x3B, 0x3D, 0x3E, 0x4F, 0x57]

/-- The check bits of a word: bit j is the parity of the data bits whose column has bit j. -/
def secded (d : Word) : Byte :=
  BitVec.ofNat 8 ((eccColumns.mapIdx fun i c => if d.getLsbD i then c else 0).foldl (· ^^^ ·) 0)

/-- The fold of a word at a byte address with an epoch (R235). -/
def foldOf (a e : Nat) : Byte :=
  let x := a / 8 % 2 ^ 45
  let g := (List.range 7).foldl (fun g i => g ^^^ x / 2 ^ (7 * i) % 128) 0
  let g := g ^^^ e % 128 ^^^ (if e / 128 % 2 = 1 then 0x7F else 0)
  BitVec.ofNat 8 (g + b2n (parity 7 g) * 128)

/-- How a word decodes (Table 07.5). -/
inductive Ecc where
  | clean | fixed | bad
deriving DecidableEq, Repr

/-- Decode a word by its bare check byte: the data, the bare check byte and the outcome. A single-bit error is
corrected, in the data or in the check byte. -/
def eccDecode (d : Word) (c : Byte) : Word × Byte × Ecc :=
  let s := (secded d ^^^ c).toNat
  if s = 0 then (d, c, .clean)
  else
    match eccColumns.findIdx? (· == s) with
    | some i => (d ^^^ (1#64 <<< i), c, .fixed)
    | none => if popCount 8 s = 1 then (d, secded d, .fixed) else (d, c, .bad)

/-- The check byte of a poisoned word (R237), bare. -/
def poisonCheck (d : Word) : Byte := secded d ^^^ 0xFF

/-- A word as it travels, freshly formed. -/
def fresh (d : Word) : TWord := { d := d, c := secded d }

/-! Stored words -/

/-- The 64-bit word at a key: eight bytes, the first the least significant (R4). -/
def Mem.word (m : Mem) (k : Nat) : Word :=
  Machine.word (leNat ((List.range 8).map fun i => cget (fun _ => 0) m.data (k + i)))

/-- Write one word's bytes. -/
def Mem.setWord (m : Mem) (k : Nat) (d : Word) : Mem :=
  { m with data := (List.range 8).foldl (fun c i => cset (fun _ => 0) c (k + i) (d.extractLsb' (8 * i) 8)) m.data }

/-- The memory is in its canonical form: bytes, check bytes and tags each. -/
def Mem.wf (m : Mem) : Bool := cwf (fun _ => 0) m.data && cwf (fun _ => none) m.check && cwf (fun _ => 0) m.tag

/-- The tag beside a word. -/
def Mem.tagAt (m : Mem) (k : Nat) : Byte := cget (fun _ => 0) m.tag k

/-- Put a word, its check byte as stored and its tag. -/
def Mem.put (m : Mem) (k : Nat) (d : Word) (c t : Byte) : Mem :=
  { m.setWord k d with check := cset (fun _ => none) m.check k (some c), tag := cset (fun _ => 0) m.tag k t }

/-- A stored word decoded for address `a` (R238): data, bare check byte, tag and outcome. -/
structure Loaded where
  d : Word
  c : Byte
  tag : Byte
  ecc : Ecc
deriving DecidableEq, Repr

def Mem.load (m : Mem) (k a : Nat) : Loaded :=
  let d := m.word k
  let t := m.tagAt k
  match cget (fun _ => none) m.check k with
  | none => { d := d, c := secded d, tag := t, ecc := .clean }
  | some c =>
    let (d, c, o) := eccDecode d (c ^^^ foldOf a t.toNat)
    { d := d, c := c, tag := t, ecc := o }

/-! Placing DDR addresses -/

/-- The plinth die that serves a DDR address (R230). -/
def State.ddrPd (s : State) (a : Nat) : Nat :=
  let p := a / 2 ^ 12 % 2
  if s.isFenced (0x10 + p) 0xFF then 1 - p else p

/-- A segment's entry on a plinth die. -/
def State.seg (s : State) (p seg : Nat) : Word := cget (fun _ => 0) s.segs (p * 8192 + seg)

/-- The channel and the channel-local address of a DDR address under an entry (R232). -/
def ddrPlace (p : Nat) (e : Word) (a : Nat) : Nat × Nat :=
  let chs := setBits 16 (bits e 15 0)
  let w := chs.length
  let i := (a / 2 ^ 13 ^^^ a / 2 ^ 21) % w
  (16 * p + chs.getD i 0, bits e 55 43 * 2 ^ 25 + a % 2 ^ 30 / 2 ^ 13 / w * 2 ^ 12 + a % 2 ^ 12)

/-- The key under which a stored byte of an address lies. Where one plinth die serves both halves of a segment, the half that
was the other's has a place of its own, which R232 does not give: DESIGN CHOICE (log 193). -/
def State.key (s : State) (a : Nat) : Nat :=
  match placeOf a with
  | .ddr =>
    let p := s.ddrPd a
    let (c, x) := ddrPlace p (s.seg p (a / 2 ^ 30 % 8192)) a
    (if a / 2 ^ 12 % 2 = p then 2 ^ 48 else 2 ^ 49) + c * 2 ^ 38 + x
  | _ => a

/-- The channel that serves a DDR address. -/
def State.chanOf (s : State) (a : Nat) : Nat :=
  let p := s.ddrPd a
  (ddrPlace p (s.seg p (a / 2 ^ 30 % 8192)) a).1

/-- The current epoch of a DDR address's region, or of a host-window address's (R240). -/
def State.epochOf (s : State) (a : Nat) : Byte :=
  match placeOf a with
  | .ddr => cget (fun _ => 0) s.epochs (s.ddrPd a * 4194304 + a / 2 ^ 21 % 4194304)
  | .host => cget (fun _ => 0) s.hostEpochs ((a - 0x200000000000) / 2 ^ 26)
  | _ => 0

/-- Count something within the frame in progress. -/
def State.inFrame (s : State) (k : Nat) (n : Nat := 1) : State :=
  { s with faults := { s.faults with
      frameCounts := cset (fun _ => 0) s.faults.frameCounts k (cget (fun _ => 0) s.faults.frameCounts k + n) } }

def State.frameCount (s : State) (k : Nat) : Nat := cget (fun _ => 0) s.faults.frameCounts k

/-- The unit of the core a scratchpad lies in, or of the DDR channel. -/
def chanUnit (c : Nat) : UnitId := uid (0x10 + c / 16) (c % 16)

/-- An uncorrectable scratchpad word: counted and logged, `CHECK` in the core's scope, and the trigger of three distinct
addresses within 1,024 strokes (R238, R439, R452). -/
def State.scratchBad (s : State) (die core a : Nat) : State :=
  let u := uid die core
  let s := s.count (Base.errors die) Reg.sramUncorr
  let s := s.report u Reason.check 0x01 core a
  let s := s.trigger 1 u a
  if 3 ≤ ((s.triggers 1 u).map (·.detail)).eraseDups.length then s.quarantine u 0x01 core a else s

/-- An uncorrectable DDR word: counted and logged, `CHECK` in the channel's scope, and the trigger of sixteen in one
frame (R238, R439, R452). -/
def State.ddrBad (s : State) (ch a : Nat) : State :=
  let u := chanUnit ch
  let b := Base.ddr ch
  let s := s.count b Reg.ddrUncorr
  let s := s.report u Reason.check 0x0A (ch % 16) a
  let s := s.inFrame (32 + ch)
  if 16 ≤ s.frameCount (32 + ch) then s.quarantine u 0x0A (ch % 16) a else s

/-- The same words found uncorrectable by a narrow write's read: counted and logged, with no reason set (R146). -/
def State.mergeBad (s : State) (a : Nat) : State :=
  match placeOf a with
  | .scratch die core _ => (s.count (Base.errors die) Reg.sramUncorr).log die 0 none 0x01 core a
  | _ =>
    let ch := s.chanOf a
    (s.count (Base.ddr ch) Reg.ddrUncorr).log (0x10 + ch / 16) 0 none 0x0A (ch % 16) a

/-- Count bytes toward a counter of larger units: `key` holds what is left over. -/
def State.countUnits (s : State) (key unit base : Nat) (f : Fld) (bytes : Nat) : State :=
  let n := cget (fun _ => 0) s.parts key + bytes
  let s := { s with parts := cset (fun _ => 0) s.parts key (n % unit) }
  if n / unit = 0 then s else s.count base f (n / unit)

/-- Count bytes of DDR traffic at a channel (R264). -/
def State.ddrTraffic (s : State) (a : Nat) (write : Bool) (bytes : Nat) : State :=
  match placeOf a with
  | .ddr =>
    let ch := s.chanOf a
    s.countUnits (4 * ch + b2n write) (2 ^ 20) (Base.ddr ch) (if write then Reg.ddrWrMib else Reg.ddrRdMib) bytes
  | _ => s

/-- Load the word at a word-aligned address of a scratchpad or of DDR: a corrected word is written back and counted,
an uncorrectable one is counted, logged and reported (R238); `merge` marks a narrow write's read. -/
def State.load (s : State) (a : Nat) (merge : Bool := false) : Loaded × State :=
  let k := s.key a
  let r := s.mem.load k a
  let s := s.ddrTraffic a false 8
  match r.ecc with
  | .clean => (r, s)
  | .fixed =>
    let s := { s with mem := s.mem.put k r.d (secded r.d ^^^ foldOf a r.tag.toNat) r.tag }
    match placeOf a with
    | .scratch die core _ =>
      (r, (s.count (Base.errors die) Reg.sramCorrected).log die 0 none 0x01 core a)
    | _ =>
      let ch := s.chanOf a
      (r, ((s.count (Base.ddr ch) Reg.ddrCorrected).inFrame ch).log (0x10 + ch / 16) 0 none 0x11 (ch % 16) a)
  | .bad =>
    if merge then (r, s.mergeBad a)
    else
      match placeOf a with
      | .scratch die core _ => (r, s.scratchBad die core a)
      | _ => (r, s.ddrBad (s.chanOf a) a)

/-- Store a word that arrives with its bare check byte: a single-bit error is corrected, a word that does not decode is
stored poisoned, and the destination's fold is added; DDR takes its tag from the region epoch (R236, R237, R240). -/
def State.store (s : State) (a : Nat) (w : TWord) : State :=
  let k := s.key a
  let t := match placeOf a with
    | .ddr => s.epochOf a
    | _ => 0
  let (d, c, o) := eccDecode w.d w.c
  let c := if o = .bad then poisonCheck d else if o = .fixed then secded d else c
  let s := ({ s with mem := s.mem.put k d (c ^^^ foldOf a t.toNat) t }).ddrTraffic a true 8
  match o, placeOf a with
  | .clean, _ => s
  | .fixed, .scratch die core _ => (s.count (Base.errors die) Reg.sramCorrected).log die 0 none 0x01 core a
  | .fixed, _ =>
    let ch := s.chanOf a
    (s.count (Base.ddr ch) Reg.ddrCorrected).log (0x10 + ch / 16) 0 none 0x11 (ch % 16) a
  | .bad, .scratch _ _ _ => s
  | .bad, _ =>
    let ch := s.chanOf a
    (s.count (Base.ddr ch) Reg.ddrPoisoned).log (0x10 + ch / 16) 0 none 0x11 (ch % 16) a

/-- Consecutive words from an address. -/
def State.loads (s : State) : Nat → Nat → List Loaded × State
  | _, 0 => ([], s)
  | a, n + 1 =>
    let (r, s) := s.load a
    let (rs, s) := s.loads (a + 8) n
    (r :: rs, s)

/-- Store consecutive words. -/
def State.stores (s : State) : Nat → List TWord → State
  | _, [] => s
  | a, w :: ws => (s.store a w).stores (a + 8) ws

/-- The bytes of an extent, from the words that hold it. -/
def State.loadBytes (s : State) (a n : Nat) : List Byte × State :=
  let a0 := a / 8 * 8
  let (rs, s) := s.loads a0 ((a + n + 7) / 8 - a / 8)
  (((bytesOf (rs.map (·.d))).drop (a - a0)).take n, s)

/-- Merge bytes into an old word from byte `i` on: the merged word's check byte is formed afresh, and it is poisoned
where the old word was uncorrectable or `bad` says some incoming byte's source was (R146). -/
def mergeWord (old : Loaded) (i : Nat) (new : List Byte) (bad : Bool) : TWord :=
  let ob := leBytes 8 old.d.toNat
  let d := word (leNat (ob.take i ++ new ++ ob.drop (i + new.length)))
  { d := d, c := if bad || old.ecc == .bad then poisonCheck d else secded d }

/-- Store bytes at any byte address: whole words are formed afresh, parts of a word are merged (R146). -/
def State.storeBytesGo (s : State) : Nat → Nat → List Byte → State
  | 0, _, _ => s
  | _, _, [] => s
  | fuel + 1, a, bs =>
    let i := a % 8
    let now := bs.take (8 - i)
    let w := a - i
    let s :=
      if now.length = 8 then s.store w (fresh (word (leNat now)))
      else
        let (o, s) := s.load w true
        s.store w (mergeWord o i now false)
    s.storeBytesGo fuel (a + now.length) (bs.drop (8 - i))

def State.storeBytes (s : State) (a : Nat) (bs : List Byte) : State := s.storeBytesGo (bs.length + 1) a bs

end Sys2Proof.Machine
end

