-- ==== Sys2Proof/Machine/Armature.lean ====
section
/-! DEFINITION. Tiny collectives and barriers over a sub-grid of the fabric map (R61–R64). -/

namespace Sys2Proof.Machine

/-- One operation on a word of two contributions, the one of the lower coordinate first (Table 02.6). -/
def collOp (op : Nat) (a b : Word) : Word :=
  let lanes (f : Nat → Nat → Nat) : Word :=
    word (f (bits a 63 32) (bits b 63 32) * 2 ^ 32 + f (bits a 31 0) (bits b 31 0))
  match op with
  | 0x1 => word (f64add a.toNat b.toNat)
  | 0x2 => lanes f32add
  | 0x3 => a + b
  | 0x4 => if a.toNat < b.toNat then b else a
  | 0x5 => if b.toNat < a.toNat then b else a
  | 0x6 => a ||| b
  | 0x7 => a &&& b
  | 0x8 => lanes f32max
  | 0x9 => lanes f32min
  | _ => a

/-- Combine two contributions word by word. -/
def collCombine (ops : List Nat) (a b : List Word) : List Word :=
  (List.range 4).map fun i => collOp (ops.getD i 0) (a.getD i 0) (b.getD i 0)

/-- A reserved operation refuses the contribution (R62). -/
def collOpsOk (ops : List Nat) : Bool := ops.all (· ≤ 0x9)

/-- This device's coordinates and the sizes of the dimensions. -/
def State.coords (s : State) : List Nat := ((s.fabric[s.myNum]?).map (·.coords)).getD []
def State.sizes (s : State) : List Nat := ((s.fabric[s.myNum]?).map (·.sizes)).getD []

/-- The group's run in a dimension; a group not given is this device alone. -/
def State.run (s : State) (group : List (Nat × Nat)) (d : Nat) : Nat × Nat :=
  group.getD d (s.coords.getD d 0, s.coords.getD d 0)

/-- The first dimension from `d` on in which the group is larger than one device; 4 when there is none. -/
def State.nextDim (s : State) (group : List (Nat × Nat)) (d : Nat) : Nat :=
  (((List.range 4).filter fun i => decide (d ≤ i) && (s.run group i).1 != (s.run group i).2).head?).getD 4

/-- A run that covers the whole dimension is a ring (R61). -/
def State.isRing (s : State) (group : List (Nat × Nat)) (d : Nat) : Bool :=
  (s.run group d).1 == 0 && (s.run group d).2 + 1 == s.sizes.getD d 1

/-- The member next to coordinate `x` in a direction of a dimension. -/
def State.stepCoord (s : State) (group : List (Nat × Nat)) (d x : Nat) (up : Bool) : Option Nat :=
  let (lo, hi) := s.run group d
  let n := hi + 1 - lo
  if s.isRing group d then some ((x + if up then 1 else n - 1) % n)
  else if up then (if x < hi then some (x + 1) else none)
  else if lo < x then some (x - 1) else none

/-- The device that differs from this one only in its coordinate of one dimension. -/
def State.devAt (s : State) (d x : Nat) : Option Nat := s.fabric.findIdx? fun r => r.coords == setAt s.coords d x

/-- The hops a stage needs (R61). -/
def State.stageHops (s : State) (group : List (Nat × Nat)) (d : Nat) : Nat :=
  let (lo, hi) := s.run group d
  if s.isRing group d then (hi + 1 - lo) / 2 else hi - lo

/-- The 4-bit operations in their field. -/
def opsField (ops : List Nat) : Nat :=
  ops.getD 0 0 + ops.getD 1 0 * 16 + ops.getD 2 0 * 256 + ops.getD 3 0 * 4096

/-- Send this member's value both ways along a dimension: two copies of one message, with one `MSG_SEQ`. -/
def State.stageSend (s : State) (c : Coll) : State :=
  let x := s.coords.getD c.dim 0
  let ys := ([true, false].filterMap fun up => s.stepCoord c.group c.dim x up).eraseDups
  let (m, s) := s.mkMsg c.mtype 0 c.ctx c.tag c.value (opsField c.ops) c.dim c.subject
  ys.foldl (fun s y =>
    match s.devAt c.dim y with
    | some dev =>
      match s.linkTo dev with
      | some l => s.armFrame l (armWords { m with dest := BitVec.ofNat 12 dev })
      | none => s
    | none => s) s

/-- Pass a member's stage message on along its dimension while it has hops to go. -/
def State.stageRelay (s : State) (c : Coll) (h : Heard) : State :=
  let x := s.coords.getD h.dim 0
  let (lo, hi) := s.run c.group h.dim
  let n := hi + 1 - lo
  let came := (s.fabric[s.peer h.link]?).map fun r => r.coords.getD h.dim 0
  let up := came == s.stepCoord c.group h.dim x false
  let gone := if s.isRing c.group h.dim
    then (if up then (x + n - h.coord) % n else (h.coord + n - x) % n)
    else (if up then x - h.coord else h.coord - x)
  if gone < s.stageHops c.group h.dim then
    match s.stepCoord c.group h.dim x up with
    | some y =>
      if y = h.coord then s
      else
        match s.devAt h.dim y with
        | some dev =>
          match s.linkTo dev with
          | some l => (s.armFrame l (armWords { h.msg with dest := BitVec.ofNat 12 dev })).countForward [l]
          | none => s
        | none => s
    | none => s
  else s

/-- The values of a stage in ascending coordinate order, once every member's is there. -/
def State.stageValues (s : State) (c : Coll) : Option (List (List Word)) :=
  let (lo, hi) := s.run c.group c.dim
  let x := s.coords.getD c.dim 0
  ((List.range (hi + 1 - lo)).map fun i => lo + i).mapM fun y =>
    if y = x then some c.value
    else (c.heard.find? fun h => h.dim == c.dim && h.coord == y).map (·.msg.payload)

/-- Run the stages whose values are all there: each result starts the next dimension, and the last one is the
collective's. -/
def State.collRun : Nat → State → Coll → State × Coll
  | 0, s, c => (s, c)
  | fuel + 1, s, c =>
    if 4 ≤ c.dim then (s, { c with result := some c.value })
    else
      match s.stageValues c with
      | none => (s, c)
      | some [] => (s, c)
      | some (v :: vs) =>
        let c := { c with value := vs.foldl (collCombine c.ops) v, dim := s.nextDim c.group (c.dim + 1) }
        let s := if c.dim < 4 then s.stageSend c else s
        s.collRun fuel c

/-- Votes and outcomes have a tag space of their own (R63). -/
def collClass (mtype : Nat) : Nat := if mtype = 0x0A then 0x09 else mtype

def State.findColl (s : State) (mtype tag : Nat) : Option Coll :=
  s.arm.colls.find? fun c => collClass c.mtype == collClass mtype && c.tag == tag

def State.dropColl (s : State) (mtype tag : Nat) : State :=
  { s with arm := { s.arm with colls := s.arm.colls.filter fun c =>
      !(collClass c.mtype == collClass mtype && c.tag == tag) } }

def State.putColl (s : State) (c : Coll) : State :=
  let s := s.dropColl c.mtype c.tag
  { s with arm := { s.arm with colls := s.arm.colls ++ [c] } }

/-- A collective before this member has posted: it keeps what it hears. -/
def Coll.fresh (mtype tag : Nat) : Coll :=
  { mtype := mtype, tag := tag, ctx := 0, kind := 3, subject := 0, ops := [], group := [], dim := 0, value := [], heard := [],
    posted := false, result := none, purpose := 0, poster := (0, 0, 0, 0), stroke := 0 }

/-- Note how a collective completed (R62, R64). -/
def State.collEnd (s : State) (tag status : Nat) : State :=
  { s with arm := { s.arm with collDone := cset (fun _ => 0) s.arm.collDone tag status } }

/-- Post this member's contribution: what it heard early is passed on, and the stages run as far as they can. A halted
device contributes to no collective (R82). -/
def State.collPost (s : State) (mtype tag ctx : Nat) (subject : Word) (ops : List Nat) (group : List (Nat × Nat))
    (value : List Word) (purpose : Nat) (poster : Nat × Nat × Nat × Nat := (0, 0, 0, 0)) (kind : Nat := 3) : State :=
  if s.devState = Dev.halted then s
  else
  let old := (s.findColl mtype tag).getD (Coll.fresh mtype tag)
  let c : Coll := { old with
    mtype := mtype, ctx := ctx, kind := kind, subject := subject, ops := ops, group := group, value := value, posted := true,
    dim := s.nextDim group 0, purpose := purpose, poster := poster, stroke := s.stroke }
  let s := c.heard.foldl (fun s h => s.stageRelay c h) s
  let s := if c.dim < 4 then s.stageSend c else s
  let (s, c) := s.collRun 5 c
  s.putColl c

/-- A stage message arrives: its value is kept under its dimension and its source's coordinate, passed on, and combined
once the stage is complete (R61). The second copy of a message changes nothing, also after the collective is done. -/
def State.collHear (s : State) (l : Nat) (m : ArmMsg) : State :=
  let mtype := m.mtype.toNat
  let tag := m.tag.toNat
  let d := m.stage.toNat
  match s.fabric[m.src.toNat]? with
  | none => s
  | some r =>
    if s.seenMsg m then s
    else
    let s := s.see m
    let h : Heard := { dim := d, coord := r.coords.getD d 0, link := l, msg := m }
    let c := (s.findColl mtype tag).getD (Coll.fresh mtype tag)
    if c.heard.any fun g => g.dim == h.dim && g.coord == h.coord then s
    else
      let c := { c with heard := c.heard ++ [h] }
      if c.posted then
        let s := s.stageRelay c h
        let (s, c) := s.collRun 5 c
        s.putColl c
      else s.putColl c

/-- The tags of the pool that no collective of this device holds (R63). -/
def State.freeTags (s : State) : List Nat := (List.range 64).filter fun t => (s.findColl 0x09 t).isNone

/-- Tags kept reserved for R416: one for each context with a shared core set whose collective is not in flight (R63). -/
def State.reservedTags (s : State) : Nat :=
  ((List.range 16).filter fun c => s.get Base.contexts Reg.cxShared c == 1 &&
    !(s.arm.colls.any fun k => k.purpose == 5 && k.ctx == c)).length

/-- The tags that firmware draws for its own collectives, the lowest first; none when only reserved ones are left. -/
def State.poolTags (s : State) : List Nat := s.freeTags.take (s.freeTags.length - s.reservedTags)
def State.freeTag (s : State) : Option Nat := s.poolTags.head?

/-- The seal group of a context. -/
def State.groupOf (s : State) (ctx : Nat) : List (Nat × Nat) := cget (fun _ => []) s.groups ctx

end Sys2Proof.Machine
end

