-- ==== Sys2Proof/Machine/Seal.lean ====
section
/-! DEFINITION. The seal: registering units, the vote, the outcome and the query (R71–R77). -/

namespace Sys2Proof.Machine

/-- The tag of a unit's vote and outcome: context in [3:0], sequence bits [1:0] in [5:4] (R63). -/
def voteTag (ctx seq : Nat) : Nat := ctx + seq % 4 * 16

/-- The seal wait D. -/
def State.sealWait (s : State) : Nat := s.get Base.device Reg.sealWait

def State.findUnit (s : State) (ctx seq : Nat) : Option SealUnit :=
  s.units.find? fun u => u.ctx == ctx && u.seq == seq

/-- Change one unit. -/
def State.setUnit (s : State) (u : SealUnit) : State :=
  { s with units := s.units.map fun v => if v.ctx == u.ctx && v.seq == u.seq then u else v }

/-- `NEXT_SEQ`: the oldest unit's sequence, or `next` when the context has none (Table 02.13). -/
def State.refreshSeq (s : State) (ctx next : Nat) : State :=
  let seqs := (s.units.filter (·.ctx == ctx)).map (·.seq)
  s.put Base.sealBlk Reg.nextSeq ((minBy id seqs).getD next) ctx

/-- The sequence that the next unit of a context takes: one above its last planned unit's (R71). -/
def State.planSeq (s : State) (ctx : Nat) : Nat :=
  match (s.units.filter (·.ctx == ctx)).getLast? with
  | some u => (u.seq + 1) % 2 ^ 32
  | none => s.get Base.sealBlk Reg.nextSeq ctx

/-- Register a unit with the seal logic (R71): every attempt takes the context's next sequence. `KIND` 0b11 and another
sequence register nothing. The group is remembered as the context's. -/
def State.sealRegister (s : State) (ctx kind seq first last : Nat) (group : List (Nat × Nat)) : State :=
  let open' (k : Nat) : Bool := s.units.any fun u => u.ctx == ctx && u.kind == k && u.staged
  if kind = 3 ∨ seq ≠ s.planSeq ctx then s
  else if kind = 0 ∧ open' 2 = true then s
  else if kind = 2 ∧ (open' 0 || ((cget (fun _ => Learn.none) s.learns ctx).run).isSome) = true then s
  else
    let u : SealUnit :=
      { ctx := ctx, kind := kind, seq := seq, first := first, last := last, staged := decide (first ≤ s.sched),
        cause := none, k := none, reasons := 0, voted := false, vote := none, posted := false, outcome := none, due := none,
        queried := false, group := group }
    let s := { s with units := s.units ++ [u], groups := cset (fun _ => []) s.groups ctx group }
    s.refreshSeq ctx seq

/-- Take the results of votes and outcomes that have come by the budget end of the stroke in which they were posted
(R76). -/
def State.takeVotes (s : State) : State :=
  s.arm.colls.foldl (fun s c =>
    match c.result with
    | none => s
    | some ws =>
      if c.purpose = 1 ∨ c.purpose = 2 then
        let s := s.dropColl c.mtype c.tag
        match s.findUnit c.ctx c.subject.toNat with
        | none => s
        | some u =>
          if s.stroke ≠ c.stroke ∨ s.strokes.ended = true then s
          else if c.purpose = 1 then s.setUnit { u with vote := some ws }
          else if u.outcome.isSome then s
          else s.setUnit { u with outcome := some (ws.getD 0 0 == 1), due := some c.stroke }
      else s) s

/-- Post the unit's three-word vote in stroke V = k + D + 1 (R75, R76). A halted device contributes to no collective
(R82). -/
def State.votePost (s : State) (ctx seq : Nat) : State :=
  match s.findUnit ctx seq with
  | none => s
  | some u =>
    if u.staged && !u.voted && u.k.map (· + s.sealWait + 1) == some s.stroke && s.devState != Dev.halted then
      let s := s.setUnit { u with voted := true }
      let ws := [u.reasons.setWidth 64, word seq, word seq, 0]
      (s.collPost 0x07 (voteTag ctx seq) ctx (word seq) [0x6, 0x5, 0x4, 0x0] u.group ws 1).takeVotes
    else s

/-- The reasons of a vote result: the combined ones, `MISMATCH` where members voted on other sequences, `MISSING` where
no result came (R76). -/
def voteReasons (u : SealUnit) : Half :=
  match u.vote with
  | none => u.reasons ||| (1#16 <<< Reason.missing)
  | some ws =>
    let r := (ws.getD 0 0).setWidth 16
    if ws.getD 1 0 == word u.seq && ws.getD 2 0 == word u.seq then r else r ||| (1#16 <<< Reason.mismatch)

/-- Post the unit's outcome in stroke V + 1: 1 when its vote result was clean (R76). -/
def State.outcomePost (s : State) (ctx seq : Nat) : State :=
  match s.findUnit ctx seq with
  | none => s
  | some u =>
    if u.staged && u.voted && !u.posted && u.k.map (· + s.sealWait + 2) == some s.stroke
        && s.devState != Dev.halted then
      let r := voteReasons u
      let s := s.setUnit { u with posted := true, reasons := r }
      let w : Word := if r = 0 then 1 else 0
      (s.collPost 0x08 (voteTag ctx seq) ctx (word seq) [0x7, 0x0, 0x0, 0x0] u.group [w, 0, 0, 0] 2).takeVotes
    else s

/-- No outcome result at the budget end of V + 1: the member floods its query in V + 2, and a member that did not post its
vote voids the unit without one (R77, R82). -/
def State.outcomeMissing (s : State) (ctx seq : Nat) : State :=
  match s.findUnit ctx seq with
  | none => s
  | some u =>
    let v1 := u.k.map (· + s.sealWait + 2)
    if u.staged && u.outcome.isNone && !u.queried && (v1 == some s.stroke || v1.map (· + 1) == some s.stroke) then
      if u.voted then
        if v1 == some s.stroke then s
        else
          let s := s.setUnit { u with queried := true, due := v1.map (· + 1) }
          (s.dropColl 0x08 (voteTag ctx seq)).flood 0x04 ctx [] (word seq)
      else s.setUnit { u with outcome := some false, due := some s.stroke }
    else s

/-- No reply by the edge that ends V + 2: the unit voids at that edge (R77). -/
def State.outcomeTimeout (s : State) (ctx seq : Nat) : State :=
  match s.findUnit ctx seq with
  | none => s
  | some u =>
    if u.queried && u.outcome.isNone && u.due == some s.stroke then s.setUnit { u with outcome := some false } else s

/-- Answer a query for an outcome that this member holds, applied or waiting to apply (R77). -/
def State.outcomeAnswer (s : State) (m : ArmMsg) : State :=
  let ctx := m.ctx.toNat
  let seq := m.subject.toNat
  let held := match s.outcomes.find? fun o => o.1 == ctx && o.2.1 == seq with
    | some o => some o.2.2
    | none => (s.findUnit ctx seq).bind (·.outcome)
  match held with
  | none => s
  | some ok =>
    let (r, s) := s.mkMsg 0x05 m.src.toNat ctx 0 [if ok then 0x00 else 0x03] 0 0 m.subject
    s.sendTo m.src.toNat r

/-- The first reply decides a unit that asked (R77). -/
def State.outcomeTake (s : State) (m : ArmMsg) : State :=
  match s.findUnit m.ctx.toNat m.subject.toNat with
  | none => s
  | some u =>
    if u.queried && u.outcome.isNone then s.setUnit { u with outcome := some (m.payload.getD 0 0 == 0) } else s

/-- Record an outcome in the context's SEAL registers and take the unit out (R84): its own effect is its chapter's. -/
def State.settleUnit (s : State) (u : SealUnit) (ok : Bool) : State :=
  let b := Base.sealBlk
  let c := u.ctx
  let s := { s with
    units := s.units.filter fun v => !(v.ctx == u.ctx && v.seq == u.seq),
    outcomes := (u.ctx, u.seq, ok) :: s.outcomes }
  let s := (s.put b Reg.lastStatus (if ok then Status.ok else Status.void) c).put b Reg.lastKind u.kind c
  let s := s.put b Reg.sealStroke s.stroke c
  let s :=
    if ok then
      let s := (s.put b Reg.lastSealed u.seq c).count b Reg.sealCount 1 c
      if u.kind = 0 then s.put b Reg.repeats 0 c else s
    else
      let s := (s.put b Reg.lastReason u.reasons.toNat c).count b Reg.voidCount 1 c
      if u.kind = 0 then s.count b Reg.repeats 1 c else s
  s.refreshSeq c ((u.seq + 1) % 2 ^ 32)

def execSealRegister (ctx : Ctx) (kind : BitVec 2) (seq : W32) (first last : Word)
    (group : List (BitVec 6 × BitVec 6)) (s : State) : Host.Outcome State Fault Refusal :=
  .next (s.sealRegister ctx.val kind.toNat seq.toNat first.toNat last.toNat
    (group.map fun p => (p.1.toNat, p.2.toNat)))

def execVotePost (ctx : Ctx) (seq : W32) (s : State) : Host.Outcome State Fault Refusal :=
  .next (s.votePost ctx.val seq.toNat)

def execOutcomePost (ctx : Ctx) (seq : W32) (s : State) : Host.Outcome State Fault Refusal :=
  .next (s.outcomePost ctx.val seq.toNat)

def execOutcomeMissing (ctx : Ctx) (seq : W32) (s : State) : Host.Outcome State Fault Refusal :=
  .next (s.outcomeMissing ctx.val seq.toNat)

def execOutcomeQueryTimeout (ctx : Ctx) (seq : W32) (s : State) : Host.Outcome State Fault Refusal :=
  .next (s.outcomeTimeout ctx.val seq.toNat)

/-- A flooded query, taken once and forwarded (R59, R77). -/
def State.queryTake (s : State) (l : Nat) (m : ArmMsg) : State :=
  if s.seenMsg m then s else (s.forwardFlood l m).outcomeAnswer m

def execOutcomeQuery (link : LinkNo) (msg : ArmMsg) (s : State) : Host.Outcome State Fault Refusal :=
  .next (s.armHeard.queryTake link.val msg)

/-- A reply for this device, or for another one and forwarded (R77). -/
def State.replyTake (s : State) (m : ArmMsg) : State :=
  if m.dest.toNat = s.myNum then s.outcomeTake m else s.forwardTo m

def execOutcomeReply (_link : LinkNo) (msg : ArmMsg) (s : State) : Host.Outcome State Fault Refusal :=
  .next (s.armHeard.replyTake msg)

/-- A stage message of a vote or an outcome (R61, R76). -/
def State.voteTake (s : State) (l : Nat) (m : ArmMsg) : State := (s.collHear l m).takeVotes

/-- A VOTE stage message. -/
def execVote (link : LinkNo) (msg : ArmMsg) (s : State) : Host.Outcome State Fault Refusal :=
  .next (s.armHeard.voteTake link.val { msg with mtype := 0x07 })

/-- An OUTCOME stage message. -/
def execOutcome (link : LinkNo) (msg : ArmMsg) (s : State) : Host.Outcome State Fault Refusal :=
  .next (s.armHeard.voteTake link.val { msg with mtype := 0x08 })

end Sys2Proof.Machine
end

