-- ==== Sys2Proof/Machine/Faults.lean ====
section
/-! DEFINITION. Faults (chapter 13): what a detector's report does, the quarantine triggers, and what the fence of a
unit does to the registers and to the staged units. -/

namespace Sys2Proof.Machine

/-- Clear one bit of a field. -/
def State.clearBit (s : State) (base : Nat) (f : Fld) (i : Nat) (reg : Nat := 0) : State :=
  let v := s.get base f reg
  if v.testBit i then s.put base f (v - 2 ^ i) reg else s

/-- Set one bit of a field. -/
def State.setBit (s : State) (base : Nat) (f : Fld) (i : Nat) (reg : Nat := 0) : State :=
  s.put base f (s.get base f reg ||| 2 ^ i) reg

/-- The index of Table 13.4 names a unit of a die; others are ignored. -/
def fenceIndexOk (unit index : Nat) : Bool :=
  if unit < 8 then decide (index < 0x3A) || index == 0xFF
  else if unit = 0x10 ∨ unit = 0x11 then
    decide (index < 0x1C) || (decide (0x20 ≤ index) && decide (index < 0x44)) || index == 0xFF
  else unit == 0x1F && index == 0xFF

/-- What the registers show of a fenced unit (Tables 01.15, 01.18, 01.19, 07.14, 07.16, 08.10, 13.8). -/
def State.fenceRegs (s : State) (unit index : Nat) : State :=
  if unit < 8 then
    if index < 48 then
      let s := if (s.get (Base.dieId unit) Reg.coreOk).testBit index
        then s.put (Base.dieId unit) Reg.enabledCount (s.get (Base.dieId unit) Reg.enabledCount - 1) else s
      s.clearBit (Base.dieId unit) Reg.coreOk index
    else if index < 0x34 then s.clearBit (Base.errors unit) Reg.ctrlOk (index - 0x30)
    else if index = 0xFF then s.put (Base.dieId unit) Reg.dieState 1
    else s
  else
    let p := unit - 0x10
    if index < 0x10 then
      (s.clearBit (Base.hubId p) Reg.ddrPresent index).put (Base.ddr (16 * p + index)) Reg.ddrState 3
    else if index < 0x1C then
      let l := 12 * p + (index - 0x10)
      let s := (s.clearBit (Base.hubId p) Reg.linkPresent (index - 0x10)).put (Base.peerLink l) Reg.linkState 4
      { s with arm := { s.arm with links := (s.myNum, l) :: s.arm.links } }
    else if 0x20 ≤ index ∧ index < 0x40 then
      let s := s.clearBit (Base.flash p) Reg.targetOk (index - 0x20)
      let ch := (index - 0x20) / 4
      if s.get (Base.flash p) Reg.targetOk / 2 ^ (4 * ch) % 16 = 0
      then s.clearBit (Base.hubId p) Reg.flashPresent ch else s
    else if 0x40 ≤ index ∧ index < 0x44 then s.clearBit (Base.errors unit) Reg.ctrlOk (index - 0x40)
    else if index = 0xFF then s.put (Base.hubId p) Reg.hubState 1
    else s

/-- A fence would leave the device without PD0, its hub controllers, a compute die or a DDR channel (R441). -/
def State.lastOne (s : State) (u : UnitId) : Bool :=
  let unit := u.unit.toNat
  let index := u.index.toNat
  let gone (n i : Nat) : Bool := (n == unit && i == index) || s.isFenced n i
  (unit == 0x10 && index == 0xFF) ||
    (unit == 0x10 && [0x40, 0x41, 0x42, 0x43].all (gone 0x10)) ||
    (index == 0xFF && (List.range 8).all fun d => gone d 0xFF) ||
    (decide (0x10 ≤ unit) && (decide (index < 0x10) || index == 0xFF) &&
      (List.range 2).all fun p => (setBits 16 (s.get (Base.hubId p) Reg.ddrPresent)).all fun i =>
        gone (0x10 + p) i || gone (0x10 + p) 0xFF)

/-- Keep the record that quarantined a die where PD0 shows it (R453). -/
def State.quarRec (s : State) (unit action source index detail : Nat) : State :=
  let d := if unit < 8 then unit else 8
  let w0 := action * 2 ^ 62 + s.stroke % 2 ^ 61
  let w1 := source % 64 * 2 ^ 58 + index % 64 * 2 ^ 52 + detail % 2 ^ 48
  (s.put (Base.errors 0x10) Reg.quarRecW0 w0 d).put (Base.errors 0x10) Reg.quarRecW1 w1 d

/-- Fence a unit of this device: the registers show it, every staged unit of every bound context takes reason `GONE`,
and a log record with `ACTION` 0b10 is written (R442). In its place the device enters FAILED where R441 says so. -/
def State.fenceUnit (s : State) (u : UnitId) (source index detail : Nat) : State :=
  if s.isFenced u.unit.toNat u.index.toNat then s
  else if s.lastOne u then
    (s.log (if u.unit.toNat = 0x1F then 0x10 else u.unit.toNat) 3 none source index detail).fail (some 7)
  else
    let unit := u.unit.toNat
    let s := s.addReason (s.boundCtxs u) Reason.gone
    let s := { s with faults := { s.faults with fenced := u :: s.faults.fenced } }
    let s := s.fenceRegs unit u.index.toNat
    let s := s.log unit 2 none source index detail
    if u.index.toNat = 0xFF then s.quarRec unit 2 source index detail else s

/-- The units to be fenced at this edge: a unit of a die that goes as a whole goes with it (Table 13.5). -/
def State.dueFences (s : State) : List (UnitId × Nat × Nat × Nat) :=
  s.faults.toFence.filter fun p =>
    p.1.index == 0xFF || !(s.faults.toFence.any fun q => q.1.unit == p.1.unit && q.1.index == 0xFF)

/-- The units whose own fence their die's swallows: logged, with `ACTION` 0b01 (Table 13.5). -/
def State.swallowed (s : State) : List (UnitId × Nat × Nat × Nat) :=
  s.faults.toFence.filter fun p =>
    p.1.index != 0xFF && s.faults.toFence.any fun q => q.1.unit == p.1.unit && q.1.index == 0xFF

/-- The `SUBJECT` of a `FENCE` for a unit of a device (R442). -/
def fenceSubject (dev : Nat) (u : UnitId) : Word := word (dev * 2 ^ 16 + u.unit.toNat * 2 ^ 8 + u.index.toNat)

/-- Carry out the quarantines decided in the stroke that ends: `FENCE` is flooded for each, and each is fenced. -/
def State.applyFences (s : State) : State :=
  let due := s.dueFences
  let lost := s.swallowed
  let s := { s with faults := { s.faults with toFence := [] } }
  let s := lost.foldl (fun s p => s.log p.1.unit.toNat 1 none p.2.1 p.2.2.1 p.2.2.2) s
  due.foldl (fun s p =>
    if s.devState = Dev.failed then s
    else
      let s := if s.lastOne p.1 then s else s.flood 0x03 0 [] (fenceSubject s.myNum p.1)
      s.fenceUnit p.1 p.2.1 p.2.2.1 p.2.2.2) s

/-- The unit of a peer link. -/
def linkUnit (l : Nat) : UnitId := uid (0x10 + l / 12) (0x10 + l % 12)

/-- Fence a link of this device (R270, R271, R274). -/
def State.fenceLink (s : State) (l : Nat) : State := s.quarantine (linkUnit l) 0x0C (l % 12) 0

/-- An SRAM word of a die: corrected, counted and logged; or uncorrectable, with `CHECK` and, in a scratchpad, the
trigger of three addresses (R238, R439). -/
def State.sramWord (s : State) (unit core addr : Nat) (corrected : Bool) : State :=
  if corrected then (s.count (Base.errors unit) Reg.sramCorrected).log unit 0 none 0x01 core addr
  else if unit < 8 then s.scratchBad unit core addr
  else (s.count (Base.errors unit) Reg.sramUncorr).report (uid unit 0xFF) Reason.check 0x01 core addr

/-- A word of a table, queue or buffer of a compute die (R432, R433, R452). -/
def State.bufferWord (s : State) (unit index place : Nat) (corrected : Bool) : State :=
  if corrected then (s.count (Base.errors unit) Reg.sramCorrected).log unit 0 none 0x01 index place
  else (s.count (Base.errors unit) Reg.sramUncorr).report (uid unit index) Reason.check 0x01 index place

/-- A command-store word (R121, R439, R452). -/
def State.storeWordBad (s : State) (unit core index : Nat) (corrected : Bool) : State :=
  if corrected then (s.count (Base.errors unit) Reg.sramCorrected).log unit 0 none 0x02 core index
  else
    let u := uid unit core
    let s := (s.count (Base.errors unit) Reg.sramUncorr).report u Reason.check 0x02 core index
    let s := s.trigger 2 u index
    if 2 ≤ ((s.triggers 2 u).filter fun t => t.detail == index).length then s.quarantine u 0x02 core index else s

/-- A residue or duplicate mismatch: `CHECK` in the unit's scope, and the unit is quarantined at the second within
1,024 strokes; a collective unit's counts with its link, which has no such trigger (R434, R439). -/
def State.residue (s : State) (u : UnitId) (index : Nat) (counts : Bool) : State :=
  let unit := u.unit.toNat
  let s := (s.count (Base.errors unit) Reg.errResidue).report u Reason.check 0x04 index 0
  let s := s.trigger 3 u
  if counts && decide (2 ≤ (s.triggers 3 u).length) then s.quarantine u 0x04 index 0 else s

/-- A lockstep mismatch: the pair stops, `LOCKSTEP` is set in the contexts that its die carries, and the controller is
quarantined at once (R436, R439). -/
def State.lockstep (s : State) (unit controller : Nat) : State :=
  let u := uid unit ((if unit < 8 then 0x30 else 0x40) + controller)
  if s.isFenced unit u.index.toNat then s
  else
    let s := (s.count (Base.errors unit) Reg.errLockstep).report (uid unit 0xFF) Reason.lockstep 0x05 controller 0
    s.quarantine u 0x05 controller 0

/-- Corrected symbols of an Umajo lane: more than 65,536 within a millisecond fail it, and the link retrains (R457). -/
def State.umSymbols (s : State) (lane n : Nat) : State :=
  let b := Base.umajo
  let s := s.count b Reg.umCorrSym n
  let (w, k) := cget (fun _ => (0, 0)) s.um.laneErr lane
  let old := decide (1000 ≤ (s.stroke - w) * s.get Base.device Reg.strokeUs)
  let w := if old then s.stroke else w
  let k := if old then n else k + n
  let up := s.get b Reg.umState == 2 || s.get b Reg.umState == 3
  if 65536 < k ∧ up = true then
    let s := { s with um := { s.um with laneErr := cset (fun _ => (0, 0)) s.um.laneErr lane (0, 0) } }
    ((s.clearBit b Reg.umLaneOk lane).put b Reg.umState 3).count b Reg.umRetrains
  else { s with um := { s.um with laneErr := cset (fun _ => (0, 0)) s.um.laneErr lane (w, k) } }

/-- A finding at a die (R431, R432). -/
def State.finding (s : State) (unit : Nat) (f : Finding) : State :=
  match f with
  | .sram core addr corrected => s.sramWord unit core.val addr.toNat corrected
  | .buffer index place corrected =>
    if unit < 8 ∧ fenceIndexOk unit index.toNat = true then s.bufferWord unit index.toNat place.toNat corrected else s
  | .store core w corrected => if unit < 8 then s.storeWordBad unit core.val w.toNat corrected else s
  | .residueCore core => if unit < 8 then s.residue (uid unit core.val) core.val true else s
  | .residueEngine index =>
    if unit < 8 ∧ 0x34 ≤ index.toNat ∧ index.toNat < 0x3A
    then s.residue (uid unit index.toNat) (48 + index.toNat - 0x30) true else s
  | .residueLink link =>
    if 8 ≤ unit then s.residue (linkUnit (12 * (unit - 0x10) + link.val)) link.val false else s
  | .lockstep c => s.lockstep unit c.val
  | .dieToDie crc retry repairs =>
    let b := Base.errors unit
    ((s.count b Reg.d2dCrc crc).count b Reg.d2dRetry retry).count b Reg.laneRepairs repairs
  | .fec link lane corrected bad =>
    if 8 ≤ unit then
      let l := 12 * (unit - 0x10) + link.val
      let b := Base.peerLink l
      let s := (s.count b Reg.corrSym corrected).count b Reg.uncorrCw bad
      let k := s.link l
      s.setLink l { k with laneErr := setAt k.laneErr lane.val (k.laneErr.getD lane.val 0 + corrected) }
    else s
  | .umFec lane corrected => if unit = 0x10 then s.umSymbols lane.val corrected else s

/-- The device is neither off nor held in reset. -/
def State.awake (s : State) : Bool := s.devState != Dev.off && s.devState != Dev.reset

/-- The modules of a connection (Table 01.2), and the die in whose log a module's loss stands: DESIGN CHOICE (log 171), the
compute die of a plinth connection, the die a ring connection is named by, and PD0 for the bridge. -/
def connModules : Connection → Nat
  | .plinth _ _ => 4
  | .ring _ => 2
  | .bridge => 8

def connDie : Connection → Nat
  | .plinth d _ => d.val
  | .ring d => d.val
  | .bridge => 0x10

/-- What goes with a whole connection (Table 01.4). -/
def connLost : Connection → Option UnitId
  | .plinth d _ => some (uid d.val 0xFF)
  | .ring _ => none
  | .bridge => some (uid 0x11 0xFF)

/-- The module that takes a connection's traffic for a selected number: the next one up that is not down, wrapping
(R21, R22). -/
def State.moduleFor (s : State) (c : Connection) (n : Nat) : Option Nat :=
  ((List.range (connModules c)).map fun i => (n + i) % connModules c).find? fun m => !s.faults.down.contains (c, m)

/-- The connection between ring neighbours. -/
def ringConn (s d : DieNo) : Connection := if s + 1 = d then .ring s else .ring d

/-- The connection has a module left. -/
def State.connUp (s : State) (c : Connection) : Bool := (s.moduleFor c 0).isSome

/-- The plinth die through which two compute dies that are not joined reach each other (Table 01.5). -/
def State.viaPd (s : State) (a b : DieNo) : Pd :=
  let p : Pd := Fin.ofNat 2 (a.val + b.val)
  if s.isFenced (0x10 + p.val) 0xFF then p + 1 else p

/-- The route between two dies, 8 and 9 the plinth dies (Table 01.5): ring neighbours that have lost both modules go
through a plinth die too (Table 01.4). -/
def State.dieRoute (s : State) (a b : UnitNo) : List Connection :=
  if a = b then []
  else if ha : a.val < 8 then
    if hb : b.val < 8 then
      let x : DieNo := ⟨a.val, ha⟩
      let y : DieNo := ⟨b.val, hb⟩
      if (x + 1 = y ∨ y + 1 = x) ∧ s.connUp (ringConn x y) = true then [ringConn x y]
      else
        let p := s.viaPd x y
        [.plinth x p, .plinth y p]
    else [.plinth ⟨a.val, ha⟩ (Fin.ofNat 2 b.val)]
  else if hb : b.val < 8 then [.plinth ⟨b.val, hb⟩ (Fin.ofNat 2 a.val)]
  else [.bridge]

/-- The module that an address selects: target address [9:8], [8] or [10:8] by the number of modules (Table 01.3). -/
def moduleBits (c : Connection) (a : Nat) : Nat := a / 2 ^ 8 % connModules c

/-- The modules that a packet to an address crosses between two dies, and its response returns by (R21–R23). -/
def State.crossings (s : State) (a b : UnitNo) (addr : Nat) : List (Connection × Nat) :=
  (s.dieRoute a b).filterMap fun c => (s.moduleFor c (moduleBits c addr)).map fun m => (c, m)

/-- A die-to-die module goes down until the next reset (R22). -/
def State.moduleDown (s : State) (c : Connection) (m : Nat) : State :=
  if !(decide (m < connModules c)) || s.faults.down.contains (c, m) then s
  else
    let s := { s with faults := { s.faults with down := (c, m) :: s.faults.down } }
    let s := s.log (connDie c) 0 none 0x07 m 0
    match s.moduleFor c 0, connLost c with
    | none, some u => s.quarantine u 0x07 m 0
    | _, _ => s

def execUcieModuleDown (conn : Connection) (module : Fin 8) (s : State) : Host.Outcome State Fault Refusal :=
  .next (if s.awake then s.moduleDown conn module.val else s)

end Sys2Proof.Machine
end

