-- ==== Sys2Proof/Machine/Pins.lean ====
section
/-! DEFINITION. Contacts, supplies, monitors and boundary scan (chapter 16), and the entries to OFF, RESET, READY and
HALTED. -/

namespace Sys2Proof.Machine

/-- The machine as RESET finds it: everything at its reset value but the contacts, the board's modules and what keeps
its content without power — the provenance die, the boot flash and the flash objects (R506, R526). -/
def State.restart (s : State) : State :=
  { State.reset with
    pins := { s.pins with gated := false }
    boot := { State.reset.boot with prov := s.boot.prov, flash := s.boot.flash }
    ddr := s.ddr
    flash := s.flash
    free := s.free
    pending := s.pending }

/-- ALERT_N is driven: in OFF, while FAILED, and at an applied throttle level of 8 or more (R509, R513). -/
def State.alert (s : State) : Bool :=
  s.devState == Dev.off || s.devState == Dev.failed || decide (8 ≤ s.get Base.device Reg.throttleLevel)

/-- RESET_N is filtered active (R511). -/
def State.assertReset (s : State) : State :=
  let s := { s with pins := { s.pins with resetN := true } }
  if s.devState = Dev.off then s else (s.restart).setDevState Dev.reset

/-- A rail leaves its band for more than 10 µs: OFF, with THERMTRIP_N and ALERT_N held active (R509). -/
def State.powerOff (s : State) : State :=
  let s := { s with pins := { s.pins with railsOk := false, thermtrip := true } }
  (s.restart).setDevState Dev.off

def execRailFault (s : State) : Host.Outcome State Fault Refusal := .next s.powerOff

/-- Every rail is back: with RESET_N held the device leaves OFF for RESET and releases THERMTRIP_N (R509). -/
def execRailsWithinTolerance (s : State) : Host.Outcome State Fault Refusal :=
  .next (let s := { s with pins := { s.pins with railsOk := true } }
    if s.devState = Dev.off ∧ s.pins.resetN = true then
      { s with pins := { s.pins with thermtrip := false } }.setDevState Dev.reset
    else s)

def execResetAssert (s : State) : Host.Outcome State Fault Refusal := .next s.assertReset

/-- HALT_N is filtered active; it acts at the next edge, or in place of READY (R512). -/
def execHaltAssert (s : State) : Host.Outcome State Fault Refusal :=
  .next { s with pins := { s.pins with haltN := true } }

/-- HALT_N is filtered inactive; a halted device returns at the next edge (R13, R82). -/
def execHaltRelease (s : State) : Host.Outcome State Fault Refusal :=
  .next { s with pins := { s.pins with haltN := false } }

/-- A device in SELFTEST that is locked and whose `STROKE_COUNT` has passed the settling period enters READY, or HALTED
while HALT_N is held (R491, R512). -/
def execReadyEntry (ms : W32) (s : State) : Host.Outcome State Fault Refusal :=
  .next (if s.devState = Dev.selftest ∧ s.get Base.device Reg.locked = 1 ∧ 65536 ≤ s.stroke then
    let s := (s.put Base.boot Reg.readyMs ms.toNat).put Base.boot Reg.bootStage 0x05
    if s.pins.haltN then { s with strokes := { s.strokes with haltFrom := Dev.ready } }.setDevState Dev.halted
    else s.setDevState Dev.ready
  else s)

/-! Temperature and clocks -/

/-- A sensor's reading shown in PW_TEMP. -/
def State.tempRead (s : State) (unit sensor temp : Nat) : State :=
  let b := Base.power unit
  let old := s.get b Reg.temps
  let s := s.put b Reg.temps (old - old / 2 ^ (8 * sensor) % 256 * 2 ^ (8 * sensor) + temp * 2 ^ (8 * sensor))
  if sgn 8 (s.get b Reg.tempMax) < sgn 8 temp then s.put b Reg.tempMax temp else s

/-- A junction sensor at 120 °C or more: clocks gated, THERMTRIP_N driven, FAILED (R521). No code of Table 13.10 names a
thermal trip, so the record's source is a free value. -/
def execThermalTrip (unit : UnitNo) (sensor : Fin 4) (temp : Byte) (s : State) : Host.Outcome State Fault Refusal :=
  .next (if s.awake && decide (temp.toInt ≥ 120) then
    let u := unitOf unit
    let s := s.tempRead u sensor.val temp.toNat
    let s := { s with pins := { s.pins with gated := true, thermtrip := true } }
    let (v, s) := s.draw
    (s.log u 3 none (v.toNat % 64) sensor.val temp.toNat).fail none
  else s)

/-- The domains a die has (Table 16.4). -/
def domainExists (unit d : Nat) : Bool :=
  if unit < 8 then decide (d < 4)
  else decide (d < 5) || ((d == 5 || d == 6) && unit == 0x10) || (decide (8 ≤ d) && decide (d < 20))

/-- A domain's configured frequency in kHz, as CLK_MEAS shows it, and whether it spreads (Table 16.4). -/
def domainKhz (i : Image) (unit d : Nat) : Nat × Bool :=
  if unit < 8 then
    match d with
    | 0 => (i.arrayMhz * 1000, true)
    | 1 => (i.fabricMhz * 1000, true)
    | 2 => (i.ctrlMhz * 1000, true)
    | _ => (1000000, false)
  else
    match d with
    | 0 => (i.fabricMhz * 1000, true)
    | 1 => (i.ctrlMhz * 1000, true)
    | 2 => (i.ddrMts * 125, false)
    | 3 => (1000000, false)
    | 4 => (1800000, false)
    | 6 => (100000, false)
    | _ => (830078, false)

/-- A window passes: within 0.2 % of the mean f × (1 − d/2), or within 1 % for the reference clock (R517). The depth is
in units of 0.1 %, so the mean is f × (2000 − depth) / 2000. -/
def windowPasses (i : Image) (unit d khz : Nat) : Bool :=
  let (f, spread) := domainKhz i unit d
  let depth := if spread then i.sscDepth else 0
  if d = 6 ∧ unit = 0x10 then decide (f * 99 ≤ khz * 100) && decide (khz * 100 ≤ f * 101)
  else
    let mean := f * (2000 - depth)
    decide (mean * 998 ≤ khz * 2000 * 1000) && decide (khz * 2000 * 1000 ≤ mean * 1002)

/-- The unit whose scope a domain's trip has (Table 13.2). -/
def domainUnit (unit d : Nat) : UnitId := if 8 ≤ d then linkUnit (12 * (unit - 0x10) + (d - 8)) else uid unit 0xFF

/-- A monitor trips (R436, R439, R441, R517). -/
def State.clockTrip (s : State) (unit d : Nat) : State :=
  let b := Base.clock unit
  let s := ((s.count b Reg.clkTrips).setBit b Reg.clkTripped d).count (Base.errors unit) Reg.errClockTrips
  let u := domainUnit unit d
  let s := s.report u Reason.clock 0x06 d 0
  if unit = 0x10 ∧ d = 6 then (s.log unit 3 none 0x06 d 0).fail (some 7)
  else if unit = 0x10 ∧ d = 5 then
    if s.get Base.umajo Reg.umState = 2 then
      (s.put Base.umajo Reg.umState 3).count Base.umajo Reg.umRetrains
    else s
  else
    let s := s.trigger 4 u
    if 2 ≤ (s.triggers 4 u).length then s.quarantine u 0x06 d 0 else s

/-- A window of a domain's monitor ends (R517). -/
def State.clockWindow (s : State) (unit d khz : Nat) : State :=
  match s.boot.image with
  | none => s
  | some i =>
    let s := s.put (Base.clock unit) Reg.measKhz khz d
    let f := s.faults.failing
    if windowPasses i unit d khz then { s with faults := { s.faults with failing := f.filter (· != (unit, d)) } }
    else if f.contains (unit, d) then
      ({ s with faults := { s.faults with failing := f.filter (· != (unit, d)) } }).clockTrip unit d
    else { s with faults := { s.faults with failing := (unit, d) :: f } }

/-- The monitors are armed during BOOTING. -/
def execClockMonitorWindow (unit : UnitNo) (domain : Fin 20) (khz : W32) (s : State) :
    Host.Outcome State Fault Refusal :=
  .next (if s.awake && domainExists (unitOf unit) domain.val then s.clockWindow (unitOf unit) domain.val khz.toNat
    else s)

/-! Boundary scan (R514) -/

/-- The word's bits, least significant first, as they shift out. -/
def bitsOut : Nat → Nat → List Bool
  | 0, _ => []
  | k + 1, n => (n % 2 == 1) :: bitsOut k (n / 2)

def State.bypass (s : State) : State :=
  { s with pins := { s.pins with jtag := .bypass, tdo := [false], driven := false } }

def execBypass (s : State) : Host.Outcome State Fault Refusal := .next s.bypass

def execIdcode (s : State) : Host.Outcome State Fault Refusal :=
  .next { s with pins := { s.pins with jtag := .idcode, tdo := bitsOut 32 0x10C0A4B3, driven := false } }

/-- The contacts are sampled, and the cells preloaded. -/
def execSamplePreload (sampled preload : List Bool) (s : State) : Host.Outcome State Fault Refusal :=
  .next { s with pins := { s.pins with jtag := .samplePreload, tdo := sampled, cells := preload, driven := false } }

/-- `EXTEST` takes effect only while RESET_N is held, and acts as `BYPASS` otherwise. -/
def execExtest (s : State) : Host.Outcome State Fault Refusal :=
  .next (if s.pins.resetN then
    { s with pins := { s.pins with jtag := .extest, tdo := s.pins.cells, driven := true } }
  else s.bypass)

end Sys2Proof.Machine
end

