-- ==== Sys2Proof/Machine/Strokes.lean ====
section
/-! DEFINITION. Keeping the stroke (R50–R54, R491), the armature messages about it, and the retraining of a DDR channel
at a frame boundary (R227). -/

namespace Sys2Proof.Machine

/-- The lowest-numbered device in service (R50). -/
def State.lowest (s : State) : Nat := (minBy id s.devsInService).getD s.myNum

/-- Name a time master: `MASTER_NUM`, `IS_MASTER` and `PARENT_LINK`, 0x1F on the master itself (R51). -/
def State.setMaster (s : State) (m : Nat) : State :=
  let s := (s.put Base.device Reg.masterNum m).put Base.device Reg.isMaster (b2n (m == s.myNum))
  let l := if m = s.myNum then 0x1F else (s.hopTo m).getD 0x1F
  (s.put (Base.armature 0x10) Reg.parentLink l).put (Base.armature 0x11) Reg.parentLink l

/-- A correction as it is applied: at most 8 ns in a stroke (R51). -/
def clampNs (err : Int) : Int := max (-8) (min 8 err)

/-- Move the stroke timer by a correction of at most 8 ns, and note how large a correction was needed (R51, R52). -/
def State.correct (s : State) (err : Int) : State :=
  let corr := clampNs err
  let small := decide (-8 ≤ err) && decide (err ≤ 8)
  let k := s.strokes
  let s := { s with strokes := { k with
    good := if small then k.good + 1 else 0, bad := if small then 0 else k.bad + 1, marked := true,
    moved := k.moved + corr, lastErr := err } }
  s.put (Base.armature 0x10) Reg.correction (unsgn 16 corr)

/-- After 16 strokes with small corrections the device is locked; one that had lost lock waits for the next frame
boundary, at the mark's `SCHED_POS` (R52, R53). -/
def State.acquire (s : State) : State :=
  if s.get Base.device Reg.locked = 0 ∧ 16 ≤ s.strokes.good then
    let s := s.put Base.device Reg.locked 1
    if s.strokes.lost then { s with strokes := { s.strokes with lost := false, waitFrame := true } } else s
  else s

/-- Take a mark's counts (R53, R491). A mark does not say how the other strokes divide into slip and idle ones: where their
sum changes, the division is a free value (R83). -/
def State.takeCounts (s : State) (m : ArmMsg) : State :=
  let b := Base.device
  let s := (s.put b Reg.strokeCount m.subject.toNat).put b Reg.schedPos (m.payload.getD 0 0).toNat
  let sum := s.stroke - s.sched
  if s.get b Reg.slipCount + s.get b Reg.idleCount = sum then s
  else
    let (v, s) := s.draw
    let slips := min (v.toNat % (sum + 1)) (2 ^ 32 - 1)
    (s.put b Reg.slipCount slips).put b Reg.idleCount (sum - slips)

/-- Step the timer to a source's edge: a new start for the lock (R53). -/
def State.stepTimer (s : State) (err : Int) : State :=
  { s with strokes := { s.strokes with good := 0, bad := 0, silent := 0, marked := true, moved := s.strokes.moved + err,
                                       lastErr := err } }

/-- The mark's throttle level, for the next frame. -/
def State.takeLevel (s : State) (m : ArmMsg) : State :=
  { s with strokes := { s.strokes with announced := bits (m.payload.getD 1 0) 19 16 } }

/-- Forward a mark to the neighbours it did not come from (R51). -/
def State.forwardMark (s : State) (l : Nat) (m : ArmMsg) : State :=
  let ls := s.armLinks.filter fun k => s.peer k != s.peer l
  (s.armFrames ls (armWords m)).countForward ls

/-- While the stroke settles a device follows the lowest-numbered source it has heard, itself included unless a mark of
count 65,536 or more bars it (R491). A master's other period is a topology mismatch (R44, R489). -/
def State.settleMark (s : State) (l : Nat) (m : ArmMsg) (err : Int) : State :=
  let src := m.src.toNat
  if bits (m.payload.getD 1 0) 6 0 ≠ s.get Base.device Reg.strokeUs then
    (s.log 0x10 3 none 0x0C (l % 12) 0).fail (some 5)
  else
    let s := { s with strokes := { s.strokes with
      heardOld := s.strokes.heardOld || decide (65536 ≤ m.subject.toNat) } }
    let cur := s.strokes.source
    let takes := match cur with
      | none => true
      | some c => decide (src < c) || (c == s.myNum && s.strokes.heardOld)
    if takes then
      let s := { s with strokes := { s.strokes with source := some src } }
      ((((s.setMaster src).takeCounts m).stepTimer err).takeLevel m).forwardMark l m
    else if cur = some src ∧ s.strokes.marked = false then
      (((s.correct err).acquire).takeLevel m).forwardMark l m
    else s

/-- In service, a mark from the parent corrects the timer, once a stroke; one that comes by another link does nothing. A
device without lock also takes the mark's counts, and one that lost it to silence steps its timer to the mark (R53). -/
def State.serviceMark (s : State) (l : Nat) (m : ArmMsg) (err : Int) : State :=
  let master := s.get Base.device Reg.masterNum
  if s.hopTo master ≠ some l ∨ m.src.toNat ≠ master ∨ s.strokes.marked = true then s
  else
    let s := if s.strokes.lost then s.takeCounts m else s
    let s := if s.strokes.toStep then
        let s := s.stepTimer err
        { s with strokes := { s.strokes with toStep := false } }
      else (s.correct err).acquire
    (s.takeLevel m).forwardMark l m

/-- A STROKE_MARK arrives; `errNs` is its distance from the expected moment, in two's complement. -/
def State.strokeMark (s : State) (l : Nat) (m : ArmMsg) (errNs : BitVec 16) : State :=
  if !s.strokes.running then s
  else if s.devState = Dev.selftest then s.settleMark l m errNs.toInt
  else if s.serving then s.serviceMark l m errNs.toInt
  else s

def execStrokeMark (link : LinkNo) (msg : ArmMsg) (errNs : BitVec 16) (s : State) :
    Host.Outcome State Fault Refusal :=
  .next (s.armHeard.strokeMark link.val msg errNs)

/-- A locked device that needed more than 8 ns in 4 strokes, or heard no mark in 8, loses lock: every staged unit takes
`LOCK`, no slot runs from the next edge on, and the timer steps to the parent's edge, by what the last correction left of
the difference, or with the next mark where none has come (R52, R53). -/
def State.lockLoss (s : State) : State :=
  if s.get Base.device Reg.locked = 1 ∧ (4 ≤ s.strokes.bad ∨ 8 ≤ s.strokes.silent) then
    let all := List.range 16
    let staged := s.anyStaged all
    let s := (s.put Base.device Reg.locked 0).count (Base.armature 0x10) Reg.lockLosses
    let s := (s.addReason all Reason.lock).log 0x10 (b2n staged) none 0x10 0 0
    let silent := decide (8 ≤ s.strokes.silent)
    let s := s.stepTimer (if silent then 0 else s.strokes.lastErr - clampNs s.strokes.lastErr)
    { s with strokes := { s.strokes with lost := true, toStep := silent } }
  else s

def execLockLoss (s : State) : Host.Outcome State Fault Refusal := .next s.lockLoss

/-- The master that follows when `old` goes: the lowest-numbered device in service but it (R54). -/
def State.nextMaster (s : State) (old : Nat) : Nat :=
  (minBy id (s.devsInService.filter (· != old))).getD s.myNum

/-- No mark from the master for 8 strokes: the role passes at the next frame boundary (R49, R54). -/
def execMasterHandover (s : State) : Host.Outcome State Fault Refusal :=
  .next (let m := s.get Base.device Reg.masterNum
    if s.strokes.running && s.serving && m != s.myNum && decide (8 ≤ s.strokes.silent) then
      { s with strokes := { s.strokes with nextMaster := some (s.nextMaster m) } }
    else s)

/-- A slip is pending for the stroke that follows: every stroke deadline of the one in progress moves to the budget end of
the slip stroke (R69). -/
def State.slipNext (s : State) : Bool := s.strokes.slips.contains (s.stroke + 1)

/-- A stroke is named as a slip stroke: requests that name one stroke merge, and a unit whose last slot ran in one of
the two strokes before it ends in it (R67, R75). -/
def State.slipNamed (s : State) (n : Nat) : State :=
  let s := if s.strokes.slips.contains n then s
    else { s with strokes := { s.strokes with slips := n :: s.strokes.slips } }
  { s with units := s.units.map fun u =>
      match u.k with
      | some k => if u.staged && !u.voted && (k + 1 == n || k + 2 == n) then { u with k := some n } else u
      | none => u }

/-- A flooded SLIP_REQ (R67). -/
def State.slipReq (s : State) (l : Nat) (m : ArmMsg) : State :=
  if s.seenMsg m then s
  else
    let s := s.forwardFlood l m
    if s.strokes.running && decide (s.stroke < m.subject.toNat) then s.slipNamed m.subject.toNat else s

def execSlipReq (link : LinkNo) (msg : ArmMsg) (s : State) : Host.Outcome State Fault Refusal :=
  .next (s.armHeard.slipReq link.val msg)

/-- Note a device's requested level (R80). -/
def State.setLevel (s : State) (dev level : Nat) : State :=
  { s with strokes := { s.strokes with levels := cset (fun _ => none) s.strokes.levels dev (some level) } }

/-- A requested throttle level, kept by the device it is sent to (R80). -/
def State.throttleTake (s : State) (m : ArmMsg) : State :=
  if m.dest.toNat = s.myNum then s.setLevel m.src.toNat (bits (m.payload.getD 0 0) 3 0) else s.forwardTo m

def execThrottle (_link : LinkNo) (msg : ArmMsg) (s : State) : Host.Outcome State Fault Refusal :=
  .next (s.armHeard.throttleTake msg)

/-- The key that marks a channel whose corrected words passed `RETRAIN_LIMIT` in the frame that ended. -/
def retrainKey (ch : Nat) : Nat := 64 + ch

/-- A channel due for it retrains; one that fails is quarantined (R227, Table 13.3). -/
def State.ddrRetrain (s : State) (ch : Nat) (ok : Bool) : State :=
  if s.get (Base.ddr ch) Reg.ddrState = 2 ∧ s.frameCount (retrainKey ch) = 1 then
    let s := { s with faults := { s.faults with
      frameCounts := cset (fun _ => 0) s.faults.frameCounts (retrainKey ch) 0 } }
    let s := s.count (Base.ddr ch) Reg.ddrRetrains
    if ok then s
    else (s.log (0x10 + ch / 16) 0 none 0x0B (ch % 16) 0).quarantine (chanUnit ch) 0x0B (ch % 16) 0
  else s

def execDdrRetrain (chan : ChanNo) (ok : Bool) (s : State) : Host.Outcome State Fault Refusal :=
  .next (s.ddrRetrain chan.val ok)

end Sys2Proof.Machine
end

