-- ==== Sys2Proof/Machine/Sequencer.lean ====
section
/-! DEFINITION. The core sequencer: slot queue, blocks, the sequencer's own commands, event counters and tiny
collectives of a core (chapter 04). A command's words are read from the command store at the sequencer's word. -/

namespace Sys2Proof.Machine

def coreKey (d c : Nat) : Nat := 48 * d + c

def State.core (s : State) (d c : Nat) : Core := cget (fun _ => Core.new) s.cores (coreKey d c)
def State.setCore (s : State) (d c : Nat) (k : Core) : State :=
  { s with cores := cset (fun _ => Core.new) s.cores (coreKey d c) k }

def State.arr (s : State) (d c a : Nat) : Arr := cget (fun _ => Arr.new) (s.core d c).arrays a
def State.setArr (s : State) (d c a : Nat) (x : Arr) : State :=
  let k := s.core d c
  s.setCore d c { k with arrays := cset (fun _ => Arr.new) k.arrays a x }

def State.chan (s : State) (d c ch : Nat) : Chan := cget (fun _ => Chan.idle) (s.core d c).chans ch
def State.setChan (s : State) (d c ch : Nat) (x : Chan) : State :=
  let k := s.core d c
  s.setCore d c { k with chans := cset (fun _ => Chan.idle) k.chans ch x }

def State.chSt (s : State) (d c ch : Nat) : Nat := s.get (Base.core d c) Reg.chState ch
def State.setChSt (s : State) (d c ch v : Nat) : State := s.put (Base.core d c) Reg.chState v ch

/-- The core is in service. -/
def State.coreUp (s : State) (d c : Nat) : Bool := !s.isFenced d c

/-- A field as it is in force, of a register whose writes wait for a boundary. -/
def State.effGet (s : State) (base : Nat) (f : Fld) (i : Nat := 0) : Nat :=
  f.get (cget resetWord s.eff (base + f.off + i * f.step))

/-- Bytes of a core's scratchpad open to its running context: all 6 MiB, or below `RUN_LIMIT` on a shared core (R410). -/
def State.spLimit (s : State) (d c : Nat) : Nat :=
  let l := s.effGet (Base.coreBind d) Reg.cbRunLimit c
  if l = 0 then 0x600000 else l * 0x40000

/-! Seal units of the work -/

/-- The unit of some work is staged; work of `KIND` 0b11 has none (Table 04.2). -/
def State.workStaged (s : State) (ctx kind seq : Nat) : Bool :=
  kind != 3 && s.units.any fun u => u.ctx == ctx && u.seq == seq && u.staged

/-- Set a reason in the unit of some work. -/
def State.workReason (s : State) (ctx kind seq r : Nat) : State :=
  if kind = 3 then s
  else { s with units := s.units.map fun u =>
    if u.ctx == ctx && u.seq == seq && u.staged then
      { u with reasons := u.reasons ||| (1#16 <<< r), cause := u.cause.orElse fun _ => some (r, s.sched) } else u }

/-! Event counters (R139–R141) -/

/-- Add to an event counter, which stops at 0xFF_FFFF; the saturation is counted. -/
def State.evcAdd (s : State) (d c ec n : Nat) : State :=
  let b := Base.core d c
  let v := s.get b Reg.evc ec + n
  if v < 2 ^ 24 then s.put b Reg.evc v ec else (s.put b Reg.evc (2 ^ 24 - 1) ec).count b Reg.evcSat

/-- An increment set out for a counter arrives; one for a core fenced on the way is lost. -/
def State.signalArrive (s : State) (g : Signal) : State :=
  if s.signals.contains g then
    let s := { s with signals := s.signals.erase g }
    if s.coreUp g.die g.core then s.evcAdd g.die g.core g.ec g.inc else s
  else s

def execSignalArrive (die : DieNo) (core : CoreNo) (ec : BitVec 4) (inc : BitVec 24) (s : State) :
    Host.Outcome State Fault Refusal :=
  .next (s.signalArrive { die := die.val, core := core.val, ec := ec.toNat, inc := inc.toNat })

/-- A die controller's write sets the counter before anything else that reaches it (R140). -/
def execEvcWrite (die : DieNo) (core : CoreNo) (ec : BitVec 4) (value : BitVec 24) (s : State) :
    Host.Outcome State Fault Refusal :=
  .next (if !s.awake then s
    else if s.isFenced die.val 0xFF then s.reply Status.quarantined
    else (s.put (Base.core die.val core.val) Reg.evc value.toNat ec.toNat).reply Status.ok)

/-! Blocks -/

def State.fetch (s : State) (d c i : Nat) : Word := cget (fun _ => 0) (s.core d c).store (i % 4096)

/-- Change the running block. -/
def State.setBlock (s : State) (d c : Nat) (b : Option BlockRun) : State :=
  let k := s.core d c
  let s := s.setCore d c { k with block := b }
  match b with
  | some b => s.put (Base.core d c) Reg.seqPc b.pc
  | none => s

/-- `SLOTQ` shows the head entry and the depth. -/
def State.showQueue (s : State) (d c : Nat) : State :=
  let q := (s.core d c).queue
  (s.put (Base.core d c) Reg.headSlot (bits ((q.headD []).getD 0 0) 63 48)).put (Base.core d c) Reg.slotDepth q.length

/-- Some work is scheduled: a READY device is RUNNING from then on (R12). -/
def State.workScheduled (s : State) : State := if s.devState = Dev.ready then s.setDevState Dev.running else s

/-- A write to SLOT_IN3 pushes the latched words and its own, or is refused when the queue is full (R122). -/
def State.slotPush (s : State) (d c : Nat) (w3 : Word) : State :=
  let k := s.core d c
  if s.isFenced d 0xFF then s.reply Status.quarantined
  else if 32 ≤ k.queue.length then s.reply Status.denied
  else
    let e := ((List.range 3).map fun i => cget (fun _ => 0) k.latch i) ++ [w3]
    (((s.setCore d c { k with queue := k.queue ++ [e] }).showQueue d c).workScheduled).reply Status.ok

def execSlotPush (die : DieNo) (core : CoreNo) (word3 : Word) (s : State) : Host.Outcome State Fault Refusal :=
  .next (if s.awake then s.slotPush die.val core.val word3 else s)

/-- Let a channel finish its outstanding requests and start nothing more (R130). -/
def State.chanStop (s : State) (d c ch : Nat) : State :=
  let st := s.chSt d c ch
  if st = 1 ∨ st = 2 then
    let x := s.chan d c ch
    if x.moves.any fun m => m.reqs.any fun r => r.how == 0
    then s.setChSt d c ch 3
    else (s.setChan d c ch { x with moves := [], loops := [] }).setChSt d c ch 0
  else s

/-- The targets of a core's arrays end with its block (R131). -/
def State.endTargets (s : State) (d c : Nat) : State :=
  (List.range 8).foldl (fun s a => s.setArr d c a { s.arr d c a with target := none }) s

/-- Arrays whose command has issued all its rows by a cycle show no command in issue (Table 03.20). -/
def State.modesShow (s : State) (d c now : Nat) : State :=
  (List.range 8).foldl (fun s a =>
    if s.get (Base.core d c) Reg.arrMode a ≠ 0 ∧ (s.arr d c a).ready ≤ now then s.put (Base.core d c) Reg.arrMode 0 a
    else s) s

/-- A slot of a context starts or ends a span (R81). -/
def State.spanSet (s : State) (ctx : Nat) (on : Bool) : State := s.setCtxRec ctx { s.ctxRec ctx with span := on }

/-- What an entry's slot does to its context's span as it runs: `SPAN_START` begins one, and the slot of `SPAN_END` is its
last (R81, R130). -/
def State.spanRun (s : State) (w0 : Word) : State :=
  let ctx := bits w0 47 44
  let s := if bit w0 43 then s.setCtxRec ctx { s.ctxRec ctx with span := true, spanLast := 0 } else s
  if bit w0 42 then s.setCtxRec ctx { s.ctxRec ctx with spanLast := s.stroke + 1 } else s

/-- Abort the running block: counted, its programs without `CARRY` stopped, and the reason set in its unit (R66, R134). -/
def State.abortBlock (s : State) (d c reason : Nat) : State :=
  match (s.core d c).block with
  | none => s
  | some b =>
    let staged := s.workStaged b.ctx b.kind b.seq
    let s := (s.count (Base.armature d) Reg.abortCount).workReason b.ctx b.kind b.seq reason
    let s := s.log d (b2n staged) (some b.ctx) 0x08 c b.slot
    let s := (List.range 4).foldl (fun s ch =>
      if s.get (Base.core d c) Reg.chCarry ch = 0 then s.chanStop d c ch else s) s
    let s := if b.spanEnd then s.spanSet b.ctx false else s
    ((s.endTargets d c).setBlock d c none).put (Base.core d c) Reg.seqState 4

/-- A malformed command: the cause and the word are recorded and the block is aborted (R133). -/
def State.malformed (s : State) (d c cause pc : Nat) : State :=
  let b := Base.core d c
  (((s.count b Reg.malformed).put b Reg.lastCause cause).put b Reg.lastPc (pc % 4096)).abortBlock d c Reason.overrun

/-- The device runs a slot in this stroke: a working stroke, or for a device that lags the slip stroke (R67, R68). -/
def State.runsSlots (s : State) : Bool :=
  (s.devState == Dev.running || s.devState == Dev.ready) && !s.strokes.waitFrame && s.strokes.running &&
    (if s.get Base.device Reg.lag = 1 then s.strokes.kind == .slip else s.strokes.kind == .working)

/-- Start the block of an entry: P1–P4 loaded, P5–P7 zero, loops cleared, and the header checked (R124). -/
def State.startBlock (s : State) (d c : Nat) (e : List Word) : State :=
  let w0 := e.getD 0 0
  let b := Base.core d c
  let addr := bits w0 39 28
  let ctx := bits w0 47 44
  let head := s.fetch d c addr
  let blk : BlockRun :=
    { ctx := ctx, kind := bits w0 41 40, seq := bits (e.getD 1 0) 63 32, slot := bits w0 63 48, spanEnd := bit w0 42,
      cast := bits w0 15 0, base := addr, len := bits head 12 0, pc := addr + 1, loops := [], last := 119,
      ended := false, overran := false, edge := s.strokes.cycles, began := s.stroke, done := 119, unfixed := false,
      holds := [], vprev := none }
  let s := ((s.grant ctx (uid d c)).setBlock d c (some blk)).spanRun w0
  let s := ((s.put b Reg.seqState 1).put b Reg.seqCtx ctx).put b Reg.seqSlot blk.slot
  let ps := [0, bits (e.getD 2 0) 31 0, bits (e.getD 2 0) 63 32, bits (e.getD 3 0) 31 0, bits (e.getD 3 0) 63 32, 0, 0, 0]
  let s := (List.range 8).foldl (fun s i => s.put b Reg.param (ps.getD i 0) i) s
  if bits head 63 58 = 0x01 ∧ bits head 57 56 = 0 ∧ bits head 39 36 = ctx ∧
      bits head 31 16 ≤ s.get Base.device Reg.budget
  then s else s.malformed d c 0x6 addr

/-- Compare the head entry with `SCHED_POS`, discarding entries whose slot has passed (R123). -/
def State.slotCompare (s : State) (d c : Nat) : Nat → State
  | 0 => s
  | fuel + 1 =>
    match (s.core d c).queue with
    | [] => s
    | e :: rest =>
      let w0 := e.getD 0 0
      let diff := (bits w0 63 48 + 65536 - s.sched % 65536) % 65536
      if diff = 0 then
        let k := s.core d c
        ((s.setCore d c { k with queue := rest }).showQueue d c).startBlock d c e
      else if diff < 32768 then s
      else
        let k := s.core d c
        let s := (s.setCore d c { k with queue := rest }).showQueue d c
        let s := s.count (Base.core d c) Reg.missedSlots
        let s := s.spanRun w0
        let s := if bit w0 42 then s.spanSet (bits w0 47 44) false else s
        (s.workReason (bits w0 47 44) (bits w0 41 40) (bits (e.getD 1 0) 63 32) Reason.missing).slotCompare d c fuel

/-- Cycle 120 of a stroke in which the device runs a slot, once a stroke (R123). -/
def State.slotStart (s : State) (d c : Nat) : State :=
  let k := s.core d c
  if s.runsSlots && s.coreUp d c && k.block.isNone && k.compared != s.stroke + 1 then
    (s.setCore d c { k with compared := s.stroke + 1 }).slotCompare d c (k.queue.length + 1)
  else s

def execSlotStart (die : DieNo) (core : CoreNo) (s : State) : Host.Outcome State Fault Refusal :=
  .next (s.slotStart die.val core.val)

/-! The issue of a command (R125, R126, R132, R133, R135) -/

/-- `NW` of an opcode (Table 04.4); `none` for a reserved opcode and for `BLOCK`, which stands only at a block's head. -/
def opWords (op : Nat) : Option Nat :=
  if 0x02 ≤ op ∧ op ≤ 0x07 then some 0
  else if op = 0x08 ∨ op = 0x09 then some 2
  else if op = 0x0A ∨ op = 0x0B then some 0
  else if 0x0C ≤ op ∧ op ≤ 0x0E then some 1
  else none

/-- A command's `AT` with the strides of its loops; `none` when it names no earliest cycle. -/
def effAt (b : BlockRun) (w0 : Word) : Option Nat :=
  if bits w0 55 40 = 0xFFFF then none
  else some (bits w0 55 40 + b.loops.foldl (fun a f => a + f.iter * f.stride) 0)

/-- The word after a command, and the loops still running there. -/
def advance : List LoopFr → Nat → List LoopFr × Nat
  | [], pc => ([], pc)
  | f :: rest, pc =>
    if f.stop ≤ pc then
      if f.iter + 1 < f.count then ({ f with iter := f.iter + 1 } :: rest, f.start) else advance rest pc
    else (f :: rest, pc)

/-- A parameter register; P0 reads zero. -/
def State.param (s : State) (d c n : Nat) : Nat := if n = 0 then 0 else s.get (Base.core d c) Reg.param n

/-- The effective offset of an address field. -/
def State.effOff (s : State) (d c sel field unit : Nat) : Nat := field * unit + s.param d c sel

/-- The offset is a multiple of its unit and its extent lies below the limit (R126, R410). -/
def State.offOk (s : State) (d c off unit extent : Nat) : Bool := off % unit == 0 && decide (off + extent ≤ s.spLimit d c)

/-- The sequencer shows that a command waits (Table 04.15). -/
def State.seqHold (s : State) (d c : Nat) (b : BlockRun) : State :=
  if b.overran then s else s.put (Base.core d c) Reg.seqState 2

/-- Note the issue of a command that is ready at a cycle (R135). -/
def State.issue (s : State) (d c : Nat) (b : BlockRun) (w0 : Word) (ready nw : Nat) : State :=
  let own := max (match effAt b w0 with
    | some a => 120 + a
    | none => 0) (b.last + 1)
  let s := if own < ready then s.count (Base.core d c) Reg.lateIssue else s
  let (loops, pc) := advance b.loops (b.pc + 1 + nw)
  let t := max own ready
  let s := (s.setBlock d c (some { b with last := t, done := max b.done t, loops := loops, pc := pc })).modesShow d c
    (b.edge + t)
  if s.get (Base.core d c) Reg.seqState = 2 then s.put (Base.core d c) Reg.seqState (if b.overran then 3 else 1) else s

/-- The issue cycle that `issue` gives. -/
def issueAt (b : BlockRun) (w0 : Word) (ready : Nat) : Nat :=
  max (max (match effAt b w0 with
    | some a => 120 + a
    | none => 0) (b.last + 1)) ready

/-- Run the command at the sequencer's word when it has the given opcode: checked first, and the lowest cause that
applies aborts the block; a word that is no command aborts it with cause 0x1 whatever was to run. -/
def State.seqCmd (s : State) (d c op : Nat) (causes : BlockRun → List Word → List Nat)
    (run : BlockRun → List Word → State) : State :=
  match (s.core d c).block with
  | none => s
  | some b =>
    if b.ended || !s.coreUp d c then s
    else
      let w0 := s.fetch d c b.pc
      let op' := bits w0 63 58
      let last := b.base + b.len - 1
      match opWords op' with
      | none => s.malformed d c 0x1 b.pc
      | some nw =>
        if last < b.pc then s.malformed d c 0x1 b.pc
        else if op' ≠ op then s
        else
          let ws := (List.range (nw + 1)).map fun i => s.fetch d c (b.pc + i)
          let c1 := if bits w0 57 56 ≠ nw ∨ (op ≠ 0x02 ∧ last ≤ b.pc + nw) then [0x1] else []
          let c7 := match effAt b w0 with
            | some a => if op ≠ 0x02 ∧ op ≠ 0x03 ∧ s.get Base.device Reg.budget < a then [0x7] else []
            | none => []
          match minBy id (c1 ++ causes b ws ++ c7) with
          | some cause => s.malformed d c cause b.pc
          | none => run b ws

/-- `END` ends the block's issue (R136); inside a loop body it is malformed (R132). -/
def State.seqEnd (s : State) (d c : Nat) : State :=
  s.seqCmd d c 0x02 (fun b _ => if b.loops.isEmpty then [] else [0x1]) fun b ws =>
    s.issue d c { b with ended := true } (ws.getD 0 0 ||| 0x00FFFF0000000000) 0 0

def execEndBlock (die : DieNo) (core : CoreNo) (s : State) : Host.Outcome State Fault Refusal :=
  .next (s.seqEnd die.val core.val)

/-- Words [pc, stop) of the block hold a `BLOCK` or an `END` as a command (R132). -/
def State.bodyBad (s : State) (d c stop : Nat) : Nat → Nat → Bool
  | 0, _ => false
  | fuel + 1, pc =>
    if stop ≤ pc then false
    else
      let op := bits (s.fetch d c pc) 63 58
      op == 0x01 || op == 0x02 || s.bodyBad d c stop fuel (pc + 1 + (opWords op).getD 0)

/-- `LOOP` issues in no cycle and opens its body (R132). -/
def State.seqLoop (s : State) (d c : Nat) : State :=
  s.seqCmd d c 0x03
    (fun b ws =>
      let w := ws.getD 0 0
      let stop := b.pc + 1 + bits w 27 16
      (if s.bodyBad d c (min stop (b.base + b.len)) 4096 (b.pc + 1) then [0x1] else []) ++
      (if bits w 39 28 = 0 ∨ bits w 27 16 = 0 then [0x2] else []) ++
      (if 4 ≤ b.loops.length ∨ b.base + b.len - 1 < stop ∨
          (match b.loops with
            | f :: _ => decide (f.stop < stop)
            | [] => false) = true then [0x7] else []))
    fun b ws =>
      let w := ws.getD 0 0
      let f : LoopFr := { start := b.pc + 1, stop := b.pc + 1 + bits w 27 16, count := bits w 39 28, iter := 0,
                          stride := bits w 15 0 }
      s.setBlock d c (some { b with loops := f :: b.loops, pc := b.pc + 1 })

def execLoop (die : DieNo) (core : CoreNo) (s : State) : Host.Outcome State Fault Refusal :=
  .next (s.seqLoop die.val core.val)

/-- `SETP` and `ADDP`: set a parameter register, or add to it modulo 2^32. -/
def State.seqParam (s : State) (d c op : Nat) (f : Nat → Nat → Nat) : State :=
  s.seqCmd d c op (fun _ ws => if bits (ws.getD 0 0) 39 37 = 0 then [0x2] else []) fun b ws =>
    let w := ws.getD 0 0
    let n := bits w 39 37
    let s := s.issue d c b w 0 0
    s.put (Base.core d c) Reg.param (f (s.param d c n) (bits w 31 0)) n

def execSetp (die : DieNo) (core : CoreNo) (s : State) : Host.Outcome State Fault Refusal :=
  .next (s.seqParam die.val core.val 0x04 fun _ v => v)

def execAddp (die : DieNo) (core : CoreNo) (s : State) : Host.Outcome State Fault Refusal :=
  .next (s.seqParam die.val core.val 0x05 fun p v => (p + v) % 2 ^ 32)

/-- `WAIT` issues once its counter reaches `VALUE`, and pays it with `DEC` (R140). Until then the sequencer shows that it
waits. -/
def State.seqWait (s : State) (d c cycle : Nat) : State :=
  s.seqCmd d c 0x06 (fun _ _ => []) fun b ws =>
    let w := ws.getD 0 0
    let ec := bits w 39 36
    let v := bits w 23 0
    let have_ := s.get (Base.core d c) Reg.evc ec
    if v ≤ have_ then
      let s := if bit w 35 then s.put (Base.core d c) Reg.evc (have_ - v) ec else s
      s.issue d c b w cycle 0
    else s.seqHold d c b

def execWait (die : DieNo) (core : CoreNo) (cycle : Half) (s : State) : Host.Outcome State Fault Refusal :=
  .next (s.seqWait die.val core.val cycle.toNat)

/-- Send an increment to a core of the die; to one that is fenced it completes with `GONE` or `QUARANTINED`, and the
unit of the work takes `GONE` (R141). -/
def State.sendSignal (s : State) (d core ec inc ctx kind seq : Nat) : State :=
  if s.coreUp d core then { s with signals := s.signals ++ [{ die := d, core := core, ec := ec, inc := inc }] }
  else s.workReason ctx kind seq Reason.gone

/-- The target core of a `SIGNAL`: 0x3F is this one (Table 04.5). -/
def signalCore (c f : Nat) : Nat := if f = 0x3F then c else f

def State.seqSignal (s : State) (d c : Nat) : State :=
  s.seqCmd d c 0x07
    (fun _ ws =>
      let t := bits (ws.getD 0 0) 35 30
      if 0x30 ≤ t ∧ t ≤ 0x3E then [0x2] else [])
    fun b ws =>
      let w := ws.getD 0 0
      (s.issue d c b w 0 0).sendSignal d (signalCore c (bits w 35 30)) (bits w 39 36) (bits w 23 0) b.ctx b.kind b.seq

def execSignal (die : DieNo) (core : CoreNo) (s : State) : Host.Outcome State Fault Refusal :=
  .next (s.seqSignal die.val core.val)

/-- `DMA_START` issues once its channel is idle (R130). The block waits for a program without `CARRY` (R136). -/
def State.seqDmaStart (s : State) (d c cycle : Nat) : State :=
  s.seqCmd d c 0x0A
    (fun _ ws =>
      let w := ws.getD 0 0
      if s.offOk d c (s.effOff d c (bits w 36 34) (bits w 19 0) 8) 8 8 then [] else [0x3])
    fun b ws =>
      let w := ws.getD 0 0
      let ch := bits w 39 38
      let st := s.chSt d c ch
      if st = 0 ∨ st = 4 then
        let r := Base.core d c
        let pc := s.effOff d c (bits w 36 34) (bits w 19 0) 8 / 8
        let base := s.param d c (bits w 33 31)
        let own := !bit w 37
        let s := s.issue d c { b with unfixed := b.unfixed || own, holds := if own then ch :: b.holds else b.holds } w cycle 0
        let s := s.setChan d c ch
          { Chan.idle with ctx := b.ctx, kind := b.kind, seq := b.seq, start := b.pc, began := b.began + 1 }
        (((s.setChSt d c ch 1).put r Reg.chPc pc ch).put r Reg.chBase base ch).put r Reg.chCarry (b2n (bit w 37)) ch
      else s.seqHold d c b

def execDmaStart (die : DieNo) (core : CoreNo) (cycle : Half) (s : State) : Host.Outcome State Fault Refusal :=
  .next (s.seqDmaStart die.val core.val cycle.toNat)

/-- `DMA_STOP` completes when the channel is idle, so the block waits for it, whichever block started the program. -/
def State.seqDmaStop (s : State) (d c : Nat) : State :=
  s.seqCmd d c 0x0B (fun _ _ => []) fun b ws =>
    let ch := bits (ws.getD 0 0) 39 38
    (s.issue d c { b with unfixed := true, holds := ch :: b.holds } (ws.getD 0 0) 0 0).chanStop d c ch

def execDmaStop (die : DieNo) (core : CoreNo) (s : State) : Host.Outcome State Fault Refusal :=
  .next (s.seqDmaStop die.val core.val)

/-! Tiny collectives of a core (R61–R64) -/

/-- Deliver the results of cores' collectives: four words at the named place, and 1 added to the counter. -/
def State.takeCores (s : State) : State :=
  s.arm.colls.foldl (fun s c =>
    match c.result with
    | none => s
    | some ws =>
      if c.purpose = 0 then
        let (d, k, off, ec) := c.poster
        let s := (s.dropColl c.mtype c.tag).collEnd c.tag Status.ok
        if s.coreUp d k then (s.stores (scratchAddr d k off) (ws.map fresh)).evcAdd d k ec 1 else s
      else s) s

/-- The group that a core's COLL_GROUP register names (Table 04.15). -/
def State.collGroup (s : State) (d c g : Nat) : List (Nat × Nat) :=
  let v := s.get (Base.core d c) Reg.collGroup g
  (List.range 4).map fun i => (v / 2 ^ (12 * i) / 64 % 64, v / 2 ^ (12 * i) % 64)

/-- Post the collective of a `COLL`, once no other with its tag runs. A halted device posts none (R82), and one that names a
reserved operation is refused with `DENIED`: nothing starts (R62). -/
def State.collIssue (s : State) (d c cycle : Nat) (b : BlockRun) (ws : List Word) : State :=
  let w := ws.getD 0 0
  let w1 := ws.getD 1 0
  let tag := bits w 39 34
  let ops := (List.range 4).map fun i => bits w 15 0 / 16 ^ i % 16
  if ((s.findColl 0x09 tag).map (·.posted)) = some true ∨ s.devState = Dev.halted then s.seqHold d c b
  else if !collOpsOk ops then (s.issue d c b w cycle 1).collEnd tag Status.denied
  else
    let s := s.issue d c { b with unfixed := true } w cycle 1
    let src := s.effOff d c (bits w1 63 61) (bits w1 60 43) 32
    let r := s.loads (scratchAddr d c src) 4
    let s := r.2
    let dst := s.effOff d c (bits w1 42 40) (bits w1 39 22) 32
    (s.collPost (if bit w 27 then 0x0A else 0x09) tag b.ctx (word b.seq) ops (s.collGroup d c (bits w 29 28))
      (r.1.map (·.d)) 0 (d, c, dst, bits w 33 30) b.kind).takeCores

/-- What makes a `COLL` malformed. -/
def State.collCauses (s : State) (d c : Nat) (ws : List Word) : List Nat :=
  let w := ws.getD 0 0
  let w1 := ws.getD 1 0
  (if bit w 27 && bits w 15 0 != 0x0007 then [0x2] else []) ++
  (if s.offOk d c (s.effOff d c (bits w1 63 61) (bits w1 60 43) 32) 32 32
      && s.offOk d c (s.effOff d c (bits w1 42 40) (bits w1 39 22) 32) 32 32 then [] else [0x3])

/-- `COLL` issues once its tag is free on this device, and posts four words read from the scratchpad. An `OPS` other than
that of `AND` is malformed in a barrier (Table 04.9). -/
def State.seqColl (s : State) (d c cycle : Nat) : State :=
  s.seqCmd d c 0x0C (fun _ ws => s.collCauses d c ws) fun b ws => s.collIssue d c cycle b ws

def execColl (die : DieNo) (core : CoreNo) (cycle : Half) (s : State) : Host.Outcome State Fault Refusal :=
  .next (s.seqColl die.val core.val cycle.toNat)

/-- Every command of the block has completed: the channels that it waits for are idle, and no collective that it posted is
in flight (Table 04.11). -/
def State.blockDone (s : State) (d c : Nat) (b : BlockRun) : Bool :=
  b.holds.all (fun ch => !([1, 2, 3].contains (s.chSt d c ch))) &&
  !(s.arm.colls.any fun k => k.posted && k.purpose == 0 && k.poster.1 == d && k.poster.2.1 == c && decide (b.began ≤ k.stroke))

/-- `LAST_END`: the completion cycle from cycle 120, the latest that Table 04.11 gives; where a command's completion is not
fixed by its issue, `cycle` is the cycle in which the last such command completed. -/
def lastEndOf (b : BlockRun) (cycle : Nat) : Nat :=
  if b.unfixed then max (b.done - 120) cycle else b.done - 120

/-- The block completes (R136). -/
def State.blockComplete (s : State) (d c cycle : Nat) : State :=
  match (s.core d c).block with
  | none => s
  | some b =>
    if b.ended && s.blockDone d c b then
      let r := Base.core d c
      let s := (s.endTargets d c).setBlock d c none
      let s := if b.spanEnd then s.spanSet b.ctx false else s
      ((s.put r Reg.seqState 0).count r Reg.blocks).put r Reg.lastEnd (lastEndOf b cycle)
    else s

def execBlockComplete (die : DieNo) (core : CoreNo) (cycle : Half) (s : State) : Host.Outcome State Fault Refusal :=
  .next (s.blockComplete die.val core.val cycle.toNat)

/-- The budget end of the stroke that ran the last slot of the span has come, or that of the slip stroke that follows it
(R69), for work that was started in the span (R130). -/
def State.spanOver (s : State) (x : Chan) : Bool :=
  let last := (s.ctxRec x.ctx).spanLast
  s.strokes.ended && !s.slipNext && last != 0 && decide (x.began ≤ last)

/-- The span's last budget end comes while a carried program runs: it stops, and its unit takes `OVERRUN` (R130). -/
def State.carryDeadline (s : State) (d c ch : Nat) : State :=
  let st := s.chSt d c ch
  let x := s.chan d c ch
  if (st = 1 ∨ st = 2) ∧ s.get (Base.core d c) Reg.chCarry ch = 1 ∧ s.spanOver x = true then
    let staged := s.workStaged x.ctx x.kind x.seq
    let s := (s.chanStop d c ch).workReason x.ctx x.kind x.seq Reason.overrun
    s.log d (b2n staged) (some x.ctx) 0x08 c (s.sched % 65536)
  else s

def execCarryDeadline (die : DieNo) (core : CoreNo) (ch : Fin 4) (s : State) : Host.Outcome State Fault Refusal :=
  .next (s.carryDeadline die.val core.val ch.val)

/-- An uncorrectable word that a fetch found aborts the block, whose unit takes `CHECK` (R121). -/
def State.fetchBad (s : State) (unit : Nat) (f : Finding) : State :=
  match f with
  | .store core _ false => if unit < 8 then s.abortBlock unit core.val Reason.check else s
  | _ => s

end Sys2Proof.Machine
end

