-- ==== Sys2Proof/Machine/Umajo.lean ====
section
/-! DEFINITION. The device's side of the host window (R461–R468): the region table, read slots, and the messages that
requests form. -/

namespace Sys2Proof.Machine

def hostBase : Nat := 0x200000000000

/-! The region table (R466, R468) -/

/-- The entry of a region in force, laid out as HWIN_DATA. -/
def State.region (s : State) (r : Nat) : Word := cget (fun _ => 0) s.um.regions r

def rgValid (e : Word) : Bool := bit e 63
def rgGuard (e : Word) : Bool := bit e 62
def rgAdm (e : Word) : Bool := bit e 61
def rgCtx (e : Word) : Nat := bits e 60 57

/-- The status of a request to a host-window offset; `ctx` is `none` for firmware traffic. -/
def State.hostStatus (s : State) (ctx : Option Nat) (off : Nat) : Nat :=
  let e := s.region (off / 2 ^ 26)
  if !rgValid e then Status.denied
  else
    match ctx with
    | none => if s.um.fenced then Status.quarantined else Status.ok
    | some c =>
      if rgAdm e || rgCtx e != c then Status.denied
      else if s.um.fenced then Status.quarantined else Status.ok

/-! Messages (R461–R463) -/

/-- Bits as bytes, eight to a byte, padded to a multiple of eight bytes. -/
def poisonBytes (bs : List Bool) : List Byte :=
  let n := ceilDiv bs.length 64
  leBytes (8 * n) (maskOf ((List.range bs.length).filter fun i => bs.getD i false))

/-- The bytes of a list padded with zeros to a multiple of eight. -/
def pad8 (bs : List Byte) : List Byte := bs ++ List.replicate ((8 - bs.length % 8) % 8) 0

/-- Header words of a message with a given `MCRC`. -/
def umHeader (m : UmMsg) (crc : Nat) : List Word :=
  [word (m.mtype.toNat * 2 ^ 58 + m.dlen.toNat * 2 ^ 45 + m.mtag.toNat * 2 ^ 29 + m.ctx.toNat * 2 ^ 25
    + b2n m.poisoned * 2 ^ 24 + b2n m.tagged * 2 ^ 23 + m.etag.toNat * 2 ^ 15),
   word m.addr.toNat, m.arg, word (crc * 2 ^ 32)]

/-- Data and trailers. -/
def umBody (m : UmMsg) : List Byte :=
  bytesOf m.data ++ (if m.poisoned then poisonBytes m.poison else []) ++ (if m.tagged then pad8 m.tags else [])

/-- The bytes of a message. -/
def umBytes (m : UmMsg) : List Byte :=
  let body := umBody m
  bytesOf (umHeader m (crc32c (bytesOf (umHeader m 0) ++ body)).toNat) ++ body

/-- The class of a message type (Table 14.5). -/
def umClass (mtype : Nat) : Nat :=
  if mtype = 0x02 ∨ mtype = 0x06 then 1 else if mtype = 0x03 ∨ mtype = 0x07 then 2 else 0

/-- Queue a message to be sent, in order. -/
def State.umSend (s : State) (m : UmMsg) : State :=
  let c := umClass m.mtype.toNat
  { s with um := { s.um with
      stamp := s.um.stamp + 1
      out := setAt s.um.out c (s.um.out.getD c [] ++ [(s.um.stamp, m)]) } }

/-- A message without data. -/
def umBare (mtype mtag ctx addr : Nat) (arg : Word) : UmMsg :=
  { mtype := BitVec.ofNat 6 mtype, dlen := 0, mtag := BitVec.ofNat 16 mtag, ctx := BitVec.ofNat 4 ctx,
    poisoned := false, tagged := false, etag := 0, addr := BitVec.ofNat 48 addr, arg := arg, data := [], poison := [],
    tags := [] }

/-- Write words at an 8-aligned host-window offset within one 4 KiB block; the masks choose the bytes of the first and of
the last word. In a guarded region words are corrected, and those that cannot be are sent as they are and marked. -/
def State.hostPut (s : State) (ctx off : Nat) (ws : List TWord) (m0 m1 : Nat) : State :=
  let e := s.region (off / 2 ^ 26)
  let dec := ws.map fun w => if rgGuard e then eccDecode w.d w.c else (w.d, w.c, Ecc.clean)
  let bad := dec.map fun x => decide (x.2.2 = .bad)
  let m : UmMsg := { umBare 0x01 s.um.mtag ctx off (word (m0 + m1 * 256)) with
    dlen := BitVec.ofNat 13 (8 * ws.length), poisoned := rgGuard e && bad.any id,
    etag := if rgGuard e then s.epochOf (hostBase + off) else 0, data := dec.map (·.1), poison := bad }
  let s := { s with um := { s.um with
      mtag := (s.um.mtag + 1) % 65536
      writes := cset (fun _ => none) s.um.writes s.um.mtag (some (m, false, s.stroke)) } }
  s.umSend m

/-- The bytes of the words from an offset on that a write of `n` bytes touches, as masks of its first and last word. -/
def edgeMasks (off n : Nat) : Nat × Nat :=
  let i := off % 8
  let j := (off + n + 7) % 8 + 1
  let first := 256 - 2 ^ i
  let last := 2 ^ j - 1
  if off / 8 = (off + n - 1) / 8 then (first &&& last, first &&& last) else (first, last)

/-- Write bytes anywhere in the window, one message a 4 KiB block; `bad` marks bytes that come from poisoned words. -/
def State.hostBytes (s : State) (ctx : Nat) : Nat → Nat → List (Byte × Bool) → State
  | 0, _, _ => s
  | _, _, [] => s
  | fuel + 1, off, bs =>
    let now := bs.take (4096 - off % 4096)
    let n := now.length
    let padded := List.replicate (off % 8) ((0 : Byte), false) ++ now ++
      List.replicate ((8 - (off + n) % 8) % 8) ((0 : Byte), false)
    let ws := (chunks 8 padded.length padded).map fun c =>
      let d := word (leNat (c.map (·.1)))
      ({ d := d, c := if c.any (·.2) then poisonCheck d else secded d } : TWord)
    let (m0, m1) := edgeMasks off n
    (s.hostPut ctx (off / 8 * 8) ws m0 m1).hostBytes ctx fuel (off + n) (bs.drop n)

/-- Firmware and hardware writes of whole fresh words. -/
def State.hostWrite (s : State) (ctx off : Nat) (ws : List Word) : State :=
  s.hostBytes ctx (ws.length + 1) off ((bytesOf ws).map fun b => (b, false))

/-! Read slots (R465) -/

def State.slot (s : State) (i : Nat) : RdSlot := cget (fun _ => RdSlot.free) s.um.slots i
def State.setSlot (s : State) (i : Nat) (x : RdSlot) : State :=
  { s with um := { s.um with slots := cset (fun _ => RdSlot.free) s.um.slots i x } }

/-- The status of a request of the window that a context's work makes: one without a share of the host link is refused
(R409). -/
def State.winStatus (s : State) (ctx : Option Nat) (off : Nat) : Nat :=
  let st := s.hostStatus ctx off
  match ctx with
  | some c => if st = Status.ok ∧ s.effGet (Base.hubBind 0) Reg.pbHost c = 0 then Status.denied else st
  | none => st

/-- The message of a slot's read. -/
def slotRead (i : Nat) (x : RdSlot) : UmMsg :=
  { umBare 0x02 (x.gen % 64 * 1024 + i) x.ctx x.addr 0 with dlen := BitVec.ofNat 13 x.bytes }

/-- Take the lowest free slot and its next generation; with none the read waits. -/
def State.hostGet (s : State) (x : RdSlot) : State :=
  match (List.range 1024).find? fun i => !(s.slot i).busy with
  | none => { s with um := { s.um with rdWait := s.um.rdWait ++ [x] } }
  | some i =>
    let x := { x with gen := ((s.slot i).gen + 1) % 64, busy := true }
    (s.setSlot i x).umSend (slotRead i x)

/-- Give a slot back; a context whose reads wait takes it by its share of the port (R414). -/
def State.slotFree (s : State) (i : Nat) : State :=
  let s := s.setSlot i { RdSlot.free with gen := (s.slot i).gen }
  let u := s.um
  let share (c : Nat) : Nat := s.effGet (Base.hubBind 0) Reg.pbHost c
  let qos (c : Nat) : Nat := s.effGet (Base.hubBind 0) Reg.pbQos c
  match sharePick u.grants u.ctxTurn share qos ((u.rdWait.map (·.ctx)).eraseDups) with
  | none => s
  | some (c, t, g) =>
    match u.rdWait.find? (·.ctx == c) with
    | none => s
    | some x => ({ s with um := { u with rdWait := u.rdWait.erase x, grants := g, ctxTurn := t } }).hostGet x

/-- Ask for the words of an extent that lies within one 4 KiB block. -/
def State.hostRead (s : State) (ctx off bytes : Nat) (owner : RdOwner) : State :=
  s.hostGet { RdSlot.free with addr := off, bytes := bytes, ctx := ctx, began := s.stroke, owner := owner }

end Sys2Proof.Machine
end

