-- ==== Sys2Proof/Machine/Tiers.lean ====
section
/-! DEFINITION. Access to the scratchpads, DDR and the host window (R31–R34, R233, R239, R412, R468), segment tables,
region epochs and the patrol scrub (R229–R241, R265). -/

namespace Sys2Proof.Machine

/-- The context that a request carries; control cores carry none (R412). -/
def reqCtx : Requester → Option Nat
  | .control _ => none
  | .engine _ c => some c.val
  | .core _ _ c => some c.val

/-- The die in whose ERROR block a refusal is counted (R34). -/
def reqDie : Requester → Nat
  | .control n => controlUnit n.val
  | .engine d _ => d.val
  | .core d _ _ => d.val

/-- A die by its control-and-status unit. -/
def dieOf (unit : Nat) : UnitNo := Fin.ofNat 10 (if unit < 0x10 then unit else unit - 8)

/-- The die that serves an address. -/
def State.servedAt (s : State) (a : Nat) : Option UnitNo :=
  match placeOf a with
  | .ddr => some (dieOf (0x10 + s.ddrPd a))
  | .scratch d _ _ => some (dieOf d)
  | .host => some 8
  | .csr => some (if a / 2 ^ 24 % 32 = 0x1F then 8 else dieOf (a / 2 ^ 24 % 32))
  | .reserved => none

/-- Note the modules that a request and its response cross (R21, R23). -/
def State.crossed (s : State) (who : Requester) (a : Nat) : State :=
  { s with answer := { s.answer with path := match s.servedAt a with
    | some d => s.crossings (dieOf (reqDie who)) d a
    | none => [] } }

/-- The status of an access that reaches a core's scratchpad; only what comes through the mesh port is checked for its
context (R32, R412). -/
def State.scratchStatus (s : State) (who : Requester) (die core off : Nat) : Nat :=
  if s.isFenced die core then Status.quarantined
  else
    let own := match who with
      | .core d c _ => d.val == die && c.val == core
      | _ => false
    match reqCtx who with
    | none => Status.ok
    | some ctx =>
      let b := Base.coreBind die
      let lim := s.effGet b Reg.cbRunLimit core
      if own then Status.ok
      else if s.effGet b Reg.cbRunValid core = 1 ∧ s.effGet b Reg.cbRunCtx core = ctx ∧
          (lim = 0 ∨ off < lim * 0x40000) then Status.ok
      else Status.denied

def isCore : Requester → Bool
  | .core _ _ _ => true
  | _ => false

/-- A requester's context is another than `c`. -/
def foreign (who : Requester) (c : Nat) : Bool :=
  match reqCtx who with
  | some x => x != c
  | none => false

/-- The status of a DDR access, in the order of R233. -/
def State.ddrStatus (s : State) (who : Requester) (a : Nat) : Nat :=
  let p := s.ddrPd a
  let e := s.seg p (a / 2 ^ 30 % 8192)
  if s.isFenced (0x10 + p) 0xFF then Status.quarantined
  else if bit e 62 && isCore who then Status.denied
  else if !bit e 62 && foreign who (bits e 61 58) then Status.denied
  else if !bit e 63 then (if bit e 57 then Status.quarantined else Status.denied)
  else
    let ch := s.chanOf a
    if s.isFenced (0x10 + ch / 16) (ch % 16) then Status.quarantined else Status.ok

/-- The status of an access to the word at an address. Control-and-status space is no memory: it is refused here. -/
def State.wordStatus (s : State) (who : Requester) (a : Nat) : Nat :=
  match placeOf a with
  | .ddr => s.ddrStatus who a
  | .scratch die core off => s.scratchStatus who die core off
  | .host => s.winStatus (reqCtx who) (a - hostBase)
  | .csr => Status.denied
  | .reserved => Status.denied

/-- Show a DDR outcome other than `OK` at its channel (Table 07.14), where the address has one. -/
def State.ddrErr (s : State) (a status : Nat) : State :=
  if placeOf a = .ddr ∧ bit (s.seg (s.ddrPd a) (a / 2 ^ 30 % 8192)) 63 = true then
    let b := Base.ddr (s.chanOf a)
    (s.put b Reg.ddrErrStatus status).put b Reg.ddrErrAddr a
  else s

/-- A refused access is counted and logged in the requester's die (R34). -/
def State.refused (s : State) (die : Nat) (ctx : Option Nat) (index a : Nat) : State :=
  (s.count (Base.errors die) Reg.errDenied).log die 0 ctx 0x09 index a

/-- A write takes the line out of the writing core's cache (R247). -/
def State.cacheDrop (s : State) (d c a : Nat) : State :=
  let k := s.core d c
  s.setCore d c { k with cache := k.cache.filter fun l => l.addr != a / 128 * 128 }

/-- A word is clean or corrected and its tag differs from the epoch that the reader expects (R239). -/
def staleWord (a : Nat) (expect : Option Nat) (w : Loaded) : Bool :=
  match expect, placeOf a with
  | some e, .ddr => decide (w.ecc ≠ .bad) && w.tag.toNat != e
  | some e, .host => decide (w.ecc ≠ .bad) && w.tag.toNat != e
  | _, _ => false

/-- Read the words from `a` on: each word's status, and what it held. -/
def State.readWords (s : State) (who : Requester) (expect : Option Nat) :
    Nat → Nat → List (Nat × Option Loaded) × State
  | _, 0 => ([], s)
  | a, n + 1 =>
    let st := s.wordStatus who a
    if st = Status.ok then
      let (w, s) := s.load a
      let stale := staleWord a expect w
      let s := if stale then (s.count (Base.ddr (s.chanOf a)) Reg.ddrStale).ddrErr a Status.stale else s
      let (rest, s) := s.readWords who expect (a + 8) n
      ((if stale then Status.stale else Status.ok, some w) :: rest, s)
    else
      let (rest, s) := (s.ddrErr a st).readWords who expect (a + 8) n
      ((st, none) :: rest, s)

/-- Store one word where its status allows it. -/
def State.writeWord (s : State) (who : Requester) (a : Nat) (w : TWord) : Nat × State :=
  let st := s.wordStatus who a
  if st = Status.ok then
    let s := s.store a w
    (st, match who with
      | .core d c _ => if placeOf a = .ddr then s.cacheDrop d.val c.val a else s
      | _ => s)
  else (st, s.ddrErr a st)

/-- Store consecutive words. -/
def State.writeWords (s : State) (who : Requester) : Nat → List TWord → List Nat × State
  | _, [] => ([], s)
  | a, w :: ws =>
    let (st, s) := s.writeWord who a w
    let (rest, s) := s.writeWords who (a + 8) ws
    (st :: rest, s)

/-- The first status other than `OK`. -/
def worst (l : List Nat) : Nat := (l.find? (· != Status.ok)).getD Status.ok

/-- A run-ahead read that falls there is dropped (R252): an unmapped, a foreign or a `SYS` segment, a reserved range, or a
host-window region that is not mapped. -/
def State.drops (s : State) (who : Requester) (a : Nat) : Bool :=
  match placeOf a with
  | .ddr =>
    let e := s.seg (s.ddrPd a) (a / 2 ^ 30 % 8192)
    !bit e 63 || (bit e 62 && isCore who) || (!bit e 62 && foreign who (bits e 61 58))
  | .reserved => true
  | .host => s.hostStatus (reqCtx who) (a - hostBase) == Status.denied
  | _ => false

/-- Report how an access ended: a dropped run-ahead is counted alone (R252), a refusal is counted and logged (R34). -/
def State.accessDone (s : State) (acc : Access) (st : Nat) (data : Word) : State :=
  let a := acc.addr.toNat / 8 * 8
  let die := reqDie acc.who
  if st = Status.ok then s.reply st data
  else if acc.runahead && s.drops acc.who a && decide (die < 8) then
    (s.count (Base.dma die) Reg.runaheadDrops).reply st
  else
    let s := s.ddrErr a st
    (if st = Status.denied then s.refused die (reqCtx acc.who) 0 a else s).reply st data

/-- An access to the device's own storage: it answers with the first word's data and the first status other than `OK`;
an access of which a word is refused reads zero, or writes nothing (R34). -/
def State.storeAccess (s : State) (acc : Access) : State :=
  let a := acc.addr.toNat / 8 * 8
  match acc.write with
  | some ws =>
    let st := worst ((List.range ws.length).map fun i => s.wordStatus acc.who (a + 8 * i))
    if st = Status.ok then ((s.writeWords acc.who a ws).2.accessDone acc st 0).crossed acc.who a
    else (s.accessDone acc st 0).crossed acc.who a
  | none =>
    let (ws, s) := s.readWords acc.who (acc.expect.map (·.toNat)) a acc.words
    let st := worst (ws.map (·.1))
    let data : Word := match ws with
      | (_, some w) :: _ => if st = Status.ok ∨ st = Status.stale then w.d else 0
      | _ => 0
    (s.accessDone acc st data).crossed acc.who a

/-- Whether the place of an access is the one its command serves; reserved ranges are refused whoever serves them. -/
def State.serveAt (s : State) (acc : Access) (p : Place → Bool) : State :=
  let pl := placeOf (acc.addr.toNat / 8 * 8)
  if s.awake && (p pl || pl == .reserved || pl == .csr) then s.storeAccess acc else s

def execScratchpadAccess (acc : Access) (s : State) : Host.Outcome State Fault Refusal :=
  .next (s.serveAt acc fun
    | .scratch _ _ _ => true
    | _ => false)

def execDdrRequest (acc : Access) (s : State) : Host.Outcome State Fault Refusal :=
  .next (s.serveAt acc fun
    | .ddr => true
    | _ => false)

/-- The pieces of an extent of words that lie within one 4 KiB block each: offset and words. -/
def hostPieces : Nat → Nat → Nat → List (Nat × Nat)
  | 0, _, _ => []
  | _, _, 0 => []
  | fuel + 1, off, n =>
    let k := min n ((4096 - off % 4096) / 8)
    (off, k) :: hostPieces fuel (off + 8 * k) (n - k)

/-- A host-window access: checked under R468, then sent as `MEM_WR` messages, or as `MEM_RD` messages that take a read
slot each (R461, R465, R466). -/
def State.hostAccess (s : State) (acc : Access) : State :=
  let off := acc.addr.toNat / 8 * 8 - hostBase
  let st := s.winStatus (reqCtx acc.who) off
  let ctx := (reqCtx acc.who).getD 0
  if st ≠ Status.ok then s.accessDone acc st 0
  else
    match acc.write with
    | some ws =>
      let s := (hostPieces (ws.length + 1) off ws.length).foldl (fun s p =>
        s.hostPut ctx p.1 ((ws.drop ((p.1 - off) / 8)).take p.2) 0xFF 0xFF) s
      let s := match acc.who with
        | .core d c _ => (List.range (ceilDiv (off % 128 + 8 * ws.length) 128)).foldl (fun (s : State) i =>
            s.cacheDrop d.val c.val (hostBase + off + 128 * i)) s
        | _ => s
      s.reply Status.ok
    | none =>
      ((hostPieces (acc.words + 1) off acc.words).foldl (fun s p => s.hostRead ctx p.1 (8 * p.2) .access) s).reply
        Status.ok

def execHostWindowRequest (acc : Access) (s : State) : Host.Outcome State Fault Refusal :=
  .next (if s.awake && placeOf (acc.addr.toNat / 8 * 8) == .host then s.hostAccess acc else s)

/-- The patrol scrub reads words of a channel and writes corrected ones back; an uncorrectable one is counted and logged, and
sets no reason before it is read (R229, Table 13.1). -/
def State.scrub (s : State) : Nat → Nat → State
  | _, 0 => s
  | a, n + 1 =>
    let s := if placeOf a = .ddr ∧ s.ddrStatus (.control s.bootNow) a = Status.ok then
        let ch := s.chanOf a
        (s.load a true).2.countUnits (4 * ch + 2) (2 ^ 30) (Base.ddr ch) Reg.scrubGib 8
      else s
    s.scrub (a + 8) n

def execPatrolScrub (addr : Addr) (words : Nat) (s : State) : Host.Outcome State Fault Refusal :=
  .next (if s.awake then s.scrub (addr.toNat / 8 * 8) words else s)

/-! Segment tables (R230, R231, R265) -/

/-- An entry that R231 refuses. -/
def segBad (e : Word) : Bool := bit e 63 && !([1, 2, 4, 8, 16].contains (popCount 16 (bits e 15 0)))

def State.setSeg (s : State) (p i : Nat) (e : Word) : State :=
  { s with segs := cset (fun _ => 0) s.segs (p * 8192 + i) e }

/-- Whether a plinth die answers register accesses. -/
def State.pdUp (s : State) (p : Nat) : Bool := s.awake && !s.isFenced (0x10 + p) 0xFF

/-- Write SEG_DATA's entry to a segment. -/
def State.segWrite (s : State) (p i : Nat) : State :=
  let e := word (s.get (Base.tier p) Reg.segData)
  if segBad e then s.reply Status.denied else (s.setSeg p i e).reply Status.ok

/-- Read a segment's entry into SEG_DATA. -/
def State.segRead (s : State) (p i : Nat) : State :=
  (s.put (Base.tier p) Reg.segData (s.seg p i).toNat).reply Status.ok

def execSegWrite (pd : Pd) (segment : BitVec 13) (s : State) : Host.Outcome State Fault Refusal :=
  .next (if s.pdUp pd.val then s.segWrite pd.val segment.toNat else s)

def execSegRead (pd : Pd) (segment : BitVec 13) (s : State) : Host.Outcome State Fault Refusal :=
  .next (if s.pdUp pd.val then s.segRead pd.val segment.toNat else s)

/-! Region epochs (R240, R241) -/

def State.epoch (s : State) (p : Nat) (host : Bool) (r : Nat) : Nat :=
  (if host then cget (fun _ => 0) s.hostEpochs r else cget (fun _ => 0) s.epochs (p * 4194304 + r)).toNat

def State.setEpoch (s : State) (p : Nat) (host : Bool) (r v : Nat) : State :=
  if host then { s with hostEpochs := cset (fun _ => 0) s.hostEpochs r (BitVec.ofNat 8 v) }
  else { s with epochs := cset (fun _ => 0) s.epochs (p * 4194304 + r) (BitVec.ofNat 8 v) }

/-- `REWRITE`: `WGEN` moves on. -/
def epochRewrite (e : Nat) : Nat := e / 16 * 16 + (e + 1) % 16
/-- `REALLOC`: `GEN` moves on and `WGEN` is 0. -/
def epochRealloc (e : Nat) : Nat := (e / 16 + 1) % 16 * 16

/-- An epoch command: its result stands in EPOCH_RESULT, and the write itself completes with `OK` (R265, R527). -/
def State.epochCmd (s : State) (p : Nat) (host : Bool) (r : Nat) (f : Nat → Nat) : State :=
  let b := Base.tier p
  if host && (p != 0 || decide (262144 ≤ r)) then (s.put b Reg.epochStatus Status.denied).reply Status.ok
  else
    let e := f (s.epoch p host r)
    (((s.setEpoch p host r e).put b Reg.epochStatus Status.ok).put b Reg.epochEpoch e).reply Status.ok

/-- Change the epoch of a DDR region on both plinth dies alike, as firmware does (R240). -/
def State.reallocDdr (s : State) (r : Nat) : State :=
  let e := epochRealloc (s.epoch 0 false r)
  (s.setEpoch 0 false r e).setEpoch 1 false r e

def execRewrite (pd : Pd) (host : Bool) (region : BitVec 22) (s : State) : Host.Outcome State Fault Refusal :=
  .next (if s.pdUp pd.val then s.epochCmd pd.val host region.toNat epochRewrite else s)

def execRealloc (pd : Pd) (host : Bool) (region : BitVec 22) (s : State) : Host.Outcome State Fault Refusal :=
  .next (if s.pdUp pd.val then s.epochCmd pd.val host region.toNat epochRealloc else s)

def execEpochRead (pd : Pd) (host : Bool) (region : BitVec 22) (s : State) : Host.Outcome State Fault Refusal :=
  .next (if s.pdUp pd.val then s.epochCmd pd.val host region.toNat id else s)

end Sys2Proof.Machine
end

