-- ==== Sys2Proof/Machine/Dma.lean ====
section
/-! DEFINITION. DMA channels: descriptors, the split of a MOVE into read requests, the core cache, the funnel, events,
epoch checks and request outcomes (R142–R149, R242–R252). -/

namespace Sys2Proof.Machine

/-- The requests of work on a core. -/
def coreReq (d c ctx : Nat) : Requester := .core (Fin.ofNat 8 d) (Fin.ofNat 48 c) (Fin.ofNat 16 ctx)

/-! The core cache (R30, R244–R247) -/

/-- Look a line up for a context and make it the most recently used. -/
def State.cacheLook (s : State) (d c ctx a : Nat) : Option CLine × State :=
  let k := s.core d c
  match k.cache.find? fun l => l.addr == a && l.ctx == ctx with
  | none => (none, s)
  | some l => (some l, s.setCore d c { k with cache := l :: k.cache.filter (· != l) })

/-- Put words of a line where the context allocates: beside those that the line holds, else in a free way of the set or that
of its least recently used line. A read covers no word outside its extent (R146), so a line may hold some of its words:
DESIGN CHOICE (log 185). -/
def State.cacheFill (s : State) (d c ctx a : Nat) (ws : List (Option CWord)) : State :=
  let k := s.core d c
  let ways := setBits 16 (s.effGet (Base.cachePart d) Reg.cpWays ctx)
  let old := k.cache.find? fun (l : CLine) => l.addr == a && l.ctx == ctx
  let rest := k.cache.filter fun (l : CLine) => !(l.addr == a && l.ctx == ctx)
  let inSet := rest.filter fun (l : CLine) => l.addr / 128 % 256 == a / 128 % 256
  let way := match old with
    | some l => some l.way
    | none =>
      match ways.find? fun w => !(inSet.any fun (l : CLine) => l.way == w) with
      | some w => some w
      | none => ((inSet.filter fun (l : CLine) => ways.contains l.way).getLast?).map CLine.way
  let ws := (List.range 16).map fun i => (ws.getD i none).orElse fun _ => (old.bind fun l => l.words.getD i none)
  match way with
  | none => s
  | some w =>
    let rest := rest.filter fun (l : CLine) => !(l.way == w && l.addr / 128 % 256 == a / 128 % 256)
    s.setCore d c { k with cache := { addr := a, way := w, ctx := ctx, words := ws } :: rest }

/-- Some word of a line has another tag than the expected epoch. -/
def lineStale (expect : Option Nat) (ws : List (Option CWord)) : Bool :=
  match expect with
  | none => false
  | some e => ws.any fun w => (w.map fun w => w.tag.toNat != e).getD false

/-- What a looked-up line gives of its words [lo, hi): them when all are there and no word's tag differs from the expected
epoch. A line refused for its epoch goes, to be filled again (R245). -/
def State.cacheHit (s : State) (d c lo hi : Nat) (expect : Option Nat) : Option CLine → Option (List CWord) × State
  | none => (none, s.count (Base.cachePart d) Reg.cpMisses)
  | some l =>
    if lineStale expect l.words then
      let k := s.core d c
      let s := s.setCore d c { k with cache := k.cache.filter (· != l) }
      (none, (s.count (Base.cachePart d) Reg.cpMisses).count (Base.cachePart d) Reg.cpEpochMiss)
    else
      match ((l.words.take hi).drop lo).mapM id with
      | some ws => if hi - lo ≤ ws.length then (some ws, s.count (Base.cachePart d) Reg.cpHits)
          else (none, s.count (Base.cachePart d) Reg.cpMisses)
      | none => (none, s.count (Base.cachePart d) Reg.cpMisses)

/-- Words [w0, w1) looked up line by line from line `l` on: all of them when every line hits. -/
def State.cacheLines (s : State) (d c ctx : Nat) (expect : Option Nat) (w0 w1 : Nat) : Nat → Nat → Option (List CWord) × State
  | _, 0 => (some [], s)
  | l, n + 1 =>
    let (line, s) := s.cacheLook d c ctx (128 * l)
    let (hit, s) := s.cacheHit d c (max w0 (16 * l) - 16 * l) (min w1 (16 * l + 16) - 16 * l) expect line
    let (rest, s) := s.cacheLines d c ctx expect w0 w1 (l + 1) n
    (match hit, rest with
      | some ws, some r => some (ws ++ r)
      | _, _ => none, s)

/-! Tracker and statuses -/

/-- In-flight quota of a core toward a plinth die (Table 07.8). -/
def State.quota (s : State) (p : Nat) : Nat := if s.get (Base.tier p) Reg.trackMode = 0 then 6 else 16

/-- A request goes to the DDR of a plinth die, past the core cache. -/
def State.toDdr (s : State) (p : Nat) (r : DmaReq) : Bool :=
  r.how == 0 && r.early.isNone && placeOf r.lo == .ddr && s.ddrPd r.lo == p

/-- Read requests of a core's channels outstanding to the DDR of a plinth die. -/
def State.coreTracked (s : State) (k : Core) (p : Nat) : Nat :=
  k.chans.foldl (fun n ch => n + ((ch.2.moves.flatMap (·.reqs)).filter fun r => r.issued.isSome && s.toDdr p r).length) 0

/-- Entries of a plinth die's tracker in use. -/
def State.tracked (s : State) (p : Nat) : Nat := s.cores.foldl (fun n k => n + s.coreTracked k.2 p) 0

/-- Show the tracker entries in use (R248). -/
def State.trackShow (s : State) : State :=
  (List.range 2).foldl (fun s p =>
    let b := Base.tier p
    let n := s.tracked p
    let s := s.put b Reg.trackInUse n
    if s.get b Reg.trackHigh < n then s.put b Reg.trackHigh n else s) s

/-- A write to DDR, of a channel, an append drain or a page-map port, holds a tracker entry while it is carried out, which
is within one step. -/
def State.trackWrite (s : State) (a : Nat) : State :=
  if placeOf a = .ddr then
    let b := Base.tier (s.ddrPd a)
    let n := s.get b Reg.trackInUse + 1
    if s.get b Reg.trackHigh < n then s.put b Reg.trackHigh n else s
  else s

/-- The oldest request of a channel that waits for quota toward a plinth die. -/
def State.waiting (s : State) (x : Chan) (p : Nat) : Option DmaReq :=
  (x.moves.flatMap (·.reqs)).find? fun r => r.issued.isNone && s.toDdr p r

/-- A waiting request goes out. -/
def State.sendOut (s : State) (d c ch index : Nat) : State :=
  let x := s.chan d c ch
  let go (r : DmaReq) : DmaReq := if r.index = index then { r with issued := some s.stroke } else r
  (s.setChan d c ch { x with moves := x.moves.map fun m => { m with reqs := m.reqs.map go } }).count (Base.core d c)
    Reg.chRequests 1 ch

/-- Requests of a core that wait go out while its quota toward a plinth die has room; channels that compete are served
under R16 in channel order (R147, R248). -/
def State.quotaFill (s : State) (d c p : Nat) : Nat → State
  | 0 => s
  | fuel + 1 =>
    if s.quota p ≤ s.coreTracked (s.core d c) p then s
    else
      let asks := (List.range 4).filter fun ch => (s.waiting (s.chan d c ch) p).isSome
      match r16 (s.core d c).chTurn 4 asks with
      | none => s
      | some (ch, turn) =>
        match s.waiting (s.chan d c ch) p with
        | none => s
        | some r =>
          let s := s.setCore d c { s.core d c with chTurn := turn }
          (s.sendOut d c ch r.index).quotaFill d c p fuel

/-- A core's waiting requests go out as far as its quotas let them. -/
def State.quotaServe (s : State) (d c : Nat) : State := ((s.quotaFill d c 0 16).quotaFill d c 1 16).trackShow

/-- The running block is the one that started a channel's program. -/
def State.chanBlock (s : State) (d c : Nat) (x : Chan) : Bool :=
  match (s.core d c).block with
  | some b => b.began + 1 == x.began
  | none => false

/-- Stop a channel on an error, which is treated as an abort of the block that started the program under R133; where that
block no longer runs, what an abort records is recorded and nothing else is stopped (R142). -/
def State.chanError (s : State) (d c ch cause : Nat) : State :=
  let x := s.chan d c ch
  let r := Base.core d c
  let s := (s.setChSt d c ch 4).put r Reg.chLastStatus Status.denied ch
  if s.chanBlock d c x then s.malformed d c cause x.start
  else
    let s := ((s.count r Reg.malformed).put r Reg.lastCause cause).put r Reg.lastPc (x.start % 4096)
    let staged := s.workStaged x.ctx x.kind x.seq
    let s := (s.count (Base.armature d) Reg.abortCount).workReason x.ctx x.kind x.seq Reason.overrun
    s.log d (b2n staged) (some x.ctx) 0x08 c 0

/-- A request outcome other than `OK` (R148, R452): recorded, logged, and its reason set (Table 04.14). -/
def State.dmaOutcome (s : State) (d c ch st a : Nat) : State :=
  let x := s.chan d c ch
  let b := Base.dma d
  let s := s.put (Base.core d c) Reg.chLastStatus st ch
  let s := (((s.put b Reg.dmaStatus st).put b Reg.dmaCore c).put b Reg.dmaCh ch).put b Reg.dmaAddr a
  let s := s.count b Reg.dmaErrors
  if st = Status.denied then
    let s := s.refused d (some x.ctx) c a
    if s.chSt d c ch = 4 then s else s.chanError d c ch 0x8
  else
    let reason :=
      if st = Status.gone ∨ st = Status.quarantined then some Reason.gone
      else if st = Status.tierFail then some Reason.tierFail else none
    let staged := reason.isSome && s.workStaged x.ctx x.kind x.seq
    let s := s.log d (b2n staged) (some x.ctx) 0x12 c a
    match reason with
    | some r => s.workReason x.ctx x.kind x.seq r
    | none => s

/-! Descriptors -/

/-- The channel takes descriptors: it runs, waits, and has not reached `END`. -/
def State.chanRuns (s : State) (d c ch : Nat) : Bool :=
  (s.chSt d c ch == 1 || s.chSt d c ch == 2) && !(s.chan d c ch).ended && s.coreUp d c

/-- The words of a descriptor at the channel's place. -/
def State.descWords (s : State) (d c ch n : Nat) : List Word × State :=
  let (ws, s) := s.loads (scratchAddr d c (8 * s.get (Base.core d c) Reg.chPc ch)) n
  (ws.map (·.d), s)

/-- Words of a descriptor by its code. -/
def descLen (op : Nat) : Nat := if op = 0x1 then 3 else if op = 0x2 then 2 else 1

/-- Take the descriptor at the channel's place when it has the given code; one that is reserved, that lies beyond the
scratchpad open to the context, or that `bad` names stops the channel. -/
def State.chanCmd (s : State) (d c ch op : Nat) (bad : List Word → Option Nat) (run : List Word → State → State) :
    State :=
  if !s.chanRuns d c ch then s
  else
    let pc := s.get (Base.core d c) Reg.chPc ch
    if s.spLimit d c < 8 * pc + 8 then s.chanError d c ch 0x3
    else
      let (w, _) := s.descWords d c ch 1
      let op' := bits (w.getD 0 0) 63 60
      if op' = 0 ∨ 5 < op' then s.chanError d c ch 0x8
      else if op' ≠ op then s
      else if s.spLimit d c < 8 * pc + 8 * descLen op then s.chanError d c ch 0x3
      else
        let (ws, s) := s.descWords d c ch (descLen op)
        match bad ws with
        | some cause => s.chanError d c ch cause
        | none => run ws s

/-- Go on to a descriptor word. -/
def State.setChPc (s : State) (d c ch pc : Nat) : State := s.put (Base.core d c) Reg.chPc pc ch

/-- An address wraps modulo 2^48 (R143). -/
def wrap48 (i : Int) : Nat := unsgn 48 i

/-- Source and destination of the MOVE at the channel's place: `BASE` and the loops' increments added. -/
def State.moveAddrs (s : State) (d c ch : Nat) (ws : List Word) : Nat × Nat :=
  let x := s.chan d c ch
  let pc := s.get (Base.core d c) Reg.chPc ch
  let base : Int := s.get (Base.core d c) Reg.chBase ch
  let w0 := ws.getD 0 0
  let live := x.loops.filter fun l => decide (l.pc - l.body ≤ pc) && decide (pc < l.pc)
  let inc (f : DmaLoop → Nat) : Int := live.foldl (fun a l => a + (l.rep : Int) * sgn 32 (f l)) 0
  (wrap48 ((bits w0 47 0 : Nat) + (if bit w0 49 then base else 0) + inc (·.sinc)),
   wrap48 ((bits (ws.getD 1 0) 47 0 : Nat) + (if bit w0 48 then base else 0) + inc (·.dinc)))

/-- The extent touches control-and-status space. -/
def touchesCsr (a n : Nat) : Bool := decide (a < 0x300020000000) && decide (0x300000000000 < a + n)

/-- The extent reaches into the own scratchpad at or above the limit of a shared core (R410). -/
def State.beyond (s : State) (d c a n : Nat) : Bool :=
  let lo := scratchAddr d c 0
  let lim := s.spLimit d c
  decide (lim < 0x600000) && decide (a < lo + 0x600000) && decide (lo + lim < a + n)

/-- Requests of an extent: one for each aligned 256-byte block of the source (R146). -/
def splitMove : Nat → Nat → Nat → Nat → List (Nat × Nat × Nat)
  | 0, _, _, _ => []
  | fuel + 1, i, lo, hi =>
    if hi ≤ lo then []
    else
      let top := min hi ((lo / 256 + 1) * 256)
      (i, lo, top) :: splitMove fuel (i + 1) top hi

/-- Issue one request: dropped when a run-ahead may not go there, served by the core cache on a hit, or sent out; one to
DDR waits for the core's quota. -/
def State.moveRequest (s : State) (d c ch : Nat) (runahead echk : Bool) (epoch : Option Nat) (i lo hi : Nat) :
    DmaReq × State :=
  let ctx := (s.chan d c ch).ctx
  let who := coreReq d c ctx
  let pl := placeOf lo
  let tiered := pl == .ddr || pl == .host
  let expect := if echk && tiered then some (epoch.getD (s.epochOf lo).toNat) else none
  let r : DmaReq := { index := i, lo := lo, hi := hi, how := 0, issued := some s.stroke, expect := expect, data := [],
                      stale := 0, early := none }
  let out (s : State) : State := s.count (Base.core d c) Reg.chRequests 1 ch
  if runahead && s.drops who lo then ({ r with how := 4 }, s.count (Base.dma d) Reg.runaheadDrops)
  else if !tiered || s.wordStatus who lo != Status.ok then (r, out s)
  else
    let w0 := lo / 8
    let wn := ceilDiv hi 8
    let (got, s) := s.cacheLines d c ctx expect w0 wn (lo / 128) (ceilDiv hi 128 - lo / 128)
    match got with
    | some ws => ({ r with early := some (ws.map fun w => (w, false)) }, out s)
    | none =>
      if pl == .host then (r, (out s).hostRead ctx (w0 * 8 - hostBase) (8 * (wn - w0)) (.dma d c ch i))
      else ({ r with issued := none }, s)

/-- Issue a MOVE's requests in order. -/
def State.moveRequests (s : State) (d c ch : Nat) (runahead echk : Bool) (epoch : Option Nat) :
    List (Nat × Nat × Nat) → List DmaReq × State
  | [] => ([], s)
  | (i, lo, hi) :: rest =>
    let (r, s) := s.moveRequest d c ch runahead echk epoch i lo hi
    let (rs, s) := s.moveRequests d c ch runahead echk epoch rest
    (r :: rs, s)

/-! The funnel (R146) -/

/-- The word of a request that holds a source byte. -/
def reqWord (rs : List DmaReq) (x : Nat) : Option (CWord × Bool) :=
  match rs.find? fun r => decide (r.lo ≤ x) && decide (x < r.hi) with
  | some r => if r.how = 1 then r.data[x / 8 - r.lo / 8]? else none
  | none => none

/-- A byte of a word. -/
def wordByte (w : Word) (i : Nat) : Byte := w.extractLsb' (8 * i) 8

/-- The bytes that reach the destination word at `w`: the byte and whether its source word was uncorrectable. -/
def funnelBytes (mv : DmaMv) (w : Nat) : List (Option (Byte × Bool)) :=
  (List.range 8).map fun j =>
    let a := w + j
    if a < mv.dst ∨ mv.dst + mv.len ≤ a then none
    else
      let x := mv.src + (a - mv.dst)
      (reqWord mv.reqs x).map fun p => (wordByte p.1.d (x % 8), p.2)

/-- Write one destination word: whole and aligned with its source word it keeps that word's check byte, otherwise its
check byte is formed afresh, and it is poisoned where a contributing word or the old word was uncorrectable. -/
def State.funnelWord (s : State) (d c ctx : Nat) (mv : DmaMv) (w : Nat) : Nat × Nat × State :=
  let bs := funnelBytes mv w
  let n := (bs.filter Option.isSome).length
  if n = 0 then (Status.ok, 0, s)
  else
    let who := coreReq d c ctx
    let st := s.wordStatus who w
    if st ≠ Status.ok then (st, 0, s)
    else
      let bad := bs.any fun b => (b.map (·.2)).getD false
      if n = 8 then
        let whole := if (mv.dst + 2 ^ 48 - mv.src) % 8 = 0 then reqWord mv.reqs (mv.src + (w - mv.dst)) else none
        let t : TWord := match whole with
          | some p => { d := p.1.d, c := p.1.c }
          | none =>
            let v := word (leNat (bs.map fun b => ((b.map (·.1)).getD 0)))
            { d := v, c := if bad then poisonCheck v else secded v }
        (Status.ok, 8, (s.writeWord who w t).2)
      else
        let (o, s) := s.load w true
        let v := word (leNat (bs.mapIdx fun i b => ((b.map (·.1)).getD (wordByte o.d i))))
        (Status.ok, n, (s.writeWord who w { d := v, c := if bad || o.ecc == .bad then poisonCheck v else secded v }).2)

/-- Write an aligned 64-byte block of the destination: the first status other than `OK`, and the bytes written. -/
def State.funnelBlock (s : State) (d c ctx : Nat) (mv : DmaMv) (b : Nat) : Nat × Nat × State :=
  if placeOf b = .host then
    let st := s.winStatus (some ctx) (b - hostBase)
    if (List.range 8).all fun i => (funnelBytes mv (b + 8 * i)).all Option.isNone then (Status.ok, 0, s)
    else if st ≠ Status.ok then (st, 0, s)
    else
      (List.range 8).foldl (fun (x : Nat × Nat × State) i =>
        let bs := funnelBytes mv (b + 8 * i)
        let n := (bs.filter Option.isSome).length
        if n = 0 then x
        else
          let v := word (leNat (bs.map fun y => ((y.map (·.1)).getD 0)))
          let bad := bs.any fun y => (y.map (·.2)).getD false
          let mask := maskOf ((List.range 8).filter fun j => (bs.getD j none).isSome)
          (x.1, x.2.1 + n, (x.2.2.cacheDrop d c (b + 8 * i)).hostPut ctx (b + 8 * i - hostBase)
            [{ d := v, c := if bad then poisonCheck v else secded v }] mask mask)) (Status.ok, 0, s)
  else
    (List.range 8).foldl (fun (x : Nat × Nat × State) i =>
      let (st, n, s) := x.2.2.funnelWord d c ctx mv (b + 8 * i)
      (if x.1 = Status.ok then st else x.1, x.2.1 + n, s)) (Status.ok, 0, s)

/-- Write a block and account for it: bytes, a narrow write of less than 64 bytes, and a status other than `OK`. -/
def State.writeBlock (s : State) (d c ch : Nat) (mv : DmaMv) (b : Nat) : State :=
  let (st, n, s) := s.funnelBlock d c (s.chan d c ch).ctx mv b
  let r := Base.core d c
  let s := s.count r Reg.chBytes n ch
  let s := if 0 < n then s.trackWrite b else s
  let s := if 0 < n ∧ n < 64 then s.count r Reg.chNarrow 1 ch else s
  if st = Status.ok then s else s.dmaOutcome d c ch st b

/-- The 64-byte destination blocks that bytes [lo, hi) of the source reach. -/
def blocksOf (mv : DmaMv) (lo hi : Nat) : List Nat :=
  let a := (mv.dst + (lo - mv.src)) / 64
  let z := (mv.dst + (hi - mv.src) + 63) / 64
  (List.range (z - a)).map fun i => (a + i) * 64

/-- Every request that holds bytes of a destination block has completed. -/
def blockReady (mv : DmaMv) (b : Nat) : Bool :=
  let lo := mv.src + (b - mv.dst)
  let hi := mv.src + (b + 64 - mv.dst)
  mv.reqs.all fun r => r.how != 0 || decide (hi ≤ r.lo) || decide (r.hi ≤ lo)

/-! Events and completion -/

/-- Every byte of the lower half is written. -/
def halfDone (mv : DmaMv) : Bool :=
  let hi := mv.src + min mv.len (((mv.dst + mv.len / 2 + 63) / 64) * 64 - mv.dst)
  mv.reqs.all fun r => r.how != 0 || decide (hi ≤ r.lo)

def allDone (mv : DmaMv) : Bool := mv.reqs.all fun r => r.how != 0

/-- Post an event of a MOVE; a stopping channel posts none. -/
def State.postEvent (s : State) (d c ch : Nat) (ec : Option Nat) : State :=
  match ec with
  | some e => if s.chSt d c ch = 3 then s else s.evcAdd d c e 1
  | none => s

/-- A channel whose requests are all done is idle after `END` or a stop. -/
def State.chanIdle (s : State) (d c ch : Nat) : State :=
  let x := s.chan d c ch
  if x.moves.isEmpty && (s.chSt d c ch == 3 || (x.ended && (s.chSt d c ch == 1 || s.chSt d c ch == 2)))
  then s.setChSt d c ch 0 else s

def State.setMove (s : State) (d c ch : Nat) (i : Nat) (mv : DmaMv) : State :=
  let x := s.chan d c ch
  s.setChan d c ch { x with moves := setAt x.moves i mv }

def State.dropMove (s : State) (d c ch i : Nat) : State :=
  let x := s.chan d c ch
  (s.setChan d c ch { x with moves := x.moves.eraseIdx i }).chanIdle d c ch

/-- Post the events that are due, the half event first, and let a MOVE that is done go (R145). -/
def State.moveEvents (s : State) (d c ch i : Nat) (mv : DmaMv) : State :=
  let half := !mv.halfDone && halfDone mv
  let s := if half then s.postEvent d c ch mv.half else s
  let mv := { mv with halfDone := mv.halfDone || half }
  if allDone mv then (s.postEvent d c ch mv.full).dropMove d c ch i else s.setMove d c ch i mv

/-- Write what an attempt held, leaving out the requests that found a stale word (Table 07.7). -/
def State.writeHeld (s : State) (d c ch : Nat) (mv : DmaMv) : State :=
  let kept := { mv with reqs := mv.reqs.map fun r => if r.stale = 0 then r else { r with how := 3 } }
  (blocksOf mv mv.src (mv.src + mv.len)).foldl (fun s b => s.writeBlock d c ch kept b) s

/-- The requests of an attempt that found a stale word complete with a status (R148, Table 07.7). -/
def State.staleOutcomes (s : State) (d c ch st : Nat) (mv : DmaMv) : State :=
  mv.reqs.foldl (fun s r => if r.stale = 0 then s else s.dmaOutcome d c ch st r.lo) s

/-- All reads of a held attempt have returned: write, repeat or give up (R242, Table 07.7). -/
def State.attemptEnd (s : State) (d c ch i : Nat) (mv : DmaMv) : State :=
  let other := mv.reqs.any fun r => r.stale == 2
  let same := mv.reqs.any fun r => r.stale == 1
  if !other && !same then (s.writeHeld d c ch mv).moveEvents d c ch i mv
  else if s.chSt d c ch = 3 then s.dropMove d c ch i
  else if other then
    let s := (s.writeHeld d c ch mv).staleOutcomes d c ch Status.stale mv
    let x := s.chan d c ch
    (s.setChan d c ch { x with deferred := x.deferred ++ [(mv.src, mv.len)] }).moveEvents d c ch i mv
  else if mv.attempt < 2 then
    let s := (s.staleOutcomes d c ch Status.stale mv).count (Base.dma d) Reg.staleRefetch
    let x := s.chan d c ch
    let parts := splitMove (mv.len / 256 + 2) x.next mv.src (mv.src + mv.len)
    let s := s.setChan d c ch { x with next := x.next + parts.length }
    let (rs, s) := s.moveRequests d c ch mv.runahead true none parts
    (s.setMove d c ch i { mv with attempt := mv.attempt + 1, reqs := rs }).quotaServe d c
  else (s.staleOutcomes d c ch Status.tierFail mv).moveEvents d c ch i mv

/-- A request of a MOVE has ended: a held attempt waits for its last, another writes the blocks that are ready. -/
def State.moveGoesOn (s : State) (d c ch i : Nat) (mv : DmaMv) (r : DmaReq) : State :=
  if mv.echk then (if allDone mv then s.attemptEnd d c ch i mv else s.setMove d c ch i mv)
  else
    let s := ((blocksOf mv r.lo r.hi).filter (blockReady mv)).foldl (fun s b => s.writeBlock d c ch mv b) s
    s.moveEvents d c ch i mv

/-- How a word's tag stands to the epoch expected (Table 07.7): 0 as expected, 1 the same `GEN`, 2 another. -/
def staleKind (expect : Option Nat) (w : CWord × Bool) : Nat :=
  match expect with
  | none => 0
  | some e => if w.2 || w.1.tag.toNat == e then 0 else if w.1.tag.toNat / 16 = e / 16 then 1 else 2

/-- Keep what a read brought in the core cache (R244); an uncorrectable word is not kept. -/
def State.cacheTake (s : State) (d c ctx : Nat) (mv : DmaMv) (r : DmaReq) (ws : List (CWord × Bool)) : State :=
  let pl := placeOf r.lo
  if 4096 < mv.len ∨ !(pl == .ddr || pl == .host) then s
  else
    let w0 := r.lo / 8
    (List.range (ceilDiv r.hi 128 - r.lo / 128)).foldl (fun s i =>
      let l := r.lo / 128 + i
      let part := (List.range 16).map fun j =>
        let w := l * 16 + j
        if w < w0 then none else (ws[w - w0]?).bind fun p => if p.2 then none else some p.1
      s.cacheFill d c ctx (l * 128) part) s

/-- Data of a request: the words, fresh into the channel, with their staleness; an uncorrectable one sets `CHECK` in the
unit of the program's block (Table 04.14). -/
def State.moveData (s : State) (d c ch i : Nat) (mv : DmaMv) (r : DmaReq) (ws : List (CWord × Bool)) (fill : Bool) :
    State :=
  let x := s.chan d c ch
  let s := if ws.any (·.2) then s.workReason x.ctx x.kind x.seq Reason.check else s
  let s := if fill then s.cacheTake d c x.ctx mv r ws else s
  let kinds := ws.map (staleKind r.expect)
  let r' := { r with how := 1, data := ws, stale := if kinds.contains 2 then 2 else if kinds.contains 1 then 1 else 0 }
  let mv := { mv with reqs := mv.reqs.map fun q => if q.index = r.index then r' else q }
  (s.moveGoesOn d c ch i mv r').quotaServe d c

/-- A request ends with a status other than `OK`: its bytes are not written. -/
def State.moveFail (s : State) (d c ch i : Nat) (mv : DmaMv) (r : DmaReq) (st : Nat) : State :=
  let mv := { mv with reqs := mv.reqs.map fun q => if q.index = r.index then { q with how := 3 } else q }
  ((s.dmaOutcome d c ch st r.lo).moveGoesOn d c ch i mv r).quotaServe d c

/-- A run-ahead request that is found, when it is served, to go where R252 drops it. -/
def State.moveDrop (s : State) (d c ch i : Nat) (mv : DmaMv) (r : DmaReq) : State :=
  let mv := { mv with reqs := mv.reqs.map fun q => if q.index = r.index then { q with how := 4 } else q }
  ((s.count (Base.dma d) Reg.runaheadDrops).moveGoesOn d c ch i mv r).quotaServe d c

/-- Words loaded from the device's own storage. -/
def loadedWords (l : List (Nat × Option Loaded)) : List (CWord × Bool) :=
  l.filterMap fun p => p.2.map fun w => ({ d := w.d, c := w.c, tag := w.tag }, decide (w.ecc = .bad))

/-- Words that come from host memory: a poisoned one has its check byte complemented (R466, R467). -/
def hostWords (data : List Word) (tags : List Byte) (poison : List Bool) : List (CWord × Bool) :=
  data.mapIdx fun i w =>
    let bad := poison.getD i false
    ({ d := w, c := if bad then poisonCheck w else secded w, tag := tags.getD i 0 }, bad)

/-- A request is served by the device itself: by the core cache or a read slot where the data is there, else by the
scratchpad or DDR. A host-window read whose data has not come stays outstanding. -/
def State.moveServe (s : State) (d c ch i : Nat) (mv : DmaMv) (r : DmaReq) : State :=
  match r.early with
  | some ws => s.moveData d c ch i mv r ws false
  | none =>
    let who := coreReq d c (s.chan d c ch).ctx
    let st := s.wordStatus who r.lo
    if mv.runahead && s.drops who r.lo then s.moveDrop d c ch i mv r
    else if st ≠ Status.ok then (s.ddrErr r.lo st).moveFail d c ch i mv r st
    else if placeOf r.lo = .host then s
    else
      let (ws, s) := s.readWords who r.expect (r.lo / 8 * 8) (ceilDiv r.hi 8 - r.lo / 8)
      let bad := worst ((ws.map (·.1)).filter (· != Status.stale))
      if bad ≠ Status.ok then s.moveFail d c ch i mv r bad
      else s.moveData d c ch i mv r (loadedWords ws) true

/-- Find an outstanding request of a channel: the place of its MOVE, the MOVE and the request. -/
def State.findReq (s : State) (d c ch index : Nat) : Option (Nat × DmaMv × DmaReq) :=
  let ms := (s.chan d c ch).moves
  let out (r : DmaReq) : Bool := r.index == index && r.how == 0 && r.issued.isSome
  match ms.findIdx? fun m => m.reqs.any out with
  | none => none
  | some i =>
    match ms[i]? with
    | none => none
    | some m => (m.reqs.find? out).map fun r => (i, m, r)

/-- The status code of a failure. -/
def failCode : ReqFail → Nat
  | .gone => Status.gone
  | .tierFail => Status.tierFail
  | .denied => Status.denied
  | .quarantined => Status.quarantined

/-- A request of a channel completes (R148). -/
def State.dmaComplete (s : State) (d c ch index : Nat) (how : ReqEnd) : State :=
  match (if s.coreUp d c then s.findReq d c ch index else none) with
  | none => s
  | some (i, mv, r) =>
    match how with
    | .served => s.moveServe d c ch i mv r
    | .host data tags poison => s.moveData d c ch i mv r (hostWords data tags poison) true
    | .failed f => s.moveFail d c ch i mv r (failCode f)

/-- The outstanding requests of every channel: die, core, channel and request. -/
def State.dmaOut (s : State) : List (Nat × Nat × Nat × DmaReq) :=
  s.cores.flatMap fun k => k.2.chans.flatMap fun ch =>
    ((ch.2.moves.flatMap (·.reqs)).filter fun r => r.how == 0 && r.issued.isSome).map fun r =>
      (k.1 / 48, k.1 % 48, ch.1, r)

/-- A channel's program goes: its outstanding requests end with `GONE`, and it is idle (R32, R148, Table 12.6). -/
def State.chanDrop (s : State) (d c ch : Nat) : State :=
  let x := s.chan d c ch
  let out := (x.moves.flatMap (·.reqs)).filter fun r => r.how == 0
  let s := out.foldl (fun s r => s.dmaOutcome d c ch Status.gone r.lo) s
  ((s.setChan d c ch Chan.idle).setChSt d c ch 0).put (Base.core d c) Reg.chLastStatus Status.gone ch

/-- What makes a MOVE malformed (R142, R410). -/
def State.moveBad (s : State) (d c ch : Nat) (ws : List Word) : Option Nat :=
  let (src, dst) := s.moveAddrs d c ch ws
  let w2 := ws.getD 2 0
  let len := bits w2 31 0
  if s.beyond d c src len || s.beyond d c dst len then some 0x3
  else if len = 0 ∨ 2 ≤ bits w2 55 54 ∨ touchesCsr src len = true ∨ touchesCsr dst len = true then some 0x8
  else none

/-- A MOVE issues its requests; one that holds nothing to read any more goes on at once. -/
def State.moveRun (s : State) (d c ch : Nat) (ws : List Word) : State :=
  let (src, dst) := s.moveAddrs d c ch ws
  let w0 := ws.getD 0 0
  let w2 := ws.getD 2 0
  let len := bits w2 31 0
  let echk := bits w2 55 54 == 1
  let x := s.chan d c ch
  let parts := splitMove (len / 256 + 2) x.next src (src + len)
  let (rs, s) := s.moveRequests d c ch (bit w2 53) echk (some (bits w2 63 56)) parts
  let mv : DmaMv :=
    { src := src, dst := dst, len := len, half := if bit w0 59 then some (bits w0 57 54) else none,
      full := if bit w0 58 then some (bits w0 53 50) else none, echk := echk, attempt := 0, runahead := bit w2 53,
      reqs := rs, halfDone := false }
  let x := s.chan d c ch
  let s := s.setChan d c ch { x with moves := x.moves ++ [mv], next := x.next + parts.length }
  let s := (s.setChPc d c ch (s.get (Base.core d c) Reg.chPc ch + 3)).setChSt d c ch 1
  let s := if allDone mv then s.moveEvents d c ch (x.moves.length) mv else s
  s.quotaServe d c

def execDmaMove (die : DieNo) (core : CoreNo) (ch : Fin 4) (s : State) : Host.Outcome State Fault Refusal :=
  .next (s.chanCmd die.val core.val ch.val 0x1 (s.moveBad die.val core.val ch.val) fun ws s =>
    s.moveRun die.val core.val ch.val ws)

/-- What makes a LOOP malformed: no repetition, no body, a depth above 3, or a body that leaves its outer body (R143). -/
def State.loopBad (s : State) (d c ch : Nat) (ws : List Word) : Option Nat :=
  let x := s.chan d c ch
  let pc := s.get (Base.core d c) Reg.chPc ch
  let w := ws.getD 0 0
  let back := bits w 47 40
  let known := x.loops.any fun l => l.pc == pc
  if bits w 59 48 = 0 ∨ back = 0 ∨ pc < back then some 0x8
  else if known then none
  else if 3 ≤ x.loops.length then some 0x8
  else
    match x.loops with
    | l :: _ => if l.pc - l.body ≤ pc - back ∧ pc + 2 ≤ l.pc then none else some 0x8
    | [] => none

/-- A LOOP: reached first it starts repetition 1; reached again it goes on, until its count is done. -/
def State.loopRun (s : State) (d c ch : Nat) (ws : List Word) : State :=
  let x := s.chan d c ch
  let pc := s.get (Base.core d c) Reg.chPc ch
  let w := ws.getD 0 0
  let w1 := ws.getD 1 0
  match x.loops with
  | l :: rest =>
    if l.pc = pc then
      if l.rep < l.count then
        (s.setChan d c ch { x with loops := { l with rep := l.rep + 1 } :: rest }).setChPc d c ch (pc - l.body)
      else (s.setChan d c ch { x with loops := rest }).setChPc d c ch (pc + 2)
    else
      let n : DmaLoop := { pc := pc, body := bits w 47 40, rep := 1, count := bits w 59 48, sinc := bits w1 63 32,
                           dinc := bits w1 31 0 }
      (s.setChan d c ch { x with loops := n :: x.loops }).setChPc d c ch (pc - n.body)
  | [] =>
    let n : DmaLoop := { pc := pc, body := bits w 47 40, rep := 1, count := bits w 59 48, sinc := bits w1 63 32,
                         dinc := bits w1 31 0 }
    (s.setChan d c ch { x with loops := [n] }).setChPc d c ch (pc - n.body)

def execDmaLoop (die : DieNo) (core : CoreNo) (ch : Fin 4) (s : State) : Host.Outcome State Fault Refusal :=
  .next (s.chanCmd die.val core.val ch.val 0x2 (s.loopBad die.val core.val ch.val) fun ws s =>
    s.loopRun die.val core.val ch.val ws)

/-- A WAIT is satisfied once its counter reaches `VALUE`, which `DEC` takes off; until then the channel waits (R140). -/
def State.waitRun (s : State) (d c ch : Nat) (ws : List Word) : State :=
  let w := ws.getD 0 0
  let ec := bits w 59 56
  let v := bits w 23 0
  let b := Base.core d c
  let n := s.get b Reg.evc ec
  if v ≤ n then
    let s := if bit w 55 then s.put b Reg.evc (n - v) ec else s
    (s.setChPc d c ch (s.get b Reg.chPc ch + 1)).setChSt d c ch 1
  else s.setChSt d c ch 2

def execDmaWait (die : DieNo) (core : CoreNo) (ch : Fin 4) (s : State) : Host.Outcome State Fault Refusal :=
  .next (s.chanCmd die.val core.val ch.val 0x3 (fun _ => none) fun ws s => s.waitRun die.val core.val ch.val ws)

/-- A SIGNAL sends its increment, every earlier MOVE having issued its requests (R144). -/
def State.signalRun (s : State) (d c ch : Nat) (ws : List Word) : State :=
  let w := ws.getD 0 0
  let x := s.chan d c ch
  let s := (s.setChPc d c ch (s.get (Base.core d c) Reg.chPc ch + 1)).setChSt d c ch 1
  s.sendSignal d (signalCore c (bits w 55 50)) (bits w 59 56) (bits w 23 0) x.ctx x.kind x.seq

def execDmaSignal (die : DieNo) (core : CoreNo) (ch : Fin 4) (s : State) : Host.Outcome State Fault Refusal :=
  .next (s.chanCmd die.val core.val ch.val 0x4
    (fun ws =>
      let t := bits (ws.getD 0 0) 55 50
      if 0x30 ≤ t ∧ t ≤ 0x3E then some 0x8 else none)
    fun ws s => s.signalRun die.val core.val ch.val ws)

/-- `END`: the channel is idle once its requests are done. -/
def State.chanEnd (s : State) (d c ch : Nat) : State :=
  let x := s.chan d c ch
  (s.setChan d c ch { x with ended := true }).chanIdle d c ch

def execDmaEnd (die : DieNo) (core : CoreNo) (ch : Fin 4) (s : State) : Host.Outcome State Fault Refusal :=
  .next (s.chanCmd die.val core.val ch.val 0x5 (fun _ => none) fun _ s => s.chanEnd die.val core.val ch.val)

end Sys2Proof.Machine
end

