-- ==== Sys2Proof/Machine/Operands.lean ====
section
/-! DEFINITION. Operands as the number formats give them (R87, R92, R98–R100): the codes of Table 03.7, elements packed
in bytes, MX blocks, and the conversions to an output format (R106, R107). -/

namespace Sys2Proof.Machine

/-! The format codes of Table 03.7 -/
namespace Code
def bf16 : Nat := 0x0
def fp16 : Nat := 0x1
def e4m3 : Nat := 0x2
def e5m2 : Nat := 0x3
def int8 : Nat := 0x4
def uint8 : Nat := 0x5
def int4 : Nat := 0x6
def e2m1 : Nat := 0x7
def fp32 : Nat := 0x8
def int32 : Nat := 0x9
def int64 : Nat := 0xA
def pair : Nat := 0xB
end Code

/-- The floating-point format of a code. -/
def floatFmt (code : Nat) : Option Fmt :=
  if code = Code.bf16 then some Fmt.bf16
  else if code = Code.fp16 then some Fmt.fp16
  else if code = Code.e4m3 then some Fmt.e4m3
  else if code = Code.e5m2 then some Fmt.e5m2
  else if code = Code.e2m1 then some Fmt.e2m1
  else if code = Code.fp32 then some Fmt.fp32
  else none

/-- Bits of an element. -/
def elemBits (code : Nat) : Nat :=
  if code = Code.int4 ∨ code = Code.e2m1 then 4
  else if code = Code.bf16 ∨ code = Code.fp16 then 16
  else if code = Code.fp32 ∨ code = Code.int32 ∨ code = Code.pair then 32
  else if code = Code.int64 then 64
  else 8

/-- The elements packed in bytes, 4-bit elements two to a byte with the lower first (R92). -/
def unpack (code : Nat) (bs : List Byte) : List Nat :=
  if elemBits code = 4 then bs.flatMap fun b => [b.toNat % 16, b.toNat / 16]
  else (chunks (elemBits code / 8) bs.length bs).map leNat

/-- Elements packed into bytes. -/
def pack (code : Nat) (es : List Nat) : List Byte :=
  if elemBits code = 4 then (chunks 2 es.length es).map fun p => BitVec.ofNat 8 (p.getD 0 0 + 16 * p.getD 1 0)
  else es.flatMap (leBytes (elemBits code / 8))

/-- A value as it leaves an array: an exact integer, or a floating-point value. -/
inductive Num where
  | int (i : Int)
  | fp (v : Fv)
deriving DecidableEq, Repr

def Num.toFv : Num → Fv
  | .int i => .ofInt i
  | .fp v => v

def Num.neg : Num → Num
  | .int i => .int (-i)
  | .fp v => .fp v.neg

/-- The value of an element of a code. -/
def elemNum (code x : Nat) : Num :=
  match floatFmt code with
  | some f => .fp (f.dec x)
  | none =>
    if code = Code.uint8 then .int x
    else .int (sgn (elemBits code) x)

/-- The value of an E8M0 scale is 2^(byte − 127); 0xFF stands for NaN (Table 03.8). -/
def e8m0 (v : Fv) (byte : Nat) : Fv := if byte = 0xFF then .nan else v.scale ((byte : Int) - 127)

/-- An integer shifted right by `r`, ties to even, and held in INT8 (Table 03.14). -/
def toInt8 (i : Int) (r : Nat) : Nat :=
  let n : Int := rneAt i.natAbs 0 r
  unsgn 8 (max (-128) (min 127 (if i < 0 then -n else n)))

/-- The BF16 pair of a value: hi := RNE of x, lo := RNE of x − hi (R106). -/
def bf16Pair (v : Fv) : Nat × Nat :=
  let hi := Fmt.bf16.enc false v
  let h := Fmt.bf16.dec hi
  match h with
  | .nan => (0x7FC0, 0x7FC0)
  | .inf _ => (hi, 0)
  | _ => (hi, Fmt.bf16.enc false (v.sub h))

/-- One value in a plain output format (Table 03.14); `sat` acts on FP16 and E5M2 alone. -/
def outCode (code : Nat) (sat : Bool) (rshift : Nat) (v : Num) : Nat :=
  match floatFmt code with
  | some f => f.enc (sat && (code == Code.fp16 || code == Code.e5m2)) v.toFv
  | none =>
    match v with
    | .int i =>
      if code = Code.int8 then toInt8 i rshift
      else if code = Code.int64 then unsgn 64 i
      else if code = Code.pair then (bf16Pair (.ofInt i)).1 * 2 ^ 16 + (bf16Pair (.ofInt i)).2
      else unsgn 32 i
    | .fp v => (bf16Pair v).1 * 2 ^ 16 + (bf16Pair v).2

/-- The exponent of a format's largest binade (R107). -/
def mxTop (code : Nat) : Int := if code = Code.e2m1 then 2 else if code = Code.e4m3 then 8 else 15

/-- An MX block of output: its scale byte and its elements (R107). -/
def mxBlock (code : Nat) (vs : List Fv) : Nat × List Nat :=
  let f := (floatFmt code).getD Fmt.e4m3
  if vs.any fun v => !v.isFinite then (0xFF, vs.map fun _ => 0)
  else
    let amax := vs.foldl (fun m v => if m.lt v.abs then v.abs else m) Fv.zero
    if amax.isZero then (0, vs.map fun _ => 0)
    else
      let x := max (-127) (min 127 (amax.exponent - mxTop code))
      ((x + 127).toNat, vs.map fun v => f.enc true (v.scale (-x)))

/-- A row of MX output: its blocks of 32, element bytes first and then the scale bytes. -/
def mxRow (code : Nat) (vs : List Fv) : List (Nat × List Nat) := (chunks 32 vs.length vs).map (mxBlock code)

def mxRowBytes (code : Nat) (blocks : List (Nat × List Nat)) : List Byte :=
  pack code (blocks.flatMap (·.2)) ++ blocks.map fun b => BitVec.ofNat 8 b.1

end Sys2Proof.Machine
end

