-- ==== Sys2Proof/Machine/PageMap.lean ====
section
/-! DEFINITION. The page map of a compute die: pages and their layout, probing, and the maintenance commands (R190–R203,
R224). -/

namespace Sys2Proof.Machine

/-! The page-map command (Table 04.10) -/

def pmSub (w : List Word) : Nat := bits (w.getD 0 0) 39 36
def pmLayer (w : List Word) : Nat := bits (w.getD 0 0) 31 24
def pmN (w : List Word) : Nat := bits (w.getD 1 0) 10 0
def State.pmOff (s : State) (d c : Nat) (w : List Word) : Nat :=
  s.effOff d c (bits (w.getD 1 0) 31 29) (bits (w.getD 1 0) 28 11) 32

/-- What makes a page-map command malformed. -/
def State.pmCauses (s : State) (d c : Nat) (w : List Word) : List Nat :=
  (if 2 ≤ pmSub w ∨ pmN w = 0 then [0x2] else []) ++
  (if s.offOk d c (s.pmOff d c w) 32 (if pmSub w = 0 then 32 * pmN w else 8 * pmN w) then [] else [0x3])

/-! Pages (R191, R192) -/

/-- The ordinal of the page that holds a position, at top class `t`. -/
def pageOrd (t pos : Nat) : Nat :=
  if pos < 16 then 0 else if Nat.log2 pos < 4 + t then Nat.log2 pos - 3 else t + pos / 2 ^ (4 + t)

def pageClass (t o : Nat) : Nat := if o = 0 then 0 else if o ≤ t then o - 1 else t
def pageFirst (t o : Nat) : Nat := if o = 0 then 0 else if o ≤ t then 2 ^ (o + 3) else (o - t) * 2 ^ (4 + t)

/-- Positions of a class. -/
def classSize (c : Nat) : Nat := 16 * 2 ^ c

/-! Entries (Table 06.3) -/

def enHandle (e : Word × Word) : Nat := bits e.1 63 32
def enOrd (e : Word × Word) : Nat := bits e.1 31 12
def enClass (e : Word × Word) : Nat := bits e.1 11 8
def enKind (e : Word × Word) : Nat := bits e.1 7 6
def enTier (e : Word × Word) : Nat := bits e.1 5 4
def enCtx (e : Word × Word) : Nat := bits e.1 3 0
def enEpoch (e : Word × Word) : Nat := bits e.2 63 56
def enFill (e : Word × Word) : Nat := bits e.2 55 43
def enPin (e : Word × Word) : Bool := bit e.2 42
def enShared (e : Word × Word) : Bool := bit e.2 41
def enLoc (e : Word × Word) : Nat := bits e.2 35 0
def enPrefix (e : Word × Word) : Nat := bits e.2 63 32
def enSharedOrd (e : Word × Word) : Nat := bits e.2 19 0

def aliasOrd : Nat := 0xFFFFF

def State.mapAt (s : State) (d i : Nat) : Word × Word := cget (fun _ => (0, 0)) s.maps (65536 * d + i)

/-- A maintenance operation on an entry clears it from the lists of its die's append drains (R206). -/
def State.drainsClear (s : State) (d i : Nat) : State :=
  { s with drains := s.drains.foldl (fun l p =>
      if p.1 / 48 = d then cset (fun _ => []) l p.1 (p.2.filter fun x => x.2.2 != i) else l) s.drains }

def State.setMapAt (s : State) (d i : Nat) (e : Word × Word) : State :=
  { s.drainsClear d i with maps := cset (fun _ => (0, 0)) s.maps (65536 * d + i) e }

/-- Move an entry to another place of its map. -/
def State.mapShift (s : State) (d i t : Nat) : State :=
  let use := cget (fun _ => (0, 0)) s.mapUse (65536 * d + i)
  let s := (s.setMapAt d t (s.mapAt d i)).setMapAt d i (0, 0)
  { s with mapUse := cset (fun _ => (0, 0)) (cset (fun _ => (0, 0)) s.mapUse (65536 * d + t) use) (65536 * d + i) (0, 0) }

/-- The candidate sets of a key (R196). -/
def mapSets (handle ord : Nat) : Nat × Nat :=
  let a := handle ^^^ (ord * 0x9E3779B9 % 2 ^ 32)
  let s0 := a % 8184
  let s1 := a / 2 ^ 13 % 8184
  (s0, if s1 = s0 then (s0 + 1) % 8184 else s1)

def setWays (set : Nat) : List Nat := (List.range 8).map fun w => set * 8 + w
def victims : List Nat := (List.range 64).map fun i => 65472 + i

/-- The entries that a key may stand in, in the order of an insertion. -/
def candidates (handle ord : Nat) : List Nat :=
  let (s0, s1) := mapSets handle ord
  setWays s0 ++ setWays s1 ++ victims

/-- The entry of a key: page entries have kind 1, alias entries kind 2. -/
def State.mapFind (s : State) (d handle ord kind : Nat) : Option Nat :=
  (candidates handle ord).find? fun i =>
    let e := s.mapAt d i
    enKind e == kind && enHandle e == handle && enOrd e == ord

/-- Entries of a die that are not free, with their indices. -/
def State.mapEntries (s : State) (d : Nat) : List (Nat × (Word × Word)) :=
  (s.maps.filter fun p => p.1 / 65536 == d && enKind p.2 != 0).map fun p => (p.1 % 65536, p.2)

/-- Show entries in use, victims in use and each context's. -/
def State.mapShow (s : State) (d : Nat) : State :=
  let es := s.mapEntries d
  let b := Base.pageMap d
  let s := (s.put b Reg.mapInUse es.length).put b Reg.mapVictims (es.filter fun p => decide (65472 ≤ p.1)).length
  (List.range 16).foldl (fun s c => s.put b Reg.quotaUsed (es.filter fun p => enCtx p.2 == c).length c) s

/-! Maintenance (R201, Table 06.10): each answers a status and the index concerned. -/

/-- Put an entry where R196 places it; refused when its key exists, no way is free, its class or kind is reserved, or the
context's quota is used up. -/
def State.mapPut (s : State) (d : Nat) (e : Word × Word) : Nat × Nat × State :=
  let k := enKind e
  let ok := (k == 1 || k == 2) && decide (enClass e < 9) &&
    (s.mapFind d (enHandle e) (enOrd e) k).isNone &&
    decide ((s.mapEntries d).foldl (fun n p => if enCtx p.2 = enCtx e then n + 1 else n) 0
      < s.get (Base.pageMap d) Reg.quotaLimit (enCtx e))
  if !ok then (Status.denied, 0, s)
  else
    match (candidates (enHandle e) (enOrd e)).find? fun i => enKind (s.mapAt d i) == 0 with
    | none => (Status.denied, 0, s)
    | some i => (Status.ok, i, (s.setMapAt d i e).mapShow d)

/-- The entry that MAP_W0 keys; a free entry has no key. -/
def State.mapKeyed (s : State) (d : Nat) : Option Nat :=
  let w0 := word (s.get (Base.pageMap d) Reg.mapW 0)
  if enKind (w0, 0) = 0 then none else s.mapFind d (enHandle (w0, 0)) (enOrd (w0, 0)) (enKind (w0, 0))

/-- Take an entry out. -/
def State.mapDrop (s : State) (d i : Nat) : State := (s.setMapAt d i (0, 0)).mapShow d

/-- The words in MAP_W0 and MAP_W1. -/
def State.mapArgs (s : State) (d : Nat) : Word × Word :=
  let b := Base.pageMap d
  (word (s.get b Reg.mapW 0), word (s.get b Reg.mapW 1))

/-- A command on the entry that MAP_W0 keys; one that is not there is reported so, and a reserved class is refused. -/
def State.mapOn (s : State) (d : Nat) (f : Nat → State → Nat × Nat × State) : Nat × Nat × State :=
  if 9 ≤ enClass (s.mapArgs d) then (Status.denied, 0, s)
  else
    match s.mapKeyed d with
    | none => (Status.notResident, 0, s)
    | some i => f i s

/-- Report a command's outcome; the register write itself completes with `OK` (R527). -/
def State.mapReport (r : Nat × Nat × State) (d : Nat) : State :=
  let b := Base.pageMap d
  let s := r.2.2.put b Reg.mapStatus r.1
  (if r.1 = Status.ok then s.put b Reg.mapIndex r.2.1 else s).reply Status.ok

/-- The die's page map answers its controllers. -/
def State.dieUp (s : State) (d : Nat) : Bool := s.awake && !s.isFenced d 0xFF

def State.mapInsert (s : State) (d : Nat) : State := State.mapReport (s.mapPut d (s.mapArgs d)) d
def State.mapUpdate (s : State) (d : Nat) : State :=
  State.mapReport (s.mapOn d fun i s => (Status.ok, i, s.setMapAt d i ((s.mapAt d i).1, (s.mapArgs d).2))) d
def State.mapRemove (s : State) (d : Nat) : State :=
  State.mapReport (s.mapOn d fun i s => (Status.ok, i, s.mapDrop d i)) d
def State.mapRead (s : State) (d : Nat) : State :=
  State.mapReport (s.mapOn d fun i s =>
    let b := Base.pageMap d
    let e := s.mapAt d i
    (Status.ok, i, ((s.drainsClear d i).put b Reg.mapR e.1.toNat 0).put b Reg.mapR e.2.toNat 1)) d

/-- Where `MOVE_TO` may put an entry: a free way of its other candidate set, or a free victim. -/
def State.moveOk (s : State) (d i t : Nat) : Bool :=
  let e := s.mapAt d i
  let (s0, s1) := mapSets (enHandle e) (enOrd e)
  decide (t < 65536) && enKind (s.mapAt d t) == 0 &&
    (decide (65472 ≤ t) || ((t / 8 == s0 || t / 8 == s1) && t / 8 != i / 8))

def State.moveTo (s : State) (d t : Nat) : State :=
  State.mapReport (s.mapOn d fun i s =>
    if s.moveOk d i t then (Status.ok, t, (s.mapShift d i t).mapShow d)
    else (Status.denied, 0, s)) d

def execMapInsert (die : DieNo) (s : State) : Host.Outcome State Fault Refusal :=
  .next (if s.dieUp die.val then s.mapInsert die.val else s)
def execMapUpdate (die : DieNo) (s : State) : Host.Outcome State Fault Refusal :=
  .next (if s.dieUp die.val then s.mapUpdate die.val else s)
def execMapRemove (die : DieNo) (s : State) : Host.Outcome State Fault Refusal :=
  .next (if s.dieUp die.val then s.mapRemove die.val else s)
def execMapRead (die : DieNo) (s : State) : Host.Outcome State Fault Refusal :=
  .next (if s.dieUp die.val then s.mapRead die.val else s)
def execMoveTo (die : DieNo) (target : BitVec 16) (s : State) : Host.Outcome State Fault Refusal :=
  .next (if s.dieUp die.val then s.moveTo die.val target.toNat else s)

/-! The layout of a page (R193, R194) -/

/-- A context's page configuration on a die. -/
structure PageCfg where
  fmt : Nat
  d : Nat
  heads : Nat
  layers : Nat
  top : Nat
  sumMin : Nat
  run : Nat
deriving DecidableEq, Repr

def State.pageCfg (s : State) (die ctx : Nat) : PageCfg :=
  let b := Base.pageMap die
  { fmt := s.get b Reg.pgFmt ctx, d := 32 * s.get b Reg.pgDim32 ctx, heads := s.get b Reg.pgHeads ctx,
    layers := s.get b Reg.pgLayers ctx + 1, top := s.get b Reg.pgTopClass ctx, sumMin := s.get b Reg.pgSumMin ctx,
    run := s.get b Reg.pgRun ctx }

/-- Bytes of a row. -/
def PageCfg.row (p : PageCfg) : Nat := p.d * (elemBits p.fmt / 8)
/-- Bytes of the rows of a page of class `c`. -/
def PageCfg.data (p : PageCfg) (c : Nat) : Nat := p.layers * (2 * p.heads * classSize c * p.row)
def PageCfg.summed (p : PageCfg) (c : Nat) : Bool := p.sumMin != 15 && decide (p.sumMin ≤ c)
/-- Bytes of a summary record. -/
def PageCfg.recBytes (p : PageCfg) : Nat := 64 + 8 * p.d
/-- Bytes of the summaries of a page. -/
def PageCfg.sumBytes (p : PageCfg) (c : Nat) : Nat := if p.summed c then p.layers * p.heads * p.recBytes else 0
/-- Bytes of a page with its summaries. -/
def PageCfg.bytes (p : PageCfg) (c : Nat) : Nat := p.data c + p.sumBytes c
/-- Offset of a key row, or of the value row, of a layer and head. -/
def PageCfg.rowOff (p : PageCfg) (c l h kv i : Nat) : Nat :=
  l * (2 * p.heads * classSize c * p.row) + h * (2 * classSize c * p.row) + kv * (classSize c * p.row) + i * p.row
/-- Offset of a summary record. -/
def PageCfg.sumOff (p : PageCfg) (c l h : Nat) : Nat := p.data c + (l * p.heads + h) * p.recBytes

/-! Summary records (R194, R208) -/

/-- The BF16 code above or below a value that it does not hold exactly (R194). -/
def bf16Next (x : Nat) (up : Bool) : Nat :=
  let neg := 0x8000 ≤ x
  if up then (if neg then (if x = 0x8000 then 1 else x - 1) else x + 1)
  else if neg then x + 1 else if x = 0 then 0x8001 else x - 1

def bf16Out (v : Fv) (up : Bool) : Nat :=
  let x := Fmt.bf16.enc false v
  let r := Fmt.bf16.dec x
  if (if up then r.lt v else v.lt r) then bf16Next x up else x

/-- A summary record with nothing summarised: bounds that every element passes. -/
def sumEmpty (d : Nat) : List Byte :=
  List.replicate 64 0 ++ (List.replicate d (leBytes 2 0xFF80)).flatten ++ (List.replicate d (leBytes 2 0x7F80)).flatten ++
    List.replicate (4 * d) 0

/-- One dimension's largest, smallest and sum, raised by a key element. -/
def sumKey (e : Fv) (k : Nat × Nat × Nat) : Nat × Nat × Nat :=
  let (hi, lo, sum) := k
  let sum := f32enc ((f32 sum).add e)
  if e.isNan then (0x7F80, 0xFF80, sum)
  else
    (if (Fmt.bf16.dec hi).lt e then bf16Out e true else hi, if e.lt (Fmt.bf16.dec lo) then bf16Out e false else lo, sum)

/-- Put bytes into a list at an offset. -/
def splice (l : List Byte) (o : Nat) (bs : List Byte) : List Byte := l.take o ++ bs ++ l.drop (o + bs.length)

/-- A record with the elements of a key row from dimension `x` on (R208). -/
def sumKeys (r : List Byte) (d x : Nat) (es : List Fv) : List Byte :=
  let r := if x = 0 then splice r 0 (leBytes 4 (leNat (r.take 4) + 1)) else r
  (es.mapIdx fun i e => (x + i, e)).foldl (fun r p =>
    let (i, e) := p
    let at' (o n : Nat) : Nat := leNat ((r.drop o).take n)
    let (hi, lo, sum) := sumKey e (at' (64 + 2 * i) 2, at' (64 + 2 * d + 2 * i) 2, at' (64 + 4 * d + 4 * i) 4)
    splice (splice (splice r (64 + 2 * i) (leBytes 2 hi)) (64 + 2 * d + 2 * i) (leBytes 2 lo)) (64 + 4 * d + 4 * i)
      (leBytes 4 sum)) r

/-- A record with the magnitudes of a value row. -/
def sumVals (r : List Byte) (es : List Fv) : List Byte :=
  let v := es.foldl (fun m e => if e.isNan then .inf false else if m.lt e.abs then e.abs else m) (f32 (leNat ((r.drop 4).take 4)))
  splice r 4 (leBytes 4 (f32enc v))

/-- Note that an entry was used, and whether it received rows in its context's step. -/
def State.touch (s : State) (d i : Nat) (rows : Bool := false) : State :=
  let old := cget (fun _ => (0, 0)) s.mapUse (65536 * d + i)
  let n := (s.ctxRec (enCtx (s.mapAt d i))).steps
  { s with mapUse := cset (fun _ => (0, 0)) s.mapUse (65536 * d + i) (s.stroke, if rows then n + 1 else old.2) }

/-! Firmware's use of the map (R196, R202, R205, R210, R211) -/

/-- The core set of a context, ascending (CORE_BIND in force). -/
def State.coreSet (s : State) (ctx : Nat) : List Nat :=
  (List.range 384).filter fun k =>
    (s.effGet (Base.coreBind (k / 48)) Reg.cbSharers (k % 48)).testBit ctx && !s.isFenced (k / 48) (k % 48)

def State.topClass (s : State) (ctx : Nat) : Nat := s.get (Base.pageMap 0) Reg.pgTopClass ctx
def State.runLen (s : State) (ctx : Nat) : Nat := max 1 (s.get (Base.pageMap 0) Reg.pgRun ctx)

/-- Pages that hold the positions below `n`. -/
def State.pageCount (s : State) (ctx n : Nat) : Nat := if n = 0 then 0 else pageOrd (s.topClass ctx) (n - 1) + 1

/-- The core span of a sequence of `n` positions (R211). -/
def State.spanOf (s : State) (ctx n : Nat) : Nat :=
  min (s.coreSet ctx).length (max 1 (ceilDiv (s.pageCount ctx n) 64))

/-- The member at which page `o` has its home. -/
def State.homeMember (s : State) (ctx handle span o : Nat) : Nat :=
  let t := s.topClass ctx
  let n := max 1 span
  let h := handle % n
  if o ≤ t then h else (h + 1 + (o - t - 1) / s.runLen ctx) % n

/-- The die of page `o`'s home. -/
def State.homeDie (s : State) (ctx handle span o : Nat) : Nat :=
  (s.coreSet ctx).getD (s.homeMember ctx handle span o) 0 / 48

/-- Device `i` of a sequence-parallel group of `parts` devices holds page `o` (R213); device 0 holds the growth pages. -/
def State.holds (s : State) (ctx parts i o : Nat) : Bool :=
  let t := s.topClass ctx
  if o ≤ t then i == 0 else (o - t - 1) / s.runLen ctx % max 1 parts == i

/-- Move one entry of a set to its other candidate set. -/
def State.mapSlide (s : State) (d set : Nat) : Option State :=
  (setWays set).findSome? fun i =>
    let e := s.mapAt d i
    let (a, b) := mapSets (enHandle e) (enOrd e)
    let other := if a = set then b else a
    ((setWays other).find? fun t => enKind (s.mapAt d t) == 0 && other != set).map fun t =>
      s.mapShift d i t

/-- Insert an entry as firmware does, with at most `fuel` moves of others (R196). -/
def State.mapPlace (s : State) (d : Nat) (e : Word × Word) : Nat → Bool × State
  | 0 => let r := s.mapPut d e; (r.1 == Status.ok, r.2.2)
  | fuel + 1 =>
    let r := s.mapPut d e
    if r.1 = Status.ok then (true, r.2.2)
    else if (candidates (enHandle e) (enOrd e)).any fun i => enKind (s.mapAt d i) == 0 then (false, s)
    else
      match s.mapSlide d (mapSets (enHandle e) (enOrd e)).1 with
      | some s => s.mapPlace d e fuel
      | none => (false, s)

def pageEntry (handle ord cls tier ctx epoch fill : Nat) (shared : Bool) (loc : Nat) : Word × Word :=
  (word (handle * 2 ^ 32 + ord * 2 ^ 12 + cls * 2 ^ 8 + 2 ^ 6 + tier * 2 ^ 4 + ctx),
   word (epoch * 2 ^ 56 + fill * 2 ^ 43 + b2n shared * 2 ^ 41 + loc))

/-- Entries of a sequence: die, index and entry. -/
def State.pagesOf (s : State) (handle : Nat) : List (Nat × Nat × (Word × Word)) :=
  (s.maps.filter fun p => enHandle p.2 == handle && enKind p.2 != 0).map fun p => (p.1 / 65536, p.1 % 65536, p.2)

/-- The page entry of a key, on whichever die it stands. -/
def State.pageAt (s : State) (handle o : Nat) : Option (Nat × Nat × (Word × Word)) :=
  (s.pagesOf handle).find? fun p => enKind p.2.2 == 1 && enOrd p.2.2 == o

/-- Where the summaries of a page that has left DDR stay, 0 for none. -/
def State.sumAt (s : State) (handle o : Nat) : Nat := cget (fun _ => 0) s.sums (handle * 2 ^ 20 + o)
def State.setSumAt (s : State) (handle o a : Nat) : State :=
  { s with sums := cset (fun _ => 0) s.sums (handle * 2 ^ 20 + o) a }

/-! Storage (R202, R219, R241) -/

/-- The summaries of a page that stay in DDR while it is at tier 2 or 3. -/
def State.sumStorage (s : State) (d : Nat) (e : Word × Word) : List Storage :=
  let a := s.sumAt (enHandle e) (enOrd e)
  if a = 0 then [] else [.bytes a ((s.pageCfg d (enCtx e)).sumBytes (enClass e))]

/-- The storage that a page takes outside the die stores. -/
def State.storageOf (s : State) (d : Nat) (e : Word × Word) : List Storage :=
  let p := s.pageCfg d (enCtx e)
  let c := enClass e
  if enKind e ≠ 1 then []
  else
    match enTier e with
    | 1 => [.bytes (enLoc e * 4096) (p.bytes c)]
    | 2 => .bytes (enLoc e * 4096) (p.data c) :: s.sumStorage d e
    | 3 => .object (enLoc e / 65536) :: s.sumStorage d e
    | _ => []

/-- Extents of bytes in use by pages and by copies of models, with the context and the size class of those that are a page's own: addresses, bytes,
and 16 × class + context, 255 for one that shares its regions with nothing. -/
def State.extents (s : State) : List (Nat × Nat × Nat) :=
  let bytes (tag : Nat) : Storage → Option (Nat × Nat × Nat)
    | .bytes a n => some (a, n, tag)
    | .object _ => none
  (s.maps.flatMap fun p =>
    (s.storageOf (p.1 / 65536) p.2).filterMap (bytes (16 * enClass p.2 + enCtx p.2))) ++
    s.moving.filterMap (fun m => bytes 255 m.dest) ++ s.toRelease.filterMap (fun r => bytes 255 r.2) ++
    s.copies.map fun c => (c.addr, c.bytes, 255)

/-- An extent at `a` may be given to a page: it overlaps none, and shares its regions of 2 MiB only with pages of the same
context and size class (R241). -/
def State.placeFits (s : State) (a n tag : Nat) : Bool :=
  decide (a + n ≤ 2 ^ 43) && s.extents.all fun x =>
    let apart := decide (a + n ≤ x.1) || decide (x.1 + x.2.1 ≤ a)
    let regions := decide ((a + n - 1) / 2 ^ 21 < x.1 / 2 ^ 21) || decide ((x.1 + x.2.1 - 1) / 2 ^ 21 < a / 2 ^ 21)
    apart && (x.2.2 == tag || regions)

/-- Release an extent: the regions of DDR and of the host window that it lay in and that hold nothing any more get a new
epoch (R202, R240, R241). -/
def State.releaseBytes (s : State) (a n : Nat) : State :=
  let host := decide (hostBase ≤ a)
  let sz := if host then 2 ^ 26 else 2 ^ 21
  let base := if host then hostBase else 0
  let lives (q : Nat) : Bool := s.extents.any fun x =>
    decide (base ≤ x.1) && (host || decide (x.1 < 2 ^ 43)) &&
      decide ((x.1 - base) / sz ≤ q) && decide (q ≤ (x.1 - base + x.2.1 - 1) / sz)
  ((List.range ((a - base + n + sz - 1) / sz - (a - base) / sz)).map ((a - base) / sz + ·)).foldl (fun s q =>
    if lives q then s
    else if host then s.setEpoch 0 true q (epochRealloc (s.epoch 0 true q)) else s.reallocDdr q) s

/-- The first region above all storage in use. -/
def State.topRegion (s : State) : Nat :=
  ceilDiv (s.extents.foldl (fun m x => if x.1 < 2 ^ 43 then max m (x.1 + x.2.1) else m) 0) (2 ^ 21)

/-- Whole regions for a copy of a model (R241); which ones firmware takes is not given (log 194). -/
def State.copyTake (s : State) (ctx model cast bytes : Nat) : State :=
  let (w, s) := s.draw
  let a := w.toNat % 2 ^ 22 * 2 ^ 21
  let a := if s.placeFits a bytes 255 then a else s.topRegion * 2 ^ 21
  { s with copies := s.copies ++ [{ ctx := ctx, model := model, cast := cast, addr := a, bytes := bytes }] }

/-- Copies that `f` names are freed, and their regions reallocated (R241, R390, R498). -/
def State.copyFree (s : State) (f : CopyAt → Bool) : State :=
  let gone := s.copies.filter f
  gone.foldl (fun s c => s.releaseBytes c.addr c.bytes) { s with copies := s.copies.filter fun c => !f c }

/-- A new place in DDR for a page of a context and size class: which one firmware takes is not given (log 89). One that R241
forbids gives way to the first region above all storage in use. -/
def State.pageLoc (s : State) (d ctx cls : Nat) : Nat × State :=
  let (w, s) := s.draw
  let n := ceilDiv ((s.pageCfg d ctx).bytes cls) 4096 * 4096
  let loc := w.toNat % 2 ^ 31
  (if s.placeFits (loc * 4096) n (16 * cls + ctx) then loc else s.topRegion * 512 % 2 ^ 31, s)

/-- Firmware prepares the summary records of a page that it makes: DESIGN CHOICE (log 93). -/
def State.sumsClear (s : State) (d ctx cls base : Nat) : State :=
  let p := s.pageCfg d ctx
  if p.summed cls then
    s.storeBytes (base + p.data cls) (List.replicate (p.layers * p.heads) (sumEmpty p.d)).flatten
  else s

/-- Give a sequence the page of an ordinal on a die, in DDR, unless it has it. -/
def State.pageMake (s : State) (d ctx handle o : Nat) : Bool × State :=
  if (s.mapFind d handle o 1).isSome then (true, s)
  else
    let c := pageClass (s.topClass ctx) o
    let (loc, s) := s.pageLoc d ctx c
    (s.sumsClear d ctx c (loc * 4096)).mapPlace d
      (pageEntry handle o c 1 ctx (s.epochOf (loc * 4096)).toNat 0 false loc) 32

/-- Give a sequence the pages of positions [a, b) that this device holds as device 0 of `parts`; false when one could not be
inserted. -/
def State.pagesMake (s : State) (ctx handle span parts a b : Nat) : Bool × State :=
  let t := s.topClass ctx
  let lo := pageOrd t a
  ((List.range (s.pageCount ctx b - lo)).filter fun i => s.holds ctx parts 0 (lo + i)).foldl (fun x i =>
    if x.1 then x.2.pageMake (x.2.homeDie ctx handle span (lo + i)) ctx handle (lo + i) else x) (true, s)

/-- Change word 1 of an entry's `FILL`. -/
def withFill (e : Word × Word) (f : Nat) : Word × Word :=
  (e.1, word (e.2.toNat - enFill e * 2 ^ 43 + f * 2 ^ 43))

/-- An entry with another tier, location and epoch. -/
def withPlace (e : Word × Word) (tier loc epoch : Nat) : Word × Word :=
  (word (e.1.toNat - enTier e * 2 ^ 4 + tier * 2 ^ 4),
   word (e.2.toNat % 2 ^ 56 - enLoc e + loc + epoch * 2 ^ 56))

/-- `FILL` of a sequence's pages stands at position `pos` (R210, R360). -/
def State.fillTo (s : State) (ctx handle pos : Nat) : State :=
  let t := s.topClass ctx
  (s.pagesOf handle).foldl (fun s p =>
    if enKind p.2.2 = 1 then
      s.setMapAt p.1 p.2.1 (withFill p.2.2 (min (classSize (enClass p.2.2)) (pos - pageFirst t (enOrd p.2.2))))
    else s) s

/-- Rows from a position on are to be appended again (R360). -/
def State.redoFrom (s : State) (ctx handle pos : Nat) : State :=
  let t := s.topClass ctx
  let again := (s.pagesOf handle).filterMap fun p =>
    let o := enOrd p.2.2
    if enKind p.2.2 = 1 ∧ pos < pageFirst t o + classSize (enClass p.2.2) then some (handle, o) else none
  { s with redone := (s.redone ++ again).eraseDups }

/-- The summary record of a layer and head, from the page's rows below `FILL` (R208, R360). -/
def State.sumOfRows (s : State) (p : PageCfg) (e : Word × Word) (l h : Nat) : List Byte :=
  let row (kv i : Nat) : List Fv :=
    (unpack p.fmt (s.loadBytes (enLoc e * 4096 + p.rowOff (enClass e) l h kv i) p.row).1).map fun x => (elemNum p.fmt x).toFv
  (List.range (enFill e)).foldl (fun r i => sumVals (sumKeys r p.d 0 (row 0 i)) (row 1 i)) (sumEmpty p.d)

/-- Rewrite the summary records of a page that had a row appended more than once (R360). -/
def State.sumsRedo (s : State) (d : Nat) (e : Word × Word) : State :=
  let p := s.pageCfg d (enCtx e)
  if !s.redone.contains (enHandle e, enOrd e) || decide (2 ≤ enTier e) || !p.summed (enClass e) then s
  else
    let s := (List.range (p.layers * p.heads)).foldl (fun s k =>
      s.storeBytes (enLoc e * 4096 + p.sumOff (enClass e) (k / p.heads) (k % p.heads))
        (s.sumOfRows p e (k / p.heads) (k % p.heads))) s
    { s with redone := s.redone.filter fun x => x != (enHandle e, enOrd e) }

/-- Bytes that a page takes, and its storage's address; a page in flash has none. -/
def State.pageBytes (s : State) (d : Nat) (e : Word × Word) : Nat := (s.pageCfg d (enCtx e)).bytes (enClass e)

/-- Release storage no earlier than two strokes on (R202). -/
def State.releaseAll (s : State) (l : List Storage) : State :=
  { s with toRelease := s.toRelease ++ l.map fun x => (s.stroke + 2, x) }

/-- Release all the storage of a page. -/
def State.releaseLater (s : State) (d : Nat) (e : Word × Word) : State :=
  (s.releaseAll (s.storageOf d e)).setSumAt (enHandle e) (enOrd e) 0

/-- Bytes of a context's DDR share: its channels in service. -/
def State.ddrShare (s : State) (ctx : Nat) : Nat :=
  ((setBits 32 (s.get Base.contexts Reg.cxDdrMask ctx)).filter fun c => !s.isFenced (0x10 + c / 16) (c % 16)).foldl
    (fun n c => n + s.get (Base.ddr c) Reg.ddrCapGib * 2 ^ 30) 0

/-- Bytes of a context's pages at tier 1, and of the summaries that stay there. -/
def State.pagesInDdr (s : State) (ctx : Nat) : Nat :=
  s.maps.foldl (fun n p =>
    if enKind p.2 = 1 ∧ enCtx p.2 = ctx then
      (s.storageOf (p.1 / 65536) p.2).foldl (fun n x => match x with
        | .bytes a k => if a < 2 ^ 43 then n + k else n
        | .object _ => n) n
    else n) 0

/-- Devices over which a sequence of `last` positions is spread (R213): the group that its model's program names where the
pages would take more than the context's share of this device's DDR, and this device alone otherwise. -/
def State.seqParts (s : State) (ctx last group : Nat) : Nat :=
  let p := s.pageCfg 0 ctx
  let bytes := (List.range (s.pageCount ctx last)).foldl (fun n o => n + p.bytes (pageClass p.top o)) 0
  if 2 ≤ group ∧ s.ddrShare ctx < bytes then group else 1

/-- Strokes by which firmware issues a prefetch from a tier ahead of its use (Table 07.15); where no bandwidth is set the bytes
count for nothing (log 191). -/
def State.prefetchLead (s : State) (tier bytes : Nat) : Nat :=
  let lat := s.get (Base.tier 0) Reg.leadLat (tier - 2)
  let bw := s.get (Base.tier 0) Reg.leadBw (tier - 2)
  let p := max 1 (s.get Base.device Reg.strokeUs)
  (if bw = 0 then ceilDiv lat p else ceilDiv (lat * bw + bytes) (bw * p)) + 2

/-- Free all of a sequence's entries. -/
def State.pagesFree (s : State) (handle : Nat) : State :=
  let ps := s.pagesOf handle
  let s := ps.foldl (fun s p => (s.releaseLater p.1 p.2.2).setMapAt p.1 p.2.1 (0, 0)) s
  let s := { s with redone := s.redone.filter fun x => x.1 != handle }
  (ps.map (·.1)).eraseDups.foldl State.mapShow s

end Sys2Proof.Machine
end

