-- ==== Sys2Proof/Machine/Engines.lean ====
section
/-! DEFINITION. Engine jobs (R163–R166), the random-number engine (R173–R177), the finishing engine (R178–R184) and the
check engine (R185–R187). -/

namespace Sys2Proof.Machine

def State.eng (s : State) (d e : Nat) : Eng := cget (fun _ => Eng.new) s.engines (8 * d + e)
def State.setEng (s : State) (d e : Nat) (x : Eng) : State :=
  { s with engines := cset (fun _ => Eng.new) s.engines (8 * d + e) x }

/-- An engine's index in Table 13.4. -/
def engIndex (e : Nat) : Nat := if e < 4 then 0x36 + e else 0x34 + (e - 4)

/-- The fields of a job entry (Table 05.5). -/
def jobSlot (j : List Word) : Nat := bits (j.getD 0 0) 63 48
def jobCtx (j : List Word) : Nat := bits (j.getD 0 0) 47 44
def jobKind (j : List Word) : Nat := bits (j.getD 0 0) 41 40
def jobOp (j : List Word) : Nat := bits (j.getD 0 0) 39 32
def jobCast (j : List Word) : Nat := bits (j.getD 0 0) 31 16
def jobSeq (j : List Word) : Nat := bits (j.getD 1 0) 63 32
def jobCount (j : List Word) : Nat := bits (j.getD 1 0) 31 0
def jobParam (j : List Word) : Nat := bits (j.getD 2 0) 47 0
def jobOut (j : List Word) : Nat := bits (j.getD 3 0) 47 0

/-- Operations that an engine has. -/
def jobKnown (e op : Nat) : Bool :=
  decide (1 ≤ op) && decide (op ≤ (if e < 3 then 4 else if e = 3 then 3 else 2))

def State.engShow (s : State) (d e : Nat) : State := s.put (Base.engine d e) Reg.engDepth (s.eng d e).queue.length

/-- A write to JOB_IN3 pushes an entry; a push to a full queue is refused (R163). -/
def State.jobPush (s : State) (d e : Nat) (w3 : Word) : State :=
  let x := s.eng d e
  if s.isFenced d 0xFF then s.reply Status.quarantined
  else if 64 ≤ x.queue.length then s.reply Status.denied
  else
    let j := ((List.range 3).map fun i => cget (fun _ => 0) x.latch i) ++ [w3]
    (((s.setEng d e { x with queue := x.queue ++ [j] }).engShow d e).workScheduled).reply Status.ok

def execJobPush (die : DieNo) (engine : Fin 6) (word3 : Word) (s : State) : Host.Outcome State Fault Refusal :=
  .next (if s.awake then s.jobPush die.val engine.val word3 else s)

/-- Start a job. -/
def State.jobStart (s : State) (d e : Nat) (j : List Word) : State :=
  let b := Base.engine d e
  let s := (s.setEng d e { s.eng d e with job := some j, overran := false }).grant (jobCtx j) (uid d (engIndex e))
  ((s.put b Reg.engState 1).put b Reg.engCtx (jobCtx j)).put b Reg.engSlot (jobSlot j)

/-- Compare the head entry with `SCHED_POS`, as R123 does (R164). -/
def State.jobCompare (s : State) (d e : Nat) : Nat → State
  | 0 => s
  | fuel + 1 =>
    match (s.eng d e).queue with
    | [] => s
    | j :: rest =>
      let diff := (jobSlot j + 65536 - s.sched % 65536) % 65536
      if diff = 0 then ((s.setEng d e { s.eng d e with queue := rest }).engShow d e).jobStart d e j
      else if diff < 32768 then s
      else
        let s := ((s.setEng d e { s.eng d e with queue := rest }).engShow d e).count (Base.engine d e) Reg.engMissed
        (s.workReason (jobCtx j) (jobKind j) (jobSeq j) Reason.missing).jobCompare d e fuel

/-- The engine is in service and its clock runs. -/
def State.engUp (s : State) (d e : Nat) : Bool := !s.isFenced d (engIndex e) && !s.pins.gated

/-- Cycle 120 of a stroke in which the device runs a slot, once a stroke. -/
def State.jobCycle (s : State) (d e : Nat) : State :=
  let x := s.eng d e
  if s.runsSlots && s.engUp d e && x.job.isNone && x.compared != s.stroke + 1 then
    (s.setEng d e { x with compared := s.stroke + 1 }).jobCompare d e (x.queue.length + 1)
  else s

def execJobSlotCompare (die : DieNo) (engine : Fin 6) (s : State) : Host.Outcome State Fault Refusal :=
  .next (s.jobCycle die.val engine.val)

/-- A job completes: its status is kept and its reason set (R166), and the next entry of the slot starts. -/
def State.jobDone (s : State) (d e : Nat) (j : List Word) (st : Nat) : State :=
  let b := Base.engine d e
  let s := if st = Status.ok then s else s.put b Reg.engLastStatus st
  let s :=
    if st = Status.gone ∨ st = Status.quarantined then s.workReason (jobCtx j) (jobKind j) (jobSeq j) Reason.gone
    else if st = Status.denied then s.workReason (jobCtx j) (jobKind j) (jobSeq j) Reason.overrun
    else s
  let s := (s.count b Reg.engJobs).put b Reg.engState 0
  let s := s.setEng d e { s.eng d e with job := none, overran := false }
  match (s.eng d e).queue with
  | n :: rest =>
    if jobSlot n = jobSlot j then ((s.setEng d e { s.eng d e with queue := rest }).engShow d e).jobStart d e n else s
  | [] => s

/-- Run the engine's job when it has the given operation: a reserved operation completes with `DENIED`. -/
def State.jobRow (s : State) (d e op : Nat) (run : List Word → State → Nat × State) : State :=
  match (s.eng d e).job with
  | none => s
  | some j =>
    if !s.engUp d e then s
    else if !jobKnown e (jobOp j) then s.jobDone d e j Status.denied
    else if jobOp j ≠ op then s
    else
      let (st, s) := run j s
      s.jobDone d e j st

/-! Access by jobs -/

/-- The requests of a job. -/
def jobReq (d : Nat) (j : List Word) : Requester := .engine (Fin.ofNat 8 d) (Fin.ofNat 16 (jobCtx j))

/-- An engine reaches DDR and the scratchpads; anything else is refused. -/
def State.jobWordStatus (s : State) (d : Nat) (j : List Word) (a : Nat) : Nat :=
  match placeOf a with
  | .ddr => s.wordStatus (jobReq d j) a
  | .scratch _ _ _ => s.wordStatus (jobReq d j) a
  | _ => Status.denied

/-- The first status other than `OK` over the words of an extent. -/
def State.jobStatus (s : State) (d : Nat) (j : List Word) (a n : Nat) : Nat :=
  worst ((List.range ((a + n + 7) / 8 - a / 8)).map fun i => s.jobWordStatus d j ((a / 8 + i) * 8))

/-- Note a refused access of a job (R34). -/
def State.jobRefuse (s : State) (d : Nat) (j : List Word) (st a : Nat) : State :=
  if st = Status.denied then s.refused d (some (jobCtx j)) 0 a else s

/-- Read bytes for a job. -/
def State.jobRead (s : State) (d : Nat) (j : List Word) (a n : Nat) : Nat × List Byte × State :=
  let st := s.jobStatus d j a n
  if st = Status.ok then
    let (bs, s) := s.loadBytes a n
    (st, bs, s)
  else (st, [], s.jobRefuse d j st a)

/-- Write bytes for a job. -/
def State.jobWrite (s : State) (d : Nat) (j : List Word) (a : Nat) (bs : List Byte) : Nat × State :=
  let st := s.jobStatus d j a bs.length
  if st = Status.ok then (st, s.storeBytes a bs) else (st, s.jobRefuse d j st a)

/-- The parameter record lies in the die store of the engine's die. -/
def inDie (d a : Nat) : Bool :=
  match placeOf a with
  | .scratch die _ _ => die == d
  | _ => false

/-- Read the parameter record, then go on. -/
def State.withRecord (s : State) (d : Nat) (j : List Word) (n : Nat)
    (run : List Byte → State → Nat × State) : Nat × State :=
  if inDie d (jobParam j) then
    let (st, bs, s) := s.jobRead d j (jobParam j) n
    if st = Status.ok then run bs s else (st, s)
  else (Status.denied, s)

/-- A little-endian field of a record: bytes `n` from `o`. -/
def recNat (bs : List Byte) (o n : Nat) : Nat := leNat ((bs.drop o).take n)

/-! The random-number engine -/

/-- One round of the mixing function (R173). -/
def mixRound (x : List Nat × Nat × Nat) : List Nat × Nat × Nat :=
  let (w, k0, k1) := x
  let p := 0xD2E74A1B * w.getD 0 0
  let q := 0xA54FF53B * w.getD 2 0
  let rotl (v r : Nat) : Nat := (v * 2 ^ r + v * 2 ^ r / 2 ^ 32) % 2 ^ 32
  ([q / 2 ^ 32 ^^^ w.getD 1 0 ^^^ k0, rotl (p % 2 ^ 32) 11, p / 2 ^ 32 ^^^ w.getD 3 0 ^^^ k1, rotl (q % 2 ^ 32) 17],
   (k0 + 0xBB67AE85) % 2 ^ 32, (k1 + 0x3C6EF372) % 2 ^ 32)

/-- The four words of a block. -/
def mix (x0 x1 x2 x3 k0 k1 : Nat) : List Nat := (repeatN mixRound 12 ([x0, x1, x2, x3], k0, k1)).1

/-- The key of a context's seed and a class (R174). -/
def seedKey (seed cls : Nat) : Nat × Nat := (seed % 2 ^ 32, cls * 2 ^ 28 + seed / 2 ^ 32 % 2 ^ 28)

def State.seedOf (s : State) (d ctx : Nat) : Nat := s.get (Base.engine d 1) Reg.seed ctx

/-- A uniform of a word, exact in (0, 1) (R176). -/
def uniformFv (w : Nat) : Fv := .fin false (2 * (w / 256) + 1) (-25)

/-- Elements of a block, by job: words, uniforms, mask bits by threshold, or normals. -/
def rawElems (w : List Nat) : List Nat := w
def uniformElems (w : List Nat) : List Nat := w.map fun x => f32enc (uniformFv x)
def maskElems (t : Nat) (w : List Nat) : List Bool :=
  w.flatMap fun x => [decide (t ≤ x % 65536), decide (t ≤ x / 65536)]

/-- Two normals of two uniforms (Box–Muller), within 4 units in the last place. -/
def normalPair (w0 w1 : Nat) : List Nat :=
  let r := ((lnFv (uniformFv w0)).mul (Fv.ofInt (-2))).sqrt
  [within 4 (Config.approx 0x100 w0 w1) (r.mul (cosTurns (uniformFv w1))),
   within 4 (Config.approx 0x101 w0 w1) (r.mul (sinTurns (uniformFv w1)))]

def normalElems (w : List Nat) : List Nat :=
  normalPair (w.getD 0 0) (w.getD 1 0) ++ normalPair (w.getD 2 0) (w.getD 3 0)

/-- The blocks of a stream of `n` elements, `per` to a block (R176, R177). -/
def State.rngBlocks (s : State) (d ctx : Nat) (r : List Byte) (n per : Nat) : List (List Nat) :=
  let (k0, k1) := seedKey (s.seedOf d ctx) (recNat r 0 1 % 16)
  (List.range (ceilDiv n per)).map fun i =>
    mix ((recNat r 8 4 + i) % 2 ^ 32) (recNat r 4 4) (recNat r 24 4) (recNat r 28 4) k0 k1

/-- A job of the random-number engine: class 1 to 3, `per` elements a block, and the bytes of the blocks. -/
def State.rngJob (s : State) (d op per : Nat) (out : List Byte → List (List Nat) → Nat → List Byte) : State :=
  s.jobRow d 1 op fun j s =>
    s.withRecord d j 32 fun r s =>
      let cls := recNat r 0 1 % 16
      if cls = 0 ∨ 3 < cls then (Status.denied, s)
      else s.jobWrite d j (jobOut j) (out r (s.rngBlocks d (jobCtx j) r (jobCount j) per) (jobCount j))

/-- FP32 or 32-bit elements as bytes. -/
def wordsOut (n : Nat) (es : List Nat) : List Byte := (es.take n).flatMap (leBytes 4)

def execRaw (die : DieNo) (s : State) : Host.Outcome State Fault Refusal :=
  .next (s.rngJob die.val 0x01 4 fun _ bs n => wordsOut n (bs.flatMap rawElems))

def execUniform (die : DieNo) (s : State) : Host.Outcome State Fault Refusal :=
  .next (s.rngJob die.val 0x02 4 fun _ bs n => wordsOut n (bs.flatMap uniformElems))

/-- Bits as a plane, eight to a byte, zeros past the end (R154). -/
def planeOut (bs : List Bool) : List Byte :=
  (chunks 8 bs.length bs).map fun c => BitVec.ofNat 8 (maskOf ((List.range 8).filter fun i => c.getD i false))

def execMask (die : DieNo) (s : State) : Host.Outcome State Fault Refusal :=
  .next (s.rngJob die.val 0x03 8 fun r bs n => planeOut ((bs.flatMap (maskElems (recNat r 16 2))).take n))

def execNormal (die : DieNo) (s : State) : Host.Outcome State Fault Refusal :=
  .next (s.rngJob die.val 0x04 4 fun _ bs n => wordsOut n (bs.flatMap normalElems))

/-! The finishing engine -/

/-- The planes of a master element (R178): a magnitude of 0x7F7F_8000 or more is clamped first. -/
def splitBits (x : Nat) : Nat × Nat :=
  let x := if 0x7F7F8000 ≤ x % 2 ^ 31 then x / 2 ^ 31 * 2 ^ 31 + 0x7F7F7FFF else x
  let hi := (x + 0x8000) % 2 ^ 32 / 2 ^ 16
  (hi, (x + 2 ^ 32 - hi * 2 ^ 16) % 2 ^ 16)

/-- The element that two planes hold. -/
def joinBits (hi lo : Nat) : Nat := unsgn 32 ((hi * 2 ^ 16 : Nat) + sgn 16 lo)

/-- The fields of a finishing record (Table 05.9). -/
structure FinRec where
  lr : Nat
  wd : Nat
  b1 : Nat
  b2 : Nat
  eps : Nat
  bc1 : Nat
  bc2 : Nat
  clip : Nat
  invScale : Nat
  n2 : Nat
  live : Nat
  shadow : Nat
  acc : Nat
  addend : Nat
  first : Nat
  plane : Nat
deriving DecidableEq, Repr

def finRec (r : List Byte) : FinRec :=
  { lr := recNat r 0 4, wd := recNat r 4 4, b1 := recNat r 8 4, b2 := recNat r 12 4, eps := recNat r 16 4,
    bc1 := recNat r 20 4, bc2 := recNat r 24 4, clip := recNat r 28 4, invScale := recNat r 36 4,
    n2 := recNat r 40 6, live := recNat r 48 6, shadow := recNat r 56 6, acc := recNat r 64 6, addend := recNat r 72 6,
    first := recNat r 80 5, plane := recNat r 88 8 }

/-- The factor s of R180 for a finite N2 given as FP64: gn, clip and their product are formed in FP64. -/
def finScale (f : FinRec) (n2 : Nat) : Nat :=
  let d (x : Nat) : Fv := Fmt.fp64.dec x
  let e (v : Fv) : Nat := Fmt.fp64.enc false v
  let gn := e ((d (e (d n2).sqrt)).mul (f32 f.invScale))
  let c := f32 f.clip
  let within := !c.isNan && !(d gn).isNan && !c.lt (d gn)
  let clip := if c.isZero || within then Fv.ofInt 1 else d (e (c.div (d gn)))
  f32enc (d (e ((f32 f.invScale).mul clip)))

def one32 : Nat := 0x3F800000

/-- FP32 −1, 0 or 1 by sign. -/
def sign32 (x : Nat) : Nat :=
  if (f32 x).isNan || (f32 x).isZero then 0 else if (f32 x).lt Fv.zero then 0xBF800000 else one32

/-- New x, m and v of one element (R181); `SIGNMOM` and `SGD` leave v. -/
def finUpdate (op : Nat) (f : FinRec) (x m v g : Nat) : Nat × Nat × Nat :=
  let nb1 := f32sub one32 f.b1
  let nb2 := f32sub one32 f.b2
  let wd := f32enc ((Fv.ofInt 1).sub ((f32 f.lr).mul (f32 f.wd)))
  let nlr := f32enc (f32 f.lr).neg
  let step (d : Nat) : Nat := f32fma nlr d (f32mul x wd)
  if op = 0x01 then
    let m := f32fma nb1 g (f32mul f.b1 m)
    let v := f32fma nb2 (f32mul g g) (f32mul f.b2 v)
    (step (f32div (f32mul m f.bc1) (f32add (f32sqrt (f32mul v f.bc2)) f.eps)), m, v)
  else if op = 0x02 then
    let d := sign32 (f32fma nb1 g (f32mul f.b1 m))
    (step d, f32fma nb2 g (f32mul f.b2 m), v)
  else
    let m := f32fma f.b1 m g
    (step m, m, v)

/-- The addresses of element `i` in a region: hi, lo, m and v. -/
def planeAddrs (h s i : Nat) : List (Nat × Nat) :=
  [(h + 2 * i, 2), (h + s + 2 * i, 2), (h + 2 * s + 4 * i, 4), (h + 4 * s + 4 * i, 4)]

/-- Read the first `k` planes of an element. -/
def State.readPlanes (s : State) (d : Nat) (j : List Word) : List (Nat × Nat) → Nat × List Nat × State
  | [] => (Status.ok, [], s)
  | (a, n) :: rest =>
    let (st, bs, s) := s.jobRead d j a n
    if st ≠ Status.ok then (st, [], s)
    else
      let (st, vs, s) := s.readPlanes d j rest
      (st, leNat bs :: vs, s)

/-- Write planes of an element. -/
def State.writePlanes (s : State) (d : Nat) (j : List Word) : List ((Nat × Nat) × Nat) → Nat × State
  | [] => (Status.ok, s)
  | ((a, n), v) :: rest =>
    let (st, s) := s.jobWrite d j a (leBytes n v)
    if st ≠ Status.ok then (st, s) else s.writePlanes d j rest

/-- Update element `i`, or with `scale` absent copy its planes. -/
def State.finElem (s : State) (d op : Nat) (j : List Word) (f : FinRec) (scale : Option Nat) (i : Nat) : Nat × State :=
  let k := if op = 0x01 ∨ scale.isNone then 4 else 3
  let (st, vs, s) := s.readPlanes d j ((planeAddrs f.live f.plane i).take k)
  if st ≠ Status.ok then (st, s)
  else
    match scale with
    | none => s.writePlanes d j ((planeAddrs f.shadow f.plane i).zip vs)
    | some sc =>
      let (st, acc, s) := s.jobRead d j (f.acc + 4 * i) 4
      if st ≠ Status.ok then (st, s)
      else
        let (st, add, s) := if f.addend = 0 then (Status.ok, [], s) else s.jobRead d j (f.addend + 4 * (i - f.first)) 4
        if st ≠ Status.ok then (st, s)
        else
          let sum := if f.addend = 0 then leNat acc else f32add (leNat acc) (leNat add)
          let x := joinBits (vs.getD 0 0) (vs.getD 1 0)
          let (x', m', v') := finUpdate op f x (vs.getD 2 0) (vs.getD 3 0) (f32mul sum sc)
          let ok := (f32 x').isFinite && (f32 m').isFinite && (op != 0x01 || (f32 v').isFinite)
          let s := if ok then s else s.count (Base.engine d 2) Reg.finNonfinite
          let (hi, lo) := splitBits x'
          let new := if ok then [hi, lo, m', v'] else vs
          s.writePlanes d j (((planeAddrs f.shadow f.plane i).take k).zip new)

/-- Elements from `i` on, until a status other than `OK`. -/
def State.finElems (s : State) (d op : Nat) (j : List Word) (f : FinRec) (scale : Option Nat) : Nat → Nat → Nat × State
  | _, 0 => (Status.ok, s)
  | i, n + 1 =>
    let (st, s) := s.finElem d op j f scale i
    if st ≠ Status.ok then (st, s) else s.finElems d op j f scale (i + 1) n

/-- An update job (R179–R182). -/
def State.finJob (s : State) (d op : Nat) : State :=
  s.jobRow d 2 op fun j s =>
    s.withRecord d j 96 fun r s =>
      let f := finRec r
      if !inDie d f.n2 then (Status.denied, s)
      else
        let (st, n2, s) := s.jobRead d j f.n2 8
        if st ≠ Status.ok then (st, s)
        else if (Fmt.fp64.dec (leNat n2)).isFinite then
          s.finElems d op j f (some (finScale f (leNat n2))) f.first (jobCount j)
        else (s.count (Base.engine d 2) Reg.finSkipped).finElems d op j f none f.first (jobCount j)

def execAdamw (die : DieNo) (s : State) : Host.Outcome State Fault Refusal := .next (s.finJob die.val 0x01)
def execSignmom (die : DieNo) (s : State) : Host.Outcome State Fault Refusal := .next (s.finJob die.val 0x02)
def execSgd (die : DieNo) (s : State) : Host.Outcome State Fault Refusal := .next (s.finJob die.val 0x03)

/-- FP32 encodings of bytes. -/
def floatsOf (bs : List Byte) : List Nat := (chunks 4 bs.length bs).map leNat

/-- Add squares in order, with one RNE each (R183); where the die keeps its partial is noted for R329. -/
def ssq (acc : Nat) (xs : List Nat) : Nat :=
  xs.foldl (fun t x => f64add t (Fmt.fp64.enc false ((f32 x).mul (f32 x)))) acc

def State.ssqJob (s : State) (d : Nat) : State :=
  s.jobRow d 2 0x04 fun j s =>
    s.withRecord d j 8 fun r s =>
      let (st, bs, s) := s.jobRead d j (jobOut j) (4 * jobCount j)
      let x := s.learn (jobCtx j)
      if st ≠ Status.ok then (st, s)
      else (s.setLearn (jobCtx j) { x with partials := cset (fun _ => 0) x.partials d (jobParam j) }).jobWrite d j
        (jobParam j) (leBytes 8 (ssq (leNat r) (floatsOf bs)))

def execSsq (die : DieNo) (s : State) : Host.Outcome State Fault Refusal := .next (s.ssqJob die.val)

/-! The check engine -/

/-- ulp of R185. -/
def ulpOf (x : Nat) : Fv :=
  let e : Nat := x / 2 ^ 23 % 256
  if 0 < e ∧ e < 255 then .fin false 1 ((e : Int) - 150) else .fin false 1 (-149)

/-- A pair agrees (R185). -/
def pairAgrees (n a b : Nat) : Bool :=
  let x := f32 a
  let y := f32 b
  if x.isNan || y.isNan then false
  else if x.isFinite && y.isFinite then
    let top := if x.abs.lt y.abs then b else a
    !(((ulpOf top).mul (Fv.ofInt (4 * n : Nat))).lt (x.sub y).abs)
  else x == y

/-- Show a failing check in CHK_LAST; where no status is named for it, the status is a free one of the codes of Table 00.7
other than `OK` (R10, R11). -/
def State.checkFailed (s : State) (d : Nat) (st : Option Nat) (a : Nat) : State :=
  let b := Base.engine d 3
  match st with
  | some v => (s.put b Reg.chkStatus v).put b Reg.chkAddr a
  | none =>
    let (w, s) := s.draw
    (s.put b Reg.chkStatus (1 + w.toNat % 14)).put b Reg.chkAddr a

/-- `COMPARE`: the disagreeing pairs are counted, and any sets `CALIPERS` in every staged unit of the context. -/
def State.compareJob (s : State) (d : Nat) : State :=
  s.jobRow d 3 0x01 fun j s =>
    s.withRecord d j 16 fun r s =>
      let n := 4 * jobCount j
      let (st, as, s) := s.jobRead d j (jobOut j) n
      if st ≠ Status.ok then (st, s)
      else
        let (st, bs, s) := s.jobRead d j (recNat r 0 6) n
        if st ≠ Status.ok then (st, s)
        else
          let members := recNat r 8 2 % 4096
          let bad := (List.zipWith (pairAgrees members) (floatsOf as) (floatsOf bs)).map (!·)
          let k := (bad.filter id).length
          if k = 0 then (Status.ok, s)
          else
            let first := (bad.findIdx? id).getD 0
            let s := (s.count (Base.engine d 3) Reg.chkDisagree k).reportCtx d (jobCtx j) Reason.calipers 0x0F 0
              (jobOut j + 4 * first)
            (Status.ok, s.checkFailed d none (jobOut j + 4 * first))

def execCompare (die : DieNo) (s : State) : Host.Outcome State Fault Refusal := .next (s.compareJob die.val)

/-- The digests of segments from an address on: the last one has `last` bytes. -/
def State.shaSegments (s : State) (d : Nat) (j : List Word) (last : Nat) :
    Nat → Nat → Nat × List (List Byte) × State
  | _, 0 => (Status.ok, [], s)
  | a, n + 1 =>
    let x := s.jobRead d j a (if n = 0 then last else 2 ^ 20)
    if x.1 ≠ Status.ok then (x.1, [], x.2.2)
    else
      let rest := x.2.2.shaSegments d j last (a + 2 ^ 20) n
      (rest.1, sha256 x.2.1 :: rest.2.1, rest.2.2)

/-- The digests `ds` compared with those given, `es`: the mismatching segments are counted and the first one is shown (R186). -/
def State.shaCompare (s : State) (d a : Nat) (ds es : List (List Byte)) : Nat × State :=
  let bad := List.zipWith (fun a b => a != b) ds es
  match bad.findIdx? id with
  | none => (Status.ok, s)
  | some i =>
    let x := s.eng d 3
    let s := s.setEng d 3 { x with mismatches := x.mismatches + (bad.filter id).length }
    (Status.sigBad, s.checkFailed d (some Status.sigBad) (a + i * 2 ^ 20))

/-- `SHA256`: record word 0 gives the last segment's length, 0 for a whole one, word 1 the list of expected digests, 0 for
none, and word 2 the segments' address, whose place in the record the manual does not give. Mismatches are counted, in State:
no register holds the count (log 187). -/
def State.shaJob (s : State) (d : Nat) : State :=
  s.jobRow d 3 0x02 fun j s =>
    s.withRecord d j 24 fun r s =>
      let last := let l := recNat r 0 3 % 2 ^ 21; if l = 0 ∨ 2 ^ 20 < l then 2 ^ 20 else l
      let (st, ds, s) := s.shaSegments d j last (recNat r 16 6) (jobCount j)
      if st ≠ Status.ok then (st, s)
      else
        let (st, s) := s.jobWrite d j (jobOut j) ds.flatten
        if st ≠ Status.ok ∨ recNat r 8 6 = 0 then (st, s)
        else
          let (st, es, s) := s.jobRead d j (recNat r 8 6) (32 * ds.length)
          if st ≠ Status.ok then (st, s)
          else s.shaCompare d (recNat r 16 6) ds (chunks 32 es.length es)

def execSha256 (die : DieNo) (s : State) : Host.Outcome State Fault Refusal := .next (s.shaJob die.val)

/-- How a word fails the check against its address and the epoch expected: uncorrectable, or with another tag. -/
def State.verifyFails (s : State) (e a : Nat) : Option (Option Nat) :=
  let w := s.mem.load (s.key a) a
  if w.ecc = .bad then some none
  else if placeOf a = .ddr ∧ w.tag.toNat ≠ e then some (some Status.stale)
  else none

/-- Check one word; nothing is written back (R187). -/
def State.verifyWord (s : State) (d e a : Nat) : State :=
  let w := s.mem.load (s.key a) a
  let s := s.ddrTraffic a false 8
  match w.ecc with
  | .bad =>
    match placeOf a with
    | .scratch die core _ => s.scratchBad die core a
    | _ => s.ddrBad (s.chanOf a) a
  | _ =>
    let s := if w.ecc = .fixed then s.count (Base.engine d 3) Reg.chkCorrected else s
    if placeOf a = .ddr ∧ w.tag.toNat ≠ e then (s.count (Base.ddr (s.chanOf a)) Reg.ddrStale).ddrErr a Status.stale
    else s

def State.verifyWords (s : State) (d e : Nat) : Nat → Nat → State
  | _, 0 => s
  | a, n + 1 => (s.verifyWord d e a).verifyWords d e (a + 8) n

def State.checkJob (s : State) (d : Nat) : State :=
  s.jobRow d 3 0x03 fun j s =>
    s.withRecord d j 8 fun r s =>
      let st := s.jobStatus d j (jobOut j) (jobCount j)
      if st ≠ Status.ok then (st, s.jobRefuse d j st (jobOut j))
      else
        let a := jobOut j / 8 * 8
        let n := (jobOut j + jobCount j + 7) / 8 - jobOut j / 8
        let e := recNat r 0 1
        let first := (List.range n).find? fun i => (s.verifyFails e (a + 8 * i)).isSome
        let s' := s.verifyWords d e a n
        match first.bind fun i => (s.verifyFails e (a + 8 * i)).map fun st => (i, st) with
        | some (i, st) => (Status.ok, s'.checkFailed d st (a + 8 * i))
        | none => (Status.ok, s')

def execCheckVerify (die : DieNo) (s : State) : Host.Outcome State Fault Refusal := .next (s.checkJob die.val)

end Sys2Proof.Machine
end

