-- ==== Sys2Proof/Machine/Links.lean ====
section
/-! DEFINITION. Peer links: lanes, flits, replay, credits, chunks on their way, and fault injection (R267–R281, R286,
R298, R299). -/

namespace Sys2Proof.Machine

/-! Width and retraining (R268–R271) -/

/-- The lane groups in the order in which they are taken. -/
def laneGroups : List (Nat × List Nat) :=
  [(8, [0, 1, 2, 3, 4, 5, 6, 7]), (4, [0, 1, 2, 3]), (4, [4, 5, 6, 7]), (2, [0, 1]), (2, [2, 3]), (2, [4, 5]), (2, [6, 7])]

/-- The width of the first group whose lanes are all good; 0 where none is. -/
def linkWidthOf (ok : Nat) : Nat :=
  match laneGroups.find? fun g => g.2.all ok.testBit with
  | some g => g.1
  | none => 0

/-- A link stops and retrains, or is fenced where it cannot keep two lanes. -/
def State.linkRetrain (s : State) (l : Nat) : State :=
  let b := Base.peerLink l
  if linkWidthOf (s.get b Reg.laneOk) = 0 then s.fenceLink l
  else
    (((s.put b Reg.linkState 3).put b Reg.linkWidth 0).count b Reg.plRetrains).log (0x10 + l / 12) 0 none 0x0C (l % 12) 0

/-- A bulk lane of a link in service fails. -/
def State.laneFail (s : State) (l lane : Nat) : State :=
  let b := Base.peerLink l
  if (s.get b Reg.linkState = 2 ∨ s.get b Reg.linkState = 3) ∧ (s.get b Reg.laneOk).testBit lane = true then
    (s.clearBit b Reg.laneOk lane).linkRetrain l
  else s

/-- A lane to which more corrected symbols are attributed in a frame than the limit allows has failed (R270). -/
def State.laneLimit (s : State) (unit : Nat) (f : Finding) : State :=
  match f with
  | .fec link lane _ _ =>
    let l := 12 * (unit - 0x10) + link.val
    if 8 ≤ unit ∧ s.get (Base.peerLink l) Reg.laneSerLimit * 1024 < (s.link l).laneErr.getD lane.val 0
    then s.laneFail l lane.val
    else s
  | _ => s

/-- A detector's report reaches the seal logic. One from a unit already fenced is ignored (Table 13.5). -/
def execFaultReport (unit : UnitNo) (finding : Finding) (s : State) : Host.Outcome State Fault Refusal :=
  .next (if s.awake && !s.isFenced (unitOf unit) 0xFF then
    ((s.finding (unitOf unit) finding).fetchBad (unitOf unit) finding).laneLimit (unitOf unit) finding
  else s)

def execLaneFail (link : LinkNo) (lane : Fin 8) (s : State) : Host.Outcome State Fault Refusal :=
  .next (s.laneFail link.val lane.val)

/-- A retraining ends: locked again within 100 µs, the link replays what no `ACK` covers; otherwise it is fenced. -/
def State.retrainEnd (s : State) (l : Nat) (locked : Bool) : State :=
  let b := Base.peerLink l
  if s.get b Reg.linkState = 3 then
    if locked then
      let k := s.link l
      ((s.put b Reg.linkState 2).put b Reg.linkWidth (linkWidthOf (s.get b Reg.laneOk))).setLink l
        { k with resend := k.replay, held := none }
    else s.fenceLink l
  else s

def execLinkRetrainEnd (link : LinkNo) (locked : Bool) (s : State) : Host.Outcome State Fault Refusal :=
  .next (s.retrainEnd link.val locked)

/-- Links in service or retraining that lead to a device. -/
def State.linksTo (s : State) (dev : Nat) : List Nat :=
  (List.range 24).filter fun l =>
    (s.get (Base.peerLink l) Reg.linkState == 2 || s.get (Base.peerLink l) Reg.linkState == 3) && s.peer l == dev

/-- Where no link to a neighbour keeps its armature lane, every link to it is fenced (R271). -/
def State.neighbourCheck (s : State) (dev : Nat) : State :=
  let ls := s.linksTo dev
  if ls.any s.armUp then s else ls.foldl (fun s k => s.fenceLink k) s

/-- An armature lane fails: its link leaves the armature graph, and where none to that neighbour keeps its lane, every
link to it is fenced (R271). -/
def State.armLaneFail (s : State) (l : Nat) : State :=
  if s.armUp l then
    let s := s.put (Base.peerLink l) Reg.armOk 0
    (s.setMaster (s.get Base.device Reg.masterNum)).neighbourCheck (s.peer l)
  else s

def execArmatureLaneFail (link : LinkNo) (s : State) : Host.Outcome State Fault Refusal :=
  .next (s.armLaneFail link.val)

/-! Flits (R272, R273) -/

/-- The flit's bytes, `FCRC` as given. -/
def flitWords (f : Flit) (fcrc : Nat) : List Word :=
  [f.h0, f.h1, f.h2, word (bits f.h3 63 32 * 2 ^ 32 + fcrc)] ++ f.payload ++ List.replicate (1024 - f.payload.length) 0

def flitCrc (f : Flit) : Nat := (crc32c (bytesOf (flitWords f 0))).toNat

/-- The flit with its `FCRC` formed. -/
def flitFormed (f : Flit) : Flit := { f with h3 := word (bits f.h3 63 32 * 2 ^ 32 + flitCrc f) }

/-- Flip one bit of a flit. -/
def flitFlip (f : Flit) (n : Nat) : Flit :=
  let ws := flitWords f (bits f.h3 31 0)
  let ws := setAt ws (n / 64) (ws.getD (n / 64) 0 ^^^ (1#64 <<< (n % 64)))
  { h0 := ws.getD 0 0, h1 := ws.getD 1 0, h2 := ws.getD 2 0, h3 := ws.getD 3 0, payload := ws.drop 4 }

/-- The bare header word 0 of a flit: what it acknowledges and returns. -/
def ackWord (k : Link) (seq ftype : Nat) (crd : List Nat) (cack : Nat) : Word :=
  word (seq * 2 ^ 52 + (k.expect + 4095) % 4096 * 2 ^ 40 + b2n k.nakSend * 2 ^ 39 + ftype * 2 ^ 37 + crd.getD 0 0 * 2 ^ 30
    + crd.getD 1 0 * 2 ^ 23 + crd.getD 2 0 * 2 ^ 16 + cack * 2 ^ 9)

/-- A replayed flit: `ACK` and `NAK` are those of now. -/
def flitRenew (f : Flit) (k : Link) : Flit :=
  flitFormed { f with h0 := word (bits f.h0 63 52 * 2 ^ 52 + (k.expect + 4095) % 4096 * 2 ^ 40 + b2n k.nakSend * 2 ^ 39
    + bits f.h0 38 0) }

/-! Chunks -/

/-- The words of a chunk's flit `i`. -/
def Chunk.flitWords (c : Chunk) (i : Nat) : List Word := (c.words.drop (1024 * i)).take 1024

/-- The next flit's words are there. -/
def Chunk.avail (c : Chunk) : Bool := decide (min c.clen (1024 * (c.sent + 1)) ≤ c.words.length) &&
  (c.whole || decide (1024 * (c.sent + 1) < c.clen))

/-- Header words 1 to 3 of a chunk's flit `i`. -/
def Chunk.h1 (c : Chunk) (i : Nat) (last : Bool) : Word :=
  word (c.src * 2 ^ 52 + c.dst * 2 ^ 40 + b2n c.coll * 2 ^ 39 + c.stream * 2 ^ 32 + c.cseq * 2 ^ 16 + i * 2 ^ 13
    + b2n last * 2 ^ 12 + c.vc * 2 ^ 10 + b2n (c.poison.contains i) * 2 ^ 9 + b2n c.retx * 2 ^ 8
    + b2n (last && c.badfwd) * 2 ^ 7)
def Chunk.h2 (c : Chunk) : Word :=
  word ((c.clen - 1) * 2 ^ 51 + c.phase * 2 ^ 48 + c.piece * 2 ^ 36 + c.cid * 2 ^ 30 + c.ctx * 2 ^ 26)

/-- The chunk's CRC over its words (R273). -/
def chunkCrc (ws : List Word) : W32 := crc32c (bytesOf ws)

/-- Two chunks are the same one. -/
def Chunk.same (a b : Chunk) : Bool :=
  a.src == b.src && a.dst == b.dst && a.coll == b.coll && a.stream == b.stream && a.cseq == b.cseq &&
    a.phase == b.phase && a.piece == b.piece && a.cid == b.cid && a.ctx == b.ctx

/-- A chunk as header words 1 and 2 describe it. -/
def Chunk.ofHeader (w1 w2 : Word) : Chunk :=
  { src := bits w1 63 52, dst := bits w1 51 40, coll := bit w1 39, stream := bits w1 38 32, cseq := bits w1 31 16,
    clen := bits w2 63 51 + 1, phase := bits w2 50 48, piece := bits w2 47 36, cid := bits w2 35 30, ctx := bits w2 29 26,
    vc := bits w1 11 10, retx := bit w1 8, again := false, badfwd := false, words := [], poison := [], ccrc := 0, req := 0, sent := 0,
    whole := false }

/-- Queue a chunk on a link. -/
def State.chunkQueue (s : State) (l : Nat) (c : Chunk) : State :=
  let k := s.link l
  s.setLink l { k with queues := setAt k.queues c.vc (k.queues.getD c.vc [] ++ [c]) }

/-! Sending (R274–R276, R298) -/

/-- A context's share of a virtual channel, and its class (R414). -/
def State.vcShare (s : State) (l v ctx : Nat) : Nat :=
  s.effGet (Base.hubBind (l / 12)) (if v = 0 then Reg.pbVc0 else if v = 1 then Reg.pbVc1 else Reg.pbVc2) ctx
def State.vcClass (s : State) (l ctx : Nat) : Nat := s.effGet (Base.hubBind (l / 12)) Reg.pbQos ctx

/-- The chunk of a virtual channel that sends next, by its place in the queue, and the link with its orders moved on: the
chunk in progress, then a retransmission, then by share and requester. A new chunk needs room in retention. -/
def State.vcPick (s : State) (l v : Nat) : Option (Nat × Link) :=
  let k := s.link l
  let q := k.queues.getD v []
  match q with
  | [] => none
  | c :: _ =>
    if c.sent ≠ 0 then (if c.avail then some (0, k) else none)
    else if 32 ≤ k.retention.length then none
    else
      match q.findIdx? (·.again) with
      | some i => some (i, k)
      | none =>
        let ready := q.filter Chunk.avail
        match sharePick (k.grants.getD v []) (k.ctxTurn.getD v 0) (s.vcShare l v) (s.vcClass l)
            (ready.map (·.ctx)).eraseDups with
        | none => none
        | some (ctx, t, g) =>
          match r16 (k.reqTurn.getD v 0) 65 ((ready.filter (·.ctx == ctx)).map (·.req)).eraseDups with
          | none => none
          | some (r, rt) =>
            (q.findIdx? fun c => c.avail && c.ctx == ctx && c.req == r).map fun i =>
              (i, { k with grants := setAt k.grants v g, ctxTurn := setAt k.ctxTurn v t, reqTurn := setAt k.reqTurn v rt })

/-- Count valid payload bytes of a link. -/
def State.plTraffic (s : State) (l : Nat) (tx : Bool) (bytes : Nat) : State :=
  let k := s.link l
  let n := (if tx then k.txBytes else k.rxBytes) + bytes
  let s := s.setLink l (if tx then { k with txBytes := n % 2 ^ 20 } else { k with rxBytes := n % 2 ^ 20 })
  if n / 2 ^ 20 = 0 then s else s.count (Base.peerLink l) (if tx then Reg.plTxMib else Reg.plRxMib) (n / 2 ^ 20)

/-- What a header returns: credits up to the field's width, and the chunks checked while no NAK record waits. -/
def Link.returns (k : Link) : List Nat × Nat :=
  (k.owed.map (min 127), if k.control.isEmpty then min 127 k.cackOwed else 0)

def Link.returned (k : Link) : Link :=
  let (crd, cack) := k.returns
  { k with owed := List.zipWith (· - ·) k.owed crd, cackOwed := k.cackOwed - cack, nakSend := false }

/-- The idle flit of now. -/
def Link.idleFlit (k : Link) : Flit :=
  let (crd, cack) := k.returns
  flitFormed { h0 := ackWord k 0 0 crd cack, h1 := 0, h2 := 0, h3 := 0, payload := [] }

/-- One generator's step: its new value and whether it chooses. -/
def genStep (k : Link) (i lg : Nat) : W32 × Bool :=
  let x := xorshift (k.gens.getD i 1)
  (x, injChosen x lg)

/-- Put a sequenced flit on the lanes for the first time, with the faults that injection chooses for it; `retx` marks a
retransmitted chunk's, which only `PAYLOAD` with `RETX_TOO` takes. -/
def State.firstSend (s : State) (l : Nat) (f : Flit) (retx : Bool) : State :=
  let k := s.link l
  let w := k.inForce
  let on := bit w 63 && !bit w 62
  let (g0, drop) := genStep k 0 (bits w 60 56)
  let (g1, corrupt) := genStep k 1 (bits w 55 51)
  let (g2, reorder) := genStep k 2 (bits w 50 46)
  let (g3, pay) := genStep k 3 (bits w 45 41)
  let plain := on && !retx
  let payOn := on && (!retx || bit w 61)
  let drop := plain && drop
  let corrupt := plain && corrupt && !drop
  let reorder := plain && reorder && !drop && k.held.isNone
  let pay := payOn && pay
  let f := flitFormed (if pay then flitFlip f (256 + g3.toNat / 2 ^ 15 % 65536) else f)
  let gens := if plain then [g0, g1, g2, g3] else if payOn then setAt k.gens 3 g3 else k.gens
  let out := if corrupt then flitFlip f (g1.toNat / 2 ^ 15 % 65792) else f
  let k := { k with fseq := (k.fseq + 1) % 4096, replay := k.replay ++ [f], gens := gens }
  let k :=
    if drop then { k with tx := none }
    else if reorder then { k with tx := none, held := some out }
    else
      match k.held with
      | some h => { k with tx := some out, held := none, resend := h :: k.resend }
      | none => { k with tx := some out }
  let s := s.setLink l k
  let b := Base.linkFault (l / 12)
  let i := l % 12
  let s := if drop then s.count b Reg.fiDropped 1 i else s
  let s := if corrupt then s.count b Reg.fiCorrupted 1 i else s
  let s := if reorder then s.count b Reg.fiReordered 1 i else s
  if pay then s.count b Reg.fiPayloads 1 i else s

/-- Send a control flit with up to 512 NAK records. It counts no chunk: a record goes before the `CACK` of its chunk. -/
def State.sendControl (s : State) (l : Nat) : State :=
  let k := s.link l
  let now := k.control.take 512
  let (crd, cack) := k.returns
  let f : Flit := { h0 := ackWord k k.fseq 2 crd cack, h1 := 0, h2 := 0, h3 := 0,
                    payload := now.flatMap fun r => [r.1, r.2] }
  (s.setLink l { k.returned with control := k.control.drop 512 }).firstSend l f false

/-- Send the next flit of the chunk that a virtual channel picked. -/
def State.sendData (s : State) (l v i : Nat) (k : Link) : State :=
  let q := k.queues.getD v []
  match q[i]? with
  | none => s
  | some c =>
    let n := c.sent
    let last := decide (c.clen ≤ 1024 * (n + 1))
    let rest := q.eraseIdx i
    let k :=
      if last then { k with queues := setAt k.queues v rest, retention := k.retention ++ [c] }
      else { k with queues := setAt k.queues v ({ c with sent := n + 1 } :: rest) }
    let k := { k with credits := setAt k.credits v (k.credits.getD v 0 - 1) }
    let (crd, cack) := k.returns
    let f : Flit := { h0 := ackWord k k.fseq 1 crd cack, h1 := c.h1 n last, h2 := c.h2,
                      h3 := if last then word (c.ccrc.toNat * 2 ^ 32) else 0, payload := c.flitWords n }
    let s := if c.again && n == 0 then s.count (Base.peerLink l) Reg.retx else s
    let s := s.grant c.ctx (linkUnit l)
    ((s.setLink l k.returned).firstSend l f c.retx).plTraffic l true (8 * (c.flitWords n).length)

/-- The virtual channels that can send: with a credit and a chunk. -/
def State.vcReady (s : State) (l : Nat) : List Nat :=
  [0, 1, 2].filter fun v => decide (0 < (s.link l).credits.getD v 0) && (s.vcPick l v).isSome

/-! The armature lane's frames (R278, R279) -/

/-- An armature frame (Table 08.4). -/
def armBytes (aseq aack : Nat) (nak idle : Bool) (ws : List Word) : List Byte :=
  let msg := if idle then List.replicate 64 0 else (bytesOf ws).take 64
  let body : List Byte := [BitVec.ofNat 8 aseq, BitVec.ofNat 8 aack, BitVec.ofNat 8 (b2n nak + 2 * b2n idle), 0] ++ msg
  let code (j : Nat) : List Byte := (List.range 17).map fun i => body.getD (j + 4 * i) 0
  [0x3C, 0x5A] ++ body ++ (List.range 4).flatMap fun j => (List.range 3).map fun i => Config.rsParity i (code j)

/-- Flip one bit of a frame. -/
def armFlip (bs : List Byte) (n : Nat) : List Byte := setAt bs (n / 8) (bs.getD (n / 8) 0 ^^^ (1#8 <<< (n % 8)))

/-- Put a frame on the lane; the owed `NAK` goes with it. -/
def State.armPut (s : State) (l aseq : Nat) (idle : Bool) (ws : List Word) (flip : Option Nat) : State :=
  let k := s.link l
  let f := armBytes aseq ((k.aexpect + 255) % 256) k.anakSend idle ws
  let f := match flip with
    | some n => armFlip f n
    | none => f
  s.setLink l { k with asent := k.asent ++ [f], anakSend := false }

/-- A message frame goes out for the first time: it takes the next `ASEQ` and is kept for replay. Injection with `TARGET` set
may drop it or flip one of its bits (R298). -/
def State.armFirst (s : State) (l : Nat) (ws : List Word) : State :=
  let k := s.link l
  let on := bit k.inForce 63 && bit k.inForce 62
  let g0 := xorshift (k.gens.getD 0 1)
  let g1 := xorshift (k.gens.getD 1 1)
  let drop := on && injChosen g0 (bits k.inForce 60 56)
  let flip := on && !drop && injChosen g1 (bits k.inForce 55 51)
  let s := s.setLink l { k with
    aseq := (k.aseq + 1) % 256, areplay := k.areplay ++ [(k.aseq, ws)],
    gens := if on then setAt (setAt k.gens 0 g0) 1 g1 else k.gens }
  if drop then s.count (Base.linkFault (l / 12)) Reg.fiDropped 1 (l % 12)
  else
    let s := s.armPut l k.aseq false ws (if flip then some (g1.toNat / 2 ^ 15 % 656) else none)
    if flip then s.count (Base.linkFault (l / 12)) Reg.fiCorrupted 1 (l % 12) else s

/-- The lane carries what waits: frames to be sent again, then messages in the order of their classes while fewer than 32 are
unacknowledged, and an idle frame where there is neither. How many frames pass while a flit does is DESIGN CHOICE (log 192). -/
def State.armSend (s : State) (l : Nat) : State :=
  let k := s.link l
  let now := k.awaiting.take (32 - k.areplay.length)
  let s := s.setLink l { k with asent := [], aresend := [], awaiting := k.awaiting.drop now.length }
  let s := k.aresend.foldl (fun s p => s.armPut l p.1 false p.2 none) s
  let s := now.foldl (fun s ws => s.armFirst l ws) s
  if k.aresend.isEmpty && now.isEmpty then s.armPut l 0 true [] none else s

/-- A link sends one flit: a replay, a control flit, a data flit or an idle one (R274, R276). -/
def State.flitSend (s : State) (l : Nat) : State :=
  let s := if s.armUp l then s.armSend l else s
  if s.get (Base.peerLink l) Reg.linkState ≠ 2 then s
  else
    let k := s.link l
    match k.resend with
    | f :: rest => s.setLink l { k with tx := some (flitRenew f k), resend := rest, nakSend := false }
    | [] =>
      let idle := s.setLink l { k.returned with tx := some k.idleFlit }
      if 32 ≤ k.replay.length then idle
      else if !k.control.isEmpty then s.sendControl l
      else
        match r16 k.vcTurn 3 (s.vcReady l) with
        | none => idle
        | some (v, t) =>
          match s.vcPick l v with
          | none => idle
          | some (i, k) => s.sendData l v i { k with vcTurn := t }

def execFlitSend (link : LinkNo) (s : State) : Host.Outcome State Fault Refusal := .next (s.flitSend link.val)

/-! Replay -/

/-- Replay from `ACK` + 1; eight replays without progress retrain the link, and a second such event in a frame fences
it (R274). -/
def State.replayStart (s : State) (l : Nat) : State :=
  let k := s.link l
  if k.replay.isEmpty then s
  else
    let b := Base.peerLink l
    let s := s.count b Reg.plReplays
    if k.noProgress + 1 < 8 then s.setLink l { k with resend := k.replay, noProgress := k.noProgress + 1 }
    else
      let s := s.setLink l { k with resend := k.replay, noProgress := 0, stalls := k.stalls + 1 }
      if 1 ≤ k.stalls then s.fenceLink l else s.linkRetrain l

/-- `ACK` has not advanced for 4 µs. -/
def execReplayTimeout (link : LinkNo) (s : State) : Host.Outcome State Fault Refusal :=
  .next (if s.get (Base.peerLink link.val) Reg.linkState = 2 then s.replayStart link.val else s)

/-! Chunk NAK (R286) -/

/-- A chunk NAK record: the chunk is sent once more, at the next chunk boundary of its channel. -/
def State.nakRecord (s : State) (l : Nat) (w1 w2 : Word) : State :=
  let k := s.link l
  match k.retention.find? fun c => c.same (Chunk.ofHeader w1 w2) && !c.again with
  | none => s
  | some c =>
    if (k.queues.getD c.vc []).any fun d => d.again && d.same c then s
    else s.chunkQueue l { c with retx := true, again := true, sent := 0 }

def execChunkNak (link : LinkNo) (w1 w2 : Word) (s : State) : Host.Outcome State Fault Refusal :=
  .next (if s.get (Base.peerLink link.val) Reg.linkState = 2 then s.nakRecord link.val w1 w2 else s)

/-! Routes (R281) -/

/-- A device's entry of the route table, laid out as ROUTE_DATA. -/
def State.route (s : State) (p dev : Nat) : Word := cget (fun _ => 0) s.routes (4096 * p + dev)
def State.setRoute (s : State) (p dev : Nat) (w : Word) : State :=
  { s with routes := cset (fun _ => 0) s.routes (4096 * p + dev) w }

/-- The plinth die whose tables serve: both hold the same contents. -/
def State.tablePd (s : State) : Nat := if s.isFenced 0x10 0xFF then 1 else 0

/-- The link that a transfer chunk takes to a device. -/
def State.routeLink (s : State) (dev cseq stream : Nat) : Option Nat :=
  let e := s.route s.tablePd dev
  let ls := if bit e 63 then (setBits 24 (bits e 23 0)).filter s.linkUp else []
  if ls.isEmpty then none else ls[(cseq + stream) % ls.length]?

/-- A table command: the register write carries the status (R527). -/
def State.routeWrite (s : State) (p dev : Nat) : State :=
  (s.setRoute p dev (word (s.get (Base.collective p) Reg.routeValid * 2 ^ 63
    + s.get (Base.collective p) Reg.routeMask))).reply Status.ok
def State.routeRead (s : State) (p dev : Nat) : State :=
  let e := s.route p dev
  ((s.put (Base.collective p) Reg.routeValid (bits e 63 63)).put (Base.collective p) Reg.routeMask (bits e 23 0)).reply
    Status.ok

def execRouteWrite (pd : Pd) (device : BitVec 12) (s : State) : Host.Outcome State Fault Refusal :=
  .next (if s.pdUp pd.val then s.routeWrite pd.val device.toNat else s)
def execRouteRead (pd : Pd) (device : BitVec 12) (s : State) : Host.Outcome State Fault Refusal :=
  .next (if s.pdUp pd.val then s.routeRead pd.val device.toNat else s)

/-! Forwarding, cut-through (R280, R281, R286) -/

/-- The requester number of a chunk at a link's port: the ingress link on the same plinth die, or the bridge module that
stands for the other die (R43). -/
def portReq (l out : Nat) : Nat := if l / 12 = out / 12 then 40 + l % 12 else 32 + l % 8

/-- The virtual channel of a chunk forwarded onto a link (R275). -/
def State.forwardVc (s : State) (out vc : Nat) : Nat :=
  if s.get (Base.peerLink out) Reg.dateline = 1 then 2 else vc

/-- Where a chunk on its way out stands: link, channel and place. -/
def State.findOut (s : State) (c : Chunk) : Option (Nat × Nat × Nat) :=
  (List.range 24).findSome? fun l => [1, 2].findSome? fun v =>
    ((s.link l).queues.getD v []).findIdx? (fun d => d.same c && !d.whole && d.retx == c.retx) |>.map fun i => (l, v, i)

/-- A flit of a chunk for another device goes on as soon as it has been checked: `c` is the chunk as far as it has come, its
last flit marking it whole. A chunk that has failed goes on with `BADFWD` and its `CCRC` complemented; one with no link
in service is gone. -/
def State.forwardFlit (s : State) (l : Nat) (c : Chunk) : State :=
  let bad := c.whole && chunkCrc c.words != c.ccrc
  let fix (d : Chunk) : Chunk :=
    { d with words := c.words, poison := c.poison, whole := c.whole, badfwd := c.badfwd || bad,
             ccrc := if bad && !c.badfwd then ~~~ c.ccrc else c.ccrc }
  if c.words.length ≤ 1024 then
    match s.routeLink c.dst c.cseq c.stream with
    | none => s.addReason [c.ctx] Reason.gone
    | some out => s.chunkQueue out (fix { c with vc := s.forwardVc out c.vc, req := portReq l out, sent := 0 })
  else
    match s.findOut c with
    | none => s
    | some (out, v, i) =>
      let k := s.link out
      let q := k.queues.getD v []
      match q[i]? with
      | none => s
      | some d => s.setLink out { k with queues := setAt k.queues v (setAt q i (fix d)) }

/-! Receiving -/

/-- A data flit joins its chunk; the last one makes it whole, to be checked. -/
def State.takeData (s : State) (l : Nat) (f : Flit) : State :=
  let k := s.link l
  let h := Chunk.ofHeader f.h1 f.h2
  let i := bits f.h1 15 13
  let last := bit f.h1 12
  let n := min 1024 (h.clen - 1024 * i)
  let ws := (f.payload ++ List.replicate (1024 - f.payload.length) 0).take n
  let old := k.rx.find? fun c => c.vc == h.vc
  let base := if i = 0 then some h else old.filter fun c => c.same h && c.words.length == 1024 * i
  let rest := k.rx.filter fun c => c.vc != h.vc
  let k := { k with owed := setAt k.owed h.vc (k.owed.getD h.vc 0 + 1) }
  match base with
  | none => s.setLink l k
  | some c =>
    let c := { c with
      words := c.words ++ ws, poison := if bit f.h1 9 then c.poison ++ [i] else c.poison, whole := last,
      badfwd := last && bit f.h1 7, ccrc := if last then BitVec.ofNat 32 (bits f.h3 63 32) else 0 }
    let k := if last then { k with rx := rest, ready := k.ready ++ [c] } else { k with rx := rest ++ [c] }
    let s := (s.setLink l k).plTraffic l false (8 * n)
    if !c.coll && c.dst != s.myNum && decide (c.phase ≤ 4) then s.forwardFlit l c else s

/-- What a header tells: acknowledged flits leave the replay buffer, credits come back, chunks checked leave retention, and
a NAK starts a replay. -/
def State.takeHeader (s : State) (l : Nat) (f : Flit) : State :=
  let k := s.link l
  let ack := bits f.h0 51 40
  let n := (ack + 4096 - k.acked) % 4096
  let gone := if n ≤ k.replay.length then n else 0
  let k := { k with
    acked := if gone = 0 then k.acked else ack, replay := k.replay.drop gone,
    resend := k.resend.filter fun r => !((k.replay.take gone).any fun q => bits q.h0 63 52 == bits r.h0 63 52),
    noProgress := if gone = 0 then k.noProgress else 0,
    credits := List.zipWith (· + ·) k.credits [bits f.h0 36 30, bits f.h0 29 23, bits f.h0 22 16],
    retention := k.retention.drop (bits f.h0 15 9) }
  let s := s.setLink l k
  if bit f.h0 39 then s.replayStart l else s

/-- A flit that is not accepted: discarded, and `NAK` is set once in the next flit sent. -/
def State.flitDiscard (s : State) (l : Nat) : State :=
  let k := s.link l
  (s.setLink l { k with nakSend := k.nakSend || !k.nakOpen, nakOpen := true }).count (Base.peerLink l) Reg.flitBad

/-- The flit is good: the FEC decodes it, its CRC is good, and its type and channel are not reserved. -/
def flitGood (f : Flit) (fecOk : Bool) : Bool :=
  fecOk && bits f.h3 31 0 == flitCrc f && bits f.h0 38 37 != 3 && !(bits f.h0 38 37 == 1 && bits f.h1 11 10 == 3)

/-- NAK records of a control flit. -/
def nakPairs : List Word → List (Word × Word)
  | a :: b :: rest => (a, b) :: nakPairs rest
  | _ => []

/-- A flit arrives on a link in service. -/
def State.flitReceive (s : State) (l : Nat) (f : Flit) (fecOk : Bool) : State :=
  if s.get (Base.peerLink l) Reg.linkState ≠ 2 then s
  else if !flitGood f fecOk then s.flitDiscard l
  else if bits f.h0 38 37 = 0 then s.takeHeader l f
  else
    let k := s.link l
    if bits f.h0 63 52 ≠ k.expect then s.flitDiscard l
    else
      let s := s.setLink l { k with expect := (k.expect + 1) % 4096, nakOpen := false }
      if bits f.h0 38 37 = 1 then (s.takeHeader l f).takeData l f
      else
        let rs := (nakPairs f.payload).filter fun r => !(r.1 == 0 && r.2 == 0)
        (rs.foldl (fun s r => s.nakRecord l r.1 r.2) s).takeHeader l f

def execFlitReceive (link : LinkNo) (flit : Flit) (fecOk : Bool) (s : State) : Host.Outcome State Fault Refusal :=
  .next (s.flitReceive link.val flit fecOk)

/-! Fault injection (R298, R301) -/

/-- The fields of FI_CFG. -/
def fiMask : Word := 0xFFFFFE00FFFFFFFF

/-- A write of FI_CFG: the host's only where the image permits injection; a reserved value is refused. -/
def State.fiWrite (s : State) (l : Nat) (v : Word) (host : Bool) : State :=
  if (host && s.get Base.device Reg.fiAllow != 1) || (bit v 62 && (bits v 50 46 != 0 || bits v 45 41 != 0))
  then s.reply Status.denied
  else (s.setReg (Base.linkFault (l / 12) + l % 12 * 0x10) (v &&& fiMask)).reply Status.ok

def execFiCfgWrite (link : LinkNo) (value : Word) (host : Bool) (s : State) : Host.Outcome State Fault Refusal :=
  .next (if s.pdUp (link.val / 12) then s.fiWrite link.val value host else s)

/-- The frame boundary puts FI_CFG in force: a change starts its generators anew. -/
def State.fiApply (s : State) : State :=
  (List.range 24).foldl (fun s l =>
    let w := s.reg (Base.linkFault (l / 12) + l % 12 * 0x10)
    let k := s.link l
    if w = k.inForce then s
    else
      let seed (i : Nat) : W32 := let x := BitVec.ofNat 32 (bits w 31 0 ^^^ i); if x = 0 then 1 else x
      (s.setLink l { k with inForce := w, gens := [seed 0, seed 1, seed 2, seed 3] }).put (Base.peerLink l) Reg.injecting
        (bits w 63 63)) s

end Sys2Proof.Machine
end

