-- ==== Sys2Proof/Machine/Gather.lean ====
section
/-! DEFINITION. The shards of a learning layout and the gathers of a step (R303, R310–R313). -/

namespace Sys2Proof.Machine

/-! Shards (R303) -/

/-- Member `f`'s run of `t` things among `n` members: its first, and how many. -/
def shardRun (n t f : Nat) : Nat × Nat :=
  let q := t / max 1 n
  let r := t % max 1 n
  (f * q + min f r, q + if f < r then 1 else 0)

/-- Tiles of a matrix. -/
def matrixTiles (m : Matrix) : Nat := m.tilesK * m.tilesN

/-- The tile of a matrix at a place of the tile order: its k and its n. -/
def tileAt (m : Matrix) (i : Nat) : Nat × Nat := (i % max 1 m.tilesK, i / max 1 m.tilesK)

/-- A member's runs of each matrix's tiles, and of each vector's runs of 32 elements. -/
def memberTiles (p : Program) (n f : Nat) : List (Nat × Nat) := p.matrices.map fun m => shardRun n (matrixTiles m) f
def memberRuns (p : Program) (n f : Nat) : List (Nat × Nat) := p.vectors.map fun v => shardRun n (ceilDiv v 32) f

/-- Bytes of a BF16 engine tile. -/
def tileBytes : Nat := 2048

/-! Pieces (R310, R311) -/

/-- Tiles that each of `n` members gives to a piece gathered on `rings` rings: as many as keep the piece within 288 MiB,
and, where there is room for it, an even number of chunks on each ring. -/
def pieceShare (n rings : Nat) : Nat :=
  let most := 288 * 2 ^ 20 / tileBytes / max 1 n
  let even := 2 * 65536 / tileBytes * max 1 rings
  if even ≤ most then most / even * even else max 1 most

/-- Pieces of a matrix: the largest member's run is cut into this many. -/
def pieceCount (m : Matrix) (n rings : Nat) : Nat := ceilDiv (shardRun n (matrixTiles m) 0).2 (pieceShare n rings)

/-- What member `f` gives to piece `k`: the first tile in the matrix's tile order, and tiles. -/
def pieceRun (m : Matrix) (n rings f k : Nat) : Nat × Nat :=
  let (t, c) := shardRun n (matrixTiles m) f
  let p := pieceShare n rings
  (t + k * p, min p (c - k * p))

/-- Byte offset in a member's hi plane of the tiles that it gives: its runs of the matrices before stand ahead of them. -/
def pieceOffset (p : Program) (n rings f i k : Nat) : Nat :=
  (((memberTiles p n f).take i).foldl (fun a r => a + r.2) 0 + k * pieceShare n rings) * tileBytes

/-- `PIECE_BYTES` of a piece on each ring: the largest member's run. -/
def pieceBytesOf (m : Matrix) (n rings k : Nat) : Nat :=
  ceilDiv (pieceRun m n rings 0 k).2 (max 1 rings) * tileBytes

/-- Slots that the gather of a piece of `bytes` a ring is given (R294), in hundredths of a nanosecond: rings of `n`, links of
`width` lanes, a cable flight of `c` ns and a stroke of `stroke` ns. -/
def gatherLat (n width c stroke bytes : Nat) : Nat :=
  let tc := ceilDiv 262144 (max 1 width)
  let h := ceilDiv 32768 (max 1 width) + 20000 + 100 * c
  let q := ceilDiv (ceilDiv bytes 65536) 2 * tc
  ceilDiv (100 * ((n - 1) * max q h + h + (n + 1) * tc)) (97 * 100 * max 1 stroke)

/-! The plan of a step's gathers (R312, R313) -/

/-- A piece to use, with the slots of its products and of its gather. -/
structure Use where
  group : Nat
  back : Bool
  matrix : Nat
  layer : Nat
  piece : Nat
  slots : Nat
  lat : Nat

/-- The pieces of one pass over the matrices, each gathered anew. -/
def passUses (p : Program) (n rings g : Nat) (back : Bool) (lat : Nat → Nat) : List Use :=
  let l := p.matrices.zipIdx.flatMap fun (m, i) => (List.range (pieceCount m n rings)).map fun k =>
    { group := g, back := back, matrix := i, layer := m.layer, piece := k, slots := if back then m.backward else m.forward,
      lat := lat (pieceBytesOf m n rings k) }
  if back then l.reverse else l

/-- Slots from the step's first one: a piece's gather is posted when its buffer is left, its products begin when it is there
and those of the piece before are done, and the cores idle for the difference. `was` and `now`: when the products of the
piece before began and end. -/
def gatherPlan : Nat → Nat → Nat → List Use → List Gather
  | _, _, _, [] => []
  | i, was, now, u :: l =>
    let first := max now (was + u.lat + 1)
    { group := u.group, back := u.back, matrix := u.matrix, layer := u.layer, piece := u.piece, buffer := i % 2, post := was,
      first := first, stop := first + u.slots, idle := first - now } :: gatherPlan (i + 1) (if i = 0 then 0 else first) (first + u.slots) l

/-- The gathers of a step of `groups` groups. -/
def stepGathers (p : Program) (n rings groups : Nat) (lat : Nat → Nat) : List Gather :=
  gatherPlan 0 0 0 ((List.range groups).flatMap fun g => passUses p n rings g false lat ++ passUses p n rings g true lat)

/-- A collective of the step's gathers is posted: once every ring has its own, the piece is on its way into its buffer, and
the piece that was there is dropped (R311, R313). -/
def LearnRun.gathered (r : LearnRun) (rings : Nat) : LearnRun :=
  match r.gathers[r.sent]? with
  | none => r
  | some g =>
    if r.onRings + 1 < rings then { r with onRings := r.onRings + 1 }
    else { r with sent := r.sent + 1, onRings := 0, buffers := setAt r.buffers g.buffer (some g) }

/-- What ran in a slot of a whole-pass step, counted from its first: the layer of the piece then in use, or, past the last
products, the reduction (R322). -/
def layerAt (l : List Gather) (slot : Nat) : Option Nat := (l.find? fun g => decide (slot < g.stop)).map (·.layer)

/-! Even shares (R325, R326, R331) -/

/-- Layers of each stage of a model that is only run forward, and units of each holder. -/
def evenShare (u v : Nat) : List Nat := (List.range v).map fun i => u / v + if i < u % v then 1 else 0

/-- Each holder's run of elements, in runs of 16,384, of a shard of so many. -/
def dieShares (elements dies : Nat) : List (Nat × Nat) :=
  let runs := evenShare (ceilDiv elements 16384) dies
  (List.range dies).map fun i =>
    let first := (runs.take i).foldl (· + ·) 0 * 16384
    (first, min (runs.getD i 0 * 16384) (elements - first))

/-- Elements of a member's shard. -/
def shardElements (tiles runs : List (Nat × Nat)) : Nat :=
  tiles.foldl (fun n r => n + 1024 * r.2) 0 + runs.foldl (fun n r => n + 32 * r.2) 0

/-- Cores of a member that no expert reaches in the expert layers, of `experts` over `members` (R326). -/
def idleCores (experts members f cores : Nat) : Nat :=
  if experts = 0 then 0 else cores - (evenShare experts members).getD f 0

/-! The pipeline of stages (R327) -/

/-- A stage: groups waiting to go forward and to go backward, groups that it has gone forward with and holds, and its job:
whether it is backward, and the slots left of it. -/
structure Stage where
  ahead : Nat
  back : Nat
  held : Nat
  job : Option (Bool × Nat)

/-- The jobs of a slot begin: forward work where the next queue has room, else backward work that is ready. Stage i holds at
most S − i groups in flight (R324). -/
def stageBegin (q : Nat) (forward backward : List Nat) (l : List Stage) : List Stage :=
  l.mapIdx fun i x =>
    let credit := ((l[i + 1]?).map fun y => decide (y.ahead < q)).getD true
    let room := i == 0 || decide (((l[i - 1]?).map (·.back)).getD 0 < q)
    if x.job.isSome then x
    else if 0 < x.ahead ∧ x.held < l.length - i ∧ credit = true then
      { x with ahead := x.ahead - 1, job := some (false, max 1 (forward.getD i 1)) }
    else if 0 < x.back ∧ room = true then { x with back := x.back - 1, job := some (true, max 1 (backward.getD i 1)) }
    else x

/-- The slot passes: a job that ends gives its group to the next stage's queue, the last stage's to its own backward
work. -/
def stageEnd (l : List Stage) : List Stage :=
  let fin (i : Nat) (b : Bool) : Bool := (l[i]?.bind (·.job)) == some (b, 1)
  l.mapIdx fun i x =>
    let last := i + 1 == l.length
    let x := { x with
      ahead := x.ahead + b2n (decide (0 < i) && fin (i - 1) false),
      back := x.back + b2n (fin (i + 1) true) + b2n (last && fin i false),
      held := x.held + b2n (fin i false) - b2n (fin i true) }
    { x with job := x.job.bind fun j => if j.2 ≤ 1 then none else some (j.1, j.2 - 1) }

/-- What stage `me` does in each slot, until no stage has work. -/
def pipeRun (q me : Nat) (forward backward : List Nat) : Nat → List Stage → List Nat
  | 0, _ => []
  | fuel + 1, l =>
    let l := stageBegin q forward backward l
    if l.all (·.job.isNone) then []
    else
      (match (l[me]?).bind (·.job) with
        | some (b, _) => if b then 2 else 1
        | none => 0) :: pipeRun q me forward backward fuel (stageEnd l)

/-- The pipeline's plan for `groups` groups over the stages whose measured slots are given. -/
def pipePlan (q me groups : Nat) (forward backward : List Nat) : List Nat :=
  let n := forward.length
  if n ≤ 1 then []
  else
    pipeRun q me forward backward ((groups + 1) * ((forward ++ backward).foldl (fun t x => t + max 1 x) 1))
      ((List.range n).map fun i => { ahead := if i = 0 then groups else 0, back := 0, held := 0, job := none })

end Sys2Proof.Machine
end

