-- ==== Sys2Proof/Machine/Rings.lean ====
section
/-! DEFINITION. Bulk transfers and ring collectives: `LINK`, receive windows, chunks where they are used, deadlines and
the calipers (R280–R297, R300). -/

namespace Sys2Proof.Machine

/-- Show the windows open and the collectives in flight on both plinth dies. -/
def State.linkShow (s : State) : State :=
  (List.range 2).foldl (fun s p => (s.put (Base.collective p) Reg.winInFlight s.bulk.length).put (Base.collective p)
    Reg.winWindows s.windows.length) s

/-- A status other than `OK` that a link's unit met: its reason, in every staged unit of the context (Table 04.14). -/
def State.unitReason (s : State) (d ctx st a : Nat) : State :=
  if st = Status.ok then s
  else if st = Status.gone ∨ st = Status.quarantined then s.addReason [ctx] Reason.gone
  else if st = Status.tierFail then s.addReason [ctx] Reason.tierFail
  else if st = Status.denied then (s.refused d (some ctx) 0 a).addReason [ctx] Reason.overrun
  else s

/-- Read whole words for a core's link command: status, words with whether each was uncorrectable. -/
def State.unitRead (s : State) (d c ctx a n : Nat) : Nat × List (Word × Bool) × State :=
  let (ws, s) := s.readWords (coreReq d c ctx) none a n
  let st := worst (ws.map (·.1))
  (st, ws.filterMap (fun p => p.2.map fun w => (w.d, decide (w.ecc = .bad))), s.unitReason d ctx st a)

/-- Read bytes, each with whether its word was uncorrectable. -/
def State.unitBytes (s : State) (d c ctx a n : Nat) : Nat × List (Byte × Bool) × State :=
  let a0 := a / 8 * 8
  let (st, ws, s) := s.unitRead d c ctx a0 ((a + n + 7) / 8 - a / 8)
  (st, (((ws.flatMap fun w => (leBytes 8 w.1.toNat).map fun b => (b, w.2)).drop (a - a0)).take n), s)

/-- Write bytes; a whole word is formed afresh, a part is merged, and a word with a byte that came from an uncorrectable
word is stored poisoned. -/
def State.unitWrite (s : State) (d c ctx : Nat) : Nat → Nat → List (Byte × Bool) → State
  | 0, _, _ => s
  | _, _, [] => s
  | fuel + 1, a, bs =>
    let i := a % 8
    let now := bs.take (8 - i)
    let bad := now.any (·.2)
    let who := coreReq d c ctx
    let st := s.wordStatus who (a - i)
    let s :=
      if st ≠ Status.ok then s.unitReason d ctx st (a - i)
      else if now.length = 8 then
        let v := word (leNat (now.map (·.1)))
        (s.writeWord who (a - i) { d := v, c := if bad then poisonCheck v else secded v }).2
      else
        let o := s.load (a - i) true
        (o.2.writeWord who (a - i) (mergeWord o.1 i (now.map (·.1)) bad)).2
    s.unitWrite d c ctx fuel (a + now.length) (bs.drop (8 - i))

/-- The flits of a chunk that hold a word that was uncorrectable (R277). -/
def poisonFlits (bad : List Bool) : List Nat :=
  (List.range 8).filter fun i => ((bad.drop (1024 * i)).take 1024).any id

/-! `LINK` (R283) -/

def lkSub (w : List Word) : Nat := bits (w.getD 0 0) 39 37
def lkStream (w : List Word) : Nat := bits (w.getD 0 0) 36 30
def lkPeer (w : List Word) : Nat := bits (w.getD 0 0) 29 18
def lkEc (w : List Word) : Nat := bits (w.getD 0 0) 17 14
def lkNch (w : List Word) : Nat := bits (w.getD 0 0) 13 0
def lkTail (w : List Word) : Nat := bits (w.getD 1 0) 18 6

/-- The effective address, which names all of device physical space (R283). -/
def State.lkAddr (s : State) (d c : Nat) (w : List Word) : Nat :=
  bits (w.getD 1 0) 60 19 * 64 + s.param d c (bits (w.getD 1 0) 63 61)

/-- The address stands in DDR or in a scratchpad. -/
def inMemory (a : Nat) : Bool :=
  match placeOf a with
  | .ddr => true
  | .scratch _ _ _ => true
  | _ => false

/-- What makes a `LINK` malformed. -/
def State.lkCauses (s : State) (d c : Nat) (w : List Word) : List Nat :=
  let sub := lkSub w
  let a := s.lkAddr d c w
  (if 2 < sub ∨ (sub < 2 ∧ (lkNch w = 0 ∨ lkPeer w = s.myNum)) ∨
      (sub = 2 ∧ (lkStream w ≠ 0 ∨ lkPeer w ≠ 0 ∨ lkNch w ≠ 0 ∨ lkTail w ≠ 0)) then [0x2] else []) ++
  (if a % 64 = 0 ∧ (if sub = 2 then inDie d a else inMemory a) = true then [] else [0x3])

/-- Run a `LINK` of a sort. One whose sort is another's, and not reserved, is that other's row. -/
def State.lkCmd (s : State) (d c sub : Nat) (run : BlockRun → List Word → State → State) : State :=
  s.seqCmd d c 0x0E (fun _ w => s.lkCauses d c w) fun b w =>
    if lkSub w = sub then run b w (s.issue d c b (w.getD 0 0) 0 1) else s

/-- Chunk `i` of a `SEND`, read from its source. -/
def State.sendChunk (s : State) (d c : Nat) (b : BlockRun) (w : List Word) (i : Nat) : State :=
  let n := if i + 1 < lkNch w then 8192 else lkTail w + 1
  let a := s.lkAddr d c w + 65536 * i
  let (st, ws, s) := s.unitRead d c b.ctx a n
  let s := if ws.any (·.2) then s.workReason b.ctx b.kind b.seq Reason.check else s
  if st ≠ Status.ok then s
  else
    match s.routeLink (lkPeer w) i (lkStream w) with
    | none => s.workReason b.ctx b.kind b.seq Reason.gone
    | some l =>
      s.chunkQueue l
        { src := s.myNum, dst := lkPeer w, coll := false, stream := lkStream w, cseq := i, clen := n, phase := 0,
          piece := 0, cid := 0, ctx := b.ctx, vc := 1, retx := false, again := false, badfwd := false, words := ws.map (·.1),
          poison := poisonFlits (ws.map (·.2)), ccrc := chunkCrc (ws.map (·.1)), req := 4 * d + a / 256 % 4, sent := 0,
          whole := true }

/-- A link command that fails as a descriptor error: `DENIED`, with its event and `OVERRUN` in the unit (R290, R295). -/
def State.lkDenied (s : State) (d c : Nat) (b : BlockRun) (ec : Nat) : State :=
  (s.evcAdd d c ec 1).workReason b.ctx b.kind b.seq Reason.overrun

/-- A context without a share of the links' transfer channel (R409). -/
def State.noLinks (s : State) (ctx : Nat) : Bool := s.effGet (Base.hubBind s.tablePd) Reg.pbVc1 ctx == 0

/-- `SEND` reads every chunk and queues it on the link its route names; its counter counts once all are read (R284). -/
def State.linkSend (s : State) (d c : Nat) : State :=
  s.lkCmd d c 0 fun b w s =>
    if s.noLinks b.ctx then s.lkDenied d c b (lkEc w)
    else ((List.range (lkNch w)).foldl (fun s i => s.sendChunk d c b w i) s).evcAdd d c (lkEc w) 1

def execSend (die : DieNo) (core : CoreNo) (s : State) : Host.Outcome State Fault Refusal :=
  .next (s.linkSend die.val core.val)

/-- `RECV` opens a window, of which a device holds 256. -/
def State.linkRecv (s : State) (d c : Nat) : State :=
  s.lkCmd d c 1 fun b w s =>
    if 256 ≤ s.windows.length then s.lkDenied d c b (lkEc w)
    else
      let x : Window :=
        { src := lkPeer w, stream := lkStream w, ctx := b.ctx, base := s.lkAddr d c w, cap := lkNch w,
          core := coreKey d c, ec := lkEc w, slot := s.sched, landed := [] }
      ({ s with windows := s.windows ++ [x] }).linkShow

def execRecv (die : DieNo) (core : CoreNo) (s : State) : Host.Outcome State Fault Refusal :=
  .next (s.linkRecv die.val core.val)

/-- The words of a chunk as they are stored: those of a flit with `POISON` are poisoned (R277). -/
def Chunk.stored (c : Chunk) : List (Byte × Bool) :=
  (c.words.mapIdx fun i w => (leBytes 8 w.toNat).map fun b => (b, c.poison.contains (i / 1024))).flatten

/-- A clean transfer chunk lands in its window, or is discarded and counted (R282). -/
def State.land (s : State) (l : Nat) (c : Chunk) : State :=
  let fits (w : Window) : Bool := w.src == c.src && w.stream == c.stream && w.ctx == c.ctx && decide (c.cseq < w.cap) &&
    !w.landed.contains c.cseq
  match s.windows.findIdx? fits with
  | none => s.count (Base.peerLink l) Reg.unmatched
  | some i =>
    match s.windows[i]? with
    | none => s
    | some w =>
      let d := w.core / 48
      let k := w.core % 48
      let s := s.unitWrite d k w.ctx (8 * c.clen + 1) (w.base + 65536 * c.cseq) c.stored
      let w := { w with landed := c.cseq :: w.landed }
      let s := { s with windows := setAt s.windows i w }
      if w.landed.length = w.cap then s.evcAdd d k w.ec 1 else s

/-! Ring collectives (R289–R296) -/

def State.ringN (s : State) (r : Nat) : Nat := s.get (Base.collective s.tablePd) Reg.ringSize r + 1
def State.ringAt (s : State) (r : Nat) : Nat := s.get (Base.collective s.tablePd) Reg.ringPos r
def State.ringOk (s : State) (r : Nat) : Bool := s.get (Base.collective s.tablePd) Reg.ringValid r == 1
/-- The link of a direction: 0 forward, 1 reverse. -/
def State.ringLink (s : State) (r dir : Nat) : Nat :=
  s.get (Base.collective s.tablePd) (if dir = 0 then Reg.ringNext else Reg.ringPrev) r

/-- Bytes of an element on the wire, and of a format. -/
def Bulk.wire (b : Bulk) : Nat := if b.cop = 3 then 2 else if b.cop = 1 then 8 else 4
def Bulk.size (b : Bulk) (fmt : Nat) : Nat := if b.cop = 1 then 8 else elemBits fmt / 8
/-- Elements of a piece, which `PIECE_BYTES` measures on the wire, and the chunks it is cut into (R291). -/
def Bulk.elems (b : Bulk) : Nat := b.pieceBytes / b.wire
def Bulk.chunkCount (b : Bulk) : Nat := ceilDiv b.pieceBytes 65536
/-- Bytes of a piece at the source and at the destination. -/
def Bulk.srcPiece (b : Bulk) : Nat := b.elems * b.size b.lfmt
def Bulk.dstPiece (b : Bulk) : Nat := b.elems * b.size b.dfmt

/-- The direction of chunk `x`. -/
def Bulk.dirOf (b : Bulk) (x : Nat) : Nat :=
  if b.dirs = 1 then 0 else if b.dirs = 2 then 1 else if x < ceilDiv b.chunkCount 2 then 0 else 1

/-- The calipers apply (R296). -/
def Bulk.calipers (b : Bulk) : Bool := b.cal && (b.kind == 1 || b.kind == 3) && (b.cop == 2 || b.cop == 3)
def Bulk.sampled (b : Bulk) (p x : Nat) : Bool := b.calipers && (p * b.chunkCount + x) % 64 == b.sample

/-- What one chunk on the wire carries: its number, its first element and elements within the piece, and whether it is a
sampled chunk. A sampled chunk of BF16 goes in FP32 as two chunks, the second numbered with bit 15 set. -/
structure Sub where
  cseq : Nat
  off : Nat
  n : Nat
  sampled : Bool
deriving DecidableEq, Repr

def Bulk.subsOf (b : Bulk) (p x : Nat) : List Sub :=
  let per := 65536 / b.wire
  let off := x * per
  let n := min per (b.elems - off)
  if b.sampled p x && b.cop == 3 then
    { cseq := x, off := off, n := min n 16384, sampled := true } ::
      (if 16384 < n then [{ cseq := x + 32768, off := off + 16384, n := n - 16384, sampled := true }] else [])
  else [{ cseq := x, off := off, n := n, sampled := b.sampled p x }]

def Bulk.subs (b : Bulk) (p : Nat) : List Sub := (List.range b.chunkCount).flatMap (b.subsOf p)

/-- The chunk number of which a chunk on the wire is a part. -/
def Sub.x (b : Bulk) (u : Sub) : Nat := if b.cop = 3 && u.sampled then u.cseq % 32768 else u.cseq

/-- A local element as an FP32 or INT32 encoding, and back in a format of the descriptor. -/
def widen (fmt x : Nat) : Nat := if fmt = Code.bf16 then x * 2 ^ 16 else x
def narrow (fmt x : Nat) : Nat := if fmt = Code.bf16 then Fmt.bf16.enc false (f32 x) else x

/-- Add, or take the greater of, an incoming and a local value (R292). -/
def ringOp (cop a b : Nat) : Nat :=
  if cop = 4 then f32max a b else if cop = 5 then (a + b) % 2 ^ 32 else f32add a b

/-- Values packed for the wire: FP32 for a sampled chunk, else the wire format. -/
def Bulk.wireFmt (b : Bulk) (wide : Bool) : Nat := if b.cop = 3 && !wide then Code.bf16 else Code.fp32

/-- Values with their marks as bytes of a format, every byte of an element marked as its element. -/
def packVals (fmt : Nat) (vs : List (Nat × Bool)) : List (Byte × Bool) :=
  vs.flatMap fun v => (leBytes (elemBits fmt / 8) (narrow fmt v.1)).map fun b => (b, v.2)

/-- Marked bytes as elements of `n` bytes. -/
def unpackVals (n : Nat) (bs : List (Byte × Bool)) : List (Nat × Bool) :=
  (chunks n bs.length bs).map fun c => (leNat (c.map (·.1)), c.any (·.2))

/-- This member's contribution to part of a piece. -/
def State.ringOwn (s : State) (b : Bulk) (p : Nat) (u : Sub) : List (Nat × Bool) × State :=
  let z := b.size b.lfmt
  let (_, bs, s) := s.unitBytes (b.core / 48) (b.core % 48) b.ctx (b.src + p * b.srcPiece + u.off * z) (u.n * z)
  ((unpackVals z bs).map fun v => (widen b.lfmt v.1, v.2), s)

/-- Send a chunk of a collective to the next member of a direction. -/
def State.ringSend (s : State) (b : Bulk) (dir phase piece cseq src : Nat) (bs : List (Byte × Bool)) (badfwd : Bool) :
    State :=
  let l := s.ringLink b.ring dir
  let words := (chunks 8 bs.length bs).map fun c => (word (leNat (c.map (·.1))), c.any (·.2))
  if words.isEmpty then s
  else
    let crc := chunkCrc (words.map (·.1))
    s.chunkQueue l
      { src := src, dst := s.peer l, coll := true, stream := 2 * b.ring + dir, cseq := cseq, clen := words.length,
        phase := phase, piece := piece, cid := b.cid, ctx := b.ctx, vc := 0, retx := false, again := false, badfwd := badfwd,
        words := words.map (·.1), poison := poisonFlits (words.map (·.2)), ccrc := if badfwd then ~~~ crc else crc,
        req := b.cid, sent := 0, whole := true }

/-- The member before position `p` in a direction, at which that direction's path to `p` starts. -/
def ringStart (n p dir : Nat) : Nat := if dir = 0 then (p + 1) % n else (p + n - 1) % n
/-- The member after `q` in a direction. -/
def ringNextPos (n q dir : Nat) : Nat := if dir = 0 then (q + 1) % n else (q + n - 1) % n

def State.bulkOf (s : State) (cid : Nat) : Option Bulk := s.bulk.find? fun b => b.cid == cid
def State.setBulk (s : State) (b : Bulk) : State :=
  { s with bulk := s.bulk.map fun x => if x.cid == b.cid then b else x }

/-- Chunks whose results this member writes, once they are all known. -/
def Bulk.expected (b : Bulk) : Option Nat :=
  match b.kind with
  | 1 => some (b.subs b.pos).length
  | 3 => some ((List.range b.n).foldl (fun k p => k + (b.subs p).length) 0)
  | 2 => some (b.n * b.chunkCount)
  | _ => if b.need.length = b.n then some (b.need.foldl (fun k p => k + p.2) 0) else none

/-- Every sampled chunk of this member's piece is compared. -/
def Bulk.allCompared (b : Bulk) : Bool :=
  (b.kind == 2 || b.kind == 4) || ((b.subs b.pos).filter (·.sampled)).length == b.compared.length

/-- The plinth die whose registers count a collective: its forward link's. -/
def State.ringPd (s : State) (b : Bulk) : Nat := s.ringLink b.ring 0 / 12

/-- Give the poster its event once the results are written, and let the collective go when nothing is left to come. -/
def State.bulkSettle (s : State) (cid : Nat) : State :=
  match s.bulkOf cid with
  | none => s
  | some b =>
    let full := b.expected == some b.done.length
    let s := if full && !b.told then
        ((s.evcAdd (b.core / 48) (b.core % 48) b.ec 1).count (Base.collective (s.ringPd b)) Reg.collDone).setBulk
          { b with told := true }
      else s
    if full && b.allCompared then ({ s with bulk := s.bulk.filter (·.cid != cid) }).linkShow else s

/-- Note a written chunk. -/
def State.bulkDone (s : State) (cid piece cseq : Nat) : State :=
  match s.bulkOf cid with
  | none => s
  | some b => s.setBulk { b with done := (piece, cseq) :: b.done }

/-- Write bytes of a collective. -/
def State.bulkWrite (s : State) (b : Bulk) (a : Nat) (bs : List (Byte × Bool)) : State :=
  s.unitWrite (b.core / 48) (b.core % 48) b.ctx (bs.length + 1) a bs

/-- Compare a sampled chunk's two results once both are there (R296, R297). -/
def State.ringCompare (s : State) (b : Bulk) (u : Sub) (vs : List Nat) : State :=
  match b.paths.find? fun p => p.1 == b.pos && p.2.1 == u.cseq with
  | none => s.setBulk { b with paths := (b.pos, u.cseq, vs) :: b.paths }
  | some (_, _, ws) =>
    let k := Base.collective (s.ringPd b)
    let s := s.setBulk { b with paths := b.paths.filter (fun p => p.2.1 != u.cseq),
                                compared := (b.pos, u.cseq) :: b.compared }
    let s := s.count k Reg.calSampled
    if (List.zipWith (pairAgrees b.n) vs ws).all id then s
    else
      let unit := 0x10 + s.ringPd b
      (s.count k Reg.calDisagree).reportCtx unit b.ctx Reason.calipers 0x0F 0 b.dst

/-- The result of a chunk of this member's own piece: written, or added to the destination, and in an all-reduce sent on
round the ring, every member then holding what the wire carries (R291, R292). -/
def State.ringResult (s : State) (b : Bulk) (u : Sub) (vs : List (Nat × Bool)) : State :=
  let z := b.size b.dfmt
  let s := if u.sampled then s.ringCompare b u (vs.map (·.1)) else s
  let a := b.dst + (if b.kind = 3 then b.pos * b.dstPiece else 0) + u.off * z
  if b.kind = 3 then
    let out := packVals (b.wireFmt false) vs
    let back := (unpackVals b.wire out).map fun v => (widen (b.wireFmt false) v.1, v.2)
    let s := s.bulkWrite b a (packVals b.dfmt back)
    let s := s.bulkDone b.cid b.pos u.cseq
    s.ringSend b (b.dirOf (u.x b)) 2 b.pos u.cseq s.myNum out false
  else if b.accum then
    let (_, old, s) := s.unitBytes (b.core / 48) (b.core % 48) b.ctx a (4 * u.n)
    let sum := List.zipWith (fun o v => (f32add o.1 v.1, o.2 || v.2)) (unpackVals 4 old) vs
    (s.bulkWrite b a (packVals Code.fp32 sum)).bulkDone b.cid b.pos u.cseq
  else (s.bulkWrite b a (packVals b.dfmt vs)).bulkDone b.cid b.pos u.cseq

/-- Send the chunks that start at this member. -/
def State.ringBegin (s : State) (b : Bulk) : State :=
  match b.kind with
  | 2 =>
    (b.subs b.pos).foldl (fun s u =>
      let (_, bs, s) := s.unitBytes (b.core / 48) (b.core % 48) b.ctx (b.src + 8 * u.off) (8 * u.n)
      let s := (s.bulkWrite b (b.dst + b.pos * b.pieceBytes + 8 * u.off) bs).bulkDone b.cid b.pos u.cseq
      s.ringSend b (b.dirOf u.cseq) 2 b.pos u.cseq s.myNum bs false) s
  | 4 =>
    (List.range b.n).foldl (fun (s : State) j =>
      let a := b.src + j * b.pieceBytes
      if j = b.pos then
        let (_, bs, s) := s.unitBytes (b.core / 48) (b.core % 48) b.ctx a b.pieceBytes
        let s := s.bulkWrite b (b.dst + j * b.pieceBytes) bs
        match s.bulkOf b.cid with
        | some b => s.setBulk { b with need := (j, 0) :: b.need }
        | none => s
      else
        let (_, ws, s) := s.unitRead (b.core / 48) (b.core % 48) b.ctx a 1
        let len := 8 + (((ws.map Prod.fst).headD 0).toNat + 7) / 8 * 8
        let ahead := (j + b.n - b.pos) % b.n
        let dir := if b.dirs = 1 ∨ (b.dirs = 3 ∧ ahead ≤ b.n / 2) then 0 else 1
        (List.range (ceilDiv len 65536)).foldl (fun s x =>
          let (_, bs, s) := s.unitBytes (b.core / 48) (b.core % 48) b.ctx (a + 65536 * x) (min 65536 (len - 65536 * x))
          s.ringSend b dir 4 j x s.myNum bs false) s) s
  | _ =>
    ((List.range b.n).filter (· != b.pos)).foldl (fun s p =>
      (b.subs p).foldl (fun s u =>
        let dir := b.dirOf (u.x b)
        let s :=
          if ringStart b.n p dir = b.pos then
            let (vs, s) := s.ringOwn b p u
            s.ringSend b dir 1 p u.cseq s.myNum (packVals (b.wireFmt u.sampled) vs) false
          else s
        if u.sampled && ringStart b.n p (1 - dir) == b.pos then
          let (vs, s) := s.ringOwn b p u
          s.ringSend b (1 - dir) 3 p u.cseq s.myNum (packVals Code.fp32 vs) false
        else s) s) s

/-- A descriptor that is in error (R290, R293, R295). -/
def State.bulkBad (s : State) (b : Bulk) : Bool :=
  let float (f : Nat) : Bool := f == Code.bf16 || f == Code.fp32
  let combo :=
    match b.cop with
    | 1 => b.kind == 2 || b.kind == 4
    | 2 | 3 => (b.kind == 1 || b.kind == 3) && float b.lfmt && (if b.accum then b.dfmt == Code.fp32 else float b.dfmt)
    | 4 => (b.kind == 1 || b.kind == 3) && b.lfmt == Code.fp32 && b.dfmt == Code.fp32
    | 5 => (b.kind == 1 || b.kind == 3) && b.lfmt == Code.int32 && b.dfmt == Code.int32
    | _ => false
  let lengths := b.kind == 4 && (List.range b.n).any fun j =>
    decide (b.pieceBytes < (s.mem.load (s.key (b.src + j * b.pieceBytes)) (b.src + j * b.pieceBytes)).d.toNat + 8)
  b.kind == 0 || decide (4 < b.kind) || !combo || decide (11 < b.ring) || !s.ringOk b.ring || b.dirs == 0 || b.lat == 0 ||
    (b.accum && !(b.kind == 1 && (b.cop == 2 || b.cop == 3))) || b.pieceBytes % 8 != 0 || b.pieceBytes == 0 ||
    decide (b.n < 2) || (s.bulkOf b.cid).isSome || !inMemory b.src || !inMemory b.dst || lengths

/-- The collective that a descriptor's words describe. -/
def State.bulkOfWords (s : State) (d c : Nat) (blk : BlockRun) (ec : Nat) (w : List Word) : Bulk :=
  let w0 := w.getD 0 0
  let r := bits w0 55 52
  { cid := bits w0 41 36, kind := bits w0 63 60, cop := bits w0 59 56, ring := r, dirs := bits w0 51 50, cal := bit w0 49,
    accum := bit w0 48, sample := bits w0 47 42, lat := bits w0 35 28, lfmt := bits w0 7 4, dfmt := bits w0 3 0,
    src := bits (w.getD 1 0) 47 0, dst := bits (w.getD 2 0) 47 0, pieceBytes := bits (w.getD 3 0) 31 0, n := s.ringN r,
    pos := s.ringAt r, ctx := blk.ctx, core := coreKey d c, ec := ec, slot := s.sched, done := [], seen := [], need := [],
    paths := [], compared := [], told := false }

/-- The rings that stand. -/
def State.ringsUp (s : State) : List Nat := (List.range 12).filter fun r => s.ringOk r

/-- A copying all-gather of a learning step is one of its pieces' (R311). -/
def State.stepGather (s : State) (blk : BlockRun) (b : Bulk) : State :=
  let x := s.learn blk.ctx
  match x.run with
  | some r =>
    if blk.kind = 0 ∧ b.kind = 2 ∧ b.cop = 1 then
      s.setLearn blk.ctx { x with run := some (r.gathered s.ringsUp.length) }
    else s
  | none => s

/-- `COLL`: the descriptor is read and checked, and this member's first chunks set out. -/
def State.linkColl (s : State) (d c : Nat) : State :=
  s.lkCmd d c 2 fun blk w s =>
    let (st, ws, s) := s.unitRead d c blk.ctx (s.lkAddr d c w) 8
    let b := s.bulkOfWords d c blk (lkEc w) (ws.map (·.1))
    if st ≠ Status.ok ∨ (ws.any (·.2)) = true ∨ s.bulkBad b = true ∨ s.noLinks blk.ctx = true then
      (s.lkDenied d c blk (lkEc w)).count (Base.collective s.tablePd) Reg.collFailed
    else ((({ s with bulk := s.bulk ++ [b] }).stepGather blk b).ringBegin b).bulkSettle b.cid |>.linkShow

def execLinkColl (die : DieNo) (core : CoreNo) (s : State) : Host.Outcome State Fault Refusal :=
  .next (s.linkColl die.val core.val)

/-- The values of a chunk on the wire. -/
def Chunk.vals (c : Chunk) (n : Nat) : List (Nat × Bool) := unpackVals n c.stored

/-- A reduction chunk at a member: its own value is added; position p keeps the result, another sends it on, with `BADFWD`
where the chunk has failed. -/
def State.ringReduce (s : State) (b : Bulk) (c : Chunk) (u : Sub) (dir : Nat) (bad : Bool) : State :=
  let path := c.phase == 3
  let wide := path || u.sampled
  let fmt := b.wireFmt wide
  let vin := (c.vals (elemBits fmt / 8)).map fun v => (widen fmt v.1, v.2)
  let (own, s) := s.ringOwn b c.piece u
  let out := List.zipWith (fun x y => (ringOp b.cop x.1 y.1, x.2 || y.2)) vin own
  if c.piece = b.pos then
    if bad then s
    else if path then s.ringCompare b u (out.map (·.1))
    else s.ringResult b u out
  else s.ringSend b dir c.phase c.piece c.cseq s.myNum (packVals fmt out) bad

/-- The position of the member at which an all-to-all chunk was formed: its coordinate in the ring's dimension. -/
def State.srcPos (s : State) (b : Bulk) (dev : Nat) : Option Nat :=
  (s.fabric[dev]?).map fun r => r.coords.getD b.ring 0

/-- A chunk of an all-gather, or of an all-reduce's second half: written and sent on round the ring. -/
def State.ringGather (s : State) (b : Bulk) (c : Chunk) (dir : Nat) (bad : Bool) : State :=
  let s :=
    if ringNextPos b.n b.pos dir = c.piece then s
    else s.ringSend b dir 2 c.piece c.cseq c.src c.stored bad
  if bad then s
  else if b.kind = 2 then
    (s.bulkWrite b (b.dst + c.piece * b.pieceBytes + 65536 * c.cseq) c.stored).bulkDone b.cid c.piece c.cseq
  else
    match (b.subs c.piece).find? fun (u : Sub) => u.cseq == c.cseq with
    | none => s
    | some u =>
      let vs := (c.vals b.wire).map fun v => (widen (b.wireFmt false) v.1, v.2)
      (s.bulkWrite b (b.dst + c.piece * b.dstPiece + u.off * b.size b.dfmt) (packVals b.dfmt vs)).bulkDone b.cid c.piece
        c.cseq

/-- A chunk of an all-to-all: another member's goes on, this one's is written in its source's slot (R293). -/
def State.ringSwap (s : State) (b : Bulk) (c : Chunk) (dir : Nat) (bad : Bool) : State :=
  if c.piece ≠ b.pos then s.ringSend b dir 4 c.piece c.cseq c.src c.stored bad
  else if bad then s
  else
    match s.srcPos b c.src with
    | none => s
    | some j =>
      let s := s.bulkWrite b (b.dst + j * b.pieceBytes + 65536 * c.cseq) c.stored
      let s := s.bulkDone b.cid j c.cseq
      if c.cseq = 0 then
        match s.bulkOf b.cid with
        | some b => s.setBulk { b with need := (j, ceilDiv (8 + (c.words.headD 0).toNat) 65536) :: b.need }
        | none => s
      else s

/-- A chunk of a collective: one that matches none in flight is discarded and counted, as is a second copy. -/
def State.ringChunk (s : State) (l : Nat) (c : Chunk) (bad : Bool) : State :=
  let miss := s.count (Base.peerLink l) Reg.unmatched
  match s.bulkOf c.cid with
  | none => miss
  | some b =>
    let dir := c.stream % 2
    let key := (c.phase, if c.phase = 4 then c.piece * 4096 + c.src else c.piece, c.cseq)
    if b.ctx ≠ c.ctx ∨ c.stream / 2 ≠ b.ring ∨ c.phase = 0 ∨ 4 < c.phase ∨ b.n ≤ c.piece ∨ b.seen.contains key = true
    then miss
    else
      let s := if bad then s else s.setBulk { b with seen := key :: b.seen }
      let b := (s.bulkOf c.cid).getD b
      let s :=
        match c.phase with
        | 2 => s.ringGather b c dir bad
        | 4 => s.ringSwap b c dir bad
        | _ =>
          match (b.subs c.piece).find? fun (u : Sub) => u.cseq == c.cseq with
          | none => s.count (Base.peerLink l) Reg.unmatched
          | some u => s.ringReduce b c u dir bad
      s.bulkSettle c.cid

/-! The end of a chunk (R280, R286) -/

/-- A chunk NAK record: words 1 and 2 of the header of the chunk's last flit, which carries its `CCRC`. -/
def Chunk.record (c : Chunk) : Word × Word := (c.h1 (ceilDiv c.clen 1024 - 1) true, c.h2)

/-- A chunk's last flit has arrived: its `CCRC` is checked, a failure is reported to the sender unless this link has asked for
the chunk before, and it is landed,
reduced or sent on. One that arrives with `BADFWD` is discarded. -/
def State.chunkReceive (s : State) (l : Nat) : State :=
  let k := s.link l
  match k.ready with
  | [] => s
  | c :: rest =>
    let nak := c.record
    let asked := k.asked.any fun r => c.same (Chunk.ofHeader r.1 r.2)
    let k := { k with
      ready := rest, cackOwed := k.cackOwed + 1,
      asked := if c.badfwd then k.asked else k.asked.filter fun r => !c.same (Chunk.ofHeader r.1 r.2) }
    let good := chunkCrc c.words == c.ccrc
    if c.badfwd then s.setLink l k
    else if !c.coll && decide (4 < c.phase) then (s.setLink l k).count (Base.peerLink l) Reg.unmatched
    else if good then
      let s := s.setLink l k
      if c.coll then s.ringChunk l c false else if c.dst = s.myNum then s.land l c else s
    else
      let k := if asked then k else { k with control := k.control ++ [nak], asked := k.asked ++ [nak] }
      let s := (s.setLink l k).count (Base.peerLink l) Reg.crcFail
      if c.coll then s.ringChunk l c true else s

def execChunkReceive (link : LinkNo) (s : State) : Host.Outcome State Fault Refusal :=
  .next (if s.get (Base.peerLink link.val) Reg.linkState = 2 then s.chunkReceive link.val else s)

/-! Deadlines (R285, R287) -/

/-- Chunks missing at a deadline: counted at a link, logged, and `CHUNK` set in the context's staged units. -/
def State.chunksMissing (s : State) (l ctx n : Nat) : State :=
  (s.count (Base.peerLink l) Reg.chunkMissed n).reportCtx (0x10 + l / 12) ctx Reason.chunk 0x0E (l % 12) 0

/-- The budget end of the stroke that runs a slot has come. With a slip pending it is that of the slip stroke (R69). -/
def State.slotOver (s : State) (n : Nat) : Bool := decide (n < s.sched) || (n == s.sched && !s.slipNext)

/-- A window closes at its deadline; one still short of chunks gives its event then. -/
def State.windowEnd (s : State) (src stream : Nat) : State :=
  match s.windows.find? fun w => w.src == src && w.stream == stream && s.slotOver (w.slot + 1) with
  | none => s
  | some w =>
    let s := ({ s with windows := s.windows.erase w }).linkShow
    if w.landed.length = w.cap then s
    else (s.chunksMissing ((s.hopTo src).getD 0) w.ctx (w.cap - w.landed.length)).evcAdd (w.core / 48) (w.core % 48) w.ec 1

/-- A collective ends at its deadline, its results or a second path missing. -/
def State.bulkEnd (s : State) (cid : Nat) : State :=
  match s.bulkOf cid with
  | none => s
  | some b =>
    if s.slotOver (b.slot + b.lat) = false then s
    else
      let l := s.ringLink b.ring 1
      let left := match b.expected with
        | some n => n - b.done.length
        | none => 1
      let s := s.chunksMissing l b.ctx (max 1 left)
      let s := if b.told then s
        else (s.evcAdd (b.core / 48) (b.core % 48) b.ec 1).count (Base.collective (s.ringPd b)) Reg.collFailed
      ({ s with bulk := s.bulk.filter (·.cid != cid) }).linkShow

def execChunkDeadline (owner : ChunkOwner) (s : State) : Host.Outcome State Fault Refusal :=
  .next (match owner with
    | .window src stream => s.windowEnd src.toNat stream.toNat
    | .collective cid => s.bulkEnd cid.toNat)

/-! Fences (R288) -/

/-- A collective completes with `GONE`. -/
def State.bulkGone (s : State) (b : Bulk) : State :=
  let s := s.addReason [b.ctx] Reason.gone
  let s := if b.told then s
    else (s.evcAdd (b.core / 48) (b.core % 48) b.ec 1).count (Base.collective (s.ringPd b)) Reg.collFailed
  ({ s with bulk := s.bulk.filter (·.cid != b.cid) }).linkShow

/-- A receive window whose source can no longer reach it completes with `GONE`. -/
def State.windowGone (s : State) (w : Window) : State :=
  let s := (({ s with windows := s.windows.erase w }).linkShow).addReason [w.ctx] Reason.gone
  if w.landed.length = w.cap then s else s.evcAdd (w.core / 48) (w.core % 48) w.ec 1

/-- A link of this device has been fenced: transfers whose chunks it holds or whose route from their source runs over it, and
collectives on its rings, complete with `GONE`. -/
def State.linkLost (s : State) (l : Nat) : State :=
  let k := s.link l
  let cs := k.queues.flatten ++ k.retention ++ k.rx ++ k.ready
  let s := s.addReason ((cs.map (·.ctx)).eraseDups) Reason.gone
  let s := (s.windows.filter fun w => bit (s.route s.tablePd w.src) 63 && bit (s.route s.tablePd w.src) l).foldl
    State.windowGone s
  let s := (s.bulk.filter fun b => s.ringLink b.ring 0 == l || s.ringLink b.ring 1 == l).foldl State.bulkGone s
  s.setLink l Link.idle

/-- A device is a member of a ring: next to this one on it, or on the line of the dimension that the ring follows. -/
def State.onRing (s : State) (r dev : Nat) : Bool :=
  s.peer (s.ringLink r 0) == dev || s.peer (s.ringLink r 1) == dev ||
    (decide (r < 4) && (List.range (s.sizes.getD r 1)).any fun x => s.devAt r x == some dev)

/-- A device has been fenced: windows that wait for it, chunks on their way to it, and collectives of which it is a member
complete with `GONE`. -/
def State.devLost (s : State) (dev : Nat) : State :=
  let s := (s.windows.filter fun w => w.src == dev).foldl State.windowGone s
  let toDev (c : Chunk) : Bool := !c.coll && c.dst == dev && c.sent == 0
  let s := (List.range 24).foldl (fun s l =>
    let k := s.link l
    let cs := k.queues.flatten.filter toDev
    if cs.isEmpty then s
    else (s.addReason ((cs.map (·.ctx)).eraseDups) Reason.gone).setLink l
      { k with queues := k.queues.map fun q => q.filter fun c => !toDev c }) s
  (s.bulk.filter fun b => s.onRing b.ring dev).foldl State.bulkGone s

end Sys2Proof.Machine
end

