-- ==== Sys2Proof/Machine/Lms.lean ====
section
/-! DEFINITION. Verifying HSS signatures under RFC 8554 with SHA-256, n = m = 32, one to eight levels and the typecodes
of Table 15.1 (R481). -/

namespace Sys2Proof.Machine

/-- A big-endian number. -/
def beNat (bs : List Byte) : Nat := bs.foldl (fun n b => n * 256 + b.toNat) 0

/-- `k` big-endian bytes of a number. -/
def beBytes (k n : Nat) : List Byte := (leBytes k n).reverse

/-- An accepted LM-OTS typecode: Winternitz width, chains and checksum shift. -/
def otsParams (t : Nat) : Option (Nat × Nat × Nat) :=
  match t with
  | 1 => some (1, 265, 7)
  | 2 => some (2, 133, 6)
  | 3 => some (4, 67, 4)
  | 4 => some (8, 34, 0)
  | _ => none

/-- An accepted LMS typecode: the height of the tree. -/
def lmsHeight (t : Nat) : Option Nat := if 5 ≤ t ∧ t ≤ 9 then some (5 * (t - 4)) else none

/-- The `w`-bit digits of a byte string, first digit from the top of the first byte. -/
def digits (w : Nat) (bs : List Byte) : List Nat :=
  bs.flatMap fun b => (List.range (8 / w)).map fun i => b.toNat / 2 ^ (8 - w * (i + 1)) % 2 ^ w

/-- The checksum appended to a digest. -/
def otsChecksum (w ls : Nat) (q : List Byte) : Nat :=
  ((digits w q).map fun d => 2 ^ w - 1 - d).sum * 2 ^ ls % 65536

/-- Walk one hash chain from step `j` for `k` steps. -/
def otsChain (pre : List Byte) : Nat → Nat → List Byte → List Byte
  | 0, _, x => x
  | k + 1, j, x => otsChain pre k (j + 1) (sha256 (pre ++ beBytes 1 j ++ x))

/-- The LM-OTS public key candidate that a signature yields for a message. -/
def otsCandidate (i : List Byte) (q t : Nat) (c : List Byte) (ys : List (List Byte)) (msg : List Byte) :
    Option (List Byte) :=
  match otsParams t with
  | none => none
  | some (w, p, ls) =>
    let h := sha256 (i ++ beBytes 4 q ++ beBytes 2 0x8181 ++ c ++ msg)
    let ds := (digits w (h ++ beBytes 2 (otsChecksum w ls h))).take p
    let zs := (List.zip ds ys).mapIdx fun k (a, y) =>
      otsChain (i ++ beBytes 4 q ++ beBytes 2 k) (2 ^ w - 1 - a) a y
    some (sha256 (i ++ beBytes 4 q ++ beBytes 2 0x8080 ++ zs.flatten))

/-- Climb an authentication path to the root. -/
def lmsRoot (i : List Byte) : List (List Byte) → Nat → List Byte → List Byte
  | [], _, x => x
  | p :: ps, node, x =>
    let pre := i ++ beBytes 4 (node / 2) ++ beBytes 2 0x8383
    lmsRoot i ps (node / 2) (sha256 (if node % 2 = 1 then pre ++ p ++ x else pre ++ x ++ p))

/-- Read one LMS signature from the front of a string under a 56-byte public key: whether it verifies the message that
`msgOf` takes from what follows, and what follows. -/
def lmsVerify (pub sig : List Byte) (msgOf : List Byte → List Byte) : Option (List Byte) :=
  let lt := beNat (pub.take 4)
  let ot := beNat ((pub.drop 4).take 4)
  let i := (pub.drop 8).take 16
  match lmsHeight lt, otsParams ot with
  | some h, some (_, p, _) =>
    let q := beNat (sig.take 4)
    let st := beNat ((sig.drop 4).take 4)
    let c := (sig.drop 8).take 32
    let ys := chunks 32 p ((sig.drop 40).take (32 * p))
    let r := sig.drop (40 + 32 * p)
    let path := chunks 32 h ((r.drop 4).take (32 * h))
    let rest := r.drop (4 + 32 * h)
    if sig.length < 44 + 32 * p + 32 * h ∨ st ≠ ot ∨ beNat (r.take 4) ≠ lt ∨ 2 ^ h ≤ q ∨ pub.length ≠ 56 then none
    else
      match otsCandidate i q ot c ys (msgOf rest) with
      | none => none
      | some k =>
        let node := 2 ^ h + q
        if lmsRoot i path node (sha256 (i ++ beBytes 4 node ++ beBytes 2 0x8282 ++ k)) = pub.drop 24 then some rest
        else none
  | _, _ => none

/-- Follow the signed public keys of an HSS signature down to the message's own signature. -/
def hssLevels : Nat → List Byte → List Byte → List Byte → Bool
  | 0, pub, sig, msg => lmsVerify pub sig (fun _ => msg) == some []
  | n + 1, pub, sig, msg =>
    match lmsVerify pub sig (fun rest => rest.take 56) with
    | none => false
    | some rest => hssLevels n (rest.take 56) (rest.drop 56) msg

/-- Verify an HSS signature under `levels` levels and a top-level LMS public key. -/
def hssVerify (levels : Nat) (pub sig msg : List Byte) : Bool :=
  decide (1 ≤ levels ∧ levels ≤ 8 ∧ 4 ≤ sig.length ∧ beNat (sig.take 4) + 1 = levels) &&
    hssLevels (levels - 1) pub (sig.drop 4) msg

/-- Verify under a whole HSS public key: its level count in four bytes, then the top-level key. -/
def hssVerifyKey (key sig msg : List Byte) : Bool := hssVerify (beNat (key.take 4)) (key.drop 4) sig msg

end Sys2Proof.Machine
end

