-- ==== Sys2Proof/Machine/Trust.lean ====
section
/-! DEFINITION. The provenance records, the unit map, the configuration image and the boot flash as bytes: what they
hold and when they are valid (R445–R447, R485–R488, R492, R495, R497, R499). -/

namespace Sys2Proof.Machine

/-- Bytes `n` from offset `o`. -/
def sub (bs : List Byte) (o n : Nat) : List Byte := (bs.drop o).take n

/-- A little-endian number of `n` bytes at an offset. -/
def leAt (bs : List Byte) (o n : Nat) : Nat := leNat (sub bs o n)

/-- Bytes `n` from offset `o` are zero. -/
def zeroAt (bs : List Byte) (o n : Nat) : Bool := (sub bs o n).all (· == 0)

def ascii (l : List Nat) : List Byte := l.map (BitVec.ofNat 8)

/-! The provenance die (R492) -/

/-- What the manufacture signature covers, the seed by its digest. -/
def provSigned (p : Provenance) : List Byte :=
  p.dies.flatten ++ leBytes 8 p.serial.toNat ++ p.attKey ++ p.seedDigest

/-- The signature verifies under the root key `k`, and the seed matches its digest. -/
def provOk (k : List Byte) (p : Provenance) : Bool :=
  hssVerifyKey k p.signature (provSigned p) && sha256 p.seed == p.seedDigest

/-- Word `i` of a die's unit map record (Table 15.8). -/
def provUmap (p : Provenance) (die i : Nat) : Word := word (leAt (p.dies.getD die []) (32 + 8 * i) 8)

/-- A position byte names a place of the 5 × 10 grid (Table 01.17). -/
def posOk (b : Nat) : Bool := decide (b / 16 < 5) && decide (b % 16 < 10)

/-- A unit map record keeps its reserved fields zero, and a compute die's spares are two places of the grid (R446,
R447). -/
def provRecOk (p : Provenance) (die : Nat) : Bool :=
  let w := provUmap p die
  let reserved := bits (w 0) 55 16 == 0 && bits (w 1) 27 0 == 0 && bits (w 3) 63 32 == 0
  let kind :=
    if die < 8 then
      let a := bits (w 0) 7 0
      let b := bits (w 0) 15 8
      w 1 == 0 && w 2 == 0 && w 3 == 0 && a != b && posOk a && posOk b
    else bits (w 0) 15 0 == 0
  reserved && kind

/-- The unit map is good: the records of CD0–CD7, PD0 and PD1. -/
def provMapOk (p : Provenance) : Bool := (List.range 10).all (provRecOk p)

/-- Grid positions of the enabled cores of a compute die, in row-major order (R3). -/
def provPositions (p : Provenance) (die : Nat) : List Nat :=
  let w := provUmap p die 0
  ((List.range 50).map fun i => i / 10 * 16 + i % 10).filter fun b => b != bits w 7 0 && b != bits w 15 8

/-- Local units of a plinth die not to be used (Table 13.6). -/
def provDdrOff (p : Provenance) (pd i : Nat) : Bool := bit (provUmap p (8 + pd) 1) (28 + i)
def provLinkOff (p : Provenance) (pd i : Nat) : Bool := bit (provUmap p (8 + pd) 1) (44 + i)
def provFlashOff (p : Provenance) (pd i : Nat) : Bool := bit (provUmap p (8 + pd) 1) (56 + i)
/-- The bulk lanes of a local link not to be used. -/
def provLaneOff (p : Provenance) (pd i : Nat) : Nat :=
  if i < 8 then bits (provUmap p (8 + pd) 2) (8 * i + 7) (8 * i)
  else bits (provUmap p (8 + pd) 3) (8 * (i - 8) + 7) (8 * (i - 8))

/-! The attestation journal (R494, R495) -/

def journalOk (r : List Byte) : Bool := r.length == 16 && leAt r 12 4 == (crc32c (r.take 12)).toNat

/-- The stored reservation end: the largest of the records whose CRC is good. -/
def provReserved (p : Provenance) : Nat :=
  (p.journal.flatten.filter journalOk).foldl (fun m r => max m (leAt r 0 5)) 0

def journalRecord (n : Nat) : List Byte :=
  let b := leBytes 5 n ++ List.replicate 7 0xFF
  b ++ leBytes 4 (crc32c b).toNat

/-- Write the next journal record: in the sector in use, or, when its 4,096 records are full, first in the next sector
of the four, after which the sector after that is erased. -/
def provReserve (p : Provenance) (n : Nat) : Provenance :=
  let cur := p.journal.getD p.sector []
  if cur.length < 4096 then { p with journal := setAt p.journal p.sector (cur ++ [journalRecord n]) }
  else
    let t := (p.sector + 1) % 4
    { p with journal := setAt (setAt p.journal t [journalRecord n]) ((t + 1) % 4) [], sector := t }

/-! The configuration image -/

/-- A section of an image by its type: offset and length in bytes. -/
def secOf (img : List Byte) (ty : Nat) : Option (Nat × Nat) :=
  let dataOff := leAt img 28 4
  match (List.range 6).filter fun s => leAt img (256 + 32 * s) 4 == ty with
  | [s] => some (dataOff + leAt img (264 + 32 * s) 8, leAt img (272 + 32 * s) 8)
  | _ => none

def sectionBytes (img : List Byte) (ty : Nat) : List Byte :=
  match secOf img ty with
  | some (o, n) => sub img o n
  | none => []

/-- The header and the section table (Table 15.3, R486). -/
def headerOk (img : List Byte) (slotBytes : Nat) : Bool :=
  let n := leAt img 24 4
  let dataOff := leAt img 28 4
  let segs := leAt img 32 4
  img.take 8 == ascii [0x46, 0x4A, 0x56, 0x49, 0x4D, 0x41, 0x47, 0x45] && leAt img 8 2 == 1 && leAt img 10 2 == 0
    && decide (leAt img 36 4 < 2) && zeroAt img 104 152
    && decide (n ≤ slotBytes) && decide (n ≤ img.length) && dataOff % 4096 == 0 && decide (dataOff ≤ n)
    && decide (512 + 32 * segs ≤ dataOff) && segs == ceilDiv (n - dataOff) (2 ^ 20)
    && (List.range 6).all fun s => zeroAt img (260 + 32 * s) 4 && zeroAt img (280 + 32 * s) 8

/-- Each of the six types appears exactly once and lies within the image. -/
def sectionsOk (img : List Byte) : Bool :=
  [1, 2, 3, 4, 5, 6].all fun ty =>
    match secOf img ty with
    | some (o, n) => decide (o + n ≤ leAt img 24 4)
    | none => false

/-- `IMAGE_DIGEST`, every segment digest and `FABRIC_DIGEST` match. -/
def digestsOk (img : List Byte) : Bool :=
  let n := leAt img 24 4
  let dataOff := leAt img 28 4
  let head := sub img 0 72 ++ List.replicate 32 0 ++ sub img 104 (dataOff - 104)
  sha256 head == sub img 72 32 && sha256 ((sectionBytes img 2).drop 16) == sub img 40 32
    && (List.range (leAt img 32 4)).all fun k =>
      let o := dataOff + k * 2 ^ 20
      sha256 (sub img o (min (2 ^ 20) (n - o))) == sub img (512 + 32 * k) 32

/-- The firmware signature verifies under the root key `k` (Table 15.4). -/
def firmwareOk (k img : List Byte) : Bool :=
  let f := sectionBytes img 1
  let pay := leAt f 8 4
  let sig := leAt f 12 4
  64 + sig + pay == f.length && hssVerifyKey k (sub f 64 sig) (sha256 (sub f (64 + sig) pay))

/-- Every field of Table 15.5 lies within its range. -/
def policyOk (p : List Byte) : Bool :=
  let between (o n lo hi : Nat) : Bool := decide (lo ≤ leAt p o n) && decide (leAt p o n ≤ hi)
  p.length == 64 && between 0 1 8 64 && between 1 1 2 10 && between 2 1 0 1 && zeroAt p 3 1
    && between 4 2 1 65535 && between 6 2 1 65535 && zeroAt p 12 52

/-- Every field of Table 15.6 lies within its range. -/
def clocksOk (p : List Byte) : Bool :=
  let between (o n lo hi : Nat) : Bool := decide (lo ≤ leAt p o n) && decide (leAt p o n ≤ hi)
  p.length == 16 && between 0 2 500 1000 && between 2 2 500 2000 && between 4 2 500 2000
    && [12800, 11200, 9600, 8800].contains (leAt p 6 2) && between 8 1 0 10 && between 9 1 25 50 && zeroAt p 10 6

/-- The image is valid under the root key `k` (R486). -/
def imageOk (k img : List Byte) (slotBytes : Nat) : Bool :=
  headerOk img slotBytes && sectionsOk img && digestsOk img && firmwareOk k img
    && policyOk (sectionBytes img 4) && clocksOk (sectionBytes img 5)

/-- Four 6-bit fields of a device record. -/
def sixes (n : Nat) : List Nat := (List.range 4).map fun i => n / 2 ^ (6 * i) % 64

/-- The device records of the fabric map (R488). -/
def fabricOf (m : List Byte) : List DevRec :=
  (List.range (leAt m 2 2)).map fun d =>
    let r := sub m (16 + 104 * d) 104
    { coords := sixes (leAt r 0 4), sizes := sixes (leAt r 4 4),
      links := (List.range 24).map fun l => BitVec.ofNat 32 (leAt r (8 + 4 * l) 4) }

/-- The link word of a device's link. -/
def linkWord (f : List DevRec) (d l : Nat) : W32 := ((f[d]?).bind fun r => r.links[l]?).getD 0

/-- The fabric map is valid (R488). -/
def fabricOk (devNum : Nat) (f : List DevRec) : Bool :=
  let coords := f.map (·.coords)
  decide (devNum < f.length) && coords.eraseDups.length == f.length
    && ((f.mapIdx fun d r => (r.links.mapIdx fun l w =>
      !lwListed w ||
        (let back := linkWord f (lwPeer w) (lwLink w)
         lwListed back && lwPeer back == d && lwLink back == l && decide (lwFlight w ≤ 400))).all id)).all id

/-- The trust list (R497). -/
def trustOf (t : List Byte) : List TrustEntry :=
  (List.range (min 256 (t.length / 128))).map fun i =>
    let e := sub t (128 * i) 128
    { pubId := leAt e 0 4, ctxMask := leAt e 4 2, levels := leAt e 6 1, key := sub e 8 56 }

/-- What the device holds of an image. -/
def imageOf (img : List Byte) : Image :=
  let map := sectionBytes img 2
  let pol := sectionBytes img 4
  let clk := sectionBytes img 5
  let part := sectionBytes img 3
  { imgSeq := leAt img 12 4, fw := leAt (sectionBytes img 1) 0 4, fiAllow := leAt img 36 4 % 2 == 1,
    imageDigest := sub img 72 32, fabricDigest := sub img 40 32, devNum := leAt map 0 2, fabric := fabricOf map,
    partitions := (List.range 16).map fun c => (List.range 5).map fun i => word (leAt part (40 * c + 8 * i) 8),
    strokeUs := leAt pol 0 1, frameLog2 := leAt pol 1 1, trackMode := leAt pol 2 1, retrainLimit := leAt pol 4 2,
    laneSerLimit := leAt pol 6 2, water := leAt pol 8 4, arrayMhz := leAt clk 0 2, fabricMhz := leAt clk 2 2,
    ctrlMhz := leAt clk 4 2, ddrMts := leAt clk 6 2, sscDepth := leAt clk 8 1, sscKhz := leAt clk 9 1,
    trust := trustOf (sectionBytes img 6) }

/-- The clocks keep the limits of R518. -/
def imgClocksInLimits (i : Image) : Bool :=
  decide (5 * i.arrayMhz ≤ 4 * i.fabricMhz) && decide (i.fabricMhz ≤ 2 * i.arrayMhz)
    && decide (i.arrayMhz ≤ i.ctrlMhz) && decide (4 * i.fabricMhz * 8 ≤ 5 * i.ddrMts)

/-- The largest hop count between two devices of a map (R56). -/
def fabricHops (f : List DevRec) : Nat :=
  let devs := List.range f.length
  devs.foldl (fun h d => (bfs (adjacent f [] devs) f.length 0 [d] [(d, 0)]).foldl (fun h p => max h p.2) h) 0

/-- The largest cable flight of a map, in nanoseconds. -/
def fabricFlight (f : List DevRec) : Nat :=
  f.foldl (fun c r => r.links.foldl (fun c w => if lwListed w then max c (lwFlight w) else c) c) 0

/-- T_flood of R56, in nanoseconds. -/
def floodTime (h c : Nat) : Nat := (140 + h * c + h * 88) - 88

/-! The boot flash (R499) -/

def dirOk (r : List Byte) : Bool := r.length == 64 && leAt r 60 4 == (crc32c (r.take 60)).toNat

/-- The valid record with the largest `DIR_SEQ` of either sector. -/
def flashStanding (b : BootFlash) : Option (List Byte) :=
  ((b.dir0 ++ b.dir1).filter dirOk).foldl (fun best r =>
    match best with
    | none => some r
    | some o => if leAt o 0 4 < leAt r 0 4 then some r else best) none

/-- Bytes of a slot: half of what the two directory sectors leave. -/
def flashSlotBytes (b : BootFlash) : Nat := (b.mib * 2 ^ 20 - 0x20000) / 2

def flashSlot (b : BootFlash) (i : Nat) : List Byte := if i = 0 then b.slot0 else b.slot1

def flashSlotOk (k : List Byte) (b : BootFlash) (i : Nat) : Bool := imageOk k (flashSlot b i) (flashSlotBytes b)

/-- The preferred slot. -/
def flashPref (b : BootFlash) : Nat :=
  match flashStanding b with
  | some r => if leAt r 4 1 = 0 then 0 else 1
  | none => 0

/-- The slot to boot and whether it is the fallback. -/
def flashChoose (k : List Byte) (b : BootFlash) : Option (Nat × Bool) :=
  let p := flashPref b
  if flashSlotOk k b p then some (p, false) else if flashSlotOk k b (1 - p) then some (1 - p, true) else none

/-- A directory record. -/
def dirRecord (n slot : Nat) : List Byte :=
  let b := leBytes 4 n ++ leBytes 1 slot ++ List.replicate 55 0
  b ++ leBytes 4 (crc32c b).toNat

end Sys2Proof.Machine
end

