-- ==== Sys2Proof/Machine/Matrix.lean ====
section
/-! DEFINITION. The matrix arrays: the MATMUL command, its checks, its sums and its drains (chapter 03, R127, R128), fill
passes and clock gating (R113–R115, R438). -/

namespace Sys2Proof.Machine

/-- The modes of Table 03.20. -/
inductive Mode where
  | mxfp4 | int4 | fp8 | int8 | bf16 | fp16
deriving DecidableEq, Repr

/-- The `MODE` code of Table 03.20. -/
def Mode.code : Mode → Nat
  | .mxfp4 => 1
  | .int4 => 2
  | .fp8 => 3
  | .int8 => 4
  | .bf16 => 5
  | .fp16 => 6

def Mode.isInt (m : Mode) : Bool := m == .int4 || m == .int8

/-- K and N of the logical tile (Table 03.1). -/
def Mode.k (m : Mode) : Nat := if m == .bf16 || m == .fp16 then 32 else 64
def Mode.n (m : Mode) : Nat := if m == .mxfp4 || m == .int4 then 64 else 32

/-- The mode that the weight format sets (R87). -/
def modeOfW (w : Nat) : Mode :=
  if w = Code.e2m1 then .mxfp4
  else if w = Code.int4 then .int4
  else if w = Code.e4m3 ∨ w = Code.e5m2 then .fp8
  else if w = Code.bf16 then .bf16
  else if w = Code.fp16 then .fp16
  else .int8

/-- The mode of a permitted operand pair (Table 03.10). -/
def modeOf (w a : Nat) (mx : Bool) : Option Mode :=
  let e (x : Nat) := x == Code.e4m3 || x == Code.e5m2
  let i (x : Nat) := x == Code.int8 || x == Code.uint8
  if mx then
    if w = Code.e2m1 ∧ a = Code.e2m1 then some .mxfp4 else if e w && e a then some .fp8 else none
  else if w = Code.int4 ∧ a = Code.int4 then some .int4
  else if e w && e a then some .fp8
  else if i w && i a then some .int8
  else if w = Code.bf16 ∧ a = Code.bf16 then some .bf16
  else if w = Code.fp16 ∧ a = Code.fp16 then some .fp16
  else none

/-- The fields of a MATMUL (Table 04.6). -/
structure Matmul where
  arr : Nat
  m : Nat
  sbase : Nat
  swap : Bool
  load : Bool
  mx : Bool
  drain : Nat
  init : Bool
  sign1 : Bool
  dual : Bool
  sign2 : Bool
  wide : Bool
  sat : Bool
  wfmt : Nat
  afmt : Nat
  ofmt : Nat
  wcs : Bool
  shift : Nat
  rshift : Nat
  act : Nat
  asc : Nat
  omx : Bool
  tile : Nat
  out : Nat
  sbase2 : Nat
  opitch : Nat
deriving DecidableEq, Repr

/-- The command that three words spell, with its effective offsets. -/
def State.matmulOf (s : State) (d c : Nat) (ws : List Word) : Matmul :=
  let w0 := ws.getD 0 0
  let w1 := ws.getD 1 0
  let w2 := ws.getD 2 0
  { arr := bits w0 39 37, m := bits w0 29 20, sbase := bits w0 19 11, swap := bit w0 10, load := bit w0 9,
    mx := bit w0 8, drain := bits w0 7 6, init := bit w0 5, sign1 := bit w0 4, dual := bit w0 3, sign2 := bit w0 2,
    wide := bit w0 1, sat := bit w0 0, wfmt := bits w1 63 60, afmt := bits w1 59 56, ofmt := bits w1 55 52,
    wcs := bit w1 51, shift := bits w1 50 49, rshift := bits w1 48 44,
    act := s.effOff d c (bits w1 43 41) (bits w1 40 24) 64, asc := s.effOff d c (bits w1 23 21) (bits w1 20 4) 64,
    omx := bit w1 3, tile := s.effOff d c (bits w2 63 61) (bits w2 60 44) 64,
    out := s.effOff d c (bits w2 43 41) (bits w2 40 22) 16, sbase2 := bits w2 21 13, opitch := bits w2 12 0 }

/-- Bytes of side-band, and the tile total (Table 03.4). -/
def Matmul.side (q : Matmul) : Nat :=
  if q.mx then (if q.wfmt = Code.e2m1 then 128 else 64)
  else if q.wcs then (if q.wfmt = Code.int4 then 128 else if q.wfmt = Code.int8 ∨ q.wfmt = Code.uint8 then 64 else 0)
  else 0

def Matmul.total (q : Matmul) : Nat := if q.load then 2048 + q.side else 0

/-- Data bytes of an activation row, and A of Table 03.5, which counts its two MX scales. -/
def Matmul.rowBytes (q : Matmul) : Nat := if elemBits q.afmt = 4 then 32 else 64
def Matmul.a (q : Matmul) : Nat := q.rowBytes + if q.mx then 2 else 0

/-- W of Table 03.6, for `n` columns: bytes of an output row over all its planes. -/
def Matmul.w (q : Matmul) (n : Nat) : Nat := n * elemBits q.ofmt / 8 + if q.omx then n / 32 else 0

/-- Planes of the output, and the pitch of one plane's rows (R105). -/
def Matmul.planes (q : Matmul) : Nat := if q.ofmt = Code.pair then 2 else 1
def Matmul.pitch (q : Matmul) (n : Nat) : Nat := if q.opitch = 0 then q.w n / q.planes else q.opitch * 64

/-- W of R95: zero unless the command stores, and twice for both runs of `DUAL`. -/
def Matmul.stored (q : Matmul) (n : Nat) : Nat := if q.drain = 1 then q.w n * (if q.dual then 2 else 1) else 0

/-- Bytes that the feeder moves for a command (R95, R137). -/
def Matmul.moved (q : Matmul) (n : Nat) : Nat := q.m * (q.a + q.stored n) + q.total

/-- The issue cycles C (R95). -/
def Matmul.cycles (q : Matmul) (n : Nat) : Nat :=
  max q.m (max (ceilDiv (q.moved n) 256) (if q.load then 9 else 0))

/-- Rows of the sum buffer (Table 03.3). -/
def Matmul.rows (q : Matmul) (mode : Mode) : Nat :=
  (if mode.n = 64 then 256 else 512) / if q.wide && mode.isInt then 2 else 1

/-- Bytes from `OUT` to the end of the last row stored. -/
def Matmul.outExtent (q : Matmul) (n : Nat) : Nat :=
  (q.planes * (if q.dual then 2 else 1) * q.m - 1) * q.pitch n + q.w n / q.planes

/-- The causes of Table 04.16 that apply to a MATMUL (R126, R128). -/
def State.matmulCauses (s : State) (d c : Nat) (q : Matmul) : List Nat :=
  let out := q.drain != 0
  let fmtBad :=
    decide (Code.e2m1 < q.wfmt) || decide (Code.e2m1 < q.afmt) || q.shift == 3 ||
    (!q.mx && (q.wfmt == Code.e2m1 || q.afmt == Code.e2m1)) ||
    (out && (decide (Code.pair < q.ofmt) || q.ofmt == Code.uint8 || q.ofmt == Code.int4 ||
      (q.ofmt == Code.e2m1 && !q.omx)))
  if fmtBad then [0x2]
  else
    let mode := modeOfW q.wfmt
    let n := mode.n
    let intOut := q.ofmt == Code.int8 || q.ofmt == Code.int32 || q.ofmt == Code.int64
    let c3 :=
      (decide (0 < q.m) && !(s.offOk d c q.act 64 (q.m * q.rowBytes))) ||
      (decide (0 < q.m) && q.mx && !(s.offOk d c q.asc 64 (q.m * 2))) ||
      (q.load && !(s.offOk d c q.tile 64 q.total)) ||
      (decide (0 < q.m) && q.drain == 1 && !(s.offOk d c q.out 64 (q.outExtent n))) ||
      (decide (0 < q.m) && q.drain == 3 && !(s.offOk d c q.out 16 16))
    let c4 := decide (q.rows mode < q.m + q.sbase) || (q.dual && decide (q.rows mode < q.m + q.sbase2))
    let c5 :=
      (modeOf q.wfmt q.afmt q.mx).isNone || (q.mx && q.wcs) || (q.shift != 0 && !q.wide) || (q.wide && (!mode.isInt || q.wcs)) ||
      (q.m == 0 && (!q.load || q.swap)) || ((q.drain == 2 || q.drain == 3) && q.dual) ||
      (q.drain == 2 && (q.omx || !(q.ofmt == Code.bf16 || q.ofmt == Code.fp16 || q.ofmt == Code.e4m3
        || q.ofmt == Code.e5m2))) ||
      (out && q.omx && !(q.ofmt == Code.e4m3 || q.ofmt == Code.e5m2 || q.ofmt == Code.e2m1)) ||
      (out && intOut && (!mode.isInt || q.wcs)) ||
      (q.drain == 1 && q.opitch != 0 && decide (q.opitch * 64 < q.w n / q.planes)) ||
      (q.drain == 2 && (s.arr d c q.arr).target.isNone)
    (if c3 then [0x3] else []) ++ (if c4 then [0x4] else []) ++ (if c5 then [0x5] else [])

/-! The sums of one column (R101, R102, R112) -/

/-- A gated multiplier: one operand is a zero and the other finite. -/
def gatedMul (w a : Fv) : Bool := (w.isZero && a.isFinite) || (a.isZero && w.isFinite)

/-- A block of 32 products, summed exactly; a zero sum is +0; scaled and rounded once to FP32. -/
def mxSum (ws as : List Fv) (ew ea : Nat) : Fv :=
  if ew = 0xFF ∨ ea = 0xFF then .nan
  else
    let t := (List.zipWith Fv.mul ws as).foldl Fv.add Fv.zero
    (if t.isZero then Fv.zero else t.scale ((ea : Int) + ew - 254)).round Fmt.fp32

/-- The running sum of a column, `p` products to a cell: each cell adds its products exactly and rounds once; a gated
product adds nothing. -/
def cellSums (p : Nat) (ws as : List Fv) : Fv :=
  (chunks p ws.length (ws.zip as)).foldl (fun acc cell =>
    let live := cell.filter fun x => !gatedMul x.1 x.2
    if live.isEmpty then acc else (live.foldl (fun t x => t.add (x.1.mul x.2)) acc).round Fmt.fp32) Fv.zero

/-- The result of one column for one activation row: the weights of the column, its side-band entries, the row's
elements and its two scales. -/
def columnSum (q : Matmul) (mode : Mode) (ws : List Nat) (side : List Byte) (as : List Nat) (scales : List Byte)
    (n : Nat) : Num :=
  if mode.isInt then
    let i (code x : Nat) : Int := match elemNum code x with
      | .int v => v
      | .fp _ => 0
    let t : Int := (List.zipWith (fun w a => i q.wfmt w * i q.afmt a) ws as).foldl (· + ·) 0
    if q.wcs then
      .fp (((Fv.ofInt t).mul (Fmt.bf16.dec (leNat ((side.drop (2 * n)).take 2)))).round Fmt.fp32)
    else .int t
  else
    let w := ws.map fun x => (elemNum q.wfmt x).toFv
    let a := as.map fun x => (elemNum q.afmt x).toFv
    if q.mx then
      let s0 := mxSum (w.take 32) (a.take 32) (side.getD (2 * n) 0).toNat (scales.getD 0 0).toNat
      let s1 := mxSum (w.drop 32) (a.drop 32) (side.getD (2 * n + 1) 0).toNat (scales.getD 1 0).toNat
      .fp ((s0.add s1).round Fmt.fp32)
    else .fp (cellSums (if mode == .fp8 then 2 else 1) w a)

/-! The sum buffer (R90, R104, R105, R433) -/

/-- A 32-bit entry; one not written since its contents became undefined is a free value. -/
def Arr.entry (x : Arr) (i : Nat) : Nat :=
  match cget (fun _ => none) x.sum i with
  | some v => v.toNat
  | none => (Config.undefSum x.gen i).toNat

def Arr.setEntry (x : Arr) (i v : Nat) : Arr :=
  { x with sum := cset (fun _ => none) x.sum i (some (BitVec.ofNat 32 v)) }

/-- Entries 2i and 2i + 1 as the 64-bit word that one check byte guards (R433). -/
def Arr.pair (x : Arr) (i : Nat) : Word := word (x.entry (2 * i) + x.entry (2 * i + 1) * 2 ^ 32)

/-- A pair read back from its word: its two sums, with no check byte to keep. -/
def Arr.setPair (x : Arr) (i : Nat) (v : Word) : Arr :=
  let y := (x.setEntry (2 * i) (v.toNat % 2 ^ 32)).setEntry (2 * i + 1) (v.toNat / 2 ^ 32)
  { y with check := cset (fun _ => none) y.check i none }

/-- What a pair's decoded word brings: a single-bit error is corrected, another is reported (R433, R438). -/
def State.pairSeen (s : State) (d c a i : Nat) (v : Word) (o : Ecc) : State :=
  let s := s.setArr d c a ((s.arr d c a).setPair i v)
  match o with
  | .clean => s
  | .fixed => (s.count (Base.errors d) Reg.sramCorrected).log d 0 none 0x01 c (2 * i)
  | .bad => (s.count (Base.errors d) Reg.sramUncorr).report (uid d c) Reason.check 0x01 c (2 * i)

/-- A pair's word is decoded as it is read. -/
def State.pairCheck (s : State) (d c a i : Nat) (check : Option Byte) : State :=
  let x := s.arr d c a
  let r := eccDecode (x.pair i) (check.getD (secded (x.pair i)))
  s.pairSeen d c a i r.1 r.2.2

/-- Check the syndromes of the pairs that hold entries [lo, hi), folded with 0x00: a corrected pair is written back, an
uncorrectable one is reported, and the check byte is formed again (R433). A pair whose check byte is not listed is
clean. -/
def State.pairsCheck (s : State) (d c a lo hi : Nat) : State :=
  ((s.arr d c a).check.filter fun p => decide (lo / 2 ≤ p.1) && decide (2 * p.1 < hi)).foldl (fun s p =>
    s.pairCheck d c a p.1 p.2) s

/-- The value held for column `n` of a row. -/
def Arr.sumAt (x : Arr) (wide isInt : Bool) (cols row n : Nat) : Num :=
  let e := row * cols + n
  if wide then .int (sgn 64 (x.entry (2 * e) + x.entry (2 * e + 1) * 2 ^ 32))
  else if isInt then .int (sgn 32 (x.entry e))
  else .fp (f32 (x.entry e))

def Arr.setSum (x : Arr) (wide : Bool) (cols row n : Nat) (v : Num) : Arr :=
  let e := row * cols + n
  match v with
  | .int i =>
    if wide then (x.setEntry (2 * e) (unsgn 64 i % 2 ^ 32)).setEntry (2 * e + 1) (unsgn 64 i / 2 ^ 32)
    else x.setEntry e (unsgn 32 i)
  | .fp f => x.setEntry e (f32enc f)

/-- Add a column result to what the row holds: integers wrap, floating-point sums round once. -/
def drainAdd (wide : Bool) (shift : Nat) (acc x : Num) : Num :=
  match acc, x with
  | .int a, .int b =>
    let w := if wide then 64 else 32
    .int (sgn w (unsgn w (a + b * 2 ^ shift)))
  | a, b => .fp ((a.toFv.add b.toFv).round Fmt.fp32)

/-! Output rows and the checksum record (R105–R108) -/

/-- One output row: its planes' bytes, and each value's bit pattern, folded value and whether it is finite. -/
def outRow (q : Matmul) (vs : List Num) : List (List Byte) × List (Nat × Num × Bool) :=
  if q.omx then
    let blocks := mxRow q.ofmt (vs.map Num.toFv)
    let f := (floatFmt q.ofmt).getD Fmt.e4m3
    ([mxRowBytes q.ofmt blocks], blocks.flatMap fun b => b.2.map fun e =>
      let v := e8m0 (f.dec e) b.1
      (e, .fp v, v.isFinite))
  else
    let codes := vs.map (outCode q.ofmt q.sat q.rshift)
    if q.ofmt = Code.pair then
      ([codes.flatMap fun x => leBytes 2 (x / 2 ^ 16), codes.flatMap fun x => leBytes 2 x],
       codes.map fun x =>
         let hi := Fmt.bf16.dec (x / 2 ^ 16)
         (x, .fp ((hi.add (Fmt.bf16.dec (x % 2 ^ 16))).round Fmt.fp32), hi.isFinite))
    else
      ([pack q.ofmt codes], codes.map fun x =>
        let v := if q.ofmt = Code.int64 then .int (sgn 32 (x % 2 ^ 32)) else elemNum q.ofmt x
        let pat := if q.ofmt = Code.int64 then (x % 2 ^ 32) ^^^ (x / 2 ^ 32) else x
        (pat, v, match v with
          | .fp f => f.isFinite
          | .int _ => true))

/-- Rotate a 32-bit pattern left. -/
def rotl32 (x r : Nat) : Nat := (x * 2 ^ r + x * 2 ^ r / 2 ^ 32) % 2 ^ 32

/-- The checksum record of rows of folded values, row by row (Table 03.15). -/
def checksum (rows : List (List (Nat × Num × Bool))) : List Byte :=
  let items := (rows.mapIdx fun m vs => vs.mapIdx fun n v => (m + n, v)).flatten
  let sum := items.foldl (fun acc x =>
    match x.2.2.1 with
    | .int i => unsgn 32 (acc + i)
    | .fp v => f32enc ((f32 acc).add v)) 0
  let fold := items.foldl (fun acc x => acc ^^^ rotl32 (x.2.1 % 2 ^ 32) (x.1 % 32)) 0
  let bad := (items.filter fun x => !x.2.2.2).length
  leBytes 4 sum ++ leBytes 4 fold ++ leBytes 4 bad ++ leBytes 4 items.length

/-! The command -/

/-- The bytes of a weight set; what was never loaded is a free value. -/
def setBytes (gen : Nat) (x : Option (List Byte)) : List Byte :=
  match x with
  | some b => b
  | none => (List.range 2176).map (Config.undefWeight gen)

/-- Swap and load (R97): the swap first; the tile read takes the shadow set's place. -/
def State.arrLoad (s : State) (d c : Nat) (q : Matmul) : State :=
  let x := s.arr d c q.arr
  let x := if q.swap then { x with active := x.shadow, shadow := x.active } else x
  if q.load then
    let (bs, s) := s.loadBytes (scratchAddr d c q.tile) q.total
    let rest := (setBytes x.gen x.shadow).drop q.total
    s.setArr d c q.arr { x with shadow := some (bs ++ rest) }
  else s.setArr d c q.arr x

/-- The sums of one activation row with every column of the array's active weight set. -/
def rowColumns (q : Matmul) (mode : Mode) (x : Arr) (row sc : List Byte) : List Num :=
  let set := setBytes x.gen x.active
  let as := unpack q.afmt row
  (chunks mode.k 2048 (unpack q.wfmt (set.take 2048))).mapIdx fun n ws =>
    columnSum q mode ws (set.drop 2048) as sc n

/-- The scales of an activation row, where the format has them. -/
def State.rowScales (s : State) (d c : Nat) (q : Matmul) (m : Nat) : List Byte × State :=
  if q.mx then s.loadBytes (scratchAddr d c (q.asc + 2 * m)) 2 else ([], s)

/-- One row's column sums: row m of the activations, its scales where the format has them, and the active weights. -/
def State.rowResult (s : State) (d c : Nat) (q : Matmul) (mode : Mode) (m : Nat) : List Num × State :=
  let row := s.loadBytes (scratchAddr d c (q.act + m * q.rowBytes)) q.rowBytes
  let sc := row.2.rowScales d c q m
  (rowColumns q mode (sc.2.arr d c q.arr) row.1 sc.1, sc.2)

/-- The column results of every row, and the state after the rows were read. -/
def State.rowResults (s : State) (d c : Nat) (q : Matmul) (mode : Mode) : Nat → List (List Num) × State
  | 0 => ([], s)
  | left + 1 =>
    let row := s.rowResult d c q mode (q.m - (left + 1))
    let rest := row.2.rowResults d c q mode left
    (row.1 :: rest.1, rest.2)

/-- The sums of one run of rows. -/
def runSums (q : Matmul) (mode : Mode) (x : Arr) (base : Nat) (neg : Bool) (rows : List (List Num)) :
    List (List Num) :=
  rows.mapIdx fun m vs => vs.mapIdx fun n v =>
    let v := if neg then v.neg else v
    let acc := if q.init then (if mode.isInt && !q.wcs then .int 0 else .fp Fv.zero)
      else x.sumAt q.wide (mode.isInt && !q.wcs) mode.n (base + m) n
    drainAdd q.wide (8 * q.shift) acc v

/-- Put values into a row of the buffer. -/
def putRow (q : Matmul) (mode : Mode) (x : Arr) (row : Nat) (vs : List Num) : Arr :=
  (vs.mapIdx fun n v => (n, v)).foldl (fun x v => x.setSum q.wide mode.n row v.1 v.2) x

/-- Add a row's column results to a row of the buffer. -/
def addRow (q : Matmul) (mode : Mode) (x : Arr) (row : Nat) (neg : Bool) (vs : List Num) : Arr :=
  putRow q mode x row (vs.mapIdx fun n v =>
    drainAdd q.wide (8 * q.shift) (x.sumAt q.wide (mode.isInt && !q.wcs) mode.n row n) (if neg then v.neg else v))

/-- `ACCUMULATE`: with `INIT` the rows of both runs are zero first; then each row is added to its row of the first run and,
with `DUAL`, to that of the second, so that runs which share a row add up in it. -/
def accumulate (q : Matmul) (mode : Mode) (x : Arr) (rows : List (List Num)) : Arr :=
  let zero : Num := if mode.isInt && !q.wcs then .int 0 else .fp Fv.zero
  let bases := (q.sbase, q.sign1) :: if q.dual then [(q.sbase2, q.sign2)] else []
  let x := if q.init then bases.foldl (fun x b =>
      (List.range q.m).foldl (fun x m => putRow q mode x (b.1 + m) (List.replicate mode.n zero)) x) x
    else x
  (rows.mapIdx fun m vs => (m, vs)).foldl (fun x r =>
    bases.foldl (fun x b => addRow q mode x (b.1 + r.1) b.2 r.2) x) x

/-- Write every plane of every run at the row pitch (R105). -/
def State.storeRows (s : State) (d c : Nat) (q : Matmul) (n : Nat) (runs : List (List (List Num))) : State :=
  (runs.mapIdx fun r rows => (r, rows)).foldl (fun s run =>
    (run.2.mapIdx fun m vs => (m, vs)).foldl (fun s row =>
      ((outRow q row.2).1.mapIdx fun p bs => (p, bs)).foldl (fun s pl =>
        s.storeBytes (scratchAddr d c (q.out + ((run.1 * q.planes + pl.1) * q.m + row.1) * q.pitch n)) pl.2) s) s) s

/-- What the drain does with the column results of each row. The rows of an `APPEND` join the core's drain (R205, R207). -/
def State.drain (s : State) (d c : Nat) (b : BlockRun) (q : Matmul) (mode : Mode) (results : List (List Num)) : State :=
  let x := s.arr d c q.arr
  let runs := runSums q mode x q.sbase q.sign1 results ::
    (if q.dual then [runSums q mode x q.sbase2 q.sign2 results] else [])
  match q.drain with
  | 0 => s.setArr d c q.arr (accumulate q mode x results)
  | 1 => s.storeRows d c q mode.n runs
  | 2 =>
    match x.target with
    | none => s
    | some t =>
      let rows := (runs.getD 0 []).mapIdx fun m vs =>
        ({ arr := q.arr, target := t, row := m, fmt := q.ofmt, ctx := b.ctx, kind := b.kind, seq := b.seq,
           bytes := ((outRow q vs).1).flatten } : AppRow)
      let k := s.core d c
      s.setCore d c { k with rows := k.rows ++ rows }
  | _ => s.storeBytes (scratchAddr d c q.out) (checksum ((runs.getD 0 []).map fun vs => (outRow q vs).2))

/-- Count cycles in a field of thousands, keeping what is left over. -/
def State.kcyc (s : State) (d c a : Nat) (f : Fld) (rem cycles : Nat) : Nat × State :=
  ((rem + cycles) % 1000, s.count (Base.core d c) f ((rem + cycles) / 1000) a)

/-- What the acceptance of a command at a cycle fixes about the gap that it ends (Table 03.17): the fill passes that the gap
owes, and the cycles for which the array's clock was gated. The time before the first command is no gap: throughout it the
array is gated. DESIGN CHOICE (log 184): a gap's passes are steps after the one that ends the gap. -/
def Arr.gapEnd (x : Arr) (t : Nat) : Arr :=
  let g := t - x.ready
  if !x.used then { x with used := true, gate := x.gate + (t - x.gateFrom) }
  else if g < 64 then x
  else if g < 2000 then { x with gaps := x.gaps ++ [(g / 64, true)] }
  else { x with gaps := x.gaps ++ [(1, true)], gate := x.gate + (t - 96 - x.gateFrom) }

/-- A command of `cyc` issue cycles accepted at a cycle; `staged` marks the work of a staged unit (R435). -/
def Arr.accept (x : Arr) (t cyc moved stroke : Nat) (staged : Bool) : Arr :=
  let x := x.gapEnd t
  { x with
    ready := t + cyc, feed := (moved, max 1 cyc), gateFrom := t + cyc + 84, lastCmd := stroke + 1,
    cover := if staged then x.cover.orElse fun _ => some (stroke, 16) else x.cover,
    work := if staged then stroke + 1 else x.work }

/-- Entries of the sum buffer that a command's runs of rows take. -/
def Matmul.entries (q : Matmul) (mode : Mode) (base : Nat) : Nat × Nat :=
  let n := if q.wide then 2 * mode.n else mode.n
  (base * n, (base + q.m) * n)

/-- A matrix command issues when its array accepts it (R95), completes 84 cycles after its last issue cycle (R88), and does
all that the pipeline then does. -/
def State.matmulRun (s : State) (d c : Nat) (b : BlockRun) (ws : List Word) (q : Matmul) (mode : Mode) : State :=
  let ready := (s.arr d c q.arr).ready - b.edge
  let t := issueAt b (ws.getD 0 0) ready
  let cyc := q.cycles mode.n
  let s := (s.issue d c { b with done := max b.done (t + cyc + 84) } (ws.getD 0 0) ready 2).arrLoad d c q
  let s := s.put (Base.core d c) Reg.arrMode mode.code q.arr
  let (rows, s) := s.rowResults d c q mode q.m
  let (lo, hi) := q.entries mode q.sbase
  let (lo2, hi2) := q.entries mode q.sbase2
  let s := if q.m = 0 then s else s.pairsCheck d c q.arr lo hi
  let s := if q.m ≠ 0 ∧ q.dual = true then s.pairsCheck d c q.arr lo2 hi2 else s
  let s := if q.m = 0 then s else s.drain d c b q mode rows
  let x := s.arr d c q.arr
  let (rem, s) := s.kcyc d c q.arr Reg.issueKcyc x.issueRem (if q.m = 0 then 0 else cyc)
  let staged := s.workStaged b.ctx b.kind b.seq
  s.setArr d c q.arr { (s.arr d c q.arr).accept (b.edge + t) cyc (q.moved mode.n) s.stroke staged with issueRem := rem }

def State.seqMatmul (s : State) (d c : Nat) : State :=
  s.seqCmd d c 0x08 (fun _ ws => s.matmulCauses d c (s.matmulOf d c ws)) fun b ws =>
    let q := s.matmulOf d c ws
    match modeOf q.wfmt q.afmt q.mx with
    | some mode => s.matmulRun d c b ws q mode
    | none => s

def execMatmul (die : DieNo) (core : CoreNo) (s : State) : Host.Outcome State Fault Refusal :=
  .next (s.seqMatmul die.val core.val)

/-! Fill passes -/

def State.findRetest (s : State) (d c a : Nat) : Option Retest :=
  s.faults.retests.find? fun r => r.die == d && r.core == c && r.arr == a

def State.setRetest (s : State) (d c a : Nat) (r : Option Retest) : State :=
  let rest := s.faults.retests.filter fun x => !(x.die == d && x.core == c && x.arr == a)
  { s with faults := { s.faults with retests := match r with
    | some r => r :: rest
    | none => rest } }

/-- A record that differs: counted, logged, and `SELFTEST` set for the contexts bound to the core (R115). -/
def State.fillBad (s : State) (d c a p : Nat) : State :=
  let b := Base.core d c
  let s := ((s.count b Reg.failCount 1 a).put b Reg.lastFailPat p a).count (Base.errors d) Reg.errSelftest
  s.report (uid d c) Reason.selftest 0x03 c (p * 16 + a)

/-- The running block holds a matrix command for the array in a word from `pc` on. -/
def State.blockNames (s : State) (d c a : Nat) (b : BlockRun) : Nat → Nat → Bool
  | 0, _ => false
  | fuel + 1, pc =>
    if b.base + b.len ≤ pc then false
    else
      let w := s.fetch d c pc
      let op := bits w 63 58
      if op = 0x02 then false
      else (op == 0x08 && bits w 39 37 == a) || s.blockNames d c a b fuel (pc + 1 + (opWords op).getD 0)

/-- The stroke holds no command for the array: its sequencer has compared its head entry, and neither a command issued nor
the running block names the array. -/
def State.strokeBare (s : State) (d c a : Nat) : Bool :=
  let k := s.core d c
  (s.arr d c a).lastCmd != s.stroke + 1 &&
    (match k.block with
      | some b => !s.blockNames d c a b b.len (b.base + 1)
      | none => !s.runsSlots || k.queue.isEmpty || k.compared == s.stroke + 1)

/-- The pass of a stroke without a command is due (R113). -/
def State.idleFill (s : State) (d c a : Nat) : Bool :=
  s.strokes.running && s.stroke % 8 == 0 && (s.arr d c a).lastIdle != s.stroke + 1 && s.strokeBare d c a

/-- Take the pass that is due: one that a past gap owes, one in a gap that firmware inserted, or the one of a stroke without
a command. Answers whether it is the first of its gap. -/
def State.fillTake (s : State) (d c a : Nat) : Option (Bool × Arr) :=
  let x := s.arr d c a
  match x.gaps with
  | (n, first) :: rest => some (first, { x with gaps := if n ≤ 1 then rest else (n - 1, false) :: rest })
  | [] =>
    if 0 < x.inserted then some (true, { x with inserted := x.inserted - 1 })
    else if s.idleFill d c a then some (true, { x with lastIdle := s.stroke + 1, gateFrom := x.gateFrom + 64 })
    else none

/-- What a pass in a stroke does for the passes that staged work needs (R435). -/
def Arr.covered (x : Arr) (stroke : Nat) : Option (Nat × Nat) :=
  match x.cover with
  | none => none
  | some (j, left) =>
    if stroke ≤ j then x.cover
    else if 1 < left then some (j, left - 1)
    else if j + 1 < x.work then some (x.work - 1, 16) else none

/-- The record of a pass is compared: the first pass of a gap runs the pattern that a repeat owes, and leaves `NEXT_PAT`; a
repeat that mismatches withdraws the array and quarantines its core (R114, R115, R438). -/
def State.fillCheck (s : State) (d c a : Nat) (rec : BitVec 128) (first : Bool) : State :=
  let b := Base.core d c
  let owed := if first then s.findRetest d c a else none
  match owed with
  | some r =>
    if rec = Config.fillRecord r.pattern then
      s.setRetest d c a (if r.left ≤ 1 then none else some { r with left := r.left - 1 })
    else
      let s := ((s.fillBad d c a r.pattern).setRetest d c a none).put b Reg.withdrawn 1 a
      s.quarantine (uid d c) 0x03 c (r.pattern * 16 + a)
  | none =>
    let p := s.get b Reg.nextPat a
    let s := s.put b Reg.nextPat ((p + 1) % 16) a
    if rec = Config.fillRecord p then s
    else
      let s := s.fillBad d c a p
      if (s.findRetest d c a).isSome then s
      else s.setRetest d c a (some { die := d, core := c, arr := a, pattern := p, left := 2, failed := false })

/-- A fill pass of array `a`, with its record, where R113 or firmware's schedule places one: 64 cycles, during which a free
array shows `MODE` 0b111. `begins` tells the first pass of a gap from another; the pass that is due is the one that runs. -/
def State.fillPass (s : State) (d c a : Nat) (rec : BitVec 128) (begins : Bool) : State :=
  let b := Base.core d c
  if !s.coreUp d c || s.get b Reg.withdrawn a == 1 || s.pins.gated || !s.awake then s
  else
    match s.fillTake d c a with
    | none => s
    | some (first, x) =>
      if begins ≠ first then s
      else
        let (rem, s) := s.kcyc d c a Reg.fillKcyc x.fillRem 64
        let s := s.setArr d c a { x with fillRem := rem, lastFill := s.stroke + 1, cover := x.covered s.stroke }
        let s := (s.count b Reg.fillPasses 1 a).fillCheck d c a rec first
        if s.get b Reg.arrMode a = 0 then s.put b Reg.arrMode 7 a else s

def execFillPass (die : DieNo) (core : CoreNo) (arr : Fin 8) (record : BitVec 128) (first : Bool) (s : State) :
    Host.Outcome State Fault Refusal :=
  .next (s.fillPass die.val core.val arr.val record first)

/-- Array cycles of a stroke without spread-spectrum (R45). -/
def State.strokeCycles (s : State) : Nat := (s.boot.image.map fun i => i.strokeUs * i.arrayMhz).getD 0

/-- The cycles for which an array's gap still lasts gated at a moment: from 84 cycles after its
last issue, once the gap has lasted 2,000, or since reset where it has had no command. -/
def Arr.gatedNow (x : Arr) (now : Nat) : Nat := if !x.used || decide (x.ready + 2000 ≤ now) then now - x.gateFrom else 0

/-- An array's gated cycles up to a cycle of the stroke in progress are counted, in thousands (R113, Table 03.19). -/
def State.clockGate (s : State) (d c a cycle : Nat) : State :=
  if s.awake && s.coreUp d c then
    let x := s.arr d c a
    let n := x.gatedNow (s.strokes.cycles + min cycle s.strokeCycles)
    let (rem, s) := s.kcyc d c a Reg.gatedKcyc x.gatedRem (x.gate + n)
    s.setArr d c a { x with gatedRem := rem, gate := 0, gateFrom := x.gateFrom + n }
  else s

def execArrayClockGate (die : DieNo) (core : CoreNo) (arr : Fin 8) (cycles : W32) (s : State) :
    Host.Outcome State Fault Refusal :=
  .next (s.clockGate die.val core.val arr.val cycles.toNat)

/-- Firmware's schedule at a frame boundary inserts gaps for the passes that would otherwise not have run in time: one in
every D strokes (R116), and sixteen within D strokes of a staged unit's work (R435). An array without a command has its
passes by R113 alone, one every 8 strokes, and D is at least 16. -/
def State.fillPlan (s : State) : State :=
  let due (j : Nat) : Bool := decide (j + s.get Base.device Reg.sealWait < s.stroke + s.frame)
  s.cores.foldl (fun s k =>
    let d := k.1 / 48
    let c := k.1 % 48
    if !s.coreUp d c then s
    else k.2.arrays.foldl (fun s p =>
      let x := s.arr d c p.1
      let one := if x.used && due (x.lastFill - 1) then 1 else 0
      let more := match x.cover with
        | some (j, left) => if due j then left else 0
        | none => 0
      if s.get (Base.core d c) Reg.withdrawn p.1 = 1 then s
      else s.setArr d c p.1 { x with inserted := max x.inserted (max one more) }) s) s

end Sys2Proof.Machine
end

