-- ==== Sys2Proof/Machine/Vector.lean ====
section
/-! DEFINITION. The vector engine: the VEC command, its checks, its operations and its occupancy (R129, R152–R162). -/

namespace Sys2Proof.Machine

/-- The fields of a VEC (Table 04.7): offsets of the windows, and step modes. -/
structure Vec where
  op : Nat
  ifmt : Nat
  ofmt : Nat
  count : Nat
  dst : Nat
  a : Nat
  sa : Nat
  b : Nat
  sb : Nat
  c : Nat
  sc : Nat
  imm : Nat
deriving DecidableEq, Repr

def State.vecOf (s : State) (d c : Nat) (ws : List Word) : Vec :=
  let w0 := ws.getD 0 0
  let w1 := ws.getD 1 0
  let w2 := ws.getD 2 0
  { op := bits w0 39 32, ifmt := bits w0 31 28, ofmt := bits w0 27 24, count := bits w0 23 0,
    dst := s.effOff d c (bits w1 63 61) (bits w1 60 50) 4096,
    a := s.effOff d c (bits w1 47 45) (bits w1 44 34) 4096, sa := bits w1 33 32,
    b := s.effOff d c (bits w1 31 29) (bits w1 28 18) 4096, sb := bits w1 17 16,
    c := s.effOff d c (bits w2 63 61) (bits w2 60 50) 4096, sc := bits w2 49 48, imm := bits w2 31 0 }

/-! Kinds of operation (Table 05.2) -/

def vopKnown (op : Nat) : Bool :=
  (decide (0x01 ≤ op) && decide (op ≤ 0x16)) || (decide (0x20 ≤ op) && decide (op ≤ 0x26)) || op == 0x30
/-- Row operations, and those that write one value a row. -/
def vopRow (op : Nat) : Bool := decide (0x20 ≤ op) && decide (op ≤ 0x26)
def vopPerRow (op : Nat) : Bool := decide (0x20 ≤ op) && decide (op ≤ 0x23)
/-- Transcendental operations. -/
def vopT (op : Nat) : Bool := (decide (0x10 ≤ op) && decide (op ≤ 0x16)) || op == 0x24
def vopPlaneOut (op : Nat) : Bool := op == 0x0C || op == 0x0D
def vopPlaneC (op : Nat) : Bool := op == 0x0E || op == 0x0F
/-- Operations marked P. -/
def vopPacked (op : Nat) : Bool := decide (op ≤ 0x0B) || op == 0x0F
/-- Sources b and c, element for element. -/
def vopB (op : Nat) : Bool :=
  [0x02, 0x03, 0x04, 0x05, 0x06, 0x08, 0x09, 0x0C, 0x0E, 0x15, 0x23].contains op
def vopC (op : Nat) : Bool := op == 0x05 || vopPlaneC op
/-- Per-row sources. -/
def vopRowB (op : Nat) : Bool := op == 0x24 || op == 0x25 || op == 0x26
def vopRowC (op : Nat) : Bool := op == 0x26

/-- Elements in a row. -/
def Vec.row (q : Vec) : Nat := 32 * (q.imm % 65536)
def Vec.rows (q : Vec) : Nat := if q.row = 0 then 0 else q.count / q.row

/-! Operand extents -/

/-- Bytes of elements of a format. -/
def fmtBytes (code n : Nat) : Nat := ceilDiv (n * elemBits code) 8

/-- Bytes of the destination. -/
def Vec.dstBytes (q : Vec) : Nat :=
  if vopPlaneOut q.op then ceilDiv q.count 8
  else if vopPerRow q.op then 4 * q.rows
  else if q.op = 0x30 then fmtBytes q.ofmt q.count + q.count / 32
  else fmtBytes q.ofmt q.count

/-- Bytes of a source in a step mode, of elements of `bitsPer` bits. -/
def srcBytes (mode bitsPer count : Nat) : Nat :=
  if mode = 0 then ceilDiv (count * bitsPer) 8 else if mode = 1 then 4096 else 64

/-- The sources that a command reads: offset, step mode, bytes and bits of an element. -/
def Vec.sources (q : Vec) : List (Nat × Nat × Nat × Nat) :=
  let s (off mode bitsPer n : Nat) := (off, mode, srcBytes mode bitsPer n, bitsPer)
  [s q.a q.sa (elemBits q.ifmt) q.count] ++
    (if vopB q.op then [s q.b q.sb (elemBits q.ifmt) q.count] else []) ++
    (if vopRowB q.op then [s q.b 0 32 q.rows] else []) ++
    (if vopC q.op then [s q.c q.sc (if vopPlaneC q.op then 1 else elemBits q.ifmt) q.count] else []) ++
    (if vopRowC q.op then [s q.c 0 32 q.rows] else [])

def meets (a n b m : Nat) : Bool := decide (a < b + m) && decide (b < a + n) && decide (0 < n) && decide (0 < m)

/-- Bits of an element of the destination. -/
def Vec.dstBits (q : Vec) : Nat := if vopPlaneOut q.op then 1 else if vopPerRow q.op then 32 else elemBits q.ofmt

/-- A source overlaps the destination in a way that R152 forbids. -/
def Vec.clash (q : Vec) (src : Nat × Nat × Nat × Nat) : Bool :=
  meets q.dst q.dstBytes src.1 src.2.2.1 && !(src.2.1 == 0 && src.2.2.2 == q.dstBits && src.1 == q.dst)

/-- The causes that apply (R126, R129, R152–R158). -/
def State.vecCauses (s : State) (d c : Nat) (q : Vec) : List Nat :=
  let inOk := [0x0, 0x1, 0x2, 0x3, 0x4, 0x5, 0x8, 0x9].contains q.ifmt
  let outOk :=
    if vopPlaneOut q.op then true
    else if q.op = 0x30 then q.ofmt == 0x7 || q.ofmt == 0x2 || q.ofmt == 0x3
    else if vopPerRow q.op then q.ofmt == 0x8
    else [0x0, 0x1, 0x2, 0x3, 0x4, 0x8, 0x9].contains q.ofmt || (q.op == 0x01 && q.ofmt == Code.pair)
  let rowBad := (vopRow q.op || q.op == 0x30) && (q.row == 0 || q.count % q.row != 0)
  let modes := q.sa == 3 || q.sb == 3 || q.sc == 3 || (vopRowB q.op && q.sb != 0) || (vopRowC q.op && q.sc != 0)
  let c2 := q.count == 0 || !vopKnown q.op || !inOk || !outOk || rowBad || modes ||
    (vopT q.op && (floatFmt q.ifmt).isNone)
  if c2 then [0x2]
  else
    let bad := !(s.offOk d c q.dst 4096 q.dstBytes) || q.sources.any fun x => !(s.offOk d c x.1 4096 x.2.2.1)
    if bad || q.sources.any q.clash then [0x3] else []

/-! Values -/

/-- The encoding of element `e` of a source: from an advancing source by its place, from a window modulo its elements, from
a scalar its first. -/
def srcElem (mode code : Nat) (es : List Nat) (e : Nat) : Nat :=
  if mode = 0 then es.getD e 0 else if mode = 1 then es.getD (e % (32768 / elemBits code)) 0 else es.getD 0 0

/-- Bit `e` of a plane source. -/
def planeBit (mode : Nat) (bs : List Byte) (e : Nat) : Bool :=
  let i := if mode = 0 then e else if mode = 1 then e % 32768 else 0
  (bs.getD (i / 8) 0).getLsbD (i % 8)

/-- A value as it is written: a floating-point result to an integer format is rounded to nearest even and saturated, NaN
giving 0. -/
def vecOut (code : Nat) (v : Num) : Nat :=
  match v with
  | .int _ => outCode code false 0 v
  | .fp f =>
    if code = Code.int8 ∨ code = Code.int32 then
      let w := elemBits code
      let top : Int := 2 ^ (w - 1)
      match f with
      | .nan => 0
      | .inf neg => unsgn w (if neg then -top else top - 1)
      | f => unsgn w (max (-top) (min (top - 1) ((f.toInt).getD 0)))
    else outCode code false 0 v

/-- The sign of an element: the top bit of its encoding; UINT8 has none. -/
def signOf (code x : Nat) : Bool := code != Code.uint8 && x / 2 ^ (elemBits code - 1) % 2 == 1

/-- An operation on integers, in INT32, wrapping. A negative limit of `CLAMP` limits no magnitude: its result is free. -/
def vecInt (op : Nat) (a b c imm : Int) (plane : Bool) : Int :=
  let r :=
    match op with
    | 0x02 => a + b
    | 0x03 => a - b
    | 0x04 => a * b
    | 0x05 => a * b + c
    | 0x06 => a * imm + b
    | 0x07 => a * imm
    | 0x08 => max a b
    | 0x09 => min a b
    | 0x0A => (a.natAbs : Int)
    | 0x0B => if imm < 0 then ((Config.approx 0x0B (unsgn 32 a) (unsgn 32 imm)).toNat : Int)
      else if imm < (a.natAbs : Int) then (if a < 0 then -imm else imm) else a
    | 0x0E => if plane then a else b
    | 0x0F => if plane then a * imm else 0
    | _ => a
  sgn 32 (unsgn 32 r)

/-- An operation on floating-point values, exact; the caller rounds once. -/
def vecFp (op : Nat) (a b c imm : Fv) (plane : Bool) : Fv :=
  match op with
  | 0x02 => a.add b
  | 0x03 => a.sub b
  | 0x04 => a.mul b
  | 0x05 => (a.mul b).add c
  | 0x06 => (a.mul imm).add b
  | 0x07 => a.mul imm
  | 0x08 => a.max b
  | 0x09 => a.min b
  | 0x0A => a.abs
  | 0x0B =>
    if imm.isNan || imm.lt Fv.zero then f32 (Config.approx 0x0B (f32enc a) (f32enc imm)).toNat
    else if imm.lt a.abs then (if a.lt Fv.zero then imm.neg else imm) else a
  | 0x0E => if plane then a else b
  | 0x0F => if plane then a.mul imm else Fv.zero
  | _ => a

/-! Transcendental operations (R157, Table 05.3) -/

/-- 2^y with the special exponents of Table 05.3. -/
def exp2Of (free : W32) (y : Fv) : Nat :=
  if y.isNan then 0x7FC00000
  else if (Fv.ofInt 128).lt y then 0x7F800000
  else if y.lt (Fv.ofInt (-150)) then 0
  else within 2 free (exp2Fv y)

/-- a / (1 + e^−a) of a finite value. -/
def siluFv (a : Fv) : Fv :=
  if (Fv.ofInt 2048).lt a then a
  else if a.lt (Fv.ofInt (-2048)) then .fin true 0 0
  else a.div ((Fv.ofInt 1).add (expFv a.neg))

/-- tanh of a finite value. -/
def tanhFv (a : Fv) : Fv :=
  if (Fv.ofInt 64).lt a.abs then (if a.lt Fv.zero then Fv.ofInt (-1) else Fv.ofInt 1)
  else if a.abs.lt (.fin false 1 (-10)) then
    let q := a.mul a
    (a.mul (((Fv.ofInt 15).sub (q.mul (Fv.ofInt 5))).add ((q.mul q).mul (Fv.ofInt 2)))).div (Fv.ofInt 15)
  else
    let e := expFv (a.mul (Fv.ofInt (-2)))
    ((Fv.ofInt 1).sub e).div ((Fv.ofInt 1).add e)

/-- The FP32 result of a transcendental operation on FP32 encodings `x` of a and `y` of b. Where the manual states no
result it is the free value. -/
def vecT (op x y imm : Nat) : Nat :=
  let a := f32 x
  let b := f32 y
  let free := Config.approx op x (if op = 0x10 then imm else if op = 0x15 then y else 0)
  if a.isNan then 0x7FC00000
  else
    match op with
    | 0x10 => exp2Of free (a.mul (f32 imm))
    | 0x11 =>
      if a.isZero then 0xFF800000
      else if a.lt Fv.zero then 0x7FC00000
      else match a with
        | .fin _ _ _ => within 2 free (log2Fv a)
        | _ => 0x7F800000
    | 0x12 => if a.isFinite && !a.isZero then within 2 free ((Fv.ofInt 1).div a) else f32enc ((Fv.ofInt 1).div a)
    | 0x13 =>
      if a.isZero then (if x = 0 then 0x7F800000 else free.toNat)
      else if a.lt Fv.zero then 0x7FC00000
      else match a with
        | .fin _ _ _ => within 2 free ((Fv.ofInt 1).div a.sqrt)
        | _ => 0
    | 0x14 =>
      match a with
      | .fin _ _ _ => within 2 free (siluFv a)
      | .inf false => 0x7F800000
      | _ => free.toNat
    | 0x15 =>
      if b.isNan then 0x7FC00000
      else match a with
        | .fin _ _ _ =>
          if b.isFinite then within 2 free ((siluFv a).mul b) else f32enc ((siluFv a).mul b)
        | .inf false => f32enc (a.mul b)
        | _ => free.toNat
    | _ => match a with
      | .fin _ _ _ => within 2 free (tanhFv a)
      | .inf neg => if neg then 0xBF800000 else 0x3F800000
      | .nan => 0x7FC00000

/-! Rows (R156) -/

/-- Combine values pairwise. -/
def pairUp (f : Nat → Nat → Nat) : List Nat → List Nat
  | a :: b :: l => f a b :: pairUp f l
  | l => l

/-- One lane cycle's 256 values through the 8 levels of the tree. -/
def laneTree (f : Nat → Nat → Nat) (pad : Nat) (l : List Nat) : Nat :=
  (repeatN (pairUp f) 8 (l ++ List.replicate (256 - l.length) pad)).getD 0 pad

/-- Reduce a row: its lane cycles in order, into an accumulator. -/
def rowReduce (f : Nat → Nat → Nat) (pad : Nat) (l : List Nat) : Nat :=
  (chunks 256 l.length l).foldl (fun acc c => f acc (laneTree f pad c)) pad

/-- One value for a row of FP32 encodings of a and b. -/
def rowValue (op : Nat) (as bs : List Nat) : Nat :=
  match op with
  | 0x20 => rowReduce f32add 0 as
  | 0x21 => rowReduce f32max 0xFF800000 as
  | 0x22 => rowReduce f32add 0 (as.map fun a => f32mul a a)
  | _ => rowReduce f32add 0 (List.zipWith f32mul as bs)

/-- An element of a row with its row's values and the factor f: its exact value, or for `ROWEXP` its FP32 result. -/
def rowElem (op : Nat) (a b c f : Fv) (key : Nat) : Fv :=
  match op with
  | 0x24 =>
    let y := (a.sub b).mul f
    f32 (exp2Of (Config.approx op key (f32enc y)) y)
  | 0x25 => (a.mul b).mul f
  | _ => ((a.sub b).mul c).mul f

/-! The command -/

/-- Pack bits, eight to a byte. -/
def packBits (bs : List Bool) : List Byte :=
  (chunks 8 bs.length bs).map fun c => BitVec.ofNat 8 (maskOf ((List.range 8).filter fun i => c.getD i false))

/-- The bytes that a command writes, from the bytes of its sources a, b and c. -/
def vecBytes (q : Vec) (ba bb bc : List Byte) : List Byte :=
  let es := unpack q.ifmt ba
  let eb := unpack q.ifmt bb
  let ec := unpack q.ifmt bc
  let idx := List.range q.count
  let ra (e : Nat) : Nat := srcElem q.sa q.ifmt es e
  let va (e : Nat) : Num := elemNum q.ifmt (ra e)
  let vb (e : Nat) : Num := elemNum q.ifmt (srcElem q.sb q.ifmt eb e)
  let vc (e : Nat) : Num := if vopPlaneC q.op then .fp Fv.zero else elemNum q.ifmt (srcElem q.sc q.ifmt ec e)
  let pc (e : Nat) : Bool := vopPlaneC q.op && planeBit q.sc bc e
  let x32 (v : Num) : Nat := f32enc v.toFv
  let isInt := (floatFmt q.ifmt).isNone && (q.ofmt == Code.int8 || q.ofmt == Code.int32)
  let i (v : Num) : Int := match v with
    | .int n => n
    | .fp _ => 0
  if q.op = 0x0C then packBits (idx.map fun e => (vb e).toFv.lt (va e).toFv)
  else if q.op = 0x0D then packBits (idx.map fun e => signOf q.ifmt (ra e))
  else if vopPerRow q.op then
    (List.range q.rows).flatMap fun r =>
      let cols := (List.range q.row).map fun j => r * q.row + j
      leBytes 4 (rowValue q.op (cols.map fun e => x32 (va e)) (cols.map fun e => x32 (vb e)))
  else if q.op = 0x30 then
    ((List.range q.rows).flatMap fun r =>
      mxRowBytes q.ofmt (mxRow q.ofmt ((List.range q.row).map fun j => (va (r * q.row + j)).toFv)))
  else
    let vals : List Num :=
      if vopRow q.op then
        let rb := unpack Code.fp32 bb
        let rc := unpack Code.fp32 bc
        let f := Fmt.bf16.dec (q.imm / 65536)
        idx.map fun e =>
          .fp (rowElem q.op (va e).toFv (f32 (rb.getD (e / q.row) 0)) (f32 (rc.getD (e / q.row) 0)) f (x32 (va e)))
      else if vopT q.op then idx.map fun e => .fp (f32 (vecT q.op (x32 (va e)) (x32 (vb e)) q.imm))
      else if isInt then idx.map fun e => .int (vecInt q.op (i (va e)) (i (vb e)) (i (vc e)) (sgn 32 q.imm) (pc e))
      else idx.map fun e => .fp (vecFp q.op (va e).toFv (vb e).toFv (vc e).toFv (f32 q.imm) (pc e))
    if q.ofmt = Code.pair then
      let ps := vals.map fun v => outCode Code.pair false 0 v
      ps.flatMap (fun x => leBytes 2 (x / 2 ^ 16)) ++ ps.flatMap fun x => leBytes 2 x
    else pack q.ofmt (vals.map (vecOut q.ofmt))

/-! Occupancy, chains and hazards (R137, R159–R161) -/

/-- Lane cycles. -/
def Vec.lanes (q : Vec) : Nat :=
  if vopRow q.op then q.rows * ceilDiv q.row (if q.op = 0x24 then 64 else 256)
  else if vopT q.op then ceilDiv q.count 64
  else if vopPacked q.op && elemBits q.ifmt != 32 && elemBits q.ofmt != 32 then ceilDiv q.count 512
  else ceilDiv q.count 256

/-- The command is chained to the one before it. -/
def Vec.chained (q : Vec) : Option VecPrev → Bool
  | none => false
  | some p => q.sa == 0 && q.a == p.dst && q.count == p.count && p.ofmt == some q.ifmt && decide (p.chain < 4)

/-- It reads where the one before it writes. -/
def Vec.hazard (q : Vec) : Option VecPrev → Bool
  | none => false
  | some p => q.sources.any fun x => meets p.dst p.bytes x.1 x.2.2.1

/-- Bytes per 64 cycles that R137 leaves beside the arrays in issue at a cycle, counted as `Strokes.cycles` is. -/
def State.arraysShare (s : State) (d c t : Nat) : Nat :=
  let f := (List.range 8).foldl (fun f a =>
    let x := s.arr d c a
    if t < x.ready then f + ceilDiv (64 * x.feed.1) x.feed.2 else f) 0
  64 * 2048 - f - 2048

/-- A channel of the core runs or rows wait for its append drain. -/
def State.scheduled (s : State) (d c : Nat) : Bool :=
  !(s.core d c).rows.isEmpty || (List.range 4).any fun ch => s.chSt d c ch == 1 || s.chSt d c ch == 2

/-- The share G of R159: what the DMA channels and the append drain are scheduled to move over the same cycles is taken off.
The compiled program's schedule, which fixes it, has no form in the manual: while such traffic is under way it is a free value,
nothing else (log 79). -/
def State.vecShare (s : State) (d c t : Nat) : Nat × State :=
  let g := s.arraysShare d c t
  if s.scheduled d c then
    let (w, s) := s.draw
    (max 64 (g - w.toNat), s)
  else (max 64 g, s)

/-- The occupancy V (R159). -/
def State.vecOccupancy (s : State) (d c t : Nat) (q : Vec) (prev : Option VecPrev) : Nat × State :=
  let chained := q.chained prev
  let moved := q.dstBytes + (q.sources.mapIdx fun i x => if i = 0 ∧ chained = true then 0 else x.2.2.1).foldl (· + ·) 0
  let lane := q.lanes + if q.hazard prev && !chained then 24 else 0
  let (g, s) := s.vecShare d c t
  (max lane (ceilDiv (64 * moved) g), s)

/-- The bytes of source `i` of a command. -/
def State.vecSource (s : State) (d c : Nat) (src : Option (Nat × Nat × Nat × Nat)) : List Byte × State :=
  match src with
  | some x => s.loadBytes (scratchAddr d c x.1) x.2.2.1
  | none => ([], s)

/-- Sources a, b and c in their places. -/
def Vec.srcs (q : Vec) : List (Option (Nat × Nat × Nat × Nat)) :=
  let l := q.sources
  let hasB := vopB q.op || vopRowB q.op
  let hasC := vopC q.op || vopRowC q.op
  [l[0]?, if hasB then l[1]? else none, if hasC then (if hasB then l[2]? else l[1]?) else none]

/-- Source a: of a chained command what the one before it wrote, from its result path; else from the scratchpad (R160). -/
def State.vecFirst (s : State) (d c : Nat) (q : Vec) (prev : Option VecPrev) : List Byte × State :=
  match q.chained prev, prev with
  | true, some p => (p.out, s)
  | _, _ => s.vecSource d c (q.srcs.getD 0 none)

/-- A VEC issues when the engine accepts it, reads its sources and writes its destination. -/
def State.vecRun (s : State) (d c : Nat) (b : BlockRun) (ws : List Word) (q : Vec) : State :=
  let w0 := ws.getD 0 0
  let ready := (s.core d c).vready - b.edge
  let t := issueAt b w0 ready
  let (v, s) := s.vecOccupancy d c (b.edge + t) q b.vprev
  let chain := match b.vprev with
    | some p => if q.chained b.vprev then p.chain + 1 else 1
    | none => 1
  let ra := s.vecFirst d c q b.vprev
  let rb := ra.2.vecSource d c (q.srcs.getD 1 none)
  let rc := rb.2.vecSource d c (q.srcs.getD 2 none)
  let out := vecBytes q ra.1 rb.1 rc.1
  let prev : VecPrev :=
    { dst := q.dst, bytes := q.dstBytes, count := q.count, out := out, chain := chain,
      ofmt := if vopPlaneOut q.op || vopPerRow q.op || q.op == 0x30 then none else some q.ofmt }
  let s := rc.2.issue d c { b with done := max b.done (t + v + 24), vprev := some prev } w0 ready 2
  (s.setCore d c { s.core d c with vready := b.edge + t + v }).storeBytes (scratchAddr d c q.dst) out

def State.seqVec (s : State) (d c : Nat) : State :=
  s.seqCmd d c 0x09 (fun _ ws => s.vecCauses d c (s.vecOf d c ws)) fun b ws => s.vecRun d c b ws (s.vecOf d c ws)

def execVec (die : DieNo) (core : CoreNo) (s : State) : Host.Outcome State Fault Refusal :=
  .next (s.seqVec die.val core.val)

end Sys2Proof.Machine
end

