-- ==== Sys2Proof/Machine/Programs.lean ====
section
/-! DEFINITION. Compiled programs: the check of their templates (R120, R138), the binding of their logical cores (R415) and
the writing of the command stores (R121). -/

namespace Sys2Proof.Machine

/-! The check of a template (R120, R138): its block is run on a scratch copy of the device, in which every wait is satisfied
as R138 assumes; nothing of the copy outlives the check. -/

/-- A template's run: the scratch copy, the number of the next command (R135), when each channel's program ends, and the
latest completion so far. -/
structure Bench where
  s : State
  next : Nat
  ends : Cells Nat
  done : Nat

/-- The time that R61 gives a collective of a core over a group. -/
def State.collTime (s : State) (group : List (Nat × Nat)) : Nat :=
  let c := fabricFlight s.fabric
  52 + ((List.range 4).map fun k =>
    let (lo, hi) := s.run group k
    let n := hi + 1 - lo
    let h := if s.isRing group k then n / 2 else n - 1
    if n ≤ 1 then 0 else 44 + h * c + (h - 1) * 88 + 44 + 8).foldl (· + ·) 0

/-- The latest completion that the copy's block has fixed, or `v`. -/
def Bench.upTo (x : Bench) (d c v : Nat) : Bench :=
  { x with done := max (max x.done v) (((x.s.core d c).block.map (·.done)).getD 0) }

/-- The last issue cycle in the copy. -/
def Bench.at (x : Bench) (d c : Nat) : Nat := ((x.s.core d c).block.map (·.last)).getD 0

/-- The copy runs its next command; a word that is no command ends the block there. -/
def Bench.step (x : Bench) (d c : Nat) (t : Template) (b : BlockRun) : Bench :=
  let s := x.s
  let w := s.fetch d c b.pc
  let w1 := s.fetch d c (b.pc + 1)
  let said := ((t.assumed.find? fun p => p.1 == x.next).map (·.2)).getD 0
  let ch := bits w 39 38
  let free := cget (fun _ => 0) x.ends ch + 1
  let y (s : State) : Bench := { x with s := s, next := x.next + 1 }
  let plain (op nw : Nat) (causes : List Word → List Nat) : State :=
    s.seqCmd d c op (fun _ ws => causes ws) fun b ws => s.issue d c b (ws.getD 0 0) 0 nw
  match bits w 63 58 with
  | 0x02 => (y (s.seqEnd d c)).upTo d c 0
  | 0x03 => { x with s := s.seqLoop d c }
  | 0x04 => y (s.seqParam d c 0x04 fun _ v => v)
  | 0x05 => y (s.seqParam d c 0x05 fun p v => (p + v) % 2 ^ 32)
  | 0x06 => y ((s.put (Base.core d c) Reg.evc (2 ^ 24 - 1) (bits w 39 36)).seqWait d c said)
  | 0x07 => y (s.seqSignal d c)
  | 0x08 => (y (s.seqMatmul d c)).upTo d c 0
  | 0x09 => (y (s.seqVec d c)).upTo d c 0
  | 0x0A =>
    let x := y ((s.setChSt d c ch 0).seqDmaStart d c free)
    let x := { x with ends := cset (fun _ => 0) x.ends ch (max said (x.at d c)) }
    if bit w 37 then x else x.upTo d c (max said (x.at d c))
  | 0x0B => (y (s.seqDmaStop d c)).upTo d c (max said (free - 1))
  | 0x0C =>
    let x := y (plain 0x0C 1 fun ws => s.collCauses d c ws)
    x.upTo d c (x.at d c + s.collTime (s.collGroup d c (bits w 29 28)))
  | 0x0D =>
    let x := y (plain 0x0D 1 fun ws => s.pmCauses d c ws)
    x.upTo d c (if pmSub [w, w1] = 0 then x.at d c + 40 + 4 * pmN [w, w1] else 0)
  | 0x0E => y (plain 0x0E 1 fun ws => s.lkCauses d c ws)
  | _ => y (s.malformed d c 0x1 b.pc)

/-- Run the copy to its `END`: no command malformed, and its completion within `BUDGET`. -/
def Bench.passes (t : Template) (d c : Nat) : Nat → Bench → Bool
  | 0, _ => false
  | fuel + 1, x =>
    match (x.s.core d c).block with
    | none => false
    | some b =>
      if b.ended then decide (x.done ≤ 120 + x.s.get Base.device Reg.budget)
      else if 120 + x.s.get Base.device Reg.budget < b.last then false
      else Bench.passes t d c fuel (x.step d c t b)

/-- The store of a logical core. -/
def storeCells (k : LogicalCore) : Cells Word :=
  k.store.foldl (fun m w => cset (fun _ => 0) m w.1.toNat w.2) []

/-- A template on the core that its logical core is bound to. Each command takes a cycle, and up to four loops open between
two of them, so that many turns reach the end of every block that could complete in time. -/
def State.templateOk (s : State) (ctx : Nat) (p : Program) (bound : List (Option Nat)) (t : Template) : Bool :=
  match p.cores[t.core]?, bound.getD t.core none with
  | some k, some g =>
    let d := g / 48
    let c := g % 48
    let w (i : Nat) : Word := word ((t.params.getD (i + 1) 0).toNat * 2 ^ 32 + (t.params.getD i 0).toNat)
    let s := (s.setCore d c { Core.new with store := storeCells k }).startBlock d c
      [word (ctx * 2 ^ 44 + 3 * 2 ^ 40 + t.start.toNat * 2 ^ 28), 0, w 0, w 2]
    Bench.passes t d c (5 * (s.get Base.device Reg.budget + 2)) { s := s, next := 1, ends := [], done := 0 }
  | _, _ => false

/-! Placement (R415) -/

/-- Bytes of an extent that lie in a range. -/
def overlap (e : Nat × Nat) (lo n : Nat) : Nat := min (e.1 + e.2) (lo + n) - max e.1 lo

def residentIn (k : LogicalCore) (lo n : Nat) : Nat := k.reads.foldl (fun t e => t + overlap e lo n) 0
def residentBytes (k : LogicalCore) : Nat := residentIn k (scratchAddr 0 0 0) (2 ^ 33)

/-- The best of the candidates for a logical core: most bytes in the core's scratchpad, then elsewhere in its die store,
then the fewest cores of its die bound, then the lowest number. -/
def corePick (k : LogicalCore) (taken cand : List Nat) : Option Nat :=
  let all := residentBytes k
  minBy (fun g =>
    let here := residentIn k (scratchAddr (g / 48) (g % 48) 0) (2 ^ 24)
    let die := residentIn k (scratchAddr (g / 48) 0 0) (2 ^ 30) - here
    (((all - here) * (all + 1) + (all - die)) * 1024 + (taken.filter fun h => h / 48 == g / 48).length) * 512 + g) cand

/-- The logical cores by descending resident bytes, equal ones in their order. -/
def bindOrder (ks : List LogicalCore) : List (Nat × LogicalCore) :=
  ks.zipIdx.foldl (fun l p =>
    l.takeWhile (fun q => decide (residentBytes p.1 ≤ residentBytes q.2)) ++ [(p.2, p.1)] ++
      l.dropWhile (fun q => decide (residentBytes p.1 ≤ residentBytes q.2))) []

/-- The core that each logical core of a program is bound to. -/
def State.placement (s : State) (ctx : Nat) (p : Program) : List (Option Nat) :=
  let set := s.coreSet ctx
  let got := (bindOrder p.cores).foldl (fun (l : List (Nat × Nat)) q =>
    let taken := l.map (·.2)
    match corePick q.2 taken (set.filter fun g => !taken.contains g) with
    | some g => l ++ [(q.1, g)]
    | none => l) []
  (List.range p.cores.length).map fun j => (got.find? fun q => q.1 == j).map (·.2)

/-- A die controller writes a word of a command store; one of the block that runs is left as it is, and the controller is
told (R121). -/
def State.storeWord (s : State) (d c : Nat) (w : BitVec 12 × Word) : State :=
  let k := s.core d c
  let i := w.1.toNat
  if (k.block.map fun b => decide ((i + 4096 - b.base % 4096) % 4096 < b.len)).getD false then s.reply Status.denied
  else s.setCore d c { k with store := cset (fun _ => 0) k.store i w.2 }

/-- The words of a program go into the stores of the cores that it is bound to (step 4 of Table 04.1). -/
def State.storeProgram (s : State) (p : Program) (bound : List (Option Nat)) : State :=
  (p.cores.zip bound).foldl (fun s kb =>
    match kb.2 with
    | some g => kb.1.store.foldl (fun s w => s.storeWord (g / 48) (g % 48) w) s
    | none => s) s

/-! What firmware refuses (R120, R223, R314) -/

/-- Kinds of kept tensors that Table 09.4 allows. -/
def keepOk (ks : List (BitVec 4)) : Bool := ks.all fun k => decide (1 ≤ k.toNat) && decide (k.toNat ≤ 3)

/-- Every logical core has a core of the set, and every template passes. -/
def State.programOk (s : State) (ctx : Nat) (p : Program) : Bool :=
  let b := s.placement ctx p
  p.accepted && keepOk p.keep && b.all (·.isSome) && p.templates.all fun t => s.templateOk ctx p b t

/-- The limits of Table 06.7 that a program sets. -/
def limitsOk (p : Program) : Bool :=
  decide (1 ≤ p.headDim32.toNat) && decide (p.headDim32.toNat ≤ 8) && decide (p.kvFmt.toNat ≤ 3) &&
    decide (1 ≤ p.kvHeads.toNat) && decide (p.kvHeads.toNat ≤ 16) && decide (1 ≤ p.layers) && decide (p.layers ≤ 256) &&
    decide (1 ≤ p.run) && decide (p.run ≤ 255) && (p.seqGroup == 0 || (decide (2 ≤ p.seqGroup) && decide (p.seqGroup ≤ 64)))

end Sys2Proof.Machine
end

