-- ==== Sys2Proof/Machine/Events.lean ====
section
/-! DEFINITION. Queue pairs: event records, completions, notification and the gate that every host command passes
(R418–R420, R469–R478). -/

namespace Sys2Proof.Machine

/-- The administrative queue. -/
def admQ : Nat := 16

def State.hq (s : State) (q : Nat) : HostQ := cget (fun _ => HostQ.new) s.um.queues q
def State.setHq (s : State) (q : Nat) (x : HostQ) : State :=
  { s with um := { s.um with queues := cset (fun _ => HostQ.new) s.um.queues q x } }

/-- Size and address of a queue's two parts: ADM_SQ and ADM_EQ place queue 16 (R472). -/
def State.sqLog (s : State) (q : Nat) : Nat := if q = admQ then s.get Base.umajo Reg.sqLog2 else bits (s.hq q).sq 55 48
def State.sqBase (s : State) (q : Nat) : Nat := if q = admQ then s.get Base.umajo Reg.sqAddr else bits (s.hq q).sq 47 0
def State.eqLog (s : State) (q : Nat) : Nat := if q = admQ then s.get Base.umajo Reg.eqLog2 else bits (s.hq q).eq 55 48
def State.eqBase (s : State) (q : Nat) : Nat := if q = admQ then s.get Base.umajo Reg.eqAddr else bits (s.hq q).eq 47 0

/-- `COALESCE` in µs. -/
def State.coalesceOf (s : State) (q : Nat) : Nat :=
  if q = admQ then s.get Base.umajo Reg.admCoalesce else (s.hq q).coalesce

/-- Whose traffic a queue's is. -/
def qCtx (q : Nat) : Option Nat := if q = admQ then none else some q

/-- The difference of two counts modulo 2^32. -/
def diff32 (a b : Nat) : Nat := (a + 2 ^ 32 - b) % 2 ^ 32

/-- Write words of a device's own to the host window, where the region lets them: a refusal is counted (R468). -/
def State.toHost (s : State) (ctx : Option Nat) (a : Nat) (ws : List Word) : State :=
  if hostBase ≤ a ∧ s.hostStatus ctx (a - hostBase) = Status.ok then s.hostWrite (ctx.getD 0) (a - hostBase) ws
  else s.refused 0x10 ctx 0 a

/-- The event queue has room for another record. -/
def State.eqRoom (s : State) (q : Nat) : Bool :=
  decide (6 ≤ s.eqLog q) &&
    decide (diff32 (s.get Base.umajo Reg.eqProduced q) (s.get Base.umajo Reg.eqConsumed q) < 2 ^ s.eqLog q)

/-- Tell the host of the records written. -/
def State.notify (s : State) (q : Nat) : State :=
  let n := s.get Base.umajo Reg.eqProduced q
  (s.setHq q { s.hq q with unseen := 0 }).umSend (umBare 0x04 0 ((qCtx q).getD 0) 0 (word (q * 2 ^ 32 + n)))

/-- Write a record: its number is filled in, then the record goes, then `PRODUCED`, then a notification where one is due
(R419, R470, R478). -/
def State.recordWrite (s : State) (q : Nat) (r : List Word) : State :=
  let i := s.get Base.umajo Reg.eqProduced q
  let w0 := r.headD 0
  let r := word (w0.toNat / 2 ^ 32 * 2 ^ 32 + i) :: r.drop 1
  let s := s.toHost (qCtx q) (s.eqBase q + 64 + 64 * (i % 2 ^ s.eqLog q)) r
  let n := (i + 1) % 2 ^ 32
  let s := (s.put Base.umajo Reg.eqProduced n q).toHost (qCtx q) (s.eqBase q) [word n]
  let s := s.setHq q { s.hq q with unseen := (s.hq q).unseen + 1 }
  if s.coalesceOf q = 0 ∨ 64 ≤ (s.hq q).unseen ∨ bits w0 63 60 = 6 then s.notify q else s

/-- A record arises: it follows those that wait; with queue and buffer full it is dropped, unless it completes a command,
and the next one written says so (R420). -/
def State.recordPut (s : State) (q : Nat) (r : List Word) : State :=
  let h := s.hq q
  let isCpl := bits (r.headD 0) 63 60 == 1
  let r := if h.overflow then word ((r.headD 0).toNat + 2 ^ 47) :: r.drop 1 else r
  if h.buffer.isEmpty && s.eqRoom q then (s.setHq q { h with overflow := false }).recordWrite q r
  else if h.buffer.length < 256 || isCpl then s.setHq q { h with overflow := false, buffer := h.buffer ++ [r] }
  else
    let s := s.setHq q { h with overflow := true }
    if q < 16 then s.count Base.contexts Reg.cxEvDropped 1 q else s

/-- Write records that wait while there is room. -/
def State.recordFlush (s : State) (q : Nat) : Nat → State
  | 0 => s
  | fuel + 1 =>
    match (s.hq q).buffer with
    | [] => s
    | r :: rest =>
      if s.eqRoom q then ((s.setHq q { s.hq q with buffer := rest }).recordWrite q r).recordFlush q fuel else s

/-- An event record (Table 14.10), its number still open. -/
def eventRec (kind status ctx opcode tag handle : Nat) (hostRef : Word) (stroke : Nat) (results : List Word) :
    List Word :=
  [word (kind * 2 ^ 60 + status * 2 ^ 52 + ctx * 2 ^ 48 + opcode * 2 ^ 32), word (tag * 2 ^ 32 + handle), hostRef,
   word stroke] ++ (results ++ [0, 0, 0, 0]).take 4

/-- An event that no command caused. -/
def State.event (s : State) (q kind status tag handle : Nat) (results : List Word) : State :=
  s.recordPut q (eventRec kind status (if q = admQ then 0 else q) 0 tag handle 0 s.stroke results)

/-- Complete a command with the given words, whatever the status. -/
def State.completeWith (s : State) (c : HostCmd) (status handle : Nat) (results : List Word) : State :=
  let q := c.queue.val
  let h := s.hq q
  let s := s.setHq q { h with cmds := h.cmds.erase c }
  s.recordPut q (eventRec 1 status (if q = admQ then 0 else q) c.opcode.toNat c.tag.toNat handle c.hostRef s.stroke results)

/-- Complete a command: result words and a handle go with `OK` alone (R377). -/
def State.complete (s : State) (c : HostCmd) (status : Nat) (handle : Nat := 0) (results : List Word := []) : State :=
  if status = Status.ok then s.completeWith c status handle results else s.completeWith c status 0 []

/-! The gate (R474–R476) -/

/-- The codes of Table 12.7, which stand on the administrative queue. -/
def admOpcode (op : Nat) : Bool := decide (0x50 ≤ op) && decide (op ≤ 0x52)

/-- The codes of Tables 09.5, 10.8 and 11.7, which stand on a context's queue. -/
def ctxOpcode (op : Nat) : Bool :=
  op == 0x20 || op == 0x21 || (decide (0x30 ≤ op) && decide (op ≤ 0x36)) || (decide (0x40 ≤ op) && decide (op ≤ 0x42))

/-- States of a context (Table 12.9): 0 `FREE`, 1 `ACTIVE`, 2 switching, 3 `SAVED`, 4 resetting. -/
def State.ctxState (s : State) (c : Nat) : Nat := s.get Base.contexts Reg.cxState c

/-- A command whose turn has not come: one with `FENCE` waits for every earlier command of its queue (R474). -/
def State.fencedOff (s : State) (c : HostCmd) : Bool :=
  let cmds := (s.hq c.queue.val).cmds
  c.fence && cmds.contains c && cmds.head? != some c

/-- The command may run on its queue: a context's on the queue of a context that exists and is not in reset (R422, R476). -/
def State.queueOk (s : State) (c : HostCmd) : Bool :=
  let q := c.queue.val
  if q = admQ then admOpcode c.opcode.toNat
  else ctxOpcode c.opcode.toNat && s.ctxState q != 0 && s.ctxState q != 4

/-- Start a command of code `op`: in READY and RUNNING it runs, before that and after a failure it completes with `DENIED`,
and while HALTED nothing starts. -/
def State.hostCmd (s : State) (c : HostCmd) (op : Nat) (run : State → State) : State :=
  if c.opcode.toNat ≠ op ∨ s.fencedOff c = true then s
  else if s.devState = Dev.ready ∨ s.devState = Dev.running then
    if s.queueOk c then run s else s.complete c Status.denied
  else if s.devState = Dev.booting ∨ s.devState = Dev.selftest ∨ s.devState = Dev.failed then s.complete c Status.denied
  else s

end Sys2Proof.Machine
end

