-- ==== Sys2Proof/Machine/Flash.lean ====
section
/-! DEFINITION. Flash and its sealed objects (R254–R259, R266, R413). -/

namespace Sys2Proof.Machine

/-- A target is in service: present on a channel that the unit map lets be used, and neither it nor its die fenced
(R254, R447). -/
def State.targetUp (s : State) (t : Nat) : Bool :=
  ((s.flash.targets[t]?).map (·.present)).getD false && !provFlashOff s.boot.prov (t / 32) (t % 32 / 4) &&
    !s.isFenced (0x10 + t / 32) (0x20 + t % 32)

def State.targetsUp (s : State) : List Nat := (List.range 64).filter s.targetUp

/-- Usable capacity in bytes (R259): 87.5 % of the good blocks' raw capacity, and of that 0.5 % less for metadata. DEDUCED:
the 0.5 % is taken of the 87.5 %, not of the raw capacity. -/
def State.flashUsable (s : State) : Nat :=
  (s.targetsUp.foldl (fun n t =>
    match s.flash.targets[t]? with
    | some x => if x.blocks = 0 then n else n + x.gib * 2 ^ 30 * (x.blocks - x.bad) / x.blocks
    | none => n) 0) * 870625 / 1000000

/-- Bytes of the objects that hold space: those that have not expired. -/
def objBytes (os : List FlObj) : Nat := os.foldl (fun n o => if o.state = 3 then n else n + o.blocks * 4096) 0

def State.flashUsed (s : State) (ctx : Nat) : Nat := objBytes (s.flash.objects.filter (·.ctx == ctx))

/-- Erase counts for which a cell is rated (R259). -/
def ratedLife (cell : Nat) : Nat := if cell = 0x01 then 3000 else 1000

/-- The mean life used of the targets in service, in per cent of the rating: what they had at start-up, and the erase blocks
erased since. Wear levelling keeps every block's count at the mean (R259). -/
def State.lifeUsed (s : State) : Nat :=
  let ts := s.targetsUp.filterMap fun t => (s.flash.targets[t]?).map fun x =>
    x.life + 100 * cget (fun _ => 0) s.flash.erases t / (max 1 (x.blocks - x.bad) * ratedLife x.cell)
  if ts.isEmpty then 0 else (ts.foldl (· + ·) 0) / ts.length

/-- Count erase blocks erased on a target. -/
def State.erased (s : State) (t n : Nat) : State :=
  { s with flash := { s.flash with erases := cset (fun _ => 0) s.flash.erases t (cget (fun _ => 0) s.flash.erases t + n) } }

/-- Objects are deleted whole, so the erase blocks that they held are erased, on every target over which they lay (R259). -/
def State.eraseOf (s : State) (o : FlObj) : State :=
  o.targets.foldl (fun (s : State) t =>
    s.erased t (ceilDiv (o.blocks * 4096) (max 1 (Config.eraseBytes * o.targets.length)))) s

/-- A block that fails program or erase is retired, and its data stands elsewhere (R259). A target whose retired blocks exceed
2 % of its blocks is quarantined (Table 13.3). -/
def State.retire (s : State) (t : Nat) : State :=
  if s.targetUp t then
    let ts := s.flash.targets.mapIdx fun i x => if i = t then { x with bad := x.bad + 1 } else x
    let n := cget (fun _ => 0) s.flash.grown t + 1
    let s := ({ s with flash := { s.flash with targets := ts, grown := cset (fun _ => 0) s.flash.grown t n } }).count
      (Base.flash (t / 32)) Reg.grownBad
    if ((ts[t]?).map (·.blocks)).getD 0 < 50 * n then s.quarantine (uid (0x10 + t / 32) (0x20 + t % 32)) 0x0D (t % 32) 0 else s
  else s

/-- Show what FLASH, CX_FLASH and `FLASH_PRESENT` say of the targets and the space (Tables 07.16, 12.10, R42). -/
def State.flashShow (s : State) : State :=
  let use := s.flashUsable
  let free := use - objBytes s.flash.objects
  let cell := match s.targetsUp with
    | t :: _ => ((s.flash.targets[t]?).map (·.cell)).getD 0
    | [] => 0
  let s := (List.range 2).foldl (fun s p =>
    let b := Base.flash p
    let up := (s.targetsUp.filter fun t => t / 32 == p).map (· % 32)
    let ok := maskOf up
    let s := s.put (Base.hubId p) Reg.flashPresent (maskOf ((List.range 8).filter fun ch => up.any fun t => t / 4 == ch))
    ((((s.put b Reg.targetOk ok).put b Reg.lifeUsed s.lifeUsed).put b Reg.flCell cell).put b Reg.freeGib
      (free / 2 ^ 30)).put b Reg.usableGib (use / 2 ^ 30)) s
  (List.range 16).foldl (fun s c => s.put Base.contexts Reg.cxFlashUsed (ceilDiv (s.flashUsed c) (2 ^ 30)) c) s

def State.obj (s : State) (n : Nat) : Option FlObj := s.flash.objects.find? fun o => o.num == n

def State.setObj (s : State) (o : FlObj) : State :=
  { s with flash := { s.flash with objects := s.flash.objects.map fun x => if x.num == o.num then o else x } }

/-- Seconds of its time to live that a sealed object has left. -/
def State.ttlLeft (s : State) (o : FlObj) : Nat :=
  if o.state = 2 then o.ttl - (s.flash.us - o.sealedAt) / 1000000 else if o.state = 3 then 0 else o.ttl

/-- The object's state: a sealed one whose time to live has passed is expired. -/
def State.objNow (s : State) (o : FlObj) : Nat := if o.state = 2 ∧ o.ttl ≠ 0 ∧ s.ttlLeft o = 0 then 3 else o.state

/-- `CREATE` (R255, R257, R259, R413). -/
def State.objCreate (s : State) (num ctx kind blocks ttl : Nat) : Nat × State :=
  let n := if blocks = 0 then 16777216 else blocks
  if num = 0 ∨ kind = 0 ∨ 3 < kind ∨ (s.obj num).isSome = true ∨ 100 ≤ s.lifeUsed ∨
      s.flashUsable < objBytes s.flash.objects + n * 4096 ∨
      s.get Base.contexts Reg.cxFlashGib ctx * 2 ^ 30 < s.flashUsed ctx + n * 4096 then (Status.denied, s)
  else
    let o : FlObj := { num := num, ctx := ctx, kind := kind, blocks := n, ttl := ttl, state := 1, targets := s.targetsUp,
                       written := [], data := [], draw := none, paused := none, digests := [], sealedAt := 0 }
    (Status.ok, ({ s with flash := { s.flash with objects := s.flash.objects ++ [o] } }).flashShow)

/-- Runs of blocks that overlap. -/
def runsMeet (a b : Nat × Nat) : Bool := decide (a.1 < b.1 + b.2) && decide (b.1 < a.1 + a.2)

/-- Put words into an object from a block on. -/
def FlObj.fill (o : FlObj) (first count : Nat) (ws : List Word) : FlObj :=
  { o with
    written := o.written ++ [(first, count)],
    data := (ws.mapIdx fun i w => (first * 512 + i, w)).foldl (fun c p => cset (fun _ => 0) c p.1 p.2) o.data }

/-- A context without a share of the flash's bandwidth (R409, R413). -/
def State.noFlash (s : State) (ctx : Nat) : Bool := s.effGet (Base.hubBind 0) Reg.pbFlashBw ctx == 0

/-- `WRITE` from DDR; each block exactly once. -/
def State.objWrite (s : State) (num first count addr : Nat) : Nat × State :=
  let n := if count = 0 then 16777216 else count
  match s.obj num with
  | none => (Status.denied, s)
  | some o =>
    if o.state ≠ 1 ∨ o.blocks < first + n ∨ (o.written.any fun r => runsMeet r (first, n)) = true ∨
        placeOf (addr / 8 * 8) ≠ .ddr ∨ s.noFlash o.ctx = true then (Status.denied, s)
    else
      let (ws, s) := s.readWords (.control s.bootNow) none (addr / 8 * 8) (n * 512)
      let st := worst (ws.map (·.1))
      if st ≠ Status.ok then (st, s)
      else (st, s.setObj (o.fill first n (ws.map fun w => ((w.2.map (·.d)).getD 0))))

/-- A word of an object's content. -/
def FlObj.word (o : FlObj) (k : Nat) : Word :=
  match o.draw with
  | some d => Config.freeValue (d + k)
  | none => cget (fun _ => 0) o.data k

/-- Fill an object with content whose form is not given. -/
def State.objOpen (s : State) (num : Nat) (paused : Option (Req × List PausedPage)) : State :=
  match s.obj num with
  | none => s
  | some o =>
    { s.setObj { o with draw := some s.free, written := [(0, o.blocks)], paused := paused } with
      free := s.free + o.blocks * 512 }

/-- The lowest object number that no object has. -/
def State.objFree (s : State) : Nat :=
  (((List.range (s.flash.objects.length + 1)).map (· + 1)).find? fun n => (s.obj n).isNone).getD 1

/-- The bytes of segment `i` of an object. -/
def FlObj.segBytes (o : FlObj) (i : Nat) : List Byte :=
  bytesOf ((List.range (min 131072 (o.blocks * 512 - i * 131072))).map fun k => o.word (i * 131072 + k))

/-- Every block of the object is written. -/
def FlObj.full (o : FlObj) : Bool := o.written.foldl (fun n r => n + r.2) 0 == o.blocks

/-- The object sealed at a running time: a digest over each 1 MiB segment is stored with it. -/
def FlObj.sealAt (o : FlObj) (us : Nat) : FlObj :=
  { o with state := 2, sealedAt := us, digests := (List.range (ceilDiv o.blocks 256)).map fun i => sha256 (o.segBytes i) }

def State.objSeal (s : State) (num : Nat) : Nat × State :=
  match s.obj num with
  | none => (Status.denied, s)
  | some o => if o.state = 1 ∧ o.full = true then (Status.ok, s.setObj (o.sealAt s.flash.us)) else (Status.denied, s)

/-- What a read or another use of an object answers before its data is looked at (Table 07.9). -/
def State.objReadable (s : State) (o : FlObj) : Nat :=
  match s.objNow o with
  | 2 => Status.ok
  | 3 => Status.expired
  | 4 => Status.tierFail
  | _ => Status.denied

/-- `READ` to DDR: each segment it touches is verified first. `misread` gives the segments whose first read brings other bytes
than were written, and whether the second read does too: a segment that fails twice fails the read, which writes nothing and is
logged (R258).
No code of Table 13.10 names such a read, so the record's source is a free value. -/
def State.objRead (s : State) (num first count addr : Nat) (misread : List (Nat × Bool)) : Nat × State :=
  let n := if count = 0 then 16777216 else count
  match s.obj num with
  | none => (Status.denied, s)
  | some o =>
    let st := s.objReadable o
    if st ≠ Status.ok then (st, s)
    else if s.noFlash o.ctx then (Status.denied, s)
    else if o.blocks < first + n ∨ placeOf (addr / 8 * 8) ≠ .ddr then (Status.denied, s)
    else
      let segs := (List.range (ceilDiv (first + n) 256 - first / 256)).map (first / 256 + ·)
      let again (i : Nat) : Bool := misread.contains (i, true)
      if segs.all fun i => !again i && sha256 (o.segBytes i) == o.digests.getD i [] then
        let ws := (List.range (n * 512)).map fun k => fresh (o.word (first * 512 + k))
        let w := s.writeWords (.control s.bootNow) (addr / 8 * 8) ws
        (worst w.1, w.2)
      else
        let v := s.draw
        (Status.sigBad, (v.2.count (Base.tier 0) Reg.tierSigBad).log 0x10 0 (some o.ctx) (v.1.toNat % 64) 0 num)

/-- `DELETE`: the space is taken back. -/
def State.objDelete (s : State) (num : Nat) : Nat × State :=
  match s.obj num with
  | none => (Status.denied, s)
  | some o =>
    (Status.ok, (({ s with flash := { s.flash with objects := s.flash.objects.filter (·.num != num) } }).eraseOf o).flashShow)

/-- Delete the objects that a test picks. -/
def State.objSweep (s : State) (p : FlObj → Bool) : State :=
  let s := (s.flash.objects.filter p).foldl (fun s o => s.eraseOf o) s
  ({ s with flash := { s.flash with objects := s.flash.objects.filter fun o => !p o } }).flashShow

/-! The commands (R266) -/

def State.objArg (s : State) (f : Fld) : Nat := s.get (Base.flash 0) f

/-- The object that OBJ_ARG0 names, as OBJ_RESULT shows it. -/
def State.objShow (s : State) : State :=
  let b := Base.flash 0
  match s.obj (s.objArg Reg.objNum) with
  | none => (s.put b Reg.objState 0).put b Reg.objTtlLeft 0xFFFFFFFF
  | some o => (s.put b Reg.objState (s.objNow o)).put b Reg.objTtlLeft (if o.ttl = 0 then 0xFFFFFFFF else s.ttlLeft o)

/-- Run an object command: the register write completes with `OK`, the outcome stands in OBJ_RESULT (R527). The object
registers exist on PD0 alone: on PD1 their offsets are reserved (R36, R266). In a state in which the translation layer serves
no command (R256) the outcome is `DENIED`: DESIGN CHOICE (log 186). -/
def State.objCmd (s : State) (p : Nat) (f : State → Nat × State) : State :=
  if !s.pdUp p then s
  else if p ≠ 0 then s.reply Status.denied
  else if !s.serving then ((s.put (Base.flash 0) Reg.objStatus Status.denied).objShow).reply Status.ok
  else
    let (st, s) := f s
    ((s.put (Base.flash 0) Reg.objStatus st).objShow).reply Status.ok

def State.objCreateCmd (s : State) (p : Nat) : State :=
  s.objCmd p fun s => s.objCreate (s.objArg Reg.objNum) (s.objArg Reg.objCtx) (s.objArg Reg.objKind)
    (s.objArg Reg.objBlocks) (s.objArg Reg.objTtl)
/-- A `WRITE`, with the targets of the blocks that failed program and were retired in it. -/
def State.objWriteCmd (s : State) (p : Nat) (retired : List Nat) : State :=
  s.objCmd p fun s =>
    let (st, s) := s.objWrite (s.objArg Reg.objNum) (s.objArg Reg.objFirst) (s.objArg Reg.objCount) (s.objArg Reg.objDdr)
    (st, if st = Status.ok then (retired.foldl (fun s t => s.retire t) s).flashShow else s)
def State.objSealCmd (s : State) (p : Nat) : State := s.objCmd p fun s => s.objSeal (s.objArg Reg.objNum)
def State.objReadCmd (s : State) (p : Nat) (misread : List (Nat × Bool)) : State :=
  s.objCmd p fun s => s.objRead (s.objArg Reg.objNum) (s.objArg Reg.objFirst) (s.objArg Reg.objCount)
    (s.objArg Reg.objDdr) misread
def State.objDeleteCmd (s : State) (p : Nat) : State := s.objCmd p fun s => s.objDelete (s.objArg Reg.objNum)
def State.objStatCmd (s : State) (p : Nat) : State := s.objCmd p fun s => (Status.ok, s)

def execObjCreate (pd : Pd) (s : State) : Host.Outcome State Fault Refusal := .next (s.objCreateCmd pd.val)
def execObjWrite (job : ObjWriting) (s : State) : Host.Outcome State Fault Refusal :=
  .next (s.objWriteCmd job.pd.val (job.retired.map (·.val)))
def execObjSeal (pd : Pd) (s : State) : Host.Outcome State Fault Refusal := .next (s.objSealCmd pd.val)
def execObjDelete (pd : Pd) (s : State) : Host.Outcome State Fault Refusal := .next (s.objDeleteCmd pd.val)
def execObjStat (pd : Pd) (s : State) : Host.Outcome State Fault Refusal := .next (s.objStatCmd pd.val)

/-! Events -/

/-- A sealed object's time to live has run out. -/
def State.objExpire (s : State) (p num : Nat) : State :=
  match s.obj num with
  | none => s
  | some o =>
    if s.serving && s.pdUp p && o.state == 2 && s.objNow o == 3 then
      ((s.setObj { o with state := 3 }).count (Base.flash p) Reg.flExpired).flashShow
    else s

def execObjectExpiry (pd : Pd) (object : Nat) (s : State) : Host.Outcome State Fault Refusal :=
  .next (s.objExpire pd.val object)

/-- An erase block read more often than Table 07.11 allows is rewritten elsewhere and erased: the objects keep their data. -/
def State.readReclaim (s : State) (p t : Nat) : State :=
  if s.serving && s.pdUp p && s.targetUp (32 * p + t) then
    let s := s.count (Base.flash p) Reg.readReclaims
    (s.erased (32 * p + t) 1).flashShow
  else s

def execReadReclaim (pd : Pd) (target : Fin 32) (_block : Nat) (s : State) : Host.Outcome State Fault Refusal :=
  .next (s.readReclaim pd.val target.val)

/-- Objects with data on a target that is not in service are lost. -/
def State.flashLost (s : State) (gone : Nat → Bool) : State :=
  ({ s with flash := { s.flash with objects := s.flash.objects.map fun (o : FlObj) =>
      if o.state ≠ 3 ∧ o.targets.any gone = true then { o with state := 4 } else o } }).flashShow

/-- A target fails: it is fenced, and objects with data on it become lost (R259). -/
def State.targetFail (s : State) (p t : Nat) : State :=
  if s.pdUp p && s.targetUp (32 * p + t) then
    ((s.log (0x10 + p) 0 none 0x0D t 0).quarantine (uid (0x10 + p) (0x20 + t)) 0x0D t 0).flashLost
      fun x => x == 32 * p + t
  else s

def execFlashTargetFail (pd : Pd) (target : Fin 32) (s : State) : Host.Outcome State Fault Refusal :=
  .next (s.targetFail pd.val target.val)

end Sys2Proof.Machine
end

