-- ==== Sys2Proof/Machine/Skip.lean ====
section
/-! DEFINITION. Page skipping: the prediction, the pages that a member keeps, and the bound on the attention mass of those it
skips (R212, R215–R217). The queries and the members' partials come from the block programs; sums and products are formed
exactly from them and rounded once: DESIGN CHOICE (log 59). -/

namespace Sys2Proof.Machine

/-- FP32 values in ascending order as numbers, NaN below all, the zeros equal. -/
def f32Key (x : Nat) : Nat :=
  let m := x % 2 ^ 31
  if (f32 x).isNan then 0 else if m = 0 then 2 ^ 31 else if x < 2 ^ 31 then 2 ^ 31 + m else 2 ^ 31 - m

def insertBy {α : Type} (key : α → Nat) (a : α) : List α → List α
  | [] => [a]
  | b :: l => if key a < key b then a :: b :: l else b :: insertBy key a l

def sortBy {α : Type} (key : α → Nat) (l : List α) : List α := l.foldl (fun acc a => insertBy key a acc) []

/-- A page of a row's sequence as a step meets it: its map's die, its member, its ordinal, its entry and the address of its
summaries. -/
structure SeqPage where
  die : Nat
  member : Nat
  ord : Nat
  entry : Word × Word
  sums : Nat
deriving DecidableEq, Repr

/-- 2^y, infinite or zero beyond what any FP32 operand reaches. -/
def exp2Any (y : Fv) : Fv :=
  if y.isNan then .nan
  else if (Fv.ofInt 2048).lt y then .inf false
  else if y.lt (Fv.ofInt (-2048)) then Fv.zero
  else exp2Fv y

/-- log2(e) / √D (R212). -/
def scoreScale (d : Nat) : Fv := ((fvOfFx (fxLog2e : Int)).div (Fv.ofInt (d : Int)).sqrt)

/-- The larger of two values, +∞ where either is NaN. -/
def maxUp (a b : Fv) : Fv := if a.isNan || b.isNan then .inf false else if a.lt b then b else a

/-- A value rounded up to FP32. -/
def up32 (v : Fv) : Fv :=
  let x := f32enc v
  if (f32 x).lt v then f32 (if x < 2 ^ 31 then x + 1 else if x = 2 ^ 31 then 1 else x - 1) else f32 x

/-- The fields of a summary record over D dimensions (Table 06.2): `COUNT`, and `KMAX`, `KMIN` and `KSUM` of each dimension. -/
structure PageSum where
  count : Nat
  kmax : List Fv
  kmin : List Fv
  ksum : List Fv
deriving DecidableEq, Repr

def pageSum (d : Nat) (r : List Byte) : PageSum :=
  let at' (o n : Nat) : Nat := leNat ((r.drop o).take n)
  { count := at' 0 4, kmax := (List.range d).map fun i => Fmt.bf16.dec (at' (64 + 2 * i) 2),
    kmin := (List.range d).map fun i => Fmt.bf16.dec (at' (64 + 2 * d + 2 * i) 2),
    ksum := (List.range d).map fun i => f32 (at' (64 + 4 * d + 4 * i) 4) }

/-- The sum of a list of values. -/
def fvSum (l : List Fv) : Fv := l.foldl Fv.add Fv.zero

/-- The prediction for one query (R216). -/
def PageSum.predict (p : PageSum) (f : Fv) (q : List Fv) : Fv :=
  if p.count = 0 then .inf true
  else (((fvSum (List.zipWith Fv.mul q p.ksum)).div (Fv.ofInt (p.count : Int))).mul f).add (log2Fv (Fv.ofInt (p.count : Int)))

/-- b_p for one query (R217): the bound on the page's largest score. -/
def PageSum.bound (p : PageSum) (f : Fv) (q : List Fv) : Fv :=
  up32 (f.mul (fvSum (List.zipWith (fun x (k : Fv × Fv) => maxUp (x.mul k.1) (x.mul k.2)) q (p.kmax.zip p.kmin))))

/-- The queries of a head as values. -/
def queryVals (h : SkipHead) : List (List Fv) := h.queries.map fun q => q.map fun w => f32 w.toNat

/-- The summary record of a page for a layer and head. -/
def State.sumRead (s : State) (c : PageCfg) (p : SeqPage) (layer head : Nat) : PageSum :=
  pageSum c.d (s.loadBytes (p.sums + (layer * c.heads + head) * c.recBytes) c.recBytes).1

/-- The largest of a value over a layer's heads and their queries. DESIGN CHOICE (log 59): a member decides once a layer. -/
def State.overHeads (s : State) (c : PageCfg) (hs : List SkipHead) (p : SeqPage) (f : PageSum → List Fv → Fv) : Fv :=
  hs.foldl (fun m h => (queryVals h).foldl (fun m q => maxUp m (f (s.sumRead c p h.layer h.head) q)) m) (.inf true)

/-- Pages in descending order of a value, ties to the lower ordinal. -/
def topPages (n : Nat) (val : SeqPage → Fv) (ps : List SeqPage) : List SeqPage :=
  (sortBy (fun p => (2 ^ 33 - f32Key (f32enc (val p))) * 2 ^ 20 + p.ord) ps).take n

/-- The skippable pages that a member keeps in a layer: `keep` by the prediction, and `more` of the others by b_p
(R216, R218). -/
def State.keptPages (s : State) (c : PageCfg) (keep more : Nat) (hs : List SkipHead) (ps : List SeqPage) : List SeqPage :=
  let f := scoreScale c.d
  let first := topPages keep (fun p => s.overHeads c hs p fun r q => r.predict f q) ps
  let rest := ps.filter fun p => !first.contains p
  first ++ topPages more (fun p => s.overHeads c hs p fun r q => r.bound f q) rest

/-- A member's m for a query: its partial's, or the largest b_p where it kept no page. -/
def memberM (m : Fv) (bs : List Fv) : Fv :=
  match m with
  | .inf true => bs.foldl maxUp (.inf true)
  | m => m

/-- β of a member for a query, with the m that it refers to (R217). -/
def State.skipBeta (s : State) (c : PageCfg) (h : SkipHead) (q : List Fv) (m : Fv) (skipped : List SeqPage) : Fv × Fv :=
  let f := scoreScale c.d
  let rs := skipped.map fun p => s.sumRead c p h.layer h.head
  let m := memberM m (rs.map fun r => r.bound f q)
  (m, fvSum (rs.map fun r => (Fv.ofInt (r.count : Int)).mul (exp2Any ((r.bound f q).sub m))))

/-- B of query `i` of a head: the members' β merged as l is (R212, R217). `skipped` gives each member's pages. -/
def State.skipMass (s : State) (c : PageCfg) (h : SkipHead) (i : Nat) (q : List Fv) (skipped : List (List SeqPage)) : Fv :=
  let parts := h.partials.map fun l => (f32 ((l.getD i (0xFF800000, 0)).1.toNat), f32 ((l.getD i (0xFF800000, 0)).2.toNat))
  let top := parts.foldl (fun m p => maxUp m p.1) (.inf true)
  let scaled (m v : Fv) : Fv := if v.isZero then Fv.zero else v.mul (exp2Any (m.sub top))
  let l := fvSum (parts.map fun p => scaled p.1 p.2)
  let b := fvSum (skipped.mapIdx fun j ps =>
    if ps.isEmpty then Fv.zero
    else
      let r := s.skipBeta c h q ((parts.getD j (.inf true, Fv.zero)).1) ps
      scaled r.1 r.2)
  if b.isZero then Fv.zero else b.div l

/-- The check of R217: B × 1.001 ≤ 2^−EPS_LOG2. -/
def massOk (eps : Nat) (b : Fv) : Bool :=
  b.isFinite && !(Fv.fin false 1000 (-(eps : Int))).lt (b.mul (Fv.ofInt 1001))

end Sys2Proof.Machine
end

