-- ==== Sys2Proof/Machine/Requests.lean ====
section
/-! DEFINITION. Requests: admission, the batch, delivery of tokens to rings, outcomes of stretches, and the end of a
request (R340–R360, R362, R374–R378). -/

namespace Sys2Proof.Machine

/-! Slots and handles (R340–R342) -/

def State.slotReq (s : State) (i : Nat) : Option Req := cget (fun _ => none) s.reqs i
def State.setReq (s : State) (i : Nat) (r : Option Req) : State :=
  { s with reqs := cset (fun _ => none) s.reqs i r }

/-- The requests that hold slots, in slot order. -/
def State.allReqs (s : State) : List (Nat × Req) := s.reqs.filterMap fun p => p.2.map fun r => (p.1, r)
def State.ctxReqs (s : State) (ctx : Nat) : List (Nat × Req) := s.allReqs.filter fun p => p.2.ctx == ctx

def State.prefixAt (s : State) (i : Nat) : Option PrefixRun := cget (fun _ => none) s.prefixes i
def State.setPrefix (s : State) (i : Nat) (r : Option PrefixRun) : State :=
  { s with prefixes := cset (fun _ => none) s.prefixes i r }
def State.allPrefixes (s : State) : List (Nat × PrefixRun) := s.prefixes.filterMap fun p => p.2.map fun r => (p.1, r)

/-- Show slots and prefixes in use. -/
def State.reqShow (s : State) : State :=
  (s.put Base.requests Reg.rqInUse s.allReqs.length).put Base.requests Reg.rqPrefixes s.allPrefixes.length

/-- A new handle for an index: `USE` advances and is never 0 (R341). -/
def State.newHandle (s : State) (ctx kind index : Nat) : Nat × State :=
  let k := 65536 * kind + 4096 * ctx + index
  let u := cget (fun _ => 0) s.uses k
  let u := if 16383 ≤ u then 1 else u + 1
  (ctx * 2 ^ 28 + kind * 2 ^ 26 + u * 2 ^ 12 + index, { s with uses := cset (fun _ => 0) s.uses k u })

def handleUse (h : Nat) : Nat := h / 2 ^ 12 % 2 ^ 14
def handleIndex (h : Nat) : Nat := h % 4096
def handleKind (h : Nat) : Nat := h / 2 ^ 26 % 4

/-- The request of a handle. -/
def State.reqOf (s : State) (h : Nat) : Option (Nat × Req) :=
  match s.slotReq (handleIndex h) with
  | some r => if r.handle = h then some (handleIndex h, r) else none
  | none => none

/-- The prefix of a handle. -/
def State.prefixOf (s : State) (h : Nat) : Option (Nat × PrefixRun) :=
  match s.prefixAt (handleIndex h) with
  | some r => if r.handle = h then some (handleIndex h, r) else none
  | none => none

def State.modelOf (s : State) (ctx h : Nat) : Option Model := s.models.find? fun m => m.ctx == ctx && m.handle == h

/-- The lowest free slot. -/
def State.freeSlot (s : State) : Option Nat := (List.range 4096).find? fun i => (s.slotReq i).isNone
def State.freePrefix (s : State) : Option Nat := (List.range 1024).find? fun i => (s.prefixAt i).isNone

/-- Strokes of a time in µs, rounded up. -/
def State.strokesOf (s : State) (us : Nat) : Nat := ceilDiv us (max 1 (s.get Base.device Reg.strokeUs))

/-- The newest cast of a model (R385). -/
def State.newest (s : State) (ctx model : Nat) : Nat := ((s.modelOf ctx model).bind (·.casts.getLast?)).getD 0

/-- A request that starts takes the newest cast, and keeps it until a turn or its end changes that (R387). -/
def State.takeCast (s : State) (r : Req) : Req :=
  if r.held then r else { r with cast := s.newest r.ctx r.model, held := true }

/-- GENERATE is over as soon as no step is in progress: its quota is met, its time has passed with a rollout counted, or a
stop or a forced turn waits (R380, R405, R406). -/
def State.genOver (s : State) (ctx : Nat) : Bool :=
  let x := s.loop ctx
  let us := (s.stroke - s.get Base.phase Reg.phEntry ctx) * s.get Base.device Reg.strokeUs
  match x.policy with
  | none => false
  | some p =>
    decide (p.quota ≤ x.rollouts.length) || (p.timeMs != 0 && decide (p.timeMs * 1000 ≤ us) && !x.rollouts.isEmpty) ||
      x.stop.isSome || !x.forced.isEmpty

/-- The context's requests run: no loop does, or it is in GENERATE and forms further steps (R380, R381). -/
def State.generates (s : State) (ctx : Nat) : Bool :=
  s.get Base.phase Reg.phLoop ctx == 0 || (s.get Base.phase Reg.phPhase ctx == 1 && !s.genOver ctx)

/-! Rings (R352–R357) -/

/-- Write a record to a request's ring, then the count. -/
def State.ringRecord (s : State) (i : Nat) (w0 w1 : Word) : State :=
  match s.slotReq i with
  | none => s
  | some r =>
    let s := s.toHost (some r.ctx) (r.ringAddr + 64 + 16 * (r.produced % 2 ^ r.ringLog)) [w0, w1]
    let n := (r.produced + 1) % 2 ^ 32
    (s.toHost (some r.ctx) r.ringAddr [word n]).setReq i (some { r with produced := n })

/-- The two words of a record (Table 10.6). -/
def ringWord0 (pos handle : Nat) : Word := word (pos * 2 ^ 32 + handle)
def ringWord1 (status rkind : Nat) (draftOk last : Bool) (cast logp token : Nat) : Word :=
  word (status * 2 ^ 56 + rkind * 2 ^ 54 + b2n draftOk * 2 ^ 53 + b2n last * 2 ^ 52 + cast * 2 ^ 36 + logp * 2 ^ 20
    + token)

/-- Free entries of a ring as the home knows them. -/
def Req.ringFree (r : Req) : Nat := 2 ^ r.ringLog - diff32 r.produced r.consumed

/-- Provisional token records stand in the ring. -/
def Req.provisional (r : Req) : Bool := r.stretches.any (·.recs)

/-! The end of a request (R359) -/

/-- Free the pages of dropped prefixes that no alias names (R367). -/
def State.prefixSweep (s : State) : State :=
  s.allPrefixes.foldl (fun s p =>
    if p.2.dropped && !(s.maps.any fun e => enKind e.2 == 2 && enPrefix e.2 == p.2.handle)
    then ((s.pagesFree p.2.handle).setPrefix p.1 none).reqShow else s) s

/-- A rollout is counted in the GENERATE phase in which its end record is written (R380). -/
def State.rollout (s : State) (r : Req) : State :=
  let x := s.loop r.ctx
  if s.get Base.phase Reg.phPhase r.ctx = 1 ∧ (x.policy.map (·.gen)) = some r.model then
    (s.setLoop r.ctx { x with rollouts := x.rollouts ++ [(r.handle, r.sealed)] }).put Base.phase Reg.phRollouts
      (x.rollouts.length + 1) r.ctx
  else s

/-- The end record, the event, and the slot and pages freed. -/
def State.reqEnd (s : State) (i status : Nat) : State :=
  match s.slotReq i with
  | none => s
  | some r =>
    let s := s.ringRecord i (ringWord0 r.sealed r.handle) (ringWord1 status 3 false false 0 0 0)
    let s := s.count Base.requests Reg.rqEnded
    let s := if status = Status.lateEnd then s.count Base.requests Reg.rqLateEnds else s
    let s := s.event r.ctx 2 status r.userTag r.handle [word (r.sealed * 2 ^ 40)]
    let s := if status = Status.ok then s.rollout r else s
    let s := match r.pausing with
      | some (c, _) => s.complete c Status.notResident
      | none => s
    (((s.pagesFree r.handle).setReq i none).prefixSweep).reqShow

/-- The first position that a retraction to the last seal mark withdraws: before any, that of the first token. -/
def Req.backTo (r : Req) : Nat := if r.sealed = 0 then r.preLen + r.prompt.length else r.sealed

/-- The retraction back to the last seal mark. -/
def State.retract (s : State) (i : Nat) : State :=
  match s.slotReq i with
  | none => s
  | some r =>
    (s.ringRecord i (ringWord0 r.backTo r.handle) (ringWord1 Status.retracted 2 false false 0 0 0)).count
      Base.requests Reg.rqRetractions

/-- A failure ends a request at once, with a retraction and its end record (R359); one that was retired for a late token
ends with `LATE_END` all the same (R350). -/
def State.reqFail (s : State) (i status : Nat) : State :=
  match s.slotReq i with
  | none => s
  | some r => (s.retract i).reqEnd i (if r.final = some Status.lateEnd then Status.lateEnd else status)

/-- A failure of the requests that own a page: the one of its handle, or those that share its prefix and are in a step. -/
def State.ownerFail (s : State) (h status : Nat) : State :=
  match s.reqOf h with
  | some (i, _) => s.reqFail i status
  | none => (s.allReqs.filter fun p => p.2.pre == h && (p.2.inStep || p.2.st == 4)).foldl (fun s p => s.reqFail p.1 status) s

/-- A failure of the request that a handle names. -/
def State.handleFail (s : State) (h status : Nat) : State :=
  match s.reqOf h with
  | some (i, _) => s.reqFail i status
  | none => s

/-! Delivery (R349–R351, R353) -/

/-- A token as the sampler hands it over. -/
structure Token where
  pos : Nat
  token : Nat
  logp : Nat
  cast : Nat
  draftOk : Bool
deriving DecidableEq, Repr

/-- The token that ends its request. -/
def Req.isLast (r : Req) (t : Token) : Bool := (r.stopEn && t.token == r.stop) || t.pos + 1 == r.endPos

/-- The tokens up to the last one's. -/
def Req.cut (r : Req) : List Token → List Token
  | [] => []
  | t :: ts => t :: if r.isLast t then [] else r.cut ts

/-- The effective draft count after a window of 16 steps (R362). -/
def Req.adapt (r : Req) (accepted : Nat) : Req :=
  let n := r.winSteps + 1
  let a := r.winAcc + accepted
  if r.draft = 0 then r
  else if n < 16 then { r with winSteps := n, winAcc := a }
  else
    let d := if 4 * a < 16 * r.deff then r.deff / 2
      else if 3 * 16 * r.deff < 4 * a then min (2 * r.deff) r.draft
      else if r.deff = 0 then 1 else r.deff
    { r with deff := d, winSteps := 0, winAcc := 0 }

/-- Note a step's end in a request's stretch. -/
def Req.note (r : Req) (seq pos pref due cast : Nat) (recs last : Bool) : Req :=
  let more (t : Stretch) : Stretch :=
    { t with pos := pos, pref := pref, recs := t.recs || recs, last := t.last || last, cast := if recs then cast else t.cast }
  let new : Stretch := { seq := seq, pos := pos, pref := pref, recs := recs, last := last, due := due, cast := cast }
  { r with
    stretches := if r.stretches.any (·.seq == seq) then r.stretches.map fun t => if t.seq == seq then more t else t
      else r.stretches ++ [new] }

/-- Deliver the tokens of one row of a step whose work belongs to unit `seq`. -/
def State.deliver (s : State) (h seq : Nat) (toks : List Token) : State :=
  match s.reqOf h with
  | none => s
  | some (i, r) =>
    if !(r.st == 1 || r.st == 2 || r.st == 3) || !(r.inStep || r.piece != 0) then s
    else
      let toks := r.cut toks
      match toks.getLast? with
      | none => s
      | some t =>
        let now := s.stroke
        let late := r.due != 0 && decide (r.due < now)
        let last := r.isLast t
        let st := if late then Status.late else Status.ok
        let s := toks.foldl (fun s k =>
          s.ringRecord i (ringWord0 k.pos r.handle) (ringWord1 st 0 k.draftOk (r.isLast k) k.cast k.logp k.token)) s
        let s := if late then s.count Base.requests Reg.rqLateTokens toks.length else s
        let ok := (toks.filter (·.draftOk)).length
        let s := s.count Base.requests Reg.rqAccepted ok
        let hardLate := late && r.dclass == 2
        let r := ((s.slotReq i).getD r).note seq (t.pos + 1) r.prefilled r.due t.cast true last
        let r := r.adapt ok
        let gap := match r.lastAt with
          | some a => now - a
          | none => 0
        let r := { r with
          next := t.pos + 1, cast := t.cast, lastAt := some now, sampled := true,
          ttft := if r.lastAt.isNone then min 65535 (now - r.accepted) else r.ttft,
          tbtMax := max r.tbtMax (min 65535 gap), late := min 65535 (r.late + if late then toks.length else 0),
          behind := late && r.dclass == 1,
          due := if r.dclass = 0 ∨ r.tbtUs = 0 then 0 else now + s.strokesOf r.tbtUs,
          st := if hardLate || last then 5 else 2,
          final := if hardLate then some Status.lateEnd
            else if last then some (r.final.getD Status.ok) else r.final }
        s.setReq i (some r)

/-! Outcomes (R357–R360) -/

/-- A request whose work is done: it ends, or its pause goes on. -/
def State.reqSettle (s : State) (i : Nat) : State :=
  match s.slotReq i with
  | none => s
  | some r =>
    match r.st == 5 && r.stretches.isEmpty, r.final with
    | true, some st => s.reqEnd i st
    | _, _ => s

/-- A request's part of a stretch that seals: a seal mark, and its sealed positions. -/
def State.reqSeal (s : State) (i seq : Nat) : State :=
  match s.slotReq i with
  | none => s
  | some r =>
    match r.stretches.find? (·.seq == seq) with
    | none => s
    | some t =>
      let r := { r with
        stretches := r.stretches.filter (·.seq != seq), prefSealed := max r.prefSealed t.pref,
        sealed := if t.recs then t.pos else r.sealed }
      let s := s.setReq i (some r)
      let s := if t.recs then
          s.ringRecord i (ringWord0 t.pos r.handle) (ringWord1 Status.ok 1 false false t.cast 0 (seq % 2 ^ 20))
        else s
      s.reqSettle i

/-- A request set back to its sealed position: one retraction where records are provisional. -/
def State.reqVoid (s : State) (i : Nat) : State :=
  match s.slotReq i with
  | none => s
  | some r =>
    if r.stretches.isEmpty && r.piece == 0 && !r.inStep then s
    else
      let s := if r.provisional then s.retract i else s
      let first := r.preLen + r.prompt.length
      let r := (s.slotReq i).getD r
      let next := r.backTo
      let hard := r.final == some Status.lateEnd
      let due := match r.stretches with
        | t :: _ => t.due
        | [] => r.due
      let r := { r with
        stretches := [], next := next, prefilled := r.prefSealed, piece := 0, inStep := false, due := due,
        final := if hard then r.final else none,
        st := if r.st = 4 then 4 else if hard then 5 else if r.prefSealed < first then 1 else 2 }
      let pos := if r.sealed = 0 then r.prefSealed else r.sealed
      (((s.setReq i (some r)).fillTo r.ctx r.handle pos).redoFrom r.ctx r.handle pos).reqSettle i

/-- A prefix's part of a stretch that seals; the registration completes with its last piece (R365). -/
def State.prefixSeal (s : State) (i seq : Nat) : State :=
  match s.prefixAt i with
  | none => s
  | some p =>
    match p.stretches.find? (·.seq == seq) with
    | none => s
    | some t =>
      let p := { p with stretches := p.stretches.filter (·.seq != seq), prefSealed := max p.prefSealed t.pref }
      let done := decide (p.len ≤ p.prefSealed)
      let s := s.setPrefix i (some { p with cmd := if done then none else p.cmd })
      match done, p.cmd with
      | true, some c =>
        let s := (s.pagesOf p.handle).foldl (fun s e =>
          s.setMapAt e.1 e.2.1 (e.2.2.1, word (e.2.2.2.toNat ||| 2 ^ 41))) s
        s.complete c Status.ok 0 [word (p.handle * 2 ^ 32 + s.pageCount p.ctx p.len)]
      | _, _ => s

def State.prefixVoid (s : State) (i : Nat) : State :=
  match s.prefixAt i with
  | none => s
  | some p =>
    ((s.setPrefix i (some { p with stretches := [], prefilled := p.prefSealed, piece := 0 })).fillTo p.ctx p.handle
      p.prefSealed).redoFrom p.ctx p.handle p.prefSealed

/-- A token stretch of a context seals. -/
def State.stretchSeal (s : State) (ctx seq : Nat) : State :=
  let s := (s.ctxReqs ctx).foldl (fun s p => s.reqSeal p.1 seq) s
  (s.allPrefixes.filter fun p => p.2.ctx == ctx).foldl (fun s p => s.prefixSeal p.1 seq) s

/-- A token stretch of a context voids, and every later one with it. -/
def State.stretchVoid (s : State) (ctx : Nat) : State :=
  let s := (s.ctxReqs ctx).foldl (fun s p => s.reqVoid p.1) s
  (s.allPrefixes.filter fun p => p.2.ctx == ctx).foldl (fun s p => s.prefixVoid p.1) s

/-! Formation of the batch (R344, R356) -/

/-- B* of a model at the rates of now, rounded up to a multiple of 64 (R347): the MAC rate follows the cores in service and
half the spread, the DDR rate the channels in service. -/
def State.balanceRows (s : State) (m : Model) : Nat :=
  let chans := (List.range 32).filter fun c => s.get (Base.ddr c) Reg.ddrState == 2
  let cores := (List.range 384).filter fun k => !s.isFenced (k / 48) (k % 48)
  let spread := (s.boot.image.map (·.sscDepth)).getD 0
  ceilDiv (ceilDiv (m.prog.balance * cores.length * (2000 - spread) * 32) (max 1 chans.length * 384 * 2000)) 64 * 64

def State.batchMax (s : State) (ctx : Nat) (m : Model) : Nat :=
  let v := s.get Base.requests Reg.batchMax ctx
  if v = 0 then s.balanceRows m else v
def State.prefillMax (s : State) (ctx : Nat) (m : Model) : Nat :=
  let v := s.get Base.requests Reg.prefillMax ctx
  if v = 0 then s.batchMax ctx m / 4 else v

/-- The band of a request (Table 10.3). -/
def Req.band (r : Req) : Nat := if r.dclass = 0 then 3 else if r.dclass = 2 then 1 else if r.behind then 0 else 2

/-- Requests in band order. -/
def bandKey (p : Nat × Req) : Nat :=
  let b := p.2.band
  b * 2 ^ 96 + (if b = 3 then p.2.order else if p.2.due = 0 then 2 ^ 64 else p.2.due) * 2 ^ 16 + p.1

/-- The sequence of the context's stretch that takes the next step: the latest registered, or else the next. -/
def State.stretchSeq (s : State) (ctx : Nat) : Nat :=
  (((s.units.filter fun u => u.ctx == ctx && u.kind == 1 && !u.voted).getLast?).map (·.seq)).getD
    (s.get Base.sealBlk Reg.nextSeq ctx)

/-- The step under way ends: prefill pieces count, and `FILL` follows. -/
def State.stepEnd (s : State) (ctx : Nat) : State :=
  let seq := s.stretchSeq ctx
  let s := (s.ctxReqs ctx).foldl (fun s p =>
    let r := p.2
    let s := if r.piece = 0 then s
      else s.setReq p.1 (some (({ r with prefilled := r.prefilled + r.piece, piece := 0 }).note seq r.next
        (r.prefilled + r.piece) r.due r.cast false false))
    match s.slotReq p.1 with
    | some r =>
      let pos := if r.prefilled < r.preLen + r.prompt.length then r.prefilled else r.next
      let s := (s.setReq p.1 (some { r with inStep := false })).fillTo ctx r.handle pos
      if r.inStep && (r.deff != 0 || !r.sampled) then s.redoFrom ctx r.handle pos else s
    | none => s) s
  (s.allPrefixes.filter fun p => p.2.ctx == ctx && p.2.piece != 0).foldl (fun s p =>
    let n := p.2.prefilled + p.2.piece
    (s.setPrefix p.1 (some { p.2 with
      prefilled := n, piece := 0,
      stretches := p.2.stretches.filter (·.seq != seq) ++
        [{ seq := seq, pos := 0, pref := n, recs := false, last := false, due := 0, cast := 0 }] })).fillTo ctx p.2.handle n) s

/-- The count that the host has taken, read once before a step; one outside its range ends the request (R352). -/
def State.takeConsumed (s : State) (ctx : Nat) (c : BitVec 12 × W32) : State :=
  match s.slotReq c.1.toNat with
  | none => s
  | some r =>
    if r.ctx ≠ ctx then s
    else if diff32 r.produced c.2.toNat ≤ 2 ^ r.ringLog then
      s.setReq c.1.toNat (some { r with consumed := c.2.toNat })
    else s.reqFail c.1.toNat Status.denied

/-- Full pages of a prefix, and the first position after them (R366). -/
def State.fullPages (s : State) (ctx len : Nat) : Nat :=
  let t := s.topClass ctx
  ((List.range (s.pageCount ctx len)).filter fun o => decide (pageFirst t o + classSize (pageClass t o) ≤ len)).length

/-- A page's rows are on their way. -/
def State.isMoving (s : State) (e : Word × Word) : Bool :=
  s.moving.any fun m => m.handle == enHandle e && m.ord == enOrd e

/-- Read a page's rows from host memory to where they go. -/
def State.pageFetch (s : State) (e : Word × Word) (dest : Storage) (n : Nat) : State :=
  let off := enLoc e * 4096 - hostBase
  let s := { s with moving := s.moving ++
    [{ handle := enHandle e, ord := enOrd e, dest := dest, left := n, began := s.stroke }] }
  (hostPieces (n / 8 + 1) off (n / 8)).foldl (fun s q =>
    s.hostRead (enCtx e) q.1 (8 * q.2) (.page (enHandle e) (enOrd e) (q.1 - off))) s

/-- A page whose rows stand at `a` in DDR is at tier 1: its summaries join them, its entry changes, and what it had is
released later (R202, R219). -/
def State.pageHome (s : State) (d i : Nat) (e : Word × Word) (a : Nat) : State :=
  let p := s.pageCfg d (enCtx e)
  let old := s.sumAt (enHandle e) (enOrd e)
  let s := if old = 0 then s
    else
      let (bs, s) := s.loadBytes old (p.sumBytes (enClass e))
      s.storeBytes (a + p.data (enClass e)) bs
  (s.releaseLater d e).setMapAt d i (withPlace e 1 (a / 4096) (s.epochOf a).toNat)

/-- Read a page at tier 2 or 3 back to DDR: from host memory by reads, whose end updates the entry, from flash at once
(R220). -/
def State.pagePrefetch (s : State) (p : Nat × Nat × (Word × Word)) : State :=
  let (d, i, e) := p
  if enKind e ≠ 1 ∨ enTier e < 2 ∨ s.isMoving e = true then s
  else
    let (loc, s) := s.pageLoc d (enCtx e) (enClass e)
    let c := s.pageCfg d (enCtx e)
    let n := c.data (enClass e)
    if enTier e = 2 then s.pageFetch e (.bytes (loc * 4096) (c.bytes (enClass e))) n
    else
      let (st, s) := s.objRead (enLoc e / 65536) (enLoc e % 65536) (ceilDiv n 4096) (loc * 4096) []
      if st = Status.ok then s.pageHome d i e (loc * 4096)
      else s.ownerFail (enHandle e) (if st = Status.expired then st else Status.tierFail)

/-! The pages of a row's steps (R198, R215, R218, R220) -/

/-- Ordinals that a request shares with its prefix. -/
def State.sharedOrds (s : State) (r : Req) : Nat :=
  match s.prefixOf r.pre with
  | some p => if handleUse r.pre = 0 then 0 else s.fullPages p.2.ctx p.2.len
  | none => 0

/-- The pages that a request's row reads: its own, and the prefix's that it shares. -/
def State.rowPages (s : State) (r : Req) : List (Nat × Nat × (Word × Word)) :=
  let n := s.sharedOrds r
  (((s.pagesOf r.pre).filter fun p => decide (enOrd p.2.2 < n)) ++ s.pagesOf r.handle).filter fun p => enKind p.2.2 == 1

/-- A page that decode steps may skip (R215): it has summaries, and is no growth page and none of the sequence's last two. -/
def State.skippable (s : State) (r : Req) (p : Nat × Nat × (Word × Word)) : Bool :=
  let c := s.pageCfg p.1 r.ctx
  let last := (s.rowPages r).foldl (fun m q => max m (enOrd q.2.2)) 0
  c.summed (enClass p.2.2) && decide (c.top < enOrd p.2.2) && decide (enOrd p.2.2 + 2 ≤ last)

/-- Page skipping is on for a context. -/
def State.skipOn (s : State) (ctx : Nat) : Bool :=
  s.get (Base.pageMap 0) Reg.skipEn ctx == 1 && decide (s.get Base.phase Reg.phPhase ctx ≤ 1)

/-- The pages that the row's next step will read, as far as firmware can tell: every one, or with skipping those always kept
and those that the last step kept. -/
def State.readNext (s : State) (r : Req) : List (Nat × Nat × (Word × Word)) :=
  if !s.skipOn r.ctx || r.skipRound == 3 then s.rowPages r
  else (s.rowPages r).filter fun p => !s.skippable r p || r.kept.contains (enOrd p.2.2)

/-- Prefetch what a row's next step will read. The row waits while the lead of a read has not passed, and in a fix-up round
until its pages are there (R218, R220). -/
def State.rowPrefetch (s : State) (r : Req) : Bool × State :=
  let ps := s.readNext r
  let s := ps.foldl State.pagePrefetch s
  let late (p : Nat × Nat × (Word × Word)) (m : PageMove) : Bool :=
    m.handle == enHandle p.2.2 && m.ord == enOrd p.2.2 &&
      (r.skipRound != 0 || decide (s.stroke < m.began + s.prefetchLead 2 (s.pageBytes p.1 p.2.2)))
  (ps.any fun p => s.moving.any (late p), s)

/-- Rewrite the summaries of the pages that a row could skip and that had a row appended more than once (R360). -/
def State.rowSums (s : State) (r : Req) : State :=
  if !s.skipOn r.ctx then s else (s.rowPages r).foldl (fun s p => s.sumsRedo p.1 p.2.2) s

/-- Include a decode request or hold it out; answers the rows used. -/
def State.batchDecode (s : State) (m : Model) (rows i : Nat) : Nat × State :=
  match s.slotReq i with
  | none => (rows, s)
  | some r =>
    let need := 1 + r.deff
    let ring := decide (need + r.stretches.length + 2 ≤ r.ringFree)
    let fits := decide (rows + need ≤ s.batchMax r.ctx m)
    if ring && fits then
      let (wait, s) := (s.rowSums r).rowPrefetch r
      if (s.slotReq i).isNone then (rows, s)
      else if wait then (rows, s.setReq i (some { r with st := 2 }))
      else
        let (ok, s) := s.pagesMake r.ctx r.handle r.span r.parts r.next (r.next + need)
        if ok then
          let s := s.setReq i (some { s.takeCast r with st := 2, inStep := true, sampled := false })
          (rows + need, s.count Base.requests Reg.rqDrafted r.deff)
        else (rows, s.reqFail i Status.denied)
    else (rows, s.setReq i (some { r with st := if fits && !ring then 3 else 2 }))

/-- Include a prefill piece; answers prefill tokens and rows used. -/
def State.batchPrefill (s : State) (m : Model) (pre rows i : Nat) : Nat × Nat × State :=
  match s.slotReq i with
  | none => (pre, rows, s)
  | some r =>
    let take := min (r.preLen + r.prompt.length - r.prefilled)
      (min (s.prefillMax r.ctx m - pre) (s.batchMax r.ctx m - rows))
    if take = 0 then (pre, rows, s)
    else
      let (ok, s) := s.pagesMake r.ctx r.handle r.span r.parts r.prefilled (r.prefilled + take)
      if ok then (pre + take, rows + take, s.setReq i (some { s.takeCast r with piece := take, sampled := false }))
      else (pre, rows, s.reqFail i Status.denied)

/-- Include a piece of a prefix. -/
def State.batchPrefix (s : State) (m : Model) (pre rows i : Nat) : Nat × Nat × State :=
  match s.prefixAt i with
  | none => (pre, rows, s)
  | some p =>
    let take := min (p.len - p.prefilled) (min (s.prefillMax p.ctx m - pre) (s.batchMax p.ctx m - rows))
    if take = 0 then (pre, rows, s)
    else
      let (ok, s) := s.pagesMake p.ctx p.handle p.span 1 p.prefilled (p.prefilled + take)
      if ok then (pre + take, rows + take, s.setPrefix i (some { p with piece := take })) else (pre, rows, s)

/-- The skippable pages of a row, with their members and the places of their summaries. -/
def State.skipPages (s : State) (r : Req) : List SeqPage :=
  ((s.rowPages r).filter (s.skippable r)).map fun p =>
    let e := p.2.2
    let c := s.pageCfg p.1 r.ctx
    { die := p.1, member := s.homeMember r.ctx (enHandle e) r.span (enOrd e), ord := enOrd e, entry := e,
      sums := if enTier e < 2 then enLoc e * 4096 + c.data (enClass e) else s.sumAt (enHandle e) (enOrd e) }

/-- What each member skips in a layer in a round of the row's step, member by member, and what all of them keep. -/
def State.skipSplit (s : State) (r : Req) (c : PageCfg) (keep more : Nat) (hs : List SkipHead) :
    List (List SeqPage) × List SeqPage :=
  let ps := s.skipPages r
  let own := (List.range (max 1 r.span)).map fun j => ps.filter fun p => p.member == j
  let kept := own.flatMap fun l => s.keptPages c keep more hs l
  (own.map fun l => l.filter fun p => !kept.contains p, kept)

/-- The layers that a report tells of. -/
def skipLayers (k : SkipReport) : List Nat := (k.heads.map (·.layer)).eraseDups

/-- The ordinals that some member keeps in some layer in a round (R216, R218). -/
def State.keptOrds (s : State) (r : Req) (c : PageCfg) (round : Nat) (k : SkipReport) : List Nat :=
  let b := Base.pageMap (s.homeDie r.ctx r.handle r.span 0)
  ((skipLayers k).flatMap fun l =>
    ((s.skipSplit r c (s.get b Reg.keepCore r.ctx) (round * s.get b Reg.fixupCore r.ctx)
      (k.heads.filter (·.layer == l))).2).map (·.ord)).eraseDups

/-- A decode row's check (R215–R218). The pairs skipped are counted at their members' dies. A row that passes is final. One
that fails has no token in the step that ends and is computed again over more pages, which are prefetched; after a third
failing round it runs over every page. -/
def State.skipTake (s : State) (ctx : Nat) (k : SkipReport) : State :=
  match s.slotReq k.slot.toNat with
  | none => s
  | some r =>
    if r.ctx ≠ ctx ∨ r.inStep = false ∨ s.skipOn ctx = false then s
    else
      let die := s.homeDie ctx r.handle r.span 0
      let m := Base.pageMap die
      let c := s.pageCfg die ctx
      let split (l : Nat) := s.skipSplit r c (s.get m Reg.keepCore ctx) (r.skipRound * s.get m Reg.fixupCore ctx)
        (k.heads.filter (·.layer == l))
      let splits := (skipLayers k).map fun l => (l, (split l).1)
      let ok := k.heads.all fun h =>
        let skipped := ((splits.find? fun x => x.1 == h.layer).map (·.2)).getD []
        (((queryVals h).mapIdx fun i q => (i, q)).all fun q =>
          massOk (s.get m Reg.epsLog2 ctx) (s.skipMass c h q.1 q.2 skipped))
      let kept := s.keptOrds r c r.skipRound k
      let more := s.keptOrds r c (r.skipRound + 1) k
      let s := splits.foldl (fun s x => x.2.flatten.foldl (fun s p => s.count (Base.pageMap p.die) Reg.skipSkipped) s) s
      if ok then s.setReq k.slot.toNat (some { r with skipRound := 0, kept := kept })
      else
        let s := s.count m Reg.skipCheckFail
        let r := { r with skipRound := r.skipRound + 1, kept := more }
        let s := if r.skipRound = 3 then s.count m Reg.skipFullPass else s
        (s.readNext r).foldl State.pagePrefetch (s.setReq k.slot.toNat (some r))

/-- A row that has run over every page is done with its rounds. -/
def State.fullPassEnd (s : State) (ctx : Nat) : State :=
  (s.ctxReqs ctx).foldl (fun s p =>
    if p.2.skipRound = 3 ∧ p.2.inStep = true then s.setReq p.1 (some { p.2 with skipRound := 0, kept := [] }) else s) s

/-- The pieces of one model's batch: decode rows in their band's order, then prefill rows, then the prefixes'. -/
def State.batchModel (s : State) (ctx : Nat) (m : Model) : State :=
  let dec := sortBy bandKey ((s.ctxReqs ctx).filter fun p => p.2.model == m.handle && (p.2.st == 2 || p.2.st == 3))
  let rows := dec.foldl (fun x p => x.2.batchDecode m x.1 p.1) (0, s)
  let pref := sortBy bandKey ((rows.2.ctxReqs ctx).filter fun p => p.2.model == m.handle && p.2.st == 1)
  let x := pref.foldl (fun x p => x.2.2.batchPrefill m x.1 x.2.1 p.1) (0, rows.1, rows.2)
  ((x.2.2.allPrefixes.filter fun p => p.2.ctx == ctx && p.2.model == m.handle).foldl
    (fun x p => x.2.2.batchPrefix m x.1 x.2.1 p.1) x).2.2

/-- The steps of a model's batch: one for each cast that a request of it holds, newest first (R388). -/
def State.castSteps (s : State) (ctx : Nat) (m : Model) : List (Nat × Nat) :=
  (m.casts.reverse.filter fun c => ((s.ctxReqs ctx).any fun p =>
    p.2.model == m.handle && p.2.cast == c && (p.2.inStep || p.2.piece != 0)) ||
      (c == s.newest ctx m.handle && s.allPrefixes.any fun p =>
        p.2.ctx == ctx && p.2.model == m.handle && p.2.piece != 0)).map fun c => (m.handle, c)

/-- Form the batch of a context's next step, once the counts of the rings have been read. -/
def State.batchForm (s : State) (ctx : Nat) (consumed : List (BitVec 12 × W32)) (skips : List SkipReport) : State :=
  let s := (skips.foldl (fun s k => s.skipTake ctx k) (s.fullPassEnd ctx)).stepEnd ctx
  let x := s.ctxRec ctx
  let s := s.setCtxRec ctx { x with steps := x.steps + 1 }
  let s := consumed.foldl (fun s c => s.takeConsumed ctx c) s
  let s := (s.ctxReqs ctx).foldl (fun s p =>
    if p.2.pausing.isSome && (p.2.st == 1 || p.2.st == 2 || p.2.st == 3)
    then s.setReq p.1 (some { p.2 with st := 4 }) else s) s
  if !s.generates ctx then s
  else
    let ms := s.models.filter fun m => m.ctx == ctx && m.role == 1
    let s := ms.foldl (fun s m => s.batchModel ctx m) s
    s.setCtxRec ctx { s.ctxRec ctx with casts := ms.flatMap (s.castSteps ctx) }

def execBatchFormation (ctx : Ctx) (consumed : List (BitVec 12 × W32)) (skips : List SkipReport) (s : State) :
    Host.Outcome State Fault Refusal :=
  .next (if s.devState = Dev.running then s.batchForm ctx.val consumed skips else s)

/-! The commands (R374–R377) -/

/-- Entries of a die's map that a sequence needs: the pages from ordinal `shared` on that have their home there, and the alias
of one that shares a prefix. -/
def State.mapNeed (s : State) (d ctx h span parts shared last : Nat) (aliased : Bool) : Nat :=
  ((List.range (s.pageCount ctx last)).filter fun o =>
    decide (shared ≤ o) && s.holds ctx parts 0 o && s.homeDie ctx h span o == d).length +
    b2n (aliased && (s.coreSet ctx).any fun k => k / 48 == d)

/-- What a request or a prefix needs on a die. -/
def State.reqNeed (s : State) (d : Nat) (r : Req) : Nat :=
  s.mapNeed d r.ctx r.handle r.span r.parts (s.sharedOrds r) r.endPos (handleUse r.pre != 0)
def State.prefixNeed (s : State) (d : Nat) (p : PrefixRun) : Nat := s.mapNeed d p.ctx p.handle p.span 1 0 p.len false

/-- Entries of a die's map that are in use or reserved, for all contexts or for one: those of requests and prefixes, whether
inserted yet or not, and those that stand under other handles. -/
def State.mapReserved (s : State) (d : Nat) (ctx : Option Nat) : Nat :=
  let mine (c : Nat) : Bool := ctx.isNone || ctx == some c
  let rs := s.allReqs.filter fun p => mine p.2.ctx
  let ps := s.allPrefixes.filter fun p => mine p.2.ctx
  let owned (h : Nat) : Bool := rs.any (fun p => p.2.handle == h) || ps.any fun p => p.2.handle == h
  rs.foldl (fun k p => k + s.reqNeed d p.2) 0 + ps.foldl (fun k p => k + s.prefixNeed d p.2) 0 +
    ((s.mapEntries d).filter fun e => mine (enCtx e.2) && !owned (enHandle e.2)).length

/-- The reservation of R196: no die's map, with what its sequences may still insert, passes 90 % or the context's quota. -/
def State.canReserve (s : State) (ctx h span parts shared last : Nat) (aliased : Bool) : Bool :=
  span != 0 && (List.range 8).all fun d =>
    let n := s.mapNeed d ctx h span parts shared last aliased
    n == 0 || (decide (s.mapReserved d none + n ≤ 58982) &&
      decide (s.mapReserved d (some ctx) + n ≤ s.get (Base.pageMap d) Reg.quotaLimit ctx))

/-- The first status of Table 10.10 whose condition holds: conditions in the table's order. -/
def firstStatus : List (Bool × Nat) → Nat
  | [] => Status.ok
  | (c, st) :: rest => if c then st else firstStatus rest

/-- Tokens of a prompt. -/
def tokensOf (l : Option (List W32)) : List Nat := (l.getD []).map fun w => w.toNat % 2 ^ 20

/-- FP32 conditions of R168. -/
def sampleOk (topK topP temp : Nat) : Bool :=
  decide (topK ≤ 1024) && !((f32 temp).isNan || (f32 temp).lt Fv.zero) && Fv.zero.lt (f32 topP) &&
    !((Fv.ofInt 1).lt (f32 topP))

/-- A ring that R352 allows: inside the host window, on 64 bytes. -/
def hostRingOk (lg a : Nat) : Bool :=
  decide (6 ≤ lg) && decide (lg ≤ 20) && a % 64 == 0 && decide (hostBase ≤ a) && decide (a < 0x300000000000)

/-- Alias entries of a request on the dies of its context. -/
def State.aliasPut (s : State) (ctx h pre ord : Nat) : Bool × State :=
  (((s.coreSet ctx).map (· / 48)).eraseDups).foldl (fun x d =>
    if x.1 then x.2.mapPlace d (word (h * 2 ^ 32 + aliasOrd * 2 ^ 12 + 2 ^ 7 + ctx), word (pre * 2 ^ 32 + ord)) 32 else x)
    (true, s)

/-- The status that a `SUBMIT` meets. -/
def State.submitStatus (s : State) (c : HostCmd) (prompt : Option (List W32)) : Nat :=
  let ctx := c.queue.val
  let m := s.modelOf ctx (bits c.b0 63 32)
  let pre := bits c.b4 63 32
  let p := if handleUse pre = 0 then none else s.prefixOf pre
  let preLen := (p.map (·.2.len)).getD 0
  let last := preLen + bits c.b4 23 0 + bits c.b0 23 0
  let span := match p with
    | some q => q.2.span
    | none => s.spanOf ctx last
  let toks := tokensOf prompt
  let full := (p.map fun q => s.fullPages ctx q.2.len).getD 0
  let h := (s.newHandle ctx 0 (s.freeSlot.getD 0)).1
  let parts := s.seqParts ctx last ((m.map (·.prog.seqGroup)).getD 0)
  firstStatus
    [(decide (2 < bits c.b0 31 28) || decide (8 < bits c.b0 27 24) || bits c.b0 23 0 == 0 || bits c.b3 31 22 != 0 ||
        bits c.b3 20 11 != 0 || bits c.b4 31 24 != 0 || bits c.b5 63 48 != 0 || bits c.b6 63 56 != 0 ||
        bits c.b7 31 20 != 0, Status.denied),
     (!sampleOk (bits c.b3 10 0) (bits c.b2 63 32) (bits c.b2 31 0), Status.denied),
     (bits c.b0 27 24 != 0 && m.isSome && !(s.models.any fun k => k.ctx == ctx && k.maqOf == bits c.b0 63 32 && k.role == 4),
        Status.denied),
     (!hostRingOk (bits c.b6 55 48) (bits c.b6 47 0), Status.denied),
     (bits c.b4 23 0 == 0 || decide (16777216 < last), Status.denied),
     (prompt.isSome && (match m with
        | some k => toks.any fun t => decide (k.prog.vocab ≤ t)
        | none => false), Status.denied),
     (s.freeSlot.isNone || decide (s.get Base.contexts Reg.cxSlots ctx ≤ (s.ctxReqs ctx).length), Status.denied),
     (!s.canReserve ctx h span parts full last p.isSome, Status.denied),
     ((m.map (·.leaving)).getD false, Status.denied),
     ((match p, m with
        | some q, some k => q.2.model != k.handle
        | _, _ => false), Status.denied),
     (!((m.map fun k => k.role == 1).getD false), Status.notResident),
     (handleUse pre != 0 && !((p.map fun q => q.2.ctx == ctx && !q.2.dropped && q.2.cmd.isNone).getD false),
        Status.notResident),
     (prompt.isNone, Status.tierFail)]

/-- A request as a `SUBMIT` describes it. -/
def submitReq (c : HostCmd) (h order now preLen preUsed span parts due : Nat) (toks : List Nat) : Req :=
  { handle := h, ctx := c.queue.val, model := bits c.b0 63 32, st := 1, dclass := bits c.b0 31 28,
    draft := bits c.b0 27 24, deff := bits c.b0 27 24, maxNew := bits c.b0 23 0, ttftUs := bits c.b1 63 32,
    tbtUs := bits c.b1 31 0, topP := bits c.b2 63 32, temp := bits c.b2 31 0, nonce := bits c.b3 63 32,
    stopEn := bit c.b3 21, stop := bits c.b7 19 0, topK := bits c.b3 10 0, pre := bits c.b4 63 32, preLen := preLen,
    prompt := toks, ringLog := bits c.b6 55 48, ringAddr := bits c.b6 47 0, produced := 0, consumed := 0,
    userTag := bits c.b7 63 32, next := preLen + toks.length, sealed := 0,
    endPos := preLen + toks.length + bits c.b0 23 0, prefilled := preUsed, prefSealed := preUsed, span := span, due := due,
    accepted := now, lastAt := none, ttft := 0, tbtMax := 0, late := 0, behind := false, order := order, cast := 0, held := false,
    piece := 0, inStep := false, skipRound := 0, kept := [], sampled := false, parts := parts,
    stretches := [], final := none, winSteps := 0, winAcc := 0, pausing := none }

/-- The due stroke of a first token. -/
def State.firstDue (s : State) (dclass us : Nat) : Nat := if dclass = 0 ∨ us = 0 then 0 else s.stroke + s.strokesOf us

/-- `SUBMIT`. -/
def State.submit (s : State) (c : HostCmd) (prompt : Option (List W32)) : State :=
  let st := s.submitStatus c prompt
  if st ≠ Status.ok then s.complete c st
  else
    let ctx := c.queue.val
    let i := s.freeSlot.getD 0
    let pre := bits c.b4 63 32
    let p := if handleUse pre = 0 then none else s.prefixOf pre
    let n := s.newHandle ctx 0 i
    let h := n.1
    let s := n.2
    let preLen := (p.map (·.2.len)).getD 0
    let full := match p with
      | some q => s.fullPages ctx q.2.len
      | none => 0
    let used := if full = 0 then 0 else pageFirst (s.topClass ctx) full
    let toks := (tokensOf prompt).take (bits c.b4 23 0)
    let span := match p with
      | some q => q.2.span
      | none => s.spanOf ctx (preLen + toks.length + bits c.b0 23 0)
    let group := ((s.modelOf ctx (bits c.b0 63 32)).map (·.prog.seqGroup)).getD 0
    let parts := s.seqParts ctx (preLen + toks.length + bits c.b0 23 0) group
    let r := submitReq c h s.taken s.stroke preLen used span parts (s.firstDue (bits c.b0 31 28) (bits c.b1 63 32)) toks
    let s := { s with taken := s.taken + 1 }
    let s := ((s.setReq i (some r)).count Base.requests Reg.rqAdmitted).reqShow.workScheduled
    let s := s.complete c Status.ok h [word (h * 2 ^ 32 + r.next * 2 ^ 8)]
    if p.isNone then s
    else
      let a := s.aliasPut ctx h pre full
      if a.1 then a.2 else a.2.reqFail i Status.denied

def execSubmit (cmd : HostCmd) (prompt : Option (List W32)) (s : State) : Host.Outcome State Fault Refusal :=
  .next (s.hostCmd cmd 0x30 fun s => s.submit cmd prompt)

/-- A body whose other words are zero. -/
def zeroWords (l : List Word) : Bool := l.all (· == 0)

/-- `PAUSE` takes the request out at the next formation (R368). -/
def State.pauseCmd (s : State) (c : HostCmd) : State :=
  let h := bits c.b0 31 0
  let r := (s.reqOf h).filter fun p => p.2.ctx == c.queue.val && p.2.pausing.isNone && p.2.st != 5
  if bits c.b0 63 32 ≠ 0 ∨ bits c.b1 63 32 ≠ 0 ∨ !zeroWords [c.b2, c.b3, c.b4, c.b5, c.b6, c.b7] then
    s.complete c Status.denied
  else
    match r with
    | none => s.complete c Status.notResident
    | some (i, r) => s.setReq i (some { r with pausing := some (c, bits c.b1 31 0) })

def execPause (cmd : HostCmd) (s : State) : Host.Outcome State Fault Refusal :=
  .next (s.hostCmd cmd 0x31 fun s => s.pauseCmd cmd)

/-- The pages of a request as its pause object keeps them. -/
def State.pausePages (s : State) (h : Nat) : List PausedPage :=
  (s.pagesOf h).map fun p =>
    { die := p.1, entry := p.2.2,
      bytes := if enTier p.2.2 < 2 then some (s.loadBytes (enLoc p.2.2 * 4096) (s.pageBytes p.1 p.2.2)).1 else none }

/-- The sealed state of a paused request is written. -/
def State.pauseStore (s : State) (i : Nat) : State :=
  match s.slotReq i with
  | none => s
  | some r =>
    match r.pausing, r.st == 4 && r.stretches.isEmpty with
    | some (c, ttl), true =>
      let pages := s.pausePages r.handle
      let blocks := 1 + pages.foldl (fun n p => n + ceilDiv (s.pageBytes p.die p.entry) 4096) 0
      let n := s.objFree
      let (st, s) := s.objCreate n r.ctx 2 blocks ttl
      if st ≠ Status.ok then
        (s.setReq i (some { r with
          st := if r.prefilled < r.preLen + r.prompt.length then 1 else 2, pausing := none })).complete c Status.denied
      else
        let s := (s.objOpen n (some ({ r with pausing := none }, pages))).objSeal n |>.2
        let s := (((s.pagesFree r.handle).setReq i none).prefixSweep).reqShow
        s.complete c Status.ok 0 [word (n * 2 ^ 44 + r.sealed * 2 ^ 20)]
    | _, _ => s

/-- The sealed state of a paused request is written once its last stretch has its outcome (R368) and its pages that lie below
DDR have been read back. -/
def State.pauseWrite (s : State) (i : Nat) : State :=
  match s.slotReq i with
  | none => s
  | some r =>
    let low (s : State) := (s.pagesOf r.handle).filter fun p => enKind p.2.2 == 1 && decide (2 ≤ enTier p.2.2)
    if r.pausing.isSome && r.st == 4 && r.stretches.isEmpty then
      let s := (low s).foldl State.pagePrefetch s
      if (low s).isEmpty then s.pauseStore i else s
    else s

def execPauseObjectWrite (slot : BitVec 12) (s : State) : Host.Outcome State Fault Refusal :=
  .next (if s.serving then s.pauseWrite slot.toNat else s)

/-- Put a page's bytes back where its entry could be placed and the page came with bytes. -/
def State.pageBack (s : State) (ok : Bool) (a : Nat) (bytes : Option (List Byte)) : State :=
  match ok, bytes with
  | true, some bs => s.storeBytes a bs
  | _, _ => s

/-- Insert a paused page under a new handle, at its home, its bytes in a new place. -/
def State.resumePage (s : State) (ctx h span : Nat) (p : PausedPage) : Bool × State :=
  if enKind p.entry ≠ 1 then (true, s)
  else
    let d := s.homeDie ctx h span (enOrd p.entry)
    let l := s.pageLoc d ctx (enClass p.entry)
    let r := l.2.mapPlace d (pageEntry h (enOrd p.entry) (enClass p.entry) 1 ctx (l.2.epochOf (l.1 * 4096)).toNat
      (enFill p.entry) false l.1) 32
    (r.1, r.2.pageBack r.1 (l.1 * 4096) p.bytes)

/-- The paused request's pages put back one by one, as long as they can be placed. -/
def State.resumePages (s : State) (ctx h span : Nat) (pages : List PausedPage) : Bool × State :=
  pages.foldl (fun x p => if x.1 then x.2.resumePage ctx h span p else x) (true, s)

/-- The alias entries of the resumed request's prefix, where it has one. -/
def State.resumeAlias (s : State) (ok : Bool) (ctx h pre full : Nat) : Bool × State :=
  if ok && handleUse pre != 0 then s.aliasPut ctx h pre full else (ok, s)

/-- The span of a resumed request: its prefix's, or that of its own length over the cores now in service (R211, R366). -/
def State.resumeSpan (s : State) (r : Req) : Nat :=
  match s.prefixOf r.pre with
  | some q => if handleUse r.pre = 0 then s.spanOf r.ctx r.endPos else q.2.span
  | none => s.spanOf r.ctx r.endPos

/-- The request of a paused object goes on: its pages and aliases placed, or `DENIED` with nothing changed. -/
def State.resumeTake (s : State) (c : HostCmd) (r : Req) (pages : List PausedPage) : State :=
  let ctx := c.queue.val
  let lg := bits c.b1 55 48
  let ring := bits c.b1 47 0
  let i := s.freeSlot.getD 0
  let n := s.newHandle ctx 0 i
  let h := n.1
  let span := s.resumeSpan r
  let back := n.2.resumePages ctx h span pages
  let full := match back.2.prefixOf r.pre with
    | some p => back.2.fullPages ctx p.2.len
    | none => 0
  let a := back.2.resumeAlias back.1 ctx h r.pre full
  if !a.1 then s.complete c Status.denied
  else
    let s := a.2
    let first := r.preLen + r.prompt.length
    let r := { r with
      handle := h, span := span, st := if r.prefilled < first then 1 else 2, ringLog := lg, ringAddr := ring, produced := 0,
      consumed := 0, next := if r.sealed = 0 then first else r.sealed, accepted := s.stroke, lastAt := none,
      due := s.firstDue r.dclass r.ttftUs, order := s.taken, pausing := none, inStep := false, sampled := false,
      skipRound := 0, kept := [], piece := 0, held := false }
    let s := { s with taken := s.taken + 1 }
    let s := ((s.setReq i (some r)).count Base.requests Reg.rqAdmitted).reqShow.workScheduled
    (s.objDelete (bits c.b0 63 44)).2.complete c Status.ok h [word (h * 2 ^ 32 + r.next * 2 ^ 8)]

/-- `RESUME` (R369). -/
def State.resumeCmd (s : State) (c : HostCmd) : State :=
  let ctx := c.queue.val
  let o := (s.obj (bits c.b0 63 44)).filter fun o => o.ctx == ctx && o.kind == 2
  let lg := bits c.b1 55 48
  let ring := bits c.b1 47 0
  let pre : Nat := ((o.bind (·.paused)).map fun p => p.1.pre).getD 0
  let st := firstStatus
    [(bits c.b0 43 0 != 0 || bits c.b1 63 56 != 0 || !zeroWords [c.b2, c.b3, c.b4, c.b5, c.b6, c.b7], Status.denied),
     (!hostRingOk lg ring, Status.denied),
     (s.freeSlot.isNone || decide (s.get Base.contexts Reg.cxSlots ctx ≤ (s.ctxReqs ctx).length), Status.denied),
     (!((o.bind (·.paused)).map fun p => s.canReserve ctx (s.newHandle ctx 0 (s.freeSlot.getD 0)).1 (s.resumeSpan p.1) p.1.parts
        (s.sharedOrds p.1) p.1.endPos (handleUse p.1.pre != 0)).getD true, Status.denied),
     (o.isNone, Status.notResident),
     (((o.bind (·.paused)).map fun p => (s.modelOf ctx p.1.model).isNone).getD false, Status.notResident),
     (handleUse pre != 0 && !(((s.prefixOf pre).map fun p => !p.2.dropped).getD false), Status.notResident),
     ((o.map fun o => s.objNow o == 3).getD false, Status.expired),
     ((o.map fun o => s.objNow o != 2).getD false, Status.tierFail)]
  if st ≠ Status.ok then s.complete c st
  else
    match o.bind (·.paused) with
    | none => s.complete c Status.tierFail
    | some (r, pages) => s.resumeTake c r pages

def execResume (cmd : HostCmd) (s : State) : Host.Outcome State Fault Refusal :=
  .next (s.hostCmd cmd 0x32 fun s => s.resumeCmd cmd)

/-- `REGISTER_PREFIX` starts the prefill of a prefix (R365). -/
def State.registerPrefix (s : State) (c : HostCmd) (tokens : Option (List W32)) : State :=
  let ctx := c.queue.val
  let m := s.modelOf ctx (bits c.b0 63 32)
  let len := bits c.b0 23 0
  let want := bits c.b2 23 0
  let span := s.spanOf ctx want
  let toks := tokensOf tokens
  let st := firstStatus
    [(bits c.b0 31 24 != 0 || bits c.b1 63 48 != 0 || bits c.b2 63 24 != 0 || !zeroWords [c.b3, c.b4, c.b5, c.b6, c.b7] ||
        len == 0 || decide (want < len), Status.denied),
     (tokens.isSome && (match m with
        | some k => toks.any fun t => decide (k.prog.vocab ≤ t)
        | none => false), Status.denied),
     (s.freePrefix.isNone || !s.canReserve ctx (s.newHandle ctx 1 (s.freePrefix.getD 0)).1 span 1 0 len false || (m.map (·.leaving)).getD false, Status.denied),
     (!((m.map fun k => k.role == 1).getD false), Status.notResident),
     (tokens.isNone, Status.tierFail)]
  if st ≠ Status.ok then s.complete c st
  else
    let i := s.freePrefix.getD 0
    let (h, s) := s.newHandle ctx 1 i
    let p : PrefixRun :=
      { handle := h, ctx := ctx, model := bits c.b0 63 32, len := len, span := span, spanToks := want, tokens := toks.take len,
        prefilled := 0, prefSealed := 0, piece := 0, stretches := [], order := s.taken, dropped := false, cmd := some c }
    (({ s with taken := s.taken + 1 }).setPrefix i (some p)).reqShow.workScheduled

def execRegisterPrefix (cmd : HostCmd) (tokens : Option (List W32)) (s : State) : Host.Outcome State Fault Refusal :=
  .next (s.hostCmd cmd 0x33 fun s => s.registerPrefix cmd tokens)

/-- `DROP_PREFIX` (R367). -/
def State.dropPrefix (s : State) (c : HostCmd) : State :=
  let p := (s.prefixOf (bits c.b0 31 0)).filter fun p => p.2.ctx == c.queue.val && !p.2.dropped && p.2.cmd.isNone
  if bits c.b0 63 32 ≠ 0 ∨ !zeroWords [c.b1, c.b2, c.b3, c.b4, c.b5, c.b6, c.b7] then s.complete c Status.denied
  else
    match p with
    | none => s.complete c Status.notResident
    | some (i, p) => ((s.setPrefix i (some { p with dropped := true })).prefixSweep).complete c Status.ok

def execDropPrefix (cmd : HostCmd) (s : State) : Host.Outcome State Fault Refusal :=
  .next (s.hostCmd cmd 0x34 fun s => s.dropPrefix cmd)

/-! Slot views (Table 10.14) -/

def State.slotView (s : State) (i : Nat) : List Word :=
  match s.slotReq i with
  | none => [0, 0, 0, 0]
  | some r =>
    [word (r.st * 2 ^ 60 + r.dclass * 2 ^ 56 + r.band * 2 ^ 54 + r.deff * 2 ^ 50 + r.cast * 2 ^ 32 + r.handle),
     word (r.next * 2 ^ 40 + r.sealed * 2 ^ 16 + r.late),
     word (r.endPos * 2 ^ 40 + r.prefilled * 2 ^ 16 + r.span),
     word (r.due % 2 ^ 32 * 2 ^ 32 + r.ttft * 2 ^ 16 + r.tbtMax)]

end Sys2Proof.Machine
end

