-- ==== Sys2Proof/Machine/Models.lean ====
section
/-! DEFINITION. Models: loading, replacing and evicting (R361, R370–R373, R376, R497, R498). -/

namespace Sys2Proof.Machine

/-! A context's devices and its DDR -/

/-- The devices of a group, ascending. -/
def State.groupDevs (s : State) (group : List (Nat × Nat)) : List Nat :=
  (List.range s.fabric.length).filter fun d =>
    match s.fabric[d]? with
    | none => false
    | some r => (List.range 4).all fun k =>
        let (lo, hi) := s.run group k
        decide (lo ≤ r.coords.getD k 0) && decide (r.coords.getD k 0 ≤ hi)

/-- The devices of a context. -/
def State.ctxDevs (s : State) (ctx : Nat) : List Nat := s.groupDevs (s.groupOf ctx)

/-- Devices fill a box of the fabric (R61). -/
def State.subGrid (s : State) (devs : List Nat) : Bool :=
  let cs := devs.map fun d => ((s.fabric[d]?).map (·.coords)).getD []
  let box := (List.range 4).map fun k =>
    let xs := cs.map fun c => c.getD k 0
    (xs.foldl max 0) + 1 - (minBy id xs).getD 0
  !devs.isEmpty && devs.length == box.foldl (· * ·) 1

/-- Replicas of `tp` consecutive devices each, every one a sub-grid (R370). -/
def State.replicasOk (s : State) (ctx tp : Nat) : Bool :=
  let devs := s.ctxDevs ctx
  devs.length % tp == 0 && (chunks tp devs.length devs).all fun r =>
    s.subGrid r && r == (List.range tp).map (r.headD 0 + ·)

/-- Bytes of its models' copies, its batches, its pages and its learning regions. -/
def State.ddrUsed (s : State) (ctx : Nat) : Nat :=
  (s.models.filter (·.ctx == ctx)).foldl (fun n m => n + m.bytes * max 1 m.casts.length) 0 +
    (s.learn ctx).batches.foldl (fun n b => n + b.bytes) 0 + s.pagesInDdr ctx +
    (s.learn ctx).regions

def State.ddrFits (s : State) (ctx n : Nat) : Bool := decide (s.ddrUsed ctx + n ≤ s.ddrShare ctx)

/-! Use of a model (R371, R373) -/

/-- A request, a prefix or a pause in progress uses the model; a maquette is used by its main model's. -/
def State.modelBusy (s : State) (m : Model) : Bool :=
  let h := if m.role = 4 then m.maqOf else m.handle
  (s.ctxReqs m.ctx).any (fun p => p.2.model == h && (m.role != 4 || p.2.draft != 0)) ||
    (m.role != 4 && s.allPrefixes.any fun p => p.2.ctx == m.ctx && p.2.model == m.handle)

/-- The models of a context's policy. -/
def State.policyNames (s : State) (ctx h : Nat) : Bool :=
  ((s.loop ctx).policy.map fun p => p.learn == h || p.gen == h).getD false

/-- A staged unit of the context uses the model: a step its trained model, a turn its pair, a stretch the models that
generate. -/
def State.unitUses (s : State) (m : Model) : Bool :=
  s.units.any fun u => u.ctx == m.ctx && u.staged &&
    ((u.kind == 0 && ((s.learn m.ctx).cfg.map (·.model)) == some m.handle) || (u.kind == 1 && (m.role == 1 || m.role == 4)) ||
      (u.kind == 2 && s.policyNames m.ctx m.handle))

/-- A running loop, or a stored `LEARN_STEP`, names the model. -/
def State.loopNames (s : State) (m : Model) : Bool :=
  let x := s.loop m.ctx
  (s.get Base.phase Reg.phLoop m.ctx == 1 &&
    (s.policyNames m.ctx m.handle || x.ref == m.handle || x.reward == m.handle)) ||
    ((s.learn m.ctx).cfg.map (·.model)) == some m.handle

/-- Take a model out of the device; its copies' storage is reallocated. -/
def State.dropModel (s : State) (ctx h : Nat) : State :=
  ({ s with models := s.models.filter fun m => !(m.ctx == ctx && m.handle == h) }).copyFree fun c =>
    c.ctx == ctx && c.model == h

/-! `LOAD_MODEL` -/

def lmModel (c : HostCmd) : Nat := bits c.b0 63 32
def lmRole (c : HostCmd) : Nat := bits c.b0 31 28
def lmSource (c : HostCmd) : Nat := bits c.b0 27 24
def lmTp (c : HostCmd) : Nat := bits c.b0 21 16 + 1
def lmObj (c : HostCmd) : Nat := bits c.b1 63 44
def lmBytes (c : HostCmd) : Nat := bits c.b2 39 0
def lmMaqOf (c : HostCmd) : Nat := bits c.b5 63 32
def lmReplace (c : HostCmd) : Nat := bits c.b5 31 0
def lmStage (c : HostCmd) : Nat := bits c.b6 63 44
def lmStageTtl (c : HostCmd) : Nat := bits c.b6 31 0

/-- A reserved value in the body. -/
def lmReserved (c : HostCmd) : Bool :=
  lmRole c == 0 || decide (4 < lmRole c) || lmSource c == 0 || decide (2 < lmSource c) || bits c.b0 23 22 != 0 ||
    bits c.b0 15 0 != 0 || (if lmSource c = 1 then bits c.b1 63 48 != 0 else bits c.b1 43 0 != 0) ||
    bits c.b2 63 40 != 0 || bits c.b3 63 48 != 0 || bits c.b4 63 32 != 0 || bits c.b6 43 32 != 0 || c.b7 != 0

/-- A maquette's conditions, once its main model is there (R361). -/
def State.maqOk (s : State) (ctx : Nat) (p : Program) (main : Model) : Bool :=
  main.role == 1 && p.headDim32 == main.prog.headDim32 && p.kvFmt == main.prog.kvFmt &&
    decide (p.kvHeads.toNat ≤ main.prog.kvHeads.toNat) &&
    decide (main.prog.layers + p.layers ≤ (s.pageCfg 0 ctx).layers)

/-- Segments of a shard's stream, and the digests that its prologue `p` gives them (R498). -/
def proSegments (p : List Byte) : Nat := leAt p 32 4
def proDigests (p : List Byte) : List (List Byte) := chunks 32 (proSegments p) (sub p 128 (32 * proSegments p))

/-- The prologue's form: its name, its size, what fills it, and nothing but zeros after the signature (R498). -/
def proFormed (p : List Byte) : Bool :=
  let used := 128 + 32 * proSegments p + leAt p 36 4
  p.take 8 == ascii [0x46, 0x4A, 0x56, 0x42, 0x55, 0x4E, 0x44, 0x4C] && decide (1 ≤ leAt p 16 1 ∧ leAt p 16 1 ≤ 2) &&
    decide (used ≤ leAt p 16 1 * 2 ^ 20) && (p.drop used).all (· == 0)

/-- The publisher stands in the trust list with the context's bit, and its signature over the header and the digest list
verifies (R497, R498). -/
def State.proTrusted (s : State) (ctx : Nat) (p : List Byte) : Bool :=
  let n := 128 + 32 * proSegments p
  match s.boot.image with
  | none => false
  | some i => i.trust.any fun t =>
      t.pubId == leAt p 8 4 && t.ctxMask.testBit ctx && hssVerify t.levels t.key (sub p n (leAt p 36 4)) (p.take n)

/-- Segment `k` of a stream. -/
def streamSeg (stream : List Byte) (k : Nat) : List Byte := sub stream (k * 2 ^ 20) (2 ^ 20)

/-- Every segment of the stream matches its digest, and the whole shard stands in the bytes that were read (log 203). -/
def streamOk (bytes : Nat) (p stream : List Byte) : Bool :=
  leAt p 24 8 == stream.length && proSegments p == ceilDiv stream.length (2 ^ 20) &&
    decide (leAt p 16 1 * 2 ^ 20 + stream.length ≤ bytes) &&
    (List.range (proSegments p)).all fun k => sha256 (streamSeg stream k) == (proDigests p).getD k []

/-- The prologue and the stream that a `MODEL` object holds: the prologue's segments first, then the stream's (R498; a prologue
of 2 MiB takes two: log 203). -/
def FlObj.shard (o : FlObj) : List Byte × List Byte :=
  let m := max 1 (leAt (o.segBytes 0) 16 1)
  let n := leAt (o.segBytes 0) 24 8
  (((List.range m).flatMap o.segBytes),
   (((List.range (ceilDiv n (2 ^ 20))).flatMap fun k => o.segBytes (m + k)).take n))

/-- The object's stored digests after the prologue's are the prologue's list, and each of its segments is as it was sealed
(R258, R498). -/
def FlObj.shardKept (o : FlObj) : Bool :=
  let p := o.shard.1
  let m := leAt p 16 1
  (List.range (proSegments p)).all (fun k => o.digests.getD (m + k) [] == (proDigests p).getD k []) &&
    (List.range (m + proSegments p)).all fun k => sha256 (o.segBytes k) == o.digests.getD k []

/-- What `LOAD_MODEL` reads: the prologue and the stream in the host window, or those of the object. -/
def State.loadSource (s : State) (c : HostCmd) (sh : Shard) : List Byte × List Byte :=
  match if lmSource c = 2 then s.obj (lmObj c) else none with
  | some o => o.shard
  | none => (sh.prologue, sh.stream)

/-- The shard verifies for a load of this context. -/
def State.shardTrusted (s : State) (c : HostCmd) (sh : Shard) : Bool :=
  let (p, stream) := s.loadSource c sh
  proFormed p && s.proTrusted c.queue.val p && streamOk (lmBytes c) p stream &&
    (match if lmSource c = 2 then s.obj (lmObj c) else none with
     | some o => o.shardKept
     | none => true)

/-- Blocks of a staged shard. -/
def lmBlocks (c : HostCmd) : Nat := ceilDiv (lmBytes c) 4096

/-- What stands against the command before its shard is read. -/
def State.loadRefusal (s : State) (c : HostCmd) (p : Program) : Nat :=
  let ctx := c.queue.val
  let main := s.modelOf ctx (lmMaqOf c)
  let old := s.modelOf ctx (lmReplace c)
  let freed := (old.map fun m => m.bytes * max 1 m.casts.length).getD 0
  let o := (s.obj (lmObj c)).filter fun o => o.ctx == ctx && o.kind == 3
  firstStatus
    [(lmReserved c || lmModel c == 0 || (s.modelOf ctx (lmModel c)).isSome, Status.denied),
     (!s.programOk ctx p || !limitsOk p, Status.denied),
     (lmRole c == 1 && !s.replicasOk ctx (lmTp c), Status.denied),
     (lmRole c == 4 && !((main.map fun m => s.maqOk ctx p m && !m.leaving).getD true), Status.denied),
     ((old.map (·.leaving)).getD false, Status.denied),
     (decide (s.ddrShare ctx + freed < s.ddrUsed ctx + lmBytes c), Status.denied),
     ((lmSource c == 2 || lmStage c != 0) && s.noFlash ctx, Status.denied),
     (lmStage c != 0 && decide ((s.objCreate (lmStage c) ctx 3 (lmBlocks c) (lmStageTtl c)).1 ≠ Status.ok), Status.denied),
     (lmRole c == 4 && main.isNone, Status.notResident),
     (lmReplace c != 0 && old.isNone, Status.notResident),
     (lmSource c == 2 && o.isNone, Status.notResident)]

/-- What the reading and verifying of the shard found (R498). -/
def State.loadFinding (s : State) (c : HostCmd) (sh : Shard) : Nat :=
  let o := if lmSource c = 2 then s.obj (lmObj c) else none
  firstStatus
    [((o.map fun o => s.objNow o == 3).getD false, Status.expired),
     (!sh.readFails && ((o.map fun o => s.objNow o == 2).getD true) && !s.shardTrusted c sh, Status.sigBad),
     (sh.readFails || (o.map fun o => s.objNow o != 2).getD false, Status.tierFail)]

/-- The statuses of Table 10.10, in its order. -/
def loadRanks : List Nat := [Status.denied, Status.notResident, Status.expired, Status.sigBad, Status.tierFail]

/-- A member's word in the barrier: bit i is 1 unless it failed with the i-th status. -/
def loadMask (st : Nat) : Word := word (maskOf ((List.range 5).filter fun i => loadRanks.getD i 0 != st))

/-- The status that the combined word gives: the first failure of any member. -/
def loadOutcome (w : Word) : Nat :=
  (((List.range 5).find? fun i => !bit w i).map fun i => loadRanks.getD i 0).getD Status.ok

/-- Write the shard into a new object: its prologue, padded to whole segments, then its stream (R372, R498). -/
def State.stageShard (s : State) (c : HostCmd) (sh : Shard) : State :=
  let (p, stream) := s.loadSource c sh
  let s := (s.objCreate (lmStage c) c.queue.val 3 (lmBlocks c) (lmStageTtl c)).2
  match s.obj (lmStage c) with
  | none => s
  | some o =>
    let o := ({ o with written := [] }.fill 0 0 (wordsOf p)).fill (leAt p 16 1 * 256) 0 (wordsOf stream)
    ((s.setObj { o with written := [(0, o.blocks)] }).objSeal (lmStage c)).2

/-- The load ends with the members' common status (R370). The model becomes usable with its copy as cast 0 (R385), its
program's words stand in the command stores, and a staged shard is written to its object (R372). -/
def State.loadEnd (s : State) (l : Load) (st : Nat) : State :=
  let c := l.cmd
  let ctx := c.queue.val
  let s := { s with loading := s.loading.filter fun (k : Load) => k.cmd != c }
  if st ≠ Status.ok then
    (s.copyFree fun k => (s.modelOf ctx (lmModel c)).isNone && k.ctx == ctx && k.model == lmModel c).complete c st
  else
    let m : Model :=
      { handle := lmModel c, ctx := ctx, role := lmRole c, tp := lmTp c, bytes := (s.loadSource c l.shard).2.length, maqOf := lmMaqOf c,
        prog := l.prog, bound := s.placement ctx l.prog, leaving := false, casts := if lmRole c = 1 then [0] else [] }
    let s := ({ s with models := s.models ++ [m] }).storeProgram m.prog m.bound
    (if lmStage c = 0 then s else s.stageShard c l.shard).complete c Status.ok 0 [word m.bytes]

/-- Loads whose barrier has its result end. -/
def State.takeLoads (s : State) : State :=
  s.arm.colls.foldl (fun s k =>
    match k.purpose == 6, k.result with
    | true, some ws =>
      let s := s.dropColl k.mtype k.tag
      match s.loading.find? fun l => l.stage == 1 && l.cmd.queue.val == k.ctx && lmModel l.cmd == k.subject.toNat with
      | some l => s.loadEnd l (loadOutcome (ws.getD 0 0))
      | none => s
    | _, _ => s) s

/-- Post a load's status in the barrier of the context's devices; with every tag in flight it waits for one (R63), halted for the return (R82). -/
def State.loadTry (s : State) (l : Load) : State :=
  let c := l.cmd
  let ctx := c.queue.val
  let put (s : State) (stage : Nat) : State :=
    { s with loading := s.loading.filter (fun (k : Load) => k.cmd != c) ++ [{ l with stage := stage }] }
  match (if s.devState = Dev.halted then none else s.freeTag) with
  | none => put s 2
  | some tag =>
    ((put s 1).collPost 0x0A tag ctx (word (lmModel c)) [7, 0, 0, 0] (s.groupOf ctx) [loadMask l.status, 0, 0, 0]
      6).takeLoads

/-- Post this member's status. -/
def State.loadPost (s : State) (c : HostCmd) (sh : Shard) (p : Program) (st : Nat) : State :=
  s.loadTry { cmd := c, shard := sh, prog := p, stage := 2, status := st }

/-- Loads that wait for a tag try again. -/
def State.loadsRetry (s : State) : State := (s.loading.filter (·.stage == 2)).foldl (fun s l => s.loadTry l) s

/-- Bind a program again if a core that holds it has left service (R415, R442). -/
def State.placeAgain (s : State) (ctx : Nat) (p : Program) (bound : List (Option Nat)) : List (Option Nat) × State :=
  if bound.any fun k => (k.map fun k => !s.coreUp (k / 48) (k % 48)).getD false then
    let b := s.placement ctx p
    (b, s.storeProgram p b)
  else (bound, s)

/-- Placement after a quarantine: every model's program, and every learning program. -/
def State.placeAll (s : State) : State :=
  let s := s.models.foldl (fun s m =>
    let (b, s) := s.placeAgain m.ctx m.prog m.bound
    { s with models := s.models.map fun k => if k.ctx == m.ctx && k.handle == m.handle then { k with bound := b } else k }) s
  (List.range 16).foldl (fun s ctx =>
    let x := s.learn ctx
    match x.prog with
    | none => s
    | some p =>
      let (b, s) := s.placeAgain ctx p x.bound
      s.setLearn ctx { x with bound := b }) s

/-- The stream lands in the copy's place in DDR. -/
def State.streamLand (s : State) (c : HostCmd) (stream : List Byte) : State :=
  match s.copies.find? fun k => k.ctx == c.queue.val && k.model == lmModel c && k.cast == 0 with
  | some k => s.stores k.addr ((wordsOf stream).map fresh)
  | none => s

/-- Read the shard into its place, verify it and post what was found (R498). -/
def State.loadRead (s : State) (c : HostCmd) (sh : Shard) (p : Program) : State :=
  let t := s.copyTake c.queue.val (lmModel c) 0 (lmBytes c)
  let st := s.loadFinding c sh
  (if sh.readFails || !s.proTrusted c.queue.val (s.loadSource c sh).1 then t
   else t.streamLand c (s.loadSource c sh).2).loadPost c sh p st

def State.loadModel (s : State) (c : HostCmd) (sh : Shard) (p : Program) : State :=
  let ctx := c.queue.val
  let st := s.loadRefusal c p
  if st ≠ Status.ok then s.loadPost c sh p st
  else if lmReplace c = 0 then s.loadRead c sh p
  else
    let l : Load := { cmd := c, shard := sh, prog := p, stage := 0, status := Status.ok }
    { s with
      loading := s.loading ++ [l],
      models := s.models.map fun m => if m.ctx == ctx && m.handle == lmReplace c then { m with leaving := true } else m }

def execLoadModel (cmd : HostCmd) (shard : Shard) (program : Program) (s : State) :
    Host.Outcome State Fault Refusal :=
  .next (s.hostCmd cmd 0x35 fun s => if s.loading.any (·.cmd == cmd) then s else s.loadModel cmd shard program)

/-- The last request and prefix of a replaced model have ended: it is evicted, and the load begins (R371). -/
def State.replaceEvict (s : State) (ctx h : Nat) : State :=
  match s.modelOf ctx h, s.loading.find? fun l => l.stage == 0 && l.cmd.queue.val == ctx && lmReplace l.cmd == h with
  | some m, some l =>
    if m.leaving && !s.modelBusy m then
      (s.dropModel ctx h).loadRead l.cmd l.shard l.prog
    else s
  | _, _ => s

def execReplaceEvict (ctx : Ctx) (model : W32) (s : State) : Host.Outcome State Fault Refusal :=
  .next (if s.serving then s.replaceEvict ctx.val model.toNat else s)

/-- `EVICT_MODEL` (R373). -/
def State.evictModel (s : State) (c : HostCmd) : State :=
  let ctx := c.queue.val
  let h := bits c.b0 63 32
  let m := s.modelOf ctx h
  let st := firstStatus
    [(bits c.b0 31 0 != 0 || !zeroWords [c.b1, c.b2, c.b3, c.b4, c.b5, c.b6, c.b7], Status.denied),
     ((m.map fun m => m.leaving || s.modelBusy m || s.unitUses m || s.loopNames m).getD false, Status.denied),
     (m.isNone, Status.notResident)]
  if st ≠ Status.ok then s.complete c st else (s.dropModel ctx h).complete c Status.ok

def execEvictModel (cmd : HostCmd) (s : State) : Host.Outcome State Fault Refusal :=
  .next (s.hostCmd cmd 0x36 fun s => s.evictModel cmd)

end Sys2Proof.Machine
end

