-- ==== Sys2Proof/Machine/Learn.lean ====
section
/-! DEFINITION. The learning phase: configuration, batches, the start of a step, its norm and its outcome (R302–R309,
R321–R339). -/

namespace Sys2Proof.Machine

/-! `LEARN_STEP` (Table 09.6) -/

def lsModel (c : HostCmd) : Nat := bits c.b0 63 32
def lsSteps (c : HostCmd) : Nat := bits c.b0 31 16
def lsBatch (c : HostCmd) : Nat := bits c.b4 63 48
def lsProg (c : HostCmd) : Nat := bits c.b5 47 0

/-- The configuration that a body gives. -/
def lsCfg (c : HostCmd) : LearnCfg :=
  { model := lsModel c, steps := lsSteps c, stages := bits c.b0 15 10 + 1, opt := bits c.b0 9 8, test := bit c.b0 7,
    offload := bit c.b0 6, wire32 := bit c.b0 5, tokenMean := bit c.b0 4, group := bits c.b0 3 0 + 1,
    wd := bits c.b1 63 32, lr := bits c.b1 31 0, beta2 := bits c.b2 63 32, beta1 := bits c.b2 31 0,
    clip := bits c.b3 63 32, eps := bits c.b3 31 0, batch := lsBatch c, mb := bits c.b4 47 32,
    lossScale := sgn 8 (bits c.b4 31 24), qdepth := bits c.b4 23 22 + 1, stepEvents := bit c.b4 21 }

/-- A reserved value. -/
def lsReserved (c : HostCmd) : Bool :=
  bits c.b0 9 8 == 0 || bits c.b4 20 0 != 0 || bits c.b5 63 48 != 0 || bits c.b6 63 32 != 0 || c.b7 != 0 ||
    decide (sgn 8 (bits c.b4 31 24) < -64) || decide (63 < sgn 8 (bits c.b4 31 24))

/-- Two configurations give the same steps. -/
def LearnCfg.same (a b : LearnCfg) : Bool :=
  decide ({ a with steps := b.steps, batch := b.batch, stepEvents := b.stepEvents } = b)

/-- Layers of each stage of a trained model (R324): `l` layers, `w` bytes per layer per member, `a` keep-set bytes. -/
def stageLayers (l stages w a : Nat) : List Nat :=
  let ds := (List.range stages).map fun i => max 1 (w + (stages - i) * a)
  let cs := (List.range stages).map fun i => (ds.eraseIdx i).foldl (· * ·) 1
  let t := cs.foldl (· + ·) 0
  let ns := cs.map fun c => l * c / t
  let rs := cs.map fun c => l * c % t
  let left := l - ns.foldl (· + ·) 0
  (List.range stages).map fun i =>
    let ahead := (List.range stages).filter fun j =>
      decide (rs.getD i 0 < rs.getD j 0) || (decide (rs.getD j 0 = rs.getD i 0) && decide (j < i))
    ns.getD i 0 + if ahead.length < left then 1 else 0

/-- The program that a command names, or the current one: a first configuration's is the model's. -/
def State.learnProg (s : State) (c : HostCmd) (p : Program) : Option Program :=
  if lsProg c ≠ 0 then some p
  else ((s.learn c.queue.val).prog).orElse fun _ => (s.modelOf c.queue.val (lsModel c)).map (·.prog)

/-- Devices of each stage. -/
def State.stageSize (s : State) (ctx stages : Nat) : Nat := (s.ctxDevs ctx).length / stages

/-- This device's place among the members of its stage. -/
def State.memberOf (s : State) (ctx stages : Nat) : Nat :=
  (((s.ctxDevs ctx).findIdx? (· == s.myNum)).getD 0) % max 1 (s.stageSize ctx stages)

/-- Bytes of the regions of R304: two master sets and the accumulator for the shard, the staging region for the whole stage,
and the keep sets. -/
def State.learnRegions (s : State) (ctx stages : Nat) (g : Program) : Nat :=
  let n := s.stageSize ctx stages
  let f := s.memberOf ctx stages
  28 * shardElements (memberTiles g n f) (memberRuns g n f) +
    4 * shardElements (memberTiles g 1 0) (memberRuns g 1 0) + g.regionBytes

/-- What stands against a `LEARN_STEP` (R335). -/
def State.learnRefused (s : State) (c : HostCmd) (p : Program) : Bool :=
  let ctx := c.queue.val
  let f := lsCfg c
  let x := s.learn ctx
  lsReserved c || decide (f.mb < 256) || !(((s.modelOf ctx f.model).map (·.role)) == some 3) || x.cmd.isSome ||
    (s.get Base.phase Reg.phLoop ctx == 1 && f.steps != 0) ||
    (match s.learnProg c p with
     | none => true
     | some g => !s.programOk ctx g || !g.layoutOk || decide (s.ddrShare ctx + x.regions < s.ddrUsed ctx + s.learnRegions ctx f.stages g)) ||
    (s.ctxDevs ctx).length % f.stages != 0 || !s.subGrid (s.ctxDevs ctx) ||
    s.units.any fun u => u.ctx == ctx && u.staged && u.kind != 0

/-- The result words of Table 09.7, for step `n`. -/
def Learn.words (x : Learn) (n : Nat) : List Word :=
  [word (n * 2 ^ 32 + min x.sealed 65535 * 2 ^ 16 + min x.voids 255 * 2 ^ 8 + x.live * 2 ^ 7 + b2n x.skipped * 2 ^ 6),
   word (x.gnorm * 2 ^ 32 + min x.tokens (2 ^ 32 - 1)),
   word (x.faultReason * 2 ^ 48 + x.faultLayer * 2 ^ 39 + b2n x.faultRs * 2 ^ 38 + x.idle % 2 ^ 16), 0]

/-- The step that a command's words report where no step is under way: the last sealed one. -/
def Learn.lastStep (x : Learn) : Nat := if x.sealed = 0 then 0 else x.step - 1

/-- Release batches of a context (R339). -/
def State.batchDrop (s : State) (ctx : Nat) (ns : List Nat) : State :=
  let x := s.learn ctx
  s.setLearn ctx { x with batches := x.batches.filter fun b => !ns.contains b.num }

/-- The command of a context's steps completes: the batches it used are released. `n` is the step reported. -/
def State.learnEnd (s : State) (ctx st n : Nat) : State :=
  let x := s.learn ctx
  match x.cmd with
  | none => s
  | some c =>
    let used := (List.range (x.sealed + 1)).map fun i => (lsBatch c + i) % 65536
    let s := s.setLearn ctx { x with cmd := none, left := 0, run := none, voids := 0 }
    let s := if st = Status.ok then s.batchDrop ctx (used.take x.sealed) else s.batchDrop ctx used
    s.completeWith c st 0 (x.words n)

/-- Take a configuration (R303, R307, R324, R335). -/
def State.learnConfigure (s : State) (c : HostCmd) (g : Program) : State :=
  let ctx := c.queue.val
  let f := lsCfg c
  let x := s.learn ctx
  let first := !((x.cfg.map (·.model)) == some f.model)
  let same := ((x.cfg.map fun o => o.same f).getD false) && x.prog == some g
  s.setLearn ctx { x with
    cfg := some f, prog := some g, changed := x.changed || !same,
    step := if first then 1 else x.step, opt := if first then 1 else x.opt, live := if first then 0 else x.live,
    regions := s.learnRegions ctx f.stages g, tiles := memberTiles g (s.stageSize ctx f.stages) (s.memberOf ctx f.stages),
    runs := memberRuns g (s.stageSize ctx f.stages) (s.memberOf ctx f.stages),
    layers := stageLayers g.layers f.stages g.layerBytes (if f.offload then 0 else g.keepBytes), 
    idle := idleCores g.experts (s.stageSize ctx f.stages) (s.memberOf ctx f.stages) (s.coreSet ctx).length }

def State.learnStep (s : State) (c : HostCmd) (p : Program) : State :=
  let ctx := c.queue.val
  if s.learnRefused c p then s.complete c Status.denied
  else
    match s.learnProg c p with
    | none => s
    | some g =>
      let s := s.learnConfigure c g
      let x := s.learn ctx
      let (bound, s) :=
        if lsProg c = 0 ∧ x.bound ≠ [] then (x.bound, s)
        else
          let b := s.placement ctx g
          (b, s.storeProgram g b)
      let x := { x with
        bound := bound, cmd := some c, left := lsSteps c, next := lsBatch c, sealed := 0, voids := 0, run := none, skipped := false,
        gnorm := 0, tokens := 0, faultReason := 0, faultLayer := 511, faultRs := false }
      let s := s.setLearn ctx x
      if lsSteps c = 0 then s.learnEnd ctx Status.ok 0 else s

def execLearnStep (cmd : HostCmd) (program : Program) (s : State) : Host.Outcome State Fault Refusal :=
  .next (s.hostCmd cmd 0x20 fun s => s.learnStep cmd program)

/-! `LOAD_BATCH` (Tables 09.8 and 09.9) -/

def lbBatch (c : HostCmd) : Nat := bits c.b0 63 48
def lbBytes (c : HostCmd) : Nat := bits c.b2 31 0

def lbReserved (c : HostCmd) : Bool :=
  bits c.b0 47 0 != 0 || bits c.b1 63 48 != 0 || bits c.b1 5 0 != 0 || bits c.b2 63 32 != 0 ||
    c.b3 != 0 || c.b4 != 0 || c.b5 != 0 || c.b6 != 0 || c.b7 != 0

/-- The sequences of an image: length, handle, tag and first token entry. -/
def imageSeqs (ws : List Word) : List (Nat × Nat × Nat × Nat) :=
  let h := ws.getD 0 0
  let off := bits (ws.getD 1 0) 47 0 / 8
  (chunks 2 ws.length ((ws.drop off).take (2 * bits h 63 32))).map fun e =>
    let w0 := e.getD 0 0
    let w1 := e.getD 1 0
    (if bits w0 55 32 = 0 then 2 ^ 24 else bits w0 55 32, bits w0 31 0, bits w1 63 48, bits w1 47 0)

/-- The token entries of an image. -/
def imageTokens (ws : List Word) : List Word :=
  (ws.drop (bits (ws.getD 2 0) 47 0 / 8)).take (bits (ws.getD 0 0) 31 0)

/-- Two runs of tokens share an entry. -/
def seqsMeet (a b : Nat × Nat × Nat × Nat) : Bool :=
  decide (a.2.2.2 < b.2.2.2 + b.1) && decide (b.2.2.2 < a.2.2.2 + a.1)

def anyPair {α : Type} (f : α → α → Bool) : List α → Bool
  | [] => false
  | a :: l => l.any (f a) || anyPair f l

/-- The image's tables lie within it, its sequences within the token table and apart, its tokens in the vocabulary
(R337). -/
def batchImageOk (bytes : Nat) (vocab : Option Nat) (ws : List Word) : Bool :=
  let h := ws.getD 0 0
  let seqs := bits h 63 32
  let toks := bits h 31 0
  let so := bits (ws.getD 1 0) 47 0
  let t := bits (ws.getD 2 0) 47 0
  let ss := imageSeqs ws
  decide (64 ≤ bytes) && decide (1 ≤ seqs) && decide (seqs ≤ 2 ^ 20) && so % 64 == 0 && t % 64 == 0 &&
    decide (so + 16 * seqs ≤ bytes) && decide (t + 8 * toks ≤ bytes) &&
    ss.all (fun q => decide (q.2.2.2 + q.1 ≤ toks)) && !anyPair seqsMeet ss &&
    (imageTokens ws).all fun w => (vocab.map fun v => decide (bits w 19 0 < v)).getD true

/-- The vocabulary of the model that a context learns. -/
def State.learnVocab (s : State) (ctx : Nat) : Option Nat :=
  ((s.learn ctx).cfg.bind fun f => s.modelOf ctx f.model).map (·.prog.vocab)

/-- `LOAD_BATCH`; `image` is what its reads bring, `none` where one fails. -/
def State.loadBatch (s : State) (c : HostCmd) (image : Option (List Word)) : State :=
  let ctx := c.queue.val
  let x := s.learn ctx
  if lbReserved c || x.batches.any (·.num == lbBatch c) || decide (16 ≤ x.batches.length) ||
      !s.ddrFits ctx (lbBytes c) then s.complete c Status.denied
  else
    match image with
    | none => s.complete c Status.tierFail
    | some ws =>
      if batchImageOk (lbBytes c) (s.learnVocab ctx) ws then
        let b : Batch :=
          { num := lbBatch c, bytes := lbBytes c, seqs := imageSeqs ws, tokens := imageTokens ws, looped := false }
        (s.setLearn ctx { x with batches := x.batches ++ [b] }).complete c Status.ok
      else s.complete c Status.denied

def execLoadBatch (cmd : HostCmd) (image : Option (List Word)) (s : State) : Host.Outcome State Fault Refusal :=
  .next (s.hostCmd cmd 0x21 fun s => s.loadBatch cmd image)

/-! The deal (R308, R309) -/

/-- Loads are kept in this fraction of a token, so that an r-th of a sequence is exact for every r up to 64. -/
def dealUnit : Nat := (List.range 64).foldl (fun m i => Nat.lcm m (i + 1)) 1

/-- Members of a run of `r` from `f` on, round the ring. -/
def ringRun (n f r : Nat) : List Nat := (List.range r).map fun i => (f + i) % n

/-- The run of `r` members with the least load. -/
def leastRun (loads : List Nat) (r : Nat) : Nat :=
  (minBy (fun f => ((ringRun loads.length f r).foldl (fun t i => t + loads.getD i 0) 0) * loads.length + f)
    (List.range loads.length)).getD 0

/-- Deal one sequence. -/
def dealOne (x : List Nat × List (Nat × Nat × Nat)) (j len r : Nat) : List Nat × List (Nat × Nat × Nat) :=
  let f := leastRun x.1 r
  ((ringRun x.1.length f r).foldl (fun l i => setAt l i (l.getD i 0 + len * dealUnit / r)) x.1, x.2 ++ [(j, f, r)])

/-- Where each sequence goes: the long ones first, each in batch order; `none` where a run is too long. -/
def dealBatch (members mb : Nat) (lens : List Nat) : Option (List (Nat × Nat × Nat)) :=
  let parts (n : Nat) : Nat := if mb < n then ceilDiv n mb else 1
  if lens.any fun n => decide (64 < parts n) || decide (members < parts n) then none
  else
    let js := lens.zipIdx
    let go (x : List Nat × List (Nat × Nat × Nat)) (l : List (Nat × Nat)) : List Nat × List (Nat × Nat × Nat) :=
      l.foldl (fun x p => dealOne x p.2 p.1 (parts p.1)) x
    some (go (go (List.replicate members 0, []) (js.filter fun p => decide (mb < p.1)))
      (js.filter fun p => decide (p.1 ≤ mb))).2

/-- Blocks of `n` tokens cut into `2r` that device `i` of `r` holds under ring attention: the first token and the tokens of
blocks `i` and `2r − 1 − i` (R214). -/
def ringBlocks (n r i : Nat) : List (Nat × Nat) :=
  if r ≤ 1 then [(0, n)]
  else
    let q := ceilDiv n (2 * r)
    [i, 2 * r - 1 - i].map fun k => (k * q, min q (n - k * q))

/-- Tokens of each sequence that a member holds, in batch order: the sequence, and runs of first token and tokens. -/
def memberParts (members : Nat) (lens : List Nat) (deal : List (Nat × Nat × Nat)) (f : Nat) :
    List (Nat × List (Nat × Nat)) :=
  (List.range lens.length).filterMap fun j =>
    match deal.find? fun d => d.1 == j with
    | none => none
    | some (_, f0, r) =>
      let i := (f + members - f0) % members
      if i < r then some (j, ringBlocks (lens.getD j 0) r i) else none

def partTokens (l : List (Nat × Nat)) : Nat := l.foldl (fun n p => n + p.2) 0

/-- Micro-batches of at most `mb` tokens, packed in order. -/
def microBatches (mb : Nat) : Nat → Nat → List Nat → Nat
  | _, k, [] => k
  | room, k, n :: l => if n ≤ room ∧ 0 < k then microBatches mb (room - n) k l else microBatches mb (mb - n) (k + 1) l

/-- Groups of a step: the largest count over the members. -/
def stepGroups (members mb group : Nat) (lens : List Nat) (deal : List (Nat × Nat × Nat)) : Nat :=
  (List.range members).foldl (fun m f =>
    max m (ceilDiv (microBatches mb 0 0 ((memberParts members lens deal f).map fun p => partTokens p.2)) group)) 0

/-! A step begins (R306, R321, R384) -/

/-- A unit of kind `k` of the context is staged, or a kind-2 one registered. -/
def State.unitOpen (s : State) (ctx k : Nat) : Bool := s.units.any fun u => u.ctx == ctx && u.kind == k && u.staged

/-- The number of the batch that the next step takes: the command's, or the loop's. -/
def State.stepBatch (s : State) (ctx : Nat) : Nat :=
  if (s.learn ctx).cmd.isSome then (s.learn ctx).next else (s.loop ctx).used

/-- Something wants steps: a command with steps left, or a loop in LEARN. -/
def State.wantsStep (s : State) (ctx : Nat) : Bool :=
  let x := s.learn ctx
  if x.cmd.isSome then decide (0 < x.left)
  else s.get Base.phase Reg.phPhase ctx == 3 && (((s.loop ctx).policy.map fun p => decide ((s.loop ctx).sealed < p.steps)).getD false)

/-- A loop stops: its phase is `NONE`, its requests stay, its event is posted (R383), and a stop that waits completes
(R405). -/
def State.loopStop (s : State) (ctx st : Nat) : State :=
  let x := s.loop ctx
  let b := Base.phase
  let s := (s.put b Reg.phPhase 0 ctx).put b Reg.phLoop 0 ctx
  let s := (s.put b Reg.phEntry s.stroke ctx).put b Reg.phVoids 0 ctx
  let s := s.setLoop ctx { x with stop := none, waiting := none, policy := x.waiting.orElse fun _ => x.policy, voids := 0 }
  let s := s.event ctx 5 st 0 0 []
  match x.stop with
  | some c => s.complete c Status.ok
  | none => s

/-- The step fails before it begins. -/
def State.stepFails (s : State) (ctx st : Nat) : State :=
  let x := s.learn ctx
  if x.cmd.isSome then s.learnEnd ctx st x.lastStep else s.loopStop ctx st

/-- The deadline in slots of a gather of so many bytes on each ring (R294): over the narrowest link of the rings and the
longest cable of the map. -/
def State.stepLat (s : State) (n bytes : Nat) : Nat :=
  let ls := s.ringsUp.flatMap fun r => [s.ringLink r 0, s.ringLink r 1]
  let w := (minBy id (ls.map fun l => s.get (Base.peerLink l) Reg.linkWidth)).getD 8
  gatherLat n w (fabricFlight s.fabric) (1000 * s.get Base.device Reg.strokeUs) bytes

def State.learnBegin (s : State) (ctx : Nat) : State :=
  let x := s.learn ctx
  match x.cfg with
  | none => s
  | some f =>
    if !s.runsSlots || !s.wantsStep ctx || x.run.isSome || s.unitOpen ctx 0 || s.unitOpen ctx 2 then s
    else
      match x.batches.find? fun b => b.num == s.stepBatch ctx with
      | none => s.stepFails ctx Status.notResident
      | some b =>
        let members := s.stageSize ctx f.stages
        let lens := b.seqs.map (·.1)
        match dealBatch members f.mb lens with
        | none => s.stepFails ctx Status.denied
        | some deal =>
          let groups := stepGroups members f.mb f.group lens deal
          let gathers := (x.prog.map fun p => stepGathers p members s.ringsUp.length groups (s.stepLat members)).getD []
          let slots (i : Nat) : List Nat :=
            (List.range f.stages).map fun k => (Config.freeValue (s.free + i * f.stages + k)).toNat % 65536
          let me := (((s.ctxDevs ctx).findIdx? (· == s.myNum)).getD 0) / max 1 members
          let pipe := pipePlan f.qdepth me groups (slots 0) (slots 1)
          let s := if f.stages = 1 then s else { s with free := s.free + 2 * f.stages }
          s.setLearn ctx { x with
            run := some { batch := b.num, seq := s.planSeq ctx, whole := x.changed || f.test || decide (2 ≤ x.voids), deal := deal,
                          groups := groups, gathers := gathers, sent := 0, onRings := 0,
                          buffers := [none, none], pipe := pipe, shares := [], posted := false, norm := none,
                          record := [] },
            gnorm := 0, tokens := 0, skipped := false }

def execLearnStepBegin (ctx : Ctx) (s : State) : Host.Outcome State Fault Refusal := .next (s.learnBegin ctx.val)

/-! Closing the step (R329, R330) -/

/-- The eight die partials added in die order, in FP64. -/
def State.normPartial (s : State) (x : Learn) : Nat :=
  ((List.range 8).filterMap fun d =>
    let a := cget (fun _ => 0) x.partials d
    if a = 0 then none else some (leNat (s.loadBytes a 8).1)).foldl f64add 0

/-- Tokens with `LOSS` that the batch deals to this device; only the members of stage 0 count. -/
def State.lossTokens (s : State) (ctx : Nat) (x : Learn) (r : LearnRun) : Nat :=
  match x.cfg, x.batches.find? fun b => b.num == r.batch, (s.ctxDevs ctx).findIdx? (· == s.myNum) with
  | some f, some b, some i =>
    let members := s.stageSize ctx f.stages
    if members ≤ i then 0
    else
      (memberParts members (b.seqs.map (·.1)) r.deal i).foldl (fun n p =>
        let first := ((b.seqs[p.1]?).map (·.2.2.2)).getD 0
        p.2.foldl (fun n q => n + (((b.tokens.drop (first + q.1)).take q.2).filter fun w => bit w 20).length) n) 0
  | _, _, _ => 0

/-- 1 / (1 − β^t), formed in FP64 and rounded to FP32; how the power is formed is left open. -/
def biasCorr (beta t : Nat) : Nat := (Config.approx 0x200 beta t).toNat

/-- 1 / (2^`LOSS_SCALE_LOG2` × N), in FP32. -/
def invScale (f : LearnCfg) (n : Nat) : Nat :=
  f32enc (((Fv.ofInt 1).div (Fv.ofInt (if f.tokenMean then n else 1))).scale (-f.lossScale))

/-- Take the reduced norm and token count: the finishing records' fields and `GNORM` follow. -/
def State.normTake (s : State) (ctx : Nat) (ws : List Word) : State :=
  let x := s.learn ctx
  match x.cfg, x.run with
  | some f, some r =>
    let n2 := (ws.getD 0 0).toNat
    let n := (ws.getD 1 0).toNat
    let inv := invScale f n
    let d (v : Nat) : Fv := Fmt.fp64.dec v
    let e (v : Fv) : Nat := Fmt.fp64.enc false v
    let g := f32enc (d (e ((d (e (d n2).sqrt)).mul (f32 inv))))
    s.setLearn ctx { x with
      run := some { r with
        shares := dieShares (shardElements x.tiles x.runs) ((List.range 8).filter fun d => !s.isFenced d 0xFF).length,
        norm := some (ws.getD 0 0, ws.getD 1 0),
        record := [f.lr, f.wd, f.beta1, f.beta2, f.eps, biasCorr f.beta1 x.opt, biasCorr f.beta2 x.opt, f.clip, inv] },
      gnorm := g, tokens := n, skipped := !(d n2).isFinite || (f.tokenMean && n == 0) }
  | _, _ => s

/-- Norms whose result is there. -/
def State.takeNorms (s : State) : State :=
  s.arm.colls.foldl (fun s k =>
    match k.purpose == 3, k.result with
    | true, some ws => (s.dropColl k.mtype k.tag).normTake k.ctx ws
    | _, _ => s) s

def State.normPost (s : State) (ctx : Nat) : State :=
  let x := s.learn ctx
  match x.run with
  | none => s
  | some r =>
    if r.posted || !s.runsSlots then s
    else
      match s.freeTag with
      | none => s
      | some tag =>
        let ws := [word (s.normPartial x), word (s.lossTokens ctx x r), 0, 0]
        ((s.setLearn ctx { x with run := some { r with posted := true } }).collPost 0x09 tag ctx (word x.step)
          [1, 3, 0, 0] (s.groupOf ctx) ws 3).takeNorms

def execStepNormPost (ctx : Ctx) (s : State) : Host.Outcome State Fault Refusal := .next (s.normPost ctx.val)

/-! The outcome of a step (R332, R336, R78) -/

/-- The step seals: the masters swap, n and t advance. -/
def State.learnSeal (s : State) (ctx : Nat) : State :=
  let x := s.learn ctx
  let n := x.step
  let ran := (x.run.map (·.batch)).getD (s.stepBatch ctx)
  let x := { x with live := 1 - x.live, step := n + 1, opt := x.opt + 1, sealed := x.sealed + 1, changed := false,
                    run := none }
  let events := (x.cfg.map (·.stepEvents)).getD false
  let s := s.setLearn ctx x
  let s := if events then s.event ctx 3 Status.ok 0 0 (x.words n) else s
  if x.cmd.isSome then
    if x.left ≤ 1 then s.learnEnd ctx Status.ok n
    else s.setLearn ctx { x with left := x.left - 1, next := (x.next + 1) % 65536, voids := 0 }
  else
    let l := s.loop ctx
    let s := s.setLoop ctx { l with sealed := l.sealed + 1, used := (l.used + 1) % 65536 }
    (s.setLearn ctx { x with voids := 0 }).batchDrop ctx [ran]

/-- Some device of the context's layout is out of service (R336). -/
def State.layoutGone (s : State) (ctx : Nat) : Bool := (s.ctxDevs ctx).any fun d => !s.devsInService.contains d

/-- The step voids, and in whole-pass mode the layer whose slots ran when the first reason was set is recorded; that of a
reduction, whose slots no rule gives, is a free value (R322). It is repeated, or its command or loop ends. -/
def State.learnVoid (s : State) (ctx : Nat) (u : SealUnit) : State :=
  let x := s.learn ctx
  let whole := (x.run.map (·.whole)).getD false
  let (w, s) := if whole then s.draw else (0, s)
  let reason := (u.cause.map (·.1)).getD (((setBits 16 u.reasons.toNat).head?).getD 0)
  let plan := (x.run.map (·.gathers)).getD []
  let found := u.cause.bind fun c => layerAt plan ((c.2 + 65536 - u.first % 65536) % 65536)
  let x := { x with
    voids := x.voids + 1, run := none, faultReason := reason,
    faultLayer := if whole then found.getD (bits w 7 0) else 511,
    faultRs := whole && (if plan.isEmpty then bit w 8 else found.isNone) }
  let s := s.setLearn ctx x
  let st := if s.layoutGone ctx then Status.gone else if 4 ≤ x.voids then Status.void else Status.ok
  if st = Status.ok then s
  else if x.cmd.isSome then s.learnEnd ctx st x.step
  else if s.get Base.phase Reg.phLoop ctx = 1 then (s.setLearn ctx { x with voids := 0 }).loopStop ctx st
  else s

end Sys2Proof.Machine
end

