-- ==== Sys2Proof/Machine/Plans.lean ====
section
/-! DEFINITION. Pointing plans: who builds a destination tile, by what path it goes home, and how firmware cuts a turn into
slots (R391–R395, R401). -/

namespace Sys2Proof.Machine

/-! Destination tiles (Table 11.2, R392, R393) -/

/-- BF16 source tiles of a destination tile in K and in N. -/
def planK (dfmt : Nat) : Nat := if dfmt = 0 then 1 else 2
def planN (dfmt : Nat) : Nat := if dfmt = 5 then 2 else 1

/-- Destination tiles of a matrix; the last of a column and the last column are padded where they must be. -/
def destRows (m : Matrix) (dfmt : Nat) : Nat := ceilDiv m.tilesK (planK dfmt)
def destTiles (m : Matrix) (dfmt : Nat) : Nat := destRows m dfmt * ceilDiv m.tilesN (planN dfmt)

/-- The first source tile of destination tile `i`, in the matrix's tile order. -/
def firstSource (m : Matrix) (dfmt i : Nat) : Nat :=
  let h := max 1 (destRows m dfmt)
  i / h * planN dfmt * m.tilesK + i % h * planK dfmt

/-- Every source tile of destination tile `i`. -/
def sourcesOf (m : Matrix) (dfmt i : Nat) : List Nat :=
  let a := firstSource m dfmt i
  let k := a % max 1 m.tilesK
  let n := a / max 1 m.tilesK
  ((List.range (planN dfmt)).flatMap fun x => (List.range (planK dfmt)).map fun y => (n + x, k + y)).filterMap fun p =>
    if p.1 < m.tilesN ∧ p.2 < m.tilesK then some (p.1 * m.tilesK + p.2) else none

/-- The member that owns tile `t` of `tiles` (R303). -/
def ownerOf (members tiles t : Nat) : Nat :=
  ((List.range members).find? fun f =>
    decide ((shardRun members tiles f).1 ≤ t) && decide (t < (shardRun members tiles f).1 + (shardRun members tiles f).2)).getD 0

/-- The builder of a destination tile among the members of a stage. -/
def builderOf (devs : List Nat) (m : Matrix) (dfmt i : Nat) : Nat :=
  devs.getD (ownerOf devs.length (matrixTiles m) (firstSource m dfmt i)) 0

/-- The source tiles of a destination tile that their owners lend to its builder. -/
def lentTo (devs : List Nat) (m : Matrix) (dfmt i : Nat) : List Nat :=
  (sourcesOf m dfmt i).filter fun t => devs.getD (ownerOf devs.length (matrixTiles m) t) 0 != builderOf devs m dfmt i

/-! The way home (R394) -/

/-- The devices of a map reached from the front, with their hops and the least cable flight along a shortest path. -/
def flights (f : List DevRec) : Nat → Nat → List (Nat × Nat) → List (Nat × Nat × Nat) → List (Nat × Nat × Nat)
  | 0, _, _, seen => seen
  | fuel + 1, h, front, seen =>
    let cand := front.flatMap fun p => (((f[p.1]?).map (·.links)).getD []).filterMap fun w =>
      if lwListed w ∧ (seen.any fun x => x.1 == lwPeer w) = false then some (lwPeer w, p.2 + lwFlight w) else none
    let next := (cand.map (·.1)).eraseDups.map fun d =>
      (d, ((minBy (·.2) (cand.filter fun c => c.1 == d)).map (·.2)).getD 0)
    if next.isEmpty then seen
    else flights f fuel (h + 1) next (seen ++ next.map fun x => (x.1, h, x.2))

def flightsFrom (f : List DevRec) (src : Nat) : List (Nat × Nat × Nat) := flights f f.length 1 [(src, 0)] [(src, 0, 0)]

/-- The nearest of the homes: by hops, cable flight and number. -/
def nearestHome (f : List DevRec) (builder : Nat) (homes : List Nat) : Option Nat :=
  (minBy (fun x => (x.2.1 * 2 ^ 32 + x.2.2) * 4096 + x.1) ((flightsFrom f builder).filter fun x => homes.contains x.1)).map
    (·.1)

/-- The homes are the devices of one line of the map that closes on itself. -/
def homesRing (f : List DevRec) (homes : List Nat) : Bool :=
  let at' (d k : Nat) : Nat := (((f[d]?).map (·.coords)).getD []).getD k 0
  (List.range 4).any fun k =>
    let n := (((f[homes.headD 0]?).map (·.sizes)).getD []).getD k 1
    let line := sortBy (fun d => at' d k) homes
    decide (2 ≤ n) && homes.length == n && line.map (at' · k) == List.range n &&
      ((List.range 4).all fun j => j == k || homes.all fun d => at' d j == at' (homes.headD 0) j) &&
      (List.range n).all fun i => (adjacent f [] (List.range f.length) (line.getD i 0)).contains (line.getD ((i + 1) % n) 0)

/-! The check of a plan (R395) -/

/-- A run follows R391 to R394: its first and last tile have its builder (and so has every tile between), every replica has a
home, and its path is the one that R394 gives. -/
def runOk (f : List DevRec) (devs : List Nat) (ms : List Matrix) (replicas : Nat) (r : PlanRun) : Bool :=
  match ms[r.matrix]? with
  | none => false
  | some m =>
    let homes := r.homes.map (·.toNat)
    let b := r.builder.toNat
    decide (r.tensor < 1024) && decide (r.dfmt.toNat ≤ 5) && decide (0 < r.count) && homes.length == replicas &&
      builderOf devs m r.dfmt.toNat r.first == b && builderOf devs m r.dfmt.toNat (r.first + r.count - 1) == b &&
      r.ring == homesRing f homes &&
      (if homes.contains b then r.target.toNat == b else some r.target.toNat == nearestHome f b homes)

/-- The runs of each matrix stand one after another and end with its last tile, the matrices in their order. -/
def runsCover (ms : List Matrix) : Nat → Nat → List PlanRun → Bool
  | i, at', [] => i == ms.length && at' == 0
  | i, at', r :: l =>
    match ms[i]? with
    | none => false
    | some m =>
      let n := destTiles m r.dfmt.toNat
      r.matrix == i && r.first == at' && decide (r.first + r.count ≤ n) &&
        (if r.first + r.count = n then runsCover ms (i + 1) 0 l
         else ((l.head?).map (·.dfmt)) == some r.dfmt && runsCover ms i (r.first + r.count) l)

/-- The members of this device's stage of a context's learning layout. -/
def State.stageDevs (s : State) (ctx : Nat) : List Nat :=
  let stages := ((s.learn ctx).cfg.map (·.stages)).getD 1
  let n := max 1 (s.stageSize ctx stages)
  let ds := s.ctxDevs ctx
  (ds.drop (((ds.findIdx? (· == s.myNum)).getD 0) / n * n)).take n

/-- Firmware accepts the plan of a generation program for a learning program: this device's stage of it. -/
def State.planOk (s : State) (ctx : Nat) (gen learn : Program) : Bool :=
  match gen.plan with
  | none => false
  | some p => runsCover learn.matrices 0 0 p.runs && p.runs.all (runOk s.fabric (s.stageDevs ctx) learn.matrices p.replicas)

/-- The plan still covers the units in service (R402). -/
def State.planCovers (s : State) (gen : Program) : Bool :=
  ((gen.plan.map (·.runs)).getD []).all fun r =>
    s.devsInService.contains r.builder.toNat && r.homes.all fun h => s.devsInService.contains h.toNat

/-! The slots of a turn (R395, R401) -/

/-- What a destination tile takes of an engine, or the scan of its source tiles (Table 11.5), in parts of a cycle of which there
are 192. -/
def engineParts (scan : Bool) (dfmt : Nat) : Nat :=
  planK dfmt * planN dfmt * 1024 * (if scan then 2 else if dfmt ≤ 2 then 3 else 6)

/-- What a destination tile moves in DDR (Table 11.6), in bytes of which an element has 32 parts. -/
def ddrParts (scan : Bool) (r : PlanRun) : Nat :=
  let k := r.dfmt.toNat
  let each := if k = 0 then 64 else if k = 3 ∨ k = 4 then 33 else if k = 5 then 17 else 32
  let n := r.homes.length
  planK k * planN k * 1024 * (if scan then 64 else 64 + (if n ≤ 1 ∨ r.ring = false then n * each else (n + 1) * each))

/-- Bytes of a destination tile that a slot's links carry away. -/
def awayBytes (r : PlanRun) : Nat := 2048 + if r.dfmt = 5 then 128 else if r.dfmt = 3 ∨ r.dfmt = 4 then 64 else 0

/-- What is left of a slot on one device. -/
structure SlotRoom where
  engine : Nat
  ddr : Nat
  chunks : Nat

/-- Tiles of a run that still fit. -/
def SlotRoom.fits (x : SlotRoom) (scan : Bool) (r : PlanRun) (left : Nat) : Nat :=
  let away := if scan = true ∨ r.target = r.builder then left else x.chunks * 65536 / awayBytes r
  min left (min (x.engine / max 1 (engineParts scan r.dfmt.toNat)) (min (x.ddr / max 1 (ddrParts scan r)) away))

def SlotRoom.take (x : SlotRoom) (scan : Bool) (r : PlanRun) (n : Nat) : SlotRoom :=
  { engine := x.engine - n * engineParts scan r.dfmt.toNat, ddr := x.ddr - n * ddrParts scan r,
    chunks := if scan = true ∨ r.target = r.builder then x.chunks else x.chunks - ceilDiv (n * awayBytes r) 65536 }

/-- The moves of each slot, in the plan's order: the largest run that fits, at least one tile. -/
def slotMoves (full : SlotRoom) (scan : Bool) : Nat → SlotRoom → Nat → Nat → List PlanRun → List TurnMove
  | 0, _, _, _, _ => []
  | _, _, _, _, [] => []
  | fuel + 1, x, slot, done, r :: l =>
    let n := x.fits scan r (r.count - done)
    if n = 0 then
      let m := max 1 (full.fits scan r (r.count - done))
      if done + m < r.count then
        { scan := scan, slot := slot + 1, matrix := r.matrix, first := r.first + done, count := m } ::
          slotMoves full scan fuel (full.take scan r m) (slot + 1) (done + m) (r :: l)
      else
        { scan := scan, slot := slot + 1, matrix := r.matrix, first := r.first + done, count := m } ::
          slotMoves full scan fuel (full.take scan r m) (slot + 1) 0 l
    else
      let y : TurnMove := { scan := scan, slot := slot, matrix := r.matrix, first := r.first + done, count := n }
      if done + n < r.count then y :: slotMoves full scan fuel (x.take scan r n) slot (done + n) (r :: l)
      else y :: slotMoves full scan fuel (x.take scan r n) slot 0 l

/-- A whole slot of this device: 16 engines, the channels in service at the rate in use, and the chunks that R294 allows on a
link direction for every link in service. -/
def State.slotRoom (s : State) : SlotRoom :=
  let budget := s.get Base.device Reg.budget
  let chans := (List.range 32).filter fun c => s.get (Base.ddr c) Reg.ddrState == 2
  let mts := (s.boot.image.map (·.ddrMts)).getD 0
  let stroke := 1000 * s.get Base.device Reg.strokeUs
  let perLink (l : Nat) : Nat := 97 * stroke * s.get (Base.peerLink l) Reg.linkWidth / 262144
  { engine := 16 * 192 * budget, ddr := 32 * (chans.length * mts * 8 * budget / 1000),
    chunks := (((List.range 24).filter s.linkUp).map perLink).foldl (· + ·) 0 }

/-- This device's moves of a turn, slot by slot: the scans of the tensor-scaled tensors first, the exchange of their
magnitudes, then the casts. -/
def State.turnPlan (s : State) (gen : Program) : List TurnMove :=
  let mine := ((gen.plan.map (·.runs)).getD []).filter fun r => r.builder.toNat == s.myNum
  let scaled := mine.filter fun r => r.dfmt = 1 ∨ r.dfmt = 2
  let x := s.slotRoom
  let fuel (l : List PlanRun) : Nat := l.foldl (fun n r => n + r.count + 1) 1
  let scans := slotMoves x true (fuel scaled) x 0 0 scaled
  let tensors := (scaled.map (·.tensor)).eraseDups.length
  let next := if scans.isEmpty then 0 else ((scans.getLast?.map (·.slot)).getD 0) + 1 + ceilDiv tensors 512
  scans ++ slotMoves x false (fuel mine) x next 0 mine

end Sys2Proof.Machine
end

