-- ==== Sys2Proof/Machine/Pointing.lean ====
section
/-! DEFINITION. The pointing engine: scan and cast jobs, and the exchange of the tensors' greatest magnitudes
(R396–R402). Engine e of a die is engine 4 + e of the engines of chapter 05. -/

namespace Sys2Proof.Machine

/-! Move records (Table 11.4) -/

def mvTensor (m : List Word) : Nat := bits (m.getD 0 0) 63 54
def mvDfmt (m : List Word) : Nat := bits (m.getD 0 0) 51 48
def mvSrc (m : List Word) : Nat := bits (m.getD 0 0) 47 0
def mvPadK (m : List Word) : Bool := bit (m.getD 1 0) 63
def mvPadN (m : List Word) : Bool := bit (m.getD 1 0) 62
def mvColStride (m : List Word) : Nat := bits (m.getD 1 0) 61 40
def mvNt (m : List Word) : Nat := bits (m.getD 1 0) 23 0
def mvDev (m : List Word) : Nat := bits (m.getD 2 0) 63 52
def mvDaddr (m : List Word) : Nat := bits (m.getD 2 0) 47 0
def mvStream (m : List Word) : Nat := bits (m.getD 3 0) 63 57

/-- A move that no engine runs (R396). -/
def mvMalformed (m : List Word) : Bool :=
  decide (5 < mvDfmt m) || mvNt m == 0 || (mvDfmt m != 5 && (mvPadN m || mvColStride m != 0))

/-! Formats (Table 11.2) -/

/-- The element's code, whether its scales are block scales, and the destination's K and N. -/
def ptCode (dfmt : Nat) : Nat :=
  if dfmt = 0 then Code.bf16 else if dfmt = 1 ∨ dfmt = 3 then Code.e4m3
  else if dfmt = 5 then Code.e2m1 else Code.e5m2
def ptMx (dfmt : Nat) : Bool := decide (3 ≤ dfmt)
def ptK (dfmt : Nat) : Nat := if dfmt = 0 then 32 else 64
def ptN (dfmt : Nat) : Nat := if dfmt = 5 then 64 else 32
/-- Bytes of a destination tile with its side-band (Table 03.4). -/
def ptTotal (dfmt : Nat) : Nat := 2048 + if dfmt = 5 then 128 else if dfmt = 3 ∨ dfmt = 4 then 64 else 0

/-! Reading for a pointing job -/

/-- Read an extent; an uncorrectable word in it sets `CHECK` (R402). -/
def State.ptRead (s : State) (d : Nat) (j : List Word) (a n : Nat) : Nat × List Byte × State :=
  let bad := s.jobStatus d j a n = Status.ok ∧
    (List.range ((a + n + 7) / 8 - a / 8)).any fun i =>
      let x := (a / 8 + i) * 8
      decide ((s.mem.load (s.key x) x).ecc = .bad)
  let (st, bs, s) := s.jobRead d j a n
  (st, bs, if bad then s.workReason (jobCtx j) (jobKind j) (jobSeq j) Reason.check else s)

/-- BF16 elements of bytes. -/
def halves (bs : List Byte) : List Nat := (chunks 2 bs.length bs).map leNat

/-- Read `n` source tiles, one by one. -/
def State.ptTiles (s : State) (d : Nat) (j : List Word) : List (Option Nat) → Nat × List (List Nat) × State
  | [] => (Status.ok, [], s)
  | none :: rest =>
    let r := s.ptTiles d j rest
    (r.1, List.replicate 1024 0 :: r.2.1, r.2.2)
  | some a :: rest =>
    let x := s.ptRead d j a 2048
    if x.1 ≠ Status.ok then (x.1, [], x.2.2)
    else
      let r := x.2.2.ptTiles d j rest
      (r.1, halves x.2.1 :: r.2.1, r.2.2)

/-- Run a job's moves in order until a status other than `OK`; a malformed one gives `DENIED` (R166). -/
def eachMove (run : List Word → State → Nat × State) : List (List Word) → State → Nat × State
  | [], s => (Status.ok, s)
  | m :: rest, s =>
    let (st, s) := run m s
    if st ≠ Status.ok then (st, s) else eachMove run rest s

/-- Read the move list of a job, then run it. -/
def State.withMoves (s : State) (d : Nat) (j : List Word) (run : List (List Word) → State → Nat × State) : Nat × State :=
  if inDie d (jobOut j) then
    s.withRecord d j (32 * jobCount j) fun r s =>
      let ws := wordsOf r
      run (chunks 4 ws.length ws) s
  else (Status.denied, s)

/-! `SCAN` (Table 11.3) -/

/-- The greatest magnitude of BF16 elements, as FP32. -/
def scanMax (amax : Nat) (xs : List Nat) : Nat := xs.foldl (fun m x => f32max m (x % 32768 * 65536)) amax

/-- Source tiles of a move from the `i`-th on. -/
def State.scanTiles (s : State) (d e : Nat) (j m : List Word) : Nat → Nat → Nat → Nat × Nat × State
  | _, amax, 0 => (Status.ok, amax, s)
  | a, amax, n + 1 =>
    let (st, bs, s) := s.ptRead d j a 2048
    if st ≠ Status.ok then (st, amax, s)
    else
      (s.count (Base.pointing d e) Reg.ptScanned).scanTiles d e j m (a + 2048) (scanMax amax (halves bs)) n

/-- Raise the tensor's `AMAX` to what one move finds, and note where the die's table lies (R399). -/
def State.scanMove (s : State) (d e : Nat) (j m : List Word) : Nat × State :=
  if mvNt m = 0 then (Status.denied, s)
  else
    let a := jobOut j + 8 * mvTensor m
    let (st, old, s) := s.jobRead d j a 4
    if st ≠ Status.ok then (st, s)
    else
      let (st, amax, s) := s.scanTiles d e j m (mvSrc m) (leNat old) (mvNt m)
      if st ≠ Status.ok then (st, s)
      else
        let x := s.loop (jobCtx j)
        let s := s.setLoop (jobCtx j)
          { x with tables := cset (fun _ => 0) x.tables d (jobOut j), top := max x.top (mvTensor m + 1) }
        s.jobWrite d j a (leBytes 4 amax)

def State.scanJob (s : State) (d e : Nat) : State :=
  s.jobRow d (4 + e) 0x01 fun j s => s.withMoves d j fun ms s => eachMove (fun m s => s.scanMove d e j m) ms s

def execScan (die : DieNo) (engine : Fin 2) (s : State) : Host.Outcome State Fault Refusal :=
  .next (s.scanJob die.val engine.val)

/-! `CAST` (R397) -/

/-- The source tiles of destination tile `i`, K first and then the second column's; a padded one is absent (R393). -/
def ptSources (m : List Word) (i : Nat) : List (Option Nat) :=
  let dfmt := mvDfmt m
  if dfmt = 0 then [some (mvSrc m + i * 2048)]
  else
    let a := mvSrc m + i * 4096
    let padK := mvPadK m && i + 1 == mvNt m
    let col (a : Nat) : List (Option Nat) := [some a, if padK then none else some (a + 2048)]
    if dfmt = 5 then col a ++ (if mvPadN m then [none, none] else col (a + mvColStride m * 2048)) else col a

/-- The BF16 elements of a destination tile, column by column (R92): `tiles` in the order of `ptSources`. -/
def retile (dfmt : Nat) (tiles : List (List Nat)) : List Nat :=
  (List.range (ptN dfmt)).flatMap fun n =>
    (List.range (ptK dfmt)).map fun k =>
      (tiles.getD (n / 32 * 2 + k / 32) []).getD (n % 32 * 32 + k % 32) 0

/-- The encoding of a value, and whether it saturates. -/
def castElem (f : Fmt) (v : Fv) : Nat × Bool :=
  (f.enc true v,
   match v with
   | .fin _ m e => decide (f.maxBits < f.rne m e)
   | .inf _ => true
   | .nan => false)

/-- An MX block: its scale byte, and its elements with whether each saturates (R107). -/
def castBlock (code : Nat) (vs : List Fv) : Nat × List (Nat × Bool) :=
  let (sc, es) := mxBlock code vs
  (sc, (es.zip vs).map fun (x, v) =>
    (x, sc != 0xFF && !v.isZero && (castElem ((floatFmt code).getD Fmt.e4m3) (v.scale (127 - (sc : Int)))).2))

/-- A tile's payload and side-band, and how many elements saturated. -/
def castTile (dfmt scale : Nat) (zero : Bool) (xs : List Nat) : List Byte × Nat :=
  let code := ptCode dfmt
  let vs := xs.map Fmt.bf16.dec
  if dfmt = 0 then (xs.flatMap (leBytes 2), 0)
  else if ptMx dfmt then
    let bs := (chunks 32 vs.length vs).map (castBlock code)
    let es := bs.flatMap (·.2)
    (pack code (es.map (·.1)) ++ bs.map (fun b => BitVec.ofNat 8 b.1), (es.filter (·.2)).length)
  else
    let f := (floatFmt code).getD Fmt.e4m3
    let es := vs.map fun v => if zero then (0, false) else castElem f (v.scale (127 - (scale : Int)))
    (pack code (es.map (·.1)), (es.filter (·.2)).length)

/-- Bytes on their way to other devices, by device and stream, in the order of the moves. -/
abbrev Outbox := List ((Nat × Nat) × List Byte)

def Outbox.add (o : Outbox) (k : Nat × Nat) (bs : List Byte) : Outbox :=
  if o.any (·.1 == k) then o.map fun p => if p.1 == k then (k, p.2 ++ bs) else p else o ++ [(k, bs)]

/-- Build and deliver destination tiles from the `i`-th on. -/
def State.castTiles (s : State) (d e : Nat) (j m : List Word) (scale : Nat) (zero : Bool) :
    Nat → Nat → Outbox → Nat × Outbox × State
  | _, 0, o => (Status.ok, o, s)
  | i, n + 1, o =>
    let x := s.ptTiles d j (ptSources m i)
    if x.1 ≠ Status.ok then (x.1, o, x.2.2)
    else
      let y := castTile (mvDfmt m) scale zero (retile (mvDfmt m) x.2.1)
      let b := Base.pointing d e
      let s := (x.2.2.count b Reg.ptSaturated y.2).count b Reg.ptTiles
      if mvDev m = s.myNum then
        let w := s.jobWrite d j (mvDaddr m + i * ptTotal (mvDfmt m)) y.1
        if w.1 ≠ Status.ok then (w.1, o, w.2) else w.2.castTiles d e j m scale zero (i + 1) n o
      else s.castTiles d e j m scale zero (i + 1) n (o.add (mvDev m, mvStream m) y.1)

/-- One move: its tensor's scale is read where the format is tensor-scaled (R400). -/
def State.castMove (s : State) (d e : Nat) (j m : List Word) (o : Outbox) : Nat × Outbox × State :=
  if mvMalformed m ∨ (mvDev m ≠ s.myNum ∧ s.noLinks (jobCtx j) = true) then (Status.denied, o, s)
  else if mvDfmt m = 1 ∨ mvDfmt m = 2 then
    let (st, t, s) := s.jobRead d j (jobOut j + 8 * mvTensor m) 8
    if st ≠ Status.ok then (st, o, s)
    else s.castTiles d e j m (recNat t 4 1) (recNat t 0 4 % 2 ^ 31 == 0) 0 (mvNt m) o
  else s.castTiles d e j m 0 false 0 (mvNt m) o

def State.castMoves (s : State) (d e : Nat) (j : List Word) : List (List Word) → Outbox → Nat × Outbox × State
  | [], o => (Status.ok, o, s)
  | m :: rest, o =>
    let (st, o, s) := s.castMove d e j m o
    if st ≠ Status.ok then (st, o, s) else s.castMoves d e j rest o

/-- Send what one stream carries, in chunks of at most 8,192 words (R397). -/
def State.castSend (s : State) (d e : Nat) (j : List Word) (dev stream : Nat) (bs : List Byte) : State :=
  let ws := wordsOf bs
  ((chunks 8192 ws.length ws).zipIdx).foldl (fun s (c, i) =>
    match s.routeLink dev i stream with
    | none => s.workReason (jobCtx j) (jobKind j) (jobSeq j) Reason.gone
    | some l =>
      (s.count (Base.pointing d e) Reg.ptChunks).chunkQueue l
        { src := s.myNum, dst := dev, coll := false, stream := stream, cseq := i, clen := c.length, phase := 0,
          piece := 0, cid := 0, ctx := jobCtx j, vc := 1, retx := false, again := false, badfwd := false, words := c, poison := [],
          ccrc := chunkCrc c, req := 4 * d + e, sent := 0, whole := true }) s

def State.castJob (s : State) (d e : Nat) : State :=
  s.jobRow d (4 + e) 0x02 fun j s => s.withMoves d j fun ms s =>
    let (st, o, s) := s.castMoves d e j ms []
    (st, o.foldl (fun s p => s.castSend d e j p.1.1 p.1.2 p.2) s)

def execCast (die : DieNo) (engine : Fin 2) (s : State) : Host.Outcome State Fault Refusal :=
  .next (s.castJob die.val engine.val)

/-! The exchange (R399, R400) -/

/-- The dies whose tables hold a context's scan results, with the tables. -/
def Loop.scanned (x : Loop) : List (Nat × Nat) := x.tables.filter fun p => p.2 != 0

/-- The device's greatest magnitude of a tensor. -/
def State.deviceMax (s : State) (x : Loop) (t : Nat) : Nat :=
  x.scanned.foldl (fun m p => f32max m (leNat (s.loadBytes (p.2 + 8 * t) 4).1)) 0

/-- `SCALE` of a tensor of which the copy holds E4M3 or E5M2 (R400). -/
def tensorScale (e5m2 : Bool) (amax : Nat) : Nat :=
  if (f32 amax).isZero then 0
  else (max (-127) (min 127 ((f32 amax).exponent - (if e5m2 then 15 else 8))) + 127).toNat

/-- Tensors that a context's generation copy holds in E5M2. -/
def State.e5m2Of (s : State) (ctx : Nat) : List Nat :=
  (((s.loop ctx).policy.bind fun p => s.modelOf ctx p.gen).map fun m => m.prog.e5m2).getD []

/-- The two lanes of a word of a group: tensors 8g + 2i and 8g + 2i + 1. -/
def State.amaxWords (s : State) (x : Loop) (g : Nat) : List Word :=
  (List.range 4).map fun i => word (s.deviceMax x (8 * g + 2 * i + 1) * 2 ^ 32 + s.deviceMax x (8 * g + 2 * i))

/-- Where the scale table lies of the copy that the turn under way writes (R400). -/
def State.scaleTable (s : State) (ctx : Nat) : Option Nat :=
  match ((s.loop ctx).policy).bind fun p => s.modelOf ctx p.gen with
  | some m =>
    match m.prog.plan, s.copies.find? fun c => c.ctx == ctx && c.model == m.handle && c.cast == (s.newest ctx m.handle + 1) % 65536 with
    | some p, some c => some (c.addr + p.scaleAt)
    | _, _ => none
  | none => none

/-- Write a group's result into every die's table, and the scales into the copy's. -/
def State.amaxWrite (s : State) (ctx g : Nat) (ws : List Word) : State :=
  let x := s.loop ctx
  (List.range 8).foldl (fun s i =>
    let t := 8 * g + i
    let w := ws.getD (i / 2) 0
    let amax := if i % 2 = 0 then bits w 31 0 else bits w 63 32
    let scale := leBytes 1 (tensorScale ((s.e5m2Of ctx).contains t) amax)
    if x.top ≤ t then s
    else
      let s := x.scanned.foldl (fun s p => s.storeBytes (p.2 + 8 * t) (leBytes 4 amax ++ scale)) s
      match s.scaleTable ctx with
      | some a => s.storeBytes (a + t) scale
      | none => s) s

/-- Exchanges whose result is there. -/
def State.takeAmax (s : State) : State :=
  s.arm.colls.foldl (fun s k =>
    match k.purpose == 4, k.result with
    | true, some ws => (s.dropColl k.mtype k.tag).amaxWrite k.ctx k.subject.toNat ws
    | _, _ => s) s

/-- Post one group after another while a tag is free. -/
def State.amaxPost (s : State) (ctx : Nat) : List Nat → State
  | [] => s
  | tag :: rest =>
    let x := s.loop ctx
    if x.top ≤ 8 * x.next then s
    else
      ((s.setLoop ctx { x with next := x.next + 1 }).collPost 0x09 tag ctx (word x.next) [8, 8, 8, 8] (s.groupOf ctx)
        (s.amaxWords x x.next) 4).amaxPost ctx rest

def State.amaxExchange (s : State) (ctx : Nat) : State :=
  if s.runsSlots && !(s.loop ctx).scanned.isEmpty then (s.amaxPost ctx s.poolTags).takeAmax else s

def execAmaxExchange (ctx : Ctx) (s : State) : Host.Outcome State Fault Refusal := .next (s.amaxExchange ctx.val)

end Sys2Proof.Machine
end

