-- ==== Sys2Proof/Machine/Turns.lean ====
section
/-! DEFINITION. The loop and its phases, turns, copies and their casts, and the commands of chapter 11 (R324, R328,
R379–R390, R403–R407). -/

namespace Sys2Proof.Machine

/-! Policies (Table 11.8) -/

def tpPolicy (c : HostCmd) : Policy :=
  { learn := bits c.b0 63 32, gen := bits c.b0 31 0, mode := bits c.b1 63 62, stale := bits c.b1 61 60,
    steps := bits c.b1 47 32, quota := bits c.b1 31 0, timeMs := bits c.b2 31 0 }

/-- A reserved value or field. -/
def tpReserved (c : HostCmd) : Bool :=
  bits c.b1 63 62 == 0 || bits c.b1 63 62 == 3 || (bits c.b1 63 62 == 1 && bits c.b1 61 60 == 3) ||
    bits c.b1 59 48 != 0 || bits c.b2 63 32 != 0 || !zeroWords [c.b3, c.b4, c.b5, c.b6, c.b7]

/-- Copies that a policy may need at once (R390, R404). -/
def Policy.copies (p : Policy) : Nat := if p.mode = 1 then p.stale + 2 else 3

/-- Show the turn mode and `STALE_MAX` in force. -/
def State.policyShow (s : State) (ctx : Nat) : State :=
  match (s.loop ctx).policy with
  | none => s
  | some p => (s.put Base.phase Reg.phMode p.mode ctx).put Base.phase Reg.phStaleMax (if p.mode = 1 then p.stale else 0) ctx

/-- What `SET_TURN_POLICY` answers (R404). -/
def State.policyStatus (s : State) (c : HostCmd) : Nat :=
  let ctx := c.queue.val
  let p := tpPolicy c
  let x := s.loop ctx
  let learn := s.modelOf ctx p.learn
  let gen := s.modelOf ctx p.gen
  let bytes (m : Model) (n : Nat) : Nat := m.bytes * n
  firstStatus
    [(tpReserved c, Status.denied),
     (learn.isNone || gen.isNone, Status.notResident),
     ((learn.map (·.role)) != some 3 || (gen.map (·.role)) != some 1, Status.denied),
     (!((gen.bind fun g => learn.map fun l => s.planOk ctx g.prog l.prog).getD false), Status.denied),
     (p.quota == 0 || p.steps == 0 || (p.mode == 1 && p.stale == 0), Status.denied),
     ((gen.map fun m => decide (s.ddrShare ctx + bytes m (max 1 m.casts.length) < s.ddrUsed ctx + bytes m p.copies)).getD
        false, Status.denied),
     (s.get Base.phase Reg.phLoop ctx == 1 &&
        (x.policy.map fun o => o.learn != p.learn || o.gen != p.gen).getD false, Status.denied)]

/-- Set a policy: at once outside a loop, later within one (R404). -/
def State.setPolicy (s : State) (c : HostCmd) : State :=
  let ctx := c.queue.val
  let st := s.policyStatus c
  if st ≠ Status.ok then s.complete c st
  else
    let x := s.loop ctx
    let s :=
      if s.get Base.phase Reg.phLoop ctx = 1 then s.setLoop ctx { x with waiting := some (tpPolicy c) }
      else (s.setLoop ctx { x with policy := some (tpPolicy c), waiting := none }).policyShow ctx
    s.complete c Status.ok

def execSetTurnPolicy (cmd : HostCmd) (s : State) : Host.Outcome State Fault Refusal :=
  .next (s.hostCmd cmd 0x41 fun s => s.setPolicy cmd)

/-- At a turn's seal a waiting policy's mode and staleness come into force, at a phase change the rest of it. -/
def State.policyTurn (s : State) (ctx : Nat) : State :=
  let x := s.loop ctx
  match x.policy, x.waiting with
  | some p, some w => (s.setLoop ctx { x with policy := some { p with mode := w.mode, stale := w.stale } }).policyShow ctx
  | _, _ => s

def State.policyPhase (s : State) (ctx : Nat) : State :=
  let x := s.loop ctx
  match x.policy, x.waiting with
  | some p, some w =>
    let p := { p with quota := w.quota, timeMs := w.timeMs, steps := w.steps }
    s.setLoop ctx { x with policy := some p, waiting := if p = w then none else some w }
  | _, _ => s

/-! Phases (Table 11.1) -/

/-- Enter a phase. -/
def State.enterPhase (s : State) (ctx phase : Nat) : State :=
  let s := (s.put Base.phase Reg.phPhase phase ctx).put Base.phase Reg.phEntry s.stroke ctx
  s.policyPhase ctx

/-- Enter TURN from a later phase of the cycle, which is then complete. -/
def State.enterTurn (s : State) (ctx : Nat) : State := (s.enterPhase ctx 4).count Base.phase Reg.phCycles 1 ctx

def State.enterGenerate (s : State) (ctx : Nat) : State :=
  let s := (s.enterPhase ctx 1).put Base.phase Reg.phRollouts 0 ctx
  s.setLoop ctx { s.loop ctx with rollouts := [] }

/-- A decode step of the context is in progress. -/
def State.stepping (s : State) (ctx : Nat) : Bool :=
  (s.ctxReqs ctx).any (fun p => p.2.inStep || p.2.piece != 0) ||
    s.allPrefixes.any fun p => p.2.ctx == ctx && p.2.piece != 0

/-- Work of a context in a core or an engine of the device: its context and cast. -/
def State.workIn (s : State) : List (Nat × Nat) :=
  s.cores.flatMap (fun p =>
    (match p.2.block with
     | some b => [(b.ctx, b.cast)]
     | none => []) ++ p.2.queue.map fun e => (bits (e.getD 0 0) 47 44, bits (e.getD 0 0) 15 0)) ++
  s.engines.flatMap fun p =>
    (p.2.queue ++ (match p.2.job with
      | some j => [j]
      | none => [])).map fun j => (jobCtx j, jobCast j)

/-- Batches that firmware forms of the rollouts (R382): as many as the policy has steps, each rollout's scored tokens in
one of them. What the scoring programs wrote is a free value. -/
def State.formBatches (s : State) (ctx : Nat) : State :=
  let x := s.loop ctx
  let n := (x.policy.map (·.steps)).getD 0
  let k := x.rollouts.length
  if k = 0 then s
  else
    (List.range n).foldl (fun s i =>
      let own := (List.range k).filter fun j => j % n == i
      let mine := (if own.isEmpty then [i % k] else own).map fun j => x.rollouts.getD j (0, 0)
      let total := mine.foldl (fun t r => t + r.2) 0
      let seqs := (mine.foldl (fun (a : Nat × List (Nat × Nat × Nat × Nat)) r => (a.1 + r.2, a.2 ++ [(r.2, r.1, 0, a.1)]))
        (0, [])).2
      let b : Batch :=
        { num := ((s.loop ctx).formed) % 65536, bytes := 64 + 16 * mine.length + 8 * total, seqs := seqs,
          tokens := (List.range total).map fun t => Config.freeValue (s.free + t), looped := true }
      let s := { s with free := s.free + total }
      let y := s.learn ctx
      let s := s.setLearn ctx { y with batches := y.batches.filter (fun o => o.num != b.num) ++ [b] }
      s.setLoop ctx { s.loop ctx with formed := ((s.loop ctx).formed + 1) % 65536 }) s

/-- The phase of a loop context moves on at an edge (R379–R382, R405, R406). -/
def State.phaseStep (s : State) (ctx : Nat) : State :=
  let x := s.loop ctx
  let phase := s.get Base.phase Reg.phPhase ctx
  let steps := (x.policy.map (·.steps)).getD 0
  if s.get Base.phase Reg.phLoop ctx = 0 then s
  else if phase = 1 then
    if s.genOver ctx && !s.stepping ctx then
      if x.stop.isSome then s.loopStop ctx Status.ok
      else if x.forced.isEmpty then s.enterPhase ctx 2
      else s.enterTurn ctx
    else s
  else if phase = 2 then
    if s.get Base.phase Reg.phEntry ctx < s.stroke ∧ (s.workIn.all fun w => w.1 != ctx) = true then
      if x.stop.isSome then s.loopStop ctx Status.ok
      else
        let s := (s.formBatches ctx).enterPhase ctx 3
        s.setLoop ctx { s.loop ctx with sealed := 0 }
    else s
  else if phase = 3 then
    if x.stop.isSome && (s.learn ctx).run.isNone && (s.learn ctx).voids == 0 && !s.unitOpen ctx 0 then
      s.loopStop ctx Status.ok
    else if steps ≤ x.sealed then s.enterTurn ctx
    else s
  else s

/-! Copies and casts (R385–R390) -/

/-- Change the casts of a context's generation model. -/
def State.setCasts (s : State) (ctx h : Nat) (cs : List Nat) : State :=
  { s with models := s.models.map fun m => if m.ctx == ctx && m.handle == h then { m with casts := cs } else m }

/-- The cast that a running request holds after a turn (R387). -/
def castAfter (p : Policy) (new : Nat) (r : Req) : Nat :=
  if p.mode = 2 ∨ p.stale < (new + 65536 - r.cast) % 65536 then new else r.cast

/-- The turn's copy becomes the newest; the requests that hold a cast of the model keep it or take the new one. -/
def State.turnCast (s : State) (ctx : Nat) (p : Policy) : Nat × State :=
  let cs := ((s.modelOf ctx p.gen).map (·.casts)).getD []
  let new := (s.newest ctx p.gen + 1) % 65536
  let s := (s.setCasts ctx p.gen (cs ++ [new])).put Base.phase Reg.phCast new ctx
  (new, (s.ctxReqs ctx).foldl (fun s q =>
    if q.2.held && q.2.model == p.gen then s.setReq q.1 (some { q.2 with cast := castAfter p new q.2 }) else s) s)

/-- Layers move between stages at a turn (R328): from the slowest, when it exceeds the mean by more than 5 %, to its faster
neighbour, while that one's layers fit. -/
def moveLayer (slots layers : List Nat) (fits : Nat → Nat → Bool) : List Nat :=
  let n := layers.length
  let total := slots.foldl (· + ·) 0
  let top := (minBy (fun i => (2 ^ 17 - slots.getD i 0) * 64 + i) (List.range n)).getD 0
  let near := (List.range n).filter fun i => decide (i + 1 = top) || decide (i = top + 1)
  match minBy (fun i => slots.getD i 0 * 64 + i) near with
  | none => layers
  | some dst =>
    if 105 * total < 100 * n * slots.getD top 0 ∧ 0 < layers.getD top 0 ∧ fits dst (layers.getD dst 0 + 1) = true then
      setAt (setAt layers top (layers.getD top 0 - 1)) dst (layers.getD dst 0 + 1)
    else layers

/-- The measured slots of each stage are free values. -/
def State.rebalance (s : State) (ctx : Nat) : State :=
  let x := s.learn ctx
  match x.cfg, x.prog with
  | some f, some g =>
    if f.stages = 1 then s
    else
      let slots := (List.range f.stages).map fun i => (Config.freeValue (s.free + i)).toNat % 65536
      let a := if f.offload then 0 else g.keepBytes
      let fits (i n : Nat) : Bool := decide (n * (g.layerBytes + (f.stages - i) * a) ≤ s.ddrShare ctx)
      ({ s with free := s.free + f.stages }).setLearn ctx { x with layers := moveLayer slots x.layers fits }
  | _, _ => s

/-- A turn seals (R385–R389, R406): its cast, its events, its forced commands, and the next phase of a loop. -/
def State.turnSeal (s : State) (ctx : Nat) : State :=
  let s := s.policyTurn ctx
  let x := s.loop ctx
  match x.policy with
  | none => s
  | some p =>
    let (new, s) := s.turnCast ctx p
    let strokes := (s.stroke - x.first.getD s.stroke) % 2 ^ 32
    let w := word (new * 2 ^ 48 + strokes * 2 ^ 16 + min x.voids 255 * 2 ^ 8)
    let b := Base.phase
    let s := ((s.put b Reg.phLastStrokes strokes ctx).count b Reg.phTurns 1 ctx).put b Reg.phVoids 0 ctx
    let s := (s.put b Reg.phForced 0 ctx).setLoop ctx { s.loop ctx with forced := [], first := none, voids := 0 }
    let s := if x.turnEvents then s.event ctx 4 Status.ok 0 0 [w] else s
    let s := x.forced.foldl (fun s c => s.complete c Status.ok 0 [w]) s
    let s := s.rebalance ctx
    if s.get b Reg.phLoop ctx = 1 ∧ s.get b Reg.phPhase ctx = 4 then
      if (s.loop ctx).stop.isSome then s.loopStop ctx Status.ok else s.enterGenerate ctx
    else s

/-- The copy that the turn under way writes. -/
def State.turnCopy (s : State) (ctx : Nat) (c : CopyAt) : Bool :=
  match (s.loop ctx).policy with
  | some p => c.ctx == ctx && c.model == p.gen && c.cast == (s.newest ctx p.gen + 1) % 65536
  | none => false

/-- A turn voids: it is run again, or ends the loop and its forced commands (R383, R386, R402). -/
def State.turnVoid (s : State) (ctx : Nat) : State :=
  let x := s.loop ctx
  let b := Base.phase
  let n := x.voids + 1
  let s := s.copyFree fun c => s.turnCopy ctx c
  let s := ((s.count b Reg.phTurnVoids 1 ctx).put b Reg.phVoids (min n 255) ctx).setLoop ctx { x with voids := n }
  let gen := x.policy.bind fun p => s.modelOf ctx p.gen
  let st := if s.layoutGone ctx || !((gen.map fun m => s.planCovers m.prog).getD true) then Status.gone else if 4 ≤ n then Status.void else Status.ok
  if st = Status.ok then s
  else
    let s := ((s.put b Reg.phForced 0 ctx).put b Reg.phVoids 0 ctx).setLoop ctx
      { s.loop ctx with forced := [], first := none, voids := 0 }
    let s := x.forced.foldl (fun s c => s.complete c st) s
    if s.get b Reg.phLoop ctx = 1 then s.loopStop ctx st else s

/-- The stroke of a turn's first slot, counted from the first attempt (Table 11.9), and a place for the copy that an attempt
writes (R385). -/
def State.turnFirst (s : State) : State :=
  s.units.foldl (fun s u =>
    if u.kind == 2 && u.staged then
      let s := if (s.loop u.ctx).first.isNone then s.setLoop u.ctx { s.loop u.ctx with first := some s.stroke } else s
      match (s.loop u.ctx).policy.bind fun p => s.modelOf u.ctx p.gen with
      | some m =>
        if s.copies.any fun c => s.turnCopy u.ctx c then s
        else
          let s := s.setLoop u.ctx { s.loop u.ctx with moves := s.turnPlan m.prog, tables := [], top := 0, next := 0 }
          s.copyTake u.ctx m.handle ((s.newest u.ctx m.handle + 1) % 65536) m.bytes
      | none => s
    else s) s

/-- Copies that nothing holds are released (R390), and the oldest cast still held is shown. -/
def State.copyRelease (s : State) (ctx : Nat) : State :=
  (s.models.filter fun m => m.ctx == ctx && m.role == 1 && decide (1 < m.casts.length)).foldl (fun s m =>
    let new := s.newest ctx m.handle
    let held := (s.ctxReqs ctx).filterMap fun p => if p.2.model == m.handle && p.2.held then some p.2.cast else none
    let pinned := s.workIn.filterMap fun w => if w.1 == ctx then some w.2 else none
    let cs := m.casts.filter fun c => c == new || held.contains c || pinned.contains c
    let s := s.copyFree fun c => c.ctx == ctx && c.model == m.handle && m.casts.contains c.cast && !cs.contains c.cast
    (s.setCasts ctx m.handle cs).put Base.phase Reg.phCastOldest (cs.headD new) ctx) s

/-! `START_LOOP` (Table 11.8) -/

def slAction (c : HostCmd) : Nat := bits c.b0 63 62
def slReserved (c : HostCmd) : Bool :=
  slAction c == 0 || slAction c == 3 || bits c.b0 60 0 != 0 || bits c.b2 47 0 != 0 ||
    !zeroWords [c.b3, c.b4, c.b5, c.b6, c.b7]

/-- A scoring model that is named is there with role `SCORE`. -/
def State.scoreOk (s : State) (ctx h : Nat) : Bool := h == 0 || ((s.modelOf ctx h).map (·.role)) == some 2

/-- Layers of each stage of a scoring model, over the stages of the learning layout (R325). -/
def State.scoreLayers (s : State) (ctx h : Nat) : List Nat :=
  match s.modelOf ctx h, (s.learn ctx).cfg with
  | some m, some f => evenShare m.prog.layers f.stages
  | _, _ => []

/-- Start a loop, in TURN (R379, R405). -/
def State.startLoop (s : State) (c : HostCmd) : State :=
  let ctx := c.queue.val
  let x := s.loop ctx
  let b := Base.phase
  if slReserved c || s.get b Reg.phLoop ctx == 1 || x.policy.isNone || (s.learn ctx).cfg.isNone ||
      !s.scoreOk ctx (bits c.b1 63 32) || !s.scoreOk ctx (bits c.b1 31 0) then s.complete c Status.denied
  else
    let base := bits c.b2 63 48
    let s := s.setLoop ctx { x with
      turnEvents := bit c.b0 61, ref := bits c.b1 63 32, reward := bits c.b1 31 0,
      refLayers := s.scoreLayers ctx (bits c.b1 63 32), rewardLayers := s.scoreLayers ctx (bits c.b1 31 0), formed := base, used := base,
      stop := none, rollouts := [], sealed := 0 }
    let s := (s.put b Reg.phLoop 1 ctx).enterPhase ctx 4
    s.complete c Status.ok

def execStartLoop (cmd : HostCmd) (s : State) : Host.Outcome State Fault Refusal :=
  .next (s.hostCmd cmd 0x40 fun s => if slAction cmd = 2 then s else s.startLoop cmd)

/-- A stop waits for the end of the phase's work (R405). -/
def State.stopLoop (s : State) (c : HostCmd) : State :=
  let ctx := c.queue.val
  let x := s.loop ctx
  if slReserved c || s.get Base.phase Reg.phLoop ctx == 0 || x.stop.isSome then s.complete c Status.denied
  else s.setLoop ctx { x with stop := some c }

def execStopLoop (cmd : HostCmd) (s : State) : Host.Outcome State Fault Refusal :=
  .next (s.hostCmd cmd 0x40 fun s => if slAction cmd = 2 then s.stopLoop cmd else s)

/-- `FORCE_TURN` waits for its turn (R406). -/
def State.forceTurn (s : State) (c : HostCmd) : State :=
  let ctx := c.queue.val
  let x := s.loop ctx
  if !zeroWords [c.b0, c.b1, c.b2, c.b3, c.b4, c.b5, c.b6, c.b7] || x.policy.isNone then s.complete c Status.denied
  else if x.forced.contains c then s
  else (s.setLoop ctx { x with forced := x.forced ++ [c] }).put Base.phase Reg.phForced 1 ctx

def execForceTurn (cmd : HostCmd) (s : State) : Host.Outcome State Fault Refusal :=
  .next (s.hostCmd cmd 0x42 fun s => s.forceTurn cmd)

end Sys2Proof.Machine
end

