-- ==== Sys2Proof/Machine/Contexts.lean ====
section
/-! DEFINITION. Contexts: their shares and the pool, pre-emption and switching, reset, and notification (R409–R428). -/

namespace Sys2Proof.Machine

/-! Share bodies (Table 12.8), as words 0 to 4 -/

def sbCtx (b : List Word) : Nat := bits (b.getD 0 0) 63 60
def sbDies (b : List Word) : Nat := bits (b.getD 0 0) 59 52
def sbFirst (b : List Word) : Nat := bits (b.getD 0 0) 51 46
def sbCount (b : List Word) : Nat := bits (b.getD 0 0) 45 40 + 1
def sbShared (b : List Word) : Bool := bit (b.getD 0 0) 39
def sbSp (b : List Word) : Nat := bits (b.getD 0 0) 38 35
def sbPrio (b : List Word) : Nat := bits (b.getD 0 0) 34 33
def sbQos (b : List Word) : Nat := bits (b.getD 0 0) 32 31
def sbSlice (b : List Word) : Nat := bits (b.getD 0 0) 30 23
def sbSlots (b : List Word) : Nat := bits (b.getD 0 0) 12 0
def sbDdr (b : List Word) : Nat := bits (b.getD 1 0) 31 0
/-- `VC0`, `VC1`, `VC2`, `HOST` and `FLASH_BW`. -/
def sbShares (b : List Word) : List Nat :=
  let w := b.getD 2 0
  [bits w 63 56, bits w 55 48, bits w 47 40, bits w 39 32, bits w 31 24]
def sbWays (b : List Word) : Nat := bits (b.getD 2 0) 15 0
def sbFlash (b : List Word) : Nat := bits (b.getD 3 0) 63 32
def sbMap (b : List Word) : Nat := bits (b.getD 3 0) 16 0
def sbCoalesce (b : List Word) : Nat := bits (b.getD 4 0) 31 0

/-- A reserved field or value (R423). -/
def sbReserved (b : List Word) : Bool :=
  bits (b.getD 0 0) 22 13 != 0 || bits (b.getD 1 0) 63 32 != 0 || bits (b.getD 2 0) 23 16 != 0 ||
    bits (b.getD 3 0) 31 17 != 0 || bits (b.getD 4 0) 63 32 != 0 || decide (48 < sbFirst b + sbCount b) ||
    (if sbShared b then decide (sbSp b < 2) || decide (11 < sbSp b) else sbSp b != 0) || sbSlice b == 0 ||
    decide (4096 < sbSlots b) || (sbShares b).any (fun n => decide (64 < n)) || decide (65536 < sbMap b)

def cmdBody (c : HostCmd) : List Word := [c.b0, c.b1, c.b2, c.b3, c.b4]

/-- Scratchpad units of 0.25 MiB. -/
def spUnits (n : Nat) : Nat := if n = 0 then 24 else n

/-- A mask names nothing outside another. -/
def maskIn (a b : Nat) : Bool := a &&& b == a

/-- A body lies within the image's ceiling for its context (R487). -/
def State.underCeiling (s : State) (ctx : Nat) (b : List Word) : Bool :=
  match s.boot.image with
  | none => false
  | some i =>
    let p := i.partitions.getD ctx []
    !p.all (· == 0) && maskIn (sbDies b) (sbDies p) && decide (sbCount b ≤ sbCount p) && (!sbShared b || sbShared p) &&
      decide (spUnits (sbSp b) ≤ spUnits (sbSp p)) && decide (sbPrio b ≤ sbPrio p) && decide (sbQos p ≤ sbQos b) &&
      decide (sbSlice b ≤ sbSlice p) && decide (sbSlots b ≤ sbSlots p) && maskIn (sbDdr b) (sbDdr p) &&
      (List.zipWith (fun x y => decide (x ≤ y)) (sbShares b) (sbShares p)).all id && maskIn (sbWays b) (sbWays p) &&
      decide (sbFlash b ≤ sbFlash p) && decide (sbMap b ≤ sbMap p) && decide (sbCoalesce b ≤ sbCoalesce p)

/-! The pool (Table 12.1) -/

def State.live (s : State) : List Nat := (List.range 16).filter fun c => s.ctxState c != 0

/-- The shares of five kinds that a context holds. -/
def State.heldShares (s : State) (c : Nat) : List Nat :=
  [Reg.cxVc0, Reg.cxVc1, Reg.cxVc2, Reg.cxHost, Reg.cxFlashBw].map fun f => s.get Base.contexts f c

/-- Two core sets meet, and are the same. -/
def coresMeet (d1 f1 n1 d2 f2 n2 : Nat) : Bool :=
  d1 &&& d2 != 0 && decide (f1 < f2 + n2) && decide (f2 < f1 + n1)
def coresSame (d1 f1 n1 d2 f2 n2 : Nat) : Bool := d1 == d2 && f1 == f2 && n1 == n2

def State.setMeets (s : State) (b : List Word) (c : Nat) : Bool :=
  let x := s.ctxRec c
  coresMeet (sbDies b) (sbFirst b) (sbCount b) x.dieMask x.coreFirst x.cores
def State.setSame (s : State) (b : List Word) (c : Nat) : Bool :=
  let x := s.ctxRec c
  coresSame (sbDies b) (sbFirst b) (sbCount b) x.dieMask x.coreFirst x.cores

/-- DDR channels in service. -/
def State.ddrUp (s : State) : Nat := maskOf ((List.range 32).filter fun c => s.get (Base.ddr c) Reg.ddrState == 2)

/-- Every share of a body fits what the other contexts leave. -/
def State.poolFits (s : State) (ctx : Nat) (b : List Word) : Bool :=
  let os := s.live.filter (· != ctx)
  let sum (f : Nat → Nat) : Nat := os.foldl (fun n c => n + f c) 0
  let near := os.filter fun c => s.setMeets b c
  near.all (fun c => sbShared b && s.get Base.contexts Reg.cxShared c == 1 && s.setSame b c) &&
    decide (near.length < 4) &&
    os.all (fun c => sbDdr b &&& s.get Base.contexts Reg.cxDdrMask c == 0) && maskIn (sbDdr b) s.ddrUp &&
    os.all (fun c => sbWays b &&& s.get Base.contexts Reg.cxWays c == 0) &&
    (List.range 5).all (fun i => decide (sum (fun c => (s.heldShares c).getD i 0) + (sbShares b).getD i 0 ≤ 64)) &&
    decide ((sum (fun c => s.get Base.contexts Reg.cxFlashGib c) + sbFlash b) * 2 ^ 30 ≤ s.flashUsable) &&
    decide (sum (fun c => s.get Base.contexts Reg.cxSlots c) + sbSlots b ≤ 4096) &&
    decide (sum (fun c => (s.ctxRec c).mapLimit) + sbMap b ≤ 65536)

/-- Show what no share holds. -/
def State.poolShow (s : State) : State :=
  let sum (f : Nat → Nat) : Nat := s.live.foldl (fun n c => n + f c) 0
  let used (f : Fld) : Nat := s.live.foldl (fun m c => m ||| s.get Base.contexts f c) 0
  let s := s.put Base.contexts Reg.freeSlots (4096 - sum fun c => s.get Base.contexts Reg.cxSlots c)
  let s := s.put Base.contexts Reg.freeWays (65535 ^^^ used Reg.cxWays)
  s.put Base.contexts Reg.freeDdr (s.ddrUp &&& (2 ^ 32 - 1 ^^^ used Reg.cxDdrMask))

/-! Giving and taking shares -/

/-- The cores of a context's set, as die and core. -/
def CtxRec.coreList (x : CtxRec) : List (Nat × Nat) :=
  (setBits 8 x.dieMask).flatMap fun d => (List.range x.cores).map fun i => (d, x.coreFirst + i)

/-- Firmware takes a context's cores out of CTX_BIND. -/
def State.unbindCores (s : State) (ctx : Nat) : State :=
  (s.ctxRec ctx).coreList.foldl (fun s (d, c) =>
    let b := Base.coreBind d
    let m := s.get b Reg.cbSharers c
    let s := s.put b Reg.cbSharers (if m.testBit ctx then m - 2 ^ ctx else m) c
    if s.get b Reg.cbRunValid c = 1 ∧ s.get b Reg.cbRunCtx c = ctx then
      ((s.put b Reg.cbRunValid 0 c).put b Reg.cbRunCtx 0 c).put b Reg.cbRunLimit 0 c
    else s) s

/-- Name the running context of a core. -/
def State.runOn (s : State) (ctx d c : Nat) : State :=
  let b := Base.coreBind d
  ((s.put b Reg.cbRunValid 1 c).put b Reg.cbRunCtx ctx c).put b Reg.cbRunLimit (s.get Base.contexts Reg.cxSpLimit ctx) c

/-- Put them in: on a set where no context runs, this one does. -/
def State.bindCores (s : State) (ctx : Nat) : State :=
  (s.ctxRec ctx).coreList.foldl (fun s (d, c) =>
    let b := Base.coreBind d
    let s := s.put b Reg.cbSharers (s.get b Reg.cbSharers c ||| 2 ^ ctx) c
    if s.get b Reg.cbRunValid c = 0 then s.runOn ctx d c else s) s

/-- Write the plinth dies' binding registers. -/
def State.bindHub (s : State) (ctx : Nat) (shares : List Nat) (qos ddr : Nat) : State :=
  (List.range 2).foldl (fun s p =>
    let b := Base.hubBind p
    let s := ((s.put b Reg.pbVc0 (shares.getD 0 0) ctx).put b Reg.pbVc1 (shares.getD 1 0) ctx).put b Reg.pbVc2
      (shares.getD 2 0) ctx
    let s := (s.put b Reg.pbHost (if p = 0 then shares.getD 3 0 else 0) ctx).put b Reg.pbFlashBw (shares.getD 4 0) ctx
    (s.put b Reg.pbQos qos ctx).put b Reg.pbDdrLocal (ddr / 2 ^ (16 * p) % 2 ^ 16) ctx) s

/-- Grant a body: the registers show it at once, and what it sets acts from the next frame boundary (R424, R425, R428). -/
def State.grantShares (s : State) (ctx : Nat) (b : List Word) : State :=
  let k := Base.contexts
  let s := s.unbindCores ctx
  let s := (((s.put k Reg.cxPrio (sbPrio b) ctx).put k Reg.cxQos (sbQos b) ctx).put k Reg.cxShared (b2n (sbShared b)) ctx).put
    k Reg.cxSpLimit (sbSp b) ctx
  let s := ((s.put k Reg.cxSlots (sbSlots b) ctx).put k Reg.cxDdrMask (sbDdr b) ctx).put k Reg.cxWays (sbWays b) ctx
  let n (i : Nat) : Nat := (sbShares b).getD i 0
  let s := ((s.put k Reg.cxVc0 (n 0) ctx).put k Reg.cxVc1 (n 1) ctx).put k Reg.cxVc2 (n 2) ctx
  let s := ((s.put k Reg.cxHost (n 3) ctx).put k Reg.cxFlashBw (n 4) ctx).put k Reg.cxFlashGib (sbFlash b) ctx
  let s := s.setCtxRec ctx { s.ctxRec ctx with
    dieMask := sbDies b, coreFirst := sbFirst b, cores := sbCount b, mapLimit := sbMap b, flashBw := n 4,
    shares := some b }
  ((s.bindCores ctx).bindHub ctx (sbShares b) (sbQos b) (sbDdr b)).poolShow

/-- A frame boundary: what waits takes effect (R425). -/
def State.sharesApply (s : State) : State :=
  (List.range 16).foldl (fun s ctx =>
    match (s.ctxRec ctx).shares with
    | none => s
    | some b =>
      let s := s.setCtxRec ctx { s.ctxRec ctx with shares := none, slice := sbSlice b }
      let s := s.setHq ctx { s.hq ctx with coalesce := sbCoalesce b }
      (List.range 8).foldl (fun s d =>
        (s.put (Base.cachePart d) Reg.cpWays (sbWays b) ctx).put (Base.pageMap d) Reg.quotaLimit (sbMap b) ctx) s) s

/-! `CREATE_CONTEXT` and `SET_SHARES` -/

/-- Queue words outside R472. -/
def queueReserved (c : HostCmd) : Bool :=
  let log5 := bits c.b5 55 48
  let log6 := bits c.b6 55 48
  bits c.b5 63 56 != 0 || bits c.b6 63 56 != 0 || c.b7 != 0 || decide (log5 < 4) || decide (12 < log5) ||
    decide (log6 < 6) || decide (16 < log6) || bits c.b5 5 0 != 0 || bits c.b6 5 0 != 0

def State.createContext (s : State) (c : HostCmd) : State :=
  let b := cmdBody c
  let ctx := sbCtx b
  if sbReserved b || queueReserved c || s.ctxState ctx != 0 || !s.underCeiling ctx b || !s.poolFits ctx b ||
      decide (sbFlash b * 2 ^ 30 < s.flashUsed ctx) then s.complete c Status.denied
  else
    let s := s.setHq ctx { HostQ.new with sq := c.b5, eq := c.b6, coalesce := sbCoalesce b }
    let s := ((s.put Base.umajo Reg.sqHead 0 ctx).put Base.umajo Reg.sqTail 0 ctx)
    let s := ((s.put Base.umajo Reg.eqProduced 0 ctx).put Base.umajo Reg.eqConsumed 0 ctx)
    let s := (s.setCtxRec ctx CtxRec.none).put Base.contexts Reg.cxState 1 ctx
    (s.grantShares ctx b).complete c Status.ok

def execCreateContext (cmd : HostCmd) (s : State) : Host.Outcome State Fault Refusal :=
  .next (s.hostCmd cmd 0x50 fun s => s.createContext cmd)

/-- The context holds nothing that its channels or cores carry (R425). -/
def State.ctxEmpty (s : State) (ctx : Nat) : Bool :=
  !(s.models.any fun m => m.ctx == ctx) && (s.learn ctx).batches.isEmpty && (s.ctxReqs ctx).isEmpty &&
    !(s.allPrefixes.any fun p => p.2.ctx == ctx) && !(s.units.any fun u => u.ctx == ctx && u.staged)

/-- Entries of a context in a die's page map. -/
def State.mapUsed (s : State) (d ctx : Nat) : Nat := s.get (Base.pageMap d) Reg.quotaUsed ctx

def State.sharesRefused (s : State) (c : HostCmd) : Bool :=
  let b := cmdBody c
  let ctx := sbCtx b
  let k := Base.contexts
  let moved := !s.setSame b ctx || sbDdr b != s.get k Reg.cxDdrMask ctx || b2n (sbShared b) != s.get k Reg.cxShared ctx ||
    sbSp b != s.get k Reg.cxSpLimit ctx
  sbReserved b || !(s.ctxState ctx == 1 || s.ctxState ctx == 3) || !s.underCeiling ctx b || !s.poolFits ctx b ||
    (moved && !s.ctxEmpty ctx) || decide (sbSlots b < (s.ctxReqs ctx).length) ||
    (List.range 8).any (fun d => decide (sbMap b < s.mapUsed d ctx)) ||
    decide (sbFlash b * 2 ^ 30 < s.flashUsed ctx)

/-- A change that leaves the cores as they are leaves the running context alone. -/
def State.setShares (s : State) (c : HostCmd) : State :=
  let b := cmdBody c
  if s.sharesRefused c then s.complete c Status.denied else (s.grantShares (sbCtx b) b).complete c Status.ok

def execSetShares (cmd : HostCmd) (s : State) : Host.Outcome State Fault Refusal :=
  .next (s.hostCmd cmd 0x52 fun s => s.setShares cmd)

/-! Pre-emption (R416) -/

/-- The contexts that share a context's set, itself among them. -/
def State.sharers (s : State) (ctx : Nat) : List Nat :=
  let x := s.ctxRec ctx
  s.live.filter fun c =>
    let y := s.ctxRec c
    s.get Base.contexts Reg.cxShared c == 1 && coresSame x.dieMask x.coreFirst x.cores y.dieMask y.coreFirst y.cores

/-- The context that runs on a context's set. -/
def State.runner (s : State) (ctx : Nat) : Option Nat :=
  match (s.ctxRec ctx).coreList with
  | [] => none
  | (d, c) :: _ =>
    if s.get (Base.coreBind d) Reg.cbRunValid c = 1 then some (s.get (Base.coreBind d) Reg.cbRunCtx c) else none

/-- A context has work ready: requests, prefixes to fill, steps, a loop or a load. -/
def State.workReady (s : State) (c : Nat) : Bool :=
  (s.ctxState c == 1 || s.ctxState c == 3) &&
    (!(s.ctxReqs c).isEmpty || (s.allPrefixes.any fun p => p.2.ctx == c && p.2.cmd.isSome) || (s.learn c).cmd.isSome ||
      s.get Base.phase Reg.phLoop c == 1 || !(s.loop c).forced.isEmpty || s.loading.any fun l => l.cmd.queue.val == c)

/-- The context that a shared set should run next. -/
def State.chosen (s : State) (ctx : Nat) : Option Nat :=
  let k := Base.contexts
  let ready := (s.sharers ctx).filter s.workReady
  let best := minBy (fun c => ((3 - s.get k Reg.cxPrio c) * 2 ^ 40 + (2 ^ 32 - (s.ctxRec c).waited)) * 16 + c) ready
  match s.runner ctx with
  | none => best
  | some r =>
    let above := ready.any fun c => decide (s.get k Reg.cxPrio r < s.get k Reg.cxPrio c)
    if ready.contains r && !above && decide ((s.ctxRec r).ran < (s.ctxRec r).slice) then some r
    else best.orElse fun _ => some r

/-- Post what this member wants of one shared context, under a tag kept for it (R63): `OR` for the one that runs, `AND` for
the others. -/
def State.preemptPost (s : State) (c : Nat) : State :=
  if s.arm.colls.any fun k => k.purpose == 5 && k.ctx == c then s
  else
    match s.freeTags.head? with
    | none => s
    | some tag =>
      let next := s.chosen c
      if s.runner c = some c then
        s.collPost 0x09 tag c (word (2 * c)) [6, 0, 0, 0] (s.groupOf c) [word (b2n (next != some c)), 0, 0, 0] 5
      else
        s.collPost 0x09 tag c (word (2 * c + 1)) [7, 0, 0, 0] (s.groupOf c) [word (b2n (next == some c)), 0, 0, 0] 5

/-- Results that are there. -/
def State.takePreempts (s : State) : State :=
  s.arm.colls.foldl (fun s k =>
    match k.purpose == 5, k.result with
    | true, some ws =>
      let s := s.dropColl k.mtype k.tag
      let x := s.ctxRec k.ctx
      let on := ws.getD 0 0 == 1
      s.setCtxRec k.ctx (if k.subject.toNat % 2 = 0 then { x with preempt := on } else { x with resume := on })
    | _, _ => s) s

/-- The decision at a frame boundary: frames run and waited are counted first. -/
def State.preemptDecide (s : State) : State :=
  let shared := s.live.filter fun c => s.get Base.contexts Reg.cxShared c == 1 && s.ctxState c != 4 &&
    decide (1 < (s.sharers c).length)
  let s := shared.foldl (fun s c =>
    let x := s.ctxRec c
    s.setCtxRec c (if s.runner c = some c then { x with ran := x.ran + 1, waited := 0 }
      else { x with waited := if s.workReady c then x.waited + 1 else 0, ran := 0 })) s
  (shared.foldl (fun s c => s.preemptPost c) s).takePreempts

/-! A switch (R417, Table 12.3) -/

/-- The cells of a range of keys, and the rest. -/
def cellsIn {α : Type} (l : Cells α) (lo hi : Nat) : Cells α := l.filter fun p => decide (lo ≤ p.1) && decide (p.1 < hi)
def cellsOut {α : Type} (l : Cells α) (lo hi : Nat) : Cells α := l.filter fun p => !(decide (lo ≤ p.1) && decide (p.1 < hi))

/-- Put cells back. -/
def cellsPut {α : Type} [DecidableEq α] (d : Nat → α) (l : Cells α) (new : Cells α) : Cells α :=
  new.foldl (fun l p => cset d l p.1 p.2) l

/-- Empty a range of a scratchpad: its words read zero and clean. -/
def State.wipe (s : State) (lo hi : Nat) : State :=
  { s with mem := { s.mem with data := cellsOut s.mem.data lo hi, check := cellsOut s.mem.check lo hi } }

def State.counters (s : State) (d c : Nat) : List Nat := (List.range 16).map fun e => s.get (Base.core d c) Reg.evc e
def State.setCounters (s : State) (d c : Nat) (l : List Nat) : State :=
  (List.range 16).foldl (fun s e => s.put (Base.core d c) Reg.evc (l.getD e 0) e) s

/-- Bytes of a context's partition on a core. -/
def State.partBytes (s : State) (ctx : Nat) : Nat := spUnits (s.get Base.contexts Reg.cxSpLimit ctx) * 0x40000

/-- Save a core's partition and counters. -/
def State.savePart (s : State) (ctx d c : Nat) : State :=
  let lo := scratchAddr d c 0
  let hi := lo + s.partBytes ctx
  let x : Saved := { ctx := ctx, core := coreKey d c, data := cellsIn s.mem.data lo hi,
                     check := cellsIn s.mem.check lo hi, evc := s.counters d c }
  { s with saves := s.saves.filter (fun y => !(y.ctx == ctx && y.core == x.core)) ++ [x] }

/-- Reload one; a partition never saved is zero. -/
def State.loadPart (s : State) (ctx d c : Nat) : State :=
  let lo := scratchAddr d c 0
  let s := s.wipe lo (lo + s.partBytes ctx)
  match s.saves.find? fun y => y.ctx == ctx && y.core == coreKey d c with
  | none => s.setCounters d c []
  | some y =>
    ({ s with
      mem := { s.mem with data := cellsPut (fun _ => 0) s.mem.data y.data,
                          check := cellsPut (fun _ => none) s.mem.check y.check },
      saves := s.saves.filter fun z => !(z.ctx == ctx && z.core == y.core) }).setCounters d c y.evc

/-- Take a context's entries out of a core's queue, and out of the engines of some dies. -/
def State.dropEntries (s : State) (ctx : Nat) (cores dies : List Nat) : State :=
  let mine (e : List Word) : Bool := bits (e.getD 0 0) 47 44 == ctx
  let s := cores.foldl (fun s k =>
    let x := s.core (k / 48) (k % 48)
    if x.queue.any mine then
      (s.setCore (k / 48) (k % 48) { x with queue := x.queue.filter fun e => !mine e }).showQueue (k / 48) (k % 48)
    else s) s
  dies.foldl (fun s d => (List.range 6).foldl (fun s e =>
    let x := s.eng d e
    if x.queue.any mine then (s.setEng d e { x with queue := x.queue.filter fun j => !mine j }).engShow d e else s) s) s

/-- An array's contents are lost: they are undefined from here on (R91). -/
def State.arraysLost (s : State) (d c : Nat) : State :=
  let s := (List.range 8).foldl (fun s a => s.setArr d c a { s.arr d c a with
    active := none, shadow := none, sum := [], check := [], gen := s.free + a, target := none }) s
  { s with free := s.free + 8 }

/-- The outgoing context's drains, blocks and signals on the set have all landed, and no span of it is in progress. -/
def State.setQuiet (s : State) (ctx : Nat) : Bool :=
  !(s.ctxRec ctx).span && (s.ctxRec ctx).coreList.all fun (d, c) =>
    (s.core d c).block.isNone && (s.core d c).rows.isEmpty &&
      !(s.signals.any fun g => g.die == d && g.core == c)

/-- Load the incoming context on a core; its `RUN_CTX` is in force at once, since its first slot may start at the next
edge. -/
def State.switchIn (s : State) (inc d c : Nat) : State :=
  let s := ((s.loadPart inc d c).arraysLost d c).runOn inc d c
  let a := Base.coreBind d + Reg.cbRunCtx.off + c * Reg.cbRunCtx.step
  { s with eff := cset resetWord s.eff a (s.reg a) }

/-- A switch; on a set that no context runs on, the incoming one is only loaded (Table 12.5). -/
def State.switchCtx (s : State) (out inc : Nat) : State :=
  let x := s.ctxRec out
  let y := s.ctxRec inc
  let k := Base.contexts
  let done (x : CtxRec) : CtxRec := { x with preempt := false, resume := false, ran := 0, waited := 0 }
  let inDone (s : State) : State :=
    ((s.put k Reg.cxState 1 inc).count k Reg.cxSwitches 1 inc).setCtxRec inc (done (s.ctxRec inc))
  if s.ctxState inc = 4 ∨ y.resume = false then s
  else if s.runner inc = none then
    inDone (y.coreList.foldl (fun s p => s.switchIn inc p.1 p.2) s)
  else if x.preempt && s.runner out == some out && (s.sharers out).contains inc && out != inc && s.setQuiet out then
    let s := s.dropEntries out (x.coreList.map fun p => coreKey p.1 p.2) (setBits 8 x.dieMask)
    let s := x.coreList.foldl (fun s p => (s.savePart out p.1 p.2).switchIn inc p.1 p.2) s
    let s := (s.put k Reg.cxState 3 out).count k Reg.cxPreempts 1 out
    inDone (s.setCtxRec out (done (s.ctxRec out)))
  else s

def execContextSwitch (outgoing incoming : Ctx) (s : State) : Host.Outcome State Fault Refusal :=
  .next (if s.serving then s.switchCtx outgoing.val incoming.val else s)

/-! Notification (R419) -/

/-- `COALESCE` µs have passed since the oldest record not yet notified. -/
def execNotifyTimer (queue : Fin 17) (s : State) : Host.Outcome State Fault Refusal :=
  .next (if 0 < (s.hq queue.val).unseen then s.notify queue.val else s)

/-! Reset (R421, R422, R426, Table 12.6) -/

/-- Accept a reset. -/
def State.resetCtx (s : State) (c : HostCmd) : State :=
  let ctx := bits c.b0 63 60
  let x := s.ctxRec ctx
  if bits c.b0 58 0 ≠ 0 ∨ !zeroWords [c.b1, c.b2, c.b3, c.b4, c.b5, c.b6, c.b7] ∨ s.ctxState ctx = 0 then
    s.complete c Status.denied
  else if s.ctxState ctx = 4 then
    s.setCtxRec ctx { x with resets := x.resets ++ (if x.resets.contains c then [] else [c]) }
  else
    (s.setCtxRec ctx { x with resetAt := s.stroke, stage := 0, resets := [c], keep := bit c.b0 59 }).put Base.contexts
      Reg.cxState 4 ctx

def execResetContext (cmd : HostCmd) (s : State) : Host.Outcome State Fault Refusal :=
  .next (s.hostCmd cmd 0x51 fun s => s.resetCtx cmd)

/-- Step 1: entries go, staged units void with `PREEMPT`, and what runs stops. -/
def State.resetFence (s : State) (ctx : Nat) : State :=
  let s := s.dropEntries ctx (List.range 384) (List.range 8)
  let s := s.addReason [ctx] Reason.preempt
  let staged := sortBy (·.seq) (s.units.filter fun u => u.ctx == ctx && u.staged)
  let s := (staged.mapIdx fun i u =>
    if i = 0 then u else { u with reasons := u.reasons ||| (1#16 <<< Reason.priorVoid) }).foldl
      (fun s u => s.settleUnit u false) s
  let s := { s with units := s.units.filter (·.ctx != ctx) }
  let b := Base.phase
  let s := ((s.put b Reg.phPhase 0 ctx).put b Reg.phLoop 0 ctx).put b Reg.phForced 0 ctx
  let s := s.setLoop ctx Loop.none
  s.setLearn ctx { s.learn ctx with cmd := none, run := none, left := 0 }

/-- Channels of a context stop: what they had outstanding completes with `GONE`. -/
def State.resetChans (s : State) (ctx : Nat) : State :=
  s.cores.foldl (fun s k =>
    (List.range 4).foldl (fun s ch =>
      let d := k.1 / 48
      let c := k.1 % 48
      let x := s.chan d c ch
      let st := s.chSt d c ch
      if x.ctx == ctx && (st == 1 || st == 2 || st == 3) then s.chanDrop d c ch else s) s) s

/-- Step 2: everything outstanding completes with `GONE`. -/
def State.resetComplete (s : State) (ctx : Nat) : State :=
  let s := (s.resetChans ctx).trackShow
  let mine (m : PageMove) : Bool := match s.pageAt m.handle m.ord with
    | some (_, _, e) => enCtx e == ctx
    | none => false
  let s := (s.moving.filter mine).foldl (fun s m => s.releaseAll [m.dest])
    { s with moving := s.moving.filter fun m => !mine m }
  let s := { s with
    um := { s.um with rdWait := s.um.rdWait.filter (·.ctx != ctx) },
    windows := s.windows.filter (·.ctx != ctx), bulk := s.bulk.filter (·.ctx != ctx),
    arm := { s.arm with colls := s.arm.colls.filter (·.ctx != ctx) },
    loading := s.loading.filter (·.cmd.queue.val != ctx) }
  let s := (List.range 1024).foldl (fun s i =>
    let x := s.slot i
    if x.busy && x.ctx == ctx then s.slotFree i else s) s
  let s := (List.range 24).foldl (fun s l =>
    let k := s.link l
    s.setLink l { k with queues := k.queues.map fun q => q.filter fun c => c.ctx != ctx || c.src != s.myNum || c.sent != 0 }) s
  let s := (s.linkShow.ctxReqs ctx).foldl (fun s p => (s.retract p.1).reqEnd p.1 Status.gone) s.linkShow
  (s.hq ctx).cmds.foldl (fun s c => s.complete c Status.gone) s

/-- `REALLOC` once on every region of a segment, whose entry is then not `VALID` on either plinth die. -/
def State.segClear (s : State) (i : Nat) : State :=
  (((List.range 512).foldl (fun s r => s.reallocDdr (512 * i + r)) s).setSeg 0 i 0).setSeg 1 i 0

/-- The segments of a context, and those that hold its save areas. -/
def State.ctxSegs (s : State) (ctx : Nat) : List (Nat × Nat) :=
  let saves := (List.range 8).filterMap fun d =>
    let a := s.get (Base.coreBind d) Reg.cbSaveBase ctx
    if a = 0 then none else some (a / 2 ^ 30)
  (s.segs.map fun x => (x.1 / 8192, x.1 % 8192)).filter fun (p, i) =>
    let e := s.seg p i
    bit e 63 && (if bit e 62 then saves.contains i else bits e 61 58 == ctx)

/-- Step 4: what the context held is cleared. -/
def State.resetClear (s : State) (ctx : Nat) : State :=
  let cores := (s.ctxRec ctx).coreList
  let s := cores.foldl (fun s (d, c) =>
    if s.runner ctx = some ctx then
      (s.wipe (scratchAddr d c 0) (scratchAddr d c (s.partBytes ctx))).setCounters d c []
    else s) s
  let s := { s with saves := s.saves.filter (·.ctx != ctx) }
  let s := (s.maps.filter fun e => enCtx e.2 == ctx && enKind e.2 != 0).foldl (fun s e =>
    s.mapDrop (e.1 / 65536) (e.1 % 65536)) s
  let s := (s.allPrefixes.filter fun p => p.2.ctx == ctx).foldl (fun s p => s.setPrefix p.1 none) s
  let s := (s.ctxReqs ctx).foldl (fun s p => s.setReq p.1 none) s
  let s := { s with models := s.models.filter (·.ctx != ctx), copies := s.copies.filter (·.ctx != ctx), outcomes := s.outcomes.filter (·.1 != ctx),
                    groups := cset (fun _ => []) s.groups ctx [] }
  let s := (s.setLearn ctx Learn.none).setLoop ctx Loop.none
  let s := s.cores.foldl (fun s k =>
    let x := s.core (k.1 / 48) (k.1 % 48)
    s.setCore (k.1 / 48) (k.1 % 48) { x with cache := x.cache.filter (·.ctx != ctx) }) s
  let s := ((s.ctxSegs ctx).map (·.2)).eraseDups.foldl (fun s i => s.segClear i) s
  let keep := (s.ctxRec ctx).keep
  let s := s.objSweep fun o => o.ctx == ctx && !(keep && o.state == 2 && (o.kind == 1 || o.kind == 3))
  let s := (List.range 8).foldl (fun s d => s.put (Base.engine d 1) Reg.seed 0 ctx) s
  let s := (List.range 4).foldl (fun s i => s.setReg (Base.sealBlk + ctx * 0x20 + 8 * i) 0) s
  let s := (s.setReg (Base.phase + ctx * 0x20) 0).setReg (Base.phase + ctx * 0x20 + 8) 0
  s.reqShow

/-- Steps 5 and 6: the shares go back, and `RESET_DONE` is written. -/
def State.resetReturn (s : State) (ctx : Nat) : State :=
  let x := s.ctxRec ctx
  let s := (s.unbindCores ctx).bindHub ctx [] 0 0
  let s := (List.range 8).foldl (fun s d =>
    ((s.put (Base.cachePart d) Reg.cpWays 0 ctx).put (Base.pageMap d) Reg.quotaLimit 0 ctx).put (Base.coreBind d)
      Reg.cbSaveBase 0 ctx) s
  let b := Base.contexts + ctx * 0x20
  let used := s.get Base.contexts Reg.cxFlashUsed ctx
  let s := (((s.setReg b 0).setReg (b + 8) 0).setReg (b + 16) 0).put Base.contexts Reg.cxFlashUsed used ctx
  let s := (s.setCtxRec ctx CtxRec.none).poolShow
  let s := s.event ctx 6 Status.ok 0 0 []
  x.resets.foldl (fun s c => s.complete c Status.ok) s

/-- A context's reset at a stroke edge; `STROKE_COUNT` already shows the new stroke. -/
def State.resetStep (s : State) (ctx : Nat) : State :=
  if s.ctxState ctx ≠ 4 then s
  else
    let x := s.ctxRec ctx
    let stage (n : Nat) (s : State) : State := s.setCtxRec ctx { s.ctxRec ctx with stage := n }
    if x.stage = 0 then (if x.resetAt < s.stroke then stage 1 (s.resetFence ctx) else s)
    else if x.stage = 1 then (if x.resetAt + 2 < s.stroke then stage 2 (s.resetComplete ctx) else s)
    else if x.stage = 2 then stage 3 (s.resetClear ctx)
    else s.resetReturn ctx

end Sys2Proof.Machine
end

