-- ==== Sys2Proof/Machine/Pages.lean ====
section
/-! DEFINITION. The page map at work: lookups, the append drains and the moving of pages between tiers (R131, R198, R199,
R202–R208, R219, R220, R226, R243). -/

namespace Sys2Proof.Machine

/-! `LOOKUP` (R203, Table 06.5) -/

/-- The page of a handle and ordinal that a context's probe finds on a die, through at most one alias: its entry's index,
and whether an alias led there (R198, R199). -/
def State.pageProbe (s : State) (d ctx handle ord : Nat) : Option (Nat × Bool) :=
  let own (i : Nat) : Bool := enCtx (s.mapAt d i) == ctx
  let al := (s.mapFind d handle aliasOrd 2).filter own
  match al with
  | some i =>
    if ord < enSharedOrd (s.mapAt d i) then
      ((s.mapFind d (enPrefix (s.mapAt d i)) ord 1).filter own).map fun k => (k, true)
    else ((s.mapFind d handle ord 1).filter own).map fun k => (k, false)
  | none => ((s.mapFind d handle ord 1).filter own).map fun k => (k, false)

/-- The address that a record gives for the rows of a page in flash, which have none. -/
def State.lostAddr (s : State) : Nat × State :=
  let (w, s) := s.draw
  (w.toNat % 2 ^ 48, s)

/-- One result record, and whether the page may be read. -/
def State.lookupRecord (s : State) (d ctx handle ord layer : Nat) : Bool × List Word × State :=
  match s.pageProbe d ctx handle ord with
  | none => (false, [word (Status.notResident * 2 ^ 56), 0, 0, 0], s)
  | some (i, shared) =>
    let e := s.mapAt d i
    let p := s.pageCfg d ctx
    let c := enClass e
    let near := decide (enTier e < 2)
    let sumv := p.summed c
    let base := enLoc e * 4096
    let (kv, s) := if enTier e = 3 then s.lostAddr else (base + p.rowOff c layer 0 0 0, s)
    let sum := if !sumv then 0
      else if near then base + p.sumOff c layer 0
      else s.sumAt (enHandle e) (enOrd e) + layer * p.heads * p.recBytes
    (near,
     [word ((if near then Status.ok else Status.notResident) * 2 ^ 56 + enEpoch e * 2 ^ 48 + c * 2 ^ 44 + enTier e * 2 ^ 42 +
        b2n sumv * 2 ^ 41 + b2n shared * 2 ^ 40 + enFill e * 2 ^ 24 + pageFirst p.top ord),
      word (kv % 2 ^ 48), word (sum % 2 ^ 48), word (enHandle e * 2 ^ 32 + ord * 2 ^ 12)], s.touch d i)

/-- A page below tier 1 that a request's row was to read: not one that the row may skip or that a fix-up round waits for
(R215, R218, R221). -/
def State.misses (s : State) (d ctx handle ord : Nat) : Bool :=
  match s.pageProbe d ctx handle ord with
  | none => false
  | some (i, _) =>
    let e := s.mapAt d i
    let spared := match s.reqOf handle with
      | some (_, r) => s.skipOn ctx && r.inStep && (r.skipRound == 3 || s.skippable r (d, i, e))
      | none => false
    decide (2 ≤ enTier e) && !spared

/-- Records from an ordinal on. A page that is still below tier 1 and is to be read ends its request (R220). -/
def State.lookups (s : State) (d c ctx handle layer dst : Nat) : Nat → Nat → State
  | _, 0 => s
  | ord, n + 1 =>
    let below := s.misses d ctx handle ord
    let (ok, ws, s) := s.lookupRecord d ctx handle ord layer
    let s := s.unitWrite d c ctx 5 (scratchAddr d c dst) ((bytesOf ws).map fun b => (b, false))
    let s := s.count (Base.pageMap d) Reg.mapLookups
    let s := if ok then s else s.count (Base.pageMap d) Reg.mapNotRes
    let s := if below then s.handleFail handle Status.tierFail else s
    s.lookups d c ctx handle layer (dst + 32) (ord + 1) n

/-- A page-map command of sub-operation `sub`: other values are reserved. -/
def State.pmCmd (s : State) (d c sub : Nat) (run : BlockRun → List Word → State → State) : State :=
  let w := (match (s.core d c).block with
    | some b => [s.fetch d c b.pc]
    | none => [])
  if pmSub w < 2 ∧ pmSub w ≠ sub ∧ bits (w.getD 0 0) 63 58 = 0x0D then s
  else
    s.seqCmd d c 0x0D (fun _ ws => s.pmCauses d c ws)
      fun b ws => run b ws (s.issue d c { b with unfixed := b.unfixed || sub == 0 } (ws.getD 0 0) 0 1)

def State.lookup (s : State) (d c : Nat) : State :=
  s.pmCmd d c 0 fun b ws s =>
    let t := (s.pageCfg d b.ctx).top
    (s.lookups d c b.ctx (bits (ws.getD 1 0) 63 32) (pmLayer ws) (s.pmOff d c ws)
      (pageOrd t (bits (ws.getD 0 0) 23 0)) (pmN ws)).evcAdd d c (bits (ws.getD 0 0) 35 32) 1

def execLookup (die : DieNo) (core : CoreNo) (s : State) : Host.Outcome State Fault Refusal :=
  .next (s.lookup die.val core.val)

/-- `APPEND_SET` (R131). -/
def State.appendSet (s : State) (d c : Nat) : State :=
  s.pmCmd d c 1 fun _ ws s =>
    let w := ws.getD 0 0
    let a := bits (ws.getD 1 0) 63 61
    let t : ArrTarget :=
      { layer := pmLayer ws, head := bits w 23 16, kv := bits w 15 15, col := bits w 14 8, table := s.pmOff d c ws,
        n := pmN ws }
    s.setArr d c a { s.arr d c a with target := some t }

def execAppendSet (die : DieNo) (core : CoreNo) (s : State) : Host.Outcome State Fault Refusal :=
  .next (s.appendSet die.val core.val)

/-! The append drain (R205–R208) -/

/-- Write a row into its page, and its summary where the page has one. -/
def State.appendWrite (s : State) (d c : Nat) (r : AppRow) (i pos : Nat) : State :=
  let t := r.target
  let e := s.mapAt d i
  let p := s.pageCfg d r.ctx
  let cl := enClass e
  let first := pageFirst p.top (enOrd e)
  let base := enLoc e * 4096
  let out (s : State) (a : Nat) (bs : List Byte) : State :=
    (s.unitWrite d c r.ctx (bs.length + 1) a (bs.map fun b => (b, false))).trackWrite a
  let s := out s (base + p.rowOff cl t.layer t.head t.kv (pos - first) + t.col * 32 * (elemBits p.fmt / 8)) r.bytes
  let s := (s.count (Base.pageMap d) Reg.appendRows).touch d i true
  if !p.summed cl then s
  else
    let a := base + p.sumOff cl t.layer t.head
    let (_, old, s) := s.unitBytes d c r.ctx a p.recBytes
    let es := (unpack r.fmt r.bytes).map fun x => (elemNum r.fmt x).toFv
    let old := if old.length < p.recBytes then sumEmpty p.d else old.map (·.1)
    out s a (if t.kv = 0 then sumKeys old p.d (32 * t.col) es else sumVals old es)

/-- The pages that a core's drain resolved last. -/
def State.drainList (s : State) (d c : Nat) : List (Nat × Nat × Nat) := cget (fun _ => []) s.drains (48 * d + c)

/-- The page entry of a row: from the drain's list of sixteen, or by a probe, which the list then keeps (R205, R206). -/
def State.drainFind (s : State) (d c handle ord : Nat) : Option Nat × State :=
  let l := s.drainList d c
  match l.find? fun x => x.1 == handle && x.2.1 == ord with
  | some x => (some x.2.2, s)
  | none =>
    match s.mapFind d handle ord 1 with
    | none => (none, s)
    | some i => (some i, { s with drains := cset (fun _ => []) s.drains (48 * d + c) (((handle, ord, i) :: l).take 16) })

/-- The page of an entry of the row table, where the drain may write it. -/
def State.appendPage (s : State) (d c ctx handle pos : Nat) : Option Nat × State :=
  let (k, s) := s.drainFind d c handle (pageOrd (s.pageCfg d ctx).top pos)
  (k.filter fun i =>
    let e := s.mapAt d i
    enCtx e == ctx && !enShared e && decide (enTier e < 2), s)

/-- The core's drain takes its oldest converted row, where that is one of array `a`: rows of a command in their order, and
those of an earlier command first, whichever array they come from (R207). -/
def State.appendRow (s : State) (d c a : Nat) : State :=
  let k := s.core d c
  match k.rows with
  | [] => s
  | r :: rest =>
    if r.arr ≠ a then s
    else
      let s := s.setCore d c { k with rows := rest }
      let miss (s : State) : State := (s.count (Base.pageMap d) Reg.appendMiss).workReason r.ctx r.kind r.seq Reason.missing
      if !s.coreUp d c then s
      else if r.target.n ≤ r.row then miss s
      else
        let (w, s) := s.load (scratchAddr d c (r.target.table + 8 * r.row))
        let pos := bits w.d 55 32
        let (k, s) := s.appendPage d c r.ctx (bits w.d 31 0) pos
        match k with
        | none => miss s
        | some i => s.appendWrite d c r i pos

def execAppendRow (die : DieNo) (core : CoreNo) (arr : Fin 8) (s : State) : Host.Outcome State Fault Refusal :=
  .next (s.appendRow die.val core.val arr.val)

/-! Spilling (R202, R219, R226) -/

/-- Bytes of a context's pages in host memory, those on their way to flash apart. -/
def State.hostUse (s : State) (ctx : Nat) : Nat :=
  s.maps.foldl (fun n p =>
    if enKind p.2 = 1 ∧ enTier p.2 = 2 ∧ enCtx p.2 = ctx ∧ s.isMoving p.2 = false
    then n + (s.pageCfg (p.1 / 65536) ctx).data (enClass p.2) else n) 0

/-- Host memory that a context may use: its regions. -/
def State.hostShare (s : State) (ctx : Nat) : Nat :=
  (s.um.regions.filter fun p => rgValid p.2 && !rgAdm p.2 && rgCtx p.2 == ctx).length * 2 ^ 26

/-- A page may move below its tier (Table 06.6): it is full and not pinned, no growth page and none of its sequence's last two,
and it has received no row in the step under way or the one before. -/
def State.mayFall (s : State) (ctx tier : Nat) (p : Nat × (Word × Word)) : Bool :=
  let e := p.2
  let d := p.1 / 65536
  let last := (s.pagesOf (enHandle e)).foldl (fun m q => if enKind q.2.2 = 1 then max m (enOrd q.2.2) else m) 0
  let rows := (cget (fun _ => (0, 0)) s.mapUse p.1).2
  enKind e == 1 && enCtx e == ctx && enTier e == tier && !enPin e && enFill e == classSize (enClass e) &&
    decide ((s.pageCfg d ctx).top < enOrd e) && decide (enOrd e + 2 ≤ last) && !s.isMoving e &&
    (rows == 0 || decide (rows < (s.ctxRec ctx).steps))

/-- The page to move: the least recently used of the device, the lowest entry among equals. -/
def State.oldest (s : State) (ctx tier : Nat) : Option (Nat × (Word × Word)) :=
  minBy (fun p => (cget (fun _ => (0, 0)) s.mapUse p.1).1) (s.maps.filter (s.mayFall ctx tier))

/-- Copy a page's rows from DDR to host memory, then change its entry, then release their storage later (R202). Its summaries
stay where they are (R219). -/
def State.pageToHost (s : State) (p : Nat × (Word × Word)) : State :=
  let (k, e) := p
  let d := k / 65536
  let c := s.pageCfg d (enCtx e)
  let a := enLoc e * 4096
  let n := c.data (enClass e)
  let (w, s) := (s.sumsRedo d e).draw
  let off := w.toNat % 2 ^ 32 * 4096
  let (bs, s) := s.loadBytes a n
  let s := s.hostBytes (enCtx e) (bs.length / 4096 + 2) off (bs.map fun b => (b, false))
  let s := s.releaseAll [.bytes a n]
  let s := if c.summed (enClass e) then s.setSumAt (enHandle e) (enOrd e) (a + n) else s
  s.setMapAt d (k % 65536) (withPlace e 2 ((hostBase + off) / 4096) (s.epochOf (hostBase + off)).toNat)

/-- Read a page's rows from host memory into a new object, which is sealed when the last of them has come. -/
def State.pageToFlash (s : State) (p : Nat × (Word × Word)) : Option State :=
  let e := p.2
  let n := (s.pageCfg (p.1 / 65536) (enCtx e)).data (enClass e)
  let o := s.objFree
  let (st, s) := s.objCreate o (enCtx e) 1 (ceilDiv n 4096) 0
  if st ≠ Status.ok then none else some (s.pageFetch e (.object o) n)

def State.fallHost (s : State) (ctx low : Nat) : Nat → State
  | 0 => s
  | fuel + 1 =>
    if s.ddrUsed ctx * 100 ≤ low * s.ddrShare ctx then s
    else
      match s.oldest ctx 1 with
      | some p => (s.pageToHost p).fallHost ctx low fuel
      | none => s

def State.fallFlash (s : State) (ctx low : Nat) : Nat → State
  | 0 => s
  | fuel + 1 =>
    if s.hostUse ctx * 100 ≤ low * s.hostShare ctx then s
    else
      match s.oldest ctx 2 with
      | some p =>
        match s.pageToFlash p with
        | some s => s.fallFlash ctx low fuel
        | none => s
      | none => s

/-- Move a context's pages down from DDR and from host memory, past a high-water mark to the low-water mark: the mark is held
against the context's whole use of the tier, and weights, planes and optimizer state stay (R226). -/
def State.pageSpill (s : State) (ctx : Nat) : State :=
  let b := Base.tier 0
  let n := s.maps.length
  let s := if s.get b Reg.hostHigh ctx * s.hostShare ctx < s.hostUse ctx * 100
    then s.fallFlash ctx (s.get b Reg.hostLow ctx) n else s
  if s.get b Reg.highPct ctx * s.ddrShare ctx < s.ddrUsed ctx * 100
  then s.fallHost ctx (s.get b Reg.lowPct ctx) n else s

def execPageSpill (die : DieNo) (ctx : Ctx) (s : State) : Host.Outcome State Fault Refusal :=
  .next (if s.serving && !s.isFenced die.val 0xFF then s.pageSpill ctx.val else s)

/-- Words of a page have come: they land in DDR, or in its object. -/
def State.pageWords (s : State) (dest : Storage) (off : Nat) (ws : List (CWord × Bool)) : State :=
  match dest with
  | .bytes a _ => (s.stores (a + off) (ws.map fun w => ({ d := w.1.d, c := w.1.c } : TWord))).trackWrite (a + off)
  | .object o =>
    match s.obj o with
    | none => s
    | some x => s.setObj { x with
        data := (ws.mapIdx fun i w => (off / 8 + i, w.1.d)).foldl (fun c q => cset (fun _ => 0) c q.1 q.2) x.data }

/-- The last of a page's words has come: back in DDR the page is at tier 1; in an object, which is sealed, at tier 3. A page
that is no longer there leaves its new storage to be released. -/
def State.pageArrived (s : State) (m : PageMove) : State :=
  match s.pageAt m.handle m.ord, m.dest with
  | none, x => s.releaseAll [x]
  | some (d, i, e), .bytes a _ => s.pageHome d i e a
  | some (d, i, e), .object o =>
    match s.obj o with
    | none => s
    | some x =>
      let s := (s.setObj { x with written := [(0, x.blocks)] }).objSeal o |>.2
      let s := s.releaseAll [.bytes (enLoc e * 4096) ((s.pageCfg d (enCtx e)).data (enClass e))]
      s.setMapAt d i (withPlace e 3 (o * 65536) 0)

/-- Words of a page land; with the last of them the page is where it goes, and a pause that waited for it goes on. -/
def State.pageLand (s : State) (handle ord off : Nat) (ws : List (CWord × Bool)) : State :=
  match s.moving.find? fun m => m.handle == handle && m.ord == ord with
  | none => s
  | some m =>
    let s := s.pageWords m.dest off ws
    let rest := s.moving.filter fun x => !(x.handle == handle && x.ord == ord)
    let n := 8 * ws.length
    if n < m.left then { s with moving := rest ++ [{ m with left := m.left - n }] }
    else
      let s := ({ s with moving := rest }).pageArrived m
      match s.reqOf handle with
      | some (i, _) => s.pauseWrite i
      | none => s

/-- A read of a page's rows has failed: what was to take them is released, and the owning request ends (R221, R262). -/
def State.pageLost (s : State) (handle ord st : Nat) : State :=
  let s := (s.moving.filter fun m => m.handle == handle && m.ord == ord).foldl (fun s m => s.releaseAll [m.dest]) s
  ({ s with moving := s.moving.filter fun m => !(m.handle == handle && m.ord == ord) }).ownerFail handle st

/-- Storage whose two strokes have passed is released. -/
def State.releaseDue (s : State) : State :=
  let due := s.toRelease.filter fun r => decide (r.1 ≤ s.stroke)
  let s := { s with toRelease := s.toRelease.filter fun r => !decide (r.1 ≤ s.stroke) }
  due.foldl (fun s r => match r.2 with
    | .bytes a n => s.releaseBytes a n
    | .object o => (s.objDelete o).2) s

/-! Stale pages (R243) -/

/-- The handles of the rows of the sampler's job on a die. -/
def State.samplerRows (s : State) (d : Nat) : List Nat :=
  match (s.eng d 0).job with
  | none => []
  | some j => (chunks 32 (32 * jobCount j) (s.loadBytes (jobParam j) (32 * jobCount j)).1).map fun r => leNat (r.take 4)

/-- Withdraw a request's rows from its context's step: they are computed again in the next. A row whose sampler job has
started, and runs or has run, leaves its stretch with `MISSING`. -/
def State.rowDefer (s : State) (h : Nat) : State :=
  match s.reqOf h with
  | none => s
  | some (i, r) =>
    let started := r.sampled || (List.range 8).any fun d => (s.samplerRows d).contains h
    if started then s.workReason r.ctx 1 (s.stretchSeq r.ctx) Reason.missing
    else s.setReq i (some { r with inStep := false, piece := 0 })

/-- Firmware takes a different-GEN failure from the channel's log; a read that is no page's leaves the unit of the block with
`MISSING`. -/
def State.staleDefer (s : State) (d c ch : Nat) (hs : List Nat) : State :=
  let x := s.chan d c ch
  if x.deferred.isEmpty then s
  else
    let s := s.setChan d c ch { x with deferred := [] }
    if hs.isEmpty then s.workReason x.ctx x.kind x.seq Reason.missing
    else hs.foldl (fun s h => s.rowDefer h) s

def execStalePageDefer (die : DieNo) (core : CoreNo) (ch : Fin 4) (handles : List W32) (s : State) :
    Host.Outcome State Fault Refusal :=
  .next (s.staleDefer die.val core.val ch.val (handles.map (·.toNat)))

end Sys2Proof.Machine
end

