-- ==== Sys2Proof/Machine/HostLink.lean ====
section
/-! DEFINITION. The Umajo link, its messages, doorbells, queues and the host region table (R454–R476), and the deadlines of
the tiers (R260). -/

namespace Sys2Proof.Machine

/-! Width and training (R455–R457) -/

/-- The lane groups in the order in which they are taken. -/
def umGroups : List (Nat × List Nat) :=
  [(16, List.range 16), (8, List.range 8), (8, (List.range 8).map (· + 8)), (4, List.range 4),
   (4, (List.range 4).map (· + 4)), (4, (List.range 4).map (· + 8)), (4, (List.range 4).map (· + 12))]

/-- The width that the good lanes allow; 0 where no group is whole. -/
def umWidthOf (ok : Nat) : Nat :=
  match umGroups.find? fun g => g.2.all ok.testBit with
  | some g => g.1
  | none => 0

def State.umUp (s : State) : Bool := s.get Base.umajo Reg.umState == 2

/-- The link is up at the width that its lanes allow. -/
def State.umShow (s : State) (ok : Nat) : State :=
  let b := Base.umajo
  ((s.put b Reg.umLaneOk ok).put b Reg.umWidth (umWidthOf ok)).put b Reg.umState 2

/-! Requests of a channel and their owners (R148, R262) -/

/-- A failure by its status. -/
def failOf (st : Nat) : ReqFail :=
  if st = Status.gone then .gone else if st = Status.denied then .denied
  else if st = Status.quarantined then .quarantined else .tierFail

/-- The handles of a context's pages whose rows or summaries hold an address. -/
def State.pagesAt (s : State) (ctx a : Nat) : List Nat :=
  ((s.maps.filter fun p => enKind p.2 == 1 && enCtx p.2 == ctx && (s.storageOf (p.1 / 65536) p.2).any fun x =>
    match x with
    | .bytes b n => decide (b ≤ a) && decide (a < b + n)
    | .object _ => false).map fun p => enHandle p.2).eraseDups

/-- The sequences with a page in an object fail with it (R258, R262). -/
def State.objectOwners (s : State) (num st : Nat) : State :=
  (((s.maps.filter fun p => (s.storageOf (p.1 / 65536) p.2).contains (.object num)).map fun p => enHandle p.2).eraseDups).foldl
    (fun s h => s.ownerFail h st) s

/-- `READ`; one that cannot bring an object's data fails the sequences with a page in it. -/
def State.objReadOwned (s : State) (p : Nat) (misread : List (Nat × Bool)) : State :=
  let t := s.objReadCmd p misread
  let st := t.get (Base.flash 0) Reg.objStatus
  if p = 0 ∧ s.serving = true ∧ s.pdUp 0 = true ∧ (st = Status.sigBad ∨ st = Status.tierFail) then
    t.objectOwners (s.objArg Reg.objNum) Status.tierFail
  else t

def execObjRead (job : ObjReading) (s : State) : Host.Outcome State Fault Refusal :=
  .next (s.objReadOwned job.pd.val job.misread)

/-- A request of a channel completes. One of GENERATE or SCORE work that ends with `TIER_FAIL` or `GONE` at a page of a
sequence ends the request that the sequence belongs to; what a unit suffers is its reason (R262). -/
def State.requestComplete (s : State) (d c ch index : Nat) (how : ReqEnd) : State :=
  let x := s.chan d c ch
  match s.findReq d c ch index with
  | none => s
  | some (_, _, r) =>
    let s' := (s.put (Base.core d c) Reg.chLastStatus 0 ch).dmaComplete d c ch index how
    let st := s'.get (Base.core d c) Reg.chLastStatus ch
    let t := s.dmaComplete d c ch index how
    if x.kind = 1 ∧ (st = Status.tierFail ∨ st = Status.gone) then
      (s.pagesAt x.ctx r.lo).foldl (fun t h => t.ownerFail h st) t
    else t

def execDmaRequestComplete (die : DieNo) (core : CoreNo) (ch : Fin 4) (index : Nat) (how : ReqEnd) (s : State) :
    Host.Outcome State Fault Refusal := .next (s.requestComplete die.val core.val ch.val index how)

/-! What a read slot carries (R465, R466) -/

/-- The tag of each word of a completion. -/
def cplTags (m : UmMsg) : List Byte := if m.tagged then m.tags else List.replicate m.data.length m.etag

/-- Words of an unguarded region come fresh, with their region's epoch of now (R467). -/
def State.cplWords (s : State) (x : RdSlot) (m : UmMsg) : List (CWord × Bool) :=
  if rgGuard (s.region (x.addr / 2 ^ 26)) then
    hostWords m.data (cplTags m) (if m.poisoned then m.poison else [])
  else hostWords m.data (List.replicate m.data.length (s.epochOf (hostBase + x.addr))) []

/-- Data comes back for a read slot. -/
def State.slotData (s : State) (i : Nat) (m : UmMsg) : State :=
  let x := s.slot i
  let ws := s.cplWords x m
  let s := s.slotFree i
  match x.owner with
  | .access => s.reply Status.ok ((m.data).headD 0)
  | .page h o off => s.pageLand h o off ws
  | .dma d c ch index =>
    match s.findReq d c ch index with
    | none => s
    | some (k, mv, r) =>
      s.setMove d c ch k { mv with reqs := mv.reqs.map fun q => if q.index = r.index then { q with early := some ws } else q }

/-- A host-window read ends with a status, for the one that asked. -/
def State.readFail (s : State) (o : RdOwner) (st : Nat) : State :=
  match o with
  | .access => s.reply st
  | .page h o _ => s.pageLost h o st
  | .dma d c ch index => s.requestComplete d c ch index (.failed (failOf st))

/-- A slot's read ends with a status. -/
def State.slotFail (s : State) (i st : Nat) : State :=
  let x := s.slot i
  if !x.busy then s else (s.slotFree i).readFail x.owner st

/-- The slot that a tag names, while its read of that generation is outstanding. -/
def State.slotOf (s : State) (mtag : Nat) : Option Nat :=
  let i := mtag % 1024
  if (s.slot i).busy && (s.slot i).gen % 64 == mtag / 1024 % 64 then some i else none

/-- A read is issued again with a new generation. -/
def State.slotAgain (s : State) (i : Nat) (x : RdSlot) : State := (s.setSlot i x).umSend (slotRead i x)

/-- A completion lost in the device (Table 14.6). -/
def State.cplLost (s : State) (mtag : Nat) : State :=
  match s.slotOf mtag with
  | none => s
  | some i =>
    let x := s.slot i
    if x.lost then s.slotFail i Status.tierFail
    else s.slotAgain i { x with gen := (x.gen + 1) % 64, lost := true }

/-- `MEM_CPL`. -/
def State.memCpl (s : State) (m : UmMsg) : State :=
  match s.slotOf m.mtag.toNat with
  | none => s.count Base.umajo Reg.readLate
  | some i => if bits m.arg 63 56 = Status.ok then s.slotData i m else s.slotFail i Status.tierFail

/-- A message that was delivered leaves the port's buffer. -/
def State.inboxDrop (s : State) (p : UmMsg → Bool) : State :=
  match s.um.inbox.find? p with
  | none => s
  | some m => { s with um := { s.um with inbox := s.um.inbox.erase m } }

def execMemCpl (msg : UmMsg) (s : State) : Host.Outcome State Fault Refusal :=
  .next (if s.umUp then (s.inboxDrop (· == msg)).memCpl msg else s)

/-- A posted write fails: it is not sent any more, and the units of its context have the reason. -/
def State.writeFail (s : State) (mtag : Nat) (m : UmMsg) (reason : Nat) : State :=
  ({ s with um := { s.um with
      writes := cset (fun _ => none) s.um.writes mtag none
      out := setAt s.um.out 0 ((s.um.out.getD 0 []).filter fun q => !(q.2 == m)) } }).addReason [m.ctx.toNat] reason

/-- A posted write that still waits to be sent: its message and the stroke in which it was posted. -/
def State.writeOf (s : State) (mtag : Nat) : Option (UmMsg × Nat) :=
  match cget (fun _ => none) s.um.writes mtag with
  | none => none
  | some (m, _, k) => if (s.um.out.getD 0 []).any fun q => q.2 == m then some (m, k) else none

/-- A message that the adapter lost is sent again once; lost twice, its request has failed (R464). -/
def State.errorReport (s : State) (mtag : Nat) : State :=
  match s.slotOf mtag with
  | some i =>
    let x := s.slot i
    if x.told then s.slotFail i Status.tierFail else s.slotAgain i { x with told := true }
  | none =>
    match cget (fun _ => none) s.um.writes mtag with
    | none => s
    | some (m, again, k) =>
      if again then s.writeFail mtag m Reason.tierFail
      else ({ s with um := { s.um with writes := cset (fun _ => none) s.um.writes mtag (some (m, true, k)) } }).umSend m

def execMessageErrorReport (mtag : Half) (s : State) : Host.Outcome State Fault Refusal :=
  .next (if s.umUp then s.errorReport mtag.toNat else s)

/-! The window is lost (R261, R457) -/

/-- Every request outstanding to the host window completes with `GONE`, posted writes that wait to be sent among them, and
later ones with `QUARANTINED`. -/
def State.fenceWindow (s : State) : State :=
  let lost := s.um.rdWait
  let s := { s with um := { s.um with fenced := true, rdWait := [] } }
  let s := (List.range 1024).foldl (fun s i => s.slotFail i Status.gone) s
  let s := lost.foldl (fun s x => s.readFail x.owner Status.gone) s
  s.um.writes.foldl (fun s w =>
    match s.writeOf w.1 with
    | some (m, _) => s.writeFail w.1 m Reason.gone
    | none => s) s

/-- The link is down. -/
def State.umDown (s : State) : State :=
  let b := Base.umajo
  ((((s.put b Reg.umState 0).put b Reg.umWidth 0).put b Reg.umLaneOk 0).fenceWindow).fail none

/-- A retraining that ends keeps the flits, and one that leaves no group of four lanes ends with the link down; a training starts the link afresh. -/
def State.umLinkUp (s : State) (lanes : Nat) (adapter : Nat) : State :=
  let b := Base.umajo
  let st := s.get b Reg.umState
  if umWidthOf lanes = 0 then (if st = 3 then s.umDown else s)
  else if st = 3 then
    ({ s with um := { s.um with resend := s.um.replay } }).umShow lanes
  else if st = 1 then
    let s := { s with um := { s.um with
        fseq := 0, expect := 0, acked := 4095, replay := [], resend := [], nakSend := false, nakOpen := false,
        control := [], noProgress := 0, tx := none, rx := [], stream := [], credits := [1024, 256, 1024],
        owed := [0, 0, 0] } }
    (s.umShow lanes).put b Reg.adapterId adapter
  else s

def execUmajoLinkUp (lanes : BitVec 16) (adapter : W32) (s : State) : Host.Outcome State Fault Refusal :=
  .next (s.umLinkUp lanes.toNat adapter.toNat)

/-- A lane fails; `relocked` names the lanes good after the retraining, if it ends in time. -/
def State.umLaneFail (s : State) (lane : Nat) (relocked : Option Nat) : State :=
  let b := Base.umajo
  let st := s.get b Reg.umState
  if st = 2 ∨ st = 3 then
    let ok := s.get b Reg.umLaneOk
    let ok := if ok.testBit lane then ok - 2 ^ lane else ok
    let s := (s.put b Reg.umLaneOk ok).count b Reg.umRetrains
    match relocked with
    | some m =>
      let good := ok &&& m
      if umWidthOf good = 0 then s.umDown
      else ({ s with um := { s.um with resend := s.um.replay } }).umShow good
    | none => s.umDown
  else s

def execUmajoLaneFail (lane : Fin 16) (relocked : Option (BitVec 16)) (s : State) :
    Host.Outcome State Fault Refusal :=
  .next (s.umLaneFail lane.val (relocked.map (·.toNat)))

/-- Once a second a link that is down trains again. -/
def execUmajoRetrainTimer (s : State) : Host.Outcome State Fault Refusal :=
  .next (if s.get Base.umajo Reg.umState = 0 ∧ s.devState = Dev.failed then s.put Base.umajo Reg.umState 1 else s)

/-! Flits (R458–R460) -/

/-- A flit's words, `FCRC` as given. -/
def umFlitWords (f : UmFlit) (fcrc : Nat) : List Word :=
  [f.h0, word (fcrc * 2 ^ 32 + bits f.h1 31 0)] ++ f.payload ++ List.replicate (128 - f.payload.length) 0

def umFlitCrc (f : UmFlit) : Nat := (crc32c (bytesOf (umFlitWords f 0))).toNat
def umFormed (f : UmFlit) : UmFlit := { f with h1 := word (umFlitCrc f * 2 ^ 32 + bits f.h1 31 0) }

/-- Header word 0: what it acknowledges and returns. -/
def Umajo.ackWord (u : Umajo) (seq ftype : Nat) : Word :=
  let crd := u.owed.map (min 511)
  word (seq * 2 ^ 52 + (u.expect + 4095) % 4096 * 2 ^ 40 + b2n u.nakSend * 2 ^ 39 + ftype * 2 ^ 37 +
    crd.getD 0 0 * 2 ^ 28 + crd.getD 1 0 * 2 ^ 19 + crd.getD 2 0 * 2 ^ 10)

/-- Once returned, credits are no longer owed. -/
def Umajo.returned (u : Umajo) : Umajo := { u with owed := u.owed.map fun n => n - min 511 n, nakSend := false }

/-- Units of 64 bytes that a message takes. -/
def umUnits (m : UmMsg) : Nat := ceilDiv (umBytes m).length 64

/-- The classes whose first message may go: its credits are held and Table 14.7 lets it pass what is before it. -/
def Umajo.ready (u : Umajo) : List Nat :=
  let first (c : Nat) : Option (Nat × UmMsg) := (u.out.getD c []).head?
  [0, 1, 2].filter fun c =>
    match first c with
    | none => false
    | some (n, m) =>
      decide (umUnits m ≤ u.credits.getD c 0) &&
        (c == 0 || ((first 0).map fun p => decide (n < p.1)).getD true)

/-- Grant messages to the stream until a flit is full. -/
def State.umGrant (s : State) : Nat → State
  | 0 => s
  | fuel + 1 =>
    let u := s.um
    if 1024 ≤ u.stream.length then s
    else
      match r16 u.turn 3 u.ready with
      | none => s
      | some (c, t) =>
        match u.out.getD c [] with
        | [] => s
        | (_, m) :: rest =>
          let u := { u with turn := t, out := setAt u.out c rest, stream := u.stream ++ umBytes m,
                            credits := setAt u.credits c (u.credits.getD c 0 - umUnits m) }
          (({ s with um := u }).countUnits 1000 (2 ^ 20) Base.umajo Reg.umTxMib m.dlen.toNat).umGrant fuel

/-- Put a sequenced flit on the lanes. -/
def State.umPut (s : State) (ftype : Nat) (payload : List Word) : State :=
  let u := s.um
  let f := umFormed { h0 := u.ackWord u.fseq ftype, h1 := 0, payload := payload }
  { s with um := { u.returned with fseq := (u.fseq + 1) % 4096, replay := u.replay ++ [f], tx := some f } }

/-- A replayed flit carries the `ACK` and `NAK` of now. -/
def Umajo.renew (u : Umajo) (f : UmFlit) : UmFlit :=
  umFormed { f with h0 := word (bits f.h0 63 52 * 2 ^ 52 + (u.expect + 4095) % 4096 * 2 ^ 40 + b2n u.nakSend * 2 ^ 39 +
    bits f.h0 38 0) }

/-- The link sends one flit: a replay, a control flit, a message flit or an idle one. -/
def State.umFlitSend (s : State) : State :=
  if !s.umUp then s
  else
    let u := s.um
    match u.resend with
    | f :: rest => { s with um := { u with tx := some (u.renew f), resend := rest, nakSend := false } }
    | [] =>
      let idle (s : State) : State :=
        { s with um := { s.um.returned with tx := some (umFormed { h0 := s.um.ackWord 0 0, h1 := 0, payload := [] }) } }
      if 64 ≤ u.replay.length then idle s
      else if !u.control.isEmpty then
        ({ s with um := { u with control := u.control.drop 64 } }).umPut 2
          ((u.control.take 64).flatMap fun (r : Word × Word) => [r.1, r.2])
      else
        let s := s.umGrant 128
        let bs := s.um.stream
        if bs.isEmpty then idle s
        else
          ({ s with um := { s.um with stream := bs.drop 1024 } }).umPut 1 (wordsOf (bs.take 1024))

def execUmajoFlitSend (s : State) : Host.Outcome State Fault Refusal := .next s.umFlitSend

/-- Replay from `ACK` + 1; eight replays without progress force a retraining (R457, R459). -/
def State.umReplay (s : State) : State :=
  let u := s.um
  let b := Base.umajo
  if u.replay.isEmpty then s
  else
    let s := s.count b Reg.umReplays
    if u.noProgress + 1 < 8 then { s with um := { u with resend := u.replay, noProgress := u.noProgress + 1 } }
    else
      let s := { s with um := { u with resend := u.replay, noProgress := 0 } }
      (s.put b Reg.umState 3).count b Reg.umRetrains

def execUmajoReplayTimeout (s : State) : Host.Outcome State Fault Refusal :=
  .next (if s.umUp then s.umReplay else s)

/-! Messages received (R461–R464) -/

/-- The length of a message whose header stands first. -/
def umLength (h0 : Word) : Nat :=
  let n := ceilDiv (bits h0 57 45) 8
  32 + 8 * n + (if bit h0 24 then 8 * ceilDiv n 64 else 0) + (if bit h0 23 then 8 * ceilDiv n 8 else 0)

/-- The message that bytes hold. -/
def umParse (bs : List Byte) : UmMsg :=
  let ws := wordsOf bs
  let h0 := ws.getD 0 0
  let n := ceilDiv (bits h0 57 45) 8
  let body := ws.drop 4
  let p := if bit h0 24 then ceilDiv n 64 else 0
  let poison := (body.drop n).take p
  { mtype := BitVec.ofNat 6 (bits h0 63 58), dlen := BitVec.ofNat 13 (bits h0 57 45),
    mtag := BitVec.ofNat 16 (bits h0 44 29), ctx := BitVec.ofNat 4 (bits h0 28 25), poisoned := bit h0 24,
    tagged := bit h0 23, etag := BitVec.ofNat 8 (bits h0 22 15), addr := BitVec.ofNat 48 (bits (ws.getD 1 0) 47 0),
    arg := ws.getD 2 0, data := body.take n,
    poison := (List.range (if bit h0 24 then n else 0)).map fun i => bit (poison.getD (i / 64) 0) (i % 64),
    tags := if bit h0 23 then (bytesOf (body.drop (n + p))).take n else [] }

/-- The message's `MCRC` is good. -/
def umCrcOk (bs : List Byte) : Bool :=
  let ws := wordsOf bs
  let w3 := ws.getD 3 0
  bits w3 63 32 == (crc32c (bytesOf (setAt ws 3 (word (bits w3 31 0))))).toNat

/-- A trailer that the type does not allow: only a completion from a guarded region has one. -/
def State.umTrailerBad (s : State) (m : UmMsg) : Bool :=
  (m.poisoned || m.tagged) &&
    !(m.mtype == 3 && (match s.slotOf m.mtag.toNat with
      | some i => rgGuard (s.region ((s.slot i).addr / 2 ^ 26))
      | none => true))

/-- A whole message: checked, then kept for its own command, or discarded and counted. -/
def State.umTake (s : State) (bs : List Byte) : State :=
  let m := umParse bs
  let b := Base.umajo
  let c := umClass m.mtype.toNat
  let s := { s with um := { s.um with owed := setAt s.um.owed c (s.um.owed.getD c 0 + ceilDiv bs.length 64) } }
  if !umCrcOk bs then
    let s := s.count b Reg.mcrcBad
    if m.mtype = 3 then s.cplLost m.mtag.toNat else s
  else if !([3, 5, 6, 8].contains m.mtype.toNat) || s.umTrailerBad m then s.count b Reg.badType
  else if m.mtype = 8 ∧ 16 < bits m.arg 36 32 then s.count b Reg.dbBad
  else
    ({ s with um := { s.um with inbox := s.um.inbox ++ [m] } }).countUnits 1001 (2 ^ 20) b Reg.umRxMib m.dlen.toNat

/-- Take every whole message; zeros after the last message of a flit are no message. -/
def State.umDeliver (s : State) : Nat → State
  | 0 => s
  | fuel + 1 =>
    let bs := s.um.rx
    if bs.all (· == 0) then { s with um := { s.um with rx := [] } }
    else
      let n := umLength ((wordsOf (bs.take 8)).getD 0 0)
      if bs.length < 8 ∨ bs.length < n then s
      else (({ s with um := { s.um with rx := bs.drop n } }).umTake (bs.take n)).umDeliver fuel

/-- What a header tells. -/
def State.umHeaderTake (s : State) (f : UmFlit) : State :=
  let u := s.um
  let ack := bits f.h0 51 40
  let n := (ack + 4096 - u.acked) % 4096
  let gone := if n ≤ u.replay.length then n else 0
  let u := { u with
    acked := if gone = 0 then u.acked else ack, replay := u.replay.drop gone,
    resend := u.resend.filter fun r => !((u.replay.take gone).any fun q => bits q.h0 63 52 == bits r.h0 63 52),
    noProgress := if gone = 0 then u.noProgress else 0,
    credits := List.zipWith (· + ·) u.credits [bits f.h0 36 28, bits f.h0 27 19, bits f.h0 18 10] }
  let s := { s with um := u }
  if bit f.h0 39 then s.umReplay else s

def State.umDiscard (s : State) : State :=
  ({ s with um := { s.um with nakSend := s.um.nakSend || !s.um.nakOpen, nakOpen := true } }).count Base.umajo Reg.umFlitBad

/-- A flit arrives (R459). -/
def State.umFlitReceive (s : State) (f : UmFlit) (fecOk : Bool) : State :=
  if !s.umUp then s
  else
    let s := if fecOk then s else s.count Base.umajo Reg.umUncorrCw
    let t := bits f.h0 38 37
    if !(fecOk && bits f.h1 63 32 == umFlitCrc f && t != 3) then s.umDiscard
    else if t = 0 then s.umHeaderTake f
    else if bits f.h0 63 52 ≠ s.um.expect then s.umDiscard
    else
      let s := { s with um := { s.um with expect := (s.um.expect + 1) % 4096, nakOpen := false } }
      let s := s.umHeaderTake f
      if t = 1 then
        let bs := bytesOf ((f.payload ++ List.replicate (128 - f.payload.length) 0).take 128)
        ({ s with um := { s.um with rx := s.um.rx ++ bs } }).umDeliver 64
      else
        ((nakPairs f.payload).filter fun r => bits r.1 63 56 == 1).foldl (fun s r => s.errorReport (bits r.1 15 0)) s

def execUmajoFlitReceive (flit : UmFlit) (fecOk : Bool) (s : State) : Host.Outcome State Fault Refusal :=
  .next (s.umFlitReceive flit fecOk)

/-! Doorbells (R462, R471, R473) -/

/-- A doorbell that moves nothing: counted, and reported on the queue, or where the context is `FREE` on the administrative
one. -/
def State.dbIgnored (s : State) (q value : Nat) : State :=
  (s.count Base.umajo Reg.dbBad).event (if q ≠ admQ ∧ s.ctxState q = 0 then admQ else q) 7 Status.denied 0 0 [word value]

/-- A count moves backward, or its queue's context is `FREE`. -/
def State.dbBackward (s : State) (q value now : Nat) : Bool :=
  decide (2 ^ 31 ≤ diff32 value now) || (q != admQ && s.ctxState q == 0)

def doorbellArg (kind q value : Nat) (m : UmMsg) : Bool :=
  m.mtype == 8 && m.arg == word (kind * 2 ^ 40 + q * 2 ^ 32 + value)

def State.sqTailBell (s : State) (q value : Nat) : State :=
  let b := Base.umajo
  if s.dbBackward q value (s.get b Reg.sqTail q) || decide (2 ^ s.sqLog q < diff32 value (s.get b Reg.sqHead q)) then
    s.dbIgnored q value
  else (s.put b Reg.sqTail value q).setHq q { s.hq q with stalled := false }

def execDoorbellSqTail (queue : Fin 17) (value : W32) (s : State) : Host.Outcome State Fault Refusal :=
  .next (if s.umUp then (s.inboxDrop (doorbellArg 0 queue.val value.toNat)).sqTailBell queue.val value.toNat else s)

def State.eqBell (s : State) (q value : Nat) : State :=
  let b := Base.umajo
  let now := s.get b Reg.eqConsumed q
  if s.dbBackward q value now || decide (diff32 (s.get b Reg.eqProduced q) now < diff32 value now) then s.dbIgnored q value
  else (s.put b Reg.eqConsumed value q).recordFlush q 256

def execDoorbellEqConsumed (queue : Fin 17) (value : W32) (s : State) : Host.Outcome State Fault Refusal :=
  .next (if s.umUp then (s.inboxDrop (doorbellArg 1 queue.val value.toNat)).eqBell queue.val value.toNat else s)

/-! Fetching entries (R474–R476) -/

/-- The command of an entry. -/
def entryCmd (q : Fin 17) (e : List Word) : HostCmd :=
  let h := e.getD 0 0
  let b (i : Nat) : Word := e.getD (8 + i) 0
  { queue := q, opcode := BitVec.ofNat 8 (bits h 63 56), tag := BitVec.ofNat 32 (bits h 31 0), hostRef := e.getD 1 0,
    fence := bit h 32, b0 := b 0, b1 := b 1, b2 := b 2, b3 := b 3, b4 := b 4, b5 := b 5, b6 := b 6, b7 := b 7 }

/-- The status that a header gives, in the order of R476. -/
def State.entryStatus (s : State) (q : Nat) (e : List Word) : Nat :=
  let h := e.getD 0 0
  let w7 := e.getD 7 0
  let op := bits h 63 56
  let crc := (crc32c (bytesOf (setAt (e.take 16) 7 (word (bits w7 63 32 * 2 ^ 32))))).toNat
  firstStatus
    [(bit h 33 && bits w7 31 0 != crc, Status.sigBad),
     (bits h 51 40 != 0 || bits h 39 34 != 0 || bits w7 63 32 != 0 ||
        !zeroWords [e.getD 2 0, e.getD 3 0, e.getD 4 0, e.getD 5 0, e.getD 6 0], Status.denied),
     (bits h 55 52 != (if q = admQ then 0 else q) || !(ctxOpcode op || admOpcode op), Status.denied),
     ((q == admQ && ctxOpcode op) || (q != admQ && admOpcode op), Status.denied),
     (q != admQ && s.ctxState q == 4, Status.denied),
     (!(s.devState == Dev.ready || s.devState == Dev.running), Status.denied)]

/-- Take one entry: it waits as a command in progress, or completes at once. -/
def State.entryTake (s : State) (q : Fin 17) (e : List Word) : State :=
  let s := s.put Base.umajo Reg.sqHead ((s.get Base.umajo Reg.sqHead q.val + 1) % 2 ^ 32) q.val
  let c := entryCmd q e
  let st := s.entryStatus q.val e
  if st ≠ Status.ok then
    s.recordPut q.val (eventRec 1 st (if q.val = admQ then 0 else q.val) c.opcode.toNat c.tag.toNat 0 c.hostRef s.stroke [])
  else s.setHq q.val { s.hq q.val with cmds := (s.hq q.val).cmds ++ [c] }

/-- Entries that the device reads now: room for each completion is reserved, and at most 64 commands are in progress. -/
def State.fetchCount (s : State) (q : Nat) : Nat :=
  let b := Base.umajo
  let h := s.hq q
  let free := 2 ^ s.eqLog q - diff32 (s.get b Reg.eqProduced q) (s.get b Reg.eqConsumed q)
  let room := (if 6 ≤ s.eqLog q then free else 0) + (if q = admQ then 0 else 256) - h.buffer.length
  min (min 32 (diff32 (s.get b Reg.sqTail q) (s.get b Reg.sqHead q))) (min (64 - h.cmds.length) (room - h.cmds.length))

/-- The queue is fetched: its context exists, or for the administrative one `ADM_EN` is set. -/
def State.fetches (s : State) (q : Nat) : Bool :=
  [Dev.booting, Dev.selftest, Dev.ready, Dev.running, Dev.failed].contains s.devState && !(s.hq q).stalled &&
    (if q = admQ then s.get Base.umajo Reg.admEn == 1 else s.ctxState q != 0)

/-- Read entries; a read that brings none has failed. -/
def State.queueFetch (s : State) (q : Fin 17) (entries : List (List Word)) : State :=
  let n := s.fetchCount q.val
  let head := s.get Base.umajo Reg.sqHead q.val
  let a := s.sqBase q.val + 128 * (head % 2 ^ s.sqLog q.val)
  if !s.fetches q.val || n == 0 then s
  else if a < hostBase ∨ s.hostStatus (qCtx q.val) (a - hostBase) ≠ Status.ok ∨ entries.isEmpty = true then
    (s.setHq q.val { s.hq q.val with stalled := true }).event q.val 7 Status.tierFail 0 0 [word head]
  else (entries.take n).foldl (fun s e => s.entryTake q e) s

def execQueueFetch (queue : Fin 17) (entries : List (List Word)) (s : State) : Host.Outcome State Fault Refusal :=
  .next (if s.umUp then s.queueFetch queue entries else s)

/-! The host region table (R466, R468) -/

/-- The fields of an entry. -/
def hwMask : Word := 0xFE00000000000000

/-- `HWIN_CMD` writes `HWIN_DATA`, which waits for the frame boundary. -/
def State.hwinWrite (s : State) (r : Nat) : State :=
  let v := s.reg (Base.umajo + Reg.hwValid.off) &&& hwMask
  ({ s with um := { s.um with waiting := cset (fun _ => none) s.um.waiting r (some v) } }).put Base.umajo Reg.hwStatus
    Status.ok

/-- `HWIN_CMD` reads the entry in force. -/
def State.hwinRead (s : State) (r : Nat) : State :=
  (s.setReg (Base.umajo + Reg.hwValid.off) (s.region r)).put Base.umajo Reg.hwStatus Status.ok

def execHwinWrite (region : BitVec 18) (s : State) : Host.Outcome State Fault Refusal :=
  .next (if s.awake then (s.hwinWrite region.toNat).reply Status.ok else s)
def execHwinRead (region : BitVec 18) (s : State) : Host.Outcome State Fault Refusal :=
  .next (if s.awake then (s.hwinRead region.toNat).reply Status.ok else s)

/-- At a frame boundary the waiting entries come into force, each with a `REALLOC` of its region. -/
def State.hwinApply (s : State) : State :=
  let s := s.um.waiting.foldl (fun s p =>
    match p.2 with
    | none => s
    | some v =>
      let s := { s with um := { s.um with regions := cset (fun _ => 0) s.um.regions p.1 v } }
      s.setEpoch 0 true p.1 (epochRealloc (s.epoch 0 true p.1))) s
  { s with um := { s.um with waiting := [] } }

/-! Deadlines of the tiers (R260, R262) -/

/-- Strokes within which a tier answers (Table 07.12). -/
def tierLimit : Tier → Nat
  | .ddr => 2
  | .host => 8
  | .flash => 64

/-- A request asked for in a stroke has not completed within its tier's limit. -/
def State.overdue (s : State) (t : Tier) (began : Nat) : Bool := decide (began + tierLimit t < s.stroke)

/-- Count a late request of a tier, at the plinth die that serves it. -/
def State.lateCount (s : State) (t : Tier) (p : Nat) : State :=
  s.count (Base.tier p) (match t with
    | .ddr => Reg.ddrLate
    | .host => Reg.hostLate
    | .flash => Reg.flashLate)

/-- The lower tier of an address. -/
def tierOf (a : Nat) : Option Tier :=
  match placeOf a with
  | .ddr => some .ddr
  | .host => some .host
  | _ => none

/-- An object command whose flash transfer is late completes with `TIER_FAIL`, for the sequences with a page in the object
too. -/
def State.objectLate (s : State) : State :=
  let num := s.objArg Reg.objNum
  if (s.obj num).isNone then s
  else
    let s := (((s.lateCount .flash 0).put (Base.flash 0) Reg.objStatus Status.tierFail).objShow).reply Status.ok
    s.objectOwners num Status.tierFail

/-- A late request completes with `TIER_FAIL`. -/
def State.tierLate (s : State) : LateReq → State
  | .dma d c ch index =>
    match s.findReq d.val c.val ch.val index with
    | none => s
    | some (_, _, r) =>
      match tierOf r.lo, r.issued with
      | some t, some k =>
        if s.overdue t k then
          let s := (s.lateCount t (if t = .ddr then s.ddrPd r.lo else 0)).requestComplete d.val c.val ch.val index
            (.failed .tierFail)
          (List.range 1024).foldl (fun s i =>
            if (s.slot i).busy && (s.slot i).owner == .dma d.val c.val ch.val index then s.slotFree i else s) s
        else s
      | _, _ => s
  | .hostRead i =>
    let x := s.slot i.val
    if x.busy && s.overdue .host x.began then (s.lateCount .host 0).slotFail i.val Status.tierFail else s
  | .hostWait n =>
    match s.um.rdWait[n]? with
    | none => s
    | some x =>
      if s.overdue .host x.began then
        (({ s with um := { s.um with rdWait := s.um.rdWait.eraseIdx n } }).lateCount .host 0).readFail x.owner
          Status.tierFail
      else s
  | .hostWrite tag =>
    match s.writeOf tag.toNat with
    | none => s
    | some (m, k) => if s.overdue .host k then (s.lateCount .host 0).writeFail tag.toNat m Reason.tierFail else s
  | .object => s.objectLate
  | .request h tier =>
    if (s.reqOf h.toNat).isSome then (s.lateCount tier 0).handleFail h.toNat Status.tierFail else s
  | .unit ctx tier => (s.lateCount tier 0).addReason [ctx.val] Reason.tierFail

def execTierDeadline (late : LateReq) (s : State) : Host.Outcome State Fault Refusal :=
  .next (if s.serving then s.tierLate late else s)

end Sys2Proof.Machine
end

