-- ==== Sys2Proof/Machine/Identity.lean ====
section
/-! DEFINITION. Attestation quotes and the boot-flash update (R493–R496, R500). -/

namespace Sys2Proof.Machine

def State.setProv (s : State) (p : Provenance) : State := { s with boot := { s.boot with prov := p } }

/-- Raise the stored reservation end by 1,024, as far as its 40 bits reach, and show it (R494, R495). -/
def State.reserveIndex (s : State) : State :=
  let n := min (provReserved s.boot.prov + 1024) (2 ^ 40 - 1)
  let s := s.setProv (provReserve s.boot.prov n)
  s.put Base.identity Reg.attReservedTo (provReserved s.boot.prov)

/-- The quote message (Table 15.9). -/
def State.quoteMsg (s : State) (q : Nat) : List Byte :=
  let img := s.boot.image
  let b := Base.identity
  (List.range 4).flatMap (fun i => leBytes 8 (s.get b Reg.attNonce i)) ++ sha256 (provSigned s.boot.prov) ++
    (img.map (·.imageDigest)).getD (List.replicate 32 0) ++ leBytes 4 ((img.map (·.fw)).getD 0) ++
    leBytes 4 ((img.map (·.imgSeq)).getD 0) ++ leBytes 8 s.stroke ++ leBytes 5 q ++ List.replicate 11 0

/-- The signature of index `q`: the level count, the two tree leaves and the parameter sets stand where a two-level HSS
signature has them, and every other byte is the key's (R493). -/
def quoteSig (q : Nat) (msg : List Byte) : List Byte :=
  let free (o n : Nat) : List Byte := (List.range n).map fun i => Config.attSig msg (o + i)
  let tree (o leaf : Nat) : List Byte :=
    beBytes 4 leaf ++ beBytes 4 3 ++ free o 2176 ++ beBytes 4 8 ++ free (o + 2176) 640
  beBytes 4 1 ++ tree 0 (q / 2 ^ 20) ++ beBytes 4 8 ++ beBytes 4 3 ++ free 2816 48 ++ tree 2864 (q % 2 ^ 20)

/-- Use the next index: the bottom tree that it exhausts leaves no tree ready. -/
def State.useIndex (s : State) : State :=
  let q := s.get Base.identity Reg.attNextQ
  let s := s.put Base.identity Reg.attNextQ (q + 1)
  if (q + 1) % 2 ^ 20 = 0 then
    { s with boot := { s.boot with treeReady := false } }.put Base.identity Reg.attState 2
  else s

/-- The outcome of a quote, in ATT_STATUS. -/
def State.quoteEnd (s : State) (st : Nat) : State := (s.put Base.identity Reg.attStatus st).reply Status.ok

/-- `ATT_CMD` quote. In another state it cannot be taken. With no tree ready, no index left or a destination that no
`ADM` region holds, the quote is denied; otherwise an index is used, reserved first where the block is used up, and
message and signature go to the host window. -/
def State.quote (s : State) : State :=
  let b := Base.identity
  if !s.serving then s.reply Status.denied
  else
    let a := s.get b Reg.attAddr
    let st := s.hostStatus none (a - hostBase)
    if !s.boot.treeReady || decide (a < hostBase) || st == Status.denied || !rgAdm (s.region ((a - hostBase) / 2 ^ 26)) then
      s.quoteEnd Status.denied
    else
      let q := s.get b Reg.attNextQ
      let s := if provReserved s.boot.prov ≤ q then s.reserveIndex else s
      if provReserved s.boot.prov ≤ q then s.quoteEnd Status.denied
      else
        let msg := s.quoteMsg q
        let s := s.useIndex
        if st ≠ Status.ok then s.quoteEnd Status.tierFail
        else
          let ws := wordsOf (msg ++ quoteSig q msg)
          ((s.hostWrite 0 (a - hostBase) ws).put b Reg.attSigBytes 5716).quoteEnd Status.ok

def execQuote (s : State) : Host.Outcome State Fault Refusal := .next (if s.awake then s.quote else s)

/-- A bottom tree is built: quotes may be signed with it. -/
def execTreeReady (s : State) : Host.Outcome State Fault Refusal :=
  .next (if s.serving && !s.boot.treeReady then
    { s with boot := { s.boot with treeReady := true } }.put Base.identity Reg.attState 0
  else s)

/-! The update (R500) -/

/-- Write a directory record that prefers a slot, one above the standing one, into the sector that does not hold that
one. -/
def flashPrefer (b : BootFlash) (slot : Nat) : BootFlash :=
  match flashStanding b with
  | none => { b with dir0 := [dirRecord 1 slot] }
  | some r =>
    let rec1 := dirRecord (leAt r 0 4 + 1) slot
    if b.dir0.contains r then { b with dir1 := [rec1] } else { b with dir0 := [rec1] }

/-- Program a slot. -/
def flashProgram (b : BootFlash) (slot : Nat) (img : List Byte) : BootFlash :=
  if slot = 0 then { b with slot0 := img } else { b with slot1 := img }

/-- A pending image: the standing record prefers the slot that is not running, and it holds a valid image. -/
def State.updatePending (s : State) : Bool :=
  let other := 1 - s.get Base.boot Reg.bootSlot
  flashPref s.boot.flash == other && flashSlotOk s.boot.rootKey s.boot.flash other

/-- `UPD_CMD` is taken: the update verifies. One that cannot be taken is denied. -/
def State.updateAccept (s : State) : State :=
  let u := s.get Base.boot Reg.updState
  if !s.serving || u == 1 || u == 2 then s.reply Status.denied
  else (s.put Base.boot Reg.updState 1).reply Status.ok

/-- The outcome of an update. -/
def State.updateEnd (s : State) (st : Nat) : State :=
  (s.put Base.boot Reg.updState (if s.updatePending then 3 else 0)).put Base.boot Reg.updStatus st

/-- The update's steps on the image as it was read, `none` where a read failed. -/
def State.updateRun (s : State) (image : Option (List Byte)) : State :=
  let b := Base.boot
  let a := s.get b Reg.updAddr
  let n := s.get b Reg.updBytes
  let st := s.hostStatus none (a - hostBase)
  if a < hostBase ∨ st = Status.denied ∨ rgAdm (s.region ((a - hostBase) / 2 ^ 26)) = false then s.updateEnd Status.denied
  else
    match image with
    | none => s.updateEnd Status.tierFail
    | some img =>
      if st ≠ Status.ok ∨ img.length ≠ n then s.updateEnd Status.tierFail
      else
        let fw := leAt (sectionBytes img 1) 0 4
        if !imageOk s.boot.rootKey img (flashSlotBytes s.boot.flash) || decide (fw < s.get b Reg.bootFw) then s.updateEnd Status.sigBad
        else
          let slot := 1 - s.get b Reg.bootSlot
          let f := flashPrefer (flashProgram s.boot.flash slot img) slot
          let s := { s with boot := { s.boot with flash := f } }
          ((s.put b Reg.otherFw fw).put b Reg.pendingFw fw).updateEnd Status.ok

/-- An update, from `UPD_CMD` or from where it verifies, to its end. -/
def State.update (s : State) (image : Option (List Byte)) : State :=
  if s.get Base.boot Reg.updState = 1 then s.updateRun image
  else
    let s := s.updateAccept
    if s.get Base.boot Reg.updState = 1 then s.updateRun image else s

def execUpdate (image : Option (List Byte)) (s : State) : Host.Outcome State Fault Refusal :=
  .next (if s.awake then s.update image else s)

end Sys2Proof.Machine
end

