-- ==== Sys2Proof/Machine/Csr.lean ====
section
/-! DEFINITION. Accesses to the control-and-status registers (R5–R9, R36–R40, R527), by the control cores and by the
host. -/

namespace Sys2Proof.Machine

def csrBase : Nat := 0x300000000000

def byHost : Port → Bool
  | .host => true
  | _ => false

/-- The unit of a register's offset. -/
def csrUnit (a : Nat) : Nat := a / 0x1000000
def csrBlk (a : Nat) : Nat := a / 0x10000 % 0x100
def csrOff (a : Nat) : Nat := a % 0x10000

/-- The host's accesses outside the serving states: DEVICE and BOOT while starting, ERROR and DEVICE once FAILED, to be
read only (Table 00.8). -/
def State.hostMay (s : State) (a : Nat) (write : Bool) : Bool :=
  let dev := csrUnit a == 0x1F && csrBlk a == 0x00
  let boot := csrUnit a == 0x10 && csrBlk a == 0x16
  let err := (decide (csrUnit a < 8) && csrBlk a == 0x0D) || csrBlk a == 0x1A
  if s.serving then true
  else if write then false
  else if s.devState = Dev.failed then dev || err
  else dev || boot

/-- What an access answers before it reaches the register: `OK`, `DENIED` or `QUARANTINED` (R5, R36, R38, R40). -/
def State.csrStatus (s : State) (p : Port) (addr bytes : Nat) (write : Bool) : Nat :=
  let a := addr - csrBase
  let fs := fieldsAt a
  if bytes ≠ 8 ∨ addr % 8 ≠ 0 ∨ addr < csrBase ∨ fs.isEmpty = true then Status.denied
  else if s.isFenced (csrUnit a) 0xFF then Status.quarantined
  else if byHost p && (!s.hostMay a write || (write && !(fs.any (·.host)))) then Status.denied
  else Status.ok

/-- An address that no range of Table 01.9 holds is counted at the requester's die (R34). -/
def reservedAddr (a : Nat) : Bool :=
  (decide (0x080000000000 ≤ a) && decide (a < 0x100000000000)) ||
    (decide (0x100200000000 ≤ a) && decide (a < 0x200000000000)) || decide (0x300020000000 ≤ a)

/-- The die in whose log a refusal stands: the control core's own, and PD0 for the host (R34). -/
def portDie : Port → Nat
  | .control n => controlUnit n.val
  | .host => 0x10

/-- Turn an access away. -/
def State.csrRefuse (s : State) (p : Port) (addr st : Nat) : State :=
  (if reservedAddr addr then s.refused (portDie p) none 0 addr else s).reply st

/-! Reading -/

/-- The provenance record that ID_SEL selects, as the views show it (Table 15.11); nothing where the provenance die failed. -/
def State.idView (s : State) (i : Nat) : Word :=
  let r := s.boot.prov.dies.getD (s.get Base.identity Reg.idDie) []
  if r.isEmpty || s.get Base.boot Reg.failCause == 1 then 0
  else if i = 0 then word (leAt r 0 8)
  else if i = 1 then
    word (leAt r 12 2 * 2 ^ 48 + leAt r 8 1 * 2 ^ 40 + leAt r 9 1 * 2 ^ 32 + leAt r 10 1 * 2 ^ 24 + leAt r 11 1 * 2 ^ 16)
  else word (leAt r (32 + 8 * (i - 2)) 8)

/-- A register's word as a read returns it: the views read what their selectors name, and `HOST` reads zero on PD1. -/
def State.csrView (s : State) (a : Nat) : Word :=
  let v := s.reg a
  if csrUnit a = 0x1F ∧ csrBlk a = 0x01 then
    let o := csrOff a
    if 0x28 ≤ o ∧ o ≤ 0x40 then (s.slotView (s.get Base.requests Reg.rqSelHost)).getD ((o - 0x28) / 8) 0
    else if 0x50 ≤ o ∧ o ≤ 0x68 then (s.slotView (s.get Base.requests Reg.rqSelFw)).getD ((o - 0x50) / 8) 0
    else v
  else if csrUnit a = 0x10 ∧ csrBlk a = 0x17 ∧ 0x10 ≤ csrOff a ∧ csrOff a ≤ 0x38 then s.idView ((csrOff a - 0x10) / 8)
  else if csrUnit a = 0x11 ∧ csrBlk a = 0x1B then Reg.pbHost.put v 0
  else v

/-- The mask of the fields of a register with an access code. -/
def accMask (fs : List Fld) (c : Acc) : Nat := fs.foldl (fun m f => if f.acc = c then m ||| ((2 ^ f.w - 1) * 2 ^ f.lo) else m) 0

/-- A read clears the RC fields; what hardware adds in the same cycle stands in them afterwards (R6, R7). -/
def State.csrClear (s : State) (a : Nat) (hardware : Word) : State :=
  let rc := word (accMask (fieldsAt a) .rc)
  if rc = 0 then s else s.setReg a (s.reg a &&& ~~~ rc ||| (hardware &&& rc))

/-- A read. -/
def State.csrRead (s : State) (p : Port) (addr bytes : Nat) (hardware : Word) : State :=
  let st := s.csrStatus p addr bytes false
  if st ≠ Status.ok then s.csrRefuse p addr st
  else
    let a := addr - csrBase
    (s.csrClear a hardware).reply Status.ok (s.csrView a)

/-! Writing -/

/-- The engine of an engine block (R188, R408). -/
def engOf (a : Nat) : Option Nat :=
  if csrUnit a < 8 then
    if csrBlk a = 0x04 then some (4 + csrOff a / 0x100)
    else if 5 ≤ csrBlk a ∧ csrBlk a ≤ 8 then some (csrBlk a - 5)
    else none
  else none

/-- A slot of the context is queued in some core of the die (R224). -/
def State.slotQueued (s : State) (d ctx : Nat) : Bool :=
  (List.range 48).any fun c => (s.core d c).queue.any fun e => bits (e.getD 0 0) 47 44 == ctx

/-- Whether the block of a register with RWI fields is idle (R8): each chapter defines it. -/
def State.blockIdle (s : State) (a : Nat) : Bool :=
  let u := csrUnit a
  let o := csrOff a
  if u < 8 ∧ csrBlk a = 0x03 then !s.slotQueued u ((o - 0x100) / 16)
  else if csrBlk a = 0x13 then
    let k := s.link (12 * (u - 0x10) + o / 0x1000)
    (k.queues.getD 1 []).isEmpty && (k.queues.getD 2 []).isEmpty &&
      !(k.replay.any fun f => bits f.h0 38 37 == 1 && bits f.h1 11 10 != 0)
  else if csrBlk a = 0x14 then !(s.bulk.any fun b => b.ring == o / 8)
  else if u = 0x10 ∧ csrBlk a = 0x15 then (s.hq admQ).cmds.isEmpty
  else true

/-- A value that the register refuses: a reserved format (Table 06.9), a power cap outside its range (R525), ways that another
context has (R246). -/
def State.csrValueBad (s : State) (a : Nat) (data : Word) : Bool :=
  if csrUnit a < 8 ∧ csrBlk a = 0x03 then
    decide (0x100 ≤ csrOff a) && decide (csrOff a < 0x200) && csrOff a % 16 == 0 && decide (4 ≤ bits data 59 56)
  else if csrUnit a < 8 ∧ Base.cachePart (csrUnit a) ≤ a ∧ a < Base.cachePart (csrUnit a) + 128 then
    (List.range 16).any fun c => c != csrOff a / 8 &&
      s.get (Base.cachePart (csrUnit a)) Reg.cpWays c &&& bits data 15 0 != 0
  else if csrUnit a = 0x10 ∧ csrBlk a = 0x19 ∧ csrOff a = 0x28 then
    !(bits data 15 0 == 0 || (decide (1500 ≤ bits data 15 0) && decide (bits data 15 0 ≤ 4000)))
  else false

/-- One field of a write (R6, R8); a W1C bit that hardware sets in the same cycle stays set (R7). -/
def fieldWrite (idle : Bool) (data hardware : Word) (w : Word) (f : Fld) : Word :=
  match f.acc with
  | .rw => f.put w (f.get data)
  | .rwi => if idle then f.put w (f.get data) else w
  | .w1c => f.put w (f.get w - (f.get w &&& f.get data) ||| f.get hardware)
  | _ => w

/-- A write that no command register takes: field by field, refused where an RWI field of a busy block would change. -/
def State.csrStore (s : State) (a : Nat) (data hardware : Word) : State :=
  if s.csrValueBad a data then s.reply Status.denied
  else
    let fs := fieldsAt a
    let idle := s.blockIdle a
    let old := s.reg a
    let clash := !idle && fs.any fun f => f.acc == .rwi && f.get data != f.get old
    (s.setReg a (fs.foldl (fieldWrite idle data hardware) old)).reply (if clash then Status.denied else Status.ok)

/-- Entry words that wait for the write of the fourth. -/
def State.slotLatch (s : State) (d c i : Nat) (w : Word) : State :=
  let k := s.core d c
  (s.setCore d c { k with latch := cset (fun _ => 0) k.latch i w }).reply Status.ok

def State.jobLatch (s : State) (d e i : Nat) (w : Word) : State :=
  let x := s.eng d e
  (s.setEng d e { x with latch := cset (fun _ => 0) x.latch i w }).reply Status.ok

/-- `MAP_CMD` (Table 06.10). -/
def State.mapCmd (s : State) (d : Nat) (data : Word) : State :=
  match bits data 63 60 with
  | 1 => s.mapInsert d
  | 2 => s.mapUpdate d
  | 3 => s.mapRemove d
  | 4 => s.mapRead d
  | 5 => s.moveTo d (bits data 16 0)
  | _ => State.mapReport (Status.denied, 0, s) d

/-- `EPOCH_CMD` (Table 07.6). -/
def State.epochOp (s : State) (p : Nat) (data : Word) : State :=
  let run := s.epochCmd p (bit data 22) (bits data 21 0)
  match bits data 63 60 with
  | 1 => run epochRewrite
  | 2 => run epochRealloc
  | 3 => run id
  | _ => (s.put (Base.tier p) Reg.epochStatus Status.denied).reply Status.ok

/-- `OBJ_CMD` (R266). -/
def State.objOp (s : State) (data : Word) : State :=
  match bits data 63 60 with
  | 1 => s.objCreateCmd 0
  | 2 => s.objWriteCmd 0 []
  | 3 => s.objSealCmd 0
  | 4 => s.objReadOwned 0 []
  | 5 => s.objDeleteCmd 0
  | 6 => s.objStatCmd 0
  | _ => s.objCmd 0 fun s => (Status.denied, s)

/-- Commands with no result register carry their outcome themselves (R527). -/
def State.segOp (s : State) (p : Nat) (data : Word) : State :=
  match bits data 63 60 with
  | 1 => s.segWrite p (bits data 12 0)
  | 2 => s.segRead p (bits data 12 0)
  | _ => s.reply Status.denied

def State.routeCmd (s : State) (p : Nat) (data : Word) : State :=
  match bits data 63 60 with
  | 1 => s.routeWrite p (bits data 11 0)
  | 2 => s.routeRead p (bits data 11 0)
  | _ => s.reply Status.denied

/-- `HWIN_CMD` (R479). -/
def State.hwinOp (s : State) (data : Word) : State :=
  (match bits data 63 60 with
    | 1 => s.hwinWrite (bits data 17 0)
    | 2 => s.hwinRead (bits data 17 0)
    | _ => s.put Base.umajo Reg.hwStatus Status.denied).reply Status.ok

/-- `ATT_CMD` and `UPD_CMD`: a reserved code is denied in the result register. -/
def State.attOp (s : State) (data : Word) : State :=
  if !s.serving then s.reply Status.denied
  else if bits data 63 60 = 1 then s.quote
  else s.quoteEnd Status.denied

def State.updOp (s : State) (data : Word) : State :=
  if !s.serving || s.get Base.boot Reg.updState == 1 then s.reply Status.denied
  else if bits data 63 60 = 1 then s.updateAccept
  else (s.put Base.boot Reg.updStatus Status.denied).reply Status.ok

/-- A write that the register takes. -/
def State.csrTake (s : State) (p : Port) (a : Nat) (data hardware : Word) : State :=
  let u := csrUnit a
  let blk := csrBlk a
  let o := csrOff a
  let pd := u - 0x10
  match engOf a with
  | some e =>
    let o := if blk = 0x04 then o % 0x100 else o
    if o = 0x28 then s.jobPush u e data
    else if 0x10 ≤ o ∧ o < 0x28 then s.jobLatch u e ((o - 0x10) / 8) data
    else s.csrStore a data hardware
  | none =>
    if u < 8 ∧ blk = 0x02 ∧ 0x20 ≤ o % 0x400 ∧ o % 0x400 ≤ 0x38 then
      if o % 0x400 = 0x38 then s.slotPush u (o / 0x400) data
      else s.slotLatch u (o / 0x400) ((o % 0x400 - 0x20) / 8) data
    else if u < 8 ∧ blk = 0x03 ∧ o = 0x30 then s.mapCmd u data
    else if blk = 0x11 ∧ o = 0x08 then s.segOp pd data
    else if blk = 0x11 ∧ o = 0x10 then s.epochOp pd data
    else if blk = 0x12 ∧ o = 0x40 then s.objOp data
    else if blk = 0x14 ∧ o = 0x88 then s.routeCmd pd data
    else if blk = 0x1C ∧ o % 0x10 = 0 then s.fiWrite (12 * pd + o / 0x10) data (byHost p)
    else if blk = 0x15 ∧ o = 0x68 then s.hwinOp data
    else if blk = 0x16 ∧ o = 0x28 then s.updOp data
    else if blk = 0x17 ∧ o = 0x68 then s.attOp data
    else s.csrStore a data hardware

/-- A write. -/
def State.csrWrite (s : State) (p : Port) (addr bytes : Nat) (data hardware : Word) : State :=
  let st := s.csrStatus p addr bytes true
  if st ≠ Status.ok then s.csrRefuse p addr st else s.csrTake p (addr - csrBase) data hardware

def execCsrWrite (by_ : Port) (addr : Addr) (bytes : Nat) (data : WriteData) (s : State) :
    Host.Outcome State Fault Refusal :=
  .next (if s.awake then s.csrWrite by_ addr.toNat bytes data.value data.hardware else s)

def execCsrReadClear (by_ : Port) (addr : Addr) (bytes : Nat) (hardware : Word) (s : State) :
    Host.Outcome State Fault Refusal :=
  .next (if s.awake then s.csrRead by_ addr.toNat bytes hardware else s)

/-! The host's messages (R461) -/

/-- A register message as it stands in the port's buffer. -/
def csrMsg (mtype : Nat) (mtag : Half) (addr : Addr) (arg : Word) (m : UmMsg) : Bool :=
  m.mtype.toNat == mtype && m.mtag == mtag && m.addr == addr && m.arg == arg

/-- `CSR_WR`: the host learns no outcome. -/
def execCsrWr (mtag : Half) (addr : Addr) (data : WriteData) (s : State) : Host.Outcome State Fault Refusal :=
  .next (if s.umUp then (s.inboxDrop (csrMsg 5 mtag addr data.value)).csrWrite .host addr.toNat 8 data.value data.hardware
  else s)

/-- `CSR_CPL`: the status, and 8 bytes of data. -/
def State.csrCpl (s : State) (mtag : Half) (addr : Addr) : State :=
  s.umSend { umBare 0x07 mtag.toNat 0 addr.toNat (word (s.answer.status.toNat * 2 ^ 56)) with
    dlen := 8, data := [s.answer.data] }

/-- `CSR_RD`. -/
def execCsrRd (mtag : Half) (addr : ReadAddr) (s : State) : Host.Outcome State Fault Refusal :=
  .next (if s.umUp then
    ((s.inboxDrop (csrMsg 6 mtag addr.addr 0)).csrRead .host addr.addr.toNat 8 addr.hardware).csrCpl mtag addr.addr
  else s)

end Sys2Proof.Machine
end

