-- ==== Sys2Proof/Machine/Start.lean ====
section
/-! DEFINITION. Start-up (R483, R491, R526): from the release of RESET_N through BOOTING and SELFTEST to the start of the
stroke timer. -/

namespace Sys2Proof.Machine

/-- A step of start-up fails: FAILED with its cause. No code of Table 13.10 names these causes, so the record's source is a
free value. -/
def State.bootFail (s : State) (cause : Nat) : State :=
  let (v, s) := s.draw
  (s.log 0x10 3 none (v.toNat % 64) 0 0).fail (some cause)

/-- Every PLL is locked to the reference pin. -/
def State.clocksLock (s : State) : State :=
  ([0, 1, 2, 3, 4, 5, 6, 7, 0x10, 0x11] : List Nat).foldl (fun s u =>
    s.put (Base.clock u) Reg.clkLocked (maskOf ((List.range 20).filter (domainExists u)))) s

/-- The unit map takes effect on the compute dies (R3, R447). -/
def State.loadUnitMap (s : State) : State :=
  (List.range 8).foldl (fun s d =>
    let b := Base.dieId d
    let pos := provPositions s.boot.prov d
    let spares := bits (provUmap s.boot.prov d 0) 15 0
    let s := (s.put b Reg.enabledCount 48).put b Reg.coreOk (2 ^ 48 - 1)
    let s := (s.put b Reg.spare0 (spares % 256)).put b Reg.spare1 (spares / 256)
    (List.range 6).foldl (fun s j =>
      s.put b Reg.corePos (leNat (((pos.drop (8 * j)).take 8).map (BitVec.ofNat 8))) j) s) s

/-- B of R46 for P in µs and the array clock in MHz. -/
def budgetOf (us mhz : Nat) : Nat := 99 * us * mhz / 100 - 240

/-- D of R75: the smallest number of strokes of at least 1 ms. -/
def sealWaitOf (us : Nat) : Nat := ceilDiv 1000 us

/-- What DEVICE shows of the image (Tables 02.11, 15.12). -/
def State.showImage (s : State) (i : Image) : State :=
  let b := Base.device
  let s := (s.put b Reg.imgSeq i.imgSeq).put b Reg.imgFw i.fw
  let s := s.put b Reg.fiAllow (b2n i.fiAllow)
  let s := (List.range 4).foldl (fun s k =>
    (s.put b Reg.imgDigest (leAt i.imageDigest (8 * k) 8) k).put b Reg.fabricDigest (leAt i.fabricDigest (8 * k) 8) k) s
  let h := fabricHops i.fabric
  let s := (s.put b Reg.fabDevices (i.fabric.length - 1)).put b Reg.fabHops h
  let s := s.put b Reg.floodNs (floodTime h (fabricFlight i.fabric))
  let s := (s.put b Reg.devNum i.devNum).put b Reg.frameLog2 i.frameLog2
  let s := (s.put b Reg.strokeUs i.strokeUs).put b Reg.budget (budgetOf i.strokeUs i.arrayMhz)
  s.put b Reg.sealWait (sealWaitOf i.strokeUs)

/-- The clock configuration on every die (Table 16.7). -/
def State.showClocks (s : State) (i : Image) : State :=
  ([0, 1, 2, 3, 4, 5, 6, 7, 0x10, 0x11] : List Nat).foldl (fun s u =>
    let b := Base.clock u
    let s := (s.put b Reg.ctrlMhz i.ctrlMhz).put b Reg.fabricMhz i.fabricMhz
    let s := s.put b Reg.arrayMhz (if u < 8 then i.arrayMhz else i.ddrMts)
    (s.put b Reg.sscDepth i.sscDepth).put b Reg.sscKhz i.sscKhz) s

/-- The policy's initial values (Table 15.5) and the datelines of the map (R488). -/
def State.loadPolicy (s : State) (i : Image) : State :=
  let s := (List.range 2).foldl (fun s p =>
    let s := s.put (Base.tier p) Reg.trackMode i.trackMode
    (List.range 16).foldl (fun s c => s.setReg (Base.tier p + Reg.lowPct.off + c * 8) (word i.water)) s) s
  let s := (List.range 32).foldl (fun s c => s.put (Base.ddr c) Reg.retrainLimit i.retrainLimit) s
  (List.range 24).foldl (fun s l =>
    let b := Base.peerLink l
    (s.put b Reg.laneSerLimit i.laneSerLimit).put b Reg.dateline (b2n (lwDateline (linkWord i.fabric i.devNum l)))) s

/-- The code of a data rate (Table 07.14). -/
def speedCode (mts : Nat) : Nat := if mts = 12800 then 0 else if mts = 11200 then 1 else if mts = 9600 then 2 else 3

/-- The data rates of Table 07.2. -/
def ddrRates : List Nat := [12800, 11200, 9600, 8800]

/-- A module within Table 07.2 (R227): its rate apart. -/
def moduleSupported (m : DdrModule) : Bool :=
  m.count == 1 && m.mrdimm && m.ecc && m.x4 && [32, 64, 128, 256].contains m.gib

/-- A channel enters service: a module within Table 07.2 on a channel to be used, and its training passes (R228). -/
def State.ddrUsable (s : State) (i : Image) (fail c : Nat) : Bool :=
  match s.ddr[c]? with
  | none => false
  | some m =>
    m.present && moduleSupported m && ddrRates.contains i.ddrMts && decide (i.ddrMts ≤ m.mts) && !fail.testBit c &&
      !provDdrOff s.boot.prov (c / 16) (c % 16)

/-- DDR training (R228). -/
def State.ddrTrain (s : State) (i : Image) (fail : Nat) : State :=
  (List.range 32).foldl (fun s c =>
    if s.ddrUsable i fail c then
      let b := Base.ddr c
      let s := (s.put b Reg.ddrState 2).put b Reg.ddrSpeed (speedCode i.ddrMts)
      (s.put b Reg.ddrCapGib (((s.ddr[c]?).map (·.gib)).getD 0)).setBit (Base.hubId (c / 16)) Reg.ddrPresent (c % 16)
    else s) s

/-- Units that fail a known-answer test are quarantined before READY, with nothing staged (R444, R448). -/
def State.katFences (s : State) (us : List UnitId) : State :=
  let s := (us.filter fun u => fenceIndexOk u.unit.toNat u.index.toNat).foldl (fun s u =>
    s.quarantine u 0x03 (u.index.toNat % 64) 0) s
  let due := s.dueFences
  let s := { s with faults := { s.faults with toFence := [] } }
  due.foldl (fun s p => if s.devState = Dev.failed then s else s.fenceUnit p.1 p.2.1 p.2.2.1 p.2.2.2) s

/-- Links that the map lists and the unit map lets be used train (R269, R447). -/
def State.linkListed (s : State) (l : Nat) : Bool :=
  lwListed (linkWord s.fabric s.myNum l) && !provLinkOff s.boot.prov (l / 12) (l % 12)

def State.linksTrain (s : State) : State :=
  (List.range 24).foldl (fun s l =>
    if s.linkListed l && !s.goneUnit (linkUnit l) && !s.isFenced (0x10 + l / 12) 0xFF then s.put (Base.peerLink l) Reg.linkState 1
    else s) s

/-- SELFTEST, but for the links and the settling. -/
def State.selftest (s : State) (i : Image) (found : SelfTest) : State :=
  let s := s.setDevState Dev.selftest
  if i.strokeUs * 1000 < 4 * floodTime (fabricHops i.fabric) (fabricFlight i.fabric) then s.bootFail 6
  else
    let s := s.ddrTrain i found.ddrFail.toNat
    if s.ddrUp = 0 then s.bootFail 7
    else
      let s := s.katFences found.katFail
      if s.devState = Dev.failed then s
      else
        let s := s.objSweep fun o => o.kind == 1 || o.state == 1
        let s := (s.put Base.boot Reg.selftestMs found.katMs.toNat).put Base.boot Reg.bootStage 4
        (s.linksTrain).poolShow

/-- The image is read and verified, and the firmware started; an index block is reserved (R494, R499). -/
def State.loadImage (s : State) (slot : Nat) (fallback : Bool) (i : Image) (found : SelfTest) : State :=
  let b := Base.boot
  let other := flashSlot s.boot.flash (1 - slot)
  let otherFw := if flashSlotOk s.boot.rootKey s.boot.flash (1 - slot) then leAt (sectionBytes other 1) 0 4 else 0
  let s := { s with boot := { s.boot with image := some i } }
  let s := (s.put b Reg.bootSlot slot).put b Reg.bootFallback (b2n fallback)
  let s := (s.put b Reg.bootFw i.fw).put b Reg.otherFw otherFw
  let s := (s.put b Reg.imageMs found.imageMs.toNat).put b Reg.bootStage 3
  let s := ((s.showImage i).showClocks i).loadPolicy i
  let s := (s.put Base.identity Reg.attNextQ (provReserved s.boot.prov)).put Base.identity Reg.attState 2
  s.reserveIndex

/-- The start-up sequence (Table 15.2). Outside the limits of R518 it gives no next state. -/
def State.bootRun (s : State) (found : SelfTest) : Host.Outcome State Fault Refusal :=
  let s := (s.setDevState Dev.booting).put Base.umajo Reg.umState 1
  let s := (s.put Base.boot Reg.flashMib s.boot.flash.mib).clocksLock
  if !provOk s.boot.rootKey s.boot.prov then .next (s.bootFail 1)
  else
    let s := (s.put Base.identity Reg.idSerial s.boot.prov.serial.toNat).put Base.boot Reg.bootStage 1
    if !provMapOk s.boot.prov then .next (s.bootFail 2)
    else
      let s := s.loadUnitMap
      match flashChoose s.boot.rootKey s.boot.flash with
      | none => .next (s.bootFail 3)
      | some (slot, fallback) =>
        let i := imageOf (flashSlot s.boot.flash slot)
        if !fabricOk i.devNum i.fabric then .next (s.bootFail 4)
        else if !imgClocksInLimits i then .fault .clockLimits
        else .next ((s.loadImage slot fallback i found).selftest i found)

/-- RESET_N is filtered inactive: a device in RESET, or one in OFF whose rails are good and whose RESET_N was held, starts
(R509, R511). -/
def execResetRelease (found : SelfTest) (s : State) : Host.Outcome State Fault Refusal :=
  let held := s.pins.resetN
  let s := { s with pins := { s.pins with
    resetN := false
    jtag := if s.pins.jtag = .extest then .bypass else s.pins.jtag
    tdo := if s.pins.jtag = .extest then [false] else s.pins.tdo
    driven := false } }
  if s.devState = Dev.reset ∨ (s.devState = Dev.off ∧ s.pins.railsOk = true ∧ held = true) then
    State.bootRun { s with pins := { s.pins with thermtrip := false } } found
  else .next s

/-! Peer links and the settling of the stroke (R269, R289, R491) -/

/-- Routes: the links in service to the neighbour of the lowest-numbered link among those on a shortest path (R281). -/
def State.routeTo (s : State) (dev : Nat) : Word :=
  let ds := s.distances dev
  match ds.find? fun p => p.1 == s.myNum with
  | none => 0
  | some (_, d) =>
    let up := (List.range 24).filter s.linkUp
    match up.find? fun l => decide (0 < d) && ds.contains (s.peer l, d - 1) with
    | none => 0
    | some l => word (2 ^ 63 + maskOf (up.filter fun m => s.peer m == s.peer l))

/-- Both plinth dies' route tables, from the map. -/
def State.routesBuild (s : State) : State :=
  (List.range s.fabric.length).foldl (fun s dev =>
    let w := s.routeTo dev
    (s.setRoute 0 dev w).setRoute 1 dev w) s

/-- The members in service on the line of a dimension, in the order of their coordinates. -/
def State.ringLine (s : State) (d : Nat) : List Nat :=
  ((List.range (s.sizes.getD d 1)).filterMap (s.devAt d)).filter s.devsInService.contains

/-- A ring entry for a dimension: the cycle through the members of its line that remain, with this device's links to the next
and the previous one; invalid where they form none (R288, R289). -/
def State.ringWord (s : State) (d : Nat) : Word :=
  let ms := s.ringLine d
  let n := ms.length
  let i := ms.findIdx (· == s.myNum)
  let next (j k : Nat) : Nat := ms.getD ((j + k) % n) 0
  let cycle := (List.range n).all fun j =>
    (adjacent s.fabric s.arm.links s.devsInService (ms.getD j 0)).contains (next j 1)
  let links (dev : Nat) : List Nat := (List.range 24).filter fun l => s.linkUp l && s.peer l == dev
  let fwd := links (next i 1)
  let bwd := links (next i (n - 1))
  let prev := if n = 2 then bwd.drop 1 ++ bwd else bwd
  match fwd.head?, prev.head? with
  | some a, some b => if 2 ≤ n ∧ cycle = true then word (2 ^ 63 + a * 2 ^ 58 + b * 2 ^ 53 + (n - 1) * 2 ^ 41 + i * 2 ^ 29)
      else 0
  | _, _ => 0

/-- The ring tables, from the map: rings in use keep their entries (R288, R289). -/
def State.ringsBuild (s : State) : State :=
  (List.range 12).foldl (fun s r =>
    if s.bulk.any fun b => b.ring == r then s
    else
      let w := if r < 4 then s.ringWord r else 0
      (s.setReg (Base.collective 0 + 8 * r) w).setReg (Base.collective 1 + 8 * r) w) s

/-- Training leaves a link out of service. -/
def State.linkOut (s : State) (l : Nat) : State :=
  let s := s.put (Base.peerLink l) Reg.linkState 0
  { s with arm := { s.arm with links := (s.myNum, l) :: s.arm.links } }

/-- One link's training ends (Table 08.2): its far end must be the one that the map names, and its map the same (Table
15.7). -/
def State.linkTrained (s : State) (l : Nat) (t : Option LinkTrain) : State :=
  let w := linkWord s.fabric s.myNum l
  match t with
  | none => s.linkOut l
  | some t =>
    let good := t.lanes.toNat &&& (255 ^^^ provLaneOff s.boot.prov (l / 12) (l % 12))
    let digest := ((s.boot.image.map (·.fabricDigest)).getD [])
    if !t.ok || linkWidthOf good == 0 then s.linkOut l
    else if t.peerDev.toNat ≠ lwPeer w ∨ t.peerLink.toNat ≠ lwLink w ∨ t.peerDigest.toNat ≠ leNat digest then
      (s.log 0x10 3 none 0x0C (l % 12) 0).fail (some 5)
    else
      let b := Base.peerLink l
      let s := (s.put b Reg.linkState 2).put b Reg.linkWidth (linkWidthOf good)
      let s := (s.put b Reg.laneOk good).put b Reg.armOk 1
      let s := (s.put b Reg.peerDev t.peerDev.toNat).put b Reg.peerLinkNo t.peerLink.toNat
      let s := s.put (Base.armature (0x10 + l / 12)) Reg.linkDelay t.delay.toNat (l % 12)
      (s.setBit (Base.hubId (l / 12)) Reg.linkPresent (l % 12)).setLink l { Link.idle with credits := [32, 16, 16] }

/-- The stroke timer starts: the device follows itself until it hears a lower-numbered source (R491). -/
def State.settle (s : State) : State :=
  ({ s with strokes := { s.strokes with running := true, source := some s.myNum } }).setMaster s.myNum

/-- Peer-link training ends. -/
def State.linkTrainingEnd (s : State) (found : List LinkTrain) : State :=
  if s.devState ≠ Dev.selftest ∨ s.strokes.running = true then s
  else
    let s := (List.range 24).foldl (fun s l =>
      if s.devState = Dev.failed then s
      else if s.get (Base.peerLink l) Reg.linkState = 1 then s.linkTrained l (found.find? fun t => t.link.val == l)
      else if lwListed (linkWord s.fabric s.myNum l) then
        { s with arm := { s.arm with links := (s.myNum, l) :: s.arm.links } }
      else s) s
    if s.devState = Dev.failed then s else ((s.routesBuild).ringsBuild).settle

def execLinkTrainingEnd (found : List LinkTrain) (s : State) : Host.Outcome State Fault Refusal :=
  .next (s.linkTrainingEnd found)

end Sys2Proof.Machine
end

