-- ==== Sys2Proof/Machine/Gone.lean ====
section
/-! DEFINITION. What goes with a unit or a device that is fenced, and the flooded FENCE (R32, R222, R261, R288,
R440–R443). -/

namespace Sys2Proof.Machine

/-! Keys of the per-frame counts that are flags: a frame boundary done, and tables to be rebuilt at the next one -/

def frameDoneKey : Nat := 96
def routesKey : Nat := 97
def homesKey : Nat := 98

def State.setFrameCount (s : State) (k v : Nat) : State :=
  { s with faults := { s.faults with frameCounts := cset (fun _ => 0) s.faults.frameCounts k v } }

/-! Units of this device -/

/-- A core's block, entries, programs and lines go with it. -/
def State.coreGone (s : State) (d c : Nat) : State :=
  let k := s.core d c
  let s := match k.block with
    | some b => (if b.spanEnd then s.spanSet b.ctx false else s).put (Base.core d c) Reg.seqState 0
    | none => s
  let s := (List.range 4).foldl (fun s ch =>
    let st := s.chSt d c ch
    if st = 1 ∨ st = 2 ∨ st = 3 then s.chanDrop d c ch else s) s
  (s.setCore d c { s.core d c with queue := [], block := none, rows := [], chans := [], cache := [] }).showQueue d c

/-- A fenced engine's job in progress ends. The entries of a pointing engine pass to the other one of its die while that one
is in service (R440). -/
def State.engGone (s : State) (d e : Nat) : State :=
  let x := s.eng d e
  let s := match x.job with
    | some _ => (s.put (Base.engine d e) Reg.engLastStatus Status.gone).put (Base.engine d e) Reg.engState 0
    | none => s
  let o := 9 - e
  let s := if 4 ≤ e ∧ s.isFenced d (engIndex o) = false then
      (s.setEng d o { s.eng d o with queue := (s.eng d o).queue ++ x.queue }).engShow d o
    else s
  (s.setEng d e { x with queue := [], job := none, overran := false }).engShow d e

/-- A prefix some of whose pages are lost is dropped; a registration in progress ends with `GONE`. -/
def State.prefixGone (s : State) (h : Nat) : State :=
  match s.prefixOf h with
  | none => s
  | some (i, p) =>
    let s := s.setPrefix i (some { p with dropped := true, cmd := none })
    match p.cmd with
    | some c => (s.complete c Status.gone).prefixSweep
    | none => s.prefixSweep

/-- Pages in lost scratchpads, by context, die and core: requests with any such page end with `GONE` (R222). -/
def State.pagesLost (s : State) (gone : Nat → Nat → Nat → Bool) : State :=
  let hs := ((s.maps.filter fun p => enKind p.2 == 1 && enTier p.2 == 0 &&
    (match placeOf (enLoc p.2 * 4096) with
     | .scratch d c _ => gone (enCtx p.2) d c
     | _ => false)).map fun p => enHandle p.2).eraseDups
  hs.foldl (fun s h =>
    let s := (s.allReqs.filter fun p => p.2.handle == h || p.2.pre == h).foldl (fun s p => s.reqFail p.1 Status.gone) s
    s.prefixGone h) s

/-- A link of this device leaves the fabric: what uses it completes with `GONE`, and another parent is taken at once where
it led to the master (R54, R288). -/
def State.linkGone (s : State) (l : Nat) : State :=
  let s := (s.put (Base.peerLink l) Reg.linkState 4).linkLost l
  let s := { s with arm := { s.arm with links := (s.myNum, l) :: s.arm.links.filter (· != (s.myNum, l)) } }
  ((s.setMaster (s.get Base.device Reg.masterNum)).neighbourCheck (s.peer l)).setFrameCount routesKey 1

/-- Requests of channels that are outstanding to a place that is fenced end with `GONE` (R32, R261). -/
def State.requestsGone (s : State) (at' : Nat → Bool) : State :=
  (s.dmaOut.filter fun x => at' x.2.2.2.lo).foldl (fun s x =>
    s.requestComplete x.1 x.2.1 x.2.2.1 x.2.2.2.index (.failed .gone)) s

/-- The address lies in a core's scratchpad. -/
def inScratch (d c a : Nat) : Bool :=
  match placeOf a with
  | .scratch x y _ => x == d && y == c
  | _ => false

/-- The address was served by a plinth die before the fence of that die, or lies on a channel. -/
def State.onHub (s : State) (p : Nat) (index : Nat) (a : Nat) : Bool :=
  placeOf a == .ddr && (if index = 0xFF then a / 2 ^ 12 % 2 == p else s.chanOf a == 16 * p + index)

/-- Saved partitions that are lost (Table 12.5). -/
def State.savesGone (s : State) (gone : Saved → Bool) : State := { s with saves := s.saves.filter fun x => !gone x }

/-- A context's channel is gone, and with it the partitions that it has saved, with the pages in them (Table 12.5). -/
def State.savesThrough (s : State) (chans : Nat) : State :=
  let hit (c : Nat) : Bool := s.ctxState c == 3 && s.get Base.contexts Reg.cxDdrMask c &&& chans != 0
  (s.savesGone fun x => hit x.ctx).pagesLost fun c d k => hit c && (s.ctxRec c).coreList.contains (d, k)

/-- What a unit of this device takes with it. -/
def State.unitGone (s : State) (unit index : Nat) : State :=
  let whole := index = 0xFF
  if unit < 8 then
    let s := (List.range 48).foldl (fun s c => if whole ∨ index = c then s.coreGone unit c else s) s
    let s := (List.range 6).foldl (fun s e => if whole ∨ index = engIndex e then s.engGone unit e else s) s
    if whole ∨ index < 48 then
      let s := s.requestsGone fun a => (List.range 48).any fun c => (decide whole || c == index) && inScratch unit c a
      (((s.savesGone fun x => x.core / 48 == unit && (decide whole || x.core % 48 == index)).pagesLost fun _ d c => d == unit && (decide whole || c == index)).setFrameCount homesKey 1).trackShow
    else s
  else
    let p := unit - 0x10
    let s := (List.range 12).foldl (fun s i =>
      if (whole ∨ index = 0x10 + i) ∧ s.get (Base.peerLink (12 * p + i)) Reg.linkState ≠ 0
      then s.linkGone (12 * p + i) else s) s
    let s := if whole then
        (List.range 16).foldl (fun s i =>
          if s.get (Base.ddr (16 * p + i)) Reg.ddrState = 2 then s.put (Base.ddr (16 * p + i)) Reg.ddrState 3 else s) s
      else s
    let s := if whole ∨ index < 0x10 then
        ((s.requestsGone (s.onHub p index)).trackShow).savesThrough
          (if whole then 0xFFFF * 2 ^ (16 * p) else 2 ^ (16 * p + index))
      else s
    if whole ∨ (0x20 ≤ index ∧ index < 0x40) then
      s.flashLost fun t => t / 32 == p && (decide whole || 0x20 + t % 32 == index)
    else s

/-- The units whose fence takes effect at this edge go with all they hold (R442). -/
def State.edgeFences (s : State) : State :=
  let before := s.faults.fenced
  let s := s.applyFences
  (s.faults.fenced.filter fun u => !before.contains u).foldl (fun s u => s.unitGone u.unit.toNat u.index.toNat) s

/-! Outcomes -/

/-- A unit's outcome applies (R72): the effect is its kind's. -/
def State.outcomeApply (s : State) (u : SealUnit) (ok : Bool) : State :=
  let s := s.settleUnit u ok
  if ok then
    if u.kind = 0 then s.learnSeal u.ctx else if u.kind = 1 then s.stretchSeal u.ctx u.seq else s.turnSeal u.ctx
  else
    if u.kind = 0 then s.learnVoid u.ctx u else if u.kind = 1 then s.stretchVoid u.ctx else s.turnVoid u.ctx

/-- A context's units in sequence order: an earlier one that is still staged holds the later ones, and an earlier one that
voids takes them with it (R74). -/
def State.outcomesOf (s : State) (end_ : Nat) (voided : Bool) : List SealUnit → State
  | [] => s
  | v :: vs =>
    match s.findUnit v.ctx v.seq with
    | none => s.outcomesOf end_ voided vs
    | some u =>
      if !u.staged then s.outcomesOf end_ voided vs
      else if voided then
        let u := { u with reasons := u.reasons ||| (1#16 <<< Reason.priorVoid) }
        (s.outcomeApply u false).outcomesOf end_ true vs
      else
        match u.outcome, u.due with
        | some ok, some due => if due ≤ end_ then (s.outcomeApply u ok).outcomesOf end_ (!ok) vs else s
        | _, _ => s

/-- The outcomes decided in the stroke that ended. -/
def State.edgeOutcomes (s : State) (end_ : Nat) : State :=
  (List.range 16).foldl (fun s c => s.outcomesOf end_ false (sortBy (·.seq) (s.units.filter (·.ctx == c)))) s

/-! Devices -/

/-- The device stops (R443): its staged units void, a record is written, and it enters FAILED. Table 13.10 has no code for
the record's source, which is a free value. -/
def State.stop (s : State) : State :=
  let s := (s.units.filter (·.staged)).foldl (fun s u => s.outcomeApply u false) s
  let (v, s) := s.draw
  (s.log 0x10 3 none (v.toNat % 64) 0 0).fail none

/-- Contexts that a device belongs to. -/
def State.ctxsOf (s : State) (dev : Nat) : List Nat :=
  (List.range 16).filter fun c => !(s.groupOf c).isEmpty && (s.ctxDevs c).contains dev

/-- Another device is fenced: its transfers end, contexts it belongs to take `GONE`, its mastership passes at the next
frame boundary, and a device whose parent it was takes the next one at once (R54, R443). -/
def State.devGone (s : State) (dev : Nat) : State :=
  let s := (s.devLost dev).addReason (s.ctxsOf dev) Reason.gone
  let s := s.setFrameCount routesKey 1
  let m := s.get Base.device Reg.masterNum
  if m = dev then { s with strokes := { s.strokes with nextMaster := some (s.nextMaster dev) } }
  else if m = s.myNum then s
  else s.setMaster m

/-- Note a link of another device as fenced. -/
def State.farLink (s : State) (dev l : Nat) : State :=
  if s.arm.links.contains (dev, l) then s
  else
    let s := { s with arm := { s.arm with links := (dev, l) :: s.arm.links } }
    let m := s.get Base.device Reg.masterNum
    (if m = s.myNum then s else s.setMaster m).setFrameCount routesKey 1

/-- What a FENCE names (Table 13.4): this device as a whole stops; a device, a link, or the plinth die that carries links
leaves the fabric; other units of other devices have no effect here. -/
def State.fenceNamed (s : State) (dev unit index : Nat) : State :=
  if !fenceIndexOk unit index then s
  else if dev = s.myNum then if unit = 0x1F then s.stop else s
  else if unit = 0x1F then
    if s.arm.devs.contains dev then s
    else ({ s with arm := { s.arm with devs := dev :: s.arm.devs } }).devGone dev
  else if unit < 8 then s
  else
    (List.range 12).foldl (fun s i =>
      if index = 0x10 + i ∨ index = 0xFF then s.farLink dev (12 * (unit - 0x10) + i) else s) s

/-- A flooded FENCE, taken once and forwarded (R59, R442). -/
def State.fenceTake (s : State) (l : Nat) (m : ArmMsg) : State :=
  if s.seenMsg m then s
  else
    let s := s.forwardFlood l m
    if s.strokes.running && s.devState != Dev.failed then
      s.fenceNamed (bits m.subject 27 16) (bits m.subject 12 8) (bits m.subject 7 0)
    else s

def execFence (link : LinkNo) (msg : ArmMsg) (s : State) : Host.Outcome State Fault Refusal :=
  .next (s.armHeard.fenceTake link.val msg)

/-- Eight strokes without an armature frame on any link (R443). -/
def execArmatureSilence (s : State) : Host.Outcome State Fault Refusal :=
  .next (if s.serving && decide (1 < s.fabric.length) && decide (8 ≤ s.arm.silence) then s.stop else s)

/-! Collectives -/

/-- A stage message of a collective or a barrier: a result that it completes goes to whoever posted (R61, R62). -/
def State.collTake (s : State) (l : Nat) (m : ArmMsg) : State :=
  (((((s.collHear l m).takeCores).takeNorms).takeAmax).takePreempts).takeLoads

def execCollective (link : LinkNo) (msg : ArmMsg) (s : State) : Host.Outcome State Fault Refusal :=
  .next (s.armHeard.collTake link.val { msg with mtype := 0x09 })

def execBarrier (link : LinkNo) (msg : ArmMsg) (s : State) : Host.Outcome State Fault Refusal :=
  .next (s.armHeard.collTake link.val { msg with mtype := 0x0A })

/-- A reason in the staged units of one kind of a context. -/
def State.kindReason (s : State) (ctx kind r : Nat) : State :=
  { s with units := s.units.map fun u =>
      if u.staged && u.ctx == ctx && u.kind == kind then
        { u with reasons := u.reasons ||| (1#16 <<< r), cause := u.cause.orElse fun _ => some (r, s.sched) } else u }

/-- A collective of this member fails: it completes with `GONE` when a member was fenced and with `VOID` otherwise, and the
work that waits for it takes `MISSING`. A pre-emption's leaves the context as it was (R64, R416). -/
def State.collFail (s : State) (c : Coll) : State :=
  let st := if (s.groupDevs c.group).all s.devsInService.contains then Status.void else Status.gone
  let s := (s.dropColl c.mtype c.tag).collEnd c.tag st
  match c.purpose with
  | 0 => s.workReason c.ctx c.kind c.subject.toNat Reason.missing
  | 3 => s.kindReason c.ctx 0 Reason.missing
  | 4 => s.kindReason c.ctx 2 Reason.missing
  | 6 =>
    match s.loading.find? fun l => l.stage == 1 && l.cmd.queue.val == c.ctx && lmModel l.cmd == c.subject.toNat with
    | some l => s.loadEnd l st
    | none => s
  | _ => s

/-- The budget end of the stroke after the one in which a collective was posted comes without its result. -/
def State.collTimeout (s : State) (tag : Nat) : State :=
  match s.findColl 0x09 tag with
  | some c =>
    if c.posted && c.result.isNone && decide (c.stroke < s.stroke) && !s.slipNext then s.collFail c else s
  | none => s

def execCollectiveTimeout (tag : BitVec 6) (s : State) : Host.Outcome State Fault Refusal :=
  .next (s.collTimeout tag.toNat)

/-! The armature lane (R278, R279) -/

/-- An `AACK` takes what it covers out of the frames kept. -/
def State.armAcked (s : State) (l aack : Nat) : State :=
  let k := s.link l
  match k.areplay.findIdx? fun p => p.1 == aack with
  | none => s
  | some i =>
    let kept := k.areplay.drop (i + 1)
    s.setLink l { k with areplay := kept, aresend := k.aresend.filter kept.contains, anoProgress := 0 }

/-- Replay from `AACK` + 1; sixteen replays without progress fail the lane (R271). -/
def State.armReplay (s : State) (l : Nat) : State :=
  let k := s.link l
  if k.areplay.isEmpty then s
  else
    let s := s.count (Base.peerLink l) Reg.armReplays
    let s := s.setLink l { k with aresend := k.areplay, anoProgress := k.anoProgress + 1 }
    if 16 ≤ k.anoProgress + 1 then s.armLaneFail l else s

/-- The message's CRC is good (Table 02.3). -/
def armCrcOk (ws : List Word) : Bool :=
  ws.length == 8 && bits (ws.getD 7 0) 31 0 == (crc32c (bytesOf (ws.take 7))).toNat

/-- Deliver a message by its type. A mark's distance from its expected moment is not in the frame: it is a free value. -/
def State.armDeliver (s : State) (l : Nat) (m : ArmMsg) : State :=
  match m.mtype.toNat with
  | 0x01 => let (v, s) := s.draw; s.strokeMark l m (v.setWidth 16)
  | 0x02 => s.slipReq l m
  | 0x03 => s.fenceTake l m
  | 0x04 => s.queryTake l m
  | 0x05 => s.replyTake m
  | 0x06 => s.throttleTake m
  | 0x07 => s.voteTake l m
  | 0x08 => s.voteTake l m
  | 0x09 => s.collTake l m
  | 0x0A => s.collTake l m
  | _ => s.count (Base.armature (0x10 + l / 12)) Reg.armDiscarded

/-- Discard a frame and ask for a replay. -/
def State.armReject (s : State) (l : Nat) : State :=
  (s.count (Base.peerLink l) Reg.armBad).setLink l { s.link l with anakSend := true }

/-- A message frame whose code and sequence fields are good: its CRC and its sequence decide. -/
def State.armAccept (s : State) (l : Nat) (f : ArmFrame) : State :=
  if !armCrcOk f.words then (s.count (Base.armature (0x10 + l / 12)) Reg.armDiscarded).armReject l
  else if f.aseq.toNat ≠ (s.link l).aexpect then s.armReject l
  else
    let k := s.link l
    ((s.setLink l { k with aexpect := (k.aexpect + 1) % 256 }).armHeard).armDeliver l (armOfWords f.words)

/-- A frame arrives. -/
def State.armReceive (s : State) (l : Nat) (f : ArmFrame) : State :=
  if !s.armUp l then s
  else if !f.codeOk then s.armReject l
  else
    let s := (s.count (Base.peerLink l) Reg.armCorr f.corrected).armAcked l f.aack.toNat
    let s := if f.nak then s.armReplay l else s
    if f.idle then s.armHeard else s.armAccept l f

def execArmatureFrameReceive (link : LinkNo) (frame : ArmFrame) (s : State) : Host.Outcome State Fault Refusal :=
  .next (s.armReceive link.val frame)

end Sys2Proof.Machine
end

