-- ==== Sys2Proof/Machine/Edge.lean ====
section
/-! DEFINITION. The stroke edge and the order of its actions, the budget end, and the frame boundary (R48–R50, R66–R68,
R79–R82, R443, R520). -/

namespace Sys2Proof.Machine

/-! The budget end (R66, R67, R165) -/

/-- A running block at the budget end: overrun, or aborted where it has overrun already. -/
def State.blockBudget (s : State) (d c : Nat) (b : BlockRun) : State :=
  if b.overran then s.abortBlock d c Reason.overrun
  else
    let a := Base.armature d
    let s := (s.setBit a Reg.overrunMask c).count a Reg.overrunCount
    let s := s.log d 0 (some b.ctx) 0x08 c b.slot
    let s := { s with strokes := { s.strokes with overruns := s.strokes.overruns ++ [(d, c, b.base, s.stroke)] } }
    (s.setBlock d c (some { b with overran := true })).put (Base.core d c) Reg.seqState 3

/-- A running job. -/
def State.jobBudget (s : State) (d e : Nat) (j : List Word) : State :=
  let b := Base.engine d e
  let x := s.eng d e
  if x.overran then
    let staged := s.workStaged (jobCtx j) (jobKind j) (jobSeq j)
    let s := (s.workReason (jobCtx j) (jobKind j) (jobSeq j) Reason.overrun).log d (b2n staged) (some (jobCtx j)) 0x08
      (engIndex e) (jobSlot j)
    (((s.put b Reg.engLastStatus Status.overrun).put b Reg.engState 0).setEng d e { x with job := none, overran := false })
  else
    ((s.count b Reg.engOverruns).put b Reg.engState 2).setEng d e { x with overran := true }

/-- Something that has not overrun before is still running. -/
def State.firstOverrun (s : State) : Bool :=
  s.cores.any (fun p => s.coreUp (p.1 / 48) (p.1 % 48) && ((p.2.block.map fun b => !b.overran).getD false)) ||
    s.engines.any fun p => p.2.job.isSome && !p.2.overran

/-- The device lags in the stroke to come, and asks for the one after it to be a slip stroke unless the one to come is one
already. -/
def State.lagNext (s : State) : State :=
  let s := { s with strokes := { s.strokes with overran := true } }
  if s.strokes.slips.contains (s.stroke + 1) then s
  else (s.flood 0x02 0 [] (word (s.stroke + 2))).slipNamed (s.stroke + 2)

/-- The budget counter expires, once a stroke. -/
def State.budgetEnd (s : State) : State :=
  if !s.strokes.running || !s.serving || s.strokes.ended then s
  else
    let s := { s with strokes := { s.strokes with ended := true } }
    let first := s.firstOverrun
    let s := s.cores.foldl (fun s p =>
      match p.2.block with
      | some b => if s.coreUp (p.1 / 48) (p.1 % 48) then s.blockBudget (p.1 / 48) (p.1 % 48) b else s
      | none => s) s
    let s := s.engines.foldl (fun s p =>
      match p.2.job with
      | some j => s.jobBudget (p.1 / 8) (p.1 % 8) j
      | none => s) s
    if first then s.lagNext else s

def execBudgetEnd (s : State) : Host.Outcome State Fault Refusal := .next s.budgetEnd

/-! The stroke edge -/

/-- Order 2: a held HALT_N halts, and a release returns to the state halted from; slots run from the next frame boundary
(R13, R82). -/
def State.edgeHalt (s : State) : State :=
  if s.pins.haltN ∧ (s.devState = Dev.ready ∨ s.devState = Dev.running) then
    (({ s with strokes := { s.strokes with haltFrom := s.devState } }).setDevState Dev.halted).addReason (List.range 16)
      Reason.halt
  else if ¬ s.pins.haltN ∧ s.devState = Dev.halted then
    ({ s with strokes := { s.strokes with waitFrame := true } }).setDevState s.strokes.haltFrom
  else s

/-- The highest level received from the devices in service (R80). -/
def State.levelMax (s : State) : Nat :=
  s.devsInService.foldl (fun n d => max n ((cget (fun _ => none) s.strokes.levels d).getD 0)) 0

/-- The role of time master is taken over: a device that this one never heard a level from counts with the level of the
last mark (R54, R80). -/
def State.takeMaster (s : State) : State :=
  match s.strokes.nextMaster with
  | none => s
  | some m =>
    let s := ({ s with strokes := { s.strokes with nextMaster := none, silent := 0 } }).setMaster m
    if m = s.myNum then
      (s.devsInService.foldl (fun s d =>
        if (cget (fun _ => none) s.strokes.levels d).isNone then s.setLevel d s.strokes.announced else s) s).setLevel m
        (s.get (Base.power 0x10) Reg.levelReq)
    else s

/-- Order 3, at a frame boundary: the announced level applies, a new master takes over, and a locked device runs slots
again (R49, R53, R80). -/
def State.edgeFrame (s : State) : State :=
  let s := { s with strokes := { s.strokes with prevLevel := s.get Base.device Reg.throttleLevel } }
  let s := (s.put Base.device Reg.throttleLevel s.strokes.announced).takeMaster
  if s.get Base.device Reg.locked = 1 then { s with strokes := { s.strokes with waitFrame := false } } else s

/-- An idle stroke under level `l` (R80). -/
def idleStroke (n l : Nat) : Bool :=
  let i := n % 16
  decide (i * l / 16 < (i + 1) * l / 16)

/-- What stroke `n` is (R48, R68, R80). -/
def State.kindOf (s : State) (n : Nat) : StrokeKind :=
  if s.strokes.slips.contains n then .slip
  else if idleStroke n (s.get Base.device Reg.throttleLevel) then .idle else .working

/-- Order 4: the kind of the stroke that begins, its counter, and whether the device lags (R67, R68). -/
def State.edgeKind (s : State) (n : Nat) : State :=
  let kind := s.kindOf n
  let b := Base.device
  let s := match kind with
    | .slip => s.put b Reg.slipCount (s.get b Reg.slipCount + 1)
    | .idle => s.put b Reg.idleCount (s.get b Reg.idleCount + 1)
    | .working => s.put b Reg.schedPos (s.get b Reg.schedPos + 1)
  let lag := if s.strokes.overran then 1 else if s.strokes.kind = .slip then 0 else s.get b Reg.lag
  let k := s.strokes
  let slips := k.slips.filter fun m => decide (n < m)
  let k := { k with kind := kind, overran := false, ended := false, waitFrame := k.waitFrame || k.lost, slips := slips }
  ({ s with strokes := k }).put b Reg.lag lag

/-- Units are staged from the edge that begins their first slot; the stroke that runs the last slot is fixed, or the slip
stroke that is to follow it (R71, R75). -/
def State.edgeUnits (s : State) (n : Nat) : State :=
  let end_ := if s.strokes.slips.contains (n + 1) then n + 1 else n
  { s with units := s.units.map fun u =>
      let staged := u.staged || decide (u.first ≤ s.sched)
      let k := if u.k.isNone && s.strokes.kind == .working && decide (u.last ≤ s.sched) then some end_ else u.k
      { u with staged := staged, k := k } }

/-- The master sends its mark on every link (R50). -/
def State.sendMark (s : State) (n : Nat) : State :=
  let s := { s with strokes := { s.strokes with announced := s.levelMax } }
  let b := Base.device
  let p1 := s.get b Reg.strokeUs + s.get b Reg.frameLog2 * 2 ^ 8 + s.strokes.announced % 16 * 2 ^ 16
  let (m, s) := s.mkMsg 0x01 0xFFF 0 0 [word s.sched, word p1] 0 0 (word n)
  s.armFrames s.armLinks (armWords m)

/-- Marks sent or missed, and what the dies measure of their edges, free within ±5 ns (R52, R55). -/
def State.edgeClock (s : State) (n : Nat) : State :=
  let k := s.strokes
  let master := s.get Base.device Reg.isMaster = 1 ∧ (s.serving = true ∨ k.heardOld = false)
  let s :=
    if master then
      (({ s with strokes := { k with good := k.good + 1, bad := 0, silent := 0, marked := false } }).acquire).sendMark n
    else if k.marked then { s with strokes := { k with marked := false, silent := 0 } }
    else { s with strokes := { k with good := 0, bad := 0, silent := k.silent + 1 } }
  let s := { s with arm := { s.arm with silence := s.arm.silence + 1 } }
  let near (v : Word) : Nat := unsgn 16 ((v.toNat % 11 : Nat) - 5)
  let s := (List.range 8).foldl (fun s d =>
    let (v, s) := s.draw
    s.put (Base.armature d) Reg.edgeOffset (near v)) s
  let (v, s) := s.draw
  s.put (Base.armature 0x11) Reg.correction (near v)

/-- New masks of CP_WAYS come into force: the lines of a way that a context loses are invalidated in every core of the die
(R246). -/
def State.edgeWays (s : State) : State :=
  (List.range 128).foldl (fun s i =>
    let d := i / 16
    let c := i % 16
    let a := Base.cachePart d + Reg.cpWays.off + c * Reg.cpWays.step
    let old := s.effGet (Base.cachePart d) Reg.cpWays c
    let now := s.get (Base.cachePart d) Reg.cpWays c
    if old = now then s
    else
      let s := { s with eff := cset resetWord s.eff a (s.reg a) }
      (List.range 48).foldl (fun s j =>
        let k := s.core d j
        s.setCore d j { k with cache := k.cache.filter fun x => !(old.testBit x.way) || now.testBit x.way }) s) s

/-- No context has work scheduled (Table 00.8). -/
def State.idle (s : State) : Bool :=
  s.cores.all (fun p =>
    !s.coreUp (p.1 / 48) (p.1 % 48) || (p.2.queue.isEmpty && p.2.block.isNone &&
      (List.range 4).all fun ch => let st := s.chSt (p.1 / 48) (p.1 % 48) ch; !(st == 1 || st == 2 || st == 3))) &&
  s.engines.all (fun p => p.2.queue.isEmpty && p.2.job.isNone) &&
  s.units.all (fun u => !u.staged) && (List.range 16).all fun c => !s.workReady c

/-- READY while every context is idle, RUNNING otherwise. -/
def State.edgeState (s : State) : State :=
  if s.devState = Dev.running ∧ s.idle = true then s.setDevState Dev.ready
  else if s.devState = Dev.ready ∧ s.idle = false then s.setDevState Dev.running
  else s

/-- The array cycles of the stroke that ended: P × f without spread-spectrum, and with it a free number down to 1 % fewer
(R45); arrays and fill passes whose cycles are over show no command in issue. -/
def State.edgeCycles (s : State) : State :=
  let full := s.strokeCycles
  let depth := ((s.boot.image.map (·.sscDepth)).getD 0)
  let least := ceilDiv (full * (1000 - depth)) 1000
  let (v, s) := if depth = 0 then (0, s) else s.draw
  let n := if depth = 0 then full else least + v.toNat % (full - least + 1)
  let s := { s with strokes := { s.strokes with cycles := s.strokes.cycles + n } }
  s.cores.foldl (fun s k => s.modesShow (k.1 / 48) (k.1 % 48) s.strokes.cycles) s

/-- Firmware's part of the edge: storage due for release, resets, phases and copies. -/
def State.edgeFirmware (s : State) : State :=
  if !s.serving then s
  else
    let s := ({ s with flash := { s.flash with us := s.flash.us + s.get Base.device Reg.strokeUs } }).releaseDue
    let s := s.turnFirst
    ((List.range 16).foldl (fun s c => ((s.resetStep c).phaseStep c).copyRelease c) s).edgeState

/-- The local stroke edge, with the actions of Table 02.9 in their order. A device in FAILED has none, and one whose HALT_N
is held takes fences only after its release (Table 13.5). -/
def State.strokeEdge (s : State) : State :=
  if !s.strokes.running || !(s.devState == Dev.selftest || s.serving) then s
  else
    let n := s.stroke + 1
    let s := ((s.put Base.device Reg.strokeCount n).edgeCycles).edgeOutcomes (n - 1)
    let s := if s.pins.haltN then s else s.edgeFences
    if s.devState = Dev.failed then s
    else
      let s := s.edgeHalt
      let s := if n % s.frame = 0 then s.edgeFrame else s
      let s := ((s.edgeKind n).edgeUnits n).edgeClock n
      (s.edgeWays).edgeFirmware

def execStrokeEdge (s : State) : Host.Outcome State Fault Refusal := .next s.strokeEdge

/-! The frame boundary -/

/-- Readings of the frame that ended, and the level to request (R520). `applied` is the level of that frame. -/
def powerLevel (applied p c : Nat) : Nat :=
  if c = 0 then 0
  else if c < p then min 15 (applied + ceilDiv (16 * (p - c)) p)
  else if 100 * p < 95 * c then applied - 1
  else applied

def tempLevel (t : Int) : Nat := min 15 (t - 100).toNat

/-- The hottest sensor of the dies in service. -/
def State.hottest (s : State) : Int :=
  let ts := (List.range 10).flatMap fun i =>
    let u := if i < 8 then i else 0x10 + (i - 8)
    if s.isFenced u 0xFF then [] else (List.range 4).map fun j => sgn 8 (s.get (Base.power u) Reg.temps / 2 ^ (8 * j) % 256)
  ts.foldl (fun m t => if m < t then t else m) (-128)

def State.powerTake (s : State) (x : PowerSample) : State :=
  let b := Base.power 0x10
  let s := (List.range 10).foldl (fun s i =>
    match x.temps[i]? with
    | none => s
    | some w => (List.range 4).foldl (fun s j =>
        s.tempRead (if i < 8 then i else 0x10 + (i - 8)) j (w.toNat / 2 ^ (8 * j) % 256)) s) s
  let s := (List.range 6).foldl (fun s r =>
    let w := x.rails.getD r 0
    (s.put b Reg.railMv (bits w 63 48) r).put b Reg.railMa (bits w 31 0) r) s
  let lp := powerLevel s.strokes.prevLevel x.watts.toNat (s.effGet b Reg.capW)
  let lt := tempLevel s.hottest
  let s := ((s.put b Reg.pFrameW x.watts.toNat).put b Reg.levelP lp).put b Reg.levelT lt
  s.put b Reg.levelReq (max lp lt)

/-- The requested level goes to the master (R80). -/
def State.levelSend (s : State) : State :=
  let r := s.get (Base.power 0x10) Reg.levelReq
  let m := s.get Base.device Reg.masterNum
  if m = s.myNum then s.setLevel m r
  else
    let (x, s) := s.mkMsg 0x06 m 0 0 [word r] 0 0 0
    s.sendTo m x

/-- Registers whose writes wait for the frame boundary: CTX_BIND and CAP_W (R428, R525). -/
def frameReg (a : Nat) : Bool :=
  (List.range 8).any (fun d => decide (Base.coreBind d ≤ a) && decide (a < Base.coreBind d + 0x10000)) ||
    (List.range 2).any (fun p => decide (Base.hubBind p ≤ a) && decide (a < Base.hubBind p + 0x10000)) ||
    a == Base.power 0x10 + Reg.capW.off

def State.frameRegs (s : State) : State :=
  { s with eff := cellsPut resetWord (s.eff.filter fun p => !frameReg p.1) (s.regs.filter fun p => frameReg p.1) }

/-- The units in a context's shares (Table 12.1): its cores, its channels, and the links and flash targets that it has a
share of. -/
def State.sharedUnits (s : State) (ctx : Nat) : List UnitId :=
  let has (p : Nat) (f : Fld) : Bool := s.effGet (Base.hubBind p) f ctx != 0
  (s.coreSet ctx).map (fun k => uid (k / 48) (k % 48)) ++
  (List.range 2).flatMap fun p =>
    (setBits 16 (s.effGet (Base.hubBind p) Reg.pbDdrLocal ctx)).map (uid (0x10 + p)) ++
    (if has p Reg.pbVc0 || has p Reg.pbVc1 || has p Reg.pbVc2
     then (List.range 12).map fun i => uid (0x10 + p) (0x10 + i) else []) ++
    (if has p Reg.pbFlashBw then (List.range 32).map fun i => uid (0x10 + p) (0x20 + i) else [])

/-- Firmware writes the binding masks: the shares, and units that carried work of a context while it has a staged unit
(R430). -/
def State.bindMasks (s : State) : State :=
  let old := s.faults.bound.filter fun p => s.anyStaged [p.1]
  let new := s.live.flatMap fun c => (s.sharedUnits c).map fun u => (c, u)
  { s with faults := { s.faults with bound := (new ++ old).eraseDups } }

/-- A channel of a plinth die in service is fenced. With the die itself fenced the other die's entries map both halves of
every segment (R230). -/
def State.chanGone (s : State) (p i : Nat) : Bool := s.isFenced (0x10 + p) i && !s.isFenced (0x10 + p) 0xFF

def lostWord (e : Word) : Word := (e &&& ~~~(1#64 <<< 63)) ||| (1#64 <<< 57)

/-- Segments mapped on a fenced channel are marked `LOST` on both plinth dies (R261). -/
def State.segsLost (s : State) : State :=
  let lost := (s.segs.filter fun x =>
    bit x.2 63 && (setBits 16 (bits x.2 15 0)).any (s.chanGone (x.1 / 8192))).map fun x => x.1 % 8192
  lost.eraseDups.foldl (fun s i => (List.range 2).foldl (fun s p => s.setSeg p i (lostWord (s.seg p i))) s) s

/-- Move a sequence's entries to the dies of their homes under a new span; one that finds no room ends its request with
`DENIED` (R196, R222). -/
def State.rehome (s : State) (ctx handle span : Nat) : State :=
  (s.pagesOf handle).foldl (fun s p =>
    let (d, i, e) := p
    let t := s.homeDie ctx handle span (enOrd e)
    if enKind e = 2 then (if s.isFenced d 0xFF then s.mapDrop d i else s)
    else if d = t then s
    else
      let (ok, s) := (s.mapDrop d i).mapPlace t e 32
      if ok then s.mapShow t else s.handleFail handle Status.denied) s

def State.rehomeAll (s : State) : State :=
  if s.frameCount homesKey = 0 then s
  else
    let s := s.setFrameCount homesKey 0
    let s := s.allReqs.foldl (fun s p =>
      let n := match s.prefixOf p.2.pre with
        | some q => if handleUse p.2.pre = 0 then s.spanOf p.2.ctx p.2.endPos else s.spanOf p.2.ctx q.2.spanToks
        | none => s.spanOf p.2.ctx p.2.endPos
      (s.setReq p.1 (some { p.2 with span := n })).rehome p.2.ctx p.2.handle n) s
    s.allPrefixes.foldl (fun s p =>
      let n := s.spanOf p.2.ctx p.2.spanToks
      (s.setPrefix p.1 (some { p.2 with span := n })).rehome p.2.ctx p.2.handle n) s

/-- The set of devices joined to the lowest-numbered one in service (R443): a device outside it is fenced by every one of
the set, the lowest one floods its FENCE, and a device that finds itself outside stops. -/
def State.fabricSet (s : State) : State :=
  let low := s.lowest
  let set := (s.distances low).map (·.1)
  let out := s.devsInService.filter fun d => !set.contains d
  if out.contains s.myNum then s.stop
  else
    out.foldl (fun s d =>
      let s := if low = s.myNum then s.flood 0x03 0 [] (fenceSubject d (uid 0x1F 0xFF)) else s
      ({ s with arm := { s.arm with outside := d :: s.arm.outside } }).devGone d) s

/-- Route and ring tables are rebuilt where the fabric has changed (R288). -/
def State.routesAgain (s : State) : State :=
  if s.frameCount routesKey = 0 then s else ((s.setFrameCount routesKey 0).routesBuild).ringsBuild

/-- Firmware splits a block that overran twice within 1,024 strokes over two slots in the schedule it builds next (R70). -/
def State.splitBlocks (s : State) : State :=
  let now := s.strokes.overruns.filter fun o => decide (s.stroke < o.2.2.2 + 1024)
  let name (o : Nat × Nat × Nat × Nat) : Nat × Nat × Nat := (o.1, o.2.1, o.2.2.1)
  let due := ((now.map name).filter fun b => decide (2 ≤ (now.filter fun o => name o == b).length)).eraseDups
  { s with strokes := { s.strokes with
      overruns := now.filter fun o => !due.contains (name o)
      split := (s.strokes.split ++ due).eraseDups } }

/-- Counts of the frame that ended: a channel past `RETRAIN_LIMIT` is due for retraining, and the links start anew. -/
def State.frameCounts (s : State) : State :=
  let s := (List.range 32).foldl (fun s c =>
    let s := if s.get (Base.ddr c) Reg.retrainLimit < s.frameCount c then s.setFrameCount (retrainKey c) 1 else s
    (s.setFrameCount c 0).setFrameCount (32 + c) 0) s
  { s with links := s.links.foldl (fun l p =>
      cset (fun _ => Link.idle) l p.1 { p.2 with stalls := 0, laneErr := [0, 0, 0, 0, 0, 0, 0, 0] }) s.links }

/-- A frame begins (R49). -/
def State.frameBoundary (s : State) (x : PowerSample) : State :=
  if !s.serving || s.stroke % s.frame != 0 || s.frameCount frameDoneKey == s.stroke + 1 then s
  else
    let s := ((s.setFrameCount frameDoneKey (s.stroke + 1)).powerTake x).frameRegs
    let s := s.fabricSet
    if s.devState = Dev.failed then s
    else
      let s := ((s.levelSend).segsLost).routesAgain
      let s := (((s.sharesApply).hwinApply).fiApply).frameCounts
      (((((s.placeAll.loadsRetry.rehomeAll).poolShow).bindMasks).splitBlocks).fillPlan).preemptDecide

def execFrameBoundary (power : PowerSample) (s : State) : Host.Outcome State Fault Refusal :=
  .next (s.frameBoundary power)

end Sys2Proof.Machine
end

