-- ==== Sys2Proof/Machine/Sampler.lean ====
section
/-! DEFINITION. The sampler engine (R167–R172). -/

namespace Sys2Proof.Machine

/-- A row entry (Table 05.7). -/
structure SmpRow where
  draft : Nat
  pos : Nat
  handle : Nat
  lfmt : Nat
  vocab : Nat
  logits : Nat
  topP : Nat
  temp : Nat
  nonce : Nat
  lastShard : Bool
  base : Nat
  topK : Nat
deriving DecidableEq, Repr

/-- The entry in 32 bytes; `high` are the address bits that `OUT` lends it. -/
def smpRow (high : Nat) (bs : List Byte) : SmpRow :=
  let ws := wordsOf bs
  let w (i : Nat) : Word := ws.getD i 0
  { draft := bits (w 0) 63 56, pos := bits (w 0) 55 32, handle := bits (w 0) 31 0, lfmt := bits (w 1) 63 60,
    vocab := bits (w 1) 59 40 + 1, logits := high * 2 ^ 40 + bits (w 1) 39 0, topP := bits (w 2) 63 32,
    temp := bits (w 2) 31 0, nonce := bits (w 3) 63 32, lastShard := bit (w 3) 20,
    base := bits (w 3) 19 11 * 2048, topK := bits (w 3) 10 0 }

/-- A row that R168 or Table 05.7 refuses. -/
def SmpRow.bad (r : SmpRow) (verify : Bool) : Bool :=
  !sampleOk r.topK r.topP r.temp || !(r.lfmt == 0x8 || r.lfmt == 0x0) ||
    (if verify then r.draft == 0 || decide (8 < r.draft) else r.draft != 0)

/-- Descending by value, ties to the lower token. -/
def smpKey (p : Nat × Nat) : Nat := (2 ^ 33 - f32Key p.2) * 2 ^ 21 + p.1

def SmpRow.greedy (r : SmpRow) : Bool := (f32 r.temp).isZero
/-- One value maximised over the whole vocabulary: neither top-k nor top-p applies. -/
def SmpRow.gumbel (r : SmpRow) : Bool := !r.greedy && r.topK == 0 && r.topP == one32
def SmpRow.kc (r : SmpRow) : Nat := if r.greedy || r.gumbel then 0 else if r.topK = 0 then 1024 else r.topK

/-- Logits scaled by the temperature. -/
def SmpRow.scale (r : SmpRow) (x : Nat) : Nat := f32mul x (f32div one32 (if r.greedy then one32 else r.temp))

/-- Bytes of one row of logits. -/
def SmpRow.bytes (r : SmpRow) : Nat := r.vocab * (if r.lfmt = 0x8 then 4 else 2)

/-- The scaled logits with their tokens. -/
def SmpRow.zs (r : SmpRow) (bs : List Byte) : List (Nat × Nat) :=
  let xs := if r.lfmt = 0x8 then floatsOf bs else (unpack Code.bf16 bs).map (· * 2 ^ 16)
  xs.mapIdx fun i x => (r.base + i, r.scale x)

/-- A row's uniform of a draw at a position (R175, R176); `blk` and `i` pick a word. -/
def State.smpUniform (s : State) (d ctx handle nonce draw pos blk i : Nat) : Nat :=
  let (k0, k1) := seedKey (s.seedOf d ctx) 2
  (mix blk (draw * 2 ^ 24 + pos) handle nonce k0 k1).getD i 0

/-! The functions of R169. DEDUCED (log 188): exp and ln are transcendental results as R157 has them, within 2 units in the
last place, and −ln(−ln u) is two of them; a sum is one of FP32 additions in an order that is not given. -/

/-- The weight exp(z − m) of a value. -/
def smpWeight (z m : Nat) : Nat :=
  let x := f32 (f32sub z m)
  let free := Config.smpExp (f32sub z m)
  if x.isNan then 0x7FC00000
  else if (Fv.ofInt 128).lt x then 0x7F800000
  else if x.lt (Fv.ofInt (-128)) then 0
  else within 2 free (expFv x)

/-- ln of a sum. -/
def smpLn (x : Nat) : Nat :=
  let v := f32 x
  if v.isNan || v.lt Fv.zero then 0x7FC00000
  else if v.isZero then 0xFF800000
  else match v with
    | .fin _ _ _ => within 2 (Config.smpLn x) (lnFv v)
    | _ => 0x7F800000

/-- The sum of weights, in an order fixed by their number alone: each of the additions rounds by at most half a unit. -/
def smpSum (ws : List Nat) : Nat :=
  let v := (ws.map f32).foldl Fv.add Fv.zero
  if v.isFinite then within ws.length (Config.smpSum ws.length ws) v else f32enc v

/-- gumbel of a word's uniform. -/
def gumbelOf (w : Nat) : Nat := within 4 (Config.smpGumbel w) (lnFv (lnFv (uniformFv w)).neg).neg

/-- gumbel(i) of a row's draw. -/
def State.smpGumbel (s : State) (d ctx draw : Nat) (r : SmpRow) (i : Nat) : Nat :=
  gumbelOf (s.smpUniform d ctx r.handle r.nonce draw r.pos (i / 4) (i % 4))

/-- What a row's first part finds: m, s, lse, the best token with its key, and the candidates. -/
structure SmpFirst where
  m : Nat
  sum : Nat
  lse : Nat
  best : Nat
  key : Nat
  cand : List (Nat × Nat)
deriving DecidableEq, Repr

/-- The first part of R169 over the values of a row or a shard. -/
def State.smpFirst (s : State) (d ctx draw : Nat) (r : SmpRow) (zs : List (Nat × Nat)) : SmpFirst :=
  let top := (minBy smpKey zs).getD (0, 0)
  let sum := smpSum (zs.map fun p => smpWeight p.2 top.2)
  let keys := zs.map fun p => (p.1, f32add p.2 (s.smpGumbel d ctx draw r p.1))
  let best := if r.greedy then top else (minBy smpKey keys).getD (0, 0)
  { m := top.2, sum := sum, lse := f32add top.2 (smpLn sum), best := best.1, key := best.2,
    cand := (sortBy smpKey zs).take r.kc }

/-- Sums over the prefixes of a list of weights. -/
def prefixSums : Nat → List Nat → List Nat
  | _, [] => []
  | acc, w :: ws => f32add acc w :: prefixSums (f32add acc w) ws

/-- The shortest prefix of the candidates with mass TOP_P or more, or all of them; and whether the mass is there. -/
def SmpRow.nucleus (r : SmpRow) (f : SmpFirst) : List (Nat × Nat) × Bool :=
  let sums := prefixSums 0 (f.cand.map fun p => smpWeight p.2 f.lse)
  match sums.findIdx? fun x => !(f32 x).lt (f32 r.topP) with
  | some i => (f.cand.take (i + 1), true)
  | none => (f.cand, false)

/-- The first element at which the summed weights pass u times their total. -/
def pickBy (u : Nat) (ts : List (Nat × Nat)) : Nat :=
  let sums := prefixSums 0 (ts.map (·.2))
  let total := f32 (sums.getLast?.getD 0)
  match sums.findIdx? fun x => ((uniformFv u).mul total).lt (f32 x) with
  | some i => (ts.getD i (0, 0)).1
  | none => (ts.headD (0, 0)).1

/-- BF16 log-probability of a value. -/
def smpLogp (z lse : Nat) : Nat := Fmt.bf16.enc false (f32 (f32sub z lse))

/-- Choose the token of a row from what its first part found: token, log-probability and whether it was truncated; `z` gives
the chosen token's value where that is no candidate. -/
def State.smpChoose (s : State) (d ctx draw : Nat) (r : SmpRow) (f : SmpFirst) (z : Nat) : Nat × Nat × Bool :=
  if r.greedy then (f.best, smpLogp f.m f.lse, false)
  else if r.gumbel then (f.best, smpLogp z f.lse, false)
  else
    let (nuc, full) := r.nucleus f
    let u := s.smpUniform d ctx r.handle r.nonce draw r.pos 0 0
    let t := pickBy u (nuc.map fun p => (p.1, smpWeight p.2 f.m))
    let z := ((nuc.find? fun p => p.1 == t).map (·.2)).getD 0
    (t, smpLogp z f.lse, r.topK == 0 && !full)

/-! Jobs -/

/-- Read the row entries of a job, then go on; a malformed one stops it. `OUT` lies where a job may write: Table 05.7 lends
`OUT` [47:40] to logits in DDR, so it may lie there too (log 189). -/
def State.smpJob (s : State) (d op : Nat) (run : List Word → List SmpRow → State → Nat × State) : State :=
  s.jobRow d 0 op fun j s =>
    s.withRecord d j (32 * jobCount j) fun bs s =>
      let rows := (chunks 32 bs.length bs).map (smpRow (jobOut j / 2 ^ 40))
      if rows.any (·.bad (op == 4)) then (Status.denied, s) else run j rows s

/-- Read the logits of a row from DDR or the die store. -/
def State.smpRead (s : State) (d : Nat) (j : List Word) (a n : Nat) : Nat × List Byte × State :=
  if inDie d a || placeOf a == .ddr then s.jobRead d j a n else (Status.denied, [], s)

/-- Write a token's record to `OUT` (R172), its flags as the request stands. -/
def State.smpRecord (s : State) (d : Nat) (j : List Word) (a handle : Nat) (t : Token) : Nat × State :=
  let r := (s.reqOf handle).map (·.2)
  let late := (r.map fun r => r.due != 0 && decide (r.due < s.stroke)).getD false
  let last := (r.map fun r => r.isLast t).getD false
  let w1 := ringWord1 (if late then Status.late else Status.ok) 0 t.draftOk last t.cast t.logp t.token
  let (st, s) := s.jobWrite d j a (bytesOf [ringWord0 t.pos handle, w1])
  (st, if st = Status.ok then s.count (Base.engine d 0) Reg.smpTokens else s)

/-- Count a truncated row. -/
def State.smpTrunc (s : State) (d : Nat) (b : Bool) : State := if b then s.count (Base.engine d 0) Reg.smpTruncated else s

/-- Run a job's rows one after another, with their numbers, until one fails. -/
def smpRows (run : Nat → SmpRow → State → Nat × State) : Nat → List SmpRow → State → Nat × State
  | _, [], s => (Status.ok, s)
  | i, r :: rs, s =>
    let (st, s) := run i r s
    if st ≠ Status.ok then (st, s) else smpRows run (i + 1) rs s

/-- `SAMPLE`: a maquette's pass uses draw 3 and delivers no record (R363). -/
def State.smpSample (s : State) (d : Nat) (maquette : Bool) : State :=
  s.smpJob d 0x01 fun j rows s => smpRows (fun i r s =>
    let (st, bs, s) := s.smpRead d j r.logits r.bytes
    if st ≠ Status.ok then (st, s)
    else
      let draw := if maquette then 3 else 0
      let zs := r.zs bs
      let f := s.smpFirst d (jobCtx j) draw r zs
      let z := ((zs.find? fun p => p.1 == f.best).map (·.2)).getD 0
      let (t, lp, tr) := s.smpChoose d (jobCtx j) draw r f z
      let k : Token := { pos := r.pos, token := t, logp := lp, cast := jobCast j, draftOk := false }
      let (st, s) := (s.smpTrunc d tr).smpRecord d j (jobOut j + 16 * i) r.handle k
      (st, if st = Status.ok ∧ maquette = false then s.deliver r.handle (jobSeq j) [k] else s)) 0 rows s

def execSample (die : DieNo) (maquette : Bool) (s : State) : Host.Outcome State Fault Refusal :=
  .next (s.smpSample die.val maquette)

/-- Bytes of a shortlist. -/
def SmpRow.listBytes (r : SmpRow) : Nat := 16 + 8 * r.kc

/-- `SHORTLIST` (R170): each row's list follows the one before it; entries that a short shard lacks hold −∞ (log 190). -/
def State.smpShort (s : State) (d : Nat) : State :=
  s.smpJob d 0x02 fun j rows s =>
    let offs := rows.foldl (fun l r => l ++ [l.getLastD 0 + r.listBytes]) [0]
    smpRows (fun i r s =>
      let (st, bs, s) := s.smpRead d j r.logits r.bytes
      if st ≠ Status.ok then (st, s)
      else
        let f := s.smpFirst d (jobCtx j) 0 r (r.zs bs)
        let entry (p : Nat × Nat) : List Byte := leBytes 8 (p.2 * 2 ^ 32 + p.1)
        let pad := (List.range (r.kc - f.cand.length)).flatMap fun _ => entry (0, 0xFF800000)
        s.jobWrite d j (jobOut j + offs.getD i 0)
          ([f.m, f.sum, f.best, f.key].flatMap (leBytes 4) ++ f.cand.flatMap entry ++ pad)) 0 rows s

def execShortlist (die : DieNo) (s : State) : Host.Outcome State Fault Refusal := .next (s.smpShort die.val)

/-- Shortlists of a row's shards, one after another, as one first part. -/
def SmpRow.merge (r : SmpRow) (ls : List (List Byte)) : SmpFirst :=
  let h (l : List Byte) (i : Nat) : Nat := leNat ((l.drop (4 * i)).take 4)
  let m := (ls.map (h · 0)).foldl f32max 0xFF800000
  let sum := (ls.map fun l => f32mul (h l 1) (smpWeight (h l 0) m)).foldl f32add 0
  let best := (minBy smpKey (ls.map fun l => (h l 2, h l 3))).getD (0, 0)
  let all := ls.flatMap fun l => (wordsOf (l.drop 16)).map fun w => (bits w 19 0, bits w 63 32)
  let ents := all.filter fun p => p.2 != 0xFF800000
  { m := m, sum := sum, lse := f32add m (smpLn sum), best := best.1, key := best.2,
    cand := (sortBy smpKey ents).take r.kc }

/-- The value behind the best Gumbel key, which alone a shortlist keeps: any one that gives the key (R170). -/
def State.mergeValue (s : State) (d ctx : Nat) (r : SmpRow) (f : SmpFirst) : Nat × State :=
  let g := s.smpGumbel d ctx 0 r f.best
  let (w, s) := s.draw
  (if f32add (w.toNat % 2 ^ 32) g = f.key then w.toNat % 2 ^ 32 else f32sub f.key g, s)

/-- `MERGE` (R170). -/
def State.smpMerge (s : State) (d shards : Nat) : State :=
  s.smpJob d 0x03 fun j rows s => smpRows (fun i r s =>
    let (st, bs, s) := s.smpRead d j r.logits (shards * r.listBytes)
    if st ≠ Status.ok then (st, s)
    else
      let f := r.merge (chunks r.listBytes bs.length bs)
      let (z, s) := if r.gumbel then s.mergeValue d (jobCtx j) r f else (0, s)
      let (t, lp, tr) := s.smpChoose d (jobCtx j) 0 r f z
      let k : Token := { pos := r.pos, token := t, logp := lp, cast := jobCast j, draftOk := false }
      let (st, s) := (s.smpTrunc d tr).smpRecord d j (jobOut j + 16 * i) r.handle k
      (st, if st = Status.ok then s.deliver r.handle (jobSeq j) [k] else s)) 0 rows s

def execMerge (die : DieNo) (shards : Nat) (s : State) : Host.Outcome State Fault Refusal :=
  .next (s.smpMerge die.val shards)

/-! `VERIFY` (R171) -/

/-- The main model's truncated distribution of one row: tokens with probabilities, and the first part. -/
def State.smpDist (s : State) (d ctx : Nat) (r : SmpRow) (zs : List (Nat × Nat)) : List (Nat × Nat) × SmpFirst :=
  let f := s.smpFirst d ctx 0 r zs
  if r.greedy then ([(f.best, one32)], f)
  else
    let nuc := if r.gumbel then zs else (r.nucleus f).1
    let ws := nuc.map fun p => (p.1, smpWeight p.2 f.m)
    let total := (prefixSums 0 (ws.map (·.2))).getLast?.getD 0
    (ws.map fun p => (p.1, f32div p.2 total), f)

def probOf (l : List (Nat × Nat)) (t : Nat) : Nat := ((l.find? fun p => p.1 == t).map (·.2)).getD 0

/-- A draft of the maquette and the distribution it was drawn from. -/
abbrev Draft := BitVec 20 × List (BitVec 20 × W32)

/-- The tokens of one row: positions from `pos` on, with the row's distributions in order. -/
def State.smpVerdict (s : State) (d ctx cast : Nat) (r : SmpRow) :
    Nat → List Draft → List (List (Nat × Nat) × SmpFirst × List (Nat × Nat)) → List Token
  | pos, drafts, (p, f, zs) :: rest =>
    let z (t : Nat) : Nat := ((zs.find? fun q => q.1 == t).map (·.2)).getD 0
    let tok (t : Nat) (ok : Bool) : Token := { pos := pos, token := t, logp := smpLogp (z t) f.lse, cast := cast, draftOk := ok }
    let u (draw : Nat) : Nat := s.smpUniform d ctx r.handle r.nonce draw pos 0 0
    match drafts with
    | [] => [tok (pickBy (u 0) p) false]
    | (x, q) :: ds =>
      let t := x.toNat
      let q := q.map fun e => (e.1.toNat, e.2.toNat)
      let px := f32 (probOf p t)
      if ((uniformFv (u 1)).mul (f32 (probOf q t))).lt px then tok t true :: s.smpVerdict d ctx cast r (pos + 1) ds rest
      else
        let left := p.map fun e =>
          let y := f32sub e.2 (probOf q e.1)
          (e.1, if (f32 y).lt Fv.zero then 0 else y)
        [tok (pickBy (u 2) left) false]
  | _, _, [] => []

/-- Write a row's records one after another. -/
def State.smpRecords (s : State) (d : Nat) (j : List Word) (handle : Nat) : Nat → List Token → Nat × State
  | _, [] => (Status.ok, s)
  | a, t :: ts =>
    let (st, s) := s.smpRecord d j a handle t
    if st ≠ Status.ok then (st, s) else s.smpRecords d j handle (a + 16) ts

/-- The main model's rows stand one after another at the row's logits; a row's records have room for every draft and one
more. -/
def State.smpVerify (s : State) (d : Nat) (drafts : List (List Draft)) : State :=
  s.smpJob d 0x04 fun j rows s =>
    let offs := rows.foldl (fun l r => l ++ [l.getLastD 0 + 16 * (r.draft + 1)]) [0]
    smpRows (fun i r s =>
      let (st, bs, s) := s.smpRead d j r.logits ((r.draft + 1) * r.bytes)
      if st ≠ Status.ok then (st, s)
      else
        let dists := (chunks r.bytes bs.length bs).map fun b =>
          let zs := r.zs b
          let (p, f) := s.smpDist d (jobCtx j) r zs
          (p, f, zs)
        let toks := s.smpVerdict d (jobCtx j) (jobCast j) r r.pos ((drafts.getD i []).take r.draft) dists
        let (st, s) := s.smpRecords d j r.handle (jobOut j + offs.getD i 0) toks
        (st, if st = Status.ok then s.deliver r.handle (jobSeq j) toks else s)) 0 rows s

def execVerify (die : DieNo) (drafts : List (List Draft)) (s : State) : Host.Outcome State Fault Refusal :=
  .next (s.smpVerify die.val drafts)

end Sys2Proof.Machine
end

