-- ==== Sys2Proof/Machine/Dispatch.lean ====
section
/-! DEFINITION. One arm for each command: the meaning it has, by one direct call. -/

namespace Sys2Proof.Machine

def exec (i : Instr) (s : State) : Host.Outcome State Fault Refusal :=
  match i with
  | .railFault => Sys2Proof.Machine.execRailFault s
  | .railsWithinTolerance => Sys2Proof.Machine.execRailsWithinTolerance s
  | .resetAssert => Sys2Proof.Machine.execResetAssert s
  | .resetRelease found => Sys2Proof.Machine.execResetRelease found s
  | .umajoLinkUp lanes adapter => Sys2Proof.Machine.execUmajoLinkUp lanes adapter s
  | .linkTrainingEnd found => Sys2Proof.Machine.execLinkTrainingEnd found s
  | .readyEntry ms => Sys2Proof.Machine.execReadyEntry ms s
  | .haltAssert => Sys2Proof.Machine.execHaltAssert s
  | .haltRelease => Sys2Proof.Machine.execHaltRelease s
  | .thermalTrip unit sensor temp => Sys2Proof.Machine.execThermalTrip unit sensor temp s
  | .clockMonitorWindow unit domain khz => Sys2Proof.Machine.execClockMonitorWindow unit domain khz s
  | .bypass => Sys2Proof.Machine.execBypass s
  | .idcode => Sys2Proof.Machine.execIdcode s
  | .samplePreload sampled preload => Sys2Proof.Machine.execSamplePreload sampled preload s
  | .extest => Sys2Proof.Machine.execExtest s
  | .strokeEdge => Sys2Proof.Machine.execStrokeEdge s
  | .frameBoundary power => Sys2Proof.Machine.execFrameBoundary power s
  | .ddrRetrain chan ok => Sys2Proof.Machine.execDdrRetrain chan ok s
  | .strokeMark link msg errNs => Sys2Proof.Machine.execStrokeMark link msg errNs s
  | .lockLoss => Sys2Proof.Machine.execLockLoss s
  | .masterHandover => Sys2Proof.Machine.execMasterHandover s
  | .slipReq link msg => Sys2Proof.Machine.execSlipReq link msg s
  | .fence link msg => Sys2Proof.Machine.execFence link msg s
  | .outcomeQuery link msg => Sys2Proof.Machine.execOutcomeQuery link msg s
  | .outcomeReply link msg => Sys2Proof.Machine.execOutcomeReply link msg s
  | .throttle link msg => Sys2Proof.Machine.execThrottle link msg s
  | .vote link msg => Sys2Proof.Machine.execVote link msg s
  | .outcome link msg => Sys2Proof.Machine.execOutcome link msg s
  | .collective link msg => Sys2Proof.Machine.execCollective link msg s
  | .barrier link msg => Sys2Proof.Machine.execBarrier link msg s
  | .sealRegister ctx kind seq first last group => Sys2Proof.Machine.execSealRegister ctx kind seq first last group s
  | .votePost ctx seq => Sys2Proof.Machine.execVotePost ctx seq s
  | .outcomePost ctx seq => Sys2Proof.Machine.execOutcomePost ctx seq s
  | .outcomeMissing ctx seq => Sys2Proof.Machine.execOutcomeMissing ctx seq s
  | .outcomeQueryTimeout ctx seq => Sys2Proof.Machine.execOutcomeQueryTimeout ctx seq s
  | .collectiveTimeout tag => Sys2Proof.Machine.execCollectiveTimeout tag s
  | .faultReport unit finding => Sys2Proof.Machine.execFaultReport unit finding s
  | .armatureSilence => Sys2Proof.Machine.execArmatureSilence s
  | .ucieModuleDown conn module => Sys2Proof.Machine.execUcieModuleDown conn module s
  | .budgetEnd => Sys2Proof.Machine.execBudgetEnd s
  | .slotPush die core word3 => Sys2Proof.Machine.execSlotPush die core word3 s
  | .slotStart die core => Sys2Proof.Machine.execSlotStart die core s
  | .endBlock die core => Sys2Proof.Machine.execEndBlock die core s
  | .loop die core => Sys2Proof.Machine.execLoop die core s
  | .setp die core => Sys2Proof.Machine.execSetp die core s
  | .addp die core => Sys2Proof.Machine.execAddp die core s
  | .wait die core cycle => Sys2Proof.Machine.execWait die core cycle s
  | .signal die core => Sys2Proof.Machine.execSignal die core s
  | .signalArrive die core ec inc => Sys2Proof.Machine.execSignalArrive die core ec inc s
  | .evcWrite die core ec value => Sys2Proof.Machine.execEvcWrite die core ec value s
  | .matmul die core => Sys2Proof.Machine.execMatmul die core s
  | .vec die core => Sys2Proof.Machine.execVec die core s
  | .dmaStart die core cycle => Sys2Proof.Machine.execDmaStart die core cycle s
  | .dmaStop die core => Sys2Proof.Machine.execDmaStop die core s
  | .coll die core cycle => Sys2Proof.Machine.execColl die core cycle s
  | .lookup die core => Sys2Proof.Machine.execLookup die core s
  | .appendSet die core => Sys2Proof.Machine.execAppendSet die core s
  | .appendRow die core arr => Sys2Proof.Machine.execAppendRow die core arr s
  | .blockComplete die core cycle => Sys2Proof.Machine.execBlockComplete die core cycle s
  | .carryDeadline die core ch => Sys2Proof.Machine.execCarryDeadline die core ch s
  | .dmaMove die core ch => Sys2Proof.Machine.execDmaMove die core ch s
  | .dmaLoop die core ch => Sys2Proof.Machine.execDmaLoop die core ch s
  | .dmaWait die core ch => Sys2Proof.Machine.execDmaWait die core ch s
  | .dmaSignal die core ch => Sys2Proof.Machine.execDmaSignal die core ch s
  | .dmaEnd die core ch => Sys2Proof.Machine.execDmaEnd die core ch s
  | .dmaRequestComplete die core ch index how => Sys2Proof.Machine.execDmaRequestComplete die core ch index how s
  | .stalePageDefer die core ch handles => Sys2Proof.Machine.execStalePageDefer die core ch handles s
  | .scratchpadAccess acc => Sys2Proof.Machine.execScratchpadAccess acc s
  | .ddrRequest acc => Sys2Proof.Machine.execDdrRequest acc s
  | .hostWindowRequest acc => Sys2Proof.Machine.execHostWindowRequest acc s
  | .tierDeadline late => Sys2Proof.Machine.execTierDeadline late s
  | .patrolScrub addr words => Sys2Proof.Machine.execPatrolScrub addr words s
  | .arrayClockGate die core arr cycles => Sys2Proof.Machine.execArrayClockGate die core arr cycles s
  | .fillPass die core arr record first => Sys2Proof.Machine.execFillPass die core arr record first s
  | .jobPush die engine word3 => Sys2Proof.Machine.execJobPush die engine word3 s
  | .jobSlotCompare die engine => Sys2Proof.Machine.execJobSlotCompare die engine s
  | .sample die maquette => Sys2Proof.Machine.execSample die maquette s
  | .shortlist die => Sys2Proof.Machine.execShortlist die s
  | .merge die shards => Sys2Proof.Machine.execMerge die shards s
  | .verify die drafts => Sys2Proof.Machine.execVerify die drafts s
  | .raw die => Sys2Proof.Machine.execRaw die s
  | .uniform die => Sys2Proof.Machine.execUniform die s
  | .mask die => Sys2Proof.Machine.execMask die s
  | .normal die => Sys2Proof.Machine.execNormal die s
  | .adamw die => Sys2Proof.Machine.execAdamw die s
  | .signmom die => Sys2Proof.Machine.execSignmom die s
  | .sgd die => Sys2Proof.Machine.execSgd die s
  | .ssq die => Sys2Proof.Machine.execSsq die s
  | .compare die => Sys2Proof.Machine.execCompare die s
  | .sha256 die => Sys2Proof.Machine.execSha256 die s
  | .checkVerify die => Sys2Proof.Machine.execCheckVerify die s
  | .scan die engine => Sys2Proof.Machine.execScan die engine s
  | .cast die engine => Sys2Proof.Machine.execCast die engine s
  | .amaxExchange ctx => Sys2Proof.Machine.execAmaxExchange ctx s
  | .mapInsert die => Sys2Proof.Machine.execMapInsert die s
  | .mapUpdate die => Sys2Proof.Machine.execMapUpdate die s
  | .mapRemove die => Sys2Proof.Machine.execMapRemove die s
  | .mapRead die => Sys2Proof.Machine.execMapRead die s
  | .moveTo die target => Sys2Proof.Machine.execMoveTo die target s
  | .pageSpill die ctx => Sys2Proof.Machine.execPageSpill die ctx s
  | .segWrite pd segment => Sys2Proof.Machine.execSegWrite pd segment s
  | .segRead pd segment => Sys2Proof.Machine.execSegRead pd segment s
  | .rewrite pd host region => Sys2Proof.Machine.execRewrite pd host region s
  | .realloc pd host region => Sys2Proof.Machine.execRealloc pd host region s
  | .epochRead pd host region => Sys2Proof.Machine.execEpochRead pd host region s
  | .objCreate pd => Sys2Proof.Machine.execObjCreate pd s
  | .objWrite job => Sys2Proof.Machine.execObjWrite job s
  | .objSeal pd => Sys2Proof.Machine.execObjSeal pd s
  | .objRead job => Sys2Proof.Machine.execObjRead job s
  | .objDelete pd => Sys2Proof.Machine.execObjDelete pd s
  | .objStat pd => Sys2Proof.Machine.execObjStat pd s
  | .objectExpiry pd object => Sys2Proof.Machine.execObjectExpiry pd object s
  | .readReclaim pd target block => Sys2Proof.Machine.execReadReclaim pd target block s
  | .flashTargetFail pd target => Sys2Proof.Machine.execFlashTargetFail pd target s
  | .flitSend link => Sys2Proof.Machine.execFlitSend link s
  | .flitReceive link flit fecOk => Sys2Proof.Machine.execFlitReceive link flit fecOk s
  | .replayTimeout link => Sys2Proof.Machine.execReplayTimeout link s
  | .laneFail link lane => Sys2Proof.Machine.execLaneFail link lane s
  | .linkRetrainEnd link locked => Sys2Proof.Machine.execLinkRetrainEnd link locked s
  | .armatureLaneFail link => Sys2Proof.Machine.execArmatureLaneFail link s
  | .armatureFrameReceive link frame => Sys2Proof.Machine.execArmatureFrameReceive link frame s
  | .chunkReceive link => Sys2Proof.Machine.execChunkReceive link s
  | .chunkNak link w1 w2 => Sys2Proof.Machine.execChunkNak link w1 w2 s
  | .chunkDeadline owner => Sys2Proof.Machine.execChunkDeadline owner s
  | .send die core => Sys2Proof.Machine.execSend die core s
  | .recv die core => Sys2Proof.Machine.execRecv die core s
  | .linkColl die core => Sys2Proof.Machine.execLinkColl die core s
  | .routeWrite pd device => Sys2Proof.Machine.execRouteWrite pd device s
  | .routeRead pd device => Sys2Proof.Machine.execRouteRead pd device s
  | .fiCfgWrite link value host => Sys2Proof.Machine.execFiCfgWrite link value host s
  | .learnStep cmd program => Sys2Proof.Machine.execLearnStep cmd program s
  | .loadBatch cmd image => Sys2Proof.Machine.execLoadBatch cmd image s
  | .learnStepBegin ctx => Sys2Proof.Machine.execLearnStepBegin ctx s
  | .stepNormPost ctx => Sys2Proof.Machine.execStepNormPost ctx s
  | .submit cmd prompt => Sys2Proof.Machine.execSubmit cmd prompt s
  | .pause cmd => Sys2Proof.Machine.execPause cmd s
  | .pauseObjectWrite slot => Sys2Proof.Machine.execPauseObjectWrite slot s
  | .resume cmd => Sys2Proof.Machine.execResume cmd s
  | .registerPrefix cmd tokens => Sys2Proof.Machine.execRegisterPrefix cmd tokens s
  | .dropPrefix cmd => Sys2Proof.Machine.execDropPrefix cmd s
  | .loadModel cmd shard program => Sys2Proof.Machine.execLoadModel cmd shard program s
  | .replaceEvict ctx model => Sys2Proof.Machine.execReplaceEvict ctx model s
  | .evictModel cmd => Sys2Proof.Machine.execEvictModel cmd s
  | .batchFormation ctx consumed skips => Sys2Proof.Machine.execBatchFormation ctx consumed skips s
  | .startLoop cmd => Sys2Proof.Machine.execStartLoop cmd s
  | .stopLoop cmd => Sys2Proof.Machine.execStopLoop cmd s
  | .setTurnPolicy cmd => Sys2Proof.Machine.execSetTurnPolicy cmd s
  | .forceTurn cmd => Sys2Proof.Machine.execForceTurn cmd s
  | .createContext cmd => Sys2Proof.Machine.execCreateContext cmd s
  | .resetContext cmd => Sys2Proof.Machine.execResetContext cmd s
  | .setShares cmd => Sys2Proof.Machine.execSetShares cmd s
  | .contextSwitch outgoing incoming => Sys2Proof.Machine.execContextSwitch outgoing incoming s
  | .notifyTimer queue => Sys2Proof.Machine.execNotifyTimer queue s
  | .umajoFlitReceive flit fecOk => Sys2Proof.Machine.execUmajoFlitReceive flit fecOk s
  | .umajoFlitSend => Sys2Proof.Machine.execUmajoFlitSend s
  | .umajoReplayTimeout => Sys2Proof.Machine.execUmajoReplayTimeout s
  | .umajoLaneFail lane relocked => Sys2Proof.Machine.execUmajoLaneFail lane relocked s
  | .umajoRetrainTimer => Sys2Proof.Machine.execUmajoRetrainTimer s
  | .messageErrorReport mtag => Sys2Proof.Machine.execMessageErrorReport mtag s
  | .memCpl msg => Sys2Proof.Machine.execMemCpl msg s
  | .csrWr mtag addr data => Sys2Proof.Machine.execCsrWr mtag addr data s
  | .csrRd mtag addr => Sys2Proof.Machine.execCsrRd mtag addr s
  | .doorbellSqTail queue value => Sys2Proof.Machine.execDoorbellSqTail queue value s
  | .doorbellEqConsumed queue value => Sys2Proof.Machine.execDoorbellEqConsumed queue value s
  | .queueFetch queue entries => Sys2Proof.Machine.execQueueFetch queue entries s
  | .hwinWrite region => Sys2Proof.Machine.execHwinWrite region s
  | .hwinRead region => Sys2Proof.Machine.execHwinRead region s
  | .quote => Sys2Proof.Machine.execQuote s
  | .treeReady => Sys2Proof.Machine.execTreeReady s
  | .update image => Sys2Proof.Machine.execUpdate image s
  | .csrWrite by_ addr bytes data => Sys2Proof.Machine.execCsrWrite by_ addr bytes data s
  | .csrReadClear by_ addr bytes hardware => Sys2Proof.Machine.execCsrReadClear by_ addr bytes hardware s

end Sys2Proof.Machine
end

