-- ==== Sys2Proof/Safety.lean ====
section
/-! DEFINITION. What claims call a state that runs on and a state in good form. -/

namespace Sys2Proof.Machine

/-- The step goes on: it neither faults nor refuses. -/
def Runs (s : State) : Prop := ∃ t, step s = .next t

/-- Registers and memory are in their canonical form, so equal contents are equal data. -/
def State.Canonical (s : State) : Prop :=
  cwf resetWord s.regs = true ∧ cwf resetWord s.eff = true ∧ s.mem.wf = true

/-- What a command changes only in its own place: the queue, and the provenance die but for its state journal (R492). -/
def State.kept (s : State) : List Instr × Provenance :=
  (s.pending, { s.boot.prov with journal := [], sector := 0 })

/-- The address of a register: of a field, in the block at `base`, the `i`-th of like registers. -/
def regAddr (base : Nat) (f : Fld) (i : Nat := 0) : Nat := base + f.off + i * f.step

/-- A field of one register: the block's base, the field, and which of like registers. -/
abbrev FieldOf := Nat × Fld × Nat

/-- Every bit of every register outside some fields is as before. -/
def OnlyFields (s t : State) (l : List FieldOf) : Prop :=
  ∀ a j : Nat, (∀ p ∈ l, a = regAddr p.1 p.2.1 p.2.2 → j < p.2.1.lo ∨ p.2.1.lo + p.2.1.w ≤ j) →
    (t.reg a).getLsbD j = (s.reg a).getLsbD j

/-- Every field of the state but the registers is as before. -/
def SameRest (s t : State) : Prop := { t with regs := [] } = { s with regs := [] }

/-- Every field but the registers and the cores' own records is as before. -/
def SameButCores (s t : State) : Prop := { t with regs := [], cores := [] } = { s with regs := [], cores := [] }

/-- This device has posted the only collective in flight, of a group of two in one dimension, in the stroke in progress;
link `l` leads to the other member, whose stage message `m`, not seen before, arrives; `a` and `b` are the two values in coordinate order. -/
def PairStage (s : State) (l : Nat) (m : ArmMsg) (mtype : Nat) (c : Coll) (a b : List Word) : Prop :=
  ∃ (r : DevRec) (lo x y : Nat),
    s.seenMsg m = false ∧ s.arm.colls = [c] ∧ c.mtype = mtype ∧ c.tag = m.tag.toNat ∧ c.posted = true ∧ c.heard = [] ∧
    c.stroke = s.stroke ∧ c.dim < 4 ∧ m.stage.toNat = c.dim ∧ c.group.getD c.dim (x, x) = (lo, lo + 1) ∧
    s.nextDim c.group (c.dim + 1) = 4 ∧ s.fabric[m.src.toNat]? = some r ∧ s.peer l = m.src.toNat ∧
    s.coords.getD c.dim 0 = x ∧ r.coords.getD c.dim 0 = y ∧
    ((x = lo ∧ y = lo + 1 ∧ a = c.value ∧ b = m.payload) ∨ (x = lo + 1 ∧ y = lo ∧ a = m.payload ∧ b = c.value))

/-- A core in service whose sequencer stands at a command of opcode `op` with `nw` further words: `ws` are its words, they
lie within the block before its `END`, and the earliest cycle that the command names is within the budget. -/
def AtCommand (s : State) (d c op nw : Nat) (b : BlockRun) (ws : List Word) : Prop :=
  (s.core d c).block = some b ∧ b.ended = false ∧ s.coreUp d c = true ∧
    ws = (List.range (nw + 1)).map (fun i => s.fetch d c (b.pc + i)) ∧ bits (ws.getD 0 0) 63 58 = op ∧
    bits (ws.getD 0 0) 57 56 = nw ∧ b.pc + nw < b.base + b.len - 1 ∧
    ∀ a, effAt b (ws.getD 0 0) = some a → a ≤ s.get Base.device Reg.budget

/-- The command has issued: the block's last issue cycle, its loops and its word have moved on as R132 and R135 say, and the
sequencer shows its word. -/
def Issued (s t : State) (d c nw ready : Nat) (b : BlockRun) (w : Word) : Prop :=
  ∃ b', (t.core d c).block = some b' ∧ b'.last = issueAt b w ready ∧
    (b'.loops, b'.pc) = advance b.loops (b.pc + 1 + nw) ∧
    { b' with last := 0, loops := [], pc := 0, done := 0, unfixed := false, holds := [], vprev := none } =
      { b with last := 0, loops := [], pc := 0, done := 0, unfixed := false, holds := [], vprev := none } ∧
    t.get (Base.core d c) Reg.seqPc = b'.pc % 2 ^ Reg.seqPc.w ∧ t.pending = s.pending

/-- A channel in service whose place holds a descriptor of code `op`, all of it below the core's limit: `ws` are its words,
and `u` is the state after they are read (a corrected word is counted). -/
def AtDescriptor (s : State) (d c ch op : Nat) (ws : List Word) (u : State) : Prop :=
  s.chanRuns d c ch = true ∧
    8 * s.get (Base.core d c) Reg.chPc ch + 8 * descLen op ≤ s.spLimit d c ∧
    bits ((s.descWords d c ch 1).1.getD 0 0) 63 60 = op ∧ s.descWords d c ch (descLen op) = (ws, u)

/-- A MOVE but for which of its requests the core's quota has let go out (R248). -/
def DmaMv.unsent (m : DmaMv) : DmaMv := { m with reqs := m.reqs.map fun r => { r with issued := none } }

/-- An engine in service, its clock running, holds a job of operation `op`. -/
def AtJob (s : State) (d e op : Nat) (j : List Word) : Prop :=
  (s.eng d e).job = some j ∧ s.engUp d e = true ∧ jobOp j = op

/-- Every word that holds bytes [a, a + n) is clean. -/
def CleanWords (s : State) (a n : Nat) : Prop :=
  ∀ i, i < (a + n + 7) / 8 - a / 8 → (s.load ((a / 8 + i) * 8)).1.ecc = .clean

/-- A job may read bytes [a, a + n): the words that hold them are clean, and the bytes are `bs`. -/
def JobSource (s : State) (d : Nat) (j : List Word) (a n : Nat) (bs : List Byte) : Prop :=
  s.jobStatus d j a n = Status.ok ∧ CleanWords s a n ∧ (s.loadBytes a n).1 = bs

/-- The parameter record of a job lies in its die's store and holds the bytes `r`. -/
def JobRecord (s : State) (d : Nat) (j : List Word) (n : Nat) (r : List Byte) : Prop :=
  inDie d (jobParam j) = true ∧ JobSource s d j (jobParam j) n r

/-- A host command of opcode `op` runs: it is of that opcode, no fence holds it back, the device is READY or RUNNING, and
it stands on a queue that may carry it. -/
def CmdRuns (s : State) (c : HostCmd) (op : Nat) : Prop :=
  c.opcode.toNat = op ∧ s.fencedOff c = false ∧ (s.devState = Dev.ready ∨ s.devState = Dev.running) ∧ s.queueOk c = true

/-- Nothing changes. -/
def Unchanged (c : Instr) (s : State) : Prop := exec c s = .next s

end Sys2Proof.Machine
end

