-- ==== Sys2Proof/Certificates/Slice0/Obligations.lean ====
section
/-! DEFINITION. The statements for the provers. -/

section
open Sys2Proof Sys2Proof.Machine

/-- One step runs the command at the front of the queue, and an empty queue idles. For every state whose queue
starts with a command c, a step is exec of c on the state with the rest of the queue; a step on an empty queue
answers the state unchanged. That commands wait in a queue, and that an empty one idles, is the model's (log
entries 1 and 2). -/
def Obligations.StepRunsFront : Prop :=
∀ s : State,
  (∀ (c : Instr) (rest : List Instr), s.pending = c :: rest → step s = exec c { s with pending := rest }) ∧
  (s.pending = [] → step s = .next s)

/-- Every step takes exactly the front command off the queue and leaves the others in order. From every state, if a
step answers a next state, the queue of that state is the tail of the queue before: no command puts in, drops or
reorders a waiting command. The queue is the model's own (log entry 1). -/
def Obligations.StepTakesFront : Prop :=
∀ s t : State, step s = .next t → t.pending = s.pending.tail

/-- No step writes the provenance die, except for its state journal. For every content P of the provenance die
without its journal: if the die holds P outside its journal sectors, it still does after any step that answers a
next state, from any state whatever. -/
def Obligations.ProvenanceWriteProtected : Prop :=
∀ (P : Provenance) (s t : State), { s.boot.prov with journal := [], sector := 0 } = P → step s = .next t →
  { t.boot.prov with journal := [], sector := 0 } = P

/-- What reset leaves: RESET, storage without content, registers at their reset values. The reset state is in RESET
with no command waiting, its memory lists nothing (so every word reads as a clean zero word with tag 0x00),
every region epoch of DDR and of the host window is 0, every core is new, with no cache line, every register
reads its reset value, and registers and memory are in canonical form. -/
def Obligations.ResetState : Prop :=
State.reset.devState = Dev.reset ∧ State.reset.pending = [] ∧
  (∀ k a : Nat, State.reset.mem.load k a = { d := 0, c := secded 0, tag := 0, ecc := .clean }) ∧
  (∀ (p r : Nat) (host : Bool), State.reset.epoch p host r = 0) ∧
  (∀ d c : Nat, State.reset.core d c = Core.new ∧ (State.reset.core d c).cache = []) ∧
  (∀ a : Nat, State.reset.reg a = resetWord a) ∧ State.reset.Canonical

/-- A rail fault means OFF with both outputs held; RESET_N means RESET unless the device is off. For every state:
RAIL_FAULT completes in OFF with the rails' flag clear and THERMTRIP_N and ALERT_N active; RESET_ASSERT in any
state but OFF completes in RESET with RESET_N held. After either, every register reads its reset value but the
device's state, and every other part of the state is that of reset, except the contacts, the board's modules,
the flash, the provenance die, the boot flash, the count of free values and the queue, which stay. In OFF,
RESET_ASSERT changes the contact only. RAILS_WITHIN_TOLERANCE sets the rails' flag; in OFF with RESET_N held it
also enters RESET and releases THERMTRIP_N, and nothing else changes. That the rails' return with RESET_N held
leads to RESET is the model's choice (log entry 172), since Table 00.8 and R509 differ. -/
def Obligations.SuppliesAndReset : Prop :=
∀ s : State,
  (∃ t, exec .railFault s = .next t ∧ t.devState = Dev.off ∧ t.alert = true ∧
    OnlyFields State.reset t [(Base.device, Reg.devState, 0)] ∧
    SameRest { State.reset with pins := { s.pins with railsOk := false, thermtrip := true, gated := false }, ddr := s.ddr, flash := s.flash, free := s.free, pending := s.pending, boot := { State.reset.boot with prov := s.boot.prov, flash := s.boot.flash } } t) ∧
  (s.devState ≠ Dev.off → ∃ t, exec .resetAssert s = .next t ∧ t.devState = Dev.reset ∧
    OnlyFields State.reset t [(Base.device, Reg.devState, 0)] ∧
    SameRest { State.reset with pins := { s.pins with resetN := true, gated := false }, ddr := s.ddr, flash := s.flash, free := s.free, pending := s.pending, boot := { State.reset.boot with prov := s.boot.prov, flash := s.boot.flash } } t) ∧
  (s.devState = Dev.off → exec .resetAssert s = .next { s with pins := { s.pins with resetN := true } }) ∧
  (s.devState = Dev.off → s.pins.resetN = true → ∃ t, exec .railsWithinTolerance s = .next t ∧
    t.devState = Dev.reset ∧ OnlyFields s t [(Base.device, Reg.devState, 0)] ∧
    SameRest { s with pins := { s.pins with railsOk := true, thermtrip := false } } t) ∧
  (s.devState ≠ Dev.off ∨ s.pins.resetN = false →
    exec .railsWithinTolerance s = .next { s with pins := { s.pins with railsOk := true } })

/-- HALT_N acts later; a settled device enters READY, or HALTED in its place. HALT_ASSERT and HALT_RELEASE change
only the contact. READY_ENTRY in SELFTEST with LOCKED set and STROKE_COUNT at least 65,536 enters READY, or
HALTED (to return to READY) while HALT_N is held, with BOOT_STAGE 5 and its time noted; it changes those
registers only. In every other state it changes nothing. -/
def Obligations.HaltAndReady : Prop :=
∀ (s : State) (ms : W32),
  exec .haltAssert s = .next { s with pins := { s.pins with haltN := true } } ∧
  exec .haltRelease s = .next { s with pins := { s.pins with haltN := false } } ∧
  (s.devState = Dev.selftest ∧ s.get Base.device Reg.locked = 1 ∧ 65536 ≤ s.stroke →
    ∃ t, exec (.readyEntry ms) s = .next t ∧
      t.devState = (if s.pins.haltN then Dev.halted else Dev.ready) ∧
      (s.pins.haltN = true → t.strokes.haltFrom = Dev.ready) ∧
      t.get Base.boot Reg.bootStage = 5 ∧ t.get Base.boot Reg.readyMs = ms.toNat % 2 ^ Reg.readyMs.w ∧
      OnlyFields s t [(Base.device, Reg.devState, 0), (Base.boot, Reg.bootStage, 0), (Base.boot, Reg.readyMs, 0)] ∧
      SameRest { s with strokes := t.strokes } t ∧
      { t.strokes with haltFrom := 0 } = { s.strokes with haltFrom := 0 }) ∧
  (¬(s.devState = Dev.selftest ∧ s.get Base.device Reg.locked = 1 ∧ 65536 ≤ s.stroke) → Unchanged (.readyEntry ms) s)

/-- A sensor at 120 °C fails the device, failing windows mark a monitor, and boundary scan changes the chain alone.
In a state in which the die's controllers run, THERMAL_TRIP at 120 °C or more gates the clocks, drives
THERMTRIP_N, enters FAILED with BOOT_STAGE 0xFF and ALERT_N active; memory, units and the queue stay. Below 120
°C it changes nothing. A CLOCK_MONITOR_WINDOW of a domain the die has that passes clears the domain's failing
mark and shows the count; the first that fails sets the mark; neither changes any other register, so neither
trips. Each of BYPASS, IDCODE, SAMPLE_PRELOAD and EXTEST completes in every state and changes only the scan
chain: IDCODE shifts out the 32 bits of 0x10C0A4B3, least significant first; SAMPLE_PRELOAD shifts out the
sampled contacts and loads the cells; EXTEST drives the contacts from the cells while RESET_N is held and is
BYPASS, one bit that does not drive, otherwise. -/
def Obligations.TripMonitorsAndScan : Prop :=
(∀ (s : State) (unit : UnitNo) (sensor : Fin 4) (temp : Byte) (domain : Fin 20) (khz : W32) (im : Image),
  (s.awake = true → temp.toInt ≥ 120 → ∃ t, exec (.thermalTrip unit sensor temp) s = .next t ∧
    t.devState = Dev.failed ∧ t.pins.gated = true ∧ t.pins.thermtrip = true ∧ t.alert = true ∧
    t.get Base.boot Reg.bootStage = 0xFF ∧ t.mem = s.mem ∧ t.units = s.units ∧ t.pending = s.pending) ∧
  (temp.toInt < 120 → Unchanged (.thermalTrip unit sensor temp) s) ∧
  (s.awake = true → domainExists (unitOf unit) domain.val = true → s.boot.image = some im →
    (windowPasses im (unitOf unit) domain.val khz.toNat = true →
      ∃ t, exec (.clockMonitorWindow unit domain khz) s = .next t ∧
        (unitOf unit, domain.val) ∉ t.faults.failing ∧
        t.get (Base.clock (unitOf unit)) Reg.measKhz domain.val = khz.toNat % 2 ^ Reg.measKhz.w ∧
        OnlyFields s t [(Base.clock (unitOf unit), Reg.measKhz, domain.val)] ∧
        SameRest { s with faults := t.faults } t) ∧
    (windowPasses im (unitOf unit) domain.val khz.toNat = false →
      (unitOf unit, domain.val) ∉ s.faults.failing →
      ∃ t, exec (.clockMonitorWindow unit domain khz) s = .next t ∧
        t.faults.failing = (unitOf unit, domain.val) :: s.faults.failing ∧
        OnlyFields s t [(Base.clock (unitOf unit), Reg.measKhz, domain.val)] ∧
        SameRest { s with faults := t.faults } t))) ∧
(∀ (s : State) (sampled preload : List Bool),
  (∃ t, exec .idcode s = .next t ∧ t.pins.tdo.length = 32 ∧
    (∀ i < 32, t.pins.tdo[i]? = some ((0x10C0A4B3#32).getLsbD i)) ∧ t.pins.driven = false ∧
    t = { s with pins := { s.pins with jtag := t.pins.jtag, tdo := t.pins.tdo, driven := false } }) ∧
  exec (.samplePreload sampled preload) s = .next { s with pins :=
    { s.pins with jtag := .samplePreload, tdo := sampled, cells := preload, driven := false } } ∧
  exec .bypass s = .next { s with pins := { s.pins with jtag := .bypass, tdo := [false], driven := false } } ∧
  exec .extest s = if s.pins.resetN then
      .next { s with pins := { s.pins with jtag := .extest, tdo := s.pins.cells, driven := true } }
    else exec .bypass s)

/-- A stroke edge counts the stroke and, in a working stroke, the schedule position. In a device that settles in
SELFTEST, is not the master, and has no unit, no pending fence, no slip stroke named, no throttle level and no
pending way change, an edge that is no frame boundary adds 1 to STROKE_COUNT and to SCHED_POS, counts a silent
stroke when no mark came, and changes no register bit but those, LAG, the modes that arrays show and the dies'
measured edge offsets (free values: log entry 121); memory and cores stay. A device whose timer does not run, or
that is in FAILED, takes no edge. -/
def Obligations.StrokeEdgeWhileSettling : Prop :=
∀ s : State,
  (s.strokes.running = true → s.devState = Dev.selftest → s.get Base.device Reg.isMaster = 0 → s.units = [] →
    s.faults.toFence = [] → s.strokes.slips = [] → s.get Base.device Reg.throttleLevel = 0 →
    (s.stroke + 1) % s.frame ≠ 0 →
    (∀ d c, d < 8 → c < 16 → s.effGet (Base.cachePart d) Reg.cpWays c = s.get (Base.cachePart d) Reg.cpWays c) →
    ∃ t, exec .strokeEdge s = .next t ∧ t.stroke = (s.stroke + 1) % 2 ^ 64 ∧ t.sched = (s.sched + 1) % 2 ^ 64 ∧
      t.devState = Dev.selftest ∧ t.strokes.marked = false ∧
      t.strokes.silent = (if s.strokes.marked then 0 else s.strokes.silent + 1) ∧
      t.strokes.kind = .working ∧ t.mem = s.mem ∧ t.cores = s.cores ∧ t.units = [] ∧
      OnlyFields s t ([(Base.device, Reg.strokeCount, 0), (Base.device, Reg.schedPos, 0), (Base.device, Reg.lag, 0),
        (Base.armature 0x11, Reg.correction, 0)] ++
        ((List.range 8).map fun d => (Base.armature d, Reg.edgeOffset, 0)) ++
        s.cores.flatMap fun k => (List.range 8).map fun a => (Base.core (k.1 / 48) (k.1 % 48), Reg.arrMode, a))) ∧
  (s.strokes.running = false ∨ s.devState = Dev.failed → Unchanged .strokeEdge s)

/-- A frame boundary takes the power readings once and requests the higher of the two levels. On a serving device
that is alone in its fabric and its own master, has no segment, no context, no model, no program and no table
write waiting, FRAME_BOUNDARY in a boundary stroke shows the frame's input power, requests the maximum of the
power and the temperature level, keeps that request as its own, shows all 4,096 slots free, and leaves memory,
units and every register outside the POWER blocks and the block of contexts as they were, and of the cores all
but the fill passes that their arrays are to insert; done again in the same stroke it changes nothing (that it
acts once is the model's: log entry 32). -/
def Obligations.FrameBoundaryAlone : Prop :=
∀ (s : State) (power : PowerSample),
  s.serving = true → s.stroke % s.frame = 0 → s.frameCount frameDoneKey ≠ s.stroke + 1 →
  s.devsInService = [s.myNum] → (s.distances s.myNum).map (·.1) = [s.myNum] →
  s.get Base.device Reg.masterNum = s.myNum → s.segs = [] → s.frameCount routesKey = 0 → s.frameCount homesKey = 0 →
  s.um.waiting = [] → s.arm.colls = [] → s.live = [] → s.models = [] → s.loading = [] →
  (∀ c, (s.learn c).prog = none) → (∀ c, (s.ctxRec c).shares = none) → s.strokes.prevLevel ≤ 15 →
  (∀ l, l < 24 → s.reg (Base.linkFault (l / 12) + l % 12 * 0x10) = (s.link l).inForce) →
  ∃ t, exec (.frameBoundary power) s = .next t ∧
    t.get (Base.power 0x10) Reg.pFrameW = power.watts.toNat ∧
    t.get (Base.power 0x10) Reg.levelReq = max (t.get (Base.power 0x10) Reg.levelP) (t.get (Base.power 0x10) Reg.levelT) ∧
    cget (fun _ => none) t.strokes.levels s.myNum = some (t.get (Base.power 0x10) Reg.levelReq) ∧
    t.get Base.contexts Reg.freeSlots = 4096 ∧ t.mem = s.mem ∧ t.units = s.units ∧
    (∀ d c, { t.core d c with arrays := [] } = { s.core d c with arrays := [] }) ∧
    (∀ a, a / 0x10000 % 0x100 ≠ 0x0C → a / 0x10000 % 0x100 ≠ 0x19 → a / 0x10000 ≠ Base.contexts / 0x10000 →
      t.reg a = s.reg a) ∧
    Unchanged (.frameBoundary power) t

/-- Losing lock, passing the master's role, and a channel's retraining. LOCK_LOSS of a locked device after 4 strokes
that needed more than 8 ns, or 8 without a mark, clears LOCKED, counts in LOCK_LOSSES, sets LOCK in every staged
unit and in no other; its next stroke edge holds its slots back until a frame boundary. Otherwise it changes
nothing. After 8 strokes without a mark the next mark is stepped to. MASTER_HANDOVER after 8 silent strokes
names the lowest-numbered device in service other than the old master, and nothing else. DDR_RETRAIN of an
active channel that is due counts in RETRAINS and is no longer due; one that fails is to be quarantined; one
that is not due changes nothing. -/
def Obligations.LockMasterAndRetrain : Prop :=
∀ (s : State) (chan : ChanNo) (ok : Bool),
  (s.get Base.device Reg.locked = 1 → (4 ≤ s.strokes.bad ∨ 8 ≤ s.strokes.silent) → (∀ u ∈ s.units, u.ctx < 16) →
    ∃ t, exec .lockLoss s = .next t ∧ t.get Base.device Reg.locked = 0 ∧
      t.get (Base.armature 0x10) Reg.lockLosses = min (s.get (Base.armature 0x10) Reg.lockLosses + 1) 65535 ∧
      t.strokes.lost = true ∧ t.strokes.toStep = decide (8 ≤ s.strokes.silent) ∧
      (∀ n, (t.edgeKind n).strokes.waitFrame = true) ∧ t.units.length = s.units.length ∧
      (∀ (i : Nat) (u v : SealUnit), s.units[i]? = some u → t.units[i]? = some v →
        v.reasons = (if u.staged then u.reasons ||| (1#16 <<< Reason.lock) else u.reasons) ∧
        { v with reasons := 0, cause := none } = { u with reasons := 0, cause := none }) ∧
      t.stroke = s.stroke ∧ t.sched = s.sched ∧ t.devState = s.devState ∧ t.mem = s.mem ∧ t.cores = s.cores) ∧
  (¬(s.get Base.device Reg.locked = 1 ∧ (4 ≤ s.strokes.bad ∨ 8 ≤ s.strokes.silent)) → Unchanged .lockLoss s) ∧
  (∀ x, s.strokes.running = true → s.serving = true → s.get Base.device Reg.masterNum ≠ s.myNum →
    8 ≤ s.strokes.silent → x ∈ s.devsInService → x ≠ s.get Base.device Reg.masterNum →
    (∀ y ∈ s.devsInService, y ≠ s.get Base.device Reg.masterNum → x ≤ y) →
    exec .masterHandover s = .next { s with strokes := { s.strokes with nextMaster := some x } }) ∧
  (s.strokes.silent < 8 ∨ s.get Base.device Reg.masterNum = s.myNum → Unchanged .masterHandover s) ∧
  (s.get (Base.ddr chan.val) Reg.ddrState = 2 → s.frameCount (retrainKey chan.val) = 1 →
    ∃ t, exec (.ddrRetrain chan ok) s = .next t ∧ t.frameCount (retrainKey chan.val) = 0 ∧
      t.get (Base.ddr chan.val) Reg.ddrRetrains = min (s.get (Base.ddr chan.val) Reg.ddrRetrains + 1) 65535 ∧
      t.mem = s.mem ∧ t.units = s.units ∧
      (ok = true → OnlyFields s t [(Base.ddr chan.val, Reg.ddrRetrains, 0)] ∧ t.faults.toFence = s.faults.toFence) ∧
      (ok = false → s.goneUnit (chanUnit chan.val) = false →
        (chanUnit chan.val, 0x0B, chan.val % 16, 0) ∈ t.faults.toFence)) ∧
  (¬(s.get (Base.ddr chan.val) Reg.ddrState = 2 ∧ s.frameCount (retrainKey chan.val) = 1) →
    Unchanged (.ddrRetrain chan ok) s)

/-- A mark from the parent, a slip request and a requested throttle level. On a locked serving device, the first
mark of a stroke that comes from the master by the parent's link moves the timer by its error within 8 ns,
counts the stroke as good or bad, takes its throttle level, and shows the correction; units, memory and the
counts of strokes stay. A SLIP_REQ not seen before, for a stroke still to come, names that stroke and moves the
end of every staged unvoted unit whose last slot ran one or two strokes before it; a copy seen before does
nothing. A THROTTLE for this device notes its sender's level; one for another device does not. -/
def Obligations.MarksSlipsAndLevels : Prop :=
∀ (s : State) (link : LinkNo) (msg : ArmMsg) (errNs : BitVec 16),
  (s.strokes.running = true → s.serving = true → s.hopTo (s.get Base.device Reg.masterNum) = some link.val →
    msg.src.toNat = s.get Base.device Reg.masterNum → s.strokes.marked = false → s.strokes.lost = false → s.strokes.toStep = false →
    s.get Base.device Reg.locked = 1 →
    ∃ t, exec (.strokeMark link msg errNs) s = .next t ∧ t.strokes.marked = true ∧
      t.strokes.moved = s.strokes.moved + max (-8) (min 8 errNs.toInt) ∧
      t.strokes.good = (if -8 ≤ errNs.toInt ∧ errNs.toInt ≤ 8 then s.strokes.good + 1 else 0) ∧
      t.strokes.bad = (if -8 ≤ errNs.toInt ∧ errNs.toInt ≤ 8 then 0 else s.strokes.bad + 1) ∧
      t.strokes.announced = bits (msg.payload.getD 1 0) 19 16 ∧
      t.get (Base.armature 0x10) Reg.correction = unsgn 16 (max (-8) (min 8 errNs.toInt)) ∧
      t.stroke = s.stroke ∧ t.sched = s.sched ∧ t.units = s.units ∧ t.mem = s.mem) ∧
  (s.strokes.running = true → s.seenMsg msg = false → s.stroke < msg.subject.toNat →
    ∃ t, exec (.slipReq link msg) s = .next t ∧ t.strokes.slips.contains msg.subject.toNat = true ∧
      (∀ n, s.strokes.slips.contains n = true → t.strokes.slips.contains n = true) ∧
      t.units.length = s.units.length ∧
      (∀ (i : Nat) (u v : SealUnit), s.units[i]? = some u → t.units[i]? = some v → { v with k := none } = { u with k := none } ∧
        v.k = (if u.staged = true ∧ u.voted = false ∧
            (u.k = some (msg.subject.toNat - 1) ∨ (2 ≤ msg.subject.toNat ∧ u.k = some (msg.subject.toNat - 2)))
          then some msg.subject.toNat else u.k)) ∧
      t.seenMsg msg = true ∧ t.mem = s.mem) ∧
  (s.seenMsg msg = true →
    exec (.slipReq link msg) s = .next { s with arm := { s.arm with silence := 0 } }) ∧
  (msg.dest.toNat = s.myNum → ∃ t, exec (.throttle link msg) s = .next t ∧
    cget (fun _ => none) t.strokes.levels msg.src.toNat = some (bits (msg.payload.getD 0 0) 3 0) ∧
    (∀ d, d ≠ msg.src.toNat → cget (fun _ => none) t.strokes.levels d = cget (fun _ => none) s.strokes.levels d) ∧
    t.regs = s.regs ∧ t.mem = s.mem ∧ t.links = s.links) ∧
  (msg.dest.toNat ≠ s.myNum → ∃ t, exec (.throttle link msg) s = .next t ∧ t.strokes = s.strokes ∧ t.mem = s.mem)

/-- Registering a seal unit appends it and shows the context's oldest sequence. SEAL_REGISTER of a kind other than
0b11, of the context's next sequence, and not of a learning step while a turn is staged nor of a turn while a
step is staged or runs (R384), appends one unit, staged exactly when its first slot has been reached, with no
reason, no vote and no outcome, remembers the group as the context's, and shows the lowest registered sequence
in NEXT_SEQ; every other register bit, memory and core stays. Otherwise it changes nothing: that the sender's
sequence must be the next one is the model's way to number attempts (log entry 22). -/
def Obligations.UnitRegistered : Prop :=
∀ (s : State) (ctx : Ctx) (kind : BitVec 2) (seq : W32) (first last : Word) (group : List (BitVec 6 × BitVec 6)),
  (kind ≠ 3 → seq.toNat = s.planSeq ctx.val →
    (kind = 0 → ∀ u ∈ s.units, u.ctx = ctx.val → u.kind = 2 → u.staged = false) →
    (kind = 2 → (s.learn ctx.val).run = none ∧ ∀ u ∈ s.units, u.ctx = ctx.val → u.kind = 0 → u.staged = false) →
    ∃ t, exec (.sealRegister ctx kind seq first last group) s = .next t ∧
      t.units = s.units ++ [
        { ctx := ctx.val, kind := kind.toNat, seq := seq.toNat, first := first.toNat,
          last := last.toNat, staged := decide (first.toNat ≤ s.get Base.device Reg.schedPos), cause := none, k := none,
          reasons := 0, voted := false, vote := none, posted := false, outcome := none, due := none, queried := false,
          group := group.map fun p => (p.1.toNat, p.2.toNat) }] ∧
      t.groupOf ctx.val = group.map (fun p => (p.1.toNat, p.2.toNat)) ∧
      (∀ c, c ≠ ctx.val → t.groupOf c = s.groupOf c) ∧
      ((∀ u ∈ s.units, u.ctx = ctx.val → seq.toNat ≤ u.seq) → t.get Base.sealBlk Reg.nextSeq ctx.val = seq.toNat) ∧
      OnlyFields s t [(Base.sealBlk, Reg.nextSeq, ctx.val)] ∧
      SameRest { s with units := t.units, groups := t.groups } t) ∧
  (kind = 3 ∨ seq.toNat ≠ s.planSeq ctx.val ∨
      (kind = 0 ∧ ∃ u ∈ s.units, u.ctx = ctx.val ∧ u.kind = 2 ∧ u.staged = true) ∨
      (kind = 2 ∧ ((s.learn ctx.val).run ≠ none ∨ ∃ u ∈ s.units, u.ctx = ctx.val ∧ u.kind = 0 ∧ u.staged = true)) →
    Unchanged (.sealRegister ctx kind seq first last group) s)

/-- A vote is posted in stroke k + D + 1 and an outcome one stroke later. In stroke k + D + 1 a staged unit that has
not voted votes; where its group is this device alone, and the budget end has not come, the result is its own
three words at once. In stroke k + D + 2 it posts its outcome, with MISSING added where no vote result came and
MISMATCH where members voted on other sequences; alone and before the budget end, the unit is decided at once,
good exactly when no reason stands, due at that stroke's edge. In any other stroke, for an unstaged unit, after
it has voted (posted), or on a halted device, nothing changes. -/
def Obligations.VoteAndOutcomePosted : Prop :=
∀ (s : State) (ctx : Ctx) (seq : W32) (u : SealUnit), s.findUnit ctx.val seq.toNat = some u →
  (u.staged = true → u.voted = false → u.k.map (· + s.get Base.device Reg.sealWait + 1) = some s.stroke →
    s.devState ≠ Dev.halted →
    (∃ t v, exec (.votePost ctx seq) s = .next t ∧ t.findUnit ctx.val seq.toNat = some v ∧ v.voted = true ∧
      v.reasons = u.reasons ∧ t.units.length = s.units.length ∧ t.mem = s.mem ∧ t.cores = s.cores) ∧
    (s.arm.colls = [] → s.nextDim u.group 0 = 4 → s.strokes.ended = false → exec (.votePost ctx seq) s = .next (s.setUnit
      { u with voted := true, vote := some [u.reasons.setWidth 64, word seq.toNat, word seq.toNat, 0] }))) ∧
  (u.staged = false ∨ u.voted = true ∨ u.k.map (· + s.get Base.device Reg.sealWait + 1) ≠ some s.stroke ∨
    s.devState = Dev.halted → Unchanged (.votePost ctx seq) s) ∧
  (u.staged = true → u.voted = true → u.posted = false → s.devState ≠ Dev.halted →
    u.k.map (· + s.get Base.device Reg.sealWait + 2) = some s.stroke →
    (∃ t v, exec (.outcomePost ctx seq) s = .next t ∧ t.findUnit ctx.val seq.toNat = some v ∧ v.posted = true ∧
      t.units.length = s.units.length ∧ t.mem = s.mem ∧ t.cores = s.cores) ∧
    (∀ r : Half, s.arm.colls = [] → s.nextDim u.group 0 = 4 → s.strokes.ended = false → u.outcome = none →
      ((u.vote = none ∧ r = u.reasons ||| (1#16 <<< Reason.missing)) ∨
        ∃ a b c d, u.vote = some [a, b, c, d] ∧
          r = if b = word u.seq ∧ c = word u.seq then a.setWidth 16
            else a.setWidth 16 ||| (1#16 <<< Reason.mismatch)) →
      exec (.outcomePost ctx seq) s = .next (s.setUnit
        { u with posted := true, reasons := r, outcome := some (decide (r = 0)), due := some s.stroke }))) ∧
  (u.staged = false ∨ u.voted = false ∨ u.posted = true ∨ s.devState = Dev.halted ∨
    u.k.map (· + s.get Base.device Reg.sealWait + 2) ≠ some s.stroke → Unchanged (.outcomePost ctx seq) s)

/-- A member without an outcome asks, or voids a unit it did not vote on; a reply or its absence decides. A staged
unit without an outcome that has not asked: in stroke V + 1 = k + D + 2 one that voted does nothing yet, and in
V + 2 it floods its query and is due at that stroke's edge; one that did not vote is void in either stroke.
OUTCOME_QUERY_TIMEOUT in the due stroke voids a unit that asked and has no outcome. An OUTCOME_REPLY to this
device decides such a unit by its status; for a unit that did not ask it changes nothing but the armature's
silence; a reply to another device changes no unit. -/
def Obligations.OutcomeMissingAndReply : Prop :=
∀ (s : State) (ctx : Ctx) (seq : W32) (u : SealUnit) (link : LinkNo) (msg : ArmMsg),
  (s.findUnit ctx.val seq.toNat = some u → u.staged = true → u.outcome = none → u.queried = false →
    (u.k.map (· + s.get Base.device Reg.sealWait + 2) = some s.stroke ∨
      u.k.map (· + s.get Base.device Reg.sealWait + 3) = some s.stroke) →
    (u.voted = true → u.k.map (· + s.get Base.device Reg.sealWait + 2) = some s.stroke →
      Unchanged (.outcomeMissing ctx seq) s) ∧
    (u.voted = true → u.k.map (· + s.get Base.device Reg.sealWait + 3) = some s.stroke →
      ∃ t, exec (.outcomeMissing ctx seq) s = .next t ∧
      t.findUnit ctx.val seq.toNat = some
        { u with queried := true, due := some s.stroke } ∧
      t.findColl 0x08 (voteTag ctx.val seq.toNat) = none ∧ t.arm.msgSeq = (s.arm.msgSeq + 1) % 2 ^ 32 ∧
      t.mem = s.mem ∧ t.cores = s.cores) ∧
    (u.voted = false → exec (.outcomeMissing ctx seq) s = .next (s.setUnit
      { u with outcome := some false, due := some s.stroke }))) ∧
  (s.findUnit ctx.val seq.toNat = some u → u.queried = true → u.outcome = none → u.due = some s.stroke →
    exec (.outcomeQueryTimeout ctx seq) s = .next (s.setUnit { u with outcome := some false })) ∧
  (s.findUnit ctx.val seq.toNat = some u → (u.queried = false ∨ u.outcome ≠ none ∨ u.due ≠ some s.stroke) →
    Unchanged (.outcomeQueryTimeout ctx seq) s) ∧
  (s.findUnit msg.ctx.toNat msg.subject.toNat = some u → msg.dest.toNat = s.myNum →
    (u.queried = true → u.outcome = none → exec (.outcomeReply link msg) s =
      .next (({ s with arm := { s.arm with silence := 0 } }).setUnit
        { u with outcome := some (msg.payload.getD 0 0 == 0) })) ∧
    (u.queried = false ∨ u.outcome ≠ none →
      exec (.outcomeReply link msg) s = .next { s with arm := { s.arm with silence := 0 } })) ∧
  (msg.dest.toNat ≠ s.myNum → ∃ t, exec (.outcomeReply link msg) s = .next t ∧ t.units = s.units ∧
    t.outcomes = s.outcomes ∧ t.mem = s.mem ∧ t.cores = s.cores)

/-- A query is answered once by a member that holds the outcome; a FENCE of a device takes it out of the fabric. A
flooded message seen before changes only the armature's silence. An OUTCOME_QUERY not seen before that comes by
the only armature link, for a unit whose outcome this member has applied, puts the reply with that outcome among
the frames that wait for that link, in their classes' order. A FENCE not seen before of another device that is
in service takes the device out, sets GONE in every staged unit of the contexts it belongs to (no window or ring
collective being open and no chunk waiting on a link), and marks the routes for rebuilding; one that names this
device stops it in FAILED; one that names a unit of a compute die of another device changes nothing here but the
armature. -/
def Obligations.QueryAnsweredAndFenceHeard : Prop :=
∀ (s : State) (link : LinkNo) (msg : ArmMsg) (ok : Bool) (dev : Nat),
  (s.seenMsg msg = true →
    exec (.outcomeQuery link msg) s = .next { s with arm := { s.arm with silence := 0 } } ∧
    exec (.fence link msg) s = .next { s with arm := { s.arm with silence := 0 } }) ∧
  (s.seenMsg msg = false → s.armLinks = [link.val] → s.hopTo msg.src.toNat = some link.val →
    (s.outcomes.find? fun o => o.1 == msg.ctx.toNat && o.2.1 == msg.subject.toNat) =
      some (msg.ctx.toNat, msg.subject.toNat, ok) →
    ∃ t, exec (.outcomeQuery link msg) s = .next t ∧ t.seenMsg msg = true ∧
      (t.link link.val).awaiting = armInsert (armWords
        { mtype := 0x05, tag := 0, src := BitVec.ofNat 12 s.myNum, dest := msg.src, ctx := msg.ctx,
          strokeLo := BitVec.ofNat 20 s.stroke, payload := [if ok then 0x00 else 0x03, 0, 0, 0], ops := 0, stage := 0,
          msgSeq := BitVec.ofNat 32 s.arm.msgSeq, subject := msg.subject }) (s.link link.val).awaiting ∧
      t.units = s.units ∧ t.outcomes = s.outcomes ∧ t.mem = s.mem) ∧
  (s.seenMsg msg = false → s.strokes.running = true → s.devState ≠ Dev.failed →
    bits msg.subject 27 16 = dev → bits msg.subject 12 8 = 0x1F → bits msg.subject 7 0 = 0xFF →
    (dev = s.myNum → ∃ t, exec (.fence link msg) s = .next t ∧ t.devState = Dev.failed ∧ t.alert = true) ∧
    (dev ≠ s.myNum → dev ∉ s.arm.devs → s.windows = [] → s.bulk = [] →
      (∀ l, l < 24 → (s.link l).queues.flatten = []) →
      ∃ t, exec (.fence link msg) s = .next t ∧ t.arm.devs = dev :: s.arm.devs ∧ t.seenMsg msg = true ∧
        t.units = (s.addReason (s.ctxsOf dev) Reason.gone).units ∧ t.frameCount routesKey = 1 ∧
        t.devState = s.devState ∧ t.mem = s.mem ∧ t.cores = s.cores)) ∧
  (s.seenMsg msg = false → bits msg.subject 27 16 ≠ s.myNum → bits msg.subject 12 8 < 8 →
    ∃ t, exec (.fence link msg) s = .next t ∧ t.seenMsg msg = true ∧ t.units = s.units ∧ t.arm.devs = s.arm.devs ∧
      t.arm.links = s.arm.links ∧ t.mem = s.mem ∧ t.cores = s.cores)

/-- A stage message of a group of two completes it: the operations apply in coordinate order. This device has
posted, its group is two neighbours in one dimension, and the other one's stage message, not seen before,
arrives directly. For a vote, before the budget end, the unit takes the OR of the reasons and the least and
greatest sequence; for an outcome, before the budget end, the AND decides it; for a core's collective or barrier
the four combined words are stored at the named place and 1 is added to the event counter. the tag's completion
is OK. In each case the collective is gone and nothing else changes but the armature's silence and the list of
messages seen. A value heard before this member posts is kept. -/
def Obligations.StageOfTwoMembers : Prop :=
∀ (s : State) (link : LinkNo) (msg : ArmMsg) (c : Coll) (u : SealUnit) (a b : List Word),
  (PairStage s link.val msg 0x07 c a b → c.purpose = 1 → c.ops = [0x6, 0x5, 0x4, 0x0] → s.strokes.ended = false →
    s.findUnit c.ctx c.subject.toNat = some u →
    ∃ w, exec (.vote link msg) s = .next (({ s with arm := { s.arm with silence := 0, colls := [], seen := (msg.src.toNat, msg.msgSeq.toNat) :: s.arm.seen } }).setUnit
        { u with vote := some w }) ∧ w.getD 0 0 = a.getD 0 0 ||| b.getD 0 0 ∧
      (w.getD 1 0).toNat = min (a.getD 1 0).toNat (b.getD 1 0).toNat ∧
      (w.getD 2 0).toNat = max (a.getD 2 0).toNat (b.getD 2 0).toNat) ∧
  (PairStage s link.val msg 0x08 c a b → c.purpose = 2 → c.ops = [0x7, 0x0, 0x0, 0x0] → s.strokes.ended = false →
    s.findUnit c.ctx c.subject.toNat = some u → u.outcome = none →
    exec (.outcome link msg) s = .next (({ s with arm := { s.arm with silence := 0, colls := [], seen := (msg.src.toNat, msg.msgSeq.toNat) :: s.arm.seen } }).setUnit
      { u with outcome := some (a.getD 0 0 &&& b.getD 0 0 == 1), due := some s.stroke })) ∧
  (∀ d k off ec, c.purpose = 0 → c.poster = (d, k, off, ec) → s.coreUp d k = true →
    (PairStage s link.val msg 0x09 c a b → exec (.collective link msg) s =
      .next (((({ s with arm := { s.arm with silence := 0, colls := [], seen := (msg.src.toNat, msg.msgSeq.toNat) :: s.arm.seen } }).collEnd c.tag Status.ok).stores (scratchAddr d k off)
        ((collCombine c.ops a b).map fresh)).evcAdd d k ec 1)) ∧
    (PairStage s link.val msg 0x0A c a b → exec (.barrier link msg) s =
      .next (((({ s with arm := { s.arm with silence := 0, colls := [], seen := (msg.src.toNat, msg.msgSeq.toNat) :: s.arm.seen } }).collEnd c.tag Status.ok).stores (scratchAddr d k off)
        ((collCombine c.ops a b).map fresh)).evcAdd d k ec 1))) ∧
  (∀ r, s.seenMsg msg = false → s.arm.colls = [] → s.fabric[msg.src.toNat]? = some r →
    exec (.collective link msg) s = .next { s with arm := { s.arm with silence := 0, seen := (msg.src.toNat, msg.msgSeq.toNat) :: s.arm.seen, colls :=
      [{ Coll.fresh 0x09 msg.tag.toNat with heard :=
          [{ dim := msg.stage.toNat, coord := r.coords.getD msg.stage.toNat 0, link := link.val,
             msg := { msg with mtype := 0x09 } }] }] } })

/-- A collective without a result, an armature that falls silent, and a die-to-die module that goes down.
COLLECTIVE_TIMEOUT of a core's collective posted in an earlier stroke and without a result with no slip stroke
named next, takes it away, completes it with GONE where a member of its group is out of service and VOID
otherwise, and sets MISSING in its unit; with a result, none posted, in the same stroke, or with a slip to come
it changes nothing. ARMATURE_SILENCE of a serving device in a fabric of several, after 8 strokes without a
frame, enters FAILED; before that it changes nothing. UCIE_MODULE_DOWN notes the module as down; the last one of
a compute die's connection to a plinth die has the compute die fenced at the next edge; a module that is down
already, or that the connection does not have, changes nothing. -/
def Obligations.LateCollectiveSilenceAndModule : Prop :=
∀ (s : State) (tag : BitVec 6) (c : Coll) (conn : Connection) (m : Fin 8),
  (s.findColl 0x09 tag.toNat = some c → c.posted = true → c.result = none → c.stroke < s.stroke →
    (s.stroke + 1) ∉ s.strokes.slips → c.purpose = 0 →
    exec (.collectiveTimeout tag) s = .next (((s.dropColl c.mtype c.tag).collEnd c.tag
      (if (s.groupDevs c.group).all s.devsInService.contains then Status.void else Status.gone)).workReason c.ctx c.kind
        c.subject.toNat Reason.missing)) ∧
  (s.findColl 0x09 tag.toNat = none ∨ (s.findColl 0x09 tag.toNat = some c ∧
    (c.posted = false ∨ c.result ≠ none ∨ s.stroke ≤ c.stroke ∨ (s.stroke + 1) ∈ s.strokes.slips)) → Unchanged (.collectiveTimeout tag) s) ∧
  (s.serving = true → 1 < s.fabric.length → 8 ≤ s.arm.silence →
    ∃ t, exec .armatureSilence s = .next t ∧ t.devState = Dev.failed ∧ t.alert = true) ∧
  (s.serving = false ∨ s.fabric.length ≤ 1 ∨ s.arm.silence < 8 → Unchanged .armatureSilence s) ∧
  (s.awake = true → m.val < connModules conn → (conn, m.val) ∉ s.faults.down →
    ∃ t, exec (.ucieModuleDown conn m) s = .next t ∧ t.faults.down = (conn, m.val) :: s.faults.down ∧
      t.units = s.units ∧ t.mem = s.mem ∧ t.links = s.links ∧
      ((∃ i, i < connModules conn ∧ i ≠ m.val ∧ (conn, i) ∉ s.faults.down) → t.faults.toFence = s.faults.toFence) ∧
      (∀ d pd, conn = .plinth d pd → (∀ i, i < 4 → i ≠ m.val → (conn, i) ∈ s.faults.down) →
        s.goneUnit (uid d.val 0xFF) = false → (uid d.val 0xFF, 0x07, m.val, 0) ∈ t.faults.toFence)) ∧
  (s.awake = false ∨ connModules conn ≤ m.val ∨ (conn, m.val) ∈ s.faults.down → Unchanged (.ucieModuleDown conn m) s)

/-- What a detector's report counts, which units it marks, and when it has a unit fenced. On a running die that is
not fenced: a corrected SRAM word is counted and logged and marks no unit; a residue mismatch in a core's vector
engine is counted, sets CHECK in the staged units of the contexts bound to the core, and the second within 1,024
strokes has the core fenced; a lockstep mismatch is counted, sets LOCKSTEP in the staged units of the contexts
bound to the die and has the controller fenced at once. Memory and cores stay. A report from a fenced die
changes nothing. -/
def Obligations.FindingsReported : Prop :=
∀ (s : State) (unit : UnitNo) (core : CoreNo) (addr : Addr) (ctl : Fin 4) (f : Finding),
  (s.awake = true → s.isFenced (unitOf unit) 0xFF = false →
    (∃ t, exec (.faultReport unit (.sram core addr true)) s = .next t ∧ t.units = s.units ∧ t.mem = s.mem ∧
      t.cores = s.cores ∧ t.faults = s.faults ∧
      t.get (Base.errors (unitOf unit)) Reg.sramCorrected =
        min (s.get (Base.errors (unitOf unit)) Reg.sramCorrected + 1) (2 ^ Reg.sramCorrected.w - 1) ∧
      t.get (Base.errors (unitOf unit)) Reg.errTotal =
        min (s.get (Base.errors (unitOf unit)) Reg.errTotal + 1) (2 ^ Reg.errTotal.w - 1)) ∧
    (unitOf unit < 8 → s.isFenced (unitOf unit) core.val = false →
      ∃ t, exec (.faultReport unit (.residueCore core)) s = .next t ∧
        t.units = (s.addReason (s.boundCtxs (uid (unitOf unit) core.val)) Reason.check).units ∧
        t.get (Base.errors (unitOf unit)) Reg.errResidue =
          min (s.get (Base.errors (unitOf unit)) Reg.errResidue + 1) (2 ^ Reg.errResidue.w - 1) ∧
        (s.triggers 3 (uid (unitOf unit) core.val) = [] → t.faults.toFence = s.faults.toFence) ∧
        (s.triggers 3 (uid (unitOf unit) core.val) ≠ [] → s.goneUnit (uid (unitOf unit) core.val) = false →
          (uid (unitOf unit) core.val, 0x04, core.val, 0) ∈ t.faults.toFence) ∧
        t.mem = s.mem ∧ t.cores = s.cores) ∧
    (s.isFenced (unitOf unit) ((if unitOf unit < 8 then 0x30 else 0x40) + ctl.val) = false →
      s.goneUnit (uid (unitOf unit) ((if unitOf unit < 8 then 0x30 else 0x40) + ctl.val)) = false →
      ∃ t, exec (.faultReport unit (.lockstep ctl)) s = .next t ∧
        t.units = (s.addReason (s.boundCtxs (uid (unitOf unit) 0xFF)) Reason.lockstep).units ∧
        (uid (unitOf unit) ((if unitOf unit < 8 then 0x30 else 0x40) + ctl.val), 0x05, ctl.val, 0) ∈ t.faults.toFence ∧
        t.mem = s.mem ∧ t.cores = s.cores)) ∧
  (s.awake = false ∨ s.isFenced (unitOf unit) 0xFF = true → Unchanged (.faultReport unit f) s)

/-- At the budget end a running block overruns once; one that has overrun is aborted. On a serving device with one
core that holds anything and no engine record: a block that runs at the budget end for the first time is marked,
SEQ_STATE is 3, the overrun is counted and noted for its block (R70), the device lags in the stroke to come and
the stroke after it is named as a slip stroke; a block that overran before is aborted: no block, SEQ_STATE 4,
the abort counted. Memory stays. A device whose timer does not run, that does not serve or whose budget end has
come in this stroke already changes nothing. -/
def Obligations.BudgetEndOverrun : Prop :=
∀ (s : State) (d c : Nat) (k : Core) (b : BlockRun),
  (s.strokes.running = true → s.serving = true → s.strokes.ended = false → d < 8 → c < 48 →
    s.cores = [(48 * d + c, k)] → k.block = some b → s.engines = [] → s.coreUp d c = true →
    (b.overran = false → ∃ t, exec .budgetEnd s = .next t ∧
      (t.core d c).block = some { b with overran := true } ∧ t.get (Base.core d c) Reg.seqState = 3 ∧
      t.get (Base.armature d) Reg.overrunCount =
        min (s.get (Base.armature d) Reg.overrunCount + 1) (2 ^ Reg.overrunCount.w - 1) ∧
      t.strokes.overran = true ∧ t.strokes.ended = true ∧
      t.strokes.overruns = s.strokes.overruns ++ [(d, c, b.base, s.stroke)] ∧
      ((s.stroke + 1) ∉ s.strokes.slips → (s.stroke + 2) ∈ t.strokes.slips) ∧ t.mem = s.mem ∧ t.devState = s.devState) ∧
    (b.overran = true → ∃ t, exec .budgetEnd s = .next t ∧ (t.core d c).block = none ∧
      t.get (Base.core d c) Reg.seqState = 4 ∧
      t.get (Base.armature d) Reg.abortCount =
        min (s.get (Base.armature d) Reg.abortCount + 1) (2 ^ Reg.abortCount.w - 1) ∧
      t.strokes = { s.strokes with ended := true } ∧ t.units = (s.workReason b.ctx b.kind b.seq Reason.overrun).units ∧ t.mem = s.mem)) ∧
  (s.strokes.running = false ∨ s.serving = false ∨ s.strokes.ended = true → Unchanged .budgetEnd s)

/-- The release of RESET_N: where start-up fails, with which cause, and where it stands before the links train. From
RESET: a provenance die whose signature or seed fails gives FAILED with cause 1, a bad unit map 2, no good image
slot 3, a bad fabric map 4, a stroke shorter than four flood times 6, and no usable DDR channel 7; clocks
outside the limits of R518 stop the model, since the spec gives no effect there. With a good image, a usable
channel and no failing known-answer test the device is in SELFTEST at BOOT_STAGE 4 with that image and its
device number. A device in any other state, but in OFF with its rails good and RESET_N held, only sees its
contact released (with no EXTEST in force). That clocks outside R518 stop the model is its own choice (log entry
7), and so are the causes of steps that Table 15.10 does not list (log entry 116). -/
def Obligations.StartUpSequence : Prop :=
∀ (s : State) (found : SelfTest),
  (s.devState = Dev.reset →
    (provOk s.boot.rootKey s.boot.prov = false → ∃ t, exec (.resetRelease found) s = .next t ∧ t.devState = Dev.failed ∧
      t.get Base.boot Reg.failCause = 1 ∧ t.get Base.boot Reg.bootStage = 0xFF ∧ t.pins.resetN = false) ∧
    (provOk s.boot.rootKey s.boot.prov = true → provMapOk s.boot.prov = false → ∃ t, exec (.resetRelease found) s = .next t ∧
      t.devState = Dev.failed ∧ t.get Base.boot Reg.failCause = 2) ∧
    (provOk s.boot.rootKey s.boot.prov = true → provMapOk s.boot.prov = true → flashChoose s.boot.rootKey s.boot.flash = none →
      ∃ t, exec (.resetRelease found) s = .next t ∧ t.devState = Dev.failed ∧ t.get Base.boot Reg.failCause = 3) ∧
    (∀ slot fb im, provOk s.boot.rootKey s.boot.prov = true → provMapOk s.boot.prov = true →
      flashChoose s.boot.rootKey s.boot.flash = some (slot, fb) → imageOf (flashSlot s.boot.flash slot) = im →
      (fabricOk im.devNum im.fabric = false → ∃ t, exec (.resetRelease found) s = .next t ∧
        t.devState = Dev.failed ∧ t.get Base.boot Reg.failCause = 4) ∧
      (fabricOk im.devNum im.fabric = true → imgClocksInLimits im = false →
        exec (.resetRelease found) s = .fault .clockLimits) ∧
      (fabricOk im.devNum im.fabric = true → imgClocksInLimits im = true →
        (im.strokeUs * 1000 < 4 * floodTime (fabricHops im.fabric) (fabricFlight im.fabric) →
          ∃ t, exec (.resetRelease found) s = .next t ∧ t.devState = Dev.failed ∧
            t.get Base.boot Reg.failCause = 6 ∧ t.boot.image = some im) ∧
        (4 * floodTime (fabricHops im.fabric) (fabricFlight im.fabric) ≤ im.strokeUs * 1000 →
          ((∀ c, c < 32 → s.get (Base.ddr c) Reg.ddrState ≠ 2 ∧ s.ddrUsable im found.ddrFail.toNat c = false) →
            ∃ t, exec (.resetRelease found) s = .next t ∧ t.devState = Dev.failed ∧
              t.get Base.boot Reg.failCause = 7) ∧
          ((∃ c, c < 32 ∧ s.ddrUsable im found.ddrFail.toNat c = true) → found.katFail = [] →
            s.faults.toFence = [] →
            ∃ t, exec (.resetRelease found) s = .next t ∧ t.devState = Dev.selftest ∧
              t.get Base.boot Reg.bootStage = 4 ∧ t.boot.image = some im ∧ t.myNum = im.devNum % 4096 ∧
              t.pins.resetN = false ∧ t.pending = s.pending))))) ∧
  (s.devState ≠ Dev.reset → (s.devState ≠ Dev.off ∨ s.pins.railsOk = false ∨ s.pins.resetN = false) → s.pins.jtag ≠ .extest →
    exec (.resetRelease found) s = .next { s with pins := { s.pins with resetN := false, driven := false } })

/-- The host link comes up at the width its lanes allow; the end of peer-link training starts the stroke timer.
UMAJO_LINK_UP in training brings the link up fresh (sequence numbers 0, full credits, nothing to replay) and
shows the adapter; after a retraining it keeps the flits and sends them again, and with no whole lane group then
the link goes down and the device fails (R457); with none while it trains at start-up, or in any other state of
the link, it changes nothing. LINK_TRAINING_END in SELFTEST of a device whose map lists no link in training and
none to it starts the timer with this device as its own master; a link whose far end is not the one that the map
names, or whose map differs, gives FAILED with cause 5; elsewhere, or with the timer running, it changes
nothing. -/
def Obligations.LinksComeUp : Prop :=
∀ (s : State) (lanes : BitVec 16) (adapter : W32) (found : List LinkTrain) (l : LinkNo) (x : LinkTrain),
  (umWidthOf lanes.toNat ≠ 0 → s.get Base.umajo Reg.umState = 1 →
    ∃ t, exec (.umajoLinkUp lanes adapter) s = .next t ∧ t.get Base.umajo Reg.umState = 2 ∧
      t.get Base.umajo Reg.umWidth = umWidthOf lanes.toNat % 2 ^ Reg.umWidth.w ∧
      t.get Base.umajo Reg.umLaneOk = lanes.toNat ∧ t.get Base.umajo Reg.adapterId = adapter.toNat % 2 ^ 16 ∧
      t.um.fseq = 0 ∧ t.um.expect = 0 ∧ t.um.replay = [] ∧ t.um.credits = [1024, 256, 1024] ∧
      t.um.slots = s.um.slots ∧ t.um.regions = s.um.regions ∧
      OnlyFields s t [(Base.umajo, Reg.umState, 0), (Base.umajo, Reg.umWidth, 0), (Base.umajo, Reg.umLaneOk, 0),
        (Base.umajo, Reg.adapterId, 0)] ∧ SameRest { s with um := t.um } t) ∧
  (umWidthOf lanes.toNat ≠ 0 → s.get Base.umajo Reg.umState = 3 →
    ∃ t, exec (.umajoLinkUp lanes adapter) s = .next t ∧ t.get Base.umajo Reg.umState = 2 ∧
      t.um = { s.um with resend := s.um.replay } ∧ SameRest { s with um := t.um } t) ∧
  (umWidthOf lanes.toNat = 0 → s.get Base.umajo Reg.umState = 3 →
    ∃ t, exec (.umajoLinkUp lanes adapter) s = .next t ∧ t.devState = Dev.failed ∧ t.get Base.umajo Reg.umState = 0) ∧
  (s.get Base.umajo Reg.umState ≠ 3 → (umWidthOf lanes.toNat = 0 ∨ s.get Base.umajo Reg.umState ≠ 1) →
    Unchanged (.umajoLinkUp lanes adapter) s) ∧
  (s.devState = Dev.selftest → s.strokes.running = false →
    ((∀ i, i < 24 → s.get (Base.peerLink i) Reg.linkState ≠ 1 ∧ lwListed (linkWord s.fabric s.myNum i) = false) →
      ∃ t, exec (.linkTrainingEnd found) s = .next t ∧ t.strokes.running = true ∧ t.devState = Dev.selftest ∧
        t.strokes.source = some s.myNum ∧ t.get Base.device Reg.masterNum = s.myNum ∧
        t.get Base.device Reg.isMaster = 1 ∧ t.get (Base.armature 0x10) Reg.parentLink = 0x1F ∧ t.get (Base.armature 0x11) Reg.parentLink = 0x1F ∧ t.mem = s.mem) ∧
    ((found.find? fun t => t.link.val == l.val) = some x → s.get (Base.peerLink l.val) Reg.linkState = 1 →
      (∀ i, i < 24 → i ≠ l.val → s.get (Base.peerLink i) Reg.linkState ≠ 1) → x.ok = true →
      linkWidthOf (x.lanes.toNat &&& (255 ^^^ provLaneOff s.boot.prov (l.val / 12) (l.val % 12))) ≠ 0 →
      x.peerDev.toNat ≠ lwPeer (linkWord s.fabric s.myNum l.val) →
      ∃ t, exec (.linkTrainingEnd found) s = .next t ∧ t.devState = Dev.failed ∧
        t.get Base.boot Reg.failCause = 5 ∧ t.strokes.running = false)) ∧
  (s.devState ≠ Dev.selftest ∨ s.strokes.running = true → Unchanged (.linkTrainingEnd found) s)

/-- Slot entries queue up to 32, are discarded once their slot has passed, and start a block in their slot. A push
to a core of a die in service appends the three latched words and its own, shows the depth, and makes a READY
device RUNNING (log entry 28); with 32 entries it is DENIED and on a fenced die QUARANTINED, and nothing else
changes. In a stroke that runs slots, an idle core whose head entry is for a later slot keeps it; one whose slot
has passed is discarded and counted in MISSED_SLOTS; in its slot the block starts: its context, kind, sequence
and slot are those of the entry, it stands at the word after the header, P1 to P4 are the entry's and the other
parameters 0. -/
def Obligations.SlotEntries : Prop :=
∀ (s : State) (die : DieNo) (core : CoreNo) (w3 : Word) (e : List Word) (rest : List (List Word)),
  (s.awake = true → s.isFenced die.val 0xFF = true → exec (.slotPush die core w3) s = .next (s.reply Status.quarantined)) ∧
  (s.awake = true → s.isFenced die.val 0xFF = false → 32 ≤ (s.core die.val core.val).queue.length →
    exec (.slotPush die core w3) s = .next (s.reply Status.denied)) ∧
  (s.awake = true → s.isFenced die.val 0xFF = false → (s.core die.val core.val).queue.length < 32 →
    ∃ t, exec (.slotPush die core w3) s = .next t ∧
      t.core die.val core.val = { s.core die.val core.val with queue := (s.core die.val core.val).queue ++
        [(List.range 3).map (fun i => cget (fun _ => 0) (s.core die.val core.val).latch i) ++ [w3]] } ∧
      t.get (Base.core die.val core.val) Reg.slotDepth = (s.core die.val core.val).queue.length + 1 ∧
      t.devState = (if s.devState = Dev.ready then Dev.running else s.devState) ∧ t.answer = ⟨0, 0, []⟩ ∧
      t.mem = s.mem ∧ t.units = s.units) ∧
  (s.awake = false → Unchanged (.slotPush die core w3) s) ∧
  (s.runsSlots = true → s.coreUp die.val core.val = true → (s.core die.val core.val).block = none →
    (s.core die.val core.val).compared ≠ s.stroke + 1 → (s.core die.val core.val).queue = e :: rest →
    (∀ diff, (bits (e.getD 0 0) 63 48 + 65536 - s.sched % 65536) % 65536 = diff →
      (0 < diff → diff < 32768 → ∃ t, exec (.slotStart die core) s = .next t ∧
        t.core die.val core.val = { s.core die.val core.val with compared := s.stroke + 1 } ∧ t.regs = s.regs ∧
        t.mem = s.mem) ∧
      (32768 ≤ diff → rest = [] → ∃ t, exec (.slotStart die core) s = .next t ∧
        t.core die.val core.val = { s.core die.val core.val with compared := s.stroke + 1, queue := [] } ∧
        t.get (Base.core die.val core.val) Reg.missedSlots =
          min (s.get (Base.core die.val core.val) Reg.missedSlots + 1) 255 ∧
        t.units = (s.workReason (bits (e.getD 0 0) 47 44) (bits (e.getD 0 0) 41 40) (bits (e.getD 1 0) 63 32)
          Reason.missing).units ∧ t.mem = s.mem) ∧
      (diff = 0 → ∀ head, s.fetch die.val core.val (bits (e.getD 0 0) 39 28) = head → bits head 63 58 = 0x01 →
        bits head 57 56 = 0 → bits head 39 36 = bits (e.getD 0 0) 47 44 →
        bits head 31 16 ≤ s.get Base.device Reg.budget →
        ∃ t b, exec (.slotStart die core) s = .next t ∧ (t.core die.val core.val).block = some b ∧
          (t.core die.val core.val).queue = rest ∧ b.ctx = bits (e.getD 0 0) 47 44 ∧
          b.kind = bits (e.getD 0 0) 41 40 ∧ b.seq = bits (e.getD 1 0) 63 32 ∧ b.slot = bits (e.getD 0 0) 63 48 ∧
          b.pc = bits (e.getD 0 0) 39 28 + 1 ∧ b.len = bits head 12 0 ∧ b.loops = [] ∧ b.ended = false ∧
          t.get (Base.core die.val core.val) Reg.seqState = 1 ∧
          t.get (Base.core die.val core.val) Reg.param 1 = bits (e.getD 2 0) 31 0 ∧
          t.get (Base.core die.val core.val) Reg.param 4 = bits (e.getD 3 0) 63 32 ∧
          t.get (Base.core die.val core.val) Reg.param 5 = 0 ∧ t.mem = s.mem ∧ t.units = s.units))) ∧
  (s.runsSlots = false ∨ (s.core die.val core.val).block ≠ none → Unchanged (.slotStart die core) s)

/-- END, LOOP, SETP and ADDP. END outside a loop ends the block's issue one cycle after the last issue, and arrays
whose command has run show no mode. LOOP with a count and a body within the block, and within the loop around
it, opens its body at the next word without issuing. SETP puts its value into P1–P7 and ADDP adds it modulo
2^32; both issue, and change no other parameter. Memory and the seal units stay in each case. -/
def Obligations.EndLoopAndParameters : Prop :=
∀ (s : State) (die : DieNo) (core : CoreNo) (b : BlockRun) (ws : List Word),
  ((s.core die.val core.val).block = some b → b.ended = false → s.coreUp die.val core.val = true → b.loops = [] →
    bits (s.fetch die.val core.val b.pc) 63 58 = 0x02 → bits (s.fetch die.val core.val b.pc) 57 56 = 0 →
    b.pc ≤ b.base + b.len - 1 →
    ∃ t, exec (.endBlock die core) s = .next t ∧
      (t.core die.val core.val).block = some { b with ended := true, last := b.last + 1, done := max b.done (b.last + 1), pc := b.pc + 1 } ∧
      OnlyFields s t ([(Base.core die.val core.val, Reg.seqPc, 0), (Base.core die.val core.val, Reg.seqState, 0)] ++
        (List.range 8).map fun a => (Base.core die.val core.val, Reg.arrMode, a)) ∧
      SameButCores s t) ∧
  (AtCommand s die.val core.val 0x03 0 b ws → bits (ws.getD 0 0) 39 28 ≠ 0 → bits (ws.getD 0 0) 27 16 ≠ 0 →
    b.loops.length < 4 → b.pc + 1 + bits (ws.getD 0 0) 27 16 ≤ b.base + b.len - 1 →
    (∀ f, b.loops.head? = some f → b.pc + 1 + bits (ws.getD 0 0) 27 16 ≤ f.stop) →
    s.bodyBad die.val core.val (b.pc + 1 + bits (ws.getD 0 0) 27 16) 4096 (b.pc + 1) = false →
    ∃ t, exec (.loop die core) s = .next t ∧
      (t.core die.val core.val).block = some { b with pc := b.pc + 1, loops :=
        { start := b.pc + 1, stop := b.pc + 1 + bits (ws.getD 0 0) 27 16, count := bits (ws.getD 0 0) 39 28, iter := 0,
          stride := bits (ws.getD 0 0) 15 0 } :: b.loops } ∧
      OnlyFields s t [(Base.core die.val core.val, Reg.seqPc, 0)] ∧ SameButCores s t) ∧
  (AtCommand s die.val core.val 0x04 0 b ws → bits (ws.getD 0 0) 39 37 ≠ 0 →
    ∃ t, exec (.setp die core) s = .next t ∧ Issued s t die.val core.val 0 0 b (ws.getD 0 0) ∧
      t.param die.val core.val (bits (ws.getD 0 0) 39 37) = bits (ws.getD 0 0) 31 0 ∧
      (∀ n, n < 8 → n ≠ bits (ws.getD 0 0) 39 37 → t.param die.val core.val n = s.param die.val core.val n) ∧
      SameButCores s t) ∧
  (AtCommand s die.val core.val 0x05 0 b ws → bits (ws.getD 0 0) 39 37 ≠ 0 →
    ∃ t, exec (.addp die core) s = .next t ∧ Issued s t die.val core.val 0 0 b (ws.getD 0 0) ∧
      t.param die.val core.val (bits (ws.getD 0 0) 39 37) =
        (s.param die.val core.val (bits (ws.getD 0 0) 39 37) + bits (ws.getD 0 0) 31 0) % 2 ^ 32 ∧
      (∀ n, n < 8 → n ≠ bits (ws.getD 0 0) 39 37 → t.param die.val core.val n = s.param die.val core.val n) ∧
      SameButCores s t)

/-- WAIT, SIGNAL, and what writes and increments an event counter. A WAIT whose counter has reached VALUE issues
and, with DEC, takes VALUE off it; one that has not shows that the sequencer waits and stays where it is. A
SIGNAL issues and sends its increment to the core it names (0x3F: its own), or to a fenced core sets GONE in the
block's unit. An increment on its way arrives once, is added, and holds at 0xFF_FFFF; one that is not on its way
changes nothing. A controller's write sets the counter. No memory and no other counter changes. -/
def Obligations.WaitsAndSignals : Prop :=
∀ (s : State) (die : DieNo) (core : CoreNo) (b : BlockRun) (ws : List Word) (cycle : Half) (ec : BitVec 4)
    (inc value : BitVec 24),
  (AtCommand s die.val core.val 0x06 0 b ws → ∀ n v, bits (ws.getD 0 0) 39 36 = n → bits (ws.getD 0 0) 23 0 = v →
    (v ≤ s.get (Base.core die.val core.val) Reg.evc n →
      ∃ t, exec (.wait die core cycle) s = .next t ∧ Issued s t die.val core.val 0 cycle.toNat b (ws.getD 0 0) ∧
        t.get (Base.core die.val core.val) Reg.evc n = s.get (Base.core die.val core.val) Reg.evc n -
          (if bit (ws.getD 0 0) 35 then v else 0) ∧
        (∀ m, m < 16 → m ≠ n → t.get (Base.core die.val core.val) Reg.evc m = s.get (Base.core die.val core.val) Reg.evc m) ∧
        SameButCores s t) ∧
    (s.get (Base.core die.val core.val) Reg.evc n < v → b.overran = false →
      exec (.wait die core cycle) s = .next (s.put (Base.core die.val core.val) Reg.seqState 2))) ∧
  (AtCommand s die.val core.val 0x07 0 b ws → ∀ c, bits (ws.getD 0 0) 35 30 = c → (c < 0x30 ∨ c = 0x3F) →
    ∃ t, exec (.signal die core) s = .next t ∧ Issued s t die.val core.val 0 0 b (ws.getD 0 0) ∧
      (s.coreUp die.val (if c = 0x3F then core.val else c) = true → t.signals = s.signals ++
        [{ die := die.val, core := if c = 0x3F then core.val else c, ec := bits (ws.getD 0 0) 39 36,
           inc := bits (ws.getD 0 0) 23 0 }] ∧ t.units = s.units) ∧
      (s.coreUp die.val (if c = 0x3F then core.val else c) = false → t.signals = s.signals ∧
        t.units = (s.workReason b.ctx b.kind b.seq Reason.gone).units) ∧ t.mem = s.mem) ∧
  (∀ g : Signal, g = { die := die.val, core := core.val, ec := ec.toNat, inc := inc.toNat } →
    (g ∈ s.signals → s.coreUp die.val core.val = true → ∃ t, exec (.signalArrive die core ec inc) s = .next t ∧
      t.signals = s.signals.erase g ∧
      t.get (Base.core die.val core.val) Reg.evc ec.toNat =
        min (s.get (Base.core die.val core.val) Reg.evc ec.toNat + inc.toNat) (2 ^ 24 - 1) ∧
      OnlyFields s t [(Base.core die.val core.val, Reg.evc, ec.toNat), (Base.core die.val core.val, Reg.evcSat, 0)] ∧
      SameRest { s with signals := t.signals } t) ∧
    (g ∉ s.signals → Unchanged (.signalArrive die core ec inc) s)) ∧
  (s.awake = true → s.isFenced die.val 0xFF = false → ∃ t, exec (.evcWrite die core ec value) s = .next t ∧
    t.get (Base.core die.val core.val) Reg.evc ec.toNat = value.toNat ∧ t.answer = ⟨0, 0, []⟩ ∧
    OnlyFields s t [(Base.core die.val core.val, Reg.evc, ec.toNat)] ∧ SameRest { s with answer := t.answer } t) ∧
  (s.awake = true → s.isFenced die.val 0xFF = true →
    exec (.evcWrite die core ec value) s = .next (s.reply Status.quarantined))

/-- A word that is no command aborts the block whatever was to run, with cause 0x1. With a block running on a core
in service and the sequencer at a word whose opcode is reserved (0x00, 0x01 outside a header, 0x0F to 0x3F),
each sequencer command ends in the same state: the malformed count is one higher, LAST_CAUSE is 0x1 and LAST_PC
the word's, the block is aborted (no block, SEQ_STATE 4) and memory stays. With no block, or one that has ended,
each changes nothing. -/
def Obligations.MalformedCommands : Prop :=
∀ (s : State) (die : DieNo) (core : CoreNo) (b : BlockRun) (cycle : Half),
  ((s.core die.val core.val).block = some b → b.ended = false → s.coreUp die.val core.val = true →
    (bits (s.fetch die.val core.val b.pc) 63 58 < 0x02 ∨ 0x0E < bits (s.fetch die.val core.val b.pc) 63 58) →
    ∃ t, (t.core die.val core.val).block = none ∧ t.get (Base.core die.val core.val) Reg.seqState = 4 ∧
      t.get (Base.core die.val core.val) Reg.malformed =
        min (s.get (Base.core die.val core.val) Reg.malformed + 1) (2 ^ Reg.malformed.w - 1) ∧
      t.get (Base.core die.val core.val) Reg.lastCause = 1 ∧
      t.get (Base.core die.val core.val) Reg.lastPc = b.pc % 4096 ∧
      t.units = (s.workReason b.ctx b.kind b.seq Reason.overrun).units ∧ t.mem = s.mem ∧
      exec (.endBlock die core) s = .next t ∧ exec (.loop die core) s = .next t ∧ exec (.setp die core) s = .next t ∧
      exec (.addp die core) s = .next t ∧ exec (.wait die core cycle) s = .next t ∧
      exec (.signal die core) s = .next t ∧ exec (.matmul die core) s = .next t ∧ exec (.vec die core) s = .next t ∧
      exec (.dmaStart die core cycle) s = .next t ∧ exec (.dmaStop die core) s = .next t ∧
      exec (.coll die core cycle) s = .next t ∧ exec (.lookup die core) s = .next t ∧
      exec (.appendSet die core) s = .next t) ∧
  ((s.core die.val core.val).block = none ∨ ((s.core die.val core.val).block = some b ∧ b.ended = true) →
    Unchanged (.endBlock die core) s ∧ Unchanged (.loop die core) s ∧ Unchanged (.setp die core) s ∧
    Unchanged (.addp die core) s ∧ Unchanged (.wait die core cycle) s ∧ Unchanged (.signal die core) s ∧
    Unchanged (.matmul die core) s ∧ Unchanged (.vec die core) s ∧ Unchanged (.dmaStart die core cycle) s ∧
    Unchanged (.dmaStop die core) s ∧ Unchanged (.coll die core cycle) s ∧ Unchanged (.lookup die core) s ∧
    Unchanged (.appendSet die core) s)

/-- DMA_START, DMA_STOP, the end of a block and a carried program's deadline. DMA_START on an idle (or stopped)
channel issues, and the channel runs from the descriptor at its place with its base and CARRY; on a busy channel
SEQ_STATE shows that it waits (that a channel stopped on an error starts like an idle one is the model's: log
entry 182). DMA_STOP issues, and a running channel with no request outstanding is idle with no MOVE left. A
block whose END has issued, with every channel that it waits for idle and none of its collectives in flight,
completes: no block, SEQ_STATE 0, one more block and its last cycle. Once the budget end of the last slot of its
span has come, a carried program with nothing outstanding is stopped and its unit takes OVERRUN; before that, or
where the channel is idle or not carried, nothing changes. -/
def Obligations.ProgramsAndBlockEnd : Prop :=
∀ (s : State) (die : DieNo) (core : CoreNo) (b : BlockRun) (ws : List Word) (cycle : Half) (ch : Fin 4),
  (AtCommand s die.val core.val 0x0A 0 b ws → bits (ws.getD 0 0) 39 38 = ch.val →
    ∀ off, s.effOff die.val core.val (bits (ws.getD 0 0) 36 34) (bits (ws.getD 0 0) 19 0) 8 = off →
    s.offOk die.val core.val off 8 8 = true →
    (s.chSt die.val core.val ch.val = 0 ∨ s.chSt die.val core.val ch.val = 4 →
      ∃ t, exec (.dmaStart die core cycle) s = .next t ∧
        Issued s t die.val core.val 0 cycle.toNat b (ws.getD 0 0) ∧ t.chSt die.val core.val ch.val = 1 ∧
        t.chan die.val core.val ch.val = { Chan.idle with ctx := b.ctx, kind := b.kind, seq := b.seq, start := b.pc, began := b.began + 1 } ∧
        t.get (Base.core die.val core.val) Reg.chPc ch.val = off / 8 % 2 ^ 20 ∧
        t.get (Base.core die.val core.val) Reg.chCarry ch.val = b2n (bit (ws.getD 0 0) 37) ∧ SameButCores s t) ∧
    (s.chSt die.val core.val ch.val ≠ 0 → s.chSt die.val core.val ch.val ≠ 4 → b.overran = false →
      exec (.dmaStart die core cycle) s = .next (s.put (Base.core die.val core.val) Reg.seqState 2))) ∧
  (AtCommand s die.val core.val 0x0B 0 b ws → bits (ws.getD 0 0) 39 38 = ch.val →
    ∃ t, exec (.dmaStop die core) s = .next t ∧ Issued s t die.val core.val 0 0 b (ws.getD 0 0) ∧ SameButCores s t ∧
      ((s.chSt die.val core.val ch.val = 1 ∨ s.chSt die.val core.val ch.val = 2) →
        ((s.chan die.val core.val ch.val).moves.any fun m => m.reqs.any fun r => r.how == 0) = false →
        t.chSt die.val core.val ch.val = 0 ∧ (t.chan die.val core.val ch.val).moves = []) ∧
      ((s.chSt die.val core.val ch.val = 1 ∨ s.chSt die.val core.val ch.val = 2) →
        ((s.chan die.val core.val ch.val).moves.any fun m => m.reqs.any fun r => r.how == 0) = true →
        t.chSt die.val core.val ch.val = 3)) ∧
  ((s.core die.val core.val).block = some b → b.ended = true → s.blockDone die.val core.val b = true →
    ∃ t, exec (.blockComplete die core cycle) s = .next t ∧ (t.core die.val core.val).block = none ∧
      t.get (Base.core die.val core.val) Reg.seqState = 0 ∧
      t.get (Base.core die.val core.val) Reg.blocks =
        min (s.get (Base.core die.val core.val) Reg.blocks + 1) (2 ^ 32 - 1) ∧
      t.get (Base.core die.val core.val) Reg.lastEnd = lastEndOf b cycle.toNat % 2 ^ Reg.lastEnd.w ∧
      (∀ a, a < 8 → (t.arr die.val core.val a).target = none) ∧ t.mem = s.mem ∧ t.units = s.units) ∧
  ((s.core die.val core.val).block = none ∨ ((s.core die.val core.val).block = some b ∧ (b.ended = false ∨ s.blockDone die.val core.val b = false)) →
    Unchanged (.blockComplete die core cycle) s) ∧
  ((s.chSt die.val core.val ch.val = 1 ∨ s.chSt die.val core.val ch.val = 2) →
    s.get (Base.core die.val core.val) Reg.chCarry ch.val = 1 →
    s.spanOver (s.chan die.val core.val ch.val) = true →
    ((s.chan die.val core.val ch.val).moves.any fun m => m.reqs.any fun r => r.how == 0) = false →
    ∃ t, exec (.carryDeadline die core ch) s = .next t ∧ t.chSt die.val core.val ch.val = 0 ∧
      t.units = (s.workReason (s.chan die.val core.val ch.val).ctx (s.chan die.val core.val ch.val).kind
        (s.chan die.val core.val ch.val).seq Reason.overrun).units ∧ t.mem = s.mem) ∧
  ((s.chSt die.val core.val ch.val ≠ 1 ∧ s.chSt die.val core.val ch.val ≠ 2) ∨
    s.get (Base.core die.val core.val) Reg.chCarry ch.val = 0 ∨ s.spanOver (s.chan die.val core.val ch.val) = false → Unchanged (.carryDeadline die core ch) s)

/-- COLL of a core alone in its group has its result at once; a tag in use makes it wait; a reserved operation ends
DENIED. A well-formed COLL (or barrier) of a core whose group is this device alone, on a device that is not
HALTED, with no collective in flight and its four source words clean, issues, stores those words at its
destination, adds 1 to its event counter (which stops at 2^24 - 1), completes with OK and leaves no collective
behind. While a collective of a core with its tag is in flight, or the device is HALTED, the sequencer shows
that it waits and nothing else changes. One with a reserved operation issues and completes with DENIED and
contributes nothing (that it issues is the model's reading: log 42). -/
def Obligations.TinyCollectiveCommand : Prop :=
∀ (s : State) (die : DieNo) (core : CoreNo) (b : BlockRun) (ws : List Word) (cycle : Half) (src dst : Nat),
  AtCommand s die.val core.val 0x0C 1 b ws →
  s.effOff die.val core.val (bits (ws.getD 1 0) 63 61) (bits (ws.getD 1 0) 60 43) 32 = src →
  s.effOff die.val core.val (bits (ws.getD 1 0) 42 40) (bits (ws.getD 1 0) 39 22) 32 = dst →
  s.offOk die.val core.val src 32 32 = true → s.offOk die.val core.val dst 32 32 = true →
  (bit (ws.getD 0 0) 27 = true → bits (ws.getD 0 0) 15 0 = 7) →
  ((∀ i, i < 4 → bits (ws.getD 0 0) 15 0 / 16 ^ i % 16 ≤ 9) → s.devState ≠ Dev.halted → s.arm.colls = [] → s.nextDim (s.collGroup die.val core.val (bits (ws.getD 0 0) 29 28)) 0 = 4 →
    (∀ i, i < 4 → (s.load (scratchAddr die.val core.val (src + 8 * i))).1.ecc = .clean) →
    ∃ t, exec (.coll die core cycle) s = .next t ∧ Issued s t die.val core.val 1 cycle.toNat b (ws.getD 0 0) ∧
      t.mem = (s.stores (scratchAddr die.val core.val dst)
        ((s.loads (scratchAddr die.val core.val src) 4).1.map fun w => fresh w.d)).mem ∧
      t.get (Base.core die.val core.val) Reg.evc (bits (ws.getD 0 0) 33 30) =
        min (s.get (Base.core die.val core.val) Reg.evc (bits (ws.getD 0 0) 33 30) + 1) (2 ^ 24 - 1) ∧
      cget (fun _ => 0) t.arm.collDone (bits (ws.getD 0 0) 39 34) = Status.ok ∧
      t.arm.colls = [] ∧ t.units = s.units) ∧
  ((∃ k, s.findColl 0x09 (bits (ws.getD 0 0) 39 34) = some k ∧ k.posted = true) ∨ s.devState = Dev.halted →
    b.overran = false →
    exec (.coll die core cycle) s = .next (s.put (Base.core die.val core.val) Reg.seqState 2)) ∧
  (s.devState ≠ Dev.halted → s.findColl 0x09 (bits (ws.getD 0 0) 39 34) = none →
    (∃ i, i < 4 ∧ 9 < bits (ws.getD 0 0) 15 0 / 16 ^ i % 16) →
    ∃ t, exec (.coll die core cycle) s = .next t ∧ Issued s t die.val core.val 1 cycle.toNat b (ws.getD 0 0) ∧
      cget (fun _ => 0) t.arm.collDone (bits (ws.getD 0 0) 39 34) = Status.denied ∧
      t.arm.colls = s.arm.colls ∧ t.mem = s.mem ∧ t.units = s.units)

/-- LOOKUP writes one record a page; APPEND_SET names an array's target; the append drain writes a row into its
page. A LOOKUP of one page that the map does not hold issues, writes a record with status NOT_RESIDENT and
nothing else in it, counts one lookup and one page not resident, and adds 1 to its event counter. APPEND_SET
issues and gives the array its layer, head, key or value, column and row table. APPEND_ROW of the array that the
core's oldest row comes from takes that row: one beyond its table, or whose position's page is not there for it,
is counted as a miss and sets MISSING in its unit, and memory stays; one whose page is there and keeps no
summary is written at its place in the page and counted. A core out of service drops its row and writes nothing.
With no row, or an oldest row of another array, it changes nothing. -/
def Obligations.PageMapCommands : Prop :=
∀ (s : State) (die : DieNo) (core : CoreNo) (b : BlockRun) (ws : List Word) (r : AppRow)
    (rest : List AppRow) (arr : Fin 8),
  (AtCommand s die.val core.val 0x0D 1 b ws → pmSub ws = 0 → pmN ws = 1 →
    s.offOk die.val core.val (s.pmOff die.val core.val ws) 32 32 = true →
    s.pageProbe die.val b.ctx (bits (ws.getD 1 0) 63 32)
      (pageOrd (s.pageCfg die.val b.ctx).top (bits (ws.getD 0 0) 23 0)) = none →
    ∃ t, exec (.lookup die core) s = .next t ∧ Issued s t die.val core.val 1 0 b (ws.getD 0 0) ∧
      t.mem = (s.stores (scratchAddr die.val core.val (s.pmOff die.val core.val ws))
        [fresh (word (Status.notResident * 2 ^ 56)), fresh 0, fresh 0, fresh 0]).mem ∧
      t.get (Base.pageMap die.val) Reg.mapNotRes =
        min (s.get (Base.pageMap die.val) Reg.mapNotRes + 1) (2 ^ Reg.mapNotRes.w - 1) ∧
      t.get (Base.core die.val core.val) Reg.evc (bits (ws.getD 0 0) 35 32) =
        min (s.get (Base.core die.val core.val) Reg.evc (bits (ws.getD 0 0) 35 32) + 1) (2 ^ 24 - 1) ∧
      t.maps = s.maps ∧ t.units = s.units) ∧
  (AtCommand s die.val core.val 0x0D 1 b ws → pmSub ws = 1 → pmN ws ≠ 0 →
    s.offOk die.val core.val (s.pmOff die.val core.val ws) 32 (8 * pmN ws) = true →
    ∀ g : ArrTarget, g =
      { layer := pmLayer ws, head := bits (ws.getD 0 0) 23 16, kv := bits (ws.getD 0 0) 15 15,
        col := bits (ws.getD 0 0) 14 8, table := s.pmOff die.val core.val ws, n := pmN ws } →
    ∃ t, exec (.appendSet die core) s = .next t ∧ Issued s t die.val core.val 1 0 b (ws.getD 0 0) ∧
      t.arr die.val core.val (bits (ws.getD 1 0) 63 61) =
        { s.arr die.val core.val (bits (ws.getD 1 0) 63 61) with target := some g } ∧
      (∀ a, a ≠ bits (ws.getD 1 0) 63 61 → t.arr die.val core.val a = s.arr die.val core.val a) ∧ SameButCores s t) ∧
  ((s.core die.val core.val).rows = [] → Unchanged (.appendRow die core arr) s) ∧
  ((s.core die.val core.val).rows = r :: rest → r.arr ≠ arr.val → Unchanged (.appendRow die core arr) s) ∧
  ((s.core die.val core.val).rows = r :: rest → r.arr = arr.val →
    (s.coreUp die.val core.val = false → exec (.appendRow die core arr) s =
      .next (s.setCore die.val core.val { s.core die.val core.val with rows := rest })) ∧
    (s.coreUp die.val core.val = true →
      (r.target.n ≤ r.row ∨ (∃ w, (s.load (scratchAddr die.val core.val (r.target.table + 8 * r.row))).1 = w ∧
          w.ecc = .clean ∧ (s.appendPage die.val core.val r.ctx (bits w.d 31 0) (bits w.d 55 32)).1 = none) →
        ∃ t, exec (.appendRow die core arr) s = .next t ∧ (t.core die.val core.val).rows = rest ∧
          t.get (Base.pageMap die.val) Reg.appendMiss =
            min (s.get (Base.pageMap die.val) Reg.appendMiss + 1) (2 ^ Reg.appendMiss.w - 1) ∧
          t.units = (s.workReason r.ctx r.kind r.seq Reason.missing).units ∧ t.mem = s.mem) ∧
      (∀ w i pos, r.row < r.target.n →
        (s.load (scratchAddr die.val core.val (r.target.table + 8 * r.row))).1 = w → w.ecc = .clean →
        bits w.d 55 32 = pos → (s.appendPage die.val core.val r.ctx (bits w.d 31 0) pos).1 = some i →
        (s.pageCfg die.val r.ctx).summed (enClass (s.mapAt die.val i)) = false →
        ∃ t, exec (.appendRow die core arr) s = .next t ∧ (t.core die.val core.val).rows = rest ∧
          t.mem = (s.unitWrite die.val core.val r.ctx (r.bytes.length + 1)
            (enLoc (s.mapAt die.val i) * 4096 +
              (s.pageCfg die.val r.ctx).rowOff (enClass (s.mapAt die.val i)) r.target.layer r.target.head r.target.kv
                (pos - pageFirst (s.pageCfg die.val r.ctx).top (enOrd (s.mapAt die.val i))) +
              r.target.col * 32 * (elemBits (s.pageCfg die.val r.ctx).fmt / 8))
            (r.bytes.map fun x => (x, false))).mem ∧
          t.get (Base.pageMap die.val) Reg.appendRows =
            min (s.get (Base.pageMap die.val) Reg.appendRows + 1) (2 ^ Reg.appendRows.w - 1) ∧
          t.maps = s.maps)))

/-- A MATMUL issues when its array accepts it and occupies it; INT8 sums are the exact dot products modulo 2^32. A
MATMUL with no cause of Table 04.16 issues once its array accepts it, and the array accepts the next one as many
cycles later as R95 gives; ARR_MODE shows its mode. For one row of INT8 or UINT8 elements over INT8 weights,
kept in the sum buffer from an initial 0 and not negated, with the row's words clean and no pair of the buffer
damaged, each of the 32 columns holds the sum of the 64 products of the exact element values, modulo 2^32 and
signed, and memory stays. One with a cause aborts the block with its lowest cause. -/
def Obligations.MatrixCommand : Prop :=
∀ (s : State) (die : DieNo) (core : CoreNo) (b : BlockRun) (ws : List Word) (q : Matmul) (mode : Mode),
  AtCommand s die.val core.val 0x08 2 b ws → s.matmulOf die.val core.val ws = q →
  (s.matmulCauses die.val core.val q = [] → modeOf q.wfmt q.afmt q.mx = some mode →
    (∃ t, exec (.matmul die core) s = .next t ∧
      Issued s t die.val core.val 2 ((s.arr die.val core.val q.arr).ready - b.edge) b (ws.getD 0 0) ∧
      t.get (Base.core die.val core.val) Reg.arrMode q.arr = mode.code ∧
      (t.arr die.val core.val q.arr).ready =
        b.edge + issueAt b (ws.getD 0 0) ((s.arr die.val core.val q.arr).ready - b.edge) + q.cycles mode.n) ∧
    (∀ set row, mode = .int8 → q.m = 1 → q.drain = 0 → q.dual = false → q.load = false → q.swap = false →
      q.wide = false → q.wcs = false → q.init = true → q.sign1 = false → (s.arr die.val core.val q.arr).check = [] →
      (s.arr die.val core.val q.arr).active = some set → set.length = 2176 →
      (∀ i, i < 8 → (s.load (scratchAddr die.val core.val q.act + 8 * i)).1.ecc = .clean) →
      (s.loadBytes (scratchAddr die.val core.val q.act) 64).1 = row →
      ∃ t, exec (.matmul die core) s = .next t ∧ t.mem = s.mem ∧ t.units = s.units ∧
        ∀ n, n < 32 → (t.arr die.val core.val q.arr).sumAt false true 32 q.sbase n =
          .int (sgn 32 (unsgn 32 (((List.range 64).map fun k =>
            (if q.wfmt = Code.uint8 then ((set.getD (64 * n + k) 0).toNat : Int) else sgn 8 (set.getD (64 * n + k) 0).toNat) *
              (if q.afmt = Code.uint8 then ((row.getD k 0).toNat : Int) else sgn 8 (row.getD k 0).toNat)).foldl
            (· + ·) 0))))) ∧
  (∀ cause, minBy id (s.matmulCauses die.val core.val q) = some cause →
    exec (.matmul die core) s = .next (s.malformed die.val core.val cause b.pc))

/-- A VEC issues when the engine accepts it; an INT32 addition writes each wrapped sum. A VEC with no cause of Table
04.16 issues when the vector engine accepts it, and the engine accepts the next one no earlier than its lane
cycles later. An addition of INT32 to INT32 over advancing sources writes, for each element, the sum modulo
2^32, and no other byte of memory: its first source is read from the scratchpad, or, when it chains to the
command before it, is what that one wrote (words read are clean). One with a cause aborts the block with its
lowest cause. -/
def Obligations.VectorCommand : Prop :=
∀ (s : State) (die : DieNo) (core : CoreNo) (b : BlockRun) (ws : List Word) (q : Vec) (ba bb : List Byte),
  AtCommand s die.val core.val 0x09 2 b ws → s.vecOf die.val core.val ws = q →
  (s.vecCauses die.val core.val q = [] →
    (∃ t, exec (.vec die core) s = .next t ∧
      Issued s t die.val core.val 2 ((s.core die.val core.val).vready - b.edge) b (ws.getD 0 0) ∧
      b.edge + issueAt b (ws.getD 0 0) ((s.core die.val core.val).vready - b.edge) + q.lanes ≤
        (t.core die.val core.val).vready) ∧
    (q.op = 0x02 → q.ifmt = 0x9 → q.ofmt = 0x9 → q.sa = 0 → q.sb = 0 →
      (∀ i, i < (4 * q.count + 7) / 8 → (s.load (scratchAddr die.val core.val q.b + 8 * i)).1.ecc = .clean) →
      ((q.chained b.vprev = false ∧
          (∀ i, i < (4 * q.count + 7) / 8 → (s.load (scratchAddr die.val core.val q.a + 8 * i)).1.ecc = .clean) ∧
          (s.loadBytes (scratchAddr die.val core.val q.a) (4 * q.count)).1 = ba) ∨
        (∃ p, b.vprev = some p ∧ q.chained b.vprev = true ∧ p.out = ba ∧ ba.length = 4 * q.count)) →
      (s.loadBytes (scratchAddr die.val core.val q.b) (4 * q.count)).1 = bb →
      ∃ t, exec (.vec die core) s = .next t ∧
        t.mem = (s.storeBytes (scratchAddr die.val core.val q.dst) ((List.range q.count).flatMap fun e =>
          leBytes 4 ((leNat ((ba.drop (4 * e)).take 4) + leNat ((bb.drop (4 * e)).take 4)) % 2 ^ 32))).mem)) ∧
  (∀ cause, minBy id (s.vecCauses die.val core.val q) = some cause →
    exec (.vec die core) s = .next (s.malformed die.val core.val cause b.pc))

/-- The descriptors of a DMA program: LOOP, WAIT, SIGNAL and END. On a channel that takes descriptors, whose words
need no correction: a LOOP reached first, within the loop about it and no more than 3 deep, starts repetition 1
and goes back over its body; reached again it counts the repetition and goes back, until its count is done, and
then goes on. A WAIT whose counter has reached VALUE goes on, paying it with DEC; otherwise the channel waits. A
SIGNAL goes on and sends its increment to the core it names (0x3F is its own), or, where that core is out of
service, sets GONE in the unit the program works for. END lets the channel be idle once no MOVE is left. On a
channel that takes no descriptor, the descriptor rows change nothing. Memory stays. -/
def Obligations.ChannelPrograms : Prop :=
∀ (s : State) (die : DieNo) (core : CoreNo) (ch : Fin 4) (ws : List Word) (pc : Nat),
  s.get (Base.core die.val core.val) Reg.chPc ch.val = pc →
  (AtDescriptor s die.val core.val ch.val 0x2 ws s → bits (ws.getD 0 0) 59 48 ≠ 0 → bits (ws.getD 0 0) 47 40 ≠ 0 →
    bits (ws.getD 0 0) 47 40 ≤ pc →
    ((s.chan die.val core.val ch.val).loops.any (fun l => l.pc == pc) = false →
      (s.chan die.val core.val ch.val).loops.length < 3 →
      (∀ l, (s.chan die.val core.val ch.val).loops.head? = some l →
        l.pc - l.body ≤ pc - bits (ws.getD 0 0) 47 40 ∧ pc + 2 ≤ l.pc) →
      ∃ t, exec (.dmaLoop die core ch) s = .next t ∧
        t.chan die.val core.val ch.val = { s.chan die.val core.val ch.val with loops :=
          [{ pc := pc, body := bits (ws.getD 0 0) 47 40, rep := 1, count := bits (ws.getD 0 0) 59 48,
             sinc := bits (ws.getD 1 0) 63 32, dinc := bits (ws.getD 1 0) 31 0 }] ++
          (s.chan die.val core.val ch.val).loops } ∧
        OnlyFields s t [(Base.core die.val core.val, Reg.chPc, ch.val)] ∧
        t.get (Base.core die.val core.val) Reg.chPc ch.val = pc - bits (ws.getD 0 0) 47 40 ∧ SameButCores s t) ∧
    (∀ l rest, (s.chan die.val core.val ch.val).loops = l :: rest → l.pc = pc →
      (l.rep < l.count → ∃ t, exec (.dmaLoop die core ch) s = .next t ∧
        (t.chan die.val core.val ch.val).loops = { l with rep := l.rep + 1 } :: rest ∧
        t.get (Base.core die.val core.val) Reg.chPc ch.val = (pc - l.body) % 2 ^ 20 ∧ SameButCores s t) ∧
      (l.count ≤ l.rep → ∃ t, exec (.dmaLoop die core ch) s = .next t ∧
        (t.chan die.val core.val ch.val).loops = rest ∧
        t.get (Base.core die.val core.val) Reg.chPc ch.val = (pc + 2) % 2 ^ 20 ∧ SameButCores s t))) ∧
  (AtDescriptor s die.val core.val ch.val 0x3 ws s → ∀ n v, bits (ws.getD 0 0) 59 56 = n → bits (ws.getD 0 0) 23 0 = v →
    (v ≤ s.get (Base.core die.val core.val) Reg.evc n →
      ∃ t, exec (.dmaWait die core ch) s = .next t ∧ t.chSt die.val core.val ch.val = 1 ∧
        t.get (Base.core die.val core.val) Reg.chPc ch.val = (pc + 1) % 2 ^ 20 ∧
        t.get (Base.core die.val core.val) Reg.evc n =
          s.get (Base.core die.val core.val) Reg.evc n - (if bit (ws.getD 0 0) 55 then v else 0) ∧
        SameRest s t) ∧
    (s.get (Base.core die.val core.val) Reg.evc n < v →
      exec (.dmaWait die core ch) s = .next (s.setChSt die.val core.val ch.val 2))) ∧
  (AtDescriptor s die.val core.val ch.val 0x4 ws s → ∀ tgt,
    (bits (ws.getD 0 0) 55 50 < 0x30 ∧ tgt = bits (ws.getD 0 0) 55 50) ∨
      (bits (ws.getD 0 0) 55 50 = 0x3F ∧ tgt = core.val) →
    ∃ t, exec (.dmaSignal die core ch) s = .next t ∧
      (s.coreUp die.val tgt = true → t.units = s.units ∧ t.signals = s.signals ++
        [{ die := die.val, core := tgt, ec := bits (ws.getD 0 0) 59 56, inc := bits (ws.getD 0 0) 23 0 }]) ∧
      (s.coreUp die.val tgt = false → t.signals = s.signals ∧ t.units = (s.workReason (s.chan die.val core.val ch.val).ctx
        (s.chan die.val core.val ch.val).kind (s.chan die.val core.val ch.val).seq Reason.gone).units) ∧
      t.chSt die.val core.val ch.val = 1 ∧
      t.get (Base.core die.val core.val) Reg.chPc ch.val = (pc + 1) % 2 ^ 20 ∧ SameRest { s with signals := t.signals, units := t.units } t) ∧
  (AtDescriptor s die.val core.val ch.val 0x5 ws s →
    ∃ t, exec (.dmaEnd die core ch) s = .next t ∧
      t.chan die.val core.val ch.val = { s.chan die.val core.val ch.val with ended := true } ∧
      t.chSt die.val core.val ch.val =
        (if (s.chan die.val core.val ch.val).moves = [] then 0 else s.chSt die.val core.val ch.val) ∧ SameButCores s t) ∧
  (s.chanRuns die.val core.val ch.val = false → Unchanged (.dmaMove die core ch) s ∧ Unchanged (.dmaLoop die core ch) s ∧
    Unchanged (.dmaWait die core ch) s ∧ Unchanged (.dmaSignal die core ch) s ∧ Unchanged (.dmaEnd die core ch) s)

/-- A MOVE asks for its source in 256-byte blocks; a request's data is written, a failed one's is not. A well-formed
MOVE that does not run ahead, whose words need no correction, appends its requests, one for each aligned
256-byte block of its source and none of them done (which have gone out the core's quota decides), and the
channel runs on 3 words further; memory stays. When the only request of an unheld MOVE fails with a status that
is no refusal, nothing is written, the status is shown, and the MOVE is done. When 8 aligned bytes of host
memory come for a MOVE to the core's own scratchpad, that word holds them. A request that is not outstanding
changes nothing. Where MOVEs of a channel met stale words, STALE_PAGE_DEFER takes them from it: with no request
named it sets MISSING in the unit; a request named whose row has not been sampled leaves the step and keeps its
place. Where none did it changes nothing. -/
def Obligations.MovesAndRequests : Prop :=
∀ (s : State) (die : DieNo) (core : CoreNo) (ch : Fin 4) (ws : List Word) (index : Nat) (how : ReqEnd) (i : Nat)
    (mv : DmaMv) (r : DmaReq) (f : ReqFail) (data : Word) (tags : List Byte),
  (AtDescriptor s die.val core.val ch.val 0x1 ws s → s.moveBad die.val core.val ch.val ws = none →
    bit (ws.getD 2 0) 53 = false →
    ∃ (t : State) (m : DmaMv), exec (.dmaMove die core ch) s = .next t ∧
      (t.chan die.val core.val ch.val).moves.map DmaMv.unsent =
        (s.chan die.val core.val ch.val).moves.map DmaMv.unsent ++ [m.unsent] ∧
      (m.src, m.dst) = s.moveAddrs die.val core.val ch.val ws ∧ m.len = bits (ws.getD 2 0) 31 0 ∧
      m.reqs.map (fun q => (q.index, q.lo, q.hi)) =
        splitMove (m.len / 256 + 2) (s.chan die.val core.val ch.val).next m.src (m.src + m.len) ∧
      (∀ q ∈ m.reqs, q.how = 0) ∧ t.chSt die.val core.val ch.val = 1 ∧
      t.get (Base.core die.val core.val) Reg.chPc ch.val =
        (s.get (Base.core die.val core.val) Reg.chPc ch.val + 3) % 2 ^ 20 ∧ t.mem = s.mem ∧ t.units = s.units) ∧
  (s.coreUp die.val core.val = true → s.findReq die.val core.val ch.val index = some (i, mv, r) → mv.reqs = [r] →
    mv.echk = false → f ≠ .denied →
    ∃ t, exec (.dmaRequestComplete die core ch index (.failed f)) s = .next t ∧
      (t.chan die.val core.val ch.val).moves.map DmaMv.unsent =
        ((s.chan die.val core.val ch.val).moves.eraseIdx i).map DmaMv.unsent ∧
      t.get (Base.core die.val core.val) Reg.chLastStatus ch.val = failCode f ∧ t.mem = s.mem) ∧
  (s.coreUp die.val core.val = true → s.findReq die.val core.val ch.val index = some (i, mv, r) → mv.reqs = [r] →
    mv.echk = false → r.expect = none → r.lo = mv.src → r.hi = mv.src + 8 → mv.len = 8 → mv.src % 8 = 0 →
    hostBase ≤ mv.src → mv.src < hostBase + 2 ^ 44 →
    (∃ off, off < 0x600000 ∧ off % 8 = 0 ∧ mv.dst = scratchAddr die.val core.val off) →
    ∃ t, exec (.dmaRequestComplete die core ch index (.host [data] tags [false])) s = .next t ∧
      (t.load mv.dst).1.d = data ∧ (t.load mv.dst).1.ecc = .clean ∧
      (t.chan die.val core.val ch.val).moves.map DmaMv.unsent =
        ((s.chan die.val core.val ch.val).moves.eraseIdx i).map DmaMv.unsent ∧ t.units = s.units) ∧
  (s.findReq die.val core.val ch.val index = none → Unchanged (.dmaRequestComplete die core ch index how) s) ∧
  ((s.chan die.val core.val ch.val).deferred = [] → ∀ hs : List W32, Unchanged (.stalePageDefer die core ch hs) s) ∧
  ((s.chan die.val core.val ch.val).deferred ≠ [] → ∀ (h : W32) (k : Nat) (q : Req), s.reqOf h.toNat = some (k, q) →
    q.sampled = false → (∀ d, d < 8 → h.toNat ∉ s.samplerRows d) →
    exec (.stalePageDefer die core ch [h]) s = .next
      ((s.setChan die.val core.val ch.val { s.chan die.val core.val ch.val with deferred := [] }).setReq k
        (some { q with inStep := false, piece := 0 }))) ∧
  ((s.chan die.val core.val ch.val).deferred ≠ [] → ∃ t, exec (.stalePageDefer die core ch []) s = .next t ∧
    t.chan die.val core.val ch.val = { s.chan die.val core.val ch.val with deferred := [] } ∧
    t.units = (s.workReason (s.chan die.val core.val ch.val).ctx (s.chan die.val core.val ch.val).kind
      (s.chan die.val core.val ch.val).seq Reason.missing).units ∧ t.regs = s.regs ∧ t.mem = s.mem)

/-- Job entries queue up to 64, start in their slot, and end with their status. On a device neither in OFF nor in
RESET, a push to an engine of a die in service appends the three latched words and its own, and makes a READY
device RUNNING; with 64 entries it is DENIED, on a fenced die QUARANTINED. In a stroke that runs slots an idle
engine, which compares once a stroke, starts the head entry in its slot, keeps one for a later slot, and
discards one whose slot has passed, counting it and setting MISSING; with no entry left it waits. A busy engine,
one that has compared, or one on a device that runs no slot, starts nothing. A job of the random-number engine
of an operation that it does not have ends with DENIED, sets OVERRUN in its unit and leaves memory as it was. -/
def Obligations.EngineQueues : Prop :=
∀ (s : State) (die : DieNo) (e : Fin 6) (w3 : Word) (j : List Word) (rest : List (List Word)),
  (s.awake = true → s.isFenced die.val 0xFF = true → exec (.jobPush die e w3) s = .next (s.reply Status.quarantined)) ∧
  (s.awake = true → s.isFenced die.val 0xFF = false → 64 ≤ (s.eng die.val e.val).queue.length →
    exec (.jobPush die e w3) s = .next (s.reply Status.denied)) ∧
  (s.awake = true → s.isFenced die.val 0xFF = false → (s.eng die.val e.val).queue.length < 64 →
    ∃ t, exec (.jobPush die e w3) s = .next t ∧
      t.eng die.val e.val = { s.eng die.val e.val with queue := (s.eng die.val e.val).queue ++
        [(List.range 3).map (fun i => cget (fun _ => 0) (s.eng die.val e.val).latch i) ++ [w3]] } ∧
      t.devState = (if s.devState = Dev.ready then Dev.running else s.devState) ∧ t.answer = ⟨0, 0, []⟩ ∧
      t.mem = s.mem ∧ t.units = s.units ∧ t.cores = s.cores) ∧
  (s.runsSlots = true → s.engUp die.val e.val = true → (s.eng die.val e.val).job = none →
    (s.eng die.val e.val).compared ≠ s.stroke + 1 → (s.eng die.val e.val).queue = j :: rest →
    ∀ diff, (jobSlot j + 65536 - s.sched % 65536) % 65536 = diff →
      (diff = 0 → ∃ t, exec (.jobSlotCompare die e) s = .next t ∧
        t.eng die.val e.val = { s.eng die.val e.val with
          compared := s.stroke + 1, queue := rest, job := some j, overran := false } ∧
        t.get (Base.engine die.val e.val) Reg.engState = 1 ∧ t.mem = s.mem ∧ t.units = s.units) ∧
      (0 < diff → diff < 32768 → ∃ t, exec (.jobSlotCompare die e) s = .next t ∧
        t.eng die.val e.val = { s.eng die.val e.val with compared := s.stroke + 1 } ∧ t.regs = s.regs ∧ t.mem = s.mem) ∧
      (32768 ≤ diff → rest = [] → ∃ t, exec (.jobSlotCompare die e) s = .next t ∧
        t.get (Base.engine die.val e.val) Reg.engMissed =
          min (s.get (Base.engine die.val e.val) Reg.engMissed + 1) (2 ^ Reg.engMissed.w - 1) ∧
        t.eng die.val e.val = { s.eng die.val e.val with compared := s.stroke + 1, queue := [] } ∧
        t.units = (s.workReason (jobCtx j) (jobKind j) (jobSeq j) Reason.missing).units ∧ t.mem = s.mem)) ∧
  (s.runsSlots = false ∨ s.engUp die.val e.val = false ∨ (s.eng die.val e.val).job ≠ none ∨
    (s.eng die.val e.val).compared = s.stroke + 1 → Unchanged (.jobSlotCompare die e) s) ∧
  ((s.eng die.val 1).job = some j → s.engUp die.val 1 = true → (jobOp j = 0 ∨ 4 < jobOp j) →
    (s.eng die.val 1).queue = [] →
    ∃ t, exec (.raw die) s = .next t ∧ (t.eng die.val 1).job = none ∧
      t.get (Base.engine die.val 1) Reg.engLastStatus = Status.denied ∧
      t.get (Base.engine die.val 1) Reg.engState = 0 ∧
      t.units = (s.workReason (jobCtx j) (jobKind j) (jobSeq j) Reason.overrun).units ∧ t.mem = s.mem)

/-- The four jobs of the random-number engine. A job whose record is readable and names class 1, 2 or 3 writes its
elements at OUT and ends OK: RAW the words of the blocks in order; UNIFORM, for each word w, the FP32 number
(2⌊w/256⌋ + 1) / 2^25; MASK one bit for each half word, 1 where it is at least the threshold, packed eight to a
byte; NORMAL two Box-Muller numbers of each pair of words, each within 4 units in the last place of the exact
one (which one within that is free). Only the words of OUT, and what the end of a job changes, change. A class
of 0 or above 3 ends any of them with DENIED. -/
def Obligations.RandomNumberJobs : Prop :=
∀ (s : State) (die : DieNo) (j : List Word) (r : List Byte) (n : Nat) (op : Nat),
  AtJob s die.val 1 op j → JobRecord s die.val j 32 r → jobCount j = n →
  (1 ≤ recNat r 0 1 % 16 → recNat r 0 1 % 16 ≤ 3 →
    (op = 0x01 → s.jobStatus die.val j (jobOut j)
        (((s.rngBlocks die.val (jobCtx j) r n 4).flatten.take n).flatMap (leBytes 4)).length = Status.ok →
      exec (.raw die) s = .next ((s.storeBytes (jobOut j)
        (((s.rngBlocks die.val (jobCtx j) r n 4).flatten.take n).flatMap (leBytes 4))).jobDone die.val 1 j Status.ok)) ∧
    (op = 0x02 → ∀ bs, bs = ((((s.rngBlocks die.val (jobCtx j) r n 4).flatten.map fun w =>
        f32enc (.fin false (2 * (w / 256) + 1) (-25))).take n).flatMap (leBytes 4)) →
      s.jobStatus die.val j (jobOut j) bs.length = Status.ok →
      exec (.uniform die) s = .next ((s.storeBytes (jobOut j) bs).jobDone die.val 1 j Status.ok)) ∧
    (op = 0x03 → ∀ bs, bs = planeOut (((s.rngBlocks die.val (jobCtx j) r n 8).flatten.flatMap fun w =>
        [decide (recNat r 16 2 ≤ w % 65536), decide (recNat r 16 2 ≤ w / 65536)]).take n) →
      s.jobStatus die.val j (jobOut j) bs.length = Status.ok →
      exec (.mask die) s = .next ((s.storeBytes (jobOut j) bs).jobDone die.val 1 j Status.ok)) ∧
    (op = 0x04 → ∀ bs, bs = (((s.rngBlocks die.val (jobCtx j) r n 4).flatMap fun w =>
        normalPair (w.getD 0 0) (w.getD 1 0) ++ normalPair (w.getD 2 0) (w.getD 3 0)).take n).flatMap (leBytes 4) →
      s.jobStatus die.val j (jobOut j) bs.length = Status.ok →
      exec (.normal die) s = .next ((s.storeBytes (jobOut j) bs).jobDone die.val 1 j Status.ok))) ∧
  (recNat r 0 1 % 16 = 0 ∨ 3 < recNat r 0 1 % 16 →
    (op = 0x01 → exec (.raw die) s = .next (s.jobDone die.val 1 j Status.denied)) ∧
    (op = 0x02 → exec (.uniform die) s = .next (s.jobDone die.val 1 j Status.denied)) ∧
    (op = 0x03 → exec (.mask die) s = .next (s.jobDone die.val 1 j Status.denied)) ∧
    (op = 0x04 → exec (.normal die) s = .next (s.jobDone die.val 1 j Status.denied)))

/-- The update jobs write the new planes of an element, or copy them where the norm is not finite; the sum of
squares adds in order. For a job of one element without an addend, whose record, norm, planes and accumulator
are readable and clean and whose shadow planes are writable: with a finite norm the shadow planes take the
updated hi, lo and m (and for ADAMW v) of the element scaled by the norm's factor, where the results are finite,
and otherwise the old planes, counted in FIN_NONFINITE; with a norm that is not finite ADAMW copies all four
planes and counts in FIN_SKIPPED. SSQ replaces the die's FP64 partial by the partial with the elements' squares
added one by one. -/
def Obligations.FinishingJobs : Prop :=
∀ (s u : State) (die : DieNo) (j : List Word) (r n2 acc : List Byte) (f : FinRec) (c : Instr) (op k : Nat)
    (vs : List Nat),
  (((op = 0x01 ∧ c = (.adamw die)) ∨ (op = 0x02 ∧ c = (.signmom die)) ∨ (op = 0x03 ∧ c = (.sgd die))) →
    AtJob s die.val 2 op j → JobRecord s die.val j 96 r → finRec r = f → inDie die.val f.n2 = true →
    JobSource s die.val j f.n2 8 n2 → jobCount j = 1 → f.addend = 0 → k = (if op = 0x01 then 4 else 3) →
    s.readPlanes die.val j ((planeAddrs f.live f.plane f.first).take k) = (Status.ok, vs, s) →
    JobSource s die.val j (f.acc + 4 * f.first) 4 acc → (Fmt.fp64.dec (leNat n2)).isFinite = true →
    ∀ x m v, finUpdate op f (joinBits (vs.getD 0 0) (vs.getD 1 0)) (vs.getD 2 0) (vs.getD 3 0)
        (f32mul (leNat acc) (finScale f (leNat n2))) = (x, m, v) →
      (((f32 x).isFinite = true ∧ (f32 m).isFinite = true ∧ (op = 0x01 → (f32 v).isFinite = true)) →
        s.writePlanes die.val j (((planeAddrs f.shadow f.plane f.first).take k).zip
          [(splitBits x).1, (splitBits x).2, m, v]) = (Status.ok, u) →
        exec c s = .next (u.jobDone die.val 2 j Status.ok)) ∧
      (((f32 x).isFinite = false ∨ (f32 m).isFinite = false ∨ (op = 0x01 ∧ (f32 v).isFinite = false)) →
        (s.count (Base.engine die.val 2) Reg.finNonfinite).writePlanes die.val j
          (((planeAddrs f.shadow f.plane f.first).take k).zip vs) = (Status.ok, u) →
        exec c s = .next (u.jobDone die.val 2 j Status.ok))) ∧
  (AtJob s die.val 2 0x01 j → JobRecord s die.val j 96 r → finRec r = f → inDie die.val f.n2 = true →
    JobSource s die.val j f.n2 8 n2 → jobCount j = 1 → (Fmt.fp64.dec (leNat n2)).isFinite = false →
    (s.count (Base.engine die.val 2) Reg.finSkipped).readPlanes die.val j (planeAddrs f.live f.plane f.first) =
      (Status.ok, vs, s.count (Base.engine die.val 2) Reg.finSkipped) →
    (s.count (Base.engine die.val 2) Reg.finSkipped).writePlanes die.val j
      ((planeAddrs f.shadow f.plane f.first).zip vs) = (Status.ok, u) →
    exec (.adamw die) s = .next (u.jobDone die.val 2 j Status.ok)) ∧
  (AtJob s die.val 2 0x04 j → JobRecord s die.val j 8 r → JobSource s die.val j (jobOut j) (4 * jobCount j) acc →
    s.jobStatus die.val j (jobParam j) 8 = Status.ok →
    ∃ t : State, exec (.ssq die) s = .next (t.jobDone die.val 2 j Status.ok) ∧
      t.mem = (s.storeBytes (jobParam j) (leBytes 8 ((floatsOf acc).foldl
        (fun p x => f64add p (Fmt.fp64.enc false ((f32 x).mul (f32 x)))) (leNat r)))).mem ∧
      cget (fun _ => 0) (t.learn (jobCtx j)).partials die.val = jobParam j ∧ t.units = s.units)

/-- COMPARE, SHA256 and VERIFY of the check engine. COMPARE of clean readable results that agree pair by pair ends
OK and changes nothing else; with disagreeing pairs it counts each of them, sets CALIPERS in every staged unit
of the context, and shows the first one's address. SHA256 of one segment (source address and last length stand
in the record as log 81 has them, the model's choice) without expected digests writes its digest; with an
expected digest that differs it also ends with SIG_BAD, counts the segment (held as log 187 says) and shows its
address. VERIFY of clean words of a scratchpad ends OK and changes nothing else, memory least of all. -/
def Obligations.CheckJobs : Prop :=
∀ (s : State) (die : DieNo) (j : List Word) (r as bs : List Byte) (a n last : Nat),
  (AtJob s die.val 3 0x01 j → JobRecord s die.val j 16 r → JobSource s die.val j (jobOut j) (4 * jobCount j) as →
    JobSource s die.val j (recNat r 0 6) (4 * jobCount j) bs →
    (∀ n, n = ((List.zipWith (pairAgrees (recNat r 8 2 % 4096)) (floatsOf as) (floatsOf bs)).filter (!·)).length →
      (n = 0 → exec (.compare die) s = .next (s.jobDone die.val 3 j Status.ok)) ∧
      (n ≠ 0 → ∃ t : State, exec (.compare die) s = .next (t.jobDone die.val 3 j Status.ok) ∧
        t.units = (s.addReason [jobCtx j] Reason.calipers).units ∧
        t.get (Base.engine die.val 3) Reg.chkDisagree =
          min (s.get (Base.engine die.val 3) Reg.chkDisagree + n) (2 ^ Reg.chkDisagree.w - 1) ∧
        (∀ i, ((List.zipWith (pairAgrees (recNat r 8 2 % 4096)) (floatsOf as) (floatsOf bs)).findIdx? (!·)) = some i →
          t.get (Base.engine die.val 3) Reg.chkAddr = (jobOut j + 4 * i) % 2 ^ Reg.chkAddr.w) ∧
        t.mem = s.mem))) ∧
  (AtJob s die.val 3 0x02 j → JobRecord s die.val j 24 r → jobCount j = 1 → recNat r 16 6 = a →
    last = (if recNat r 0 3 % 2 ^ 21 = 0 ∨ 2 ^ 20 < recNat r 0 3 % 2 ^ 21 then 2 ^ 20 else recNat r 0 3 % 2 ^ 21) →
    JobSource s die.val j a last as → s.jobStatus die.val j (jobOut j) (sha256 as).length = Status.ok →
    (recNat r 8 6 = 0 → exec (.sha256 die) s =
      .next ((s.storeBytes (jobOut j) (sha256 as)).jobDone die.val 3 j Status.ok)) ∧
    (recNat r 8 6 ≠ 0 → JobSource (s.storeBytes (jobOut j) (sha256 as)) die.val j (recNat r 8 6) 32 bs →
      (bs = sha256 as → exec (.sha256 die) s =
        .next ((s.storeBytes (jobOut j) (sha256 as)).jobDone die.val 3 j Status.ok)) ∧
      (bs ≠ sha256 as → bs.length = 32 → ∃ t : State, exec (.sha256 die) s = .next (t.jobDone die.val 3 j Status.sigBad) ∧
        (t.eng die.val 3).mismatches = (s.eng die.val 3).mismatches + 1 ∧
        t.get (Base.engine die.val 3) Reg.chkStatus = Status.sigBad ∧
        t.get (Base.engine die.val 3) Reg.chkAddr = a % 2 ^ Reg.chkAddr.w ∧
        t.mem = (s.storeBytes (jobOut j) (sha256 as)).mem))) ∧
  (AtJob s die.val 3 0x03 j → JobRecord s die.val j 8 r → jobCount j = n →
    s.jobStatus die.val j (jobOut j) n = Status.ok → CleanWords s (jobOut j) n →
    (∀ i, i < (jobOut j + n + 7) / 8 - jobOut j / 8 → placeOf ((jobOut j / 8 + i) * 8) ≠ .ddr) →
    exec (.checkVerify die) s = .next (s.jobDone die.val 3 j Status.ok))

/-- The sampler's jobs over one row: the greatest logit, the shortlist, its merge, and a rejected draft. For a job
of one row entry that Table 05.7 allows, all of it readable and clean, its output writable and its handle no
request's (lse holds free values where R169 gives no exact function: logs 84 and 188): SAMPLE at temperature 0
writes the record of the token with the greatest logit (the lowest of equals), and MERGE the one with the
greatest key of the shards; SHORTLIST writes m, s, the best token and its key, and the candidates in descending
order, filled up with entries of token 0 and minus infinity (log 190); VERIFY at temperature 0 of one draft that
is not the greatest logit's token writes one record, with that token and no draft accepted. A malformed row ends
the job with DENIED. -/
def Obligations.SamplerJobs : Prop :=
∀ (s : State) (die : DieNo) (maquette : Bool) (shards : Nat) (j : List Word) (e lg : List Byte) (r : SmpRow)
    (f : SmpFirst) (x : BitVec 20) (q : List (BitVec 20 × W32)) (op : Nat),
  AtJob s die.val 0 op j → JobRecord s die.val j 32 e → e.length = 32 → jobCount j = 1 →
  smpRow (jobOut j / 2 ^ 40) e = r → s.reqOf r.handle = none →
  (inDie die.val r.logits = true ∨ placeOf r.logits = .ddr) →
  (r.bad (op == 4) = false → s.jobStatus die.val j (jobOut j) 16 = Status.ok →
    (op = 0x01 → r.greedy = true → JobSource s die.val j r.logits r.bytes lg →
      s.smpFirst die.val (jobCtx j) (if maquette then 3 else 0) r (r.zs lg) = f →
      some (f.best, f.m) = minBy smpKey (r.zs lg) ∧
      exec (.sample die maquette) s = .next (((s.storeBytes (jobOut j) (bytesOf [ringWord0 r.pos r.handle,
        ringWord1 Status.ok 0 false false (jobCast j) (smpLogp f.m f.lse) f.best])).count
        (Base.engine die.val 0) Reg.smpTokens).jobDone die.val 0 j Status.ok)) ∧
    (op = 0x03 → r.greedy = true → JobSource s die.val j r.logits (shards * r.listBytes) lg →
      r.merge (chunks r.listBytes lg.length lg) = f →
      exec (.merge die shards) s = .next (((s.storeBytes (jobOut j) (bytesOf [ringWord0 r.pos r.handle,
        ringWord1 Status.ok 0 false false (jobCast j) (smpLogp f.m f.lse) f.best])).count
        (Base.engine die.val 0) Reg.smpTokens).jobDone die.val 0 j Status.ok)) ∧
    (op = 0x04 → r.greedy = true → r.draft = 1 → JobSource s die.val j r.logits (2 * r.bytes) lg →
      s.smpFirst die.val (jobCtx j) 0 r (r.zs (lg.take r.bytes)) = f → x.toNat ≠ f.best →
      (∀ p ∈ q, p.2.toNat < 2 ^ 31) →
      ∃ lp, exec (.verify die [[(x, q)]]) s = .next (((s.storeBytes (jobOut j) (bytesOf [ringWord0 r.pos r.handle,
        ringWord1 Status.ok 0 false false (jobCast j) lp f.best])).count
        (Base.engine die.val 0) Reg.smpTokens).jobDone die.val 0 j Status.ok))) ∧
  (r.bad (op == 4) = false → op = 0x02 → JobSource s die.val j r.logits r.bytes lg →
    s.smpFirst die.val (jobCtx j) 0 r (r.zs lg) = f →
    ∀ bs, bs = [f.m, f.sum, f.best, f.key].flatMap (leBytes 4) ++
        f.cand.flatMap (fun p => leBytes 8 (p.2 * 2 ^ 32 + p.1)) ++
        (List.range (r.kc - f.cand.length)).flatMap (fun _ => leBytes 8 (0xFF800000 * 2 ^ 32)) →
      s.jobStatus die.val j (jobOut j) bs.length = Status.ok →
      exec (.shortlist die) s = .next ((s.storeBytes (jobOut j) bs).jobDone die.val 0 j Status.ok)) ∧
  (r.bad (op == 4) = true →
    (op = 0x01 → exec (.sample die maquette) s = .next (s.jobDone die.val 0 j Status.denied)) ∧
    (op = 0x02 → exec (.shortlist die) s = .next (s.jobDone die.val 0 j Status.denied)) ∧
    (op = 0x03 → exec (.merge die shards) s = .next (s.jobDone die.val 0 j Status.denied)) ∧
    (op = 0x04 → exec (.verify die [[(x, q)]]) s = .next (s.jobDone die.val 0 j Status.denied)))

/-- SCAN raises a tensor's greatest magnitude, a BF16 CAST copies a tile, and the exchange writes the fabric's
magnitudes. A SCAN of one move of one clean source tile writes the greater of the table's AMAX and the tile's
magnitudes, counts the tile and notes the table. A CAST of one BF16 tile for this device writes the source's
2,048 bytes at the destination and counts the tile. A malformed move (Table 11.4; for SCAN, of no tile) ends the
job with DENIED. In a stroke that runs slots, on a device alone in its context's group with no collective in
flight, AMAX_EXCHANGE of one group of tensors writes the result at once; where nothing has been scanned, or no
slot runs, it changes nothing. -/
def Obligations.PointingJobs : Prop :=
∀ (s : State) (die : DieNo) (e : Fin 2) (j m : List Word) (rec src old : List Byte) (ctx : Ctx) (x : Loop),
  (AtJob s die.val (4 + e.val) 0x01 j → JobRecord s die.val j 32 rec → jobCount j = 1 → wordsOf rec = m →
    m.length = 4 → inDie die.val (jobOut j) = true →
    (mvNt m = 1 → JobSource s die.val j (jobOut j + 8 * mvTensor m) 4 old → JobSource s die.val j (mvSrc m) 2048 src →
      s.loop (jobCtx j) = x →
      exec (.scan die e) s = .next ((((s.count (Base.pointing die.val e.val) Reg.ptScanned).setLoop (jobCtx j)
        { x with tables := cset (fun _ => 0) x.tables die.val (jobOut j), top := max x.top (mvTensor m + 1) }).storeBytes
        (jobOut j + 8 * mvTensor m) (leBytes 4 ((halves src).foldl (fun a v => f32max a (v % 32768 * 65536))
          (leNat old)))).jobDone die.val (4 + e.val) j Status.ok)) ∧
    (mvNt m = 0 → exec (.scan die e) s = .next (s.jobDone die.val (4 + e.val) j Status.denied))) ∧
  (AtJob s die.val (4 + e.val) 0x02 j → JobRecord s die.val j 32 rec → jobCount j = 1 → wordsOf rec = m →
    m.length = 4 → inDie die.val (jobOut j) = true →
    (mvDfmt m = 0 → mvNt m = 1 → mvPadN m = false → mvColStride m = 0 → mvDev m = s.myNum →
      JobSource s die.val j (mvSrc m) 2048 src → src.length = 2048 →
      s.jobStatus die.val j (mvDaddr m) 2048 = Status.ok →
      exec (.cast die e) s = .next ((((s.count (Base.pointing die.val e.val) Reg.ptSaturated 0).count
        (Base.pointing die.val e.val) Reg.ptTiles).storeBytes (mvDaddr m) src).jobDone die.val (4 + e.val) j Status.ok)) ∧
    (5 < mvDfmt m ∨ mvNt m = 0 ∨ (mvDfmt m ≠ 5 ∧ (mvPadN m = true ∨ mvColStride m ≠ 0)) →
      exec (.cast die e) s = .next (s.jobDone die.val (4 + e.val) j Status.denied))) ∧
  (s.loop ctx.val = x → s.runsSlots = true → x.scanned ≠ [] → x.next = 0 → 0 < x.top → x.top ≤ 8 → s.arm.colls = [] →
    s.nextDim (s.groupOf ctx.val) 0 = 4 →
    exec (.amaxExchange ctx) s = .next ((s.setLoop ctx.val { x with next := 1 }).amaxWrite ctx.val 0
      (s.amaxWords x 0))) ∧
  (s.runsSlots = false ∨ (s.loop ctx.val).scanned = [] → Unchanged (.amaxExchange ctx) s)

/-- An access to a scratchpad or to DDR stores and reads whole words; a refused one reads zero and is not done. On a
device neither in OFF nor in RESET: an allowed write of one well-formed word, to a scratchpad or to DDR, answers
OK, by the connections between the requester's die and the one that serves it; the word then reads as written,
its tag is 0 in a scratchpad and the region's epoch in DDR, and every byte stored apart from it is as before. An
allowed read of one clean word answers OK with its data and changes no memory; a read of DDR that expects
another epoch answers STALE. A refused access to a scratchpad answers its status with data zero, leaves memory
as it was, and a denied one is counted in the requester's die. -/
def Obligations.StorageAccesses : Prop :=
∀ (s : State) (who : Requester) (addr : Addr) (w : Word) (a st : Nat) (e : Byte) (c : Instr) (acc : Access),
  s.awake = true → addr.toNat / 8 * 8 = a →
  ((c = (.scratchpadAccess acc) ∧ ∃ d k o, placeOf a = .scratch d k o) ∨
    (c = (.ddrRequest acc) ∧ placeOf a = .ddr)) →
  (acc = { who := who, addr := addr, words := 1, write := some [{ d := w, c := secded w }], expect := none,
           runahead := false } → s.wordStatus who a = Status.ok →
    ∃ t, exec c s = .next t ∧ t.answer = ⟨0, 0, ((s.servedAt a).map fun d => s.crossings (dieOf (reqDie who)) d a).getD []⟩ ∧
      (t.load a).1.d = w ∧ (t.load a).1.ecc = .clean ∧
      (t.load a).1.tag = (if placeOf a = .ddr then s.epochOf a else 0) ∧
      (∀ k, k < s.key a ∨ s.key a + 8 ≤ k → cget (fun _ => 0) t.mem.data k = cget (fun _ => 0) s.mem.data k) ∧
      t.units = s.units ∧ t.faults = s.faults) ∧
  (acc = { who := who, addr := addr, words := 1, write := none, expect := none, runahead := false } →
    s.wordStatus who a = Status.ok → (s.load a).1.ecc = .clean →
    ∃ t, exec c s = .next t ∧
      t.answer = ⟨0, (s.load a).1.d, ((s.servedAt a).map fun d => s.crossings (dieOf (reqDie who)) d a).getD []⟩ ∧ t.mem = s.mem ∧ t.units = s.units ∧ t.cores = s.cores) ∧
  (acc = { who := who, addr := addr, words := 1, write := none, expect := some e, runahead := false } →
    s.wordStatus who a = Status.ok → (s.load a).1.ecc = .clean → placeOf a = .ddr → (s.load a).1.tag ≠ e →
    ∃ t, exec c s = .next t ∧ t.answer.status.toNat = Status.stale ∧ t.mem = s.mem ∧ t.units = s.units) ∧
  (acc.who = who → acc.addr = addr → acc.runahead = false → acc.expect = none →
    (acc.write = some [{ d := w, c := secded w }] ∨ (acc.write = none ∧ acc.words = 1)) → s.wordStatus who a = st →
    st ≠ Status.ok → st < 256 → placeOf a ≠ .ddr →
    ∃ t, exec c s = .next t ∧ t.answer.status = BitVec.ofNat 8 st ∧ t.answer.data = 0 ∧ t.mem = s.mem ∧ t.units = s.units ∧
      (st = Status.denied → t.get (Base.errors (reqDie who)) Reg.errDenied =
        min (s.get (Base.errors (reqDie who)) Reg.errDenied + 1) (2 ^ Reg.errDenied.w - 1)))

/-- Host-window accesses become messages; late requests fail; the patrol scrub repairs. An allowed host-window write
of one word queues one message with that word under the next MTAG and answers OK; an allowed read of one word
takes the lowest free read slot, or waits when none is free; a refused one answers its status and sends nothing.
A host read of a plain access that has not completed within 8 strokes gives its slot back (no read waiting), is
counted and answers TIER_FAIL; one still within them, or a slot that is not busy, changes nothing. A request
whose lateness the row tells (of a sequence, or of a context's units) is counted for its tier and takes
TIER_FAIL. PATROL_SCRUB over one clean word of DDR changes no memory, and over a corrected one leaves it clean
with its data. -/
def Obligations.HostWindowAndDeadlines : Prop :=
∀ (s : State) (who : Requester) (addr : Addr) (w : Word) (a : Nat) (acc : Access) (ctx : Ctx) (tier : Tier)
    (i : Fin 1024) (h : W32),
  (s.awake = true → addr.toNat / 8 * 8 = a → placeOf a = .host → acc.who = who → acc.addr = addr → acc.runahead = false →
    (s.winStatus (reqCtx who) (a - hostBase) = Status.ok → acc.write = some [{ d := w, c := secded w }] → 0 < s.um.out.length →
      ∃ t m, exec (.hostWindowRequest acc) s = .next t ∧ t.answer = ⟨0, 0, []⟩ ∧
        t.um.mtag = (s.um.mtag + 1) % 65536 ∧ cget (fun _ => none) t.um.writes s.um.mtag = some (m, false, s.stroke) ∧
        m.mtype = 0x01 ∧ m.addr.toNat = a - hostBase ∧ m.data = [w] ∧
        t.um.out.getD (umClass 1) [] = s.um.out.getD (umClass 1) [] ++ [(s.um.stamp, m)] ∧ t.mem = s.mem) ∧
    (s.winStatus (reqCtx who) (a - hostBase) = Status.ok → acc.write = none → acc.words = 1 →
      (∀ k, ((List.range 1024).find? fun n => !(s.slot n).busy) = some k →
        ∃ t, exec (.hostWindowRequest acc) s = .next t ∧ t.answer = ⟨0, 0, []⟩ ∧ (t.slot k).busy = true ∧
          (t.slot k).addr = a - hostBase ∧ (t.slot k).bytes = 8 ∧ (t.slot k).owner = .access ∧ (t.slot k).began = s.stroke ∧
          (t.slot k).gen = ((s.slot k).gen + 1) % 64 ∧ (∀ n, n ≠ k → t.slot n = s.slot n) ∧ t.mem = s.mem) ∧
      ((∀ n, n < 1024 → (s.slot n).busy = true) → ∃ t, exec (.hostWindowRequest acc) s = .next t ∧
        t.um.rdWait.length = s.um.rdWait.length + 1 ∧ t.um.slots = s.um.slots ∧ t.um.out = s.um.out)) ∧
    (∀ st, s.winStatus (reqCtx who) (a - hostBase) = st → st ≠ Status.ok →
      ∃ t, exec (.hostWindowRequest acc) s = .next t ∧ t.answer = ⟨BitVec.ofNat 8 st, 0, []⟩ ∧ t.um = s.um ∧
        t.mem = s.mem)) ∧
  (s.serving = true → exec (.tierDeadline (.unit ctx tier)) s =
    .next ((s.lateCount tier 0).addReason [ctx.val] Reason.tierFail)) ∧
  (s.serving = true → (s.reqOf h.toNat).isSome = true → exec (.tierDeadline (.request h tier)) s =
    .next ((s.lateCount tier 0).handleFail h.toNat Status.tierFail)) ∧
  (s.serving = true → (s.slot i.val).busy = true → (s.slot i.val).owner = .access → s.um.rdWait = [] →
    (s.slot i.val).began + 8 < s.stroke →
    ∃ t, exec (.tierDeadline (.hostRead i)) s = .next t ∧ t.get (Base.tier 0) Reg.hostLate =
        min (s.get (Base.tier 0) Reg.hostLate + 1) (2 ^ Reg.hostLate.w - 1) ∧ t.slot i.val = { RdSlot.free with gen := (s.slot i.val).gen } ∧
      (∀ n, n ≠ i.val → t.slot n = s.slot n) ∧ t.answer = ⟨BitVec.ofNat 8 Status.tierFail, 0, []⟩ ∧ t.mem = s.mem) ∧
  (s.serving = false ∨ (s.slot i.val).busy = false ∨ s.stroke ≤ (s.slot i.val).began + 8 → Unchanged (.tierDeadline (.hostRead i)) s) ∧
  (s.awake = true → addr.toNat / 8 * 8 = a → placeOf a = .ddr → s.ddrStatus (.control s.bootNow) a = Status.ok →
    ((s.load a).1.ecc = .clean → ∃ t, exec (.patrolScrub addr 1) s = .next t ∧ t.mem = s.mem ∧ t.units = s.units) ∧
    ((s.load a).1.ecc = .fixed → ∃ t, exec (.patrolScrub addr 1) s = .next t ∧
      (t.load a).1.d = (s.load a).1.d ∧ (t.load a).1.ecc = .clean ∧ t.units = s.units))

/-- A fill pass compares its record, a mismatch sets SELFTEST, and the second fence the core; gated cycles are
counted. A fill pass of an array in service whose gap, or whose stroke without a command, owes a pass, and that
owes no repeat of a pattern, or does not begin its gap, is counted and moves NEXT_PAT on; with the expected
record no seal unit changes; with another it sets SELFTEST in the staged units of the contexts bound to the
core, and the array owes repeats of a pattern. The first pass of a gap, where the array owes a repeat, runs that
pattern and leaves NEXT_PAT; a mismatch then withdraws the array and has its core fenced (how often a pattern is
repeated is the model's reading: log 49). An array that owes no pass (or a first pass where the command brings a
later one, or the other way round), is withdrawn or clocked off, or whose core or device is out of service,
takes none. ARRAY_CLOCK_GATE at a cycle of the stroke counts the cycles in which the array has been gated by
then: whole thousands, keeping the rest (log 181). Memory stays. -/
def Obligations.FillPassesAndGating : Prop :=
∀ (s : State) (die : DieNo) (core : CoreNo) (arr : Fin 8) (record : BitVec 128) (first : Bool) (p : Nat) (r : Retest)
    (x y : Arr) (cycles : W32) (now : Nat),
  (s.coreUp die.val core.val = true → s.get (Base.core die.val core.val) Reg.withdrawn arr.val = 0 →
    s.pins.gated = false → s.awake = true → s.get (Base.core die.val core.val) Reg.nextPat arr.val = p →
    s.fillTake die.val core.val arr.val = some (first, y) →
    (s.findRetest die.val core.val arr.val = none ∨ first = false →
      ∃ t, exec (.fillPass die core arr record first) s = .next t ∧
        t.get (Base.core die.val core.val) Reg.nextPat arr.val = (p + 1) % 16 ∧ t.mem = s.mem ∧
        t.get (Base.core die.val core.val) Reg.fillPasses arr.val =
          min (s.get (Base.core die.val core.val) Reg.fillPasses arr.val + 1) (2 ^ Reg.fillPasses.w - 1) ∧
        (t.arr die.val core.val arr.val).gaps = y.gaps ∧ (t.arr die.val core.val arr.val).inserted = y.inserted ∧
        (record = Config.fillRecord p → t.units = s.units ∧ t.faults = s.faults) ∧
        (record ≠ Config.fillRecord p →
          t.units = (s.addReason (s.boundCtxs (uid die.val core.val)) Reason.selftest).units ∧
          (t.findRetest die.val core.val arr.val).isSome = true)) ∧
    (s.findRetest die.val core.val arr.val = some r → first = true →
      (record = Config.fillRecord r.pattern → ∃ t, exec (.fillPass die core arr record first) s = .next t ∧
        t.get (Base.core die.val core.val) Reg.nextPat arr.val = p ∧ t.units = s.units ∧ t.mem = s.mem ∧
        (r.left ≤ 1 → t.findRetest die.val core.val arr.val = none)) ∧
      (record ≠ Config.fillRecord r.pattern → s.goneUnit (uid die.val core.val) = false →
        ∃ t, exec (.fillPass die core arr record first) s = .next t ∧
          t.get (Base.core die.val core.val) Reg.withdrawn arr.val = 1 ∧
          (∃ q, (uid die.val core.val, q) ∈ t.faults.toFence) ∧
          t.units = (s.addReason (s.boundCtxs (uid die.val core.val)) Reason.selftest).units ∧ t.mem = s.mem))) ∧
  (s.coreUp die.val core.val = false ∨ s.get (Base.core die.val core.val) Reg.withdrawn arr.val = 1 ∨
    s.pins.gated = true ∨ s.awake = false ∨ s.fillTake die.val core.val arr.val = none ∨
    s.fillTake die.val core.val arr.val = some (!first, y) →
    Unchanged (.fillPass die core arr record first) s) ∧
  (s.awake = true → s.coreUp die.val core.val = true → s.arr die.val core.val arr.val = x →
    now = s.strokes.cycles + min cycles.toNat s.strokeCycles →
    ∃ t, exec (.arrayClockGate die core arr cycles) s = .next t ∧
      t.arr die.val core.val arr.val = { x with
        gate := 0, gateFrom := x.gateFrom + x.gatedNow now,
        gatedRem := (x.gatedRem + (x.gate + x.gatedNow now)) % 1000 } ∧
      t.get (Base.core die.val core.val) Reg.gatedKcyc arr.val =
        min (s.get (Base.core die.val core.val) Reg.gatedKcyc arr.val +
          (x.gatedRem + (x.gate + x.gatedNow now)) / 1000) (2 ^ Reg.gatedKcyc.w - 1) ∧
      OnlyFields s t [(Base.core die.val core.val, Reg.gatedKcyc, arr.val)] ∧ SameButCores s t) ∧
  (s.awake = false ∨ s.coreUp die.val core.val = false → Unchanged (.arrayClockGate die core arr cycles) s)

/-- Segment entries are written and read through SEG_DATA; region epochs move on by REWRITE and REALLOC. On a plinth
die that answers: a segment write sets the segment's entry of that die to SEG_DATA, no other entry, and answers
OK, unless the entry is marked mapped and names a number of channels other than 1, 2, 4, 8 or 16: that one is
DENIED and changes nothing. A segment read puts the entry into SEG_DATA, changes nothing else and answers OK.
For a region of the die's DDR, or on PD0 one of the 262,144 host regions: REWRITE adds 1 modulo 16 to WGEN and
leaves GEN; REALLOC adds 1 modulo 16 to GEN and sets WGEN to 0; EPOCH_READ leaves the epoch; each then shows the
region's epoch and status OK in EPOCH_STAT, answers OK, and changes no other epoch and nothing else. For any
other host region each shows status DENIED, answers OK and changes nothing else. A die that does not answer
changes nothing. -/
def Obligations.SegmentsAndEpochs : Prop :=
∀ (s : State) (pd : Pd) (seg : BitVec 13) (host : Bool) (region : BitVec 22) (e : Nat),
  (s.pdUp pd.val = true →
    ((bit (word (s.get (Base.tier pd.val) Reg.segData)) 63 = true →
        popCount 16 (s.get (Base.tier pd.val) Reg.segData % 2 ^ 16) ∈ [1, 2, 4, 8, 16]) →
      ∃ t, exec (.segWrite pd seg) s = .next t ∧
        t.seg pd.val seg.toNat = word (s.get (Base.tier pd.val) Reg.segData) ∧
        (∀ p i, p * 8192 + i ≠ pd.val * 8192 + seg.toNat → t.seg p i = s.seg p i) ∧ t.answer = ⟨0, 0, []⟩ ∧
        t.regs = s.regs ∧ SameRest { s with answer := t.answer, segs := t.segs } t) ∧
    (bit (word (s.get (Base.tier pd.val) Reg.segData)) 63 = true →
      popCount 16 (s.get (Base.tier pd.val) Reg.segData % 2 ^ 16) ∉ [1, 2, 4, 8, 16] →
      exec (.segWrite pd seg) s = .next (s.reply Status.denied)) ∧
    (∃ t, exec (.segRead pd seg) s = .next t ∧
      t.get (Base.tier pd.val) Reg.segData = (s.seg pd.val seg.toNat).toNat ∧ t.answer = ⟨0, 0, []⟩ ∧
      OnlyFields s t [(Base.tier pd.val, Reg.segData, 0)] ∧ SameRest { s with answer := t.answer } t) ∧
    ((host = false ∨ (pd.val = 0 ∧ region.toNat < 262144)) → s.epoch pd.val host region.toNat = e →
      ∀ (c : Instr) (n : Nat), (c = .rewrite pd host region ∧ n = e / 16 * 16 + (e + 1) % 16) ∨
          (c = .realloc pd host region ∧ n = (e / 16 + 1) % 16 * 16) ∨ (c = .epochRead pd host region ∧ n = e) →
        ∃ t, exec c s = .next t ∧ t.epoch pd.val host region.toNat = n ∧
          t.get (Base.tier pd.val) Reg.epochStatus = Status.ok ∧ t.get (Base.tier pd.val) Reg.epochEpoch = n ∧
          (∀ r, r ≠ region.toNat → t.epoch pd.val host r = s.epoch pd.val host r) ∧
          (if host then t.epochs = s.epochs else t.hostEpochs = s.hostEpochs) ∧ t.answer = ⟨0, 0, []⟩ ∧
          OnlyFields s t [(Base.tier pd.val, Reg.epochStatus, 0), (Base.tier pd.val, Reg.epochEpoch, 0)] ∧
          SameRest { s with answer := t.answer, epochs := t.epochs, hostEpochs := t.hostEpochs } t) ∧
    (host = true → (pd.val ≠ 0 ∨ 262144 ≤ region.toNat) →
      ∀ c : Instr, c = .rewrite pd host region ∨ c = .realloc pd host region ∨ c = .epochRead pd host region →
        ∃ t, exec c s = .next t ∧ t.get (Base.tier pd.val) Reg.epochStatus = Status.denied ∧
          t.answer = ⟨0, 0, []⟩ ∧ OnlyFields s t [(Base.tier pd.val, Reg.epochStatus, 0)] ∧
          SameRest { s with answer := t.answer } t)) ∧
  (s.pdUp pd.val = false → Unchanged (.segWrite pd seg) s ∧ Unchanged (.segRead pd seg) s ∧
    Unchanged (.rewrite pd host region) s ∧ Unchanged (.realloc pd host region) s ∧
    Unchanged (.epochRead pd host region) s)

/-- The maintenance commands of a page map, and the spilling of a page to host memory. On a die in service: INSERT
of a page or alias entry whose key is not there puts it in the first free way of its sets or victims when the
context is below its quota; UPDATE replaces the second word, REMOVE frees the entry, READ shows it, and MOVE_TO
moves it to a free way of its other set or a victim; each shows status OK and the index and answers OK. A key
that is not there shows NOT_RESIDENT and a used key DENIED, with no entry changed. Other entries never change.
PAGE_SPILL, where the context's DDR use is above its high-water mark and its host use is not, moves its page
used longest ago to host memory and releases the page's rows two strokes on (where in the host it lies is the
model's choice: log 94); given to a die that is fenced, or on a device that does not serve, it changes nothing. -/
def Obligations.PageMapMaintenance : Prop :=
∀ (s : State) (die : DieNo) (e : Word × Word) (i : Nat) (target : BitVec 16) (ctx : Ctx) (p : Nat × (Word × Word)),
  (s.dieUp die.val = true → s.mapArgs die.val = e →
    (enKind e = 1 ∨ enKind e = 2 → enClass e < 9 → s.mapFind die.val (enHandle e) (enOrd e) (enKind e) = none →
      (s.mapEntries die.val).foldl (fun n q => if enCtx q.2 = enCtx e then n + 1 else n) 0 <
        s.get (Base.pageMap die.val) Reg.quotaLimit (enCtx e) →
      ((candidates (enHandle e) (enOrd e)).find? fun k => enKind (s.mapAt die.val k) == 0) = some i →
      ∃ t, exec (.mapInsert die) s = .next t ∧ t.mapAt die.val i = e ∧
        (∀ k, k ≠ i → t.mapAt die.val k = s.mapAt die.val k) ∧
        t.get (Base.pageMap die.val) Reg.mapStatus = Status.ok ∧
        t.get (Base.pageMap die.val) Reg.mapIndex = i % 2 ^ Reg.mapIndex.w ∧ t.mem = s.mem ∧ t.answer = ⟨0, 0, []⟩) ∧
    (s.mapFind die.val (enHandle e) (enOrd e) (enKind e) = some i → enKind e ≠ 0 →
      ∃ t, exec (.mapInsert die) s = .next t ∧ t.maps = s.maps ∧
        t.get (Base.pageMap die.val) Reg.mapStatus = Status.denied) ∧
    (s.mapFind die.val (enHandle e) (enOrd e) (enKind e) = some i → enKind e ≠ 0 → enClass e < 9 →
      (∃ t, exec (.mapUpdate die) s = .next t ∧ t.mapAt die.val i = ((s.mapAt die.val i).1, e.2) ∧
        (∀ k, k ≠ i → t.mapAt die.val k = s.mapAt die.val k) ∧
        t.get (Base.pageMap die.val) Reg.mapStatus = Status.ok ∧ t.mem = s.mem) ∧
      (∃ t, exec (.mapRemove die) s = .next t ∧ t.mapAt die.val i = (0, 0) ∧
        (∀ k, k ≠ i → t.mapAt die.val k = s.mapAt die.val k) ∧
        t.get (Base.pageMap die.val) Reg.mapStatus = Status.ok ∧ t.mem = s.mem) ∧
      (∃ t, exec (.mapRead die) s = .next t ∧ t.get (Base.pageMap die.val) Reg.mapR 0 = (s.mapAt die.val i).1.toNat ∧
        t.get (Base.pageMap die.val) Reg.mapR 1 = (s.mapAt die.val i).2.toNat ∧ t.maps = s.maps ∧
        t.get (Base.pageMap die.val) Reg.mapStatus = Status.ok) ∧
      (s.moveOk die.val i target.toNat = true → target.toNat ≠ i →
        ∃ t, exec (.moveTo die target) s = .next t ∧ t.mapAt die.val target.toNat = s.mapAt die.val i ∧
          t.mapAt die.val i = (0, 0) ∧
          (∀ k, k ≠ i → k ≠ target.toNat → t.mapAt die.val k = s.mapAt die.val k) ∧
          t.get (Base.pageMap die.val) Reg.mapStatus = Status.ok)) ∧
    (s.mapFind die.val (enHandle e) (enOrd e) (enKind e) = none → enClass e < 9 →
      ∃ t, exec (.mapUpdate die) s = .next t ∧ exec (.mapRemove die) s = .next t ∧ exec (.mapRead die) s = .next t ∧
        exec (.moveTo die target) s = .next t ∧ t.maps = s.maps ∧
        t.get (Base.pageMap die.val) Reg.mapStatus = Status.notResident)) ∧
  (s.serving = true →
    s.hostUse ctx.val * 100 ≤ s.get (Base.tier 0) Reg.hostHigh ctx.val * s.hostShare ctx.val →
    s.get (Base.tier 0) Reg.highPct ctx.val * s.ddrShare ctx.val < s.ddrUsed ctx.val * 100 →
    s.get (Base.tier 0) Reg.lowPct ctx.val * s.ddrShare ctx.val < s.ddrUsed ctx.val * 100 →
    s.oldest ctx.val 1 = some p → s.isFenced die.val 0xFF = false →
    ∃ t, exec (.pageSpill die ctx) s = .next t ∧ enTier (cget (fun _ => (0, 0)) t.maps p.1) = 2 ∧
      (s.stroke + 2, .bytes (enLoc p.2 * 4096) ((s.pageCfg (p.1 / 65536) (enCtx p.2)).data (enClass p.2))) ∈ t.toRelease) ∧
  (s.serving = false ∨ s.isFenced die.val 0xFF = true → Unchanged (.pageSpill die ctx) s)

/-- The commands on flash objects. On a serving device whose PD0 answers, for a context with a share of flash
bandwidth: CREATE of a new object, of a kind that is not reserved, with room in the flash and in the context's
share, adds one open object of its size with nothing written. WRITE of blocks of an open object that are not yet
written notes them and leaves DDR's data. SEAL of an object all of whose blocks are written seals it. READ of a
block of a sealed object, for which no page map entry stands, writes the block to DDR, or, when its segment's
digest differs or a second read fails too, reports SIG_BAD and writes nothing. DELETE takes the object out and
no other. STAT changes no object. Each shows its status and answers OK. On PD0 of a device that does not serve
objects, each shows DENIED, answers OK and changes nothing else (the model's choice: log 186); on PD1, which has
no object registers, each answers DENIED and changes nothing else. -/
def Obligations.FlashObjects : Prop :=
∀ (s : State) (pd : Pd) (num n : Nat) (o : FlObj) (c : Instr) (misread : List (Nat × Bool)) (retired : List (Fin 64)),
  (s.serving = true → s.pdUp 0 = true → pd.val = 0 → s.objArg Reg.objNum = num →
    (num ≠ 0 → 1 ≤ s.objArg Reg.objKind → s.objArg Reg.objKind ≤ 3 → s.obj num = none → s.lifeUsed < 100 →
      n = s.objArg Reg.objBlocks → n ≠ 0 → objBytes s.flash.objects + n * 4096 ≤ s.flashUsable →
      s.flashUsed (s.objArg Reg.objCtx) + n * 4096 ≤
        s.get Base.contexts Reg.cxFlashGib (s.objArg Reg.objCtx) * 2 ^ 30 →
      ∃ t, exec (.objCreate pd) s = .next t ∧ t.flash.objects = s.flash.objects ++
        [{ num := num, ctx := s.objArg Reg.objCtx, kind := s.objArg Reg.objKind, blocks := n,
           ttl := s.objArg Reg.objTtl, state := 1, targets := s.targetsUp, written := [], data := [], draw := none,
           paused := none, digests := [], sealedAt := 0 }] ∧
        t.get (Base.flash 0) Reg.objStatus = Status.ok ∧ t.get (Base.flash 0) Reg.objState = 1 ∧
        t.answer = ⟨0, 0, []⟩ ∧ t.mem = s.mem) ∧
    (s.obj num = some o →
      (o.state = 1 → s.noFlash o.ctx = false → s.objArg Reg.objCount = 1 → s.objArg Reg.objFirst < o.blocks →
        (o.written.any fun r => runsMeet r (s.objArg Reg.objFirst, 1)) = false →
        placeOf (s.objArg Reg.objDdr / 8 * 8) = .ddr →
        (∀ i, i < 512 → s.wordStatus (.control s.bootNow) (s.objArg Reg.objDdr / 8 * 8 + 8 * i) = Status.ok ∧
          (s.load (s.objArg Reg.objDdr / 8 * 8 + 8 * i)).1.ecc = .clean) →
        ∃ t x, exec (.objWrite ⟨pd, []⟩) s = .next t ∧ t.obj num = some x ∧
          x.written = o.written ++ [(s.objArg Reg.objFirst, 1)] ∧ x.state = 1 ∧
          t.get (Base.flash 0) Reg.objStatus = Status.ok ∧ t.mem = s.mem ∧
          (t.flash.objects.filter (·.num != num)) = s.flash.objects.filter (·.num != num)) ∧
      (o.state = 1 → o.full = true → ∃ t, exec (.objSeal pd) s = .next t ∧ t.obj num = some (o.sealAt s.flash.us) ∧
        t.get (Base.flash 0) Reg.objStatus = Status.ok ∧ t.mem = s.mem) ∧
      (o.state ≠ 1 ∨ o.full = false → ∃ t, exec (.objSeal pd) s = .next t ∧ t.flash = s.flash ∧
        t.get (Base.flash 0) Reg.objStatus = Status.denied) ∧
      (s.objReadable o = Status.ok → s.noFlash o.ctx = false → (∀ p ∈ s.maps, enKind p.2 = 0) → s.objArg Reg.objCount = 1 → s.objArg Reg.objFirst < o.blocks →
        placeOf (s.objArg Reg.objDdr / 8 * 8) = .ddr →
        (sha256 (o.segBytes (s.objArg Reg.objFirst / 256)) ≠ o.digests.getD (s.objArg Reg.objFirst / 256) [] ∨
            (s.objArg Reg.objFirst / 256, true) ∈ misread →
          ∃ t, exec (.objRead ⟨pd, misread⟩) s = .next t ∧ t.get (Base.flash 0) Reg.objStatus = Status.sigBad ∧
            t.mem = s.mem ∧ t.flash = s.flash) ∧
        (sha256 (o.segBytes (s.objArg Reg.objFirst / 256)) = o.digests.getD (s.objArg Reg.objFirst / 256) [] →
          (s.objArg Reg.objFirst / 256, true) ∉ misread →
          (∀ i, i < 512 → s.wordStatus (.control s.bootNow) (s.objArg Reg.objDdr / 8 * 8 + 8 * i) = Status.ok) →
          ∃ t, exec (.objRead ⟨pd, misread⟩) s = .next t ∧ t.get (Base.flash 0) Reg.objStatus = Status.ok ∧ t.flash = s.flash ∧
            t.mem = (s.writeWords (.control s.bootNow) (s.objArg Reg.objDdr / 8 * 8) ((List.range 512).map fun k =>
              fresh (o.word (s.objArg Reg.objFirst * 512 + k)))).2.mem)) ∧
      (∃ t, exec (.objDelete pd) s = .next t ∧ t.flash.objects = s.flash.objects.filter (·.num != num) ∧
        t.obj num = none ∧ t.get (Base.flash 0) Reg.objStatus = Status.ok ∧ t.mem = s.mem)) ∧
    (∃ t, exec (.objStat pd) s = .next t ∧ t.flash = s.flash ∧ t.get (Base.flash 0) Reg.objStatus = Status.ok ∧
      t.answer = ⟨0, 0, []⟩ ∧ t.mem = s.mem)) ∧
  (c ∈ [.objCreate pd, .objWrite ⟨pd, retired⟩, .objSeal pd, .objRead ⟨pd, misread⟩, .objDelete pd, .objStat pd] →
    (s.pdUp pd.val = true → pd.val ≠ 0 → exec c s = .next (s.reply Status.denied)) ∧
    (s.pdUp 0 = true → pd.val = 0 → s.serving = false → ∃ t, exec c s = .next t ∧
      t.get (Base.flash 0) Reg.objStatus = Status.denied ∧ t.answer = ⟨0, 0, []⟩ ∧
      OnlyFields s t [(Base.flash 0, Reg.objStatus, 0), (Base.flash 0, Reg.objState, 0), (Base.flash 0, Reg.objTtlLeft, 0)] ∧
      SameRest { s with answer := t.answer } t) ∧
    (s.pdUp pd.val = false → Unchanged c s))

/-- An object expires, a block is reclaimed, and a target that fails takes its objects. OBJECT_EXPIRY of a sealed
object whose time to live has run out marks it expired and counts it; of an open, expired or lost object, or
none, it changes nothing. READ_RECLAIM of a target in service is counted, erases one block of it and leaves
every object. FLASH_TARGET_FAIL of a target in service has it fenced and marks every object striped over it,
that has not expired, as lost; of a target that is not in service it changes nothing. -/
def Obligations.FlashEvents : Prop :=
∀ (s : State) (pd : Pd) (num block : Nat) (target : Fin 32) (o : FlObj),
  (s.serving = true → s.pdUp pd.val = true → s.obj num = some o → o.state = 2 → o.ttl ≠ 0 → s.ttlLeft o = 0 →
    ∃ t, exec (.objectExpiry pd num) s = .next t ∧ t.obj num = some { o with state := 3 } ∧
      (t.flash.objects.filter (·.num != num)) = s.flash.objects.filter (·.num != num) ∧
      t.get (Base.flash pd.val) Reg.flExpired =
        min (s.get (Base.flash pd.val) Reg.flExpired + 1) (2 ^ Reg.flExpired.w - 1) ∧ t.mem = s.mem) ∧
  (s.obj num = none ∨ (s.obj num = some o ∧ o.state ≠ 2) → Unchanged (.objectExpiry pd num) s) ∧
  (s.serving = true → s.pdUp pd.val = true → s.targetUp (32 * pd.val + target.val) = true →
    ∃ t, exec (.readReclaim pd target block) s = .next t ∧
      t.get (Base.flash pd.val) Reg.readReclaims =
        min (s.get (Base.flash pd.val) Reg.readReclaims + 1) (2 ^ Reg.readReclaims.w - 1) ∧
      t.flash = { s.flash with
        erases := cset (fun _ => 0) s.flash.erases (32 * pd.val + target.val) (cget (fun _ => 0) s.flash.erases (32 * pd.val + target.val) + 1) } ∧ SameRest { s with flash := t.flash } t) ∧
  (s.pdUp pd.val = true → s.targetUp (32 * pd.val + target.val) = true →
    s.goneUnit (uid (0x10 + pd.val) (0x20 + target.val)) = false →
    ∃ t, exec (.flashTargetFail pd target) s = .next t ∧
      (uid (0x10 + pd.val) (0x20 + target.val), 0x0D, target.val, 0) ∈ t.faults.toFence ∧
      t.flash.objects = s.flash.objects.map (fun (o : FlObj) =>
        if o.state ≠ 3 ∧ (32 * pd.val + target.val) ∈ o.targets then { o with state := 4 } else o) ∧
      t.mem = s.mem ∧ t.units = s.units) ∧
  (s.pdUp pd.val = false ∨ s.targetUp (32 * pd.val + target.val) = false → Unchanged (.flashTargetFail pd target) s)

/-- A lane that fails retrains its link, a lock resumes it, and replays run from the last ACK. A good bulk lane that
fails on a link in service or retraining leaves LANE_OK, and the link retrains at width 0 and counts it, or is
to be fenced where no width is left; a lane of any other link changes nothing. A retraining that locks puts the
link in service at the width its good lanes allow, with every flit that no ACK covers to be sent again and
nothing else changed; one that does not lock has the link fenced; without a retraining nothing changes.
REPLAY_TIMEOUT replays what is unacknowledged and counts it; the eighth replay without progress retrains, a
second such event in the frame fences. An armature lane that fails clears ARM_OK, and where no other link to
that neighbour keeps its lane every link to it is to be fenced. -/
def Obligations.LinkLanesAndReplay : Prop :=
∀ (s : State) (link : LinkNo) (lane : Fin 8) (k : Link) (b ok : Nat),
  b = Base.peerLink link.val → k = s.link link.val → ok = s.get b Reg.laneOk →
  ((s.get b Reg.linkState = 2 ∨ s.get b Reg.linkState = 3) → ok.testBit lane.val = true →
    ∃ t, exec (.laneFail link lane) s = .next t ∧ t.get b Reg.laneOk = ok - 2 ^ lane.val ∧
      t.mem = s.mem ∧ t.links = s.links ∧ t.units = s.units ∧
      (linkWidthOf (ok - 2 ^ lane.val) ≠ 0 → t.get b Reg.linkState = 3 ∧ t.get b Reg.linkWidth = 0 ∧
        t.get b Reg.plRetrains = min (s.get b Reg.plRetrains + 1) 65535 ∧ t.faults = s.faults) ∧
      (linkWidthOf (ok - 2 ^ lane.val) = 0 → t.goneUnit (linkUnit link.val) = true)) ∧
  (¬((s.get b Reg.linkState = 2 ∨ s.get b Reg.linkState = 3) ∧ ok.testBit lane.val = true) →
    Unchanged (.laneFail link lane) s) ∧
  (s.get b Reg.linkState = 3 →
    (∃ t, exec (.linkRetrainEnd link true) s = .next t ∧ t.get b Reg.linkState = 2 ∧
      t.get b Reg.linkWidth = linkWidthOf ok ∧ t.links = (s.setLink link.val { k with resend := k.replay, held := none }).links ∧
      OnlyFields s t [(b, Reg.linkState, 0), (b, Reg.linkWidth, 0)] ∧ t.mem = s.mem ∧ t.faults = s.faults) ∧
    (∃ t, exec (.linkRetrainEnd link false) s = .next t ∧ t.goneUnit (linkUnit link.val) = true ∧ t.regs = s.regs ∧
      t.links = s.links ∧ t.mem = s.mem)) ∧
  (s.get b Reg.linkState ≠ 3 → Unchanged (.linkRetrainEnd link true) s ∧ Unchanged (.linkRetrainEnd link false) s) ∧
  (s.get b Reg.linkState = 2 → k.replay ≠ [] →
    ∃ t, exec (.replayTimeout link) s = .next t ∧
      t.get b Reg.plReplays = min (s.get b Reg.plReplays + 1) 65535 ∧ (t.link link.val).resend = k.replay ∧
      (t.link link.val).replay = k.replay ∧ (t.link link.val).fseq = k.fseq ∧ t.mem = s.mem ∧
      (k.noProgress + 1 < 8 → (t.link link.val).noProgress = k.noProgress + 1 ∧ t.get b Reg.linkState = 2 ∧
        OnlyFields s t [(b, Reg.plReplays, 0)] ∧ t.faults = s.faults) ∧
      (8 ≤ k.noProgress + 1 → k.stalls = 0 → linkWidthOf ok ≠ 0 → t.get b Reg.linkState = 3 ∧
        t.get b Reg.plRetrains = min (s.get b Reg.plRetrains + 1) 65535 ∧ (t.link link.val).stalls = 1) ∧
      (8 ≤ k.noProgress + 1 → 1 ≤ k.stalls → t.goneUnit (linkUnit link.val) = true)) ∧
  (s.get b Reg.linkState ≠ 2 ∨ k.replay = [] → Unchanged (.replayTimeout link) s) ∧
  (s.armUp link.val = true →
    ∃ t, exec (.armatureLaneFail link) s = .next t ∧ t.get b Reg.armOk = 0 ∧ t.get b Reg.linkState = s.get b Reg.linkState ∧
      t.links = s.links ∧ t.mem = s.mem ∧
      ((∃ m, m < 24 ∧ m ≠ link.val ∧ s.armUp m = true ∧ s.peer m = s.peer link.val) → t.faults = s.faults) ∧
      ((∀ m, m < 24 → m ≠ link.val → s.peer m = s.peer link.val → s.armUp m = false) →
        ∀ m ∈ s.linksTo (s.peer link.val), t.goneUnit (linkUnit m) = true)) ∧
  (s.armUp link.val = false → Unchanged (.armatureLaneFail link) s)

/-- A link sends a replay, control, data or idle flit; a good flit in order is taken, any other asks for a replay. A
FLIT_SEND first lets the link's armature lane, where it is up, carry its frames (log 192). A link in service
whose replay is under way sends the next flit of it with the ACK of now. Otherwise, with its replay buffer full,
or nothing to send, it sends an idle flit that is not kept; with NAK records waiting, and no fault injection in
force, it sends up to 512 of them in a control flit; else the flit of the chunk that arbitration picks, which
takes a credit and is kept until acknowledged, its chunk going to retention with the last flit. A flit that is
not good, or not the next expected, is counted and discarded, and NAK is set once. A good idle flit frees what
its ACK covers, returns credits and, with NAK, starts a replay. A chunk's only flit, good and in order, makes
the chunk ready with its words. On a link not in service no flit is sent or taken; its armature lane, where it
is up, still sends its frames beside. -/
def Obligations.FlitsSentAndReceived : Prop :=
∀ (s : State) (link : LinkNo) (f : Flit) (fec : Bool) (k : Link) (u : State) (b : Nat),
  b = Base.peerLink link.val → k = s.link link.val → u = (if s.armUp link.val then s.armSend link.val else s) →
  (s.get b Reg.linkState ≠ 2 → exec (.flitSend link) s = .next u ∧ Unchanged (.flitReceive link f fec) s) ∧
  (s.get b Reg.linkState = 2 →
    (∀ g rest, k.resend = g :: rest → ∃ t, exec (.flitSend link) s = .next t ∧
      (t.link link.val).tx = some (flitRenew g k) ∧ (t.link link.val).resend = rest ∧
      (t.link link.val).replay = k.replay ∧ (t.link link.val).credits = k.credits ∧
      (t.link link.val).asent = (u.link link.val).asent ∧ t.regs = u.regs ∧ t.mem = s.mem) ∧
    (k.resend = [] → (32 ≤ k.replay.length ∨ (k.control = [] ∧ u.vcReady link.val = [])) →
      ∃ t, exec (.flitSend link) s = .next t ∧ (t.link link.val).tx = some k.idleFlit ∧
        (t.link link.val).replay = k.replay ∧ (t.link link.val).fseq = k.fseq ∧
        (t.link link.val).queues = k.queues ∧ (t.link link.val).credits = k.credits ∧ t.regs = u.regs ∧ t.mem = s.mem) ∧
    (k.resend = [] → k.replay.length < 32 → k.control ≠ [] → bit k.inForce 63 = false →
      ∃ t g, exec (.flitSend link) s = .next t ∧ (t.link link.val).tx = some g ∧
        (t.link link.val).replay = k.replay ++ [g] ∧ bits g.h0 63 52 = k.fseq % 4096 ∧ bits g.h0 38 37 = 2 ∧
        g.payload = (k.control.take 512).flatMap (fun r => [r.1, r.2]) ∧
        (t.link link.val).control = k.control.drop 512 ∧ (t.link link.val).fseq = (k.fseq + 1) % 4096 ∧
        (t.link link.val).queues = k.queues ∧ t.regs = u.regs ∧ t.mem = s.mem) ∧
    (∀ v turn i k' c, k.resend = [] → k.replay.length < 32 → k.control = [] → bit k.inForce 63 = false →
      r16 k.vcTurn 3 (u.vcReady link.val) = some (v, turn) → u.vcPick link.val v = some (i, k') →
      (k'.queues.getD v [])[i]? = some c →
      ∃ t g, exec (.flitSend link) s = .next t ∧ (t.link link.val).tx = some g ∧
        (t.link link.val).replay = k.replay ++ [g] ∧ bits g.h0 38 37 = 1 ∧ g.h1 = c.h1 c.sent (decide (c.clen ≤ 1024 * (c.sent + 1))) ∧
        g.h2 = c.h2 ∧ g.payload = c.flitWords c.sent ∧
        (t.link link.val).credits = setAt k.credits v (k.credits.getD v 0 - 1) ∧
        (t.link link.val).fseq = (k.fseq + 1) % 4096 ∧ (t.link link.val).vcTurn = turn ∧
        (t.link link.val).retention = k.retention ++ (if c.clen ≤ 1024 * (c.sent + 1) then [c] else []) ∧ t.mem = s.mem) ∧
    (flitGood f fec = false ∨ (bits f.h0 38 37 ≠ 0 ∧ bits f.h0 63 52 ≠ k.expect) →
      ∃ t, exec (.flitReceive link f fec) s = .next t ∧
        t.links = (s.setLink link.val { k with nakSend := k.nakSend || !k.nakOpen, nakOpen := true }).links ∧
        t.get b Reg.flitBad = min (s.get b Reg.flitBad + 1) (2 ^ 32 - 1) ∧ OnlyFields s t [(b, Reg.flitBad, 0)] ∧
        t.mem = s.mem ∧ t.units = s.units) ∧
    (∀ n, flitGood f fec = true → bits f.h0 38 37 = 0 → n = (bits f.h0 51 40 + 4096 - k.acked) % 4096 →
      n ≤ k.replay.length →
      ∃ t, exec (.flitReceive link f fec) s = .next t ∧ (t.link link.val).replay = k.replay.drop n ∧
        (t.link link.val).credits =
          List.zipWith (· + ·) k.credits [bits f.h0 36 30, bits f.h0 29 23, bits f.h0 22 16] ∧
        (t.link link.val).expect = k.expect ∧ t.mem = s.mem ∧
        (bit f.h0 39 = false → t.regs = s.regs ∧ (t.link link.val).retention = k.retention.drop (bits f.h0 15 9)) ∧
        (bit f.h0 39 = true → n < k.replay.length → (t.link link.val).resend = k.replay.drop n)) ∧
    (∀ c, flitGood f fec = true → bits f.h0 38 37 = 1 → bits f.h0 63 52 = k.expect → bit f.h0 39 = false →
      c = Chunk.ofHeader f.h1 f.h2 → bits f.h1 15 13 = 0 → bit f.h1 12 = true →
      (c.coll = true ∨ c.dst = s.myNum) →
      ∃ t x, exec (.flitReceive link f fec) s = .next t ∧ (t.link link.val).ready = k.ready ++ [x] ∧
        x.words = (f.payload ++ List.replicate (1024 - f.payload.length) 0).take (min 1024 c.clen) ∧
        x.same c = true ∧ x.vc = c.vc ∧ x.whole = true ∧ x.ccrc = BitVec.ofNat 32 (bits f.h3 63 32) ∧
        (t.link link.val).expect = (k.expect + 1) % 4096 ∧
        (t.link link.val).owed = setAt k.owed c.vc (k.owed.getD c.vc 0 + 1) ∧ t.mem = s.mem ∧ t.units = s.units))

/-- A clean chunk lands in its window, a damaged one is asked for again, and a deadline closes what is open. A whole
transfer chunk with a good CCRC lands in the window that takes it, at its base + 65,536 times its number, and
gives the window's event when it was the last; one that no window takes, or of a reserved PHASE, is counted. One
whose CCRC fails has a NAK record sent, unless this link has asked for that chunk before, and is counted; a
chunk with BADFWD is only passed over. A chunk NAK record queues the chunk kept in retention once more, with
RETX, at the end of its channel. At its deadline, the budget end of the slot after its own (with a slip pending,
of the slip stroke), a window closes; one still short gives its event and sets CHUNK; before that nothing
changes. A collective past its LAT slots ends as failed. An armature frame that cannot be decoded, or is out of
order, is discarded and counted and NAK is sent back; a good THROTTLE frame for this device, next in order, is
taken. -/
def Obligations.ChunksLandAndExpire : Prop :=
∀ (s : State) (link : LinkNo) (k : Link) (b : Nat) (c : Chunk) (rest : List Chunk) (w1 w2 : Word) (src : BitVec 12)
    (stream : BitVec 7) (cid : BitVec 6) (fr : ArmFrame),
  b = Base.peerLink link.val → k = s.link link.val →
  (s.get b Reg.linkState = 2 → k.ready = c :: rest →
    (c.badfwd = true → exec (.chunkReceive link) s =
      .next (s.setLink link.val { k with ready := rest, cackOwed := k.cackOwed + 1 })) ∧
    (∀ u wait, wait = k.asked.filter (fun (r : Word × Word) => !c.same (Chunk.ofHeader r.1 r.2)) →
      u = s.setLink link.val { k with ready := rest, cackOwed := k.cackOwed + 1, asked := wait } →
      (c.badfwd = false → c.coll = false → 4 < c.phase → exec (.chunkReceive link) s = .next (u.count b Reg.unmatched)) ∧
      (c.badfwd = false → c.phase ≤ 4 → chunkCrc c.words = c.ccrc → c.coll = false → c.dst = s.myNum →
        (∀ w ∈ s.windows, ¬(w.src = c.src ∧ w.stream = c.stream ∧ w.ctx = c.ctx ∧ c.cseq < w.cap ∧ c.cseq ∉ w.landed)) →
        exec (.chunkReceive link) s = .next (u.count b Reg.unmatched)) ∧
      (∀ w v, c.badfwd = false → c.phase ≤ 4 → chunkCrc c.words = c.ccrc → c.coll = false → c.dst = s.myNum → s.windows = [w] →
        w.src = c.src → w.stream = c.stream → w.ctx = c.ctx → c.cseq < w.cap → c.cseq ∉ w.landed →
        v = u.unitWrite (w.core / 48) (w.core % 48) w.ctx (8 * c.clen + 1) (w.base + 65536 * c.cseq) c.stored →
        ∃ t, exec (.chunkReceive link) s = .next t ∧ t.mem = v.mem ∧
          t.windows = [{ w with landed := c.cseq :: w.landed }] ∧
          (w.landed.length + 1 ≠ w.cap → t.regs = v.regs) ∧
          (w.landed.length + 1 = w.cap → w.core < 384 → w.ec < 16 →
            t.get (Base.core (w.core / 48) (w.core % 48)) Reg.evc w.ec =
              min (v.get (Base.core (w.core / 48) (w.core % 48)) Reg.evc w.ec + 1) (2 ^ 24 - 1)))) ∧
    (c.badfwd = false → c.phase ≤ 4 → chunkCrc c.words ≠ c.ccrc → c.coll = false →
      ∃ t, exec (.chunkReceive link) s = .next t ∧
        (t.link link.val).control = k.control ++
          (if k.asked.any (fun r => c.same (Chunk.ofHeader r.1 r.2)) then [] else [c.record]) ∧
        (t.link link.val).ready = rest ∧ t.get b Reg.crcFail = min (s.get b Reg.crcFail + 1) (2 ^ Reg.crcFail.w - 1) ∧
        t.windows = s.windows ∧ t.mem = s.mem)) ∧
  (s.get b Reg.linkState ≠ 2 ∨ k.ready = [] → Unchanged (.chunkReceive link) s) ∧
  (s.get b Reg.linkState = 2 → k.retention = [c] → c.same (Chunk.ofHeader w1 w2) = true → c.again = false →
    (∀ d ∈ k.queues.getD c.vc [], ¬(d.again = true ∧ d.same c = true)) →
    ∀ qs : List (List Chunk), qs = setAt k.queues c.vc (k.queues.getD c.vc [] ++ [{ c with retx := true, again := true, sent := 0 }]) →
    exec (.chunkNak link w1 w2) s = .next (s.setLink link.val { k with queues := qs })) ∧
  (s.get b Reg.linkState ≠ 2 ∨ k.retention = [] → Unchanged (.chunkNak link w1 w2) s) ∧
  (∀ w, s.windows = [w] → w.src = src.toNat → w.stream = stream.toNat → w.core < 384 → w.ec < 16 →
    s.slotOver (w.slot + 1) = true →
    ∃ t, exec (.chunkDeadline (.window src stream)) s = .next t ∧ t.windows = [] ∧ t.mem = s.mem ∧
      (w.landed.length = w.cap → t.units = s.units ∧ OnlyFields s t [(Base.collective 0, Reg.winInFlight, 0),
        (Base.collective 0, Reg.winWindows, 0), (Base.collective 1, Reg.winInFlight, 0), (Base.collective 1, Reg.winWindows, 0)]) ∧
      (w.landed.length ≠ w.cap → t.units = (s.addReason [w.ctx] Reason.chunk).units ∧
        t.get (Base.core (w.core / 48) (w.core % 48)) Reg.evc w.ec =
          min (s.get (Base.core (w.core / 48) (w.core % 48)) Reg.evc w.ec + 1) (2 ^ 24 - 1))) ∧
  ((∀ w ∈ s.windows, w.src = src.toNat → w.stream = stream.toNat → s.slotOver (w.slot + 1) = false) →
    Unchanged (.chunkDeadline (.window src stream)) s) ∧
  (∀ x, s.bulk = [x] → x.cid = cid.toNat → s.slotOver (x.slot + x.lat) = true → x.told = false → x.core < 384 → x.ec < 16 →
    ∃ t, exec (.chunkDeadline (.collective cid)) s = .next t ∧ t.bulk = [] ∧ t.mem = s.mem ∧
      t.units = (s.addReason [x.ctx] Reason.chunk).units ∧
      t.get (Base.core (x.core / 48) (x.core % 48)) Reg.evc x.ec =
        min (s.get (Base.core (x.core / 48) (x.core % 48)) Reg.evc x.ec + 1) (2 ^ 24 - 1)) ∧
  ((∀ x ∈ s.bulk, x.cid = cid.toNat → s.slotOver (x.slot + x.lat) = false) → Unchanged (.chunkDeadline (.collective cid)) s) ∧
  (s.armUp link.val = true → fr.codeOk = false →
    ∃ t, exec (.armatureFrameReceive link fr) s = .next t ∧ t.links = (s.setLink link.val { k with anakSend := true }).links ∧
      t.get b Reg.armBad = min (s.get b Reg.armBad + 1) (2 ^ Reg.armBad.w - 1) ∧
      OnlyFields s t [(b, Reg.armBad, 0)] ∧ t.arm = s.arm ∧ t.mem = s.mem) ∧
  (s.armUp link.val = true → fr.codeOk = true → fr.nak = false → fr.idle = false → fr.corrected = 0 → k.areplay = [] →
    armCrcOk fr.words = true → fr.aseq.toNat ≠ k.aexpect →
    ∃ t, exec (.armatureFrameReceive link fr) s = .next t ∧ (t.link link.val).anakSend = true ∧
      (t.link link.val).aexpect = k.aexpect ∧ t.arm = s.arm ∧ t.mem = s.mem) ∧
  (∀ m, s.armUp link.val = true → fr.codeOk = true → fr.nak = false → fr.idle = false → fr.corrected = 0 → k.areplay = [] →
    armCrcOk fr.words = true → fr.aseq.toNat = k.aexpect → m = armOfWords fr.words → m.mtype = 6 → m.dest.toNat = s.myNum →
    ∃ t, exec (.armatureFrameReceive link fr) s = .next t ∧ (t.link link.val).aexpect = (k.aexpect + 1) % 256 ∧
      cget (fun _ => none) t.strokes.levels m.src.toNat = some (bits (m.payload.getD 0 0) 3 0) ∧ t.arm.silence = 0 ∧
      (∀ a, t.reg a = s.reg a) ∧ t.mem = s.mem) ∧
  (s.armUp link.val = false → Unchanged (.armatureFrameReceive link fr) s)

/-- SEND queues what it reads, RECV opens a window, COLL posts a collective or is turned away. At a LINK command of
its sort that is not malformed, of a context with a share of the links' transfer channel: SEND of one chunk
whose words read well queues that chunk, whole and with its CCRC, on VC1 of the link that its route names, and
adds 1 to its counter; RECV with fewer than 256 windows opens one with the command's source, stream, base and
capacity, counted in WINDOWS, memory, units and links staying; with 256 it counts its event and sets OVERRUN.
COLL whose descriptor reads well and is in order posts the collective and sends its first chunks; one in error
counts its event and COLL_FAILED and sets OVERRUN. Without a share, SEND reads and queues nothing, counts its
event and sets OVERRUN (the model's reading of R409: log 204). SEND, RECV and a failed COLL have issued. -/
def Obligations.LinkCommands : Prop :=
∀ (s : State) (die : DieNo) (core : CoreNo) (b : BlockRun) (ws : List Word) (u : State),
  AtCommand s die.val core.val 0x0E 1 b ws → s.lkCauses die.val core.val ws = [] →
  u = s.issue die.val core.val b (ws.getD 0 0) 0 1 →
  (lkSub ws = 0 → s.noLinks b.ctx = true →
    ∃ t, exec (.send die core) s = .next t ∧ Issued s t die.val core.val 1 0 b (ws.getD 0 0) ∧ t.links = s.links ∧
      t.units = (s.workReason b.ctx b.kind b.seq Reason.overrun).units ∧ t.mem = s.mem) ∧
  (∀ v rd l, s.noLinks b.ctx = false → lkSub ws = 0 → lkNch ws = 1 → 1 < (v.link l).queues.length →
    u.unitRead die.val core.val b.ctx (s.lkAddr die.val core.val ws) (lkTail ws + 1) = (Status.ok, rd, v) →
    (∀ p ∈ rd, p.2 = false) → v.routeLink (lkPeer ws) 0 (lkStream ws) = some l →
    ∃ t x, exec (.send die core) s = .next t ∧ Issued s t die.val core.val 1 0 b (ws.getD 0 0) ∧
      (t.link l).queues.getD 1 [] = (v.link l).queues.getD 1 [] ++ [x] ∧ x.src = s.myNum ∧ x.dst = lkPeer ws ∧
      x.coll = false ∧ x.stream = lkStream ws ∧ x.cseq = 0 ∧ x.clen = lkTail ws + 1 ∧ x.ctx = b.ctx ∧
      x.words = rd.map Prod.fst ∧ x.ccrc = chunkCrc x.words ∧ x.poison = [] ∧ x.whole = true ∧ x.sent = 0 ∧
      t.get (Base.core die.val core.val) Reg.evc (lkEc ws) =
        min (s.get (Base.core die.val core.val) Reg.evc (lkEc ws) + 1) (2 ^ 24 - 1) ∧ t.mem = v.mem) ∧
  (lkSub ws = 1 → s.windows.length < 256 →
    ∃ t, exec (.recv die core) s = .next t ∧ Issued s t die.val core.val 1 0 b (ws.getD 0 0) ∧
      (∃ w : Window, t.windows = s.windows ++ [w] ∧ w.src = lkPeer ws ∧ w.stream = lkStream ws ∧ w.ctx = b.ctx ∧
        w.base = s.lkAddr die.val core.val ws ∧ w.cap = lkNch ws ∧ w.core = coreKey die.val core.val ∧ w.ec = lkEc ws ∧
        w.slot = s.sched ∧ w.landed = []) ∧
      t.get (Base.collective 0) Reg.winWindows = (s.windows.length + 1) % 2 ^ Reg.winWindows.w ∧ t.mem = s.mem ∧
      t.units = s.units ∧ t.links = s.links) ∧
  (lkSub ws = 1 → 256 ≤ s.windows.length →
    ∃ t, exec (.recv die core) s = .next t ∧ Issued s t die.val core.val 1 0 b (ws.getD 0 0) ∧ t.windows = s.windows ∧
      t.units = (s.workReason b.ctx b.kind b.seq Reason.overrun).units ∧
      t.get (Base.core die.val core.val) Reg.evc (lkEc ws) =
        min (s.get (Base.core die.val core.val) Reg.evc (lkEc ws) + 1) (2 ^ 24 - 1) ∧ t.mem = s.mem) ∧
  (∀ v rd x, s.noLinks b.ctx = false → lkSub ws = 2 → u.unitRead die.val core.val b.ctx (s.lkAddr die.val core.val ws) 8 = (Status.ok, rd, v) →
    (∀ p ∈ rd, p.2 = false) → x = v.bulkOfWords die.val core.val b (lkEc ws) (rd.map Prod.fst) →
    (v.bulkBad x = false → ∃ t, exec (.linkColl die core) s = .next t ∧
      t = (((({ v with bulk := v.bulk ++ [x] } : State).stepGather b x).ringBegin x).bulkSettle x.cid).linkShow ∧
      x.ctx = b.ctx ∧ x.slot = s.sched ∧ x.kind = bits ((rd.map Prod.fst).getD 0 0) 63 60) ∧
    (v.bulkBad x = true → ∃ t, exec (.linkColl die core) s = .next t ∧ Issued s t die.val core.val 1 0 b (ws.getD 0 0) ∧
      t.bulk = s.bulk ∧ t.units = (v.workReason b.ctx b.kind b.seq Reason.overrun).units ∧
      t.get (Base.core die.val core.val) Reg.evc (lkEc ws) =
        min (s.get (Base.core die.val core.val) Reg.evc (lkEc ws) + 1) (2 ^ 24 - 1) ∧
      t.get (Base.collective s.tablePd) Reg.collFailed =
        min (s.get (Base.collective s.tablePd) Reg.collFailed + 1) (2 ^ Reg.collFailed.w - 1) ∧ t.mem = v.mem))

/-- LEARN_STEP sets a configuration and its steps, LOAD_BATCH keeps a batch, a step begins and posts its norm.
LEARN_STEP that nothing stands against sets the context's configuration and program, binds the program's cores
and stores its words where it names a program or none is bound, and sets the steps it asks for from its batch
on; a first configuration of a model starts at step 1; one against which something stands completes with DENIED.
LOAD_BATCH keeps the image's sequences and tokens under the batch's number, or completes with DENIED or
TIER_FAIL. When a step may begin its batch's sequences are dealt over the members and the step runs under the
sequence its unit will take, in whole-pass mode after a change, in a test configuration or after two voids; with
no such batch the command ends with NOT_RESIDENT, with one that cannot be dealt with DENIED; when none may begin
nothing changes. STEP_NORM_POST of the only member posts once and takes its own squared norm and count of tokens
with LOSS as the reduced ones. -/
def Obligations.LearnCommandsAndSteps : Prop :=
∀ (s : State) (cmd : HostCmd) (p : Program) (image : Option (List Word)) (ctx : Ctx) (q : Nat), q = cmd.queue.val →
  (CmdRuns s cmd 0x20 → s.learnRefused cmd p = true →
    exec (.learnStep cmd p) s = .next (s.complete cmd Status.denied)) ∧
  (∀ g, CmdRuns s cmd 0x20 → s.learnRefused cmd p = false → s.learnProg cmd p = some g → lsSteps cmd ≠ 0 →
    ∃ t, exec (.learnStep cmd p) s = .next t ∧ (t.learn q).cfg = some (lsCfg cmd) ∧ (t.learn q).prog = some g ∧
      (t.learn q).cmd = some cmd ∧ (t.learn q).left = lsSteps cmd ∧ (t.learn q).next = lsBatch cmd ∧
      (t.learn q).run = none ∧ (t.learn q).sealed = 0 ∧ (t.learn q).batches = (s.learn q).batches ∧
      (t.learn q).step = (if ((s.learn q).cfg.map (·.model)) = some (lsModel cmd) then (s.learn q).step else 1) ∧
      (t.learn q).live = (if ((s.learn q).cfg.map (·.model)) = some (lsModel cmd) then (s.learn q).live else 0) ∧
      (if lsProg cmd = 0 ∧ (s.learn q).bound ≠ [] then (t.learn q).bound = (s.learn q).bound ∧ t.cores = s.cores
        else (t.learn q).bound = s.placement q g ∧ t.cores = (s.storeProgram g (s.placement q g)).cores) ∧
      (∀ c, c ≠ q → t.learn c = s.learn c) ∧ t.regs = s.regs ∧ t.mem = s.mem ∧ t.units = s.units ∧ t.um = s.um) ∧
  (∀ g, CmdRuns s cmd 0x20 → s.learnRefused cmd p = false → s.learnProg cmd p = some g → lsSteps cmd = 0 →
    ∃ t, exec (.learnStep cmd p) s = .next t ∧ (t.learn q).cfg = some (lsCfg cmd) ∧ (t.learn q).prog = some g ∧
      (t.learn q).cmd = none ∧ (t.hq q).cmds = (s.hq q).cmds.erase cmd ∧ t.units = s.units) ∧
  (∀ b : Batch, CmdRuns s cmd 0x21 → lbReserved cmd = false → (s.learn q).batches.any (·.num == lbBatch cmd) = false →
    (s.learn q).batches.length < 16 → s.ddrFits q (lbBytes cmd) = true →
    (image = none → exec (.loadBatch cmd image) s = .next (s.complete cmd Status.tierFail)) ∧
    (∀ ws, image = some ws → batchImageOk (lbBytes cmd) (s.learnVocab q) ws = false →
      exec (.loadBatch cmd image) s = .next (s.complete cmd Status.denied)) ∧
    (∀ ws, image = some ws → batchImageOk (lbBytes cmd) (s.learnVocab q) ws = true → b.num = lbBatch cmd →
      b.bytes = lbBytes cmd → b.seqs = imageSeqs ws → b.tokens = imageTokens ws → b.looped = false →
      ∃ t, exec (.loadBatch cmd image) s = .next t ∧ (t.learn q).batches = (s.learn q).batches ++ [b] ∧
        (t.hq q).cmds = (s.hq q).cmds.erase cmd ∧ (t.learn q).cmd = (s.learn q).cmd ∧ t.units = s.units)) ∧
  (CmdRuns s cmd 0x21 → (lbReserved cmd = true ∨ (s.learn q).batches.any (·.num == lbBatch cmd) = true ∨
      16 ≤ (s.learn q).batches.length ∨ s.ddrFits q (lbBytes cmd) = false) →
    exec (.loadBatch cmd image) s = .next (s.complete cmd Status.denied)) ∧
  (∀ f x, x = s.learn ctx.val → x.cfg = some f → s.runsSlots = true → s.wantsStep ctx.val = true → x.run = none →
    s.unitOpen ctx.val 0 = false → s.unitOpen ctx.val 2 = false →
    (∀ b deal, x.batches.find? (fun b => b.num == s.stepBatch ctx.val) = some b →
      dealBatch (s.stageSize ctx.val f.stages) f.mb (b.seqs.map (·.1)) = some deal →
      ∃ t r, exec (.learnStepBegin ctx) s = .next t ∧ (t.learn ctx.val).run = some r ∧ r.batch = b.num ∧ r.deal = deal ∧
        r.seq = s.planSeq ctx.val ∧
        r.whole = (x.changed || f.test || decide (2 ≤ x.voids)) ∧ r.posted = false ∧ r.norm = none ∧
        (t.learn ctx.val).step = x.step ∧ (∀ c, c ≠ ctx.val → t.learn c = s.learn c) ∧ t.regs = s.regs ∧ t.mem = s.mem ∧
        t.units = s.units ∧ t.um = s.um) ∧
    (∀ b, x.batches.find? (fun b => b.num == s.stepBatch ctx.val) = some b → x.cmd.isSome = true →
      dealBatch (s.stageSize ctx.val f.stages) f.mb (b.seqs.map (·.1)) = none →
      exec (.learnStepBegin ctx) s = .next (s.learnEnd ctx.val Status.denied x.lastStep)) ∧
    (x.batches.find? (fun b => b.num == s.stepBatch ctx.val) = none → x.cmd.isSome = true →
      exec (.learnStepBegin ctx) s = .next (s.learnEnd ctx.val Status.notResident x.lastStep))) ∧
  (s.runsSlots = false ∨ s.wantsStep ctx.val = false ∨ (s.learn ctx.val).run ≠ none ∨ (s.learn ctx.val).cfg = none ∨
      s.unitOpen ctx.val 0 = true ∨ s.unitOpen ctx.val 2 = true → Unchanged (.learnStepBegin ctx) s) ∧
  (∀ f r x, x = s.learn ctx.val → x.cfg = some f → x.run = some r → r.posted = false → s.runsSlots = true →
    s.arm.colls = [] → s.nextDim (s.groupOf ctx.val) 0 = 4 →
    ∃ t r', exec (.stepNormPost ctx) s = .next t ∧ (t.learn ctx.val).run = some r' ∧ r'.posted = true ∧
      r'.norm = some (word (s.normPartial x), word (s.lossTokens ctx.val x r)) ∧ r'.batch = r.batch ∧ r'.deal = r.deal ∧
      (t.learn ctx.val).tokens = s.lossTokens ctx.val x r % 2 ^ 64 ∧ t.arm.colls = [] ∧
      (∀ c, c ≠ ctx.val → t.learn c = s.learn c) ∧ t.regs = s.regs ∧ t.mem = s.mem ∧ t.units = s.units) ∧
  ((s.learn ctx.val).run = none ∨ s.runsSlots = false → Unchanged (.stepNormPost ctx) s)

/-- SUBMIT takes a slot, a prefix is registered and dropped, and a batch forms from them. SUBMIT and REGISTER_PREFIX
complete with the first status of Table 10.10 whose condition holds. A SUBMIT that meets none, without a prefix,
takes the lowest free slot under a new handle, is counted as admitted, completes with OK and the handle, and
leaves the other slots; REGISTER_PREFIX takes the lowest free prefix and waits for its prefill. DROP_PREFIX of a
registered prefix that no request uses frees it, of one in use marks it dropped, of none completes with
NOT_RESIDENT. BATCH_FORMATION for a context with one request to be prefilled, and nothing else, puts the piece
that its prompt, PREFILL_MAX and BATCH_MAX allow in the step, where the pages are there; outside RUNNING nothing
changes. -/
def Obligations.RequestsAdmittedAndBatched : Prop :=
∀ (s : State) (cmd : HostCmd) (prompt : Option (List W32)) (q : Nat), q = cmd.queue.val →
  (∀ st, CmdRuns s cmd 0x30 → s.submitStatus cmd prompt = st → st ≠ Status.ok →
    exec (.submit cmd prompt) s = .next (s.complete cmd st)) ∧
  (∀ i h u, CmdRuns s cmd 0x30 → s.submitStatus cmd prompt = Status.ok → handleUse (bits cmd.b4 63 32) = 0 →
    s.freeSlot = some i → s.newHandle q 0 i = (h, u) →
    ∃ t r, exec (.submit cmd prompt) s = .next t ∧ t.slotReq i = some r ∧ r.handle = h ∧ r.ctx = q ∧
      r.model = bits cmd.b0 63 32 ∧ r.st = 1 ∧ r.dclass = bits cmd.b0 31 28 ∧ r.draft = bits cmd.b0 27 24 ∧
      r.prompt = (tokensOf prompt).take (bits cmd.b4 23 0) ∧ r.next = r.prompt.length ∧
      r.endPos = r.prompt.length + bits cmd.b0 23 0 ∧ r.span = s.spanOf q r.endPos ∧ r.sealed = 0 ∧ r.prefilled = 0 ∧ r.accepted = s.stroke ∧
      r.ringAddr = bits cmd.b6 47 0 ∧ r.ringLog = bits cmd.b6 55 48 ∧ r.order = s.taken ∧ t.taken = s.taken + 1 ∧
      (∀ j, j ≠ i → t.slotReq j = s.slotReq j) ∧
      t.get Base.requests Reg.rqAdmitted = min (s.get Base.requests Reg.rqAdmitted + 1) (2 ^ Reg.rqAdmitted.w - 1) ∧
      (t.hq q).cmds = (s.hq q).cmds.erase cmd ∧ t.devState = Dev.running ∧ t.units = s.units ∧ t.maps = s.maps) ∧
  (∀ st span m len want, CmdRuns s cmd 0x33 → m = s.modelOf q (bits cmd.b0 63 32) → len = bits cmd.b0 23 0 →
    want = bits cmd.b2 23 0 → span = s.spanOf q want →
    st = firstStatus
      [(bits cmd.b0 31 24 != 0 || bits cmd.b1 63 48 != 0 || bits cmd.b2 63 24 != 0 ||
          !zeroWords [cmd.b3, cmd.b4, cmd.b5, cmd.b6, cmd.b7] || len == 0 || decide (want < len), Status.denied),
       (prompt.isSome && (match m with
          | some k => (tokensOf prompt).any fun t => decide (k.prog.vocab ≤ t)
          | none => false), Status.denied),
       (s.freePrefix.isNone || !s.canReserve q (s.newHandle q 1 (s.freePrefix.getD 0)).1 span 1 0 len false ||
          (m.map (·.leaving)).getD false, Status.denied),
       (!((m.map fun k => k.role == 1).getD false), Status.notResident), (prompt.isNone, Status.tierFail)] →
    (st ≠ Status.ok → exec (.registerPrefix cmd prompt) s = .next (s.complete cmd st)) ∧
    (∀ i h u, st = Status.ok → s.freePrefix = some i → s.newHandle q 1 i = (h, u) →
      ∃ t x, exec (.registerPrefix cmd prompt) s = .next t ∧ t.prefixAt i = some x ∧ x.handle = h ∧ x.ctx = q ∧
        x.model = bits cmd.b0 63 32 ∧ x.len = len ∧ x.span = span ∧ x.spanToks = want ∧ x.tokens = (tokensOf prompt).take len ∧
        x.prefilled = 0 ∧ x.dropped = false ∧ x.cmd = some cmd ∧ (∀ j, j ≠ i → t.prefixAt j = s.prefixAt j) ∧
        t.reqs = s.reqs ∧ t.um = s.um ∧ t.devState = Dev.running ∧ t.mem = s.mem ∧ t.units = s.units)) ∧
  (CmdRuns s cmd 0x34 → bits cmd.b0 63 32 = 0 →
    zeroWords [cmd.b1, cmd.b2, cmd.b3, cmd.b4, cmd.b5, cmd.b6, cmd.b7] = true →
    (∀ i x, s.prefixOf (bits cmd.b0 31 0) = some (i, x) → x.ctx = q → x.dropped = false → x.cmd = none →
      s.prefixes = [(i, some x)] →
      ∃ t, exec (.dropPrefix cmd) s = .next t ∧ (t.hq q).cmds = (s.hq q).cmds.erase cmd ∧ t.reqs = s.reqs ∧
        t.units = s.units ∧
        ((∃ e ∈ s.maps, enKind e.2 = 2 ∧ enPrefix e.2 = x.handle) →
          t.prefixAt i = some { x with dropped := true } ∧ t.maps = s.maps) ∧
        ((∀ e ∈ s.maps, enKind e.2 ≠ 2) → t.prefixAt i = none ∧
          t.get Base.requests Reg.rqPrefixes = 0)) ∧
    (s.prefixOf (bits cmd.b0 31 0) = none →
      exec (.dropPrefix cmd) s = .next (s.complete cmd Status.notResident))) ∧
  (CmdRuns s cmd 0x34 → bits cmd.b0 63 32 ≠ 0 → exec (.dropPrefix cmd) s = .next (s.complete cmd Status.denied)) ∧
  (∀ (ctx : Ctx) (consumed : List (BitVec 12 × W32)) (skips : List SkipReport),
    s.devState ≠ Dev.running → Unchanged (.batchFormation ctx consumed skips) s) ∧
  (∀ (ctx : Ctx) i r m take u v, s.devState = Dev.running → s.reqs = [(i, some r)] → s.prefixes = [] → r.ctx = ctx.val →
    r.st = 1 → r.piece = 0 → r.inStep = false → r.pausing = none → s.generates ctx.val = true →
    u = ((s.setReq i (some r)).fillTo ctx.val r.handle r.prefilled).setCtxRec ctx.val
      { s.ctxRec ctx.val with steps := (s.ctxRec ctx.val).steps + 1 } → r.prefilled < r.preLen + r.prompt.length →
    s.models = [m] → m.ctx = ctx.val → m.role = 1 → m.handle = r.model →
    take = min (r.preLen + r.prompt.length - r.prefilled) (min (s.prefillMax ctx.val m) (s.batchMax ctx.val m)) → take ≠ 0 →
    u.pagesMake ctx.val r.handle r.span r.parts r.prefilled (r.prefilled + take) = (true, v) →
    ∃ t, exec (.batchFormation ctx [] []) s = .next t ∧ t.slotReq i = some { v.takeCast r with piece := take, sampled := false } ∧
      t.maps = v.maps ∧ t.units = v.units ∧ t.um = v.um)

/-- PAUSE takes a request out, its object is written with no stretch open, and RESUME brings it back. PAUSE of a
request of its context that is not ending notes itself in that request alone; of none it completes with
NOT_RESIDENT, and with a reserved bit set with DENIED. PAUSE_OBJECT_WRITE of a request that is out of the batch,
has no stretch open and no page below tier 1, seals an object of kind 2 with its state and its pages, frees the
slot, and completes the command; with no object to be had the request goes on and the command completes with
DENIED; for any other request nothing changes. RESUME of a sealed pause object without pages or prefix, whose
map entries can be reserved, gives the request a free slot, a new handle, its span of now and its new ring from
record 0, deletes the object and completes with OK; of no object of the context it completes with NOT_RESIDENT. -/
def Obligations.RequestsPausedAndResumed : Prop :=
∀ (s : State) (cmd : HostCmd) (q : Nat) (slot : BitVec 12), q = cmd.queue.val →
  (∀ i r, CmdRuns s cmd 0x31 → bits cmd.b0 63 32 = 0 → bits cmd.b1 63 32 = 0 →
    zeroWords [cmd.b2, cmd.b3, cmd.b4, cmd.b5, cmd.b6, cmd.b7] = true → s.reqOf (bits cmd.b0 31 0) = some (i, r) →
    r.ctx = q → r.pausing = none → r.st ≠ 5 →
    exec (.pause cmd) s = .next (s.setReq i (some { r with pausing := some (cmd, bits cmd.b1 31 0) }))) ∧
  (CmdRuns s cmd 0x31 → bits cmd.b0 63 32 = 0 → bits cmd.b1 63 32 = 0 →
    zeroWords [cmd.b2, cmd.b3, cmd.b4, cmd.b5, cmd.b6, cmd.b7] = true → s.reqOf (bits cmd.b0 31 0) = none →
    exec (.pause cmd) s = .next (s.complete cmd Status.notResident)) ∧
  (CmdRuns s cmd 0x31 → bits cmd.b0 63 32 ≠ 0 → exec (.pause cmd) s = .next (s.complete cmd Status.denied)) ∧
  (∀ r c ttl pages blocks num o, s.serving = true → s.slotReq slot.toNat = some r → r.pausing = some (c, ttl) → r.st = 4 →
    r.stretches = [] → (∀ p ∈ s.pagesOf r.handle, enKind p.2.2 = 1 → enTier p.2.2 < 2) → pages = s.pausePages r.handle →
    blocks = 1 + pages.foldl (fun n p => n + ceilDiv (s.pageBytes p.die p.entry) 4096) 0 → num = s.objFree →
    (∀ v, s.objCreate num r.ctx 2 blocks ttl = (Status.ok, v) → v.obj num = some o →
      ∃ t x, exec (.pauseObjectWrite slot) s = .next t ∧ t.slotReq slot.toNat = none ∧ t.obj num = some x ∧
        x.state = 2 ∧ x.kind = 2 ∧ x.ctx = r.ctx ∧ x.ttl = ttl ∧ x.paused = some ({ r with pausing := none }, pages) ∧
        (t.hq c.queue.val).cmds = (s.hq c.queue.val).cmds.erase c ∧ t.units = s.units) ∧
    (∀ st v, s.objCreate num r.ctx 2 blocks ttl = (st, v) → st ≠ Status.ok →
      ∃ t x, exec (.pauseObjectWrite slot) s = .next t ∧ t.slotReq slot.toNat = some x ∧ x.pausing = none ∧
        x.handle = r.handle ∧ x.sealed = r.sealed ∧
        x.st = (if r.prefilled < r.preLen + r.prompt.length then 1 else 2) ∧ t.flash = s.flash ∧
        (t.hq c.queue.val).cmds = (s.hq c.queue.val).cmds.erase c)) ∧
  (s.serving = false ∨ s.slotReq slot.toNat = none ∨
      (∃ r, s.slotReq slot.toNat = some r ∧ (r.pausing = none ∨ r.st ≠ 4 ∨ r.stretches ≠ [])) →
    Unchanged (.pauseObjectWrite slot) s) ∧
  (∀ num o r i h u, CmdRuns s cmd 0x32 → bits cmd.b0 43 0 = 0 → bits cmd.b1 63 56 = 0 →
    zeroWords [cmd.b2, cmd.b3, cmd.b4, cmd.b5, cmd.b6, cmd.b7] = true → hostRingOk (bits cmd.b1 55 48) (bits cmd.b1 47 0) = true →
    s.freeSlot = some i → (s.ctxReqs q).length < s.get Base.contexts Reg.cxSlots q → num = bits cmd.b0 63 44 →
    s.obj num = some o → o.ctx = q → o.kind = 2 → o.paused = some (r, []) → (s.modelOf q r.model).isSome = true →
    handleUse r.pre = 0 → s.objNow o = 2 → s.newHandle q 0 i = (h, u) →
    s.canReserve q h (s.resumeSpan r) r.parts (s.sharedOrds r) r.endPos false = true →
    ∃ t x, exec (.resume cmd) s = .next t ∧ t.slotReq i = some x ∧ x.handle = h ∧ x.produced = 0 ∧ x.consumed = 0 ∧
      x.ringAddr = bits cmd.b1 47 0 ∧ x.ringLog = bits cmd.b1 55 48 ∧ x.sealed = r.sealed ∧ x.prompt = r.prompt ∧
      x.model = r.model ∧ x.accepted = s.stroke ∧ x.span = s.resumeSpan r ∧
      x.next = (if r.sealed = 0 then r.preLen + r.prompt.length else r.sealed) ∧
      x.st = (if r.prefilled < r.preLen + r.prompt.length then 1 else 2) ∧ t.obj num = none ∧
      (∀ j, j ≠ i → t.slotReq j = s.slotReq j) ∧ (t.hq q).cmds = (s.hq q).cmds.erase cmd ∧ t.devState = Dev.running ∧
      t.units = s.units) ∧
  (∀ i, CmdRuns s cmd 0x32 → bits cmd.b0 43 0 = 0 → bits cmd.b1 63 56 = 0 →
    zeroWords [cmd.b2, cmd.b3, cmd.b4, cmd.b5, cmd.b6, cmd.b7] = true → hostRingOk (bits cmd.b1 55 48) (bits cmd.b1 47 0) = true →
    s.freeSlot = some i → (s.ctxReqs q).length < s.get Base.contexts Reg.cxSlots q → s.obj (bits cmd.b0 63 44) = none →
    exec (.resume cmd) s = .next (s.complete cmd Status.notResident))

/-- LOAD_MODEL ends with the members' common status; a replaced model is evicted once nothing uses it. On a device
that is its context's only member, LOAD_MODEL without a replacement ends in one step with the first status that
stands against it, or that reading and verifying its shard found; with OK the model is resident under its
handle, its program bound to cores and its words in their command stores, and a model that generates has its
copy as cast 0. With a replacement that nothing else stands against, the old model is only marked as leaving and
the load waits; a copy of the command under way changes nothing. REPLACE_EVICT outside HALTED evicts a leaving
model that no request or prefix uses and ends the waiting load; while it is in use nothing changes. EVICT_MODEL
drops a model that nothing uses, refuses one in use, and answers NOT_RESIDENT for none. -/
def Obligations.ModelsLoadedAndEvicted : Prop :=
∀ (s : State) (cmd : HostCmd) (sh : Shard) (p : Program) (q : Nat) (ctx : Ctx) (h : W32) (old : Model), q = cmd.queue.val →
  (∀ st, CmdRuns s cmd 0x35 → s.loading = [] → s.arm.colls = [] → s.nextDim (s.groupOf q) 0 = 4 → lmReplace cmd = 0 →
    st = (if s.loadRefusal cmd p = Status.ok then s.loadFinding cmd sh else s.loadRefusal cmd p) →
    ∃ t, exec (.loadModel cmd sh p) s = .next t ∧ t.loading = [] ∧ t.arm.colls = [] ∧
      (t.hq q).cmds = (s.hq q).cmds.erase cmd ∧ t.units = s.units ∧
      (st ≠ Status.ok → t.models = s.models ∧ t.cores = s.cores ∧ t.flash = s.flash) ∧
      (st = Status.ok → ∃ m, t.models = s.models ++ [m] ∧ m.handle = lmModel cmd ∧ m.ctx = q ∧ m.role = lmRole cmd ∧
        m.tp = lmTp cmd ∧ m.bytes = (s.loadSource cmd sh).2.length ∧ m.prog = p ∧ m.leaving = false ∧
        m.bound = s.placement q p ∧
        m.casts = (if lmRole cmd = 1 then [0] else []) ∧ t.cores = (s.storeProgram p (s.placement q p)).cores ∧
        (lmStage cmd = 0 → t.flash = s.flash))) ∧
  (CmdRuns s cmd 0x35 → s.loading = [] → s.loadRefusal cmd p = Status.ok → lmReplace cmd ≠ 0 →
    ∃ t l, exec (.loadModel cmd sh p) s = .next t ∧ t.loading = [l] ∧ l.cmd = cmd ∧ l.stage = 0 ∧ l.shard = sh ∧ l.prog = p ∧
      t.models = s.models.map (fun m => if m.ctx = q ∧ m.handle = lmReplace cmd then { m with leaving := true } else m) ∧
      t.um = s.um ∧ t.regs = s.regs ∧ t.units = s.units ∧ t.cores = s.cores) ∧
  (CmdRuns s cmd 0x35 → s.loading.any (·.cmd == cmd) = true → Unchanged (.loadModel cmd sh p) s) ∧
  (∀ l, s.serving = true → s.devState ≠ Dev.halted → s.modelOf ctx.val h.toNat = some old → old.leaving = true → s.modelBusy old = false →
    s.loading = [l] → l.stage = 0 → l.cmd.queue.val = ctx.val → lmReplace l.cmd = h.toNat → s.arm.colls = [] →
    s.nextDim (s.groupOf ctx.val) 0 = 4 →
    ∃ t, exec (.replaceEvict ctx h) s = .next t ∧ t.loading = [] ∧
      (t.hq ctx.val).cmds = (s.hq ctx.val).cmds.erase l.cmd ∧ t.units = s.units ∧
      (s.loadFinding l.cmd l.shard ≠ Status.ok → t.models = (s.dropModel ctx.val h.toNat).models) ∧
      (s.loadFinding l.cmd l.shard = Status.ok → ∃ m, t.models = (s.dropModel ctx.val h.toNat).models ++ [m] ∧
        m.handle = lmModel l.cmd ∧ m.ctx = ctx.val ∧ m.prog = l.prog ∧ m.leaving = false)) ∧
  (s.serving = false ∨ (s.modelOf ctx.val h.toNat = some old ∧ (old.leaving = false ∨ s.modelBusy old = true)) →
    Unchanged (.replaceEvict ctx h) s) ∧
  (CmdRuns s cmd 0x36 → bits cmd.b0 31 0 = 0 → zeroWords [cmd.b1, cmd.b2, cmd.b3, cmd.b4, cmd.b5, cmd.b6, cmd.b7] = true →
    (s.modelOf q (bits cmd.b0 63 32) = none →
      exec (.evictModel cmd) s = .next (s.complete cmd Status.notResident)) ∧
    (s.modelOf q (bits cmd.b0 63 32) = some old →
      ((old.leaving = true ∨ s.modelBusy old = true ∨ s.unitUses old = true ∨ s.loopNames old = true) →
        exec (.evictModel cmd) s = .next (s.complete cmd Status.denied)) ∧
      (old.leaving = false → s.modelBusy old = false → s.unitUses old = false → s.loopNames old = false →
        ∃ t, exec (.evictModel cmd) s = .next t ∧ t.modelOf q (bits cmd.b0 63 32) = none ∧
          t.models = (s.dropModel q (bits cmd.b0 63 32)).models ∧ (t.hq q).cmds = (s.hq q).cmds.erase cmd ∧
          t.units = s.units ∧ t.cores = s.cores)))

/-- START_LOOP starts in TURN, a stop and a forced turn wait for the phase's work, a policy is set at once outside a
loop. START_LOOP with a policy, a learning configuration and its scoring models, where no loop runs, completes
with OK and the context's loop runs, in TURN, from the batch it names; it completes with DENIED where a loop
runs, or a policy, a configuration or a scoring model that it names lacks. STOP_LOOP where a loop runs notes
itself as the loop's stop and nothing else; with none, or a second stop, it completes with DENIED.
SET_TURN_POLICY completes with the status of Table 11.8; with OK the policy is in force, and shown, outside a
loop, and waits within one. FORCE_TURN with a policy joins the forced turns and sets FORCED; with none it
completes with DENIED. An action that is the other row's changes nothing. -/
def Obligations.LoopsAndForcedTurns : Prop :=
∀ (s : State) (cmd : HostCmd) (q : Nat) (x : Loop) (b : Nat), q = cmd.queue.val → x = s.loop q → b = Base.phase →
  (CmdRuns s cmd 0x40 → slAction cmd ≠ 2 → slReserved cmd = false → s.get b Reg.phLoop q = 0 → x.policy.isSome = true →
    (s.learn q).cfg.isSome = true → s.scoreOk q (bits cmd.b1 63 32) = true → s.scoreOk q (bits cmd.b1 31 0) = true →
    ∃ t, exec (.startLoop cmd) s = .next t ∧ t.get b Reg.phLoop q = 1 ∧ t.get b Reg.phPhase q = 4 ∧
      t.get b Reg.phEntry q = s.stroke % 2 ^ 64 ∧ (t.loop q).formed = bits cmd.b2 63 48 ∧
      (t.loop q).used = bits cmd.b2 63 48 ∧ (t.loop q).ref = bits cmd.b1 63 32 ∧ (t.loop q).reward = bits cmd.b1 31 0 ∧
      (t.loop q).refLayers = s.scoreLayers q (bits cmd.b1 63 32) ∧ (t.loop q).rewardLayers = s.scoreLayers q (bits cmd.b1 31 0) ∧
      (t.loop q).stop = none ∧ (t.loop q).sealed = 0 ∧ (t.loop q).rollouts = [] ∧ (t.loop q).turnEvents = bit cmd.b0 61 ∧
      (∀ c, c ≠ q → t.loop c = s.loop c) ∧ (t.hq q).cmds = (s.hq q).cmds.erase cmd ∧ t.units = s.units ∧
      t.reqs = s.reqs) ∧
  (CmdRuns s cmd 0x40 → slAction cmd ≠ 2 →
    (slReserved cmd = true ∨ s.get b Reg.phLoop q = 1 ∨ x.policy = none ∨ (s.learn q).cfg = none ∨
      s.scoreOk q (bits cmd.b1 63 32) = false ∨ s.scoreOk q (bits cmd.b1 31 0) = false) →
    exec (.startLoop cmd) s = .next (s.complete cmd Status.denied)) ∧
  (CmdRuns s cmd 0x40 → slAction cmd = 2 → Unchanged (.startLoop cmd) s) ∧
  (CmdRuns s cmd 0x40 → slAction cmd ≠ 2 → Unchanged (.stopLoop cmd) s) ∧
  (CmdRuns s cmd 0x40 → slAction cmd = 2 → slReserved cmd = false → s.get b Reg.phLoop q = 1 → x.stop = none →
    exec (.stopLoop cmd) s = .next (s.setLoop q { x with stop := some cmd })) ∧
  (CmdRuns s cmd 0x40 → slAction cmd = 2 → s.get b Reg.phLoop q = 0 ∨ x.stop.isSome = true ∨ slReserved cmd = true →
    exec (.stopLoop cmd) s = .next (s.complete cmd Status.denied)) ∧
  (∀ st, CmdRuns s cmd 0x41 → s.policyStatus cmd = st → st ≠ Status.ok →
    exec (.setTurnPolicy cmd) s = .next (s.complete cmd st)) ∧
  (CmdRuns s cmd 0x41 → s.policyStatus cmd = Status.ok →
    ∃ t, exec (.setTurnPolicy cmd) s = .next t ∧ (t.hq q).cmds = (s.hq q).cmds.erase cmd ∧ t.units = s.units ∧
      (s.get b Reg.phLoop q = 1 → (t.loop q).waiting = some (tpPolicy cmd) ∧ (t.loop q).policy = x.policy ∧
        t.get b Reg.phMode q = s.get b Reg.phMode q) ∧
      (s.get b Reg.phLoop q ≠ 1 → (t.loop q).policy = some (tpPolicy cmd) ∧ (t.loop q).waiting = none ∧
        t.get b Reg.phMode q = bits cmd.b1 63 62 ∧
        t.get b Reg.phStaleMax q = (if bits cmd.b1 63 62 = 1 then bits cmd.b1 61 60 else 0))) ∧
  (CmdRuns s cmd 0x42 → zeroWords [cmd.b0, cmd.b1, cmd.b2, cmd.b3, cmd.b4, cmd.b5, cmd.b6, cmd.b7] = true →
    x.policy.isSome = true → cmd ∉ x.forced →
    ∃ t, exec (.forceTurn cmd) s = .next t ∧ (t.loop q).forced = x.forced ++ [cmd] ∧ t.get b Reg.phForced q = 1 ∧
      (t.loop q).policy = x.policy ∧ t.um = s.um ∧ t.units = s.units ∧ OnlyFields s t [(b, Reg.phForced, q)]) ∧
  (CmdRuns s cmd 0x42 → x.policy = none → exec (.forceTurn cmd) s = .next (s.complete cmd Status.denied))

/-- A context is created and its shares set, a reset is accepted, and a shared set switches contexts. CREATE_CONTEXT
of a FREE context whose body lies under the image's ceiling and fits the pool makes it ACTIVE with a new queue
pair and the body's shares, which wait for the frame boundary; otherwise it completes with DENIED. SET_SHARES
that nothing stands against gives a context its new shares and keeps its state; otherwise DENIED. RESET_CONTEXT
of a live context puts it in reset and waits; a second one waits with it; of a FREE one it completes with
DENIED. CONTEXT_SWITCH onto a set on which no context runs makes the incoming context run there; from a context
that is to be pre-empted and is quiet it saves each core's counters with its partition, leaves it SAVED and
counted, and names the incoming one on every core; while the incoming one may not run nothing changes. -/
def Obligations.ContextsAndShares : Prop :=
∀ (s : State) (cmd : HostCmd) (b : List Word) (ctx : Nat) (k : Nat) (out inc : Ctx), b = cmdBody cmd → ctx = sbCtx b →
  k = Base.contexts →
  (CmdRuns s cmd 0x50 → sbReserved b = false → queueReserved cmd = false → s.ctxState ctx = 0 →
    s.underCeiling ctx b = true → s.poolFits ctx b = true → s.flashUsed ctx ≤ sbFlash b * 2 ^ 30 →
    ∃ t, exec (.createContext cmd) s = .next t ∧ t.ctxState ctx = 1 ∧ t.get k Reg.cxPrio ctx = sbPrio b ∧
      t.get k Reg.cxQos ctx = sbQos b ∧ t.get k Reg.cxShared ctx = b2n (sbShared b) ∧
      t.get k Reg.cxSpLimit ctx = sbSp b ∧ t.get k Reg.cxSlots ctx = sbSlots b ∧ t.get k Reg.cxDdrMask ctx = sbDdr b ∧
      t.get k Reg.cxWays ctx = sbWays b ∧ t.get k Reg.cxFlashGib ctx = sbFlash b ∧
      t.heldShares ctx = sbShares b ∧ (t.ctxRec ctx).dieMask = sbDies b ∧ (t.ctxRec ctx).coreFirst = sbFirst b ∧
      (t.ctxRec ctx).cores = sbCount b ∧ (t.ctxRec ctx).mapLimit = sbMap b ∧ (t.ctxRec ctx).shares = some b ∧
      (t.hq ctx).sq = cmd.b5 ∧ (t.hq ctx).eq = cmd.b6 ∧ (t.hq ctx).coalesce = sbCoalesce b ∧ (t.hq ctx).cmds = [] ∧
      t.get Base.umajo Reg.sqHead ctx = 0 ∧ t.get Base.umajo Reg.eqProduced ctx = 0 ∧
      (∀ c, c < 16 → c ≠ ctx → t.ctxState c = s.ctxState c) ∧ (t.hq 16).cmds = (s.hq 16).cmds.erase cmd ∧
      t.units = s.units) ∧
  (CmdRuns s cmd 0x50 → (sbReserved b = true ∨ queueReserved cmd = true ∨ s.ctxState ctx ≠ 0 ∨
      s.underCeiling ctx b = false ∨ s.poolFits ctx b = false) →
    exec (.createContext cmd) s = .next (s.complete cmd Status.denied)) ∧
  (CmdRuns s cmd 0x52 → s.sharesRefused cmd = false →
    ∃ t, exec (.setShares cmd) s = .next t ∧ t.ctxState ctx = s.ctxState ctx ∧ t.get k Reg.cxPrio ctx = sbPrio b ∧
      t.get k Reg.cxSlots ctx = sbSlots b ∧ t.get k Reg.cxDdrMask ctx = sbDdr b ∧ t.get k Reg.cxWays ctx = sbWays b ∧
      t.heldShares ctx = sbShares b ∧ (t.ctxRec ctx).shares = some b ∧ (t.ctxRec ctx).dieMask = sbDies b ∧
      (∀ c, c < 16 → c ≠ ctx → t.heldShares c = s.heldShares c) ∧ (t.hq 16).cmds = (s.hq 16).cmds.erase cmd ∧
      t.units = s.units) ∧
  (CmdRuns s cmd 0x52 → s.sharesRefused cmd = true →
    exec (.setShares cmd) s = .next (s.complete cmd Status.denied)) ∧
  (∀ c, c = bits cmd.b0 63 60 → CmdRuns s cmd 0x51 → bits cmd.b0 58 0 = 0 →
    zeroWords [cmd.b1, cmd.b2, cmd.b3, cmd.b4, cmd.b5, cmd.b6, cmd.b7] = true →
    (s.ctxState c = 0 → exec (.resetContext cmd) s = .next (s.complete cmd Status.denied)) ∧
    (s.ctxState c = 4 → cmd ∉ (s.ctxRec c).resets → exec (.resetContext cmd) s =
      .next (s.setCtxRec c { s.ctxRec c with resets := (s.ctxRec c).resets ++ [cmd] })) ∧
    (s.ctxState c ≠ 0 → s.ctxState c ≠ 4 →
      ∃ t, exec (.resetContext cmd) s = .next t ∧ t.ctxState c = 4 ∧ (t.ctxRec c).resetAt = s.stroke ∧
        (t.ctxRec c).stage = 0 ∧ (t.ctxRec c).resets = [cmd] ∧ (t.ctxRec c).keep = bit cmd.b0 59 ∧
        OnlyFields s t [(k, Reg.cxState, c)] ∧ t.mem = s.mem ∧ t.units = s.units ∧ t.um = s.um)) ∧
  (s.serving = true → s.ctxState inc.val ≠ 4 → (s.ctxRec inc.val).resume = true → s.runner inc.val = none →
    (s.ctxRec inc.val).coreFirst + (s.ctxRec inc.val).cores ≤ 48 →
    ∃ t, exec (.contextSwitch out inc) s = .next t ∧ t.ctxState inc.val = 1 ∧ (t.ctxRec inc.val).resume = false ∧
      t.get k Reg.cxSwitches inc.val = min (s.get k Reg.cxSwitches inc.val + 1) (2 ^ 32 - 1) ∧
      (∀ p ∈ (s.ctxRec inc.val).coreList, t.get (Base.coreBind p.1) Reg.cbRunValid p.2 = 1 ∧
        t.get (Base.coreBind p.1) Reg.cbRunCtx p.2 = inc.val) ∧ t.units = s.units ∧ t.um = s.um) ∧
  (s.serving = true → s.ctxState inc.val ≠ 4 → (s.ctxRec inc.val).resume = true → (s.ctxRec out.val).preempt = true →
    s.runner inc.val = some out.val → s.runner out.val = some out.val → inc.val ∈ s.sharers out.val → out ≠ inc →
    s.setQuiet out.val = true → (s.ctxRec out.val).dieMask < 256 →
    (s.ctxRec out.val).coreFirst + (s.ctxRec out.val).cores ≤ 48 →
    ∃ t, exec (.contextSwitch out inc) s = .next t ∧ t.ctxState out.val = 3 ∧ t.ctxState inc.val = 1 ∧
      t.get k Reg.cxPreempts out.val = min (s.get k Reg.cxPreempts out.val + 1) 65535 ∧
      t.get k Reg.cxSwitches inc.val = min (s.get k Reg.cxSwitches inc.val + 1) (2 ^ 32 - 1) ∧
      (∀ p ∈ (s.ctxRec out.val).coreList, t.get (Base.coreBind p.1) Reg.cbRunCtx p.2 = inc.val ∧
        ∃ y ∈ t.saves, y.ctx = out.val ∧ y.core = coreKey p.1 p.2 ∧ y.evc = s.counters p.1 p.2) ∧ t.units = s.units) ∧
  (s.serving = false ∨ s.ctxState inc.val = 4 ∨ (s.ctxRec inc.val).resume = false →
    Unchanged (.contextSwitch out inc) s)

/-- Doorbells move the queues' counts, entries become commands, and records written are notified. On a link that is
up, a submission-tail doorbell that moves forward within its queue sets the tail alone; one that does not is
counted in DB_BAD, moves nothing and is reported by a queue-error event with DENIED, which waits behind the
records that wait. An event-consumed doorbell within what was produced sets the count, and a record that waits
is then written. QUEUE_FETCH with room takes an entry in order: a good one becomes a command in progress, one
that is not completes with its status, which waits behind the records that wait; a read that brings none stalls
the queue; with nothing to fetch nothing changes. NOTIFY_TIMER with records not yet notified sends one NOTIFY
with the count, with none it changes nothing. On a link that is down the doorbells and the fetch change nothing. -/
def Obligations.QueuesAndDoorbells : Prop :=
∀ (s : State) (queue : Fin 17) (value : W32) (q : Nat) (b : Nat) (e : List Word), q = queue.val → b = Base.umajo →
  (∀ u, s.umUp = true → u = s.inboxDrop (doorbellArg 0 q value.toNat) →
    (s.dbBackward q value.toNat (s.get b Reg.sqTail q) = false →
      diff32 value.toNat (s.get b Reg.sqHead q) ≤ 2 ^ s.sqLog q →
      ∃ t, exec (.doorbellSqTail queue value) s = .next t ∧ t.get b Reg.sqTail q = value.toNat ∧
        (t.hq q).stalled = false ∧ (t.hq q).cmds = (s.hq q).cmds ∧ OnlyFields s t [(b, Reg.sqTail, q)] ∧
        t.um.inbox = u.um.inbox ∧ t.mem = s.mem ∧ t.units = s.units) ∧
    (s.dbBackward q value.toNat (s.get b Reg.sqTail q) = true ∨ 2 ^ s.sqLog q < diff32 value.toNat (s.get b Reg.sqHead q) →
      exec (.doorbellSqTail queue value) s = .next (u.dbIgnored q value.toNat) ∧
      (∀ k, k = (if q ≠ 16 ∧ s.ctxState q = 0 then 16 else q) → (s.hq k).buffer ≠ [] → (s.hq k).buffer.length < 256 →
        ∃ t r, exec (.doorbellSqTail queue value) s = .next t ∧ (t.hq k).buffer = (s.hq k).buffer ++ [r] ∧
          bits (r.getD 0 0) 63 60 = 7 ∧ bits (r.getD 0 0) 59 52 = Status.denied ∧
          t.get b Reg.dbBad = min (s.get b Reg.dbBad + 1) 65535 ∧ OnlyFields s t [(b, Reg.dbBad, 0)]))) ∧
  (∀ u, s.umUp = true → u = (s.inboxDrop (doorbellArg 1 q value.toNat)).put b Reg.eqConsumed value.toNat q →
    s.dbBackward q value.toNat (s.get b Reg.eqConsumed q) = false →
    diff32 value.toNat (s.get b Reg.eqConsumed q) ≤ diff32 (s.get b Reg.eqProduced q) (s.get b Reg.eqConsumed q) →
    ((s.hq q).buffer = [] → exec (.doorbellEqConsumed queue value) s = .next u ∧
      u.get b Reg.eqConsumed q = value.toNat ∧ OnlyFields s u [(b, Reg.eqConsumed, q)]) ∧
    (∀ r, (s.hq q).buffer = [r] → u.eqRoom q = true →
      ∃ t, exec (.doorbellEqConsumed queue value) s = .next t ∧ (t.hq q).buffer = [] ∧
        t.get b Reg.eqConsumed q = value.toNat ∧ t.get b Reg.eqProduced q = (s.get b Reg.eqProduced q + 1) % 2 ^ 32)) ∧
  (∀ a, s.umUp = true → s.fetches q = true → s.fetchCount q ≠ 0 →
    a = s.sqBase q + 128 * (s.get b Reg.sqHead q % 2 ^ s.sqLog q) → hostBase ≤ a →
    s.hostStatus (qCtx q) (a - hostBase) = Status.ok →
    (s.entryStatus q e = Status.ok →
      ∃ t, exec (.queueFetch queue [e]) s = .next t ∧ (t.hq q).cmds = (s.hq q).cmds ++ [entryCmd queue e] ∧
        t.get b Reg.sqHead q = (s.get b Reg.sqHead q + 1) % 2 ^ 32 ∧ OnlyFields s t [(b, Reg.sqHead, q)] ∧ t.mem = s.mem) ∧
    (s.entryStatus q e ≠ Status.ok → (s.hq q).buffer ≠ [] →
      ∃ t r, exec (.queueFetch queue [e]) s = .next t ∧ (t.hq q).cmds = (s.hq q).cmds ∧
        (t.hq q).buffer = (s.hq q).buffer ++ [r] ∧ bits (r.getD 0 0) 63 60 = 1 ∧
        bits (r.getD 0 0) 59 52 = s.entryStatus q e ∧ bits (r.getD 1 0) 63 32 = bits (e.getD 0 0) 31 0 ∧
        t.get b Reg.sqHead q = (s.get b Reg.sqHead q + 1) % 2 ^ 32) ∧
    (∃ t, exec (.queueFetch queue []) s = .next t ∧ (t.hq q).stalled = true ∧ (t.hq q).cmds = (s.hq q).cmds ∧
      t.get b Reg.sqHead q = s.get b Reg.sqHead q)) ∧
  (s.fetches q = false ∨ s.fetchCount q = 0 → Unchanged (.queueFetch queue [e]) s) ∧
  (s.umUp = false → Unchanged (.doorbellSqTail queue value) s ∧ Unchanged (.doorbellEqConsumed queue value) s ∧
    Unchanged (.queueFetch queue [e]) s) ∧
  (0 < (s.hq q).unseen → 0 < s.um.out.length →
    ∃ t m, exec (.notifyTimer queue) s = .next t ∧ (t.hq q).unseen = 0 ∧
      t.um.out.getD 0 [] = s.um.out.getD 0 [] ++ [(s.um.stamp, m)] ∧ m.mtype = 4 ∧
      m.arg = word (q * 2 ^ 32 + s.get b Reg.eqProduced q) ∧ t.regs = s.regs ∧ (t.hq q).buffer = (s.hq q).buffer) ∧
  ((s.hq q).unseen = 0 → Unchanged (.notifyTimer queue) s)

/-- The Umajo link sends and takes flits, retrains or goes down, and completions reach their reads. A link that is
up sends the next flit of its replay; with 64 flits unacknowledged, or nothing to send, an idle flit; else its
waiting message for which it holds credits. A flit that is damaged, or not the next expected, is counted and NAK
is set once; a good idle flit frees what it acknowledges and returns credits; a good flit that holds one whole
sound message keeps it for its command. REPLAY_TIMEOUT replays and counts, and at the eighth retrains. A lane
that fails leaves the link up at the width left once it locks again, or else the link goes down, the window is
fenced and the device fails; after a second it trains again. MEM_CPL gives a read its data, TIER_FAIL where it
failed, and is counted where nothing waits for it. A lost message is sent once more, then its request fails. A
link that is down does none of this. -/
def Obligations.UmajoLinkAndMessages : Prop :=
∀ (s : State) (f : UmFlit) (fec : Bool) (u : Umajo) (b : Nat) (lane : Fin 16) (m : UmMsg) (mtag : Half), u = s.um →
  b = Base.umajo →
  (s.umUp = false → Unchanged .umajoFlitSend s ∧ Unchanged (.umajoFlitReceive f fec) s ∧ Unchanged .umajoReplayTimeout s ∧
    Unchanged (.memCpl m) s ∧ Unchanged (.messageErrorReport mtag) s) ∧
  (s.umUp = true →
    (∀ g rest, u.resend = g :: rest → exec .umajoFlitSend s = .next { s with um :=
      { u with tx := some (u.renew g), resend := rest, nakSend := false } }) ∧
    (u.resend = [] → (64 ≤ u.replay.length ∨ (u.control = [] ∧ u.stream = [] ∧ u.ready = [])) →
      ∃ t g, exec .umajoFlitSend s = .next t ∧ t.um.tx = some g ∧ bits g.h0 38 37 = 0 ∧ g.payload = [] ∧
        t.um.replay = u.replay ∧ t.um.fseq = u.fseq ∧ t.um.out = u.out ∧ t.regs = s.regs ∧ t.mem = s.mem) ∧
    (∀ n, u.resend = [] → u.replay.length < 64 → u.control = [] → u.stream = [] → u.out = [[(n, m)], [], []] →
      umUnits m ≤ u.credits.getD 0 0 → 0 < u.credits.length →
      ∃ t g, exec .umajoFlitSend s = .next t ∧ t.um.tx = some g ∧ bits g.h0 38 37 = 1 ∧
        g.payload = wordsOf ((umBytes m).take 1024) ∧ t.um.stream = (umBytes m).drop 1024 ∧
        t.um.replay = u.replay ++ [g] ∧ t.um.fseq = (u.fseq + 1) % 4096 ∧ t.um.out = [[], [], []] ∧
        t.um.credits.getD 0 0 = u.credits.getD 0 0 - umUnits m ∧ t.mem = s.mem) ∧
    (fec = true → (bits f.h1 63 32 ≠ umFlitCrc f ∨ bits f.h0 38 37 = 3 ∨
        (bits f.h0 38 37 ≠ 0 ∧ bits f.h0 63 52 ≠ u.expect)) →
      ∃ t, exec (.umajoFlitReceive f fec) s = .next t ∧
        t.um = { u with nakSend := u.nakSend || !u.nakOpen, nakOpen := true } ∧
        t.get b Reg.umFlitBad = min (s.get b Reg.umFlitBad + 1) (2 ^ 32 - 1) ∧ OnlyFields s t [(b, Reg.umFlitBad, 0)]) ∧
    (∀ n, fec = true → bits f.h1 63 32 = umFlitCrc f → bits f.h0 38 37 = 0 → bit f.h0 39 = false →
      n = (bits f.h0 51 40 + 4096 - u.acked) % 4096 → n ≤ u.replay.length →
      ∃ t, exec (.umajoFlitReceive f fec) s = .next t ∧ t.um.replay = u.replay.drop n ∧
        t.um.credits = List.zipWith (· + ·) u.credits [bits f.h0 36 28, bits f.h0 27 19, bits f.h0 18 10] ∧
        t.um.expect = u.expect ∧ t.um.inbox = u.inbox ∧ t.regs = s.regs) ∧
    (∀ bs n, fec = true → bits f.h1 63 32 = umFlitCrc f → bits f.h0 38 37 = 1 → bits f.h0 63 52 = u.expect →
      bit f.h0 39 = false → u.rx = [] → bs = bytesOf ((f.payload ++ List.replicate (128 - f.payload.length) 0).take 128) →
      n = umLength ((wordsOf (bs.take 8)).getD 0 0) → n ≤ bs.length → (bs.drop n).all (· == 0) = true →
      bs.all (· == 0) = false → umCrcOk (bs.take n) = true → m = umParse (bs.take n) → (m.mtype = 5 ∨ m.mtype = 6) →
      m.poisoned = false → m.tagged = false →
      ∃ t, exec (.umajoFlitReceive f fec) s = .next t ∧ t.um.inbox = u.inbox ++ [m] ∧ t.um.rx = [] ∧
        t.um.expect = (u.expect + 1) % 4096 ∧ t.mem = s.mem) ∧
    (u.replay ≠ [] → ∃ t, exec .umajoReplayTimeout s = .next t ∧ t.um.resend = u.replay ∧ t.um.replay = u.replay ∧
      t.get b Reg.umReplays = min (s.get b Reg.umReplays + 1) 65535 ∧
      t.get b Reg.umState = (if u.noProgress + 1 < 8 then 2 else 3)) ∧
    (u.replay = [] → Unchanged .umajoReplayTimeout s) ∧
    (∀ i x, s.slotOf m.mtag.toNat = some i → x = s.slot i → x.owner = .access → u.rdWait = [] →
      (bits m.arg 63 56 = Status.ok → ∃ t, exec (.memCpl m) s = .next t ∧ t.answer = ⟨0, m.data.headD 0, []⟩ ∧
        (t.slot i).busy = false ∧ (t.slot i).gen = x.gen ∧ t.regs = s.regs ∧ t.mem = s.mem) ∧
      (bits m.arg 63 56 ≠ Status.ok → ∃ t, exec (.memCpl m) s = .next t ∧
        t.answer = ⟨BitVec.ofNat 8 Status.tierFail, 0, []⟩ ∧ (t.slot i).busy = false ∧ t.regs = s.regs ∧ t.mem = s.mem)) ∧
    (s.slotOf m.mtag.toNat = none → ∃ t, exec (.memCpl m) s = .next t ∧
      t.get b Reg.readLate = min (s.get b Reg.readLate + 1) 65535 ∧ OnlyFields s t [(b, Reg.readLate, 0)]) ∧
    (∀ i, s.slotOf mtag.toNat = some i → (s.slot i).told = false → 1 < u.out.length →
      ∃ t, exec (.messageErrorReport mtag) s = .next t ∧ t.slot i = { s.slot i with told := true } ∧
        t.um.out.getD 1 [] = u.out.getD 1 [] ++ [(u.stamp, slotRead i (s.slot i))] ∧ t.regs = s.regs) ∧
    (∀ x k, s.slotOf mtag.toNat = none → cget (fun _ => none) u.writes mtag.toNat = some (x, false, k) → u.out.length = 3 →
      ∃ t, exec (.messageErrorReport mtag) s = .next t ∧
        t.um.out.getD (umClass x.mtype.toNat) [] = u.out.getD (umClass x.mtype.toNat) [] ++ [(u.stamp, x)] ∧
        cget (fun _ => none) t.um.writes mtag.toNat = some (x, true, k) ∧ t.regs = s.regs ∧ t.units = s.units) ∧
    (∀ x k, s.slotOf mtag.toNat = none → cget (fun _ => none) u.writes mtag.toNat = some (x, true, k) →
      ∃ t, exec (.messageErrorReport mtag) s = .next t ∧ cget (fun _ => none) t.um.writes mtag.toNat = none ∧
        t.units = (s.addReason [x.ctx.toNat] Reason.tierFail).units ∧ t.regs = s.regs) ∧
    (s.slotOf mtag.toNat = none → cget (fun _ => none) u.writes mtag.toNat = none →
      Unchanged (.messageErrorReport mtag) s)) ∧
  (∀ ok good (m : BitVec 16), (s.get b Reg.umState = 2 ∨ s.get b Reg.umState = 3) → ok = s.get b Reg.umLaneOk →
    ok.testBit lane.val = true → good = (ok - 2 ^ lane.val) &&& m.toNat → umWidthOf good ≠ 0 →
    ∃ t, exec (.umajoLaneFail lane (some m)) s = .next t ∧ t.get b Reg.umState = 2 ∧ t.get b Reg.umWidth = umWidthOf good ∧
      t.get b Reg.umLaneOk = good ∧ t.get b Reg.umRetrains = min (s.get b Reg.umRetrains + 1) 65535 ∧
      t.um = { u with resend := u.replay } ∧ t.devState = s.devState ∧ t.mem = s.mem) ∧
  ((s.get b Reg.umState = 2 ∨ s.get b Reg.umState = 3) → (∀ i, i < 1024 → (s.slot i).busy = false) → u.rdWait = [] →
    ∃ t, exec (.umajoLaneFail lane none) s = .next t ∧ t.get b Reg.umState = 0 ∧ t.get b Reg.umWidth = 0 ∧
      t.um.fenced = true ∧ t.devState = Dev.failed ∧ t.mem = s.mem) ∧
  (s.get b Reg.umState < 2 → Unchanged (.umajoLaneFail lane none) s) ∧
  (s.get b Reg.umState = 0 → s.devState = Dev.failed → exec .umajoRetrainTimer s = .next (s.put b Reg.umState 1)) ∧
  (s.get b Reg.umState ≠ 0 ∨ s.devState ≠ Dev.failed → Unchanged .umajoRetrainTimer s)

/-- An access of another size or alignment is DENIED without effect, and a denied read returns zero. In every state
but OFF and RESET, an access to control-and-status space that is not 8 bytes long, or not aligned to 8 bytes, by
a control core or the host, changes nothing and is answered DENIED with data zero; and whatever the access, a
read that is answered DENIED returns zero. -/
def Obligations.AccessSize : Prop :=
∀ (s : State) (p : Port) (addr : Addr) (bytes : Nat) (data hw : Word), s.awake = true →
  (0x300000000000 ≤ addr.toNat → addr.toNat < 0x300020000000 → bytes ≠ 8 ∨ addr.toNat % 8 ≠ 0 →
    exec (.csrWrite p addr bytes ⟨data, hw⟩) s = .next { s with answer := ⟨BitVec.ofNat 8 Status.denied, 0, []⟩ } ∧
    exec (.csrReadClear p addr bytes hw) s = .next { s with answer := ⟨BitVec.ofNat 8 Status.denied, 0, []⟩ }) ∧
  (∀ t, exec (.csrReadClear p addr bytes hw) s = .next t → t.answer.status = BitVec.ofNat 8 Status.denied →
    t.answer.data = 0)

/-- An access to a reserved unit, an unlisted block or an offset without a register is DENIED. In every state but
OFF and RESET, an access to control-and-status space at which the unit and block tables and the field maps
define no register changes nothing and is answered DENIED with data zero; that holds of every address of the
reserved units 0x08 to 0x0F and 0x12 to 0x1E, and of every address of blocks 0x15 to 0x17 of PD1. -/
def Obligations.AccessTarget : Prop :=
∀ (s : State) (p : Port) (addr : Addr) (bytes a : Nat) (data hw : Word), s.awake = true →
  addr.toNat = 0x300000000000 + a → a < 0x20000000 →
  (fieldsAt a = [] ∨ (8 ≤ a / 0x1000000 ∧ a / 0x1000000 < 0x10) ∨ (0x12 ≤ a / 0x1000000 ∧ a / 0x1000000 < 0x1F) ∨
    (0x1115 ≤ a / 0x10000 ∧ a / 0x10000 ≤ 0x1117)) →
  exec (.csrWrite p addr bytes ⟨data, hw⟩) s = .next { s with answer := ⟨BitVec.ofNat 8 Status.denied, 0, []⟩ } ∧
  exec (.csrReadClear p addr bytes hw) s = .next { s with answer := ⟨BitVec.ofNat 8 Status.denied, 0, []⟩ }

/-- Registers are read, cleared and written, tables behind command registers served, quotes signed and images
updated. A read of a register is answered with its value and clears its RC bits but for what hardware adds at
once; a write of a register of the DEVICE unit takes each field by its access code, a W1C bit that hardware sets
in the same cycle standing. The host's CSR_RD is answered by a CSR_CPL, its CSR_WR by nothing. ROUTE_CMD and
HWIN_CMD write and read an entry; a write of the host region table waits for the frame boundary. FI_CFG takes
the host's write only where the image permits it. A quote with a tree ready, an index reserved and a destination
that firmware may write uses the next index and reports OK and 5,716 bytes; with no tree it is denied. A bottom
tree ready is noted once. An update with a valid image writes the other slot and prefers it; with a bad one it
ends in SIG_BAD, with none in TIER_FAIL, and boot flash stays; outside READY, RUNNING and HALTED it is denied. -/
def Obligations.RegistersTablesAndTrust : Prop :=
∀ (s : State) (p : Port) (addr : Addr) (a : Nat) (data hw : Word) (mtag : Half) (pd : Pd) (dev : BitVec 12) (link : LinkNo)
    (host : Bool) (region : BitVec 18) (image : Option (List Byte)), addr.toNat = 0x300000000000 + a →
  (s.awake = true → s.csrStatus p addr.toNat 8 false = Status.ok →
    ∃ t, exec (.csrReadClear p addr 8 hw) s = .next t ∧ t.answer = ⟨0, s.csrView a, []⟩ ∧
      t.reg a = s.reg a &&& ~~~ word (accMask (fieldsAt a) .rc) ||| (hw &&& word (accMask (fieldsAt a) .rc)) ∧
      (∀ x, x ≠ a → t.reg x = s.reg x) ∧ t.mem = s.mem ∧ t.units = s.units) ∧
  (s.awake = true → s.csrStatus p addr.toNat 8 true = Status.ok → csrUnit a = 0x1F → csrBlk a < 0x11 →
    ∃ t, exec (.csrWrite p addr 8 ⟨data, hw⟩) s = .next t ∧
      t.reg a = (fieldsAt a).foldl (fieldWrite true data hw) (s.reg a) ∧ t.answer = ⟨0, 0, []⟩ ∧
      (∀ x, x ≠ a → t.reg x = s.reg x) ∧ t.mem = s.mem ∧ t.units = s.units) ∧
  (s.umUp = true → s.csrStatus .host addr.toNat 8 false = Status.ok → 2 < s.um.out.length →
    ∃ t m, exec (.csrRd mtag ⟨addr, hw⟩) s = .next t ∧ t.um.out.getD 2 [] = s.um.out.getD 2 [] ++ [(s.um.stamp, m)] ∧
      m.mtype = 7 ∧ m.mtag = mtag ∧ m.data = [s.csrView a] ∧ bits m.arg 63 56 = Status.ok ∧
      (∀ x, x ≠ a → t.reg x = s.reg x)) ∧
  (s.umUp = true → s.csrStatus .host addr.toNat 8 true = Status.ok → csrUnit a = 0x1F → csrBlk a < 0x11 →
    ∃ t, exec (.csrWr mtag addr ⟨data, hw⟩) s = .next t ∧ t.reg a = (fieldsAt a).foldl (fieldWrite true data hw) (s.reg a) ∧
      t.um.out = s.um.out ∧ (∀ x, x ≠ a → t.reg x = s.reg x)) ∧
  (s.pdUp pd.val = true →
    (∃ t, exec (.routeWrite pd dev) s = .next t ∧ t.route pd.val dev.toNat =
        word (s.get (Base.collective pd.val) Reg.routeValid * 2 ^ 63 + s.get (Base.collective pd.val) Reg.routeMask) ∧
      (∀ q n, n < 4096 → (q, n) ≠ (pd.val, dev.toNat) → t.route q n = s.route q n) ∧ t.answer = ⟨0, 0, []⟩ ∧ t.regs = s.regs) ∧
    (∃ t, exec (.routeRead pd dev) s = .next t ∧
      t.get (Base.collective pd.val) Reg.routeValid = bits (s.route pd.val dev.toNat) 63 63 ∧
      t.get (Base.collective pd.val) Reg.routeMask = bits (s.route pd.val dev.toNat) 23 0 ∧ t.routes = s.routes ∧
      t.answer = ⟨0, 0, []⟩)) ∧
  (s.pdUp pd.val = false → Unchanged (.routeWrite pd dev) s ∧ Unchanged (.routeRead pd dev) s) ∧
  (s.pdUp (link.val / 12) = true →
    ((host = true ∧ s.get Base.device Reg.fiAllow = 0) ∨
      (bit data 62 = true ∧ (bits data 50 46 ≠ 0 ∨ bits data 45 41 ≠ 0)) →
      exec (.fiCfgWrite link data host) s = .next { s with answer := ⟨BitVec.ofNat 8 Status.denied, 0, []⟩ }) ∧
    ((host = true → s.get Base.device Reg.fiAllow = 1) → bit data 62 = false →
      ∃ t, exec (.fiCfgWrite link data host) s = .next t ∧ t.answer = ⟨0, 0, []⟩ ∧
        t.reg (Base.linkFault (link.val / 12) + link.val % 12 * 0x10) = data &&& fiMask ∧ t.links = s.links ∧
        (∀ x, x ≠ Base.linkFault (link.val / 12) + link.val % 12 * 0x10 → t.reg x = s.reg x))) ∧
  (s.awake = true →
    (∃ t, exec (.hwinWrite region) s = .next t ∧ t.um.regions = s.um.regions ∧
      cget (fun _ => none) t.um.waiting region.toNat = some (s.reg (Base.umajo + Reg.hwValid.off) &&& hwMask) ∧
      t.get Base.umajo Reg.hwStatus = Status.ok ∧ t.answer = ⟨0, 0, []⟩ ∧ OnlyFields s t [(Base.umajo, Reg.hwStatus, 0)]) ∧
    (∃ t, exec (.hwinRead region) s = .next t ∧ t.reg (Base.umajo + Reg.hwValid.off) = s.region region.toNat ∧
      t.get Base.umajo Reg.hwStatus = Status.ok ∧ t.answer = ⟨0, 0, []⟩ ∧ t.um = s.um)) ∧
  (∀ d q, s.serving = true → d = s.get Base.identity Reg.attAddr → hostBase ≤ d →
    s.hostStatus none (d - hostBase) = Status.ok → rgAdm (s.region ((d - hostBase) / 2 ^ 26)) = true →
    q = s.get Base.identity Reg.attNextQ →
    (s.boot.treeReady = true → q < provReserved s.boot.prov →
      ∃ t, exec .quote s = .next t ∧ t.get Base.identity Reg.attNextQ = (q + 1) % 2 ^ 40 ∧
        t.get Base.identity Reg.attStatus = Status.ok ∧ t.get Base.identity Reg.attSigBytes = 5716 ∧
        t.boot.prov = s.boot.prov ∧ t.boot.treeReady = decide ((q + 1) % 2 ^ 20 ≠ 0) ∧ t.mem = s.mem) ∧
    (s.boot.treeReady = false → ∃ t, exec .quote s = .next t ∧ t.get Base.identity Reg.attStatus = Status.denied ∧
      t.get Base.identity Reg.attNextQ = q ∧ t.um = s.um ∧ t.boot = s.boot)) ∧
  (s.serving = true → s.boot.treeReady = false → ∃ t, exec .treeReady s = .next t ∧ t.boot.treeReady = true ∧
    t.get Base.identity Reg.attState = 0 ∧ OnlyFields s t [(Base.identity, Reg.attState, 0)]) ∧
  (s.serving = false ∨ s.boot.treeReady = true → Unchanged .treeReady s) ∧
  (∀ d img slot, s.serving = true → d = s.get Base.boot Reg.updAddr → s.get Base.boot Reg.updState = 0 → hostBase ≤ d →
    s.hostStatus none (d - hostBase) = Status.ok → rgAdm (s.region ((d - hostBase) / 2 ^ 26)) = true →
    slot = 1 - s.get Base.boot Reg.bootSlot → img.length = s.get Base.boot Reg.updBytes →
    (∃ t, exec (.update none) s = .next t ∧ t.get Base.boot Reg.updStatus = Status.tierFail ∧ t.boot = s.boot ∧
      t.get Base.boot Reg.updState ≠ 1) ∧
    (imageOk s.boot.rootKey img (flashSlotBytes s.boot.flash) = false →
      ∃ t, exec (.update (some img)) s = .next t ∧ t.get Base.boot Reg.updStatus = Status.sigBad ∧ t.boot = s.boot) ∧
    (imageOk s.boot.rootKey img (flashSlotBytes s.boot.flash) = true → s.get Base.boot Reg.bootFw ≤ leAt (sectionBytes img 1) 0 4 →
      ∃ t, exec (.update (some img)) s = .next t ∧ t.get Base.boot Reg.updStatus = Status.ok ∧
        t.boot.flash = flashPrefer (flashProgram s.boot.flash slot img) slot ∧ t.boot.prov = s.boot.prov ∧
        t.answer = ⟨0, 0, []⟩)) ∧
  (s.awake = true → s.serving = false → s.get Base.boot Reg.updState = 0 →
    exec (.update image) s = .next { s with answer := ⟨BitVec.ofNat 8 Status.denied, 0, []⟩ } ∧
    exec .quote s = .next { s with answer := ⟨BitVec.ofNat 8 Status.denied, 0, []⟩ })

end
end

