-- ==== Sys2Proof/Laws/Cells.lean ====
section
/-! SUPPORT. What reading gives after writing sparse contents, and that writing keeps their canonical form. -/

namespace Sys2Proof.Machine

variable {α : Type}

theorem cget_cput_same (d : Nat → α) (c : Cells α) (k : Nat) (v : α) : cget d (cput c k v) k = v := by
  induction c with
  | nil => simp [cput, cget]
  | cons p c ih =>
    obtain ⟨k', v'⟩ := p
    simp only [cput]
    split
    · simp [cget]
    · split
      · simp [cget]
      · simp [cget, *]

theorem cget_cput_other (d : Nat → α) (c : Cells α) {k j : Nat} (v : α) (h : j ≠ k) :
    cget d (cput c k v) j = cget d c j := by
  induction c with
  | nil => simp [cput, cget, h]
  | cons p c ih =>
    obtain ⟨k', v'⟩ := p
    simp only [cput]
    split
    · simp [cget, h]
    · split
      · rename_i hk; subst hk; simp [cget, h]
      · simp [cget, ih]

theorem cget_cdel_same (d : Nat → α) (c : Cells α) (k : Nat) : cget d (cdel c k) k = d k := by
  induction c with
  | nil => rfl
  | cons p c ih =>
    obtain ⟨k', v'⟩ := p
    simp only [cdel]
    split
    · exact ih
    · simp [cget, *]

theorem cget_cdel_other (d : Nat → α) (c : Cells α) {k j : Nat} (h : j ≠ k) : cget d (cdel c k) j = cget d c j := by
  induction c with
  | nil => rfl
  | cons p c ih =>
    obtain ⟨k', v'⟩ := p
    simp only [cdel]
    split
    · rename_i hk; subst hk; simp [cget, h, ih]
    · simp [cget, ih]

variable [DecidableEq α]

/-- A write is read back. -/
@[simp] theorem cget_cset_same (d : Nat → α) (c : Cells α) (k : Nat) (v : α) : cget d (cset d c k v) k = v := by
  unfold cset
  split
  · rename_i h; rw [cget_cdel_same, h]
  · exact cget_cput_same d c k v

/-- A write leaves every other key alone. -/
theorem cget_cset_other (d : Nat → α) (c : Cells α) {k j : Nat} (v : α) (h : j ≠ k) :
    cget d (cset d c k v) j = cget d c j := by
  unfold cset
  split
  · exact cget_cdel_other d c h
  · exact cget_cput_other d c v h

/-! The canonical form -/

/-- Every key listed is at least `n`. -/
def cfrom (n : Nat) (c : Cells α) : Prop := ∀ p ∈ c, n ≤ p.1

theorem cwf_cons {d : Nat → α} {k : Nat} {v : α} {c : Cells α} :
    cwf d ((k, v) :: c) = true ↔ v ≠ d k ∧ cfrom (k + 1) c ∧ cwf d c = true := by
  induction c generalizing k v with
  | nil => simp [cwf, cfrom]
  | cons p c ih =>
    obtain ⟨k', v'⟩ := p
    rw [cwf]
    simp only [Bool.and_eq_true, decide_eq_true_eq]
    constructor
    · rintro ⟨⟨hv, hk⟩, hc⟩
      refine ⟨hv, ?_, hc⟩
      intro q hq
      rcases List.mem_cons.1 hq with rfl | hq
      · exact hk
      · have := (ih.1 hc).2.1 q hq; omega
    · rintro ⟨hv, hf, hc⟩
      exact ⟨⟨hv, hf _ List.mem_cons_self⟩, hc⟩

omit [DecidableEq α] in
theorem cfrom_cput {n : Nat} {c : Cells α} {k : Nat} (v : α) (h : cfrom n c) (hk : n ≤ k) : cfrom n (cput c k v) := by
  induction c with
  | nil => intro p hp; simp [cput] at hp; subst hp; exact hk
  | cons p c ih =>
    obtain ⟨k', v'⟩ := p
    have h' : n ≤ k' := h _ List.mem_cons_self
    have hc : cfrom n c := fun q hq => h q (List.mem_cons_of_mem _ hq)
    simp only [cput]
    split
    · intro q hq
      rcases List.mem_cons.1 hq with rfl | hq
      · exact hk
      · exact h q hq
    · split
      · intro q hq
        rcases List.mem_cons.1 hq with rfl | hq
        · exact hk
        · exact hc q hq
      · intro q hq
        rcases List.mem_cons.1 hq with rfl | hq
        · exact h'
        · exact ih hc q hq

theorem cwf_cput {d : Nat → α} {c : Cells α} {k : Nat} {v : α} (h : cwf d c = true) (hv : v ≠ d k) :
    cwf d (cput c k v) = true := by
  induction c with
  | nil => simp [cput, cwf, hv]
  | cons p c ih =>
    obtain ⟨k', v'⟩ := p
    obtain ⟨hv', hf, hc⟩ := cwf_cons.1 h
    simp only [cput]
    split
    · rename_i hk
      refine cwf_cons.2 ⟨hv, ?_, h⟩
      intro q hq
      rcases List.mem_cons.1 hq with rfl | hq
      · exact hk
      · have := hf q hq; omega
    · split
      · rename_i hk; subst hk; exact cwf_cons.2 ⟨hv, hf, hc⟩
      · exact cwf_cons.2 ⟨hv', cfrom_cput v hf (by omega), ih hc⟩

omit [DecidableEq α] in
theorem cfrom_cdel {n : Nat} {c : Cells α} (k : Nat) (h : cfrom n c) : cfrom n (cdel c k) := by
  induction c with
  | nil => exact h
  | cons p c ih =>
    obtain ⟨k', v'⟩ := p
    have hc : cfrom n c := fun q hq => h q (List.mem_cons_of_mem _ hq)
    simp only [cdel]
    split
    · exact ih hc
    · intro q hq
      rcases List.mem_cons.1 hq with rfl | hq
      · exact h _ List.mem_cons_self
      · exact ih hc q hq

theorem cwf_cdel {d : Nat → α} {c : Cells α} (k : Nat) (h : cwf d c = true) : cwf d (cdel c k) = true := by
  induction c with
  | nil => exact h
  | cons p c ih =>
    obtain ⟨k', v'⟩ := p
    obtain ⟨hv', hf, hc⟩ := cwf_cons.1 h
    simp only [cdel]
    split
    · exact ih hc
    · exact cwf_cons.2 ⟨hv', cfrom_cdel k hf, ih hc⟩

/-- A write keeps the canonical form. -/
theorem cwf_cset {d : Nat → α} {c : Cells α} (k : Nat) (v : α) (h : cwf d c = true) : cwf d (cset d c k v) = true := by
  unfold cset
  split
  · exact cwf_cdel k h
  · rename_i hv; exact cwf_cput h hv

omit [DecidableEq α] in
/-- Below the first key listed, a key reads as unlisted. -/
theorem cget_cfrom {d : Nat → α} {c : Cells α} {n k : Nat} (h : cfrom n c) (hk : k < n) : cget d c k = d k := by
  induction c with
  | nil => rfl
  | cons p c ih =>
    obtain ⟨k', v'⟩ := p
    have h' : n ≤ k' := h _ List.mem_cons_self
    have hne : k ≠ k' := by omega
    simp only [cget, hne, if_false]
    exact ih fun q hq => h q (List.mem_cons_of_mem _ hq)

/-- Canonical contents that read the same are the same data. -/
theorem cwf_ext {d : Nat → α} {a b : Cells α} (ha : cwf d a = true) (hb : cwf d b = true)
    (h : ∀ k, cget d a k = cget d b k) : a = b := by
  induction a generalizing b with
  | nil =>
    cases b with
    | nil => rfl
    | cons q b =>
      obtain ⟨k, v⟩ := q
      exact absurd (by simpa [cget] using (h k).symm) (cwf_cons.1 hb).1
  | cons p a ih =>
    obtain ⟨k, v⟩ := p
    obtain ⟨hv, hf, hc⟩ := cwf_cons.1 ha
    cases b with
    | nil => exact absurd (by simpa [cget] using h k) hv
    | cons q b =>
      obtain ⟨j, w⟩ := q
      obtain ⟨hw, hg, hd⟩ := cwf_cons.1 hb
      have hkj : k = j := by
        rcases Nat.lt_trichotomy k j with hlt | heq | hlt
        · have h1 := h k
          have hne : k ≠ j := by omega
          rw [show cget d ((k, v) :: a) k = v by simp [cget],
            show cget d ((j, w) :: b) k = cget d b k by simp [cget, hne], cget_cfrom hg (by omega)] at h1
          exact absurd h1 hv
        · exact heq
        · have h1 := h j
          have hne : j ≠ k := by omega
          rw [show cget d ((j, w) :: b) j = w by simp [cget],
            show cget d ((k, v) :: a) j = cget d a j by simp [cget, hne], cget_cfrom hf (by omega)] at h1
          exact absurd h1.symm hw
      subst hkj
      have hvw : v = w := by simpa [cget] using h k
      subst hvw
      congr 1
      refine ih hc hd fun i => ?_
      by_cases hi : i = k
      · subst hi
        rw [cget_cfrom hf (by omega), cget_cfrom hg (by omega)]
      · simpa [cget, hi] using h i

end Sys2Proof.Machine
end

