-- ==== Sys2Proof/Laws/State.lean ====
section
/-! SUPPORT. Fields of registers and of the state: what stands after an update. -/

namespace Sys2Proof.Machine

/-! One field of a register's word -/

theorem field_split (r a w l : Nat) (h : a < 2 ^ w) :
    (r / 2 ^ (l + w) * 2 ^ (l + w) + a * 2 ^ l + r % 2 ^ l) / 2 ^ l % 2 ^ w = a := by
  have hl : 0 < 2 ^ l := Nat.two_pow_pos l
  have e : r / 2 ^ (l + w) * 2 ^ (l + w) + a * 2 ^ l + r % 2 ^ l
      = r % 2 ^ l + 2 ^ l * (r / 2 ^ (l + w) * 2 ^ w + a) := by
    rw [Nat.pow_add]; ring
  rw [e, Nat.add_mul_div_left _ _ hl, Nat.div_eq_of_lt (Nat.mod_lt _ hl), Nat.zero_add, Nat.add_comm,
    Nat.add_mul_mod_self_right, Nat.mod_eq_of_lt h]

theorem field_bound (r a w l : Nat) (hr : r < 2 ^ 64) (h : a < 2 ^ w) (hw : l + w ≤ 64) :
    r / 2 ^ (l + w) * 2 ^ (l + w) + a * 2 ^ l + r % 2 ^ l < 2 ^ 64 := by
  have hl : 0 < 2 ^ l := Nat.two_pow_pos l
  obtain ⟨m, hm⟩ : ∃ m, 64 = (l + w) + m := ⟨64 - (l + w), by omega⟩
  have h1 : r / 2 ^ (l + w) < 2 ^ m := by
    rw [Nat.div_lt_iff_lt_mul (Nat.two_pow_pos _), ← Nat.pow_add, Nat.add_comm m, ← hm]; exact hr
  have h2 : a * 2 ^ l + r % 2 ^ l < 2 ^ (l + w) := by
    have : r % 2 ^ l < 2 ^ l := Nat.mod_lt _ hl
    have : (a + 1) * 2 ^ l ≤ 2 ^ w * 2 ^ l := Nat.mul_le_mul_right _ h
    rw [Nat.pow_add]; nlinarith
  have h3 : (r / 2 ^ (l + w) + 1) * 2 ^ (l + w) ≤ 2 ^ m * 2 ^ (l + w) := Nat.mul_le_mul_right _ h1
  have h4 : 2 ^ m * 2 ^ (l + w) = 2 ^ 64 := by rw [← Nat.pow_add, Nat.add_comm m, ← hm]
  rw [h4] at h3
  nlinarith

/-- A field set reads back as what was set, less the high bits that it has no room for. -/
theorem Fld.get_put (f : Fld) (r : Word) (v : Nat) (hf : f.lo + f.w ≤ 64) : f.get (f.put r v) = v % 2 ^ f.w := by
  unfold Fld.get Fld.put
  have hv : v % 2 ^ f.w < 2 ^ f.w := Nat.mod_lt _ (Nat.two_pow_pos _)
  rw [BitVec.toNat_ofNat, Nat.mod_eq_of_lt (field_bound _ _ _ _ r.isLt hv hf), field_split _ _ _ _ hv]

theorem field_above (r a w l k m : Nat) (h : a < 2 ^ w) (hk : l + w ≤ k) :
    (r / 2 ^ (l + w) * 2 ^ (l + w) + a * 2 ^ l + r % 2 ^ l) / 2 ^ k % 2 ^ m = r / 2 ^ k % 2 ^ m := by
  obtain ⟨j, rfl⟩ : ∃ j, k = l + w + j := ⟨k - (l + w), by omega⟩
  have hlow : a * 2 ^ l + r % 2 ^ l < 2 ^ (l + w) := by
    have : r % 2 ^ l < 2 ^ l := Nat.mod_lt _ (Nat.two_pow_pos l)
    have : (a + 1) * 2 ^ l ≤ 2 ^ w * 2 ^ l := Nat.mul_le_mul_right _ h
    rw [Nat.pow_add]; nlinarith
  congr 1
  rw [Nat.pow_add _ (l + w) j, ← Nat.div_div_eq_div_mul, ← Nat.div_div_eq_div_mul]
  congr 1
  rw [Nat.add_assoc, Nat.add_comm, Nat.add_mul_div_right _ _ (Nat.two_pow_pos _), Nat.div_eq_of_lt hlow, Nat.zero_add]

theorem field_below (r a w l k m : Nat) (hk : k + m ≤ l) :
    (r / 2 ^ (l + w) * 2 ^ (l + w) + a * 2 ^ l + r % 2 ^ l) / 2 ^ k % 2 ^ m = r / 2 ^ k % 2 ^ m := by
  obtain ⟨j, rfl⟩ : ∃ j, l = k + m + j := ⟨l - (k + m), by omega⟩
  have hd : ∀ n, n / 2 ^ k % 2 ^ m = n % 2 ^ (k + m) / 2 ^ k := fun n => by
    rw [Nat.pow_add, Nat.mod_mul_right_div_self]
  rw [hd, hd r]
  congr 1
  have e : r / 2 ^ (k + m + j + w) * 2 ^ (k + m + j + w) + a * 2 ^ (k + m + j) + r % 2 ^ (k + m + j)
      = r % 2 ^ (k + m + j) + 2 ^ (k + m) * (r / 2 ^ (k + m + j + w) * (2 ^ j * 2 ^ w) + a * 2 ^ j) := by
    simp only [Nat.pow_add]; ring
  rw [e, Nat.add_mul_mod_self_left, Nat.pow_add _ (k + m) j, Nat.mod_mul_right_mod]

/-- A field set leaves a field of other bits alone. -/
theorem Fld.get_put_other (f g : Fld) (r : Word) (v : Nat) (hf : f.lo + f.w ≤ 64)
    (h : f.lo + f.w ≤ g.lo ∨ g.lo + g.w ≤ f.lo) : g.get (f.put r v) = g.get r := by
  unfold Fld.get Fld.put
  have hv : v % 2 ^ f.w < 2 ^ f.w := Nat.mod_lt _ (Nat.two_pow_pos _)
  rw [BitVec.toNat_ofNat, Nat.mod_eq_of_lt (field_bound _ _ _ _ r.isLt hv hf)]
  rcases h with h | h
  · exact field_above _ _ _ _ _ _ hv h
  · exact field_below _ _ _ _ _ _ h

/-! Registers of the state -/

@[simp] theorem State.reg_setReg_same (s : State) (a : Nat) (v : Word) : (s.setReg a v).reg a = v := by
  simp [State.setReg, State.reg]

theorem State.reg_setReg_other (s : State) {a b : Nat} (v : Word) (h : b ≠ a) : (s.setReg a v).reg b = s.reg b :=
  cget_cset_other _ _ _ h

/-- A field put reads back as what was put. -/
theorem State.get_put_same (s : State) (base : Nat) (f : Fld) (v i : Nat) (hf : f.lo + f.w ≤ 64) :
    (s.put base f v i).get base f i = v % 2 ^ f.w := by
  simp [State.put, State.get, Fld.get_put _ _ _ hf]

/-- A field put leaves every other register alone. -/
theorem State.reg_put_other (s : State) (base : Nat) (f : Fld) (v i : Nat) {a : Nat}
    (h : a ≠ base + f.off + i * f.step) : (s.put base f v i).reg a = s.reg a :=
  State.reg_setReg_other s _ h

theorem State.get_put_addr (s : State) (base : Nat) (f : Fld) (v i base' : Nat) (g : Fld) (j : Nat)
    (h : base' + g.off + j * g.step ≠ base + f.off + i * f.step) :
    (s.put base f v i).get base' g j = s.get base' g j := by
  unfold State.get
  rw [State.reg_put_other s base f v i h]

/-- A field put leaves the other fields of its register alone. -/
theorem State.get_put_field (s : State) (base : Nat) (f : Fld) (v i base' : Nat) (g : Fld) (j : Nat)
    (ha : base' + g.off + j * g.step = base + f.off + i * f.step) (hf : f.lo + f.w ≤ 64)
    (h : f.lo + f.w ≤ g.lo ∨ g.lo + g.w ≤ f.lo) : (s.put base f v i).get base' g j = s.get base' g j := by
  unfold State.get State.put
  rw [ha, State.reg_setReg_same, Fld.get_put_other _ _ _ _ hf h]

/-- A field never reads above its width. -/
theorem State.get_lt (s : State) (base : Nat) (f : Fld) (i : Nat) : s.get base f i < 2 ^ f.w :=
  Nat.mod_lt _ (Nat.two_pow_pos _)

/-- A count goes up by what it counts, and stops at its largest value (R6). -/
theorem State.get_count_same (s : State) (base : Nat) (f : Fld) (n i : Nat) (hf : f.lo + f.w ≤ 64) :
    (s.count base f n i).get base f i = min (s.get base f i + n) (2 ^ f.w - 1) := by
  unfold State.count
  rw [State.get_put_same _ _ _ _ _ hf, Nat.mod_eq_of_lt]
  have := Nat.two_pow_pos f.w
  omega

theorem State.reg_count_other (s : State) (base : Nat) (f : Fld) (n i : Nat) {a : Nat}
    (h : a ≠ base + f.off + i * f.step) : (s.count base f n i).reg a = s.reg a :=
  State.reg_put_other s _ _ _ _ h

theorem State.get_count_addr (s : State) (base : Nat) (f : Fld) (n i base' : Nat) (g : Fld) (j : Nat)
    (h : base' + g.off + j * g.step ≠ base + f.off + i * f.step) :
    (s.count base f n i).get base' g j = s.get base' g j := State.get_put_addr s _ _ _ _ _ _ _ h

theorem State.get_count_field (s : State) (base : Nat) (f : Fld) (n i base' : Nat) (g : Fld) (j : Nat)
    (ha : base' + g.off + j * g.step = base + f.off + i * f.step) (hf : f.lo + f.w ≤ 64)
    (h : f.lo + f.w ≤ g.lo ∨ g.lo + g.w ≤ f.lo) : (s.count base f n i).get base' g j = s.get base' g j :=
  State.get_put_field s _ _ _ _ _ _ _ ha hf h

/-! Every other field of the state. Each is true by unfolding; `Eq.trans` makes `simp` rewrite with it, so that the kernel
never unfolds the updates themselves. -/

@[simp] theorem State.setReg_pins (s : State) (a : Nat) (v : Word) : (s.setReg a v).pins = s.pins := Eq.trans rfl rfl
@[simp] theorem State.setReg_eff (s : State) (a : Nat) (v : Word) : (s.setReg a v).eff = s.eff := Eq.trans rfl rfl
@[simp] theorem State.setReg_strokes (s : State) (a : Nat) (v : Word) : (s.setReg a v).strokes = s.strokes := Eq.trans rfl rfl
@[simp] theorem State.setReg_arm (s : State) (a : Nat) (v : Word) : (s.setReg a v).arm = s.arm := Eq.trans rfl rfl
@[simp] theorem State.setReg_units (s : State) (a : Nat) (v : Word) : (s.setReg a v).units = s.units := Eq.trans rfl rfl
@[simp] theorem State.setReg_outcomes (s : State) (a : Nat) (v : Word) : (s.setReg a v).outcomes = s.outcomes := Eq.trans rfl rfl
@[simp] theorem State.setReg_groups (s : State) (a : Nat) (v : Word) : (s.setReg a v).groups = s.groups := Eq.trans rfl rfl
@[simp] theorem State.setReg_boot (s : State) (a : Nat) (v : Word) : (s.setReg a v).boot = s.boot := Eq.trans rfl rfl
@[simp] theorem State.setReg_faults (s : State) (a : Nat) (v : Word) : (s.setReg a v).faults = s.faults := Eq.trans rfl rfl
@[simp] theorem State.setReg_ddr (s : State) (a : Nat) (v : Word) : (s.setReg a v).ddr = s.ddr := Eq.trans rfl rfl
@[simp] theorem State.setReg_mem (s : State) (a : Nat) (v : Word) : (s.setReg a v).mem = s.mem := Eq.trans rfl rfl
@[simp] theorem State.setReg_segs (s : State) (a : Nat) (v : Word) : (s.setReg a v).segs = s.segs := Eq.trans rfl rfl
@[simp] theorem State.setReg_epochs (s : State) (a : Nat) (v : Word) : (s.setReg a v).epochs = s.epochs := Eq.trans rfl rfl
@[simp] theorem State.setReg_hostEpochs (s : State) (a : Nat) (v : Word) : (s.setReg a v).hostEpochs = s.hostEpochs := Eq.trans rfl rfl
@[simp] theorem State.setReg_links (s : State) (a : Nat) (v : Word) : (s.setReg a v).links = s.links := Eq.trans rfl rfl
@[simp] theorem State.setReg_routes (s : State) (a : Nat) (v : Word) : (s.setReg a v).routes = s.routes := Eq.trans rfl rfl
@[simp] theorem State.setReg_windows (s : State) (a : Nat) (v : Word) : (s.setReg a v).windows = s.windows := Eq.trans rfl rfl
@[simp] theorem State.setReg_bulk (s : State) (a : Nat) (v : Word) : (s.setReg a v).bulk = s.bulk := Eq.trans rfl rfl
@[simp] theorem State.setReg_cores (s : State) (a : Nat) (v : Word) : (s.setReg a v).cores = s.cores := Eq.trans rfl rfl
@[simp] theorem State.setReg_signals (s : State) (a : Nat) (v : Word) : (s.setReg a v).signals = s.signals := Eq.trans rfl rfl
@[simp] theorem State.setReg_engines (s : State) (a : Nat) (v : Word) : (s.setReg a v).engines = s.engines := Eq.trans rfl rfl
@[simp] theorem State.setReg_maps (s : State) (a : Nat) (v : Word) : (s.setReg a v).maps = s.maps := Eq.trans rfl rfl
@[simp] theorem State.setReg_mapUse (s : State) (a : Nat) (v : Word) : (s.setReg a v).mapUse = s.mapUse := Eq.trans rfl rfl
@[simp] theorem State.setReg_moving (s : State) (a : Nat) (v : Word) : (s.setReg a v).moving = s.moving := Eq.trans rfl rfl
@[simp] theorem State.setReg_toRelease (s : State) (a : Nat) (v : Word) : (s.setReg a v).toRelease = s.toRelease := Eq.trans rfl rfl
@[simp] theorem State.setReg_flash (s : State) (a : Nat) (v : Word) : (s.setReg a v).flash = s.flash := Eq.trans rfl rfl
@[simp] theorem State.setReg_reqs (s : State) (a : Nat) (v : Word) : (s.setReg a v).reqs = s.reqs := Eq.trans rfl rfl
@[simp] theorem State.setReg_prefixes (s : State) (a : Nat) (v : Word) : (s.setReg a v).prefixes = s.prefixes := Eq.trans rfl rfl
@[simp] theorem State.setReg_uses (s : State) (a : Nat) (v : Word) : (s.setReg a v).uses = s.uses := Eq.trans rfl rfl
@[simp] theorem State.setReg_models (s : State) (a : Nat) (v : Word) : (s.setReg a v).models = s.models := Eq.trans rfl rfl
@[simp] theorem State.setReg_loading (s : State) (a : Nat) (v : Word) : (s.setReg a v).loading = s.loading := Eq.trans rfl rfl
@[simp] theorem State.setReg_learns (s : State) (a : Nat) (v : Word) : (s.setReg a v).learns = s.learns := Eq.trans rfl rfl
@[simp] theorem State.setReg_loops (s : State) (a : Nat) (v : Word) : (s.setReg a v).loops = s.loops := Eq.trans rfl rfl
@[simp] theorem State.setReg_ctxs (s : State) (a : Nat) (v : Word) : (s.setReg a v).ctxs = s.ctxs := Eq.trans rfl rfl
@[simp] theorem State.setReg_saves (s : State) (a : Nat) (v : Word) : (s.setReg a v).saves = s.saves := Eq.trans rfl rfl
@[simp] theorem State.setReg_taken (s : State) (a : Nat) (v : Word) : (s.setReg a v).taken = s.taken := Eq.trans rfl rfl
@[simp] theorem State.setReg_um (s : State) (a : Nat) (v : Word) : (s.setReg a v).um = s.um := Eq.trans rfl rfl
@[simp] theorem State.setReg_parts (s : State) (a : Nat) (v : Word) : (s.setReg a v).parts = s.parts := Eq.trans rfl rfl
@[simp] theorem State.setReg_answer (s : State) (a : Nat) (v : Word) : (s.setReg a v).answer = s.answer := Eq.trans rfl rfl
@[simp] theorem State.setReg_free (s : State) (a : Nat) (v : Word) : (s.setReg a v).free = s.free := Eq.trans rfl rfl
@[simp] theorem State.setReg_pending (s : State) (a : Nat) (v : Word) : (s.setReg a v).pending = s.pending := Eq.trans rfl rfl
@[simp] theorem State.put_pins (s : State) (b : Nat) (f : Fld) (v i : Nat) : (s.put b f v i).pins = s.pins := Eq.trans rfl rfl
@[simp] theorem State.put_eff (s : State) (b : Nat) (f : Fld) (v i : Nat) : (s.put b f v i).eff = s.eff := Eq.trans rfl rfl
@[simp] theorem State.put_strokes (s : State) (b : Nat) (f : Fld) (v i : Nat) : (s.put b f v i).strokes = s.strokes := Eq.trans rfl rfl
@[simp] theorem State.put_arm (s : State) (b : Nat) (f : Fld) (v i : Nat) : (s.put b f v i).arm = s.arm := Eq.trans rfl rfl
@[simp] theorem State.put_units (s : State) (b : Nat) (f : Fld) (v i : Nat) : (s.put b f v i).units = s.units := Eq.trans rfl rfl
@[simp] theorem State.put_outcomes (s : State) (b : Nat) (f : Fld) (v i : Nat) : (s.put b f v i).outcomes = s.outcomes := Eq.trans rfl rfl
@[simp] theorem State.put_groups (s : State) (b : Nat) (f : Fld) (v i : Nat) : (s.put b f v i).groups = s.groups := Eq.trans rfl rfl
@[simp] theorem State.put_boot (s : State) (b : Nat) (f : Fld) (v i : Nat) : (s.put b f v i).boot = s.boot := Eq.trans rfl rfl
@[simp] theorem State.put_faults (s : State) (b : Nat) (f : Fld) (v i : Nat) : (s.put b f v i).faults = s.faults := Eq.trans rfl rfl
@[simp] theorem State.put_ddr (s : State) (b : Nat) (f : Fld) (v i : Nat) : (s.put b f v i).ddr = s.ddr := Eq.trans rfl rfl
@[simp] theorem State.put_mem (s : State) (b : Nat) (f : Fld) (v i : Nat) : (s.put b f v i).mem = s.mem := Eq.trans rfl rfl
@[simp] theorem State.put_segs (s : State) (b : Nat) (f : Fld) (v i : Nat) : (s.put b f v i).segs = s.segs := Eq.trans rfl rfl
@[simp] theorem State.put_epochs (s : State) (b : Nat) (f : Fld) (v i : Nat) : (s.put b f v i).epochs = s.epochs := Eq.trans rfl rfl
@[simp] theorem State.put_hostEpochs (s : State) (b : Nat) (f : Fld) (v i : Nat) : (s.put b f v i).hostEpochs = s.hostEpochs := Eq.trans rfl rfl
@[simp] theorem State.put_links (s : State) (b : Nat) (f : Fld) (v i : Nat) : (s.put b f v i).links = s.links := Eq.trans rfl rfl
@[simp] theorem State.put_routes (s : State) (b : Nat) (f : Fld) (v i : Nat) : (s.put b f v i).routes = s.routes := Eq.trans rfl rfl
@[simp] theorem State.put_windows (s : State) (b : Nat) (f : Fld) (v i : Nat) : (s.put b f v i).windows = s.windows := Eq.trans rfl rfl
@[simp] theorem State.put_bulk (s : State) (b : Nat) (f : Fld) (v i : Nat) : (s.put b f v i).bulk = s.bulk := Eq.trans rfl rfl
@[simp] theorem State.put_cores (s : State) (b : Nat) (f : Fld) (v i : Nat) : (s.put b f v i).cores = s.cores := Eq.trans rfl rfl
@[simp] theorem State.put_signals (s : State) (b : Nat) (f : Fld) (v i : Nat) : (s.put b f v i).signals = s.signals := Eq.trans rfl rfl
@[simp] theorem State.put_engines (s : State) (b : Nat) (f : Fld) (v i : Nat) : (s.put b f v i).engines = s.engines := Eq.trans rfl rfl
@[simp] theorem State.put_maps (s : State) (b : Nat) (f : Fld) (v i : Nat) : (s.put b f v i).maps = s.maps := Eq.trans rfl rfl
@[simp] theorem State.put_mapUse (s : State) (b : Nat) (f : Fld) (v i : Nat) : (s.put b f v i).mapUse = s.mapUse := Eq.trans rfl rfl
@[simp] theorem State.put_moving (s : State) (b : Nat) (f : Fld) (v i : Nat) : (s.put b f v i).moving = s.moving := Eq.trans rfl rfl
@[simp] theorem State.put_toRelease (s : State) (b : Nat) (f : Fld) (v i : Nat) : (s.put b f v i).toRelease = s.toRelease := Eq.trans rfl rfl
@[simp] theorem State.put_flash (s : State) (b : Nat) (f : Fld) (v i : Nat) : (s.put b f v i).flash = s.flash := Eq.trans rfl rfl
@[simp] theorem State.put_reqs (s : State) (b : Nat) (f : Fld) (v i : Nat) : (s.put b f v i).reqs = s.reqs := Eq.trans rfl rfl
@[simp] theorem State.put_prefixes (s : State) (b : Nat) (f : Fld) (v i : Nat) : (s.put b f v i).prefixes = s.prefixes := Eq.trans rfl rfl
@[simp] theorem State.put_uses (s : State) (b : Nat) (f : Fld) (v i : Nat) : (s.put b f v i).uses = s.uses := Eq.trans rfl rfl
@[simp] theorem State.put_models (s : State) (b : Nat) (f : Fld) (v i : Nat) : (s.put b f v i).models = s.models := Eq.trans rfl rfl
@[simp] theorem State.put_loading (s : State) (b : Nat) (f : Fld) (v i : Nat) : (s.put b f v i).loading = s.loading := Eq.trans rfl rfl
@[simp] theorem State.put_learns (s : State) (b : Nat) (f : Fld) (v i : Nat) : (s.put b f v i).learns = s.learns := Eq.trans rfl rfl
@[simp] theorem State.put_loops (s : State) (b : Nat) (f : Fld) (v i : Nat) : (s.put b f v i).loops = s.loops := Eq.trans rfl rfl
@[simp] theorem State.put_ctxs (s : State) (b : Nat) (f : Fld) (v i : Nat) : (s.put b f v i).ctxs = s.ctxs := Eq.trans rfl rfl
@[simp] theorem State.put_saves (s : State) (b : Nat) (f : Fld) (v i : Nat) : (s.put b f v i).saves = s.saves := Eq.trans rfl rfl
@[simp] theorem State.put_taken (s : State) (b : Nat) (f : Fld) (v i : Nat) : (s.put b f v i).taken = s.taken := Eq.trans rfl rfl
@[simp] theorem State.put_um (s : State) (b : Nat) (f : Fld) (v i : Nat) : (s.put b f v i).um = s.um := Eq.trans rfl rfl
@[simp] theorem State.put_parts (s : State) (b : Nat) (f : Fld) (v i : Nat) : (s.put b f v i).parts = s.parts := Eq.trans rfl rfl
@[simp] theorem State.put_answer (s : State) (b : Nat) (f : Fld) (v i : Nat) : (s.put b f v i).answer = s.answer := Eq.trans rfl rfl
@[simp] theorem State.put_free (s : State) (b : Nat) (f : Fld) (v i : Nat) : (s.put b f v i).free = s.free := Eq.trans rfl rfl
@[simp] theorem State.put_pending (s : State) (b : Nat) (f : Fld) (v i : Nat) : (s.put b f v i).pending = s.pending := Eq.trans rfl rfl
@[simp] theorem State.count_pins (s : State) (b : Nat) (f : Fld) (n i : Nat) : (s.count b f n i).pins = s.pins := Eq.trans rfl rfl
@[simp] theorem State.count_eff (s : State) (b : Nat) (f : Fld) (n i : Nat) : (s.count b f n i).eff = s.eff := Eq.trans rfl rfl
@[simp] theorem State.count_strokes (s : State) (b : Nat) (f : Fld) (n i : Nat) : (s.count b f n i).strokes = s.strokes := Eq.trans rfl rfl
@[simp] theorem State.count_arm (s : State) (b : Nat) (f : Fld) (n i : Nat) : (s.count b f n i).arm = s.arm := Eq.trans rfl rfl
@[simp] theorem State.count_units (s : State) (b : Nat) (f : Fld) (n i : Nat) : (s.count b f n i).units = s.units := Eq.trans rfl rfl
@[simp] theorem State.count_outcomes (s : State) (b : Nat) (f : Fld) (n i : Nat) : (s.count b f n i).outcomes = s.outcomes := Eq.trans rfl rfl
@[simp] theorem State.count_groups (s : State) (b : Nat) (f : Fld) (n i : Nat) : (s.count b f n i).groups = s.groups := Eq.trans rfl rfl
@[simp] theorem State.count_boot (s : State) (b : Nat) (f : Fld) (n i : Nat) : (s.count b f n i).boot = s.boot := Eq.trans rfl rfl
@[simp] theorem State.count_faults (s : State) (b : Nat) (f : Fld) (n i : Nat) : (s.count b f n i).faults = s.faults := Eq.trans rfl rfl
@[simp] theorem State.count_ddr (s : State) (b : Nat) (f : Fld) (n i : Nat) : (s.count b f n i).ddr = s.ddr := Eq.trans rfl rfl
@[simp] theorem State.count_mem (s : State) (b : Nat) (f : Fld) (n i : Nat) : (s.count b f n i).mem = s.mem := Eq.trans rfl rfl
@[simp] theorem State.count_segs (s : State) (b : Nat) (f : Fld) (n i : Nat) : (s.count b f n i).segs = s.segs := Eq.trans rfl rfl
@[simp] theorem State.count_epochs (s : State) (b : Nat) (f : Fld) (n i : Nat) : (s.count b f n i).epochs = s.epochs := Eq.trans rfl rfl
@[simp] theorem State.count_hostEpochs (s : State) (b : Nat) (f : Fld) (n i : Nat) : (s.count b f n i).hostEpochs = s.hostEpochs := Eq.trans rfl rfl
@[simp] theorem State.count_links (s : State) (b : Nat) (f : Fld) (n i : Nat) : (s.count b f n i).links = s.links := Eq.trans rfl rfl
@[simp] theorem State.count_routes (s : State) (b : Nat) (f : Fld) (n i : Nat) : (s.count b f n i).routes = s.routes := Eq.trans rfl rfl
@[simp] theorem State.count_windows (s : State) (b : Nat) (f : Fld) (n i : Nat) : (s.count b f n i).windows = s.windows := Eq.trans rfl rfl
@[simp] theorem State.count_bulk (s : State) (b : Nat) (f : Fld) (n i : Nat) : (s.count b f n i).bulk = s.bulk := Eq.trans rfl rfl
@[simp] theorem State.count_cores (s : State) (b : Nat) (f : Fld) (n i : Nat) : (s.count b f n i).cores = s.cores := Eq.trans rfl rfl
@[simp] theorem State.count_signals (s : State) (b : Nat) (f : Fld) (n i : Nat) : (s.count b f n i).signals = s.signals := Eq.trans rfl rfl
@[simp] theorem State.count_engines (s : State) (b : Nat) (f : Fld) (n i : Nat) : (s.count b f n i).engines = s.engines := Eq.trans rfl rfl
@[simp] theorem State.count_maps (s : State) (b : Nat) (f : Fld) (n i : Nat) : (s.count b f n i).maps = s.maps := Eq.trans rfl rfl
@[simp] theorem State.count_mapUse (s : State) (b : Nat) (f : Fld) (n i : Nat) : (s.count b f n i).mapUse = s.mapUse := Eq.trans rfl rfl
@[simp] theorem State.count_moving (s : State) (b : Nat) (f : Fld) (n i : Nat) : (s.count b f n i).moving = s.moving := Eq.trans rfl rfl
@[simp] theorem State.count_toRelease (s : State) (b : Nat) (f : Fld) (n i : Nat) : (s.count b f n i).toRelease = s.toRelease := Eq.trans rfl rfl
@[simp] theorem State.count_flash (s : State) (b : Nat) (f : Fld) (n i : Nat) : (s.count b f n i).flash = s.flash := Eq.trans rfl rfl
@[simp] theorem State.count_reqs (s : State) (b : Nat) (f : Fld) (n i : Nat) : (s.count b f n i).reqs = s.reqs := Eq.trans rfl rfl
@[simp] theorem State.count_prefixes (s : State) (b : Nat) (f : Fld) (n i : Nat) : (s.count b f n i).prefixes = s.prefixes := Eq.trans rfl rfl
@[simp] theorem State.count_uses (s : State) (b : Nat) (f : Fld) (n i : Nat) : (s.count b f n i).uses = s.uses := Eq.trans rfl rfl
@[simp] theorem State.count_models (s : State) (b : Nat) (f : Fld) (n i : Nat) : (s.count b f n i).models = s.models := Eq.trans rfl rfl
@[simp] theorem State.count_loading (s : State) (b : Nat) (f : Fld) (n i : Nat) : (s.count b f n i).loading = s.loading := Eq.trans rfl rfl
@[simp] theorem State.count_learns (s : State) (b : Nat) (f : Fld) (n i : Nat) : (s.count b f n i).learns = s.learns := Eq.trans rfl rfl
@[simp] theorem State.count_loops (s : State) (b : Nat) (f : Fld) (n i : Nat) : (s.count b f n i).loops = s.loops := Eq.trans rfl rfl
@[simp] theorem State.count_ctxs (s : State) (b : Nat) (f : Fld) (n i : Nat) : (s.count b f n i).ctxs = s.ctxs := Eq.trans rfl rfl
@[simp] theorem State.count_saves (s : State) (b : Nat) (f : Fld) (n i : Nat) : (s.count b f n i).saves = s.saves := Eq.trans rfl rfl
@[simp] theorem State.count_taken (s : State) (b : Nat) (f : Fld) (n i : Nat) : (s.count b f n i).taken = s.taken := Eq.trans rfl rfl
@[simp] theorem State.count_um (s : State) (b : Nat) (f : Fld) (n i : Nat) : (s.count b f n i).um = s.um := Eq.trans rfl rfl
@[simp] theorem State.count_parts (s : State) (b : Nat) (f : Fld) (n i : Nat) : (s.count b f n i).parts = s.parts := Eq.trans rfl rfl
@[simp] theorem State.count_answer (s : State) (b : Nat) (f : Fld) (n i : Nat) : (s.count b f n i).answer = s.answer := Eq.trans rfl rfl
@[simp] theorem State.count_free (s : State) (b : Nat) (f : Fld) (n i : Nat) : (s.count b f n i).free = s.free := Eq.trans rfl rfl
@[simp] theorem State.count_pending (s : State) (b : Nat) (f : Fld) (n i : Nat) : (s.count b f n i).pending = s.pending := Eq.trans rfl rfl
@[simp] theorem State.reply_pins (s : State) (st : Nat) (d : Word) : (s.reply st d).pins = s.pins := Eq.trans rfl rfl
@[simp] theorem State.reply_regs (s : State) (st : Nat) (d : Word) : (s.reply st d).regs = s.regs := Eq.trans rfl rfl
@[simp] theorem State.reply_eff (s : State) (st : Nat) (d : Word) : (s.reply st d).eff = s.eff := Eq.trans rfl rfl
@[simp] theorem State.reply_strokes (s : State) (st : Nat) (d : Word) : (s.reply st d).strokes = s.strokes := Eq.trans rfl rfl
@[simp] theorem State.reply_arm (s : State) (st : Nat) (d : Word) : (s.reply st d).arm = s.arm := Eq.trans rfl rfl
@[simp] theorem State.reply_units (s : State) (st : Nat) (d : Word) : (s.reply st d).units = s.units := Eq.trans rfl rfl
@[simp] theorem State.reply_outcomes (s : State) (st : Nat) (d : Word) : (s.reply st d).outcomes = s.outcomes := Eq.trans rfl rfl
@[simp] theorem State.reply_groups (s : State) (st : Nat) (d : Word) : (s.reply st d).groups = s.groups := Eq.trans rfl rfl
@[simp] theorem State.reply_boot (s : State) (st : Nat) (d : Word) : (s.reply st d).boot = s.boot := Eq.trans rfl rfl
@[simp] theorem State.reply_faults (s : State) (st : Nat) (d : Word) : (s.reply st d).faults = s.faults := Eq.trans rfl rfl
@[simp] theorem State.reply_ddr (s : State) (st : Nat) (d : Word) : (s.reply st d).ddr = s.ddr := Eq.trans rfl rfl
@[simp] theorem State.reply_mem (s : State) (st : Nat) (d : Word) : (s.reply st d).mem = s.mem := Eq.trans rfl rfl
@[simp] theorem State.reply_segs (s : State) (st : Nat) (d : Word) : (s.reply st d).segs = s.segs := Eq.trans rfl rfl
@[simp] theorem State.reply_epochs (s : State) (st : Nat) (d : Word) : (s.reply st d).epochs = s.epochs := Eq.trans rfl rfl
@[simp] theorem State.reply_hostEpochs (s : State) (st : Nat) (d : Word) : (s.reply st d).hostEpochs = s.hostEpochs := Eq.trans rfl rfl
@[simp] theorem State.reply_links (s : State) (st : Nat) (d : Word) : (s.reply st d).links = s.links := Eq.trans rfl rfl
@[simp] theorem State.reply_routes (s : State) (st : Nat) (d : Word) : (s.reply st d).routes = s.routes := Eq.trans rfl rfl
@[simp] theorem State.reply_windows (s : State) (st : Nat) (d : Word) : (s.reply st d).windows = s.windows := Eq.trans rfl rfl
@[simp] theorem State.reply_bulk (s : State) (st : Nat) (d : Word) : (s.reply st d).bulk = s.bulk := Eq.trans rfl rfl
@[simp] theorem State.reply_cores (s : State) (st : Nat) (d : Word) : (s.reply st d).cores = s.cores := Eq.trans rfl rfl
@[simp] theorem State.reply_signals (s : State) (st : Nat) (d : Word) : (s.reply st d).signals = s.signals := Eq.trans rfl rfl
@[simp] theorem State.reply_engines (s : State) (st : Nat) (d : Word) : (s.reply st d).engines = s.engines := Eq.trans rfl rfl
@[simp] theorem State.reply_maps (s : State) (st : Nat) (d : Word) : (s.reply st d).maps = s.maps := Eq.trans rfl rfl
@[simp] theorem State.reply_mapUse (s : State) (st : Nat) (d : Word) : (s.reply st d).mapUse = s.mapUse := Eq.trans rfl rfl
@[simp] theorem State.reply_moving (s : State) (st : Nat) (d : Word) : (s.reply st d).moving = s.moving := Eq.trans rfl rfl
@[simp] theorem State.reply_toRelease (s : State) (st : Nat) (d : Word) : (s.reply st d).toRelease = s.toRelease := Eq.trans rfl rfl
@[simp] theorem State.reply_flash (s : State) (st : Nat) (d : Word) : (s.reply st d).flash = s.flash := Eq.trans rfl rfl
@[simp] theorem State.reply_reqs (s : State) (st : Nat) (d : Word) : (s.reply st d).reqs = s.reqs := Eq.trans rfl rfl
@[simp] theorem State.reply_prefixes (s : State) (st : Nat) (d : Word) : (s.reply st d).prefixes = s.prefixes := Eq.trans rfl rfl
@[simp] theorem State.reply_uses (s : State) (st : Nat) (d : Word) : (s.reply st d).uses = s.uses := Eq.trans rfl rfl
@[simp] theorem State.reply_models (s : State) (st : Nat) (d : Word) : (s.reply st d).models = s.models := Eq.trans rfl rfl
@[simp] theorem State.reply_loading (s : State) (st : Nat) (d : Word) : (s.reply st d).loading = s.loading := Eq.trans rfl rfl
@[simp] theorem State.reply_learns (s : State) (st : Nat) (d : Word) : (s.reply st d).learns = s.learns := Eq.trans rfl rfl
@[simp] theorem State.reply_loops (s : State) (st : Nat) (d : Word) : (s.reply st d).loops = s.loops := Eq.trans rfl rfl
@[simp] theorem State.reply_ctxs (s : State) (st : Nat) (d : Word) : (s.reply st d).ctxs = s.ctxs := Eq.trans rfl rfl
@[simp] theorem State.reply_saves (s : State) (st : Nat) (d : Word) : (s.reply st d).saves = s.saves := Eq.trans rfl rfl
@[simp] theorem State.reply_taken (s : State) (st : Nat) (d : Word) : (s.reply st d).taken = s.taken := Eq.trans rfl rfl
@[simp] theorem State.reply_um (s : State) (st : Nat) (d : Word) : (s.reply st d).um = s.um := Eq.trans rfl rfl
@[simp] theorem State.reply_parts (s : State) (st : Nat) (d : Word) : (s.reply st d).parts = s.parts := Eq.trans rfl rfl
@[simp] theorem State.reply_free (s : State) (st : Nat) (d : Word) : (s.reply st d).free = s.free := Eq.trans rfl rfl
@[simp] theorem State.reply_pending (s : State) (st : Nat) (d : Word) : (s.reply st d).pending = s.pending := Eq.trans rfl rfl

end Sys2Proof.Machine
end

