-- ==== Sys2Proof/Laws/Frames.lean ====
section
/-! SUPPORT. Which register bits an update leaves alone, and how such frames join. -/

namespace Sys2Proof.Machine

/-- A bit of a word as a field of width 1. -/
theorem bit_as_field (r : Word) (j : Nat) :
    r.getLsbD j = decide (({ off := 0, lo := j, w := 1, acc := .ro } : Fld).get r = 1) := by
  unfold Fld.get
  rw [BitVec.getLsbD, Nat.testBit_eq_decide_div_mod_eq, pow_one]

/-- Setting a field leaves the bits outside it alone. -/
theorem Fld.put_getLsbD (f : Fld) (r : Word) (v j : Nat) (hf : f.lo + f.w ≤ 64) (h : j < f.lo ∨ f.lo + f.w ≤ j) :
    (f.put r v).getLsbD j = r.getLsbD j := by
  rw [bit_as_field, bit_as_field, Fld.get_put_other f _ r v hf (by simp only; omega)]

theorem OnlyFields.refl (s : State) (l : List FieldOf) : OnlyFields s s l := fun _ _ _ => rfl

/-- States that read the same registers. -/
theorem OnlyFields.of_reg {s t : State} (l : List FieldOf) (h : ∀ a, t.reg a = s.reg a) : OnlyFields s t l :=
  fun a _ _ => by rw [h a]

theorem OnlyFields.of_regs {s t : State} (l : List FieldOf) (h : t.regs = s.regs) : OnlyFields s t l :=
  OnlyFields.of_reg l fun a => by unfold State.reg; rw [h]

theorem OnlyFields.mono {s t : State} {l m : List FieldOf} (h : OnlyFields s t l) (hl : l ⊆ m) : OnlyFields s t m :=
  fun a j hj => h a j fun p hp => hj p (hl hp)

theorem OnlyFields.trans {s t u : State} {l : List FieldOf} (h : OnlyFields s t l) (k : OnlyFields t u l) :
    OnlyFields s u l := fun a j hj => (k a j hj).trans (h a j hj)

/-- A put changes only its own field. -/
theorem OnlyFields.put (s : State) (b : Nat) (f : Fld) (v i : Nat) {l : List FieldOf} (hf : f.lo + f.w ≤ 64)
    (hl : (b, f, i) ∈ l) : OnlyFields s (s.put b f v i) l := by
  intro a j hj
  by_cases ha : a = b + f.off + i * f.step
  · subst ha
    have : (s.put b f v i).reg (b + f.off + i * f.step) = f.put (s.reg (b + f.off + i * f.step)) v :=
      State.reg_setReg_same ..
    rw [this, Fld.put_getLsbD f _ v j hf (hj _ hl rfl)]
  · rw [State.reg_put_other s b f v i ha]

theorem OnlyFields.count (s : State) (b : Nat) (f : Fld) (n i : Nat) {l : List FieldOf} (hf : f.lo + f.w ≤ 64)
    (hl : (b, f, i) ∈ l) : OnlyFields s (s.count b f n i) l := OnlyFields.put s b f _ i hf hl

/-- Folding steps that each change only some fields. -/
theorem OnlyFields.foldl {α : Type} {l : List FieldOf} (f : State → α → State) (xs : List α) (s : State)
    (h : ∀ s x, OnlyFields s (f s x) l) : OnlyFields s (xs.foldl f s) l := by
  induction xs generalizing s with
  | nil => exact OnlyFields.refl s l
  | cons x xs ih => exact (h s x).trans (ih _)

/-- A register none of whose bits is in a listed field reads as before. -/
theorem OnlyFields.reg {s t : State} {l : List FieldOf} (h : OnlyFields s t l) {a : Nat}
    (ha : ∀ p ∈ l, a ≠ regAddr p.1 p.2.1 p.2.2) : t.reg a = s.reg a := by
  apply BitVec.eq_of_getLsbD_eq
  intro j _
  exact h a j fun p hp e => absurd e (ha p hp)

/-- A field outside the listed ones reads as before. -/
theorem OnlyFields.get {s t : State} {l : List FieldOf} (h : OnlyFields s t l) (b : Nat) (f : Fld) (i : Nat)
    (ha : ∀ p ∈ l, regAddr b f i ≠ regAddr p.1 p.2.1 p.2.2) : t.get b f i = s.get b f i := by
  have := h.reg ha
  unfold State.get
  unfold regAddr at this
  rw [this]

end Sys2Proof.Machine
end

