-- ==== Sys2Proof/Laws/KeptBase.lean ====
section
/-! SUPPORT. No operation of Ops to the tiers touches the queue, or of the provenance die more than its
state journal: one lemma each. -/

namespace Sys2Proof.Machine

@[simp] theorem kept_mk (pins : Pins) (regs : Cells Word) (eff : Cells Word) (strokes : Strokes) (arm : Arm) (units : List SealUnit) (outcomes : List (Nat × Nat × Bool)) (groups : Cells (List (Nat × Nat))) (boot : Boot) (faults : Faults) (ddr : List DdrModule) (mem : Mem) (segs : Cells Word) (epochs : Cells Byte) (hostEpochs : Cells Byte) (links : Cells Link) (routes : Cells Word) (windows : List Window) (bulk : List Bulk) (cores : Cells Core) (signals : List Signal) (engines : Cells Eng) (maps : Cells (Word × Word)) (mapUse : Cells (Nat × Nat)) (drains : Cells (List (Nat × Nat × Nat))) (sums : Cells Nat) (redone : List (Nat × Nat)) (moving : List PageMove) (toRelease : List (Nat × Storage)) (flash : Flash) (reqs : Cells (Option Req)) (prefixes : Cells (Option PrefixRun)) (uses : Cells Nat) (models : List Model) (copies : List CopyAt) (loading : List Load) (learns : Cells Learn) (loops : Cells Loop) (ctxs : Cells CtxRec) (saves : List Saved) (taken : Nat) (um : Umajo) (parts : Cells Nat) (answer : Answer) (free : Nat) (pending : List Instr) :
    (State.mk pins regs eff strokes arm units outcomes groups boot faults ddr mem segs epochs hostEpochs links routes windows bulk cores signals engines maps mapUse drains sums redone moving toRelease flash reqs prefixes uses models copies loading learns loops ctxs saves taken um parts answer free pending).kept = (pending, { boot.prov with journal := [], sector := 0 }) := Eq.trans rfl rfl

@[simp] theorem kept_fold (s : State) : (s.pending, { s.boot.prov with journal := [], sector := 0 }) = s.kept := Eq.trans rfl rfl

theorem foldl_kept {α : Type} (f : State → α → State) (l : List α) (s : State)
    (h : ∀ s x, (f s x).kept = s.kept) : (l.foldl f s).kept = s.kept := by
  induction l generalizing s with
  | nil => rfl
  | cons x l ih => rw [List.foldl_cons, ih, h]

@[simp] theorem foldl_keep {α : Type} (f : State → α → State) (l : List α) (s : State)
    (h : ∀ s x, (f s x).kept = s.kept) : (l.foldl f s).kept = s.kept := foldl_kept f l s h

@[simp] theorem ite_kept {c : Prop} [Decidable c] (a b : State) :
    (if c then a else b).kept = if c then a.kept else b.kept := by split <;> rfl
@[simp] theorem ite_snd_kept {α : Type} {c : Prop} [Decidable c] (a b : α × State) :
    (if c then a else b).2.kept = if c then a.2.kept else b.2.kept := by split <;> rfl
@[simp] theorem ite_trd_kept {α β : Type} {c : Prop} [Decidable c] (a b : α × β × State) :
    (if c then a else b).2.2.kept = if c then a.2.2.kept else b.2.2.kept := by split <;> rfl
theorem snd_pair {α β : Type} (a : α) (b : β) : (a, b).2 = b := Eq.trans rfl rfl

theorem foldl_snd_kept {α β : Type} (f : β × State → α → β × State) (l : List α) (x : β × State)
    (h : ∀ x y, (f x y).2.kept = x.2.kept) : (l.foldl f x).2.kept = x.2.kept := by
  induction l generalizing x with
  | nil => rfl
  | cons y l ih => rw [List.foldl_cons, ih, h]

theorem foldl_trd_kept {α β γ : Type} (f : β × γ × State → α → β × γ × State) (l : List α) (x : β × γ × State)
    (h : ∀ x y, (f x y).2.2.kept = x.2.2.kept) : (l.foldl f x).2.2.kept = x.2.2.kept := by
  induction l generalizing x with
  | nil => rfl
  | cons y l ih => rw [List.foldl_cons, ih, h]

/-! State -/

@[simp] theorem State.setReg_kept (s : State) (a : Nat) (v : Word) :
    ((State.setReg s a v)).kept = s.kept := by
  simp [State.setReg]

@[simp] theorem State.put_kept (s : State) (base : Nat) (f : Fld) (v : Nat) (i : optParam Nat 0) :
    ((State.put s base f v i)).kept = s.kept := by
  simp [State.put]

@[simp] theorem State.count_kept (s : State) (base : Nat) (f : Fld) (n : optParam Nat 1) (i : optParam Nat 0) :
    ((State.count s base f n i)).kept = s.kept := by
  simp [State.count]

-- skip State.reset

/-! Ops -/

@[simp] theorem State.draw_kept (s : State) :
    ((State.draw s).2).kept = s.kept := by
  simp [State.draw]

@[simp] theorem State.setDevState_kept (s : State) (v : Nat) :
    ((State.setDevState s v)).kept = s.kept := by
  simp [State.setDevState]

@[simp] theorem State.reply_kept (s : State) (status : Nat) (data : optParam Word 0) :
    ((State.reply s status data)).kept = s.kept := by
  simp [State.reply]

@[simp] theorem State.log_kept (s : State) (unit : Nat) (action : Nat) (ctx : Option Nat) (source : Nat) (index : Nat) (detail : Nat) :
    ((State.log s unit action ctx source index detail)).kept = s.kept := by
  simp [State.log]

@[simp] theorem State.addReason_kept (s : State) (ctxs : List Nat) (r : Nat) :
    ((State.addReason s ctxs r)).kept = s.kept := by
  simp [State.addReason]

@[simp] theorem State.grant_kept (s : State) (ctx : Nat) (u : UnitId) :
    ((State.grant s ctx u)).kept = s.kept := by
  simp [State.grant]

@[simp] theorem State.report_kept (s : State) (u : UnitId) (r : Nat) (source : Nat) (index : Nat) (detail : Nat) (ctx : optParam (Option Nat) none) :
    ((State.report s u r source index detail ctx)).kept = s.kept := by
  simp [State.report]

@[simp] theorem State.reportCtx_kept (s : State) (unit : Nat) (ctx : Nat) (r : Nat) (source : Nat) (index : Nat) (detail : Nat) :
    ((State.reportCtx s unit ctx r source index detail)).kept = s.kept := by
  simp [State.reportCtx]

@[simp] theorem State.trigger_kept (s : State) (kind : Nat) (u : UnitId) (detail : optParam Nat 0) :
    ((State.trigger s kind u detail)).kept = s.kept := by
  simp [State.trigger]

@[simp] theorem State.setLearn_kept (s : State) (c : Nat) (x : Learn) :
    ((State.setLearn s c x)).kept = s.kept := by
  simp [State.setLearn]

@[simp] theorem State.setLoop_kept (s : State) (c : Nat) (x : Loop) :
    ((State.setLoop s c x)).kept = s.kept := by
  simp [State.setLoop]

@[simp] theorem State.setCtxRec_kept (s : State) (c : Nat) (x : CtxRec) :
    ((State.setCtxRec s c x)).kept = s.kept := by
  simp [State.setCtxRec]

@[simp] theorem State.setLink_kept (s : State) (l : Nat) (k : Link) :
    ((State.setLink s l k)).kept = s.kept := by
  simp [State.setLink]

@[simp] theorem State.armFrame_kept (s : State) (l : Nat) (ws : List Word) :
    ((State.armFrame s l ws)).kept = s.kept := by
  simp [State.armFrame]

@[simp] theorem State.mkMsg_kept (s : State) (mtype : Nat) (dest : Nat) (ctx : Nat) (tag : Nat) (payload : List Word) (ops : Nat) (stage : Nat) (subject : Word) :
    ((State.mkMsg s mtype dest ctx tag payload ops stage subject).2).kept = s.kept := by
  simp [State.mkMsg]

@[simp] theorem State.armFrames_kept (s : State) (ls : List Nat) (ws : List Word) :
    ((State.armFrames s ls ws)).kept = s.kept := by
  simp [State.armFrames]

@[simp] theorem State.see_kept (s : State) (m : ArmMsg) :
    ((State.see s m)).kept = s.kept := by
  simp [State.see]

@[simp] theorem State.flood_kept (s : State) (mtype : Nat) (ctx : Nat) (payload : List Word) (subject : Word) :
    ((State.flood s mtype ctx payload subject)).kept = s.kept := by
  simp [State.flood]

@[simp] theorem State.armHeard_kept (s : State) :
    ((State.armHeard s)).kept = s.kept := by
  simp [State.armHeard]

@[simp] theorem State.countForward_kept (s : State) (ls : List Nat) :
    ((State.countForward s ls)).kept = s.kept := by
  simp [State.countForward]

@[simp] theorem State.forwardFlood_kept (s : State) (l : Nat) (m : ArmMsg) :
    ((State.forwardFlood s l m)).kept = s.kept := by
  simp [State.forwardFlood]

@[simp] theorem State.sendTo_kept (s : State) (dest : Nat) (m : ArmMsg) :
    ((State.sendTo s dest m)).kept = s.kept := by
  unfold State.sendTo; split <;> simp

@[simp] theorem State.forwardTo_kept (s : State) (m : ArmMsg) :
    ((State.forwardTo s m)).kept = s.kept := by
  unfold State.forwardTo; split <;> simp

@[simp] theorem State.quarantine1_kept (s : State) (u : UnitId) (source : Nat) (index : Nat) (detail : Nat) :
    ((State.quarantine1 s u source index detail)).kept = s.kept := by
  simp [State.quarantine1]

@[simp] theorem State.quarantine_kept (s : State) (u : UnitId) (source : Nat) (index : Nat) (detail : Nat) :
    ((State.quarantine s u source index detail)).kept = s.kept := by
  simp [State.quarantine]

@[simp] theorem State.fail_kept (s : State) (cause : Option Nat) :
    ((State.fail s cause)).kept = s.kept := by
  unfold State.fail; split <;> simp

/-! Mem -/

@[simp] theorem State.inFrame_kept (s : State) (k : Nat) (n : optParam Nat 1) :
    ((State.inFrame s k n)).kept = s.kept := by
  simp [State.inFrame]

@[simp] theorem State.scratchBad_kept (s : State) (die : Nat) (core : Nat) (a : Nat) :
    ((State.scratchBad s die core a)).kept = s.kept := by
  simp [State.scratchBad]

@[simp] theorem State.ddrBad_kept (s : State) (ch : Nat) (a : Nat) :
    ((State.ddrBad s ch a)).kept = s.kept := by
  simp [State.ddrBad]

@[simp] theorem State.mergeBad_kept (s : State) (a : Nat) :
    ((State.mergeBad s a)).kept = s.kept := by
  unfold State.mergeBad; split <;> simp

@[simp] theorem State.countUnits_kept (s : State) (key : Nat) (unit : Nat) (base : Nat) (f : Fld) (bytes : Nat) :
    ((State.countUnits s key unit base f bytes)).kept = s.kept := by
  simp [State.countUnits]

@[simp] theorem State.ddrTraffic_kept (s : State) (a : Nat) (write : Bool) (bytes : Nat) :
    ((State.ddrTraffic s a write bytes)).kept = s.kept := by
  unfold State.ddrTraffic; split <;> simp

@[simp] theorem State.load_kept (s : State) (a : Nat) (merge : optParam Bool false) :
    ((State.load s a merge).2).kept = s.kept := by
  simp [State.load]; (repeat' split) <;> simp_all

@[simp] theorem State.store_kept (s : State) (a : Nat) (w : TWord) :
    ((State.store s a w)).kept = s.kept := by
  unfold State.store; (repeat' split) <;> simp

@[simp] theorem State.loads_kept (s : State) (x1 : Nat) (x2 : Nat) :
    ((State.loads s x1 x2).2).kept = s.kept := by
  induction x2 generalizing s x1 with
  | zero => simp [State.loads]
  | succ n ih =>
    rw [State.loads]; rcases h : s.load x1 with ⟨r, t⟩; rcases h2 : t.loads (x1 + 8) n with ⟨rs, u⟩
    have k := State.load_kept s x1; have k2 := ih t (x1 + 8); simp_all

@[simp] theorem State.stores_kept (s : State) (x1 : Nat) (x2 : List TWord) :
    ((State.stores s x1 x2)).kept = s.kept := by
  fun_induction State.stores s x1 x2 <;> simp_all

@[simp] theorem State.loadBytes_kept (s : State) (a : Nat) (n : Nat) :
    ((State.loadBytes s a n).2).kept = s.kept := by
  simp [State.loadBytes]

@[simp] theorem State.storeBytesGo_kept (s : State) (x1 : Nat) (x2 : Nat) (x3 : List Byte) :
    ((State.storeBytesGo s x1 x2 x3)).kept = s.kept := by
  induction x1 generalizing s x2 x3 with
  | zero => simp [State.storeBytesGo]
  | succ n ih =>
    cases x3 with
    | nil => simp [State.storeBytesGo]
    | cons b bs =>
      rw [State.storeBytesGo, ih]; split
      · simp
      · rcases h : s.load (x2 - x2 % 8) true with ⟨r, t⟩
        have k := State.load_kept s (x2 - x2 % 8) true; simp_all
      · simp

@[simp] theorem State.storeBytes_kept (s : State) (a : Nat) (bs : List Byte) :
    ((State.storeBytes s a bs)).kept = s.kept := by
  simp [State.storeBytes]

/-! Armature -/

@[simp] theorem State.stageSend_kept (s : State) (c : Coll) :
    ((State.stageSend s c)).kept = s.kept := by
  unfold State.stageSend; apply foldl_kept; intro s y; split
  · rename_i dev _
    rcases h : s.mkMsg c.mtype dev c.ctx c.tag c.value (opsField c.ops) c.dim c.subject with ⟨m, t⟩
    have k := State.mkMsg_kept s c.mtype dev c.ctx c.tag c.value (opsField c.ops) c.dim c.subject
    rw [h] at k; dsimp only; split <;> simp_all
  · rfl

@[simp] theorem State.stageRelay_kept (s : State) (c : Coll) (h : Heard) :
    ((State.stageRelay s c h)).kept = s.kept := by
  simp [State.stageRelay]; (repeat' split) <;> simp_all

@[simp] theorem State.collRun_kept (x0 : Nat) (x1 : State) (x2 : Coll) :
    ((State.collRun x0 x1 x2).1).kept = x1.kept := by
  induction x0 generalizing x1 x2 with
  | zero => simp [State.collRun]
  | succ n ih =>
    rw [State.collRun]; split
    · rfl
    · split
      · rfl
      · rfl
      · dsimp only; rw [ih]; split <;> simp

@[simp] theorem State.dropColl_kept (s : State) (mtype : Nat) (tag : Nat) :
    ((State.dropColl s mtype tag)).kept = s.kept := by
  simp [State.dropColl]

@[simp] theorem State.putColl_kept (s : State) (c : Coll) :
    ((State.putColl s c)).kept = s.kept := by
  simp [State.putColl]

@[simp] theorem State.collEnd_kept (s : State) (tag : Nat) (status : Nat) :
    ((State.collEnd s tag status)).kept = s.kept := by
  simp [State.collEnd]

@[simp] theorem State.collPost_kept (s : State) (mtype : Nat) (tag : Nat) (ctx : Nat) (subject : Word) (ops : List Nat) (group : List (Nat × Nat)) (value : List Word) (purpose : Nat) (poster : optParam (Nat × Nat × Nat × Nat) (0, 0, 0, 0)) (kind : optParam Nat 3) :
    ((State.collPost s mtype tag ctx subject ops group value purpose poster kind)).kept = s.kept := by
  unfold State.collPost; (repeat' first
      | (simp; done)
      | (intro _)
      | split
      | (rw [foldl_kept _ _ _ ?_])
      | (simp_all; done)
      | simp)

@[simp] theorem State.collHear_kept (s : State) (l : Nat) (m : ArmMsg) :
    ((State.collHear s l m)).kept = s.kept := by
  unfold State.collHear; split <;> simp

/-! Seal -/

@[simp] theorem State.setUnit_kept (s : State) (u : SealUnit) :
    ((State.setUnit s u)).kept = s.kept := by
  simp [State.setUnit]

@[simp] theorem State.refreshSeq_kept (s : State) (ctx : Nat) (next : Nat) :
    ((State.refreshSeq s ctx next)).kept = s.kept := by
  simp [State.refreshSeq]

@[simp] theorem State.sealRegister_kept (s : State) (ctx : Nat) (kind : Nat) (seq : Nat) (first : Nat) (last : Nat) (group : List (Nat × Nat)) :
    ((State.sealRegister s ctx kind seq first last group)).kept = s.kept := by
  simp [State.sealRegister]

@[simp] theorem State.takeVotes_kept (s : State) :
    ((State.takeVotes s)).kept = s.kept := by
  unfold State.takeVotes; (repeat' first
      | (simp; done)
      | (intro _)
      | split
      | (rw [foldl_kept _ _ _ ?_])
      | (simp_all; done)
      | simp)

@[simp] theorem State.votePost_kept (s : State) (ctx : Nat) (seq : Nat) :
    ((State.votePost s ctx seq)).kept = s.kept := by
  unfold State.votePost; split <;> simp

@[simp] theorem State.outcomePost_kept (s : State) (ctx : Nat) (seq : Nat) :
    ((State.outcomePost s ctx seq)).kept = s.kept := by
  unfold State.outcomePost; split <;> simp

@[simp] theorem State.outcomeMissing_kept (s : State) (ctx : Nat) (seq : Nat) :
    ((State.outcomeMissing s ctx seq)).kept = s.kept := by
  unfold State.outcomeMissing; split <;> simp

@[simp] theorem State.outcomeTimeout_kept (s : State) (ctx : Nat) (seq : Nat) :
    ((State.outcomeTimeout s ctx seq)).kept = s.kept := by
  unfold State.outcomeTimeout; split <;> simp

@[simp] theorem State.outcomeAnswer_kept (s : State) (m : ArmMsg) :
    ((State.outcomeAnswer s m)).kept = s.kept := by
  simp [State.outcomeAnswer]; (repeat' split) <;> simp_all

@[simp] theorem State.outcomeTake_kept (s : State) (m : ArmMsg) :
    ((State.outcomeTake s m)).kept = s.kept := by
  unfold State.outcomeTake; split <;> simp

@[simp] theorem State.settleUnit_kept (s : State) (u : SealUnit) (ok : Bool) :
    ((State.settleUnit s u ok)).kept = s.kept := by
  simp [State.settleUnit]

@[simp] theorem State.queryTake_kept (s : State) (l : Nat) (m : ArmMsg) :
    ((State.queryTake s l m)).kept = s.kept := by
  simp [State.queryTake]

@[simp] theorem State.replyTake_kept (s : State) (m : ArmMsg) :
    ((State.replyTake s m)).kept = s.kept := by
  simp [State.replyTake]

@[simp] theorem State.voteTake_kept (s : State) (l : Nat) (m : ArmMsg) :
    ((State.voteTake s l m)).kept = s.kept := by
  simp [State.voteTake]

/-! Faults -/

@[simp] theorem State.clearBit_kept (s : State) (base : Nat) (f : Fld) (i : Nat) (reg : optParam Nat 0) :
    ((State.clearBit s base f i reg)).kept = s.kept := by
  simp [State.clearBit]

@[simp] theorem State.setBit_kept (s : State) (base : Nat) (f : Fld) (i : Nat) (reg : optParam Nat 0) :
    ((State.setBit s base f i reg)).kept = s.kept := by
  simp [State.setBit]

@[simp] theorem State.fenceRegs_kept (s : State) (unit : Nat) (index : Nat) :
    ((State.fenceRegs s unit index)).kept = s.kept := by
  simp [State.fenceRegs]

@[simp] theorem State.quarRec_kept (s : State) (unit : Nat) (action : Nat) (source : Nat) (index : Nat) (detail : Nat) :
    ((State.quarRec s unit action source index detail)).kept = s.kept := by
  simp [State.quarRec]

@[simp] theorem State.fenceUnit_kept (s : State) (u : UnitId) (source : Nat) (index : Nat) (detail : Nat) :
    ((State.fenceUnit s u source index detail)).kept = s.kept := by
  simp [State.fenceUnit]

@[simp] theorem State.applyFences_kept (s : State) :
    ((State.applyFences s)).kept = s.kept := by
  simp [State.applyFences]

@[simp] theorem State.fenceLink_kept (s : State) (l : Nat) :
    ((State.fenceLink s l)).kept = s.kept := by
  simp [State.fenceLink]

@[simp] theorem State.sramWord_kept (s : State) (unit : Nat) (core : Nat) (addr : Nat) (corrected : Bool) :
    ((State.sramWord s unit core addr corrected)).kept = s.kept := by
  simp [State.sramWord]

@[simp] theorem State.bufferWord_kept (s : State) (unit : Nat) (index : Nat) (place : Nat) (corrected : Bool) :
    ((State.bufferWord s unit index place corrected)).kept = s.kept := by
  simp [State.bufferWord]

@[simp] theorem State.storeWordBad_kept (s : State) (unit : Nat) (core : Nat) (index : Nat) (corrected : Bool) :
    ((State.storeWordBad s unit core index corrected)).kept = s.kept := by
  simp [State.storeWordBad]

@[simp] theorem State.residue_kept (s : State) (u : UnitId) (index : Nat) (counts : Bool) :
    ((State.residue s u index counts)).kept = s.kept := by
  simp [State.residue]

@[simp] theorem State.lockstep_kept (s : State) (unit : Nat) (controller : Nat) :
    ((State.lockstep s unit controller)).kept = s.kept := by
  simp [State.lockstep]

@[simp] theorem State.umSymbols_kept (s : State) (lane : Nat) (n : Nat) :
    ((State.umSymbols s lane n)).kept = s.kept := by
  simp [State.umSymbols]

@[simp] theorem State.finding_kept (s : State) (unit : Nat) (f : Finding) :
    ((State.finding s unit f)).kept = s.kept := by
  unfold State.finding; split <;> simp

@[simp] theorem State.moduleDown_kept (s : State) (c : Connection) (m : Nat) :
    ((State.moduleDown s c m)).kept = s.kept := by
  simp [State.moduleDown]; (repeat' split) <;> simp_all

/-! Pins -/

@[simp] theorem State.restart_kept (s : State) :
    ((State.restart s)).kept = s.kept := by
  simp [State.restart]

@[simp] theorem State.assertReset_kept (s : State) :
    ((State.assertReset s)).kept = s.kept := by
  simp [State.assertReset]

@[simp] theorem State.powerOff_kept (s : State) :
    ((State.powerOff s)).kept = s.kept := by
  simp [State.powerOff]

@[simp] theorem State.tempRead_kept (s : State) (unit : Nat) (sensor : Nat) (temp : Nat) :
    ((State.tempRead s unit sensor temp)).kept = s.kept := by
  simp [State.tempRead]

@[simp] theorem State.clockTrip_kept (s : State) (unit : Nat) (d : Nat) :
    ((State.clockTrip s unit d)).kept = s.kept := by
  simp [State.clockTrip]

@[simp] theorem State.clockWindow_kept (s : State) (unit : Nat) (d : Nat) (khz : Nat) :
    ((State.clockWindow s unit d khz)).kept = s.kept := by
  unfold State.clockWindow; split <;> simp

@[simp] theorem State.bypass_kept (s : State) :
    ((State.bypass s)).kept = s.kept := by
  simp [State.bypass]

/-! Strokes -/

@[simp] theorem State.setMaster_kept (s : State) (m : Nat) :
    ((State.setMaster s m)).kept = s.kept := by
  simp [State.setMaster]

@[simp] theorem State.correct_kept (s : State) (err : Int) :
    ((State.correct s err)).kept = s.kept := by
  simp [State.correct]

@[simp] theorem State.acquire_kept (s : State) :
    ((State.acquire s)).kept = s.kept := by
  simp [State.acquire]

@[simp] theorem State.takeCounts_kept (s : State) (m : ArmMsg) :
    ((State.takeCounts s m)).kept = s.kept := by
  simp [State.takeCounts]

@[simp] theorem State.stepTimer_kept (s : State) (err : Int) :
    ((State.stepTimer s err)).kept = s.kept := by
  simp [State.stepTimer]

@[simp] theorem State.takeLevel_kept (s : State) (m : ArmMsg) :
    ((State.takeLevel s m)).kept = s.kept := by
  simp [State.takeLevel]

@[simp] theorem State.forwardMark_kept (s : State) (l : Nat) (m : ArmMsg) :
    ((State.forwardMark s l m)).kept = s.kept := by
  simp [State.forwardMark]

@[simp] theorem State.settleMark_kept (s : State) (l : Nat) (m : ArmMsg) (err : Int) :
    ((State.settleMark s l m err)).kept = s.kept := by
  simp [State.settleMark]

@[simp] theorem State.serviceMark_kept (s : State) (l : Nat) (m : ArmMsg) (err : Int) :
    ((State.serviceMark s l m err)).kept = s.kept := by
  simp [State.serviceMark]

@[simp] theorem State.strokeMark_kept (s : State) (l : Nat) (m : ArmMsg) (errNs : BitVec 16) :
    ((State.strokeMark s l m errNs)).kept = s.kept := by
  simp [State.strokeMark]

@[simp] theorem State.lockLoss_kept (s : State) :
    ((State.lockLoss s)).kept = s.kept := by
  simp [State.lockLoss]

@[simp] theorem State.slipNamed_kept (s : State) (n : Nat) :
    ((State.slipNamed s n)).kept = s.kept := by
  simp [State.slipNamed]

@[simp] theorem State.slipReq_kept (s : State) (l : Nat) (m : ArmMsg) :
    ((State.slipReq s l m)).kept = s.kept := by
  simp [State.slipReq]

@[simp] theorem State.setLevel_kept (s : State) (dev : Nat) (level : Nat) :
    ((State.setLevel s dev level)).kept = s.kept := by
  simp [State.setLevel]

@[simp] theorem State.throttleTake_kept (s : State) (m : ArmMsg) :
    ((State.throttleTake s m)).kept = s.kept := by
  simp [State.throttleTake]

@[simp] theorem State.ddrRetrain_kept (s : State) (ch : Nat) (ok : Bool) :
    ((State.ddrRetrain s ch ok)).kept = s.kept := by
  simp [State.ddrRetrain]

/-! Sequencer -/

@[simp] theorem State.setCore_kept (s : State) (d : Nat) (c : Nat) (k : Core) :
    ((State.setCore s d c k)).kept = s.kept := by
  simp [State.setCore]

@[simp] theorem State.setArr_kept (s : State) (d : Nat) (c : Nat) (a : Nat) (x : Arr) :
    ((State.setArr s d c a x)).kept = s.kept := by
  simp [State.setArr]

@[simp] theorem State.setChan_kept (s : State) (d : Nat) (c : Nat) (ch : Nat) (x : Chan) :
    ((State.setChan s d c ch x)).kept = s.kept := by
  simp [State.setChan]

@[simp] theorem State.setChSt_kept (s : State) (d : Nat) (c : Nat) (ch : Nat) (v : Nat) :
    ((State.setChSt s d c ch v)).kept = s.kept := by
  simp [State.setChSt]

@[simp] theorem State.workReason_kept (s : State) (ctx : Nat) (kind : Nat) (seq : Nat) (r : Nat) :
    ((State.workReason s ctx kind seq r)).kept = s.kept := by
  simp [State.workReason]

@[simp] theorem State.evcAdd_kept (s : State) (d : Nat) (c : Nat) (ec : Nat) (n : Nat) :
    ((State.evcAdd s d c ec n)).kept = s.kept := by
  simp [State.evcAdd]

@[simp] theorem State.signalArrive_kept (s : State) (g : Signal) :
    ((State.signalArrive s g)).kept = s.kept := by
  simp [State.signalArrive]

@[simp] theorem State.setBlock_kept (s : State) (d : Nat) (c : Nat) (b : Option BlockRun) :
    ((State.setBlock s d c b)).kept = s.kept := by
  unfold State.setBlock; split <;> simp

@[simp] theorem State.showQueue_kept (s : State) (d : Nat) (c : Nat) :
    ((State.showQueue s d c)).kept = s.kept := by
  simp [State.showQueue]

@[simp] theorem State.workScheduled_kept (s : State) :
    ((State.workScheduled s)).kept = s.kept := by
  simp [State.workScheduled]

@[simp] theorem State.slotPush_kept (s : State) (d : Nat) (c : Nat) (w3 : Word) :
    ((State.slotPush s d c w3)).kept = s.kept := by
  simp [State.slotPush]

@[simp] theorem State.chanStop_kept (s : State) (d : Nat) (c : Nat) (ch : Nat) :
    ((State.chanStop s d c ch)).kept = s.kept := by
  simp [State.chanStop]

@[simp] theorem State.endTargets_kept (s : State) (d : Nat) (c : Nat) :
    ((State.endTargets s d c)).kept = s.kept := by
  simp [State.endTargets]

@[simp] theorem State.modesShow_kept (s : State) (d : Nat) (c : Nat) (now : Nat) :
    ((State.modesShow s d c now)).kept = s.kept := by
  simp [State.modesShow]

@[simp] theorem State.spanSet_kept (s : State) (ctx : Nat) (on : Bool) :
    ((State.spanSet s ctx on)).kept = s.kept := by
  simp [State.spanSet]

@[simp] theorem State.spanRun_kept (s : State) (w0 : Word) :
    ((State.spanRun s w0)).kept = s.kept := by
  simp [State.spanRun]

@[simp] theorem State.abortBlock_kept (s : State) (d : Nat) (c : Nat) (reason : Nat) :
    ((State.abortBlock s d c reason)).kept = s.kept := by
  unfold State.abortBlock; split <;> simp

@[simp] theorem State.malformed_kept (s : State) (d : Nat) (c : Nat) (cause : Nat) (pc : Nat) :
    ((State.malformed s d c cause pc)).kept = s.kept := by
  simp [State.malformed]

@[simp] theorem State.startBlock_kept (s : State) (d : Nat) (c : Nat) (e : List Word) :
    ((State.startBlock s d c e)).kept = s.kept := by
  simp [State.startBlock]

@[simp] theorem State.slotCompare_kept (s : State) (d : Nat) (c : Nat) (x3 : Nat) :
    ((State.slotCompare s d c x3)).kept = s.kept := by
  induction x3 generalizing s with
  | zero => simp [State.slotCompare]
  | succ n ih =>
    rw [State.slotCompare]; split
    · rfl
    · dsimp only; split
      · simp
      · split
        · rfl
        · rw [ih]; simp

@[simp] theorem State.slotStart_kept (s : State) (d : Nat) (c : Nat) :
    ((State.slotStart s d c)).kept = s.kept := by
  simp [State.slotStart]

@[simp] theorem State.seqHold_kept (s : State) (d : Nat) (c : Nat) (b : BlockRun) :
    ((State.seqHold s d c b)).kept = s.kept := by
  simp [State.seqHold]

@[simp] theorem State.issue_kept (s : State) (d : Nat) (c : Nat) (b : BlockRun) (w0 : Word) (ready : Nat) (nw : Nat) :
    ((State.issue s d c b w0 ready nw)).kept = s.kept := by
  simp [State.issue]

@[simp] theorem State.seqCmd_kept (s : State) (d : Nat) (c : Nat) (op : Nat) (causes : BlockRun → List Word → List Nat) (run : BlockRun → List Word → State) (hrun : ∀ a0 a1, ((run a0 a1)).kept = s.kept) :
    ((State.seqCmd s d c op causes run)).kept = s.kept := by
  simp [State.seqCmd]; (repeat' split) <;> simp_all

@[simp] theorem State.seqEnd_kept (s : State) (d : Nat) (c : Nat) :
    ((State.seqEnd s d c)).kept = s.kept := by
  simp [State.seqEnd]

@[simp] theorem State.seqLoop_kept (s : State) (d : Nat) (c : Nat) :
    ((State.seqLoop s d c)).kept = s.kept := by
  simp [State.seqLoop]

@[simp] theorem State.seqParam_kept (s : State) (d : Nat) (c : Nat) (op : Nat) (f : Nat → Nat → Nat) :
    ((State.seqParam s d c op f)).kept = s.kept := by
  simp [State.seqParam]

@[simp] theorem State.seqWait_kept (s : State) (d : Nat) (c : Nat) (cycle : Nat) :
    ((State.seqWait s d c cycle)).kept = s.kept := by
  simp [State.seqWait]

@[simp] theorem State.sendSignal_kept (s : State) (d : Nat) (core : Nat) (ec : Nat) (inc : Nat) (ctx : Nat) (kind : Nat) (seq : Nat) :
    ((State.sendSignal s d core ec inc ctx kind seq)).kept = s.kept := by
  simp [State.sendSignal]

@[simp] theorem State.seqSignal_kept (s : State) (d : Nat) (c : Nat) :
    ((State.seqSignal s d c)).kept = s.kept := by
  simp [State.seqSignal]

@[simp] theorem State.seqDmaStart_kept (s : State) (d : Nat) (c : Nat) (cycle : Nat) :
    ((State.seqDmaStart s d c cycle)).kept = s.kept := by
  simp [State.seqDmaStart]

@[simp] theorem State.seqDmaStop_kept (s : State) (d : Nat) (c : Nat) :
    ((State.seqDmaStop s d c)).kept = s.kept := by
  simp [State.seqDmaStop]

@[simp] theorem State.takeCores_kept (s : State) :
    ((State.takeCores s)).kept = s.kept := by
  unfold State.takeCores; apply foldl_kept; intro s x; (repeat' split) <;> simp

@[simp] theorem State.collIssue_kept (s : State) (d : Nat) (c : Nat) (cycle : Nat) (b : BlockRun) (ws : List Word) :
    ((State.collIssue s d c cycle b ws)).kept = s.kept := by
  simp [State.collIssue]

@[simp] theorem State.seqColl_kept (s : State) (d : Nat) (c : Nat) (cycle : Nat) :
    ((State.seqColl s d c cycle)).kept = s.kept := by
  simp [State.seqColl]

@[simp] theorem State.blockComplete_kept (s : State) (d : Nat) (c : Nat) (cycle : Nat) :
    ((State.blockComplete s d c cycle)).kept = s.kept := by
  unfold State.blockComplete; split <;> simp

@[simp] theorem State.carryDeadline_kept (s : State) (d : Nat) (c : Nat) (ch : Nat) :
    ((State.carryDeadline s d c ch)).kept = s.kept := by
  simp [State.carryDeadline]

@[simp] theorem State.fetchBad_kept (s : State) (unit : Nat) (f : Finding) :
    ((State.fetchBad s unit f)).kept = s.kept := by
  unfold State.fetchBad; split <;> simp

/-! Matrix -/

@[simp] theorem State.pairSeen_kept (s : State) (d : Nat) (c : Nat) (a : Nat) (i : Nat) (v : Word) (o : Ecc) :
    ((State.pairSeen s d c a i v o)).kept = s.kept := by
  unfold State.pairSeen; split <;> simp

@[simp] theorem State.pairCheck_kept (s : State) (d : Nat) (c : Nat) (a : Nat) (i : Nat) (check : Option Byte) :
    ((State.pairCheck s d c a i check)).kept = s.kept := by
  simp [State.pairCheck]

@[simp] theorem State.pairsCheck_kept (s : State) (d : Nat) (c : Nat) (a : Nat) (lo : Nat) (hi : Nat) :
    ((State.pairsCheck s d c a lo hi)).kept = s.kept := by
  unfold State.pairsCheck <;> (repeat' first
      | (simp; done)
      | (intro _)
      | (rename_i h; have h1 := congrArg (fun p => State.kept (Prod.snd p)) h; clear h; simp at h1; simp [← h1]; done)
      | (rename_i h; have h1 := congrArg (fun p => State.kept (Prod.snd (Prod.snd p))) h; clear h; simp at h1; simp [← h1]; done)
      | split
      | (rw [foldl_kept _ _ _ ?_])
      | (simp_all; done)
      | simp)

@[simp] theorem State.arrLoad_kept (s : State) (d : Nat) (c : Nat) (q : Matmul) :
    ((State.arrLoad s d c q)).kept = s.kept := by
  unfold State.arrLoad
  rcases h : s.loadBytes (scratchAddr d c q.tile) q.total with ⟨bs, t⟩
  have k := State.loadBytes_kept s (scratchAddr d c q.tile) q.total
  rw [h] at k
  simp [k]

@[simp] theorem State.rowScales_kept (s : State) (d : Nat) (c : Nat) (q : Matmul) (m : Nat) :
    ((State.rowScales s d c q m).2).kept = s.kept := by
  simp [State.rowScales]

@[simp] theorem State.rowResult_kept (s : State) (d : Nat) (c : Nat) (q : Matmul) (mode : Mode) (m : Nat) :
    ((State.rowResult s d c q mode m).2).kept = s.kept := by
  unfold State.rowResult
  dsimp only
  rw [snd_pair, State.rowScales_kept, State.loadBytes_kept]

@[simp] theorem State.rowResults_kept (s : State) (d : Nat) (c : Nat) (q : Matmul) (mode : Mode) (x5 : Nat) :
    ((State.rowResults s d c q mode x5).2).kept = s.kept := by
  induction x5 generalizing s with
  | zero => rfl
  | succ n ih =>
    rw [State.rowResults, snd_pair, ih, State.rowResult_kept]

@[simp] theorem State.storeRows_kept (s : State) (d : Nat) (c : Nat) (q : Matmul) (n : Nat) (runs : List (List (List Num))) :
    ((State.storeRows s d c q n runs)).kept = s.kept := by
  unfold State.storeRows; apply foldl_kept; intro s x; simp

@[simp] theorem State.drain_kept (s : State) (d : Nat) (c : Nat) (b : BlockRun) (q : Matmul) (mode : Mode) (results : List (List Num)) :
    ((State.drain s d c b q mode results)).kept = s.kept := by
  simp [State.drain]; (repeat' split) <;> simp_all

@[simp] theorem State.kcyc_kept (s : State) (d : Nat) (c : Nat) (a : Nat) (f : Fld) (rem : Nat) (cycles : Nat) :
    ((State.kcyc s d c a f rem cycles).2).kept = s.kept := by
  simp [State.kcyc]

@[simp] theorem State.matmulRun_kept (s : State) (d : Nat) (c : Nat) (b : BlockRun) (ws : List Word) (q : Matmul) (mode : Mode) :
    ((State.matmulRun s d c b ws q mode)).kept = s.kept := by
  simp [State.matmulRun]

@[simp] theorem State.seqMatmul_kept (s : State) (d : Nat) (c : Nat) :
    ((State.seqMatmul s d c)).kept = s.kept := by
  unfold State.seqMatmul; apply State.seqCmd_kept; intro b ws; dsimp only; split <;> simp

@[simp] theorem State.setRetest_kept (s : State) (d : Nat) (c : Nat) (a : Nat) (r : Option Retest) :
    ((State.setRetest s d c a r)).kept = s.kept := by
  simp [State.setRetest]

@[simp] theorem State.fillBad_kept (s : State) (d : Nat) (c : Nat) (a : Nat) (p : Nat) :
    ((State.fillBad s d c a p)).kept = s.kept := by
  simp [State.fillBad]

@[simp] theorem State.fillCheck_kept (s : State) (d : Nat) (c : Nat) (a : Nat) (rec : BitVec 128) (first : Bool) :
    ((State.fillCheck s d c a rec first)).kept = s.kept := by
  simp [State.fillCheck]; (repeat' split) <;> simp_all

@[simp] theorem State.fillPass_kept (s : State) (d : Nat) (c : Nat) (a : Nat) (rec : BitVec 128) (first : Bool) :
    ((State.fillPass s d c a rec first)).kept = s.kept := by
  simp [State.fillPass]; (repeat' split) <;> simp_all

@[simp] theorem State.clockGate_kept (s : State) (d : Nat) (c : Nat) (a : Nat) (cycle : Nat) :
    ((State.clockGate s d c a cycle)).kept = s.kept := by
  simp [State.clockGate]

@[simp] theorem State.fillPlan_kept (s : State) :
    ((State.fillPlan s)).kept = s.kept := by
  simp [State.fillPlan]

/-! Umajo -/

@[simp] theorem State.umSend_kept (s : State) (m : UmMsg) :
    ((State.umSend s m)).kept = s.kept := by
  simp [State.umSend]

@[simp] theorem State.hostPut_kept (s : State) (ctx : Nat) (off : Nat) (ws : List TWord) (m0 : Nat) (m1 : Nat) :
    ((State.hostPut s ctx off ws m0 m1)).kept = s.kept := by
  simp [State.hostPut]

@[simp] theorem State.hostBytes_kept (s : State) (ctx : Nat) (x2 : Nat) (x3 : Nat) (x4 : List (Byte × Bool)) :
    ((State.hostBytes s ctx x2 x3 x4)).kept = s.kept := by
  fun_induction State.hostBytes s ctx x2 x3 x4 <;> simp_all

@[simp] theorem State.hostWrite_kept (s : State) (ctx : Nat) (off : Nat) (ws : List Word) :
    ((State.hostWrite s ctx off ws)).kept = s.kept := by
  simp [State.hostWrite]

@[simp] theorem State.setSlot_kept (s : State) (i : Nat) (x : RdSlot) :
    ((State.setSlot s i x)).kept = s.kept := by
  simp [State.setSlot]

@[simp] theorem State.hostGet_kept (s : State) (x : RdSlot) :
    ((State.hostGet s x)).kept = s.kept := by
  unfold State.hostGet; split
  · exact kept_mk ..
  · rw [State.umSend_kept]; exact State.setSlot_kept ..

@[simp] theorem State.slotFree_kept (s : State) (i : Nat) :
    ((State.slotFree s i)).kept = s.kept := by
  simp [State.slotFree]; (repeat' split) <;> simp_all

@[simp] theorem State.hostRead_kept (s : State) (ctx : Nat) (off : Nat) (bytes : Nat) (owner : RdOwner) :
    ((State.hostRead s ctx off bytes owner)).kept = s.kept := by
  simp [State.hostRead]

/-! Tiers -/

@[simp] theorem State.crossed_kept (s : State) (who : Requester) (a : Nat) :
    ((State.crossed s who a)).kept = s.kept := by
  simp [State.crossed]

@[simp] theorem State.ddrErr_kept (s : State) (a : Nat) (status : Nat) :
    ((State.ddrErr s a status)).kept = s.kept := by
  simp [State.ddrErr]

@[simp] theorem State.refused_kept (s : State) (die : Nat) (ctx : Option Nat) (index : Nat) (a : Nat) :
    ((State.refused s die ctx index a)).kept = s.kept := by
  simp [State.refused]

@[simp] theorem State.cacheDrop_kept (s : State) (d : Nat) (c : Nat) (a : Nat) :
    ((State.cacheDrop s d c a)).kept = s.kept := by
  simp [State.cacheDrop]

@[simp] theorem State.readWords_kept (s : State) (who : Requester) (expect : Option Nat) (x3 : Nat) (x4 : Nat) :
    ((State.readWords s who expect x3 x4).2).kept = s.kept := by
  induction x4 generalizing s x3 with
  | zero => simp [State.readWords]
  | succ n ih =>
    rw [State.readWords]; split
    · rcases h : s.load x3 with ⟨w, t⟩
      have k := State.load_kept s x3
      rw [h] at k
      simp [ih, k]
    · simp [ih]

@[simp] theorem State.writeWord_kept (s : State) (who : Requester) (a : Nat) (w : TWord) :
    ((State.writeWord s who a w).2).kept = s.kept := by
  unfold State.writeWord; split <;> simp

@[simp] theorem State.writeWords_kept (s : State) (who : Requester) (x2 : Nat) (x3 : List TWord) :
    ((State.writeWords s who x2 x3).2).kept = s.kept := by
  induction x3 generalizing s x2 with
  | nil => simp [State.writeWords]
  | cons w ws ih =>
    rw [State.writeWords]; rcases h : s.writeWord who x2 w with ⟨st, t⟩; rcases h2 : t.writeWords who (x2 + 8) ws with ⟨rs, u⟩
    have k := State.writeWord_kept s who x2 w; have k2 := ih t (x2 + 8); simp_all

@[simp] theorem State.accessDone_kept (s : State) (acc : Access) (st : Nat) (data : Word) :
    ((State.accessDone s acc st data)).kept = s.kept := by
  simp [State.accessDone]

@[simp] theorem State.storeAccess_kept (s : State) (acc : Access) :
    ((State.storeAccess s acc)).kept = s.kept := by
  unfold State.storeAccess; split <;> simp

@[simp] theorem State.serveAt_kept (s : State) (acc : Access) (p : Place → Bool) :
    ((State.serveAt s acc p)).kept = s.kept := by
  simp [State.serveAt]

@[simp] theorem State.hostAccess_kept (s : State) (acc : Access) :
    ((State.hostAccess s acc)).kept = s.kept := by
  unfold State.hostAccess; (repeat' split) <;> simp

@[simp] theorem State.scrub_kept (s : State) (x1 : Nat) (x2 : Nat) :
    ((State.scrub s x1 x2)).kept = s.kept := by
  induction x2 generalizing s x1 with
  | zero => simp [State.scrub]
  | succ n ih =>
    rw [State.scrub, ih]; split
    · have k := State.load_kept s x1; simp_all
    · rfl

@[simp] theorem State.setSeg_kept (s : State) (p : Nat) (i : Nat) (e : Word) :
    ((State.setSeg s p i e)).kept = s.kept := by
  simp [State.setSeg]

@[simp] theorem State.segWrite_kept (s : State) (p : Nat) (i : Nat) :
    ((State.segWrite s p i)).kept = s.kept := by
  simp [State.segWrite]

@[simp] theorem State.segRead_kept (s : State) (p : Nat) (i : Nat) :
    ((State.segRead s p i)).kept = s.kept := by
  simp [State.segRead]

@[simp] theorem State.setEpoch_kept (s : State) (p : Nat) (host : Bool) (r : Nat) (v : Nat) :
    ((State.setEpoch s p host r v)).kept = s.kept := by
  simp [State.setEpoch]

@[simp] theorem State.epochCmd_kept (s : State) (p : Nat) (host : Bool) (r : Nat) (f : Nat → Nat) :
    ((State.epochCmd s p host r f)).kept = s.kept := by
  simp [State.epochCmd]

@[simp] theorem State.reallocDdr_kept (s : State) (r : Nat) :
    ((State.reallocDdr s r)).kept = s.kept := by
  simp [State.reallocDdr]

end Sys2Proof.Machine
end

