-- ==== Sys2Proof/Laws/KeptUnits.lean ====
section
/-! SUPPORT. No operation of the DMA channels, the engines, the page maps, flash, the links and the events touches the queue, or of the provenance die more than its
state journal: one lemma each. -/

namespace Sys2Proof.Machine

/-! Dma -/

@[simp] theorem State.cacheLook_kept (s : State) (d : Nat) (c : Nat) (ctx : Nat) (a : Nat) :
    ((State.cacheLook s d c ctx a).2).kept = s.kept := by
  simp [State.cacheLook]; (repeat' split) <;> simp_all

@[simp] theorem State.cacheFill_kept (s : State) (d : Nat) (c : Nat) (ctx : Nat) (a : Nat) (ws : List (Option CWord)) :
    ((State.cacheFill s d c ctx a ws)).kept = s.kept := by
  simp [State.cacheFill]; (repeat' split) <;> simp_all

@[simp] theorem State.cacheHit_kept (s : State) (d : Nat) (c : Nat) (lo : Nat) (hi : Nat) (expect : Option Nat) (x6 : Option CLine) :
    ((State.cacheHit s d c lo hi expect x6).2).kept = s.kept := by
  unfold State.cacheHit; (repeat' split) <;> simp

@[simp] theorem State.cacheLines_kept (s : State) (d : Nat) (c : Nat) (ctx : Nat) (expect : Option Nat) (w0 : Nat) (w1 : Nat) (x7 : Nat) (x8 : Nat) :
    ((State.cacheLines s d c ctx expect w0 w1 x7 x8).2).kept = s.kept := by
  induction x8 generalizing s x7 with
  | zero => simp [State.cacheLines]
  | succ n ih => simp [State.cacheLines, ih]

@[simp] theorem State.trackShow_kept (s : State) :
    ((State.trackShow s)).kept = s.kept := by
  simp [State.trackShow]

@[simp] theorem State.trackWrite_kept (s : State) (a : Nat) :
    ((State.trackWrite s a)).kept = s.kept := by
  simp [State.trackWrite]

@[simp] theorem State.sendOut_kept (s : State) (d : Nat) (c : Nat) (ch : Nat) (index : Nat) :
    ((State.sendOut s d c ch index)).kept = s.kept := by
  simp [State.sendOut]

@[simp] theorem State.quotaFill_kept (s : State) (d : Nat) (c : Nat) (p : Nat) (x4 : Nat) :
    ((State.quotaFill s d c p x4)).kept = s.kept := by
  induction x4 generalizing s with
  | zero => simp [State.quotaFill]
  | succ n ih =>
    rw [State.quotaFill]; split
    · rfl
    · dsimp only; split
      · rfl
      · split
        · rfl
        · rw [ih]; simp

@[simp] theorem State.quotaServe_kept (s : State) (d : Nat) (c : Nat) :
    ((State.quotaServe s d c)).kept = s.kept := by
  simp [State.quotaServe]

@[simp] theorem State.chanError_kept (s : State) (d : Nat) (c : Nat) (ch : Nat) (cause : Nat) :
    ((State.chanError s d c ch cause)).kept = s.kept := by
  simp [State.chanError]

@[simp] theorem State.dmaOutcome_kept (s : State) (d : Nat) (c : Nat) (ch : Nat) (st : Nat) (a : Nat) :
    ((State.dmaOutcome s d c ch st a)).kept = s.kept := by
  unfold State.dmaOutcome; (repeat' split) <;> simp

@[simp] theorem State.descWords_kept (s : State) (d : Nat) (c : Nat) (ch : Nat) (n : Nat) :
    ((State.descWords s d c ch n).2).kept = s.kept := by
  simp [State.descWords]

@[simp] theorem State.chanCmd_kept (s : State) (d : Nat) (c : Nat) (ch : Nat) (op : Nat) (bad : List Word → Option Nat) (run : List Word → State → State) (hrun : ∀ a0 a1, ((run a0 a1)).kept = a1.kept) :
    ((State.chanCmd s d c ch op bad run)).kept = s.kept := by
  simp [State.chanCmd]; (repeat' split) <;> simp_all

@[simp] theorem State.setChPc_kept (s : State) (d : Nat) (c : Nat) (ch : Nat) (pc : Nat) :
    ((State.setChPc s d c ch pc)).kept = s.kept := by
  simp [State.setChPc]

@[simp] theorem State.moveRequest_kept (s : State) (d : Nat) (c : Nat) (ch : Nat) (runahead : Bool) (echk : Bool) (epoch : Option Nat) (i : Nat) (lo : Nat) (hi : Nat) :
    ((State.moveRequest s d c ch runahead echk epoch i lo hi).2).kept = s.kept := by
  simp [State.moveRequest]; (repeat' split) <;> simp_all

@[simp] theorem State.moveRequests_kept (s : State) (d : Nat) (c : Nat) (ch : Nat) (runahead : Bool) (echk : Bool) (epoch : Option Nat) (x7 : List (Nat × Nat × Nat)) :
    ((State.moveRequests s d c ch runahead echk epoch x7).2).kept = s.kept := by
  induction x7 generalizing s with
  | nil => simp [State.moveRequests]
  | cons r rs ih =>
    obtain ⟨i, lo, hi⟩ := r
    rw [State.moveRequests]; rcases h : s.moveRequest d c ch runahead echk epoch i lo hi with ⟨q, t⟩
    rcases h2 : t.moveRequests d c ch runahead echk epoch rs with ⟨qs, u⟩
    have k := State.moveRequest_kept s d c ch runahead echk epoch i lo hi; have k2 := ih t; simp_all

@[simp] theorem State.funnelWord_kept (s : State) (d : Nat) (c : Nat) (ctx : Nat) (mv : DmaMv) (w : Nat) :
    ((State.funnelWord s d c ctx mv w).2.2).kept = s.kept := by
  simp [State.funnelWord]

@[simp] theorem State.funnelBlock_kept (s : State) (d : Nat) (c : Nat) (ctx : Nat) (mv : DmaMv) (b : Nat) :
    ((State.funnelBlock s d c ctx mv b).2.2).kept = s.kept := by
  unfold State.funnelBlock; split
  · dsimp only; split
    · rfl
    · split
      · rfl
      · rw [foldl_trd_kept]; intro x y; split
        · rfl
        · simp
  · rw [foldl_trd_kept]; intro x y; simp

@[simp] theorem State.writeBlock_kept (s : State) (d : Nat) (c : Nat) (ch : Nat) (mv : DmaMv) (b : Nat) :
    ((State.writeBlock s d c ch mv b)).kept = s.kept := by
  simp [State.writeBlock]

@[simp] theorem State.postEvent_kept (s : State) (d : Nat) (c : Nat) (ch : Nat) (ec : Option Nat) :
    ((State.postEvent s d c ch ec)).kept = s.kept := by
  unfold State.postEvent; split <;> simp

@[simp] theorem State.chanIdle_kept (s : State) (d : Nat) (c : Nat) (ch : Nat) :
    ((State.chanIdle s d c ch)).kept = s.kept := by
  simp [State.chanIdle]

@[simp] theorem State.setMove_kept (s : State) (d : Nat) (c : Nat) (ch : Nat) (i : Nat) (mv : DmaMv) :
    ((State.setMove s d c ch i mv)).kept = s.kept := by
  simp [State.setMove]

@[simp] theorem State.dropMove_kept (s : State) (d : Nat) (c : Nat) (ch : Nat) (i : Nat) :
    ((State.dropMove s d c ch i)).kept = s.kept := by
  simp [State.dropMove]

@[simp] theorem State.moveEvents_kept (s : State) (d : Nat) (c : Nat) (ch : Nat) (i : Nat) (mv : DmaMv) :
    ((State.moveEvents s d c ch i mv)).kept = s.kept := by
  simp [State.moveEvents]

@[simp] theorem State.writeHeld_kept (s : State) (d : Nat) (c : Nat) (ch : Nat) (mv : DmaMv) :
    ((State.writeHeld s d c ch mv)).kept = s.kept := by
  simp [State.writeHeld]

@[simp] theorem State.staleOutcomes_kept (s : State) (d : Nat) (c : Nat) (ch : Nat) (st : Nat) (mv : DmaMv) :
    ((State.staleOutcomes s d c ch st mv)).kept = s.kept := by
  simp [State.staleOutcomes]

@[simp] theorem State.attemptEnd_kept (s : State) (d : Nat) (c : Nat) (ch : Nat) (i : Nat) (mv : DmaMv) :
    ((State.attemptEnd s d c ch i mv)).kept = s.kept := by
  simp [State.attemptEnd]

@[simp] theorem State.moveGoesOn_kept (s : State) (d : Nat) (c : Nat) (ch : Nat) (i : Nat) (mv : DmaMv) (r : DmaReq) :
    ((State.moveGoesOn s d c ch i mv r)).kept = s.kept := by
  simp [State.moveGoesOn]

@[simp] theorem State.cacheTake_kept (s : State) (d : Nat) (c : Nat) (ctx : Nat) (mv : DmaMv) (r : DmaReq) (ws : List (CWord × Bool)) :
    ((State.cacheTake s d c ctx mv r ws)).kept = s.kept := by
  simp [State.cacheTake]

@[simp] theorem State.moveData_kept (s : State) (d : Nat) (c : Nat) (ch : Nat) (i : Nat) (mv : DmaMv) (r : DmaReq) (ws : List (CWord × Bool)) (fill : Bool) :
    ((State.moveData s d c ch i mv r ws fill)).kept = s.kept := by
  simp [State.moveData]

@[simp] theorem State.moveFail_kept (s : State) (d : Nat) (c : Nat) (ch : Nat) (i : Nat) (mv : DmaMv) (r : DmaReq) (st : Nat) :
    ((State.moveFail s d c ch i mv r st)).kept = s.kept := by
  simp [State.moveFail]

@[simp] theorem State.moveDrop_kept (s : State) (d : Nat) (c : Nat) (ch : Nat) (i : Nat) (mv : DmaMv) (r : DmaReq) :
    ((State.moveDrop s d c ch i mv r)).kept = s.kept := by
  simp [State.moveDrop]

@[simp] theorem State.moveServe_kept (s : State) (d : Nat) (c : Nat) (ch : Nat) (i : Nat) (mv : DmaMv) (r : DmaReq) :
    ((State.moveServe s d c ch i mv r)).kept = s.kept := by
  unfold State.moveServe; split <;> simp

@[simp] theorem State.dmaComplete_kept (s : State) (d : Nat) (c : Nat) (ch : Nat) (index : Nat) (how : ReqEnd) :
    ((State.dmaComplete s d c ch index how)).kept = s.kept := by
  unfold State.dmaComplete; (repeat' split) <;> simp

@[simp] theorem State.chanDrop_kept (s : State) (d : Nat) (c : Nat) (ch : Nat) :
    ((State.chanDrop s d c ch)).kept = s.kept := by
  simp [State.chanDrop]

@[simp] theorem State.moveRun_kept (s : State) (d : Nat) (c : Nat) (ch : Nat) (ws : List Word) :
    ((State.moveRun s d c ch ws)).kept = s.kept := by
  simp [State.moveRun]

@[simp] theorem State.loopRun_kept (s : State) (d : Nat) (c : Nat) (ch : Nat) (ws : List Word) :
    ((State.loopRun s d c ch ws)).kept = s.kept := by
  simp [State.loopRun]; (repeat' split) <;> simp_all

@[simp] theorem State.waitRun_kept (s : State) (d : Nat) (c : Nat) (ch : Nat) (ws : List Word) :
    ((State.waitRun s d c ch ws)).kept = s.kept := by
  simp [State.waitRun]

@[simp] theorem State.signalRun_kept (s : State) (d : Nat) (c : Nat) (ch : Nat) (ws : List Word) :
    ((State.signalRun s d c ch ws)).kept = s.kept := by
  simp [State.signalRun]

@[simp] theorem State.chanEnd_kept (s : State) (d : Nat) (c : Nat) (ch : Nat) :
    ((State.chanEnd s d c ch)).kept = s.kept := by
  simp [State.chanEnd]

/-! Vector -/

@[simp] theorem State.vecShare_kept (s : State) (d : Nat) (c : Nat) (t : Nat) :
    ((State.vecShare s d c t).2).kept = s.kept := by
  simp [State.vecShare]

@[simp] theorem State.vecOccupancy_kept (s : State) (d : Nat) (c : Nat) (t : Nat) (q : Vec) (prev : Option VecPrev) :
    ((State.vecOccupancy s d c t q prev).2).kept = s.kept := by
  simp [State.vecOccupancy]

@[simp] theorem State.vecSource_kept (s : State) (d : Nat) (c : Nat) (src : Option (Nat × Nat × Nat × Nat)) :
    ((State.vecSource s d c src).2).kept = s.kept := by
  unfold State.vecSource; split <;> simp

@[simp] theorem State.vecFirst_kept (s : State) (d : Nat) (c : Nat) (q : Vec) (prev : Option VecPrev) :
    ((State.vecFirst s d c q prev).2).kept = s.kept := by
  unfold State.vecFirst; split <;> simp

@[simp] theorem State.vecRun_kept (s : State) (d : Nat) (c : Nat) (b : BlockRun) (ws : List Word) (q : Vec) :
    ((State.vecRun s d c b ws q)).kept = s.kept := by
  simp [State.vecRun]

@[simp] theorem State.seqVec_kept (s : State) (d : Nat) (c : Nat) :
    ((State.seqVec s d c)).kept = s.kept := by
  simp [State.seqVec]

/-! Engines -/

@[simp] theorem State.setEng_kept (s : State) (d : Nat) (e : Nat) (x : Eng) :
    ((State.setEng s d e x)).kept = s.kept := by
  simp [State.setEng]

@[simp] theorem State.engShow_kept (s : State) (d : Nat) (e : Nat) :
    ((State.engShow s d e)).kept = s.kept := by
  simp [State.engShow]

@[simp] theorem State.jobPush_kept (s : State) (d : Nat) (e : Nat) (w3 : Word) :
    ((State.jobPush s d e w3)).kept = s.kept := by
  simp [State.jobPush]

@[simp] theorem State.jobStart_kept (s : State) (d : Nat) (e : Nat) (j : List Word) :
    ((State.jobStart s d e j)).kept = s.kept := by
  simp [State.jobStart]

@[simp] theorem State.jobCompare_kept (s : State) (d : Nat) (e : Nat) (x3 : Nat) :
    ((State.jobCompare s d e x3)).kept = s.kept := by
  induction x3 generalizing s with
  | zero => simp [State.jobCompare]
  | succ n ih =>
    rw [State.jobCompare]; split
    · rfl
    · dsimp only; split
      · simp
      · split
        · rfl
        · simp [ih]

@[simp] theorem State.jobCycle_kept (s : State) (d : Nat) (e : Nat) :
    ((State.jobCycle s d e)).kept = s.kept := by
  simp [State.jobCycle]

@[simp] theorem State.jobDone_kept (s : State) (d : Nat) (e : Nat) (j : List Word) (st : Nat) :
    ((State.jobDone s d e j st)).kept = s.kept := by
  simp [State.jobDone]; (repeat' split) <;> simp_all

@[simp] theorem State.jobRow_kept (s : State) (d : Nat) (e : Nat) (op : Nat) (run : List Word → State → Nat × State) (hrun : ∀ a0 a1, ((run a0 a1).2).kept = a1.kept) :
    ((State.jobRow s d e op run)).kept = s.kept := by
  simp [State.jobRow]; (repeat' split) <;> simp_all

@[simp] theorem State.jobRefuse_kept (s : State) (d : Nat) (j : List Word) (st : Nat) (a : Nat) :
    ((State.jobRefuse s d j st a)).kept = s.kept := by
  simp [State.jobRefuse]

@[simp] theorem State.jobRead_kept (s : State) (d : Nat) (j : List Word) (a : Nat) (n : Nat) :
    ((State.jobRead s d j a n).2.2).kept = s.kept := by
  simp [State.jobRead]

@[simp] theorem State.jobWrite_kept (s : State) (d : Nat) (j : List Word) (a : Nat) (bs : List Byte) :
    ((State.jobWrite s d j a bs).2).kept = s.kept := by
  simp [State.jobWrite]

@[simp] theorem State.withRecord_kept (s : State) (d : Nat) (j : List Word) (n : Nat) (run : List Byte → State → Nat × State) (hrun : ∀ a0 a1, ((run a0 a1).2).kept = a1.kept) :
    ((State.withRecord s d j n run).2).kept = s.kept := by
  simp_all [State.withRecord]

@[simp] theorem State.rngJob_kept (s : State) (d : Nat) (op : Nat) (per : Nat) (out : List Byte → List (List Nat) → Nat → List Byte) :
    ((State.rngJob s d op per out)).kept = s.kept := by
  simp [State.rngJob]

@[simp] theorem State.readPlanes_kept (s : State) (d : Nat) (j : List Word) (x3 : List (Nat × Nat)) :
    ((State.readPlanes s d j x3).2.2).kept = s.kept := by
  induction x3 generalizing s with
  | nil => simp [State.readPlanes]
  | cons x l ih => simp [State.readPlanes, ih]

@[simp] theorem State.writePlanes_kept (s : State) (d : Nat) (j : List Word) (x3 : List ((Nat × Nat) × Nat)) :
    ((State.writePlanes s d j x3).2).kept = s.kept := by
  induction x3 generalizing s with
  | nil => simp [State.writePlanes]
  | cons x l ih => simp [State.writePlanes, ih]

@[simp] theorem State.finElem_kept (s : State) (d : Nat) (op : Nat) (j : List Word) (f : FinRec) (scale : Option Nat) (i : Nat) :
    ((State.finElem s d op j f scale i).2).kept = s.kept := by
  unfold State.finElem; (repeat' split) <;> simp

@[simp] theorem State.finElems_kept (s : State) (d : Nat) (op : Nat) (j : List Word) (f : FinRec) (scale : Option Nat) (x6 : Nat) (x7 : Nat) :
    ((State.finElems s d op j f scale x6 x7).2).kept = s.kept := by
  induction x7 generalizing s x6 with
  | zero => simp [State.finElems]
  | succ n ih => simp [State.finElems, ih]

@[simp] theorem State.finJob_kept (s : State) (d : Nat) (op : Nat) :
    ((State.finJob s d op)).kept = s.kept := by
  simp [State.finJob]

@[simp] theorem State.ssqJob_kept (s : State) (d : Nat) :
    ((State.ssqJob s d)).kept = s.kept := by
  simp [State.ssqJob]

@[simp] theorem State.checkFailed_kept (s : State) (d : Nat) (st : Option Nat) (a : Nat) :
    ((State.checkFailed s d st a)).kept = s.kept := by
  unfold State.checkFailed; split <;> simp

@[simp] theorem State.compareJob_kept (s : State) (d : Nat) :
    ((State.compareJob s d)).kept = s.kept := by
  simp [State.compareJob]

@[simp] theorem State.shaSegments_kept (s : State) (d : Nat) (j : List Word) (last : Nat) (x4 : Nat) (x5 : Nat) :
    ((State.shaSegments s d j last x4 x5).2.2).kept = s.kept := by
  induction x5 generalizing s x4 with
  | zero => rfl
  | succ n ih =>
    rw [State.shaSegments]; generalize (if n = 0 then last else 2 ^ 20) = k; dsimp only; split
    · rw [snd_pair, snd_pair]; exact State.jobRead_kept ..
    · rw [snd_pair, snd_pair, ih]; exact State.jobRead_kept ..

@[simp] theorem State.shaCompare_kept (s : State) (d : Nat) (a : Nat) (ds : List (List Byte)) (es : List (List Byte)) :
    ((State.shaCompare s d a ds es).2).kept = s.kept := by
  simp [State.shaCompare]; (repeat' split) <;> simp_all

@[simp] theorem State.shaJob_kept (s : State) (d : Nat) :
    ((State.shaJob s d)).kept = s.kept := by
  unfold State.shaJob
  apply State.jobRow_kept; intro j s
  apply State.withRecord_kept; intro r s
  extract_lets l0 last
  split
  rename_i st ds t h
  have k : t.kept = s.kept := by have := State.shaSegments_kept s d j last (recNat r 16 6) (jobCount j); rw [h] at this; exact this
  split
  · exact k
  · split
    rename_i st2 u h2
    have k2 : u.kept = t.kept := by have := State.jobWrite_kept t d j (jobOut j) ds.flatten; rw [h2] at this; exact this
    split
    · exact k2.trans k
    · split
      rename_i st3 es v h3
      have k3 : v.kept = u.kept := by have := State.jobRead_kept u d j (recNat r 8 6) (32 * ds.length); rw [h3] at this; exact this
      split
      · exact k3.trans (k2.trans k)
      · exact (State.shaCompare_kept ..).trans (k3.trans (k2.trans k))

@[simp] theorem State.verifyWord_kept (s : State) (d : Nat) (e : Nat) (a : Nat) :
    ((State.verifyWord s d e a)).kept = s.kept := by
  simp [State.verifyWord]; (repeat' split) <;> simp_all

@[simp] theorem State.verifyWords_kept (s : State) (d : Nat) (e : Nat) (x3 : Nat) (x4 : Nat) :
    ((State.verifyWords s d e x3 x4)).kept = s.kept := by
  fun_induction State.verifyWords s d e x3 x4 <;> simp_all

@[simp] theorem State.checkJob_kept (s : State) (d : Nat) :
    ((State.checkJob s d)).kept = s.kept := by
  unfold State.checkJob
  apply State.jobRow_kept; intro j s
  apply State.withRecord_kept; intro r s
  dsimp only
  split
  · simp
  · split <;> simp

/-! PageMap -/

@[simp] theorem State.drainsClear_kept (s : State) (d : Nat) (i : Nat) :
    ((State.drainsClear s d i)).kept = s.kept := by
  simp [State.drainsClear]

@[simp] theorem State.setMapAt_kept (s : State) (d : Nat) (i : Nat) (e : Word × Word) :
    ((State.setMapAt s d i e)).kept = s.kept := by
  simp [State.setMapAt]

@[simp] theorem State.mapShift_kept (s : State) (d : Nat) (i : Nat) (t : Nat) :
    ((State.mapShift s d i t)).kept = s.kept := by
  simp [State.mapShift]

@[simp] theorem State.mapShow_kept (s : State) (d : Nat) :
    ((State.mapShow s d)).kept = s.kept := by
  simp [State.mapShow]

@[simp] theorem State.mapPut_kept (s : State) (d : Nat) (e : Word × Word) :
    ((State.mapPut s d e).2.2).kept = s.kept := by
  unfold State.mapPut; split <;> simp

@[simp] theorem State.mapDrop_kept (s : State) (d : Nat) (i : Nat) :
    ((State.mapDrop s d i)).kept = s.kept := by
  simp [State.mapDrop]

@[simp] theorem State.mapOn_kept (s : State) (d : Nat) (f : Nat → State → Nat × Nat × State) (hf : ∀ a0 a1, ((f a0 a1).2.2).kept = a1.kept) :
    ((State.mapOn s d f).2.2).kept = s.kept := by
  unfold State.mapOn; (repeat' split) <;> simp_all

-- skip State.mapReport
@[simp] theorem State.mapReport_kept (r : Nat × Nat × State) (d : Nat) : (State.mapReport r d).kept = r.2.2.kept := by
  simp [State.mapReport]

@[simp] theorem State.mapInsert_kept (s : State) (d : Nat) :
    ((State.mapInsert s d)).kept = s.kept := by
  simp [State.mapInsert]

@[simp] theorem State.mapUpdate_kept (s : State) (d : Nat) :
    ((State.mapUpdate s d)).kept = s.kept := by
  unfold State.mapUpdate; rw [State.mapReport_kept]; apply State.mapOn_kept; intros; simp

@[simp] theorem State.mapRemove_kept (s : State) (d : Nat) :
    ((State.mapRemove s d)).kept = s.kept := by
  unfold State.mapRemove; rw [State.mapReport_kept]; apply State.mapOn_kept; intros; simp

@[simp] theorem State.mapRead_kept (s : State) (d : Nat) :
    ((State.mapRead s d)).kept = s.kept := by
  unfold State.mapRead; rw [State.mapReport_kept]; apply State.mapOn_kept; intros; simp

@[simp] theorem State.moveTo_kept (s : State) (d : Nat) (t : Nat) :
    ((State.moveTo s d t)).kept = s.kept := by
  unfold State.moveTo; rw [State.mapReport_kept]; apply State.mapOn_kept; intros; split <;> simp

@[simp] theorem State.touch_kept (s : State) (d : Nat) (i : Nat) (rows : optParam Bool false) :
    ((State.touch s d i rows)).kept = s.kept := by
  simp [State.touch]

theorem State.mapSlide_kept (s : State) (d : Nat) (set : Nat) (t : State) (ht : State.mapSlide s d set = some t) :
    (t).kept = s.kept := by
  unfold State.mapSlide at ht
  obtain ⟨i, -, h⟩ := List.exists_of_findSome?_eq_some ht
  obtain ⟨w, -, rfl⟩ := Option.map_eq_some_iff.1 h
  simp

@[simp] theorem State.mapPlace_kept (s : State) (d : Nat) (e : Word × Word) (x3 : Nat) :
    ((State.mapPlace s d e x3).2).kept = s.kept := by
  induction x3 generalizing s with
  | zero => simp [State.mapPlace]
  | succ n ih =>
    rw [State.mapPlace]; split
    · simp
    · split
      · rfl
      · split
        · rename_i t h; rw [ih]; exact State.mapSlide_kept _ _ _ _ h
        · rfl

@[simp] theorem State.setSumAt_kept (s : State) (handle : Nat) (o : Nat) (a : Nat) :
    ((State.setSumAt s handle o a)).kept = s.kept := by
  simp [State.setSumAt]

@[simp] theorem State.releaseBytes_kept (s : State) (a : Nat) (n : Nat) :
    ((State.releaseBytes s a n)).kept = s.kept := by
  simp [State.releaseBytes]

@[simp] theorem State.copyTake_kept (s : State) (ctx : Nat) (model : Nat) (cast : Nat) (bytes : Nat) :
    ((State.copyTake s ctx model cast bytes)).kept = s.kept := by
  simp [State.copyTake]

@[simp] theorem State.copyFree_kept (s : State) (f : CopyAt → Bool) :
    ((State.copyFree s f)).kept = s.kept := by
  simp [State.copyFree]

@[simp] theorem State.pageLoc_kept (s : State) (d : Nat) (ctx : Nat) (cls : Nat) :
    ((State.pageLoc s d ctx cls).2).kept = s.kept := by
  simp [State.pageLoc]

@[simp] theorem State.sumsClear_kept (s : State) (d : Nat) (ctx : Nat) (cls : Nat) (base : Nat) :
    ((State.sumsClear s d ctx cls base)).kept = s.kept := by
  simp [State.sumsClear]

@[simp] theorem State.pageMake_kept (s : State) (d : Nat) (ctx : Nat) (handle : Nat) (o : Nat) :
    ((State.pageMake s d ctx handle o).2).kept = s.kept := by
  simp [State.pageMake]

@[simp] theorem State.pagesMake_kept (s : State) (ctx : Nat) (handle : Nat) (span : Nat) (parts : Nat) (a : Nat) (b : Nat) :
    ((State.pagesMake s ctx handle span parts a b).2).kept = s.kept := by
  unfold State.pagesMake; dsimp only; rw [foldl_snd_kept]; intro x y; split
  · simp
  · rfl

@[simp] theorem State.fillTo_kept (s : State) (ctx : Nat) (handle : Nat) (pos : Nat) :
    ((State.fillTo s ctx handle pos)).kept = s.kept := by
  simp [State.fillTo]

@[simp] theorem State.redoFrom_kept (s : State) (ctx : Nat) (handle : Nat) (pos : Nat) :
    ((State.redoFrom s ctx handle pos)).kept = s.kept := by
  simp [State.redoFrom]

@[simp] theorem State.sumsRedo_kept (s : State) (d : Nat) (e : Word × Word) :
    ((State.sumsRedo s d e)).kept = s.kept := by
  simp [State.sumsRedo]

@[simp] theorem State.releaseAll_kept (s : State) (l : List Storage) :
    ((State.releaseAll s l)).kept = s.kept := by
  simp [State.releaseAll]

@[simp] theorem State.releaseLater_kept (s : State) (d : Nat) (e : Word × Word) :
    ((State.releaseLater s d e)).kept = s.kept := by
  simp [State.releaseLater]

@[simp] theorem State.pagesFree_kept (s : State) (handle : Nat) :
    ((State.pagesFree s handle)).kept = s.kept := by
  simp [State.pagesFree]

/-! Flash -/

@[simp] theorem State.erased_kept (s : State) (t : Nat) (n : Nat) :
    ((State.erased s t n)).kept = s.kept := by
  simp [State.erased]

@[simp] theorem State.eraseOf_kept (s : State) (o : FlObj) :
    ((State.eraseOf s o)).kept = s.kept := by
  simp [State.eraseOf]

@[simp] theorem State.retire_kept (s : State) (t : Nat) :
    ((State.retire s t)).kept = s.kept := by
  simp [State.retire]

@[simp] theorem State.flashShow_kept (s : State) :
    ((State.flashShow s)).kept = s.kept := by
  simp [State.flashShow]

@[simp] theorem State.setObj_kept (s : State) (o : FlObj) :
    ((State.setObj s o)).kept = s.kept := by
  simp [State.setObj]

@[simp] theorem State.objCreate_kept (s : State) (num : Nat) (ctx : Nat) (kind : Nat) (blocks : Nat) (ttl : Nat) :
    ((State.objCreate s num ctx kind blocks ttl).2).kept = s.kept := by
  simp [State.objCreate]

@[simp] theorem State.objWrite_kept (s : State) (num : Nat) (first : Nat) (count : Nat) (addr : Nat) :
    ((State.objWrite s num first count addr).2).kept = s.kept := by
  unfold State.objWrite; (repeat' split) <;> simp

@[simp] theorem State.objOpen_kept (s : State) (num : Nat) (paused : Option (Req × List PausedPage)) :
    ((State.objOpen s num paused)).kept = s.kept := by
  unfold State.objOpen; split <;> simp

@[simp] theorem State.objSeal_kept (s : State) (num : Nat) :
    ((State.objSeal s num).2).kept = s.kept := by
  unfold State.objSeal; split <;> simp

@[simp] theorem State.objRead_kept (s : State) (num : Nat) (first : Nat) (count : Nat) (addr : Nat) (misread : List (Nat × Bool)) :
    ((State.objRead s num first count addr misread).2).kept = s.kept := by
  unfold State.objRead
  generalize (if count = 0 then 16777216 else count) = n
  dsimp only
  split
  · rfl
  · split
    · rfl
    · split
      · rfl
      · split
        · rfl
        · split
          · rw [snd_pair]; exact State.writeWords_kept ..
          · rw [snd_pair]; simp

@[simp] theorem State.objDelete_kept (s : State) (num : Nat) :
    ((State.objDelete s num).2).kept = s.kept := by
  unfold State.objDelete; split
  · rfl
  · rw [snd_pair, State.flashShow_kept, State.eraseOf_kept]; exact kept_mk ..

@[simp] theorem State.objSweep_kept (s : State) (p : FlObj → Bool) :
    ((State.objSweep s p)).kept = s.kept := by
  unfold State.objSweep; rw [State.flashShow_kept]
  refine Eq.trans (kept_mk ..) ?_
  exact foldl_kept _ _ _ fun s o => State.eraseOf_kept ..

@[simp] theorem State.objShow_kept (s : State) :
    ((State.objShow s)).kept = s.kept := by
  unfold State.objShow; split <;> simp

@[simp] theorem State.objCmd_kept (s : State) (p : Nat) (f : State → Nat × State) (hf : ∀ a0, ((f a0).2).kept = a0.kept) :
    ((State.objCmd s p f)).kept = s.kept := by
  simp_all [State.objCmd]

@[simp] theorem State.objCreateCmd_kept (s : State) (p : Nat) :
    ((State.objCreateCmd s p)).kept = s.kept := by
  simp [State.objCreateCmd]

@[simp] theorem State.objWriteCmd_kept (s : State) (p : Nat) (retired : List Nat) :
    ((State.objWriteCmd s p retired)).kept = s.kept := by
  simp [State.objWriteCmd]

@[simp] theorem State.objSealCmd_kept (s : State) (p : Nat) :
    ((State.objSealCmd s p)).kept = s.kept := by
  simp [State.objSealCmd]

@[simp] theorem State.objReadCmd_kept (s : State) (p : Nat) (misread : List (Nat × Bool)) :
    ((State.objReadCmd s p misread)).kept = s.kept := by
  simp [State.objReadCmd]

@[simp] theorem State.objDeleteCmd_kept (s : State) (p : Nat) :
    ((State.objDeleteCmd s p)).kept = s.kept := by
  simp [State.objDeleteCmd]

@[simp] theorem State.objStatCmd_kept (s : State) (p : Nat) :
    ((State.objStatCmd s p)).kept = s.kept := by
  simp [State.objStatCmd]

@[simp] theorem State.objExpire_kept (s : State) (p : Nat) (num : Nat) :
    ((State.objExpire s p num)).kept = s.kept := by
  unfold State.objExpire; split <;> simp

@[simp] theorem State.readReclaim_kept (s : State) (p : Nat) (t : Nat) :
    ((State.readReclaim s p t)).kept = s.kept := by
  simp [State.readReclaim]

@[simp] theorem State.flashLost_kept (s : State) (gone : Nat → Bool) :
    ((State.flashLost s gone)).kept = s.kept := by
  simp [State.flashLost]

@[simp] theorem State.targetFail_kept (s : State) (p : Nat) (t : Nat) :
    ((State.targetFail s p t)).kept = s.kept := by
  simp [State.targetFail]

/-! Links -/

@[simp] theorem State.linkRetrain_kept (s : State) (l : Nat) :
    ((State.linkRetrain s l)).kept = s.kept := by
  simp [State.linkRetrain]

@[simp] theorem State.laneFail_kept (s : State) (l : Nat) (lane : Nat) :
    ((State.laneFail s l lane)).kept = s.kept := by
  simp [State.laneFail]

@[simp] theorem State.laneLimit_kept (s : State) (unit : Nat) (f : Finding) :
    ((State.laneLimit s unit f)).kept = s.kept := by
  unfold State.laneLimit; split <;> simp

@[simp] theorem State.retrainEnd_kept (s : State) (l : Nat) (locked : Bool) :
    ((State.retrainEnd s l locked)).kept = s.kept := by
  simp [State.retrainEnd]

@[simp] theorem State.neighbourCheck_kept (s : State) (dev : Nat) :
    ((State.neighbourCheck s dev)).kept = s.kept := by
  simp [State.neighbourCheck]

@[simp] theorem State.armLaneFail_kept (s : State) (l : Nat) :
    ((State.armLaneFail s l)).kept = s.kept := by
  simp [State.armLaneFail]

@[simp] theorem State.chunkQueue_kept (s : State) (l : Nat) (c : Chunk) :
    ((State.chunkQueue s l c)).kept = s.kept := by
  simp [State.chunkQueue]

@[simp] theorem State.plTraffic_kept (s : State) (l : Nat) (tx : Bool) (bytes : Nat) :
    ((State.plTraffic s l tx bytes)).kept = s.kept := by
  simp [State.plTraffic]

@[simp] theorem State.firstSend_kept (s : State) (l : Nat) (f : Flit) (retx : Bool) :
    ((State.firstSend s l f retx)).kept = s.kept := by
  simp [State.firstSend]

@[simp] theorem State.sendControl_kept (s : State) (l : Nat) :
    ((State.sendControl s l)).kept = s.kept := by
  simp [State.sendControl]

@[simp] theorem State.sendData_kept (s : State) (l : Nat) (v : Nat) (i : Nat) (k : Link) :
    ((State.sendData s l v i k)).kept = s.kept := by
  simp [State.sendData]; (repeat' split) <;> simp_all

@[simp] theorem State.armPut_kept (s : State) (l : Nat) (aseq : Nat) (idle : Bool) (ws : List Word) (flip : Option Nat) :
    ((State.armPut s l aseq idle ws flip)).kept = s.kept := by
  simp [State.armPut]

@[simp] theorem State.armFirst_kept (s : State) (l : Nat) (ws : List Word) :
    ((State.armFirst s l ws)).kept = s.kept := by
  simp [State.armFirst]

@[simp] theorem State.armSend_kept (s : State) (l : Nat) :
    ((State.armSend s l)).kept = s.kept := by
  simp [State.armSend]

@[simp] theorem State.flitSend_kept (s : State) (l : Nat) :
    ((State.flitSend s l)).kept = s.kept := by
  simp [State.flitSend]; (repeat' split) <;> simp_all

@[simp] theorem State.replayStart_kept (s : State) (l : Nat) :
    ((State.replayStart s l)).kept = s.kept := by
  simp [State.replayStart]

@[simp] theorem State.nakRecord_kept (s : State) (l : Nat) (w1 : Word) (w2 : Word) :
    ((State.nakRecord s l w1 w2)).kept = s.kept := by
  simp [State.nakRecord]; (repeat' split) <;> simp_all

@[simp] theorem State.setRoute_kept (s : State) (p : Nat) (dev : Nat) (w : Word) :
    ((State.setRoute s p dev w)).kept = s.kept := by
  simp [State.setRoute]

@[simp] theorem State.routeWrite_kept (s : State) (p : Nat) (dev : Nat) :
    ((State.routeWrite s p dev)).kept = s.kept := by
  simp [State.routeWrite]

@[simp] theorem State.routeRead_kept (s : State) (p : Nat) (dev : Nat) :
    ((State.routeRead s p dev)).kept = s.kept := by
  simp [State.routeRead]

@[simp] theorem State.forwardFlit_kept (s : State) (l : Nat) (c : Chunk) :
    ((State.forwardFlit s l c)).kept = s.kept := by
  simp [State.forwardFlit]; (repeat' split) <;> simp_all

@[simp] theorem State.takeData_kept (s : State) (l : Nat) (f : Flit) :
    ((State.takeData s l f)).kept = s.kept := by
  simp [State.takeData]; (repeat' split) <;> simp_all

@[simp] theorem State.takeHeader_kept (s : State) (l : Nat) (f : Flit) :
    ((State.takeHeader s l f)).kept = s.kept := by
  simp [State.takeHeader]

@[simp] theorem State.flitDiscard_kept (s : State) (l : Nat) :
    ((State.flitDiscard s l)).kept = s.kept := by
  simp [State.flitDiscard]

@[simp] theorem State.flitReceive_kept (s : State) (l : Nat) (f : Flit) (fecOk : Bool) :
    ((State.flitReceive s l f fecOk)).kept = s.kept := by
  simp [State.flitReceive]

@[simp] theorem State.fiWrite_kept (s : State) (l : Nat) (v : Word) (host : Bool) :
    ((State.fiWrite s l v host)).kept = s.kept := by
  simp [State.fiWrite]

@[simp] theorem State.fiApply_kept (s : State) :
    ((State.fiApply s)).kept = s.kept := by
  simp [State.fiApply]

/-! Rings -/

@[simp] theorem State.linkShow_kept (s : State) :
    ((State.linkShow s)).kept = s.kept := by
  simp [State.linkShow]

@[simp] theorem State.unitReason_kept (s : State) (d : Nat) (ctx : Nat) (st : Nat) (a : Nat) :
    ((State.unitReason s d ctx st a)).kept = s.kept := by
  simp [State.unitReason]

@[simp] theorem State.unitRead_kept (s : State) (d : Nat) (c : Nat) (ctx : Nat) (a : Nat) (n : Nat) :
    ((State.unitRead s d c ctx a n).2.2).kept = s.kept := by
  simp [State.unitRead]

@[simp] theorem State.unitBytes_kept (s : State) (d : Nat) (c : Nat) (ctx : Nat) (a : Nat) (n : Nat) :
    ((State.unitBytes s d c ctx a n).2.2).kept = s.kept := by
  simp [State.unitBytes]

@[simp] theorem State.unitWrite_kept (s : State) (d : Nat) (c : Nat) (ctx : Nat) (x4 : Nat) (x5 : Nat) (x6 : List (Byte × Bool)) :
    ((State.unitWrite s d c ctx x4 x5 x6)).kept = s.kept := by
  induction x4 generalizing s x5 x6 with
  | zero => simp [State.unitWrite]
  | succ n ih =>
    cases x6 with
    | nil => simp [State.unitWrite]
    | cons b bs =>
      rw [State.unitWrite, ih]; split
      · simp
      · split <;> simp
      · rintro ⟨⟩

@[simp] theorem State.lkCmd_kept (s : State) (d : Nat) (c : Nat) (sub : Nat) (run : BlockRun → List Word → State → State) (hrun : ∀ a0 a1 a2, ((run a0 a1 a2)).kept = a2.kept) :
    ((State.lkCmd s d c sub run)).kept = s.kept := by
  unfold State.lkCmd; simp_all

@[simp] theorem State.sendChunk_kept (s : State) (d : Nat) (c : Nat) (b : BlockRun) (w : List Word) (i : Nat) :
    ((State.sendChunk s d c b w i)).kept = s.kept := by
  simp [State.sendChunk]; (repeat' split) <;> simp_all

@[simp] theorem State.lkDenied_kept (s : State) (d : Nat) (c : Nat) (b : BlockRun) (ec : Nat) :
    ((State.lkDenied s d c b ec)).kept = s.kept := by
  simp [State.lkDenied]

@[simp] theorem State.linkSend_kept (s : State) (d : Nat) (c : Nat) :
    ((State.linkSend s d c)).kept = s.kept := by
  simp [State.linkSend]

@[simp] theorem State.linkRecv_kept (s : State) (d : Nat) (c : Nat) :
    ((State.linkRecv s d c)).kept = s.kept := by
  simp [State.linkRecv]

@[simp] theorem State.land_kept (s : State) (l : Nat) (c : Chunk) :
    ((State.land s l c)).kept = s.kept := by
  simp [State.land]; (repeat' split) <;> simp_all

@[simp] theorem State.ringOwn_kept (s : State) (b : Bulk) (p : Nat) (u : Sub) :
    ((State.ringOwn s b p u).2).kept = s.kept := by
  simp [State.ringOwn]

@[simp] theorem State.ringSend_kept (s : State) (b : Bulk) (dir : Nat) (phase : Nat) (piece : Nat) (cseq : Nat) (src : Nat) (bs : List (Byte × Bool)) (badfwd : Bool) :
    ((State.ringSend s b dir phase piece cseq src bs badfwd)).kept = s.kept := by
  simp [State.ringSend]

@[simp] theorem State.setBulk_kept (s : State) (b : Bulk) :
    ((State.setBulk s b)).kept = s.kept := by
  simp [State.setBulk]

@[simp] theorem State.bulkSettle_kept (s : State) (cid : Nat) :
    ((State.bulkSettle s cid)).kept = s.kept := by
  unfold State.bulkSettle; split <;> simp

@[simp] theorem State.bulkDone_kept (s : State) (cid : Nat) (piece : Nat) (cseq : Nat) :
    ((State.bulkDone s cid piece cseq)).kept = s.kept := by
  unfold State.bulkDone; split <;> simp

@[simp] theorem State.bulkWrite_kept (s : State) (b : Bulk) (a : Nat) (bs : List (Byte × Bool)) :
    ((State.bulkWrite s b a bs)).kept = s.kept := by
  simp [State.bulkWrite]

@[simp] theorem State.ringCompare_kept (s : State) (b : Bulk) (u : Sub) (vs : List Nat) :
    ((State.ringCompare s b u vs)).kept = s.kept := by
  unfold State.ringCompare; split <;> simp

@[simp] theorem State.ringResult_kept (s : State) (b : Bulk) (u : Sub) (vs : List (Nat × Bool)) :
    ((State.ringResult s b u vs)).kept = s.kept := by
  simp [State.ringResult]

@[simp] theorem State.ringBegin_kept (s : State) (b : Bulk) :
    ((State.ringBegin s b)).kept = s.kept := by
  unfold State.ringBegin; (repeat' first
      | (simp; done)
      | (intro _)
      | split
      | (rw [foldl_kept _ _ _ ?_])
      | (simp_all; done)
      | simp)

@[simp] theorem State.stepGather_kept (s : State) (blk : BlockRun) (b : Bulk) :
    ((State.stepGather s blk b)).kept = s.kept := by
  simp [State.stepGather]; (repeat' split) <;> simp_all

@[simp] theorem State.linkColl_kept (s : State) (d : Nat) (c : Nat) :
    ((State.linkColl s d c)).kept = s.kept := by
  simp [State.linkColl]

@[simp] theorem State.ringReduce_kept (s : State) (b : Bulk) (c : Chunk) (u : Sub) (dir : Nat) (bad : Bool) :
    ((State.ringReduce s b c u dir bad)).kept = s.kept := by
  simp [State.ringReduce]

@[simp] theorem State.ringGather_kept (s : State) (b : Bulk) (c : Chunk) (dir : Nat) (bad : Bool) :
    ((State.ringGather s b c dir bad)).kept = s.kept := by
  unfold State.ringGather; (repeat' split) <;> simp

@[simp] theorem State.ringSwap_kept (s : State) (b : Bulk) (c : Chunk) (dir : Nat) (bad : Bool) :
    ((State.ringSwap s b c dir bad)).kept = s.kept := by
  simp [State.ringSwap]; (repeat' split) <;> simp_all

@[simp] theorem State.ringChunk_kept (s : State) (l : Nat) (c : Chunk) (bad : Bool) :
    ((State.ringChunk s l c bad)).kept = s.kept := by
  simp [State.ringChunk]; (repeat' split) <;> simp_all

@[simp] theorem State.chunkReceive_kept (s : State) (l : Nat) :
    ((State.chunkReceive s l)).kept = s.kept := by
  simp [State.chunkReceive]; (repeat' split) <;> simp_all

@[simp] theorem State.chunksMissing_kept (s : State) (l : Nat) (ctx : Nat) (n : Nat) :
    ((State.chunksMissing s l ctx n)).kept = s.kept := by
  simp [State.chunksMissing]

@[simp] theorem State.windowEnd_kept (s : State) (src : Nat) (stream : Nat) :
    ((State.windowEnd s src stream)).kept = s.kept := by
  unfold State.windowEnd; split <;> simp

@[simp] theorem State.bulkEnd_kept (s : State) (cid : Nat) :
    ((State.bulkEnd s cid)).kept = s.kept := by
  unfold State.bulkEnd; split <;> simp

@[simp] theorem State.bulkGone_kept (s : State) (b : Bulk) :
    ((State.bulkGone s b)).kept = s.kept := by
  simp [State.bulkGone]

@[simp] theorem State.windowGone_kept (s : State) (w : Window) :
    ((State.windowGone s w)).kept = s.kept := by
  simp [State.windowGone]

@[simp] theorem State.linkLost_kept (s : State) (l : Nat) :
    ((State.linkLost s l)).kept = s.kept := by
  simp [State.linkLost]

@[simp] theorem State.devLost_kept (s : State) (dev : Nat) :
    ((State.devLost s dev)).kept = s.kept := by
  simp [State.devLost]

/-! Events -/

@[simp] theorem State.setHq_kept (s : State) (q : Nat) (x : HostQ) :
    ((State.setHq s q x)).kept = s.kept := by
  simp [State.setHq]

@[simp] theorem State.toHost_kept (s : State) (ctx : Option Nat) (a : Nat) (ws : List Word) :
    ((State.toHost s ctx a ws)).kept = s.kept := by
  simp [State.toHost]

@[simp] theorem State.notify_kept (s : State) (q : Nat) :
    ((State.notify s q)).kept = s.kept := by
  simp [State.notify]

@[simp] theorem State.recordWrite_kept (s : State) (q : Nat) (r : List Word) :
    ((State.recordWrite s q r)).kept = s.kept := by
  simp [State.recordWrite]

@[simp] theorem State.recordPut_kept (s : State) (q : Nat) (r : List Word) :
    ((State.recordPut s q r)).kept = s.kept := by
  simp [State.recordPut]

@[simp] theorem State.recordFlush_kept (s : State) (q : Nat) (x2 : Nat) :
    ((State.recordFlush s q x2)).kept = s.kept := by
  fun_induction State.recordFlush s q x2 <;> simp_all

@[simp] theorem State.event_kept (s : State) (q : Nat) (kind : Nat) (status : Nat) (tag : Nat) (handle : Nat) (results : List Word) :
    ((State.event s q kind status tag handle results)).kept = s.kept := by
  simp [State.event]

@[simp] theorem State.completeWith_kept (s : State) (c : HostCmd) (status : Nat) (handle : Nat) (results : List Word) :
    ((State.completeWith s c status handle results)).kept = s.kept := by
  simp [State.completeWith]

@[simp] theorem State.complete_kept (s : State) (c : HostCmd) (status : Nat) (handle : optParam Nat 0) (results : optParam (List Word) []) :
    ((State.complete s c status handle results)).kept = s.kept := by
  simp [State.complete]

@[simp] theorem State.hostCmd_kept (s : State) (c : HostCmd) (op : Nat) (run : State → State) (hrun : ∀ a0, ((run a0)).kept = a0.kept) :
    ((State.hostCmd s c op run)).kept = s.kept := by
  unfold State.hostCmd; (repeat' split) <;> simp_all

end Sys2Proof.Machine
end

