-- ==== Sys2Proof/Laws/KeptRun.lean ====
section
/-! SUPPORT. No operation of identity, requests, models, pages, the sampler, pointing, learning and turns touches the queue, or of the provenance die more than its
state journal: one lemma each. -/

namespace Sys2Proof.Machine

/-! Identity -/

@[simp] theorem State.setProv_kept (s : State) (p : Provenance) :
    (s.setProv p).kept = (s.pending, { p with journal := [], sector := 0 }) := Eq.trans rfl rfl

theorem provReserve_fixed (p : Provenance) (n : Nat) :
    { provReserve p n with journal := [], sector := 0 } = { p with journal := [], sector := 0 } := by
  unfold provReserve; dsimp only; split <;> rfl

@[simp] theorem State.reserveIndex_kept (s : State) :
    ((State.reserveIndex s)).kept = s.kept := by
  simp [State.reserveIndex, provReserve_fixed]

@[simp] theorem State.useIndex_kept (s : State) :
    ((State.useIndex s)).kept = s.kept := by
  simp [State.useIndex]

@[simp] theorem State.quoteEnd_kept (s : State) (st : Nat) :
    ((State.quoteEnd s st)).kept = s.kept := by
  simp [State.quoteEnd]

@[simp] theorem State.quote_kept (s : State) :
    ((State.quote s)).kept = s.kept := by
  simp [State.quote]

@[simp] theorem State.updateAccept_kept (s : State) :
    ((State.updateAccept s)).kept = s.kept := by
  simp [State.updateAccept]

@[simp] theorem State.updateEnd_kept (s : State) (st : Nat) :
    ((State.updateEnd s st)).kept = s.kept := by
  simp [State.updateEnd]

@[simp] theorem State.updateRun_kept (s : State) (image : Option (List Byte)) :
    ((State.updateRun s image)).kept = s.kept := by
  unfold State.updateRun; split <;> simp

@[simp] theorem State.update_kept (s : State) (image : Option (List Byte)) :
    ((State.update s image)).kept = s.kept := by
  simp [State.update]

/-! Requests -/

@[simp] theorem State.setReq_kept (s : State) (i : Nat) (r : Option Req) :
    ((State.setReq s i r)).kept = s.kept := by
  simp [State.setReq]

@[simp] theorem State.setPrefix_kept (s : State) (i : Nat) (r : Option PrefixRun) :
    ((State.setPrefix s i r)).kept = s.kept := by
  simp [State.setPrefix]

@[simp] theorem State.reqShow_kept (s : State) :
    ((State.reqShow s)).kept = s.kept := by
  simp [State.reqShow]

@[simp] theorem State.newHandle_kept (s : State) (ctx : Nat) (kind : Nat) (index : Nat) :
    ((State.newHandle s ctx kind index).2).kept = s.kept := by
  simp [State.newHandle]

@[simp] theorem State.ringRecord_kept (s : State) (i : Nat) (w0 : Word) (w1 : Word) :
    ((State.ringRecord s i w0 w1)).kept = s.kept := by
  unfold State.ringRecord; split <;> simp

@[simp] theorem State.prefixSweep_kept (s : State) :
    ((State.prefixSweep s)).kept = s.kept := by
  simp [State.prefixSweep]

@[simp] theorem State.rollout_kept (s : State) (r : Req) :
    ((State.rollout s r)).kept = s.kept := by
  simp [State.rollout]

@[simp] theorem State.reqEnd_kept (s : State) (i : Nat) (status : Nat) :
    ((State.reqEnd s i status)).kept = s.kept := by
  unfold State.reqEnd; (repeat' split) <;> simp

@[simp] theorem State.retract_kept (s : State) (i : Nat) :
    ((State.retract s i)).kept = s.kept := by
  unfold State.retract; split <;> simp

@[simp] theorem State.reqFail_kept (s : State) (i : Nat) (status : Nat) :
    ((State.reqFail s i status)).kept = s.kept := by
  unfold State.reqFail; split <;> simp

@[simp] theorem State.ownerFail_kept (s : State) (h : Nat) (status : Nat) :
    ((State.ownerFail s h status)).kept = s.kept := by
  unfold State.ownerFail; split <;> simp

@[simp] theorem State.handleFail_kept (s : State) (h : Nat) (status : Nat) :
    ((State.handleFail s h status)).kept = s.kept := by
  unfold State.handleFail; split <;> simp

@[simp] theorem State.deliver_kept (s : State) (h : Nat) (seq : Nat) (toks : List Token) :
    ((State.deliver s h seq toks)).kept = s.kept := by
  simp [State.deliver]; (repeat' split) <;> simp_all

@[simp] theorem State.reqSettle_kept (s : State) (i : Nat) :
    ((State.reqSettle s i)).kept = s.kept := by
  unfold State.reqSettle; (repeat' split) <;> simp

@[simp] theorem State.reqSeal_kept (s : State) (i : Nat) (seq : Nat) :
    ((State.reqSeal s i seq)).kept = s.kept := by
  unfold State.reqSeal; (repeat' split) <;> simp

@[simp] theorem State.reqVoid_kept (s : State) (i : Nat) :
    ((State.reqVoid s i)).kept = s.kept := by
  unfold State.reqVoid; split <;> simp

@[simp] theorem State.prefixSeal_kept (s : State) (i : Nat) (seq : Nat) :
    ((State.prefixSeal s i seq)).kept = s.kept := by
  simp [State.prefixSeal]; (repeat' split) <;> simp_all

@[simp] theorem State.prefixVoid_kept (s : State) (i : Nat) :
    ((State.prefixVoid s i)).kept = s.kept := by
  unfold State.prefixVoid; split <;> simp

@[simp] theorem State.stretchSeal_kept (s : State) (ctx : Nat) (seq : Nat) :
    ((State.stretchSeal s ctx seq)).kept = s.kept := by
  simp [State.stretchSeal]

@[simp] theorem State.stretchVoid_kept (s : State) (ctx : Nat) :
    ((State.stretchVoid s ctx)).kept = s.kept := by
  simp [State.stretchVoid]

@[simp] theorem State.stepEnd_kept (s : State) (ctx : Nat) :
    ((State.stepEnd s ctx)).kept = s.kept := by
  unfold State.stepEnd; (repeat' first
      | (simp; done)
      | (intro _)
      | split
      | (rw [foldl_kept _ _ _ ?_])
      | (simp_all; done)
      | simp)

@[simp] theorem State.takeConsumed_kept (s : State) (ctx : Nat) (c : BitVec 12 × W32) :
    ((State.takeConsumed s ctx c)).kept = s.kept := by
  unfold State.takeConsumed; split <;> simp

@[simp] theorem State.pageFetch_kept (s : State) (e : Word × Word) (dest : Storage) (n : Nat) :
    ((State.pageFetch s e dest n)).kept = s.kept := by
  simp [State.pageFetch]

@[simp] theorem State.pageHome_kept (s : State) (d : Nat) (i : Nat) (e : Word × Word) (a : Nat) :
    ((State.pageHome s d i e a)).kept = s.kept := by
  simp [State.pageHome]

@[simp] theorem State.pagePrefetch_kept (s : State) (p : Nat × Nat × Word × Word) :
    ((State.pagePrefetch s p)).kept = s.kept := by
  simp [State.pagePrefetch]

@[simp] theorem State.rowPrefetch_kept (s : State) (r : Req) :
    ((State.rowPrefetch s r).2).kept = s.kept := by
  simp [State.rowPrefetch]

@[simp] theorem State.rowSums_kept (s : State) (r : Req) :
    ((State.rowSums s r)).kept = s.kept := by
  simp [State.rowSums]

@[simp] theorem State.batchDecode_kept (s : State) (m : Model) (rows : Nat) (i : Nat) :
    ((State.batchDecode s m rows i).2).kept = s.kept := by
  unfold State.batchDecode; split <;> simp

@[simp] theorem State.batchPrefill_kept (s : State) (m : Model) (pre : Nat) (rows : Nat) (i : Nat) :
    ((State.batchPrefill s m pre rows i).2.2).kept = s.kept := by
  unfold State.batchPrefill; split <;> simp

@[simp] theorem State.batchPrefix_kept (s : State) (m : Model) (pre : Nat) (rows : Nat) (i : Nat) :
    ((State.batchPrefix s m pre rows i).2.2).kept = s.kept := by
  unfold State.batchPrefix; split <;> simp

@[simp] theorem State.skipTake_kept (s : State) (ctx : Nat) (k : SkipReport) :
    ((State.skipTake s ctx k)).kept = s.kept := by
  unfold State.skipTake; split <;> simp

@[simp] theorem State.fullPassEnd_kept (s : State) (ctx : Nat) :
    ((State.fullPassEnd s ctx)).kept = s.kept := by
  simp [State.fullPassEnd]

@[simp] theorem State.batchModel_kept (s : State) (ctx : Nat) (m : Model) :
    ((State.batchModel s ctx m)).kept = s.kept := by
  unfold State.batchModel; dsimp only
  rw [foldl_trd_kept _ _ _ (by intro x y; simp), foldl_trd_kept _ _ _ (by intro x y; simp)]
  dsimp only
  rw [foldl_snd_kept _ _ _ (by intro x y; simp)]

@[simp] theorem State.batchForm_kept (s : State) (ctx : Nat) (consumed : List (BitVec 12 × W32)) (skips : List SkipReport) :
    ((State.batchForm s ctx consumed skips)).kept = s.kept := by
  simp [State.batchForm]

@[simp] theorem State.aliasPut_kept (s : State) (ctx : Nat) (h : Nat) (pre : Nat) (ord : Nat) :
    ((State.aliasPut s ctx h pre ord).2).kept = s.kept := by
  unfold State.aliasPut; rw [foldl_snd_kept]; intro x y; split
  · simp
  · rfl

@[simp] theorem State.submit_kept (s : State) (c : HostCmd) (prompt : Option (List W32)) :
    ((State.submit s c prompt)).kept = s.kept := by
  simp [State.submit]

@[simp] theorem State.pauseCmd_kept (s : State) (c : HostCmd) :
    ((State.pauseCmd s c)).kept = s.kept := by
  simp [State.pauseCmd]; (repeat' split) <;> simp_all

@[simp] theorem State.pauseStore_kept (s : State) (i : Nat) :
    ((State.pauseStore s i)).kept = s.kept := by
  unfold State.pauseStore; (repeat' split) <;> simp

@[simp] theorem State.pauseWrite_kept (s : State) (i : Nat) :
    ((State.pauseWrite s i)).kept = s.kept := by
  unfold State.pauseWrite; (repeat' split) <;> simp

@[simp] theorem State.pageBack_kept (s : State) (ok : Bool) (a : Nat) (bytes : Option (List Byte)) :
    ((State.pageBack s ok a bytes)).kept = s.kept := by
  unfold State.pageBack; split <;> simp

@[simp] theorem State.resumePage_kept (s : State) (ctx : Nat) (h : Nat) (span : Nat) (p : PausedPage) :
    ((State.resumePage s ctx h span p).2).kept = s.kept := by
  simp [State.resumePage]

@[simp] theorem State.resumePages_kept (s : State) (ctx : Nat) (h : Nat) (span : Nat) (pages : List PausedPage) :
    ((State.resumePages s ctx h span pages).2).kept = s.kept := by
  unfold State.resumePages; rw [foldl_snd_kept]; intro x y; split
  · simp
  · rfl

@[simp] theorem State.resumeAlias_kept (s : State) (ok : Bool) (ctx : Nat) (h : Nat) (pre : Nat) (full : Nat) :
    ((State.resumeAlias s ok ctx h pre full).2).kept = s.kept := by
  simp [State.resumeAlias]

@[simp] theorem State.resumeTake_kept (s : State) (c : HostCmd) (r : Req) (pages : List PausedPage) :
    ((State.resumeTake s c r pages)).kept = s.kept := by
  simp [State.resumeTake]

@[simp] theorem State.resumeCmd_kept (s : State) (c : HostCmd) :
    ((State.resumeCmd s c)).kept = s.kept := by
  simp [State.resumeCmd]; (repeat' split) <;> simp_all

@[simp] theorem State.registerPrefix_kept (s : State) (c : HostCmd) (tokens : Option (List W32)) :
    ((State.registerPrefix s c tokens)).kept = s.kept := by
  simp [State.registerPrefix]

@[simp] theorem State.dropPrefix_kept (s : State) (c : HostCmd) :
    ((State.dropPrefix s c)).kept = s.kept := by
  simp [State.dropPrefix]; (repeat' split) <;> simp_all

/-! Programs -/

-- skip Bench.s
@[simp] theorem State.storeWord_kept (s : State) (d : Nat) (c : Nat) (w : BitVec 12 × Word) :
    ((State.storeWord s d c w)).kept = s.kept := by
  simp [State.storeWord]

@[simp] theorem State.storeProgram_kept (s : State) (p : Program) (bound : List (Option Nat)) :
    ((State.storeProgram s p bound)).kept = s.kept := by
  unfold State.storeProgram; apply foldl_kept; intro s x; (repeat' split) <;> simp

/-! Models -/

@[simp] theorem State.dropModel_kept (s : State) (ctx : Nat) (h : Nat) :
    ((State.dropModel s ctx h)).kept = s.kept := by
  simp [State.dropModel]

@[simp] theorem State.stageShard_kept (s : State) (c : HostCmd) (sh : Shard) :
    ((State.stageShard s c sh)).kept = s.kept := by
  simp [State.stageShard]; (repeat' split) <;> simp_all

@[simp] theorem State.loadEnd_kept (s : State) (l : Load) (st : Nat) :
    ((State.loadEnd s l st)).kept = s.kept := by
  simp [State.loadEnd]

@[simp] theorem State.takeLoads_kept (s : State) :
    ((State.takeLoads s)).kept = s.kept := by
  unfold State.takeLoads; (repeat' first
      | (simp; done)
      | (intro _)
      | split
      | (rw [foldl_kept _ _ _ ?_])
      | (simp_all; done)
      | simp)

@[simp] theorem State.loadTry_kept (s : State) (l : Load) :
    ((State.loadTry s l)).kept = s.kept := by
  unfold State.loadTry; split <;> simp

@[simp] theorem State.loadPost_kept (s : State) (c : HostCmd) (sh : Shard) (p : Program) (st : Nat) :
    ((State.loadPost s c sh p st)).kept = s.kept := by
  simp [State.loadPost]

@[simp] theorem State.loadsRetry_kept (s : State) :
    ((State.loadsRetry s)).kept = s.kept := by
  simp [State.loadsRetry]

@[simp] theorem State.placeAgain_kept (s : State) (ctx : Nat) (p : Program) (bound : List (Option Nat)) :
    ((State.placeAgain s ctx p bound).2).kept = s.kept := by
  simp [State.placeAgain]

@[simp] theorem State.placeAll_kept (s : State) :
    ((State.placeAll s)).kept = s.kept := by
  unfold State.placeAll <;> (repeat' first
      | (simp; done)
      | (intro _)
      | (rename_i h; have h1 := congrArg (fun p => State.kept (Prod.snd p)) h; clear h; simp at h1; simp [← h1]; done)
      | (rename_i h; have h1 := congrArg (fun p => State.kept (Prod.snd (Prod.snd p))) h; clear h; simp at h1; simp [← h1]; done)
      | split
      | (rw [foldl_kept _ _ _ ?_])
      | (simp_all; done)
      | simp)

@[simp] theorem State.streamLand_kept (s : State) (c : HostCmd) (stream : List Byte) :
    ((State.streamLand s c stream)).kept = s.kept := by
  unfold State.streamLand; split <;> simp

@[simp] theorem State.loadRead_kept (s : State) (c : HostCmd) (sh : Shard) (p : Program) :
    ((State.loadRead s c sh p)).kept = s.kept := by
  simp [State.loadRead]

@[simp] theorem State.loadModel_kept (s : State) (c : HostCmd) (sh : Shard) (p : Program) :
    ((State.loadModel s c sh p)).kept = s.kept := by
  simp [State.loadModel]

@[simp] theorem State.replaceEvict_kept (s : State) (ctx : Nat) (h : Nat) :
    ((State.replaceEvict s ctx h)).kept = s.kept := by
  unfold State.replaceEvict; split <;> simp

@[simp] theorem State.evictModel_kept (s : State) (c : HostCmd) :
    ((State.evictModel s c)).kept = s.kept := by
  simp [State.evictModel]

/-! Pages -/

@[simp] theorem State.lostAddr_kept (s : State) :
    ((State.lostAddr s).2).kept = s.kept := by
  simp [State.lostAddr]

@[simp] theorem State.lookupRecord_kept (s : State) (d : Nat) (ctx : Nat) (handle : Nat) (ord : Nat) (layer : Nat) :
    ((State.lookupRecord s d ctx handle ord layer).2.2).kept = s.kept := by
  unfold State.lookupRecord; split <;> simp

@[simp] theorem State.lookups_kept (s : State) (d : Nat) (c : Nat) (ctx : Nat) (handle : Nat) (layer : Nat) (dst : Nat) (x7 : Nat) (x8 : Nat) :
    ((State.lookups s d c ctx handle layer dst x7 x8)).kept = s.kept := by
  induction x8 generalizing s x7 dst with
  | zero => simp [State.lookups]
  | succ n ih => rw [State.lookups]; simp [ih]

@[simp] theorem State.pmCmd_kept (s : State) (d : Nat) (c : Nat) (sub : Nat) (run : BlockRun → List Word → State → State) (hrun : ∀ a0 a1 a2, ((run a0 a1 a2)).kept = a2.kept) :
    ((State.pmCmd s d c sub run)).kept = s.kept := by
  unfold State.pmCmd; (repeat' split) <;> simp_all

@[simp] theorem State.lookup_kept (s : State) (d : Nat) (c : Nat) :
    ((State.lookup s d c)).kept = s.kept := by
  simp [State.lookup]

@[simp] theorem State.appendSet_kept (s : State) (d : Nat) (c : Nat) :
    ((State.appendSet s d c)).kept = s.kept := by
  simp [State.appendSet]

@[simp] theorem State.appendWrite_kept (s : State) (d : Nat) (c : Nat) (r : AppRow) (i : Nat) (pos : Nat) :
    ((State.appendWrite s d c r i pos)).kept = s.kept := by
  simp [State.appendWrite]

@[simp] theorem State.drainFind_kept (s : State) (d : Nat) (c : Nat) (handle : Nat) (ord : Nat) :
    ((State.drainFind s d c handle ord).2).kept = s.kept := by
  simp [State.drainFind]; (repeat' split) <;> simp_all

@[simp] theorem State.appendPage_kept (s : State) (d : Nat) (c : Nat) (ctx : Nat) (handle : Nat) (pos : Nat) :
    ((State.appendPage s d c ctx handle pos).2).kept = s.kept := by
  simp [State.appendPage]

@[simp] theorem State.appendRow_kept (s : State) (d : Nat) (c : Nat) (a : Nat) :
    ((State.appendRow s d c a)).kept = s.kept := by
  simp [State.appendRow]; (repeat' split) <;> simp_all

@[simp] theorem State.pageToHost_kept (s : State) (p : Nat × Word × Word) :
    ((State.pageToHost s p)).kept = s.kept := by
  simp [State.pageToHost]

theorem State.pageToFlash_kept (s : State) (p : Nat × Word × Word) (t : State) (ht : State.pageToFlash s p = some t) :
    (t).kept = s.kept := by
  unfold State.pageToFlash at ht
  simp at ht
  rw [← ht.2]
  simp

@[simp] theorem State.fallHost_kept (s : State) (ctx : Nat) (low : Nat) (x3 : Nat) :
    ((State.fallHost s ctx low x3)).kept = s.kept := by
  fun_induction State.fallHost s ctx low x3 <;> simp_all

@[simp] theorem State.fallFlash_kept (s : State) (ctx : Nat) (low : Nat) (x3 : Nat) :
    ((State.fallFlash s ctx low x3)).kept = s.kept := by
  induction x3 generalizing s with
  | zero => simp [State.fallFlash]
  | succ n ih =>
    rw [State.fallFlash]; split
    · rfl
    · split
      · split
        · rename_i h; rw [ih]; first | exact State.pageToFlash_kept _ _ h | exact State.pageToFlash_kept _ _ _ h | exact State.pageToFlash_kept _ _ _ _ h
        · rfl
      · rfl

@[simp] theorem State.pageSpill_kept (s : State) (ctx : Nat) :
    ((State.pageSpill s ctx)).kept = s.kept := by
  simp [State.pageSpill]

@[simp] theorem State.pageWords_kept (s : State) (dest : Storage) (off : Nat) (ws : List (CWord × Bool)) :
    ((State.pageWords s dest off ws)).kept = s.kept := by
  unfold State.pageWords; (repeat' split) <;> simp

@[simp] theorem State.pageArrived_kept (s : State) (m : PageMove) :
    ((State.pageArrived s m)).kept = s.kept := by
  unfold State.pageArrived; (repeat' split) <;> simp

@[simp] theorem State.pageLand_kept (s : State) (handle : Nat) (ord : Nat) (off : Nat) (ws : List (CWord × Bool)) :
    ((State.pageLand s handle ord off ws)).kept = s.kept := by
  simp [State.pageLand]; (repeat' split) <;> simp_all

@[simp] theorem State.pageLost_kept (s : State) (handle : Nat) (ord : Nat) (st : Nat) :
    ((State.pageLost s handle ord st)).kept = s.kept := by
  simp [State.pageLost]

@[simp] theorem State.releaseDue_kept (s : State) :
    ((State.releaseDue s)).kept = s.kept := by
  unfold State.releaseDue; apply foldl_kept; intro s x; (repeat' split) <;> simp

@[simp] theorem State.rowDefer_kept (s : State) (h : Nat) :
    ((State.rowDefer s h)).kept = s.kept := by
  unfold State.rowDefer; split <;> simp

@[simp] theorem State.staleDefer_kept (s : State) (d : Nat) (c : Nat) (ch : Nat) (hs : List Nat) :
    ((State.staleDefer s d c ch hs)).kept = s.kept := by
  simp [State.staleDefer]

/-! Sampler -/

@[simp] theorem State.smpJob_kept (s : State) (d : Nat) (op : Nat) (run : List Word → List SmpRow → State → Nat × State) (hrun : ∀ a0 a1 a2, ((run a0 a1 a2).2).kept = a2.kept) :
    ((State.smpJob s d op run)).kept = s.kept := by
  unfold State.smpJob; simp_all

@[simp] theorem State.smpRead_kept (s : State) (d : Nat) (j : List Word) (a : Nat) (n : Nat) :
    ((State.smpRead s d j a n).2.2).kept = s.kept := by
  simp [State.smpRead]

@[simp] theorem State.smpRecord_kept (s : State) (d : Nat) (j : List Word) (a : Nat) (handle : Nat) (t : Token) :
    ((State.smpRecord s d j a handle t).2).kept = s.kept := by
  simp [State.smpRecord]

@[simp] theorem State.smpTrunc_kept (s : State) (d : Nat) (b : Bool) :
    ((State.smpTrunc s d b)).kept = s.kept := by
  simp [State.smpTrunc]

@[simp] theorem smpRows_kept (run : Nat → SmpRow → State → Nat × State) (x1 : Nat) (x2 : List SmpRow) (x3 : State) (hrun : ∀ a0 a1 a2, ((run a0 a1 a2).2).kept = a2.kept) :
    ((smpRows run x1 x2 x3).2).kept = x3.kept := by
  induction x2 generalizing x1 x3 with
  | nil => simp [smpRows]
  | cons r rs ih => simp [smpRows, ih, hrun]

@[simp] theorem State.smpSample_kept (s : State) (d : Nat) (maquette : Bool) :
    ((State.smpSample s d maquette)).kept = s.kept := by
  simp [State.smpSample]

@[simp] theorem State.smpShort_kept (s : State) (d : Nat) :
    ((State.smpShort s d)).kept = s.kept := by
  simp [State.smpShort]

@[simp] theorem State.mergeValue_kept (s : State) (d : Nat) (ctx : Nat) (r : SmpRow) (f : SmpFirst) :
    ((State.mergeValue s d ctx r f).2).kept = s.kept := by
  simp [State.mergeValue]

@[simp] theorem State.smpMerge_kept (s : State) (d : Nat) (shards : Nat) :
    ((State.smpMerge s d shards)).kept = s.kept := by
  simp [State.smpMerge]

@[simp] theorem State.smpRecords_kept (s : State) (d : Nat) (j : List Word) (handle : Nat) (x4 : Nat) (x5 : List Token) :
    ((State.smpRecords s d j handle x4 x5).2).kept = s.kept := by
  induction x5 generalizing s x4 with
  | nil => simp [State.smpRecords]
  | cons r rs ih => simp [State.smpRecords, ih]

@[simp] theorem State.smpVerify_kept (s : State) (d : Nat) (drafts : List (List Draft)) :
    ((State.smpVerify s d drafts)).kept = s.kept := by
  simp [State.smpVerify]

/-! Pointing -/

@[simp] theorem State.ptRead_kept (s : State) (d : Nat) (j : List Word) (a : Nat) (n : Nat) :
    ((State.ptRead s d j a n).2.2).kept = s.kept := by
  simp [State.ptRead]

@[simp] theorem State.ptTiles_kept (s : State) (d : Nat) (j : List Word) (x3 : List (Option Nat)) :
    ((State.ptTiles s d j x3).2.2).kept = s.kept := by
  induction x3 generalizing s with
  | nil => simp [State.ptTiles]
  | cons o rs ih =>
    cases o with
    | none => rw [State.ptTiles, snd_pair, snd_pair, ih]
    | some a =>
      rw [State.ptTiles]; dsimp only; split
      · rw [snd_pair, snd_pair]; exact State.ptRead_kept ..
      · rw [snd_pair, snd_pair, ih]; exact State.ptRead_kept ..

@[simp] theorem eachMove_kept (run : List Word → State → Nat × State) (x1 : List (List Word)) (x2 : State) (hrun : ∀ a0 a1, ((run a0 a1).2).kept = a1.kept) :
    ((eachMove run x1 x2).2).kept = x2.kept := by
  induction x1 generalizing x2 with
  | nil => simp [eachMove]
  | cons r rs ih => simp [eachMove, ih, hrun]

@[simp] theorem State.withMoves_kept (s : State) (d : Nat) (j : List Word) (run : List (List Word) → State → Nat × State) (hrun : ∀ a0 a1, ((run a0 a1).2).kept = a1.kept) :
    ((State.withMoves s d j run).2).kept = s.kept := by
  unfold State.withMoves; (repeat' split) <;> simp_all

@[simp] theorem State.scanTiles_kept (s : State) (d : Nat) (e : Nat) (j : List Word) (m : List Word) (x5 : Nat) (x6 : Nat) (x7 : Nat) :
    ((State.scanTiles s d e j m x5 x6 x7).2.2).kept = s.kept := by
  induction x7 generalizing s x5 x6 with
  | zero => simp [State.scanTiles]
  | succ n ih => simp [State.scanTiles, ih]

@[simp] theorem State.scanMove_kept (s : State) (d : Nat) (e : Nat) (j : List Word) (m : List Word) :
    ((State.scanMove s d e j m).2).kept = s.kept := by
  simp [State.scanMove]

@[simp] theorem State.scanJob_kept (s : State) (d : Nat) (e : Nat) :
    ((State.scanJob s d e)).kept = s.kept := by
  unfold State.scanJob; apply State.jobRow_kept; intro j s; apply State.withMoves_kept; intro ms s
  apply eachMove_kept; intro m s; simp

@[simp] theorem State.castTiles_kept (s : State) (d : Nat) (e : Nat) (j : List Word) (m : List Word) (scale : Nat) (zero : Bool) (x7 : Nat) (x8 : Nat) (x9 : Outbox) :
    ((State.castTiles s d e j m scale zero x7 x8 x9).2.2).kept = s.kept := by
  induction x8 generalizing s x7 x9 with
  | zero => rfl
  | succ n ih =>
    rw [State.castTiles]; dsimp only; split
    · rw [snd_pair, snd_pair]; exact State.ptTiles_kept ..
    · split
      · split
        · rw [snd_pair, snd_pair]; simp
        · rw [ih]; simp
      · rw [ih]; simp

@[simp] theorem State.castMove_kept (s : State) (d : Nat) (e : Nat) (j : List Word) (m : List Word) (o : Outbox) :
    ((State.castMove s d e j m o).2.2).kept = s.kept := by
  simp [State.castMove]

@[simp] theorem State.castMoves_kept (s : State) (d : Nat) (e : Nat) (j : List Word) (x4 : List (List Word)) (x5 : Outbox) :
    ((State.castMoves s d e j x4 x5).2.2).kept = s.kept := by
  induction x4 generalizing s x5 with
  | nil => simp [State.castMoves]
  | cons r rs ih => simp [State.castMoves, ih]

@[simp] theorem State.castSend_kept (s : State) (d : Nat) (e : Nat) (j : List Word) (dev : Nat) (stream : Nat) (bs : List Byte) :
    ((State.castSend s d e j dev stream bs)).kept = s.kept := by
  unfold State.castSend; apply foldl_kept; intro s x; (repeat' split) <;> simp

@[simp] theorem State.castJob_kept (s : State) (d : Nat) (e : Nat) :
    ((State.castJob s d e)).kept = s.kept := by
  unfold State.castJob; apply State.jobRow_kept; intro j s; apply State.withMoves_kept; intro ms s
  dsimp only; rw [foldl_kept _ _ _ (by intro s x; simp)]; simp

@[simp] theorem State.amaxWrite_kept (s : State) (ctx : Nat) (g : Nat) (ws : List Word) :
    ((State.amaxWrite s ctx g ws)).kept = s.kept := by
  unfold State.amaxWrite <;> (repeat' first
      | (simp; done)
      | (intro _)
      | (rename_i h; have h1 := congrArg (fun p => State.kept (Prod.snd p)) h; clear h; simp at h1; simp [← h1]; done)
      | (rename_i h; have h1 := congrArg (fun p => State.kept (Prod.snd (Prod.snd p))) h; clear h; simp at h1; simp [← h1]; done)
      | split
      | (rw [foldl_kept _ _ _ ?_])
      | (simp_all; done)
      | simp)

@[simp] theorem State.takeAmax_kept (s : State) :
    ((State.takeAmax s)).kept = s.kept := by
  unfold State.takeAmax; apply foldl_kept; intro s x; (repeat' split) <;> simp

@[simp] theorem State.amaxPost_kept (s : State) (ctx : Nat) (x2 : List Nat) :
    ((State.amaxPost s ctx x2)).kept = s.kept := by
  fun_induction State.amaxPost s ctx x2 <;> simp_all

@[simp] theorem State.amaxExchange_kept (s : State) (ctx : Nat) :
    ((State.amaxExchange s ctx)).kept = s.kept := by
  simp [State.amaxExchange]

/-! Learn -/

@[simp] theorem State.batchDrop_kept (s : State) (ctx : Nat) (ns : List Nat) :
    ((State.batchDrop s ctx ns)).kept = s.kept := by
  simp [State.batchDrop]

@[simp] theorem State.learnEnd_kept (s : State) (ctx : Nat) (st : Nat) (n : Nat) :
    ((State.learnEnd s ctx st n)).kept = s.kept := by
  simp [State.learnEnd]; (repeat' split) <;> simp_all

@[simp] theorem State.learnConfigure_kept (s : State) (c : HostCmd) (g : Program) :
    ((State.learnConfigure s c g)).kept = s.kept := by
  simp [State.learnConfigure]

@[simp] theorem State.learnStep_kept (s : State) (c : HostCmd) (p : Program) :
    ((State.learnStep s c p)).kept = s.kept := by
  unfold State.learnStep; (repeat' split) <;> simp

@[simp] theorem State.loadBatch_kept (s : State) (c : HostCmd) (image : Option (List Word)) :
    ((State.loadBatch s c image)).kept = s.kept := by
  unfold State.loadBatch; split <;> simp

@[simp] theorem State.loopStop_kept (s : State) (ctx : Nat) (st : Nat) :
    ((State.loopStop s ctx st)).kept = s.kept := by
  simp [State.loopStop]; (repeat' split) <;> simp_all

@[simp] theorem State.stepFails_kept (s : State) (ctx : Nat) (st : Nat) :
    ((State.stepFails s ctx st)).kept = s.kept := by
  simp [State.stepFails]

@[simp] theorem State.learnBegin_kept (s : State) (ctx : Nat) :
    ((State.learnBegin s ctx)).kept = s.kept := by
  simp [State.learnBegin]; (repeat' split) <;> simp_all

@[simp] theorem State.normTake_kept (s : State) (ctx : Nat) (ws : List Word) :
    ((State.normTake s ctx ws)).kept = s.kept := by
  simp [State.normTake]; (repeat' split) <;> simp_all

@[simp] theorem State.takeNorms_kept (s : State) :
    ((State.takeNorms s)).kept = s.kept := by
  unfold State.takeNorms; apply foldl_kept; intro s x; (repeat' split) <;> simp

@[simp] theorem State.normPost_kept (s : State) (ctx : Nat) :
    ((State.normPost s ctx)).kept = s.kept := by
  simp [State.normPost]; (repeat' split) <;> simp_all

@[simp] theorem State.learnSeal_kept (s : State) (ctx : Nat) :
    ((State.learnSeal s ctx)).kept = s.kept := by
  simp [State.learnSeal]

@[simp] theorem State.learnVoid_kept (s : State) (ctx : Nat) (u : SealUnit) :
    ((State.learnVoid s ctx u)).kept = s.kept := by
  simp [State.learnVoid]

/-! Turns -/

@[simp] theorem State.policyShow_kept (s : State) (ctx : Nat) :
    ((State.policyShow s ctx)).kept = s.kept := by
  unfold State.policyShow; split <;> simp

@[simp] theorem State.setPolicy_kept (s : State) (c : HostCmd) :
    ((State.setPolicy s c)).kept = s.kept := by
  simp [State.setPolicy]

@[simp] theorem State.policyTurn_kept (s : State) (ctx : Nat) :
    ((State.policyTurn s ctx)).kept = s.kept := by
  simp [State.policyTurn]; (repeat' split) <;> simp_all

@[simp] theorem State.policyPhase_kept (s : State) (ctx : Nat) :
    ((State.policyPhase s ctx)).kept = s.kept := by
  simp [State.policyPhase]; (repeat' split) <;> simp_all

@[simp] theorem State.enterPhase_kept (s : State) (ctx : Nat) (phase : Nat) :
    ((State.enterPhase s ctx phase)).kept = s.kept := by
  simp [State.enterPhase]

@[simp] theorem State.enterTurn_kept (s : State) (ctx : Nat) :
    ((State.enterTurn s ctx)).kept = s.kept := by
  simp [State.enterTurn]

@[simp] theorem State.enterGenerate_kept (s : State) (ctx : Nat) :
    ((State.enterGenerate s ctx)).kept = s.kept := by
  simp [State.enterGenerate]

@[simp] theorem State.formBatches_kept (s : State) (ctx : Nat) :
    ((State.formBatches s ctx)).kept = s.kept := by
  simp [State.formBatches]

@[simp] theorem State.phaseStep_kept (s : State) (ctx : Nat) :
    ((State.phaseStep s ctx)).kept = s.kept := by
  simp [State.phaseStep]

@[simp] theorem State.setCasts_kept (s : State) (ctx : Nat) (h : Nat) (cs : List Nat) :
    ((State.setCasts s ctx h cs)).kept = s.kept := by
  simp [State.setCasts]

@[simp] theorem State.turnCast_kept (s : State) (ctx : Nat) (p : Policy) :
    ((State.turnCast s ctx p).2).kept = s.kept := by
  simp [State.turnCast]

@[simp] theorem State.rebalance_kept (s : State) (ctx : Nat) :
    ((State.rebalance s ctx)).kept = s.kept := by
  simp [State.rebalance]; (repeat' split) <;> simp_all

@[simp] theorem State.turnSeal_kept (s : State) (ctx : Nat) :
    ((State.turnSeal s ctx)).kept = s.kept := by
  simp [State.turnSeal]; (repeat' split) <;> simp_all

@[simp] theorem State.turnVoid_kept (s : State) (ctx : Nat) :
    ((State.turnVoid s ctx)).kept = s.kept := by
  simp [State.turnVoid]

@[simp] theorem State.turnFirst_kept (s : State) :
    ((State.turnFirst s)).kept = s.kept := by
  unfold State.turnFirst <;> (repeat' first
      | (simp; done)
      | (intro _)
      | (rename_i h; have h1 := congrArg (fun p => State.kept (Prod.snd p)) h; clear h; simp at h1; simp [← h1]; done)
      | (rename_i h; have h1 := congrArg (fun p => State.kept (Prod.snd (Prod.snd p))) h; clear h; simp at h1; simp [← h1]; done)
      | split
      | (rw [foldl_kept _ _ _ ?_])
      | (simp_all; done)
      | simp)

@[simp] theorem State.copyRelease_kept (s : State) (ctx : Nat) :
    ((State.copyRelease s ctx)).kept = s.kept := by
  simp [State.copyRelease]

@[simp] theorem State.startLoop_kept (s : State) (c : HostCmd) :
    ((State.startLoop s c)).kept = s.kept := by
  simp [State.startLoop]

@[simp] theorem State.stopLoop_kept (s : State) (c : HostCmd) :
    ((State.stopLoop s c)).kept = s.kept := by
  simp [State.stopLoop]

@[simp] theorem State.forceTurn_kept (s : State) (c : HostCmd) :
    ((State.forceTurn s c)).kept = s.kept := by
  simp [State.forceTurn]

end Sys2Proof.Machine
end

