-- ==== Sys2Proof/Laws/KeptEdge.lean ====
section
/-! SUPPORT. No operation of contexts, the host link, the register port, start-up, lost units and the stroke edge touches the queue, or of the provenance die more than its
state journal: one lemma each. -/

namespace Sys2Proof.Machine

/-! Contexts -/

@[simp] theorem State.poolShow_kept (s : State) :
    ((State.poolShow s)).kept = s.kept := by
  simp [State.poolShow]

@[simp] theorem State.unbindCores_kept (s : State) (ctx : Nat) :
    ((State.unbindCores s ctx)).kept = s.kept := by
  simp [State.unbindCores]

@[simp] theorem State.runOn_kept (s : State) (ctx : Nat) (d : Nat) (c : Nat) :
    ((State.runOn s ctx d c)).kept = s.kept := by
  simp [State.runOn]

@[simp] theorem State.bindCores_kept (s : State) (ctx : Nat) :
    ((State.bindCores s ctx)).kept = s.kept := by
  simp [State.bindCores]

@[simp] theorem State.bindHub_kept (s : State) (ctx : Nat) (shares : List Nat) (qos : Nat) (ddr : Nat) :
    ((State.bindHub s ctx shares qos ddr)).kept = s.kept := by
  simp [State.bindHub]

@[simp] theorem State.grantShares_kept (s : State) (ctx : Nat) (b : List Word) :
    ((State.grantShares s ctx b)).kept = s.kept := by
  simp [State.grantShares]

@[simp] theorem State.sharesApply_kept (s : State) :
    ((State.sharesApply s)).kept = s.kept := by
  unfold State.sharesApply; apply foldl_kept; intro s x; (repeat' split) <;> simp

@[simp] theorem State.createContext_kept (s : State) (c : HostCmd) :
    ((State.createContext s c)).kept = s.kept := by
  simp [State.createContext]

@[simp] theorem State.setShares_kept (s : State) (c : HostCmd) :
    ((State.setShares s c)).kept = s.kept := by
  simp [State.setShares]

@[simp] theorem State.preemptPost_kept (s : State) (c : Nat) :
    ((State.preemptPost s c)).kept = s.kept := by
  unfold State.preemptPost; (repeat' split) <;> simp

@[simp] theorem State.takePreempts_kept (s : State) :
    ((State.takePreempts s)).kept = s.kept := by
  unfold State.takePreempts; apply foldl_kept; intro s x; (repeat' split) <;> simp

@[simp] theorem State.preemptDecide_kept (s : State) :
    ((State.preemptDecide s)).kept = s.kept := by
  simp [State.preemptDecide]

@[simp] theorem State.wipe_kept (s : State) (lo : Nat) (hi : Nat) :
    ((State.wipe s lo hi)).kept = s.kept := by
  simp [State.wipe]

@[simp] theorem State.setCounters_kept (s : State) (d : Nat) (c : Nat) (l : List Nat) :
    ((State.setCounters s d c l)).kept = s.kept := by
  simp [State.setCounters]

@[simp] theorem State.savePart_kept (s : State) (ctx : Nat) (d : Nat) (c : Nat) :
    ((State.savePart s ctx d c)).kept = s.kept := by
  simp [State.savePart]

@[simp] theorem State.loadPart_kept (s : State) (ctx : Nat) (d : Nat) (c : Nat) :
    ((State.loadPart s ctx d c)).kept = s.kept := by
  simp [State.loadPart]; (repeat' split) <;> simp_all

@[simp] theorem State.dropEntries_kept (s : State) (ctx : Nat) (cores : List Nat) (dies : List Nat) :
    ((State.dropEntries s ctx cores dies)).kept = s.kept := by
  simp [State.dropEntries]

@[simp] theorem State.arraysLost_kept (s : State) (d : Nat) (c : Nat) :
    ((State.arraysLost s d c)).kept = s.kept := by
  simp [State.arraysLost]

@[simp] theorem State.switchIn_kept (s : State) (inc : Nat) (d : Nat) (c : Nat) :
    ((State.switchIn s inc d c)).kept = s.kept := by
  simp [State.switchIn]

@[simp] theorem State.switchCtx_kept (s : State) (out : Nat) (inc : Nat) :
    ((State.switchCtx s out inc)).kept = s.kept := by
  simp [State.switchCtx]

@[simp] theorem State.resetCtx_kept (s : State) (c : HostCmd) :
    ((State.resetCtx s c)).kept = s.kept := by
  simp [State.resetCtx]

@[simp] theorem State.resetFence_kept (s : State) (ctx : Nat) :
    ((State.resetFence s ctx)).kept = s.kept := by
  simp [State.resetFence]

@[simp] theorem State.resetChans_kept (s : State) (ctx : Nat) :
    ((State.resetChans s ctx)).kept = s.kept := by
  simp [State.resetChans]

@[simp] theorem State.resetComplete_kept (s : State) (ctx : Nat) :
    ((State.resetComplete s ctx)).kept = s.kept := by
  simp [State.resetComplete]

@[simp] theorem State.segClear_kept (s : State) (i : Nat) :
    ((State.segClear s i)).kept = s.kept := by
  simp [State.segClear]

@[simp] theorem State.resetClear_kept (s : State) (ctx : Nat) :
    ((State.resetClear s ctx)).kept = s.kept := by
  simp [State.resetClear]

@[simp] theorem State.resetReturn_kept (s : State) (ctx : Nat) :
    ((State.resetReturn s ctx)).kept = s.kept := by
  simp [State.resetReturn]

@[simp] theorem State.resetStep_kept (s : State) (ctx : Nat) :
    ((State.resetStep s ctx)).kept = s.kept := by
  simp [State.resetStep]

/-! HostLink -/

@[simp] theorem State.umShow_kept (s : State) (ok : Nat) :
    ((State.umShow s ok)).kept = s.kept := by
  simp [State.umShow]

@[simp] theorem State.objectOwners_kept (s : State) (num : Nat) (st : Nat) :
    ((State.objectOwners s num st)).kept = s.kept := by
  simp [State.objectOwners]

@[simp] theorem State.objReadOwned_kept (s : State) (p : Nat) (misread : List (Nat × Bool)) :
    ((State.objReadOwned s p misread)).kept = s.kept := by
  simp [State.objReadOwned]

@[simp] theorem State.requestComplete_kept (s : State) (d : Nat) (c : Nat) (ch : Nat) (index : Nat) (how : ReqEnd) :
    ((State.requestComplete s d c ch index how)).kept = s.kept := by
  unfold State.requestComplete; split <;> simp

@[simp] theorem State.slotData_kept (s : State) (i : Nat) (m : UmMsg) :
    ((State.slotData s i m)).kept = s.kept := by
  simp [State.slotData]; (repeat' split) <;> simp_all

@[simp] theorem State.readFail_kept (s : State) (o : RdOwner) (st : Nat) :
    ((State.readFail s o st)).kept = s.kept := by
  unfold State.readFail; split <;> simp

@[simp] theorem State.slotFail_kept (s : State) (i : Nat) (st : Nat) :
    ((State.slotFail s i st)).kept = s.kept := by
  simp [State.slotFail]

@[simp] theorem State.slotAgain_kept (s : State) (i : Nat) (x : RdSlot) :
    ((State.slotAgain s i x)).kept = s.kept := by
  simp [State.slotAgain]

@[simp] theorem State.cplLost_kept (s : State) (mtag : Nat) :
    ((State.cplLost s mtag)).kept = s.kept := by
  unfold State.cplLost; split <;> simp

@[simp] theorem State.memCpl_kept (s : State) (m : UmMsg) :
    ((State.memCpl s m)).kept = s.kept := by
  unfold State.memCpl; split <;> simp

@[simp] theorem State.inboxDrop_kept (s : State) (p : UmMsg → Bool) :
    ((State.inboxDrop s p)).kept = s.kept := by
  unfold State.inboxDrop; split <;> simp

@[simp] theorem State.writeFail_kept (s : State) (mtag : Nat) (m : UmMsg) (reason : Nat) :
    ((State.writeFail s mtag m reason)).kept = s.kept := by
  simp [State.writeFail]

@[simp] theorem State.errorReport_kept (s : State) (mtag : Nat) :
    ((State.errorReport s mtag)).kept = s.kept := by
  unfold State.errorReport; (repeat' split) <;> simp

@[simp] theorem State.fenceWindow_kept (s : State) :
    ((State.fenceWindow s)).kept = s.kept := by
  unfold State.fenceWindow <;> (repeat' first
      | (simp; done)
      | (intro _)
      | (rename_i h; have h1 := congrArg (fun p => State.kept (Prod.snd p)) h; clear h; simp at h1; simp [← h1]; done)
      | (rename_i h; have h1 := congrArg (fun p => State.kept (Prod.snd (Prod.snd p))) h; clear h; simp at h1; simp [← h1]; done)
      | split
      | (rw [foldl_kept _ _ _ ?_])
      | (simp_all; done)
      | simp)

@[simp] theorem State.umDown_kept (s : State) :
    ((State.umDown s)).kept = s.kept := by
  simp [State.umDown]

@[simp] theorem State.umLinkUp_kept (s : State) (lanes : Nat) (adapter : Nat) :
    ((State.umLinkUp s lanes adapter)).kept = s.kept := by
  simp [State.umLinkUp]

@[simp] theorem State.umLaneFail_kept (s : State) (lane : Nat) (relocked : Option Nat) :
    ((State.umLaneFail s lane relocked)).kept = s.kept := by
  unfold State.umLaneFail; split <;> simp

@[simp] theorem State.umGrant_kept (s : State) (x1 : Nat) :
    ((State.umGrant s x1)).kept = s.kept := by
  fun_induction State.umGrant s x1 <;> simp_all

@[simp] theorem State.umPut_kept (s : State) (ftype : Nat) (payload : List Word) :
    ((State.umPut s ftype payload)).kept = s.kept := by
  simp [State.umPut]

@[simp] theorem State.umFlitSend_kept (s : State) :
    ((State.umFlitSend s)).kept = s.kept := by
  simp [State.umFlitSend]; (repeat' split) <;> simp_all

@[simp] theorem State.umReplay_kept (s : State) :
    ((State.umReplay s)).kept = s.kept := by
  simp [State.umReplay]

@[simp] theorem State.umTake_kept (s : State) (bs : List Byte) :
    ((State.umTake s bs)).kept = s.kept := by
  simp [State.umTake]

@[simp] theorem State.umDeliver_kept (s : State) (x1 : Nat) :
    ((State.umDeliver s x1)).kept = s.kept := by
  fun_induction State.umDeliver s x1 <;> simp_all

@[simp] theorem State.umHeaderTake_kept (s : State) (f : UmFlit) :
    ((State.umHeaderTake s f)).kept = s.kept := by
  simp [State.umHeaderTake]

@[simp] theorem State.umDiscard_kept (s : State) :
    ((State.umDiscard s)).kept = s.kept := by
  simp [State.umDiscard]

@[simp] theorem State.umFlitReceive_kept (s : State) (f : UmFlit) (fecOk : Bool) :
    ((State.umFlitReceive s f fecOk)).kept = s.kept := by
  simp [State.umFlitReceive]

@[simp] theorem State.dbIgnored_kept (s : State) (q : Nat) (value : Nat) :
    ((State.dbIgnored s q value)).kept = s.kept := by
  simp [State.dbIgnored]

@[simp] theorem State.sqTailBell_kept (s : State) (q : Nat) (value : Nat) :
    ((State.sqTailBell s q value)).kept = s.kept := by
  simp [State.sqTailBell]

@[simp] theorem State.eqBell_kept (s : State) (q : Nat) (value : Nat) :
    ((State.eqBell s q value)).kept = s.kept := by
  simp [State.eqBell]

@[simp] theorem State.entryTake_kept (s : State) (q : Fin 17) (e : List Word) :
    ((State.entryTake s q e)).kept = s.kept := by
  simp [State.entryTake]

@[simp] theorem State.queueFetch_kept (s : State) (q : Fin 17) (entries : List (List Word)) :
    ((State.queueFetch s q entries)).kept = s.kept := by
  simp [State.queueFetch]

@[simp] theorem State.hwinWrite_kept (s : State) (r : Nat) :
    ((State.hwinWrite s r)).kept = s.kept := by
  simp [State.hwinWrite]

@[simp] theorem State.hwinRead_kept (s : State) (r : Nat) :
    ((State.hwinRead s r)).kept = s.kept := by
  simp [State.hwinRead]

@[simp] theorem State.hwinApply_kept (s : State) :
    ((State.hwinApply s)).kept = s.kept := by
  unfold State.hwinApply; apply foldl_kept; intro s x; (repeat' split) <;> simp

@[simp] theorem State.lateCount_kept (s : State) (t : Tier) (p : Nat) :
    ((State.lateCount s t p)).kept = s.kept := by
  simp [State.lateCount]

@[simp] theorem State.objectLate_kept (s : State) :
    ((State.objectLate s)).kept = s.kept := by
  simp [State.objectLate]

@[simp] theorem State.tierLate_kept (s : State) (x1 : LateReq) :
    ((State.tierLate s x1)).kept = s.kept := by
  unfold State.tierLate; (repeat' split) <;> simp

/-! Csr -/

@[simp] theorem State.csrRefuse_kept (s : State) (p : Port) (addr : Nat) (st : Nat) :
    ((State.csrRefuse s p addr st)).kept = s.kept := by
  simp [State.csrRefuse]

@[simp] theorem State.csrClear_kept (s : State) (a : Nat) (hardware : Word) :
    ((State.csrClear s a hardware)).kept = s.kept := by
  simp [State.csrClear]

@[simp] theorem State.csrRead_kept (s : State) (p : Port) (addr : Nat) (bytes : Nat) (hardware : Word) :
    ((State.csrRead s p addr bytes hardware)).kept = s.kept := by
  simp [State.csrRead]

@[simp] theorem State.csrStore_kept (s : State) (a : Nat) (data : Word) (hardware : Word) :
    ((State.csrStore s a data hardware)).kept = s.kept := by
  simp [State.csrStore]

@[simp] theorem State.slotLatch_kept (s : State) (d : Nat) (c : Nat) (i : Nat) (w : Word) :
    ((State.slotLatch s d c i w)).kept = s.kept := by
  simp [State.slotLatch]

@[simp] theorem State.jobLatch_kept (s : State) (d : Nat) (e : Nat) (i : Nat) (w : Word) :
    ((State.jobLatch s d e i w)).kept = s.kept := by
  simp [State.jobLatch]

@[simp] theorem State.mapCmd_kept (s : State) (d : Nat) (data : Word) :
    ((State.mapCmd s d data)).kept = s.kept := by
  unfold State.mapCmd; split <;> simp

@[simp] theorem State.epochOp_kept (s : State) (p : Nat) (data : Word) :
    ((State.epochOp s p data)).kept = s.kept := by
  unfold State.epochOp; split <;> simp

@[simp] theorem State.objOp_kept (s : State) (data : Word) :
    ((State.objOp s data)).kept = s.kept := by
  unfold State.objOp; split <;> simp

@[simp] theorem State.segOp_kept (s : State) (p : Nat) (data : Word) :
    ((State.segOp s p data)).kept = s.kept := by
  unfold State.segOp; split <;> simp

@[simp] theorem State.routeCmd_kept (s : State) (p : Nat) (data : Word) :
    ((State.routeCmd s p data)).kept = s.kept := by
  unfold State.routeCmd; split <;> simp

@[simp] theorem State.hwinOp_kept (s : State) (data : Word) :
    ((State.hwinOp s data)).kept = s.kept := by
  unfold State.hwinOp; split <;> simp

@[simp] theorem State.attOp_kept (s : State) (data : Word) :
    ((State.attOp s data)).kept = s.kept := by
  simp [State.attOp]

@[simp] theorem State.updOp_kept (s : State) (data : Word) :
    ((State.updOp s data)).kept = s.kept := by
  simp [State.updOp]

@[simp] theorem State.csrTake_kept (s : State) (p : Port) (a : Nat) (data : Word) (hardware : Word) :
    ((State.csrTake s p a data hardware)).kept = s.kept := by
  unfold State.csrTake; split <;> simp

@[simp] theorem State.csrWrite_kept (s : State) (p : Port) (addr : Nat) (bytes : Nat) (data : Word) (hardware : Word) :
    ((State.csrWrite s p addr bytes data hardware)).kept = s.kept := by
  simp [State.csrWrite]

@[simp] theorem State.csrCpl_kept (s : State) (mtag : Half) (addr : Addr) :
    ((State.csrCpl s mtag addr)).kept = s.kept := by
  simp [State.csrCpl]

/-! Start -/

@[simp] theorem State.bootFail_kept (s : State) (cause : Nat) :
    ((State.bootFail s cause)).kept = s.kept := by
  simp [State.bootFail]

@[simp] theorem State.clocksLock_kept (s : State) :
    ((State.clocksLock s)).kept = s.kept := by
  simp [State.clocksLock]

@[simp] theorem State.loadUnitMap_kept (s : State) :
    ((State.loadUnitMap s)).kept = s.kept := by
  simp [State.loadUnitMap]

@[simp] theorem State.showImage_kept (s : State) (i : Image) :
    ((State.showImage s i)).kept = s.kept := by
  simp [State.showImage]

@[simp] theorem State.showClocks_kept (s : State) (i : Image) :
    ((State.showClocks s i)).kept = s.kept := by
  simp [State.showClocks]

@[simp] theorem State.loadPolicy_kept (s : State) (i : Image) :
    ((State.loadPolicy s i)).kept = s.kept := by
  simp [State.loadPolicy]

@[simp] theorem State.ddrTrain_kept (s : State) (i : Image) (fail : Nat) :
    ((State.ddrTrain s i fail)).kept = s.kept := by
  simp [State.ddrTrain]

@[simp] theorem State.katFences_kept (s : State) (us : List UnitId) :
    ((State.katFences s us)).kept = s.kept := by
  simp [State.katFences]

@[simp] theorem State.linksTrain_kept (s : State) :
    ((State.linksTrain s)).kept = s.kept := by
  simp [State.linksTrain]

@[simp] theorem State.selftest_kept (s : State) (i : Image) (found : SelfTest) :
    ((State.selftest s i found)).kept = s.kept := by
  simp [State.selftest]

@[simp] theorem State.loadImage_kept (s : State) (slot : Nat) (fallback : Bool) (i : Image) (found : SelfTest) :
    ((State.loadImage s slot fallback i found)).kept = s.kept := by
  simp [State.loadImage]

@[simp] theorem State.routesBuild_kept (s : State) :
    ((State.routesBuild s)).kept = s.kept := by
  simp [State.routesBuild]

@[simp] theorem State.ringsBuild_kept (s : State) :
    ((State.ringsBuild s)).kept = s.kept := by
  simp [State.ringsBuild]

@[simp] theorem State.linkOut_kept (s : State) (l : Nat) :
    ((State.linkOut s l)).kept = s.kept := by
  simp [State.linkOut]

@[simp] theorem State.linkTrained_kept (s : State) (l : Nat) (t : Option LinkTrain) :
    ((State.linkTrained s l t)).kept = s.kept := by
  unfold State.linkTrained; split <;> simp

@[simp] theorem State.settle_kept (s : State) :
    ((State.settle s)).kept = s.kept := by
  simp [State.settle]

@[simp] theorem State.linkTrainingEnd_kept (s : State) (found : List LinkTrain) :
    ((State.linkTrainingEnd s found)).kept = s.kept := by
  simp [State.linkTrainingEnd]

/-! Gone -/

@[simp] theorem State.setFrameCount_kept (s : State) (k : Nat) (v : Nat) :
    ((State.setFrameCount s k v)).kept = s.kept := by
  simp [State.setFrameCount]

@[simp] theorem State.coreGone_kept (s : State) (d : Nat) (c : Nat) :
    ((State.coreGone s d c)).kept = s.kept := by
  simp [State.coreGone]; (repeat' split) <;> simp_all

@[simp] theorem State.engGone_kept (s : State) (d : Nat) (e : Nat) :
    ((State.engGone s d e)).kept = s.kept := by
  simp [State.engGone]; (repeat' split) <;> simp_all

@[simp] theorem State.prefixGone_kept (s : State) (h : Nat) :
    ((State.prefixGone s h)).kept = s.kept := by
  unfold State.prefixGone; (repeat' split) <;> simp

@[simp] theorem State.pagesLost_kept (s : State) (gone : Nat → Nat → Nat → Bool) :
    ((State.pagesLost s gone)).kept = s.kept := by
  simp [State.pagesLost]

@[simp] theorem State.linkGone_kept (s : State) (l : Nat) :
    ((State.linkGone s l)).kept = s.kept := by
  simp [State.linkGone]

@[simp] theorem State.requestsGone_kept (s : State) (at' : Nat → Bool) :
    ((State.requestsGone s at')).kept = s.kept := by
  simp [State.requestsGone]

@[simp] theorem State.savesGone_kept (s : State) (gone : Saved → Bool) :
    ((State.savesGone s gone)).kept = s.kept := by
  simp [State.savesGone]

@[simp] theorem State.savesThrough_kept (s : State) (chans : Nat) :
    ((State.savesThrough s chans)).kept = s.kept := by
  simp [State.savesThrough]

@[simp] theorem State.unitGone_kept (s : State) (unit : Nat) (index : Nat) :
    ((State.unitGone s unit index)).kept = s.kept := by
  simp [State.unitGone]

@[simp] theorem State.edgeFences_kept (s : State) :
    ((State.edgeFences s)).kept = s.kept := by
  simp [State.edgeFences]

@[simp] theorem State.outcomeApply_kept (s : State) (u : SealUnit) (ok : Bool) :
    ((State.outcomeApply s u ok)).kept = s.kept := by
  simp [State.outcomeApply]

@[simp] theorem State.outcomesOf_kept (s : State) (end_ : Nat) (voided : Bool) (x3 : List SealUnit) :
    ((State.outcomesOf s end_ voided x3)).kept = s.kept := by
  fun_induction State.outcomesOf s end_ voided x3 <;> simp_all

@[simp] theorem State.edgeOutcomes_kept (s : State) (end_ : Nat) :
    ((State.edgeOutcomes s end_)).kept = s.kept := by
  simp [State.edgeOutcomes]

@[simp] theorem State.stop_kept (s : State) :
    ((State.stop s)).kept = s.kept := by
  simp [State.stop]

@[simp] theorem State.devGone_kept (s : State) (dev : Nat) :
    ((State.devGone s dev)).kept = s.kept := by
  simp [State.devGone]

@[simp] theorem State.farLink_kept (s : State) (dev : Nat) (l : Nat) :
    ((State.farLink s dev l)).kept = s.kept := by
  simp [State.farLink]

@[simp] theorem State.fenceNamed_kept (s : State) (dev : Nat) (unit : Nat) (index : Nat) :
    ((State.fenceNamed s dev unit index)).kept = s.kept := by
  simp [State.fenceNamed]

@[simp] theorem State.fenceTake_kept (s : State) (l : Nat) (m : ArmMsg) :
    ((State.fenceTake s l m)).kept = s.kept := by
  simp [State.fenceTake]

@[simp] theorem State.collTake_kept (s : State) (l : Nat) (m : ArmMsg) :
    ((State.collTake s l m)).kept = s.kept := by
  simp [State.collTake]

@[simp] theorem State.kindReason_kept (s : State) (ctx : Nat) (kind : Nat) (r : Nat) :
    ((State.kindReason s ctx kind r)).kept = s.kept := by
  simp [State.kindReason]

@[simp] theorem State.collFail_kept (s : State) (c : Coll) :
    ((State.collFail s c)).kept = s.kept := by
  simp [State.collFail]; (repeat' split) <;> simp_all

@[simp] theorem State.collTimeout_kept (s : State) (tag : Nat) :
    ((State.collTimeout s tag)).kept = s.kept := by
  unfold State.collTimeout; split <;> simp

@[simp] theorem State.armAcked_kept (s : State) (l : Nat) (aack : Nat) :
    ((State.armAcked s l aack)).kept = s.kept := by
  simp [State.armAcked]; (repeat' split) <;> simp_all

@[simp] theorem State.armReplay_kept (s : State) (l : Nat) :
    ((State.armReplay s l)).kept = s.kept := by
  simp [State.armReplay]

@[simp] theorem State.armDeliver_kept (s : State) (l : Nat) (m : ArmMsg) :
    ((State.armDeliver s l m)).kept = s.kept := by
  unfold State.armDeliver; split <;> simp

@[simp] theorem State.armReject_kept (s : State) (l : Nat) :
    ((State.armReject s l)).kept = s.kept := by
  simp [State.armReject]

@[simp] theorem State.armAccept_kept (s : State) (l : Nat) (f : ArmFrame) :
    ((State.armAccept s l f)).kept = s.kept := by
  simp [State.armAccept]

@[simp] theorem State.armReceive_kept (s : State) (l : Nat) (f : ArmFrame) :
    ((State.armReceive s l f)).kept = s.kept := by
  simp [State.armReceive]

/-! Edge -/

@[simp] theorem State.blockBudget_kept (s : State) (d : Nat) (c : Nat) (b : BlockRun) :
    ((State.blockBudget s d c b)).kept = s.kept := by
  simp [State.blockBudget]

@[simp] theorem State.jobBudget_kept (s : State) (d : Nat) (e : Nat) (j : List Word) :
    ((State.jobBudget s d e j)).kept = s.kept := by
  simp [State.jobBudget]

@[simp] theorem State.lagNext_kept (s : State) :
    ((State.lagNext s)).kept = s.kept := by
  simp [State.lagNext]

@[simp] theorem State.budgetEnd_kept (s : State) :
    ((State.budgetEnd s)).kept = s.kept := by
  unfold State.budgetEnd; (repeat' first
      | (simp; done)
      | (intro _)
      | split
      | (rw [foldl_kept _ _ _ ?_])
      | (simp_all; done)
      | simp)

@[simp] theorem State.edgeHalt_kept (s : State) :
    ((State.edgeHalt s)).kept = s.kept := by
  simp [State.edgeHalt]

@[simp] theorem State.takeMaster_kept (s : State) :
    ((State.takeMaster s)).kept = s.kept := by
  unfold State.takeMaster; split <;> simp

@[simp] theorem State.edgeFrame_kept (s : State) :
    ((State.edgeFrame s)).kept = s.kept := by
  simp [State.edgeFrame]

@[simp] theorem State.edgeKind_kept (s : State) (n : Nat) :
    ((State.edgeKind s n)).kept = s.kept := by
  simp [State.edgeKind]; (repeat' split) <;> simp_all

@[simp] theorem State.edgeUnits_kept (s : State) (n : Nat) :
    ((State.edgeUnits s n)).kept = s.kept := by
  simp [State.edgeUnits]

@[simp] theorem State.sendMark_kept (s : State) (n : Nat) :
    ((State.sendMark s n)).kept = s.kept := by
  simp [State.sendMark]

@[simp] theorem State.edgeClock_kept (s : State) (n : Nat) :
    ((State.edgeClock s n)).kept = s.kept := by
  simp [State.edgeClock]

@[simp] theorem State.edgeWays_kept (s : State) :
    ((State.edgeWays s)).kept = s.kept := by
  simp [State.edgeWays]

@[simp] theorem State.edgeState_kept (s : State) :
    ((State.edgeState s)).kept = s.kept := by
  simp [State.edgeState]

@[simp] theorem State.edgeCycles_kept (s : State) :
    ((State.edgeCycles s)).kept = s.kept := by
  simp [State.edgeCycles]

@[simp] theorem State.edgeFirmware_kept (s : State) :
    ((State.edgeFirmware s)).kept = s.kept := by
  simp [State.edgeFirmware]

@[simp] theorem State.strokeEdge_kept (s : State) :
    ((State.strokeEdge s)).kept = s.kept := by
  simp [State.strokeEdge]

@[simp] theorem State.powerTake_kept (s : State) (x : PowerSample) :
    ((State.powerTake s x)).kept = s.kept := by
  unfold State.powerTake
  dsimp only
  generalize List.range 10 = l
  generalize List.range 6 = m
  generalize List.range 4 = n
  generalize powerLevel _ _ _ = p
  simp
  rw [foldl_kept _ _ _ (by intro s i; split <;> simp)]

@[simp] theorem State.levelSend_kept (s : State) :
    ((State.levelSend s)).kept = s.kept := by
  simp [State.levelSend]

@[simp] theorem State.frameRegs_kept (s : State) :
    ((State.frameRegs s)).kept = s.kept := by
  simp [State.frameRegs]

@[simp] theorem State.bindMasks_kept (s : State) :
    ((State.bindMasks s)).kept = s.kept := by
  simp [State.bindMasks]

@[simp] theorem State.segsLost_kept (s : State) :
    ((State.segsLost s)).kept = s.kept := by
  simp [State.segsLost]

@[simp] theorem State.rehome_kept (s : State) (ctx : Nat) (handle : Nat) (span : Nat) :
    ((State.rehome s ctx handle span)).kept = s.kept := by
  simp [State.rehome]

@[simp] theorem State.rehomeAll_kept (s : State) :
    ((State.rehomeAll s)).kept = s.kept := by
  simp [State.rehomeAll]

@[simp] theorem State.fabricSet_kept (s : State) :
    ((State.fabricSet s)).kept = s.kept := by
  simp [State.fabricSet]

@[simp] theorem State.routesAgain_kept (s : State) :
    ((State.routesAgain s)).kept = s.kept := by
  simp [State.routesAgain]

@[simp] theorem State.splitBlocks_kept (s : State) :
    ((State.splitBlocks s)).kept = s.kept := by
  simp [State.splitBlocks]

@[simp] theorem State.frameCounts_kept (s : State) :
    ((State.frameCounts s)).kept = s.kept := by
  simp [State.frameCounts]

@[simp] theorem State.frameBoundary_kept (s : State) (x : PowerSample) :
    ((State.frameBoundary s x)).kept = s.kept := by
  simp [State.frameBoundary]

end Sys2Proof.Machine
end

