-- ==== Sys2Proof/Laws/Mem.lean ====
section
/-! SUPPORT. Every memory operation keeps the memory's canonical form; a word put is read back, and a put leaves every
other byte alone. -/

namespace Sys2Proof.Machine

theorem Mem.wf_iff (m : Mem) : m.wf = true ↔
    cwf (fun _ => 0) m.data = true ∧ cwf (fun _ => none) m.check = true ∧ cwf (fun _ => 0) m.tag = true := by
  simp [Mem.wf, and_assoc]

theorem cwf_foldl {α : Type} [DecidableEq α] {d : Nat → α} (k : Nat → Nat) (v : Nat → α) (l : List Nat) (c : Cells α)
    (h : cwf d c = true) : cwf d (l.foldl (fun c i => cset d c (k i) (v i)) c) = true := by
  induction l generalizing c with
  | nil => exact h
  | cons i l ih => exact ih _ (cwf_cset _ _ h)

theorem Mem.setWord_wf (m : Mem) (k : Nat) (d : Word) (h : m.wf = true) : (m.setWord k d).wf = true := by
  obtain ⟨h1, h2, h3⟩ := m.wf_iff.1 h
  exact (Mem.wf_iff _).2 ⟨cwf_foldl (fun i => k + i) (fun i => d.extractLsb' (8 * i) 8) _ _ h1, h2, h3⟩

/-- Putting a word, its check byte and its tag keeps the form. -/
theorem Mem.put_wf (m : Mem) (k : Nat) (d : Word) (c t : Byte) (h : m.wf = true) : (m.put k d c t).wf = true := by
  obtain ⟨h1, h2, h3⟩ := (Mem.wf_iff _).1 (m.setWord_wf k d h)
  exact (Mem.wf_iff _).2 ⟨h1, cwf_cset k (some c) h2, cwf_cset k t h3⟩

/-! Bytes -/

theorem cget_foldl_other {α : Type} [DecidableEq α] {d : Nat → α} (k : Nat → Nat) (v : Nat → α) (l : List Nat)
    (c : Cells α) {j : Nat} (h : ∀ i ∈ l, j ≠ k i) : cget d (l.foldl (fun c i => cset d c (k i) (v i)) c) j = cget d c j := by
  induction l generalizing c with
  | nil => rfl
  | cons i l ih =>
    rw [List.foldl_cons, ih _ fun x hx => h x (List.mem_cons_of_mem _ hx), cget_cset_other _ _ _ (h i List.mem_cons_self)]

/-- A word put leaves every byte outside it alone. -/
theorem Mem.put_data_other (m : Mem) (k : Nat) (d : Word) (c t : Byte) {j : Nat} (h : j < k ∨ k + 8 ≤ j) :
    cget (fun _ => 0) (m.put k d c t).data j = cget (fun _ => 0) m.data j :=
  cget_foldl_other (fun i => k + i) _ _ _ fun i hi => by have := List.mem_range.1 hi; omega

/-- The tag beside a word put reads back. -/
theorem Mem.put_tagAt (m : Mem) (k : Nat) (d : Word) (c t : Byte) : (m.put k d c t).tagAt k = t := by
  simp [Mem.put, Mem.tagAt]

/-! The operations of the state -/

theorem foldl_mem {α : Type} (f : State → α → State) (l : List α) (s : State) (h : ∀ s x, (f s x).mem = s.mem) :
    (l.foldl f s).mem = s.mem := by
  induction l generalizing s with
  | nil => rfl
  | cons x l ih => rw [List.foldl_cons, ih, h]

@[simp] theorem State.log_mem (s : State) (unit action : Nat) (ctx : Option Nat) (source index detail : Nat) :
    (s.log unit action ctx source index detail).mem = s.mem := by
  simp only [State.log, State.count_mem, State.put_mem]

@[simp] theorem State.report_mem (s : State) (u : UnitId) (r source index detail : Nat) (ctx : Option Nat) :
    (s.report u r source index detail ctx).mem = s.mem := by
  simp only [State.report]
  split
  · rfl
  · rw [State.log_mem]; rfl

@[simp] theorem State.quarantine1_mem (s : State) (u : UnitId) (source index detail : Nat) :
    (s.quarantine1 u source index detail).mem = s.mem := by
  unfold State.quarantine1; split <;> rfl

@[simp] theorem State.quarantine_mem (s : State) (u : UnitId) (source index detail : Nat) :
    (s.quarantine u source index detail).mem = s.mem := by
  unfold State.quarantine; dsimp only; split <;> simp

@[simp] theorem State.scratchBad_mem (s : State) (die core a : Nat) : (s.scratchBad die core a).mem = s.mem := by
  have h : ∀ t : State, t.mem = s.mem → ∀ u n i d, (if 3 ≤ n then t.quarantine u 0x01 i d else t).mem = s.mem := by
    intro t ht u n i d; split <;> simp [ht]
  unfold State.scratchBad
  apply h
  show ((s.count _ Reg.sramUncorr).report _ _ _ _ _ _).mem = _
  simp

@[simp] theorem State.ddrBad_mem (s : State) (ch a : Nat) : (s.ddrBad ch a).mem = s.mem := by
  have h : ∀ t : State, t.mem = s.mem → ∀ u n i d, (if 16 ≤ n then t.quarantine u 0x0A i d else t).mem = s.mem := by
    intro t ht u n i d; split <;> simp [ht]
  unfold State.ddrBad
  apply h
  show ((s.count _ Reg.ddrUncorr).report _ _ _ _ _ _).mem = _
  simp

@[simp] theorem State.mergeBad_mem (s : State) (a : Nat) : (s.mergeBad a).mem = s.mem := by
  unfold State.mergeBad; split <;> simp

@[simp] theorem State.countUnits_mem (s : State) (key unit base : Nat) (f : Fld) (bytes : Nat) :
    (s.countUnits key unit base f bytes).mem = s.mem := by
  unfold State.countUnits; dsimp only; split <;> simp

@[simp] theorem State.ddrTraffic_mem (s : State) (a : Nat) (write : Bool) (bytes : Nat) :
    (s.ddrTraffic a write bytes).mem = s.mem := by
  unfold State.ddrTraffic; split <;> simp

/-- A load keeps the form, whether or not it writes a corrected word back. -/
theorem State.load_wf (s : State) (a : Nat) (merge : Bool) (h : s.mem.wf = true) : (s.load a merge).2.mem.wf = true := by
  unfold State.load
  dsimp only
  split
  · simpa using h
  · split <;> simp [State.inFrame, Mem.put_wf _ _ _ _ _ h]
  · split
    · simpa using h
    · split <;> simpa using h

/-- A store keeps the form. -/
theorem State.store_wf (s : State) (a : Nat) (w : TWord) (h : s.mem.wf = true) : (s.store a w).mem.wf = true := by
  unfold State.store
  dsimp only
  split <;> simp [Mem.put_wf _ _ _ _ _ h]

theorem State.loads_wf (s : State) (a n : Nat) (h : s.mem.wf = true) : (s.loads a n).2.mem.wf = true := by
  induction n generalizing s a with
  | zero => exact h
  | succ n ih => exact ih _ _ (s.load_wf a false h)

theorem State.stores_wf (s : State) (a : Nat) (ws : List TWord) (h : s.mem.wf = true) : (s.stores a ws).mem.wf = true := by
  induction ws generalizing s a with
  | nil => exact h
  | cons w ws ih => exact ih _ _ (s.store_wf a w h)

theorem State.loadBytes_wf (s : State) (a n : Nat) (h : s.mem.wf = true) : (s.loadBytes a n).2.mem.wf = true :=
  s.loads_wf _ _ h

theorem State.storeBytesGo_wf (s : State) (fuel a : Nat) (bs : List Byte) (h : s.mem.wf = true) :
    (s.storeBytesGo fuel a bs).mem.wf = true := by
  induction fuel generalizing s a bs with
  | zero => exact h
  | succ n ih =>
    cases bs with
    | nil => exact h
    | cons b bs =>
      rw [State.storeBytesGo]
      · apply ih
        split
        · exact State.store_wf _ _ _ h
        · exact State.store_wf _ _ _ (State.load_wf _ _ _ h)
      · rintro ⟨⟩

/-- Storing bytes keeps the form. -/
theorem State.storeBytes_wf (s : State) (a : Nat) (bs : List Byte) (h : s.mem.wf = true) :
    (s.storeBytes a bs).mem.wf = true := s.storeBytesGo_wf _ _ _ h

/-! A context's partition put away and put back -/

theorem cwf_filter {α : Type} [DecidableEq α] {d : Nat → α} (p : Nat × α → Bool) (c : Cells α) (h : cwf d c = true) :
    cwf d (c.filter p) = true := by
  induction c with
  | nil => exact h
  | cons q c ih =>
    obtain ⟨k, v⟩ := q
    obtain ⟨hv, hf, hc⟩ := cwf_cons.1 h
    rw [List.filter_cons]
    split
    · exact cwf_cons.2 ⟨hv, fun q hq => hf q (List.mem_filter.1 hq).1, ih hc⟩
    · exact ih hc

theorem cwf_cellsPut {α : Type} [DecidableEq α] {d : Nat → α} (new c : Cells α) (h : cwf d c = true) :
    cwf d (cellsPut d c new) = true := by
  unfold cellsPut
  induction new generalizing c with
  | nil => exact h
  | cons p new ih => exact ih _ (cwf_cset _ _ h)

/-- Emptying a range keeps the form. -/
theorem State.wipe_wf (s : State) (lo hi : Nat) (h : s.mem.wf = true) : (s.wipe lo hi).mem.wf = true := by
  obtain ⟨h1, h2, h3⟩ := (Mem.wf_iff _).1 h
  exact (Mem.wf_iff _).2 ⟨cwf_filter _ _ h1, cwf_filter _ _ h2, h3⟩

theorem State.setCounters_mem (s : State) (d c : Nat) (l : List Nat) : (s.setCounters d c l).mem = s.mem := by
  unfold State.setCounters; exact foldl_mem _ _ _ fun s x => State.put_mem ..

/-- Reloading a partition keeps the form. -/
theorem State.loadPart_wf (s : State) (ctx d c : Nat) (h : s.mem.wf = true) : (s.loadPart ctx d c).mem.wf = true := by
  unfold State.loadPart
  dsimp only
  split
  · rw [State.setCounters_mem]; exact s.wipe_wf _ _ h
  · rw [State.setCounters_mem]
    obtain ⟨h1, h2, h3⟩ := (Mem.wf_iff _).1 (s.wipe_wf (scratchAddr d c 0) (scratchAddr d c 0 + s.partBytes ctx) h)
    exact (Mem.wf_iff _).2 ⟨cwf_cellsPut _ _ h1, cwf_cellsPut _ _ h2, h3⟩

/-- The memory that reset leaves has the form. -/
theorem State.reset_wf : State.reset.mem.wf = true := by decide

end Sys2Proof.Machine
end

