-- ==== Sys2Proof/Laws/Units.lean ====
section
/-! SUPPORT. What stands after a unit's own record is put: that record, and every other field as before. -/

namespace Sys2Proof.Machine

/-! setCore -/

@[simp] theorem State.core_setCore (s : State) (d c : Nat) (k : Core) : (s.setCore d c k).core d c = k := by
  simp [State.setCore, State.core]

theorem State.core_setCore_other (s : State) (d c : Nat) (k : Core) {d' c' : Nat} (h : coreKey d' c' ≠ coreKey d c) :
    (s.setCore d c k).core d' c' = s.core d' c' := cget_cset_other _ _ _ h

@[simp] theorem State.setCore_pins (s : State) (d c : Nat) (k : Core) : (s.setCore d c k).pins = s.pins := Eq.trans rfl rfl
@[simp] theorem State.setCore_regs (s : State) (d c : Nat) (k : Core) : (s.setCore d c k).regs = s.regs := Eq.trans rfl rfl
@[simp] theorem State.setCore_eff (s : State) (d c : Nat) (k : Core) : (s.setCore d c k).eff = s.eff := Eq.trans rfl rfl
@[simp] theorem State.setCore_strokes (s : State) (d c : Nat) (k : Core) : (s.setCore d c k).strokes = s.strokes := Eq.trans rfl rfl
@[simp] theorem State.setCore_arm (s : State) (d c : Nat) (k : Core) : (s.setCore d c k).arm = s.arm := Eq.trans rfl rfl
@[simp] theorem State.setCore_units (s : State) (d c : Nat) (k : Core) : (s.setCore d c k).units = s.units := Eq.trans rfl rfl
@[simp] theorem State.setCore_outcomes (s : State) (d c : Nat) (k : Core) : (s.setCore d c k).outcomes = s.outcomes := Eq.trans rfl rfl
@[simp] theorem State.setCore_groups (s : State) (d c : Nat) (k : Core) : (s.setCore d c k).groups = s.groups := Eq.trans rfl rfl
@[simp] theorem State.setCore_boot (s : State) (d c : Nat) (k : Core) : (s.setCore d c k).boot = s.boot := Eq.trans rfl rfl
@[simp] theorem State.setCore_faults (s : State) (d c : Nat) (k : Core) : (s.setCore d c k).faults = s.faults := Eq.trans rfl rfl
@[simp] theorem State.setCore_ddr (s : State) (d c : Nat) (k : Core) : (s.setCore d c k).ddr = s.ddr := Eq.trans rfl rfl
@[simp] theorem State.setCore_mem (s : State) (d c : Nat) (k : Core) : (s.setCore d c k).mem = s.mem := Eq.trans rfl rfl
@[simp] theorem State.setCore_segs (s : State) (d c : Nat) (k : Core) : (s.setCore d c k).segs = s.segs := Eq.trans rfl rfl
@[simp] theorem State.setCore_epochs (s : State) (d c : Nat) (k : Core) : (s.setCore d c k).epochs = s.epochs := Eq.trans rfl rfl
@[simp] theorem State.setCore_hostEpochs (s : State) (d c : Nat) (k : Core) : (s.setCore d c k).hostEpochs = s.hostEpochs := Eq.trans rfl rfl
@[simp] theorem State.setCore_links (s : State) (d c : Nat) (k : Core) : (s.setCore d c k).links = s.links := Eq.trans rfl rfl
@[simp] theorem State.setCore_routes (s : State) (d c : Nat) (k : Core) : (s.setCore d c k).routes = s.routes := Eq.trans rfl rfl
@[simp] theorem State.setCore_windows (s : State) (d c : Nat) (k : Core) : (s.setCore d c k).windows = s.windows := Eq.trans rfl rfl
@[simp] theorem State.setCore_bulk (s : State) (d c : Nat) (k : Core) : (s.setCore d c k).bulk = s.bulk := Eq.trans rfl rfl
@[simp] theorem State.setCore_signals (s : State) (d c : Nat) (k : Core) : (s.setCore d c k).signals = s.signals := Eq.trans rfl rfl
@[simp] theorem State.setCore_engines (s : State) (d c : Nat) (k : Core) : (s.setCore d c k).engines = s.engines := Eq.trans rfl rfl
@[simp] theorem State.setCore_maps (s : State) (d c : Nat) (k : Core) : (s.setCore d c k).maps = s.maps := Eq.trans rfl rfl
@[simp] theorem State.setCore_mapUse (s : State) (d c : Nat) (k : Core) : (s.setCore d c k).mapUse = s.mapUse := Eq.trans rfl rfl
@[simp] theorem State.setCore_moving (s : State) (d c : Nat) (k : Core) : (s.setCore d c k).moving = s.moving := Eq.trans rfl rfl
@[simp] theorem State.setCore_toRelease (s : State) (d c : Nat) (k : Core) : (s.setCore d c k).toRelease = s.toRelease := Eq.trans rfl rfl
@[simp] theorem State.setCore_flash (s : State) (d c : Nat) (k : Core) : (s.setCore d c k).flash = s.flash := Eq.trans rfl rfl
@[simp] theorem State.setCore_reqs (s : State) (d c : Nat) (k : Core) : (s.setCore d c k).reqs = s.reqs := Eq.trans rfl rfl
@[simp] theorem State.setCore_prefixes (s : State) (d c : Nat) (k : Core) : (s.setCore d c k).prefixes = s.prefixes := Eq.trans rfl rfl
@[simp] theorem State.setCore_uses (s : State) (d c : Nat) (k : Core) : (s.setCore d c k).uses = s.uses := Eq.trans rfl rfl
@[simp] theorem State.setCore_models (s : State) (d c : Nat) (k : Core) : (s.setCore d c k).models = s.models := Eq.trans rfl rfl
@[simp] theorem State.setCore_loading (s : State) (d c : Nat) (k : Core) : (s.setCore d c k).loading = s.loading := Eq.trans rfl rfl
@[simp] theorem State.setCore_learns (s : State) (d c : Nat) (k : Core) : (s.setCore d c k).learns = s.learns := Eq.trans rfl rfl
@[simp] theorem State.setCore_loops (s : State) (d c : Nat) (k : Core) : (s.setCore d c k).loops = s.loops := Eq.trans rfl rfl
@[simp] theorem State.setCore_ctxs (s : State) (d c : Nat) (k : Core) : (s.setCore d c k).ctxs = s.ctxs := Eq.trans rfl rfl
@[simp] theorem State.setCore_saves (s : State) (d c : Nat) (k : Core) : (s.setCore d c k).saves = s.saves := Eq.trans rfl rfl
@[simp] theorem State.setCore_taken (s : State) (d c : Nat) (k : Core) : (s.setCore d c k).taken = s.taken := Eq.trans rfl rfl
@[simp] theorem State.setCore_um (s : State) (d c : Nat) (k : Core) : (s.setCore d c k).um = s.um := Eq.trans rfl rfl
@[simp] theorem State.setCore_parts (s : State) (d c : Nat) (k : Core) : (s.setCore d c k).parts = s.parts := Eq.trans rfl rfl
@[simp] theorem State.setCore_answer (s : State) (d c : Nat) (k : Core) : (s.setCore d c k).answer = s.answer := Eq.trans rfl rfl
@[simp] theorem State.setCore_free (s : State) (d c : Nat) (k : Core) : (s.setCore d c k).free = s.free := Eq.trans rfl rfl
@[simp] theorem State.setCore_pending (s : State) (d c : Nat) (k : Core) : (s.setCore d c k).pending = s.pending := Eq.trans rfl rfl
@[simp] theorem State.setCore_reg (s : State) (d c : Nat) (k : Core) (a : Nat) : (s.setCore d c k).reg a = s.reg a := Eq.trans rfl rfl
@[simp] theorem State.setCore_get (s : State) (d c : Nat) (k : Core) (b : Nat) (f : Fld) (j : Nat) :
    (s.setCore d c k).get b f j = s.get b f j := Eq.trans rfl rfl

/-! setLink -/

@[simp] theorem State.link_setLink (s : State) (l : Nat) (k : Link) : (s.setLink l k).link l = k := by
  simp [State.setLink, State.link]

theorem State.link_setLink_other (s : State) (l : Nat) (k : Link) {l' : Nat} (h : l' ≠ l) :
    (s.setLink l k).link l' = s.link l' := cget_cset_other _ _ _ h

@[simp] theorem State.setLink_pins (s : State) (l : Nat) (k : Link) : (s.setLink l k).pins = s.pins := Eq.trans rfl rfl
@[simp] theorem State.setLink_regs (s : State) (l : Nat) (k : Link) : (s.setLink l k).regs = s.regs := Eq.trans rfl rfl
@[simp] theorem State.setLink_eff (s : State) (l : Nat) (k : Link) : (s.setLink l k).eff = s.eff := Eq.trans rfl rfl
@[simp] theorem State.setLink_strokes (s : State) (l : Nat) (k : Link) : (s.setLink l k).strokes = s.strokes := Eq.trans rfl rfl
@[simp] theorem State.setLink_arm (s : State) (l : Nat) (k : Link) : (s.setLink l k).arm = s.arm := Eq.trans rfl rfl
@[simp] theorem State.setLink_units (s : State) (l : Nat) (k : Link) : (s.setLink l k).units = s.units := Eq.trans rfl rfl
@[simp] theorem State.setLink_outcomes (s : State) (l : Nat) (k : Link) : (s.setLink l k).outcomes = s.outcomes := Eq.trans rfl rfl
@[simp] theorem State.setLink_groups (s : State) (l : Nat) (k : Link) : (s.setLink l k).groups = s.groups := Eq.trans rfl rfl
@[simp] theorem State.setLink_boot (s : State) (l : Nat) (k : Link) : (s.setLink l k).boot = s.boot := Eq.trans rfl rfl
@[simp] theorem State.setLink_faults (s : State) (l : Nat) (k : Link) : (s.setLink l k).faults = s.faults := Eq.trans rfl rfl
@[simp] theorem State.setLink_ddr (s : State) (l : Nat) (k : Link) : (s.setLink l k).ddr = s.ddr := Eq.trans rfl rfl
@[simp] theorem State.setLink_mem (s : State) (l : Nat) (k : Link) : (s.setLink l k).mem = s.mem := Eq.trans rfl rfl
@[simp] theorem State.setLink_segs (s : State) (l : Nat) (k : Link) : (s.setLink l k).segs = s.segs := Eq.trans rfl rfl
@[simp] theorem State.setLink_epochs (s : State) (l : Nat) (k : Link) : (s.setLink l k).epochs = s.epochs := Eq.trans rfl rfl
@[simp] theorem State.setLink_hostEpochs (s : State) (l : Nat) (k : Link) : (s.setLink l k).hostEpochs = s.hostEpochs := Eq.trans rfl rfl
@[simp] theorem State.setLink_routes (s : State) (l : Nat) (k : Link) : (s.setLink l k).routes = s.routes := Eq.trans rfl rfl
@[simp] theorem State.setLink_windows (s : State) (l : Nat) (k : Link) : (s.setLink l k).windows = s.windows := Eq.trans rfl rfl
@[simp] theorem State.setLink_bulk (s : State) (l : Nat) (k : Link) : (s.setLink l k).bulk = s.bulk := Eq.trans rfl rfl
@[simp] theorem State.setLink_cores (s : State) (l : Nat) (k : Link) : (s.setLink l k).cores = s.cores := Eq.trans rfl rfl
@[simp] theorem State.setLink_signals (s : State) (l : Nat) (k : Link) : (s.setLink l k).signals = s.signals := Eq.trans rfl rfl
@[simp] theorem State.setLink_engines (s : State) (l : Nat) (k : Link) : (s.setLink l k).engines = s.engines := Eq.trans rfl rfl
@[simp] theorem State.setLink_maps (s : State) (l : Nat) (k : Link) : (s.setLink l k).maps = s.maps := Eq.trans rfl rfl
@[simp] theorem State.setLink_mapUse (s : State) (l : Nat) (k : Link) : (s.setLink l k).mapUse = s.mapUse := Eq.trans rfl rfl
@[simp] theorem State.setLink_moving (s : State) (l : Nat) (k : Link) : (s.setLink l k).moving = s.moving := Eq.trans rfl rfl
@[simp] theorem State.setLink_toRelease (s : State) (l : Nat) (k : Link) : (s.setLink l k).toRelease = s.toRelease := Eq.trans rfl rfl
@[simp] theorem State.setLink_flash (s : State) (l : Nat) (k : Link) : (s.setLink l k).flash = s.flash := Eq.trans rfl rfl
@[simp] theorem State.setLink_reqs (s : State) (l : Nat) (k : Link) : (s.setLink l k).reqs = s.reqs := Eq.trans rfl rfl
@[simp] theorem State.setLink_prefixes (s : State) (l : Nat) (k : Link) : (s.setLink l k).prefixes = s.prefixes := Eq.trans rfl rfl
@[simp] theorem State.setLink_uses (s : State) (l : Nat) (k : Link) : (s.setLink l k).uses = s.uses := Eq.trans rfl rfl
@[simp] theorem State.setLink_models (s : State) (l : Nat) (k : Link) : (s.setLink l k).models = s.models := Eq.trans rfl rfl
@[simp] theorem State.setLink_loading (s : State) (l : Nat) (k : Link) : (s.setLink l k).loading = s.loading := Eq.trans rfl rfl
@[simp] theorem State.setLink_learns (s : State) (l : Nat) (k : Link) : (s.setLink l k).learns = s.learns := Eq.trans rfl rfl
@[simp] theorem State.setLink_loops (s : State) (l : Nat) (k : Link) : (s.setLink l k).loops = s.loops := Eq.trans rfl rfl
@[simp] theorem State.setLink_ctxs (s : State) (l : Nat) (k : Link) : (s.setLink l k).ctxs = s.ctxs := Eq.trans rfl rfl
@[simp] theorem State.setLink_saves (s : State) (l : Nat) (k : Link) : (s.setLink l k).saves = s.saves := Eq.trans rfl rfl
@[simp] theorem State.setLink_taken (s : State) (l : Nat) (k : Link) : (s.setLink l k).taken = s.taken := Eq.trans rfl rfl
@[simp] theorem State.setLink_um (s : State) (l : Nat) (k : Link) : (s.setLink l k).um = s.um := Eq.trans rfl rfl
@[simp] theorem State.setLink_parts (s : State) (l : Nat) (k : Link) : (s.setLink l k).parts = s.parts := Eq.trans rfl rfl
@[simp] theorem State.setLink_answer (s : State) (l : Nat) (k : Link) : (s.setLink l k).answer = s.answer := Eq.trans rfl rfl
@[simp] theorem State.setLink_free (s : State) (l : Nat) (k : Link) : (s.setLink l k).free = s.free := Eq.trans rfl rfl
@[simp] theorem State.setLink_pending (s : State) (l : Nat) (k : Link) : (s.setLink l k).pending = s.pending := Eq.trans rfl rfl
@[simp] theorem State.setLink_reg (s : State) (l : Nat) (k : Link) (a : Nat) : (s.setLink l k).reg a = s.reg a := Eq.trans rfl rfl
@[simp] theorem State.setLink_get (s : State) (l : Nat) (k : Link) (b : Nat) (f : Fld) (j : Nat) :
    (s.setLink l k).get b f j = s.get b f j := Eq.trans rfl rfl

/-! setEng -/

@[simp] theorem State.eng_setEng (s : State) (d e : Nat) (x : Eng) : (s.setEng d e x).eng d e = x := by
  simp [State.setEng, State.eng]

theorem State.eng_setEng_other (s : State) (d e : Nat) (x : Eng) {d' e' : Nat} (h : 8 * d' + e' ≠ 8 * d + e) :
    (s.setEng d e x).eng d' e' = s.eng d' e' := cget_cset_other _ _ _ h

@[simp] theorem State.setEng_pins (s : State) (d e : Nat) (x : Eng) : (s.setEng d e x).pins = s.pins := Eq.trans rfl rfl
@[simp] theorem State.setEng_regs (s : State) (d e : Nat) (x : Eng) : (s.setEng d e x).regs = s.regs := Eq.trans rfl rfl
@[simp] theorem State.setEng_eff (s : State) (d e : Nat) (x : Eng) : (s.setEng d e x).eff = s.eff := Eq.trans rfl rfl
@[simp] theorem State.setEng_strokes (s : State) (d e : Nat) (x : Eng) : (s.setEng d e x).strokes = s.strokes := Eq.trans rfl rfl
@[simp] theorem State.setEng_arm (s : State) (d e : Nat) (x : Eng) : (s.setEng d e x).arm = s.arm := Eq.trans rfl rfl
@[simp] theorem State.setEng_units (s : State) (d e : Nat) (x : Eng) : (s.setEng d e x).units = s.units := Eq.trans rfl rfl
@[simp] theorem State.setEng_outcomes (s : State) (d e : Nat) (x : Eng) : (s.setEng d e x).outcomes = s.outcomes := Eq.trans rfl rfl
@[simp] theorem State.setEng_groups (s : State) (d e : Nat) (x : Eng) : (s.setEng d e x).groups = s.groups := Eq.trans rfl rfl
@[simp] theorem State.setEng_boot (s : State) (d e : Nat) (x : Eng) : (s.setEng d e x).boot = s.boot := Eq.trans rfl rfl
@[simp] theorem State.setEng_faults (s : State) (d e : Nat) (x : Eng) : (s.setEng d e x).faults = s.faults := Eq.trans rfl rfl
@[simp] theorem State.setEng_ddr (s : State) (d e : Nat) (x : Eng) : (s.setEng d e x).ddr = s.ddr := Eq.trans rfl rfl
@[simp] theorem State.setEng_mem (s : State) (d e : Nat) (x : Eng) : (s.setEng d e x).mem = s.mem := Eq.trans rfl rfl
@[simp] theorem State.setEng_segs (s : State) (d e : Nat) (x : Eng) : (s.setEng d e x).segs = s.segs := Eq.trans rfl rfl
@[simp] theorem State.setEng_epochs (s : State) (d e : Nat) (x : Eng) : (s.setEng d e x).epochs = s.epochs := Eq.trans rfl rfl
@[simp] theorem State.setEng_hostEpochs (s : State) (d e : Nat) (x : Eng) : (s.setEng d e x).hostEpochs = s.hostEpochs := Eq.trans rfl rfl
@[simp] theorem State.setEng_links (s : State) (d e : Nat) (x : Eng) : (s.setEng d e x).links = s.links := Eq.trans rfl rfl
@[simp] theorem State.setEng_routes (s : State) (d e : Nat) (x : Eng) : (s.setEng d e x).routes = s.routes := Eq.trans rfl rfl
@[simp] theorem State.setEng_windows (s : State) (d e : Nat) (x : Eng) : (s.setEng d e x).windows = s.windows := Eq.trans rfl rfl
@[simp] theorem State.setEng_bulk (s : State) (d e : Nat) (x : Eng) : (s.setEng d e x).bulk = s.bulk := Eq.trans rfl rfl
@[simp] theorem State.setEng_cores (s : State) (d e : Nat) (x : Eng) : (s.setEng d e x).cores = s.cores := Eq.trans rfl rfl
@[simp] theorem State.setEng_signals (s : State) (d e : Nat) (x : Eng) : (s.setEng d e x).signals = s.signals := Eq.trans rfl rfl
@[simp] theorem State.setEng_maps (s : State) (d e : Nat) (x : Eng) : (s.setEng d e x).maps = s.maps := Eq.trans rfl rfl
@[simp] theorem State.setEng_mapUse (s : State) (d e : Nat) (x : Eng) : (s.setEng d e x).mapUse = s.mapUse := Eq.trans rfl rfl
@[simp] theorem State.setEng_moving (s : State) (d e : Nat) (x : Eng) : (s.setEng d e x).moving = s.moving := Eq.trans rfl rfl
@[simp] theorem State.setEng_toRelease (s : State) (d e : Nat) (x : Eng) : (s.setEng d e x).toRelease = s.toRelease := Eq.trans rfl rfl
@[simp] theorem State.setEng_flash (s : State) (d e : Nat) (x : Eng) : (s.setEng d e x).flash = s.flash := Eq.trans rfl rfl
@[simp] theorem State.setEng_reqs (s : State) (d e : Nat) (x : Eng) : (s.setEng d e x).reqs = s.reqs := Eq.trans rfl rfl
@[simp] theorem State.setEng_prefixes (s : State) (d e : Nat) (x : Eng) : (s.setEng d e x).prefixes = s.prefixes := Eq.trans rfl rfl
@[simp] theorem State.setEng_uses (s : State) (d e : Nat) (x : Eng) : (s.setEng d e x).uses = s.uses := Eq.trans rfl rfl
@[simp] theorem State.setEng_models (s : State) (d e : Nat) (x : Eng) : (s.setEng d e x).models = s.models := Eq.trans rfl rfl
@[simp] theorem State.setEng_loading (s : State) (d e : Nat) (x : Eng) : (s.setEng d e x).loading = s.loading := Eq.trans rfl rfl
@[simp] theorem State.setEng_learns (s : State) (d e : Nat) (x : Eng) : (s.setEng d e x).learns = s.learns := Eq.trans rfl rfl
@[simp] theorem State.setEng_loops (s : State) (d e : Nat) (x : Eng) : (s.setEng d e x).loops = s.loops := Eq.trans rfl rfl
@[simp] theorem State.setEng_ctxs (s : State) (d e : Nat) (x : Eng) : (s.setEng d e x).ctxs = s.ctxs := Eq.trans rfl rfl
@[simp] theorem State.setEng_saves (s : State) (d e : Nat) (x : Eng) : (s.setEng d e x).saves = s.saves := Eq.trans rfl rfl
@[simp] theorem State.setEng_taken (s : State) (d e : Nat) (x : Eng) : (s.setEng d e x).taken = s.taken := Eq.trans rfl rfl
@[simp] theorem State.setEng_um (s : State) (d e : Nat) (x : Eng) : (s.setEng d e x).um = s.um := Eq.trans rfl rfl
@[simp] theorem State.setEng_parts (s : State) (d e : Nat) (x : Eng) : (s.setEng d e x).parts = s.parts := Eq.trans rfl rfl
@[simp] theorem State.setEng_answer (s : State) (d e : Nat) (x : Eng) : (s.setEng d e x).answer = s.answer := Eq.trans rfl rfl
@[simp] theorem State.setEng_free (s : State) (d e : Nat) (x : Eng) : (s.setEng d e x).free = s.free := Eq.trans rfl rfl
@[simp] theorem State.setEng_pending (s : State) (d e : Nat) (x : Eng) : (s.setEng d e x).pending = s.pending := Eq.trans rfl rfl
@[simp] theorem State.setEng_reg (s : State) (d e : Nat) (x : Eng) (a : Nat) : (s.setEng d e x).reg a = s.reg a := Eq.trans rfl rfl
@[simp] theorem State.setEng_get (s : State) (d e : Nat) (x : Eng) (b : Nat) (f : Fld) (j : Nat) :
    (s.setEng d e x).get b f j = s.get b f j := Eq.trans rfl rfl

/-! setLearn -/

@[simp] theorem State.learn_setLearn (s : State) (c : Nat) (x : Learn) : (s.setLearn c x).learn c = x := by
  simp [State.setLearn, State.learn]

theorem State.learn_setLearn_other (s : State) (c : Nat) (x : Learn) {c' : Nat} (h : c' ≠ c) :
    (s.setLearn c x).learn c' = s.learn c' := cget_cset_other _ _ _ h

@[simp] theorem State.setLearn_pins (s : State) (c : Nat) (x : Learn) : (s.setLearn c x).pins = s.pins := Eq.trans rfl rfl
@[simp] theorem State.setLearn_regs (s : State) (c : Nat) (x : Learn) : (s.setLearn c x).regs = s.regs := Eq.trans rfl rfl
@[simp] theorem State.setLearn_eff (s : State) (c : Nat) (x : Learn) : (s.setLearn c x).eff = s.eff := Eq.trans rfl rfl
@[simp] theorem State.setLearn_strokes (s : State) (c : Nat) (x : Learn) : (s.setLearn c x).strokes = s.strokes := Eq.trans rfl rfl
@[simp] theorem State.setLearn_arm (s : State) (c : Nat) (x : Learn) : (s.setLearn c x).arm = s.arm := Eq.trans rfl rfl
@[simp] theorem State.setLearn_units (s : State) (c : Nat) (x : Learn) : (s.setLearn c x).units = s.units := Eq.trans rfl rfl
@[simp] theorem State.setLearn_outcomes (s : State) (c : Nat) (x : Learn) : (s.setLearn c x).outcomes = s.outcomes := Eq.trans rfl rfl
@[simp] theorem State.setLearn_groups (s : State) (c : Nat) (x : Learn) : (s.setLearn c x).groups = s.groups := Eq.trans rfl rfl
@[simp] theorem State.setLearn_boot (s : State) (c : Nat) (x : Learn) : (s.setLearn c x).boot = s.boot := Eq.trans rfl rfl
@[simp] theorem State.setLearn_faults (s : State) (c : Nat) (x : Learn) : (s.setLearn c x).faults = s.faults := Eq.trans rfl rfl
@[simp] theorem State.setLearn_ddr (s : State) (c : Nat) (x : Learn) : (s.setLearn c x).ddr = s.ddr := Eq.trans rfl rfl
@[simp] theorem State.setLearn_mem (s : State) (c : Nat) (x : Learn) : (s.setLearn c x).mem = s.mem := Eq.trans rfl rfl
@[simp] theorem State.setLearn_segs (s : State) (c : Nat) (x : Learn) : (s.setLearn c x).segs = s.segs := Eq.trans rfl rfl
@[simp] theorem State.setLearn_epochs (s : State) (c : Nat) (x : Learn) : (s.setLearn c x).epochs = s.epochs := Eq.trans rfl rfl
@[simp] theorem State.setLearn_hostEpochs (s : State) (c : Nat) (x : Learn) : (s.setLearn c x).hostEpochs = s.hostEpochs := Eq.trans rfl rfl
@[simp] theorem State.setLearn_links (s : State) (c : Nat) (x : Learn) : (s.setLearn c x).links = s.links := Eq.trans rfl rfl
@[simp] theorem State.setLearn_routes (s : State) (c : Nat) (x : Learn) : (s.setLearn c x).routes = s.routes := Eq.trans rfl rfl
@[simp] theorem State.setLearn_windows (s : State) (c : Nat) (x : Learn) : (s.setLearn c x).windows = s.windows := Eq.trans rfl rfl
@[simp] theorem State.setLearn_bulk (s : State) (c : Nat) (x : Learn) : (s.setLearn c x).bulk = s.bulk := Eq.trans rfl rfl
@[simp] theorem State.setLearn_cores (s : State) (c : Nat) (x : Learn) : (s.setLearn c x).cores = s.cores := Eq.trans rfl rfl
@[simp] theorem State.setLearn_signals (s : State) (c : Nat) (x : Learn) : (s.setLearn c x).signals = s.signals := Eq.trans rfl rfl
@[simp] theorem State.setLearn_engines (s : State) (c : Nat) (x : Learn) : (s.setLearn c x).engines = s.engines := Eq.trans rfl rfl
@[simp] theorem State.setLearn_maps (s : State) (c : Nat) (x : Learn) : (s.setLearn c x).maps = s.maps := Eq.trans rfl rfl
@[simp] theorem State.setLearn_mapUse (s : State) (c : Nat) (x : Learn) : (s.setLearn c x).mapUse = s.mapUse := Eq.trans rfl rfl
@[simp] theorem State.setLearn_moving (s : State) (c : Nat) (x : Learn) : (s.setLearn c x).moving = s.moving := Eq.trans rfl rfl
@[simp] theorem State.setLearn_toRelease (s : State) (c : Nat) (x : Learn) : (s.setLearn c x).toRelease = s.toRelease := Eq.trans rfl rfl
@[simp] theorem State.setLearn_flash (s : State) (c : Nat) (x : Learn) : (s.setLearn c x).flash = s.flash := Eq.trans rfl rfl
@[simp] theorem State.setLearn_reqs (s : State) (c : Nat) (x : Learn) : (s.setLearn c x).reqs = s.reqs := Eq.trans rfl rfl
@[simp] theorem State.setLearn_prefixes (s : State) (c : Nat) (x : Learn) : (s.setLearn c x).prefixes = s.prefixes := Eq.trans rfl rfl
@[simp] theorem State.setLearn_uses (s : State) (c : Nat) (x : Learn) : (s.setLearn c x).uses = s.uses := Eq.trans rfl rfl
@[simp] theorem State.setLearn_models (s : State) (c : Nat) (x : Learn) : (s.setLearn c x).models = s.models := Eq.trans rfl rfl
@[simp] theorem State.setLearn_loading (s : State) (c : Nat) (x : Learn) : (s.setLearn c x).loading = s.loading := Eq.trans rfl rfl
@[simp] theorem State.setLearn_loops (s : State) (c : Nat) (x : Learn) : (s.setLearn c x).loops = s.loops := Eq.trans rfl rfl
@[simp] theorem State.setLearn_ctxs (s : State) (c : Nat) (x : Learn) : (s.setLearn c x).ctxs = s.ctxs := Eq.trans rfl rfl
@[simp] theorem State.setLearn_saves (s : State) (c : Nat) (x : Learn) : (s.setLearn c x).saves = s.saves := Eq.trans rfl rfl
@[simp] theorem State.setLearn_taken (s : State) (c : Nat) (x : Learn) : (s.setLearn c x).taken = s.taken := Eq.trans rfl rfl
@[simp] theorem State.setLearn_um (s : State) (c : Nat) (x : Learn) : (s.setLearn c x).um = s.um := Eq.trans rfl rfl
@[simp] theorem State.setLearn_parts (s : State) (c : Nat) (x : Learn) : (s.setLearn c x).parts = s.parts := Eq.trans rfl rfl
@[simp] theorem State.setLearn_answer (s : State) (c : Nat) (x : Learn) : (s.setLearn c x).answer = s.answer := Eq.trans rfl rfl
@[simp] theorem State.setLearn_free (s : State) (c : Nat) (x : Learn) : (s.setLearn c x).free = s.free := Eq.trans rfl rfl
@[simp] theorem State.setLearn_pending (s : State) (c : Nat) (x : Learn) : (s.setLearn c x).pending = s.pending := Eq.trans rfl rfl
@[simp] theorem State.setLearn_reg (s : State) (c : Nat) (x : Learn) (a : Nat) : (s.setLearn c x).reg a = s.reg a := Eq.trans rfl rfl
@[simp] theorem State.setLearn_get (s : State) (c : Nat) (x : Learn) (b : Nat) (f : Fld) (j : Nat) :
    (s.setLearn c x).get b f j = s.get b f j := Eq.trans rfl rfl

/-! setLoop -/

@[simp] theorem State.loop_setLoop (s : State) (c : Nat) (x : Loop) : (s.setLoop c x).loop c = x := by
  simp [State.setLoop, State.loop]

theorem State.loop_setLoop_other (s : State) (c : Nat) (x : Loop) {c' : Nat} (h : c' ≠ c) :
    (s.setLoop c x).loop c' = s.loop c' := cget_cset_other _ _ _ h

@[simp] theorem State.setLoop_pins (s : State) (c : Nat) (x : Loop) : (s.setLoop c x).pins = s.pins := Eq.trans rfl rfl
@[simp] theorem State.setLoop_regs (s : State) (c : Nat) (x : Loop) : (s.setLoop c x).regs = s.regs := Eq.trans rfl rfl
@[simp] theorem State.setLoop_eff (s : State) (c : Nat) (x : Loop) : (s.setLoop c x).eff = s.eff := Eq.trans rfl rfl
@[simp] theorem State.setLoop_strokes (s : State) (c : Nat) (x : Loop) : (s.setLoop c x).strokes = s.strokes := Eq.trans rfl rfl
@[simp] theorem State.setLoop_arm (s : State) (c : Nat) (x : Loop) : (s.setLoop c x).arm = s.arm := Eq.trans rfl rfl
@[simp] theorem State.setLoop_units (s : State) (c : Nat) (x : Loop) : (s.setLoop c x).units = s.units := Eq.trans rfl rfl
@[simp] theorem State.setLoop_outcomes (s : State) (c : Nat) (x : Loop) : (s.setLoop c x).outcomes = s.outcomes := Eq.trans rfl rfl
@[simp] theorem State.setLoop_groups (s : State) (c : Nat) (x : Loop) : (s.setLoop c x).groups = s.groups := Eq.trans rfl rfl
@[simp] theorem State.setLoop_boot (s : State) (c : Nat) (x : Loop) : (s.setLoop c x).boot = s.boot := Eq.trans rfl rfl
@[simp] theorem State.setLoop_faults (s : State) (c : Nat) (x : Loop) : (s.setLoop c x).faults = s.faults := Eq.trans rfl rfl
@[simp] theorem State.setLoop_ddr (s : State) (c : Nat) (x : Loop) : (s.setLoop c x).ddr = s.ddr := Eq.trans rfl rfl
@[simp] theorem State.setLoop_mem (s : State) (c : Nat) (x : Loop) : (s.setLoop c x).mem = s.mem := Eq.trans rfl rfl
@[simp] theorem State.setLoop_segs (s : State) (c : Nat) (x : Loop) : (s.setLoop c x).segs = s.segs := Eq.trans rfl rfl
@[simp] theorem State.setLoop_epochs (s : State) (c : Nat) (x : Loop) : (s.setLoop c x).epochs = s.epochs := Eq.trans rfl rfl
@[simp] theorem State.setLoop_hostEpochs (s : State) (c : Nat) (x : Loop) : (s.setLoop c x).hostEpochs = s.hostEpochs := Eq.trans rfl rfl
@[simp] theorem State.setLoop_links (s : State) (c : Nat) (x : Loop) : (s.setLoop c x).links = s.links := Eq.trans rfl rfl
@[simp] theorem State.setLoop_routes (s : State) (c : Nat) (x : Loop) : (s.setLoop c x).routes = s.routes := Eq.trans rfl rfl
@[simp] theorem State.setLoop_windows (s : State) (c : Nat) (x : Loop) : (s.setLoop c x).windows = s.windows := Eq.trans rfl rfl
@[simp] theorem State.setLoop_bulk (s : State) (c : Nat) (x : Loop) : (s.setLoop c x).bulk = s.bulk := Eq.trans rfl rfl
@[simp] theorem State.setLoop_cores (s : State) (c : Nat) (x : Loop) : (s.setLoop c x).cores = s.cores := Eq.trans rfl rfl
@[simp] theorem State.setLoop_signals (s : State) (c : Nat) (x : Loop) : (s.setLoop c x).signals = s.signals := Eq.trans rfl rfl
@[simp] theorem State.setLoop_engines (s : State) (c : Nat) (x : Loop) : (s.setLoop c x).engines = s.engines := Eq.trans rfl rfl
@[simp] theorem State.setLoop_maps (s : State) (c : Nat) (x : Loop) : (s.setLoop c x).maps = s.maps := Eq.trans rfl rfl
@[simp] theorem State.setLoop_mapUse (s : State) (c : Nat) (x : Loop) : (s.setLoop c x).mapUse = s.mapUse := Eq.trans rfl rfl
@[simp] theorem State.setLoop_moving (s : State) (c : Nat) (x : Loop) : (s.setLoop c x).moving = s.moving := Eq.trans rfl rfl
@[simp] theorem State.setLoop_toRelease (s : State) (c : Nat) (x : Loop) : (s.setLoop c x).toRelease = s.toRelease := Eq.trans rfl rfl
@[simp] theorem State.setLoop_flash (s : State) (c : Nat) (x : Loop) : (s.setLoop c x).flash = s.flash := Eq.trans rfl rfl
@[simp] theorem State.setLoop_reqs (s : State) (c : Nat) (x : Loop) : (s.setLoop c x).reqs = s.reqs := Eq.trans rfl rfl
@[simp] theorem State.setLoop_prefixes (s : State) (c : Nat) (x : Loop) : (s.setLoop c x).prefixes = s.prefixes := Eq.trans rfl rfl
@[simp] theorem State.setLoop_uses (s : State) (c : Nat) (x : Loop) : (s.setLoop c x).uses = s.uses := Eq.trans rfl rfl
@[simp] theorem State.setLoop_models (s : State) (c : Nat) (x : Loop) : (s.setLoop c x).models = s.models := Eq.trans rfl rfl
@[simp] theorem State.setLoop_loading (s : State) (c : Nat) (x : Loop) : (s.setLoop c x).loading = s.loading := Eq.trans rfl rfl
@[simp] theorem State.setLoop_learns (s : State) (c : Nat) (x : Loop) : (s.setLoop c x).learns = s.learns := Eq.trans rfl rfl
@[simp] theorem State.setLoop_ctxs (s : State) (c : Nat) (x : Loop) : (s.setLoop c x).ctxs = s.ctxs := Eq.trans rfl rfl
@[simp] theorem State.setLoop_saves (s : State) (c : Nat) (x : Loop) : (s.setLoop c x).saves = s.saves := Eq.trans rfl rfl
@[simp] theorem State.setLoop_taken (s : State) (c : Nat) (x : Loop) : (s.setLoop c x).taken = s.taken := Eq.trans rfl rfl
@[simp] theorem State.setLoop_um (s : State) (c : Nat) (x : Loop) : (s.setLoop c x).um = s.um := Eq.trans rfl rfl
@[simp] theorem State.setLoop_parts (s : State) (c : Nat) (x : Loop) : (s.setLoop c x).parts = s.parts := Eq.trans rfl rfl
@[simp] theorem State.setLoop_answer (s : State) (c : Nat) (x : Loop) : (s.setLoop c x).answer = s.answer := Eq.trans rfl rfl
@[simp] theorem State.setLoop_free (s : State) (c : Nat) (x : Loop) : (s.setLoop c x).free = s.free := Eq.trans rfl rfl
@[simp] theorem State.setLoop_pending (s : State) (c : Nat) (x : Loop) : (s.setLoop c x).pending = s.pending := Eq.trans rfl rfl
@[simp] theorem State.setLoop_reg (s : State) (c : Nat) (x : Loop) (a : Nat) : (s.setLoop c x).reg a = s.reg a := Eq.trans rfl rfl
@[simp] theorem State.setLoop_get (s : State) (c : Nat) (x : Loop) (b : Nat) (f : Fld) (j : Nat) :
    (s.setLoop c x).get b f j = s.get b f j := Eq.trans rfl rfl

/-! setCtxRec -/

@[simp] theorem State.ctxRec_setCtxRec (s : State) (c : Nat) (x : CtxRec) : (s.setCtxRec c x).ctxRec c = x := by
  simp [State.setCtxRec, State.ctxRec]

theorem State.ctxRec_setCtxRec_other (s : State) (c : Nat) (x : CtxRec) {c' : Nat} (h : c' ≠ c) :
    (s.setCtxRec c x).ctxRec c' = s.ctxRec c' := cget_cset_other _ _ _ h

@[simp] theorem State.setCtxRec_pins (s : State) (c : Nat) (x : CtxRec) : (s.setCtxRec c x).pins = s.pins := Eq.trans rfl rfl
@[simp] theorem State.setCtxRec_regs (s : State) (c : Nat) (x : CtxRec) : (s.setCtxRec c x).regs = s.regs := Eq.trans rfl rfl
@[simp] theorem State.setCtxRec_eff (s : State) (c : Nat) (x : CtxRec) : (s.setCtxRec c x).eff = s.eff := Eq.trans rfl rfl
@[simp] theorem State.setCtxRec_strokes (s : State) (c : Nat) (x : CtxRec) : (s.setCtxRec c x).strokes = s.strokes := Eq.trans rfl rfl
@[simp] theorem State.setCtxRec_arm (s : State) (c : Nat) (x : CtxRec) : (s.setCtxRec c x).arm = s.arm := Eq.trans rfl rfl
@[simp] theorem State.setCtxRec_units (s : State) (c : Nat) (x : CtxRec) : (s.setCtxRec c x).units = s.units := Eq.trans rfl rfl
@[simp] theorem State.setCtxRec_outcomes (s : State) (c : Nat) (x : CtxRec) : (s.setCtxRec c x).outcomes = s.outcomes := Eq.trans rfl rfl
@[simp] theorem State.setCtxRec_groups (s : State) (c : Nat) (x : CtxRec) : (s.setCtxRec c x).groups = s.groups := Eq.trans rfl rfl
@[simp] theorem State.setCtxRec_boot (s : State) (c : Nat) (x : CtxRec) : (s.setCtxRec c x).boot = s.boot := Eq.trans rfl rfl
@[simp] theorem State.setCtxRec_faults (s : State) (c : Nat) (x : CtxRec) : (s.setCtxRec c x).faults = s.faults := Eq.trans rfl rfl
@[simp] theorem State.setCtxRec_ddr (s : State) (c : Nat) (x : CtxRec) : (s.setCtxRec c x).ddr = s.ddr := Eq.trans rfl rfl
@[simp] theorem State.setCtxRec_mem (s : State) (c : Nat) (x : CtxRec) : (s.setCtxRec c x).mem = s.mem := Eq.trans rfl rfl
@[simp] theorem State.setCtxRec_segs (s : State) (c : Nat) (x : CtxRec) : (s.setCtxRec c x).segs = s.segs := Eq.trans rfl rfl
@[simp] theorem State.setCtxRec_epochs (s : State) (c : Nat) (x : CtxRec) : (s.setCtxRec c x).epochs = s.epochs := Eq.trans rfl rfl
@[simp] theorem State.setCtxRec_hostEpochs (s : State) (c : Nat) (x : CtxRec) : (s.setCtxRec c x).hostEpochs = s.hostEpochs := Eq.trans rfl rfl
@[simp] theorem State.setCtxRec_links (s : State) (c : Nat) (x : CtxRec) : (s.setCtxRec c x).links = s.links := Eq.trans rfl rfl
@[simp] theorem State.setCtxRec_routes (s : State) (c : Nat) (x : CtxRec) : (s.setCtxRec c x).routes = s.routes := Eq.trans rfl rfl
@[simp] theorem State.setCtxRec_windows (s : State) (c : Nat) (x : CtxRec) : (s.setCtxRec c x).windows = s.windows := Eq.trans rfl rfl
@[simp] theorem State.setCtxRec_bulk (s : State) (c : Nat) (x : CtxRec) : (s.setCtxRec c x).bulk = s.bulk := Eq.trans rfl rfl
@[simp] theorem State.setCtxRec_cores (s : State) (c : Nat) (x : CtxRec) : (s.setCtxRec c x).cores = s.cores := Eq.trans rfl rfl
@[simp] theorem State.setCtxRec_signals (s : State) (c : Nat) (x : CtxRec) : (s.setCtxRec c x).signals = s.signals := Eq.trans rfl rfl
@[simp] theorem State.setCtxRec_engines (s : State) (c : Nat) (x : CtxRec) : (s.setCtxRec c x).engines = s.engines := Eq.trans rfl rfl
@[simp] theorem State.setCtxRec_maps (s : State) (c : Nat) (x : CtxRec) : (s.setCtxRec c x).maps = s.maps := Eq.trans rfl rfl
@[simp] theorem State.setCtxRec_mapUse (s : State) (c : Nat) (x : CtxRec) : (s.setCtxRec c x).mapUse = s.mapUse := Eq.trans rfl rfl
@[simp] theorem State.setCtxRec_moving (s : State) (c : Nat) (x : CtxRec) : (s.setCtxRec c x).moving = s.moving := Eq.trans rfl rfl
@[simp] theorem State.setCtxRec_toRelease (s : State) (c : Nat) (x : CtxRec) : (s.setCtxRec c x).toRelease = s.toRelease := Eq.trans rfl rfl
@[simp] theorem State.setCtxRec_flash (s : State) (c : Nat) (x : CtxRec) : (s.setCtxRec c x).flash = s.flash := Eq.trans rfl rfl
@[simp] theorem State.setCtxRec_reqs (s : State) (c : Nat) (x : CtxRec) : (s.setCtxRec c x).reqs = s.reqs := Eq.trans rfl rfl
@[simp] theorem State.setCtxRec_prefixes (s : State) (c : Nat) (x : CtxRec) : (s.setCtxRec c x).prefixes = s.prefixes := Eq.trans rfl rfl
@[simp] theorem State.setCtxRec_uses (s : State) (c : Nat) (x : CtxRec) : (s.setCtxRec c x).uses = s.uses := Eq.trans rfl rfl
@[simp] theorem State.setCtxRec_models (s : State) (c : Nat) (x : CtxRec) : (s.setCtxRec c x).models = s.models := Eq.trans rfl rfl
@[simp] theorem State.setCtxRec_loading (s : State) (c : Nat) (x : CtxRec) : (s.setCtxRec c x).loading = s.loading := Eq.trans rfl rfl
@[simp] theorem State.setCtxRec_learns (s : State) (c : Nat) (x : CtxRec) : (s.setCtxRec c x).learns = s.learns := Eq.trans rfl rfl
@[simp] theorem State.setCtxRec_loops (s : State) (c : Nat) (x : CtxRec) : (s.setCtxRec c x).loops = s.loops := Eq.trans rfl rfl
@[simp] theorem State.setCtxRec_saves (s : State) (c : Nat) (x : CtxRec) : (s.setCtxRec c x).saves = s.saves := Eq.trans rfl rfl
@[simp] theorem State.setCtxRec_taken (s : State) (c : Nat) (x : CtxRec) : (s.setCtxRec c x).taken = s.taken := Eq.trans rfl rfl
@[simp] theorem State.setCtxRec_um (s : State) (c : Nat) (x : CtxRec) : (s.setCtxRec c x).um = s.um := Eq.trans rfl rfl
@[simp] theorem State.setCtxRec_parts (s : State) (c : Nat) (x : CtxRec) : (s.setCtxRec c x).parts = s.parts := Eq.trans rfl rfl
@[simp] theorem State.setCtxRec_answer (s : State) (c : Nat) (x : CtxRec) : (s.setCtxRec c x).answer = s.answer := Eq.trans rfl rfl
@[simp] theorem State.setCtxRec_free (s : State) (c : Nat) (x : CtxRec) : (s.setCtxRec c x).free = s.free := Eq.trans rfl rfl
@[simp] theorem State.setCtxRec_pending (s : State) (c : Nat) (x : CtxRec) : (s.setCtxRec c x).pending = s.pending := Eq.trans rfl rfl
@[simp] theorem State.setCtxRec_reg (s : State) (c : Nat) (x : CtxRec) (a : Nat) : (s.setCtxRec c x).reg a = s.reg a := Eq.trans rfl rfl
@[simp] theorem State.setCtxRec_get (s : State) (c : Nat) (x : CtxRec) (b : Nat) (f : Fld) (j : Nat) :
    (s.setCtxRec c x).get b f j = s.get b f j := Eq.trans rfl rfl

/-! setReq -/

@[simp] theorem State.slotReq_setReq (s : State) (i : Nat) (r : Option Req) : (s.setReq i r).slotReq i = r := by
  simp [State.setReq, State.slotReq]

theorem State.slotReq_setReq_other (s : State) (i : Nat) (r : Option Req) {i' : Nat} (h : i' ≠ i) :
    (s.setReq i r).slotReq i' = s.slotReq i' := cget_cset_other _ _ _ h

@[simp] theorem State.setReq_pins (s : State) (i : Nat) (r : Option Req) : (s.setReq i r).pins = s.pins := Eq.trans rfl rfl
@[simp] theorem State.setReq_regs (s : State) (i : Nat) (r : Option Req) : (s.setReq i r).regs = s.regs := Eq.trans rfl rfl
@[simp] theorem State.setReq_eff (s : State) (i : Nat) (r : Option Req) : (s.setReq i r).eff = s.eff := Eq.trans rfl rfl
@[simp] theorem State.setReq_strokes (s : State) (i : Nat) (r : Option Req) : (s.setReq i r).strokes = s.strokes := Eq.trans rfl rfl
@[simp] theorem State.setReq_arm (s : State) (i : Nat) (r : Option Req) : (s.setReq i r).arm = s.arm := Eq.trans rfl rfl
@[simp] theorem State.setReq_units (s : State) (i : Nat) (r : Option Req) : (s.setReq i r).units = s.units := Eq.trans rfl rfl
@[simp] theorem State.setReq_outcomes (s : State) (i : Nat) (r : Option Req) : (s.setReq i r).outcomes = s.outcomes := Eq.trans rfl rfl
@[simp] theorem State.setReq_groups (s : State) (i : Nat) (r : Option Req) : (s.setReq i r).groups = s.groups := Eq.trans rfl rfl
@[simp] theorem State.setReq_boot (s : State) (i : Nat) (r : Option Req) : (s.setReq i r).boot = s.boot := Eq.trans rfl rfl
@[simp] theorem State.setReq_faults (s : State) (i : Nat) (r : Option Req) : (s.setReq i r).faults = s.faults := Eq.trans rfl rfl
@[simp] theorem State.setReq_ddr (s : State) (i : Nat) (r : Option Req) : (s.setReq i r).ddr = s.ddr := Eq.trans rfl rfl
@[simp] theorem State.setReq_mem (s : State) (i : Nat) (r : Option Req) : (s.setReq i r).mem = s.mem := Eq.trans rfl rfl
@[simp] theorem State.setReq_segs (s : State) (i : Nat) (r : Option Req) : (s.setReq i r).segs = s.segs := Eq.trans rfl rfl
@[simp] theorem State.setReq_epochs (s : State) (i : Nat) (r : Option Req) : (s.setReq i r).epochs = s.epochs := Eq.trans rfl rfl
@[simp] theorem State.setReq_hostEpochs (s : State) (i : Nat) (r : Option Req) : (s.setReq i r).hostEpochs = s.hostEpochs := Eq.trans rfl rfl
@[simp] theorem State.setReq_links (s : State) (i : Nat) (r : Option Req) : (s.setReq i r).links = s.links := Eq.trans rfl rfl
@[simp] theorem State.setReq_routes (s : State) (i : Nat) (r : Option Req) : (s.setReq i r).routes = s.routes := Eq.trans rfl rfl
@[simp] theorem State.setReq_windows (s : State) (i : Nat) (r : Option Req) : (s.setReq i r).windows = s.windows := Eq.trans rfl rfl
@[simp] theorem State.setReq_bulk (s : State) (i : Nat) (r : Option Req) : (s.setReq i r).bulk = s.bulk := Eq.trans rfl rfl
@[simp] theorem State.setReq_cores (s : State) (i : Nat) (r : Option Req) : (s.setReq i r).cores = s.cores := Eq.trans rfl rfl
@[simp] theorem State.setReq_signals (s : State) (i : Nat) (r : Option Req) : (s.setReq i r).signals = s.signals := Eq.trans rfl rfl
@[simp] theorem State.setReq_engines (s : State) (i : Nat) (r : Option Req) : (s.setReq i r).engines = s.engines := Eq.trans rfl rfl
@[simp] theorem State.setReq_maps (s : State) (i : Nat) (r : Option Req) : (s.setReq i r).maps = s.maps := Eq.trans rfl rfl
@[simp] theorem State.setReq_mapUse (s : State) (i : Nat) (r : Option Req) : (s.setReq i r).mapUse = s.mapUse := Eq.trans rfl rfl
@[simp] theorem State.setReq_moving (s : State) (i : Nat) (r : Option Req) : (s.setReq i r).moving = s.moving := Eq.trans rfl rfl
@[simp] theorem State.setReq_toRelease (s : State) (i : Nat) (r : Option Req) : (s.setReq i r).toRelease = s.toRelease := Eq.trans rfl rfl
@[simp] theorem State.setReq_flash (s : State) (i : Nat) (r : Option Req) : (s.setReq i r).flash = s.flash := Eq.trans rfl rfl
@[simp] theorem State.setReq_prefixes (s : State) (i : Nat) (r : Option Req) : (s.setReq i r).prefixes = s.prefixes := Eq.trans rfl rfl
@[simp] theorem State.setReq_uses (s : State) (i : Nat) (r : Option Req) : (s.setReq i r).uses = s.uses := Eq.trans rfl rfl
@[simp] theorem State.setReq_models (s : State) (i : Nat) (r : Option Req) : (s.setReq i r).models = s.models := Eq.trans rfl rfl
@[simp] theorem State.setReq_loading (s : State) (i : Nat) (r : Option Req) : (s.setReq i r).loading = s.loading := Eq.trans rfl rfl
@[simp] theorem State.setReq_learns (s : State) (i : Nat) (r : Option Req) : (s.setReq i r).learns = s.learns := Eq.trans rfl rfl
@[simp] theorem State.setReq_loops (s : State) (i : Nat) (r : Option Req) : (s.setReq i r).loops = s.loops := Eq.trans rfl rfl
@[simp] theorem State.setReq_ctxs (s : State) (i : Nat) (r : Option Req) : (s.setReq i r).ctxs = s.ctxs := Eq.trans rfl rfl
@[simp] theorem State.setReq_saves (s : State) (i : Nat) (r : Option Req) : (s.setReq i r).saves = s.saves := Eq.trans rfl rfl
@[simp] theorem State.setReq_taken (s : State) (i : Nat) (r : Option Req) : (s.setReq i r).taken = s.taken := Eq.trans rfl rfl
@[simp] theorem State.setReq_um (s : State) (i : Nat) (r : Option Req) : (s.setReq i r).um = s.um := Eq.trans rfl rfl
@[simp] theorem State.setReq_parts (s : State) (i : Nat) (r : Option Req) : (s.setReq i r).parts = s.parts := Eq.trans rfl rfl
@[simp] theorem State.setReq_answer (s : State) (i : Nat) (r : Option Req) : (s.setReq i r).answer = s.answer := Eq.trans rfl rfl
@[simp] theorem State.setReq_free (s : State) (i : Nat) (r : Option Req) : (s.setReq i r).free = s.free := Eq.trans rfl rfl
@[simp] theorem State.setReq_pending (s : State) (i : Nat) (r : Option Req) : (s.setReq i r).pending = s.pending := Eq.trans rfl rfl
@[simp] theorem State.setReq_reg (s : State) (i : Nat) (r : Option Req) (a : Nat) : (s.setReq i r).reg a = s.reg a := Eq.trans rfl rfl
@[simp] theorem State.setReq_get (s : State) (i : Nat) (r : Option Req) (b : Nat) (f : Fld) (j : Nat) :
    (s.setReq i r).get b f j = s.get b f j := Eq.trans rfl rfl

/-! setPrefix -/

@[simp] theorem State.prefixAt_setPrefix (s : State) (i : Nat) (r : Option PrefixRun) : (s.setPrefix i r).prefixAt i = r := by
  simp [State.setPrefix, State.prefixAt]

theorem State.prefixAt_setPrefix_other (s : State) (i : Nat) (r : Option PrefixRun) {i' : Nat} (h : i' ≠ i) :
    (s.setPrefix i r).prefixAt i' = s.prefixAt i' := cget_cset_other _ _ _ h

@[simp] theorem State.setPrefix_pins (s : State) (i : Nat) (r : Option PrefixRun) : (s.setPrefix i r).pins = s.pins := Eq.trans rfl rfl
@[simp] theorem State.setPrefix_regs (s : State) (i : Nat) (r : Option PrefixRun) : (s.setPrefix i r).regs = s.regs := Eq.trans rfl rfl
@[simp] theorem State.setPrefix_eff (s : State) (i : Nat) (r : Option PrefixRun) : (s.setPrefix i r).eff = s.eff := Eq.trans rfl rfl
@[simp] theorem State.setPrefix_strokes (s : State) (i : Nat) (r : Option PrefixRun) : (s.setPrefix i r).strokes = s.strokes := Eq.trans rfl rfl
@[simp] theorem State.setPrefix_arm (s : State) (i : Nat) (r : Option PrefixRun) : (s.setPrefix i r).arm = s.arm := Eq.trans rfl rfl
@[simp] theorem State.setPrefix_units (s : State) (i : Nat) (r : Option PrefixRun) : (s.setPrefix i r).units = s.units := Eq.trans rfl rfl
@[simp] theorem State.setPrefix_outcomes (s : State) (i : Nat) (r : Option PrefixRun) : (s.setPrefix i r).outcomes = s.outcomes := Eq.trans rfl rfl
@[simp] theorem State.setPrefix_groups (s : State) (i : Nat) (r : Option PrefixRun) : (s.setPrefix i r).groups = s.groups := Eq.trans rfl rfl
@[simp] theorem State.setPrefix_boot (s : State) (i : Nat) (r : Option PrefixRun) : (s.setPrefix i r).boot = s.boot := Eq.trans rfl rfl
@[simp] theorem State.setPrefix_faults (s : State) (i : Nat) (r : Option PrefixRun) : (s.setPrefix i r).faults = s.faults := Eq.trans rfl rfl
@[simp] theorem State.setPrefix_ddr (s : State) (i : Nat) (r : Option PrefixRun) : (s.setPrefix i r).ddr = s.ddr := Eq.trans rfl rfl
@[simp] theorem State.setPrefix_mem (s : State) (i : Nat) (r : Option PrefixRun) : (s.setPrefix i r).mem = s.mem := Eq.trans rfl rfl
@[simp] theorem State.setPrefix_segs (s : State) (i : Nat) (r : Option PrefixRun) : (s.setPrefix i r).segs = s.segs := Eq.trans rfl rfl
@[simp] theorem State.setPrefix_epochs (s : State) (i : Nat) (r : Option PrefixRun) : (s.setPrefix i r).epochs = s.epochs := Eq.trans rfl rfl
@[simp] theorem State.setPrefix_hostEpochs (s : State) (i : Nat) (r : Option PrefixRun) : (s.setPrefix i r).hostEpochs = s.hostEpochs := Eq.trans rfl rfl
@[simp] theorem State.setPrefix_links (s : State) (i : Nat) (r : Option PrefixRun) : (s.setPrefix i r).links = s.links := Eq.trans rfl rfl
@[simp] theorem State.setPrefix_routes (s : State) (i : Nat) (r : Option PrefixRun) : (s.setPrefix i r).routes = s.routes := Eq.trans rfl rfl
@[simp] theorem State.setPrefix_windows (s : State) (i : Nat) (r : Option PrefixRun) : (s.setPrefix i r).windows = s.windows := Eq.trans rfl rfl
@[simp] theorem State.setPrefix_bulk (s : State) (i : Nat) (r : Option PrefixRun) : (s.setPrefix i r).bulk = s.bulk := Eq.trans rfl rfl
@[simp] theorem State.setPrefix_cores (s : State) (i : Nat) (r : Option PrefixRun) : (s.setPrefix i r).cores = s.cores := Eq.trans rfl rfl
@[simp] theorem State.setPrefix_signals (s : State) (i : Nat) (r : Option PrefixRun) : (s.setPrefix i r).signals = s.signals := Eq.trans rfl rfl
@[simp] theorem State.setPrefix_engines (s : State) (i : Nat) (r : Option PrefixRun) : (s.setPrefix i r).engines = s.engines := Eq.trans rfl rfl
@[simp] theorem State.setPrefix_maps (s : State) (i : Nat) (r : Option PrefixRun) : (s.setPrefix i r).maps = s.maps := Eq.trans rfl rfl
@[simp] theorem State.setPrefix_mapUse (s : State) (i : Nat) (r : Option PrefixRun) : (s.setPrefix i r).mapUse = s.mapUse := Eq.trans rfl rfl
@[simp] theorem State.setPrefix_moving (s : State) (i : Nat) (r : Option PrefixRun) : (s.setPrefix i r).moving = s.moving := Eq.trans rfl rfl
@[simp] theorem State.setPrefix_toRelease (s : State) (i : Nat) (r : Option PrefixRun) : (s.setPrefix i r).toRelease = s.toRelease := Eq.trans rfl rfl
@[simp] theorem State.setPrefix_flash (s : State) (i : Nat) (r : Option PrefixRun) : (s.setPrefix i r).flash = s.flash := Eq.trans rfl rfl
@[simp] theorem State.setPrefix_reqs (s : State) (i : Nat) (r : Option PrefixRun) : (s.setPrefix i r).reqs = s.reqs := Eq.trans rfl rfl
@[simp] theorem State.setPrefix_uses (s : State) (i : Nat) (r : Option PrefixRun) : (s.setPrefix i r).uses = s.uses := Eq.trans rfl rfl
@[simp] theorem State.setPrefix_models (s : State) (i : Nat) (r : Option PrefixRun) : (s.setPrefix i r).models = s.models := Eq.trans rfl rfl
@[simp] theorem State.setPrefix_loading (s : State) (i : Nat) (r : Option PrefixRun) : (s.setPrefix i r).loading = s.loading := Eq.trans rfl rfl
@[simp] theorem State.setPrefix_learns (s : State) (i : Nat) (r : Option PrefixRun) : (s.setPrefix i r).learns = s.learns := Eq.trans rfl rfl
@[simp] theorem State.setPrefix_loops (s : State) (i : Nat) (r : Option PrefixRun) : (s.setPrefix i r).loops = s.loops := Eq.trans rfl rfl
@[simp] theorem State.setPrefix_ctxs (s : State) (i : Nat) (r : Option PrefixRun) : (s.setPrefix i r).ctxs = s.ctxs := Eq.trans rfl rfl
@[simp] theorem State.setPrefix_saves (s : State) (i : Nat) (r : Option PrefixRun) : (s.setPrefix i r).saves = s.saves := Eq.trans rfl rfl
@[simp] theorem State.setPrefix_taken (s : State) (i : Nat) (r : Option PrefixRun) : (s.setPrefix i r).taken = s.taken := Eq.trans rfl rfl
@[simp] theorem State.setPrefix_um (s : State) (i : Nat) (r : Option PrefixRun) : (s.setPrefix i r).um = s.um := Eq.trans rfl rfl
@[simp] theorem State.setPrefix_parts (s : State) (i : Nat) (r : Option PrefixRun) : (s.setPrefix i r).parts = s.parts := Eq.trans rfl rfl
@[simp] theorem State.setPrefix_answer (s : State) (i : Nat) (r : Option PrefixRun) : (s.setPrefix i r).answer = s.answer := Eq.trans rfl rfl
@[simp] theorem State.setPrefix_free (s : State) (i : Nat) (r : Option PrefixRun) : (s.setPrefix i r).free = s.free := Eq.trans rfl rfl
@[simp] theorem State.setPrefix_pending (s : State) (i : Nat) (r : Option PrefixRun) : (s.setPrefix i r).pending = s.pending := Eq.trans rfl rfl
@[simp] theorem State.setPrefix_reg (s : State) (i : Nat) (r : Option PrefixRun) (a : Nat) : (s.setPrefix i r).reg a = s.reg a := Eq.trans rfl rfl
@[simp] theorem State.setPrefix_get (s : State) (i : Nat) (r : Option PrefixRun) (b : Nat) (f : Fld) (j : Nat) :
    (s.setPrefix i r).get b f j = s.get b f j := Eq.trans rfl rfl

/-! setMapAt -/

@[simp] theorem State.mapAt_setMapAt (s : State) (d i : Nat) (e : Word × Word) : (s.setMapAt d i e).mapAt d i = e := by
  simp [State.setMapAt, State.mapAt]

theorem State.mapAt_setMapAt_other (s : State) (d i : Nat) (e : Word × Word) {d' i' : Nat} (h : 65536 * d' + i' ≠ 65536 * d + i) :
    (s.setMapAt d i e).mapAt d' i' = s.mapAt d' i' := cget_cset_other _ _ _ h

@[simp] theorem State.setMapAt_pins (s : State) (d i : Nat) (e : Word × Word) : (s.setMapAt d i e).pins = s.pins := Eq.trans rfl rfl
@[simp] theorem State.setMapAt_regs (s : State) (d i : Nat) (e : Word × Word) : (s.setMapAt d i e).regs = s.regs := Eq.trans rfl rfl
@[simp] theorem State.setMapAt_eff (s : State) (d i : Nat) (e : Word × Word) : (s.setMapAt d i e).eff = s.eff := Eq.trans rfl rfl
@[simp] theorem State.setMapAt_strokes (s : State) (d i : Nat) (e : Word × Word) : (s.setMapAt d i e).strokes = s.strokes := Eq.trans rfl rfl
@[simp] theorem State.setMapAt_arm (s : State) (d i : Nat) (e : Word × Word) : (s.setMapAt d i e).arm = s.arm := Eq.trans rfl rfl
@[simp] theorem State.setMapAt_units (s : State) (d i : Nat) (e : Word × Word) : (s.setMapAt d i e).units = s.units := Eq.trans rfl rfl
@[simp] theorem State.setMapAt_outcomes (s : State) (d i : Nat) (e : Word × Word) : (s.setMapAt d i e).outcomes = s.outcomes := Eq.trans rfl rfl
@[simp] theorem State.setMapAt_groups (s : State) (d i : Nat) (e : Word × Word) : (s.setMapAt d i e).groups = s.groups := Eq.trans rfl rfl
@[simp] theorem State.setMapAt_boot (s : State) (d i : Nat) (e : Word × Word) : (s.setMapAt d i e).boot = s.boot := Eq.trans rfl rfl
@[simp] theorem State.setMapAt_faults (s : State) (d i : Nat) (e : Word × Word) : (s.setMapAt d i e).faults = s.faults := Eq.trans rfl rfl
@[simp] theorem State.setMapAt_ddr (s : State) (d i : Nat) (e : Word × Word) : (s.setMapAt d i e).ddr = s.ddr := Eq.trans rfl rfl
@[simp] theorem State.setMapAt_mem (s : State) (d i : Nat) (e : Word × Word) : (s.setMapAt d i e).mem = s.mem := Eq.trans rfl rfl
@[simp] theorem State.setMapAt_segs (s : State) (d i : Nat) (e : Word × Word) : (s.setMapAt d i e).segs = s.segs := Eq.trans rfl rfl
@[simp] theorem State.setMapAt_epochs (s : State) (d i : Nat) (e : Word × Word) : (s.setMapAt d i e).epochs = s.epochs := Eq.trans rfl rfl
@[simp] theorem State.setMapAt_hostEpochs (s : State) (d i : Nat) (e : Word × Word) : (s.setMapAt d i e).hostEpochs = s.hostEpochs := Eq.trans rfl rfl
@[simp] theorem State.setMapAt_links (s : State) (d i : Nat) (e : Word × Word) : (s.setMapAt d i e).links = s.links := Eq.trans rfl rfl
@[simp] theorem State.setMapAt_routes (s : State) (d i : Nat) (e : Word × Word) : (s.setMapAt d i e).routes = s.routes := Eq.trans rfl rfl
@[simp] theorem State.setMapAt_windows (s : State) (d i : Nat) (e : Word × Word) : (s.setMapAt d i e).windows = s.windows := Eq.trans rfl rfl
@[simp] theorem State.setMapAt_bulk (s : State) (d i : Nat) (e : Word × Word) : (s.setMapAt d i e).bulk = s.bulk := Eq.trans rfl rfl
@[simp] theorem State.setMapAt_cores (s : State) (d i : Nat) (e : Word × Word) : (s.setMapAt d i e).cores = s.cores := Eq.trans rfl rfl
@[simp] theorem State.setMapAt_signals (s : State) (d i : Nat) (e : Word × Word) : (s.setMapAt d i e).signals = s.signals := Eq.trans rfl rfl
@[simp] theorem State.setMapAt_engines (s : State) (d i : Nat) (e : Word × Word) : (s.setMapAt d i e).engines = s.engines := Eq.trans rfl rfl
@[simp] theorem State.setMapAt_mapUse (s : State) (d i : Nat) (e : Word × Word) : (s.setMapAt d i e).mapUse = s.mapUse := Eq.trans rfl rfl
@[simp] theorem State.setMapAt_moving (s : State) (d i : Nat) (e : Word × Word) : (s.setMapAt d i e).moving = s.moving := Eq.trans rfl rfl
@[simp] theorem State.setMapAt_toRelease (s : State) (d i : Nat) (e : Word × Word) : (s.setMapAt d i e).toRelease = s.toRelease := Eq.trans rfl rfl
@[simp] theorem State.setMapAt_flash (s : State) (d i : Nat) (e : Word × Word) : (s.setMapAt d i e).flash = s.flash := Eq.trans rfl rfl
@[simp] theorem State.setMapAt_reqs (s : State) (d i : Nat) (e : Word × Word) : (s.setMapAt d i e).reqs = s.reqs := Eq.trans rfl rfl
@[simp] theorem State.setMapAt_prefixes (s : State) (d i : Nat) (e : Word × Word) : (s.setMapAt d i e).prefixes = s.prefixes := Eq.trans rfl rfl
@[simp] theorem State.setMapAt_uses (s : State) (d i : Nat) (e : Word × Word) : (s.setMapAt d i e).uses = s.uses := Eq.trans rfl rfl
@[simp] theorem State.setMapAt_models (s : State) (d i : Nat) (e : Word × Word) : (s.setMapAt d i e).models = s.models := Eq.trans rfl rfl
@[simp] theorem State.setMapAt_loading (s : State) (d i : Nat) (e : Word × Word) : (s.setMapAt d i e).loading = s.loading := Eq.trans rfl rfl
@[simp] theorem State.setMapAt_learns (s : State) (d i : Nat) (e : Word × Word) : (s.setMapAt d i e).learns = s.learns := Eq.trans rfl rfl
@[simp] theorem State.setMapAt_loops (s : State) (d i : Nat) (e : Word × Word) : (s.setMapAt d i e).loops = s.loops := Eq.trans rfl rfl
@[simp] theorem State.setMapAt_ctxs (s : State) (d i : Nat) (e : Word × Word) : (s.setMapAt d i e).ctxs = s.ctxs := Eq.trans rfl rfl
@[simp] theorem State.setMapAt_saves (s : State) (d i : Nat) (e : Word × Word) : (s.setMapAt d i e).saves = s.saves := Eq.trans rfl rfl
@[simp] theorem State.setMapAt_taken (s : State) (d i : Nat) (e : Word × Word) : (s.setMapAt d i e).taken = s.taken := Eq.trans rfl rfl
@[simp] theorem State.setMapAt_um (s : State) (d i : Nat) (e : Word × Word) : (s.setMapAt d i e).um = s.um := Eq.trans rfl rfl
@[simp] theorem State.setMapAt_parts (s : State) (d i : Nat) (e : Word × Word) : (s.setMapAt d i e).parts = s.parts := Eq.trans rfl rfl
@[simp] theorem State.setMapAt_answer (s : State) (d i : Nat) (e : Word × Word) : (s.setMapAt d i e).answer = s.answer := Eq.trans rfl rfl
@[simp] theorem State.setMapAt_free (s : State) (d i : Nat) (e : Word × Word) : (s.setMapAt d i e).free = s.free := Eq.trans rfl rfl
@[simp] theorem State.setMapAt_pending (s : State) (d i : Nat) (e : Word × Word) : (s.setMapAt d i e).pending = s.pending := Eq.trans rfl rfl
@[simp] theorem State.setMapAt_reg (s : State) (d i : Nat) (e : Word × Word) (a : Nat) : (s.setMapAt d i e).reg a = s.reg a := Eq.trans rfl rfl
@[simp] theorem State.setMapAt_get (s : State) (d i : Nat) (e : Word × Word) (b : Nat) (f : Fld) (j : Nat) :
    (s.setMapAt d i e).get b f j = s.get b f j := Eq.trans rfl rfl

/-! setHq -/

@[simp] theorem State.hq_setHq (s : State) (q : Nat) (x : HostQ) : (s.setHq q x).hq q = x := by
  simp [State.setHq, State.hq]

theorem State.hq_setHq_other (s : State) (q : Nat) (x : HostQ) {q' : Nat} (h : q' ≠ q) :
    (s.setHq q x).hq q' = s.hq q' := cget_cset_other _ _ _ h

@[simp] theorem State.setHq_pins (s : State) (q : Nat) (x : HostQ) : (s.setHq q x).pins = s.pins := Eq.trans rfl rfl
@[simp] theorem State.setHq_regs (s : State) (q : Nat) (x : HostQ) : (s.setHq q x).regs = s.regs := Eq.trans rfl rfl
@[simp] theorem State.setHq_eff (s : State) (q : Nat) (x : HostQ) : (s.setHq q x).eff = s.eff := Eq.trans rfl rfl
@[simp] theorem State.setHq_strokes (s : State) (q : Nat) (x : HostQ) : (s.setHq q x).strokes = s.strokes := Eq.trans rfl rfl
@[simp] theorem State.setHq_arm (s : State) (q : Nat) (x : HostQ) : (s.setHq q x).arm = s.arm := Eq.trans rfl rfl
@[simp] theorem State.setHq_units (s : State) (q : Nat) (x : HostQ) : (s.setHq q x).units = s.units := Eq.trans rfl rfl
@[simp] theorem State.setHq_outcomes (s : State) (q : Nat) (x : HostQ) : (s.setHq q x).outcomes = s.outcomes := Eq.trans rfl rfl
@[simp] theorem State.setHq_groups (s : State) (q : Nat) (x : HostQ) : (s.setHq q x).groups = s.groups := Eq.trans rfl rfl
@[simp] theorem State.setHq_boot (s : State) (q : Nat) (x : HostQ) : (s.setHq q x).boot = s.boot := Eq.trans rfl rfl
@[simp] theorem State.setHq_faults (s : State) (q : Nat) (x : HostQ) : (s.setHq q x).faults = s.faults := Eq.trans rfl rfl
@[simp] theorem State.setHq_ddr (s : State) (q : Nat) (x : HostQ) : (s.setHq q x).ddr = s.ddr := Eq.trans rfl rfl
@[simp] theorem State.setHq_mem (s : State) (q : Nat) (x : HostQ) : (s.setHq q x).mem = s.mem := Eq.trans rfl rfl
@[simp] theorem State.setHq_segs (s : State) (q : Nat) (x : HostQ) : (s.setHq q x).segs = s.segs := Eq.trans rfl rfl
@[simp] theorem State.setHq_epochs (s : State) (q : Nat) (x : HostQ) : (s.setHq q x).epochs = s.epochs := Eq.trans rfl rfl
@[simp] theorem State.setHq_hostEpochs (s : State) (q : Nat) (x : HostQ) : (s.setHq q x).hostEpochs = s.hostEpochs := Eq.trans rfl rfl
@[simp] theorem State.setHq_links (s : State) (q : Nat) (x : HostQ) : (s.setHq q x).links = s.links := Eq.trans rfl rfl
@[simp] theorem State.setHq_routes (s : State) (q : Nat) (x : HostQ) : (s.setHq q x).routes = s.routes := Eq.trans rfl rfl
@[simp] theorem State.setHq_windows (s : State) (q : Nat) (x : HostQ) : (s.setHq q x).windows = s.windows := Eq.trans rfl rfl
@[simp] theorem State.setHq_bulk (s : State) (q : Nat) (x : HostQ) : (s.setHq q x).bulk = s.bulk := Eq.trans rfl rfl
@[simp] theorem State.setHq_cores (s : State) (q : Nat) (x : HostQ) : (s.setHq q x).cores = s.cores := Eq.trans rfl rfl
@[simp] theorem State.setHq_signals (s : State) (q : Nat) (x : HostQ) : (s.setHq q x).signals = s.signals := Eq.trans rfl rfl
@[simp] theorem State.setHq_engines (s : State) (q : Nat) (x : HostQ) : (s.setHq q x).engines = s.engines := Eq.trans rfl rfl
@[simp] theorem State.setHq_maps (s : State) (q : Nat) (x : HostQ) : (s.setHq q x).maps = s.maps := Eq.trans rfl rfl
@[simp] theorem State.setHq_mapUse (s : State) (q : Nat) (x : HostQ) : (s.setHq q x).mapUse = s.mapUse := Eq.trans rfl rfl
@[simp] theorem State.setHq_moving (s : State) (q : Nat) (x : HostQ) : (s.setHq q x).moving = s.moving := Eq.trans rfl rfl
@[simp] theorem State.setHq_toRelease (s : State) (q : Nat) (x : HostQ) : (s.setHq q x).toRelease = s.toRelease := Eq.trans rfl rfl
@[simp] theorem State.setHq_flash (s : State) (q : Nat) (x : HostQ) : (s.setHq q x).flash = s.flash := Eq.trans rfl rfl
@[simp] theorem State.setHq_reqs (s : State) (q : Nat) (x : HostQ) : (s.setHq q x).reqs = s.reqs := Eq.trans rfl rfl
@[simp] theorem State.setHq_prefixes (s : State) (q : Nat) (x : HostQ) : (s.setHq q x).prefixes = s.prefixes := Eq.trans rfl rfl
@[simp] theorem State.setHq_uses (s : State) (q : Nat) (x : HostQ) : (s.setHq q x).uses = s.uses := Eq.trans rfl rfl
@[simp] theorem State.setHq_models (s : State) (q : Nat) (x : HostQ) : (s.setHq q x).models = s.models := Eq.trans rfl rfl
@[simp] theorem State.setHq_loading (s : State) (q : Nat) (x : HostQ) : (s.setHq q x).loading = s.loading := Eq.trans rfl rfl
@[simp] theorem State.setHq_learns (s : State) (q : Nat) (x : HostQ) : (s.setHq q x).learns = s.learns := Eq.trans rfl rfl
@[simp] theorem State.setHq_loops (s : State) (q : Nat) (x : HostQ) : (s.setHq q x).loops = s.loops := Eq.trans rfl rfl
@[simp] theorem State.setHq_ctxs (s : State) (q : Nat) (x : HostQ) : (s.setHq q x).ctxs = s.ctxs := Eq.trans rfl rfl
@[simp] theorem State.setHq_saves (s : State) (q : Nat) (x : HostQ) : (s.setHq q x).saves = s.saves := Eq.trans rfl rfl
@[simp] theorem State.setHq_taken (s : State) (q : Nat) (x : HostQ) : (s.setHq q x).taken = s.taken := Eq.trans rfl rfl
@[simp] theorem State.setHq_parts (s : State) (q : Nat) (x : HostQ) : (s.setHq q x).parts = s.parts := Eq.trans rfl rfl
@[simp] theorem State.setHq_answer (s : State) (q : Nat) (x : HostQ) : (s.setHq q x).answer = s.answer := Eq.trans rfl rfl
@[simp] theorem State.setHq_free (s : State) (q : Nat) (x : HostQ) : (s.setHq q x).free = s.free := Eq.trans rfl rfl
@[simp] theorem State.setHq_pending (s : State) (q : Nat) (x : HostQ) : (s.setHq q x).pending = s.pending := Eq.trans rfl rfl
@[simp] theorem State.setHq_reg (s : State) (q : Nat) (x : HostQ) (a : Nat) : (s.setHq q x).reg a = s.reg a := Eq.trans rfl rfl
@[simp] theorem State.setHq_get (s : State) (q : Nat) (x : HostQ) (b : Nat) (f : Fld) (j : Nat) :
    (s.setHq q x).get b f j = s.get b f j := Eq.trans rfl rfl

/-! setSlot -/

@[simp] theorem State.slot_setSlot (s : State) (i : Nat) (x : RdSlot) : (s.setSlot i x).slot i = x := by
  simp [State.setSlot, State.slot]

theorem State.slot_setSlot_other (s : State) (i : Nat) (x : RdSlot) {i' : Nat} (h : i' ≠ i) :
    (s.setSlot i x).slot i' = s.slot i' := cget_cset_other _ _ _ h

@[simp] theorem State.setSlot_pins (s : State) (i : Nat) (x : RdSlot) : (s.setSlot i x).pins = s.pins := Eq.trans rfl rfl
@[simp] theorem State.setSlot_regs (s : State) (i : Nat) (x : RdSlot) : (s.setSlot i x).regs = s.regs := Eq.trans rfl rfl
@[simp] theorem State.setSlot_eff (s : State) (i : Nat) (x : RdSlot) : (s.setSlot i x).eff = s.eff := Eq.trans rfl rfl
@[simp] theorem State.setSlot_strokes (s : State) (i : Nat) (x : RdSlot) : (s.setSlot i x).strokes = s.strokes := Eq.trans rfl rfl
@[simp] theorem State.setSlot_arm (s : State) (i : Nat) (x : RdSlot) : (s.setSlot i x).arm = s.arm := Eq.trans rfl rfl
@[simp] theorem State.setSlot_units (s : State) (i : Nat) (x : RdSlot) : (s.setSlot i x).units = s.units := Eq.trans rfl rfl
@[simp] theorem State.setSlot_outcomes (s : State) (i : Nat) (x : RdSlot) : (s.setSlot i x).outcomes = s.outcomes := Eq.trans rfl rfl
@[simp] theorem State.setSlot_groups (s : State) (i : Nat) (x : RdSlot) : (s.setSlot i x).groups = s.groups := Eq.trans rfl rfl
@[simp] theorem State.setSlot_boot (s : State) (i : Nat) (x : RdSlot) : (s.setSlot i x).boot = s.boot := Eq.trans rfl rfl
@[simp] theorem State.setSlot_faults (s : State) (i : Nat) (x : RdSlot) : (s.setSlot i x).faults = s.faults := Eq.trans rfl rfl
@[simp] theorem State.setSlot_ddr (s : State) (i : Nat) (x : RdSlot) : (s.setSlot i x).ddr = s.ddr := Eq.trans rfl rfl
@[simp] theorem State.setSlot_mem (s : State) (i : Nat) (x : RdSlot) : (s.setSlot i x).mem = s.mem := Eq.trans rfl rfl
@[simp] theorem State.setSlot_segs (s : State) (i : Nat) (x : RdSlot) : (s.setSlot i x).segs = s.segs := Eq.trans rfl rfl
@[simp] theorem State.setSlot_epochs (s : State) (i : Nat) (x : RdSlot) : (s.setSlot i x).epochs = s.epochs := Eq.trans rfl rfl
@[simp] theorem State.setSlot_hostEpochs (s : State) (i : Nat) (x : RdSlot) : (s.setSlot i x).hostEpochs = s.hostEpochs := Eq.trans rfl rfl
@[simp] theorem State.setSlot_links (s : State) (i : Nat) (x : RdSlot) : (s.setSlot i x).links = s.links := Eq.trans rfl rfl
@[simp] theorem State.setSlot_routes (s : State) (i : Nat) (x : RdSlot) : (s.setSlot i x).routes = s.routes := Eq.trans rfl rfl
@[simp] theorem State.setSlot_windows (s : State) (i : Nat) (x : RdSlot) : (s.setSlot i x).windows = s.windows := Eq.trans rfl rfl
@[simp] theorem State.setSlot_bulk (s : State) (i : Nat) (x : RdSlot) : (s.setSlot i x).bulk = s.bulk := Eq.trans rfl rfl
@[simp] theorem State.setSlot_cores (s : State) (i : Nat) (x : RdSlot) : (s.setSlot i x).cores = s.cores := Eq.trans rfl rfl
@[simp] theorem State.setSlot_signals (s : State) (i : Nat) (x : RdSlot) : (s.setSlot i x).signals = s.signals := Eq.trans rfl rfl
@[simp] theorem State.setSlot_engines (s : State) (i : Nat) (x : RdSlot) : (s.setSlot i x).engines = s.engines := Eq.trans rfl rfl
@[simp] theorem State.setSlot_maps (s : State) (i : Nat) (x : RdSlot) : (s.setSlot i x).maps = s.maps := Eq.trans rfl rfl
@[simp] theorem State.setSlot_mapUse (s : State) (i : Nat) (x : RdSlot) : (s.setSlot i x).mapUse = s.mapUse := Eq.trans rfl rfl
@[simp] theorem State.setSlot_moving (s : State) (i : Nat) (x : RdSlot) : (s.setSlot i x).moving = s.moving := Eq.trans rfl rfl
@[simp] theorem State.setSlot_toRelease (s : State) (i : Nat) (x : RdSlot) : (s.setSlot i x).toRelease = s.toRelease := Eq.trans rfl rfl
@[simp] theorem State.setSlot_flash (s : State) (i : Nat) (x : RdSlot) : (s.setSlot i x).flash = s.flash := Eq.trans rfl rfl
@[simp] theorem State.setSlot_reqs (s : State) (i : Nat) (x : RdSlot) : (s.setSlot i x).reqs = s.reqs := Eq.trans rfl rfl
@[simp] theorem State.setSlot_prefixes (s : State) (i : Nat) (x : RdSlot) : (s.setSlot i x).prefixes = s.prefixes := Eq.trans rfl rfl
@[simp] theorem State.setSlot_uses (s : State) (i : Nat) (x : RdSlot) : (s.setSlot i x).uses = s.uses := Eq.trans rfl rfl
@[simp] theorem State.setSlot_models (s : State) (i : Nat) (x : RdSlot) : (s.setSlot i x).models = s.models := Eq.trans rfl rfl
@[simp] theorem State.setSlot_loading (s : State) (i : Nat) (x : RdSlot) : (s.setSlot i x).loading = s.loading := Eq.trans rfl rfl
@[simp] theorem State.setSlot_learns (s : State) (i : Nat) (x : RdSlot) : (s.setSlot i x).learns = s.learns := Eq.trans rfl rfl
@[simp] theorem State.setSlot_loops (s : State) (i : Nat) (x : RdSlot) : (s.setSlot i x).loops = s.loops := Eq.trans rfl rfl
@[simp] theorem State.setSlot_ctxs (s : State) (i : Nat) (x : RdSlot) : (s.setSlot i x).ctxs = s.ctxs := Eq.trans rfl rfl
@[simp] theorem State.setSlot_saves (s : State) (i : Nat) (x : RdSlot) : (s.setSlot i x).saves = s.saves := Eq.trans rfl rfl
@[simp] theorem State.setSlot_taken (s : State) (i : Nat) (x : RdSlot) : (s.setSlot i x).taken = s.taken := Eq.trans rfl rfl
@[simp] theorem State.setSlot_parts (s : State) (i : Nat) (x : RdSlot) : (s.setSlot i x).parts = s.parts := Eq.trans rfl rfl
@[simp] theorem State.setSlot_answer (s : State) (i : Nat) (x : RdSlot) : (s.setSlot i x).answer = s.answer := Eq.trans rfl rfl
@[simp] theorem State.setSlot_free (s : State) (i : Nat) (x : RdSlot) : (s.setSlot i x).free = s.free := Eq.trans rfl rfl
@[simp] theorem State.setSlot_pending (s : State) (i : Nat) (x : RdSlot) : (s.setSlot i x).pending = s.pending := Eq.trans rfl rfl
@[simp] theorem State.setSlot_reg (s : State) (i : Nat) (x : RdSlot) (a : Nat) : (s.setSlot i x).reg a = s.reg a := Eq.trans rfl rfl
@[simp] theorem State.setSlot_get (s : State) (i : Nat) (x : RdSlot) (b : Nat) (f : Fld) (j : Nat) :
    (s.setSlot i x).get b f j = s.get b f j := Eq.trans rfl rfl

/-! setSeg -/

@[simp] theorem State.seg_setSeg (s : State) (p i : Nat) (e : Word) : (s.setSeg p i e).seg p i = e := by
  simp [State.setSeg, State.seg]

theorem State.seg_setSeg_other (s : State) (p i : Nat) (e : Word) {p' i' : Nat} (h : p' * 8192 + i' ≠ p * 8192 + i) :
    (s.setSeg p i e).seg p' i' = s.seg p' i' := cget_cset_other _ _ _ h

@[simp] theorem State.setSeg_pins (s : State) (p i : Nat) (e : Word) : (s.setSeg p i e).pins = s.pins := Eq.trans rfl rfl
@[simp] theorem State.setSeg_regs (s : State) (p i : Nat) (e : Word) : (s.setSeg p i e).regs = s.regs := Eq.trans rfl rfl
@[simp] theorem State.setSeg_eff (s : State) (p i : Nat) (e : Word) : (s.setSeg p i e).eff = s.eff := Eq.trans rfl rfl
@[simp] theorem State.setSeg_strokes (s : State) (p i : Nat) (e : Word) : (s.setSeg p i e).strokes = s.strokes := Eq.trans rfl rfl
@[simp] theorem State.setSeg_arm (s : State) (p i : Nat) (e : Word) : (s.setSeg p i e).arm = s.arm := Eq.trans rfl rfl
@[simp] theorem State.setSeg_units (s : State) (p i : Nat) (e : Word) : (s.setSeg p i e).units = s.units := Eq.trans rfl rfl
@[simp] theorem State.setSeg_outcomes (s : State) (p i : Nat) (e : Word) : (s.setSeg p i e).outcomes = s.outcomes := Eq.trans rfl rfl
@[simp] theorem State.setSeg_groups (s : State) (p i : Nat) (e : Word) : (s.setSeg p i e).groups = s.groups := Eq.trans rfl rfl
@[simp] theorem State.setSeg_boot (s : State) (p i : Nat) (e : Word) : (s.setSeg p i e).boot = s.boot := Eq.trans rfl rfl
@[simp] theorem State.setSeg_faults (s : State) (p i : Nat) (e : Word) : (s.setSeg p i e).faults = s.faults := Eq.trans rfl rfl
@[simp] theorem State.setSeg_ddr (s : State) (p i : Nat) (e : Word) : (s.setSeg p i e).ddr = s.ddr := Eq.trans rfl rfl
@[simp] theorem State.setSeg_mem (s : State) (p i : Nat) (e : Word) : (s.setSeg p i e).mem = s.mem := Eq.trans rfl rfl
@[simp] theorem State.setSeg_epochs (s : State) (p i : Nat) (e : Word) : (s.setSeg p i e).epochs = s.epochs := Eq.trans rfl rfl
@[simp] theorem State.setSeg_hostEpochs (s : State) (p i : Nat) (e : Word) : (s.setSeg p i e).hostEpochs = s.hostEpochs := Eq.trans rfl rfl
@[simp] theorem State.setSeg_links (s : State) (p i : Nat) (e : Word) : (s.setSeg p i e).links = s.links := Eq.trans rfl rfl
@[simp] theorem State.setSeg_routes (s : State) (p i : Nat) (e : Word) : (s.setSeg p i e).routes = s.routes := Eq.trans rfl rfl
@[simp] theorem State.setSeg_windows (s : State) (p i : Nat) (e : Word) : (s.setSeg p i e).windows = s.windows := Eq.trans rfl rfl
@[simp] theorem State.setSeg_bulk (s : State) (p i : Nat) (e : Word) : (s.setSeg p i e).bulk = s.bulk := Eq.trans rfl rfl
@[simp] theorem State.setSeg_cores (s : State) (p i : Nat) (e : Word) : (s.setSeg p i e).cores = s.cores := Eq.trans rfl rfl
@[simp] theorem State.setSeg_signals (s : State) (p i : Nat) (e : Word) : (s.setSeg p i e).signals = s.signals := Eq.trans rfl rfl
@[simp] theorem State.setSeg_engines (s : State) (p i : Nat) (e : Word) : (s.setSeg p i e).engines = s.engines := Eq.trans rfl rfl
@[simp] theorem State.setSeg_maps (s : State) (p i : Nat) (e : Word) : (s.setSeg p i e).maps = s.maps := Eq.trans rfl rfl
@[simp] theorem State.setSeg_mapUse (s : State) (p i : Nat) (e : Word) : (s.setSeg p i e).mapUse = s.mapUse := Eq.trans rfl rfl
@[simp] theorem State.setSeg_moving (s : State) (p i : Nat) (e : Word) : (s.setSeg p i e).moving = s.moving := Eq.trans rfl rfl
@[simp] theorem State.setSeg_toRelease (s : State) (p i : Nat) (e : Word) : (s.setSeg p i e).toRelease = s.toRelease := Eq.trans rfl rfl
@[simp] theorem State.setSeg_flash (s : State) (p i : Nat) (e : Word) : (s.setSeg p i e).flash = s.flash := Eq.trans rfl rfl
@[simp] theorem State.setSeg_reqs (s : State) (p i : Nat) (e : Word) : (s.setSeg p i e).reqs = s.reqs := Eq.trans rfl rfl
@[simp] theorem State.setSeg_prefixes (s : State) (p i : Nat) (e : Word) : (s.setSeg p i e).prefixes = s.prefixes := Eq.trans rfl rfl
@[simp] theorem State.setSeg_uses (s : State) (p i : Nat) (e : Word) : (s.setSeg p i e).uses = s.uses := Eq.trans rfl rfl
@[simp] theorem State.setSeg_models (s : State) (p i : Nat) (e : Word) : (s.setSeg p i e).models = s.models := Eq.trans rfl rfl
@[simp] theorem State.setSeg_loading (s : State) (p i : Nat) (e : Word) : (s.setSeg p i e).loading = s.loading := Eq.trans rfl rfl
@[simp] theorem State.setSeg_learns (s : State) (p i : Nat) (e : Word) : (s.setSeg p i e).learns = s.learns := Eq.trans rfl rfl
@[simp] theorem State.setSeg_loops (s : State) (p i : Nat) (e : Word) : (s.setSeg p i e).loops = s.loops := Eq.trans rfl rfl
@[simp] theorem State.setSeg_ctxs (s : State) (p i : Nat) (e : Word) : (s.setSeg p i e).ctxs = s.ctxs := Eq.trans rfl rfl
@[simp] theorem State.setSeg_saves (s : State) (p i : Nat) (e : Word) : (s.setSeg p i e).saves = s.saves := Eq.trans rfl rfl
@[simp] theorem State.setSeg_taken (s : State) (p i : Nat) (e : Word) : (s.setSeg p i e).taken = s.taken := Eq.trans rfl rfl
@[simp] theorem State.setSeg_um (s : State) (p i : Nat) (e : Word) : (s.setSeg p i e).um = s.um := Eq.trans rfl rfl
@[simp] theorem State.setSeg_parts (s : State) (p i : Nat) (e : Word) : (s.setSeg p i e).parts = s.parts := Eq.trans rfl rfl
@[simp] theorem State.setSeg_answer (s : State) (p i : Nat) (e : Word) : (s.setSeg p i e).answer = s.answer := Eq.trans rfl rfl
@[simp] theorem State.setSeg_free (s : State) (p i : Nat) (e : Word) : (s.setSeg p i e).free = s.free := Eq.trans rfl rfl
@[simp] theorem State.setSeg_pending (s : State) (p i : Nat) (e : Word) : (s.setSeg p i e).pending = s.pending := Eq.trans rfl rfl
@[simp] theorem State.setSeg_reg (s : State) (p i : Nat) (e : Word) (a : Nat) : (s.setSeg p i e).reg a = s.reg a := Eq.trans rfl rfl
@[simp] theorem State.setSeg_get (s : State) (p i : Nat) (e : Word) (b : Nat) (f : Fld) (j : Nat) :
    (s.setSeg p i e).get b f j = s.get b f j := Eq.trans rfl rfl

/-! setRoute -/

@[simp] theorem State.route_setRoute (s : State) (p dev : Nat) (w : Word) : (s.setRoute p dev w).route p dev = w := by
  simp [State.setRoute, State.route]

theorem State.route_setRoute_other (s : State) (p dev : Nat) (w : Word) {p' dev' : Nat} (h : 4096 * p' + dev' ≠ 4096 * p + dev) :
    (s.setRoute p dev w).route p' dev' = s.route p' dev' := cget_cset_other _ _ _ h

@[simp] theorem State.setRoute_pins (s : State) (p dev : Nat) (w : Word) : (s.setRoute p dev w).pins = s.pins := Eq.trans rfl rfl
@[simp] theorem State.setRoute_regs (s : State) (p dev : Nat) (w : Word) : (s.setRoute p dev w).regs = s.regs := Eq.trans rfl rfl
@[simp] theorem State.setRoute_eff (s : State) (p dev : Nat) (w : Word) : (s.setRoute p dev w).eff = s.eff := Eq.trans rfl rfl
@[simp] theorem State.setRoute_strokes (s : State) (p dev : Nat) (w : Word) : (s.setRoute p dev w).strokes = s.strokes := Eq.trans rfl rfl
@[simp] theorem State.setRoute_arm (s : State) (p dev : Nat) (w : Word) : (s.setRoute p dev w).arm = s.arm := Eq.trans rfl rfl
@[simp] theorem State.setRoute_units (s : State) (p dev : Nat) (w : Word) : (s.setRoute p dev w).units = s.units := Eq.trans rfl rfl
@[simp] theorem State.setRoute_outcomes (s : State) (p dev : Nat) (w : Word) : (s.setRoute p dev w).outcomes = s.outcomes := Eq.trans rfl rfl
@[simp] theorem State.setRoute_groups (s : State) (p dev : Nat) (w : Word) : (s.setRoute p dev w).groups = s.groups := Eq.trans rfl rfl
@[simp] theorem State.setRoute_boot (s : State) (p dev : Nat) (w : Word) : (s.setRoute p dev w).boot = s.boot := Eq.trans rfl rfl
@[simp] theorem State.setRoute_faults (s : State) (p dev : Nat) (w : Word) : (s.setRoute p dev w).faults = s.faults := Eq.trans rfl rfl
@[simp] theorem State.setRoute_ddr (s : State) (p dev : Nat) (w : Word) : (s.setRoute p dev w).ddr = s.ddr := Eq.trans rfl rfl
@[simp] theorem State.setRoute_mem (s : State) (p dev : Nat) (w : Word) : (s.setRoute p dev w).mem = s.mem := Eq.trans rfl rfl
@[simp] theorem State.setRoute_segs (s : State) (p dev : Nat) (w : Word) : (s.setRoute p dev w).segs = s.segs := Eq.trans rfl rfl
@[simp] theorem State.setRoute_epochs (s : State) (p dev : Nat) (w : Word) : (s.setRoute p dev w).epochs = s.epochs := Eq.trans rfl rfl
@[simp] theorem State.setRoute_hostEpochs (s : State) (p dev : Nat) (w : Word) : (s.setRoute p dev w).hostEpochs = s.hostEpochs := Eq.trans rfl rfl
@[simp] theorem State.setRoute_links (s : State) (p dev : Nat) (w : Word) : (s.setRoute p dev w).links = s.links := Eq.trans rfl rfl
@[simp] theorem State.setRoute_windows (s : State) (p dev : Nat) (w : Word) : (s.setRoute p dev w).windows = s.windows := Eq.trans rfl rfl
@[simp] theorem State.setRoute_bulk (s : State) (p dev : Nat) (w : Word) : (s.setRoute p dev w).bulk = s.bulk := Eq.trans rfl rfl
@[simp] theorem State.setRoute_cores (s : State) (p dev : Nat) (w : Word) : (s.setRoute p dev w).cores = s.cores := Eq.trans rfl rfl
@[simp] theorem State.setRoute_signals (s : State) (p dev : Nat) (w : Word) : (s.setRoute p dev w).signals = s.signals := Eq.trans rfl rfl
@[simp] theorem State.setRoute_engines (s : State) (p dev : Nat) (w : Word) : (s.setRoute p dev w).engines = s.engines := Eq.trans rfl rfl
@[simp] theorem State.setRoute_maps (s : State) (p dev : Nat) (w : Word) : (s.setRoute p dev w).maps = s.maps := Eq.trans rfl rfl
@[simp] theorem State.setRoute_mapUse (s : State) (p dev : Nat) (w : Word) : (s.setRoute p dev w).mapUse = s.mapUse := Eq.trans rfl rfl
@[simp] theorem State.setRoute_moving (s : State) (p dev : Nat) (w : Word) : (s.setRoute p dev w).moving = s.moving := Eq.trans rfl rfl
@[simp] theorem State.setRoute_toRelease (s : State) (p dev : Nat) (w : Word) : (s.setRoute p dev w).toRelease = s.toRelease := Eq.trans rfl rfl
@[simp] theorem State.setRoute_flash (s : State) (p dev : Nat) (w : Word) : (s.setRoute p dev w).flash = s.flash := Eq.trans rfl rfl
@[simp] theorem State.setRoute_reqs (s : State) (p dev : Nat) (w : Word) : (s.setRoute p dev w).reqs = s.reqs := Eq.trans rfl rfl
@[simp] theorem State.setRoute_prefixes (s : State) (p dev : Nat) (w : Word) : (s.setRoute p dev w).prefixes = s.prefixes := Eq.trans rfl rfl
@[simp] theorem State.setRoute_uses (s : State) (p dev : Nat) (w : Word) : (s.setRoute p dev w).uses = s.uses := Eq.trans rfl rfl
@[simp] theorem State.setRoute_models (s : State) (p dev : Nat) (w : Word) : (s.setRoute p dev w).models = s.models := Eq.trans rfl rfl
@[simp] theorem State.setRoute_loading (s : State) (p dev : Nat) (w : Word) : (s.setRoute p dev w).loading = s.loading := Eq.trans rfl rfl
@[simp] theorem State.setRoute_learns (s : State) (p dev : Nat) (w : Word) : (s.setRoute p dev w).learns = s.learns := Eq.trans rfl rfl
@[simp] theorem State.setRoute_loops (s : State) (p dev : Nat) (w : Word) : (s.setRoute p dev w).loops = s.loops := Eq.trans rfl rfl
@[simp] theorem State.setRoute_ctxs (s : State) (p dev : Nat) (w : Word) : (s.setRoute p dev w).ctxs = s.ctxs := Eq.trans rfl rfl
@[simp] theorem State.setRoute_saves (s : State) (p dev : Nat) (w : Word) : (s.setRoute p dev w).saves = s.saves := Eq.trans rfl rfl
@[simp] theorem State.setRoute_taken (s : State) (p dev : Nat) (w : Word) : (s.setRoute p dev w).taken = s.taken := Eq.trans rfl rfl
@[simp] theorem State.setRoute_um (s : State) (p dev : Nat) (w : Word) : (s.setRoute p dev w).um = s.um := Eq.trans rfl rfl
@[simp] theorem State.setRoute_parts (s : State) (p dev : Nat) (w : Word) : (s.setRoute p dev w).parts = s.parts := Eq.trans rfl rfl
@[simp] theorem State.setRoute_answer (s : State) (p dev : Nat) (w : Word) : (s.setRoute p dev w).answer = s.answer := Eq.trans rfl rfl
@[simp] theorem State.setRoute_free (s : State) (p dev : Nat) (w : Word) : (s.setRoute p dev w).free = s.free := Eq.trans rfl rfl
@[simp] theorem State.setRoute_pending (s : State) (p dev : Nat) (w : Word) : (s.setRoute p dev w).pending = s.pending := Eq.trans rfl rfl
@[simp] theorem State.setRoute_reg (s : State) (p dev : Nat) (w : Word) (a : Nat) : (s.setRoute p dev w).reg a = s.reg a := Eq.trans rfl rfl
@[simp] theorem State.setRoute_get (s : State) (p dev : Nat) (w : Word) (b : Nat) (f : Fld) (j : Nat) :
    (s.setRoute p dev w).get b f j = s.get b f j := Eq.trans rfl rfl

/-! setUnit -/

@[simp] theorem State.setUnit_pins (s : State) (u : SealUnit) : (s.setUnit u).pins = s.pins := Eq.trans rfl rfl
@[simp] theorem State.setUnit_regs (s : State) (u : SealUnit) : (s.setUnit u).regs = s.regs := Eq.trans rfl rfl
@[simp] theorem State.setUnit_eff (s : State) (u : SealUnit) : (s.setUnit u).eff = s.eff := Eq.trans rfl rfl
@[simp] theorem State.setUnit_strokes (s : State) (u : SealUnit) : (s.setUnit u).strokes = s.strokes := Eq.trans rfl rfl
@[simp] theorem State.setUnit_arm (s : State) (u : SealUnit) : (s.setUnit u).arm = s.arm := Eq.trans rfl rfl
@[simp] theorem State.setUnit_outcomes (s : State) (u : SealUnit) : (s.setUnit u).outcomes = s.outcomes := Eq.trans rfl rfl
@[simp] theorem State.setUnit_groups (s : State) (u : SealUnit) : (s.setUnit u).groups = s.groups := Eq.trans rfl rfl
@[simp] theorem State.setUnit_boot (s : State) (u : SealUnit) : (s.setUnit u).boot = s.boot := Eq.trans rfl rfl
@[simp] theorem State.setUnit_faults (s : State) (u : SealUnit) : (s.setUnit u).faults = s.faults := Eq.trans rfl rfl
@[simp] theorem State.setUnit_ddr (s : State) (u : SealUnit) : (s.setUnit u).ddr = s.ddr := Eq.trans rfl rfl
@[simp] theorem State.setUnit_mem (s : State) (u : SealUnit) : (s.setUnit u).mem = s.mem := Eq.trans rfl rfl
@[simp] theorem State.setUnit_segs (s : State) (u : SealUnit) : (s.setUnit u).segs = s.segs := Eq.trans rfl rfl
@[simp] theorem State.setUnit_epochs (s : State) (u : SealUnit) : (s.setUnit u).epochs = s.epochs := Eq.trans rfl rfl
@[simp] theorem State.setUnit_hostEpochs (s : State) (u : SealUnit) : (s.setUnit u).hostEpochs = s.hostEpochs := Eq.trans rfl rfl
@[simp] theorem State.setUnit_links (s : State) (u : SealUnit) : (s.setUnit u).links = s.links := Eq.trans rfl rfl
@[simp] theorem State.setUnit_routes (s : State) (u : SealUnit) : (s.setUnit u).routes = s.routes := Eq.trans rfl rfl
@[simp] theorem State.setUnit_windows (s : State) (u : SealUnit) : (s.setUnit u).windows = s.windows := Eq.trans rfl rfl
@[simp] theorem State.setUnit_bulk (s : State) (u : SealUnit) : (s.setUnit u).bulk = s.bulk := Eq.trans rfl rfl
@[simp] theorem State.setUnit_cores (s : State) (u : SealUnit) : (s.setUnit u).cores = s.cores := Eq.trans rfl rfl
@[simp] theorem State.setUnit_signals (s : State) (u : SealUnit) : (s.setUnit u).signals = s.signals := Eq.trans rfl rfl
@[simp] theorem State.setUnit_engines (s : State) (u : SealUnit) : (s.setUnit u).engines = s.engines := Eq.trans rfl rfl
@[simp] theorem State.setUnit_maps (s : State) (u : SealUnit) : (s.setUnit u).maps = s.maps := Eq.trans rfl rfl
@[simp] theorem State.setUnit_mapUse (s : State) (u : SealUnit) : (s.setUnit u).mapUse = s.mapUse := Eq.trans rfl rfl
@[simp] theorem State.setUnit_moving (s : State) (u : SealUnit) : (s.setUnit u).moving = s.moving := Eq.trans rfl rfl
@[simp] theorem State.setUnit_toRelease (s : State) (u : SealUnit) : (s.setUnit u).toRelease = s.toRelease := Eq.trans rfl rfl
@[simp] theorem State.setUnit_flash (s : State) (u : SealUnit) : (s.setUnit u).flash = s.flash := Eq.trans rfl rfl
@[simp] theorem State.setUnit_reqs (s : State) (u : SealUnit) : (s.setUnit u).reqs = s.reqs := Eq.trans rfl rfl
@[simp] theorem State.setUnit_prefixes (s : State) (u : SealUnit) : (s.setUnit u).prefixes = s.prefixes := Eq.trans rfl rfl
@[simp] theorem State.setUnit_uses (s : State) (u : SealUnit) : (s.setUnit u).uses = s.uses := Eq.trans rfl rfl
@[simp] theorem State.setUnit_models (s : State) (u : SealUnit) : (s.setUnit u).models = s.models := Eq.trans rfl rfl
@[simp] theorem State.setUnit_loading (s : State) (u : SealUnit) : (s.setUnit u).loading = s.loading := Eq.trans rfl rfl
@[simp] theorem State.setUnit_learns (s : State) (u : SealUnit) : (s.setUnit u).learns = s.learns := Eq.trans rfl rfl
@[simp] theorem State.setUnit_loops (s : State) (u : SealUnit) : (s.setUnit u).loops = s.loops := Eq.trans rfl rfl
@[simp] theorem State.setUnit_ctxs (s : State) (u : SealUnit) : (s.setUnit u).ctxs = s.ctxs := Eq.trans rfl rfl
@[simp] theorem State.setUnit_saves (s : State) (u : SealUnit) : (s.setUnit u).saves = s.saves := Eq.trans rfl rfl
@[simp] theorem State.setUnit_taken (s : State) (u : SealUnit) : (s.setUnit u).taken = s.taken := Eq.trans rfl rfl
@[simp] theorem State.setUnit_um (s : State) (u : SealUnit) : (s.setUnit u).um = s.um := Eq.trans rfl rfl
@[simp] theorem State.setUnit_parts (s : State) (u : SealUnit) : (s.setUnit u).parts = s.parts := Eq.trans rfl rfl
@[simp] theorem State.setUnit_answer (s : State) (u : SealUnit) : (s.setUnit u).answer = s.answer := Eq.trans rfl rfl
@[simp] theorem State.setUnit_free (s : State) (u : SealUnit) : (s.setUnit u).free = s.free := Eq.trans rfl rfl
@[simp] theorem State.setUnit_pending (s : State) (u : SealUnit) : (s.setUnit u).pending = s.pending := Eq.trans rfl rfl
@[simp] theorem State.setUnit_reg (s : State) (u : SealUnit) (a : Nat) : (s.setUnit u).reg a = s.reg a := Eq.trans rfl rfl
@[simp] theorem State.setUnit_get (s : State) (u : SealUnit) (b : Nat) (f : Fld) (j : Nat) :
    (s.setUnit u).get b f j = s.get b f j := Eq.trans rfl rfl

end Sys2Proof.Machine
end

