-- ==== Sys2Proof/WellFormed.lean ====
section
/-! DEFINITION. Which operand terms stand for something the outside can send: the lengths that the formats fix. A command
whose operands the spec itself turns away (a register access of another width, a reserved field) is well formed: its
meaning says what becomes of it. -/

namespace Sys2Proof

/-- An armature message has four payload words (Table 02.3). -/
def ArmMsg.wf (m : ArmMsg) : Bool := m.payload.length == 4

/-- An armature frame carries the eight words of one message (R278). -/
def ArmFrame.wf (f : ArmFrame) : Bool := f.words.length == 8

/-- A flit's 8,224 bytes leave 1,024 payload words behind its header (Table 08.3, R273). -/
def Flit.wf (f : Flit) : Bool := decide (f.payload.length ≤ 1024)

/-- An Umajo flit's 1,040 bytes leave 128 payload words behind its header (R458). -/
def UmFlit.wf (f : UmFlit) : Bool := decide (f.payload.length ≤ 128)

/-- `DLEN` counts the data, at most 4,096 bytes, and each trailer that is present covers every word (Table 14.4, R463). -/
def UmMsg.wf (m : UmMsg) : Bool :=
  m.dlen.toNat == 8 * m.data.length && decide (m.data.length ≤ 512) &&
    (!m.poisoned || m.poison.length == m.data.length) && (!m.tagged || m.tags.length == m.data.length)

/-- An access starts at a word, and a write carries one word for each word it names. -/
def Access.wf (a : Access) : Bool :=
  a.addr.toNat % 8 == 0 && (match a.write with
    | some ws => ws.length == a.words
    | none => true)

/-- Host data comes with a tag and a poison mark for each word. -/
def ReqEnd.wf : ReqEnd → Bool
  | .host data tags poison => tags.length == data.length && poison.length == data.length
  | .served | .failed _ => true

/-- The readings of ten dies and six rails (R520). -/
def PowerSample.wf (p : PowerSample) : Bool := p.temps.length == 10 && p.rails.length == 6

/-- A report of skipped pages tells of at least one head, each with a query and a partial of every member for each (R216). -/
def SkipReport.wf (k : SkipReport) : Bool :=
  !k.heads.isEmpty && k.heads.all fun h =>
    !h.queries.isEmpty && h.partials.all fun p => p.length == h.queries.length

/-- Well-formed commands. -/
def WellFormed : Instr → Bool
  | .linkTrainingEnd l => decide (l.length ≤ 24)
  | .frameBoundary p => p.wf
  | .strokeMark _ m _ | .slipReq _ m | .fence _ m | .outcomeQuery _ m | .outcomeReply _ m | .throttle _ m |
    .vote _ m | .outcome _ m | .collective _ m | .barrier _ m | .memCpl m => m.wf
  | .dmaRequestComplete _ _ _ _ how => how.wf
  | .scratchpadAccess a | .ddrRequest a | .hostWindowRequest a => a.wf
  | .patrolScrub a _ => a.toNat % 8 == 0
  | .verify _ ds => ds.all fun d => d.length ≤ 15
  | .flitReceive _ f _ | .armatureFrameReceive _ f | .umajoFlitReceive f _ => f.wf
  | .batchFormation _ _ ks => ks.all SkipReport.wf
  | .queueFetch _ es => es.all fun e => e.length == 16
  | .railFault | .railsWithinTolerance | .resetAssert | .resetRelease _ | .umajoLinkUp _ _ | .readyEntry _ |
    .haltAssert | .haltRelease | .thermalTrip _ _ _ | .clockMonitorWindow _ _ _ | .bypass | .idcode |
    .samplePreload _ _ | .extest | .strokeEdge | .ddrRetrain _ _ | .lockLoss | .masterHandover |
    .sealRegister _ _ _ _ _ _ | .votePost _ _ | .outcomePost _ _ | .outcomeMissing _ _ | .outcomeQueryTimeout _ _ |
    .collectiveTimeout _ | .faultReport _ _ | .armatureSilence | .ucieModuleDown _ _ | .budgetEnd | .slotPush _ _ _ |
    .slotStart _ _ | .endBlock _ _ | .loop _ _ | .setp _ _ | .addp _ _ | .wait _ _ _ | .signal _ _ |
    .signalArrive _ _ _ _ | .evcWrite _ _ _ _ | .matmul _ _ | .vec _ _ | .dmaStart _ _ _ | .dmaStop _ _ |
    .coll _ _ _ | .lookup _ _ | .appendSet _ _ | .appendRow _ _ _ | .blockComplete _ _ _ | .carryDeadline _ _ _ |
    .dmaMove _ _ _ | .dmaLoop _ _ _ | .dmaWait _ _ _ | .dmaSignal _ _ _ | .dmaEnd _ _ _ | .stalePageDefer _ _ _ _ |
    .tierDeadline _ | .arrayClockGate _ _ _ _ | .fillPass _ _ _ _ _ | .jobPush _ _ _ | .jobSlotCompare _ _ |
    .sample _ _ | .shortlist _ | .merge _ _ | .raw _ | .uniform _ | .mask _ | .normal _ | .adamw _ | .signmom _ |
    .sgd _ | .ssq _ | .compare _ | .sha256 _ | .checkVerify _ | .scan _ _ | .cast _ _ | .amaxExchange _ |
    .mapInsert _ | .mapUpdate _ | .mapRemove _ | .mapRead _ | .moveTo _ _ | .pageSpill _ _ | .segWrite _ _ |
    .segRead _ _ | .rewrite _ _ _ | .realloc _ _ _ | .epochRead _ _ _ | .objCreate _ | .objWrite _ | .objSeal _ |
    .objRead _ | .objDelete _ | .objStat _ | .objectExpiry _ _ | .readReclaim _ _ _ | .flashTargetFail _ _ |
    .flitSend _ | .replayTimeout _ | .laneFail _ _ | .linkRetrainEnd _ _ | .armatureLaneFail _ | .chunkReceive _ |
    .chunkNak _ _ _ | .chunkDeadline _ | .send _ _ | .recv _ _ | .linkColl _ _ | .routeWrite _ _ | .routeRead _ _ |
    .fiCfgWrite _ _ _ | .learnStep _ _ | .loadBatch _ _ | .learnStepBegin _ | .stepNormPost _ | .submit _ _ |
    .pause _ | .pauseObjectWrite _ | .resume _ | .registerPrefix _ _ | .dropPrefix _ | .loadModel _ _ _ |
    .replaceEvict _ _ | .evictModel _ | .startLoop _ | .stopLoop _ | .setTurnPolicy _ | .forceTurn _ |
    .createContext _ | .resetContext _ | .setShares _ | .contextSwitch _ _ | .notifyTimer _ | .umajoFlitSend |
    .umajoReplayTimeout | .umajoLaneFail _ _ | .umajoRetrainTimer | .messageErrorReport _ | .csrWr _ _ _ |
    .csrRd _ _ | .doorbellSqTail _ _ | .doorbellEqConsumed _ _ | .hwinWrite _ | .hwinRead _ | .quote | .treeReady |
    .update _ | .csrWrite _ _ _ _ | .csrReadClear _ _ _ _ => true

end Sys2Proof
end

