-- ==== Sys2Proof/Tests/Slice0.lean ====
section
/-! SUPPORT. Checks of this model: for each statement of Certificates/Slice0/Obligations.lean that has hypotheses, states and
operands that meet them together, clause by clause; a term that each check of well-formedness refuses; the manual's worked
examples; single steps. -/

namespace Sys2Proof.Tests
open Sys2Proof Sys2Proof.Machine

set_option maxRecDepth 100000
set_option Elab.async false
/-! Small states from which one step runs. -/

/-- Set fields: block, field, value, which of like registers. -/
def sets (s : State) (l : List (Nat × Fld × Nat × Nat)) : State := l.foldl (fun s p => s.put p.1 p.2.1 p.2.2.1 p.2.2.2) s

def devRec (x : Nat) (ls : List W32) : DevRec :=
 { coords := [x, 0, 0, 0], sizes := [ls.length + 1, 1, 1, 1], links := ls ++ List.replicate (24 - ls.length) 0 }

/-- An image whose fabric is this device alone. -/
def im1 : Image :=
 { imgSeq := 1, fw := 1, fiAllow := false, imageDigest := [], fabricDigest := [], devNum := 0, fabric := [devRec 0 []],
   partitions := [], strokeUs := 8, frameLog2 := 2, trackMode := 0, retrainLimit := 1, laneSerLimit := 1, water := 0,
   arrayMhz := 1000, fabricMhz := 1250, ctrlMhz := 1000, ddrMts := 8800, sscDepth := 0, sscKhz := 30, trust := [] }

/-- An image whose fabric is two devices, link 0 of one on link 0 of the other. -/
def im2 : Image := { im1 with fabric := [devRec 0 [0x80040000#32], devRec 1 [0x80000000#32]] }

/-- A chip with an empty board, in reset. -/
def chip : State :=
 { State.reset with
   boot := { rootKey := [], prov := { dies := [], serial := 0, attKey := [], seed := [], seedDigest := [], signature := [],
                                      journal := [[], [], [], []], sector := 0 },
             flash := { dir0 := [], dir1 := [], slot0 := [], slot1 := [], mib := 64 }, image := some im1,
             treeReady := false }
   ddr := []
   flash := { targets := [], objects := [], erases := [], grown := [], us := 0 } }

def inState (n : Nat) : State := sets chip [(Base.device, Reg.devState, n, 0)]

/-- RUNNING, its stroke timer running, locked, alone. -/
def run : State :=
 let s := sets (inState Dev.running) [(Base.device, Reg.locked, 1, 0), (Base.device, Reg.budget, 1000, 0),
   (Base.device, Reg.frameLog2, 2, 0)]
 { s with strokes := { s.strokes with running := true } }

/-- The same with a second device behind link 0, which is in service. -/
def run2 : State :=
 let s := sets run [(Base.peerLink 0, Reg.linkState, 2, 0), (Base.peerLink 0, Reg.armOk, 1, 0),
   (Base.peerLink 0, Reg.peerDev, 1, 0)]
 { s with boot := { s.boot with image := some im2 } }

def msg0 : ArmMsg :=
 { mtype := 0, tag := 0, src := 1, dest := 0, ctx := 0, strokeLo := 0, payload := [0, 0, 0, 0], ops := 0, stage := 0,
   msgSeq := 7, subject := 0 }

theorem two {p : Nat → Nat → Prop} {a b : Nat} (h : ∀ d, d < a → ∀ c, c < b → p d c) :
   ∀ d c, d < a → c < b → p d c := fun d c hd hc => h d hd c hc

theorem not_self (a : BitVec 128) : ~~~ a ≠ a := by
 intro h
 have := congrArg (fun b : BitVec 128 => b.getLsbD 0) h
 simp at this

def retest0 : Retest := { die := 0, core := 0, arr := 7, pattern := 0, left := 1, failed := false }

def um0 : UmMsg :=
 { mtype := 0, dlen := 0, mtag := 0, ctx := 0, poisoned := false, tagged := false, etag := 0, addr := 0, arg := 0,
   data := [], poison := [], tags := [] }

/-! The witnesses: for each clause of a statement, a state and operands that meet its hypotheses together. -/

theorem test_witness_StepRunsFront :
    (∃ (s : State) (c : Instr) (rest : List Instr), s.pending = c :: rest) ∧
    (∃ (s : State), s.pending = []) :=
  ⟨⟨{ run with pending := [.strokeEdge, .treeReady] }, .strokeEdge, [.treeReady], rfl⟩,
   ⟨run, rfl⟩⟩

theorem test_witness_StepTakesFront :
    (∃ (s : State) (t : State), step s = .next t) :=
  ⟨{ run with pending := [.treeReady] }, run.put Base.identity Reg.attState 0 |> fun u => { u with boot := { u.boot with treeReady := true } }, rfl⟩

theorem test_witness_ProvenanceWriteProtected :
    (∃ (P : Provenance) (s : State) (t : State), { s.boot.prov with journal := [], sector := 0 } = P ∧ step s = .next t) :=
  ⟨{ run.boot.prov with journal := [], sector := 0 }, { run with pending := [.treeReady] }, run.put Base.identity Reg.attState 0 |> fun u => { u with boot := { u.boot with treeReady := true } }, rfl, rfl⟩

theorem test_witness_SuppliesAndReset :
    (∃ (s : State), s.devState ≠ Dev.off) ∧
    (∃ (s : State), s.devState = Dev.off) ∧
    (∃ (s : State), s.devState = Dev.off ∧ s.pins.resetN = true) ∧
    (∃ (s : State), (s.devState ≠ Dev.off ∨ s.pins.resetN = false)) :=
  ⟨by refine ⟨run, ?_⟩; decide +kernel,
   by refine ⟨inState Dev.off, ?_⟩; decide +kernel,
   by refine ⟨inState Dev.off, ?_⟩; decide +kernel,
   by refine ⟨run, ?_⟩; decide +kernel⟩

theorem test_witness_HaltAndReady :
    (∃ (s : State), (s.devState = Dev.selftest ∧ s.get Base.device Reg.locked = 1 ∧ 65536 ≤ s.stroke)) ∧
    (∃ (s : State), (¬(s.devState = Dev.selftest ∧ s.get Base.device Reg.locked = 1 ∧ 65536 ≤ s.stroke))) :=
  ⟨by refine ⟨{ sets (inState Dev.selftest) [(Base.device, Reg.locked, 1, 0), (Base.device, Reg.strokeCount, 65536, 0)] with units := [] }, ?_⟩; decide +kernel,
   by refine ⟨sets (inState Dev.selftest) [(Base.device, Reg.locked, 1, 0), (Base.device, Reg.strokeCount, 65535, 0)], ?_⟩; decide +kernel⟩

theorem test_witness_TripMonitorsAndScan :
    (∃ (s : State) (temp : Byte), s.awake = true ∧ temp.toInt ≥ 120) ∧
    (∃ (temp : Byte), temp.toInt < 120) ∧
    (∃ (s : State) (unit : UnitNo) (domain : Fin 20) (khz : W32) (im : Image), s.awake = true ∧ domainExists (unitOf unit) domain.val = true ∧ s.boot.image = some im ∧ windowPasses im (unitOf unit) domain.val khz.toNat = true) ∧
    (∃ (s : State) (unit : UnitNo) (domain : Fin 20) (khz : W32) (im : Image), s.awake = true ∧ domainExists (unitOf unit) domain.val = true ∧ s.boot.image = some im ∧ windowPasses im (unitOf unit) domain.val khz.toNat = false ∧ (unitOf unit, domain.val) ∉ s.faults.failing) :=
  ⟨by refine ⟨run, 120, ?_⟩; decide +kernel,
   by refine ⟨119, ?_⟩; decide +kernel,
   by refine ⟨run, 0, 0, 1000000, im1, ?_⟩; decide +kernel,
   by refine ⟨run, 0, 0, 0, im1, ?_⟩; decide +kernel⟩

theorem test_witness_StrokeEdgeWhileSettling :
    (∃ (s : State), s.strokes.running = true ∧ s.devState = Dev.selftest ∧ s.get Base.device Reg.isMaster = 0 ∧ s.units = [] ∧ s.faults.toFence = [] ∧ s.strokes.slips = [] ∧ s.get Base.device Reg.throttleLevel = 0 ∧ (s.stroke + 1) % s.frame ≠ 0 ∧ (∀ d c, d < 8 → c < 16 → s.effGet (Base.cachePart d) Reg.cpWays c = s.get (Base.cachePart d) Reg.cpWays c)) ∧
    (∃ (s : State), (s.strokes.running = false ∨ s.devState = Dev.failed)) :=
  ⟨⟨{ inState Dev.selftest with strokes := { chip.strokes with running := true } } |> fun s => sets s [(Base.device, Reg.frameLog2, 2, 0)], by decide +kernel, by decide +kernel, by decide +kernel, by decide +kernel, by decide +kernel, by decide +kernel, by decide +kernel, by decide +kernel, two (by decide +kernel)⟩,
   by refine ⟨{ run with strokes := { run.strokes with running := false } }, ?_⟩; decide +kernel⟩

theorem test_witness_FrameBoundaryAlone :
    (∃ (s : State), s.serving = true ∧ s.stroke % s.frame = 0 ∧ s.frameCount frameDoneKey ≠ s.stroke + 1 ∧ s.devsInService = [s.myNum] ∧ (s.distances s.myNum).map (·.1) = [s.myNum] ∧ s.get Base.device Reg.masterNum = s.myNum ∧ s.segs = [] ∧ s.frameCount routesKey = 0 ∧ s.frameCount homesKey = 0 ∧ s.um.waiting = [] ∧ s.arm.colls = [] ∧ s.live = [] ∧ s.models = [] ∧ s.loading = [] ∧ (∀ c, (s.learn c).prog = none) ∧ (∀ c, (s.ctxRec c).shares = none) ∧ s.strokes.prevLevel ≤ 15 ∧ (∀ l, l < 24 → s.reg (Base.linkFault (l / 12) + l % 12 * 0x10) = (s.link l).inForce)) :=
  ⟨run, by decide +kernel, by decide +kernel, by decide +kernel, by decide +kernel, by decide +kernel, by decide +kernel, by decide +kernel, by decide +kernel, by decide +kernel, by decide +kernel, by decide +kernel, by decide +kernel, by decide +kernel, by decide +kernel, fun _ => rfl, fun _ => rfl, by decide +kernel, by decide +kernel⟩

theorem test_witness_LockMasterAndRetrain :
    (∃ (s : State), s.get Base.device Reg.locked = 1 ∧ (4 ≤ s.strokes.bad ∨ 8 ≤ s.strokes.silent) ∧ (∀ u ∈ s.units, u.ctx < 16)) ∧
    (∃ (s : State), (¬(s.get Base.device Reg.locked = 1 ∧ (4 ≤ s.strokes.bad ∨ 8 ≤ s.strokes.silent)))) ∧
    (∃ (s : State) (x : _), s.strokes.running = true ∧ s.serving = true ∧ s.get Base.device Reg.masterNum ≠ s.myNum ∧ 8 ≤ s.strokes.silent ∧ x ∈ s.devsInService ∧ x ≠ s.get Base.device Reg.masterNum ∧ (∀ y ∈ s.devsInService, y ≠ s.get Base.device Reg.masterNum → x ≤ y)) ∧
    (∃ (s : State), (s.strokes.silent < 8 ∨ s.get Base.device Reg.masterNum = s.myNum)) ∧
    (∃ (s : State) (chan : ChanNo), s.get (Base.ddr chan.val) Reg.ddrState = 2 ∧ s.frameCount (retrainKey chan.val) = 1) ∧
    (∃ (s : State) (chan : ChanNo), (¬(s.get (Base.ddr chan.val) Reg.ddrState = 2 ∧ s.frameCount (retrainKey chan.val) = 1))) :=
  ⟨by refine ⟨{ run with strokes := { run.strokes with bad := 4 } }, ?_⟩; decide +kernel,
   by refine ⟨{ run with strokes := { run.strokes with bad := 3, silent := 7 } }, ?_⟩; decide +kernel,
   by refine ⟨{ sets run2 [(Base.device, Reg.masterNum, 1, 0)] with strokes := { run2.strokes with silent := 8 } }, 0, ?_⟩; decide +kernel,
   by refine ⟨{ run2 with strokes := { run2.strokes with silent := 7 } }, ?_⟩; decide +kernel,
   by refine ⟨{ sets run [(Base.ddr 0, Reg.ddrState, 2, 0)] with faults := { run.faults with frameCounts := [(64, 1)] } }, 0, ?_⟩; decide +kernel,
   by refine ⟨run, 0, ?_⟩; decide +kernel⟩

theorem test_witness_MarksSlipsAndLevels :
    (∃ (s : State) (link : LinkNo) (msg : ArmMsg), s.strokes.running = true ∧ s.serving = true ∧ s.hopTo (s.get Base.device Reg.masterNum) = some link.val ∧ msg.src.toNat = s.get Base.device Reg.masterNum ∧ s.strokes.marked = false ∧ s.strokes.lost = false ∧ s.strokes.toStep = false ∧ s.get Base.device Reg.locked = 1) ∧
    (∃ (s : State) (msg : ArmMsg), s.strokes.running = true ∧ s.seenMsg msg = false ∧ s.stroke < msg.subject.toNat) ∧
    (∃ (s : State) (msg : ArmMsg), s.seenMsg msg = true) ∧
    (∃ (s : State) (msg : ArmMsg), msg.dest.toNat = s.myNum) ∧
    (∃ (s : State) (msg : ArmMsg), msg.dest.toNat ≠ s.myNum) :=
  ⟨by refine ⟨sets run2 [(Base.device, Reg.masterNum, 1, 0)], 0, msg0, ?_⟩; decide +kernel,
   by refine ⟨run2, { msg0 with subject := 1 }, ?_⟩; decide +kernel,
   by refine ⟨{ run2 with arm := { run2.arm with seen := [(1, 7)] } }, msg0, ?_⟩; decide +kernel,
   by refine ⟨run2, msg0, ?_⟩; decide +kernel,
   by refine ⟨run2, { msg0 with dest := 1 }, ?_⟩; decide +kernel⟩

def unit0 : SealUnit :=
 { ctx := 0, kind := 0, seq := 0, first := 0, last := 0, staged := true, cause := none, k := some 0, reasons := 0,
   voted := false, vote := none, posted := false, outcome := none, due := none, queried := false, group := [] }

/-- A running device with a staged unit, at stroke `n`. -/
def unitAt (n : Nat) (u : SealUnit) : State :=
 { sets run [(Base.device, Reg.strokeCount, n, 0)] with units := [u] }

/-- The collective that device 0 of two has posted. -/
def pairColl : Coll :=
 { Coll.fresh 0x07 0 with posted := true, group := [(0, 1), (0, 0), (0, 0), (0, 0)], value := [1, 2, 3, 4] }

def pairState (c : Coll) : State := { run2 with arm := { run2.arm with colls := [c] }, units := [unit0] }

def train0 : LinkTrain :=
 { link := 0, ok := true, lanes := 0xFF, peerDev := 2, peerLink := 0, peerDigest := 0, delay := 0 }

def blk : BlockRun :=
 { ctx := 0, kind := 0, seq := 0, slot := 0, spanEnd := false, cast := 0, base := 0, len := 16, pc := 0, loops := [],
   last := 0, ended := false, overran := false, edge := 0, began := 0, done := 0, unfixed := false, holds := [], vprev := none }

theorem test_witness_UnitRegistered :
    (∃ (s : State) (ctx : Ctx) (kind : BitVec 2) (seq : W32), kind ≠ 3 ∧ seq.toNat = s.planSeq ctx.val ∧ (kind = 0 → ∀ u ∈ s.units, u.ctx = ctx.val → u.kind = 2 → u.staged = false) ∧ (kind = 2 → (s.learn ctx.val).run = none ∧ ∀ u ∈ s.units, u.ctx = ctx.val → u.kind = 0 → u.staged = false)) ∧
    (∃ (s : State) (ctx : Ctx) (kind : BitVec 2) (seq : W32), (kind = 3 ∨ seq.toNat ≠ s.planSeq ctx.val ∨ (kind = 0 ∧ ∃ u ∈ s.units, u.ctx = ctx.val ∧ u.kind = 2 ∧ u.staged = true) ∨ (kind = 2 ∧ ((s.learn ctx.val).run ≠ none ∨ ∃ u ∈ s.units, u.ctx = ctx.val ∧ u.kind = 0 ∧ u.staged = true)))) :=
  ⟨by refine ⟨run, 15, 2, 0, ?_⟩; decide +kernel,
   by refine ⟨run, 0, 3, 0, ?_⟩; decide +kernel⟩

theorem test_witness_VoteAndOutcomePosted :
    (∃ (s : State) (ctx : Ctx) (seq : W32) (u : SealUnit), s.findUnit ctx.val seq.toNat = some u ∧ u.staged = true ∧ u.voted = false ∧ u.k.map (· + s.get Base.device Reg.sealWait + 1) = some s.stroke ∧ s.devState ≠ Dev.halted) ∧
    (∃ (s : State) (ctx : Ctx) (seq : W32) (u : SealUnit), s.findUnit ctx.val seq.toNat = some u ∧ u.staged = true ∧ u.voted = false ∧ u.k.map (· + s.get Base.device Reg.sealWait + 1) = some s.stroke ∧ s.devState ≠ Dev.halted ∧ s.arm.colls = [] ∧ s.nextDim u.group 0 = 4 ∧ s.strokes.ended = false) ∧
    (∃ (s : State) (ctx : Ctx) (seq : W32) (u : SealUnit), s.findUnit ctx.val seq.toNat = some u ∧ (u.staged = false ∨ u.voted = true ∨ u.k.map (· + s.get Base.device Reg.sealWait + 1) ≠ some s.stroke ∨ s.devState = Dev.halted)) ∧
    (∃ (s : State) (ctx : Ctx) (seq : W32) (u : SealUnit), s.findUnit ctx.val seq.toNat = some u ∧ u.staged = true ∧ u.voted = true ∧ u.posted = false ∧ s.devState ≠ Dev.halted ∧ u.k.map (· + s.get Base.device Reg.sealWait + 2) = some s.stroke) ∧
    (∃ (s : State) (ctx : Ctx) (seq : W32) (u : SealUnit) (r : Half), s.findUnit ctx.val seq.toNat = some u ∧ u.staged = true ∧ u.voted = true ∧ u.posted = false ∧ s.devState ≠ Dev.halted ∧ u.k.map (· + s.get Base.device Reg.sealWait + 2) = some s.stroke ∧ s.arm.colls = [] ∧ s.nextDim u.group 0 = 4 ∧ s.strokes.ended = false ∧ u.outcome = none ∧ ((u.vote = none ∧ r = u.reasons ||| (1#16 <<< Reason.missing)) ∨ ∃ a b c d, u.vote = some [a, b, c, d] ∧ r = if b = word u.seq ∧ c = word u.seq then a.setWidth 16 else a.setWidth 16 ||| (1#16 <<< Reason.mismatch))) ∧
    (∃ (s : State) (ctx : Ctx) (seq : W32) (u : SealUnit), s.findUnit ctx.val seq.toNat = some u ∧ (u.staged = false ∨ u.voted = false ∨ u.posted = true ∨ s.devState = Dev.halted ∨ u.k.map (· + s.get Base.device Reg.sealWait + 2) ≠ some s.stroke)) :=
  ⟨by refine ⟨unitAt 1 unit0, 0, 0, unit0, ?_⟩; decide +kernel,
   by refine ⟨unitAt 1 unit0, 0, 0, unit0, ?_⟩; decide +kernel,
   by refine ⟨unitAt 2 unit0, 0, 0, unit0, ?_⟩; decide +kernel,
   by refine ⟨unitAt 2 ({ unit0 with voted := true }), 0, 0, { unit0 with voted := true }, ?_⟩; decide +kernel,
   by refine ⟨unitAt 2 ({ unit0 with voted := true }), 0, 0, { unit0 with voted := true }, 1#16 <<< 5, ?_⟩; decide +kernel,
   by refine ⟨unitAt 1 ({ unit0 with voted := true }), 0, 0, { unit0 with voted := true }, ?_⟩; decide +kernel⟩

theorem test_witness_OutcomeMissingAndReply :
    (∃ (s : State) (ctx : Ctx) (seq : W32) (u : SealUnit), s.findUnit ctx.val seq.toNat = some u ∧ u.staged = true ∧ u.outcome = none ∧ u.queried = false ∧ (u.k.map (· + s.get Base.device Reg.sealWait + 2) = some s.stroke ∨ u.k.map (· + s.get Base.device Reg.sealWait + 3) = some s.stroke) ∧ u.voted = true ∧ u.k.map (· + s.get Base.device Reg.sealWait + 2) = some s.stroke) ∧
    (∃ (s : State) (ctx : Ctx) (seq : W32) (u : SealUnit), s.findUnit ctx.val seq.toNat = some u ∧ u.staged = true ∧ u.outcome = none ∧ u.queried = false ∧ (u.k.map (· + s.get Base.device Reg.sealWait + 2) = some s.stroke ∨ u.k.map (· + s.get Base.device Reg.sealWait + 3) = some s.stroke) ∧ u.voted = true ∧ u.k.map (· + s.get Base.device Reg.sealWait + 3) = some s.stroke) ∧
    (∃ (s : State) (ctx : Ctx) (seq : W32) (u : SealUnit), s.findUnit ctx.val seq.toNat = some u ∧ u.staged = true ∧ u.outcome = none ∧ u.queried = false ∧ (u.k.map (· + s.get Base.device Reg.sealWait + 2) = some s.stroke ∨ u.k.map (· + s.get Base.device Reg.sealWait + 3) = some s.stroke) ∧ u.voted = false) ∧
    (∃ (s : State) (ctx : Ctx) (seq : W32) (u : SealUnit), s.findUnit ctx.val seq.toNat = some u ∧ u.queried = true ∧ u.outcome = none ∧ u.due = some s.stroke) ∧
    (∃ (s : State) (ctx : Ctx) (seq : W32) (u : SealUnit), s.findUnit ctx.val seq.toNat = some u ∧ (u.queried = false ∨ u.outcome ≠ none ∨ u.due ≠ some s.stroke)) ∧
    (∃ (s : State) (u : SealUnit) (msg : ArmMsg), s.findUnit msg.ctx.toNat msg.subject.toNat = some u ∧ msg.dest.toNat = s.myNum ∧ u.queried = true ∧ u.outcome = none) ∧
    (∃ (s : State) (u : SealUnit) (msg : ArmMsg), s.findUnit msg.ctx.toNat msg.subject.toNat = some u ∧ msg.dest.toNat = s.myNum ∧ (u.queried = false ∨ u.outcome ≠ none)) ∧
    (∃ (s : State) (msg : ArmMsg), msg.dest.toNat ≠ s.myNum) :=
  ⟨by refine ⟨unitAt 2 ({ unit0 with voted := true }), 0, 0, { unit0 with voted := true }, ?_⟩; decide +kernel,
   by refine ⟨unitAt 3 ({ unit0 with voted := true }), 0, 0, { unit0 with voted := true }, ?_⟩; decide +kernel,
   by refine ⟨unitAt 3 unit0, 0, 0, unit0, ?_⟩; decide +kernel,
   by refine ⟨unitAt 4 ({ unit0 with queried := true, due := some 4 }), 0, 0, { unit0 with queried := true, due := some 4 }, ?_⟩; decide +kernel,
   by refine ⟨unitAt 5 ({ unit0 with queried := true, due := some 4 }), 0, 0, { unit0 with queried := true, due := some 4 }, ?_⟩; decide +kernel,
   by refine ⟨unitAt 4 ({ unit0 with queried := true, due := some 4 }), { unit0 with queried := true, due := some 4 }, { msg0 with payload := [1, 0, 0, 0] }, ?_⟩; decide +kernel,
   by refine ⟨unitAt 4 unit0, unit0, msg0, ?_⟩; decide +kernel,
   by refine ⟨run2, { msg0 with dest := 1 }, ?_⟩; decide +kernel⟩

theorem test_witness_QueryAnsweredAndFenceHeard :
    (∃ (s : State) (msg : ArmMsg), s.seenMsg msg = true) ∧
    (∃ (s : State) (link : LinkNo) (msg : ArmMsg) (ok : Bool), s.seenMsg msg = false ∧ s.armLinks = [link.val] ∧ s.hopTo msg.src.toNat = some link.val ∧ (s.outcomes.find? fun o => o.1 == msg.ctx.toNat && o.2.1 == msg.subject.toNat) = some (msg.ctx.toNat, msg.subject.toNat, ok)) ∧
    (∃ (s : State) (msg : ArmMsg) (dev : Nat), s.seenMsg msg = false ∧ s.strokes.running = true ∧ s.devState ≠ Dev.failed ∧ bits msg.subject 27 16 = dev ∧ bits msg.subject 12 8 = 0x1F ∧ bits msg.subject 7 0 = 0xFF ∧ dev = s.myNum) ∧
    (∃ (s : State) (msg : ArmMsg) (dev : Nat), s.seenMsg msg = false ∧ s.strokes.running = true ∧ s.devState ≠ Dev.failed ∧ bits msg.subject 27 16 = dev ∧ bits msg.subject 12 8 = 0x1F ∧ bits msg.subject 7 0 = 0xFF ∧ dev ≠ s.myNum ∧ dev ∉ s.arm.devs ∧ s.windows = [] ∧ s.bulk = [] ∧ (∀ l, l < 24 → (s.link l).queues.flatten = [])) ∧
    (∃ (s : State) (msg : ArmMsg), s.seenMsg msg = false ∧ bits msg.subject 27 16 ≠ s.myNum ∧ bits msg.subject 12 8 < 8) :=
  ⟨by refine ⟨{ run2 with arm := { run2.arm with seen := [(1, 7)] } }, msg0, ?_⟩; decide +kernel,
   by refine ⟨{ run2 with outcomes := [(0, 0, true)] }, 0, msg0, true, ?_⟩; decide +kernel,
   by refine ⟨run2, { msg0 with subject := 0x1FFF }, (bits ({ msg0 with subject := 0x1FFF }).subject 27 16), ?_⟩; decide +kernel,
   by refine ⟨run2, { msg0 with subject := 0x11FFF }, (bits ({ msg0 with subject := 0x11FFF }).subject 27 16), ?_⟩; decide +kernel,
   by refine ⟨run2, { msg0 with subject := 0x107FF }, ?_⟩; decide +kernel⟩

theorem test_witness_StageOfTwoMembers :
    (∃ (s : State) (link : LinkNo) (msg : ArmMsg) (c : Coll) (u : SealUnit) (a : List Word) (b : List Word), PairStage s link.val msg 0x07 c a b ∧ c.purpose = 1 ∧ c.ops = [0x6, 0x5, 0x4, 0x0] ∧ s.strokes.ended = false ∧ s.findUnit c.ctx c.subject.toNat = some u) ∧
    (∃ (s : State) (link : LinkNo) (msg : ArmMsg) (c : Coll) (u : SealUnit) (a : List Word) (b : List Word), PairStage s link.val msg 0x08 c a b ∧ c.purpose = 2 ∧ c.ops = [0x7, 0x0, 0x0, 0x0] ∧ s.strokes.ended = false ∧ s.findUnit c.ctx c.subject.toNat = some u ∧ u.outcome = none) ∧
    (∃ (s : State) (link : LinkNo) (msg : ArmMsg) (c : Coll) (a : List Word) (b : List Word) (d : _) (k : _) (off : _) (ec : _), c.purpose = 0 ∧ c.poster = (d, k, off, ec) ∧ s.coreUp d k = true ∧ PairStage s link.val msg 0x09 c a b) ∧
    (∃ (s : State) (link : LinkNo) (msg : ArmMsg) (c : Coll) (a : List Word) (b : List Word) (d : _) (k : _) (off : _) (ec : _), c.purpose = 0 ∧ c.poster = (d, k, off, ec) ∧ s.coreUp d k = true ∧ PairStage s link.val msg 0x0A c a b) ∧
    (∃ (s : State) (msg : ArmMsg) (r : _), s.seenMsg msg = false ∧ s.arm.colls = [] ∧ s.fabric[msg.src.toNat]? = some r) :=
  ⟨⟨pairState ({ pairColl with purpose := 1, ops := [6, 5, 4, 0] }), 0, msg0, { pairColl with purpose := 1, ops := [6, 5, 4, 0] }, unit0, [1, 2, 3, 4], [0, 0, 0, 0], ⟨devRec 1 [0x80000000#32], 0, 0, 1, by decide +kernel⟩, by decide +kernel, by decide +kernel, by decide +kernel, by decide +kernel⟩,
   ⟨pairState ({ pairColl with mtype := 8, purpose := 2, ops := [7, 0, 0, 0] }), 0, msg0, { pairColl with mtype := 8, purpose := 2, ops := [7, 0, 0, 0] }, unit0, [1, 2, 3, 4], [0, 0, 0, 0], ⟨devRec 1 [0x80000000#32], 0, 0, 1, by decide +kernel⟩, by decide +kernel, by decide +kernel, by decide +kernel, by decide +kernel, by decide +kernel⟩,
   ⟨pairState ({ pairColl with mtype := 9, poster := (0, 0, 0, 0) }), 0, msg0, { pairColl with mtype := 9, poster := (0, 0, 0, 0) }, [1, 2, 3, 4], [0, 0, 0, 0], 0, 0, 0, 0, by decide +kernel, by decide +kernel, by decide +kernel, ⟨devRec 1 [0x80000000#32], 0, 0, 1, by decide +kernel⟩⟩,
   ⟨pairState ({ pairColl with mtype := 10 }), 0, msg0, { pairColl with mtype := 10 }, [1, 2, 3, 4], [0, 0, 0, 0], 0, 0, 0, 0, by decide +kernel, by decide +kernel, by decide +kernel, ⟨devRec 1 [0x80000000#32], 0, 0, 1, by decide +kernel⟩⟩,
   by refine ⟨run2, msg0, devRec 1 [0x80000000#32], ?_⟩; decide +kernel⟩

theorem test_witness_LateCollectiveSilenceAndModule :
    (∃ (s : State) (tag : BitVec 6) (c : Coll), s.findColl 0x09 tag.toNat = some c ∧ c.posted = true ∧ c.result = none ∧ c.stroke < s.stroke ∧ (s.stroke + 1) ∉ s.strokes.slips ∧ c.purpose = 0) ∧
    (∃ (s : State) (tag : BitVec 6) (c : Coll), (s.findColl 0x09 tag.toNat = none ∨ (s.findColl 0x09 tag.toNat = some c ∧ (c.posted = false ∨ c.result ≠ none ∨ s.stroke ≤ c.stroke ∨ (s.stroke + 1) ∈ s.strokes.slips)))) ∧
    (∃ (s : State), s.serving = true ∧ 1 < s.fabric.length ∧ 8 ≤ s.arm.silence) ∧
    (∃ (s : State), (s.serving = false ∨ s.fabric.length ≤ 1 ∨ s.arm.silence < 8)) ∧
    (∃ (s : State) (conn : Connection) (m : Fin 8), s.awake = true ∧ m.val < connModules conn ∧ (conn, m.val) ∉ s.faults.down) ∧
    (∃ (s : State) (conn : Connection) (m : Fin 8), (s.awake = false ∨ connModules conn ≤ m.val ∨ (conn, m.val) ∈ s.faults.down)) :=
  ⟨by refine ⟨{ pairState ({ pairColl with mtype := 9 }) with cores := [(0, { Core.new with block := some blk })] } |> fun s => sets s [(Base.device, Reg.strokeCount, 1, 0)], 0, { pairColl with mtype := 9 }, ?_⟩; decide +kernel,
   by refine ⟨run, 0, pairColl, ?_⟩; decide +kernel,
   by refine ⟨{ run2 with arm := { run2.arm with silence := 8 } }, ?_⟩; decide +kernel,
   by refine ⟨{ run2 with arm := { run2.arm with silence := 7 } }, ?_⟩; decide +kernel,
   by refine ⟨run, .bridge, 7, ?_⟩; decide +kernel,
   by refine ⟨run, .ring 0, 2, ?_⟩; decide +kernel⟩

theorem test_witness_FindingsReported :
    (∃ (s : State) (unit : UnitNo), s.awake = true ∧ s.isFenced (unitOf unit) 0xFF = false) ∧
    (∃ (s : State) (unit : UnitNo) (core : CoreNo), s.awake = true ∧ s.isFenced (unitOf unit) 0xFF = false ∧ unitOf unit < 8 ∧ s.isFenced (unitOf unit) core.val = false) ∧
    (∃ (s : State) (unit : UnitNo) (ctl : Fin 4), s.awake = true ∧ s.isFenced (unitOf unit) 0xFF = false ∧ s.isFenced (unitOf unit) ((if unitOf unit < 8 then 0x30 else 0x40) + ctl.val) = false ∧ s.goneUnit (uid (unitOf unit) ((if unitOf unit < 8 then 0x30 else 0x40) + ctl.val)) = false) ∧
    (∃ (s : State) (unit : UnitNo), (s.awake = false ∨ s.isFenced (unitOf unit) 0xFF = true)) :=
  ⟨by refine ⟨run, 0, ?_⟩; decide +kernel,
   by refine ⟨run, 0, 0, ?_⟩; decide +kernel,
   by refine ⟨run, 0, 0, ?_⟩; decide +kernel,
   by refine ⟨inState Dev.reset, 0, ?_⟩; decide +kernel⟩

theorem test_witness_BudgetEndOverrun :
    (∃ (s : State) (d : Nat) (c : Nat) (k : Core) (b : BlockRun), s.strokes.running = true ∧ s.serving = true ∧ s.strokes.ended = false ∧ d < 8 ∧ c < 48 ∧ s.cores = [(48 * d + c, k)] ∧ k.block = some b ∧ s.engines = [] ∧ s.coreUp d c = true ∧ b.overran = false) ∧
    (∃ (s : State) (d : Nat) (c : Nat) (k : Core) (b : BlockRun), s.strokes.running = true ∧ s.serving = true ∧ s.strokes.ended = false ∧ d < 8 ∧ c < 48 ∧ s.cores = [(48 * d + c, k)] ∧ k.block = some b ∧ s.engines = [] ∧ s.coreUp d c = true ∧ b.overran = true) ∧
    (∃ (s : State), (s.strokes.running = false ∨ s.serving = false ∨ s.strokes.ended = true)) :=
  ⟨by refine ⟨{ run with cores := [(383, ({ Core.new with block := some blk }))] }, 7, 47, { Core.new with block := some blk }, blk, ?_⟩; decide +kernel,
   by refine ⟨{ run with cores := [(383, ({ Core.new with block := some ({ blk with overran := true }) }))] }, 7, 47, { Core.new with block := some ({ blk with overran := true }) }, { blk with overran := true }, ?_⟩; decide +kernel,
   by refine ⟨{ run with strokes := { run.strokes with ended := true } }, ?_⟩; decide +kernel⟩

theorem test_witness_LinksComeUp :
    (∃ (s : State) (lanes : BitVec 16), umWidthOf lanes.toNat ≠ 0 ∧ s.get Base.umajo Reg.umState = 1) ∧
    (∃ (s : State) (lanes : BitVec 16), umWidthOf lanes.toNat ≠ 0 ∧ s.get Base.umajo Reg.umState = 3) ∧
    (∃ (s : State) (lanes : BitVec 16), umWidthOf lanes.toNat = 0 ∧ s.get Base.umajo Reg.umState = 3) ∧
    (∃ (s : State) (lanes : BitVec 16), s.get Base.umajo Reg.umState ≠ 3 ∧ (umWidthOf lanes.toNat = 0 ∨ s.get Base.umajo Reg.umState ≠ 1)) ∧
    (∃ (s : State), s.devState = Dev.selftest ∧ s.strokes.running = false ∧ (∀ i, i < 24 → s.get (Base.peerLink i) Reg.linkState ≠ 1 ∧ lwListed (linkWord s.fabric s.myNum i) = false)) ∧
    (∃ (s : State) (found : List LinkTrain) (l : LinkNo) (x : LinkTrain), s.devState = Dev.selftest ∧ s.strokes.running = false ∧ (found.find? fun t => t.link.val == l.val) = some x ∧ s.get (Base.peerLink l.val) Reg.linkState = 1 ∧ (∀ i, i < 24 → i ≠ l.val → s.get (Base.peerLink i) Reg.linkState ≠ 1) ∧ x.ok = true ∧ linkWidthOf (x.lanes.toNat &&& (255 ^^^ provLaneOff s.boot.prov (l.val / 12) (l.val % 12))) ≠ 0 ∧ x.peerDev.toNat ≠ lwPeer (linkWord s.fabric s.myNum l.val)) ∧
    (∃ (s : State), (s.devState ≠ Dev.selftest ∨ s.strokes.running = true)) :=
  ⟨by refine ⟨sets run [(Base.umajo, Reg.umState, 1, 0)], 0xFFFF, ?_⟩; decide +kernel,
   by refine ⟨sets run [(Base.umajo, Reg.umState, 3, 0)], 0xFFFF, ?_⟩; decide +kernel,
   by refine ⟨sets run [(Base.umajo, Reg.umState, 3, 0)], 0, ?_⟩; decide +kernel,
   by refine ⟨sets run [(Base.umajo, Reg.umState, 1, 0)], 0, ?_⟩; decide +kernel,
   by refine ⟨inState Dev.selftest, ?_⟩; decide +kernel,
   by refine ⟨sets { run2 with strokes := chip.strokes } [(Base.device, Reg.devState, 3, 0), (Base.peerLink 0, Reg.linkState, 1, 0)], [train0], 0, train0, ?_⟩; decide +kernel,
   by refine ⟨run, ?_⟩; decide +kernel⟩

/-- The words of a core's command store, from word 0. -/
def storeOf (ws : List Word) : Cells Word := (ws.mapIdx fun i w => (i, w)).filter fun p => p.2 != 0

/-- Core 0 of CD0 runs a block whose first words are these. -/
def at0 (ws : List Word) (b : BlockRun := blk) : State :=
 { run with cores := [(0, { Core.new with store := storeOf ws, block := some b })] }

theorem at_command {s : State} {d c op nw : Nat} {b : BlockRun} {ws : List Word}
   (h : (s.core d c).block = some b ∧ b.ended = false ∧ s.coreUp d c = true ∧
     ws = (List.range (nw + 1)).map (fun i => s.fetch d c (b.pc + i)) ∧ bits (ws.getD 0 0) 63 58 = op ∧
     bits (ws.getD 0 0) 57 56 = nw ∧ b.pc + nw < b.base + b.len - 1 ∧ effAt b (ws.getD 0 0) = none) :
   AtCommand s d c op nw b ws :=
 ⟨h.1, h.2.1, h.2.2.1, h.2.2.2.1, h.2.2.2.2.1, h.2.2.2.2.2.1, h.2.2.2.2.2.2.1, fun a e => by rw [h.2.2.2.2.2.2.2] at e; nomatch e⟩

/-- The first word of a command with no earliest cycle: opcode, further words and the rest. -/
def cw (op nw rest : Nat) : Word := word (op * 2 ^ 58 + nw * 2 ^ 56 + 0xFFFF * 2 ^ 40 + rest)

/-- Core 0 of CD0 with slot entries, its block header in word 0. -/
def slot0 (q : List (List Word)) : State :=
 { run with cores := [(0, { Core.new with store := [(0, word (2 ^ 58 + 16))], queue := q })] }

def sig0 : Signal := { die := 0, core := 0, ec := 0, inc := 0 }

def target0 : ArrTarget := { layer := 0, head := 0, kv := 0, col := 0, table := 0, n := 1 }

/-- A row for page 0 of handle 0, whose entry in the row table of core 0 reads zero. -/
def row0 : AppRow := { arr := 0, target := target0, row := 0, fmt := 0, ctx := 0, kind := 0, seq := 0, bytes := [] }

def rowsAt (l : List AppRow) : State :=
 { run with cores := [(0, { Core.new with rows := l })] }

theorem test_witness_SlotEntries :
    (∃ (s : State) (die : DieNo), s.awake = true ∧ s.isFenced die.val 0xFF = true) ∧
    (∃ (s : State) (die : DieNo) (core : CoreNo), s.awake = true ∧ s.isFenced die.val 0xFF = false ∧ 32 ≤ (s.core die.val core.val).queue.length) ∧
    (∃ (s : State) (die : DieNo) (core : CoreNo), s.awake = true ∧ s.isFenced die.val 0xFF = false ∧ (s.core die.val core.val).queue.length < 32) ∧
    (∃ (s : State), s.awake = false) ∧
    (∃ (s : State) (die : DieNo) (core : CoreNo) (e : List Word) (rest : List (List Word)) (diff : _), s.runsSlots = true ∧ s.coreUp die.val core.val = true ∧ (s.core die.val core.val).block = none ∧ (s.core die.val core.val).compared ≠ s.stroke + 1 ∧ (s.core die.val core.val).queue = e :: rest ∧ (bits (e.getD 0 0) 63 48 + 65536 - s.sched % 65536) % 65536 = diff ∧ 0 < diff ∧ diff < 32768) ∧
    (∃ (s : State) (die : DieNo) (core : CoreNo) (e : List Word) (rest : List (List Word)) (diff : _), s.runsSlots = true ∧ s.coreUp die.val core.val = true ∧ (s.core die.val core.val).block = none ∧ (s.core die.val core.val).compared ≠ s.stroke + 1 ∧ (s.core die.val core.val).queue = e :: rest ∧ (bits (e.getD 0 0) 63 48 + 65536 - s.sched % 65536) % 65536 = diff ∧ 32768 ≤ diff ∧ rest = []) ∧
    (∃ (s : State) (die : DieNo) (core : CoreNo) (e : List Word) (rest : List (List Word)) (diff : _) (head : _), s.runsSlots = true ∧ s.coreUp die.val core.val = true ∧ (s.core die.val core.val).block = none ∧ (s.core die.val core.val).compared ≠ s.stroke + 1 ∧ (s.core die.val core.val).queue = e :: rest ∧ (bits (e.getD 0 0) 63 48 + 65536 - s.sched % 65536) % 65536 = diff ∧ diff = 0 ∧ s.fetch die.val core.val (bits (e.getD 0 0) 39 28) = head ∧ bits head 63 58 = 0x01 ∧ bits head 57 56 = 0 ∧ bits head 39 36 = bits (e.getD 0 0) 47 44 ∧ bits head 31 16 ≤ s.get Base.device Reg.budget) ∧
    (∃ (s : State) (die : DieNo) (core : CoreNo), (s.runsSlots = false ∨ (s.core die.val core.val).block ≠ none)) :=
  ⟨by refine ⟨{ run with faults := { run.faults with fenced := [uid 0 0xFF] } }, 0, ?_⟩; decide +kernel,
   by refine ⟨slot0 (List.replicate 32 [0, 0, 0, 0]), 0, 0, ?_⟩; decide +kernel,
   by refine ⟨slot0 (List.replicate 31 [0, 0, 0, 0]), 0, 0, ?_⟩; decide +kernel,
   by refine ⟨chip, ?_⟩; decide +kernel,
   by refine ⟨slot0 [[0x7FFF000000000000, 0, 0, 0]], 0, 0, [0x7FFF000000000000, 0, 0, 0], [], ((bits (([0x7FFF000000000000, 0, 0, 0]).getD 0 0) 63 48 + 65536 - (slot0 [[0x7FFF000000000000, 0, 0, 0]]).sched % 65536) % 65536), ?_⟩; decide +kernel,
   by refine ⟨slot0 [[0x8000000000000000, 0, 0, 0]], 0, 0, [0x8000000000000000, 0, 0, 0], ([]), ((bits (([0x8000000000000000, 0, 0, 0]).getD 0 0) 63 48 + 65536 - (slot0 [[0x8000000000000000, 0, 0, 0]]).sched % 65536) % 65536), ?_⟩; decide +kernel,
   by refine ⟨slot0 [[0, 5, 6, 7]], 0, 0, [0, 5, 6, 7], [], ((bits (([0, 5, 6, 7]).getD 0 0) 63 48 + 65536 - (slot0 [[0, 5, 6, 7]]).sched % 65536) % 65536), ((slot0 [[0, 5, 6, 7]]).fetch (0 : DieNo).val (0 : CoreNo).val (bits (([0, 5, 6, 7]).getD 0 0) 39 28)), ?_⟩; decide +kernel,
   by refine ⟨at0 [], 0, 0, ?_⟩; decide +kernel⟩

theorem test_witness_EndLoopAndParameters :
    (∃ (s : State) (die : DieNo) (core : CoreNo) (b : BlockRun), (s.core die.val core.val).block = some b ∧ b.ended = false ∧ s.coreUp die.val core.val = true ∧ b.loops = [] ∧ bits (s.fetch die.val core.val b.pc) 63 58 = 0x02 ∧ bits (s.fetch die.val core.val b.pc) 57 56 = 0 ∧ b.pc ≤ b.base + b.len - 1) ∧
    (∃ (s : State) (die : DieNo) (core : CoreNo) (b : BlockRun) (ws : List Word), AtCommand s die.val core.val 0x03 0 b ws ∧ bits (ws.getD 0 0) 39 28 ≠ 0 ∧ bits (ws.getD 0 0) 27 16 ≠ 0 ∧ b.loops.length < 4 ∧ b.pc + 1 + bits (ws.getD 0 0) 27 16 ≤ b.base + b.len - 1 ∧ (∀ f, b.loops.head? = some f → b.pc + 1 + bits (ws.getD 0 0) 27 16 ≤ f.stop) ∧ s.bodyBad die.val core.val (b.pc + 1 + bits (ws.getD 0 0) 27 16) 4096 (b.pc + 1) = false) ∧
    (∃ (s : State) (die : DieNo) (core : CoreNo) (b : BlockRun) (ws : List Word), AtCommand s die.val core.val 0x04 0 b ws ∧ bits (ws.getD 0 0) 39 37 ≠ 0) ∧
    (∃ (s : State) (die : DieNo) (core : CoreNo) (b : BlockRun) (ws : List Word), AtCommand s die.val core.val 0x05 0 b ws ∧ bits (ws.getD 0 0) 39 37 ≠ 0) :=
  ⟨by refine ⟨at0 [cw 2 0 0], 0, 0, blk, ?_⟩; decide +kernel,
   ⟨at0 ([cw 3 0 (2 * 2 ^ 28 + 14 * 2 ^ 16 + 8)]), 0, 0, blk, [cw 3 0 (2 * 2 ^ 28 + 14 * 2 ^ 16 + 8)], at_command (by decide +kernel), by decide +kernel, by decide +kernel, by decide +kernel, by decide +kernel, nofun, by decide +kernel⟩,
   ⟨at0 ([cw 4 0 (7 * 2 ^ 37 + 9)]), 0, 0, blk, [cw 4 0 (7 * 2 ^ 37 + 9)], at_command (by decide +kernel), by decide +kernel⟩,
   ⟨at0 ([cw 5 0 (1 * 2 ^ 37 + 0xFFFFFFFF)]), 0, 0, blk, [cw 5 0 (1 * 2 ^ 37 + 0xFFFFFFFF)], at_command (by decide +kernel), by decide +kernel⟩⟩

theorem test_witness_WaitsAndSignals :
    (∃ (s : State) (die : DieNo) (core : CoreNo) (b : BlockRun) (ws : List Word) (n : _) (v : _), AtCommand s die.val core.val 0x06 0 b ws ∧ bits (ws.getD 0 0) 39 36 = n ∧ bits (ws.getD 0 0) 23 0 = v ∧ v ≤ s.get (Base.core die.val core.val) Reg.evc n) ∧
    (∃ (s : State) (die : DieNo) (core : CoreNo) (b : BlockRun) (ws : List Word) (n : _) (v : _), AtCommand s die.val core.val 0x06 0 b ws ∧ bits (ws.getD 0 0) 39 36 = n ∧ bits (ws.getD 0 0) 23 0 = v ∧ s.get (Base.core die.val core.val) Reg.evc n < v ∧ b.overran = false) ∧
    (∃ (s : State) (die : DieNo) (core : CoreNo) (b : BlockRun) (ws : List Word) (c : _), AtCommand s die.val core.val 0x07 0 b ws ∧ bits (ws.getD 0 0) 35 30 = c ∧ (c < 0x30 ∨ c = 0x3F)) ∧
    (∃ (s : State) (die : DieNo) (core : CoreNo) (ec : BitVec 4) (inc : BitVec 24) (g : Signal), g = { die := die.val, core := core.val, ec := ec.toNat, inc := inc.toNat } ∧ g ∈ s.signals ∧ s.coreUp die.val core.val = true) ∧
    (∃ (s : State) (die : DieNo) (core : CoreNo) (ec : BitVec 4) (inc : BitVec 24) (g : Signal), g = { die := die.val, core := core.val, ec := ec.toNat, inc := inc.toNat } ∧ g ∉ s.signals) ∧
    (∃ (s : State) (die : DieNo), s.awake = true ∧ s.isFenced die.val 0xFF = false) ∧
    (∃ (s : State) (die : DieNo), s.awake = true ∧ s.isFenced die.val 0xFF = true) :=
  ⟨⟨at0 ([cw 6 0 (15 * 2 ^ 36)]), 0, 0, blk, [cw 6 0 (15 * 2 ^ 36)], (bits (([cw 6 0 (15 * 2 ^ 36)]).getD 0 0) 39 36), (bits (([cw 6 0 (15 * 2 ^ 36)]).getD 0 0) 23 0), at_command (by decide +kernel), rfl, rfl, by decide +kernel⟩,
   ⟨at0 ([cw 6 0 1]), 0, 0, blk, [cw 6 0 1], (bits (([cw 6 0 1]).getD 0 0) 39 36), (bits (([cw 6 0 1]).getD 0 0) 23 0), at_command (by decide +kernel), rfl, rfl, by decide +kernel, by decide +kernel⟩,
   ⟨at0 ([cw 7 0 (0x3F * 2 ^ 30 + 5)]), 0, 0, blk, [cw 7 0 (0x3F * 2 ^ 30 + 5)], (bits (([cw 7 0 (0x3F * 2 ^ 30 + 5)]).getD 0 0) 35 30), at_command (by decide +kernel), rfl, by decide +kernel⟩,
   ⟨{ run with signals := [sig0] }, 0, 0, 0, 0, sig0, rfl, by decide +kernel, by decide +kernel⟩,
   ⟨run, 0, 0, 0, 0, sig0, rfl, by decide +kernel⟩,
   by refine ⟨run, 0, ?_⟩; decide +kernel,
   by refine ⟨{ run with faults := { run.faults with fenced := [uid 0 0xFF] } }, 0, ?_⟩; decide +kernel⟩

theorem test_witness_MalformedCommands :
    (∃ (s : State) (die : DieNo) (core : CoreNo) (b : BlockRun), (s.core die.val core.val).block = some b ∧ b.ended = false ∧ s.coreUp die.val core.val = true ∧ (bits (s.fetch die.val core.val b.pc) 63 58 < 0x02 ∨ 0x0E < bits (s.fetch die.val core.val b.pc) 63 58)) ∧
    (∃ (s : State) (die : DieNo) (core : CoreNo) (b : BlockRun), ((s.core die.val core.val).block = none ∨ ((s.core die.val core.val).block = some b ∧ b.ended = true))) :=
  ⟨by refine ⟨at0 [cw 0xF 0 0], 0, 0, blk, ?_⟩; decide +kernel,
   by refine ⟨at0 [] ({ blk with ended := true }), 0, 0, { blk with ended := true }, ?_⟩; decide +kernel⟩

theorem test_witness_ProgramsAndBlockEnd :
    (∃ (s : State) (die : DieNo) (core : CoreNo) (b : BlockRun) (ws : List Word) (ch : Fin 4) (off : _), AtCommand s die.val core.val 0x0A 0 b ws ∧ bits (ws.getD 0 0) 39 38 = ch.val ∧ s.effOff die.val core.val (bits (ws.getD 0 0) 36 34) (bits (ws.getD 0 0) 19 0) 8 = off ∧ s.offOk die.val core.val off 8 8 = true ∧ (s.chSt die.val core.val ch.val = 0 ∨ s.chSt die.val core.val ch.val = 4)) ∧
    (∃ (s : State) (die : DieNo) (core : CoreNo) (b : BlockRun) (ws : List Word) (ch : Fin 4) (off : _), AtCommand s die.val core.val 0x0A 0 b ws ∧ bits (ws.getD 0 0) 39 38 = ch.val ∧ s.effOff die.val core.val (bits (ws.getD 0 0) 36 34) (bits (ws.getD 0 0) 19 0) 8 = off ∧ s.offOk die.val core.val off 8 8 = true ∧ s.chSt die.val core.val ch.val ≠ 0 ∧ s.chSt die.val core.val ch.val ≠ 4 ∧ b.overran = false) ∧
    (∃ (s : State) (die : DieNo) (core : CoreNo) (b : BlockRun) (ws : List Word) (ch : Fin 4), AtCommand s die.val core.val 0x0B 0 b ws ∧ bits (ws.getD 0 0) 39 38 = ch.val) ∧
    (∃ (s : State) (die : DieNo) (core : CoreNo) (b : BlockRun), (s.core die.val core.val).block = some b ∧ b.ended = true ∧ s.blockDone die.val core.val b = true) ∧
    (∃ (s : State) (die : DieNo) (core : CoreNo) (b : BlockRun), ((s.core die.val core.val).block = none ∨ ((s.core die.val core.val).block = some b ∧ (b.ended = false ∨ s.blockDone die.val core.val b = false)))) ∧
    (∃ (s : State) (die : DieNo) (core : CoreNo) (ch : Fin 4), (s.chSt die.val core.val ch.val = 1 ∨ s.chSt die.val core.val ch.val = 2) ∧ s.get (Base.core die.val core.val) Reg.chCarry ch.val = 1 ∧ s.spanOver (s.chan die.val core.val ch.val) = true ∧ ((s.chan die.val core.val ch.val).moves.any fun m => m.reqs.any fun r => r.how == 0) = false) ∧
    (∃ (s : State) (die : DieNo) (core : CoreNo) (ch : Fin 4), ((s.chSt die.val core.val ch.val ≠ 1 ∧ s.chSt die.val core.val ch.val ≠ 2) ∨ s.get (Base.core die.val core.val) Reg.chCarry ch.val = 0 ∨ s.spanOver (s.chan die.val core.val ch.val) = false)) :=
  ⟨⟨at0 ([cw 0xA 0 0]), 0, 0, blk, [cw 0xA 0 0], 0, ((at0 ([cw 0xA 0 0])).effOff (0 : DieNo).val (0 : CoreNo).val (bits (([cw 0xA 0 0]).getD 0 0) 36 34) (bits (([cw 0xA 0 0]).getD 0 0) 19 0) 8), at_command (by decide +kernel), by decide +kernel, rfl, by decide +kernel, by decide +kernel⟩,
   ⟨sets (at0 ([cw 0xA 0 0])) [(Base.core 0 0, Reg.chState, 1, 0)], 0, 0, blk, [cw 0xA 0 0], 0, ((sets (at0 ([cw 0xA 0 0])) [(Base.core 0 0, Reg.chState, 1, 0)]).effOff (0 : DieNo).val (0 : CoreNo).val (bits (([cw 0xA 0 0]).getD 0 0) 36 34) (bits (([cw 0xA 0 0]).getD 0 0) 19 0) 8), at_command (by decide +kernel), by decide +kernel, rfl, by decide +kernel, by decide +kernel, by decide +kernel, by decide +kernel⟩,
   ⟨sets (at0 ([cw 0xB 0 (3 * 2 ^ 38)])) [(Base.core 0 0, Reg.chState, 1, 3)], 0, 0, blk, [cw 0xB 0 (3 * 2 ^ 38)], 3, at_command (by decide +kernel), by decide +kernel⟩,
   by refine ⟨at0 [] ({ blk with ended := true }), 0, 0, { blk with ended := true }, ?_⟩; decide +kernel,
   by refine ⟨at0 [], 0, 0, blk, ?_⟩; decide +kernel,
   by refine ⟨sets { at0 [] with strokes := { run.strokes with ended := true }, ctxs := [(0, { CtxRec.none with spanLast := 1 })] } [(Base.core 0 0, Reg.chState, 2, 3), (Base.core 0 0, Reg.chCarry, 1, 3)], 0, 0, 3, ?_⟩; decide +kernel,
   by refine ⟨run, 0, 0, 0, ?_⟩; decide +kernel⟩

theorem test_witness_TinyCollectiveCommand :
    (∃ (s : State) (die : DieNo) (core : CoreNo) (b : BlockRun) (ws : List Word) (src : Nat) (dst : Nat), AtCommand s die.val core.val 0x0C 1 b ws ∧ s.effOff die.val core.val (bits (ws.getD 1 0) 63 61) (bits (ws.getD 1 0) 60 43) 32 = src ∧ s.effOff die.val core.val (bits (ws.getD 1 0) 42 40) (bits (ws.getD 1 0) 39 22) 32 = dst ∧ s.offOk die.val core.val src 32 32 = true ∧ s.offOk die.val core.val dst 32 32 = true ∧ (bit (ws.getD 0 0) 27 = true → bits (ws.getD 0 0) 15 0 = 7) ∧ (∀ i, i < 4 → bits (ws.getD 0 0) 15 0 / 16 ^ i % 16 ≤ 9) ∧ s.devState ≠ Dev.halted ∧ s.arm.colls = [] ∧ s.nextDim (s.collGroup die.val core.val (bits (ws.getD 0 0) 29 28)) 0 = 4 ∧ (∀ i, i < 4 → (s.load (scratchAddr die.val core.val (src + 8 * i))).1.ecc = .clean)) ∧
    (∃ (s : State) (die : DieNo) (core : CoreNo) (b : BlockRun) (ws : List Word) (src : Nat) (dst : Nat), AtCommand s die.val core.val 0x0C 1 b ws ∧ s.effOff die.val core.val (bits (ws.getD 1 0) 63 61) (bits (ws.getD 1 0) 60 43) 32 = src ∧ s.effOff die.val core.val (bits (ws.getD 1 0) 42 40) (bits (ws.getD 1 0) 39 22) 32 = dst ∧ s.offOk die.val core.val src 32 32 = true ∧ s.offOk die.val core.val dst 32 32 = true ∧ (bit (ws.getD 0 0) 27 = true → bits (ws.getD 0 0) 15 0 = 7) ∧ ((∃ k, s.findColl 0x09 (bits (ws.getD 0 0) 39 34) = some k ∧ k.posted = true) ∨ s.devState = Dev.halted) ∧ b.overran = false) ∧
    (∃ (s : State) (die : DieNo) (core : CoreNo) (b : BlockRun) (ws : List Word) (src : Nat) (dst : Nat), AtCommand s die.val core.val 0x0C 1 b ws ∧ s.effOff die.val core.val (bits (ws.getD 1 0) 63 61) (bits (ws.getD 1 0) 60 43) 32 = src ∧ s.effOff die.val core.val (bits (ws.getD 1 0) 42 40) (bits (ws.getD 1 0) 39 22) 32 = dst ∧ s.offOk die.val core.val src 32 32 = true ∧ s.offOk die.val core.val dst 32 32 = true ∧ (bit (ws.getD 0 0) 27 = true → bits (ws.getD 0 0) 15 0 = 7) ∧ s.devState ≠ Dev.halted ∧ s.findColl 0x09 (bits (ws.getD 0 0) 39 34) = none ∧ (∃ i, i < 4 ∧ 9 < bits (ws.getD 0 0) 15 0 / 16 ^ i % 16)) :=
  ⟨⟨at0 ([cw 0xC 1 0x9999, 0]), 0, 0, blk, [cw 0xC 1 0x9999, 0], ((at0 ([cw 0xC 1 0x9999, 0])).effOff (0 : DieNo).val (0 : CoreNo).val (bits (([cw 0xC 1 0x9999, 0]).getD 1 0) 63 61) (bits (([cw 0xC 1 0x9999, 0]).getD 1 0) 60 43) 32), ((at0 ([cw 0xC 1 0x9999, 0])).effOff (0 : DieNo).val (0 : CoreNo).val (bits (([cw 0xC 1 0x9999, 0]).getD 1 0) 42 40) (bits (([cw 0xC 1 0x9999, 0]).getD 1 0) 39 22) 32), at_command (by decide +kernel), rfl, rfl, by decide +kernel, by decide +kernel, by decide +kernel, by decide +kernel, by decide +kernel, by decide +kernel, by decide +kernel, by decide +kernel⟩,
   ⟨{ at0 ([cw 0xC 1 7, 0]) with arm := { run.arm with colls := [{ Coll.fresh 9 0 with posted := true }] } }, 0, 0, blk, [cw 0xC 1 7, 0], (({ at0 ([cw 0xC 1 7, 0]) with arm := { run.arm with colls := [{ Coll.fresh 9 0 with posted := true }] } }).effOff (0 : DieNo).val (0 : CoreNo).val (bits (([cw 0xC 1 7, 0]).getD 1 0) 63 61) (bits (([cw 0xC 1 7, 0]).getD 1 0) 60 43) 32), (({ at0 ([cw 0xC 1 7, 0]) with arm := { run.arm with colls := [{ Coll.fresh 9 0 with posted := true }] } }).effOff (0 : DieNo).val (0 : CoreNo).val (bits (([cw 0xC 1 7, 0]).getD 1 0) 42 40) (bits (([cw 0xC 1 7, 0]).getD 1 0) 39 22) 32), at_command (by decide +kernel), rfl, rfl, by decide +kernel, by decide +kernel, by decide +kernel, .inl ⟨{ Coll.fresh 9 0 with posted := true }, by decide +kernel, rfl⟩, by decide +kernel⟩,
   ⟨at0 ([cw 0xC 1 0xA, 0]), 0, 0, blk, [cw 0xC 1 0xA, 0], ((at0 ([cw 0xC 1 0xA, 0])).effOff (0 : DieNo).val (0 : CoreNo).val (bits (([cw 0xC 1 0xA, 0]).getD 1 0) 63 61) (bits (([cw 0xC 1 0xA, 0]).getD 1 0) 60 43) 32), ((at0 ([cw 0xC 1 0xA, 0])).effOff (0 : DieNo).val (0 : CoreNo).val (bits (([cw 0xC 1 0xA, 0]).getD 1 0) 42 40) (bits (([cw 0xC 1 0xA, 0]).getD 1 0) 39 22) 32), at_command (by decide +kernel), rfl, rfl, by decide +kernel, by decide +kernel, by decide +kernel, by decide +kernel, by decide +kernel, by decide +kernel⟩⟩

theorem test_witness_PageMapCommands :
    (∃ (s : State) (die : DieNo) (core : CoreNo) (b : BlockRun) (ws : List Word), AtCommand s die.val core.val 0x0D 1 b ws ∧ pmSub ws = 0 ∧ pmN ws = 1 ∧ s.offOk die.val core.val (s.pmOff die.val core.val ws) 32 32 = true ∧ s.pageProbe die.val b.ctx (bits (ws.getD 1 0) 63 32) (pageOrd (s.pageCfg die.val b.ctx).top (bits (ws.getD 0 0) 23 0)) = none) ∧
    (∃ (s : State) (die : DieNo) (core : CoreNo) (b : BlockRun) (ws : List Word) (g : ArrTarget), AtCommand s die.val core.val 0x0D 1 b ws ∧ pmSub ws = 1 ∧ pmN ws ≠ 0 ∧ s.offOk die.val core.val (s.pmOff die.val core.val ws) 32 (8 * pmN ws) = true ∧ g = { layer := pmLayer ws, head := bits (ws.getD 0 0) 23 16, kv := bits (ws.getD 0 0) 15 15, col := bits (ws.getD 0 0) 14 8, table := s.pmOff die.val core.val ws, n := pmN ws }) ∧
    (∃ (s : State) (die : DieNo) (core : CoreNo), (s.core die.val core.val).rows = []) ∧
    (∃ (s : State) (die : DieNo) (core : CoreNo) (r : AppRow) (rest : List AppRow) (arr : Fin 8), (s.core die.val core.val).rows = r :: rest ∧ r.arr ≠ arr.val) ∧
    (∃ (s : State) (die : DieNo) (core : CoreNo) (r : AppRow) (rest : List AppRow) (arr : Fin 8), (s.core die.val core.val).rows = r :: rest ∧ r.arr = arr.val ∧ s.coreUp die.val core.val = false) ∧
    (∃ (s : State) (die : DieNo) (core : CoreNo) (r : AppRow) (rest : List AppRow) (arr : Fin 8), (s.core die.val core.val).rows = r :: rest ∧ r.arr = arr.val ∧ s.coreUp die.val core.val = true ∧ (r.target.n ≤ r.row ∨ (∃ w, (s.load (scratchAddr die.val core.val (r.target.table + 8 * r.row))).1 = w ∧ w.ecc = .clean ∧ (s.appendPage die.val core.val r.ctx (bits w.d 31 0) (bits w.d 55 32)).1 = none))) ∧
    (∃ (s : State) (die : DieNo) (core : CoreNo) (r : AppRow) (rest : List AppRow) (arr : Fin 8) (w : _) (i : _) (pos : _), (s.core die.val core.val).rows = r :: rest ∧ r.arr = arr.val ∧ s.coreUp die.val core.val = true ∧ r.row < r.target.n ∧ (s.load (scratchAddr die.val core.val (r.target.table + 8 * r.row))).1 = w ∧ w.ecc = .clean ∧ bits w.d 55 32 = pos ∧ (s.appendPage die.val core.val r.ctx (bits w.d 31 0) pos).1 = some i ∧ (s.pageCfg die.val r.ctx).summed (enClass (s.mapAt die.val i)) = false) :=
  ⟨⟨at0 ([cw 0xD 1 0, 1]), 0, 0, blk, [cw 0xD 1 0, 1], at_command (by decide +kernel), by decide +kernel, by decide +kernel, by decide +kernel, by decide +kernel⟩,
   ⟨at0 ([cw 0xD 1 (2 ^ 36), 2 ^ 61 + 1]), 0, 0, blk, [cw 0xD 1 (2 ^ 36), 2 ^ 61 + 1], ({ layer := pmLayer ([cw 0xD 1 (2 ^ 36), 2 ^ 61 + 1]), head := bits (([cw 0xD 1 (2 ^ 36), 2 ^ 61 + 1]).getD 0 0) 23 16, kv := bits (([cw 0xD 1 (2 ^ 36), 2 ^ 61 + 1]).getD 0 0) 15 15, col := bits (([cw 0xD 1 (2 ^ 36), 2 ^ 61 + 1]).getD 0 0) 14 8, table := (at0 ([cw 0xD 1 (2 ^ 36), 2 ^ 61 + 1])).pmOff (0 : DieNo).val (0 : CoreNo).val ([cw 0xD 1 (2 ^ 36), 2 ^ 61 + 1]), n := pmN ([cw 0xD 1 (2 ^ 36), 2 ^ 61 + 1]) }), at_command (by decide +kernel), by decide +kernel, by decide +kernel, by decide +kernel, rfl⟩,
   by refine ⟨run, 0, 0, ?_⟩; decide +kernel,
   by refine ⟨rowsAt [row0], 0, 0, row0, [], 1, ?_⟩; decide +kernel,
   by refine ⟨{ rowsAt [row0] with faults := { run.faults with fenced := [uid 0 0] } }, 0, 0, row0, [], 0, ?_⟩; decide +kernel,
   ⟨rowsAt [({ row0 with row := 1 })], 0, 0, { row0 with row := 1 }, [], 0, by decide +kernel, by decide +kernel, by decide +kernel, .inl (by decide +kernel)⟩,
   by refine ⟨sets { rowsAt [row0] with maps := [((candidates 0 0).headD 0, (0x40, 0))] } [(Base.pageMap 0, Reg.pgSumMin, 15, 0)], 0, 0, row0, [], 0, (((sets { rowsAt [row0] with maps := [((candidates 0 0).headD 0, (0x40, 0))] } [(Base.pageMap 0, Reg.pgSumMin, 15, 0)]).load (scratchAddr (0 : DieNo).val (0 : CoreNo).val (row0.target.table + 8 * row0.row))).1), ((candidates 0 0).headD 0), (bits (((sets { rowsAt [row0] with maps := [((candidates 0 0).headD 0, (0x40, 0))] } [(Base.pageMap 0, Reg.pgSumMin, 15, 0)]).load (scratchAddr (0 : DieNo).val (0 : CoreNo).val (row0.target.table + 8 * row0.row))).1).d 55 32), ?_⟩; decide +kernel⟩

theorem test_witness_MatrixCommand :
    (∃ (s : State) (die : DieNo) (core : CoreNo) (b : BlockRun) (ws : List Word) (q : Matmul) (mode : Mode), AtCommand s die.val core.val 0x08 2 b ws ∧ s.matmulOf die.val core.val ws = q ∧ s.matmulCauses die.val core.val q = [] ∧ modeOf q.wfmt q.afmt q.mx = some mode) ∧
    (∃ (s : State) (die : DieNo) (core : CoreNo) (b : BlockRun) (ws : List Word) (q : Matmul) (mode : Mode) (set : _) (row : _), AtCommand s die.val core.val 0x08 2 b ws ∧ s.matmulOf die.val core.val ws = q ∧ s.matmulCauses die.val core.val q = [] ∧ modeOf q.wfmt q.afmt q.mx = some mode ∧ mode = .int8 ∧ q.m = 1 ∧ q.drain = 0 ∧ q.dual = false ∧ q.load = false ∧ q.swap = false ∧ q.wide = false ∧ q.wcs = false ∧ q.init = true ∧ q.sign1 = false ∧ (s.arr die.val core.val q.arr).check = [] ∧ (s.arr die.val core.val q.arr).active = some set ∧ set.length = 2176 ∧ (∀ i, i < 8 → (s.load (scratchAddr die.val core.val q.act + 8 * i)).1.ecc = .clean) ∧ (s.loadBytes (scratchAddr die.val core.val q.act) 64).1 = row) ∧
    (∃ (s : State) (die : DieNo) (core : CoreNo) (b : BlockRun) (ws : List Word) (q : Matmul) (cause : _), AtCommand s die.val core.val 0x08 2 b ws ∧ s.matmulOf die.val core.val ws = q ∧ minBy id (s.matmulCauses die.val core.val q) = some cause) :=
  ⟨⟨at0 ([cw 8 2 (2 ^ 20 + 0x20), 0x4400000000000000, 0]), 0, 0, blk, [cw 8 2 (2 ^ 20 + 0x20), 0x4400000000000000, 0], ((at0 ([cw 8 2 (2 ^ 20 + 0x20), 0x4400000000000000, 0])).matmulOf (0 : DieNo).val (0 : CoreNo).val ([cw 8 2 (2 ^ 20 + 0x20), 0x4400000000000000, 0])), .int8, at_command (by decide +kernel), rfl, by decide +kernel, by decide +kernel⟩,
   ⟨{ run with cores := [(0, { Core.new with store := storeOf ([cw 8 2 (2 ^ 20 + 0x20), 0x4400000000000000, 0]), block := some blk, arrays := [(0, { Arr.new with active := some (List.replicate 2176 0x81) })] })] }, 0, 0, blk, [cw 8 2 (2 ^ 20 + 0x20), 0x4400000000000000, 0], (({ run with cores := [(0, { Core.new with store := storeOf ([cw 8 2 (2 ^ 20 + 0x20), 0x4400000000000000, 0]), block := some blk, arrays := [(0, { Arr.new with active := some (List.replicate 2176 0x81) })] })] }).matmulOf (0 : DieNo).val (0 : CoreNo).val ([cw 8 2 (2 ^ 20 + 0x20), 0x4400000000000000, 0])), .int8, (List.replicate 2176 (0x81 : Byte)), ((({ run with cores := [(0, { Core.new with store := storeOf ([cw 8 2 (2 ^ 20 + 0x20), 0x4400000000000000, 0]), block := some blk, arrays := [(0, { Arr.new with active := some (List.replicate 2176 0x81) })] })] }).loadBytes (scratchAddr (0 : DieNo).val (0 : CoreNo).val (({ run with cores := [(0, { Core.new with store := storeOf ([cw 8 2 (2 ^ 20 + 0x20), 0x4400000000000000, 0]), block := some blk, arrays := [(0, { Arr.new with active := some (List.replicate 2176 0x81) })] })] }).matmulOf (0 : DieNo).val (0 : CoreNo).val ([cw 8 2 (2 ^ 20 + 0x20), 0x4400000000000000, 0])).act) 64).1), at_command (by decide +kernel), rfl, by decide +kernel, by decide +kernel, by decide +kernel, by decide +kernel, by decide +kernel, by decide +kernel, by decide +kernel, by decide +kernel, by decide +kernel, by decide +kernel, by decide +kernel, by decide +kernel, by decide +kernel, by decide +kernel, by decide +kernel, by decide +kernel, rfl⟩,
   ⟨at0 ([cw 8 2 0, 0, 0]), 0, 0, blk, [cw 8 2 0, 0, 0], ((at0 ([cw 8 2 0, 0, 0])).matmulOf (0 : DieNo).val (0 : CoreNo).val ([cw 8 2 0, 0, 0])), 5, at_command (by decide +kernel), rfl, by decide +kernel⟩⟩

theorem test_witness_VectorCommand :
    (∃ (s : State) (die : DieNo) (core : CoreNo) (b : BlockRun) (ws : List Word) (q : Vec), AtCommand s die.val core.val 0x09 2 b ws ∧ s.vecOf die.val core.val ws = q ∧ s.vecCauses die.val core.val q = []) ∧
    (∃ (s : State) (die : DieNo) (core : CoreNo) (b : BlockRun) (ws : List Word) (q : Vec) (ba : List Byte) (bb : List Byte), AtCommand s die.val core.val 0x09 2 b ws ∧ s.vecOf die.val core.val ws = q ∧ s.vecCauses die.val core.val q = [] ∧ q.op = 0x02 ∧ q.ifmt = 0x9 ∧ q.ofmt = 0x9 ∧ q.sa = 0 ∧ q.sb = 0 ∧ (∀ i, i < (4 * q.count + 7) / 8 → (s.load (scratchAddr die.val core.val q.b + 8 * i)).1.ecc = .clean) ∧ ((q.chained b.vprev = false ∧ (∀ i, i < (4 * q.count + 7) / 8 → (s.load (scratchAddr die.val core.val q.a + 8 * i)).1.ecc = .clean) ∧ (s.loadBytes (scratchAddr die.val core.val q.a) (4 * q.count)).1 = ba) ∨ (∃ p, b.vprev = some p ∧ q.chained b.vprev = true ∧ p.out = ba ∧ ba.length = 4 * q.count)) ∧ (s.loadBytes (scratchAddr die.val core.val q.b) (4 * q.count)).1 = bb) ∧
    (∃ (s : State) (die : DieNo) (core : CoreNo) (b : BlockRun) (ws : List Word) (q : Vec) (cause : _), AtCommand s die.val core.val 0x09 2 b ws ∧ s.vecOf die.val core.val ws = q ∧ minBy id (s.vecCauses die.val core.val q) = some cause) :=
  ⟨⟨at0 ([cw 9 2 0x0299000002, 2 ^ 51 + 2 ^ 18, 0]), 0, 0, blk, [cw 9 2 0x0299000002, 2 ^ 51 + 2 ^ 18, 0], ((at0 ([cw 9 2 0x0299000002, 2 ^ 51 + 2 ^ 18, 0])).vecOf (0 : DieNo).val (0 : CoreNo).val ([cw 9 2 0x0299000002, 2 ^ 51 + 2 ^ 18, 0])), at_command (by decide +kernel), rfl, by decide +kernel⟩,
   ⟨at0 ([cw 9 2 0x0299000002, 2 ^ 51 + 2 ^ 18, 0]), 0, 0, blk, [cw 9 2 0x0299000002, 2 ^ 51 + 2 ^ 18, 0], ((at0 ([cw 9 2 0x0299000002, 2 ^ 51 + 2 ^ 18, 0])).vecOf (0 : DieNo).val (0 : CoreNo).val ([cw 9 2 0x0299000002, 2 ^ 51 + 2 ^ 18, 0])), (((at0 ([cw 9 2 0x0299000002, 2 ^ 51 + 2 ^ 18, 0])).loadBytes (scratchAddr 0 0 ((at0 ([cw 9 2 0x0299000002, 2 ^ 51 + 2 ^ 18, 0])).vecOf 0 0 ([cw 9 2 0x0299000002, 2 ^ 51 + 2 ^ 18, 0])).a) (4 * ((at0 ([cw 9 2 0x0299000002, 2 ^ 51 + 2 ^ 18, 0])).vecOf 0 0 ([cw 9 2 0x0299000002, 2 ^ 51 + 2 ^ 18, 0])).count)).1), (((at0 ([cw 9 2 0x0299000002, 2 ^ 51 + 2 ^ 18, 0])).loadBytes (scratchAddr (0 : DieNo).val (0 : CoreNo).val ((at0 ([cw 9 2 0x0299000002, 2 ^ 51 + 2 ^ 18, 0])).vecOf (0 : DieNo).val (0 : CoreNo).val ([cw 9 2 0x0299000002, 2 ^ 51 + 2 ^ 18, 0])).b) (4 * ((at0 ([cw 9 2 0x0299000002, 2 ^ 51 + 2 ^ 18, 0])).vecOf (0 : DieNo).val (0 : CoreNo).val ([cw 9 2 0x0299000002, 2 ^ 51 + 2 ^ 18, 0])).count)).1), at_command (by decide +kernel), rfl, by decide +kernel, by decide +kernel, by decide +kernel, by decide +kernel, by decide +kernel, by decide +kernel, by decide +kernel, .inl (by decide +kernel), rfl⟩,
   ⟨at0 ([cw 9 2 0x0299000000, 0, 0]), 0, 0, blk, [cw 9 2 0x0299000000, 0, 0], ((at0 ([cw 9 2 0x0299000000, 0, 0])).vecOf (0 : DieNo).val (0 : CoreNo).val ([cw 9 2 0x0299000000, 0, 0])), 2, at_command (by decide +kernel), rfl, by decide +kernel⟩⟩

/-- Clean words in memory from an address. -/
def bytesAt (a : Nat) (ws : List Word) : List Host.Cell :=
 ((bytesOf ws).mapIdx fun i b => (a + i, b)).filter fun p => p.2 != 0

/-- Words in the scratchpad of core 0 of CD0 from its first byte. -/
def holds (s : State) (ws : List Word) : State :=
 { s with mem := { data := bytesAt (scratchAddr 0 0 0) ws, check := [], tag := [] } }

theorem pair_eq {α β : Type} {p : α × β} {a : α} (h : p.1 = a) : p = (a, p.2) := by rw [← h]

theorem triple_eq {α β γ : Type} {p : α × β × γ} {a : α} {b : β} {c : γ} (h : p.1 = a ∧ p.2.1 = b ∧ p.2.2 = c) :
   p = (a, b, c) := by rw [← h.1, ← h.2.1, ← h.2.2]

/-- Channel 3 of core 0 stands at descriptor word `pc`. -/
def chanAt (pc : Nat) (ws : List Word) (x : Chan := Chan.idle) : State :=
 let s := holds (sets run [(Base.core 0 0, Reg.chState, 1, 3), (Base.core 0 0, Reg.chPc, pc, 3)]) ws
 { s with cores := [(0, { Core.new with chans := [(3, x)] })] }

def loop0 : DmaLoop := { pc := 1, body := 1, rep := 1, count := 2, sinc := 0, dinc := 0 }

def req0 : DmaReq :=
 { index := 0, lo := hostBase, hi := hostBase + 8, how := 0, issued := some 0, expect := none, data := [], stale := 0, early := none }

/-- A MOVE of one word from the host window to the scratchpad of core 0. -/
def move0 : DmaMv :=
 { src := hostBase, dst := scratchAddr 0 0 0, len := 8, half := none, full := none, echk := false, attempt := 0,
   runahead := false, reqs := [req0], halfDone := false }

/-- Address `x` of the scratchpad of core 0. -/
def sp (x : Nat) : Nat := scratchAddr 0 0 0 + x

/-- A job of an operation and a count, its parameters at the scratchpad's first byte and its output at 0x1000. -/
def jobOf (op n : Nat) : List Word := [word (op * 2 ^ 32), word n, word (sp 0), word (sp 0x1000)]

/-- Engine `e` of CD0 holds the job; core 0 is context 0's, and its scratchpad begins with these words. -/
def engAt (e : Nat) (j ws : List Word) : State := 
 { holds run ws with
   eff := [(Base.coreBind 0 + Reg.cbRunValid.off, Reg.cbRunValid.put 0 1)]
   engines := [(e, { Eng.new with job := some j })] }

/-- The parameter record of a finishing job: every scalar zero, `plane` 8, the live set at 0x200. -/
def finWords : List Word := [0, 0, 0, 0, 0, word (sp 0x100), word (sp 0x200), word (sp 0x300), word (sp 0x400), 0, 0, 8]

def finState (op : Nat) (n2 x : Word) : State :=
 let s := engAt 2 (jobOf op 1) finWords
 { s with mem := { s.mem with data := s.mem.data ++ bytesAt (sp 0x100) [n2] ++ bytesAt (sp 0x200) [x] } }
def request0 : Req :=
 { handle := 4096 + 3, ctx := 0, model := 1, st := 1, dclass := 0, draft := 0, deff := 0, maxNew := 4, ttftUs := 0, tbtUs := 0,
   topP := 0x3F800000, temp := 0, nonce := 0, stopEn := false, stop := 0, topK := 0, pre := 0, preLen := 0, prompt := [1, 2],
   ringLog := 6, ringAddr := hostBase, produced := 0, consumed := 0, userTag := 0, next := 0, sealed := 0, endPos := 6,
   prefilled := 0, prefSealed := 0, span := 1, due := 0, accepted := 0, lastAt := none, ttft := 0, tbtMax := 0, late := 0,
   behind := false, order := 0, cast := 0, held := false, piece := 0, inStep := false, skipRound := 0, kept := [], sampled := false, parts := 0, stretches := [],
   final := none, winSteps := 0, winAcc := 0, pausing := none }

theorem test_witness_ChannelPrograms :
    (∃ (s : State) (die : DieNo) (core : CoreNo) (ch : Fin 4) (ws : List Word) (pc : Nat), s.get (Base.core die.val core.val) Reg.chPc ch.val = pc ∧ AtDescriptor s die.val core.val ch.val 0x2 ws s ∧ bits (ws.getD 0 0) 59 48 ≠ 0 ∧ bits (ws.getD 0 0) 47 40 ≠ 0 ∧ bits (ws.getD 0 0) 47 40 ≤ pc ∧ (s.chan die.val core.val ch.val).loops.any (fun l => l.pc == pc) = false ∧ (s.chan die.val core.val ch.val).loops.length < 3 ∧ (∀ l, (s.chan die.val core.val ch.val).loops.head? = some l → l.pc - l.body ≤ pc - bits (ws.getD 0 0) 47 40 ∧ pc + 2 ≤ l.pc)) ∧
    (∃ (s : State) (die : DieNo) (core : CoreNo) (ch : Fin 4) (ws : List Word) (pc : Nat) (l : _) (rest : _), s.get (Base.core die.val core.val) Reg.chPc ch.val = pc ∧ AtDescriptor s die.val core.val ch.val 0x2 ws s ∧ bits (ws.getD 0 0) 59 48 ≠ 0 ∧ bits (ws.getD 0 0) 47 40 ≠ 0 ∧ bits (ws.getD 0 0) 47 40 ≤ pc ∧ (s.chan die.val core.val ch.val).loops = l :: rest ∧ l.pc = pc ∧ l.rep < l.count) ∧
    (∃ (s : State) (die : DieNo) (core : CoreNo) (ch : Fin 4) (ws : List Word) (pc : Nat) (l : _) (rest : _), s.get (Base.core die.val core.val) Reg.chPc ch.val = pc ∧ AtDescriptor s die.val core.val ch.val 0x2 ws s ∧ bits (ws.getD 0 0) 59 48 ≠ 0 ∧ bits (ws.getD 0 0) 47 40 ≠ 0 ∧ bits (ws.getD 0 0) 47 40 ≤ pc ∧ (s.chan die.val core.val ch.val).loops = l :: rest ∧ l.pc = pc ∧ l.count ≤ l.rep) ∧
    (∃ (s : State) (die : DieNo) (core : CoreNo) (ch : Fin 4) (ws : List Word) (pc : Nat) (n : _) (v : _), s.get (Base.core die.val core.val) Reg.chPc ch.val = pc ∧ AtDescriptor s die.val core.val ch.val 0x3 ws s ∧ bits (ws.getD 0 0) 59 56 = n ∧ bits (ws.getD 0 0) 23 0 = v ∧ v ≤ s.get (Base.core die.val core.val) Reg.evc n) ∧
    (∃ (s : State) (die : DieNo) (core : CoreNo) (ch : Fin 4) (ws : List Word) (pc : Nat) (n : _) (v : _), s.get (Base.core die.val core.val) Reg.chPc ch.val = pc ∧ AtDescriptor s die.val core.val ch.val 0x3 ws s ∧ bits (ws.getD 0 0) 59 56 = n ∧ bits (ws.getD 0 0) 23 0 = v ∧ s.get (Base.core die.val core.val) Reg.evc n < v) ∧
    (∃ (s : State) (die : DieNo) (core : CoreNo) (ch : Fin 4) (ws : List Word) (pc : Nat) (tgt : _), s.get (Base.core die.val core.val) Reg.chPc ch.val = pc ∧ AtDescriptor s die.val core.val ch.val 0x4 ws s ∧ ((bits (ws.getD 0 0) 55 50 < 0x30 ∧ tgt = bits (ws.getD 0 0) 55 50) ∨ (bits (ws.getD 0 0) 55 50 = 0x3F ∧ tgt = core.val))) ∧
    (∃ (s : State) (die : DieNo) (core : CoreNo) (ch : Fin 4) (ws : List Word) (pc : Nat), s.get (Base.core die.val core.val) Reg.chPc ch.val = pc ∧ AtDescriptor s die.val core.val ch.val 0x5 ws s) ∧
    (∃ (s : State) (die : DieNo) (core : CoreNo) (ch : Fin 4) (pc : Nat), s.get (Base.core die.val core.val) Reg.chPc ch.val = pc ∧ s.chanRuns die.val core.val ch.val = false) :=
  ⟨⟨chanAt 1 [0, word (2 ^ 61 + 2 ^ 48 + 2 ^ 40), 5], 0, 0, 3, [word (2 ^ 61 + 2 ^ 48 + 2 ^ 40), 5], ((chanAt 1 [0, word (2 ^ 61 + 2 ^ 48 + 2 ^ 40), 5]).get (Base.core (0 : DieNo).val (0 : CoreNo).val) Reg.chPc (3 : Fin 4).val), rfl, by unfold AtDescriptor; decide +kernel, by decide +kernel, by decide +kernel, by decide +kernel, by decide +kernel, by decide +kernel, by decide +kernel⟩,
   ⟨chanAt 1 [0, word (2 ^ 61 + 2 ^ 49 + 2 ^ 40), 5] { Chan.idle with loops := [loop0] }, 0, 0, 3, [word (2 ^ 61 + 2 ^ 49 + 2 ^ 40), 5], ((chanAt 1 [0, word (2 ^ 61 + 2 ^ 49 + 2 ^ 40), 5] { Chan.idle with loops := [loop0] }).get (Base.core (0 : DieNo).val (0 : CoreNo).val) Reg.chPc (3 : Fin 4).val), loop0, [], rfl, by unfold AtDescriptor; decide +kernel, by decide +kernel, by decide +kernel, by decide +kernel, by decide +kernel, by decide +kernel, by decide +kernel⟩,
   ⟨chanAt 1 [0, word (2 ^ 61 + 2 ^ 49 + 2 ^ 40), 5] { Chan.idle with loops := [{ loop0 with rep := 2 }] }, 0, 0, 3, [word (2 ^ 61 + 2 ^ 49 + 2 ^ 40), 5], ((chanAt 1 [0, word (2 ^ 61 + 2 ^ 49 + 2 ^ 40), 5] { Chan.idle with loops := [{ loop0 with rep := 2 }] }).get (Base.core (0 : DieNo).val (0 : CoreNo).val) Reg.chPc (3 : Fin 4).val), { loop0 with rep := 2 }, [], rfl, by unfold AtDescriptor; decide +kernel, by decide +kernel, by decide +kernel, by decide +kernel, by decide +kernel, by decide +kernel, by decide +kernel⟩,
   ⟨chanAt 0 [0x3F00000000000000], 0, 0, 3, [0x3F00000000000000], ((chanAt 0 [0x3F00000000000000]).get (Base.core (0 : DieNo).val (0 : CoreNo).val) Reg.chPc (3 : Fin 4).val), (bits ([0x3F00000000000000].getD 0 0) 59 56), (bits ([0x3F00000000000000].getD 0 0) 23 0), rfl, by unfold AtDescriptor; decide +kernel, rfl, rfl, by decide +kernel⟩,
   ⟨chanAt 0 [0x3F00000000000001], 0, 0, 3, [0x3F00000000000001], ((chanAt 0 [0x3F00000000000001]).get (Base.core (0 : DieNo).val (0 : CoreNo).val) Reg.chPc (3 : Fin 4).val), (bits ([0x3F00000000000001].getD 0 0) 59 56), (bits ([0x3F00000000000001].getD 0 0) 23 0), rfl, by unfold AtDescriptor; decide +kernel, rfl, rfl, by decide +kernel⟩,
   ⟨chanAt 0 [word (2 ^ 62 + 0x2F * 2 ^ 50)], 0, 0, 3, [word (2 ^ 62 + 0x2F * 2 ^ 50)], ((chanAt 0 [word (2 ^ 62 + 0x2F * 2 ^ 50)]).get (Base.core (0 : DieNo).val (0 : CoreNo).val) Reg.chPc (3 : Fin 4).val), (0x2F : Nat), rfl, by unfold AtDescriptor; decide +kernel, .inl (by decide +kernel)⟩,
   ⟨chanAt 0 [0x5000000000000000], 0, 0, 3, [0x5000000000000000], ((chanAt 0 [0x5000000000000000]).get (Base.core (0 : DieNo).val (0 : CoreNo).val) Reg.chPc (3 : Fin 4).val), rfl, by unfold AtDescriptor; decide +kernel⟩,
   by refine ⟨run, 0, 0, 3, (run.get (Base.core (0 : DieNo).val (0 : CoreNo).val) Reg.chPc (3 : Fin 4).val), ?_⟩; decide +kernel⟩

theorem test_witness_MovesAndRequests :
    (∃ (s : State) (die : DieNo) (core : CoreNo) (ch : Fin 4) (ws : List Word), AtDescriptor s die.val core.val ch.val 0x1 ws s ∧ s.moveBad die.val core.val ch.val ws = none ∧ bit (ws.getD 2 0) 53 = false) ∧
    (∃ (s : State) (die : DieNo) (core : CoreNo) (ch : Fin 4) (index : Nat) (i : Nat) (mv : DmaMv) (r : DmaReq) (f : ReqFail), s.coreUp die.val core.val = true ∧ s.findReq die.val core.val ch.val index = some (i, mv, r) ∧ mv.reqs = [r] ∧ mv.echk = false ∧ f ≠ .denied) ∧
    (∃ (s : State) (die : DieNo) (core : CoreNo) (ch : Fin 4) (index : Nat) (i : Nat) (mv : DmaMv) (r : DmaReq), s.coreUp die.val core.val = true ∧ s.findReq die.val core.val ch.val index = some (i, mv, r) ∧ mv.reqs = [r] ∧ mv.echk = false ∧ r.expect = none ∧ r.lo = mv.src ∧ r.hi = mv.src + 8 ∧ mv.len = 8 ∧ mv.src % 8 = 0 ∧ hostBase ≤ mv.src ∧ mv.src < hostBase + 2 ^ 44 ∧ (∃ off, off < 0x600000 ∧ off % 8 = 0 ∧ mv.dst = scratchAddr die.val core.val off)) ∧
    (∃ (s : State) (die : DieNo) (core : CoreNo) (ch : Fin 4) (index : Nat), s.findReq die.val core.val ch.val index = none) ∧
    (∃ (s : State) (die : DieNo) (core : CoreNo) (ch : Fin 4), (s.chan die.val core.val ch.val).deferred = []) ∧
    (∃ (s : State) (die : DieNo) (core : CoreNo) (ch : Fin 4) (h : W32) (k : Nat) (q : Req), (s.chan die.val core.val ch.val).deferred ≠ [] ∧ s.reqOf h.toNat = some (k, q) ∧ q.sampled = false ∧ (∀ d, d < 8 → h.toNat ∉ s.samplerRows d)) ∧
    (∃ (s : State) (die : DieNo) (core : CoreNo) (ch : Fin 4), (s.chan die.val core.val ch.val).deferred ≠ []) :=
  ⟨⟨chanAt 0 [word (2 ^ 60), 0, 0x100], 0, 0, 3, [word (2 ^ 60), 0, 0x100], by unfold AtDescriptor; decide +kernel, by decide +kernel, by decide +kernel⟩,
   by refine ⟨chanAt 0 [] { Chan.idle with moves := [move0] }, 0, 0, 3, 0, 0, move0, req0, .tierFail, ?_⟩; decide +kernel,
   ⟨chanAt 0 [] { Chan.idle with moves := [move0] }, 0, 0, 3, 0, 0, move0, req0, by decide +kernel, by decide +kernel, by decide +kernel, by decide +kernel, by decide +kernel, by decide +kernel, by decide +kernel, by decide +kernel, by decide +kernel, by decide +kernel, by decide +kernel, ⟨0, by decide +kernel⟩⟩,
   by refine ⟨run, 0, 0, 3, 0, ?_⟩; decide +kernel,
   by refine ⟨run, 0, 0, 3, ?_⟩; decide +kernel,
   by refine ⟨{ chanAt 0 [] { Chan.idle with deferred := [(0, 8)] } with reqs := [(3, some request0)] }, 0, 0, 3, 4099, 3, request0, ?_⟩; decide +kernel,
   by refine ⟨chanAt 0 [] { Chan.idle with deferred := [(0, 8)] }, 0, 0, 3, ?_⟩; decide +kernel⟩

theorem test_witness_EngineQueues :
    (∃ (s : State) (die : DieNo), s.awake = true ∧ s.isFenced die.val 0xFF = true) ∧
    (∃ (s : State) (die : DieNo) (e : Fin 6), s.awake = true ∧ s.isFenced die.val 0xFF = false ∧ 64 ≤ (s.eng die.val e.val).queue.length) ∧
    (∃ (s : State) (die : DieNo) (e : Fin 6), s.awake = true ∧ s.isFenced die.val 0xFF = false ∧ (s.eng die.val e.val).queue.length < 64) ∧
    (∃ (s : State) (die : DieNo) (e : Fin 6) (j : List Word) (rest : List (List Word)) (diff : _), s.runsSlots = true ∧ s.engUp die.val e.val = true ∧ (s.eng die.val e.val).job = none ∧ (s.eng die.val e.val).compared ≠ s.stroke + 1 ∧ (s.eng die.val e.val).queue = j :: rest ∧ (jobSlot j + 65536 - s.sched % 65536) % 65536 = diff ∧ diff = 0) ∧
    (∃ (s : State) (die : DieNo) (e : Fin 6) (j : List Word) (rest : List (List Word)) (diff : _), s.runsSlots = true ∧ s.engUp die.val e.val = true ∧ (s.eng die.val e.val).job = none ∧ (s.eng die.val e.val).compared ≠ s.stroke + 1 ∧ (s.eng die.val e.val).queue = j :: rest ∧ (jobSlot j + 65536 - s.sched % 65536) % 65536 = diff ∧ 0 < diff ∧ diff < 32768) ∧
    (∃ (s : State) (die : DieNo) (e : Fin 6) (j : List Word) (rest : List (List Word)) (diff : _), s.runsSlots = true ∧ s.engUp die.val e.val = true ∧ (s.eng die.val e.val).job = none ∧ (s.eng die.val e.val).compared ≠ s.stroke + 1 ∧ (s.eng die.val e.val).queue = j :: rest ∧ (jobSlot j + 65536 - s.sched % 65536) % 65536 = diff ∧ 32768 ≤ diff ∧ rest = []) ∧
    (∃ (s : State) (die : DieNo) (e : Fin 6), (s.runsSlots = false ∨ s.engUp die.val e.val = false ∨ (s.eng die.val e.val).job ≠ none ∨ (s.eng die.val e.val).compared = s.stroke + 1)) ∧
    (∃ (s : State) (die : DieNo) (j : List Word), (s.eng die.val 1).job = some j ∧ s.engUp die.val 1 = true ∧ (jobOp j = 0 ∨ 4 < jobOp j) ∧ (s.eng die.val 1).queue = []) :=
  ⟨by refine ⟨{ run with faults := { run.faults with fenced := [uid 0 0xFF] } }, 0, ?_⟩; decide +kernel,
   by refine ⟨{ run with engines := [(5, { Eng.new with queue := List.replicate 64 [0, 0, 0, 0] })] }, 0, 5, ?_⟩; decide +kernel,
   by refine ⟨{ run with engines := [(5, { Eng.new with queue := List.replicate 63 [0, 0, 0, 0] })] }, 0, 5, ?_⟩; decide +kernel,
   by refine ⟨{ run with engines := [(5, { Eng.new with queue := [([0, 0, 0, 0])] })] }, 0, 5, [0, 0, 0, 0], [], ((jobSlot ([0, 0, 0, 0]) + 65536 - ({ run with engines := [(5, { Eng.new with queue := [([0, 0, 0, 0])] })] }).sched % 65536) % 65536), ?_⟩; decide +kernel,
   by refine ⟨{ run with engines := [(5, { Eng.new with queue := [([0x7FFF000000000000, 0, 0, 0])] })] }, 0, 5, [0x7FFF000000000000, 0, 0, 0], [], ((jobSlot ([0x7FFF000000000000, 0, 0, 0]) + 65536 - ({ run with engines := [(5, { Eng.new with queue := [([0x7FFF000000000000, 0, 0, 0])] })] }).sched % 65536) % 65536), ?_⟩; decide +kernel,
   by refine ⟨{ run with engines := [(5, { Eng.new with queue := [([0x8000000000000000, 0, 0, 0])] })] }, 0, 5, [0x8000000000000000, 0, 0, 0], ([]), ((jobSlot ([0x8000000000000000, 0, 0, 0]) + 65536 - ({ run with engines := [(5, { Eng.new with queue := [([0x8000000000000000, 0, 0, 0])] })] }).sched % 65536) % 65536), ?_⟩; decide +kernel,
   by refine ⟨{ run with engines := [(0, { Eng.new with compared := 1 })] }, 0, 0, ?_⟩; decide +kernel,
   by refine ⟨{ run with engines := [(1, { Eng.new with job := some ([0, 0, 0, 0]) })] }, 0, [0, 0, 0, 0], ?_⟩; decide +kernel⟩

theorem test_witness_RandomNumberJobs :
    (∃ (s : State) (die : DieNo) (j : List Word) (r : List Byte) (n : Nat) (op : Nat), AtJob s die.val 1 op j ∧ JobRecord s die.val j 32 r ∧ jobCount j = n ∧ 1 ≤ recNat r 0 1 % 16 ∧ recNat r 0 1 % 16 ≤ 3 ∧ op = 0x01 ∧ s.jobStatus die.val j (jobOut j) (((s.rngBlocks die.val (jobCtx j) r n 4).flatten.take n).flatMap (leBytes 4)).length = Status.ok) ∧
    (∃ (s : State) (die : DieNo) (j : List Word) (r : List Byte) (n : Nat) (op : Nat) (bs : _), AtJob s die.val 1 op j ∧ JobRecord s die.val j 32 r ∧ jobCount j = n ∧ 1 ≤ recNat r 0 1 % 16 ∧ recNat r 0 1 % 16 ≤ 3 ∧ op = 0x02 ∧ bs = ((((s.rngBlocks die.val (jobCtx j) r n 4).flatten.map fun w => f32enc (.fin false (2 * (w / 256) + 1) (-25))).take n).flatMap (leBytes 4)) ∧ s.jobStatus die.val j (jobOut j) bs.length = Status.ok) ∧
    (∃ (s : State) (die : DieNo) (j : List Word) (r : List Byte) (n : Nat) (op : Nat) (bs : _), AtJob s die.val 1 op j ∧ JobRecord s die.val j 32 r ∧ jobCount j = n ∧ 1 ≤ recNat r 0 1 % 16 ∧ recNat r 0 1 % 16 ≤ 3 ∧ op = 0x03 ∧ bs = planeOut (((s.rngBlocks die.val (jobCtx j) r n 8).flatten.flatMap fun w => [decide (recNat r 16 2 ≤ w % 65536), decide (recNat r 16 2 ≤ w / 65536)]).take n) ∧ s.jobStatus die.val j (jobOut j) bs.length = Status.ok) ∧
    (∃ (s : State) (die : DieNo) (j : List Word) (r : List Byte) (n : Nat) (op : Nat) (bs : _), AtJob s die.val 1 op j ∧ JobRecord s die.val j 32 r ∧ jobCount j = n ∧ 1 ≤ recNat r 0 1 % 16 ∧ recNat r 0 1 % 16 ≤ 3 ∧ op = 0x04 ∧ bs = (((s.rngBlocks die.val (jobCtx j) r n 4).flatMap fun w => normalPair (w.getD 0 0) (w.getD 1 0) ++ normalPair (w.getD 2 0) (w.getD 3 0)).take n).flatMap (leBytes 4) ∧ s.jobStatus die.val j (jobOut j) bs.length = Status.ok) ∧
    (∃ (s : State) (die : DieNo) (j : List Word) (r : List Byte) (n : Nat) (op : Nat), AtJob s die.val 1 op j ∧ JobRecord s die.val j 32 r ∧ jobCount j = n ∧ (recNat r 0 1 % 16 = 0 ∨ 3 < recNat r 0 1 % 16) ∧ op = 0x01) ∧
    (∃ (s : State) (die : DieNo) (j : List Word) (r : List Byte) (n : Nat) (op : Nat), AtJob s die.val 1 op j ∧ JobRecord s die.val j 32 r ∧ jobCount j = n ∧ (recNat r 0 1 % 16 = 0 ∨ 3 < recNat r 0 1 % 16) ∧ op = 0x02) ∧
    (∃ (s : State) (die : DieNo) (j : List Word) (r : List Byte) (n : Nat) (op : Nat), AtJob s die.val 1 op j ∧ JobRecord s die.val j 32 r ∧ jobCount j = n ∧ (recNat r 0 1 % 16 = 0 ∨ 3 < recNat r 0 1 % 16) ∧ op = 0x03) ∧
    (∃ (s : State) (die : DieNo) (j : List Word) (r : List Byte) (n : Nat) (op : Nat), AtJob s die.val 1 op j ∧ JobRecord s die.val j 32 r ∧ jobCount j = n ∧ (recNat r 0 1 % 16 = 0 ∨ 3 < recNat r 0 1 % 16) ∧ op = 0x04) :=
  ⟨⟨engAt 1 (jobOf 1 5) [1], 0, jobOf 1 5, bytesOf [1, 0, 0, 0], 5, 1, by unfold AtJob; decide +kernel, by unfold JobRecord JobSource CleanWords; decide +kernel, by decide +kernel, by decide +kernel, by decide +kernel, by decide +kernel, by decide +kernel⟩,
   ⟨engAt 1 (jobOf 2 5) [2], 0, jobOf 2 5, bytesOf [2, 0, 0, 0], 5, 2, ((((engAt 1 (jobOf 2 5) [2]).rngBlocks 0 0 (bytesOf [2, 0, 0, 0]) 5 4).flatten.map fun w => f32enc (.fin false (2 * (w / 256) + 1) (-25))).take 5).flatMap (leBytes 4), by unfold AtJob; decide +kernel, by unfold JobRecord JobSource CleanWords; decide +kernel, by decide +kernel, by decide +kernel, by decide +kernel, by decide +kernel, by decide +kernel, by decide +kernel⟩,
   ⟨engAt 1 (jobOf 3 9) [3], 0, jobOf 3 9, bytesOf [3, 0, 0, 0], 9, 3, (planeOut ((((engAt 1 (jobOf 3 9) [3]).rngBlocks (0 : DieNo).val (jobCtx (jobOf 3 9)) (bytesOf [3, 0, 0, 0]) (9 : Nat) 8).flatten.flatMap fun w => [decide (recNat (bytesOf [3, 0, 0, 0]) 16 2 ≤ w % 65536), decide (recNat (bytesOf [3, 0, 0, 0]) 16 2 ≤ w / 65536)]).take (9 : Nat))), by unfold AtJob; decide +kernel, by unfold JobRecord JobSource CleanWords; decide +kernel, by decide +kernel, by decide +kernel, by decide +kernel, by decide +kernel, by decide +kernel, by decide +kernel⟩,
   ⟨engAt 1 (jobOf 4 1) [3], 0, jobOf 4 1, bytesOf [3, 0, 0, 0], 1, 4, _, by unfold AtJob; decide +kernel, by unfold JobRecord JobSource CleanWords; decide +kernel, by decide +kernel, by decide +kernel, by decide +kernel, by decide +kernel, rfl, by decide +kernel⟩,
   ⟨engAt 1 (jobOf 1 5) [4], 0, jobOf 1 5, bytesOf [4, 0, 0, 0], 5, 1, by unfold AtJob; decide +kernel, by unfold JobRecord JobSource CleanWords; decide +kernel, by decide +kernel, by decide +kernel, by decide +kernel⟩,
   ⟨engAt 1 (jobOf 2 5) [4], 0, jobOf 2 5, bytesOf [4, 0, 0, 0], 5, 2, by unfold AtJob; decide +kernel, by unfold JobRecord JobSource CleanWords; decide +kernel, by decide +kernel, by decide +kernel, by decide +kernel⟩,
   ⟨engAt 1 (jobOf 3 5) [4], 0, jobOf 3 5, bytesOf [4, 0, 0, 0], 5, 3, by unfold AtJob; decide +kernel, by unfold JobRecord JobSource CleanWords; decide +kernel, by decide +kernel, by decide +kernel, by decide +kernel⟩,
   ⟨engAt 1 (jobOf 4 5) [4], 0, jobOf 4 5, bytesOf [4, 0, 0, 0], 5, 4, by unfold AtJob; decide +kernel, by unfold JobRecord JobSource CleanWords; decide +kernel, by decide +kernel, by decide +kernel, by decide +kernel⟩⟩

theorem test_witness_FinishingJobs :
    (∃ (s : State) (u : State) (die : DieNo) (j : List Word) (r : List Byte) (n2 : List Byte) (acc : List Byte) (f : FinRec) (c : Instr) (op : Nat) (k : Nat) (vs : List Nat) (x : _) (m : _) (v : _), ((op = 0x01 ∧ c = (.adamw die)) ∨ (op = 0x02 ∧ c = (.signmom die)) ∨ (op = 0x03 ∧ c = (.sgd die))) ∧ AtJob s die.val 2 op j ∧ JobRecord s die.val j 96 r ∧ finRec r = f ∧ inDie die.val f.n2 = true ∧ JobSource s die.val j f.n2 8 n2 ∧ jobCount j = 1 ∧ f.addend = 0 ∧ k = (if op = 0x01 then 4 else 3) ∧ s.readPlanes die.val j ((planeAddrs f.live f.plane f.first).take k) = (Status.ok, vs, s) ∧ JobSource s die.val j (f.acc + 4 * f.first) 4 acc ∧ (Fmt.fp64.dec (leNat n2)).isFinite = true ∧ finUpdate op f (joinBits (vs.getD 0 0) (vs.getD 1 0)) (vs.getD 2 0) (vs.getD 3 0) (f32mul (leNat acc) (finScale f (leNat n2))) = (x, m, v) ∧ ((f32 x).isFinite = true ∧ (f32 m).isFinite = true ∧ (op = 0x01 → (f32 v).isFinite = true)) ∧ s.writePlanes die.val j (((planeAddrs f.shadow f.plane f.first).take k).zip [(splitBits x).1, (splitBits x).2, m, v]) = (Status.ok, u)) ∧
    (∃ (s : State) (u : State) (die : DieNo) (j : List Word) (r : List Byte) (n2 : List Byte) (acc : List Byte) (f : FinRec) (c : Instr) (op : Nat) (k : Nat) (vs : List Nat) (x : _) (m : _) (v : _), ((op = 0x01 ∧ c = (.adamw die)) ∨ (op = 0x02 ∧ c = (.signmom die)) ∨ (op = 0x03 ∧ c = (.sgd die))) ∧ AtJob s die.val 2 op j ∧ JobRecord s die.val j 96 r ∧ finRec r = f ∧ inDie die.val f.n2 = true ∧ JobSource s die.val j f.n2 8 n2 ∧ jobCount j = 1 ∧ f.addend = 0 ∧ k = (if op = 0x01 then 4 else 3) ∧ s.readPlanes die.val j ((planeAddrs f.live f.plane f.first).take k) = (Status.ok, vs, s) ∧ JobSource s die.val j (f.acc + 4 * f.first) 4 acc ∧ (Fmt.fp64.dec (leNat n2)).isFinite = true ∧ finUpdate op f (joinBits (vs.getD 0 0) (vs.getD 1 0)) (vs.getD 2 0) (vs.getD 3 0) (f32mul (leNat acc) (finScale f (leNat n2))) = (x, m, v) ∧ ((f32 x).isFinite = false ∨ (f32 m).isFinite = false ∨ (op = 0x01 ∧ (f32 v).isFinite = false)) ∧ (s.count (Base.engine die.val 2) Reg.finNonfinite).writePlanes die.val j (((planeAddrs f.shadow f.plane f.first).take k).zip vs) = (Status.ok, u)) ∧
    (∃ (s : State) (u : State) (die : DieNo) (j : List Word) (r : List Byte) (n2 : List Byte) (f : FinRec) (vs : List Nat), AtJob s die.val 2 0x01 j ∧ JobRecord s die.val j 96 r ∧ finRec r = f ∧ inDie die.val f.n2 = true ∧ JobSource s die.val j f.n2 8 n2 ∧ jobCount j = 1 ∧ (Fmt.fp64.dec (leNat n2)).isFinite = false ∧ (s.count (Base.engine die.val 2) Reg.finSkipped).readPlanes die.val j (planeAddrs f.live f.plane f.first) = (Status.ok, vs, s.count (Base.engine die.val 2) Reg.finSkipped) ∧ (s.count (Base.engine die.val 2) Reg.finSkipped).writePlanes die.val j ((planeAddrs f.shadow f.plane f.first).zip vs) = (Status.ok, u)) ∧
    (∃ (s : State) (die : DieNo) (j : List Word) (r : List Byte) (acc : List Byte), AtJob s die.val 2 0x04 j ∧ JobRecord s die.val j 8 r ∧ JobSource s die.val j (jobOut j) (4 * jobCount j) acc ∧ s.jobStatus die.val j (jobParam j) 8 = Status.ok) :=
  ⟨⟨finState 3 0 0x3F80, ((finState 3 0 0x3F80).writePlanes (0 : DieNo).val (jobOf 3 1) (((planeAddrs (finRec (bytesOf finWords)).shadow (finRec (bytesOf finWords)).plane (finRec (bytesOf finWords)).first).take (3 : Nat)).zip [(splitBits 0x3F800000).1, (splitBits 0x3F800000).2, 0, 0])).2, 0, jobOf 3 1, bytesOf finWords, leBytes 8 0, leBytes 4 0, finRec (bytesOf finWords), .sgd 0, 3, 3, [0x3F80, 0, 0], 0x3F800000, 0, 0, by decide +kernel, by unfold AtJob; decide +kernel, by unfold JobRecord JobSource CleanWords; decide +kernel, by decide +kernel, by decide +kernel, by unfold JobSource CleanWords; decide +kernel, by decide +kernel, by decide +kernel, by decide +kernel, triple_eq (by decide +kernel), by unfold JobSource CleanWords; decide +kernel, by decide +kernel, by decide +kernel, by decide +kernel, pair_eq (by decide +kernel)⟩,
   ⟨finState 3 0 0x7F80, (((finState 3 0 0x7F80).count (Base.engine (0 : DieNo).val 2) Reg.finNonfinite).writePlanes (0 : DieNo).val (jobOf 3 1) (((planeAddrs (finRec (bytesOf finWords)).shadow (finRec (bytesOf finWords)).plane (finRec (bytesOf finWords)).first).take (3 : Nat)).zip ([0x7F80, 0, 0]))).2, 0, jobOf 3 1, bytesOf finWords, leBytes 8 0, leBytes 4 0, finRec (bytesOf finWords), .sgd 0, 3, 3, [0x7F80, 0, 0], 0x7F800000, 0, 0, by decide +kernel, by unfold AtJob; decide +kernel, by unfold JobRecord JobSource CleanWords; decide +kernel, by decide +kernel, by decide +kernel, by unfold JobSource CleanWords; decide +kernel, by decide +kernel, by decide +kernel, by decide +kernel, triple_eq (by decide +kernel), by unfold JobSource CleanWords; decide +kernel, by decide +kernel, by decide +kernel, by decide +kernel, pair_eq (by decide +kernel)⟩,
   ⟨finState 1 0x7FF0000000000000 0, (((finState 1 0x7FF0000000000000 0).count (Base.engine (0 : DieNo).val 2) Reg.finSkipped).writePlanes (0 : DieNo).val (jobOf 1 1) ((planeAddrs (finRec (bytesOf finWords)).shadow (finRec (bytesOf finWords)).plane (finRec (bytesOf finWords)).first).zip ([0, 0, 0, 0]))).2, 0, jobOf 1 1, bytesOf finWords, leBytes 8 0x7FF0000000000000, finRec (bytesOf finWords), [0, 0, 0, 0], by unfold AtJob; decide +kernel, by unfold JobRecord JobSource CleanWords; decide +kernel, by decide +kernel, by decide +kernel, by unfold JobSource CleanWords; decide +kernel, by decide +kernel, by decide +kernel, triple_eq (by decide +kernel), pair_eq (by decide +kernel)⟩,
   ⟨engAt 2 (jobOf 4 2) [0], 0, jobOf 4 2, leBytes 8 0, List.replicate 8 0, by unfold AtJob; decide +kernel, by unfold JobRecord JobSource CleanWords; decide +kernel, by unfold JobSource CleanWords; decide +kernel, by decide +kernel⟩⟩

/-- A sampler entry: one FP32 logit at 0x2000, greedy; `draft` drafts. -/
def smpWords (draft lfmt : Nat) : List Word := [word (draft * 2 ^ 56), word (lfmt * 2 ^ 60 + 0x2000), word (0x3F800000 * 2 ^ 32), 0]

theorem test_witness_CheckJobs :
    (∃ (s : State) (die : DieNo) (j : List Word) (r : List Byte) (as : List Byte) (bs : List Byte) (n : _), AtJob s die.val 3 0x01 j ∧ JobRecord s die.val j 16 r ∧ JobSource s die.val j (jobOut j) (4 * jobCount j) as ∧ JobSource s die.val j (recNat r 0 6) (4 * jobCount j) bs ∧ n = ((List.zipWith (pairAgrees (recNat r 8 2 % 4096)) (floatsOf as) (floatsOf bs)).filter (!·)).length ∧ n = 0) ∧
    (∃ (s : State) (die : DieNo) (j : List Word) (r : List Byte) (as : List Byte) (bs : List Byte) (n : _), AtJob s die.val 3 0x01 j ∧ JobRecord s die.val j 16 r ∧ JobSource s die.val j (jobOut j) (4 * jobCount j) as ∧ JobSource s die.val j (recNat r 0 6) (4 * jobCount j) bs ∧ n = ((List.zipWith (pairAgrees (recNat r 8 2 % 4096)) (floatsOf as) (floatsOf bs)).filter (!·)).length ∧ n ≠ 0) ∧
    (∃ (s : State) (die : DieNo) (j : List Word) (r : List Byte) (as : List Byte) (a : Nat) (last : Nat), AtJob s die.val 3 0x02 j ∧ JobRecord s die.val j 24 r ∧ jobCount j = 1 ∧ recNat r 16 6 = a ∧ (last = (if recNat r 0 3 % 2 ^ 21 = 0 ∨ 2 ^ 20 < recNat r 0 3 % 2 ^ 21 then 2 ^ 20 else recNat r 0 3 % 2 ^ 21)) ∧ JobSource s die.val j a last as ∧ s.jobStatus die.val j (jobOut j) (sha256 as).length = Status.ok ∧ recNat r 8 6 = 0) ∧
    (∃ (s : State) (die : DieNo) (j : List Word) (r : List Byte) (as : List Byte) (bs : List Byte) (a : Nat) (last : Nat), AtJob s die.val 3 0x02 j ∧ JobRecord s die.val j 24 r ∧ jobCount j = 1 ∧ recNat r 16 6 = a ∧ (last = (if recNat r 0 3 % 2 ^ 21 = 0 ∨ 2 ^ 20 < recNat r 0 3 % 2 ^ 21 then 2 ^ 20 else recNat r 0 3 % 2 ^ 21)) ∧ JobSource s die.val j a last as ∧ s.jobStatus die.val j (jobOut j) (sha256 as).length = Status.ok ∧ recNat r 8 6 ≠ 0 ∧ JobSource (s.storeBytes (jobOut j) (sha256 as)) die.val j (recNat r 8 6) 32 bs ∧ bs = sha256 as) ∧
    (∃ (s : State) (die : DieNo) (j : List Word) (r : List Byte) (as : List Byte) (bs : List Byte) (a : Nat) (last : Nat), AtJob s die.val 3 0x02 j ∧ JobRecord s die.val j 24 r ∧ jobCount j = 1 ∧ recNat r 16 6 = a ∧ (last = (if recNat r 0 3 % 2 ^ 21 = 0 ∨ 2 ^ 20 < recNat r 0 3 % 2 ^ 21 then 2 ^ 20 else recNat r 0 3 % 2 ^ 21)) ∧ JobSource s die.val j a last as ∧ s.jobStatus die.val j (jobOut j) (sha256 as).length = Status.ok ∧ recNat r 8 6 ≠ 0 ∧ JobSource (s.storeBytes (jobOut j) (sha256 as)) die.val j (recNat r 8 6) 32 bs ∧ bs ≠ sha256 as ∧ bs.length = 32) ∧
    (∃ (s : State) (die : DieNo) (j : List Word) (r : List Byte) (n : Nat), AtJob s die.val 3 0x03 j ∧ JobRecord s die.val j 8 r ∧ jobCount j = n ∧ s.jobStatus die.val j (jobOut j) n = Status.ok ∧ CleanWords s (jobOut j) n ∧ (∀ i, i < (jobOut j + n + 7) / 8 - jobOut j / 8 → placeOf ((jobOut j / 8 + i) * 8) ≠ .ddr)) :=
  ⟨⟨engAt 3 (jobOf 1 2) [word (sp 0x800), 0], 0, jobOf 1 2, bytesOf [word (sp 0x800), 0], List.replicate 8 0, List.replicate 8 0, (((List.zipWith (pairAgrees (recNat (bytesOf [word (sp 0x800), 0]) 8 2 % 4096)) (floatsOf (List.replicate 8 0)) (floatsOf (List.replicate 8 0))).filter (!·)).length), by unfold AtJob; decide +kernel, by unfold JobRecord JobSource CleanWords; decide +kernel, by unfold JobSource CleanWords; decide +kernel, by unfold JobSource CleanWords; decide +kernel, rfl, by decide +kernel⟩,
   ⟨engAt 3 (jobOf 1 2) [word (sp 0), 0], 0, jobOf 1 2, bytesOf [word (sp 0), 0], List.replicate 8 0, leBytes 8 (sp 0), (((List.zipWith (pairAgrees (recNat (bytesOf [word (sp 0), 0]) 8 2 % 4096)) (floatsOf (List.replicate 8 0)) (floatsOf (leBytes 8 (sp 0)))).filter (!·)).length), by unfold AtJob; decide +kernel, by unfold JobRecord JobSource CleanWords; decide +kernel, by unfold JobSource CleanWords; decide +kernel, by unfold JobSource CleanWords; decide +kernel, rfl, by decide +kernel⟩,
   ⟨engAt 3 (jobOf 2 1) [1, 0, word (sp 0x800)], 0, jobOf 2 1, bytesOf [1, 0, word (sp 0x800)], [0], (recNat (bytesOf [1, 0, word (sp 0x800)]) 16 6), 1, by unfold AtJob; decide +kernel, by unfold JobRecord JobSource CleanWords; decide +kernel, by decide +kernel, rfl, by decide +kernel, by unfold JobSource CleanWords; decide +kernel, by decide +kernel, by decide +kernel⟩,
   ⟨engAt 3 (jobOf 2 1) [1, word (sp 0x1000), word (sp 0x800)], 0, jobOf 2 1, bytesOf [1, word (sp 0x1000), word (sp 0x800)], [0], sha256 [0], (recNat (bytesOf [1, word (sp 0x1000), word (sp 0x800)]) 16 6), 1, by unfold AtJob; decide +kernel, by unfold JobRecord JobSource CleanWords; decide +kernel, by decide +kernel, rfl, by decide +kernel, by unfold JobSource CleanWords; decide +kernel, by decide +kernel, by decide +kernel, by unfold JobSource CleanWords; decide +kernel, by decide +kernel⟩,
   ⟨engAt 3 (jobOf 2 1) [1, word (sp 0x2000), word (sp 0x800)], 0, jobOf 2 1, bytesOf [1, word (sp 0x2000), word (sp 0x800)], [0], List.replicate 32 0, (recNat (bytesOf [1, word (sp 0x2000), word (sp 0x800)]) 16 6), 1, by unfold AtJob; decide +kernel, by unfold JobRecord JobSource CleanWords; decide +kernel, by decide +kernel, rfl, by decide +kernel, by unfold JobSource CleanWords; decide +kernel, by decide +kernel, by decide +kernel, by unfold JobSource CleanWords; decide +kernel, by decide +kernel, by decide +kernel⟩,
   ⟨engAt 3 (jobOf 3 16) [0], 0, jobOf 3 16, leBytes 8 0, (jobCount (jobOf 3 16)), by unfold AtJob; decide +kernel, by unfold JobRecord JobSource CleanWords; decide +kernel, rfl, by decide +kernel, by unfold CleanWords; decide +kernel, by decide +kernel⟩⟩

/-- A pointing entry: its source at 0x2000, its word 1 and its destination. -/
def mvWords (w0 w1 w2 : Nat) : List Word := [word (w0 + sp 0x2000), word w1, word (w2 + sp 0x4000), 0]

def ptJob (op : Nat) : List Word := jobOf op 1

theorem test_witness_SamplerJobs :
    (∃ (s : State) (die : DieNo) (maquette : Bool) (j : List Word) (e : List Byte) (lg : List Byte) (r : SmpRow) (f : SmpFirst) (op : Nat), AtJob s die.val 0 op j ∧ JobRecord s die.val j 32 e ∧ e.length = 32 ∧ jobCount j = 1 ∧ smpRow (jobOut j / 2 ^ 40) e = r ∧ s.reqOf r.handle = none ∧ (inDie die.val r.logits = true ∨ placeOf r.logits = .ddr) ∧ r.bad (op == 4) = false ∧ s.jobStatus die.val j (jobOut j) 16 = Status.ok ∧ op = 0x01 ∧ r.greedy = true ∧ JobSource s die.val j r.logits r.bytes lg ∧ s.smpFirst die.val (jobCtx j) (if maquette then 3 else 0) r (r.zs lg) = f) ∧
    (∃ (s : State) (die : DieNo) (shards : Nat) (j : List Word) (e : List Byte) (lg : List Byte) (r : SmpRow) (f : SmpFirst) (op : Nat), AtJob s die.val 0 op j ∧ JobRecord s die.val j 32 e ∧ e.length = 32 ∧ jobCount j = 1 ∧ smpRow (jobOut j / 2 ^ 40) e = r ∧ s.reqOf r.handle = none ∧ (inDie die.val r.logits = true ∨ placeOf r.logits = .ddr) ∧ r.bad (op == 4) = false ∧ s.jobStatus die.val j (jobOut j) 16 = Status.ok ∧ op = 0x03 ∧ r.greedy = true ∧ JobSource s die.val j r.logits (shards * r.listBytes) lg ∧ r.merge (chunks r.listBytes lg.length lg) = f) ∧
    (∃ (s : State) (die : DieNo) (j : List Word) (e : List Byte) (lg : List Byte) (r : SmpRow) (f : SmpFirst) (x : BitVec 20) (q : List (BitVec 20 × W32)) (op : Nat), AtJob s die.val 0 op j ∧ JobRecord s die.val j 32 e ∧ e.length = 32 ∧ jobCount j = 1 ∧ smpRow (jobOut j / 2 ^ 40) e = r ∧ s.reqOf r.handle = none ∧ (inDie die.val r.logits = true ∨ placeOf r.logits = .ddr) ∧ r.bad (op == 4) = false ∧ s.jobStatus die.val j (jobOut j) 16 = Status.ok ∧ op = 0x04 ∧ r.greedy = true ∧ r.draft = 1 ∧ JobSource s die.val j r.logits (2 * r.bytes) lg ∧ s.smpFirst die.val (jobCtx j) 0 r (r.zs (lg.take r.bytes)) = f ∧ x.toNat ≠ f.best ∧ (∀ p ∈ q, p.2.toNat < 2 ^ 31)) ∧
    (∃ (s : State) (die : DieNo) (j : List Word) (e : List Byte) (lg : List Byte) (r : SmpRow) (f : SmpFirst) (op : Nat) (bs : _), AtJob s die.val 0 op j ∧ JobRecord s die.val j 32 e ∧ e.length = 32 ∧ jobCount j = 1 ∧ smpRow (jobOut j / 2 ^ 40) e = r ∧ s.reqOf r.handle = none ∧ (inDie die.val r.logits = true ∨ placeOf r.logits = .ddr) ∧ r.bad (op == 4) = false ∧ op = 0x02 ∧ JobSource s die.val j r.logits r.bytes lg ∧ s.smpFirst die.val (jobCtx j) 0 r (r.zs lg) = f ∧ bs = [f.m, f.sum, f.best, f.key].flatMap (leBytes 4) ++ f.cand.flatMap (fun p => leBytes 8 (p.2 * 2 ^ 32 + p.1)) ++ (List.range (r.kc - f.cand.length)).flatMap (fun _ => leBytes 8 (0xFF800000 * 2 ^ 32)) ∧ s.jobStatus die.val j (jobOut j) bs.length = Status.ok) ∧
    (∃ (s : State) (die : DieNo) (j : List Word) (e : List Byte) (r : SmpRow) (op : Nat), AtJob s die.val 0 op j ∧ JobRecord s die.val j 32 e ∧ e.length = 32 ∧ jobCount j = 1 ∧ smpRow (jobOut j / 2 ^ 40) e = r ∧ s.reqOf r.handle = none ∧ (inDie die.val r.logits = true ∨ placeOf r.logits = .ddr) ∧ r.bad (op == 4) = true ∧ op = 0x01) ∧
    (∃ (s : State) (die : DieNo) (j : List Word) (e : List Byte) (r : SmpRow) (op : Nat), AtJob s die.val 0 op j ∧ JobRecord s die.val j 32 e ∧ e.length = 32 ∧ jobCount j = 1 ∧ smpRow (jobOut j / 2 ^ 40) e = r ∧ s.reqOf r.handle = none ∧ (inDie die.val r.logits = true ∨ placeOf r.logits = .ddr) ∧ r.bad (op == 4) = true ∧ op = 0x02) ∧
    (∃ (s : State) (die : DieNo) (j : List Word) (e : List Byte) (r : SmpRow) (op : Nat), AtJob s die.val 0 op j ∧ JobRecord s die.val j 32 e ∧ e.length = 32 ∧ jobCount j = 1 ∧ smpRow (jobOut j / 2 ^ 40) e = r ∧ s.reqOf r.handle = none ∧ (inDie die.val r.logits = true ∨ placeOf r.logits = .ddr) ∧ r.bad (op == 4) = true ∧ op = 0x03) ∧
    (∃ (s : State) (die : DieNo) (j : List Word) (e : List Byte) (r : SmpRow) (op : Nat), AtJob s die.val 0 op j ∧ JobRecord s die.val j 32 e ∧ e.length = 32 ∧ jobCount j = 1 ∧ smpRow (jobOut j / 2 ^ 40) e = r ∧ s.reqOf r.handle = none ∧ (inDie die.val r.logits = true ∨ placeOf r.logits = .ddr) ∧ r.bad (op == 4) = true ∧ op = 0x04) :=
  ⟨⟨engAt 0 (jobOf 1 1) (smpWords 0 8), 0, false, jobOf 1 1, bytesOf (smpWords 0 8), List.replicate 4 0, (smpRow (jobOut (jobOf 1 1) / 2 ^ 40) (bytesOf (smpWords 0 8))), ((engAt 0 (jobOf 1 1) (smpWords 0 8)).smpFirst (0 : DieNo).val (jobCtx (jobOf 1 1)) (if false then 3 else 0) (smpRow (jobOut (jobOf 1 1) / 2 ^ 40) (bytesOf (smpWords 0 8))) ((smpRow (jobOut (jobOf 1 1) / 2 ^ 40) (bytesOf (smpWords 0 8))).zs (List.replicate 4 0))), 1, by unfold AtJob; decide +kernel, by unfold JobRecord JobSource CleanWords; decide +kernel, by decide +kernel, by decide +kernel, rfl, by decide +kernel, by decide +kernel, by decide +kernel, by decide +kernel, by decide +kernel, by decide +kernel, by unfold JobSource CleanWords; decide +kernel, rfl⟩,
   ⟨engAt 0 (jobOf 3 1) (smpWords 0 8), 0, 1, jobOf 3 1, bytesOf (smpWords 0 8), List.replicate 16 0, (smpRow (jobOut (jobOf 3 1) / 2 ^ 40) (bytesOf (smpWords 0 8))), ((smpRow (jobOut (jobOf 3 1) / 2 ^ 40) (bytesOf (smpWords 0 8))).merge (chunks (smpRow (jobOut (jobOf 3 1) / 2 ^ 40) (bytesOf (smpWords 0 8))).listBytes (List.replicate 16 0).length (List.replicate 16 0))), 3, by unfold AtJob; decide +kernel, by unfold JobRecord JobSource CleanWords; decide +kernel, by decide +kernel, by decide +kernel, rfl, by decide +kernel, by decide +kernel, by decide +kernel, by decide +kernel, by decide +kernel, by decide +kernel, by unfold JobSource CleanWords; decide +kernel, rfl⟩,
   ⟨engAt 0 (jobOf 4 1) (smpWords 1 8), 0, jobOf 4 1, bytesOf (smpWords 1 8), List.replicate 8 0, (smpRow (jobOut (jobOf 4 1) / 2 ^ 40) (bytesOf (smpWords 1 8))), ((engAt 0 (jobOf 4 1) (smpWords 1 8)).smpFirst (0 : DieNo).val (jobCtx (jobOf 4 1)) 0 (smpRow (jobOut (jobOf 4 1) / 2 ^ 40) (bytesOf (smpWords 1 8))) ((smpRow (jobOut (jobOf 4 1) / 2 ^ 40) (bytesOf (smpWords 1 8))).zs ((List.replicate 8 0).take (smpRow (jobOut (jobOf 4 1) / 2 ^ 40) (bytesOf (smpWords 1 8))).bytes))), 1, [(1, 0x7FFFFFFF)], 4, by unfold AtJob; decide +kernel, by unfold JobRecord JobSource CleanWords; decide +kernel, by decide +kernel, by decide +kernel, rfl, by decide +kernel, by decide +kernel, by decide +kernel, by decide +kernel, by decide +kernel, by decide +kernel, by decide +kernel, by unfold JobSource CleanWords; decide +kernel, rfl, by decide +kernel, fun p h => by cases List.mem_singleton.mp h; decide⟩,
   ⟨engAt 0 (jobOf 2 1) (smpWords 0 8), 0, jobOf 2 1, bytesOf (smpWords 0 8), List.replicate 4 0, (smpRow (jobOut (jobOf 2 1) / 2 ^ 40) (bytesOf (smpWords 0 8))), ((engAt 0 (jobOf 2 1) (smpWords 0 8)).smpFirst (0 : DieNo).val (jobCtx (jobOf 2 1)) 0 (smpRow (jobOut (jobOf 2 1) / 2 ^ 40) (bytesOf (smpWords 0 8))) ((smpRow (jobOut (jobOf 2 1) / 2 ^ 40) (bytesOf (smpWords 0 8))).zs (List.replicate 4 0))), 2, ([((engAt 0 (jobOf 2 1) (smpWords 0 8)).smpFirst (0 : DieNo).val (jobCtx (jobOf 2 1)) 0 (smpRow (jobOut (jobOf 2 1) / 2 ^ 40) (bytesOf (smpWords 0 8))) ((smpRow (jobOut (jobOf 2 1) / 2 ^ 40) (bytesOf (smpWords 0 8))).zs (List.replicate 4 0))).m, ((engAt 0 (jobOf 2 1) (smpWords 0 8)).smpFirst (0 : DieNo).val (jobCtx (jobOf 2 1)) 0 (smpRow (jobOut (jobOf 2 1) / 2 ^ 40) (bytesOf (smpWords 0 8))) ((smpRow (jobOut (jobOf 2 1) / 2 ^ 40) (bytesOf (smpWords 0 8))).zs (List.replicate 4 0))).sum, ((engAt 0 (jobOf 2 1) (smpWords 0 8)).smpFirst (0 : DieNo).val (jobCtx (jobOf 2 1)) 0 (smpRow (jobOut (jobOf 2 1) / 2 ^ 40) (bytesOf (smpWords 0 8))) ((smpRow (jobOut (jobOf 2 1) / 2 ^ 40) (bytesOf (smpWords 0 8))).zs (List.replicate 4 0))).best, ((engAt 0 (jobOf 2 1) (smpWords 0 8)).smpFirst (0 : DieNo).val (jobCtx (jobOf 2 1)) 0 (smpRow (jobOut (jobOf 2 1) / 2 ^ 40) (bytesOf (smpWords 0 8))) ((smpRow (jobOut (jobOf 2 1) / 2 ^ 40) (bytesOf (smpWords 0 8))).zs (List.replicate 4 0))).key].flatMap (leBytes 4) ++ ((engAt 0 (jobOf 2 1) (smpWords 0 8)).smpFirst (0 : DieNo).val (jobCtx (jobOf 2 1)) 0 (smpRow (jobOut (jobOf 2 1) / 2 ^ 40) (bytesOf (smpWords 0 8))) ((smpRow (jobOut (jobOf 2 1) / 2 ^ 40) (bytesOf (smpWords 0 8))).zs (List.replicate 4 0))).cand.flatMap (fun p => leBytes 8 (p.2 * 2 ^ 32 + p.1)) ++ (List.range ((smpRow (jobOut (jobOf 2 1) / 2 ^ 40) (bytesOf (smpWords 0 8))).kc - ((engAt 0 (jobOf 2 1) (smpWords 0 8)).smpFirst (0 : DieNo).val (jobCtx (jobOf 2 1)) 0 (smpRow (jobOut (jobOf 2 1) / 2 ^ 40) (bytesOf (smpWords 0 8))) ((smpRow (jobOut (jobOf 2 1) / 2 ^ 40) (bytesOf (smpWords 0 8))).zs (List.replicate 4 0))).cand.length)).flatMap (fun _ => leBytes 8 (0xFF800000 * 2 ^ 32))), by unfold AtJob; decide +kernel, by unfold JobRecord JobSource CleanWords; decide +kernel, by decide +kernel, by decide +kernel, rfl, by decide +kernel, by decide +kernel, by decide +kernel, by decide +kernel, by unfold JobSource CleanWords; decide +kernel, rfl, rfl, by decide +kernel⟩,
   ⟨engAt 0 (jobOf 1 1) (smpWords 0 1), 0, jobOf 1 1, bytesOf (smpWords 0 1), (smpRow (jobOut (jobOf 1 1) / 2 ^ 40) (bytesOf (smpWords 0 1))), 1, by unfold AtJob; decide +kernel, by unfold JobRecord JobSource CleanWords; decide +kernel, by decide +kernel, by decide +kernel, rfl, by decide +kernel, by decide +kernel, by decide +kernel, by decide +kernel⟩,
   ⟨engAt 0 (jobOf 2 1) (smpWords 1 8), 0, jobOf 2 1, bytesOf (smpWords 1 8), (smpRow (jobOut (jobOf 2 1) / 2 ^ 40) (bytesOf (smpWords 1 8))), 2, by unfold AtJob; decide +kernel, by unfold JobRecord JobSource CleanWords; decide +kernel, by decide +kernel, by decide +kernel, rfl, by decide +kernel, by decide +kernel, by decide +kernel, by decide +kernel⟩,
   ⟨engAt 0 (jobOf 3 1) (smpWords 0 1), 0, jobOf 3 1, bytesOf (smpWords 0 1), (smpRow (jobOut (jobOf 3 1) / 2 ^ 40) (bytesOf (smpWords 0 1))), 3, by unfold AtJob; decide +kernel, by unfold JobRecord JobSource CleanWords; decide +kernel, by decide +kernel, by decide +kernel, rfl, by decide +kernel, by decide +kernel, by decide +kernel, by decide +kernel⟩,
   ⟨engAt 0 (jobOf 4 1) (smpWords 9 8), 0, jobOf 4 1, bytesOf (smpWords 9 8), (smpRow (jobOut (jobOf 4 1) / 2 ^ 40) (bytesOf (smpWords 9 8))), 4, by unfold AtJob; decide +kernel, by unfold JobRecord JobSource CleanWords; decide +kernel, by decide +kernel, by decide +kernel, rfl, by decide +kernel, by decide +kernel, by decide +kernel, by decide +kernel⟩⟩

/-- DDR segment 0 lies on channel 0, and host region 0 is valid. -/
def ddr0 : State :=
 { run with segs := [(0, word (2 ^ 63 + 1))], um := { run.um with regions := [(0, word (2 ^ 63))] } }

/-- A control core's access to a word. -/
def accOf (a : Addr) (w : Option Word) (e : Option Byte := none) : Access :=
 { who := .control 32, addr := a, words := 1, write := w.map fun w => [fresh w], expect := e, runahead := false }

def acc1 : Access := { accOf 0x1000000000F8 none with who := .engine 1 0 }

def host0 : Access := accOf 0x200000000000 none

theorem test_witness_PointingJobs :
    (∃ (s : State) (die : DieNo) (e : Fin 2) (j : List Word) (m : List Word) (rec : List Byte) (src : List Byte) (old : List Byte) (x : Loop), AtJob s die.val (4 + e.val) 0x01 j ∧ JobRecord s die.val j 32 rec ∧ jobCount j = 1 ∧ wordsOf rec = m ∧ m.length = 4 ∧ inDie die.val (jobOut j) = true ∧ mvNt m = 1 ∧ JobSource s die.val j (jobOut j + 8 * mvTensor m) 4 old ∧ JobSource s die.val j (mvSrc m) 2048 src ∧ s.loop (jobCtx j) = x) ∧
    (∃ (s : State) (die : DieNo) (e : Fin 2) (j : List Word) (m : List Word) (rec : List Byte), AtJob s die.val (4 + e.val) 0x01 j ∧ JobRecord s die.val j 32 rec ∧ jobCount j = 1 ∧ wordsOf rec = m ∧ m.length = 4 ∧ inDie die.val (jobOut j) = true ∧ mvNt m = 0) ∧
    (∃ (s : State) (die : DieNo) (e : Fin 2) (j : List Word) (m : List Word) (rec : List Byte) (src : List Byte), AtJob s die.val (4 + e.val) 0x02 j ∧ JobRecord s die.val j 32 rec ∧ jobCount j = 1 ∧ wordsOf rec = m ∧ m.length = 4 ∧ inDie die.val (jobOut j) = true ∧ mvDfmt m = 0 ∧ mvNt m = 1 ∧ mvPadN m = false ∧ mvColStride m = 0 ∧ mvDev m = s.myNum ∧ JobSource s die.val j (mvSrc m) 2048 src ∧ src.length = 2048 ∧ s.jobStatus die.val j (mvDaddr m) 2048 = Status.ok) ∧
    (∃ (s : State) (die : DieNo) (e : Fin 2) (j : List Word) (m : List Word) (rec : List Byte), AtJob s die.val (4 + e.val) 0x02 j ∧ JobRecord s die.val j 32 rec ∧ jobCount j = 1 ∧ wordsOf rec = m ∧ m.length = 4 ∧ inDie die.val (jobOut j) = true ∧ (5 < mvDfmt m ∨ mvNt m = 0 ∨ (mvDfmt m ≠ 5 ∧ (mvPadN m = true ∨ mvColStride m ≠ 0)))) ∧
    (∃ (s : State) (ctx : Ctx) (x : Loop), s.loop ctx.val = x ∧ s.runsSlots = true ∧ x.scanned ≠ [] ∧ x.next = 0 ∧ 0 < x.top ∧ x.top ≤ 8 ∧ s.arm.colls = [] ∧ s.nextDim (s.groupOf ctx.val) 0 = 4) ∧
    (∃ (s : State) (ctx : Ctx), (s.runsSlots = false ∨ (s.loop ctx.val).scanned = [])) :=
  ⟨⟨engAt 4 (jobOf 1 1) (mvWords 0 1 0), 0, 0, jobOf 1 1, (wordsOf (bytesOf (mvWords 0 1 0))), bytesOf (mvWords 0 1 0), List.replicate 2048 0, List.replicate 4 0, ((engAt 4 (jobOf 1 1) (mvWords 0 1 0)).loop (jobCtx (jobOf 1 1))), by unfold AtJob; decide +kernel, by unfold JobRecord JobSource CleanWords; decide +kernel, by decide +kernel, rfl, by decide +kernel, by decide +kernel, by decide +kernel, by unfold JobSource CleanWords; decide +kernel, by unfold JobSource CleanWords; decide +kernel, rfl⟩,
   ⟨engAt 5 (jobOf 1 1) (mvWords 0 0 0), 0, 1, jobOf 1 1, (wordsOf (bytesOf (mvWords 0 0 0))), bytesOf (mvWords 0 0 0), by unfold AtJob; decide +kernel, by unfold JobRecord JobSource CleanWords; decide +kernel, by decide +kernel, rfl, by decide +kernel, by decide +kernel, by decide +kernel⟩,
   ⟨engAt 4 (jobOf 2 1) (mvWords 0 1 0), 0, 0, jobOf 2 1, (wordsOf (bytesOf (mvWords 0 1 0))), bytesOf (mvWords 0 1 0), List.replicate 2048 0, by unfold AtJob; decide +kernel, by unfold JobRecord JobSource CleanWords; decide +kernel, by decide +kernel, rfl, by decide +kernel, by decide +kernel, by decide +kernel, by decide +kernel, by decide +kernel, by decide +kernel, by decide +kernel, by unfold JobSource CleanWords; decide +kernel, by decide +kernel, by decide +kernel⟩,
   ⟨engAt 5 (jobOf 2 1) (mvWords (6 * 2 ^ 48) 1 0), 0, 1, jobOf 2 1, (wordsOf (bytesOf (mvWords (6 * 2 ^ 48) 1 0))), bytesOf (mvWords (6 * 2 ^ 48) 1 0), by unfold AtJob; decide +kernel, by unfold JobRecord JobSource CleanWords; decide +kernel, by decide +kernel, rfl, by decide +kernel, by decide +kernel, by decide +kernel⟩,
   by refine ⟨{ run with loops := [(0, ({ Loop.none with top := 8, tables := [(0, 0x100000001000)] }))] }, 0, { Loop.none with top := 8, tables := [(0, 0x100000001000)] }, ?_⟩; decide +kernel,
   by refine ⟨run, 0, ?_⟩; decide +kernel⟩

theorem cget_map_const {α : Type} (d : Nat → α) (v : α) : ∀ (l : List Nat) (n : Nat), n ∈ l →
   cget d (l.map fun k => (k, v)) n = v
 | a :: l, n, h => by
   by_cases e : n = a
   · simp [cget, e]
   · simp only [List.map_cons, cget, e, if_false]
     exact cget_map_const d v l n (by simpa [e] using h)

/-- Every read slot is taken. -/
def allBusy : Cells RdSlot := (List.range 1024).map fun k => (k, { RdSlot.free with busy := true })

theorem allBusy_busy (n : Nat) (h : n < 1024) : (cget (fun _ => RdSlot.free) allBusy n).busy = true := by
 rw [allBusy, cget_map_const _ _ _ _ (List.mem_range.2 h)]

theorem test_witness_StorageAccesses :
    (∃ (s : State) (who : Requester) (addr : Addr) (w : Word) (a : Nat) (c : Instr) (acc : Access), s.awake = true ∧ addr.toNat / 8 * 8 = a ∧ ((c = (.scratchpadAccess acc) ∧ ∃ d k o, placeOf a = .scratch d k o) ∨ (c = (.ddrRequest acc) ∧ placeOf a = .ddr)) ∧ acc = { who := who, addr := addr, words := 1, write := some [{ d := w, c := secded w }], expect := none, runahead := false } ∧ s.wordStatus who a = Status.ok) ∧
    (∃ (s : State) (who : Requester) (addr : Addr) (a : Nat) (c : Instr) (acc : Access), s.awake = true ∧ addr.toNat / 8 * 8 = a ∧ ((c = (.scratchpadAccess acc) ∧ ∃ d k o, placeOf a = .scratch d k o) ∨ (c = (.ddrRequest acc) ∧ placeOf a = .ddr)) ∧ acc = { who := who, addr := addr, words := 1, write := none, expect := none, runahead := false } ∧ s.wordStatus who a = Status.ok ∧ (s.load a).1.ecc = .clean) ∧
    (∃ (s : State) (who : Requester) (addr : Addr) (a : Nat) (e : Byte) (c : Instr) (acc : Access), s.awake = true ∧ addr.toNat / 8 * 8 = a ∧ ((c = (.scratchpadAccess acc) ∧ ∃ d k o, placeOf a = .scratch d k o) ∨ (c = (.ddrRequest acc) ∧ placeOf a = .ddr)) ∧ acc = { who := who, addr := addr, words := 1, write := none, expect := some e, runahead := false } ∧ s.wordStatus who a = Status.ok ∧ (s.load a).1.ecc = .clean ∧ placeOf a = .ddr ∧ (s.load a).1.tag ≠ e) ∧
    (∃ (s : State) (who : Requester) (addr : Addr) (w : Word) (a : Nat) (st : Nat) (c : Instr) (acc : Access), s.awake = true ∧ addr.toNat / 8 * 8 = a ∧ ((c = (.scratchpadAccess acc) ∧ ∃ d k o, placeOf a = .scratch d k o) ∨ (c = (.ddrRequest acc) ∧ placeOf a = .ddr)) ∧ acc.who = who ∧ acc.addr = addr ∧ acc.runahead = false ∧ acc.expect = none ∧ (acc.write = some [{ d := w, c := secded w }] ∨ (acc.write = none ∧ acc.words = 1)) ∧ s.wordStatus who a = st ∧ st ≠ Status.ok ∧ st < 256 ∧ placeOf a ≠ .ddr) :=
  ⟨⟨run, .control 32, 0x100000000008, 5, ((0x100000000008 : Addr).toNat / 8 * 8), .scratchpadAccess (accOf 0x100000000008 (some 5)), accOf 0x100000000008 (some 5), by decide +kernel, rfl, .inl ⟨rfl, 0, 0, 8, by decide +kernel⟩, by decide +kernel, by decide +kernel⟩,
   ⟨holds run [0, 7], .control 32, 0x100000000008, ((0x100000000008 : Addr).toNat / 8 * 8), .scratchpadAccess (accOf 0x100000000008 none), accOf 0x100000000008 none, by decide +kernel, rfl, .inl ⟨rfl, 0, 0, 8, by decide +kernel⟩, by decide +kernel, by decide +kernel, by decide +kernel⟩,
   ⟨ddr0, .control 32, 0, ((0 : Addr).toNat / 8 * 8), 1, .ddrRequest (accOf 0 none (some 1)), accOf 0 none (some 1), by decide +kernel, rfl, .inr ⟨rfl, by decide +kernel⟩, by decide +kernel, by decide +kernel, by decide +kernel, by decide +kernel, by decide +kernel⟩,
   ⟨run, .engine 1 0, 0x1000000000F8, 0, ((0x1000000000F8 : Addr).toNat / 8 * 8), Status.denied, .scratchpadAccess acc1, acc1, by decide +kernel, rfl, .inl ⟨rfl, 0, 0, 0xF8, by decide +kernel⟩, by decide +kernel, by decide +kernel, by decide +kernel, by decide +kernel, by decide +kernel, by decide +kernel, by decide +kernel, by decide +kernel, by decide +kernel⟩⟩

/-- Array 7 of core 0 of CD0 is owed a fill pass. -/
def filling : State := { run with cores := [(0, { Core.new with arrays := [(7, { Arr.new with inserted := 1 })] })] }

theorem test_witness_HostWindowAndDeadlines :
    (∃ (s : State) (who : Requester) (addr : Addr) (w : Word) (a : Nat) (acc : Access), s.awake = true ∧ addr.toNat / 8 * 8 = a ∧ placeOf a = .host ∧ acc.who = who ∧ acc.addr = addr ∧ acc.runahead = false ∧ s.winStatus (reqCtx who) (a - hostBase) = Status.ok ∧ acc.write = some [{ d := w, c := secded w }] ∧ 0 < s.um.out.length) ∧
    (∃ (s : State) (who : Requester) (addr : Addr) (a : Nat) (acc : Access) (k : _), s.awake = true ∧ addr.toNat / 8 * 8 = a ∧ placeOf a = .host ∧ acc.who = who ∧ acc.addr = addr ∧ acc.runahead = false ∧ s.winStatus (reqCtx who) (a - hostBase) = Status.ok ∧ acc.write = none ∧ acc.words = 1 ∧ ((List.range 1024).find? fun n => !(s.slot n).busy) = some k) ∧
    (∃ (s : State) (who : Requester) (addr : Addr) (a : Nat) (acc : Access), s.awake = true ∧ addr.toNat / 8 * 8 = a ∧ placeOf a = .host ∧ acc.who = who ∧ acc.addr = addr ∧ acc.runahead = false ∧ s.winStatus (reqCtx who) (a - hostBase) = Status.ok ∧ acc.write = none ∧ acc.words = 1 ∧ (∀ n, n < 1024 → (s.slot n).busy = true)) ∧
    (∃ (s : State) (who : Requester) (addr : Addr) (a : Nat) (acc : Access) (st : _), s.awake = true ∧ addr.toNat / 8 * 8 = a ∧ placeOf a = .host ∧ acc.who = who ∧ acc.addr = addr ∧ acc.runahead = false ∧ s.winStatus (reqCtx who) (a - hostBase) = st ∧ st ≠ Status.ok) ∧
    (∃ (s : State), s.serving = true) ∧
    (∃ (s : State) (h : W32), s.serving = true ∧ (s.reqOf h.toNat).isSome = true) ∧
    (∃ (s : State) (i : Fin 1024), s.serving = true ∧ (s.slot i.val).busy = true ∧ (s.slot i.val).owner = .access ∧ s.um.rdWait = [] ∧ (s.slot i.val).began + 8 < s.stroke) ∧
    (∃ (s : State) (i : Fin 1024), (s.serving = false ∨ (s.slot i.val).busy = false ∨ s.stroke ≤ (s.slot i.val).began + 8)) ∧
    (∃ (s : State) (addr : Addr) (a : Nat), s.awake = true ∧ addr.toNat / 8 * 8 = a ∧ placeOf a = .ddr ∧ s.ddrStatus (.control s.bootNow) a = Status.ok ∧ (s.load a).1.ecc = .clean) ∧
    (∃ (s : State) (addr : Addr) (a : Nat), s.awake = true ∧ addr.toNat / 8 * 8 = a ∧ placeOf a = .ddr ∧ s.ddrStatus (.control s.bootNow) a = Status.ok ∧ (s.load a).1.ecc = .fixed) :=
  ⟨by refine ⟨ddr0, .control 32, 0x200000000000, 5, ((0x200000000000 : Addr).toNat / 8 * 8), accOf 0x200000000000 (some 5), ?_⟩; decide +kernel,
   by refine ⟨ddr0, .control 32, 0x200000000000, ((0x200000000000 : Addr).toNat / 8 * 8), host0, 0, ?_⟩; decide +kernel,
   ⟨{ ddr0 with um := { ddr0.um with slots := allBusy } }, .control 32, 0x200000000000, ((0x200000000000 : Addr).toNat / 8 * 8), host0, (by decide +kernel : ddr0.awake = true), rfl, by decide +kernel, by decide +kernel, by decide +kernel, by decide +kernel, (by decide +kernel : ddr0.hostStatus none (0x200000000000 - hostBase) = Status.ok), by decide +kernel, by decide +kernel, allBusy_busy⟩,
   by refine ⟨run, .control 32, 0x200000000000, ((0x200000000000 : Addr).toNat / 8 * 8), host0, (run.winStatus (reqCtx (.control 32)) (((0x200000000000 : Addr).toNat / 8 * 8) - hostBase)), ?_⟩; decide +kernel,
   by refine ⟨run, ?_⟩; decide +kernel,
   by refine ⟨{ run with reqs := [(3, some request0)] }, 4099, ?_⟩; decide +kernel,
   by refine ⟨{ sets run [(Base.device, Reg.strokeCount, 9, 0)] with um := { run.um with slots := [(1023, { RdSlot.free with busy := true })] } }, 1023, ?_⟩; decide +kernel,
   by refine ⟨run, 0, ?_⟩; decide +kernel,
   by refine ⟨ddr0, 0, ((0 : Addr).toNat / 8 * 8), ?_⟩; decide +kernel,
   by refine ⟨{ ddr0 with mem := { data := [], check := [(2 ^ 48, some 1)], tag := [] } }, 0, ((0 : Addr).toNat / 8 * 8), ?_⟩; decide +kernel⟩

theorem test_witness_FillPassesAndGating :
    (∃ (s : State) (die : DieNo) (core : CoreNo) (arr : Fin 8) (first : Bool) (p : Nat) (y : Arr), s.coreUp die.val core.val = true ∧ s.get (Base.core die.val core.val) Reg.withdrawn arr.val = 0 ∧ s.pins.gated = false ∧ s.awake = true ∧ s.get (Base.core die.val core.val) Reg.nextPat arr.val = p ∧ s.fillTake die.val core.val arr.val = some (first, y) ∧ (s.findRetest die.val core.val arr.val = none ∨ first = false)) ∧
    (∃ (s : State) (die : DieNo) (core : CoreNo) (arr : Fin 8) (record : BitVec 128) (first : Bool) (p : Nat) (r : Retest) (y : Arr), s.coreUp die.val core.val = true ∧ s.get (Base.core die.val core.val) Reg.withdrawn arr.val = 0 ∧ s.pins.gated = false ∧ s.awake = true ∧ s.get (Base.core die.val core.val) Reg.nextPat arr.val = p ∧ s.fillTake die.val core.val arr.val = some (first, y) ∧ s.findRetest die.val core.val arr.val = some r ∧ first = true ∧ record = Config.fillRecord r.pattern) ∧
    (∃ (s : State) (die : DieNo) (core : CoreNo) (arr : Fin 8) (record : BitVec 128) (first : Bool) (p : Nat) (r : Retest) (y : Arr), s.coreUp die.val core.val = true ∧ s.get (Base.core die.val core.val) Reg.withdrawn arr.val = 0 ∧ s.pins.gated = false ∧ s.awake = true ∧ s.get (Base.core die.val core.val) Reg.nextPat arr.val = p ∧ s.fillTake die.val core.val arr.val = some (first, y) ∧ s.findRetest die.val core.val arr.val = some r ∧ first = true ∧ record ≠ Config.fillRecord r.pattern ∧ s.goneUnit (uid die.val core.val) = false) ∧
    (∃ (s : State) (die : DieNo) (core : CoreNo) (arr : Fin 8) (first : Bool) (y : Arr), (s.coreUp die.val core.val = false ∨ s.get (Base.core die.val core.val) Reg.withdrawn arr.val = 1 ∨ s.pins.gated = true ∨ s.awake = false ∨ s.fillTake die.val core.val arr.val = none ∨ s.fillTake die.val core.val arr.val = some (!first, y))) ∧
    (∃ (s : State) (die : DieNo) (core : CoreNo) (arr : Fin 8) (x : Arr) (cycles : W32) (now : Nat), s.awake = true ∧ s.coreUp die.val core.val = true ∧ s.arr die.val core.val arr.val = x ∧ now = s.strokes.cycles + min cycles.toNat s.strokeCycles) ∧
    (∃ (s : State) (die : DieNo) (core : CoreNo), (s.awake = false ∨ s.coreUp die.val core.val = false)) :=
  ⟨by refine ⟨filling, 0, 0, 7, true, (filling.get (Base.core (0 : DieNo).val (0 : CoreNo).val) Reg.nextPat (7 : Fin 8).val), Arr.new, ?_⟩; decide +kernel,
   ⟨{ filling with faults := { run.faults with retests := [retest0] } }, 0, 0, 7, (Config.fillRecord 0), true, (({ filling with faults := { run.faults with retests := [retest0] } }).get (Base.core (0 : DieNo).val (0 : CoreNo).val) Reg.nextPat (7 : Fin 8).val), retest0, Arr.new, by decide +kernel, by decide +kernel, by decide +kernel, by decide +kernel, rfl, by decide +kernel, by decide +kernel, by decide +kernel, rfl⟩,
   ⟨{ filling with faults := { run.faults with retests := [retest0] } }, 0, 0, 7, (~~~ Config.fillRecord 0), true, (({ filling with faults := { run.faults with retests := [retest0] } }).get (Base.core (0 : DieNo).val (0 : CoreNo).val) Reg.nextPat (7 : Fin 8).val), retest0, Arr.new, by decide +kernel, by decide +kernel, by decide +kernel, by decide +kernel, rfl, by decide +kernel, by decide +kernel, by decide +kernel, not_self _, by decide +kernel⟩,
   by refine ⟨sets run [(Base.core 0 0, Reg.withdrawn, 1, 7)], 0, 0, 7, true, Arr.new, ?_⟩; decide +kernel,
   by refine ⟨run, 0, 0, 0, Arr.new, 0, (run.strokes.cycles + min (0 : W32).toNat run.strokeCycles), ?_⟩; decide +kernel,
   by refine ⟨inState Dev.reset, 0, 0, ?_⟩; decide +kernel⟩

theorem test_witness_SegmentsAndEpochs :
    (∃ (s : State) (pd : Pd), s.pdUp pd.val = true ∧ (bit (word (s.get (Base.tier pd.val) Reg.segData)) 63 = true → popCount 16 (s.get (Base.tier pd.val) Reg.segData % 2 ^ 16) ∈ [1, 2, 4, 8, 16])) ∧
    (∃ (s : State) (pd : Pd), s.pdUp pd.val = true ∧ bit (word (s.get (Base.tier pd.val) Reg.segData)) 63 = true ∧ popCount 16 (s.get (Base.tier pd.val) Reg.segData % 2 ^ 16) ∉ [1, 2, 4, 8, 16]) ∧
    (∃ (s : State) (pd : Pd), s.pdUp pd.val = true) ∧
    (∃ (s : State) (pd : Pd) (host : Bool) (region : BitVec 22) (e : Nat) (c : Instr) (n : Nat), s.pdUp pd.val = true ∧ (host = false ∨ (pd.val = 0 ∧ region.toNat < 262144)) ∧ s.epoch pd.val host region.toNat = e ∧ ((c = .rewrite pd host region ∧ n = e / 16 * 16 + (e + 1) % 16) ∨ (c = .realloc pd host region ∧ n = (e / 16 + 1) % 16 * 16) ∨ (c = .epochRead pd host region ∧ n = e))) ∧
    (∃ (s : State) (pd : Pd) (host : Bool) (region : BitVec 22) (c : Instr), s.pdUp pd.val = true ∧ host = true ∧ (pd.val ≠ 0 ∨ 262144 ≤ region.toNat) ∧ (c = .rewrite pd host region ∨ c = .realloc pd host region ∨ c = .epochRead pd host region)) ∧
    (∃ (s : State) (pd : Pd), s.pdUp pd.val = false) :=
  ⟨by refine ⟨sets run [(Base.tier 0, Reg.segData, 2 ^ 63 + 1, 0)], 0, ?_⟩; decide +kernel,
   by refine ⟨sets run [(Base.tier 0, Reg.segData, 2 ^ 63, 0)], 0, ?_⟩; decide +kernel,
   by refine ⟨ddr0, 0, ?_⟩; decide +kernel,
   by refine ⟨{ run with hostEpochs := [(262143, 0xFF)] }, 0, true, 262143, (({ run with hostEpochs := [(262143, 0xFF)] }).epoch (0 : Pd).val true (262143 : BitVec 22).toNat), .realloc 0 true 262143, 0, ?_⟩; decide +kernel,
   by refine ⟨run, 0, true, 262144, .rewrite 0 true 262144, ?_⟩; decide +kernel,
   by refine ⟨{ run with faults := { run.faults with fenced := [uid 0x10 0xFF] } }, 0, ?_⟩; decide +kernel⟩

/-- The first entry where a page of handle 0 at order 0 may lie. -/
def way0 : Nat := (candidates 0 0).headD 0

/-- CD0's map commands name page 0 of handle 0; the map holds these entries. -/
def mapState (l : Cells (Word × Word)) : State :=
 { sets run [(Base.pageMap 0, Reg.mapW, 0x40, 0), (Base.pageMap 0, Reg.quotaLimit, 1, 0)] with maps := l }

def spill0 : Word × Word := (0x1050, 0x800000000000)

def obj0 : FlObj :=
 { num := 5, ctx := 0, kind := 1, blocks := 1, ttl := 0, state := 1, targets := [0], written := [], data := [], draw := none,
   paused := none, digests := [], sealedAt := 0 }

/-- Object 5 is named, block 0 of it, and DDR address 0. -/
def flashState (l : List FlObj) : State :=
 { { sets ddr0 [(Base.flash 0, Reg.objNum, 5, 0), (Base.flash 0, Reg.objKind, 1, 0), (Base.flash 0, Reg.objBlocks, 1, 0),
     (Base.flash 0, Reg.objCount, 1, 0), (Base.contexts, Reg.cxFlashGib, 1, 0)] with eff := [(Base.hubBind 0 + Reg.pbFlashBw.off, Reg.pbFlashBw.put 0 1)] } with
   flash := { targets := [{ present := true, cell := 1, gib := 64, blocks := 100, bad := 0, life := 0 }], objects := l, erases := [], grown := [], us := 0 } }

def obj1 : FlObj := { obj0 with state := 2, written := [(0, 1)] }

def obj2 : FlObj := { obj1 with digests := [sha256 (obj1.segBytes 0)] }

theorem leBytes_length (k n : Nat) : (leBytes k n).length = k := by
 induction k generalizing n with
 | zero => rfl
 | succ k ih => simp [leBytes, ih]

theorem sha256_length (bs : List Byte) : (sha256 bs).length = 32 := by
 simp [sha256, ShaVars.bytes, leBytes_length]

theorem sha256_ne_nil (bs : List Byte) : sha256 bs ≠ [] := by
 intro h
 simpa [h] using sha256_length bs

theorem obj_single {o : FlObj} {n : Nat} (h : o.num = n) : (flashState [o]).obj n = some o := by
 unfold State.obj
 show [o].find? (fun o => o.num == n) = some o
 simp [h]

theorem getD_single (x : List Byte) : [x].getD 0 [] = x := rfl

theorem obj2_digest : sha256 (obj2.segBytes ((flashState [obj2]).objArg Reg.objFirst / 256)) =
   obj2.digests.getD ((flashState [obj2]).objArg Reg.objFirst / 256) [] := by
 have e : (flashState [obj2]).objArg Reg.objFirst / 256 = 0 := by decide +kernel
 have w : obj2.word = obj1.word := rfl
 have b : obj2.blocks = obj1.blocks := rfl
 have s : obj2.segBytes 0 = obj1.segBytes 0 := by unfold FlObj.segBytes; rw [w, b]
 have d : obj2.digests = [sha256 (obj1.segBytes 0)] := rfl
 rw [e, s, d, getD_single]

theorem obj1_digest : sha256 (obj1.segBytes ((flashState [obj1]).objArg Reg.objFirst / 256)) ≠
   obj1.digests.getD ((flashState [obj1]).objArg Reg.objFirst / 256) [] := by
 have d : obj1.digests = [] := rfl
 rw [d, List.getD_nil]
 exact sha256_ne_nil _

theorem test_witness_PageMapMaintenance :
    (∃ (s : State) (die : DieNo) (e : Word × Word) (i : Nat), s.dieUp die.val = true ∧ s.mapArgs die.val = e ∧ (enKind e = 1 ∨ enKind e = 2) ∧ enClass e < 9 ∧ s.mapFind die.val (enHandle e) (enOrd e) (enKind e) = none ∧ (s.mapEntries die.val).foldl (fun n q => if enCtx q.2 = enCtx e then n + 1 else n) 0 < s.get (Base.pageMap die.val) Reg.quotaLimit (enCtx e) ∧ ((candidates (enHandle e) (enOrd e)).find? fun k => enKind (s.mapAt die.val k) == 0) = some i) ∧
    (∃ (s : State) (die : DieNo) (e : Word × Word) (i : Nat), s.dieUp die.val = true ∧ s.mapArgs die.val = e ∧ s.mapFind die.val (enHandle e) (enOrd e) (enKind e) = some i ∧ enKind e ≠ 0) ∧
    (∃ (s : State) (die : DieNo) (e : Word × Word) (i : Nat), s.dieUp die.val = true ∧ s.mapArgs die.val = e ∧ s.mapFind die.val (enHandle e) (enOrd e) (enKind e) = some i ∧ enKind e ≠ 0 ∧ enClass e < 9) ∧
    (∃ (s : State) (die : DieNo) (e : Word × Word) (i : Nat), s.dieUp die.val = true ∧ s.mapArgs die.val = e ∧ s.mapFind die.val (enHandle e) (enOrd e) (enKind e) = some i ∧ enKind e ≠ 0 ∧ enClass e < 9) ∧
    (∃ (s : State) (die : DieNo) (e : Word × Word) (i : Nat), s.dieUp die.val = true ∧ s.mapArgs die.val = e ∧ s.mapFind die.val (enHandle e) (enOrd e) (enKind e) = some i ∧ enKind e ≠ 0 ∧ enClass e < 9) ∧
    (∃ (s : State) (die : DieNo) (e : Word × Word) (i : Nat) (target : BitVec 16), s.dieUp die.val = true ∧ s.mapArgs die.val = e ∧ s.mapFind die.val (enHandle e) (enOrd e) (enKind e) = some i ∧ enKind e ≠ 0 ∧ enClass e < 9 ∧ s.moveOk die.val i target.toNat = true ∧ target.toNat ≠ i) ∧
    (∃ (s : State) (die : DieNo) (e : Word × Word), s.dieUp die.val = true ∧ s.mapArgs die.val = e ∧ s.mapFind die.val (enHandle e) (enOrd e) (enKind e) = none ∧ enClass e < 9) ∧
    (∃ (s : State) (die : DieNo) (ctx : Ctx) (p : Nat × (Word × Word)), s.serving = true ∧ s.hostUse ctx.val * 100 ≤ s.get (Base.tier 0) Reg.hostHigh ctx.val * s.hostShare ctx.val ∧ s.get (Base.tier 0) Reg.highPct ctx.val * s.ddrShare ctx.val < s.ddrUsed ctx.val * 100 ∧ s.get (Base.tier 0) Reg.lowPct ctx.val * s.ddrShare ctx.val < s.ddrUsed ctx.val * 100 ∧ s.oldest ctx.val 1 = some p ∧ s.isFenced die.val 0xFF = false) ∧
    (∃ (s : State) (die : DieNo), (s.serving = false ∨ s.isFenced die.val 0xFF = true)) :=
  ⟨by refine ⟨mapState [], 0, ((mapState []).mapArgs (0 : DieNo).val), way0, ?_⟩; decide +kernel,
   by refine ⟨mapState [(way0, (0x40, 0))], 0, ((mapState [(way0, (0x40, 0))]).mapArgs (0 : DieNo).val), way0, ?_⟩; decide +kernel,
   by refine ⟨mapState [(way0, (0x40, 0))], 0, ((mapState [(way0, (0x40, 0))]).mapArgs (0 : DieNo).val), way0, ?_⟩; decide +kernel,
   by refine ⟨mapState [(way0, (0x40, 0))], 0, ((mapState [(way0, (0x40, 0))]).mapArgs (0 : DieNo).val), way0, ?_⟩; decide +kernel,
   by refine ⟨mapState [(way0, (0x40, 0))], 0, ((mapState [(way0, (0x40, 0))]).mapArgs (0 : DieNo).val), way0, ?_⟩; decide +kernel,
   by refine ⟨mapState [(way0, (0x40, 0))], 0, ((mapState [(way0, (0x40, 0))]).mapArgs (0 : DieNo).val), way0, 65535, ?_⟩; decide +kernel,
   by refine ⟨mapState [], 0, ((mapState []).mapArgs (0 : DieNo).val), ?_⟩; decide +kernel,
   by refine ⟨sets { run with maps := [(0, spill0), (1, (0x3050, 0))] } [(Base.pageMap 0, Reg.pgDim32, 2, 0), (Base.pageMap 0, Reg.pgHeads, 1, 0)], 0, 0, (0, spill0), ?_⟩; decide +kernel,
   by refine ⟨chip, 0, ?_⟩; decide +kernel⟩

theorem test_witness_FlashObjects :
    (∃ (s : State) (pd : Pd) (num : Nat) (n : Nat), s.serving = true ∧ s.pdUp 0 = true ∧ pd.val = 0 ∧ s.objArg Reg.objNum = num ∧ num ≠ 0 ∧ 1 ≤ s.objArg Reg.objKind ∧ s.objArg Reg.objKind ≤ 3 ∧ s.obj num = none ∧ s.lifeUsed < 100 ∧ n = s.objArg Reg.objBlocks ∧ n ≠ 0 ∧ objBytes s.flash.objects + n * 4096 ≤ s.flashUsable ∧ s.flashUsed (s.objArg Reg.objCtx) + n * 4096 ≤ s.get Base.contexts Reg.cxFlashGib (s.objArg Reg.objCtx) * 2 ^ 30) ∧
    (∃ (s : State) (pd : Pd) (num : Nat) (o : FlObj), s.serving = true ∧ s.pdUp 0 = true ∧ pd.val = 0 ∧ s.objArg Reg.objNum = num ∧ s.obj num = some o ∧ o.state = 1 ∧ s.noFlash o.ctx = false ∧ s.objArg Reg.objCount = 1 ∧ s.objArg Reg.objFirst < o.blocks ∧ (o.written.any fun r => runsMeet r (s.objArg Reg.objFirst, 1)) = false ∧ placeOf (s.objArg Reg.objDdr / 8 * 8) = .ddr ∧ (∀ i, i < 512 → s.wordStatus (.control s.bootNow) (s.objArg Reg.objDdr / 8 * 8 + 8 * i) = Status.ok ∧ (s.load (s.objArg Reg.objDdr / 8 * 8 + 8 * i)).1.ecc = .clean)) ∧
    (∃ (s : State) (pd : Pd) (num : Nat) (o : FlObj), s.serving = true ∧ s.pdUp 0 = true ∧ pd.val = 0 ∧ s.objArg Reg.objNum = num ∧ s.obj num = some o ∧ o.state = 1 ∧ o.full = true) ∧
    (∃ (s : State) (pd : Pd) (num : Nat) (o : FlObj), s.serving = true ∧ s.pdUp 0 = true ∧ pd.val = 0 ∧ s.objArg Reg.objNum = num ∧ s.obj num = some o ∧ (o.state ≠ 1 ∨ o.full = false)) ∧
    (∃ (s : State) (pd : Pd) (num : Nat) (o : FlObj) (misread : List (Nat × Bool)), s.serving = true ∧ s.pdUp 0 = true ∧ pd.val = 0 ∧ s.objArg Reg.objNum = num ∧ s.obj num = some o ∧ s.objReadable o = Status.ok ∧ s.noFlash o.ctx = false ∧ (∀ p ∈ s.maps, enKind p.2 = 0) ∧ s.objArg Reg.objCount = 1 ∧ s.objArg Reg.objFirst < o.blocks ∧ placeOf (s.objArg Reg.objDdr / 8 * 8) = .ddr ∧ (sha256 (o.segBytes (s.objArg Reg.objFirst / 256)) ≠ o.digests.getD (s.objArg Reg.objFirst / 256) [] ∨ (s.objArg Reg.objFirst / 256, true) ∈ misread)) ∧
    (∃ (s : State) (pd : Pd) (num : Nat) (o : FlObj) (misread : List (Nat × Bool)), s.serving = true ∧ s.pdUp 0 = true ∧ pd.val = 0 ∧ s.objArg Reg.objNum = num ∧ s.obj num = some o ∧ s.objReadable o = Status.ok ∧ s.noFlash o.ctx = false ∧ (∀ p ∈ s.maps, enKind p.2 = 0) ∧ s.objArg Reg.objCount = 1 ∧ s.objArg Reg.objFirst < o.blocks ∧ placeOf (s.objArg Reg.objDdr / 8 * 8) = .ddr ∧ sha256 (o.segBytes (s.objArg Reg.objFirst / 256)) = o.digests.getD (s.objArg Reg.objFirst / 256) [] ∧ (s.objArg Reg.objFirst / 256, true) ∉ misread ∧ (∀ i, i < 512 → s.wordStatus (.control s.bootNow) (s.objArg Reg.objDdr / 8 * 8 + 8 * i) = Status.ok)) ∧
    (∃ (s : State) (pd : Pd) (num : Nat) (o : FlObj), s.serving = true ∧ s.pdUp 0 = true ∧ pd.val = 0 ∧ s.objArg Reg.objNum = num ∧ s.obj num = some o) ∧
    (∃ (s : State) (pd : Pd) (num : Nat), s.serving = true ∧ s.pdUp 0 = true ∧ pd.val = 0 ∧ s.objArg Reg.objNum = num) ∧
    (∃ (s : State) (pd : Pd) (c : Instr) (misread : List (Nat × Bool)) (retired : List (Fin 64)), c ∈ [.objCreate pd, .objWrite ⟨pd, retired⟩, .objSeal pd, .objRead ⟨pd, misread⟩, .objDelete pd, .objStat pd] ∧ s.pdUp pd.val = true ∧ pd.val ≠ 0) ∧
    (∃ (s : State) (pd : Pd) (c : Instr) (misread : List (Nat × Bool)) (retired : List (Fin 64)), c ∈ [.objCreate pd, .objWrite ⟨pd, retired⟩, .objSeal pd, .objRead ⟨pd, misread⟩, .objDelete pd, .objStat pd] ∧ s.pdUp 0 = true ∧ pd.val = 0 ∧ s.serving = false) ∧
    (∃ (s : State) (pd : Pd) (c : Instr) (misread : List (Nat × Bool)) (retired : List (Fin 64)), c ∈ [.objCreate pd, .objWrite ⟨pd, retired⟩, .objSeal pd, .objRead ⟨pd, misread⟩, .objDelete pd, .objStat pd] ∧ s.pdUp pd.val = false) :=
  ⟨by refine ⟨flashState [], 0, ((flashState []).objArg Reg.objNum), ((flashState []).objArg Reg.objBlocks), ?_⟩; decide +kernel,
   by refine ⟨flashState [obj0], 0, ((flashState [obj0]).objArg Reg.objNum), obj0, ?_⟩; decide +kernel,
   by refine ⟨flashState [({ obj0 with written := [(0, 1)] })], 0, ((flashState [({ obj0 with written := [(0, 1)] })]).objArg Reg.objNum), { obj0 with written := [(0, 1)] }, ?_⟩; decide +kernel,
   by refine ⟨flashState [obj0], 0, ((flashState [obj0]).objArg Reg.objNum), obj0, ?_⟩; decide +kernel,
   ⟨flashState [obj1], 0, ((flashState [obj1]).objArg Reg.objNum), obj1, [], by decide +kernel, by decide +kernel, by decide +kernel, rfl, by decide +kernel, by decide +kernel, by decide +kernel, by decide +kernel, by decide +kernel, by decide +kernel, by decide +kernel, .inl obj1_digest⟩,
   ⟨flashState [obj2], 0, ((flashState [obj2]).objArg Reg.objNum), obj2, [], by decide +kernel, by decide +kernel, by decide +kernel, rfl, obj_single (by decide +kernel), by decide +kernel, by decide +kernel, by decide +kernel, by decide +kernel, by decide +kernel, by decide +kernel, obj2_digest, by decide +kernel, by decide +kernel⟩,
   by refine ⟨flashState [obj0], 0, ((flashState [obj0]).objArg Reg.objNum), obj0, ?_⟩; decide +kernel,
   by refine ⟨flashState [], 0, ((flashState []).objArg Reg.objNum), ?_⟩; decide +kernel,
   by refine ⟨flashState [], 1, .objSeal 1, [], [], ?_⟩; decide +kernel,
   by refine ⟨inState Dev.selftest, 0, .objRead ⟨0, []⟩, [], [], ?_⟩; decide +kernel,
   by refine ⟨{ run with faults := { run.faults with fenced := [uid 0x10 0xFF] } }, 0, .objStat 0, [], [], ?_⟩; decide +kernel⟩

theorem test_witness_FlashEvents :
    (∃ (s : State) (pd : Pd) (num : Nat) (o : FlObj), s.serving = true ∧ s.pdUp pd.val = true ∧ s.obj num = some o ∧ o.state = 2 ∧ o.ttl ≠ 0 ∧ s.ttlLeft o = 0) ∧
    (∃ (s : State) (num : Nat) (o : FlObj), (s.obj num = none ∨ (s.obj num = some o ∧ o.state ≠ 2))) ∧
    (∃ (s : State) (pd : Pd) (target : Fin 32), s.serving = true ∧ s.pdUp pd.val = true ∧ s.targetUp (32 * pd.val + target.val) = true) ∧
    (∃ (s : State) (pd : Pd) (target : Fin 32), s.pdUp pd.val = true ∧ s.targetUp (32 * pd.val + target.val) = true ∧ s.goneUnit (uid (0x10 + pd.val) (0x20 + target.val)) = false) ∧
    (∃ (s : State) (pd : Pd) (target : Fin 32), (s.pdUp pd.val = false ∨ s.targetUp (32 * pd.val + target.val) = false)) :=
  ⟨by refine ⟨{ flashState [({ obj1 with ttl := 1 })] with flash := { (flashState [({ obj1 with ttl := 1 })]).flash with us := 1000000 } }, 0, 5, { obj1 with ttl := 1 }, ?_⟩; decide +kernel,
   by refine ⟨flashState [], 5, obj0, ?_⟩; decide +kernel,
   by refine ⟨flashState [], 0, 0, ?_⟩; decide +kernel,
   by refine ⟨flashState [], 0, 0, ?_⟩; decide +kernel,
   by refine ⟨flashState [], 0, 31, ?_⟩; decide +kernel⟩

/-- `run2` with every lane of link 0 carrying, link 0 in a state. -/
def lanes (n : Nat) : State := sets run2 [(Base.peerLink 0, Reg.laneOk, 0xFF, 0), (Base.peerLink 0, Reg.linkState, n, 0)]

def linkAt (k : Link) : State := { lanes 2 with links := [(0, k)] }

def flit0 : Flit := { h0 := word (4 * 2 ^ 40), h1 := 0, h2 := 0, h3 := 0, payload := [] }

def chunk0 : Chunk :=
 { src := 1, dst := 0, coll := false, stream := 3, cseq := 0, clen := 1, phase := 0, piece := 0, cid := 0, ctx := 0, vc := 1,
   retx := false, again := false, badfwd := false, words := [1, 2, 3, 4, 5, 6, 7, 8], poison := [], ccrc := chunkCrc [1, 2, 3, 4, 5, 6, 7, 8],
   req := 0, sent := 0, whole := true }

theorem bits_word_high {n : Nat} (h : n < 2 ^ 32) : bits (word n) 63 32 = 0 := by
 simp [bits, word]; omega

theorem bits_word_low {n : Nat} (h : n < 2 ^ 32) : bits (word n) 31 0 = n := by
 simp [bits, word]; omega

theorem flitWords_congr {f g : Flit} (h0 : g.h0 = f.h0) (h1 : g.h1 = f.h1) (h2 : g.h2 = f.h2)
   (h3 : bits g.h3 63 32 = bits f.h3 63 32) (hp : g.payload = f.payload) (n : Nat) : flitWords g n = flitWords f n := by
 unfold flitWords; rw [h0, h1, h2, h3, hp]

theorem flitCrc_lt {f : Flit} {c : Nat} (h : flitCrc f = c) : c < 2 ^ 32 := by
 rw [← h]; unfold flitCrc; exact BitVec.isLt _

/-- A flit whose FCRC is the CRC of what a flit with none holds is good: no CRC is computed here. -/
theorem flitGood_of {f g : Flit} {c : Nat} (hc : flitCrc f = c) (h : bits f.h3 63 32 = 0)
   (hg : g = { f with h3 := word c })
   (k : (bits f.h0 38 37 != 3 && !(bits f.h0 38 37 == 1 && bits f.h1 11 10 == 3)) = true) : flitGood g true = true := by
 have lt := flitCrc_lt hc
 have e0 : g.h0 = f.h0 := by rw [hg]
 have e1 : g.h1 = f.h1 := by rw [hg]
 have e2 : g.h2 = f.h2 := by rw [hg]
 have e3 : g.h3 = word c := by rw [hg]
 have ep : g.payload = f.payload := by rw [hg]
 have w : flitWords g 0 = flitWords f 0 :=
   flitWords_congr e0 e1 e2 (by rw [h, e3]; exact bits_word_high lt) ep 0
 have e : flitCrc g = c := by
   refine Eq.trans ?_ hc
   unfold flitCrc; rw [w]
 unfold flitGood
 rw [e, e0, e1, e3, bits_word_low lt, beq_self_eq_true, Bool.true_and, Bool.true_and]
 exact k

def good (f : Flit) : Flit := { f with h3 := word (flitCrc f) }

theorem test_witness_LinkLanesAndReplay :
    (∃ (s : State) (link : LinkNo) (lane : Fin 8) (k : Link) (b : Nat) (ok : Nat), b = Base.peerLink link.val ∧ k = s.link link.val ∧ ok = s.get b Reg.laneOk ∧ (s.get b Reg.linkState = 2 ∨ s.get b Reg.linkState = 3) ∧ ok.testBit lane.val = true) ∧
    (∃ (s : State) (link : LinkNo) (lane : Fin 8) (k : Link) (b : Nat) (ok : Nat), b = Base.peerLink link.val ∧ k = s.link link.val ∧ ok = s.get b Reg.laneOk ∧ (¬((s.get b Reg.linkState = 2 ∨ s.get b Reg.linkState = 3) ∧ ok.testBit lane.val = true))) ∧
    (∃ (s : State) (link : LinkNo) (k : Link) (b : Nat) (ok : Nat), b = Base.peerLink link.val ∧ k = s.link link.val ∧ ok = s.get b Reg.laneOk ∧ s.get b Reg.linkState = 3) ∧
    (∃ (s : State) (link : LinkNo) (k : Link) (b : Nat) (ok : Nat), b = Base.peerLink link.val ∧ k = s.link link.val ∧ ok = s.get b Reg.laneOk ∧ s.get b Reg.linkState = 3) ∧
    (∃ (s : State) (link : LinkNo) (k : Link) (b : Nat) (ok : Nat), b = Base.peerLink link.val ∧ k = s.link link.val ∧ ok = s.get b Reg.laneOk ∧ s.get b Reg.linkState ≠ 3) ∧
    (∃ (s : State) (link : LinkNo) (k : Link) (b : Nat) (ok : Nat), b = Base.peerLink link.val ∧ k = s.link link.val ∧ ok = s.get b Reg.laneOk ∧ s.get b Reg.linkState = 2 ∧ k.replay ≠ []) ∧
    (∃ (s : State) (link : LinkNo) (k : Link) (b : Nat) (ok : Nat), b = Base.peerLink link.val ∧ k = s.link link.val ∧ ok = s.get b Reg.laneOk ∧ (s.get b Reg.linkState ≠ 2 ∨ k.replay = [])) ∧
    (∃ (s : State) (link : LinkNo) (k : Link) (b : Nat) (ok : Nat), b = Base.peerLink link.val ∧ k = s.link link.val ∧ ok = s.get b Reg.laneOk ∧ s.armUp link.val = true) ∧
    (∃ (s : State) (link : LinkNo) (k : Link) (b : Nat) (ok : Nat), b = Base.peerLink link.val ∧ k = s.link link.val ∧ ok = s.get b Reg.laneOk ∧ s.armUp link.val = false) :=
  ⟨by refine ⟨lanes 3, 0, 7, ((lanes 3).link (0 : LinkNo).val), (Base.peerLink (0 : LinkNo).val), ((lanes 3).get (Base.peerLink (0 : LinkNo).val) Reg.laneOk), ?_⟩; decide +kernel,
   by refine ⟨sets (lanes 2) [(Base.peerLink 0, Reg.laneOk, 0x7F, 0)], 0, 7, ((sets (lanes 2) [(Base.peerLink 0, Reg.laneOk, 0x7F, 0)]).link (0 : LinkNo).val), (Base.peerLink (0 : LinkNo).val), ((sets (lanes 2) [(Base.peerLink 0, Reg.laneOk, 0x7F, 0)]).get (Base.peerLink (0 : LinkNo).val) Reg.laneOk), ?_⟩; decide +kernel,
   by refine ⟨lanes 3, 0, ((lanes 3).link (0 : LinkNo).val), (Base.peerLink (0 : LinkNo).val), ((lanes 3).get (Base.peerLink (0 : LinkNo).val) Reg.laneOk), ?_⟩; decide +kernel,
   by refine ⟨lanes 3, 0, ((lanes 3).link (0 : LinkNo).val), (Base.peerLink (0 : LinkNo).val), ((lanes 3).get (Base.peerLink (0 : LinkNo).val) Reg.laneOk), ?_⟩; decide +kernel,
   by refine ⟨lanes 2, 0, ((lanes 2).link (0 : LinkNo).val), (Base.peerLink (0 : LinkNo).val), ((lanes 2).get (Base.peerLink (0 : LinkNo).val) Reg.laneOk), ?_⟩; decide +kernel,
   by refine ⟨linkAt { Link.idle with replay := [flit0] }, 0, ((linkAt { Link.idle with replay := [flit0] }).link (0 : LinkNo).val), (Base.peerLink (0 : LinkNo).val), ((linkAt { Link.idle with replay := [flit0] }).get (Base.peerLink (0 : LinkNo).val) Reg.laneOk), ?_⟩; decide +kernel,
   by refine ⟨linkAt Link.idle, 0, ((linkAt Link.idle).link (0 : LinkNo).val), (Base.peerLink (0 : LinkNo).val), ((linkAt Link.idle).get (Base.peerLink (0 : LinkNo).val) Reg.laneOk), ?_⟩; decide +kernel,
   by refine ⟨lanes 3, 0, ((lanes 3).link (0 : LinkNo).val), (Base.peerLink (0 : LinkNo).val), ((lanes 3).get (Base.peerLink (0 : LinkNo).val) Reg.laneOk), ?_⟩; decide +kernel,
   by refine ⟨lanes 0, 0, ((lanes 0).link (0 : LinkNo).val), (Base.peerLink (0 : LinkNo).val), ((lanes 0).get (Base.peerLink (0 : LinkNo).val) Reg.laneOk), ?_⟩; decide +kernel⟩

def chunkOut : Chunk := { chunk0 with src := 0, dst := 1 }

def window0 : Window :=
 { src := 1, stream := 3, ctx := 0, base := sp 0x4000, cap := 1, core := 0, ec := 1, slot := 0, landed := [] }

def bulk0 : Bulk :=
 { cid := 5, kind := 1, cop := 2, ring := 0, dirs := 1, cal := false, accum := false, sample := 0, lat := 2, lfmt := 0, dfmt := 0,
   src := sp 0, dst := sp 0x4000, pieceBytes := 8, n := 2, pos := 0, ctx := 0, core := 0, ec := 1, slot := 0, done := [],
   seen := [], need := [], paths := [], compared := [], told := false }

def armFrame (m : ArmMsg) (seq : Byte) : ArmFrame :=
 { codeOk := true, corrected := 0, idle := false, nak := false, aseq := seq, aack := 0, words := armWords m }

/-- Core 0 of CD0 at a link command, the words of its scratchpad given, link 0 the route to device 1. -/
def linkCmd (ws data : List Word) : State :=
 { holds (lanes 2) data with
   eff := [(Base.coreBind 0 + Reg.cbRunValid.off, Reg.cbRunValid.put 0 1), (Base.hubBind 0 + Reg.pbVc1.off, Reg.pbVc1.put 0 1)]
   routes := [(1, 0x8000000000000001)]
   cores := [(0, { Core.new with store := storeOf ws, block := some blk })] }

def linkWords (sub stream peer ec nch : Nat) : List Word :=
 [cw 0xE 1 (sub * 2 ^ 37 + stream * 2 ^ 30 + peer * 2 ^ 18 + ec * 2 ^ 14 + nch), word (sp 0 / 64 * 2 ^ 19)]

/-- The job of an all-reduce of INT32 sums over ring 0 in one direction, its piece's length given. -/
def bulkWords (n : Nat) : List Word :=
 [word (1 * 2 ^ 60 + 5 * 2 ^ 56 + 2 ^ 50 + 5 * 2 ^ 36 + 2 * 2 ^ 28 + Code.int32 * 2 ^ 4 + Code.int32), word (sp 0x2000), word (sp 0x4000),
   word n, 0, 0, 0, 0]

def frame0 : ArmFrame := armFrame msg0 0

theorem pick_eq {α β : Type} {o : Option (α × β)} {a : α} {d : α × β} (h : o.map (·.1) = some a) : o = some (a, (o.getD d).2) := by
 cases o with
 | none => nomatch h
 | some p => simp only [Option.map_some, Option.some.injEq] at h; rw [← h]; rfl

theorem all_clean {l : List (Word × Bool)} (h : l.all (fun p => !p.2) = true) : ∀ p ∈ l, p.2 = false := fun p m => by
 have := List.all_eq_true.mp h p m
 revert this; cases p.2 <;> decide

theorem test_witness_FlitsSentAndReceived :
    (∃ (s : State) (link : LinkNo) (k : Link) (u : State) (b : Nat), b = Base.peerLink link.val ∧ k = s.link link.val ∧ u = (if s.armUp link.val then s.armSend link.val else s) ∧ s.get b Reg.linkState ≠ 2) ∧
    (∃ (s : State) (link : LinkNo) (k : Link) (u : State) (b : Nat) (g : _) (rest : _), b = Base.peerLink link.val ∧ k = s.link link.val ∧ u = (if s.armUp link.val then s.armSend link.val else s) ∧ s.get b Reg.linkState = 2 ∧ k.resend = g :: rest) ∧
    (∃ (s : State) (link : LinkNo) (k : Link) (u : State) (b : Nat), b = Base.peerLink link.val ∧ k = s.link link.val ∧ u = (if s.armUp link.val then s.armSend link.val else s) ∧ s.get b Reg.linkState = 2 ∧ k.resend = [] ∧ (32 ≤ k.replay.length ∨ (k.control = [] ∧ u.vcReady link.val = []))) ∧
    (∃ (s : State) (link : LinkNo) (k : Link) (u : State) (b : Nat), b = Base.peerLink link.val ∧ k = s.link link.val ∧ u = (if s.armUp link.val then s.armSend link.val else s) ∧ s.get b Reg.linkState = 2 ∧ k.resend = [] ∧ k.replay.length < 32 ∧ k.control ≠ [] ∧ bit k.inForce 63 = false) ∧
    (∃ (s : State) (link : LinkNo) (k : Link) (u : State) (b : Nat) (v : _) (turn : _) (i : _) (k' : _) (c : _), b = Base.peerLink link.val ∧ k = s.link link.val ∧ u = (if s.armUp link.val then s.armSend link.val else s) ∧ s.get b Reg.linkState = 2 ∧ k.resend = [] ∧ k.replay.length < 32 ∧ k.control = [] ∧ bit k.inForce 63 = false ∧ r16 k.vcTurn 3 (u.vcReady link.val) = some (v, turn) ∧ u.vcPick link.val v = some (i, k') ∧ (k'.queues.getD v [])[i]? = some c) ∧
    (∃ (s : State) (link : LinkNo) (f : Flit) (fec : Bool) (k : Link) (u : State) (b : Nat), b = Base.peerLink link.val ∧ k = s.link link.val ∧ u = (if s.armUp link.val then s.armSend link.val else s) ∧ s.get b Reg.linkState = 2 ∧ (flitGood f fec = false ∨ (bits f.h0 38 37 ≠ 0 ∧ bits f.h0 63 52 ≠ k.expect))) ∧
    (∃ (s : State) (link : LinkNo) (f : Flit) (fec : Bool) (k : Link) (u : State) (b : Nat) (n : _), b = Base.peerLink link.val ∧ k = s.link link.val ∧ u = (if s.armUp link.val then s.armSend link.val else s) ∧ s.get b Reg.linkState = 2 ∧ flitGood f fec = true ∧ bits f.h0 38 37 = 0 ∧ n = (bits f.h0 51 40 + 4096 - k.acked) % 4096 ∧ n ≤ k.replay.length) ∧
    (∃ (s : State) (link : LinkNo) (f : Flit) (fec : Bool) (k : Link) (u : State) (b : Nat) (c : _), b = Base.peerLink link.val ∧ k = s.link link.val ∧ u = (if s.armUp link.val then s.armSend link.val else s) ∧ s.get b Reg.linkState = 2 ∧ flitGood f fec = true ∧ bits f.h0 38 37 = 1 ∧ bits f.h0 63 52 = k.expect ∧ bit f.h0 39 = false ∧ c = Chunk.ofHeader f.h1 f.h2 ∧ bits f.h1 15 13 = 0 ∧ bit f.h1 12 = true ∧ (c.coll = true ∨ c.dst = s.myNum)) :=
  ⟨⟨lanes 3, 0, ((lanes 3).link (0 : LinkNo).val), ((if (lanes 3).armUp (0 : LinkNo).val then (lanes 3).armSend (0 : LinkNo).val else (lanes 3))), (Base.peerLink (0 : LinkNo).val), rfl, rfl, rfl, by decide +kernel⟩,
   ⟨linkAt ({ Link.idle with replay := [flit0], resend := [flit0] }), 0, { Link.idle with replay := [flit0], resend := [flit0] }, ((if (linkAt ({ Link.idle with replay := [flit0], resend := [flit0] })).armUp (0 : LinkNo).val then (linkAt ({ Link.idle with replay := [flit0], resend := [flit0] })).armSend (0 : LinkNo).val else (linkAt ({ Link.idle with replay := [flit0], resend := [flit0] })))), (Base.peerLink (0 : LinkNo).val), flit0, [], rfl, by decide +kernel, rfl, by decide +kernel, by decide +kernel⟩,
   ⟨linkAt Link.idle, 0, ((linkAt Link.idle).link (0 : LinkNo).val), ((if (linkAt Link.idle).armUp (0 : LinkNo).val then (linkAt Link.idle).armSend (0 : LinkNo).val else (linkAt Link.idle))), (Base.peerLink (0 : LinkNo).val), rfl, rfl, rfl, by decide +kernel, by decide +kernel, by decide +kernel⟩,
   ⟨linkAt ({ Link.idle with control := [(chunk0.h1 0 false, chunk0.h2)] }), 0, { Link.idle with control := [(chunk0.h1 0 false, chunk0.h2)] }, ((if (linkAt ({ Link.idle with control := [(chunk0.h1 0 false, chunk0.h2)] })).armUp (0 : LinkNo).val then (linkAt ({ Link.idle with control := [(chunk0.h1 0 false, chunk0.h2)] })).armSend (0 : LinkNo).val else (linkAt ({ Link.idle with control := [(chunk0.h1 0 false, chunk0.h2)] })))), (Base.peerLink (0 : LinkNo).val), rfl, by decide +kernel, rfl, by decide +kernel, by decide +kernel, by decide +kernel, by decide +kernel, by decide +kernel⟩,
   ⟨linkAt ({ Link.idle with queues := [[], [chunk0], []], credits := [1, 1, 1] }), 0, { Link.idle with queues := [[], [chunk0], []], credits := [1, 1, 1] }, ((if (linkAt ({ Link.idle with queues := [[], [chunk0], []], credits := [1, 1, 1] })).armUp (0 : LinkNo).val then (linkAt ({ Link.idle with queues := [[], [chunk0], []], credits := [1, 1, 1] })).armSend (0 : LinkNo).val else (linkAt ({ Link.idle with queues := [[], [chunk0], []], credits := [1, 1, 1] })))), (Base.peerLink (0 : LinkNo).val), 1, 0, 0, ((((if (linkAt ({ Link.idle with queues := [[], [chunk0], []], credits := [1, 1, 1] })).armUp (0 : LinkNo).val then (linkAt ({ Link.idle with queues := [[], [chunk0], []], credits := [1, 1, 1] })).armSend (0 : LinkNo).val else (linkAt ({ Link.idle with queues := [[], [chunk0], []], credits := [1, 1, 1] })))).vcPick 0 1).getD (0, Link.idle)).2, chunk0, rfl, by decide +kernel, rfl, by decide +kernel, by decide +kernel, by decide +kernel, by decide +kernel, by decide +kernel, by decide +kernel, pick_eq (by decide +kernel), by decide +kernel⟩,
   ⟨linkAt Link.idle, 0, flit0, false, ((linkAt Link.idle).link (0 : LinkNo).val), ((if (linkAt Link.idle).armUp (0 : LinkNo).val then (linkAt Link.idle).armSend (0 : LinkNo).val else (linkAt Link.idle))), (Base.peerLink (0 : LinkNo).val), rfl, rfl, rfl, by decide +kernel, by decide +kernel⟩,
   ⟨linkAt { Link.idle with replay := [flit0] }, 0, good { flit0 with h0 := 0 }, true, ((linkAt { Link.idle with replay := [flit0] }).link (0 : LinkNo).val), ((if (linkAt { Link.idle with replay := [flit0] }).armUp (0 : LinkNo).val then (linkAt { Link.idle with replay := [flit0] }).armSend (0 : LinkNo).val else (linkAt { Link.idle with replay := [flit0] }))), (Base.peerLink (0 : LinkNo).val), 1, rfl, rfl, rfl, by decide +kernel, flitGood_of (f := { flit0 with h0 := 0 }) rfl (by decide) rfl (by decide +kernel), by decide +kernel, by decide +kernel, by decide +kernel⟩,
   ⟨linkAt Link.idle, 0, good { flit0 with h0 := 0x2000000000, h1 := chunk0.h1 0 true }, true, ((linkAt Link.idle).link (0 : LinkNo).val), ((if (linkAt Link.idle).armUp (0 : LinkNo).val then (linkAt Link.idle).armSend (0 : LinkNo).val else (linkAt Link.idle))), (Base.peerLink (0 : LinkNo).val), Chunk.ofHeader (chunk0.h1 0 true) 0, rfl, rfl, rfl, by decide +kernel, flitGood_of (f := { flit0 with h0 := 0x2000000000, h1 := chunk0.h1 0 true }) rfl (by decide) rfl (by decide +kernel), by decide +kernel, by decide +kernel, by decide +kernel, by decide +kernel, by decide +kernel, by decide +kernel, by decide +kernel⟩⟩

theorem test_witness_ChunksLandAndExpire :
    (∃ (s : State) (link : LinkNo) (k : Link) (b : Nat) (c : Chunk) (rest : List Chunk), b = Base.peerLink link.val ∧ k = s.link link.val ∧ s.get b Reg.linkState = 2 ∧ k.ready = c :: rest ∧ c.badfwd = true) ∧
    (∃ (s : State) (link : LinkNo) (k : Link) (b : Nat) (c : Chunk) (rest : List Chunk) (u : _) (wait : _), b = Base.peerLink link.val ∧ k = s.link link.val ∧ s.get b Reg.linkState = 2 ∧ k.ready = c :: rest ∧ wait = k.asked.filter (fun (r : Word × Word) => !c.same (Chunk.ofHeader r.1 r.2)) ∧ u = s.setLink link.val { k with ready := rest, cackOwed := k.cackOwed + 1, asked := wait } ∧ c.badfwd = false ∧ c.coll = false ∧ 4 < c.phase) ∧
    (∃ (s : State) (link : LinkNo) (k : Link) (b : Nat) (c : Chunk) (rest : List Chunk) (u : _) (wait : _), b = Base.peerLink link.val ∧ k = s.link link.val ∧ s.get b Reg.linkState = 2 ∧ k.ready = c :: rest ∧ wait = k.asked.filter (fun (r : Word × Word) => !c.same (Chunk.ofHeader r.1 r.2)) ∧ u = s.setLink link.val { k with ready := rest, cackOwed := k.cackOwed + 1, asked := wait } ∧ c.badfwd = false ∧ c.phase ≤ 4 ∧ chunkCrc c.words = c.ccrc ∧ c.coll = false ∧ c.dst = s.myNum ∧ (∀ w ∈ s.windows, ¬(w.src = c.src ∧ w.stream = c.stream ∧ w.ctx = c.ctx ∧ c.cseq < w.cap ∧ c.cseq ∉ w.landed))) ∧
    (∃ (s : State) (link : LinkNo) (k : Link) (b : Nat) (c : Chunk) (rest : List Chunk) (u : _) (wait : _) (w : _) (v : _), b = Base.peerLink link.val ∧ k = s.link link.val ∧ s.get b Reg.linkState = 2 ∧ k.ready = c :: rest ∧ wait = k.asked.filter (fun (r : Word × Word) => !c.same (Chunk.ofHeader r.1 r.2)) ∧ u = s.setLink link.val { k with ready := rest, cackOwed := k.cackOwed + 1, asked := wait } ∧ c.badfwd = false ∧ c.phase ≤ 4 ∧ chunkCrc c.words = c.ccrc ∧ c.coll = false ∧ c.dst = s.myNum ∧ s.windows = [w] ∧ w.src = c.src ∧ w.stream = c.stream ∧ w.ctx = c.ctx ∧ c.cseq < w.cap ∧ c.cseq ∉ w.landed ∧ v = u.unitWrite (w.core / 48) (w.core % 48) w.ctx (8 * c.clen + 1) (w.base + 65536 * c.cseq) c.stored) ∧
    (∃ (s : State) (link : LinkNo) (k : Link) (b : Nat) (c : Chunk) (rest : List Chunk), b = Base.peerLink link.val ∧ k = s.link link.val ∧ s.get b Reg.linkState = 2 ∧ k.ready = c :: rest ∧ c.badfwd = false ∧ c.phase ≤ 4 ∧ chunkCrc c.words ≠ c.ccrc ∧ c.coll = false) ∧
    (∃ (s : State) (link : LinkNo) (k : Link) (b : Nat), b = Base.peerLink link.val ∧ k = s.link link.val ∧ (s.get b Reg.linkState ≠ 2 ∨ k.ready = [])) ∧
    (∃ (s : State) (link : LinkNo) (k : Link) (b : Nat) (c : Chunk) (w1 : Word) (w2 : Word) (qs : List (List Chunk)), b = Base.peerLink link.val ∧ k = s.link link.val ∧ s.get b Reg.linkState = 2 ∧ k.retention = [c] ∧ c.same (Chunk.ofHeader w1 w2) = true ∧ c.again = false ∧ (∀ d ∈ k.queues.getD c.vc [], ¬(d.again = true ∧ d.same c = true)) ∧ qs = setAt k.queues c.vc (k.queues.getD c.vc [] ++ [{ c with retx := true, again := true, sent := 0 }])) ∧
    (∃ (s : State) (link : LinkNo) (k : Link) (b : Nat), b = Base.peerLink link.val ∧ k = s.link link.val ∧ (s.get b Reg.linkState ≠ 2 ∨ k.retention = [])) ∧
    (∃ (s : State) (link : LinkNo) (k : Link) (b : Nat) (src : BitVec 12) (stream : BitVec 7) (w : _), b = Base.peerLink link.val ∧ k = s.link link.val ∧ s.windows = [w] ∧ w.src = src.toNat ∧ w.stream = stream.toNat ∧ w.core < 384 ∧ w.ec < 16 ∧ s.slotOver (w.slot + 1) = true) ∧
    (∃ (s : State) (link : LinkNo) (k : Link) (b : Nat) (src : BitVec 12) (stream : BitVec 7), b = Base.peerLink link.val ∧ k = s.link link.val ∧ (∀ w ∈ s.windows, w.src = src.toNat → w.stream = stream.toNat → s.slotOver (w.slot + 1) = false)) ∧
    (∃ (s : State) (link : LinkNo) (k : Link) (b : Nat) (cid : BitVec 6) (x : _), b = Base.peerLink link.val ∧ k = s.link link.val ∧ s.bulk = [x] ∧ x.cid = cid.toNat ∧ s.slotOver (x.slot + x.lat) = true ∧ x.told = false ∧ x.core < 384 ∧ x.ec < 16) ∧
    (∃ (s : State) (link : LinkNo) (k : Link) (b : Nat) (cid : BitVec 6), b = Base.peerLink link.val ∧ k = s.link link.val ∧ (∀ x ∈ s.bulk, x.cid = cid.toNat → s.slotOver (x.slot + x.lat) = false)) ∧
    (∃ (s : State) (link : LinkNo) (k : Link) (b : Nat) (fr : ArmFrame), b = Base.peerLink link.val ∧ k = s.link link.val ∧ s.armUp link.val = true ∧ fr.codeOk = false) ∧
    (∃ (s : State) (link : LinkNo) (k : Link) (b : Nat) (fr : ArmFrame), b = Base.peerLink link.val ∧ k = s.link link.val ∧ s.armUp link.val = true ∧ fr.codeOk = true ∧ fr.nak = false ∧ fr.idle = false ∧ fr.corrected = 0 ∧ k.areplay = [] ∧ armCrcOk fr.words = true ∧ fr.aseq.toNat ≠ k.aexpect) ∧
    (∃ (s : State) (link : LinkNo) (k : Link) (b : Nat) (fr : ArmFrame) (m : _), b = Base.peerLink link.val ∧ k = s.link link.val ∧ s.armUp link.val = true ∧ fr.codeOk = true ∧ fr.nak = false ∧ fr.idle = false ∧ fr.corrected = 0 ∧ k.areplay = [] ∧ armCrcOk fr.words = true ∧ fr.aseq.toNat = k.aexpect ∧ m = armOfWords fr.words ∧ m.mtype = 6 ∧ m.dest.toNat = s.myNum) ∧
    (∃ (s : State) (link : LinkNo) (k : Link) (b : Nat), b = Base.peerLink link.val ∧ k = s.link link.val ∧ s.armUp link.val = false) :=
  ⟨by refine ⟨linkAt ({ Link.idle with ready := [({ chunk0 with badfwd := true })] }), 0, { Link.idle with ready := [({ chunk0 with badfwd := true })] }, (Base.peerLink (0 : LinkNo).val), { chunk0 with badfwd := true }, [], ?_⟩; decide +kernel,
   by refine ⟨linkAt ({ Link.idle with ready := [({ chunk0 with phase := 5 })] }), 0, { Link.idle with ready := [({ chunk0 with phase := 5 })] }, (Base.peerLink (0 : LinkNo).val), { chunk0 with phase := 5 }, [], ((linkAt ({ Link.idle with ready := [({ chunk0 with phase := 5 })] })).setLink (0 : LinkNo).val { ({ Link.idle with ready := [({ chunk0 with phase := 5 })] }) with ready := [], cackOwed := ({ Link.idle with ready := [({ chunk0 with phase := 5 })] }).cackOwed + 1, asked := (({ Link.idle with ready := [({ chunk0 with phase := 5 })] }).asked.filter (fun (r : Word × Word) => !({ chunk0 with phase := 5 }).same (Chunk.ofHeader r.1 r.2))) }), (({ Link.idle with ready := [({ chunk0 with phase := 5 })] }).asked.filter (fun (r : Word × Word) => !({ chunk0 with phase := 5 }).same (Chunk.ofHeader r.1 r.2))), ?_⟩; decide +kernel,
   by refine ⟨linkAt ({ Link.idle with ready := [chunk0] }), 0, { Link.idle with ready := [chunk0] }, (Base.peerLink (0 : LinkNo).val), chunk0, [], ((linkAt ({ Link.idle with ready := [chunk0] })).setLink (0 : LinkNo).val { ({ Link.idle with ready := [chunk0] }) with ready := [], cackOwed := ({ Link.idle with ready := [chunk0] }).cackOwed + 1, asked := (({ Link.idle with ready := [chunk0] }).asked.filter (fun (r : Word × Word) => !chunk0.same (Chunk.ofHeader r.1 r.2))) }), (({ Link.idle with ready := [chunk0] }).asked.filter (fun (r : Word × Word) => !chunk0.same (Chunk.ofHeader r.1 r.2))), ?_⟩; decide +kernel,
   by refine ⟨{ linkAt ({ Link.idle with ready := [chunk0] }) with windows := [window0] }, 0, { Link.idle with ready := [chunk0] }, (Base.peerLink (0 : LinkNo).val), chunk0, [], (({ linkAt ({ Link.idle with ready := [chunk0] }) with windows := [window0] }).setLink (0 : LinkNo).val { ({ Link.idle with ready := [chunk0] }) with ready := [], cackOwed := ({ Link.idle with ready := [chunk0] }).cackOwed + 1, asked := (({ Link.idle with ready := [chunk0] }).asked.filter (fun (r : Word × Word) => !chunk0.same (Chunk.ofHeader r.1 r.2))) }), (({ Link.idle with ready := [chunk0] }).asked.filter (fun (r : Word × Word) => !chunk0.same (Chunk.ofHeader r.1 r.2))), window0, ((({ linkAt ({ Link.idle with ready := [chunk0] }) with windows := [window0] }).setLink (0 : LinkNo).val { ({ Link.idle with ready := [chunk0] }) with ready := [], cackOwed := ({ Link.idle with ready := [chunk0] }).cackOwed + 1, asked := (({ Link.idle with ready := [chunk0] }).asked.filter (fun (r : Word × Word) => !chunk0.same (Chunk.ofHeader r.1 r.2))) }).unitWrite (window0.core / 48) (window0.core % 48) window0.ctx (8 * chunk0.clen + 1) (window0.base + 65536 * chunk0.cseq) chunk0.stored), ?_⟩; decide +kernel,
   by refine ⟨linkAt ({ Link.idle with ready := [({ chunk0 with words := [9] })] }), 0, { Link.idle with ready := [({ chunk0 with words := [9] })] }, (Base.peerLink (0 : LinkNo).val), { chunk0 with words := [9] }, [], ?_⟩; decide +kernel,
   by refine ⟨lanes 3, 0, ((lanes 3).link (0 : LinkNo).val), (Base.peerLink (0 : LinkNo).val), ?_⟩; decide +kernel,
   by refine ⟨linkAt ({ Link.idle with retention := [chunkOut] }), 0, { Link.idle with retention := [chunkOut] }, (Base.peerLink (0 : LinkNo).val), chunkOut, chunkOut.h1 0 true, chunkOut.h2, (setAt ({ Link.idle with retention := [chunkOut] }).queues chunkOut.vc (({ Link.idle with retention := [chunkOut] }).queues.getD chunkOut.vc [] ++ [{ chunkOut with retx := true, again := true, sent := 0 }])), ?_⟩; decide +kernel,
   by refine ⟨lanes 2, 0, ((lanes 2).link (0 : LinkNo).val), (Base.peerLink (0 : LinkNo).val), ?_⟩; decide +kernel,
   by refine ⟨{ sets run [(Base.device, Reg.schedPos, 8, 0)] with windows := [window0] }, 0, (({ sets run [(Base.device, Reg.schedPos, 8, 0)] with windows := [window0] }).link (0 : LinkNo).val), (Base.peerLink (0 : LinkNo).val), 1, 3, window0, ?_⟩; decide +kernel,
   by refine ⟨run, 0, (run.link (0 : LinkNo).val), (Base.peerLink (0 : LinkNo).val), 0, 0, ?_⟩; decide +kernel,
   by refine ⟨{ sets run [(Base.device, Reg.schedPos, 8, 0)] with bulk := [bulk0] }, 0, (({ sets run [(Base.device, Reg.schedPos, 8, 0)] with bulk := [bulk0] }).link (0 : LinkNo).val), (Base.peerLink (0 : LinkNo).val), 5, bulk0, ?_⟩; decide +kernel,
   by refine ⟨run, 0, (run.link (0 : LinkNo).val), (Base.peerLink (0 : LinkNo).val), 0, ?_⟩; decide +kernel,
   by refine ⟨lanes 2, 0, ((lanes 2).link (0 : LinkNo).val), (Base.peerLink (0 : LinkNo).val), { armFrame msg0 0 with codeOk := false }, ?_⟩; decide +kernel,
   by refine ⟨lanes 2, 0, ((lanes 2).link (0 : LinkNo).val), (Base.peerLink (0 : LinkNo).val), armFrame msg0 1, ?_⟩; decide +kernel,
   by refine ⟨lanes 2, 0, ((lanes 2).link (0 : LinkNo).val), (Base.peerLink (0 : LinkNo).val), armFrame { msg0 with mtype := 6 } 0, (armOfWords (armFrame { msg0 with mtype := 6 } 0).words), ?_⟩; decide +kernel,
   by refine ⟨lanes 0, 0, ((lanes 0).link (0 : LinkNo).val), (Base.peerLink (0 : LinkNo).val), ?_⟩; decide +kernel⟩

theorem test_witness_LinkCommands :
    (∃ (s : State) (die : DieNo) (core : CoreNo) (b : BlockRun) (ws : List Word) (u : State), AtCommand s die.val core.val 0x0E 1 b ws ∧ s.lkCauses die.val core.val ws = [] ∧ u = s.issue die.val core.val b (ws.getD 0 0) 0 1 ∧ lkSub ws = 0 ∧ s.noLinks b.ctx = true) ∧
    (∃ (s : State) (die : DieNo) (core : CoreNo) (b : BlockRun) (ws : List Word) (u : State) (v : _) (rd : _) (l : _), AtCommand s die.val core.val 0x0E 1 b ws ∧ s.lkCauses die.val core.val ws = [] ∧ u = s.issue die.val core.val b (ws.getD 0 0) 0 1 ∧ s.noLinks b.ctx = false ∧ lkSub ws = 0 ∧ lkNch ws = 1 ∧ 1 < (v.link l).queues.length ∧ u.unitRead die.val core.val b.ctx (s.lkAddr die.val core.val ws) (lkTail ws + 1) = (Status.ok, rd, v) ∧ (∀ p ∈ rd, p.2 = false) ∧ v.routeLink (lkPeer ws) 0 (lkStream ws) = some l) ∧
    (∃ (s : State) (die : DieNo) (core : CoreNo) (b : BlockRun) (ws : List Word) (u : State), AtCommand s die.val core.val 0x0E 1 b ws ∧ s.lkCauses die.val core.val ws = [] ∧ u = s.issue die.val core.val b (ws.getD 0 0) 0 1 ∧ lkSub ws = 1 ∧ s.windows.length < 256) ∧
    (∃ (s : State) (die : DieNo) (core : CoreNo) (b : BlockRun) (ws : List Word) (u : State), AtCommand s die.val core.val 0x0E 1 b ws ∧ s.lkCauses die.val core.val ws = [] ∧ u = s.issue die.val core.val b (ws.getD 0 0) 0 1 ∧ lkSub ws = 1 ∧ 256 ≤ s.windows.length) ∧
    (∃ (s : State) (die : DieNo) (core : CoreNo) (b : BlockRun) (ws : List Word) (u : State) (v : _) (rd : _) (x : _), AtCommand s die.val core.val 0x0E 1 b ws ∧ s.lkCauses die.val core.val ws = [] ∧ u = s.issue die.val core.val b (ws.getD 0 0) 0 1 ∧ s.noLinks b.ctx = false ∧ lkSub ws = 2 ∧ u.unitRead die.val core.val b.ctx (s.lkAddr die.val core.val ws) 8 = (Status.ok, rd, v) ∧ (∀ p ∈ rd, p.2 = false) ∧ x = v.bulkOfWords die.val core.val b (lkEc ws) (rd.map Prod.fst) ∧ v.bulkBad x = false) ∧
    (∃ (s : State) (die : DieNo) (core : CoreNo) (b : BlockRun) (ws : List Word) (u : State) (v : _) (rd : _) (x : _), AtCommand s die.val core.val 0x0E 1 b ws ∧ s.lkCauses die.val core.val ws = [] ∧ u = s.issue die.val core.val b (ws.getD 0 0) 0 1 ∧ s.noLinks b.ctx = false ∧ lkSub ws = 2 ∧ u.unitRead die.val core.val b.ctx (s.lkAddr die.val core.val ws) 8 = (Status.ok, rd, v) ∧ (∀ p ∈ rd, p.2 = false) ∧ x = v.bulkOfWords die.val core.val b (lkEc ws) (rd.map Prod.fst) ∧ v.bulkBad x = true) :=
  ⟨⟨{ linkCmd (linkWords 0 3 1 1 1) [1] with eff := [] }, 0, 0, blk, linkWords 0 3 1 1 1, (({ linkCmd (linkWords 0 3 1 1 1) [1] with eff := [] }).issue (0 : DieNo).val (0 : CoreNo).val blk ((linkWords 0 3 1 1 1).getD 0 0) 0 1), at_command (by decide +kernel), by decide +kernel, rfl, by decide +kernel, by decide +kernel⟩,
   ⟨linkCmd (linkWords 0 3 1 1 1) [1], 0, 0, blk, linkWords 0 3 1 1 1, ((linkCmd (linkWords 0 3 1 1 1) [1]).issue (0 : DieNo).val (0 : CoreNo).val blk ((linkWords 0 3 1 1 1).getD 0 0) 0 1), (((linkCmd (linkWords 0 3 1 1 1) [1]).issue (0 : DieNo).val (0 : CoreNo).val blk ((linkWords 0 3 1 1 1).getD 0 0) 0 1).unitRead 0 0 0 ((linkCmd (linkWords 0 3 1 1 1) [1]).lkAddr 0 0 (linkWords 0 3 1 1 1)) 1).2.2, (((linkCmd (linkWords 0 3 1 1 1) [1]).issue (0 : DieNo).val (0 : CoreNo).val blk ((linkWords 0 3 1 1 1).getD 0 0) 0 1).unitRead 0 0 0 ((linkCmd (linkWords 0 3 1 1 1) [1]).lkAddr 0 0 (linkWords 0 3 1 1 1)) 1).2.1, 0, at_command (by decide +kernel), by decide +kernel, rfl, by decide +kernel, by decide +kernel, by decide +kernel, by decide +kernel, triple_eq (by decide +kernel), all_clean (by decide +kernel), by decide +kernel⟩,
   ⟨linkCmd (linkWords 1 3 1 1 1) [1], 0, 0, blk, linkWords 1 3 1 1 1, ((linkCmd (linkWords 1 3 1 1 1) [1]).issue (0 : DieNo).val (0 : CoreNo).val blk ((linkWords 1 3 1 1 1).getD 0 0) 0 1), at_command (by decide +kernel), by decide +kernel, rfl, by decide +kernel, by decide +kernel⟩,
   ⟨{ linkCmd (linkWords 1 3 1 1 1) [1] with windows := List.replicate 256 window0 }, 0, 0, blk, linkWords 1 3 1 1 1, (({ linkCmd (linkWords 1 3 1 1 1) [1] with windows := List.replicate 256 window0 }).issue (0 : DieNo).val (0 : CoreNo).val blk ((linkWords 1 3 1 1 1).getD 0 0) 0 1), at_command (by decide +kernel), by decide +kernel, rfl, by decide +kernel, by decide +kernel⟩,
   ⟨{ linkCmd (linkWords 2 0 0 1 0) (bulkWords 8) with regs := (sets (lanes 2) [(Base.collective 0, Reg.ringValid, 1, 0), (Base.collective 0, Reg.ringSize, 1, 0)]).regs }, 0, 0, blk, linkWords 2 0 0 1 0, (({ linkCmd (linkWords 2 0 0 1 0) (bulkWords 8) with regs := (sets (lanes 2) [(Base.collective 0, Reg.ringValid, 1, 0), (Base.collective 0, Reg.ringSize, 1, 0)]).regs }).issue (0 : DieNo).val (0 : CoreNo).val blk ((linkWords 2 0 0 1 0).getD 0 0) 0 1), ((({ linkCmd (linkWords 2 0 0 1 0) (bulkWords 8) with regs := (sets (lanes 2) [(Base.collective 0, Reg.ringValid, 1, 0), (Base.collective 0, Reg.ringSize, 1, 0)]).regs }).issue (0 : DieNo).val (0 : CoreNo).val blk ((linkWords 2 0 0 1 0).getD 0 0) 0 1).unitRead 0 0 0 (({ linkCmd (linkWords 2 0 0 1 0) (bulkWords 8) with regs := (sets (lanes 2) [(Base.collective 0, Reg.ringValid, 1, 0), (Base.collective 0, Reg.ringSize, 1, 0)]).regs }).lkAddr 0 0 (linkWords 2 0 0 1 0)) 8).2.2, ((({ linkCmd (linkWords 2 0 0 1 0) (bulkWords 8) with regs := (sets (lanes 2) [(Base.collective 0, Reg.ringValid, 1, 0), (Base.collective 0, Reg.ringSize, 1, 0)]).regs }).issue (0 : DieNo).val (0 : CoreNo).val blk ((linkWords 2 0 0 1 0).getD 0 0) 0 1).unitRead 0 0 0 (({ linkCmd (linkWords 2 0 0 1 0) (bulkWords 8) with regs := (sets (lanes 2) [(Base.collective 0, Reg.ringValid, 1, 0), (Base.collective 0, Reg.ringSize, 1, 0)]).regs }).lkAddr 0 0 (linkWords 2 0 0 1 0)) 8).2.1, (((({ linkCmd (linkWords 2 0 0 1 0) (bulkWords 8) with regs := (sets (lanes 2) [(Base.collective 0, Reg.ringValid, 1, 0), (Base.collective 0, Reg.ringSize, 1, 0)]).regs }).issue (0 : DieNo).val (0 : CoreNo).val blk ((linkWords 2 0 0 1 0).getD 0 0) 0 1).unitRead 0 0 0 (({ linkCmd (linkWords 2 0 0 1 0) (bulkWords 8) with regs := (sets (lanes 2) [(Base.collective 0, Reg.ringValid, 1, 0), (Base.collective 0, Reg.ringSize, 1, 0)]).regs }).lkAddr 0 0 (linkWords 2 0 0 1 0)) 8).2.2.bulkOfWords (0 : DieNo).val (0 : CoreNo).val blk (lkEc (linkWords 2 0 0 1 0)) (((({ linkCmd (linkWords 2 0 0 1 0) (bulkWords 8) with regs := (sets (lanes 2) [(Base.collective 0, Reg.ringValid, 1, 0), (Base.collective 0, Reg.ringSize, 1, 0)]).regs }).issue (0 : DieNo).val (0 : CoreNo).val blk ((linkWords 2 0 0 1 0).getD 0 0) 0 1).unitRead 0 0 0 (({ linkCmd (linkWords 2 0 0 1 0) (bulkWords 8) with regs := (sets (lanes 2) [(Base.collective 0, Reg.ringValid, 1, 0), (Base.collective 0, Reg.ringSize, 1, 0)]).regs }).lkAddr 0 0 (linkWords 2 0 0 1 0)) 8).2.1.map Prod.fst)), at_command (by decide +kernel), by decide +kernel, rfl, by decide +kernel, by decide +kernel, triple_eq (by decide +kernel), all_clean (by decide +kernel), rfl, by decide +kernel⟩,
   ⟨linkCmd (linkWords 2 0 0 1 0) (bulkWords 0), 0, 0, blk, linkWords 2 0 0 1 0, ((linkCmd (linkWords 2 0 0 1 0) (bulkWords 0)).issue (0 : DieNo).val (0 : CoreNo).val blk ((linkWords 2 0 0 1 0).getD 0 0) 0 1), (((linkCmd (linkWords 2 0 0 1 0) (bulkWords 0)).issue (0 : DieNo).val (0 : CoreNo).val blk ((linkWords 2 0 0 1 0).getD 0 0) 0 1).unitRead 0 0 0 ((linkCmd (linkWords 2 0 0 1 0) (bulkWords 0)).lkAddr 0 0 (linkWords 2 0 0 1 0)) 8).2.2, (((linkCmd (linkWords 2 0 0 1 0) (bulkWords 0)).issue (0 : DieNo).val (0 : CoreNo).val blk ((linkWords 2 0 0 1 0).getD 0 0) 0 1).unitRead 0 0 0 ((linkCmd (linkWords 2 0 0 1 0) (bulkWords 0)).lkAddr 0 0 (linkWords 2 0 0 1 0)) 8).2.1, ((((linkCmd (linkWords 2 0 0 1 0) (bulkWords 0)).issue (0 : DieNo).val (0 : CoreNo).val blk ((linkWords 2 0 0 1 0).getD 0 0) 0 1).unitRead 0 0 0 ((linkCmd (linkWords 2 0 0 1 0) (bulkWords 0)).lkAddr 0 0 (linkWords 2 0 0 1 0)) 8).2.2.bulkOfWords (0 : DieNo).val (0 : CoreNo).val blk (lkEc (linkWords 2 0 0 1 0)) ((((linkCmd (linkWords 2 0 0 1 0) (bulkWords 0)).issue (0 : DieNo).val (0 : CoreNo).val blk ((linkWords 2 0 0 1 0).getD 0 0) 0 1).unitRead 0 0 0 ((linkCmd (linkWords 2 0 0 1 0) (bulkWords 0)).lkAddr 0 0 (linkWords 2 0 0 1 0)) 8).2.1.map Prod.fst)), at_command (by decide +kernel), by decide +kernel, rfl, by decide +kernel, by decide +kernel, triple_eq (by decide +kernel), all_clean (by decide +kernel), rfl, by decide +kernel⟩⟩

theorem cmd_runs {s : State} {c : HostCmd} {op : Nat}
   (h : c.opcode.toNat = op ∧ s.fencedOff c = false ∧ (s.devState = Dev.ready ∨ s.devState = Dev.running) ∧
     s.queueOk c = true) : CmdRuns s c op := h

/-- A command of context 0. -/
def cmd0 : HostCmd :=
 { queue := 0, opcode := 0x20, tag := 0, hostRef := 0, fence := false, b0 := 0, b1 := 0, b2 := 0, b3 := 0, b4 := 0, b5 := 0,
   b6 := 0, b7 := 0 }

def prog0 : Program :=
 { accepted := true, cores := [], templates := [], keep := [], matrices := [], vectors := [], layers := 1, headDim32 := 1,
   kvFmt := 0, kvHeads := 1, run := 1, seqGroup := 0, vocab := 100, balance := 8, regionBytes := 4096, layerBytes := 0,
   keepBytes := 0, e5m2 := [], experts := 0, layoutOk := true, plan := none }

def shard0 : Shard := { readFails := true, prologue := [], stream := [] }

def model0 : Model :=
 { handle := 1, ctx := 0, role := 1, tp := 1, bytes := 4096, maqOf := 0, prog := prog0, bound := [], leaving := false, casts := [] }

/-- Context 0 is bound, with core 0 of CD0, channel 0 and a page map; `c` waits in its queue. -/
def serve (c : HostCmd) (ms : List Model) : State :=
 let s := sets run [(Base.contexts, Reg.cxState, 1, 0), (Base.contexts, Reg.cxSlots, 16, 0), (Base.contexts, Reg.cxFlashGib, 1, 0),
   (Base.contexts, Reg.cxDdrMask, 1, 0), (Base.ddr 0, Reg.ddrCapGib, 1, 0), (Base.pageMap 0, Reg.quotaLimit, 1, 0),
   (Base.requests, Reg.batchMax, 64, 0)]
 { s with
   eff := [(Base.coreBind 0 + Reg.cbSharers.off, Reg.cbSharers.put 0 1)]
   um := { s.um with queues := [(0, { HostQ.new with cmds := [c] })] }
   models := ms
   boot := { s.boot with image := some { im1 with trust := [{ pubId := 7, ctxMask := 1, levels := 5, key := [] }] } }
   flash := { targets := [{ present := true, cell := 1, gib := 64, blocks := 100, bad := 0, life := 0 }], objects := [], erases := [], grown := [], us := 0 } }

/-- LEARN_STEP of model 1: two steps, one stage, micro-batches of 256 tokens. -/
def learnCmd (steps : Nat) : HostCmd :=
 { cmd0 with b0 := word (2 ^ 32 + steps * 2 ^ 16 + 2 ^ 8), b4 := word (256 * 2 ^ 32) }

def model3 : Model := { model0 with role := 3 }

def loadCmd : HostCmd := { cmd0 with opcode := 0x21, b2 := 256 }

/-- A batch image of one sequence of two tokens. -/
def image0 : List Word :=
 [0x100000002, 64, 128, 0, 0, 0, 0, 0, 0x200000000, 0, 0, 0, 0, 0, 0, 0, 5, 6] ++ List.replicate 14 0

def batch0 : Batch := { num := 0, bytes := 256, seqs := [(2, 0, 0, 0)], tokens := [5, 6], looped := false }

/-- Context 0 learns: its configuration, a command of two steps and what it has. -/
def learnAt (bs : List Batch) (r : Option LearnRun) : State :=
 { serve (learnCmd 2) [model3] with
   learns := [(0, { Learn.none with cfg := some (lsCfg (learnCmd 2)), prog := some prog0, cmd := some (learnCmd 2), left := 2,
                                    batches := bs, run := r })] }

def learnRun0 : LearnRun :=
 { batch := 0, seq := 0, whole := false, deal := [(0, 0, 1)], groups := 1, gathers := [], sent := 0, onRings := 0,
   buffers := [none, none], pipe := [], shares := [], posted := false, norm := none, record := [] }

/-- SUBMIT to model 1: two tokens of prompt, at most four new, a ring of 64 records. -/
def submitCmd : HostCmd :=
 { cmd0 with opcode := 0x30, b0 := word (2 ^ 32 + 4), b2 := word (0x3F800000 * 2 ^ 32), b4 := 2, b6 := word (6 * 2 ^ 48 + hostBase) }

def prefixCmd : HostCmd := { cmd0 with opcode := 0x33, b0 := word (2 ^ 32 + 2), b2 := 4 }

def dropCmd (h : Nat) : HostCmd := { cmd0 with opcode := 0x34, b0 := word h }

def prefix0 : PrefixRun :=
 { handle := 2 ^ 26 + 4096 + 5, ctx := 0, model := 1, len := 2, span := 1, spanToks := 2, tokens := [1, 2], prefilled := 0, prefSealed := 0,
   piece := 0, stretches := [], order := 0, dropped := false, cmd := none }

def way3 : Nat := (candidates request0.handle 0).headD 0

/-- Its first page, already placed. -/
def paged (s : State) : State :=
 { s with maps := [(way3, pageEntry request0.handle 0 (pageClass 0 0) 1 0 0 0 false 0)] }

def requestAt (c : HostCmd) (r : Req) : State := { serve c [model0] with reqs := [(3, some r)] }

def pauseCmd (h : Nat) : HostCmd := { cmd0 with opcode := 0x31, b0 := word h }

def pausing0 : Req := { request0 with st := 4, pausing := some (pauseCmd request0.handle, 5) }

def resumeCmd : HostCmd := { cmd0 with opcode := 0x32, b0 := word (5 * 2 ^ 44), b1 := word (6 * 2 ^ 48 + hostBase) }

def pauseObj : FlObj := { obj1 with kind := 2, paused := some (request0, []) }

/-- LOAD_MODEL of model 2 from the host, in place of model `old`. -/
def modelCmd (old : Nat) : HostCmd :=
 { cmd0 with opcode := 0x35, b0 := word (2 * 2 ^ 32 + 2 ^ 28 + 2 ^ 24), b1 := word hostBase, b2 := 4096, b5 := word old }

def evictCmd (h : Nat) : HostCmd := { cmd0 with opcode := 0x36, b0 := word (h * 2 ^ 32) }

def load0 : Load := { cmd := modelCmd 1, shard := shard0, prog := prog0, stage := 0, status := 0 }

def cmdBad : HostCmd := { loadCmd with b7 := 1 }

def stored (c : HostCmd) : State :=
 let s := serve c [model0]
 { s with flash := { s.flash with objects := [pauseObj] } }

theorem test_witness_LearnCommandsAndSteps :
    (∃ (s : State) (cmd : HostCmd) (p : Program) (q : Nat), q = cmd.queue.val ∧ CmdRuns s cmd 0x20 ∧ s.learnRefused cmd p = true) ∧
    (∃ (s : State) (cmd : HostCmd) (p : Program) (q : Nat) (g : _), q = cmd.queue.val ∧ CmdRuns s cmd 0x20 ∧ s.learnRefused cmd p = false ∧ s.learnProg cmd p = some g ∧ lsSteps cmd ≠ 0) ∧
    (∃ (s : State) (cmd : HostCmd) (p : Program) (q : Nat) (g : _), q = cmd.queue.val ∧ CmdRuns s cmd 0x20 ∧ s.learnRefused cmd p = false ∧ s.learnProg cmd p = some g ∧ lsSteps cmd = 0) ∧
    (∃ (s : State) (cmd : HostCmd) (image : Option (List Word)) (q : Nat), q = cmd.queue.val ∧ CmdRuns s cmd 0x21 ∧ lbReserved cmd = false ∧ (s.learn q).batches.any (·.num == lbBatch cmd) = false ∧ (s.learn q).batches.length < 16 ∧ s.ddrFits q (lbBytes cmd) = true ∧ image = none) ∧
    (∃ (s : State) (cmd : HostCmd) (image : Option (List Word)) (q : Nat) (ws : _), q = cmd.queue.val ∧ CmdRuns s cmd 0x21 ∧ lbReserved cmd = false ∧ (s.learn q).batches.any (·.num == lbBatch cmd) = false ∧ (s.learn q).batches.length < 16 ∧ s.ddrFits q (lbBytes cmd) = true ∧ image = some ws ∧ batchImageOk (lbBytes cmd) (s.learnVocab q) ws = false) ∧
    (∃ (s : State) (cmd : HostCmd) (image : Option (List Word)) (q : Nat) (b : Batch) (ws : _), q = cmd.queue.val ∧ CmdRuns s cmd 0x21 ∧ lbReserved cmd = false ∧ (s.learn q).batches.any (·.num == lbBatch cmd) = false ∧ (s.learn q).batches.length < 16 ∧ s.ddrFits q (lbBytes cmd) = true ∧ image = some ws ∧ batchImageOk (lbBytes cmd) (s.learnVocab q) ws = true ∧ b.num = lbBatch cmd ∧ b.bytes = lbBytes cmd ∧ b.seqs = imageSeqs ws ∧ b.tokens = imageTokens ws ∧ b.looped = false) ∧
    (∃ (s : State) (cmd : HostCmd) (q : Nat), q = cmd.queue.val ∧ CmdRuns s cmd 0x21 ∧ (lbReserved cmd = true ∨ (s.learn q).batches.any (·.num == lbBatch cmd) = true ∨ 16 ≤ (s.learn q).batches.length ∨ s.ddrFits q (lbBytes cmd) = false)) ∧
    (∃ (s : State) (cmd : HostCmd) (ctx : Ctx) (q : Nat) (f : _) (x : _) (b : _) (deal : _), q = cmd.queue.val ∧ x = s.learn ctx.val ∧ x.cfg = some f ∧ s.runsSlots = true ∧ s.wantsStep ctx.val = true ∧ x.run = none ∧ s.unitOpen ctx.val 0 = false ∧ s.unitOpen ctx.val 2 = false ∧ x.batches.find? (fun b => b.num == s.stepBatch ctx.val) = some b ∧ dealBatch (s.stageSize ctx.val f.stages) f.mb (b.seqs.map (·.1)) = some deal) ∧
    (∃ (s : State) (cmd : HostCmd) (ctx : Ctx) (q : Nat) (f : _) (x : _) (b : _), q = cmd.queue.val ∧ x = s.learn ctx.val ∧ x.cfg = some f ∧ s.runsSlots = true ∧ s.wantsStep ctx.val = true ∧ x.run = none ∧ s.unitOpen ctx.val 0 = false ∧ s.unitOpen ctx.val 2 = false ∧ x.batches.find? (fun b => b.num == s.stepBatch ctx.val) = some b ∧ x.cmd.isSome = true ∧ dealBatch (s.stageSize ctx.val f.stages) f.mb (b.seqs.map (·.1)) = none) ∧
    (∃ (s : State) (cmd : HostCmd) (ctx : Ctx) (q : Nat) (f : _) (x : _), q = cmd.queue.val ∧ x = s.learn ctx.val ∧ x.cfg = some f ∧ s.runsSlots = true ∧ s.wantsStep ctx.val = true ∧ x.run = none ∧ s.unitOpen ctx.val 0 = false ∧ s.unitOpen ctx.val 2 = false ∧ x.batches.find? (fun b => b.num == s.stepBatch ctx.val) = none ∧ x.cmd.isSome = true) ∧
    (∃ (s : State) (cmd : HostCmd) (ctx : Ctx) (q : Nat), q = cmd.queue.val ∧ (s.runsSlots = false ∨ s.wantsStep ctx.val = false ∨ (s.learn ctx.val).run ≠ none ∨ (s.learn ctx.val).cfg = none ∨ s.unitOpen ctx.val 0 = true ∨ s.unitOpen ctx.val 2 = true)) ∧
    (∃ (s : State) (cmd : HostCmd) (ctx : Ctx) (q : Nat) (f : _) (r : _) (x : _), q = cmd.queue.val ∧ x = s.learn ctx.val ∧ x.cfg = some f ∧ x.run = some r ∧ r.posted = false ∧ s.runsSlots = true ∧ s.arm.colls = [] ∧ s.nextDim (s.groupOf ctx.val) 0 = 4) ∧
    (∃ (s : State) (cmd : HostCmd) (ctx : Ctx) (q : Nat), q = cmd.queue.val ∧ ((s.learn ctx.val).run = none ∨ s.runsSlots = false)) :=
  ⟨⟨serve (learnCmd 2) [], learnCmd 2, prog0, 0, by decide +kernel, cmd_runs (by decide +kernel), by decide +kernel⟩,
   ⟨serve (learnCmd 2) [model3], learnCmd 2, prog0, 0, prog0, by decide +kernel, cmd_runs (by decide +kernel), by decide +kernel, by decide +kernel, by decide +kernel⟩,
   ⟨serve (learnCmd 0) [model3], learnCmd 0, prog0, 0, prog0, by decide +kernel, cmd_runs (by decide +kernel), by decide +kernel, by decide +kernel, by decide +kernel⟩,
   ⟨serve loadCmd [], loadCmd, none, 0, by decide +kernel, cmd_runs (by decide +kernel), by decide +kernel, by decide +kernel, by decide +kernel, by decide +kernel, by decide +kernel⟩,
   ⟨serve loadCmd [], loadCmd, some [], 0, ([] : List Word), by decide +kernel, cmd_runs (by decide +kernel), by decide +kernel, by decide +kernel, by decide +kernel, by decide +kernel, by decide +kernel, by decide +kernel⟩,
   ⟨serve loadCmd [], loadCmd, some image0, 0, batch0, image0, by decide +kernel, cmd_runs (by decide +kernel), by decide +kernel, by decide +kernel, by decide +kernel, by decide +kernel, by decide +kernel, by decide +kernel, by decide +kernel, by decide +kernel, by decide +kernel, by decide +kernel, by decide +kernel⟩,
   ⟨serve cmdBad [], cmdBad, 0, by decide +kernel, cmd_runs (by decide +kernel), by decide +kernel⟩,
   by refine ⟨learnAt [batch0] none, cmd0, 0, 0, lsCfg (learnCmd 2), ((learnAt [batch0] none).learn (0 : Ctx).val), batch0, [(0, 0, 1)], ?_⟩; decide +kernel,
   by refine ⟨learnAt [({ batch0 with seqs := [(300, 0, 0, 0)] })] none, cmd0, 0, 0, lsCfg (learnCmd 2), ((learnAt [({ batch0 with seqs := [(300, 0, 0, 0)] })] none).learn (0 : Ctx).val), { batch0 with seqs := [(300, 0, 0, 0)] }, ?_⟩; decide +kernel,
   by refine ⟨learnAt [] none, cmd0, 0, 0, lsCfg (learnCmd 2), ((learnAt [] none).learn (0 : Ctx).val), ?_⟩; decide +kernel,
   by refine ⟨run, cmd0, 0, 0, ?_⟩; decide +kernel,
   by refine ⟨learnAt [batch0] (some learnRun0), cmd0, 0, 0, lsCfg (learnCmd 2), learnRun0, ((learnAt [batch0] (some learnRun0)).learn (0 : Ctx).val), ?_⟩; decide +kernel,
   by refine ⟨learnAt [] none, cmd0, 0, 0, ?_⟩; decide +kernel⟩

theorem test_witness_RequestsAdmittedAndBatched :
    (∃ (s : State) (cmd : HostCmd) (prompt : Option (List W32)) (q : Nat) (st : _), q = cmd.queue.val ∧ CmdRuns s cmd 0x30 ∧ s.submitStatus cmd prompt = st ∧ st ≠ Status.ok) ∧
    (∃ (s : State) (cmd : HostCmd) (prompt : Option (List W32)) (q : Nat) (i : _) (h : _) (u : _), q = cmd.queue.val ∧ CmdRuns s cmd 0x30 ∧ s.submitStatus cmd prompt = Status.ok ∧ handleUse (bits cmd.b4 63 32) = 0 ∧ s.freeSlot = some i ∧ s.newHandle q 0 i = (h, u)) ∧
    (∃ (s : State) (cmd : HostCmd) (prompt : Option (List W32)) (q : Nat) (st : _) (span : _) (m : _) (len : _) (want : _), q = cmd.queue.val ∧ CmdRuns s cmd 0x33 ∧ m = s.modelOf q (bits cmd.b0 63 32) ∧ len = bits cmd.b0 23 0 ∧ want = bits cmd.b2 23 0 ∧ span = s.spanOf q want ∧ st = firstStatus [(bits cmd.b0 31 24 != 0 || bits cmd.b1 63 48 != 0 || bits cmd.b2 63 24 != 0 || !zeroWords [cmd.b3, cmd.b4, cmd.b5, cmd.b6, cmd.b7] || len == 0 || decide (want < len), Status.denied), (prompt.isSome && (match m with | some k => (tokensOf prompt).any fun t => decide (k.prog.vocab ≤ t) | none => false), Status.denied), (s.freePrefix.isNone || !s.canReserve q (s.newHandle q 1 (s.freePrefix.getD 0)).1 span 1 0 len false || (m.map (·.leaving)).getD false, Status.denied), (!((m.map fun k => k.role == 1).getD false), Status.notResident), (prompt.isNone, Status.tierFail)] ∧ st ≠ Status.ok) ∧
    (∃ (s : State) (cmd : HostCmd) (prompt : Option (List W32)) (q : Nat) (st : _) (span : _) (m : _) (len : _) (want : _) (i : _) (h : _) (u : _), q = cmd.queue.val ∧ CmdRuns s cmd 0x33 ∧ m = s.modelOf q (bits cmd.b0 63 32) ∧ len = bits cmd.b0 23 0 ∧ want = bits cmd.b2 23 0 ∧ span = s.spanOf q want ∧ st = firstStatus [(bits cmd.b0 31 24 != 0 || bits cmd.b1 63 48 != 0 || bits cmd.b2 63 24 != 0 || !zeroWords [cmd.b3, cmd.b4, cmd.b5, cmd.b6, cmd.b7] || len == 0 || decide (want < len), Status.denied), (prompt.isSome && (match m with | some k => (tokensOf prompt).any fun t => decide (k.prog.vocab ≤ t) | none => false), Status.denied), (s.freePrefix.isNone || !s.canReserve q (s.newHandle q 1 (s.freePrefix.getD 0)).1 span 1 0 len false || (m.map (·.leaving)).getD false, Status.denied), (!((m.map fun k => k.role == 1).getD false), Status.notResident), (prompt.isNone, Status.tierFail)] ∧ st = Status.ok ∧ s.freePrefix = some i ∧ s.newHandle q 1 i = (h, u)) ∧
    (∃ (s : State) (cmd : HostCmd) (q : Nat) (i : _) (x : _), q = cmd.queue.val ∧ CmdRuns s cmd 0x34 ∧ bits cmd.b0 63 32 = 0 ∧ zeroWords [cmd.b1, cmd.b2, cmd.b3, cmd.b4, cmd.b5, cmd.b6, cmd.b7] = true ∧ s.prefixOf (bits cmd.b0 31 0) = some (i, x) ∧ x.ctx = q ∧ x.dropped = false ∧ x.cmd = none ∧ s.prefixes = [(i, some x)]) ∧
    (∃ (s : State) (cmd : HostCmd) (q : Nat), q = cmd.queue.val ∧ CmdRuns s cmd 0x34 ∧ bits cmd.b0 63 32 = 0 ∧ zeroWords [cmd.b1, cmd.b2, cmd.b3, cmd.b4, cmd.b5, cmd.b6, cmd.b7] = true ∧ s.prefixOf (bits cmd.b0 31 0) = none) ∧
    (∃ (s : State) (cmd : HostCmd) (q : Nat), q = cmd.queue.val ∧ CmdRuns s cmd 0x34 ∧ bits cmd.b0 63 32 ≠ 0) ∧
    (∃ (s : State) (cmd : HostCmd) (q : Nat), q = cmd.queue.val ∧ s.devState ≠ Dev.running) ∧
    (∃ (s : State) (cmd : HostCmd) (q : Nat) (ctx : Ctx) (i : _) (r : _) (m : _) (take : _) (u : _) (v : _), q = cmd.queue.val ∧ s.devState = Dev.running ∧ s.reqs = [(i, some r)] ∧ s.prefixes = [] ∧ r.ctx = ctx.val ∧ r.st = 1 ∧ r.piece = 0 ∧ r.inStep = false ∧ r.pausing = none ∧ s.generates ctx.val = true ∧ u = ((s.setReq i (some r)).fillTo ctx.val r.handle r.prefilled).setCtxRec ctx.val { s.ctxRec ctx.val with steps := (s.ctxRec ctx.val).steps + 1 } ∧ r.prefilled < r.preLen + r.prompt.length ∧ s.models = [m] ∧ m.ctx = ctx.val ∧ m.role = 1 ∧ m.handle = r.model ∧ take = min (r.preLen + r.prompt.length - r.prefilled) (min (s.prefillMax ctx.val m) (s.batchMax ctx.val m)) ∧ take ≠ 0 ∧ u.pagesMake ctx.val r.handle r.span r.parts r.prefilled (r.prefilled + take) = (true, v)) :=
  ⟨⟨serve submitCmd [], submitCmd, some [1, 2], 0, Status.notResident, by decide +kernel, cmd_runs (by decide +kernel), by decide +kernel, by decide +kernel⟩,
   ⟨serve submitCmd [model0], submitCmd, some [1, 2], 0, 0, 4096, ((serve submitCmd [model0]).newHandle 0 0 0).2, by decide +kernel, cmd_runs (by decide +kernel), by decide +kernel, by decide +kernel, by decide +kernel, by decide +kernel⟩,
   ⟨serve prefixCmd [], prefixCmd, some [1, 2], 0, (firstStatus [(bits prefixCmd.b0 31 24 != 0 || bits prefixCmd.b1 63 48 != 0 || bits prefixCmd.b2 63 24 != 0 || !zeroWords [prefixCmd.b3, prefixCmd.b4, prefixCmd.b5, prefixCmd.b6, prefixCmd.b7] || (bits prefixCmd.b0 23 0) == 0 || decide ((bits prefixCmd.b2 23 0) < (bits prefixCmd.b0 23 0)), Status.denied), ((some [1, 2]).isSome && (match ((serve prefixCmd []).modelOf (0 : Nat) (bits prefixCmd.b0 63 32)) with | some k => (tokensOf (some [1, 2])).any fun t => decide (k.prog.vocab ≤ t) | none => false), Status.denied), ((serve prefixCmd []).freePrefix.isNone || !(serve prefixCmd []).canReserve (0 : Nat) ((serve prefixCmd []).newHandle (0 : Nat) 1 ((serve prefixCmd []).freePrefix.getD 0)).1 ((serve prefixCmd []).spanOf (0 : Nat) (bits prefixCmd.b2 23 0)) 1 0 (bits prefixCmd.b0 23 0) false || (((serve prefixCmd []).modelOf (0 : Nat) (bits prefixCmd.b0 63 32)).map (·.leaving)).getD false, Status.denied), (!((((serve prefixCmd []).modelOf (0 : Nat) (bits prefixCmd.b0 63 32)).map fun k => k.role == 1).getD false), Status.notResident), ((some [1, 2]).isNone, Status.tierFail)]), ((serve prefixCmd []).spanOf (0 : Nat) (bits prefixCmd.b2 23 0)), ((serve prefixCmd []).modelOf (0 : Nat) (bits prefixCmd.b0 63 32)), (bits prefixCmd.b0 23 0), (bits prefixCmd.b2 23 0), by decide +kernel, cmd_runs (by decide +kernel), rfl, rfl, rfl, rfl, rfl, by decide +kernel⟩,
   ⟨serve prefixCmd [model0], prefixCmd, some [1, 2], 0, (firstStatus [(bits prefixCmd.b0 31 24 != 0 || bits prefixCmd.b1 63 48 != 0 || bits prefixCmd.b2 63 24 != 0 || !zeroWords [prefixCmd.b3, prefixCmd.b4, prefixCmd.b5, prefixCmd.b6, prefixCmd.b7] || (bits prefixCmd.b0 23 0) == 0 || decide ((bits prefixCmd.b2 23 0) < (bits prefixCmd.b0 23 0)), Status.denied), ((some [1, 2]).isSome && (match ((serve prefixCmd [model0]).modelOf (0 : Nat) (bits prefixCmd.b0 63 32)) with | some k => (tokensOf (some [1, 2])).any fun t => decide (k.prog.vocab ≤ t) | none => false), Status.denied), ((serve prefixCmd [model0]).freePrefix.isNone || !(serve prefixCmd [model0]).canReserve (0 : Nat) ((serve prefixCmd [model0]).newHandle (0 : Nat) 1 ((serve prefixCmd [model0]).freePrefix.getD 0)).1 ((serve prefixCmd [model0]).spanOf (0 : Nat) (bits prefixCmd.b2 23 0)) 1 0 (bits prefixCmd.b0 23 0) false || (((serve prefixCmd [model0]).modelOf (0 : Nat) (bits prefixCmd.b0 63 32)).map (·.leaving)).getD false, Status.denied), (!((((serve prefixCmd [model0]).modelOf (0 : Nat) (bits prefixCmd.b0 63 32)).map fun k => k.role == 1).getD false), Status.notResident), ((some [1, 2]).isNone, Status.tierFail)]), ((serve prefixCmd [model0]).spanOf (0 : Nat) (bits prefixCmd.b2 23 0)), ((serve prefixCmd [model0]).modelOf (0 : Nat) (bits prefixCmd.b0 63 32)), (bits prefixCmd.b0 23 0), (bits prefixCmd.b2 23 0), 0, 2 ^ 26 + 4096, ((serve prefixCmd [model0]).newHandle 0 1 0).2, by decide +kernel, cmd_runs (by decide +kernel), rfl, rfl, rfl, rfl, rfl, by decide +kernel, by decide +kernel, by decide +kernel⟩,
   ⟨{ serve (dropCmd prefix0.handle) [model0] with prefixes := [(5, some prefix0)] }, dropCmd prefix0.handle, 0, 5, prefix0, by decide +kernel, cmd_runs (by decide +kernel), by decide +kernel, by decide +kernel, by decide +kernel, by decide +kernel, by decide +kernel, by decide +kernel, by decide +kernel⟩,
   ⟨serve (dropCmd prefix0.handle) [model0], dropCmd prefix0.handle, 0, by decide +kernel, cmd_runs (by decide +kernel), by decide +kernel, by decide +kernel, by decide +kernel⟩,
   ⟨serve (dropCmd (2 ^ 32)) [model0], dropCmd (2 ^ 32), 0, by decide +kernel, cmd_runs (by decide +kernel), by decide +kernel⟩,
   by refine ⟨inState Dev.ready, cmd0, 0, ?_⟩; decide +kernel,
   ⟨paged (requestAt cmd0 request0), cmd0, 0, 0, 3, request0, model0, 2, ((((paged (requestAt cmd0 request0)).setReq 3 (some request0)).fillTo (0 : Ctx).val request0.handle request0.prefilled).setCtxRec (0 : Ctx).val { (paged (requestAt cmd0 request0)).ctxRec (0 : Ctx).val with steps := ((paged (requestAt cmd0 request0)).ctxRec (0 : Ctx).val).steps + 1 }), (((((paged (requestAt cmd0 request0)).setReq 3 (some request0)).fillTo (0 : Ctx).val request0.handle request0.prefilled).setCtxRec (0 : Ctx).val { (paged (requestAt cmd0 request0)).ctxRec (0 : Ctx).val with steps := ((paged (requestAt cmd0 request0)).ctxRec (0 : Ctx).val).steps + 1 }).pagesMake (0 : Ctx).val request0.handle request0.span request0.parts request0.prefilled (request0.prefilled + 2)).2, by decide +kernel, by decide +kernel, by decide +kernel, by decide +kernel, by decide +kernel, by decide +kernel, by decide +kernel, by decide +kernel, by decide +kernel, by decide +kernel, rfl, by decide +kernel, by decide +kernel, by decide +kernel, by decide +kernel, by decide +kernel, by decide +kernel, by decide +kernel, pair_eq (by decide +kernel)⟩⟩

theorem test_witness_RequestsPausedAndResumed :
    (∃ (s : State) (cmd : HostCmd) (q : Nat) (i : _) (r : _), q = cmd.queue.val ∧ CmdRuns s cmd 0x31 ∧ bits cmd.b0 63 32 = 0 ∧ bits cmd.b1 63 32 = 0 ∧ zeroWords [cmd.b2, cmd.b3, cmd.b4, cmd.b5, cmd.b6, cmd.b7] = true ∧ s.reqOf (bits cmd.b0 31 0) = some (i, r) ∧ r.ctx = q ∧ r.pausing = none ∧ r.st ≠ 5) ∧
    (∃ (s : State) (cmd : HostCmd) (q : Nat), q = cmd.queue.val ∧ CmdRuns s cmd 0x31 ∧ bits cmd.b0 63 32 = 0 ∧ bits cmd.b1 63 32 = 0 ∧ zeroWords [cmd.b2, cmd.b3, cmd.b4, cmd.b5, cmd.b6, cmd.b7] = true ∧ s.reqOf (bits cmd.b0 31 0) = none) ∧
    (∃ (s : State) (cmd : HostCmd) (q : Nat), q = cmd.queue.val ∧ CmdRuns s cmd 0x31 ∧ bits cmd.b0 63 32 ≠ 0) ∧
    (∃ (s : State) (cmd : HostCmd) (q : Nat) (slot : BitVec 12) (r : _) (c : _) (ttl : _) (pages : List PausedPage) (blocks : _) (num : _) (o : _) (v : _), q = cmd.queue.val ∧ s.serving = true ∧ s.slotReq slot.toNat = some r ∧ r.pausing = some (c, ttl) ∧ r.st = 4 ∧ r.stretches = [] ∧ (∀ p ∈ s.pagesOf r.handle, enKind p.2.2 = 1 → enTier p.2.2 < 2) ∧ pages = s.pausePages r.handle ∧ blocks = 1 + pages.foldl (fun n p => n + ceilDiv (s.pageBytes p.die p.entry) 4096) 0 ∧ num = s.objFree ∧ s.objCreate num r.ctx 2 blocks ttl = (Status.ok, v) ∧ v.obj num = some o) ∧
    (∃ (s : State) (cmd : HostCmd) (q : Nat) (slot : BitVec 12) (r : _) (c : _) (ttl : _) (pages : List PausedPage) (blocks : _) (num : _) (st : _) (v : _), q = cmd.queue.val ∧ s.serving = true ∧ s.slotReq slot.toNat = some r ∧ r.pausing = some (c, ttl) ∧ r.st = 4 ∧ r.stretches = [] ∧ (∀ p ∈ s.pagesOf r.handle, enKind p.2.2 = 1 → enTier p.2.2 < 2) ∧ pages = s.pausePages r.handle ∧ blocks = 1 + pages.foldl (fun n p => n + ceilDiv (s.pageBytes p.die p.entry) 4096) 0 ∧ num = s.objFree ∧ s.objCreate num r.ctx 2 blocks ttl = (st, v) ∧ st ≠ Status.ok) ∧
    (∃ (s : State) (cmd : HostCmd) (q : Nat) (slot : BitVec 12), q = cmd.queue.val ∧ (s.serving = false ∨ s.slotReq slot.toNat = none ∨ (∃ r, s.slotReq slot.toNat = some r ∧ (r.pausing = none ∨ r.st ≠ 4 ∨ r.stretches ≠ [])))) ∧
    (∃ (s : State) (cmd : HostCmd) (q : Nat) (num : _) (o : _) (r : _) (i : _) (h : _) (u : _), q = cmd.queue.val ∧ CmdRuns s cmd 0x32 ∧ bits cmd.b0 43 0 = 0 ∧ bits cmd.b1 63 56 = 0 ∧ zeroWords [cmd.b2, cmd.b3, cmd.b4, cmd.b5, cmd.b6, cmd.b7] = true ∧ hostRingOk (bits cmd.b1 55 48) (bits cmd.b1 47 0) = true ∧ s.freeSlot = some i ∧ (s.ctxReqs q).length < s.get Base.contexts Reg.cxSlots q ∧ num = bits cmd.b0 63 44 ∧ s.obj num = some o ∧ o.ctx = q ∧ o.kind = 2 ∧ o.paused = some (r, []) ∧ (s.modelOf q r.model).isSome = true ∧ handleUse r.pre = 0 ∧ s.objNow o = 2 ∧ s.newHandle q 0 i = (h, u) ∧ s.canReserve q h (s.resumeSpan r) r.parts (s.sharedOrds r) r.endPos false = true) ∧
    (∃ (s : State) (cmd : HostCmd) (q : Nat) (i : _), q = cmd.queue.val ∧ CmdRuns s cmd 0x32 ∧ bits cmd.b0 43 0 = 0 ∧ bits cmd.b1 63 56 = 0 ∧ zeroWords [cmd.b2, cmd.b3, cmd.b4, cmd.b5, cmd.b6, cmd.b7] = true ∧ hostRingOk (bits cmd.b1 55 48) (bits cmd.b1 47 0) = true ∧ s.freeSlot = some i ∧ (s.ctxReqs q).length < s.get Base.contexts Reg.cxSlots q ∧ s.obj (bits cmd.b0 63 44) = none) :=
  ⟨⟨requestAt (pauseCmd request0.handle) request0, pauseCmd request0.handle, 0, 3, request0, by decide +kernel, cmd_runs (by decide +kernel), by decide +kernel, by decide +kernel, by decide +kernel, by decide +kernel, by decide +kernel, by decide +kernel, by decide +kernel⟩,
   ⟨serve (pauseCmd 4099) [model0], pauseCmd 4099, 0, by decide +kernel, cmd_runs (by decide +kernel), by decide +kernel, by decide +kernel, by decide +kernel, by decide +kernel⟩,
   ⟨serve (pauseCmd (2 ^ 32)) [model0], pauseCmd (2 ^ 32), 0, by decide +kernel, cmd_runs (by decide +kernel), by decide +kernel⟩,
   by refine ⟨requestAt (pauseCmd 4099) pausing0, cmd0, 0, 3, pausing0, pauseCmd 4099, 5, ((requestAt (pauseCmd 4099) pausing0).pausePages pausing0.handle), (1 + ((requestAt (pauseCmd 4099) pausing0).pausePages pausing0.handle).foldl (fun n p => n + ceilDiv ((requestAt (pauseCmd 4099) pausing0).pageBytes p.die p.entry) 4096) 0), ((requestAt (pauseCmd 4099) pausing0).objFree), (((requestAt (pauseCmd 4099) pausing0).objCreate 1 0 2 1 5).2.obj 1).getD obj0, ((requestAt (pauseCmd 4099) pausing0).objCreate 1 0 2 1 5).2, ?_⟩; decide +kernel,
   by refine ⟨{ requestAt (pauseCmd 4099) pausing0 with flash := run.flash }, cmd0, 0, 3, pausing0, pauseCmd 4099, 5, (({ requestAt (pauseCmd 4099) pausing0 with flash := run.flash }).pausePages pausing0.handle), 1, 1, Status.denied, (({ requestAt (pauseCmd 4099) pausing0 with flash := run.flash }).objCreate 1 0 2 1 5).2, ?_⟩; decide +kernel,
   by refine ⟨requestAt cmd0 request0, cmd0, 0, 3, ?_⟩; decide +kernel,
   ⟨stored resumeCmd, resumeCmd, 0, 5, pauseObj, request0, 0, 4096, ((stored resumeCmd).newHandle 0 0 0).2, by decide +kernel, cmd_runs (by decide +kernel), by decide +kernel, by decide +kernel, by decide +kernel, by decide +kernel, by decide +kernel, by decide +kernel, by decide +kernel, by decide +kernel, by decide +kernel, by decide +kernel, by decide +kernel, by decide +kernel, by decide +kernel, by decide +kernel, by decide +kernel, by decide +kernel⟩,
   ⟨serve resumeCmd [model0], resumeCmd, 0, 0, by decide +kernel, cmd_runs (by decide +kernel), by decide +kernel, by decide +kernel, by decide +kernel, by decide +kernel, by decide +kernel, by decide +kernel, by decide +kernel⟩⟩

/-! Loops, contexts, the host's queues and the Umajo port. -/

def policy0 : Policy := { learn := 3, gen := 1, mode := 1, stale := 1, steps := 1, quota := 1, timeMs := 0 }

/-- START_LOOP, or with action 2 STOP_LOOP. -/
def loopCmd (action : Nat) : HostCmd := { cmd0 with opcode := 0x40, b0 := word (action * 2 ^ 62) }

def policyCmd : HostCmd :=
 { cmd0 with opcode := 0x41, b0 := word (3 * 2 ^ 32 + 1), b1 := word (2 ^ 62 + 2 ^ 60 + 2 ^ 32 + 1) }

def forceCmd : HostCmd := { cmd0 with opcode := 0x42 }

def looping (c : HostCmd) (n : Nat) (p : Option Policy) : State :=
 { sets (serve c [{ model0 with prog := { prog0 with plan := some { replicas := 1, runs := [], scaleAt := 0 } } }, { model0 with handle := 3, role := 3 }]) [(Base.phase, Reg.phLoop, n, 0)] with
   loops := [(0, { Loop.none with policy := p })]
   learns := [(0, { Learn.none with cfg := some (lsCfg (learnCmd 2)), prog := some prog0 })] }

/-- A share body for context 1: core 0 of CD0, channel 0 and a share of each path. -/
def shareBody (flash : Nat) : List Word :=
 [word (2 ^ 60 + 2 ^ 52 + 2 ^ 23 + 16), 1, word (2 ^ 56 + 2 ^ 48 + 2 ^ 40 + 2 ^ 32 + 2 ^ 24), word (flash * 2 ^ 32 + 1000), 0]

/-- An administrative command, its body's first words given. -/
def admCmd (op : Byte) (b : List Word) : HostCmd :=
 { cmd0 with queue := 16, opcode := op, b0 := b.getD 0 0, b1 := b.getD 1 0, b2 := b.getD 2 0, b3 := b.getD 3 0, b4 := b.getD 4 0 }

def createCmd (flash : Nat) : HostCmd :=
 { admCmd 0x50 (shareBody flash) with b5 := word (4 * 2 ^ 48 + hostBase), b6 := word (6 * 2 ^ 48 + hostBase) }

/-- The image allows context 1 a partition; context 1 is in a state. -/
def owner (c : HostCmd) (n : Nat) : State :=
 let s := sets run [(Base.contexts, Reg.cxState, n, 1), (Base.ddr 0, Reg.ddrState, 2, 0)]
 { s with
   um := { s.um with queues := [(16, { HostQ.new with cmds := [c] })] }
   boot := { s.boot with image := some { im1 with partitions := [[], shareBody 1] } }
   flash := { targets := [{ present := true, cell := 1, gib := 64, blocks := 100, bad := 0, life := 0 }], objects := [], erases := [], grown := [], us := 0 } }

def resetCmd : HostCmd := admCmd 0x51 [word (2 ^ 60)]

def onCore0 : CtxRec := { CtxRec.none with dieMask := 1, cores := 1 }

/-- Contexts 0 and 1 on core 0 of CD0; `n` tells whether context 0 runs there. -/
def sharing (n : Nat) : State :=
 { sets run [(Base.contexts, Reg.cxState, 1, 0), (Base.contexts, Reg.cxState, 3, 1), (Base.contexts, Reg.cxShared, 1, 0),
     (Base.contexts, Reg.cxShared, 1, 1), (Base.coreBind 0, Reg.cbRunValid, n, 0)] with
   ctxs := [(0, { onCore0 with preempt := true }), (1, { onCore0 with resume := true })] }

/-- The Umajo link is up, with an administrative queue pair of 16 entries and 64 records and one host region. -/
def hostUp : State :=
 { sets run [(Base.umajo, Reg.umState, 2, 0), (Base.umajo, Reg.sqLog2, 4, 0), (Base.umajo, Reg.sqAddr, hostBase, 0),
     (Base.umajo, Reg.eqLog2, 6, 0), (Base.umajo, Reg.admEn, 1, 0)] with
   um := { run.um with regions := [(0, word (2 ^ 63 + 2 ^ 61))] } }

def withQ (s : State) (x : HostQ) : State := { s with um := { s.um with queues := [(16, x)] } }

/-- A RESET_CONTEXT as a queue entry. -/
def entry0 : List Word := [word (0x51 * 2 ^ 56), 0, 0, 0, 0, 0, 0, 0, word (2 ^ 60), 0, 0, 0, 0, 0, 0, 0]

def withUm (s : State) (u : Umajo) : State := { s with um := u }

def umFlit0 : UmFlit := { h0 := word (4 * 2 ^ 40), h1 := 0, payload := [] }

theorem bits_word_top {n : Nat} (h : n < 2 ^ 32) : bits (word (n * 2 ^ 32)) 63 32 = n := by
 simp [bits, word]; omega

theorem bits_word_bottom {n : Nat} (_ : n < 2 ^ 32) : bits (word (n * 2 ^ 32)) 31 0 = 0 := by
 simp [bits, word]

theorem umFlitCrc_of {f g : UmFlit} {c : Nat} (hc : umFlitCrc f = c) (h : bits f.h1 31 0 = 0)
   (hg : g = { f with h1 := word (c * 2 ^ 32) }) : bits g.h1 63 32 = umFlitCrc g := by
 have lt : c < 2 ^ 32 := by rw [← hc]; unfold umFlitCrc; exact BitVec.isLt _
 have e0 : g.h0 = f.h0 := by rw [hg]
 have e1 : g.h1 = word (c * 2 ^ 32) := by rw [hg]
 have ep : g.payload = f.payload := by rw [hg]
 have w : umFlitWords g 0 = umFlitWords f 0 := by
   unfold umFlitWords; rw [e0, e1, ep, h, bits_word_bottom lt]
 have e : umFlitCrc g = c := by
   refine Eq.trans ?_ hc
   unfold umFlitCrc; rw [w]
 rw [e, e1, bits_word_top lt]

def umGood (f : UmFlit) : UmFlit := { f with h1 := word (umFlitCrc f * 2 ^ 32) }

theorem umGood_crc {f : UmFlit} (h : bits f.h1 31 0 = 0) : bits (umGood f).h1 63 32 = umFlitCrc (umGood f) :=
 umFlitCrc_of rfl h rfl

def ack0 : UmFlit := { umFlit0 with h0 := 0 }

/-- A flit of data that holds one message: a read's completion with no words. -/
def data0 : UmFlit := { h0 := 0x2000000000, h1 := 0, payload := wordsOf (umBytes { um0 with mtype := 6 }) }

def data0Bytes : List Byte := bytesOf ((data0.payload ++ List.replicate (128 - data0.payload.length) 0).take 128)

def busy0 : RdSlot := { RdSlot.free with busy := true }

def journal0 : List Byte := let r := leBytes 12 2; r ++ leBytes 4 (crc32c r).toNat

/-- Host memory's first region may be reached, a signature or an image is asked for at its start. -/
def asked : State :=
 { sets run [(Base.identity, Reg.attAddr, hostBase, 0), (Base.boot, Reg.updAddr, hostBase, 0)] with
   um := { run.um with regions := [(0, word (2 ^ 63 + 2 ^ 61))] }
   boot := { run.boot with treeReady := true, prov := { run.boot.prov with journal := [[journal0], [], [], []] } } }

def unready : State := { asked with boot := { asked.boot with treeReady := false } }

theorem test_witness_LoopsAndForcedTurns :
    (∃ (s : State) (cmd : HostCmd) (q : Nat) (x : Loop) (b : Nat), q = cmd.queue.val ∧ x = s.loop q ∧ b = Base.phase ∧ CmdRuns s cmd 0x40 ∧ slAction cmd ≠ 2 ∧ slReserved cmd = false ∧ s.get b Reg.phLoop q = 0 ∧ x.policy.isSome = true ∧ (s.learn q).cfg.isSome = true ∧ s.scoreOk q (bits cmd.b1 63 32) = true ∧ s.scoreOk q (bits cmd.b1 31 0) = true) ∧
    (∃ (s : State) (cmd : HostCmd) (q : Nat) (x : Loop) (b : Nat), q = cmd.queue.val ∧ x = s.loop q ∧ b = Base.phase ∧ CmdRuns s cmd 0x40 ∧ slAction cmd ≠ 2 ∧ (slReserved cmd = true ∨ s.get b Reg.phLoop q = 1 ∨ x.policy = none ∨ (s.learn q).cfg = none ∨ s.scoreOk q (bits cmd.b1 63 32) = false ∨ s.scoreOk q (bits cmd.b1 31 0) = false)) ∧
    (∃ (s : State) (cmd : HostCmd) (q : Nat) (x : Loop) (b : Nat), q = cmd.queue.val ∧ x = s.loop q ∧ b = Base.phase ∧ CmdRuns s cmd 0x40 ∧ slAction cmd = 2) ∧
    (∃ (s : State) (cmd : HostCmd) (q : Nat) (x : Loop) (b : Nat), q = cmd.queue.val ∧ x = s.loop q ∧ b = Base.phase ∧ CmdRuns s cmd 0x40 ∧ slAction cmd ≠ 2) ∧
    (∃ (s : State) (cmd : HostCmd) (q : Nat) (x : Loop) (b : Nat), q = cmd.queue.val ∧ x = s.loop q ∧ b = Base.phase ∧ CmdRuns s cmd 0x40 ∧ slAction cmd = 2 ∧ slReserved cmd = false ∧ s.get b Reg.phLoop q = 1 ∧ x.stop = none) ∧
    (∃ (s : State) (cmd : HostCmd) (q : Nat) (x : Loop) (b : Nat), q = cmd.queue.val ∧ x = s.loop q ∧ b = Base.phase ∧ CmdRuns s cmd 0x40 ∧ slAction cmd = 2 ∧ (s.get b Reg.phLoop q = 0 ∨ x.stop.isSome = true ∨ slReserved cmd = true)) ∧
    (∃ (s : State) (cmd : HostCmd) (q : Nat) (x : Loop) (b : Nat) (st : _), q = cmd.queue.val ∧ x = s.loop q ∧ b = Base.phase ∧ CmdRuns s cmd 0x41 ∧ s.policyStatus cmd = st ∧ st ≠ Status.ok) ∧
    (∃ (s : State) (cmd : HostCmd) (q : Nat) (x : Loop) (b : Nat), q = cmd.queue.val ∧ x = s.loop q ∧ b = Base.phase ∧ CmdRuns s cmd 0x41 ∧ s.policyStatus cmd = Status.ok) ∧
    (∃ (s : State) (cmd : HostCmd) (q : Nat) (x : Loop) (b : Nat), q = cmd.queue.val ∧ x = s.loop q ∧ b = Base.phase ∧ CmdRuns s cmd 0x42 ∧ zeroWords [cmd.b0, cmd.b1, cmd.b2, cmd.b3, cmd.b4, cmd.b5, cmd.b6, cmd.b7] = true ∧ x.policy.isSome = true ∧ cmd ∉ x.forced) ∧
    (∃ (s : State) (cmd : HostCmd) (q : Nat) (x : Loop) (b : Nat), q = cmd.queue.val ∧ x = s.loop q ∧ b = Base.phase ∧ CmdRuns s cmd 0x42 ∧ x.policy = none) :=
  ⟨⟨looping (loopCmd 1) 0 (some policy0), loopCmd 1, 0, ((looping (loopCmd 1) 0 (some policy0)).loop (0 : Nat)), (Base.phase), by decide +kernel, rfl, rfl, cmd_runs (by decide +kernel), by decide +kernel, by decide +kernel, by decide +kernel, by decide +kernel, by decide +kernel, by decide +kernel, by decide +kernel⟩,
   ⟨looping (loopCmd 1) 0 none, loopCmd 1, 0, ((looping (loopCmd 1) 0 none).loop (0 : Nat)), (Base.phase), by decide +kernel, rfl, rfl, cmd_runs (by decide +kernel), by decide +kernel, by decide +kernel⟩,
   ⟨looping (loopCmd 2) 0 (some policy0), loopCmd 2, 0, ((looping (loopCmd 2) 0 (some policy0)).loop (0 : Nat)), (Base.phase), by decide +kernel, rfl, rfl, cmd_runs (by decide +kernel), by decide +kernel⟩,
   ⟨looping (loopCmd 1) 0 (some policy0), loopCmd 1, 0, ((looping (loopCmd 1) 0 (some policy0)).loop (0 : Nat)), (Base.phase), by decide +kernel, rfl, rfl, cmd_runs (by decide +kernel), by decide +kernel⟩,
   ⟨looping (loopCmd 2) 1 (some policy0), loopCmd 2, 0, ((looping (loopCmd 2) 1 (some policy0)).loop (0 : Nat)), (Base.phase), by decide +kernel, rfl, rfl, cmd_runs (by decide +kernel), by decide +kernel, by decide +kernel, by decide +kernel, by decide +kernel⟩,
   ⟨looping (loopCmd 2) 0 (some policy0), loopCmd 2, 0, ((looping (loopCmd 2) 0 (some policy0)).loop (0 : Nat)), (Base.phase), by decide +kernel, rfl, rfl, cmd_runs (by decide +kernel), by decide +kernel, by decide +kernel⟩,
   ⟨serve policyCmd [], policyCmd, 0, ((serve policyCmd []).loop (0 : Nat)), (Base.phase), Status.notResident, by decide +kernel, rfl, rfl, cmd_runs (by decide +kernel), by decide +kernel, by decide +kernel⟩,
   ⟨looping policyCmd 1 (some policy0), policyCmd, 0, ((looping policyCmd 1 (some policy0)).loop (0 : Nat)), (Base.phase), by decide +kernel, rfl, rfl, cmd_runs (by decide +kernel), by decide +kernel⟩,
   ⟨looping forceCmd 1 (some policy0), forceCmd, 0, ((looping forceCmd 1 (some policy0)).loop (0 : Nat)), (Base.phase), by decide +kernel, rfl, rfl, cmd_runs (by decide +kernel), by decide +kernel, by decide +kernel, by decide +kernel⟩,
   ⟨looping forceCmd 0 none, forceCmd, 0, ((looping forceCmd 0 none).loop (0 : Nat)), (Base.phase), by decide +kernel, rfl, rfl, cmd_runs (by decide +kernel), by decide +kernel⟩⟩

theorem test_witness_ContextsAndShares :
    (∃ (s : State) (cmd : HostCmd) (b : List Word) (ctx : Nat) (k : Nat), b = cmdBody cmd ∧ ctx = sbCtx b ∧ k = Base.contexts ∧ CmdRuns s cmd 0x50 ∧ sbReserved b = false ∧ queueReserved cmd = false ∧ s.ctxState ctx = 0 ∧ s.underCeiling ctx b = true ∧ s.poolFits ctx b = true ∧ s.flashUsed ctx ≤ sbFlash b * 2 ^ 30) ∧
    (∃ (s : State) (cmd : HostCmd) (b : List Word) (ctx : Nat) (k : Nat), b = cmdBody cmd ∧ ctx = sbCtx b ∧ k = Base.contexts ∧ CmdRuns s cmd 0x50 ∧ (sbReserved b = true ∨ queueReserved cmd = true ∨ s.ctxState ctx ≠ 0 ∨ s.underCeiling ctx b = false ∨ s.poolFits ctx b = false)) ∧
    (∃ (s : State) (cmd : HostCmd) (b : List Word) (ctx : Nat) (k : Nat), b = cmdBody cmd ∧ ctx = sbCtx b ∧ k = Base.contexts ∧ CmdRuns s cmd 0x52 ∧ s.sharesRefused cmd = false) ∧
    (∃ (s : State) (cmd : HostCmd) (b : List Word) (ctx : Nat) (k : Nat), b = cmdBody cmd ∧ ctx = sbCtx b ∧ k = Base.contexts ∧ CmdRuns s cmd 0x52 ∧ s.sharesRefused cmd = true) ∧
    (∃ (s : State) (cmd : HostCmd) (b : List Word) (ctx : Nat) (k : Nat) (c : _), b = cmdBody cmd ∧ ctx = sbCtx b ∧ k = Base.contexts ∧ c = bits cmd.b0 63 60 ∧ CmdRuns s cmd 0x51 ∧ bits cmd.b0 58 0 = 0 ∧ zeroWords [cmd.b1, cmd.b2, cmd.b3, cmd.b4, cmd.b5, cmd.b6, cmd.b7] = true ∧ s.ctxState c = 0) ∧
    (∃ (s : State) (cmd : HostCmd) (b : List Word) (ctx : Nat) (k : Nat) (c : _), b = cmdBody cmd ∧ ctx = sbCtx b ∧ k = Base.contexts ∧ c = bits cmd.b0 63 60 ∧ CmdRuns s cmd 0x51 ∧ bits cmd.b0 58 0 = 0 ∧ zeroWords [cmd.b1, cmd.b2, cmd.b3, cmd.b4, cmd.b5, cmd.b6, cmd.b7] = true ∧ s.ctxState c = 4 ∧ cmd ∉ (s.ctxRec c).resets) ∧
    (∃ (s : State) (cmd : HostCmd) (b : List Word) (ctx : Nat) (k : Nat) (c : _), b = cmdBody cmd ∧ ctx = sbCtx b ∧ k = Base.contexts ∧ c = bits cmd.b0 63 60 ∧ CmdRuns s cmd 0x51 ∧ bits cmd.b0 58 0 = 0 ∧ zeroWords [cmd.b1, cmd.b2, cmd.b3, cmd.b4, cmd.b5, cmd.b6, cmd.b7] = true ∧ s.ctxState c ≠ 0 ∧ s.ctxState c ≠ 4) ∧
    (∃ (s : State) (cmd : HostCmd) (b : List Word) (ctx : Nat) (k : Nat) (inc : Ctx), b = cmdBody cmd ∧ ctx = sbCtx b ∧ k = Base.contexts ∧ s.serving = true ∧ s.ctxState inc.val ≠ 4 ∧ (s.ctxRec inc.val).resume = true ∧ s.runner inc.val = none ∧ (s.ctxRec inc.val).coreFirst + (s.ctxRec inc.val).cores ≤ 48) ∧
    (∃ (s : State) (cmd : HostCmd) (b : List Word) (ctx : Nat) (k : Nat) (out : Ctx) (inc : Ctx), b = cmdBody cmd ∧ ctx = sbCtx b ∧ k = Base.contexts ∧ s.serving = true ∧ s.ctxState inc.val ≠ 4 ∧ (s.ctxRec inc.val).resume = true ∧ (s.ctxRec out.val).preempt = true ∧ s.runner inc.val = some out.val ∧ s.runner out.val = some out.val ∧ inc.val ∈ s.sharers out.val ∧ out ≠ inc ∧ s.setQuiet out.val = true ∧ (s.ctxRec out.val).dieMask < 256 ∧ (s.ctxRec out.val).coreFirst + (s.ctxRec out.val).cores ≤ 48) ∧
    (∃ (s : State) (cmd : HostCmd) (b : List Word) (ctx : Nat) (k : Nat) (inc : Ctx), b = cmdBody cmd ∧ ctx = sbCtx b ∧ k = Base.contexts ∧ (s.serving = false ∨ s.ctxState inc.val = 4 ∨ (s.ctxRec inc.val).resume = false)) :=
  ⟨⟨owner (createCmd 1) 0, createCmd 1, (cmdBody (createCmd 1)), (sbCtx (cmdBody (createCmd 1))), (Base.contexts), rfl, rfl, rfl, cmd_runs (by decide +kernel), by decide +kernel, by decide +kernel, by decide +kernel, by decide +kernel, by decide +kernel, by decide +kernel⟩,
   ⟨owner (createCmd 2) 0, createCmd 2, (cmdBody (createCmd 2)), (sbCtx (cmdBody (createCmd 2))), (Base.contexts), rfl, rfl, rfl, cmd_runs (by decide +kernel), by decide +kernel⟩,
   ⟨owner (admCmd 0x52 (shareBody 1)) 1, admCmd 0x52 (shareBody 1), (cmdBody (admCmd 0x52 (shareBody 1))), (sbCtx (cmdBody (admCmd 0x52 (shareBody 1)))), (Base.contexts), rfl, rfl, rfl, cmd_runs (by decide +kernel), by decide +kernel⟩,
   ⟨owner (admCmd 0x52 (shareBody 1)) 0, admCmd 0x52 (shareBody 1), (cmdBody (admCmd 0x52 (shareBody 1))), (sbCtx (cmdBody (admCmd 0x52 (shareBody 1)))), (Base.contexts), rfl, rfl, rfl, cmd_runs (by decide +kernel), by decide +kernel⟩,
   ⟨owner resetCmd 0, resetCmd, (cmdBody resetCmd), (sbCtx (cmdBody resetCmd)), (Base.contexts), (bits resetCmd.b0 63 60), rfl, rfl, rfl, rfl, cmd_runs (by decide +kernel), by decide +kernel, by decide +kernel, by decide +kernel⟩,
   ⟨owner resetCmd 4, resetCmd, (cmdBody resetCmd), (sbCtx (cmdBody resetCmd)), (Base.contexts), (bits resetCmd.b0 63 60), rfl, rfl, rfl, rfl, cmd_runs (by decide +kernel), by decide +kernel, by decide +kernel, by decide +kernel, by decide +kernel⟩,
   ⟨owner resetCmd 1, resetCmd, (cmdBody resetCmd), (sbCtx (cmdBody resetCmd)), (Base.contexts), (bits resetCmd.b0 63 60), rfl, rfl, rfl, rfl, cmd_runs (by decide +kernel), by decide +kernel, by decide +kernel, by decide +kernel, by decide +kernel⟩,
   by refine ⟨sharing 0, cmd0, (cmdBody cmd0), (sbCtx (cmdBody cmd0)), (Base.contexts), 1, ?_⟩; decide +kernel,
   by refine ⟨sharing 1, cmd0, (cmdBody cmd0), (sbCtx (cmdBody cmd0)), (Base.contexts), 0, 1, ?_⟩; decide +kernel,
   by refine ⟨chip, cmd0, (cmdBody cmd0), (sbCtx (cmdBody cmd0)), (Base.contexts), 1, ?_⟩; decide +kernel⟩

theorem test_witness_QueuesAndDoorbells :
    (∃ (s : State) (queue : Fin 17) (value : W32) (q : Nat) (b : Nat) (u : _), q = queue.val ∧ b = Base.umajo ∧ s.umUp = true ∧ u = s.inboxDrop (doorbellArg 0 q value.toNat) ∧ s.dbBackward q value.toNat (s.get b Reg.sqTail q) = false ∧ diff32 value.toNat (s.get b Reg.sqHead q) ≤ 2 ^ s.sqLog q) ∧
    (∃ (s : State) (queue : Fin 17) (value : W32) (q : Nat) (b : Nat) (u : _), q = queue.val ∧ b = Base.umajo ∧ s.umUp = true ∧ u = s.inboxDrop (doorbellArg 0 q value.toNat) ∧ (s.dbBackward q value.toNat (s.get b Reg.sqTail q) = true ∨ 2 ^ s.sqLog q < diff32 value.toNat (s.get b Reg.sqHead q))) ∧
    (∃ (s : State) (queue : Fin 17) (value : W32) (q : Nat) (b : Nat) (u : _) (k : _), q = queue.val ∧ b = Base.umajo ∧ s.umUp = true ∧ u = s.inboxDrop (doorbellArg 0 q value.toNat) ∧ (s.dbBackward q value.toNat (s.get b Reg.sqTail q) = true ∨ 2 ^ s.sqLog q < diff32 value.toNat (s.get b Reg.sqHead q)) ∧ (k = (if q ≠ 16 ∧ s.ctxState q = 0 then 16 else q)) ∧ (s.hq k).buffer ≠ [] ∧ (s.hq k).buffer.length < 256) ∧
    (∃ (s : State) (queue : Fin 17) (value : W32) (q : Nat) (b : Nat) (u : _), q = queue.val ∧ b = Base.umajo ∧ s.umUp = true ∧ u = (s.inboxDrop (doorbellArg 1 q value.toNat)).put b Reg.eqConsumed value.toNat q ∧ s.dbBackward q value.toNat (s.get b Reg.eqConsumed q) = false ∧ diff32 value.toNat (s.get b Reg.eqConsumed q) ≤ diff32 (s.get b Reg.eqProduced q) (s.get b Reg.eqConsumed q) ∧ (s.hq q).buffer = []) ∧
    (∃ (s : State) (queue : Fin 17) (value : W32) (q : Nat) (b : Nat) (u : _) (r : _), q = queue.val ∧ b = Base.umajo ∧ s.umUp = true ∧ u = (s.inboxDrop (doorbellArg 1 q value.toNat)).put b Reg.eqConsumed value.toNat q ∧ s.dbBackward q value.toNat (s.get b Reg.eqConsumed q) = false ∧ diff32 value.toNat (s.get b Reg.eqConsumed q) ≤ diff32 (s.get b Reg.eqProduced q) (s.get b Reg.eqConsumed q) ∧ (s.hq q).buffer = [r] ∧ u.eqRoom q = true) ∧
    (∃ (s : State) (queue : Fin 17) (q : Nat) (b : Nat) (e : List Word) (a : _), q = queue.val ∧ b = Base.umajo ∧ s.umUp = true ∧ s.fetches q = true ∧ s.fetchCount q ≠ 0 ∧ a = s.sqBase q + 128 * (s.get b Reg.sqHead q % 2 ^ s.sqLog q) ∧ hostBase ≤ a ∧ s.hostStatus (qCtx q) (a - hostBase) = Status.ok ∧ s.entryStatus q e = Status.ok) ∧
    (∃ (s : State) (queue : Fin 17) (q : Nat) (b : Nat) (e : List Word) (a : _), q = queue.val ∧ b = Base.umajo ∧ s.umUp = true ∧ s.fetches q = true ∧ s.fetchCount q ≠ 0 ∧ a = s.sqBase q + 128 * (s.get b Reg.sqHead q % 2 ^ s.sqLog q) ∧ hostBase ≤ a ∧ s.hostStatus (qCtx q) (a - hostBase) = Status.ok ∧ s.entryStatus q e ≠ Status.ok ∧ (s.hq q).buffer ≠ []) ∧
    (∃ (s : State) (queue : Fin 17) (q : Nat) (b : Nat) (a : _), q = queue.val ∧ b = Base.umajo ∧ s.umUp = true ∧ s.fetches q = true ∧ s.fetchCount q ≠ 0 ∧ a = s.sqBase q + 128 * (s.get b Reg.sqHead q % 2 ^ s.sqLog q) ∧ hostBase ≤ a ∧ s.hostStatus (qCtx q) (a - hostBase) = Status.ok) ∧
    (∃ (s : State) (queue : Fin 17) (q : Nat) (b : Nat), q = queue.val ∧ b = Base.umajo ∧ (s.fetches q = false ∨ s.fetchCount q = 0)) ∧
    (∃ (s : State) (queue : Fin 17) (q : Nat) (b : Nat), q = queue.val ∧ b = Base.umajo ∧ s.umUp = false) ∧
    (∃ (s : State) (queue : Fin 17) (q : Nat) (b : Nat), q = queue.val ∧ b = Base.umajo ∧ 0 < (s.hq q).unseen ∧ 0 < s.um.out.length) ∧
    (∃ (s : State) (queue : Fin 17) (q : Nat) (b : Nat), q = queue.val ∧ b = Base.umajo ∧ (s.hq q).unseen = 0) :=
  ⟨by refine ⟨hostUp, 16, 1, ((16 : Fin 17).val), (Base.umajo), (hostUp.inboxDrop (doorbellArg 0 ((16 : Fin 17).val) (1 : W32).toNat)), ?_⟩; decide +kernel,
   by refine ⟨hostUp, 16, 17, ((16 : Fin 17).val), (Base.umajo), (hostUp.inboxDrop (doorbellArg 0 ((16 : Fin 17).val) (17 : W32).toNat)), ?_⟩; decide +kernel,
   by refine ⟨withQ hostUp { HostQ.new with buffer := [[]] }, 16, 0x80000000, ((16 : Fin 17).val), (Base.umajo), ((withQ hostUp { HostQ.new with buffer := [[]] }).inboxDrop (doorbellArg 0 ((16 : Fin 17).val) (0x80000000 : W32).toNat)), 16, ?_⟩; decide +kernel,
   by refine ⟨sets hostUp [(Base.umajo, Reg.eqProduced, 1, 16)], 16, 1, ((16 : Fin 17).val), (Base.umajo), (((sets hostUp [(Base.umajo, Reg.eqProduced, 1, 16)]).inboxDrop (doorbellArg 1 ((16 : Fin 17).val) (1 : W32).toNat)).put (Base.umajo) Reg.eqConsumed (1 : W32).toNat ((16 : Fin 17).val)), ?_⟩; decide +kernel,
   by refine ⟨withQ (sets hostUp [(Base.umajo, Reg.eqProduced, 1, 16)]) { HostQ.new with buffer := [([] : List Word)] }, 16, 1, ((16 : Fin 17).val), (Base.umajo), (((withQ (sets hostUp [(Base.umajo, Reg.eqProduced, 1, 16)]) { HostQ.new with buffer := [([] : List Word)] }).inboxDrop (doorbellArg 1 ((16 : Fin 17).val) (1 : W32).toNat)).put (Base.umajo) Reg.eqConsumed (1 : W32).toNat ((16 : Fin 17).val)), ([] : List Word), ?_⟩; decide +kernel,
   by refine ⟨sets hostUp [(Base.umajo, Reg.sqTail, 1, 16)], 16, ((16 : Fin 17).val), (Base.umajo), entry0, ((sets hostUp [(Base.umajo, Reg.sqTail, 1, 16)]).sqBase ((16 : Fin 17).val) + 128 * ((sets hostUp [(Base.umajo, Reg.sqTail, 1, 16)]).get (Base.umajo) Reg.sqHead ((16 : Fin 17).val) % 2 ^ (sets hostUp [(Base.umajo, Reg.sqTail, 1, 16)]).sqLog ((16 : Fin 17).val))), ?_⟩; decide +kernel,
   by refine ⟨withQ (sets hostUp [(Base.umajo, Reg.sqTail, 1, 16)]) { HostQ.new with buffer := [[]] }, 16, ((16 : Fin 17).val), (Base.umajo), 1 :: entry0, ((withQ (sets hostUp [(Base.umajo, Reg.sqTail, 1, 16)]) { HostQ.new with buffer := [[]] }).sqBase ((16 : Fin 17).val) + 128 * ((withQ (sets hostUp [(Base.umajo, Reg.sqTail, 1, 16)]) { HostQ.new with buffer := [[]] }).get (Base.umajo) Reg.sqHead ((16 : Fin 17).val) % 2 ^ (withQ (sets hostUp [(Base.umajo, Reg.sqTail, 1, 16)]) { HostQ.new with buffer := [[]] }).sqLog ((16 : Fin 17).val))), ?_⟩; decide +kernel,
   by refine ⟨sets hostUp [(Base.umajo, Reg.sqTail, 1, 16)], 16, ((16 : Fin 17).val), (Base.umajo), ((sets hostUp [(Base.umajo, Reg.sqTail, 1, 16)]).sqBase ((16 : Fin 17).val) + 128 * ((sets hostUp [(Base.umajo, Reg.sqTail, 1, 16)]).get (Base.umajo) Reg.sqHead ((16 : Fin 17).val) % 2 ^ (sets hostUp [(Base.umajo, Reg.sqTail, 1, 16)]).sqLog ((16 : Fin 17).val))), ?_⟩; decide +kernel,
   by refine ⟨hostUp, 16, ((16 : Fin 17).val), (Base.umajo), ?_⟩; decide +kernel,
   by refine ⟨run, 16, ((16 : Fin 17).val), (Base.umajo), ?_⟩; decide +kernel,
   by refine ⟨withQ hostUp { HostQ.new with unseen := 1 }, 16, ((16 : Fin 17).val), (Base.umajo), ?_⟩; decide +kernel,
   by refine ⟨hostUp, 16, ((16 : Fin 17).val), (Base.umajo), ?_⟩; decide +kernel⟩

theorem test_witness_UmajoLinkAndMessages :
    (∃ (s : State) (u : Umajo) (b : Nat), u = s.um ∧ b = Base.umajo ∧ s.umUp = false) ∧
    (∃ (s : State) (u : Umajo) (b : Nat) (g : _) (rest : _), u = s.um ∧ b = Base.umajo ∧ s.umUp = true ∧ u.resend = g :: rest) ∧
    (∃ (s : State) (u : Umajo) (b : Nat), u = s.um ∧ b = Base.umajo ∧ s.umUp = true ∧ u.resend = [] ∧ (64 ≤ u.replay.length ∨ (u.control = [] ∧ u.stream = [] ∧ u.ready = []))) ∧
    (∃ (s : State) (u : Umajo) (b : Nat) (m : UmMsg) (n : _), u = s.um ∧ b = Base.umajo ∧ s.umUp = true ∧ u.resend = [] ∧ u.replay.length < 64 ∧ u.control = [] ∧ u.stream = [] ∧ u.out = [[(n, m)], [], []] ∧ umUnits m ≤ u.credits.getD 0 0 ∧ 0 < u.credits.length) ∧
    (∃ (s : State) (f : UmFlit) (fec : Bool) (u : Umajo) (b : Nat), u = s.um ∧ b = Base.umajo ∧ s.umUp = true ∧ fec = true ∧ (bits f.h1 63 32 ≠ umFlitCrc f ∨ bits f.h0 38 37 = 3 ∨ (bits f.h0 38 37 ≠ 0 ∧ bits f.h0 63 52 ≠ u.expect))) ∧
    (∃ (s : State) (f : UmFlit) (fec : Bool) (u : Umajo) (b : Nat) (n : _), u = s.um ∧ b = Base.umajo ∧ s.umUp = true ∧ fec = true ∧ bits f.h1 63 32 = umFlitCrc f ∧ bits f.h0 38 37 = 0 ∧ bit f.h0 39 = false ∧ n = (bits f.h0 51 40 + 4096 - u.acked) % 4096 ∧ n ≤ u.replay.length) ∧
    (∃ (s : State) (f : UmFlit) (fec : Bool) (u : Umajo) (b : Nat) (m : UmMsg) (bs : _) (n : _), u = s.um ∧ b = Base.umajo ∧ s.umUp = true ∧ fec = true ∧ bits f.h1 63 32 = umFlitCrc f ∧ bits f.h0 38 37 = 1 ∧ bits f.h0 63 52 = u.expect ∧ bit f.h0 39 = false ∧ u.rx = [] ∧ bs = bytesOf ((f.payload ++ List.replicate (128 - f.payload.length) 0).take 128) ∧ n = umLength ((wordsOf (bs.take 8)).getD 0 0) ∧ n ≤ bs.length ∧ (bs.drop n).all (· == 0) = true ∧ bs.all (· == 0) = false ∧ umCrcOk (bs.take n) = true ∧ m = umParse (bs.take n) ∧ (m.mtype = 5 ∨ m.mtype = 6) ∧ m.poisoned = false ∧ m.tagged = false) ∧
    (∃ (s : State) (u : Umajo) (b : Nat), u = s.um ∧ b = Base.umajo ∧ s.umUp = true ∧ u.replay ≠ []) ∧
    (∃ (s : State) (u : Umajo) (b : Nat), u = s.um ∧ b = Base.umajo ∧ s.umUp = true ∧ u.replay = []) ∧
    (∃ (s : State) (u : Umajo) (b : Nat) (m : UmMsg) (i : _) (x : _), u = s.um ∧ b = Base.umajo ∧ s.umUp = true ∧ s.slotOf m.mtag.toNat = some i ∧ x = s.slot i ∧ x.owner = .access ∧ u.rdWait = [] ∧ bits m.arg 63 56 = Status.ok) ∧
    (∃ (s : State) (u : Umajo) (b : Nat) (m : UmMsg) (i : _) (x : _), u = s.um ∧ b = Base.umajo ∧ s.umUp = true ∧ s.slotOf m.mtag.toNat = some i ∧ x = s.slot i ∧ x.owner = .access ∧ u.rdWait = [] ∧ bits m.arg 63 56 ≠ Status.ok) ∧
    (∃ (s : State) (u : Umajo) (b : Nat) (m : UmMsg), u = s.um ∧ b = Base.umajo ∧ s.umUp = true ∧ s.slotOf m.mtag.toNat = none) ∧
    (∃ (s : State) (u : Umajo) (b : Nat) (mtag : Half) (i : _), u = s.um ∧ b = Base.umajo ∧ s.umUp = true ∧ s.slotOf mtag.toNat = some i ∧ (s.slot i).told = false ∧ 1 < u.out.length) ∧
    (∃ (s : State) (u : Umajo) (b : Nat) (mtag : Half) (x : _) (k : _), u = s.um ∧ b = Base.umajo ∧ s.umUp = true ∧ s.slotOf mtag.toNat = none ∧ cget (fun _ => none) u.writes mtag.toNat = some (x, false, k) ∧ u.out.length = 3) ∧
    (∃ (s : State) (u : Umajo) (b : Nat) (mtag : Half) (x : _) (k : _), u = s.um ∧ b = Base.umajo ∧ s.umUp = true ∧ s.slotOf mtag.toNat = none ∧ cget (fun _ => none) u.writes mtag.toNat = some (x, true, k)) ∧
    (∃ (s : State) (u : Umajo) (b : Nat) (mtag : Half), u = s.um ∧ b = Base.umajo ∧ s.umUp = true ∧ s.slotOf mtag.toNat = none ∧ cget (fun _ => none) u.writes mtag.toNat = none) ∧
    (∃ (s : State) (u : Umajo) (b : Nat) (lane : Fin 16) (m : BitVec 16) (ok : _) (good : _), u = s.um ∧ b = Base.umajo ∧ (s.get b Reg.umState = 2 ∨ s.get b Reg.umState = 3) ∧ ok = s.get b Reg.umLaneOk ∧ ok.testBit lane.val = true ∧ good = (ok - 2 ^ lane.val) &&& m.toNat ∧ umWidthOf good ≠ 0) ∧
    (∃ (s : State) (u : Umajo) (b : Nat), u = s.um ∧ b = Base.umajo ∧ (s.get b Reg.umState = 2 ∨ s.get b Reg.umState = 3) ∧ (∀ i, i < 1024 → (s.slot i).busy = false) ∧ u.rdWait = []) ∧
    (∃ (s : State) (u : Umajo) (b : Nat), u = s.um ∧ b = Base.umajo ∧ s.get b Reg.umState < 2) ∧
    (∃ (s : State) (u : Umajo) (b : Nat), u = s.um ∧ b = Base.umajo ∧ s.get b Reg.umState = 0 ∧ s.devState = Dev.failed) ∧
    (∃ (s : State) (u : Umajo) (b : Nat), u = s.um ∧ b = Base.umajo ∧ (s.get b Reg.umState ≠ 0 ∨ s.devState ≠ Dev.failed)) :=
  ⟨by refine ⟨run, (run.um), (Base.umajo), ?_⟩; decide +kernel,
   by refine ⟨withUm hostUp { hostUp.um with resend := [umFlit0] }, ((withUm hostUp { hostUp.um with resend := [umFlit0] }).um), (Base.umajo), umFlit0, [], ?_⟩; decide +kernel,
   by refine ⟨hostUp, (hostUp.um), (Base.umajo), ?_⟩; decide +kernel,
   by refine ⟨withUm hostUp { hostUp.um with out := [[(0, um0)], [], []], credits := [4, 0, 0] }, ((withUm hostUp { hostUp.um with out := [[(0, um0)], [], []], credits := [4, 0, 0] }).um), (Base.umajo), um0, 0, ?_⟩; decide +kernel,
   ⟨hostUp, { umFlit0 with h0 := 0x6000000000 }, true, (hostUp.um), (Base.umajo), rfl, rfl, by decide +kernel, by decide +kernel, .inr (.inl (by decide +kernel))⟩,
   ⟨withUm hostUp { hostUp.um with replay := [umFlit0] }, umGood ack0, true, ((withUm hostUp { hostUp.um with replay := [umFlit0] }).um), (Base.umajo), ((bits (umGood ack0).h0 51 40 + 4096 - ((withUm hostUp { hostUp.um with replay := [umFlit0] }).um).acked) % 4096), rfl, rfl, by decide +kernel, by decide +kernel, umGood_crc (by decide +kernel), by decide +kernel, by decide +kernel, rfl, by decide +kernel⟩,
   ⟨hostUp, umGood data0, true, (hostUp.um), (Base.umajo), { um0 with mtype := 6 }, data0Bytes, 32, rfl, rfl, by decide +kernel, by decide +kernel, umGood_crc (f := data0) (by decide +kernel), by decide +kernel, by decide +kernel, by decide +kernel, by decide +kernel, by decide +kernel, by decide +kernel, by decide +kernel, by decide +kernel, by decide +kernel, by decide +kernel, by decide +kernel, by decide +kernel, by decide +kernel, by decide +kernel⟩,
   by refine ⟨withUm hostUp { hostUp.um with replay := [umFlit0] }, ((withUm hostUp { hostUp.um with replay := [umFlit0] }).um), (Base.umajo), ?_⟩; decide +kernel,
   by refine ⟨hostUp, (hostUp.um), (Base.umajo), ?_⟩; decide +kernel,
   by refine ⟨withUm hostUp { hostUp.um with slots := [(0, busy0)] }, ((withUm hostUp { hostUp.um with slots := [(0, busy0)] }).um), (Base.umajo), um0, 0, busy0, ?_⟩; decide +kernel,
   by refine ⟨withUm hostUp { hostUp.um with slots := [(0, busy0)] }, ((withUm hostUp { hostUp.um with slots := [(0, busy0)] }).um), (Base.umajo), { um0 with arg := word (Status.tierFail * 2 ^ 56) }, 0, busy0, ?_⟩; decide +kernel,
   by refine ⟨hostUp, (hostUp.um), (Base.umajo), um0, ?_⟩; decide +kernel,
   by refine ⟨withUm hostUp { hostUp.um with slots := [(0, busy0)] }, ((withUm hostUp { hostUp.um with slots := [(0, busy0)] }).um), (Base.umajo), 0, 0, ?_⟩; decide +kernel,
   by refine ⟨withUm hostUp { hostUp.um with writes := [(1, some (um0, false, 0))] }, ((withUm hostUp { hostUp.um with writes := [(1, some (um0, false, 0))] }).um), (Base.umajo), 1, um0, 0, ?_⟩; decide +kernel,
   by refine ⟨withUm hostUp { hostUp.um with writes := [(1, some (um0, true, 0))] }, ((withUm hostUp { hostUp.um with writes := [(1, some (um0, true, 0))] }).um), (Base.umajo), 1, um0, 0, ?_⟩; decide +kernel,
   by refine ⟨hostUp, (hostUp.um), (Base.umajo), 1, ?_⟩; decide +kernel,
   by refine ⟨sets hostUp [(Base.umajo, Reg.umLaneOk, 0xFFFF, 0)], ((sets hostUp [(Base.umajo, Reg.umLaneOk, 0xFFFF, 0)]).um), (Base.umajo), 15, 0xFFFF, ((sets hostUp [(Base.umajo, Reg.umLaneOk, 0xFFFF, 0)]).get (Base.umajo) Reg.umLaneOk), ((((sets hostUp [(Base.umajo, Reg.umLaneOk, 0xFFFF, 0)]).get (Base.umajo) Reg.umLaneOk) - 2 ^ (15 : Fin 16).val) &&& (0xFFFF : BitVec 16).toNat), ?_⟩; decide +kernel,
   ⟨hostUp, (hostUp.um), (Base.umajo), rfl, rfl, by decide +kernel, fun _ _ => rfl, by decide +kernel⟩,
   by refine ⟨run, (run.um), (Base.umajo), ?_⟩; decide +kernel,
   by refine ⟨inState Dev.failed, ((inState Dev.failed).um), (Base.umajo), ?_⟩; decide +kernel,
   by refine ⟨run, (run.um), (Base.umajo), ?_⟩; decide +kernel⟩

theorem test_witness_AccessSize :
    (∃ (s : State) (addr : Addr) (bytes : Nat), s.awake = true ∧ 0x300000000000 ≤ addr.toNat ∧ addr.toNat < 0x300020000000 ∧ (bytes ≠ 8 ∨ addr.toNat % 8 ≠ 0)) ∧
    (∃ (s : State) (p : Port) (addr : Addr) (bytes : Nat) (hw : Word) (t : _), s.awake = true ∧ exec (.csrReadClear p addr bytes hw) s = .next t ∧ t.answer.status = BitVec.ofNat 8 Status.denied) :=
  ⟨by refine ⟨run, 0x30001FFFFFFC, 8, ?_⟩; decide +kernel,
   ⟨run, .control 0, 0x300000000000, 4, 0, { run with answer := ⟨BitVec.ofNat 8 Status.denied, 0, []⟩ }, by decide +kernel, rfl, by decide +kernel⟩⟩

theorem test_witness_AccessTarget :
    (∃ (s : State) (addr : Addr) (a : Nat), s.awake = true ∧ addr.toNat = 0x300000000000 + a ∧ a < 0x20000000 ∧ (fieldsAt a = [] ∨ (8 ≤ a / 0x1000000 ∧ a / 0x1000000 < 0x10) ∨ (0x12 ≤ a / 0x1000000 ∧ a / 0x1000000 < 0x1F) ∨ (0x1115 ≤ a / 0x10000 ∧ a / 0x10000 ≤ 0x1117))) :=
  by refine ⟨run, 0x300008000000, 0x8000000, ?_⟩; decide +kernel
/-- The same 32 bytes in a list whose length needs no work to see. -/
def frozen (l : List Byte) : List Byte := (List.range 32).map fun n => l.getD n 0

theorem frozen_eq {l : List Byte} (h : l.length = 32) : frozen l = l := by
 apply List.ext_getElem
 · simp [frozen, h]
 · intro n h1 h2; simp [frozen, h2]

def zeros (n : Nat) : List Byte := List.replicate n 0

/-- An HSS signature of one level by leaf `q` of a tree of height 5, its hash chains' ends and path zero but for the
leaf's sibling. -/
def sigBody (q : Nat) (sib : List Byte) : List Byte :=
 beBytes 4 q ++ (beBytes 4 4 ++ (zeros 32 ++ (zeros 1088 ++ (beBytes 4 5 ++ (sib ++ zeros 128)))))

def sigOf (q : Nat) (sib : List Byte) : List Byte := beBytes 4 0 ++ sigBody q sib

def keyOf (root : List Byte) : List Byte := beBytes 4 1 ++ (beBytes 4 5 ++ (beBytes 4 4 ++ (zeros 16 ++ root)))

def otsOf (q : Nat) (msg : List Byte) : List Byte :=
 (otsCandidate (zeros 16) q 4 (zeros 32) (chunks 32 34 (zeros 1088)) msg).getD []

def leafOf (q : Nat) (msg : List Byte) : List Byte :=
 sha256 (zeros 16 ++ beBytes 4 (2 ^ 5 + q) ++ beBytes 2 0x8282 ++ otsOf q msg)

def pathOf (sib : List Byte) : List (List Byte) := [sib, zeros 32, zeros 32, zeros 32, zeros 32]

/-- The root to which that signature of a message leads: the key is made for it. -/
def rootOf (q : Nat) (sib msg : List Byte) : List Byte := lmsRoot (zeros 16) (pathOf sib) (2 ^ 5 + q) (leafOf q msg)

theorem beBytes_length (k n : Nat) : (beBytes k n).length = k := by simp [beBytes, leBytes_length]

theorem rootOf_length (q : Nat) (sib msg : List Byte) : (rootOf q sib msg).length = 32 := sha256_length _

theorem zeros_length (n : Nat) : (zeros n).length = n := by simp [zeros]

theorem sigBody_parts (q : Nat) {sib : List Byte} (h : sib.length = 32) :
   (sigBody q sib).take 4 = beBytes 4 q ∧ ((sigBody q sib).drop 4).take 4 = beBytes 4 4 ∧
     ((sigBody q sib).drop 8).take 32 = zeros 32 ∧ ((sigBody q sib).drop 40).take (32 * 34) = zeros 1088 ∧
     (sigBody q sib).drop (40 + 32 * 34) = beBytes 4 5 ++ (sib ++ zeros 128) ∧ (sigBody q sib).length = 1292 := by
 have d4 : (sigBody q sib).drop 4 = beBytes 4 4 ++ (zeros 32 ++ (zeros 1088 ++ (beBytes 4 5 ++ (sib ++ zeros 128)))) := List.drop_left' (beBytes_length 4 q)
 have d8 : (sigBody q sib).drop (4 + 4) = zeros 32 ++ (zeros 1088 ++ (beBytes 4 5 ++ (sib ++ zeros 128))) := by
   rw [← List.drop_drop, d4]; exact List.drop_left' (beBytes_length 4 4)
 have d40 : (sigBody q sib).drop (4 + 4 + 32) = zeros 1088 ++ (beBytes 4 5 ++ (sib ++ zeros 128)) := by
   rw [← List.drop_drop, d8]; exact List.drop_left' (zeros_length 32)
 have d1128 : (sigBody q sib).drop (4 + 4 + 32 + 1088) = beBytes 4 5 ++ (sib ++ zeros 128) := by
   rw [← List.drop_drop, d40]; exact List.drop_left' (zeros_length 1088)
 refine ⟨List.take_left' (beBytes_length 4 q), ?_, ?_, ?_, d1128, ?_⟩
 · rw [d4]; exact List.take_left' (beBytes_length 4 4)
 · rw [show (8 : Nat) = 4 + 4 from rfl, d8]; exact List.take_left' (zeros_length 32)
 · rw [show (40 : Nat) = 4 + 4 + 32 from rfl, d40]; exact List.take_left' (zeros_length 1088)
 · simp only [sigBody, List.length_append, beBytes_length, zeros_length, h]

theorem path_parts {sib : List Byte} (h : sib.length = 32) :
   chunks 32 5 (((beBytes 4 5 ++ (sib ++ zeros 128)).drop 4).take (32 * 5)) = pathOf sib := by
 have e : (beBytes 4 5 ++ (sib ++ zeros 128)).drop 4 = sib ++ zeros 128 := List.drop_left' (beBytes_length 4 5)
 have t : (sib ++ zeros 128).take (32 * 5) = sib ++ zeros 128 :=
   List.take_of_length_le (by simp only [List.length_append, zeros_length, h]; decide)
 rw [e, t]
 match sib, h with
 | x :: l, h =>
   have a : chunks 32 5 (x :: l ++ zeros 128) = (x :: l ++ zeros 128).take 32 :: chunks 32 4 ((x :: l ++ zeros 128).drop 32) := rfl
   rw [a, List.take_left' h, List.drop_left' h]; rfl

theorem otsCandidate_some (i : List Byte) (q : Nat) (c : List Byte) (ys : List (List Byte)) (msg : List Byte) :
   (otsCandidate i q 4 c ys msg).isSome = true := by
 unfold otsCandidate otsParams; rfl

theorem otsOf_some (q : Nat) (msg : List Byte) :
   otsCandidate (zeros 16) q 4 (zeros 32) (chunks 32 34 (zeros 1088)) msg = some (otsOf q msg) := by
 unfold otsOf
 generalize chunks 32 34 (zeros 1088) = ys
 obtain ⟨x, hx⟩ := Option.isSome_iff_exists.mp (otsCandidate_some (zeros 16) q (zeros 32) ys msg)
 rw [hx]; rfl

theorem verify_made {q : Nat} (hq : q < 32) {sib msg : List Byte} (h : sib.length = 32) :
   hssVerifyKey (keyOf (rootOf q sib msg)) (sigOf q sib) msg = true := by
 obtain ⟨h1, h2, h3, h4, h5, h6⟩ := sigBody_parts q h
 have hp := path_parts h
 generalize hr : rootOf q sib msg = root
 have hl : root.length = 32 := by rw [← hr]; exact rootOf_length q sib msg
 have k4 : (keyOf root).take 4 = beBytes 4 1 := rfl
 have kd : (keyOf root).drop 4 = beBytes 4 5 ++ (beBytes 4 4 ++ (zeros 16 ++ root)) := rfl
 have sd : (sigOf q sib).drop 4 = sigBody q sib := rfl
 have s4 : (sigOf q sib).take 4 = beBytes 4 0 := rfl
 have sl : (sigOf q sib).length = 1296 := by simp only [sigOf, List.length_append, beBytes_length, h6]
 have nq : beNat (beBytes 4 q) = q := by
   have : ∀ q, q < 32 → beNat (beBytes 4 q) = q := by decide
   exact this q hq
 unfold hssVerifyKey hssVerify
 rw [k4, kd, sd, s4, sl, show beNat (beBytes 4 1) = 1 from rfl, show beNat (beBytes 4 0) = 0 from rfl]
 show (true && hssLevels 0 _ (sigBody q sib) msg) = true
 rw [Bool.true_and]
 unfold hssLevels
 have v : lmsVerify (beBytes 4 5 ++ (beBytes 4 4 ++ (zeros 16 ++ root))) (sigBody q sib) (fun _ => msg) = some [] := by
   generalize hpub : beBytes 4 5 ++ (beBytes 4 4 ++ (zeros 16 ++ root)) = pub
   have p4 : pub.take 4 = beBytes 4 5 := by rw [← hpub]; rfl
   have p8 : (pub.drop 4).take 4 = beBytes 4 4 := by rw [← hpub]; rfl
   have p24 : (pub.drop 8).take 16 = zeros 16 := by rw [← hpub]; rfl
   have pr : pub.drop 24 = root := by rw [← hpub]; rfl
   have pl : pub.length = 56 := by
     rw [← hpub]; simp only [List.length_append, beBytes_length, zeros_length, hl]
   unfold lmsVerify
   simp only [p4, p8, p24, pr, show beNat (beBytes 4 5) = 5 from rfl, show beNat (beBytes 4 4) = 4 from rfl,
     show lmsHeight 5 = some 5 from rfl, show otsParams 4 = some (8, 34, 0) from rfl]
   rw [h5, hp, h4, h3, h2, h1, h6, pl, nq]
   have x5 : (beBytes 4 5 ++ (sib ++ zeros 128)).take 4 = beBytes 4 5 := List.take_left' (beBytes_length 4 5)
   have xr : (beBytes 4 5 ++ (sib ++ zeros 128)).drop (4 + 32 * 5) = [] :=
     List.drop_eq_nil_of_le (by simp only [List.length_append, beBytes_length, zeros_length, h]; decide)
   rw [x5, xr, show beNat (beBytes 4 5) = 5 from rfl, show beNat (beBytes 4 4) = 4 from rfl]
   rw [if_neg (by omega)]
   rw [otsOf_some]
   exact if_pos hr
 rw [v]; rfl
theorem leafOf_length (q : Nat) (m : List Byte) : (leafOf q m).length = 32 := sha256_length _

theorem rootOf_pair (m0 m1 : List Byte) :
   rootOf 1 (frozen (leafOf 0 m0)) m1 = rootOf 0 (frozen (leafOf 1 m1)) m0 := by
 rw [frozen_eq (leafOf_length 0 m0), frozen_eq (leafOf_length 1 m1)]
 have a : ∀ (i x p : List Byte) (ps : List (List Byte)),
     lmsRoot i (p :: ps) 32 x = lmsRoot i ps 16 (sha256 (i ++ beBytes 4 16 ++ beBytes 2 0x8383 ++ x ++ p)) := fun _ _ _ _ => rfl
 have b : ∀ (i x p : List Byte) (ps : List (List Byte)),
     lmsRoot i (p :: ps) 33 x = lmsRoot i ps 16 (sha256 (i ++ beBytes 4 16 ++ beBytes 2 0x8383 ++ p ++ x)) := fun _ _ _ _ => rfl
 unfold rootOf pathOf
 rw [show 2 ^ 5 + 1 = 33 from rfl, show 2 ^ 5 + 0 = 32 from rfl, a, b]

def payload0 : List Byte := [1, 2, 3, 4]

/-- A unit map record of a compute die, spares at two places of the grid. -/
def dieRecord : List Byte := zeros 32 ++ leBytes 8 0x0100 ++ zeros 24

def unsigned0 : Provenance :=
 { dies := List.replicate 8 dieRecord ++ List.replicate 3 (zeros 64), serial := 5, attKey := [], seed := [],
   seedDigest := sha256 [], signature := [], journal := [[], [], [], []], sector := 0 }

def msgProv : List Byte := provSigned unsigned0

def msgFirm : List Byte := sha256 payload0

/-- The root key under which both signatures verify. -/
def key0 : List Byte := keyOf (rootOf 0 (frozen (leafOf 1 msgFirm)) msgProv)

def signed0 : Provenance := { unsigned0 with signature := sigOf 0 (frozen (leafOf 1 msgFirm)) }

/-- The same bytes, all of them in the first die's record. -/
def signed1 : Provenance := { signed0 with dies := [unsigned0.dies.flatten] }

theorem frozen_length (l : List Byte) : (frozen l).length = 32 := by simp [frozen]

theorem prov_ok : provOk key0 signed0 = true := by
 have h : hssVerifyKey key0 signed0.signature (provSigned signed0) = true :=
   verify_made (by decide) (frozen_length _)
 unfold provOk; rw [h]
 show (true && (sha256 [] == sha256 [])) = true
 rw [beq_self_eq_true]; rfl

theorem prov_ok1 : provOk key0 signed1 = true := by
 have e : provSigned signed1 = provSigned signed0 := by
   unfold provSigned
   rw [show signed1.dies.flatten = signed0.dies.flatten from List.append_nil _]; rfl
 have h := prov_ok
 unfold provOk at h ⊢
 rw [e]; exact h

/-! A configuration image around a fabric map, a policy and a clock section. -/

def firmware0 : List Byte :=
 (leBytes 4 1 ++ (leBytes 4 0 ++ (leBytes 4 4 ++ (leBytes 4 1296 ++ zeros 48)))) ++
   (sigOf 1 (frozen (leafOf 0 msgProv)) ++ (payload0 ++ []))

def dataOf (m pol clk : List Byte) : List Byte := firmware0 ++ (m ++ (zeros 640 ++ (pol ++ clk)))

def entryOf (ty off len : Nat) : List Byte := leBytes 4 ty ++ (zeros 4 ++ (leBytes 8 off ++ (leBytes 8 len ++ zeros 8)))

def tableOf (m pol clk : List Byte) : List Byte :=
 let o := 1364 + m.length
 entryOf 1 0 1364 ++ (entryOf 2 1364 m.length ++ (entryOf 3 o 640 ++ (entryOf 4 (o + 640) pol.length ++
   (entryOf 5 (o + 640 + pol.length) clk.length ++ entryOf 6 (o + 640 + pol.length + clk.length) 0))))

def front0 (m pol clk : List Byte) : List Byte :=
 ascii [0x46, 0x4A, 0x56, 0x49, 0x4D, 0x41, 0x47, 0x45] ++ (leBytes 2 1 ++ (leBytes 2 0 ++ (leBytes 4 1 ++ (zeros 8 ++
   (leBytes 4 (4096 + (1364 + m.length + 640 + pol.length + clk.length)) ++ (leBytes 4 4096 ++ (leBytes 4 1 ++ leBytes 4 0)))))))

def fabricDigestOf (m : List Byte) : List Byte := frozen (sha256 (m.drop 16))

def tailOf (m pol clk : List Byte) : List Byte :=
 zeros 152 ++ (tableOf m pol clk ++ (zeros 64 ++ (frozen (sha256 (dataOf m pol clk)) ++ (zeros 3552 ++ dataOf m pol clk))))

def headDigestOf (m pol clk : List Byte) : List Byte :=
 frozen (sha256 ((front0 m pol clk ++ fabricDigestOf m) ++ List.replicate 32 0 ++ (tailOf m pol clk).take 3992))

def madeImage (m pol clk : List Byte) : List Byte :=
 front0 m pol clk ++ (fabricDigestOf m ++ (headDigestOf m pol clk ++ tailOf m pol clk))

theorem sub_at {a d b : List Byte} {o n : Nat} (ha : a.length = o) (hd : d.length = n) : sub (a ++ (d ++ b)) o n = d := by
 unfold sub; rw [List.drop_left' ha, List.take_left' hd]

theorem entryOf_length (a b c : Nat) : (entryOf a b c).length = 32 := by
 simp only [entryOf, List.length_append, leBytes_length, zeros_length]

theorem front0_length (m pol clk : List Byte) : (front0 m pol clk).length = 40 := by
 simp only [front0, ascii, List.length_append, List.length_map, leBytes_length, zeros_length]; rfl

theorem tableOf_length (m pol clk : List Byte) : (tableOf m pol clk).length = 192 := by
 simp only [tableOf, List.length_append, entryOf_length]

theorem sigOf_length (q : Nat) (l : List Byte) : (sigOf q (frozen l)).length = 1296 := by
 simp only [sigOf, sigBody, List.length_append, beBytes_length, zeros_length, frozen_length]

theorem firmware0_length : firmware0.length = 1364 := by
 simp only [firmware0, List.length_append, leBytes_length, zeros_length, sigOf_length]; rfl

theorem dataOf_length (m pol clk : List Byte) : (dataOf m pol clk).length = 1364 + m.length + 640 + pol.length + clk.length := by
 simp only [dataOf, List.length_append, firmware0_length, zeros_length]; omega

theorem image_head (m pol clk : List Byte) : sub (madeImage m pol clk) 0 72 = front0 m pol clk ++ fabricDigestOf m := by
 have l : (front0 m pol clk ++ fabricDigestOf m).length = 72 := by
   rw [List.length_append, front0_length, show (fabricDigestOf m).length = 32 from frozen_length _]
 unfold sub madeImage
 rw [List.drop_zero, ← List.append_assoc, List.take_left' l]

theorem image_fabric (m pol clk : List Byte) : sub (madeImage m pol clk) 40 32 = fabricDigestOf m :=
 sub_at (front0_length m pol clk) (frozen_length _)

theorem image_digest (m pol clk : List Byte) : sub (madeImage m pol clk) 72 32 = headDigestOf m pol clk := by
 have e : madeImage m pol clk = (front0 m pol clk ++ fabricDigestOf m) ++ (headDigestOf m pol clk ++ tailOf m pol clk) := by
   simp only [madeImage, List.append_assoc]
 rw [e]; exact sub_at (by simp only [List.length_append, front0_length, fabricDigestOf, frozen_length]) (frozen_length _)

theorem image_tail (m pol clk : List Byte) : sub (madeImage m pol clk) 104 3992 = (tailOf m pol clk).take 3992 := by
 have e : madeImage m pol clk = (front0 m pol clk ++ (fabricDigestOf m ++ headDigestOf m pol clk)) ++ tailOf m pol clk := by
   simp only [madeImage, List.append_assoc]
 unfold sub
 rw [e, List.drop_left' (by
   simp only [List.length_append, front0_length, fabricDigestOf, headDigestOf, frozen_length])]

theorem image_segment (m pol clk : List Byte) :
   sub (madeImage m pol clk) 512 32 = frozen (sha256 (dataOf m pol clk)) := by
 have e : madeImage m pol clk = (front0 m pol clk ++ (fabricDigestOf m ++ (headDigestOf m pol clk ++ (zeros 152 ++
     (tableOf m pol clk ++ zeros 64))))) ++ (frozen (sha256 (dataOf m pol clk)) ++ (zeros 3552 ++ dataOf m pol clk)) := by
   simp only [madeImage, tailOf, List.append_assoc]
 rw [e]; exact sub_at (by
   simp only [List.length_append, front0_length, fabricDigestOf, headDigestOf, frozen_length, zeros_length, tableOf_length])
   (frozen_length _)

theorem image_data (m pol clk : List Byte) {n : Nat} (h : (dataOf m pol clk).length = n) :
   sub (madeImage m pol clk) 4096 n = dataOf m pol clk := by
 have e : madeImage m pol clk = (front0 m pol clk ++ (fabricDigestOf m ++ (headDigestOf m pol clk ++ (zeros 152 ++
     (tableOf m pol clk ++ (zeros 64 ++ (frozen (sha256 (dataOf m pol clk)) ++ zeros 3552))))))) ++ (dataOf m pol clk ++ []) := by
   simp only [madeImage, tailOf, List.append_assoc, List.append_nil]
 rw [e]; exact sub_at (by
   simp only [List.length_append, front0_length, fabricDigestOf, headDigestOf, frozen_length, zeros_length, tableOf_length]) h

theorem image_firmware (m pol clk : List Byte) : sub (madeImage m pol clk) 4096 1364 = firmware0 := by
 have e : madeImage m pol clk = (front0 m pol clk ++ (fabricDigestOf m ++ (headDigestOf m pol clk ++ (zeros 152 ++
     (tableOf m pol clk ++ (zeros 64 ++ (frozen (sha256 (dataOf m pol clk)) ++ zeros 3552))))))) ++
     (firmware0 ++ (m ++ (zeros 640 ++ (pol ++ clk)))) := by
   simp only [madeImage, tailOf, dataOf, List.append_assoc]
 rw [e]; exact sub_at (by
   simp only [List.length_append, front0_length, fabricDigestOf, headDigestOf, frozen_length, zeros_length, tableOf_length])
   firmware0_length

theorem image_map (m pol clk : List Byte) : sub (madeImage m pol clk) 5460 m.length = m := by
 have e : madeImage m pol clk = (front0 m pol clk ++ (fabricDigestOf m ++ (headDigestOf m pol clk ++ (zeros 152 ++
     (tableOf m pol clk ++ (zeros 64 ++ (frozen (sha256 (dataOf m pol clk)) ++ (zeros 3552 ++ firmware0)))))))) ++
     (m ++ (zeros 640 ++ (pol ++ clk))) := by
   simp only [madeImage, tailOf, dataOf, List.append_assoc]
 rw [e]; exact sub_at (by
   simp only [List.length_append, front0_length, fabricDigestOf, headDigestOf, frozen_length, zeros_length, tableOf_length,
     firmware0_length]) rfl

/-- What is left to see of one image: nothing of it needs a digest. -/
def plainOk (m pol clk : List Byte) (slot : Nat) : Bool :=
 let img := madeImage m pol clk
 headerOk img slot && sectionsOk img && policyOk (sectionBytes img 4) && clocksOk (sectionBytes img 5) &&
   secOf img 1 == some (4096, 1364) && secOf img 2 == some (5460, m.length) &&
   leAt img 24 4 == 4096 + (1364 + m.length + 640 + pol.length + clk.length) && leAt img 28 4 == 4096 && leAt img 32 4 == 1 &&
   decide (1364 + m.length + 640 + pol.length + clk.length ≤ 2 ^ 20)

theorem firmware_ok {img : List Byte} (h : sectionBytes img 1 = firmware0) : firmwareOk key0 img = true := by
 have a : leAt firmware0 8 4 = 4 := by decide +kernel
 have b : leAt firmware0 12 4 = 1296 := by decide +kernel
 have c : sub firmware0 64 1296 = sigOf 1 (frozen (leafOf 0 msgProv)) := sub_at rfl (sigOf_length 1 _)
 have d : sub firmware0 (64 + 1296) 4 = payload0 := by
   have e : firmware0 = (leBytes 4 1 ++ (leBytes 4 0 ++ (leBytes 4 4 ++ (leBytes 4 1296 ++ (zeros 48 ++
       sigOf 1 (frozen (leafOf 0 msgProv))))))) ++ (payload0 ++ []) := by
     simp only [firmware0, List.append_assoc]
   rw [e]; exact sub_at (by simp only [List.length_append, leBytes_length, zeros_length, sigOf_length]) rfl
 have v : hssVerifyKey key0 (sigOf 1 (frozen (leafOf 0 msgProv))) (sha256 payload0) = true := by
   have := verify_made (q := 1) (by decide) (sib := frozen (leafOf 0 msgProv)) (msg := msgFirm) (frozen_length _)
   rw [rootOf_pair] at this
   exact this
 unfold firmwareOk
 simp only [h, a, b, c, d, v, firmware0_length]; rfl

theorem image_ok {m pol clk : List Byte} {slot : Nat} (h : plainOk m pol clk slot = true) :
   imageOk key0 (madeImage m pol clk) slot = true := by
 simp only [plainOk, Bool.and_eq_true, beq_iff_eq, decide_eq_true_eq] at h
 obtain ⟨⟨⟨⟨⟨⟨⟨⟨⟨hh, hs⟩, hp⟩, hc⟩, s1⟩, s2⟩, n⟩, o⟩, g⟩, lt⟩ := h
 have f1 : sectionBytes (madeImage m pol clk) 1 = firmware0 := by
   unfold sectionBytes; rw [s1]; exact image_firmware m pol clk
 have f2 : sectionBytes (madeImage m pol clk) 2 = m := by
   unfold sectionBytes; rw [s2]; exact image_map m pol clk
 have dg : digestsOk (madeImage m pol clk) = true := by
   unfold digestsOk
   simp only [n, o, g, f2]
   rw [show 4096 - 104 = 3992 from rfl, image_head, image_tail, image_digest, image_fabric]
   have x : headDigestOf m pol clk = sha256 ((front0 m pol clk ++ fabricDigestOf m) ++ List.replicate 32 0 ++
       (tailOf m pol clk).take 3992) := frozen_eq (sha256_length _)
   have y : fabricDigestOf m = sha256 (m.drop 16) := frozen_eq (sha256_length _)
   rw [← x, ← y, beq_self_eq_true, beq_self_eq_true, Bool.true_and, Bool.true_and]
   have z : ∀ p : Nat → Bool, p 0 = true → (List.range 1).all p = true := by
     intro p hp; simp [List.range, List.range.loop, hp]
   apply z
   have k : min (2 ^ 20) (4096 + (1364 + m.length + 640 + pol.length + clk.length) - (4096 + 0 * 2 ^ 20)) =
       1364 + m.length + 640 + pol.length + clk.length := by omega
   rw [k, show 4096 + 0 * 2 ^ 20 = 4096 from rfl, show 512 + 32 * 0 = 512 from rfl, image_segment,
     image_data m pol clk (dataOf_length m pol clk), frozen_eq (sha256_length _), beq_self_eq_true]
 unfold imageOk
 rw [hh, hs, dg, firmware_ok f1, hp, hc]; rfl

/-- A map of `n` devices in a row, each on links 0 and 1 of its neighbours, 400 cycles apart. -/
def mapOf (dev : Nat) (recs : List (List Nat)) : List Byte :=
 leBytes 2 dev ++ leBytes 2 recs.length ++ zeros 12 ++
   recs.flatMap fun r => leBytes 4 (r.getD 0 0) ++ leBytes 4 (r.getD 1 0) ++ leBytes 4 (r.getD 2 0) ++ leBytes 4 (r.getD 3 0) ++ zeros 88

def policySec (us : Nat) : List Byte := leBytes 1 us ++ leBytes 1 2 ++ zeros 2 ++ leBytes 2 1 ++ leBytes 2 1 ++ zeros 56

def clockSec (a f c d : Nat) : List Byte :=
 leBytes 2 a ++ leBytes 2 f ++ leBytes 2 c ++ leBytes 2 d ++ leBytes 1 0 ++ leBytes 1 30 ++ zeros 6

def atReset (p : Provenance) (m pol clk : List Byte) : State :=
 { chip with
   boot := { rootKey := key0, prov := p, flash := { dir0 := [], dir1 := [], slot0 := madeImage m pol clk, slot1 := [], mib := 64 },
             image := none, treeReady := false }
   ddr := [{ present := true, gib := 64, mts := 8800, mrdimm := true, ecc := true, x4 := true, count := 1 }] }

theorem choose_made {m pol clk : List Byte} (h : plainOk m pol clk 33488896 = true) (p : Provenance) :
   flashChoose key0 (atReset p m pol clk).boot.flash = some (0, false) := by
 have ok : flashSlotOk key0 (atReset p m pol clk).boot.flash 0 = true := by
   unfold flashSlotOk
   rw [show flashSlot (atReset p m pol clk).boot.flash 0 = madeImage m pol clk from rfl,
     show flashSlotBytes (atReset p m pol clk).boot.flash = 33488896 from by
       show (64 * 2 ^ 20 - 0x20000) / 2 = 33488896; decide]
   exact image_ok h
 unfold flashChoose
 rw [show flashPref (atReset p m pol clk).boot.flash = 0 from rfl]
 simp only [ok]; rfl

def goodClocks : List Byte := clockSec 800 1000 1000 8800

/-- One device alone; the same called device 5; five devices in a row with 400 cycles between neighbours. -/
def alone : List Byte := mapOf 0 [[0, 0x041041, 0, 0]]

def stray : List Byte := mapOf 5 [[0, 0x041041, 0, 0]]

def row5 : List Byte :=
 mapOf 0 ((List.range 5).map fun d =>
   [d, 0x041045, if d < 4 then 0x80000000 + (d + 1) * 2 ^ 18 + 2 ^ 13 + 400 * 16 else 0,
     if 0 < d then 0x80000000 + (d - 1) * 2 ^ 18 + 400 * 16 else 0])

theorem plain_alone : plainOk alone (policySec 8) goodClocks 33488896 = true := by decide +kernel
theorem plain_stray : plainOk stray (policySec 8) goodClocks 33488896 = true := by decide +kernel
theorem plain_fast : plainOk alone (policySec 8) (clockSec 1000 1000 1000 8800) 33488896 = true := by decide +kernel
theorem plain_row : plainOk row5 (policySec 8) goodClocks 33488896 = true := by decide +kernel

def found0 : SelfTest := { ddrFail := 0, katFail := [], imageMs := 1, katMs := 1 }

/-- Every DDR channel fails its test. -/
def noDdr : SelfTest := { found0 with ddrFail := 0xFFFFFFFF }

def updating : State :=
 let s := sets asked [(Base.boot, Reg.updBytes, 6300, 0)]
 { s with boot := { (atReset signed0 [] [] []).boot with image := some im1 } }

theorem test_witness_StartUpSequence :
    (∃ (s : State), s.devState = Dev.reset ∧ provOk s.boot.rootKey s.boot.prov = false) ∧
    (∃ (s : State), s.devState = Dev.reset ∧ provOk s.boot.rootKey s.boot.prov = true ∧ provMapOk s.boot.prov = false) ∧
    (∃ (s : State), s.devState = Dev.reset ∧ provOk s.boot.rootKey s.boot.prov = true ∧ provMapOk s.boot.prov = true ∧ flashChoose s.boot.rootKey s.boot.flash = none) ∧
    (∃ (s : State) (slot : _) (fb : _) (im : _), s.devState = Dev.reset ∧ provOk s.boot.rootKey s.boot.prov = true ∧ provMapOk s.boot.prov = true ∧ flashChoose s.boot.rootKey s.boot.flash = some (slot, fb) ∧ imageOf (flashSlot s.boot.flash slot) = im ∧ fabricOk im.devNum im.fabric = false) ∧
    (∃ (s : State) (slot : _) (fb : _) (im : _), s.devState = Dev.reset ∧ provOk s.boot.rootKey s.boot.prov = true ∧ provMapOk s.boot.prov = true ∧ flashChoose s.boot.rootKey s.boot.flash = some (slot, fb) ∧ imageOf (flashSlot s.boot.flash slot) = im ∧ fabricOk im.devNum im.fabric = true ∧ imgClocksInLimits im = false) ∧
    (∃ (s : State) (slot : _) (fb : _) (im : _), s.devState = Dev.reset ∧ provOk s.boot.rootKey s.boot.prov = true ∧ provMapOk s.boot.prov = true ∧ flashChoose s.boot.rootKey s.boot.flash = some (slot, fb) ∧ imageOf (flashSlot s.boot.flash slot) = im ∧ fabricOk im.devNum im.fabric = true ∧ imgClocksInLimits im = true ∧ im.strokeUs * 1000 < 4 * floodTime (fabricHops im.fabric) (fabricFlight im.fabric)) ∧
    (∃ (s : State) (found : SelfTest) (slot : _) (fb : _) (im : _), s.devState = Dev.reset ∧ provOk s.boot.rootKey s.boot.prov = true ∧ provMapOk s.boot.prov = true ∧ flashChoose s.boot.rootKey s.boot.flash = some (slot, fb) ∧ imageOf (flashSlot s.boot.flash slot) = im ∧ fabricOk im.devNum im.fabric = true ∧ imgClocksInLimits im = true ∧ 4 * floodTime (fabricHops im.fabric) (fabricFlight im.fabric) ≤ im.strokeUs * 1000 ∧ (∀ c, c < 32 → s.get (Base.ddr c) Reg.ddrState ≠ 2 ∧ s.ddrUsable im found.ddrFail.toNat c = false)) ∧
    (∃ (s : State) (found : SelfTest) (slot : _) (fb : _) (im : _), s.devState = Dev.reset ∧ provOk s.boot.rootKey s.boot.prov = true ∧ provMapOk s.boot.prov = true ∧ flashChoose s.boot.rootKey s.boot.flash = some (slot, fb) ∧ imageOf (flashSlot s.boot.flash slot) = im ∧ fabricOk im.devNum im.fabric = true ∧ imgClocksInLimits im = true ∧ 4 * floodTime (fabricHops im.fabric) (fabricFlight im.fabric) ≤ im.strokeUs * 1000 ∧ (∃ c, c < 32 ∧ s.ddrUsable im found.ddrFail.toNat c = true) ∧ found.katFail = [] ∧ s.faults.toFence = []) ∧
    (∃ (s : State), s.devState ≠ Dev.reset ∧ (s.devState ≠ Dev.off ∨ s.pins.railsOk = false ∨ s.pins.resetN = false) ∧ s.pins.jtag ≠ .extest) :=
  ⟨by refine ⟨chip, ?_⟩; decide +kernel,
   ⟨atReset signed1 alone (policySec 8) goodClocks, by decide +kernel, prov_ok1, by decide +kernel⟩,
   ⟨{ atReset signed0 [] [] [] with boot := { (atReset signed0 [] [] []).boot with flash := chip.boot.flash } }, by decide +kernel, prov_ok, by decide +kernel, by decide +kernel⟩,
   ⟨atReset signed0 stray (policySec 8) goodClocks, 0, false, (imageOf (flashSlot (atReset signed0 stray (policySec 8) goodClocks).boot.flash 0)), by decide +kernel, prov_ok, by decide +kernel, choose_made plain_stray signed0, rfl, by decide +kernel⟩,
   ⟨atReset signed0 alone (policySec 8) (clockSec 1000 1000 1000 8800), 0, false, (imageOf (flashSlot (atReset signed0 alone (policySec 8) (clockSec 1000 1000 1000 8800)).boot.flash 0)), by decide +kernel, prov_ok, by decide +kernel, choose_made plain_fast signed0, rfl, by decide +kernel, by decide +kernel⟩,
   ⟨atReset signed0 row5 (policySec 8) goodClocks, 0, false, (imageOf (flashSlot (atReset signed0 row5 (policySec 8) goodClocks).boot.flash 0)), by decide +kernel, prov_ok, by decide +kernel, choose_made plain_row signed0, rfl, by decide +kernel, by decide +kernel, by decide +kernel⟩,
   ⟨atReset signed0 alone (policySec 8) goodClocks, noDdr, 0, false, (imageOf (flashSlot (atReset signed0 alone (policySec 8) goodClocks).boot.flash 0)), by decide +kernel, prov_ok, by decide +kernel, choose_made plain_alone signed0, rfl, by decide +kernel, by decide +kernel, by decide +kernel, by decide +kernel⟩,
   ⟨atReset signed0 alone (policySec 8) goodClocks, found0, 0, false, (imageOf (flashSlot (atReset signed0 alone (policySec 8) goodClocks).boot.flash 0)), by decide +kernel, prov_ok, by decide +kernel, choose_made plain_alone signed0, rfl, by decide +kernel, by decide +kernel, by decide +kernel, by decide +kernel, by decide +kernel, by decide +kernel⟩,
   by refine ⟨run, ?_⟩; decide +kernel⟩

theorem test_witness_RegistersTablesAndTrust :
    (∃ (s : State) (p : Port) (addr : Addr) (a : Nat), addr.toNat = 0x300000000000 + a ∧ s.awake = true ∧ s.csrStatus p addr.toNat 8 false = Status.ok) ∧
    (∃ (s : State) (p : Port) (addr : Addr) (a : Nat), addr.toNat = 0x300000000000 + a ∧ s.awake = true ∧ s.csrStatus p addr.toNat 8 true = Status.ok ∧ csrUnit a = 0x1F ∧ csrBlk a < 0x11) ∧
    (∃ (s : State) (addr : Addr) (a : Nat), addr.toNat = 0x300000000000 + a ∧ s.umUp = true ∧ s.csrStatus .host addr.toNat 8 false = Status.ok ∧ 2 < s.um.out.length) ∧
    (∃ (s : State) (addr : Addr) (a : Nat), addr.toNat = 0x300000000000 + a ∧ s.umUp = true ∧ s.csrStatus .host addr.toNat 8 true = Status.ok ∧ csrUnit a = 0x1F ∧ csrBlk a < 0x11) ∧
    (∃ (s : State) (addr : Addr) (a : Nat) (pd : Pd), addr.toNat = 0x300000000000 + a ∧ s.pdUp pd.val = true) ∧
    (∃ (s : State) (addr : Addr) (a : Nat) (pd : Pd), addr.toNat = 0x300000000000 + a ∧ s.pdUp pd.val = true) ∧
    (∃ (s : State) (addr : Addr) (a : Nat) (pd : Pd), addr.toNat = 0x300000000000 + a ∧ s.pdUp pd.val = false) ∧
    (∃ (s : State) (addr : Addr) (a : Nat) (data : Word) (link : LinkNo) (host : Bool), addr.toNat = 0x300000000000 + a ∧ s.pdUp (link.val / 12) = true ∧ ((host = true ∧ s.get Base.device Reg.fiAllow = 0) ∨ (bit data 62 = true ∧ (bits data 50 46 ≠ 0 ∨ bits data 45 41 ≠ 0)))) ∧
    (∃ (s : State) (addr : Addr) (a : Nat) (data : Word) (link : LinkNo) (host : Bool), addr.toNat = 0x300000000000 + a ∧ s.pdUp (link.val / 12) = true ∧ (host = true → s.get Base.device Reg.fiAllow = 1) ∧ bit data 62 = false) ∧
    (∃ (s : State) (addr : Addr) (a : Nat), addr.toNat = 0x300000000000 + a ∧ s.awake = true) ∧
    (∃ (s : State) (addr : Addr) (a : Nat), addr.toNat = 0x300000000000 + a ∧ s.awake = true) ∧
    (∃ (s : State) (addr : Addr) (a : Nat) (d : _) (q : _), addr.toNat = 0x300000000000 + a ∧ s.serving = true ∧ d = s.get Base.identity Reg.attAddr ∧ hostBase ≤ d ∧ s.hostStatus none (d - hostBase) = Status.ok ∧ rgAdm (s.region ((d - hostBase) / 2 ^ 26)) = true ∧ q = s.get Base.identity Reg.attNextQ ∧ s.boot.treeReady = true ∧ q < provReserved s.boot.prov) ∧
    (∃ (s : State) (addr : Addr) (a : Nat) (d : _) (q : _), addr.toNat = 0x300000000000 + a ∧ s.serving = true ∧ d = s.get Base.identity Reg.attAddr ∧ hostBase ≤ d ∧ s.hostStatus none (d - hostBase) = Status.ok ∧ rgAdm (s.region ((d - hostBase) / 2 ^ 26)) = true ∧ q = s.get Base.identity Reg.attNextQ ∧ s.boot.treeReady = false) ∧
    (∃ (s : State) (addr : Addr) (a : Nat), addr.toNat = 0x300000000000 + a ∧ s.serving = true ∧ s.boot.treeReady = false) ∧
    (∃ (s : State) (addr : Addr) (a : Nat), addr.toNat = 0x300000000000 + a ∧ (s.serving = false ∨ s.boot.treeReady = true)) ∧
    (∃ (s : State) (addr : Addr) (a : Nat) (d : _) (img : List Byte) (slot : _), addr.toNat = 0x300000000000 + a ∧ s.serving = true ∧ d = s.get Base.boot Reg.updAddr ∧ s.get Base.boot Reg.updState = 0 ∧ hostBase ≤ d ∧ s.hostStatus none (d - hostBase) = Status.ok ∧ rgAdm (s.region ((d - hostBase) / 2 ^ 26)) = true ∧ slot = 1 - s.get Base.boot Reg.bootSlot ∧ img.length = s.get Base.boot Reg.updBytes) ∧
    (∃ (s : State) (addr : Addr) (a : Nat) (d : _) (img : List Byte) (slot : _), addr.toNat = 0x300000000000 + a ∧ s.serving = true ∧ d = s.get Base.boot Reg.updAddr ∧ s.get Base.boot Reg.updState = 0 ∧ hostBase ≤ d ∧ s.hostStatus none (d - hostBase) = Status.ok ∧ rgAdm (s.region ((d - hostBase) / 2 ^ 26)) = true ∧ slot = 1 - s.get Base.boot Reg.bootSlot ∧ img.length = s.get Base.boot Reg.updBytes ∧ imageOk s.boot.rootKey img (flashSlotBytes s.boot.flash) = false) ∧
    (∃ (s : State) (addr : Addr) (a : Nat) (d : _) (img : List Byte) (slot : _), addr.toNat = 0x300000000000 + a ∧ s.serving = true ∧ d = s.get Base.boot Reg.updAddr ∧ s.get Base.boot Reg.updState = 0 ∧ hostBase ≤ d ∧ s.hostStatus none (d - hostBase) = Status.ok ∧ rgAdm (s.region ((d - hostBase) / 2 ^ 26)) = true ∧ slot = 1 - s.get Base.boot Reg.bootSlot ∧ img.length = s.get Base.boot Reg.updBytes ∧ imageOk s.boot.rootKey img (flashSlotBytes s.boot.flash) = true ∧ s.get Base.boot Reg.bootFw ≤ leAt (sectionBytes img 1) 0 4) ∧
    (∃ (s : State) (addr : Addr) (a : Nat), addr.toNat = 0x300000000000 + a ∧ s.awake = true ∧ s.serving = false ∧ s.get Base.boot Reg.updState = 0) :=
  ⟨by refine ⟨run, .control 0, 0x30001F000000, 0x1F000000, ?_⟩; decide +kernel,
   by refine ⟨run, .control 3, 0x30001F010100, 0x1F010100, ?_⟩; decide +kernel,
   by refine ⟨hostUp, 0x30001F000000, 0x1F000000, ?_⟩; decide +kernel,
   by refine ⟨hostUp, 0x30001F010100, 0x1F010100, ?_⟩; decide +kernel,
   by refine ⟨run, 0x300000000000, 0, 0, ?_⟩; decide +kernel,
   by refine ⟨run, 0x300000000000, 0, 0, ?_⟩; decide +kernel,
   by refine ⟨chip, 0x300000000000, 0, 0, ?_⟩; decide +kernel,
   by refine ⟨run, 0x300000000000, 0, 0, 0, true, ?_⟩; decide +kernel,
   by refine ⟨run, 0x300000000000, 0, 0x8000000000000000, 23, (true → run.get Base.device Reg.fiAllow = 1), ?_⟩; decide +kernel,
   by refine ⟨run, 0x300000000000, 0, ?_⟩; decide +kernel,
   by refine ⟨run, 0x300000000000, 0, ?_⟩; decide +kernel,
   by refine ⟨asked, 0x300000000000, 0, (asked.get Base.identity Reg.attAddr), (asked.get Base.identity Reg.attNextQ), ?_⟩; decide +kernel,
   by refine ⟨unready, 0x300000000000, 0, (unready.get Base.identity Reg.attAddr), (unready.get Base.identity Reg.attNextQ), ?_⟩; decide +kernel,
   by refine ⟨unready, 0x300000000000, 0, ?_⟩; decide +kernel,
   by refine ⟨asked, 0x300000000000, 0, ?_⟩; decide +kernel,
   by refine ⟨asked, 0x300000000000, 0, (asked.get Base.boot Reg.updAddr), [], (1 - asked.get Base.boot Reg.bootSlot), ?_⟩; decide +kernel,
   by refine ⟨asked, 0x300000000000, 0, (asked.get Base.boot Reg.updAddr), [], (1 - asked.get Base.boot Reg.bootSlot), ?_⟩; decide +kernel,
   ⟨updating, 0x300000000000, 0, (updating.get Base.boot Reg.updAddr), madeImage alone (policySec 8) goodClocks, (1 - updating.get Base.boot Reg.bootSlot), by decide +kernel, by decide +kernel, rfl, by decide +kernel, by decide +kernel, by decide +kernel, by decide +kernel, rfl, by decide +kernel, image_ok plain_alone, by decide +kernel⟩,
   by refine ⟨inState Dev.failed, 0x300000000000, 0, ?_⟩; decide +kernel⟩

/-- The first 128 bytes of a shard's prologue: key 7, one MiB of prologue, no data, a signature of 1,296 bytes. -/
def proHead : List Byte :=
 [0x46, 0x4A, 0x56, 0x42, 0x55, 0x4E, 0x44, 0x4C] ++ leBytes 8 7 ++ leBytes 8 1 ++ leBytes 8 0 ++ leBytes 4 0 ++ leBytes 4 1296 ++ zeros 88

def shard1 : Shard := { readFails := false, prologue := proHead ++ sigOf 0 (zeros 32), stream := [] }

/-- LOAD_MODEL of one MiB from the host, where the image trusts the key under which the shard's signature verifies. -/
def modelCmd1 : HostCmd := { modelCmd 0 with b2 := 0x100000 }

def trusting : State :=
 { serve modelCmd1 [] with
   boot := { (serve modelCmd1 []).boot with
     image := some { im1 with trust :=
       [{ pubId := 7, ctxMask := 1, levels := 1, key := (keyOf (rootOf 0 (zeros 32) proHead)).drop 4 }] } } }

theorem proTrusted_of {s : State} {i : Image} {e : TrustEntry} {ctx n : Nat} {p sig head : List Byte}
   (hi : s.boot.image = some i) (he : i.trust = [e]) (id : leAt p 8 4 = e.pubId) (m : e.ctxMask.testBit ctx = true)
   (k : proSegments p = 0) (hn : leAt p 36 4 = n) (h1 : Machine.sub p 128 n = sig) (h2 : p.take 128 = head)
   (v : hssVerify e.levels e.key sig head = true) : s.proTrusted ctx p = true := by
 unfold State.proTrusted
 simp only [hi, he, k, hn, List.any_cons, List.any_nil, Bool.or_false, Nat.mul_zero, Nat.add_zero, h1, h2, v, id, m, Bool.and_true, beq_self_eq_true]

theorem shardTrusted_of {s : State} {c : HostCmd} {sh : Shard} (h : lmSource c ≠ 2) (f : proFormed sh.prologue = true)
   (t : s.proTrusted c.queue.val sh.prologue = true) (o : streamOk (lmBytes c) sh.prologue sh.stream = true) :
   s.shardTrusted c sh = true := by
 unfold State.shardTrusted State.loadSource
 simp only [h, if_false, f, t, o, Bool.and_self]

theorem loadFinding_of {s : State} {c : HostCmd} {sh : Shard} (h : lmSource c ≠ 2) (r : sh.readFails = false)
   (t : s.shardTrusted c sh = true) : s.loadFinding c sh = Status.ok := by
 unfold State.loadFinding
 simp only [h, if_false, r, t]
 rfl

theorem load_ok : Status.ok =
   if trusting.loadRefusal modelCmd1 prog0 = Status.ok then trusting.loadFinding modelCmd1 shard1
   else trusting.loadRefusal modelCmd1 prog0 := by
 have r : trusting.loadRefusal modelCmd1 prog0 = Status.ok := by decide +kernel
 have v : hssVerify 1 ((keyOf (rootOf 0 (zeros 32) proHead)).drop 4) (sigOf 0 (zeros 32)) proHead = true :=
   verify_made (by decide) (zeros_length 32)
 have t : trusting.proTrusted modelCmd1.queue.val shard1.prologue = true :=
   proTrusted_of (n := 1296) (sig := sigOf 0 (zeros 32)) (head := proHead) rfl rfl (by decide +kernel) (by decide +kernel)
     (by decide +kernel) (by decide +kernel) (by decide +kernel) (by decide +kernel) v
 rw [if_pos r]
 exact (loadFinding_of (by decide +kernel) rfl
   (shardTrusted_of (by decide +kernel) (by decide +kernel) t (by decide +kernel))).symm

theorem test_witness_ModelsLoadedAndEvicted :
    (∃ (s : State) (cmd : HostCmd) (sh : Shard) (p : Program) (q : Nat) (st : _), q = cmd.queue.val ∧ CmdRuns s cmd 0x35 ∧ s.loading = [] ∧ s.arm.colls = [] ∧ s.nextDim (s.groupOf q) 0 = 4 ∧ lmReplace cmd = 0 ∧ st = (if s.loadRefusal cmd p = Status.ok then s.loadFinding cmd sh else s.loadRefusal cmd p)) ∧
    (∃ (s : State) (cmd : HostCmd) (p : Program) (q : Nat), q = cmd.queue.val ∧ CmdRuns s cmd 0x35 ∧ s.loading = [] ∧ s.loadRefusal cmd p = Status.ok ∧ lmReplace cmd ≠ 0) ∧
    (∃ (s : State) (cmd : HostCmd) (q : Nat), q = cmd.queue.val ∧ CmdRuns s cmd 0x35 ∧ s.loading.any (·.cmd == cmd) = true) ∧
    (∃ (s : State) (cmd : HostCmd) (q : Nat) (ctx : Ctx) (h : W32) (old : Model) (l : _), q = cmd.queue.val ∧ s.serving = true ∧ s.devState ≠ Dev.halted ∧ s.modelOf ctx.val h.toNat = some old ∧ old.leaving = true ∧ s.modelBusy old = false ∧ s.loading = [l] ∧ l.stage = 0 ∧ l.cmd.queue.val = ctx.val ∧ lmReplace l.cmd = h.toNat ∧ s.arm.colls = [] ∧ s.nextDim (s.groupOf ctx.val) 0 = 4) ∧
    (∃ (s : State) (cmd : HostCmd) (q : Nat) (ctx : Ctx) (h : W32) (old : Model), q = cmd.queue.val ∧ (s.serving = false ∨ (s.modelOf ctx.val h.toNat = some old ∧ (old.leaving = false ∨ s.modelBusy old = true)))) ∧
    (∃ (s : State) (cmd : HostCmd) (q : Nat), q = cmd.queue.val ∧ CmdRuns s cmd 0x36 ∧ bits cmd.b0 31 0 = 0 ∧ zeroWords [cmd.b1, cmd.b2, cmd.b3, cmd.b4, cmd.b5, cmd.b6, cmd.b7] = true ∧ s.modelOf q (bits cmd.b0 63 32) = none) ∧
    (∃ (s : State) (cmd : HostCmd) (q : Nat) (old : Model), q = cmd.queue.val ∧ CmdRuns s cmd 0x36 ∧ bits cmd.b0 31 0 = 0 ∧ zeroWords [cmd.b1, cmd.b2, cmd.b3, cmd.b4, cmd.b5, cmd.b6, cmd.b7] = true ∧ s.modelOf q (bits cmd.b0 63 32) = some old ∧ (old.leaving = true ∨ s.modelBusy old = true ∨ s.unitUses old = true ∨ s.loopNames old = true)) ∧
    (∃ (s : State) (cmd : HostCmd) (q : Nat) (old : Model), q = cmd.queue.val ∧ CmdRuns s cmd 0x36 ∧ bits cmd.b0 31 0 = 0 ∧ zeroWords [cmd.b1, cmd.b2, cmd.b3, cmd.b4, cmd.b5, cmd.b6, cmd.b7] = true ∧ s.modelOf q (bits cmd.b0 63 32) = some old ∧ old.leaving = false ∧ s.modelBusy old = false ∧ s.unitUses old = false ∧ s.loopNames old = false) :=
  ⟨⟨trusting, modelCmd1, shard1, prog0, 0, Status.ok, by decide +kernel, cmd_runs (by decide +kernel), by decide +kernel, by decide +kernel, by decide +kernel, by decide +kernel, load_ok⟩,
   ⟨serve (modelCmd 1) [model0], modelCmd 1, prog0, 0, by decide +kernel, cmd_runs (by decide +kernel), by decide +kernel, by decide +kernel, by decide +kernel⟩,
   ⟨{ serve (modelCmd 1) [model0] with loading := [load0] }, modelCmd 1, 0, by decide +kernel, cmd_runs (by decide +kernel), by decide +kernel⟩,
   by refine ⟨{ serve (modelCmd 1) [({ model0 with leaving := true })] with loading := [load0] }, modelCmd 1, 0, 0, 1, { model0 with leaving := true }, load0, ?_⟩; decide +kernel,
   by refine ⟨serve cmd0 [model0], cmd0, 0, 0, 1, model0, ?_⟩; decide +kernel,
   ⟨serve (evictCmd 1) [], evictCmd 1, 0, by decide +kernel, cmd_runs (by decide +kernel), by decide +kernel, by decide +kernel, by decide +kernel⟩,
   ⟨serve (evictCmd 1) [({ model0 with leaving := true })], evictCmd 1, 0, { model0 with leaving := true }, by decide +kernel, cmd_runs (by decide +kernel), by decide +kernel, by decide +kernel, by decide +kernel, by decide +kernel⟩,
   ⟨serve (evictCmd 1) [model0], evictCmd 1, 0, model0, by decide +kernel, cmd_runs (by decide +kernel), by decide +kernel, by decide +kernel, by decide +kernel, by decide +kernel, by decide +kernel, by decide +kernel, by decide +kernel⟩⟩

/-! The checks of well-formedness: each refuses a term that is not well formed, and one term passes. -/

def badMsg : ArmMsg := { msg0 with payload := [0, 0, 0] }

def badUm : UmMsg := { um0 with data := [1] }

def marks : List Instr :=
  [.strokeMark 0 badMsg 0, .slipReq 0 badMsg, .fence 0 badMsg, .outcomeQuery 0 badMsg, .outcomeReply 0 badMsg,
   .throttle 0 badMsg, .vote 0 badMsg, .outcome 0 badMsg, .collective 0 badMsg, .barrier 0 badMsg]

theorem test_wf_message_payload : marks.all (fun i => !WellFormed i) = true := by decide
theorem test_wf_message_passes : WellFormed (.barrier 0 msg0) = true := by decide
theorem test_wf_training_links : WellFormed (.linkTrainingEnd (List.replicate 25 train0)) = false := by decide
theorem test_wf_power_temps : WellFormed (.frameBoundary ⟨0, [], [0, 0, 0, 0, 0, 0]⟩) = false := by decide
theorem test_wf_power_rails : WellFormed (.frameBoundary ⟨0, List.replicate 10 0, []⟩) = false := by decide
theorem test_wf_data_length : WellFormed (.memCpl badUm) = false := by decide
theorem test_wf_data_limit :
    WellFormed (.memCpl { um0 with dlen := 4104, data := List.replicate 513 0 }) = false := by decide
theorem test_wf_data_poison : WellFormed (.memCpl { um0 with poisoned := true, poison := [true] }) = false := by decide
theorem test_wf_data_tags : WellFormed (.memCpl { um0 with tagged := true, tags := [1] }) = false := by decide
theorem test_wf_host_tags : WellFormed (.dmaRequestComplete 0 0 0 0 (.host [1] [] [false])) = false := by decide
theorem test_wf_host_poison : WellFormed (.dmaRequestComplete 0 0 0 0 (.host [1] [0] [])) = false := by decide
theorem test_wf_access_word : WellFormed (.scratchpadAccess (accOf 0x100000000004 none)) = false := by decide
theorem test_wf_access_words : WellFormed (.ddrRequest { accOf 0 none with write := some [] }) = false := by decide
theorem test_wf_host_access_word : WellFormed (.hostWindowRequest (accOf 0x200000000001 none)) = false := by decide
theorem test_wf_scrub_word : WellFormed (.patrolScrub 0x100000000001 1) = false := by decide
theorem test_wf_drafts : WellFormed (.verify 0 [List.replicate 16 (0, [])]) = false := by decide
theorem test_wf_flit : WellFormed (.flitReceive 0 { flit0 with payload := List.replicate 1025 0 } true) = false := by
  decide +kernel
theorem test_wf_frame : WellFormed (.armatureFrameReceive 0 { frame0 with words := [] }) = false := by decide
theorem test_wf_umajo_flit : WellFormed (.umajoFlitReceive { umFlit0 with payload := List.replicate 129 0 } true) = false := by
  decide
theorem test_wf_bounds :
    WellFormed (.batchFormation 0 [] [{ slot := 0, heads := [] }]) = false := by decide
theorem test_wf_entry : WellFormed (.queueFetch 16 [[]]) = false := by decide

/-! Values that the standards give: CRC-32C of "123456789", SHA-256 of "abc". -/

theorem test_crc32c_check :
    crc32c (ascii [0x31, 0x32, 0x33, 0x34, 0x35, 0x36, 0x37, 0x38, 0x39]) = 0xE3069283#32 := by decide +kernel

theorem test_sha256_abc : (sha256 (ascii [0x61, 0x62, 0x63])).take 8 = ascii [0xBA, 0x78, 0x16, 0xBF, 0x8F, 0x01, 0xCF, 0xEA] := by
  decide +kernel

/-! The manual's worked examples. -/

theorem test_scratchpad_address : scratchAddr 5 28 0 = 0x10015C000000 ∧ Base.core 5 28 = 0x05027000 := by decide
theorem test_page_ordinals :
    pageOrd 8 10000 = 10 ∧ pageClass 8 10 = 8 ∧ pageFirst 8 10 = 8192 ∧ pageOrd 8 1000 = 6 ∧ pageClass 8 6 = 5 := by
  decide +kernel
theorem test_page_sets : mapSets 0x1234 10 = (166, 4526) := by decide +kernel
theorem test_ddr_place : ddrPlace 1 0x80000000000000FF 0x12345300 = (19, 0x1234300) := by decide +kernel
theorem test_epoch_fold :
    foldOf 0x12345300 0x31 = 0x4D ∧ foldOf 0x12345300 0x32 = 0x4E ∧ foldOf 0x12345300 0x33 = 0xCF := by decide +kernel
theorem test_order_of_grants : r16 0 4 [2] = some (2, 0) ∧ r16 0 4 [1, 3] = some (1, 2) := by decide +kernel
theorem test_idle_strokes : (List.range 16).filter (fun n => idleStroke n 4) = [3, 7, 11, 15] := by decide +kernel

/-! Single steps. -/

/-- A command answers a next state of which this holds. -/
def after (c : Instr) (s : State) (p : State → Bool) : Bool :=
  match exec c s with
  | .next t => p t
  | _ => false

theorem test_counter_holds :
    after (.signalArrive 0 0 3 0x20) { sets run [(Base.core 0 0, Reg.evc, 0xFFFFF0, 3)] with
      signals := [{ sig0 with ec := 3, inc := 0x20 }] } (fun t => t.get (Base.core 0 0) Reg.evc 3 == 0xFFFFFF) = true := by
  decide +kernel
theorem test_parameter_wraps :
    after (.addp 0 0) (at0 [cw 5 0 (1 * 2 ^ 37 + 0xFFFFFFFF)]) (fun t => t.param 0 0 1 == 0xFFFFFFFF) = true := by
  decide +kernel
theorem test_reset_from_running : after .resetAssert run (fun t => t.devState == Dev.reset) = true := by decide +kernel
theorem test_lane_fails : after (.laneFail 0 7) (lanes 2) (fun t => t.get (Base.peerLink 0) Reg.laneOk == 0x7F) = true := by
  decide +kernel
theorem test_doorbell_moves_tail :
    after (.doorbellSqTail 16 3) hostUp (fun t => t.get Base.umajo Reg.sqTail 16 == 3) = true := by decide +kernel
theorem test_access_of_four_bytes :
    after (.csrWrite .host 0x300000000000 4 ⟨0, 0⟩) run (fun t => t.answer.status == BitVec.ofNat 8 Status.denied) = true := by
  decide +kernel
theorem test_step_takes_front :
    (match step { run with pending := [.treeReady, .bypass] } with
      | .next t => t.boot.treeReady && t.pending == [.bypass]
      | _ => false) = true := by decide +kernel

end Sys2Proof.Tests
end

section
/-! PROOFS. Accesses to the control-and-status space that are turned away (R5, R34), and O58. -/

namespace Sys2Proof.Machine

/-! Outside OFF and RESET, the two access commands are the register file's write and read. -/

theorem exec_csrWrite_awake {s : State} (h : s.awake = true) (p : Port) (addr : Addr) (bytes : Nat) (d : WriteData) :
    exec (.csrWrite p addr bytes d) s = .next (s.csrWrite p addr.toNat bytes d.value d.hardware) := by
  change execCsrWrite p addr bytes d s = _
  simp [execCsrWrite, h]

theorem exec_csrReadClear_awake {s : State} (h : s.awake = true) (p : Port) (addr : Addr) (bytes : Nat) (hw : Word) :
    exec (.csrReadClear p addr bytes hw) s = .next (s.csrRead p addr.toNat bytes hw) := by
  change execCsrReadClear p addr bytes hw s = _
  simp [execCsrReadClear, h]

/-! What an access that is turned away leaves -/

/-- No address of the control-and-status space is a reserved one, which a refusal would count and log (R34). -/
theorem reservedAddr_csrSpace {a : Nat} (lo : csrBase ≤ a) (hi : a < 0x300020000000) : reservedAddr a = false := by
  unfold csrBase at lo
  simp only [reservedAddr, Bool.or_eq_false_iff, Bool.and_eq_false_iff, decide_eq_false_iff_not]
  omega

/-- In the control-and-status space a refusal changes the answer alone. -/
theorem State.csrRefuse_csrSpace (s : State) (p : Port) {addr : Nat} (st : Nat) (lo : csrBase ≤ addr)
    (hi : addr < 0x300020000000) :
    s.csrRefuse p addr st = { s with answer := ⟨BitVec.ofNat 8 st, 0, []⟩ } := by
  simp [State.csrRefuse, reservedAddr_csrSpace lo hi, State.reply]

/-- Wherever it is turned away, an access is answered with data zero. -/
theorem State.csrRefuse_answer (s : State) (p : Port) (addr st : Nat) :
    (s.csrRefuse p addr st).answer = ⟨BitVec.ofNat 8 st, 0, []⟩ := rfl

theorem State.csrWrite_turnedAway {s : State} {p : Port} {addr bytes : Nat} (data hw : Word)
    (h : s.csrStatus p addr bytes true ≠ Status.ok) :
    s.csrWrite p addr bytes data hw = s.csrRefuse p addr (s.csrStatus p addr bytes true) :=
  if_pos h

theorem State.csrRead_turnedAway {s : State} {p : Port} {addr bytes : Nat} (hw : Word)
    (h : s.csrStatus p addr bytes false ≠ Status.ok) :
    s.csrRead p addr bytes hw = s.csrRefuse p addr (s.csrStatus p addr bytes false) :=
  if_pos h

/-- A write of the control-and-status space that is denied changes the answer alone. -/
theorem State.csrWrite_denied {s : State} {p : Port} {addr bytes : Nat} (data hw : Word) (lo : csrBase ≤ addr)
    (hi : addr < 0x300020000000) (h : s.csrStatus p addr bytes true = Status.denied) :
    s.csrWrite p addr bytes data hw = { s with answer := ⟨BitVec.ofNat 8 Status.denied, 0, []⟩ } := by
  rw [State.csrWrite_turnedAway data hw (by rw [h]; decide), h, State.csrRefuse_csrSpace s p _ lo hi]

/-- A read of the control-and-status space that is denied changes the answer alone: it clears no RC field. -/
theorem State.csrRead_denied {s : State} {p : Port} {addr bytes : Nat} (hw : Word) (lo : csrBase ≤ addr)
    (hi : addr < 0x300020000000) (h : s.csrStatus p addr bytes false = Status.denied) :
    s.csrRead p addr bytes hw = { s with answer := ⟨BitVec.ofNat 8 Status.denied, 0, []⟩ } := by
  rw [State.csrRead_turnedAway hw (by rw [h]; decide), h, State.csrRefuse_csrSpace s p _ lo hi]

/-! Which accesses are denied -/

/-- Size and alignment are looked at first: whatever register or die it names, such an access is denied (R5). -/
theorem State.csrStatus_badSize (s : State) (p : Port) {addr bytes : Nat} (write : Bool)
    (h : bytes ≠ 8 ∨ addr % 8 ≠ 0) : s.csrStatus p addr bytes write = Status.denied :=
  if_pos (by rcases h with h | h <;> simp [h])

/-! What a read answers -/

theorem State.csrRead_answer_ok {s : State} {p : Port} {addr bytes : Nat} (hw : Word)
    (h : s.csrStatus p addr bytes false = Status.ok) :
    (s.csrRead p addr bytes hw).answer = ⟨BitVec.ofNat 8 Status.ok, s.csrView (addr - csrBase), []⟩ := by
  simp [State.csrRead, h, State.reply]

/-- A read that is answered DENIED returns zero: one that reaches its register is answered OK, and any other carries no
data. -/
theorem State.csrRead_denied_data {s : State} {p : Port} {addr bytes : Nat} {hw : Word}
    (h : (s.csrRead p addr bytes hw).answer.status = BitVec.ofNat 8 Status.denied) :
    (s.csrRead p addr bytes hw).answer.data = 0 := by
  by_cases hst : s.csrStatus p addr bytes false = Status.ok
  · rw [State.csrRead_answer_ok hw hst] at h
    exact absurd h (show BitVec.ofNat 8 Status.ok ≠ BitVec.ofNat 8 Status.denied by decide)
  · rw [State.csrRead_turnedAway hw hst, State.csrRefuse_answer]

/-- Settles O58: size and alignment are looked at before anything else, a refusal within the space changes the answer
alone, and only a read that is answered OK carries data. -/
theorem accessSize : Obligations.AccessSize := by
  intro s p addr bytes data hw hawake
  rw [exec_csrWrite_awake hawake, exec_csrReadClear_awake hawake]
  refine ⟨fun lo hi hbad => ⟨?_, ?_⟩, fun t hstep hdenied => ?_⟩
  · rw [State.csrWrite_denied data hw lo hi (s.csrStatus_badSize p true hbad)]
  · rw [State.csrRead_denied hw lo hi (s.csrStatus_badSize p false hbad)]
  · obtain rfl := Host.Outcome.next.inj hstep
    exact State.csrRead_denied_data hdenied

end Sys2Proof.Machine
end

section
/-! PROOFS. Accesses to what is no register (R36), and O59. -/

namespace Sys2Proof.Machine

/-! Which addresses hold no register -/

theorem blockFields_reservedUnit {unit : Nat} (blk off : Nat)
    (h : (8 ≤ unit ∧ unit < 0x10) ∨ (0x12 ≤ unit ∧ unit < 0x1F)) : blockFields unit blk off = none := by
  have notCompute : ¬ unit < 8 := by omega
  have notPlinth : ¬ (unit = 0x10 ∨ unit = 0x11) := by omega
  have notDevice : unit ≠ 0x1F := by omega
  exact (if_neg notCompute).trans ((if_neg notPlinth).trans (if_neg notDevice))

/-- UMAJO, BOOT and IDENTITY are blocks of PD0 alone. -/
theorem blockFields_pd1_pd0Block {blk : Nat} (off : Nat) (h : blk = 0x15 ∨ blk = 0x16 ∨ blk = 0x17) :
    blockFields 0x11 blk off = none := by
  rcases h with rfl | rfl | rfl <;> rfl

/-- Where the unit and block tables list no field map, no register stands. -/
theorem fieldsAt_unlisted {a : Nat}
    (h : blockFields (a / 0x1000000) (a / 0x10000 % 0x100) (a % 0x10000) = none) : fieldsAt a = [] := by
  rw [fieldsAt, h]

/-- The addresses that the statement names hold no register. -/
theorem fieldsAt_reserved {a : Nat}
    (h : (8 ≤ a / 0x1000000 ∧ a / 0x1000000 < 0x10) ∨ (0x12 ≤ a / 0x1000000 ∧ a / 0x1000000 < 0x1F) ∨
      (0x1115 ≤ a / 0x10000 ∧ a / 0x10000 ≤ 0x1117)) : fieldsAt a = [] := by
  apply fieldsAt_unlisted
  rcases h with low | high | ⟨lo, hi⟩
  · exact blockFields_reservedUnit _ _ (.inl low)
  · exact blockFields_reservedUnit _ _ (.inr high)
  · have unit : a / 0x1000000 = 0x11 := by omega
    rw [unit]
    exact blockFields_pd1_pd0Block _ (by omega)

/-! What such an access answers -/

/-- That no register stands at an address is looked at before the fence of its die and the host's right to it (R36). -/
theorem State.csrStatus_noRegister (s : State) (p : Port) {addr : Nat} (bytes : Nat) (write : Bool)
    (h : fieldsAt (addr - csrBase) = []) : s.csrStatus p addr bytes write = Status.denied :=
  if_pos (by simp [h])

/-- Settles O59: the reserved units and PD1's blocks 0x15 to 0x17 have no field map, and an access where no register
stands is denied before anything else is looked at, which in this space changes the answer alone. -/
theorem accessTarget : Obligations.AccessTarget := by
  intro s p addr bytes a data hw hawake haddr hspace hnone
  have empty : fieldsAt a = [] := hnone.elim id fieldsAt_reserved
  have target : fieldsAt (addr.toNat - csrBase) = [] := by
    rw [haddr, csrBase, Nat.add_sub_cancel_left, empty]
  have lo : csrBase ≤ addr.toNat := by unfold csrBase; omega
  have hi : addr.toNat < 0x300020000000 := by omega
  rw [exec_csrWrite_awake hawake, exec_csrReadClear_awake hawake]
  constructor
  · rw [State.csrWrite_denied data hw lo hi (s.csrStatus_noRegister p bytes true target)]
  · rw [State.csrRead_denied hw lo hi (s.csrStatus_noRegister p bytes false target)]

end Sys2Proof.Machine
end

section
/-! PROOFS. Accesses of one word to the scratchpads and DDR (R23, R33, R34, R236 to R240), and O39. -/

namespace Sys2Proof.Machine

/-! What an access leaves alone beside registers, counts and its answer -/

/-- The state without its registers, what has been counted toward them, and the last answer. -/
def State.contents (s : State) : State :=
  { s with regs := [], parts := [], answer := { status := 0, data := 0, path := [] } }

theorem State.mem_of_contents {s t : State} (h : t.contents = s.contents) : t.mem = s.mem :=
  (congrArg State.mem h : t.contents.mem = s.contents.mem)

theorem State.units_of_contents {s t : State} (h : t.contents = s.contents) : t.units = s.units :=
  (congrArg State.units h : t.contents.units = s.contents.units)

theorem State.faults_of_contents {s t : State} (h : t.contents = s.contents) : t.faults = s.faults :=
  (congrArg State.faults h : t.contents.faults = s.contents.faults)

theorem State.segs_of_contents {s t : State} (h : t.contents = s.contents) : t.segs = s.segs :=
  (congrArg State.segs h : t.contents.segs = s.contents.segs)

theorem State.cores_of_contents {s t : State} (h : t.contents = s.contents) : t.cores = s.cores :=
  (congrArg State.cores h : t.contents.cores = s.contents.cores)

@[simp] theorem State.put_contents (s : State) (b : Nat) (f : Fld) (v i : Nat) :
    (s.put b f v i).contents = s.contents := Eq.trans rfl rfl

@[simp] theorem State.count_contents (s : State) (b : Nat) (f : Fld) (n i : Nat) :
    (s.count b f n i).contents = s.contents := Eq.trans rfl rfl

@[simp] theorem State.reply_contents (s : State) (st : Nat) (d : Word) : (s.reply st d).contents = s.contents :=
  Eq.trans rfl rfl

@[simp] theorem State.crossed_contents (s : State) (who : Requester) (a : Nat) :
    (s.crossed who a).contents = s.contents := Eq.trans rfl rfl

@[simp] theorem State.log_contents (s : State) (unit action : Nat) (ctx : Option Nat) (source index detail : Nat) :
    (s.log unit action ctx source index detail).contents = s.contents := by
  simp only [State.log, State.count_contents, State.put_contents]

@[simp] theorem State.refused_contents (s : State) (die : Nat) (ctx : Option Nat) (index a : Nat) :
    (s.refused die ctx index a).contents = s.contents := by
  simp only [State.refused, State.log_contents, State.count_contents]

@[simp] theorem State.ddrErr_contents (s : State) (a st : Nat) : (s.ddrErr a st).contents = s.contents := by
  unfold State.ddrErr
  split
  · simp only [State.put_contents]
  · rfl

@[simp] theorem State.countUnits_contents (s : State) (key unit base : Nat) (f : Fld) (bytes : Nat) :
    (s.countUnits key unit base f bytes).contents = s.contents := by
  unfold State.countUnits
  dsimp only
  split
  · rfl
  · rw [State.count_contents]; rfl

@[simp] theorem State.ddrTraffic_contents (s : State) (a : Nat) (write : Bool) (bytes : Nat) :
    (s.ddrTraffic a write bytes).contents = s.contents := by
  unfold State.ddrTraffic
  split
  · exact State.countUnits_contents ..
  · rfl

/-! Which die serves an address, and the connections to it, hang on the fences and the modules that are down -/

theorem State.isFenced_congr {s t : State} (h : t.faults = s.faults) (unit index : Nat) :
    t.isFenced unit index = s.isFenced unit index := by
  rw [State.isFenced, h, State.isFenced]

theorem State.ddrPd_congr {s t : State} (h : t.faults = s.faults) (a : Nat) : t.ddrPd a = s.ddrPd a := by
  simp only [State.ddrPd, State.isFenced_congr h]

theorem State.servedAt_congr {s t : State} (h : t.faults = s.faults) (a : Nat) : t.servedAt a = s.servedAt a := by
  simp only [State.servedAt, State.ddrPd_congr h]

theorem State.moduleFor_congr {s t : State} (h : t.faults = s.faults) (c : Connection) (n : Nat) :
    t.moduleFor c n = s.moduleFor c n := by
  rw [State.moduleFor, h, State.moduleFor]

theorem State.crossings_congr {s t : State} (h : t.faults = s.faults) (d e : UnitNo) (a : Nat) :
    t.crossings d e a = s.crossings d e a := by
  simp only [State.crossings, State.dieRoute, State.connUp, State.viaPd, State.moduleFor_congr h,
    State.isFenced_congr h]

theorem State.key_congr {s t : State} (hf : t.faults = s.faults) (hs : t.segs = s.segs) (a : Nat) :
    t.key a = s.key a := by
  simp only [State.key, State.seg, State.ddrPd_congr hf, hs]

/-- The modules that an access and its response cross, if its address is served at all (R21, R23). -/
def State.path (s : State) (who : Requester) (a : Nat) : List (Connection × Nat) :=
  ((s.servedAt a).map fun d => s.crossings (dieOf (reqDie who)) d a).getD []

theorem State.path_congr {s t : State} (h : t.faults = s.faults) (who : Requester) (a : Nat) :
    t.path who a = s.path who a := by
  simp only [State.path, State.servedAt_congr h, State.crossings_congr h]

/-- Noting the modules adds the path to the answer. -/
theorem State.crossed_answer (s : State) (who : Requester) (a : Nat) :
    (s.crossed who a).answer = { s.answer with path := s.path who a } := by
  unfold State.crossed State.path
  cases s.servedAt a <;> rfl

theorem State.reply_crossed_answer (s : State) (st : Nat) (d : Word) (who : Requester) (a : Nat) :
    ((s.reply st d).crossed who a).answer = ⟨BitVec.ofNat 8 st, d, s.path who a⟩ := by
  rw [State.crossed_answer, State.path_congr (State.reply_faults s st d)]
  rfl

/-! A word as stored -/

/-- A fresh check byte decodes to the word itself (R234). -/
theorem eccDecode_secded (d : Word) : eccDecode d (secded d) = (d, secded d, .clean) := by
  simp [eccDecode]

/-- After writes under distinct keys each key reads as it was written. -/
theorem cget_foldl_same {α : Type} [DecidableEq α] {d : Nat → α} (k : Nat → Nat) (v : Nat → α) {l : List Nat}
    (c : Cells α) (nodup : l.Nodup) (inj : Function.Injective k) {i : Nat} (hi : i ∈ l) :
    cget d (l.foldl (fun c i => cset d c (k i) (v i)) c) (k i) = v i := by
  induction l generalizing c with
  | nil => cases hi
  | cons j l ih =>
    obtain ⟨hj, hl⟩ := List.nodup_cons.1 nodup
    rcases List.mem_cons.1 hi with rfl | hi
    · have apart : ∀ x ∈ l, k i ≠ k x := fun x hx e => hj (inj e ▸ hx)
      rw [List.foldl_cons, cget_foldl_other k v l _ apart, cget_cset_same]
    · exact ih _ hl hi

/-- The bytes of a word, first the least significant, spell it (R4). -/
theorem leNat_wordBytes (w : Word) :
    leNat ((List.range 8).map fun i => w.extractLsb' (8 * i) 8) = w.toNat := by
  have := w.isLt
  simp only [List.range, List.range.loop, List.map, leNat, BitVec.extractLsb'_toNat, Nat.shiftRight_eq_div_pow]
  omega

theorem Mem.word_put (m : Mem) (k : Nat) (d : Word) (c t : Byte) : (m.put k d c t).word k = d := by
  have bytes : ∀ i ∈ List.range 8,
      cget (fun _ => 0) (m.put k d c t).data (k + i) = d.extractLsb' (8 * i) 8 := fun i hi =>
    cget_foldl_same (fun i => k + i) _ _ List.nodup_range (fun _ _ => Nat.add_left_cancel) hi
  rw [Mem.word, List.map_congr_left bytes, leNat_wordBytes]
  exact BitVec.eq_of_toNat_eq (by simp)

/-- A word put with its own check byte under the fold of its address and tag loads as it was, clean (R235, R238). -/
theorem Mem.load_put (m : Mem) (k a : Nat) (d : Word) (t : Byte) :
    (m.put k d (secded d ^^^ foldOf a t.toNat) t).load k a = { d := d, c := secded d, tag := t, ecc := .clean } := by
  have check : cget (fun _ => none) (m.put k d (secded d ^^^ foldOf a t.toNat) t).check k
      = some (secded d ^^^ foldOf a t.toNat) := by simp [Mem.put]
  simp only [Mem.load, check, Mem.word_put, Mem.put_tagAt, BitVec.xor_assoc, BitVec.xor_self, BitVec.xor_zero,
    eccDecode_secded]

/-! Loading and storing one word -/

/-- What a load answers is what the memory holds, whatever the load counts or writes back. -/
theorem State.load_fst (s : State) (a : Nat) (merge : Bool) :
    (s.load a merge).1 = s.mem.load (s.key a) a := by
  unfold State.load
  dsimp only
  split
  · rfl
  · split <;> rfl
  · split
    · rfl
    · split <;> rfl

/-- Loading a clean word only counts its traffic. -/
theorem State.load_snd_clean {s : State} {a : Nat} (merge : Bool) (h : (s.load a merge).1.ecc = .clean) :
    (s.load a merge).2 = s.ddrTraffic a false 8 := by
  rw [State.load_fst] at h
  simp only [State.load, h]

/-- The tag that a store puts beside a word: the region's epoch in DDR (R236, R240). -/
def State.storeTag (s : State) (a : Nat) : Byte := if placeOf a = .ddr then s.epochOf a else 0

/-- The memory after a well-formed word is stored. -/
def State.memWith (s : State) (a : Nat) (w : Word) : Mem :=
  s.mem.put (s.key a) w (secded w ^^^ foldOf a (s.storeTag a).toNat) (s.storeTag a)

/-- Storing a well-formed word puts it and counts its traffic. -/
theorem State.store_wellFormed (s : State) (a : Nat) (w : Word) :
    s.store a { d := w, c := secded w } = { s with mem := s.memWith a w }.ddrTraffic a true 8 := by
  simp only [State.store, eccDecode_secded, State.memWith, State.storeTag]
  cases placeOf a <;> rfl

/-- A stored word is read back clean, with its tag, in any state with that memory and the same placing. -/
theorem State.load_memWith {s t : State} {a : Nat} {w : Word} (hmem : t.mem = s.memWith a w)
    (hf : t.faults = s.faults) (hs : t.segs = s.segs) :
    (t.load a).1 = { d := w, c := secded w, tag := s.storeTag a, ecc := .clean } := by
  rw [State.load_fst, hmem, State.key_congr hf hs, State.memWith, Mem.load_put]

/-- Storing a word leaves every byte outside it alone. -/
theorem State.memWith_data_other (s : State) (a : Nat) (w : Word) {k : Nat} (h : k < s.key a ∨ s.key a + 8 ≤ k) :
    cget (fun _ => 0) (s.memWith a w).data k = cget (fun _ => 0) s.mem.data k :=
  Mem.put_data_other _ _ _ _ _ h

/-! An access of one word -/

theorem Access.fields_eq {acc : Access} {who : Requester} {addr : Addr} {n : Nat} {write : Option (List TWord)}
    {expect : Option Byte} {runahead : Bool} (h : acc = ⟨who, addr, n, write, expect, runahead⟩) :
    acc.who = who ∧ acc.addr = addr ∧ acc.words = n ∧ acc.write = write ∧ acc.expect = expect := by
  subst h
  exact ⟨rfl, rfl, rfl, rfl, rfl⟩

section
variable {s : State} {acc : Access} {a : Nat}

/-- A command that serves the place of an access carries it out. -/
theorem State.serveAt_served (hawake : s.awake = true) (haddr : acc.addr.toNat / 8 * 8 = a) {p : Place → Bool}
    (hp : p (placeOf a) = true) : s.serveAt acc p = s.storeAccess acc := by
  simp [State.serveAt, hawake, haddr, hp]

/-- The two commands at the places that they serve. -/
theorem exec_storage {c : Instr} (hawake : s.awake = true) (haddr : acc.addr.toNat / 8 * 8 = a)
    (h : (c = .scratchpadAccess acc ∧ ∃ d k o, placeOf a = .scratch d k o) ∨
      (c = .ddrRequest acc ∧ placeOf a = .ddr)) :
    exec c s = .next (s.storeAccess acc) := by
  rcases h with ⟨rfl, d, k, o, place⟩ | ⟨rfl, place⟩
  · change execScratchpadAccess acc s = _
    rw [execScratchpadAccess, State.serveAt_served hawake haddr (by rw [place])]
  · change execDdrRequest acc s = _
    rw [execDdrRequest, State.serveAt_served hawake haddr (by rw [place])]

@[simp] theorem worst_singleton (st : Nat) : worst [st] = st := by
  by_cases h : st = Status.ok <;> simp [worst, h]

theorem State.accessDone_ok (d : Word) : s.accessDone acc Status.ok d = s.reply Status.ok d := by
  simp [State.accessDone]

/-- An access that is no run-ahead read and ends otherwise shows it at its channel, and a denied one is counted. -/
theorem State.accessDone_notOk (haddr : acc.addr.toNat / 8 * 8 = a) (hrun : acc.runahead = false) {st : Nat}
    (hst : st ≠ Status.ok) (d : Word) : s.accessDone acc st d =
      (if st = Status.denied then (s.ddrErr a st).refused (reqDie acc.who) (reqCtx acc.who) 0 a
        else s.ddrErr a st).reply st d := by
  simp [State.accessDone, hst, hrun, haddr]

/-- However an access ends, it answers its status, with the data that it had or none, and beside that it only counts. -/
theorem State.accessDone_reply (st : Nat) (d : Word) :
    ∃ (x : State) (d' : Word), s.accessDone acc st d = x.reply st d' ∧ x.contents = s.contents ∧ (d' = d ∨ d' = 0) := by
  unfold State.accessDone
  dsimp only
  split
  · exact ⟨s, d, rfl, rfl, .inl rfl⟩
  · split
    · exact ⟨_, 0, rfl, by simp, .inr rfl⟩
    · exact ⟨_, d, rfl, by split <;> simp, .inl rfl⟩

@[simp] theorem State.accessDone_contents (st : Nat) (d : Word) :
    (s.accessDone acc st d).contents = s.contents := by
  obtain ⟨x, d', eq, same, -⟩ := State.accessDone_reply (s := s) (acc := acc) st d
  rw [eq, State.reply_contents, same]

theorem State.accessDone_status (st : Nat) (d : Word) :
    (s.accessDone acc st d).answer.status = BitVec.ofNat 8 st := by
  obtain ⟨x, d', eq, -, -⟩ := State.accessDone_reply (s := s) (acc := acc) st d
  rw [eq]
  rfl

theorem State.accessDone_noData (st : Nat) : (s.accessDone acc st 0).answer.data = 0 := by
  obtain ⟨x, d', eq, -, data⟩ := State.accessDone_reply (s := s) (acc := acc) st 0
  rw [eq]
  exact data.elim id id

/-! An allowed write -/

/-- Beside the memory, an allowed write changes the writing core's cache (R247) and counts alone. -/
theorem State.writeWord_wellFormed {who : Requester} (w : Word) (hst : s.wordStatus who a = Status.ok) {t : State}
    (ht : (s.writeWord who a { d := w, c := secded w }).2 = t) :
    t.mem = s.memWith a w ∧ t.units = s.units ∧ t.faults = s.faults ∧ t.segs = s.segs := by
  have stored := State.ddrTraffic_contents { s with mem := s.memWith a w } a true 8
  rw [← State.store_wellFormed] at stored
  have mem := State.mem_of_contents stored
  have units := State.units_of_contents stored
  have faults := State.faults_of_contents stored
  have segs := State.segs_of_contents stored
  simp only [State.writeWord, hst, if_true] at ht
  cases who with
  | control n => exact ht ▸ ⟨mem, units, faults, segs⟩
  | engine d c => exact ht ▸ ⟨mem, units, faults, segs⟩
  | core d k c =>
    dsimp only at ht
    split at ht <;> exact ht ▸ ⟨mem, units, faults, segs⟩

/-- An allowed write of a well-formed word answers OK and stores it. -/
theorem State.storeAccess_write {w : Word} (haddr : acc.addr.toNat / 8 * 8 = a)
    (hw : acc.write = some [{ d := w, c := secded w }]) (hst : s.wordStatus acc.who a = Status.ok) {t : State}
    (ht : s.storeAccess acc = t) :
    t.answer = ⟨0, 0, s.path acc.who a⟩ ∧
      t.mem = s.memWith a w ∧ t.units = s.units ∧ t.faults = s.faults ∧ t.segs = s.segs := by
  have done : t = ((s.writeWord acc.who a { d := w, c := secded w }).2.reply Status.ok).crossed acc.who a := by
    simp [← ht, State.storeAccess, haddr, hw, hst, State.writeWords, State.accessDone_ok]
  generalize written : (s.writeWord acc.who a { d := w, c := secded w }).2 = x at done
  obtain ⟨mem, units, faults, segs⟩ := State.writeWord_wellFormed w hst written
  subst done
  refine ⟨?_, mem, units, faults, segs⟩
  rw [State.reply_crossed_answer, State.path_congr faults]
  rfl

/-! An allowed read -/

theorem State.readWords_one (who : Requester) (expect : Option Nat)
    (hst : s.wordStatus who a = Status.ok) : s.readWords who expect a 1 =
      ([(if staleWord a expect (s.load a).1 then Status.stale else Status.ok, some (s.load a).1)],
        if staleWord a expect (s.load a).1 then
          ((s.load a).2.count (Base.ddr ((s.load a).2.chanOf a)) Reg.ddrStale).ddrErr a Status.stale
        else (s.load a).2) := by
  simp [State.readWords, hst]

/-- A read of a clean word that expects no epoch answers its data and only counts. -/
theorem State.storeAccess_read (haddr : acc.addr.toNat / 8 * 8 = a) (hw : acc.write = none) (hn : acc.words = 1)
    (hst : s.wordStatus acc.who a = Status.ok) (hexpect : acc.expect = none) (clean : (s.load a).1.ecc = .clean) :
    (s.storeAccess acc).answer = ⟨0, (s.load a).1.d, s.path acc.who a⟩ ∧
      (s.storeAccess acc).contents = s.contents := by
  have done : s.storeAccess acc = ((s.load a).2.reply Status.ok (s.load a).1.d).crossed acc.who a := by
    simp [State.storeAccess, haddr, hw, hn, hexpect, State.readWords_one _ _ hst, staleWord, State.accessDone_ok]
  have same : (s.load a).2.contents = s.contents := by simp [State.load_snd_clean false clean]
  rw [done, State.reply_crossed_answer, State.path_congr (State.faults_of_contents same)]
  exact ⟨rfl, by simp [same]⟩

/-- A clean word of DDR under another epoch than the reader expects is stale (R239). -/
theorem staleWord_ddr {e : Byte} {w : Loaded} (place : placeOf a = .ddr) (clean : w.ecc = .clean) (tag : w.tag ≠ e) :
    staleWord a (some e.toNat) w = true := by
  have : w.tag.toNat ≠ e.toNat := fun h => tag (BitVec.eq_of_toNat_eq h)
  simp [staleWord, place, clean, this]

/-- A read of a stale word answers so, and counts and shows it at the word's channel. -/
theorem State.storeAccess_stale (haddr : acc.addr.toNat / 8 * 8 = a) (hw : acc.write = none) (hn : acc.words = 1)
    (hst : s.wordStatus acc.who a = Status.ok) (clean : (s.load a).1.ecc = .clean)
    (stale : staleWord a (acc.expect.map (·.toNat)) (s.load a).1 = true) :
    (s.storeAccess acc).answer.status = BitVec.ofNat 8 Status.stale ∧
      (s.storeAccess acc).contents = s.contents := by
  have shown : s.storeAccess acc = (((((s.load a).2.count (Base.ddr ((s.load a).2.chanOf a)) Reg.ddrStale).ddrErr a
      Status.stale).accessDone acc Status.stale (s.load a).1.d).crossed acc.who a) := by
    simp [State.storeAccess, haddr, hw, hn, State.readWords_one _ _ hst, stale]
  rw [shown]
  exact ⟨State.accessDone_status _ _, by simp [State.load_snd_clean false clean]⟩

/-! A refused access -/

theorem State.ddrErr_notDdr (place : placeOf a ≠ .ddr) (st : Nat) : s.ddrErr a st = s := if_neg fun h => place h.1

/-- A refused access to a scratchpad comes to its end at once, be it a write or a read. -/
theorem State.storeAccess_refused {w : TWord} {st : Nat} (haddr : acc.addr.toNat / 8 * 8 = a)
    (hop : acc.write = some [w] ∨ (acc.write = none ∧ acc.words = 1)) (place : placeOf a ≠ .ddr)
    (hst : s.wordStatus acc.who a = st) (hno : st ≠ Status.ok) :
    s.storeAccess acc = (s.accessDone acc st 0).crossed acc.who a := by
  rcases hop with hw | ⟨hw, hn⟩
  · simp [State.storeAccess, haddr, hw, hst, hno]
  · simp [State.storeAccess, haddr, hw, hn, State.readWords, hst, hno, State.ddrErr_notDdr place]

/-- A log record leaves the count of denied accesses of its block alone. -/
theorem State.log_get_errDenied (unit action : Nat) (ctx : Option Nat) (source index detail : Nat) :
    (s.log unit action ctx source index detail).get (Base.errors unit) Reg.errDenied =
      s.get (Base.errors unit) Reg.errDenied := by
  unfold State.log
  dsimp only
  rw [State.get_count_addr, State.get_put_addr, State.get_put_addr, State.get_put_addr]
  all_goals simp only [Reg.errDenied, Reg.errTotal, Reg.errNext, Reg.errRecW0, Reg.errRecW1]; omega

/-- A refused access is counted in the requester's die (R34). -/
theorem State.refused_get_errDenied (die : Nat) (ctx : Option Nat) (index target : Nat) :
    (s.refused die ctx index target).get (Base.errors die) Reg.errDenied =
      min (s.get (Base.errors die) Reg.errDenied + 1) (2 ^ Reg.errDenied.w - 1) := by
  rw [State.refused, State.log_get_errDenied, State.get_count_same _ _ _ _ _ (by decide)]

theorem State.reply_get (st : Nat) (d : Word) (b : Nat) (f : Fld) (i : Nat) :
    (s.reply st d).get b f i = s.get b f i := rfl

theorem State.accessDone_denied_get (haddr : acc.addr.toNat / 8 * 8 = a) (hrun : acc.runahead = false)
    (place : placeOf a ≠ .ddr) (d : Word) :
    (s.accessDone acc Status.denied d).get (Base.errors (reqDie acc.who)) Reg.errDenied =
      min (s.get (Base.errors (reqDie acc.who)) Reg.errDenied + 1) (2 ^ Reg.errDenied.w - 1) := by
  have counted : s.accessDone acc Status.denied d =
      (s.refused (reqDie acc.who) (reqCtx acc.who) 0 a).reply Status.denied d := by
    rw [State.accessDone_notOk haddr hrun (by decide), State.ddrErr_notDdr place]
    simp only [if_true]
  rw [counted, State.reply_get, State.refused_get_errDenied]

end

/-- Settles O39: outside OFF and RESET the two commands carry their access out, and each of its four ends is what the
lemmas above say of it. -/
theorem storageAccesses : Obligations.StorageAccesses := by
  intro s who addr w a st e c acc hawake haddr hserved
  have path : ∀ b, ((s.servedAt b).map fun d => s.crossings (dieOf (reqDie who)) d b).getD [] = s.path who b :=
    fun _ => rfl
  rw [path]
  have run (h : acc.addr = addr) : exec c s = .next (s.storeAccess acc) :=
    exec_storage hawake (h ▸ haddr) hserved
  refine ⟨fun hacc hst => ?_, fun hacc hst clean => ?_, fun hacc hst clean place tag => ?_,
    fun hwho hacc hrun _ hop hst hno _ place => ?_⟩
  · obtain ⟨rfl, rfl, -, hw, -⟩ := Access.fields_eq hacc
    obtain ⟨answer, mem, units, faults, segs⟩ := State.storeAccess_write haddr hw hst rfl
    have back := State.load_memWith mem faults segs
    refine ⟨_, run rfl, answer, by rw [back], by rw [back], by rw [back]; rfl, fun k hk => ?_, units, faults⟩
    rw [mem, s.memWith_data_other a w hk]
  · obtain ⟨rfl, rfl, hn, hw, hexpect⟩ := Access.fields_eq hacc
    obtain ⟨answer, same⟩ := State.storeAccess_read haddr hw hn hst hexpect clean
    exact ⟨_, run rfl, answer, State.mem_of_contents same, State.units_of_contents same,
      State.cores_of_contents same⟩
  · obtain ⟨rfl, rfl, hn, hw, hexpect⟩ := Access.fields_eq hacc
    have stale : staleWord a (acc.expect.map (·.toNat)) (s.load a).1 = true := by
      rw [hexpect]
      exact staleWord_ddr place clean tag
    obtain ⟨status, same⟩ := State.storeAccess_stale haddr hw hn hst clean stale
    exact ⟨_, run rfl, by rw [status]; rfl, State.mem_of_contents same, State.units_of_contents same⟩
  · subst hwho hacc
    have done := State.storeAccess_refused haddr hop place hst hno
    have same : (s.storeAccess acc).contents = s.contents := by simp [done]
    refine ⟨_, run rfl, ?_, ?_, State.mem_of_contents same, State.units_of_contents same, fun hden => ?_⟩
    · rw [done]; exact State.accessDone_status st 0
    · rw [done]; exact State.accessDone_noData st
    · rw [done, hden]; exact State.accessDone_denied_get haddr hrun place 0

end Sys2Proof.Machine
end

section
/-! PROOFS. The units of the seal: registering them (R71, R84, R384), and O12. -/

namespace Sys2Proof.Machine

/-! The least element of a list -/

/-- A list with an element has a least one, which is in the list and no greater by its key than any other. -/
theorem minBy_spec {α : Type} (key : α → Nat) {l : List α} {a : α} (h : a ∈ l) :
    ∃ m, minBy key l = some m ∧ m ∈ l ∧ ∀ x ∈ l, key m ≤ key x := by
  induction l generalizing a with
  | nil => cases h
  | cons b l ih =>
    cases l with
    | nil => exact ⟨b, rfl, List.mem_cons_self, fun x hx => by simp at hx; rw [hx]⟩
    | cons c l =>
      obtain ⟨m, eq, mem, least⟩ := ih (List.mem_cons_self (a := c))
      by_cases lt : key m < key b
      · refine ⟨m, by rw [minBy, eq]; simp [lt], List.mem_cons_of_mem _ mem, fun x hx => ?_⟩
        rcases List.mem_cons.1 hx with rfl | hx
        · omega
        · exact least x hx
      · refine ⟨b, by rw [minBy, eq]; simp [lt], List.mem_cons_self, fun x hx => ?_⟩
        rcases List.mem_cons.1 hx with rfl | hx
        · exact Nat.le_refl _
        · have := least x hx; omega

/-- Of numbers, an element that is no greater than any other is the least. -/
theorem minBy_id_eq {l : List Nat} {n : Nat} (h : n ∈ l) (least : ∀ x ∈ l, n ≤ x) : minBy id l = some n := by
  obtain ⟨m, eq, mem, low⟩ := minBy_spec id h
  exact eq.trans (congrArg some (Nat.le_antisymm (low n h) (least m mem)))

/-! Registering a unit -/

/-- A unit of a kind of the context is staged: one that a new unit of another kind may have to wait for (R384). -/
def State.openKind (s : State) (ctx kind : Nat) : Bool := s.units.any fun u => u.ctx == ctx && u.kind == kind && u.staged

theorem State.openKind_iff (s : State) (ctx kind : Nat) :
    s.openKind ctx kind = true ↔ ∃ u ∈ s.units, u.ctx = ctx ∧ u.kind = kind ∧ u.staged = true := by
  simp [State.openKind, and_assoc]

/-- SEAL_REGISTER turns a unit away: of no kind, of another sequence than the next, or of a kind that has to wait. -/
def State.registerBars (s : State) (ctx kind seq : Nat) : Prop :=
  kind = 3 ∨ seq ≠ s.planSeq ctx ∨ (kind = 0 ∧ s.openKind ctx 2 = true) ∨
    (kind = 2 ∧ (s.openKind ctx 0 || (s.learn ctx).run.isSome) = true)

theorem State.sealRegister_barred {s : State} {ctx kind seq : Nat} (first last : Nat) (group : List (Nat × Nat))
    (h : s.registerBars ctx kind seq) : s.sealRegister ctx kind seq first last group = s := by
  unfold State.sealRegister
  dsimp only
  by_cases next : kind = 3 ∨ seq ≠ s.planSeq ctx
  · exact if_pos next
  · rw [if_neg next]
    by_cases step : kind = 0 ∧ s.openKind ctx 2 = true
    · exact if_pos step
    · rw [State.openKind] at step
      rw [if_neg step]
      refine if_pos ?_
      rcases h with h | h | h | h
      · exact absurd (.inl h) next
      · exact absurd (.inr h) next
      · exact absurd h step
      · exact h

/-- A unit as it is registered (R71). -/
def newUnit (ctx kind seq first last : Nat) (staged : Bool) (group : List (Nat × Nat)) : SealUnit :=
  { ctx := ctx, kind := kind, seq := seq, first := first, last := last, staged := staged, cause := none, k := none,
    reasons := 0, voted := false, vote := none, posted := false, outcome := none, due := none, queried := false,
    group := group }

theorem State.sealRegister_taken {s : State} {ctx kind seq : Nat} (first last : Nat) (group : List (Nat × Nat))
    (h : ¬ s.registerBars ctx kind seq) :
    s.sealRegister ctx kind seq first last group =
      ({ s with units := s.units ++ [newUnit ctx kind seq first last (decide (first ≤ s.sched)) group]
                groups := cset (fun _ => []) s.groups ctx group }).refreshSeq ctx seq := by
  simp only [State.registerBars, not_or] at h
  obtain ⟨kindOk, next, step, turn⟩ := h
  unfold State.sealRegister
  dsimp only
  exact (if_neg (not_or.2 ⟨kindOk, next⟩)).trans ((if_neg step).trans (if_neg turn))

/-- The register shows the given sequence where it is the least of the context's units. -/
theorem State.refreshSeq_least {s : State} {ctx seq : Nat} (next : Nat) (mem : ∃ u ∈ s.units, u.ctx = ctx ∧ u.seq = seq)
    (least : ∀ u ∈ s.units, u.ctx = ctx → seq ≤ u.seq) (lt : seq < 2 ^ 32) :
    (s.refreshSeq ctx next).get Base.sealBlk Reg.nextSeq ctx = seq := by
  have min : minBy id ((s.units.filter (·.ctx == ctx)).map (·.seq)) = some seq := by
    apply minBy_id_eq
    · simpa [and_assoc] using mem
    · simp only [List.mem_map, List.mem_filter, beq_iff_eq]
      rintro _ ⟨u, ⟨hu, hc⟩, rfl⟩
      exact least u hu hc
  rw [State.refreshSeq, min, Option.getD_some, State.get_put_same _ _ _ _ _ (by decide)]
  exact Nat.mod_eq_of_lt lt

theorem toNat_eq_lit {n k : Nat} (x : BitVec n) (h : k < 2 ^ n) : x.toNat = k ↔ x = BitVec.ofNat n k := by
  rw [BitVec.toNat_eq, BitVec.toNat_ofNat, Nat.mod_eq_of_lt h]

theorem State.registerBars_iff (s : State) (ctx : Nat) (kind : BitVec 2) (seq : Nat) :
    s.registerBars ctx kind.toNat seq ↔ kind = 3 ∨ seq ≠ s.planSeq ctx ∨
      (kind = 0 ∧ ∃ u ∈ s.units, u.ctx = ctx ∧ u.kind = 2 ∧ u.staged = true) ∨
      (kind = 2 ∧ ((s.learn ctx).run ≠ none ∨ ∃ u ∈ s.units, u.ctx = ctx ∧ u.kind = 0 ∧ u.staged = true)) := by
  rw [State.registerBars, Bool.or_eq_true, State.openKind_iff, State.openKind_iff, Option.isSome_iff_ne_none,
    toNat_eq_lit kind (k := 3) (by decide), toNat_eq_lit kind (k := 0) (by decide),
    toNat_eq_lit kind (k := 2) (by decide), or_comm (a := ∃ u ∈ s.units, u.ctx = ctx ∧ u.kind = 0 ∧ _)]
  rfl

/-- Settles O12: a unit that nothing bars is appended, and the context's sequence is shown again; one that is barred
changes nothing. -/
theorem unitRegistered : Obligations.UnitRegistered := by
  intro s ctx kind seq first last group
  have run : exec (.sealRegister ctx kind seq first last group) s = .next (s.sealRegister ctx.val kind.toNat seq.toNat
    first.toNat last.toNat (group.map fun p => (p.1.toNat, p.2.toNat))) := rfl
  rw [Unchanged, run]
  refine ⟨fun hkind hseq hstep hturn => ?_, fun barred => ?_⟩
  · have free : ¬ s.registerBars ctx.val kind.toNat seq.toNat := by
      rw [State.registerBars_iff]
      rintro (h | h | ⟨h, u, hu, hc, hk, hs⟩ | ⟨h, hr | ⟨u, hu, hc, hk, hs⟩⟩)
      · exact hkind h
      · exact h hseq
      · simp [hstep h u hu hc hk] at hs
      · exact hr (hturn h).1
      · simp [(hturn h).2 u hu hc hk] at hs
    rw [State.sealRegister_taken _ _ _ free]
    refine ⟨_, rfl, rfl, ?_, fun c hc => ?_, fun least => ?_, ?_, rfl⟩
    · exact cget_cset_same ..
    · exact cget_cset_other _ _ _ hc
    · refine State.refreshSeq_least _ ⟨_, List.mem_append_right _ (List.mem_singleton_self _), rfl, rfl⟩ ?_ seq.isLt
      intro u hu hc
      rcases List.mem_append.1 hu with hu | hu
      · exact least u hu hc
      · rw [List.mem_singleton.1 hu]; exact Nat.le_refl _
    · exact OnlyFields.put _ _ _ _ _ (by decide) (List.mem_singleton_self _)
  · rw [State.sealRegister_barred _ _ _ ((s.registerBars_iff _ _ _).2 barred)]

end Sys2Proof.Machine
end

section
/-! PROOFS. What sending on the armature and posting a collective leave alone (R51, R58 to R64). -/

namespace Sys2Proof.Machine

/-! Sending changes registers, links and the armature's own record alone -/

/-- The state without its registers, its links and what it knows of the armature. -/
def State.offArm (s : State) : State := { s with regs := [], arm := State.reset.arm, links := [] }

theorem State.mem_of_offArm {s t : State} (h : t.offArm = s.offArm) : t.mem = s.mem :=
  (congrArg State.mem h : t.offArm.mem = s.offArm.mem)

theorem State.cores_of_offArm {s t : State} (h : t.offArm = s.offArm) : t.cores = s.cores :=
  (congrArg State.cores h : t.offArm.cores = s.offArm.cores)

theorem State.units_of_offArm {s t : State} (h : t.offArm = s.offArm) : t.units = s.units :=
  (congrArg State.units h : t.offArm.units = s.offArm.units)

theorem State.outcomes_of_offArm {s t : State} (h : t.offArm = s.offArm) : t.outcomes = s.outcomes :=
  (congrArg State.outcomes h : t.offArm.outcomes = s.offArm.outcomes)

theorem State.strokes_of_offArm {s t : State} (h : t.offArm = s.offArm) : t.strokes = s.strokes :=
  (congrArg State.strokes h : t.offArm.strokes = s.offArm.strokes)

theorem foldl_offArm {α : Type} (f : State → α → State) (l : List α) (s : State)
    (h : ∀ s x, (f s x).offArm = s.offArm) : (l.foldl f s).offArm = s.offArm := by
  induction l generalizing s with
  | nil => rfl
  | cons x l ih => rw [List.foldl_cons, ih, h]

@[simp] theorem State.put_offArm (s : State) (b : Nat) (f : Fld) (v i : Nat) : (s.put b f v i).offArm = s.offArm :=
  Eq.trans rfl rfl
@[simp] theorem State.count_offArm (s : State) (b : Nat) (f : Fld) (n i : Nat) : (s.count b f n i).offArm = s.offArm :=
  Eq.trans rfl rfl
@[simp] theorem State.armHeard_offArm (s : State) : s.armHeard.offArm = s.offArm := Eq.trans rfl rfl
@[simp] theorem State.armFrame_offArm (s : State) (l : Nat) (ws : List Word) : (s.armFrame l ws).offArm = s.offArm :=
  Eq.trans rfl rfl
@[simp] theorem State.see_offArm (s : State) (m : ArmMsg) : (s.see m).offArm = s.offArm := Eq.trans rfl rfl
@[simp] theorem State.dropColl_offArm (s : State) (mtype tag : Nat) : (s.dropColl mtype tag).offArm = s.offArm :=
  Eq.trans rfl rfl
@[simp] theorem State.putColl_offArm (s : State) (c : Coll) : (s.putColl c).offArm = s.offArm := Eq.trans rfl rfl
@[simp] theorem State.collEnd_offArm (s : State) (tag st : Nat) : (s.collEnd tag st).offArm = s.offArm := Eq.trans rfl rfl
@[simp] theorem State.mkMsg_offArm (s : State) (mtype dest ctx tag : Nat) (payload : List Word) (ops stage : Nat)
    (subject : Word) : (s.mkMsg mtype dest ctx tag payload ops stage subject).2.offArm = s.offArm := Eq.trans rfl rfl

@[simp] theorem State.armFrames_offArm (s : State) (ls : List Nat) (ws : List Word) :
    (s.armFrames ls ws).offArm = s.offArm := foldl_offArm _ _ _ fun s _ => s.armFrame_offArm ..

@[simp] theorem State.countForward_offArm (s : State) (ls : List Nat) : (s.countForward ls).offArm = s.offArm :=
  foldl_offArm _ _ _ fun s _ => s.count_offArm ..

@[simp] theorem State.flood_offArm (s : State) (mtype ctx : Nat) (payload : List Word) (subject : Word) :
    (s.flood mtype ctx payload subject).offArm = s.offArm := by simp [State.flood]

@[simp] theorem State.forwardFlood_offArm (s : State) (l : Nat) (m : ArmMsg) :
    (s.forwardFlood l m).offArm = s.offArm := by simp [State.forwardFlood]

@[simp] theorem State.sendTo_offArm (s : State) (dest : Nat) (m : ArmMsg) : (s.sendTo dest m).offArm = s.offArm := by
  unfold State.sendTo; split <;> simp

@[simp] theorem State.forwardTo_offArm (s : State) (m : ArmMsg) : (s.forwardTo m).offArm = s.offArm := by
  unfold State.forwardTo; split <;> simp

@[simp] theorem State.stageSend_offArm (s : State) (c : Coll) : (s.stageSend c).offArm = s.offArm := by
  unfold State.stageSend
  dsimp only
  rw [foldl_offArm, State.mkMsg_offArm]
  intro s y
  split
  · split <;> simp
  · rfl

theorem ite_offArm {p : Prop} [Decidable p] {a b s : State} (ha : a.offArm = s.offArm) (hb : b.offArm = s.offArm) :
    (if p then a else b).offArm = s.offArm := by split <;> assumption

@[simp] theorem State.stageRelay_offArm (s : State) (c : Coll) (h : Heard) : (s.stageRelay c h).offArm = s.offArm := by
  unfold State.stageRelay
  refine ite_offArm ?_ rfl
  split
  · refine ite_offArm rfl ?_
    split
    · split <;> simp
    · rfl
  · rfl

@[simp] theorem State.collRun_offArm (s : State) (fuel : Nat) (c : Coll) : (s.collRun fuel c).1.offArm = s.offArm := by
  induction fuel generalizing s c with
  | zero => rfl
  | succ n ih =>
    rw [State.collRun]
    split
    · rfl
    · split
      · rfl
      · rfl
      · rw [ih]; split <;> simp

@[simp] theorem State.collPost_offArm (s : State) (mtype tag ctx : Nat) (subject : Word) (ops : List Nat)
    (group : List (Nat × Nat)) (value : List Word) (purpose : Nat) (poster : Nat × Nat × Nat × Nat) (kind : Nat) :
    (s.collPost mtype tag ctx subject ops group value purpose poster kind).offArm = s.offArm := by
  unfold State.collPost
  dsimp only
  split
  · rfl
  · rw [State.putColl_offArm, State.collRun_offArm]
    split
    · rw [State.stageSend_offArm, foldl_offArm]; exact fun s _ => s.stageRelay_offArm ..
    · rw [foldl_offArm]; exact fun s _ => s.stageRelay_offArm ..

/-! A flood changes no register, and beside its own number and what is seen nothing of the armature's record -/

@[simp] theorem State.armFrames_arm (s : State) (ls : List Nat) (ws : List Word) : (s.armFrames ls ws).arm = s.arm := by
  induction ls generalizing s with
  | nil => rfl
  | cons l ls ih => exact (ih _).trans rfl

@[simp] theorem State.armFrames_regs (s : State) (ls : List Nat) (ws : List Word) :
    (s.armFrames ls ws).regs = s.regs := by
  induction ls generalizing s with
  | nil => rfl
  | cons l ls ih => exact (ih _).trans rfl

@[simp] theorem State.countForward_arm (s : State) (ls : List Nat) : (s.countForward ls).arm = s.arm := by
  unfold State.countForward
  induction ls generalizing s with
  | nil => rfl
  | cons l ls ih => rw [List.foldl_cons, ih, State.count_arm]

theorem State.flood_arm (s : State) (mtype ctx : Nat) (payload : List Word) (subject : Word) :
    ∃ m, (s.flood mtype ctx payload subject).arm =
      { s.arm with msgSeq := (s.arm.msgSeq + 1) % 2 ^ 32, seen := m :: s.arm.seen } :=
  ⟨_, State.armFrames_arm ..⟩

@[simp] theorem State.flood_regs (s : State) (mtype ctx : Nat) (payload : List Word) (subject : Word) :
    (s.flood mtype ctx payload subject).regs = s.regs := State.armFrames_regs ..

theorem State.forwardFlood_arm (s : State) (l : Nat) (m : ArmMsg) : (s.forwardFlood l m).arm = (s.see m).arm := by
  simp [State.forwardFlood]

theorem State.seenMsg_forwardFlood (s : State) (l : Nat) (m : ArmMsg) : (s.forwardFlood l m).seenMsg m = true := by
  simp [State.seenMsg, State.forwardFlood_arm, State.see]

/-! The collectives in flight -/

/-- The state with other collectives in flight. -/
def State.withColls (s : State) (l : List Coll) : State := { s with arm := { s.arm with colls := l } }

@[simp] theorem State.withColls_colls (s : State) (l : List Coll) : (s.withColls l).arm.colls = l := rfl

@[simp] theorem State.withColls_withColls (s : State) (l m : List Coll) :
    (s.withColls l).withColls m = s.withColls m := rfl

@[simp] theorem State.withColls_offArm (s : State) (l : List Coll) : (s.withColls l).offArm = s.offArm := Eq.trans rfl rfl

theorem State.withColls_same {s : State} {l : List Coll} (h : s.arm.colls = l) : s.withColls l = s := by
  rw [State.withColls, ← h]

@[simp] theorem State.findColl_dropColl (s : State) (mtype tag : Nat) :
    (s.dropColl mtype tag).findColl mtype tag = none := by
  simp only [State.findColl, State.dropColl, List.find?_eq_none, List.mem_filter]
  rintro x ⟨-, apart⟩ same
  simp [same] at apart

theorem State.findColl_none_of_colls {s : State} (h : s.arm.colls = []) (mtype tag : Nat) :
    s.findColl mtype tag = none := by
  rw [State.findColl, h]; rfl

/-- The only collective in flight is found by its own type and tag, and taken away. -/
theorem State.findColl_single {s : State} {c : Coll} (h : s.arm.colls = [c]) : s.findColl c.mtype c.tag = some c := by
  simp [State.findColl, h]

theorem State.dropColl_single {s : State} {c : Coll} (h : s.arm.colls = [c]) :
    s.dropColl c.mtype c.tag = s.withColls [] := by
  simp [State.dropColl, State.withColls, h]

theorem State.putColl_none {s : State} (h : s.arm.colls = []) (c : Coll) :
    s.putColl c = s.withColls [c] := by
  simp [State.putColl, State.dropColl, State.withColls, h]

theorem State.putColl_single {s : State} {c x : Coll} (h : s.arm.colls = [x]) (hm : c.mtype = x.mtype)
    (ht : c.tag = x.tag) :
    s.putColl c = s.withColls [c] := by
  simp [State.putColl, hm, ht, State.dropColl_single h, State.withColls]

/-- The collective of a member that is alone in its group, posted in a stroke: its own words are the result (R61). -/
def Coll.alone (mtype tag ctx : Nat) (subject : Word) (ops : List Nat) (group : List (Nat × Nat)) (value : List Word)
    (purpose : Nat) (poster : Nat × Nat × Nat × Nat) (kind stroke : Nat) : Coll :=
  { Coll.fresh mtype tag with
    ctx := ctx, kind := kind, subject := subject, ops := ops, group := group, value := value, posted := true, dim := 4,
    result := some value, purpose := purpose, poster := poster, stroke := stroke }

theorem State.collPost_alone {s : State} (mtype tag ctx : Nat) (subject : Word) (ops : List Nat)
    {group : List (Nat × Nat)} (value : List Word) (purpose : Nat) (poster : Nat × Nat × Nat × Nat) (kind : Nat)
    (running : s.devState ≠ Dev.halted) (none : s.arm.colls = []) (alone : s.nextDim group 0 = 4) :
    s.collPost mtype tag ctx subject ops group value purpose poster kind =
      s.withColls [Coll.alone mtype tag ctx subject ops group value purpose poster kind s.stroke] := by
  rw [State.collPost, if_neg running]
  simp only [State.findColl_none_of_colls none, Option.getD_none, alone, Coll.fresh, Coll.alone, List.foldl_nil,
    Nat.lt_irrefl,
    if_false, State.collRun, Nat.le_refl, if_true, State.putColl_none none]

end Sys2Proof.Machine
end

section
/-! PROOFS. Votes, outcomes and queries of a unit (R63, R75 to R77, R82), and O13 and O14. -/

namespace Sys2Proof.Machine

/-! A unit found and put back -/

theorem State.findUnit_mem {s : State} {ctx seq : Nat} {u : SealUnit} (h : s.findUnit ctx seq = some u) :
    u ∈ s.units ∧ u.ctx = ctx ∧ u.seq = seq := by
  have named := List.find?_some h
  simp only [Bool.and_eq_true, beq_iff_eq] at named
  exact ⟨List.mem_of_find?_eq_some h, named⟩

theorem State.findUnit_congr {s t : State} (h : t.units = s.units) (ctx seq : Nat) :
    t.findUnit ctx seq = s.findUnit ctx seq := by
  rw [State.findUnit, h, State.findUnit]

/-- A unit put back stands where one of its context and sequence stood, and every other unit is found as before. -/
theorem State.findUnit_setUnit (s : State) (v : SealUnit) (ctx seq : Nat) :
    (s.setUnit v).findUnit ctx seq =
      if v.ctx = ctx ∧ v.seq = seq then (s.findUnit ctx seq).map fun _ => v else s.findUnit ctx seq := by
  unfold State.findUnit State.setUnit
  dsimp only
  induction s.units with
  | nil => simp
  | cons u us ih =>
    by_cases hv : v.ctx = ctx ∧ v.seq = seq
    · obtain ⟨rfl, rfl⟩ := hv
      by_cases hu : u.ctx = v.ctx ∧ u.seq = v.seq
      · simp [hu]
      · simp only [List.map_cons, List.find?_cons, Bool.and_eq_true, beq_iff_eq, hu, if_false, and_self, if_true] at ih ⊢
        have apart : (u.ctx == v.ctx && u.seq == v.seq) = false := by simpa using hu
        simp only [apart, ih]
    · by_cases hu : u.ctx = v.ctx ∧ u.seq = v.seq
      · have apart : (v.ctx == ctx && v.seq == seq) = false := by simpa using hv
        obtain ⟨hc, hq⟩ := hu
        simp only [List.map_cons, List.find?_cons, Bool.and_eq_true, beq_iff_eq, hc, hq, and_self, if_true, apart, hv,
          if_false] at ih ⊢
        exact ih
      · simp only [List.map_cons, List.find?_cons, Bool.and_eq_true, beq_iff_eq, hu, if_false, hv] at ih ⊢
        rw [ih]

theorem State.findUnit_setUnit_same {s : State} {ctx seq : Nat} {u v : SealUnit} (h : s.findUnit ctx seq = some u)
    (hc : v.ctx = u.ctx) (hq : v.seq = u.seq) : (s.setUnit v).findUnit ctx seq = some v := by
  obtain ⟨-, rfl, rfl⟩ := State.findUnit_mem h
  rw [State.findUnit_setUnit, if_pos ⟨hc, hq⟩, h]
  rfl

/-- A unit put twice stands as it was put last. -/
theorem State.setUnit_setUnit (s : State) {v w : SealUnit} (hc : w.ctx = v.ctx) (hq : w.seq = v.seq) :
    (s.setUnit v).setUnit w = s.setUnit w := by
  simp only [State.setUnit, List.map_map, hc, hq]
  congr 1
  apply List.map_congr_left
  intro u _
  by_cases hu : u.ctx = v.ctx ∧ u.seq = v.seq
  · simp [hu]
  · simp only [Function.comp_apply, Bool.and_eq_true, beq_iff_eq, hu, if_false]

@[simp] theorem State.setUnit_units_length (s : State) (u : SealUnit) : (s.setUnit u).units.length = s.units.length :=
  List.length_map ..

theorem word_toNat_w32 (seq : W32) : (word seq.toNat).toNat = seq.toNat := by
  rw [BitVec.toNat_ofNat]
  have := seq.isLt
  omega

/-! Taking the results of votes and outcomes -/

/-- A unit but for what the votes and outcomes of its members say of it. -/
def SealUnit.unjudged (u : SealUnit) : SealUnit := { u with vote := none, outcome := none, due := none }

/-- Memory and cores are as before, and so is every unit but for what the votes and outcomes say of it. -/
def State.OnlyJudged (s t : State) : Prop :=
  t.mem = s.mem ∧ t.cores = s.cores ∧ t.units.length = s.units.length ∧
    ∀ ctx seq, (t.findUnit ctx seq).map (·.unjudged) = (s.findUnit ctx seq).map (·.unjudged)

theorem State.OnlyJudged.trans {s t r : State} (h : s.OnlyJudged t) (k : t.OnlyJudged r) : s.OnlyJudged r := by
  obtain ⟨hm, hc, hl, hf⟩ := h
  obtain ⟨km, kc, kl, kf⟩ := k
  exact ⟨km.trans hm, kc.trans hc, kl.trans hl, fun ctx seq => (kf ctx seq).trans (hf ctx seq)⟩

theorem State.OnlyJudged.of_offArm {s t : State} (h : t.offArm = s.offArm) : s.OnlyJudged t :=
  ⟨State.mem_of_offArm h, State.cores_of_offArm h, by rw [State.units_of_offArm h],
    fun ctx seq => by rw [State.findUnit_congr (State.units_of_offArm h)]⟩

theorem State.OnlyJudged.setUnit {s : State} {ctx seq : Nat} {u v : SealUnit} (h : s.findUnit ctx seq = some u)
    (hv : v.unjudged = u.unjudged) : s.OnlyJudged (s.setUnit v) := by
  have hc : v.ctx = u.ctx := (congrArg SealUnit.ctx hv : v.unjudged.ctx = u.unjudged.ctx)
  have hq : v.seq = u.seq := (congrArg SealUnit.seq hv : v.unjudged.seq = u.unjudged.seq)
  refine ⟨rfl, rfl, State.setUnit_units_length s v, fun ctx' seq' => ?_⟩
  obtain ⟨-, rfl, rfl⟩ := State.findUnit_mem h
  rw [State.findUnit_setUnit]
  by_cases same : v.ctx = ctx' ∧ v.seq = seq'
  · obtain ⟨rfl, rfl⟩ := same
    rw [if_pos ⟨rfl, rfl⟩, hc, hq, h]
    exact congrArg some hv
  · rw [if_neg same]

/-- What becomes of one collective when results are taken: the step of `State.takeVotes`. -/
def State.takeVote (s : State) (c : Coll) : State :=
  match c.result with
  | none => s
  | some ws =>
    if c.purpose = 1 ∨ c.purpose = 2 then
      let s := s.dropColl c.mtype c.tag
      match s.findUnit c.ctx c.subject.toNat with
      | none => s
      | some u =>
        if s.stroke ≠ c.stroke ∨ s.strokes.ended = true then s
        else if c.purpose = 1 then s.setUnit { u with vote := some ws }
        else if u.outcome.isSome then s
        else s.setUnit { u with outcome := some (ws.getD 0 0 == 1), due := some c.stroke }
    else s

theorem State.takeVotes_eq (s : State) : s.takeVotes = s.arm.colls.foldl State.takeVote s := rfl

theorem State.takeVote_onlyJudged (s : State) (c : Coll) : s.OnlyJudged (s.takeVote c) := by
  have same : s.OnlyJudged s := .of_offArm rfl
  have dropped : s.OnlyJudged (s.dropColl c.mtype c.tag) := .of_offArm (s.dropColl_offArm ..)
  unfold State.takeVote
  dsimp only
  split
  · exact same
  · split
    · split
      · exact dropped
      · rename_i u found
        split
        · exact dropped
        · split
          · exact dropped.trans (.setUnit found rfl)
          · split
            · exact dropped
            · exact dropped.trans (.setUnit found rfl)
    · exact same

theorem State.takeVotes_onlyJudged (s : State) : s.OnlyJudged s.takeVotes := by
  have fold : ∀ (l : List Coll) (t : State), t.OnlyJudged (l.foldl State.takeVote t) := by
    intro l
    induction l with
    | nil => exact fun t => .of_offArm rfl
    | cons c l ih => exact fun t => (t.takeVote_onlyJudged c).trans (ih _)
  exact fold _ s

section
variable {s : State} {c : Coll} {ws : List Word} {u : SealUnit} (only : s.arm.colls = [c]) (result : c.result = some ws)
  (found : s.findUnit c.ctx c.subject.toNat = some u) (now : c.stroke = s.stroke) (early : s.strokes.ended = false)
include only result found now early

/-- In the stroke of its posting and before the budget end, a result of a vote or an outcome goes to its unit. -/
theorem State.takeVotes_single (judges : c.purpose = 1 ∨ c.purpose = 2) :
    s.takeVotes = if c.purpose = 1 then (s.withColls []).setUnit { u with vote := some ws }
      else if u.outcome.isSome then (s.withColls [])
      else (s.withColls []).setUnit
        { u with outcome := some (ws.getD 0 0 == 1), due := some c.stroke } := by
  have find : (s.dropColl c.mtype c.tag).findUnit c.ctx c.subject.toNat = some u := found
  have time : ¬ ((s.dropColl c.mtype c.tag).stroke ≠ c.stroke ∨ (s.dropColl c.mtype c.tag).strokes.ended = true) := by
    rintro (h | h)
    · exact h now.symm
    · exact absurd (early.symm.trans h) (by decide)
  rw [State.takeVotes_eq, only, List.foldl_cons, List.foldl_nil]
  simp only [State.takeVote, result, if_pos judges, find, if_neg time]
  rw [State.dropColl_single only]

theorem State.takeVotes_vote (vote : c.purpose = 1) :
    s.takeVotes = (s.withColls []).setUnit { u with vote := some ws } := by
  rw [State.takeVotes_single only result found now early (.inl vote), if_pos vote]

/-- An outcome is due at that stroke's edge. -/
theorem State.takeVotes_outcome (outcome : c.purpose = 2) (open_ : u.outcome = none) :
    s.takeVotes = (s.withColls []).setUnit
      { u with outcome := some (ws.getD 0 0 == 1), due := some s.stroke } := by
  rw [State.takeVotes_single only result found now early (.inr outcome), if_neg (by omega), if_neg (by simp [open_]),
    now]

end

/-! Posting the vote and the outcome -/

/-- The stroke and the device state in which a unit's vote is posted (R76, R82). -/
def State.votesNow (s : State) (u : SealUnit) : Bool :=
  u.staged && !u.voted && u.k.map (· + s.sealWait + 1) == some s.stroke && s.devState != Dev.halted

def State.postsNow (s : State) (u : SealUnit) : Bool :=
  u.staged && u.voted && !u.posted && u.k.map (· + s.sealWait + 2) == some s.stroke && s.devState != Dev.halted

section
variable {s : State} {ctx seq : Nat} {u : SealUnit} (found : s.findUnit ctx seq = some u)
include found

theorem State.votePost_eq : s.votePost ctx seq = if s.votesNow u then
    ((s.setUnit { u with voted := true }).collPost 0x07 (voteTag ctx seq) ctx (word seq) [0x6, 0x5, 0x4, 0x0] u.group
      [u.reasons.setWidth 64, word seq, word seq, 0] 1).takeVotes else s := by
  rw [State.votePost, found]
  rfl

theorem State.outcomePost_eq : s.outcomePost ctx seq = if s.postsNow u then
    ((s.setUnit { u with posted := true, reasons := voteReasons u }).collPost 0x08 (voteTag ctx seq) ctx (word seq)
      [0x7, 0x0, 0x0, 0x0] u.group [if voteReasons u = 0 then 1 else 0, 0, 0, 0] 2).takeVotes else s := by
  rw [State.outcomePost, found]
  rfl

/-- A unit changed and a collective posted for it: memory, cores and the number of units stay, and so does the unit but
for what its members say of it. -/
theorem State.posted_onlyJudged {v : SealUnit} (hc : v.ctx = u.ctx) (hq : v.seq = u.seq) (mtype tag : Nat)
    (subject : Word)
    (ops : List Nat) (group : List (Nat × Nat)) (value : List Word) (purpose : Nat) :
    ∃ w, (((s.setUnit v).collPost mtype tag ctx subject ops group value purpose).takeVotes).findUnit ctx seq = some w ∧
      w.unjudged = v.unjudged ∧
      (((s.setUnit v).collPost mtype tag ctx subject ops group value purpose).takeVotes).units.length = s.units.length ∧
      (((s.setUnit v).collPost mtype tag ctx subject ops group value purpose).takeVotes).mem = s.mem ∧
      (((s.setUnit v).collPost mtype tag ctx subject ops group value purpose).takeVotes).cores = s.cores := by
  have posted : (s.setUnit v).OnlyJudged ((s.setUnit v).collPost mtype tag ctx subject ops group value purpose) :=
    .of_offArm (State.collPost_offArm ..)
  obtain ⟨mem, cores, length, find⟩ := posted.trans (State.takeVotes_onlyJudged _)
  have judged := find ctx seq
  rw [State.findUnit_setUnit_same found hc hq, Option.map_some, Option.map_eq_some_iff] at judged
  obtain ⟨w, hw, same⟩ := judged
  exact ⟨w, hw, same, length.trans (s.setUnit_units_length v), mem, cores⟩

end

/-- A vote result that its members gave: what is left of it in the unit (R76). -/
theorem voteReasons_some {u : SealUnit} {a b c d : Word} (h : u.vote = some [a, b, c, d]) :
    voteReasons u = if b = word u.seq ∧ c = word u.seq then a.setWidth 16
      else a.setWidth 16 ||| (1#16 <<< Reason.mismatch) := by
  simp [voteReasons, h]

theorem voteReasons_none {u : SealUnit} (h : u.vote = none) :
    voteReasons u = u.reasons ||| (1#16 <<< Reason.missing) := by
  simp [voteReasons, h]

/-- The outcome's word says 1 exactly when no reason stands. -/
theorem outcomeWord_good (r : Half) : ((if r = 0 then 1 else 0 : Word) == 1) = decide (r = 0) := by
  by_cases h : r = 0
  · rw [if_pos h, decide_eq_true h]; rfl
  · rw [if_neg h, decide_eq_false h]; rfl

section
variable {s : State} {ctx seq : Nat} {u v : SealUnit} {group : List (Nat × Nat)} {subject : Word}
  (found : s.findUnit ctx seq = some u) (hc : v.ctx = u.ctx) (hq : v.seq = u.seq) (named : subject.toNat = seq)
  (running : s.devState ≠ Dev.halted) (none : s.arm.colls = []) (alone : s.nextDim group 0 = 4)
  (early : s.strokes.ended = false)
include found hc hq named running none alone early

/-- Alone in its group and before the budget end, a unit's vote is its own words at once. -/
theorem State.vote_alone (tag : Nat) (ops : List Nat) (value : List Word) :
    ((s.setUnit v).collPost 0x07 tag ctx subject ops group value 1).takeVotes =
      s.setUnit { v with vote := some value } := by
  rw [State.collPost_alone (s := s.setUnit v) _ _ _ _ _ _ _ _ _ running none alone]
  have own : (s.setUnit v).findUnit ctx subject.toNat = some v := named ▸ State.findUnit_setUnit_same found hc hq
  rw [State.takeVotes_vote (s := (s.setUnit v).withColls _)
    (c := Coll.alone 0x07 tag ctx subject ops group value 1 (0, 0, 0, 0) 3 (s.setUnit v).stroke)
    rfl rfl own rfl early rfl,
    State.withColls_withColls, State.withColls_same (s := s.setUnit v) none]
  exact s.setUnit_setUnit rfl rfl

/-- And its outcome is decided at once, due at that stroke's edge. -/
theorem State.outcome_alone (tag : Nat) (ops : List Nat) (value : List Word) (open_ : v.outcome = .none) :
    ((s.setUnit v).collPost 0x08 tag ctx subject ops group value 2).takeVotes =
      s.setUnit { v with outcome := some (value.getD 0 0 == 1), due := some s.stroke } := by
  rw [State.collPost_alone (s := s.setUnit v) _ _ _ _ _ _ _ _ _ running none alone]
  have own : (s.setUnit v).findUnit ctx subject.toNat = some v := named ▸ State.findUnit_setUnit_same found hc hq
  rw [State.takeVotes_outcome (s := (s.setUnit v).withColls _)
    (c := Coll.alone 0x08 tag ctx subject ops group value 2 (0, 0, 0, 0) 3 (s.setUnit v).stroke)
    rfl rfl own rfl early rfl open_,
    State.withColls_withColls, State.withColls_same (s := s.setUnit v) none]
  exact s.setUnit_setUnit rfl rfl

end

/-- Settles O13: the two commands post exactly in their strokes, and alone in its group the unit takes its own words. -/
theorem voteAndOutcomePosted : Obligations.VoteAndOutcomePosted := by
  intro s ctx seq u found
  have runVote : exec (.votePost ctx seq) s = .next (s.votePost ctx.val seq.toNat) := rfl
  have runOutcome : exec (.outcomePost ctx seq) s = .next (s.outcomePost ctx.val seq.toNat) := rfl
  have seqOf : u.seq = seq.toNat := (State.findUnit_mem found).2.2
  rw [Unchanged, Unchanged, runVote, runOutcome, State.votePost_eq found, State.outcomePost_eq found]
  refine ⟨fun staged unvoted now running => ?_, fun idle => ?_, fun staged voted unposted running now => ?_,
    fun idle => ?_⟩
  · have due : s.votesNow u = true := by simp [State.votesNow, staged, unvoted, State.sealWait, now, running]
    rw [if_pos due]
    refine ⟨?_, fun none alone early => ?_⟩
    · obtain ⟨v, hv, same, length, mem, cores⟩ := State.posted_onlyJudged found (v := { u with voted := true }) rfl rfl
        0x07 (voteTag ctx.val seq.toNat) (word seq.toNat) [0x6, 0x5, 0x4, 0x0] u.group
        [u.reasons.setWidth 64, word seq.toNat, word seq.toNat, 0] 1
      exact ⟨_, v, rfl, hv, (congrArg SealUnit.voted same :), (congrArg SealUnit.reasons same :), length, mem, cores⟩
    · rw [State.vote_alone found (v := { u with voted := true }) rfl rfl (word_toNat_w32 seq) running none alone early]
  · have idle' : s.votesNow u = false := by
      rcases idle with h | h | h | h <;> simp [State.votesNow, State.sealWait, h]
    rw [idle']
    rfl
  · have due : s.postsNow u = true := by simp [State.postsNow, staged, voted, unposted, State.sealWait, now, running]
    rw [if_pos due]
    refine ⟨?_, fun r none alone early open_ hr => ?_⟩
    · obtain ⟨v, hv, same, length, mem, cores⟩ := State.posted_onlyJudged found
        (v := { u with posted := true, reasons := voteReasons u }) rfl rfl 0x08 (voteTag ctx.val seq.toNat)
        (word seq.toNat) [0x7, 0x0, 0x0, 0x0] u.group [if voteReasons u = 0 then 1 else 0, 0, 0, 0] 2
      exact ⟨_, v, rfl, hv, (congrArg SealUnit.posted same :), length, mem, cores⟩
    · have reasons : voteReasons u = r := by
        rcases hr with ⟨novote, rfl⟩ | ⟨a, b, c, d, vote, rfl⟩
        · exact voteReasons_none novote
        · exact voteReasons_some vote
      rw [State.outcome_alone found (v := { u with posted := true, reasons := voteReasons u }) rfl rfl
        (word_toNat_w32 seq) running none alone early _ _ _ open_, List.getD_cons_zero, outcomeWord_good, reasons]
  · have idle' : s.postsNow u = false := by
      rcases idle with h | h | h | h | h <;> simp [State.postsNow, State.sealWait, h]
    rw [idle']
    rfl

/-! No outcome, and a reply -/

section
variable {s : State} {ctx seq : Nat} {u : SealUnit} (found : s.findUnit ctx seq = some u)
include found

/-- A staged unit without an outcome that has not asked, in stroke V + 1 or V + 2 (R77). -/
theorem State.outcomeMissing_eq (staged : u.staged = true) (open_ : u.outcome = none) (unasked : u.queried = false)
    (now : u.k.map (· + s.get Base.device Reg.sealWait + 2) = some s.stroke ∨
      u.k.map (· + s.get Base.device Reg.sealWait + 3) = some s.stroke) :
    s.outcomeMissing ctx seq =
      if u.voted = false then s.setUnit { u with outcome := some false, due := some s.stroke }
      else if u.k.map (· + s.get Base.device Reg.sealWait + 2) = some s.stroke then s
      else ((s.setUnit { u with queried := true, due := some s.stroke }).dropColl 0x08 (voteTag ctx seq)).flood 0x04 ctx []
        (word seq) := by
  obtain ⟨k, hk⟩ : ∃ k, u.k = some k := by
    cases hk : u.k with
    | none => simp [hk] at now
    | some k => exact ⟨k, rfl⟩
  rw [hk, Option.map_some, Option.map_some, Option.some.injEq, Option.some.injEq, ← State.sealWait] at now
  have guard : (k + s.sealWait + 2 == s.stroke || k + s.sealWait + 2 + 1 == s.stroke) = true := by
    simp only [Bool.or_eq_true, beq_iff_eq]
    omega
  rw [State.outcomeMissing, found, ← State.sealWait]
  simp only [staged, open_, unasked, hk, Option.map_some, Option.isNone_none, Bool.not_false, Bool.and_true,
    Option.some_beq_some, guard, if_true]
  cases voted : u.voted
  · rfl
  · by_cases first : k + s.sealWait + 2 = s.stroke
    · simp [first]
    · have second : k + s.sealWait + 2 + 1 = s.stroke := by omega
      simp [first, second]

theorem State.outcomeTimeout_eq :
    s.outcomeTimeout ctx seq = if u.queried = true ∧ u.outcome = none ∧ u.due = some s.stroke then
      s.setUnit { u with outcome := some false } else s := by
  simp [State.outcomeTimeout, found, and_assoc]

end

/-- A reply for this device decides the unit that it names, if that asked and has no outcome. -/
theorem State.replyTake_own {s : State} {m : ArmMsg} {u : SealUnit}
    (found : s.findUnit m.ctx.toNat m.subject.toNat = some u) (own : m.dest.toNat = s.myNum) :
    s.replyTake m = if u.queried = true ∧ u.outcome = none then
      s.setUnit { u with outcome := some (m.payload.getD 0 0 == 0) } else s := by
  simp [State.replyTake, own, State.outcomeTake, found]

theorem State.replyTake_far {s : State} {m : ArmMsg} (far : m.dest.toNat ≠ s.myNum) : s.replyTake m = s.forwardTo m :=
  if_neg far

/-- Settles O14: the two commands act in their strokes alone, and only a reply for this device reaches its units. -/
theorem outcomeMissingAndReply : Obligations.OutcomeMissingAndReply := by
  intro s ctx seq u link msg
  have runMissing : exec (.outcomeMissing ctx seq) s = .next (s.outcomeMissing ctx.val seq.toNat) := rfl
  have runTimeout : exec (.outcomeQueryTimeout ctx seq) s = .next (s.outcomeTimeout ctx.val seq.toNat) := rfl
  have runReply : exec (.outcomeReply link msg) s = .next (s.armHeard.replyTake msg) := rfl
  rw [Unchanged, Unchanged, runMissing, runTimeout, runReply]
  refine ⟨fun found staged open_ unasked now => ?_, fun found asked open_ due => ?_, fun found idle => ?_,
    fun found own => ?_, fun far => ?_⟩
  · rw [State.outcomeMissing_eq found staged open_ unasked now]
    refine ⟨fun voted first => ?_, fun voted second => ?_, fun unvoted => ?_⟩
    · have posted : ¬ u.voted = false := by simp [voted]
      rw [if_neg posted, if_pos first]
    · have posted : ¬ u.voted = false := by simp [voted]
      have late : ¬ u.k.map (· + s.get Base.device Reg.sealWait + 2) = some s.stroke := by
        intro first
        cases hk : u.k with
        | none => simp [hk] at second
        | some k =>
          simp only [hk, Option.map_some, Option.some.injEq] at first second
          omega
      rw [if_neg posted, if_neg late]
      generalize hq : (s.setUnit { u with queried := true, due := some s.stroke }).dropColl 0x08
        (voteTag ctx.val seq.toNat) = q
      obtain ⟨m, arm⟩ := State.flood_arm q 0x04 ctx.val [] (word seq.toNat)
      have same : (q.flood 0x04 ctx.val [] (word seq.toNat)).offArm = q.offArm := q.flood_offArm ..
      refine ⟨_, rfl, ?_, ?_, ?_, ?_, ?_⟩
      · rw [State.findUnit_congr (State.units_of_offArm same), ← hq]
        exact State.findUnit_setUnit_same found rfl rfl
      · rw [State.findColl, arm, ← hq]
        exact State.findColl_dropColl ..
      · rw [arm, ← hq]
        rfl
      · rw [State.mem_of_offArm same, ← hq]
        rfl
      · rw [State.cores_of_offArm same, ← hq]
        rfl
    · rw [if_pos unvoted]
  · rw [State.outcomeTimeout_eq found, if_pos ⟨asked, open_, due⟩]
  · rw [State.outcomeTimeout_eq found, if_neg]
    rintro ⟨asked, open_, due⟩
    rcases idle with h | h | h
    · simp [h] at asked
    · exact h open_
    · exact h due
  · have heard : s.armHeard.findUnit msg.ctx.toNat msg.subject.toNat = some u := found
    rw [State.replyTake_own heard own]
    refine ⟨fun asked open_ => ?_, fun idle => ?_⟩
    · rw [if_pos ⟨asked, open_⟩]
      rfl
    · rw [if_neg]
      · rfl
      · rintro ⟨asked, open_⟩
        rcases idle with h | h
        · simp [h] at asked
        · exact h open_
  · rw [State.replyTake_far (show msg.dest.toNat ≠ s.armHeard.myNum from far)]
    have same : (s.armHeard.forwardTo msg).offArm = s.offArm := by simp
    exact ⟨_, rfl, State.units_of_offArm same, State.outcomes_of_offArm same, State.mem_of_offArm same,
      State.cores_of_offArm same⟩

end Sys2Proof.Machine
end

section
/-! PROOFS. Stage messages of a collective of two neighbours (R61, R62, R76), and O16. -/

namespace Sys2Proof.Machine

/-! The operations of Table 02.6 on one word -/

theorem collCombine_getD (ops : List Nat) (a b : List Word) {i : Nat} (h : i < 4) :
    (collCombine ops a b).getD i 0 = collOp (ops.getD i 0) (a.getD i 0) (b.getD i 0) := by
  simp [collCombine, List.getD_eq_getElem?_getD, h]

theorem collOp_max (a b : Word) : (collOp 0x4 a b).toNat = max a.toNat b.toNat := by
  change (if a.toNat < b.toNat then b else a).toNat = _
  split <;> omega

theorem collOp_min (a b : Word) : (collOp 0x5 a b).toNat = min a.toNat b.toNat := by
  change (if b.toNat < a.toNat then b else a).toNat = _
  split <;> omega

/-! A stage of two -/

/-- Two neighbours of a stage: the coordinates `x` and `y` are `lo` and the one above it. -/
def Neighbours (lo x y : Nat) : Prop := (x = lo ∧ y = lo + 1) ∨ (x = lo + 1 ∧ y = lo)

section
variable {s : State} {c : Coll} {lo x y : Nat} (mine : s.coords.getD c.dim 0 = x)
  (pair : c.group.getD c.dim (x, x) = (lo, lo + 1)) (next : Neighbours lo x y)
include mine pair

theorem State.run_pair : s.run c.group c.dim = (lo, lo + 1) := by
  rw [State.run, mine, pair]

theorem State.stageHops_pair : s.stageHops c.group c.dim = 1 := by
  simp only [State.stageHops, State.run_pair mine pair]
  split <;> omega

include next

/-- The one hop of a stage of two is done when the neighbour's message arrives: nothing is passed on. -/
theorem State.stageRelay_pair {h : Heard} (dim : h.dim = c.dim) (coord : h.coord = y)
    (came : (s.fabric[s.peer h.link]?).map (fun r => r.coords.getD h.dim 0) = some y) : s.stageRelay c h = s := by
  unfold State.stageRelay
  dsimp only
  apply if_neg
  rw [Nat.not_lt]
  have two : lo + 1 + 1 - lo = 2 := by omega
  rw [dim] at came
  rw [dim, coord, came, State.stageHops_pair mine pair, State.run_pair mine pair, mine]
  dsimp only
  rw [two]
  cases ring : s.isRing c.group c.dim
  · have back : s.stepCoord c.group c.dim x false = if lo < x then some (x - 1) else none := by
      simp [State.stepCoord, ring, State.run_pair mine pair]
    rw [back]
    rcases next with ⟨rfl, rfl⟩ | ⟨rfl, rfl⟩ <;> simp
  · generalize (some y == s.stepCoord c.group c.dim x false) = up
    have odd : (x + 2 - y) % 2 = 1 ∧ (y + 2 - x) % 2 = 1 := by rcases next with ⟨rfl, rfl⟩ | ⟨rfl, rfl⟩ <;> omega
    obtain ⟨ahead, behind⟩ := odd
    cases up
    · simp [behind]
    · simp [ahead]

/-- With the neighbour's message the values of the stage are there, in the order of their coordinates. -/
theorem State.stageValues_pair {h : Heard} (heard : c.heard = [h]) (dim : h.dim = c.dim) (coord : h.coord = y) :
    s.stageValues c = some (if x = lo then [c.value, h.msg.payload] else [h.msg.payload, c.value]) := by
  have two : lo + 1 + 1 - lo = 2 := by omega
  have members : (List.range 2).map (fun i => lo + i) = [lo, lo + 1] := rfl
  simp only [State.stageValues, State.run_pair mine pair, mine, two, members, heard, List.find?_cons, dim, coord,
    beq_self_eq_true, Bool.true_and]
  rcases next with ⟨rfl, rfl⟩ | ⟨rfl, rfl⟩ <;> simp

end

/-- When a stage's values are there and no dimension is left, their combination is the result (R61). -/
theorem State.collRun_last {s : State} {c : Coll} {v : List Word} {vs : List (List Word)} {n : Nat} (inDim : c.dim < 4)
    (values : s.stageValues c = some (v :: vs)) (last : s.nextDim c.group (c.dim + 1) = 4) :
    s.collRun (n + 2) c = (s, { c with
      value := vs.foldl (collCombine c.ops) v, dim := 4, result := some (vs.foldl (collCombine c.ops) v) }) := by
  rw [State.collRun, if_neg (Nat.not_le.2 inDim), values]
  simp only [last, Nat.lt_irrefl, if_false]
  rw [State.collRun]
  exact if_pos (Nat.le_refl 4)

/-- The collective of two, completed: its combined words are the result (R61). -/
def Coll.paired (c : Coll) (h : Heard) (a b : List Word) : Coll :=
  { c with heard := [h], value := collCombine c.ops a b, dim := 4, result := some (collCombine c.ops a b) }

section
variable {s : State} {l : Nat} {m : ArmMsg} {mtype : Nat} {c : Coll} {a b : List Word}

/-- The other member's message completes a collective of two. -/
theorem State.collHear_pair (pairs : PairStage s l m mtype c a b) (typed : m.mtype.toNat = mtype) :
    ∃ h, s.collHear l m = (s.see m).withColls [c.paired h a b] := by
  obtain ⟨r, lo, x, y, fresh, only, hm, ht, posted, heard, -, inDim, stage, pair, last, src, peer, mine, theirs,
    order⟩ := pairs
  have found : (s.see m).findColl m.mtype.toNat m.tag.toNat = some c := by
    rw [typed, ← hm, ← ht]
    exact State.findColl_single (s := s.see m) only
  have next : Neighbours lo x y := order.imp (fun h => ⟨h.1, h.2.1⟩) fun h => ⟨h.1, h.2.1⟩
  generalize hh : ({ dim := m.stage.toNat, coord := r.coords.getD m.stage.toNat 0, link := l, msg := m } : Heard) = h
  have dim : h.dim = c.dim := by rw [← hh]; exact stage
  have coord : h.coord = y := by rw [← hh, ← theirs, ← stage]
  have payload : h.msg.payload = m.payload := by rw [← hh]
  have came : ((s.see m).fabric[(s.see m).peer h.link]?).map (fun r => r.coords.getD h.dim 0) = some y := by
    have at' : (s.see m).fabric[(s.see m).peer h.link]? = some r := by rw [← hh, ← src, ← peer]; rfl
    rw [at', dim, ← theirs, Option.map_some]
  have relay : (s.see m).stageRelay { c with heard := [h] } h = s.see m :=
    State.stageRelay_pair (s := s.see m) (c := { c with heard := [h] }) mine pair next dim coord came
  have values : (s.see m).stageValues { c with heard := [h] } = some [a, b] := by
    rw [State.stageValues_pair (s := s.see m) (c := { c with heard := [h] }) mine pair next rfl dim coord, payload]
    rcases order with ⟨rfl, -, rfl, rfl⟩ | ⟨rfl, -, rfl, rfl⟩ <;> simp
  have ends : (s.see m).nextDim c.group (c.dim + 1) = 4 := last
  refine ⟨h, ?_⟩
  rw [State.collHear]
  simp only [src, fresh, Bool.false_eq_true, if_false, found, Option.getD_some, heard, List.any_nil, List.nil_append, hh]
  rw [if_pos posted, relay, State.collRun_last (s := s.see m) (c := { c with heard := [h] }) (n := 3) inDim values ends]
  exact State.putColl_single (s := s.see m) only rfl rfl

/-- The first message of a collective that this member has not posted is kept for then. -/
theorem State.collHear_unposted {r : DevRec} (fresh : s.seenMsg m = false) (none : s.arm.colls = [])
    (src : s.fabric[m.src.toNat]? = some r) :
    s.collHear l m = (s.see m).withColls [{ Coll.fresh m.mtype.toNat m.tag.toNat with heard :=
      [{ dim := m.stage.toNat, coord := r.coords.getD m.stage.toNat 0, link := l, msg := m }] }] := by
  have found : (s.see m).findColl m.mtype.toNat m.tag.toNat = .none :=
    State.findColl_none_of_colls (s := s.see m) none _ _
  rw [State.collHear]
  simp only [src, fresh, Bool.false_eq_true, if_false, found, Option.getD_none, Coll.fresh, List.any_nil, List.nil_append]
  exact State.putColl_none (s := s.see m) none _

/-! Who takes a result -/

/-- The state without its memory, registers, counts and answer. -/
def State.offMem (s : State) : State := { s.contents with mem := State.reset.mem }

theorem State.offMem_of_contents {s t : State} (h : t.contents = s.contents) : t.offMem = s.offMem :=
  congrArg (fun u : State => { u with mem := State.reset.mem }) h

theorem State.arm_of_offMem {s t : State} (h : t.offMem = s.offMem) : t.arm = s.arm :=
  (congrArg State.arm h : t.offMem.arm = s.offMem.arm)

@[simp] theorem State.count_offMem (s : State) (b : Nat) (f : Fld) (n i : Nat) : (s.count b f n i).offMem = s.offMem :=
  State.offMem_of_contents (s.count_contents b f n i)

@[simp] theorem State.log_offMem (s : State) (unit action : Nat) (ctx : Option Nat) (source index detail : Nat) :
    (s.log unit action ctx source index detail).offMem = s.offMem :=
  State.offMem_of_contents (s.log_contents unit action ctx source index detail)

@[simp] theorem State.ddrTraffic_offMem (s : State) (a : Nat) (write : Bool) (bytes : Nat) :
    (s.ddrTraffic a write bytes).offMem = s.offMem :=
  State.offMem_of_contents (s.ddrTraffic_contents a write bytes)

/-- Storing changes memory, and beside it only counts. -/
@[simp] theorem State.store_offMem (s : State) (a : Nat) (w : TWord) : (s.store a w).offMem = s.offMem := by
  unfold State.store
  dsimp only
  split <;> simp only [State.count_offMem, State.log_offMem, State.ddrTraffic_offMem] <;> rfl

@[simp] theorem State.stores_offMem (s : State) (a : Nat) (ws : List TWord) : (s.stores a ws).offMem = s.offMem := by
  induction ws generalizing s a with
  | nil => rfl
  | cons w ws ih => exact (ih _ _).trans (s.store_offMem a w)

@[simp] theorem State.evcAdd_arm (s : State) (d c ec n : Nat) : (s.evcAdd d c ec n).arm = s.arm := by
  unfold State.evcAdd
  dsimp only
  split
  · exact State.put_arm ..
  · rw [State.count_arm, State.put_arm]

end

section
variable {s : State} {c : Coll} {ws : List Word} {d k off ec : Nat}

/-- A core's result goes to its place and its event counter, its tag completed with OK (R62). -/
theorem State.takeCores_single (only : s.arm.colls = [c]) (result : c.result = some ws) (core : c.purpose = 0)
    (poster : c.poster = (d, k, off, ec)) (up : s.coreUp d k = true) :
    s.takeCores = (((s.withColls []).collEnd c.tag Status.ok).stores (scratchAddr d k off) (ws.map fresh)).evcAdd
      d k ec 1 := by
  have up' : (((s.withColls []).collEnd c.tag Status.ok).coreUp d k) = true := up
  rw [State.takeCores, only, List.foldl_cons, List.foldl_nil]
  simp only [result, core, if_true, poster, State.dropColl_single only, up']

/-- Taking results is a fold over the collectives in flight that passes over one without a result. -/
theorem State.foldl_noResult {s : State} (h : ∀ c ∈ s.arm.colls, c.result = none) (f : State → Coll → State)
    (hf : ∀ t c, c.result = none → f t c = t) : s.arm.colls.foldl f s = s := by
  have all : ∀ (l : List Coll) (t : State), (∀ c ∈ l, c.result = none) → l.foldl f t = t := by
    intro l
    induction l with
    | nil => exact fun _ _ => rfl
    | cons c l ih =>
      intro t hl
      rw [List.foldl_cons, hf t c (hl c List.mem_cons_self)]
      exact ih t fun x hx => hl x (List.mem_cons_of_mem _ hx)
  exact all _ _ h

theorem State.takeCores_noResult {s : State} (h : ∀ c ∈ s.arm.colls, c.result = none) : s.takeCores = s :=
  State.foldl_noResult h _ fun t c hc => by rw [hc]

/-- With no result there, firmware takes none either. -/
theorem State.takers_noResult {s : State} (h : ∀ c ∈ s.arm.colls, c.result = none) :
    (((s.takeNorms).takeAmax).takePreempts).takeLoads = s := by
  have norms : s.takeNorms = s := State.foldl_noResult h _ fun t c hc => by rw [hc]; cases c.purpose == 3 <;> rfl
  have amax : s.takeAmax = s := State.foldl_noResult h _ fun t c hc => by rw [hc]; cases c.purpose == 4 <;> rfl
  have preempts : s.takePreempts = s := State.foldl_noResult h _ fun t c hc => by rw [hc]; cases c.purpose == 5 <;> rfl
  have loads : s.takeLoads = s := State.foldl_noResult h _ fun t c hc => by rw [hc]; cases c.purpose == 6 <;> rfl
  rw [norms, amax, preempts, loads]

end

section
variable {s : State} {l : Nat} {m : ArmMsg} {mtype : Nat} {c : Coll} {a b : List Word}
  (pairs : PairStage s l m mtype c a b) (typed : m.mtype.toNat = mtype)
include pairs typed

/-- A vote of two: before the budget end, the unit takes the combined words. -/
theorem State.voteTake_vote {u : SealUnit} (vote : c.purpose = 1) (early : s.strokes.ended = false)
    (found : s.findUnit c.ctx c.subject.toNat = some u) :
    s.armHeard.voteTake l m = ((s.armHeard.see m).withColls []).setUnit
      { u with vote := some (collCombine c.ops a b) } := by
  obtain ⟨h, heard⟩ := State.collHear_pair (s := s.armHeard) pairs typed
  obtain ⟨-, -, -, -, -, -, -, -, -, -, now, -⟩ := pairs
  rw [State.voteTake, heard]
  exact State.takeVotes_vote (s := (s.armHeard.see m).withColls [c.paired h a b]) (c := c.paired h a b) rfl rfl found now
    early vote

theorem State.voteTake_outcome {u : SealUnit} (outcome : c.purpose = 2) (early : s.strokes.ended = false)
    (found : s.findUnit c.ctx c.subject.toNat = some u) (open_ : u.outcome = none) :
    s.armHeard.voteTake l m = ((s.armHeard.see m).withColls []).setUnit
      { u with outcome := some ((collCombine c.ops a b).getD 0 0 == 1), due := some s.stroke } := by
  obtain ⟨h, heard⟩ := State.collHear_pair (s := s.armHeard) pairs typed
  obtain ⟨-, -, -, -, -, -, -, -, -, -, now, -⟩ := pairs
  rw [State.voteTake, heard]
  exact State.takeVotes_outcome (s := (s.armHeard.see m).withColls [c.paired h a b]) (c := c.paired h a b) rfl rfl found
    now early outcome open_

/-- A core's collective or barrier of two: the combined words go to its place. -/
theorem State.collTake_core {d k off ec : Nat} (core : c.purpose = 0) (poster : c.poster = (d, k, off, ec))
    (up : s.coreUp d k = true) :
    s.armHeard.collTake l m = ((((s.armHeard.see m).withColls []).collEnd c.tag Status.ok).stores (scratchAddr d k off)
      ((collCombine c.ops a b).map fresh)).evcAdd d k ec 1 := by
  obtain ⟨h, heard⟩ := State.collHear_pair (s := s.armHeard) pairs typed
  rw [State.collTake, heard,
    State.takeCores_single (s := (s.armHeard.see m).withColls [c.paired h a b])
      (c := c.paired h a b) rfl rfl core poster up]
  refine State.takers_noResult fun x hx => ?_
  rw [State.evcAdd_arm, State.arm_of_offMem (State.stores_offMem ..)] at hx
  cases hx

end

/-- Settles O16: the neighbour's message completes the collective, and the result goes where its purpose says. -/
theorem stageOfTwoMembers : Obligations.StageOfTwoMembers := by
  intro s link msg c u a b
  have runVote : exec (.vote link msg) s = .next (s.armHeard.voteTake link.val { msg with mtype := 0x07 }) := rfl
  have runOutcome : exec (.outcome link msg) s = .next (s.armHeard.voteTake link.val { msg with mtype := 0x08 }) := rfl
  have runColl : exec (.collective link msg) s = .next (s.armHeard.collTake link.val { msg with mtype := 0x09 }) := rfl
  have runBarrier : exec (.barrier link msg) s = .next (s.armHeard.collTake link.val { msg with mtype := 0x0A }) := rfl
  rw [runVote, runOutcome, runColl, runBarrier]
  refine ⟨fun pairs vote ops early found => ?_, fun pairs outcome ops early found open_ => ?_,
    fun d k off ec core poster up => ⟨fun pairs => ?_, fun pairs => ?_⟩, fun r fresh none src => ?_⟩
  · refine ⟨_, congrArg _ (State.voteTake_vote (m := { msg with mtype := 0x07 }) pairs rfl vote early found), ?_, ?_, ?_⟩
    · rw [collCombine_getD _ _ _ (by decide), ops]
      rfl
    · rw [collCombine_getD _ _ _ (by decide), ops]
      exact collOp_min _ _
    · rw [collCombine_getD _ _ _ (by decide), ops]
      exact collOp_max _ _
  · rw [State.voteTake_outcome (m := { msg with mtype := 0x08 }) pairs rfl outcome early found open_,
      collCombine_getD _ _ _ (by decide), ops]
    rfl
  · rw [State.collTake_core (m := { msg with mtype := 0x09 }) pairs rfl core poster up]
    rfl
  · rw [State.collTake_core (m := { msg with mtype := 0x0A }) pairs rfl core poster up]
    rfl
  · rw [State.collTake, State.collHear_unposted (s := s.armHeard) (m := { msg with mtype := 0x09 }) fresh none src]
    have waiting : ∀ x ∈ ((s.armHeard.see { msg with mtype := 0x09 }).withColls [{ Coll.fresh 0x09 msg.tag.toNat with
        heard := [{ dim := msg.stage.toNat, coord := r.coords.getD msg.stage.toNat 0, link := link.val,
                    msg := { msg with mtype := 0x09 } }] }]).arm.colls, x.result = .none := by
      intro x hx
      rw [List.mem_singleton.1 hx]
      rfl
    exact congrArg Host.Outcome.next ((congrArg (fun t : State => (((t.takeNorms).takeAmax).takePreempts).takeLoads)
      (State.takeCores_noResult waiting)).trans (State.takers_noResult waiting))

end Sys2Proof.Machine
end

section
/-! PROOFS. Lock, the master's role and the retraining of a channel (R52 to R54, R227), and O10. -/

namespace Sys2Proof.Machine

/-! A log record changes registers of the ERROR blocks alone -/

/-- The number of a register's block within its unit (R35). -/
def blockOf (a : Nat) : Nat := a / 0x10000 % 0x100

theorem errors_block (unit : Nat) (off : Nat) (h : off < 0x10000) :
    blockOf (Base.errors unit + off) = 0x0D ∨ blockOf (Base.errors unit + off) = 0x1A := by
  unfold Base.errors csr blockOf
  split
  · left; omega
  · right; omega

theorem State.log_reg (s : State) (unit action : Nat) (ctx : Option Nat) (source index detail : Nat) {a : Nat}
    (h : blockOf a ≠ 0x0D) (h' : blockOf a ≠ 0x1A) :
    (s.log unit action ctx source index detail).reg a = s.reg a := by
  have apart : ∀ off, off < 0x10000 → a ≠ Base.errors unit + off := by
    rintro off lt rfl
    rcases errors_block unit off lt with e | e
    · exact h e
    · exact h' e
  have place : s.get (Base.errors unit) Reg.errNext < 32 := State.get_lt ..
  have w0 : Reg.errRecW0.off + s.get (Base.errors unit) Reg.errNext * Reg.errRecW0.step < 0x10000 := by
    simp only [Reg.errRecW0]; omega
  have w1 : Reg.errRecW1.off + s.get (Base.errors unit) Reg.errNext * Reg.errRecW1.step < 0x10000 := by
    simp only [Reg.errRecW1]; omega
  unfold State.log
  dsimp only
  rw [State.reg_count_other, State.reg_put_other, State.reg_put_other, State.reg_put_other]
  · rw [Nat.add_assoc]; exact apart _ w0
  · rw [Nat.add_assoc]; exact apart _ w1
  · exact apart _ (by decide)
  · exact apart _ (by decide)

theorem State.log_get (s : State) (unit action : Nat) (ctx : Option Nat) (source index detail : Nat) (b : Nat) (f : Fld)
    (i : Nat) (h : blockOf (b + f.off + i * f.step) ≠ 0x0D) (h' : blockOf (b + f.off + i * f.step) ≠ 0x1A) :
    (s.log unit action ctx source index detail).get b f i = s.get b f i := by
  rw [State.get, State.log_reg s unit action ctx source index detail h h', State.get]

/-! What a reason does to the staged units -/

@[simp] theorem State.addReason_get (s : State) (ctxs : List Nat) (r b : Nat) (f : Fld) (i : Nat) :
    (s.addReason ctxs r).get b f i = s.get b f i := rfl

/-- A reason marks exactly the staged units of its contexts, and beside it changes their first cause alone. -/
theorem State.addReason_unit {s : State} {ctxs : List Nat} {r i : Nat} {u v : SealUnit} (hu : s.units[i]? = some u)
    (hv : (s.addReason ctxs r).units[i]? = some v) (mem : u.ctx ∈ ctxs) :
    v.reasons = (if u.staged then u.reasons ||| (1#16 <<< r) else u.reasons) ∧
      { v with reasons := 0, cause := none } = { u with reasons := 0, cause := none } := by
  have at' : (s.addReason ctxs r).units[i]? = _ := List.getElem?_map ..
  rw [at', hu, Option.map_some, Option.some.injEq] at hv
  have named : ctxs.contains u.ctx = true := List.contains_iff_mem.2 mem
  rw [named, Bool.and_true] at hv
  rw [← hv]
  by_cases staged : u.staged = true
  · rw [if_pos staged, if_pos staged]
    exact ⟨rfl, rfl⟩
  · rw [if_neg staged, if_neg staged]
    exact ⟨rfl, rfl⟩

/-! Losing lock (R52, R53) -/

/-- A device that is to lose lock. -/
def State.losesLock (s : State) : Prop := s.get Base.device Reg.locked = 1 ∧ (4 ≤ s.strokes.bad ∨ 8 ≤ s.strokes.silent)

/-- LOCKED is clear and the loss is counted. -/
def State.unlockRegs (s : State) : State :=
  (s.put Base.device Reg.locked 0).count (Base.armature 0x10) Reg.lockLosses

/-- The registers and units after lock is lost: the loss is logged too, and LOCK is set. -/
def State.unlocked (s : State) : State :=
  ((s.unlockRegs.addReason (List.range 16) Reason.lock).log 0x10 (b2n (s.anyStaged (List.range 16))) none 0x10 0 0)

/-- The state's contents without its units. -/
def State.offUnits (s : State) : State := { s.contents with units := [] }

theorem State.offUnits_of_contents {s t : State} (h : t.contents = s.contents) : t.offUnits = s.offUnits :=
  congrArg (fun x : State => { x with units := [] }) h

theorem State.strokes_of_offUnits {s t : State} (h : t.offUnits = s.offUnits) : t.strokes = s.strokes :=
  (congrArg State.strokes h : t.offUnits.strokes = s.offUnits.strokes)

theorem State.mem_of_offUnits {s t : State} (h : t.offUnits = s.offUnits) : t.mem = s.mem :=
  (congrArg State.mem h : t.offUnits.mem = s.offUnits.mem)

theorem State.cores_of_offUnits {s t : State} (h : t.offUnits = s.offUnits) : t.cores = s.cores :=
  (congrArg State.cores h : t.offUnits.cores = s.offUnits.cores)

theorem State.addReason_offUnits (s : State) (ctxs : List Nat) (r : Nat) :
    (s.addReason ctxs r).offUnits = s.offUnits := rfl

theorem State.unlocked_offUnits (s : State) : s.unlocked.offUnits = s.offUnits := by
  rw [State.unlocked, State.offUnits_of_contents (State.log_contents ..), State.addReason_offUnits,
    State.unlockRegs, State.offUnits_of_contents (State.count_contents ..),
      State.offUnits_of_contents (State.put_contents ..)]

theorem State.unlocked_units (s : State) : s.unlocked.units =
    (s.unlockRegs.addReason (List.range 16) Reason.lock).units := State.units_of_contents (State.log_contents ..)

@[simp] theorem State.unlockRegs_units (s : State) : s.unlockRegs.units = s.units :=
  State.units_of_contents ((State.count_contents ..).trans (State.put_contents ..))

/-- The state with another stroke timer. -/
def State.withStrokes (s : State) (k : Strokes) : State := { s with strokes := k }

theorem State.get_withStrokes (s : State) (k : Strokes) (b : Nat) (f : Fld) (i : Nat) :
    (s.withStrokes k).get b f i = s.get b f i := rfl

theorem State.strokes_withStrokes (s : State) (k : Strokes) : (s.withStrokes k).strokes = k := rfl

theorem State.mem_withStrokes (s : State) (k : Strokes) : (s.withStrokes k).mem = s.mem := rfl

theorem State.cores_withStrokes (s : State) (k : Strokes) : (s.withStrokes k).cores = s.cores := rfl

theorem State.units_withStrokes (s : State) (k : Strokes) : (s.withStrokes k).units = s.units := rfl

/-- The stroke timer once lock is lost: the slots are held back, and a silent master's mark is stepped to (R52, R53). -/
def Strokes.atLoss (k : Strokes) : Strokes :=
  let err := if decide (8 ≤ k.silent) then 0 else k.lastErr - clampNs k.lastErr
  { k with good := 0, bad := 0, silent := 0, marked := true, moved := k.moved + err, lastErr := err, lost := true,
           toStep := decide (8 ≤ k.silent) }

theorem State.atLoss_withStrokes (s : State) : s.withStrokes s.strokes.atLoss =
    let silent := decide (8 ≤ s.strokes.silent)
    let s := s.stepTimer (if silent then 0 else s.strokes.lastErr - clampNs s.strokes.lastErr)
    { s with strokes := { s.strokes with lost := true, toStep := silent } } := rfl

/-- Losing lock changes registers and units so, and of the rest the stroke timer alone. -/
theorem State.lockLoss_lost {s : State} (h : s.losesLock) : s.lockLoss = s.unlocked.withStrokes s.strokes.atLoss := by
  have strokes : s.unlocked.strokes = s.strokes := State.strokes_of_offUnits s.unlocked_offUnits
  rw [← strokes, State.atLoss_withStrokes]
  exact if_pos h

theorem State.unlocked_get (s : State) {b : Nat} {f : Fld} {i : Nat} (h : blockOf (b + f.off + i * f.step) ≠ 0x0D)
    (h' : blockOf (b + f.off + i * f.step) ≠ 0x1A) : s.unlocked.get b f i = s.unlockRegs.get b f i := by
  rw [State.unlocked, State.log_get _ _ _ _ _ _ _ _ _ _ h h', State.addReason_get]

theorem State.unlocked_locked (s : State) : s.unlocked.get Base.device Reg.locked = 0 := by
  rw [State.unlocked_get s (by decide) (by decide), State.unlockRegs, State.get_count_addr _ _ _ _ _ _ _ _ (by decide),
    State.get_put_same _ _ _ _ _ (by decide)]
  rfl

theorem State.unlocked_lockLosses (s : State) : s.unlocked.get (Base.armature 0x10) Reg.lockLosses =
    min (s.get (Base.armature 0x10) Reg.lockLosses + 1) 65535 := by
  rw [State.unlocked_get s (by decide) (by decide), State.unlockRegs, State.get_count_same _ _ _ _ _ (by decide),
    State.get_put_addr _ _ _ _ _ _ _ _ (by decide)]
  rfl

/-- Losing lock leaves every other field of the device's block. -/
theorem State.unlocked_device (s : State) {f : Fld} (h : blockOf (Base.device + f.off + 0 * f.step) ≠ 0x0D)
    (h' : blockOf (Base.device + f.off + 0 * f.step) ≠ 0x1A)
    (far : Base.device + f.off + 0 * f.step ≠ Base.armature 0x10 + Reg.lockLosses.off + 0 * Reg.lockLosses.step)
    (apart : Base.device + f.off + 0 * f.step ≠ Base.device + Reg.locked.off + 0 * Reg.locked.step ∨
      (Base.device + f.off + 0 * f.step = Base.device + Reg.locked.off + 0 * Reg.locked.step ∧
        (Reg.locked.lo + Reg.locked.w ≤ f.lo ∨ f.lo + f.w ≤ Reg.locked.lo))) :
    s.unlocked.get Base.device f = s.get Base.device f := by
  rw [State.unlocked_get s h h', State.unlockRegs, State.get_count_addr _ _ _ _ _ _ _ _ far]
  rcases apart with out | ⟨same, bits⟩
  · exact State.get_put_addr _ _ _ _ _ _ _ _ out
  · exact State.get_put_field _ _ _ _ _ _ _ _ same (by decide) bits

theorem State.edgeKind_waitFrame (s : State) (n : Nat) :
    (s.edgeKind n).strokes.waitFrame = (s.strokes.waitFrame || s.strokes.lost) := by
  unfold State.edgeKind
  dsimp only
  rw [State.put_strokes]
  dsimp only
  cases s.kindOf n <;> simp only [State.put_strokes]

/-! The retraining of a channel (R227) -/

theorem State.quarantine1_toFence (s : State) (u : UnitId) (source index detail : Nat) :
    s.faults.toFence ⊆ (s.quarantine1 u source index detail).faults.toFence := by
  unfold State.quarantine1
  split
  · exact fun _ h => h
  · exact List.subset_append_left ..

theorem State.quarantine_toFence (s : State) {u : UnitId} (source index detail : Nat) (h : s.goneUnit u = false) :
    (u, source, index, detail) ∈ (s.quarantine u source index detail).faults.toFence := by
  have noted : (u, source, index, detail) ∈ (s.quarantine1 u source index detail).faults.toFence := by
    rw [State.quarantine1, if_neg (by simp [h])]
    exact List.mem_append_right _ (List.mem_singleton.2 rfl)
  unfold State.quarantine
  dsimp only
  split
  · exact State.quarantine1_toFence _ _ _ _ _ noted
  · exact noted

@[simp] theorem State.quarantine1_regs (s : State) (u : UnitId) (source index detail : Nat) :
    (s.quarantine1 u source index detail).regs = s.regs := by
  unfold State.quarantine1; split <;> rfl

@[simp] theorem State.quarantine_regs (s : State) (u : UnitId) (source index detail : Nat) :
    (s.quarantine u source index detail).regs = s.regs := by
  unfold State.quarantine; dsimp only; split <;> simp only [State.quarantine1_regs]

@[simp] theorem State.quarantine1_units (s : State) (u : UnitId) (source index detail : Nat) :
    (s.quarantine1 u source index detail).units = s.units := by
  unfold State.quarantine1; split <;> rfl

@[simp] theorem State.quarantine_units (s : State) (u : UnitId) (source index detail : Nat) :
    (s.quarantine u source index detail).units = s.units := by
  unfold State.quarantine; dsimp only; split <;> simp only [State.quarantine1_units]

theorem State.get_of_regs {s t : State} (h : t.regs = s.regs) (b : Nat) (f : Fld) (i : Nat) :
    t.get b f i = s.get b f i := by
  unfold State.get State.reg; rw [h]

@[simp] theorem State.quarantine1_frameCounts (s : State) (u : UnitId) (source index detail : Nat) :
    (s.quarantine1 u source index detail).faults.frameCounts = s.faults.frameCounts := by
  unfold State.quarantine1; split <;> rfl

@[simp] theorem State.quarantine_frameCounts (s : State) (u : UnitId) (source index detail : Nat) :
    (s.quarantine u source index detail).faults.frameCounts = s.faults.frameCounts := by
  unfold State.quarantine; dsimp only; split <;> simp only [State.quarantine1_frameCounts]

/-- A frame's count under a key is set. -/
theorem State.frameCount_setFrameCount (s : State) (k v : Nat) : (s.setFrameCount k v).frameCount k = v :=
  cget_cset_same ..

/-- A channel that is due and active retrains: the count of its kind is cleared, and the retraining counted. -/
def State.retrained (s : State) (ch : Nat) : State :=
  (s.setFrameCount (retrainKey ch) 0).count (Base.ddr ch) Reg.ddrRetrains

def State.retrainDue (s : State) (ch : Nat) : Prop :=
    s.get (Base.ddr ch) Reg.ddrState = 2 ∧ s.frameCount (retrainKey ch) = 1

theorem State.ddrRetrain_due {s : State} {ch : Nat} (h : s.retrainDue ch) (ok : Bool) : s.ddrRetrain ch ok =
    if ok then s.retrained ch
    else ((s.retrained ch).log (0x10 + ch / 16) 0 none 0x0B (ch % 16) 0).quarantine (chanUnit ch) 0x0B (ch % 16) 0 :=
      if_pos h

theorem State.ddrRetrain_notDue {s : State} {ch : Nat} (h : ¬ s.retrainDue ch) (ok : Bool) : s.ddrRetrain ch ok = s :=
    if_neg h

/-! O10 -/

theorem lockLoss_unlocks (s : State) (h : s.losesLock) (known : ∀ u ∈ s.units, u.ctx < 16) :
    ∃ t, exec .lockLoss s = .next t ∧ t.get Base.device Reg.locked = 0 ∧
      t.get (Base.armature 0x10) Reg.lockLosses = min (s.get (Base.armature 0x10) Reg.lockLosses + 1) 65535 ∧
      t.strokes.lost = true ∧ t.strokes.toStep = decide (8 ≤ s.strokes.silent) ∧
      (∀ n, (t.edgeKind n).strokes.waitFrame = true) ∧ t.units.length = s.units.length ∧
      (∀ (i : Nat) (u v : SealUnit), s.units[i]? = some u → t.units[i]? = some v →
        v.reasons = (if u.staged then u.reasons ||| (1#16 <<< Reason.lock) else u.reasons) ∧
        { v with reasons := 0, cause := none } = { u with reasons := 0, cause := none }) ∧
      t.stroke = s.stroke ∧ t.sched = s.sched ∧ t.devState = s.devState ∧ t.mem = s.mem ∧ t.cores = s.cores := by
  have lost : s.strokes.atLoss.lost = true := rfl
  have toStep : s.strokes.atLoss.toStep = decide (8 ≤ s.strokes.silent) := rfl
  have run : exec .lockLoss s = .next s.lockLoss := rfl
  refine ⟨s.unlocked.withStrokes s.strokes.atLoss, by rw [run, State.lockLoss_lost h],
    (State.get_withStrokes ..).trans s.unlocked_locked, (State.get_withStrokes ..).trans s.unlocked_lockLosses,
    by rw [State.strokes_withStrokes, lost], by rw [State.strokes_withStrokes, toStep], fun n => ?_, ?_,
    fun i u v hu hv => ?_, ?_, ?_, ?_, s.unlocked.mem_withStrokes _ |>.trans
    (State.mem_of_offUnits s.unlocked_offUnits), s.unlocked.cores_withStrokes _ |>.trans
    (State.cores_of_offUnits s.unlocked_offUnits)⟩
  · rw [State.edgeKind_waitFrame, State.strokes_withStrokes, lost, Bool.or_true]
  · rw [State.units_withStrokes, s.unlocked_units]
    exact (List.length_map _).trans (congrArg List.length s.unlockRegs_units)
  · rw [State.units_withStrokes, s.unlocked_units] at hv
    rw [← s.unlockRegs_units] at hu
    exact State.addReason_unit hu hv (List.mem_range.2 (known u (List.mem_of_getElem? (s.unlockRegs_units ▸ hu))))
  · exact (State.get_withStrokes ..).trans <| s.unlocked_device (by decide) (by decide) (by decide) (.inl (by decide))
  · exact (State.get_withStrokes ..).trans <| s.unlocked_device (by decide) (by decide) (by decide) (.inl (by decide))
  · exact (State.get_withStrokes ..).trans <| s.unlocked_device (by decide) (by decide) (by decide) (.inr (by decide))

theorem masterHandover_next (s : State) (x : Nat) (running : s.strokes.running = true) (serving : s.serving = true)
    (other : s.get Base.device Reg.masterNum ≠ s.myNum) (silent : 8 ≤ s.strokes.silent) (mem : x ∈ s.devsInService)
    (ne : x ≠ s.get Base.device Reg.masterNum)
    (least : ∀ y ∈ s.devsInService, y ≠ s.get Base.device Reg.masterNum → x ≤ y) :
    exec .masterHandover s = .next { s with strokes := { s.strokes with nextMaster := some x } } := by
  have first : minBy id (s.devsInService.filter (· != s.get Base.device Reg.masterNum)) = some x := by
    refine minBy_id_eq (List.mem_filter.2 ⟨mem, by simp [ne]⟩) fun y hy => ?_
    obtain ⟨hmem, hne⟩ := List.mem_filter.1 hy
    exact least y hmem (by simpa using hne)
  have next : s.nextMaster (s.get Base.device Reg.masterNum) = x := by rw [State.nextMaster, first]; rfl
  change execMasterHandover s = _
  unfold execMasterHandover
  dsimp only
  rw [if_pos (by simp [running, serving, other, silent]), next]

theorem masterHandover_stays (s : State) (h : s.strokes.silent < 8 ∨ s.get Base.device Reg.masterNum = s.myNum) :
    Unchanged .masterHandover s := by
  change execMasterHandover s = _
  unfold execMasterHandover
  dsimp only
  rw [if_neg]
  rcases h with h | h
  · simp only [Bool.and_eq_true, decide_eq_true_eq]; omega
  · simp [h]

theorem State.retrained_contents (s : State) (ch : Nat) :
    (s.retrained ch).contents = (s.setFrameCount (retrainKey ch) 0).contents := State.count_contents ..

theorem State.retrained_retrains (s : State) (ch : Nat) : (s.retrained ch).get (Base.ddr ch) Reg.ddrRetrains =
    min (s.get (Base.ddr ch) Reg.ddrRetrains + 1) 65535 := by
  rw [State.retrained, State.get_count_same _ _ _ _ _ (by decide)]
  rfl

theorem State.retrained_frameCount (s : State) (ch : Nat) : (s.retrained ch).frameCount (retrainKey ch) = 0 := by
  rw [State.frameCount, State.faults_of_contents (s.retrained_contents ch)]
  exact State.frameCount_setFrameCount ..

theorem State.goneUnit_retrained (s : State) (ch : Nat) (u : UnitId) : (s.retrained ch).goneUnit u = s.goneUnit u := by
  simp only [State.goneUnit, State.isFenced, State.faults_of_contents (s.retrained_contents ch)]
  rfl

theorem ddrRetrain_retrains (s : State) (chan : ChanNo) (ok : Bool) (due : s.retrainDue chan.val) :
    ∃ t, exec (.ddrRetrain chan ok) s = .next t ∧ t.frameCount (retrainKey chan.val) = 0 ∧
      t.get (Base.ddr chan.val) Reg.ddrRetrains = min (s.get (Base.ddr chan.val) Reg.ddrRetrains + 1) 65535 ∧
      t.mem = s.mem ∧ t.units = s.units ∧
      (ok = true → OnlyFields s t [(Base.ddr chan.val, Reg.ddrRetrains, 0)] ∧ t.faults.toFence = s.faults.toFence) ∧
      (ok = false → s.goneUnit (chanUnit chan.val) = false →
        (chanUnit chan.val, 0x0B, chan.val % 16, 0) ∈ t.faults.toFence) := by
  have run : exec (.ddrRetrain chan ok) s = .next (s.ddrRetrain chan.val ok) := rfl
  have same := s.retrained_contents chan.val
  refine ⟨_, run, ?_⟩
  rw [State.ddrRetrain_due due]
  cases ok with
  | true =>
    rw [if_pos rfl]
    refine ⟨s.retrained_frameCount _, s.retrained_retrains _, (State.mem_of_contents same :),
      (State.units_of_contents same :), fun _ => ⟨?_, ?_⟩, nofun⟩
    · exact (OnlyFields.of_regs (t := s.setFrameCount (retrainKey chan.val) 0) _ rfl).trans
        (OnlyFields.count _ _ _ _ _ (by decide) (List.mem_singleton.2 rfl))
    · exact (congrArg Faults.toFence (State.faults_of_contents same) :)
  | false =>
    rw [if_neg Bool.false_ne_true]
    have logged := State.log_contents (s.retrained chan.val) (0x10 + chan.val / 16) 0 none 0x0B (chan.val % 16) 0
    have faults := State.faults_of_contents logged
    have apart : blockOf (Base.ddr chan.val + Reg.ddrRetrains.off + 0 * Reg.ddrRetrains.step) ≠ 0x0D ∧
        blockOf (Base.ddr chan.val + Reg.ddrRetrains.off + 0 * Reg.ddrRetrains.step) ≠ 0x1A := by
      simp only [blockOf, Base.ddr, csr, Reg.ddrRetrains]
      omega
    refine ⟨?_, ?_, ?_, ?_, nofun, fun _ free => ?_⟩
    · rw [State.frameCount, State.quarantine_frameCounts, faults]
      exact s.retrained_frameCount _
    · rw [State.get_of_regs (State.quarantine_regs ..),
        State.log_get _ _ _ _ _ _ _ _ _ _ apart.1 apart.2]
      exact s.retrained_retrains _
    · rw [State.quarantine_mem, State.mem_of_contents logged, State.mem_of_contents same]
      rfl
    · rw [State.quarantine_units, State.units_of_contents logged, State.units_of_contents same]
      rfl
    · refine State.quarantine_toFence _ _ _ _ ?_
      rw [← free, ← State.goneUnit_retrained s chan.val]
      simp only [State.goneUnit, State.isFenced, faults]

/-- Settles O10: lock is lost by `State.lockLoss_lost`, the next master is the least of the others in service
(`minBy_id_eq`), and a channel that fails its retraining is noted to be fenced (`State.quarantine_toFence`). -/
theorem lockMasterAndRetrain : Obligations.LockMasterAndRetrain := by
  unfold Obligations.LockMasterAndRetrain
  intro s chan ok
  refine ⟨fun locked late known => lockLoss_unlocks s ⟨locked, late⟩ known, fun kept => ?_,
    fun x running serving other silent mem ne least =>
      masterHandover_next s x running serving other silent mem ne least,
    masterHandover_stays s, fun active due => ddrRetrain_retrains s chan ok ⟨active, due⟩, fun kept => ?_⟩
  · have run : exec .lockLoss s = .next s.lockLoss := rfl
    rw [Unchanged, run]
    exact congrArg _ (if_neg kept)
  · have run : exec (.ddrRetrain chan ok) s = .next (s.ddrRetrain chan.val ok) := rfl
    rw [Unchanged, run, State.ddrRetrain_notDue kept]

end Sys2Proof.Machine
end

section
/-! PROOFS. A mark from the parent, slip requests and throttle levels (R51, R52, R67, R75, R80), and O11. -/

namespace Sys2Proof.Machine

/-! What counting and forwarding leave of the registers -/

theorem State.get_countForward (s : State) (ls : List Nat) (b : Nat) (f : Fld) (i : Nat)
    (h : ∀ l, b + f.off + i * f.step ≠ Base.armature (0x10 + l / 12) + Reg.armForwarded.off) :
    (s.countForward ls).get b f i = s.get b f i := by
  unfold State.countForward
  induction ls generalizing s with
  | nil => rfl
  | cons l ls ih =>
    rw [List.foldl_cons, ih, State.get_count_addr]
    rw [Nat.zero_mul, Nat.add_zero]
    exact h l

/-- The registers of the device's own block are no switch's count. -/
theorem State.get_countForward_device (s : State) (ls : List Nat) (f : Fld) (h : f.off < 0x10000) :
    (s.countForward ls).get Base.device f = s.get Base.device f := by
  refine State.get_countForward s ls _ f 0 fun l => ?_
  simp only [Base.device, Base.armature, csr, Reg.armForwarded]
  omega

theorem State.get_forwardFlood_device (s : State) (l : Nat) (m : ArmMsg) (f : Fld) (h : f.off < 0x10000) :
    (s.forwardFlood l m).get Base.device f = s.get Base.device f := by
  unfold State.forwardFlood
  rw [State.get_countForward_device _ _ _ h]
  exact State.get_of_regs (State.armFrames_regs ..) ..

theorem State.get_forwardMark (s : State) (l : Nat) (m : ArmMsg) (b : Nat) (f : Fld)
    (h : ∀ l, b + f.off + 0 * f.step ≠ Base.armature (0x10 + l / 12) + Reg.armForwarded.off) :
    (s.forwardMark l m).get b f = s.get b f := by
  unfold State.forwardMark
  rw [State.get_countForward _ _ _ _ _ h]
  exact State.get_of_regs (State.armFrames_regs ..) ..

@[simp] theorem State.forwardMark_offArm (s : State) (l : Nat) (m : ArmMsg) : (s.forwardMark l m).offArm = s.offArm := by
  simp [State.forwardMark]

/-! A mark that comes by the parent's link -/

/-- The stroke timer after a correction by an error (R51, R52). -/
def Strokes.corrected (k : Strokes) (err : Int) : Strokes :=
  let small := decide (-8 ≤ err) && decide (err ≤ 8)
  { k with good := if small then k.good + 1 else 0, bad := if small then 0 else k.bad + 1, marked := true,
           moved := k.moved + clampNs err, lastErr := err }

theorem State.correct_eq (s : State) (err : Int) : s.correct err =
    (s.withStrokes (s.strokes.corrected err)).put (Base.armature 0x10) Reg.correction (unsgn 16 (clampNs err)) := rfl

theorem State.get_correct (s : State) (err : Int) {b : Nat} {f : Fld}
    (h : b + f.off + 0 * f.step ≠ Base.armature 0x10 + Reg.correction.off + 0 * Reg.correction.step) :
    (s.correct err).get b f = s.get b f := by
  rw [State.correct_eq, State.get_put_addr _ _ _ _ _ _ _ _ h, State.get_withStrokes]

theorem State.correct_strokes (s : State) (err : Int) : (s.correct err).strokes = s.strokes.corrected err := by
  rw [State.correct_eq, State.put_strokes, State.strokes_withStrokes]

theorem State.correct_correction (s : State) (err : Int) : (s.correct err).get (Base.armature 0x10) Reg.correction =
    unsgn 16 (clampNs err) % 65536 := by
  rw [State.correct_eq, State.get_put_same _ _ _ _ _ (by decide)]
  rfl

theorem State.correct_units (s : State) (err : Int) : (s.correct err).units = s.units := by
  rw [State.correct_eq, State.put_units, State.units_withStrokes]

theorem State.correct_mem (s : State) (err : Int) : (s.correct err).mem = s.mem := by
  rw [State.correct_eq, State.put_mem, State.mem_withStrokes]

theorem State.acquire_locked {s : State} (h : s.get Base.device Reg.locked = 1) : s.acquire = s :=
  if_neg fun ⟨free, _⟩ => absurd (h.symm.trans free) (by decide)

theorem State.get_takeLevel (s : State) (m : ArmMsg) (b : Nat) (f : Fld) : (s.takeLevel m).get b f = s.get b f := rfl
theorem State.takeLevel_units (s : State) (m : ArmMsg) : (s.takeLevel m).units = s.units := rfl
theorem State.takeLevel_mem (s : State) (m : ArmMsg) : (s.takeLevel m).mem = s.mem := rfl
theorem State.takeLevel_strokes (s : State) (m : ArmMsg) :
    (s.takeLevel m).strokes = { s.strokes with announced := bits (m.payload.getD 1 0) 19 16 } := rfl

/-- The state after a mark that the device follows: corrected, with its throttle level, and passed on. -/
def State.followed (s : State) (l : Nat) (m : ArmMsg) (err : Int) : State := ((s.correct err).takeLevel m).forwardMark l m

/-- On a locked device a mark of the master by the parent's link corrects the timer, the first time in a stroke. -/
theorem State.serviceMark_locked {s : State} {l : Nat} {m : ArmMsg} (err : Int)
    (hop : s.hopTo (s.get Base.device Reg.masterNum) = some l) (src : m.src.toNat = s.get Base.device Reg.masterNum)
    (first : s.strokes.marked = false) (kept : s.strokes.lost = false) (noStep : s.strokes.toStep = false)
    (locked : s.get Base.device Reg.locked = 1) : s.serviceMark l m err = s.followed l m err := by
  have still : (s.correct err).get Base.device Reg.locked = 1 := by
    rw [State.get_correct _ _ (by decide), locked]
  unfold State.serviceMark
  rw [if_neg (by simp [hop, src, first]), kept]
  simp only [Bool.false_eq_true, if_false, noStep]
  rw [State.acquire_locked still, State.followed]

theorem unsgn_clampNs_lt (err : Int) : unsgn 16 (clampNs err) % 65536 = unsgn 16 (clampNs err) := by
  unfold unsgn
  omega

theorem State.strokeMark_serving {s : State} (running : s.strokes.running = true) (serving : s.serving = true) (l : Nat)
    (m : ArmMsg) (errNs : BitVec 16) : s.strokeMark l m errNs = s.serviceMark l m errNs.toInt := by
  have apart : s.devState ≠ Dev.selftest := fun settling => by
    rw [State.serving, settling] at serving
    exact absurd serving (by decide)
  rw [State.strokeMark, running, if_neg (by decide), if_neg apart, if_pos serving]

/-! Slip strokes (R67, R75) -/

/-- The stroke that a unit ends in once a slip stroke is named. -/
def SealUnit.slipped (u : SealUnit) (n : Nat) : SealUnit :=
  match u.k with
  | some k => if u.staged && !u.voted && (k + 1 == n || k + 2 == n) then { u with k := some n } else u
  | none => u

theorem SealUnit.slipped_off_k (u : SealUnit) (n : Nat) : { u.slipped n with k := none } = { u with k := none } := by
  unfold SealUnit.slipped
  split
  · split <;> rfl
  · rfl

theorem SealUnit.slipped_k (u : SealUnit) {n : Nat} (h : 0 < n) : (u.slipped n).k =
    if u.staged = true ∧ u.voted = false ∧ (u.k = some (n - 1) ∨ (2 ≤ n ∧ u.k = some (n - 2))) then some n else u.k := by
  unfold SealUnit.slipped
  cases hk : u.k with
  | none => simp [hk]
  | some k =>
    have near : (k + 1 == n || k + 2 == n) = true ↔ some k = some (n - 1) ∨ (2 ≤ n ∧ some k = some (n - 2)) := by
      simp only [Bool.or_eq_true, beq_iff_eq, Option.some.injEq]
      omega
    by_cases moves : u.staged = true ∧ u.voted = false ∧ (some k = some (n - 1) ∨ (2 ≤ n ∧ some k = some (n - 2)))
    · rw [if_pos moves]
      obtain ⟨staged, voted, at'⟩ := moves
      simp [staged, voted, near.2 at']
    · rw [if_neg moves]
      dsimp only
      rw [if_neg, hk]
      simpa only [Bool.and_eq_true, Bool.not_eq_true', near, and_assoc] using moves

theorem State.slipNamed_units (s : State) (n : Nat) : (s.slipNamed n).units = s.units.map (·.slipped n) := by
  unfold State.slipNamed
  dsimp only
  split <;> rfl

theorem State.slipNamed_slips (s : State) (n : Nat) : (s.slipNamed n).strokes.slips.contains n = true ∧
    ∀ m, s.strokes.slips.contains m = true → (s.slipNamed n).strokes.slips.contains m = true := by
  unfold State.slipNamed
  dsimp only
  split
  next named => exact ⟨named, fun _ h => h⟩
  next => exact ⟨by simp, fun m h => by simp_all⟩

theorem State.slipNamed_arm (s : State) (n : Nat) : (s.slipNamed n).arm = s.arm := by
  unfold State.slipNamed
  dsimp only
  split <;> rfl

theorem State.slipNamed_mem (s : State) (n : Nat) : (s.slipNamed n).mem = s.mem := by
  unfold State.slipNamed
  dsimp only
  split <;> rfl

/-- A request not seen before, for a stroke to come, is passed on and names its stroke. -/
theorem State.slipReq_named {s : State} {m : ArmMsg} (l : Nat) (running : s.strokes.running = true)
    (new : s.seenMsg m = false) (ahead : s.stroke < m.subject.toNat) :
    s.slipReq l m = (s.forwardFlood l m).slipNamed m.subject.toNat := by
  have same : (s.forwardFlood l m).strokes = s.strokes := State.strokes_of_offArm (State.forwardFlood_offArm ..)
  have stroke : (s.forwardFlood l m).stroke = s.stroke := State.get_forwardFlood_device _ _ _ _ (by decide)
  unfold State.slipReq
  rw [if_neg (by simp [new])]
  exact if_pos (by rw [same, stroke, running]; simpa using ahead)

theorem State.setLevel_levels (s : State) (dev level : Nat) : (s.setLevel dev level).strokes.levels =
    cset (fun _ => none) s.strokes.levels dev (some level) := rfl

/-! O11 -/

theorem strokeMark_corrects (s : State) (link : LinkNo) (msg : ArmMsg) (errNs : BitVec 16)
    (running : s.strokes.running = true) (serving : s.serving = true)
    (hop : s.hopTo (s.get Base.device Reg.masterNum) = some link.val)
    (src : msg.src.toNat = s.get Base.device Reg.masterNum) (first : s.strokes.marked = false)
    (kept : s.strokes.lost = false) (noStep : s.strokes.toStep = false) (locked : s.get Base.device Reg.locked = 1) :
    ∃ t, exec (.strokeMark link msg errNs) s = .next t ∧ t.strokes.marked = true ∧
      t.strokes.moved = s.strokes.moved + max (-8) (min 8 errNs.toInt) ∧
      t.strokes.good = (if -8 ≤ errNs.toInt ∧ errNs.toInt ≤ 8 then s.strokes.good + 1 else 0) ∧
      t.strokes.bad = (if -8 ≤ errNs.toInt ∧ errNs.toInt ≤ 8 then 0 else s.strokes.bad + 1) ∧
      t.strokes.announced = bits (msg.payload.getD 1 0) 19 16 ∧
      t.get (Base.armature 0x10) Reg.correction = unsgn 16 (max (-8) (min 8 errNs.toInt)) ∧
      t.stroke = s.stroke ∧ t.sched = s.sched ∧ t.units = s.units ∧ t.mem = s.mem := by
  have run : exec (.strokeMark link msg errNs) s = .next (s.armHeard.strokeMark link.val msg errNs) := rfl
  have followed : s.armHeard.strokeMark link.val msg errNs = s.armHeard.followed link.val msg errNs.toInt := by
    rw [State.strokeMark_serving (s := s.armHeard) running serving,
      State.serviceMark_locked (s := s.armHeard) _ hop src first kept noStep locked]
  have same : (s.armHeard.followed link.val msg errNs.toInt).offArm =
      ((s.armHeard.correct errNs.toInt).takeLevel msg).offArm := State.forwardMark_offArm ..
  have strokes := State.strokes_of_offArm same
  rw [State.takeLevel_strokes, State.correct_strokes] at strokes
  have device : ∀ f : Fld, f.off < 0x10000 →
      (s.armHeard.followed link.val msg errNs.toInt).get Base.device f = s.get Base.device f := by
    intro f h
    rw [State.followed, State.get_forwardMark, State.get_takeLevel, State.get_correct]
    · rfl
    · simp only [Base.device, Base.armature, csr, Reg.correction]; omega
    · intro l; simp only [Base.device, Base.armature, csr, Reg.armForwarded]; omega
  rw [followed] at run
  refine ⟨_, run, by rw [strokes]; rfl, by rw [strokes]; rfl, ?_, ?_, by rw [strokes], ?_, device _ (by decide),
    device _ (by decide), ?_, ?_⟩
  · rw [strokes]; simp [Strokes.corrected, State.armHeard]
  · rw [strokes]; simp [Strokes.corrected, State.armHeard]
  · rw [State.followed, State.get_forwardMark, State.get_takeLevel, State.correct_correction, unsgn_clampNs_lt]
    · rfl
    · intro l; simp only [Base.armature, csr, Reg.correction, Reg.armForwarded]; omega
  · rw [State.units_of_offArm same, State.takeLevel_units, State.correct_units]; rfl
  · rw [State.mem_of_offArm same, State.takeLevel_mem, State.correct_mem]; rfl

theorem slipReq_names (s : State) (link : LinkNo) (msg : ArmMsg) (running : s.strokes.running = true)
    (new : s.seenMsg msg = false) (ahead : s.stroke < msg.subject.toNat) :
    ∃ t, exec (.slipReq link msg) s = .next t ∧ t.strokes.slips.contains msg.subject.toNat = true ∧
      (∀ n, s.strokes.slips.contains n = true → t.strokes.slips.contains n = true) ∧
      t.units.length = s.units.length ∧
      (∀ (i : Nat) (u v : SealUnit), s.units[i]? = some u → t.units[i]? = some v →
        { v with k := none } = { u with k := none } ∧
        v.k = (if u.staged = true ∧ u.voted = false ∧
            (u.k = some (msg.subject.toNat - 1) ∨ (2 ≤ msg.subject.toNat ∧ u.k = some (msg.subject.toNat - 2)))
          then some msg.subject.toNat else u.k)) ∧
      t.seenMsg msg = true ∧ t.mem = s.mem := by
  have run : exec (.slipReq link msg) s = .next (s.armHeard.slipReq link.val msg) := rfl
  rw [State.slipReq_named (s := s.armHeard) _ running new ahead] at run
  have same := s.armHeard.forwardFlood_offArm link.val msg
  have slips := State.slipNamed_slips (s.armHeard.forwardFlood link.val msg) msg.subject.toNat
  have units : ((s.armHeard.forwardFlood link.val msg).slipNamed msg.subject.toNat).units =
      s.units.map (·.slipped msg.subject.toNat) := by
    rw [State.slipNamed_units, State.units_of_offArm same]; rfl
  refine ⟨_, run, slips.1, fun n named => slips.2 n ?_, by rw [units, List.length_map], fun i u v hu hv => ?_, ?_, ?_⟩
  · rw [State.strokes_of_offArm same]; exact named
  · rw [units, List.getElem?_map, hu] at hv
    obtain rfl : u.slipped msg.subject.toNat = v := Option.some.inj hv
    exact ⟨u.slipped_off_k _, u.slipped_k (by omega)⟩
  · rw [State.seenMsg, State.slipNamed_arm]; exact State.seenMsg_forwardFlood ..
  · rw [State.slipNamed_mem, State.mem_of_offArm same]; rfl

/-- Settles O11: a mark followed by a locked device is `State.followed`, a request not seen before is
`State.slipReq_named`, and a level is noted for its sender alone. -/
theorem marksSlipsAndLevels : Obligations.MarksSlipsAndLevels := by
  unfold Obligations.MarksSlipsAndLevels
  intro s link msg errNs
  refine ⟨strokeMark_corrects s link msg errNs, slipReq_names s link msg, fun seen => ?_, fun mine => ?_, fun other => ?_⟩
  · have run : exec (.slipReq link msg) s = .next (s.armHeard.slipReq link.val msg) := rfl
    rw [run, State.slipReq, if_pos (show s.armHeard.seenMsg msg = true from seen)]
    rfl
  · have run : exec (.throttle link msg) s = .next (s.armHeard.throttleTake msg) := rfl
    rw [State.throttleTake, if_pos (show msg.dest.toNat = s.armHeard.myNum from mine)] at run
    refine ⟨_, run, ?_, fun d apart => ?_, rfl, rfl, rfl⟩
    · rw [State.setLevel_levels, cget_cset_same]
    · rw [State.setLevel_levels, cget_cset_other _ _ _ apart]
      rfl
  · have run : exec (.throttle link msg) s = .next (s.armHeard.throttleTake msg) := rfl
    rw [State.throttleTake, if_neg (show msg.dest.toNat ≠ s.armHeard.myNum from other)] at run
    have same := s.armHeard.forwardTo_offArm msg
    exact ⟨_, run, (State.strokes_of_offArm same).trans rfl, (State.mem_of_offArm same).trans rfl⟩

end Sys2Proof.Machine
end

section
/-! PROOFS. Late collectives, a silent armature, and die-to-die modules that go down (R22, R64, R443), and O17. -/

namespace Sys2Proof.Machine

/-! Entering FAILED -/

theorem State.fail_devState (s : State) : (s.fail none).devState = Dev.failed := by
  have boot : (s.fail none).devState = (s.setDevState Dev.failed).devState :=
    State.get_put_addr _ _ _ _ _ _ _ _ (by decide)
  rw [boot, State.setDevState, State.devState, State.get_put_same _ _ _ _ _ (by decide)]
  rfl

theorem State.stop_devState (s : State) : s.stop.devState = Dev.failed := State.fail_devState _

/-- ALERT_N is driven while FAILED (R513). -/
theorem State.alert_of_failed {s : State} (h : s.devState = Dev.failed) : s.alert = true := by
  simp [State.alert, h]

/-! A die-to-die module that goes down (R22) -/

/-- The state with one more module down. -/
def State.withDown (s : State) (c : Connection) (m : Nat) : State :=
  { s with faults := { s.faults with down := (c, m) :: s.faults.down } }

/-- What follows of a module that went down, logged: the compute die of a connection without modules is lost. -/
def State.connFall (s : State) (c : Connection) (m : Nat) : State :=
  match s.moduleFor c 0, connLost c with
  | none, some u => s.quarantine u 0x07 m 0
  | _, _ => s

theorem State.moduleDown_noted {s : State} {c : Connection} {m : Nat} (known : m < connModules c)
    (up : (c, m) ∉ s.faults.down) :
    s.moduleDown c m = ((s.withDown c m).log (connDie c) 0 none 0x07 m 0).connFall c m := by
  unfold State.moduleDown
  rw [if_neg (by simp [known, up])]
  rfl

theorem State.moduleDown_ignored {s : State} {c : Connection} {m : Nat}
    (h : connModules c ≤ m ∨ (c, m) ∈ s.faults.down) : s.moduleDown c m = s := by
  unfold State.moduleDown
  refine if_pos ?_
  rcases h with h | h
  · simp [Nat.not_lt.2 h]
  · simp [h]

/-- A connection has no module exactly when all of them are down. -/
theorem State.moduleFor_zero_none {s : State} {c : Connection} :
    s.moduleFor c 0 = none ↔ ∀ i < connModules c, (c, i) ∈ s.faults.down := by
  unfold State.moduleFor
  rw [List.find?_eq_none]
  simp only [List.mem_map, List.mem_range, Bool.not_eq_true',
    forall_exists_index, and_imp, Nat.zero_add]
  constructor
  · intro h i hi
    simpa using h i i hi (Nat.mod_eq_of_lt hi)
  · rintro h _ i hi rfl
    rw [Nat.mod_eq_of_lt hi]
    simpa using h i hi

/-- What a fall of a connection can do: at most a quarantine. -/
theorem State.connFall_cases (s : State) (c : Connection) (m : Nat) :
    s.connFall c m = s ∨ ∃ u, s.connFall c m = s.quarantine u 0x07 m 0 := by
  unfold State.connFall
  split
  · exact .inr ⟨_, rfl⟩
  · exact .inl rfl

theorem State.connFall_lost {s : State} {c : Connection} {m : Nat} {u : UnitId} (h : s.moduleFor c 0 = none)
    (lost : connLost c = some u) : s.connFall c m = s.quarantine u 0x07 m 0 := by
  unfold State.connFall
  rw [h, lost]

theorem State.connFall_up {s : State} {c : Connection} {m : Nat} (h : s.moduleFor c 0 ≠ none) : s.connFall c m = s := by
  unfold State.connFall
  split
  next none _ => exact absurd none h
  next => rfl

@[simp] theorem State.quarantine1_links (s : State) (u : UnitId) (source index detail : Nat) :
    (s.quarantine1 u source index detail).links = s.links := by
  unfold State.quarantine1; split <;> rfl

@[simp] theorem State.quarantine_links (s : State) (u : UnitId) (source index detail : Nat) :
    (s.quarantine u source index detail).links = s.links := by
  unfold State.quarantine; dsimp only; split <;> simp only [State.quarantine1_links]

@[simp] theorem State.quarantine1_down (s : State) (u : UnitId) (source index detail : Nat) :
    (s.quarantine1 u source index detail).faults.down = s.faults.down := by
  unfold State.quarantine1; split <;> rfl

@[simp] theorem State.quarantine_down (s : State) (u : UnitId) (source index detail : Nat) :
    (s.quarantine u source index detail).faults.down = s.faults.down := by
  unfold State.quarantine; dsimp only; split <;> simp only [State.quarantine1_down]

theorem State.connFall_keeps (s : State) (c : Connection) (m : Nat) : (s.connFall c m).faults.down = s.faults.down ∧
    (s.connFall c m).units = s.units ∧ (s.connFall c m).mem = s.mem ∧ (s.connFall c m).links = s.links := by
  rcases s.connFall_cases c m with h | ⟨u, h⟩
  · rw [h]; exact ⟨rfl, rfl, rfl, rfl⟩
  · rw [h]
    exact ⟨State.quarantine_down .., State.quarantine_units .., State.quarantine_mem .., State.quarantine_links ..⟩

theorem State.links_of_contents {s t : State} (h : t.contents = s.contents) : t.links = s.links :=
  (congrArg State.links h : t.contents.links = s.contents.links)

/-! O17 -/

theorem collectiveTimeout_fails (s : State) (tag : BitVec 6) (c : Coll) (found : s.findColl 0x09 tag.toNat = some c)
    (posted : c.posted = true) (open' : c.result = none) (late : c.stroke < s.stroke)
    (noSlip : (s.stroke + 1) ∉ s.strokes.slips) (core : c.purpose = 0) :
    exec (.collectiveTimeout tag) s = .next (((s.dropColl c.mtype c.tag).collEnd c.tag
      (if (s.groupDevs c.group).all s.devsInService.contains then Status.void else Status.gone)).workReason c.ctx c.kind
        c.subject.toNat Reason.missing) := by
  have run : exec (.collectiveTimeout tag) s = .next (s.collTimeout tag.toNat) := rfl
  have fails : s.collTimeout tag.toNat = s.collFail c := by
    rw [State.collTimeout, found]
    exact if_pos (by simp [posted, open', late, State.slipNext, noSlip])
  rw [run, fails, State.collFail, core]
  rfl

theorem collectiveTimeout_waits (s : State) (tag : BitVec 6) (c : Coll) (h : s.findColl 0x09 tag.toNat = none ∨
    (s.findColl 0x09 tag.toNat = some c ∧
      (c.posted = false ∨ c.result ≠ none ∨ s.stroke ≤ c.stroke ∨ (s.stroke + 1) ∈ s.strokes.slips))) :
    Unchanged (.collectiveTimeout tag) s := by
  have run : exec (.collectiveTimeout tag) s = .next (s.collTimeout tag.toNat) := rfl
  rw [Unchanged, run, State.collTimeout]
  rcases h with none | ⟨found, waits⟩
  · rw [none]
  · rw [found]
    refine congrArg _ (if_neg ?_)
    rcases waits with h | h | h | h
    · simp [h]
    · simp [h]
    · simp [Nat.not_lt.2 h]
    · simp [State.slipNext, h]

theorem armatureSilence_stops (s : State) (serving : s.serving = true) (several : 1 < s.fabric.length)
    (silent : 8 ≤ s.arm.silence) :
    ∃ t, exec .armatureSilence s = .next t ∧ t.devState = Dev.failed ∧ t.alert = true := by
  have run : exec .armatureSilence s = .next s.stop := by
    change execArmatureSilence s = _
    rw [execArmatureSilence, if_pos (by simp [serving, several, silent])]
  exact ⟨_, run, s.stop_devState, State.alert_of_failed s.stop_devState⟩

theorem armatureSilence_waits (s : State) (h : s.serving = false ∨ s.fabric.length ≤ 1 ∨ s.arm.silence < 8) :
    Unchanged .armatureSilence s := by
  change execArmatureSilence s = _
  rw [execArmatureSilence, if_neg]
  rcases h with h | h | h
  · simp [h]
  · simp [Nat.not_lt.2 h]
  · simp [Nat.not_le.2 h]

theorem ucieModuleDown_noted (s : State) (conn : Connection) (m : Fin 8) (awake : s.awake = true)
    (known : m.val < connModules conn) (up : (conn, m.val) ∉ s.faults.down) :
    ∃ t, exec (.ucieModuleDown conn m) s = .next t ∧ t.faults.down = (conn, m.val) :: s.faults.down ∧
      t.units = s.units ∧ t.mem = s.mem ∧ t.links = s.links ∧
      ((∃ i, i < connModules conn ∧ i ≠ m.val ∧ (conn, i) ∉ s.faults.down) → t.faults.toFence = s.faults.toFence) ∧
      (∀ d pd, conn = .plinth d pd → (∀ i, i < 4 → i ≠ m.val → (conn, i) ∈ s.faults.down) →
        s.goneUnit (uid d.val 0xFF) = false → (uid d.val 0xFF, 0x07, m.val, 0) ∈ t.faults.toFence) := by
  have run : exec (.ucieModuleDown conn m) s = .next (if s.awake then s.moduleDown conn m.val else s) := rfl
  rw [if_pos awake, State.moduleDown_noted known up] at run
  refine ⟨_, run, ?_⟩
  have same := State.log_contents (s.withDown conn m.val) (connDie conn) 0 none 0x07 m.val 0
  generalize State.log (s.withDown conn m.val) (connDie conn) 0 none 0x07 m.val 0 = t at same
  have faults : t.faults = (s.withDown conn m.val).faults := State.faults_of_contents same
  obtain ⟨down, units, mem, links⟩ := t.connFall_keeps conn m.val
  refine ⟨?_, ?_, ?_, ?_, fun ⟨i, known', ne, up'⟩ => ?_, fun d pd plinth rest free => ?_⟩
  · rw [down, faults]; rfl
  · rw [units, State.units_of_contents same]; rfl
  · rw [mem, State.mem_of_contents same]; rfl
  · rw [links, State.links_of_contents same]; rfl
  · have left : t.moduleFor conn 0 ≠ none := fun none => by
      rcases List.mem_cons.1 (faults ▸ State.moduleFor_zero_none.1 none i known') with same | mem
      · exact ne (congrArg Prod.snd same)
      · exact up' mem
    rw [State.connFall_up left, faults]; rfl
  · subst plinth
    have gone : t.moduleFor (.plinth d pd) 0 = none := by
      refine State.moduleFor_zero_none.2 fun i hi => ?_
      rw [faults]
      by_cases this : i = m.val
      · exact List.mem_cons.2 (.inl (by rw [this]))
      · exact List.mem_cons.2 (.inr (rest i hi this))
    rw [State.connFall_lost gone rfl]
    refine State.quarantine_toFence _ _ _ _ ?_
    rw [← free]
    simp only [State.goneUnit, State.isFenced, faults]
    rfl

theorem ucieModuleDown_ignored (s : State) (conn : Connection) (m : Fin 8)
    (h : s.awake = false ∨ connModules conn ≤ m.val ∨ (conn, m.val) ∈ s.faults.down) :
    Unchanged (.ucieModuleDown conn m) s := by
  have run : exec (.ucieModuleDown conn m) s = .next (if s.awake then s.moduleDown conn m.val else s) := rfl
  rw [Unchanged, run]
  rcases h with asleep | known
  · rw [asleep]; rfl
  · rw [State.moduleDown_ignored known, ite_self]

/-- Settles O17: a late collective of a core fails by `State.collFail`, silence stops the device (`State.stop`), and a
module that goes down is noted, with its compute die lost when it was the last one (`State.connFall_lost`). -/
theorem lateCollectiveSilenceAndModule : Obligations.LateCollectiveSilenceAndModule := by
  unfold Obligations.LateCollectiveSilenceAndModule
  intro s tag c conn m
  exact ⟨collectiveTimeout_fails s tag c, collectiveTimeout_waits s tag c, armatureSilence_stops s,
    armatureSilence_waits s, ucieModuleDown_noted s conn m, ucieModuleDown_ignored s conn m⟩

end Sys2Proof.Machine
end

section
/-! PROOFS. Queries for an outcome, and the FENCE of another device (R59, R77, R442, R443), and O15. -/

namespace Sys2Proof.Machine

/-! Answering a query (R77) -/

/-- A message from the only neighbour of the armature is passed on to nobody. -/
theorem State.forwardFlood_only {s : State} {l : Nat} (h : s.armLinks = [l]) (m : ArmMsg) :
    s.forwardFlood l m = s.see m := by
  have nobody : (s.armLinks.filter fun k => s.peer k != s.peer l) = [] := by rw [h]; simp
  simp only [State.forwardFlood, nobody]
  rfl

/-- The answer to a query, as the member that holds the outcome writes it. -/
def State.answerTo (s : State) (m : ArmMsg) (ok : Bool) : ArmMsg :=
  { mtype := 0x05, tag := 0, src := BitVec.ofNat 12 s.myNum, dest := m.src, ctx := m.ctx,
    strokeLo := BitVec.ofNat 20 s.stroke, payload := [if ok then 0x00 else 0x03, 0, 0, 0], ops := 0, stage := 0,
    msgSeq := BitVec.ofNat 32 s.arm.msgSeq, subject := m.subject }

/-- The state with the next message's number taken. -/
def State.numbered (s : State) : State := { s with arm := { s.arm with msgSeq := (s.arm.msgSeq + 1) % 2 ^ 32 } }

theorem State.mkMsg_answer (s : State) (m : ArmMsg) (ok : Bool) :
    s.mkMsg 0x05 m.src.toNat m.ctx.toNat 0 [if ok then 0x00 else 0x03] 0 0 m.subject = (s.answerTo m ok, s.numbered) := by
  simp [State.mkMsg, State.answerTo, State.numbered]

/-- An outcome that was applied is answered with. -/
theorem State.outcomeAnswer_held {s : State} {m : ArmMsg} {ok : Bool}
    (held : (s.outcomes.find? fun o => o.1 == m.ctx.toNat && o.2.1 == m.subject.toNat) =
      some (m.ctx.toNat, m.subject.toNat, ok)) :
    s.outcomeAnswer m = s.numbered.sendTo m.src.toNat (s.answerTo m ok) := by
  rw [State.outcomeAnswer, held]
  dsimp only
  rw [State.mkMsg_answer]

theorem State.armFrame_awaiting (s : State) (l : Nat) (ws : List Word) :
    ((s.armFrame l ws).link l).awaiting = armInsert ws (s.link l).awaiting := by
  rw [State.armFrame, State.link_setLink]

theorem outcomeQuery_answered (s : State) (link : LinkNo) (msg : ArmMsg) (ok : Bool) (new : s.seenMsg msg = false)
    (only : s.armLinks = [link.val]) (hop : s.hopTo msg.src.toNat = some link.val)
    (held : (s.outcomes.find? fun o => o.1 == msg.ctx.toNat && o.2.1 == msg.subject.toNat) =
      some (msg.ctx.toNat, msg.subject.toNat, ok)) :
    ∃ t, exec (.outcomeQuery link msg) s = .next t ∧ t.seenMsg msg = true ∧
      (t.link link.val).awaiting = armInsert (armWords (s.answerTo msg ok)) (s.link link.val).awaiting ∧
      t.units = s.units ∧ t.outcomes = s.outcomes ∧ t.mem = s.mem := by
  have run : exec (.outcomeQuery link msg) s = .next (s.armHeard.queryTake link.val msg) := rfl
  have taken : s.armHeard.queryTake link.val msg =
      ((s.armHeard.see msg).numbered).armFrame link.val (armWords (s.answerTo msg ok)) := by
    have toSender : ((s.armHeard.see msg).numbered).hopTo msg.src.toNat = some link.val := hop
    rw [State.queryTake, if_neg (by rw [show s.armHeard.seenMsg msg = false from new]; decide),
      State.forwardFlood_only (show s.armHeard.armLinks = [link.val] from only),
      State.outcomeAnswer_held (s := s.armHeard.see msg) held, State.sendTo, toSender]
    rfl
  rw [taken] at run
  refine ⟨_, run, ?_, State.armFrame_awaiting .., rfl, rfl, rfl⟩
  have arm : (((s.armHeard.see msg).numbered).armFrame link.val (armWords (s.answerTo msg ok))).arm =
      ((s.armHeard.see msg).numbered).arm := State.setLink_arm ..
  rw [State.seenMsg, arm]
  simp [State.numbered, State.see]

/-! The loss of another device (R443) -/

theorem foldl_same {α β : Type} (f : β → α → β) (l : List α) (b : β) (h : ∀ x ∈ l, f b x = b) : l.foldl f b = b := by
  induction l with
  | nil => rfl
  | cons x l ih =>
    rw [List.foldl_cons, h x List.mem_cons_self]
    exact ih fun y hy => h y (List.mem_cons_of_mem x hy)

/-- A device with no open window or ring collective and no chunk waiting loses nothing with another one. -/
theorem State.devLost_idle {s : State} (windows : s.windows = []) (bulk : s.bulk = [])
    (idle : ∀ l, l < 24 → (s.link l).queues.flatten = []) (dev : Nat) : s.devLost dev = s := by
  unfold State.devLost
  rw [windows]
  dsimp only [List.filter_nil, List.foldl_nil]
  rw [foldl_same _ (List.range 24) s, bulk]
  · rfl
  · intro l hl
    rw [idle l (List.mem_range.1 hl)]
    rfl

theorem State.windows_of_offArm {s t : State} (h : t.offArm = s.offArm) : t.windows = s.windows :=
  (congrArg State.windows h : t.offArm.windows = s.offArm.windows)

theorem State.bulk_of_offArm {s t : State} (h : t.offArm = s.offArm) : t.bulk = s.bulk :=
  (congrArg State.bulk h : t.offArm.bulk = s.offArm.bulk)

theorem State.groups_of_offArm {s t : State} (h : t.offArm = s.offArm) : t.groups = s.groups :=
  (congrArg State.groups h : t.offArm.groups = s.offArm.groups)

theorem State.boot_of_offArm {s t : State} (h : t.offArm = s.offArm) : t.boot = s.boot :=
  (congrArg State.boot h : t.offArm.boot = s.offArm.boot)

theorem State.groupDevs_congr {s t : State} (boot : t.boot = s.boot) (num : t.myNum = s.myNum)
    (group : List (Nat × Nat)) : t.groupDevs group = s.groupDevs group := by
  have fabric : t.fabric = s.fabric := by rw [State.fabric, boot]; rfl
  have run : t.run = s.run := by
    funext g k
    rw [State.run, State.coords, fabric, num]
    rfl
  rw [State.groupDevs, fabric, run]
  rfl

theorem State.ctxsOf_congr {s t : State} (groups : t.groups = s.groups) (boot : t.boot = s.boot)
    (num : t.myNum = s.myNum) (dev : Nat) : t.ctxsOf dev = s.ctxsOf dev := by
  simp only [State.ctxsOf, State.ctxDevs, State.groupOf, State.groupDevs_congr boot num, groups]

theorem State.armFrame_queues (s : State) (l k : Nat) (ws : List Word) :
    ((s.armFrame l ws).link k).queues = (s.link k).queues := by
  rw [State.armFrame]
  by_cases same : k = l
  · rw [same, State.link_setLink]
  · rw [State.link_setLink_other _ _ _ same]

theorem State.armFrames_queues (s : State) (ls : List Nat) (k : Nat) (ws : List Word) :
    ((s.armFrames ls ws).link k).queues = (s.link k).queues := by
  induction ls generalizing s with
  | nil => rfl
  | cons l ls ih => exact (ih (s.armFrame l ws)).trans (s.armFrame_queues l k ws)

theorem State.countForward_link (s : State) (ls : List Nat) (k : Nat) : (s.countForward ls).link k = s.link k := by
  unfold State.countForward
  induction ls generalizing s with
  | nil => rfl
  | cons l ls ih => rw [List.foldl_cons, ih]; exact congrArg (cget _ · k) (State.count_links ..)

theorem State.forwardFlood_queues (s : State) (l : Nat) (m : ArmMsg) (k : Nat) :
    ((s.forwardFlood l m).link k).queues = (s.link k).queues := by
  rw [State.forwardFlood, State.countForward_link, State.armFrames_queues]
  rfl

/-- The state with one more device out of service. -/
def State.withoutDev (s : State) (dev : Nat) : State := { s with arm := { s.arm with devs := dev :: s.arm.devs } }

theorem State.setMaster_contents (s : State) (m : Nat) : (s.setMaster m).contents = s.contents := by
  simp only [State.setMaster, State.put_contents]

theorem State.setMaster_devState (s : State) (m : Nat) : (s.setMaster m).devState = s.devState := by
  simp only [State.setMaster, State.devState]
  rw [State.get_put_addr _ _ _ _ _ _ _ _ (by decide), State.get_put_addr _ _ _ _ _ _ _ _ (by decide),
    State.get_put_field _ _ _ _ _ _ _ _ (by decide) (by decide) (by decide),
    State.get_put_field _ _ _ _ _ _ _ _ (by decide) (by decide) (by decide)]

/-- What a lost device marks, before the master's part: GONE in its contexts, and the routes to be rebuilt. -/
def State.devMarked (s : State) (dev : Nat) : State := (s.addReason (s.ctxsOf dev) Reason.gone).setFrameCount routesKey 1

/-- Beside its marks, another device's loss changes at most the master's role: its contents, DEV_STATE and the collectives'
record keep. -/
theorem State.devGone_idle {s : State} (windows : s.windows = []) (bulk : s.bulk = [])
    (idle : ∀ l, l < 24 → (s.link l).queues.flatten = []) (dev : Nat) :
    ∃ k, (s.devGone dev).contents = ((s.devMarked dev).withStrokes k).contents ∧ (s.devGone dev).devState =
      s.devState := by
  have lost := State.devLost_idle windows bulk idle dev
  unfold State.devGone
  rw [lost]
  dsimp only
  split
  · exact ⟨_, rfl, rfl⟩
  · split
    · exact ⟨_, rfl, rfl⟩
    · exact ⟨_, State.setMaster_contents .., State.setMaster_devState ..⟩

theorem State.devMarked_units (s : State) (dev : Nat) :
    (s.devMarked dev).units = (s.addReason (s.ctxsOf dev) Reason.gone).units := rfl

theorem State.addReason_units_congr {s t : State} (units : t.units = s.units) (sched : t.sched = s.sched)
    {ctxs ctxs' : List Nat} (same : ctxs' = ctxs) (r : Nat) :
    (t.addReason ctxs' r).units = (s.addReason ctxs r).units := by
  simp only [State.addReason, units, sched, same]

/-! Hearing a FENCE -/

/-- A FENCE not seen before, on a running device that has not failed, is passed on and acts. -/
theorem State.fenceTake_named {s : State} {m : ArmMsg} (l : Nat) (new : s.seenMsg m = false)
    (running : s.strokes.running = true) (alive : s.devState ≠ Dev.failed) : s.fenceTake l m =
      (s.forwardFlood l m).fenceNamed (bits m.subject 27 16) (bits m.subject 12 8) (bits m.subject 7 0) := by
  have strokes : (s.forwardFlood l m).strokes = s.strokes := State.strokes_of_offArm (State.forwardFlood_offArm ..)
  have dev : (s.forwardFlood l m).devState = s.devState := State.get_forwardFlood_device _ _ _ _ (by decide)
  unfold State.fenceTake
  rw [if_neg (by rw [new]; decide)]
  exact if_pos (by rw [strokes, dev, running]; simp [alive])

/-- The whole of a device is what unit 0x1F and index 0xFF name. -/
theorem State.fenceNamed_self {s : State} {dev : Nat} (h : dev = s.myNum) : s.fenceNamed dev 0x1F 0xFF = s.stop := by
  rw [State.fenceNamed, if_neg (by decide), if_pos h, if_pos rfl]

theorem State.fenceNamed_dev {s : State} {dev : Nat} (h : dev ≠ s.myNum) (new : dev ∉ s.arm.devs) :
    s.fenceNamed dev 0x1F 0xFF = (s.withoutDev dev).devGone dev := by
  rw [State.fenceNamed, if_neg (by decide), if_neg h, if_pos rfl, if_neg (by simpa using new), State.withoutDev]

theorem State.fenceNamed_die {s : State} {dev unit : Nat} (h : dev ≠ s.myNum) (die : unit < 8) (index : Nat) :
    s.fenceNamed dev unit index = s := by
  rw [State.fenceNamed, if_neg h, if_neg (show unit ≠ 0x1F by omega), if_pos die, ite_self]

theorem fence_stops (s : State) (link : LinkNo) (msg : ArmMsg) (new : s.seenMsg msg = false)
    (running : s.strokes.running = true) (alive : s.devState ≠ Dev.failed) (unit : bits msg.subject 12 8 = 0x1F)
    (index : bits msg.subject 7 0 = 0xFF) (mine : bits msg.subject 27 16 = s.myNum) :
    ∃ t, exec (.fence link msg) s = .next t ∧ t.devState = Dev.failed ∧ t.alert = true := by
  have run : exec (.fence link msg) s = .next (s.armHeard.fenceTake link.val msg) := rfl
  have num : (s.armHeard.forwardFlood link.val msg).myNum = s.myNum := State.get_forwardFlood_device _ _ _ _ (by decide)
  rw [State.fenceTake_named (s := s.armHeard) _ new running alive, unit, index,
    State.fenceNamed_self (mine.trans num.symm)] at run
  exact ⟨_, run, State.stop_devState _, State.alert_of_failed (State.stop_devState _)⟩

theorem fence_takesOut (s : State) (link : LinkNo) (msg : ArmMsg) (dev : Nat) (new : s.seenMsg msg = false)
    (running : s.strokes.running = true) (alive : s.devState ≠ Dev.failed) (named : bits msg.subject 27 16 = dev)
    (unit : bits msg.subject 12 8 = 0x1F) (index : bits msg.subject 7 0 = 0xFF) (other : dev ≠ s.myNum)
    (inService : dev ∉ s.arm.devs) (windows : s.windows = []) (bulk : s.bulk = [])
    (idle : ∀ l, l < 24 → (s.link l).queues.flatten = []) :
    ∃ t, exec (.fence link msg) s = .next t ∧ t.arm.devs = dev :: s.arm.devs ∧ t.seenMsg msg = true ∧
      t.units = (s.addReason (s.ctxsOf dev) Reason.gone).units ∧ t.frameCount routesKey = 1 ∧
      t.devState = s.devState ∧ t.mem = s.mem ∧ t.cores = s.cores := by
  have run : exec (.fence link msg) s = .next (s.armHeard.fenceTake link.val msg) := rfl
  have same := s.armHeard.forwardFlood_offArm link.val msg
  have arm := s.armHeard.forwardFlood_arm link.val msg
  have seen := s.armHeard.seenMsg_forwardFlood link.val msg
  have queues := s.armHeard.forwardFlood_queues link.val msg
  have device : ∀ f : Fld, f.off < 0x10000 →
      (s.armHeard.forwardFlood link.val msg).get Base.device f = s.get Base.device f :=
    fun f h => State.get_forwardFlood_device _ _ _ f h
  rw [State.fenceTake_named (s := s.armHeard) _ new running alive, named, unit, index] at run
  generalize s.armHeard.forwardFlood link.val msg = x at same arm seen queues device run
  have num : x.myNum = s.myNum := device _ (by decide)
  have devs : x.arm.devs = s.arm.devs := (congrArg Arm.devs arm).trans rfl
  rw [State.fenceNamed_dev (num ▸ other) (devs ▸ inService)] at run
  obtain ⟨k, kept, state⟩ := State.devGone_idle (s := x.withoutDev dev) ((State.windows_of_offArm same).trans windows)
    ((State.bulk_of_offArm same).trans bulk)
    (fun l h => (congrArg List.flatten (queues l)).trans (idle l h)) dev
  generalize (x.withoutDev dev).devGone dev = t at run kept state
  have armGone : t.arm = (x.withoutDev dev).arm := (congrArg State.arm kept :)
  refine ⟨t, run, ?_, ?_, ?_, ?_, ?_, ?_, ?_⟩
  · rw [armGone, State.withoutDev, devs]
  · rw [State.seenMsg, armGone]; exact seen
  · rw [State.units_of_contents kept, State.units_withStrokes, State.devMarked_units]
    exact State.addReason_units_congr ((State.units_of_offArm same).trans rfl) (device _ (by decide))
      (State.ctxsOf_congr ((State.groups_of_offArm same).trans rfl) ((State.boot_of_offArm same).trans rfl) num dev) _
  · rw [State.frameCount, State.faults_of_contents kept]
    exact State.frameCount_setFrameCount ..
  · exact state.trans (device _ (by decide))
  · exact (State.mem_of_contents kept).trans ((State.mem_of_offArm same).trans rfl)
  · exact (State.cores_of_contents kept).trans ((State.cores_of_offArm same).trans rfl)

theorem fence_farDie (s : State) (link : LinkNo) (msg : ArmMsg) (new : s.seenMsg msg = false)
    (other : bits msg.subject 27 16 ≠ s.myNum) (die : bits msg.subject 12 8 < 8) :
    ∃ t, exec (.fence link msg) s = .next t ∧ t.seenMsg msg = true ∧ t.units = s.units ∧ t.arm.devs = s.arm.devs ∧
      t.arm.links = s.arm.links ∧ t.mem = s.mem ∧ t.cores = s.cores := by
  have run : exec (.fence link msg) s = .next (s.armHeard.fenceTake link.val msg) := rfl
  have num : (s.armHeard.forwardFlood link.val msg).myNum = s.myNum := State.get_forwardFlood_device _ _ _ _ (by decide)
  have taken : s.armHeard.fenceTake link.val msg = s.armHeard.forwardFlood link.val msg := by
    unfold State.fenceTake
    rw [if_neg (by rw [show s.armHeard.seenMsg msg = false from new]; decide)]
    dsimp only
    rw [State.fenceNamed_die (num.symm ▸ other) die, ite_self]
  rw [taken] at run
  have same := s.armHeard.forwardFlood_offArm link.val msg
  have arm := s.armHeard.forwardFlood_arm link.val msg
  exact ⟨_, run, State.seenMsg_forwardFlood .., (State.units_of_offArm same).trans rfl,
    (congrArg Arm.devs arm).trans rfl, (congrArg Arm.links arm).trans rfl,
    (State.mem_of_offArm same).trans rfl, (State.cores_of_offArm same).trans rfl⟩

/-- Settles O15: a held outcome is answered with (`State.outcomeAnswer_held`), and a FENCE not seen before acts by
`State.fenceTake_named`: on this device `State.stop`, on another one `State.devGone`. -/
theorem queryAnsweredAndFenceHeard : Obligations.QueryAnsweredAndFenceHeard := by
  unfold Obligations.QueryAnsweredAndFenceHeard
  intro s link msg ok dev
  refine ⟨fun seen => ⟨?_, ?_⟩, outcomeQuery_answered s link msg ok, fun new running alive named unit index =>
    ⟨fun mine => fence_stops s link msg new running alive unit index (named.trans mine),
      fun other inService windows bulk idle =>
      fence_takesOut s link msg dev new running alive named unit index other inService windows bulk idle⟩,
    fence_farDie s link msg⟩
  · have run : exec (.outcomeQuery link msg) s = .next (s.armHeard.queryTake link.val msg) := rfl
    rw [run, State.queryTake, if_pos (show s.armHeard.seenMsg msg = true from seen)]
    rfl
  · have run : exec (.fence link msg) s = .next (s.armHeard.fenceTake link.val msg) := rfl
    rw [run, State.fenceTake, if_pos (show s.armHeard.seenMsg msg = true from seen)]
    rfl

end Sys2Proof.Machine
end

section
/-! PROOFS. What a block's budget end and its abort change (R66, R67, R70, R134), and O19. -/

namespace Sys2Proof.Machine

/-! Steps that change the cores, their registers and the spans of contexts alone -/

/-- The state's contents without its cores and the contexts' records. -/
def State.offWork (s : State) : State := { s.contents with cores := [], ctxs := [] }

/-- `t` differs from `s` at most in the cores, the contexts' records, and registers of blocks 0x02 (R35). -/
def State.WorkStep (s t : State) : Prop := t.offWork = s.offWork ∧ ∀ a, blockOf a ≠ 0x02 → t.reg a = s.reg a

theorem State.offWork_of_contents {s t : State} (h : t.contents = s.contents) : t.offWork = s.offWork :=
  congrArg (fun x : State => { x with cores := [], ctxs := [] }) h

theorem State.strokes_of_contents {s t : State} (h : t.contents = s.contents) : t.strokes = s.strokes :=
  (congrArg State.strokes h : t.contents.strokes = s.contents.strokes)

theorem State.engines_of_contents {s t : State} (h : t.contents = s.contents) : t.engines = s.engines :=
  (congrArg State.engines h : t.contents.engines = s.contents.engines)

theorem State.strokes_of_offWork {s t : State} (h : t.offWork = s.offWork) : t.strokes = s.strokes :=
  (congrArg State.strokes h : t.offWork.strokes = s.offWork.strokes)

theorem State.mem_of_offWork {s t : State} (h : t.offWork = s.offWork) : t.mem = s.mem :=
  (congrArg State.mem h : t.offWork.mem = s.offWork.mem)

theorem State.units_of_offWork {s t : State} (h : t.offWork = s.offWork) : t.units = s.units :=
  (congrArg State.units h : t.offWork.units = s.offWork.units)

theorem State.engines_of_offWork {s t : State} (h : t.offWork = s.offWork) : t.engines = s.engines :=
  (congrArg State.engines h : t.offWork.engines = s.offWork.engines)

theorem State.WorkStep.refl (s : State) : s.WorkStep s := ⟨rfl, fun _ _ => rfl⟩

theorem State.WorkStep.trans {s t u : State} (h : s.WorkStep t) (k : t.WorkStep u) : s.WorkStep u :=
  ⟨k.1.trans h.1, fun a ha => (k.2 a ha).trans (h.2 a ha)⟩

theorem State.WorkStep.get {s t : State} (h : s.WorkStep t) {b : Nat} {f : Fld} {i : Nat}
    (apart : blockOf (b + f.off + i * f.step) ≠ 0x02) : t.get b f i = s.get b f i := by
  rw [State.get, h.2 _ apart, State.get]

theorem State.workStep_foldl {α : Type} (f : State → α → State) (l : List α) (s : State)
    (h : ∀ t : State, ∀ x ∈ l, t.WorkStep (f t x)) : s.WorkStep (l.foldl f s) := by
  induction l generalizing s with
  | nil => exact .refl s
  | cons x l ih =>
    exact (h s x List.mem_cons_self).trans (ih _ fun t y hy => h t y (List.mem_cons_of_mem x hy))

theorem State.workStep_setCore (s : State) (d c : Nat) (k : Core) : s.WorkStep (s.setCore d c k) :=
  ⟨rfl, fun _ _ => rfl⟩

theorem State.workStep_spanSet (s : State) (ctx : Nat) (on : Bool) : s.WorkStep (s.spanSet ctx on) :=
  ⟨rfl, fun _ _ => rfl⟩

theorem blockOf_core (d : Nat) {c off : Nat} (hc : c < 48) (ho : off < 0x400) : blockOf (Base.core d c + off) = 0x02 := by
  simp only [blockOf, Base.core, csr]
  omega

theorem State.workStep_put (s : State) (d : Nat) {c : Nat} (hc : c < 48) (f : Fld) (v i : Nat)
    (ho : f.off + i * f.step < 0x400) : s.WorkStep (s.put (Base.core d c) f v i) := by
  refine ⟨State.offWork_of_contents (State.put_contents ..), fun a ha => State.reg_put_other s _ f v i fun same => ha ?_⟩
  rw [same, Nat.add_assoc]
  exact blockOf_core d hc ho

theorem State.workStep_chanStop (s : State) (d : Nat) {c ch : Nat} (hc : c < 48) (hch : ch < 4) :
    s.WorkStep (s.chanStop d c ch) := by
  have inCore : Reg.chState.off + ch * Reg.chState.step < 0x400 := by simp only [Reg.chState]; omega
  unfold State.chanStop
  dsimp only
  split
  · split
    · exact State.workStep_put s d hc _ _ _ inCore
    · exact (State.workStep_setCore ..).trans (State.workStep_put _ d hc _ _ _ inCore)
  · exact .refl s

theorem State.workStep_chansStop (s : State) (d : Nat) {c : Nat} (hc : c < 48) :
    s.WorkStep ((List.range 4).foldl (fun s ch =>
      if s.get (Base.core d c) Reg.chCarry ch = 0 then s.chanStop d c ch else s) s) :=
  State.workStep_foldl _ _ _ fun s ch hch => by
    split
    · exact State.workStep_chanStop s d hc (List.mem_range.1 hch)
    · exact .refl s

theorem State.workStep_endTargets (s : State) (d c : Nat) : s.WorkStep (s.endTargets d c) :=
  State.workStep_foldl _ _ _ fun _ _ _ => State.workStep_setCore ..

theorem State.workStep_setBlock (s : State) (d : Nat) {c : Nat} (hc : c < 48) (b : Option BlockRun) :
    s.WorkStep (s.setBlock d c b) := by
  unfold State.setBlock
  cases b with
  | none => exact State.workStep_setCore ..
  | some b => exact (State.workStep_setCore ..).trans (State.workStep_put _ d hc _ _ _ (by decide))

@[simp] theorem State.core_put (s : State) (b : Nat) (f : Fld) (v i d c : Nat) : (s.put b f v i).core d c = s.core d c :=
  congrArg (cget _ · _) (State.put_cores s b f v i)

@[simp] theorem State.block_setBlock (s : State) (d c : Nat) (b : Option BlockRun) :
    ((s.setBlock d c b).core d c).block = b := by
  unfold State.setBlock
  cases b with
  | none => simp
  | some b => simp

/-! The abort of a block (R66, R134) -/

/-- An aborted block, counted and logged, with the reason set in its unit. -/
def State.abortNoted (s : State) (d c reason : Nat) (b : BlockRun) : State :=
  ((s.count (Base.armature d) Reg.abortCount).workReason b.ctx b.kind b.seq reason).log d
    (b2n (s.workStaged b.ctx b.kind b.seq)) (some b.ctx) 0x08 c b.slot

/-- An abort notes itself, and for the rest changes the core and its context's span alone. -/
theorem State.abortBlock_noted {s : State} {d c : Nat} {b : BlockRun} (hc : c < 48)
    (running : (s.core d c).block = some b)
    (reason : Nat) : (s.abortNoted d c reason b).WorkStep (s.abortBlock d c reason) ∧
      ((s.abortBlock d c reason).core d c).block = none ∧
      (s.abortBlock d c reason).get (Base.core d c) Reg.seqState = 4 := by
  unfold State.abortBlock
  rw [running]
  dsimp only
  refine ⟨?_, by simp, State.get_put_same _ _ _ _ _ (by decide)⟩
  refine (State.workStep_chansStop _ d hc).trans (.trans ?_ ((State.workStep_endTargets _ d c).trans
    ((State.workStep_setBlock _ d hc none).trans (State.workStep_put _ d hc _ _ _ (by decide)))))
  split
  · exact State.workStep_spanSet ..
  · exact .refl _

theorem State.workReason_offUnits (s : State) (ctx kind seq r : Nat) :
    (s.workReason ctx kind seq r).offUnits = s.offUnits := by
  unfold State.workReason
  split <;> rfl

theorem State.workReason_reg (s : State) (ctx kind seq r a : Nat) : (s.workReason ctx kind seq r).reg a = s.reg a := by
  unfold State.workReason
  split <;> rfl

theorem State.workReason_units_congr {s t : State} (units : t.units = s.units) (sched : t.sched = s.sched)
    (ctx kind seq r : Nat) : (t.workReason ctx kind seq r).units = (s.workReason ctx kind seq r).units := by
  unfold State.workReason
  split
  · exact units
  · simp only [units, sched]

theorem State.abortNoted_offUnits (s : State) (d c reason : Nat) (b : BlockRun) :
    (s.abortNoted d c reason b).offUnits = s.offUnits := by
  rw [State.abortNoted, State.offUnits_of_contents (State.log_contents ..), State.workReason_offUnits,
    State.offUnits_of_contents (State.count_contents ..)]

theorem State.abortNoted_units (s : State) (d c reason : Nat) (b : BlockRun) :
    (s.abortNoted d c reason b).units = (s.workReason b.ctx b.kind b.seq reason).units := by
  rw [State.abortNoted, State.units_of_contents (State.log_contents ..)]
  refine State.workReason_units_congr (State.units_of_contents (State.count_contents ..)) ?_ ..
  refine State.get_count_addr _ _ _ _ _ _ _ _ ?_
  simp only [Base.device, Base.armature, csr, Reg.schedPos, Reg.abortCount]
  omega

theorem State.abortNoted_abortCount (s : State) (d c reason : Nat) (b : BlockRun) :
    (s.abortNoted d c reason b).get (Base.armature d) Reg.abortCount =
      min (s.get (Base.armature d) Reg.abortCount + 1) (2 ^ Reg.abortCount.w - 1) := by
  have block : blockOf (Base.armature d + Reg.abortCount.off + 0 * Reg.abortCount.step) = 0x01 := by
    simp only [blockOf, Base.armature, csr, Reg.abortCount]; omega
  rw [State.abortNoted, State.log_get _ _ _ _ _ _ _ _ _ _ (by rw [block]; decide) (by rw [block]; decide), State.get,
    State.workReason_reg]
  exact State.get_count_same _ _ _ _ _ (by decide)

/-! The first overrun of a block, and the device's lag (R66, R67, R70) -/

/-- A first overrun, marked and counted in the die's ARMATURE block and logged. -/
def State.overrunNoted (s : State) (d c : Nat) (b : BlockRun) : State :=
  ((s.setBit (Base.armature d) Reg.overrunMask c).count (Base.armature d) Reg.overrunCount).log d 0 (some b.ctx) 0x08 c b.slot

theorem State.overrunNoted_contents (s : State) (d c : Nat) (b : BlockRun) :
    (s.overrunNoted d c b).contents = s.contents := by
  rw [State.overrunNoted, State.log_contents, State.count_contents, State.setBit, State.put_contents]

theorem State.overrunNoted_overrunCount (s : State) (d c : Nat) (b : BlockRun) :
    (s.overrunNoted d c b).get (Base.armature d) Reg.overrunCount =
      min (s.get (Base.armature d) Reg.overrunCount + 1) (2 ^ Reg.overrunCount.w - 1) := by
  have block : blockOf (Base.armature d + Reg.overrunCount.off + 0 * Reg.overrunCount.step) = 0x01 := by
    simp only [blockOf, Base.armature, csr, Reg.overrunCount]; omega
  rw [State.overrunNoted, State.log_get _ _ _ _ _ _ _ _ _ _ (by rw [block]; decide) (by rw [block]; decide),
    State.get_count_same _ _ _ _ _ (by decide), State.setBit, State.get_put_addr]
  simp only [Reg.overrunCount, Reg.overrunMask]; omega

theorem State.overrunNoted_device (s : State) (d c : Nat) (b : BlockRun) {f : Fld} (hf : f.off < 0x10000) :
    (s.overrunNoted d c b).get Base.device f = s.get Base.device f := by
  have block : blockOf (Base.device + f.off + 0 * f.step) = 0x00 := by
    simp only [blockOf, Base.device, csr]; omega
  rw [State.overrunNoted, State.log_get _ _ _ _ _ _ _ _ _ _ (by rw [block]; decide) (by rw [block]; decide), State.setBit,
    State.get_count_addr, State.get_put_addr]
  · simp only [Base.device, Base.armature, csr, Reg.overrunMask]; omega
  · simp only [Base.device, Base.armature, csr, Reg.overrunCount]; omega

/-- The stroke timer with an overrun noted for its block (R70). -/
def Strokes.withOverrun (k : Strokes) (o : Nat × Nat × Nat × Nat) : Strokes := { k with overruns := k.overruns ++ [o] }

theorem State.blockBudget_first {s : State} {d c : Nat} {b : BlockRun} (first : b.overran = false) :
    s.blockBudget d c b = ((((s.overrunNoted d c b).withStrokes ((s.overrunNoted d c b).strokes.withOverrun
      (d, c, b.base, (s.overrunNoted d c b).stroke))).setBlock d c (some { b with overran := true })).put (Base.core d c)
        Reg.seqState 3) := by
  unfold State.blockBudget
  rw [first]
  rfl

theorem State.blockBudget_again {s : State} {d c : Nat} {b : BlockRun} (again : b.overran = true) :
    s.blockBudget d c b = s.abortBlock d c Reason.overrun := by
  unfold State.blockBudget
  exact if_pos again

theorem State.slipNamed_strokes (s : State) (n : Nat) : ∃ l,
    (s.slipNamed n).strokes = { s.strokes with slips := l } ∧ n ∈ l := by
  unfold State.slipNamed
  dsimp only
  split
  next named => exact ⟨_, rfl, List.contains_iff_mem.1 named⟩
  next => exact ⟨_, rfl, List.mem_cons_self⟩

/-- A step that leaves registers, memory and cores alone. -/
theorem State.slipNamed_rest (s : State) (n : Nat) :
    (s.slipNamed n).regs = s.regs ∧ (s.slipNamed n).cores = s.cores := by
  unfold State.slipNamed
  dsimp only
  split <;> exact ⟨rfl, rfl⟩

/-- The device lags in the stroke to come. -/
def State.lagging (s : State) : State := s.withStrokes { s.strokes with overran := true }

theorem State.lagNext_eq (s : State) : s.lagNext =
    if s.strokes.slips.contains (s.stroke + 1) then s.lagging
    else (s.lagging.flood 0x02 0 [] (word (s.stroke + 2))).slipNamed (s.stroke + 2) := rfl

/-- A device that overran lags, and has the stroke after next named as a slip stroke unless the next one is one. -/
theorem State.lagNext_spec (s : State) : (∃ l, s.lagNext.strokes = { s.strokes with overran := true, slips := l } ∧
      ((s.stroke + 1) ∉ s.strokes.slips → (s.stroke + 2) ∈ l)) ∧
    s.lagNext.regs = s.regs ∧ s.lagNext.cores = s.cores ∧ s.lagNext.mem = s.mem := by
  rw [State.lagNext_eq]
  split
  next named =>
    exact ⟨⟨_, rfl, fun apart => absurd (List.contains_iff_mem.1 named) apart⟩, rfl, rfl, rfl⟩
  next =>
    have same := s.lagging.flood_offArm 0x02 0 [] (word (s.stroke + 2))
    obtain ⟨l, strokes, named⟩ := State.slipNamed_strokes (s.lagging.flood 0x02 0 [] (word (s.stroke + 2))) (s.stroke + 2)
    obtain ⟨regs, cores⟩ := State.slipNamed_rest (s.lagging.flood 0x02 0 [] (word (s.stroke + 2))) (s.stroke + 2)
    refine ⟨⟨l, ?_, fun _ => named⟩, ?_, ?_, ?_⟩
    · rw [strokes, State.strokes_of_offArm same]; rfl
    · rw [regs, State.flood_regs]; rfl
    · rw [cores, State.cores_of_offArm same]; rfl
    · rw [State.slipNamed_mem, State.mem_of_offArm same]; rfl

/-! The budget end -/

/-- The state whose budget end has come. -/
def State.budgetOver (s : State) : State := s.withStrokes { s.strokes with ended := true }

/-- What the budget end does to one core's record. -/
def State.coreBudget (s : State) (p : Nat × Core) : State :=
  match p.2.block with
  | some b => if s.coreUp (p.1 / 48) (p.1 % 48) then s.blockBudget (p.1 / 48) (p.1 % 48) b else s
  | none => s

/-- What the budget end does to one engine's record. -/
def State.engineBudget (s : State) (p : Nat × Eng) : State :=
  match p.2.job with
  | some j => s.jobBudget (p.1 / 8) (p.1 % 8) j
  | none => s

/-- The budget end acts in a serving device, once in a stroke: on the cores, on the engines, and on the lag. -/
theorem State.budgetEnd_acts {s : State} (running : s.strokes.running = true) (serving : s.serving = true)
    (open' : s.strokes.ended = false) : s.budgetEnd =
      let x := s.budgetOver.cores.foldl State.coreBudget s.budgetOver
      let y := x.engines.foldl State.engineBudget x
      if s.budgetOver.firstOverrun then y.lagNext else y :=
  if_neg (by simp [running, serving, open'])

theorem State.budgetEnd_rests {s : State} (h : s.strokes.running = false ∨ s.serving = false ∨ s.strokes.ended = true) :
    s.budgetEnd = s := by
  refine if_pos ?_
  rcases h with h | h | h <;> simp [h]

/-- A device whose only record is of one core in service with a block, and of no engine. -/
structure State.OneBlock (s : State) (d c : Nat) (k : Core) (b : BlockRun) : Prop where
  core : c < 48
  die : d < 8
  cores : s.cores = [(48 * d + c, k)]
  block : k.block = some b
  engines : s.engines = []
  up : s.coreUp d c = true

theorem State.OneBlock.record {s : State} {d c : Nat} {k : Core} {b : BlockRun} (h : s.OneBlock d c k b) :
    s.core d c = k := by
  rw [State.core, h.cores, coreKey]
  simp [cget]

theorem State.engines_withStrokes (s : State) (k : Strokes) : (s.withStrokes k).engines = s.engines := rfl

theorem State.engines_of_offUnits {s t : State} (h : t.offUnits = s.offUnits) : t.engines = s.engines :=
  (congrArg State.engines h : t.offUnits.engines = s.offUnits.engines)

/-- A first overrun notes itself with the stroke timer, and for the rest changes the core alone. -/
def State.overrunMarked (s : State) (d c : Nat) (b : BlockRun) : State :=
  (s.overrunNoted d c b).withStrokes ((s.overrunNoted d c b).strokes.withOverrun
    (d, c, b.base, (s.overrunNoted d c b).stroke))

theorem State.blockBudget_marked {s : State} {d c : Nat} {b : BlockRun} (hc : c < 48) (first : b.overran = false) :
    (s.overrunMarked d c b).WorkStep (s.blockBudget d c b) ∧
      ((s.blockBudget d c b).core d c).block = some { b with overran := true } ∧
      (s.blockBudget d c b).get (Base.core d c) Reg.seqState = 3 := by
  rw [State.blockBudget_first first]
  exact ⟨(State.workStep_setBlock _ d hc _).trans (State.workStep_put _ d hc _ _ _ (by decide)), by simp,
    State.get_put_same _ _ _ _ _ (by decide)⟩

theorem State.blockBudget_engines {s : State} {d c : Nat} (hc : c < 48) (b : BlockRun)
    (running : (s.core d c).block = some b)
    (noEngines : s.engines = []) : (s.blockBudget d c b).engines = [] := by
  cases h : b.overran with
  | true =>
    rw [State.blockBudget_again h, State.engines_of_offWork (State.abortBlock_noted hc running _).1.1,
      State.engines_of_offUnits (State.abortNoted_offUnits ..), noEngines]
  | false =>
    rw [State.engines_of_offWork (State.blockBudget_marked hc h).1.1, State.overrunMarked, State.engines_withStrokes,
      State.engines_of_contents (s.overrunNoted_contents d c b), noEngines]

/-- With one running block the budget end acts on it, and on the lag when it is its first. -/
theorem State.budgetEnd_one {s : State} {d c : Nat} {k : Core} {b : BlockRun} (one : s.OneBlock d c k b)
    (running : s.strokes.running = true) (serving : s.serving = true) (open' : s.strokes.ended = false) :
    s.budgetEnd = if b.overran then s.budgetOver.abortBlock d c Reason.overrun
      else (s.budgetOver.blockBudget d c b).lagNext := by
  have key : (48 * d + c) / 48 = d ∧ (48 * d + c) % 48 = c := by
    have := one.core
    omega
  have up : s.budgetOver.coreUp d c = true := one.up
  have first : s.budgetOver.firstOverrun = !b.overran := by
    have cores : s.budgetOver.cores = [(48 * d + c, k)] := one.cores
    have engines : s.budgetOver.engines = [] := one.engines
    simp [State.firstOverrun, cores, engines, one.block, key.1, key.2, up]
  have acts : s.budgetOver.cores.foldl State.coreBudget s.budgetOver = s.budgetOver.blockBudget d c b := by
    have cores : s.budgetOver.cores = [(48 * d + c, k)] := one.cores
    rw [cores, List.foldl_cons, List.foldl_nil, State.coreBudget]
    simp only [one.block, key.1, key.2, up, if_true]
  rw [State.budgetEnd_acts running serving open', acts]
  dsimp only
  rw [State.blockBudget_engines (s := s.budgetOver) one.core b
      ((congrArg Core.block one.record).trans one.block) one.engines,
    List.foldl_nil, first]
  cases h : b.overran with
  | true => rw [State.blockBudget_again h]; rfl
  | false => rfl

/-! O19 -/

/-- The state that a first overrun leaves before the device lags: what it reads of the device and the timer. -/
theorem State.blockBudget_reads {s : State} {d c : Nat} {b : BlockRun} (hc : c < 48) (first : b.overran = false) :
    (s.blockBudget d c b).strokes = s.strokes.withOverrun (d, c, b.base, s.stroke) ∧
      (∀ f : Fld, f.off < 0x10000 → (s.blockBudget d c b).get Base.device f = s.get Base.device f) ∧
      (s.blockBudget d c b).get (Base.armature d) Reg.overrunCount =
        min (s.get (Base.armature d) Reg.overrunCount + 1) (2 ^ Reg.overrunCount.w - 1) ∧
      (s.blockBudget d c b).mem = s.mem := by
  obtain ⟨step, -, -⟩ := State.blockBudget_marked (s := s) (d := d) hc first
  have noted := s.overrunNoted_contents d c b
  have stroke : (s.overrunNoted d c b).stroke = s.stroke := s.overrunNoted_device d c b (by decide)
  refine ⟨?_, fun f hf => ?_, ?_, ?_⟩
  · rw [State.strokes_of_offWork step.1, State.overrunMarked, State.strokes_withStrokes, State.strokes_of_contents noted,
      stroke]
  · rw [step.get, State.overrunMarked, State.get_withStrokes, State.overrunNoted_device _ _ _ _ hf]
    simp only [blockOf, Base.device, csr]; omega
  · rw [step.get, State.overrunMarked, State.get_withStrokes, State.overrunNoted_overrunCount]
    simp only [blockOf, Base.armature, csr, Reg.overrunCount]; omega
  · rw [State.mem_of_offWork step.1, State.overrunMarked, State.mem_withStrokes, State.mem_of_contents noted]

theorem budgetEnd_first {s : State} {d c : Nat} {k : Core} {b : BlockRun} (one : s.OneBlock d c k b)
    (running : s.strokes.running = true) (serving : s.serving = true) (open' : s.strokes.ended = false)
    (first : b.overran = false) : ∃ t, exec .budgetEnd s = .next t ∧
      (t.core d c).block = some { b with overran := true } ∧ t.get (Base.core d c) Reg.seqState = 3 ∧
      t.get (Base.armature d) Reg.overrunCount =
        min (s.get (Base.armature d) Reg.overrunCount + 1) (2 ^ Reg.overrunCount.w - 1) ∧
      t.strokes.overran = true ∧ t.strokes.ended = true ∧
      t.strokes.overruns = s.strokes.overruns ++ [(d, c, b.base, s.stroke)] ∧
      ((s.stroke + 1) ∉ s.strokes.slips → (s.stroke + 2) ∈ t.strokes.slips) ∧ t.mem = s.mem ∧ t.devState =
        s.devState := by
  have run : exec .budgetEnd s = .next s.budgetEnd := rfl
  rw [State.budgetEnd_one one running serving open', if_neg (by simp [first])] at run
  obtain ⟨-, block, seqState⟩ := State.blockBudget_marked (s := s.budgetOver) (d := d) one.core first
  obtain ⟨strokes, device, count, mem⟩ := State.blockBudget_reads (s := s.budgetOver) (d := d) one.core first
  obtain ⟨⟨l, lag, named⟩, regs, cores, kept⟩ := State.lagNext_spec (s.budgetOver.blockBudget d c b)
  generalize s.budgetOver.blockBudget d c b = y at run block seqState strokes device count mem lag named regs cores kept
  have stroke : y.stroke = s.stroke := device Reg.strokeCount (by decide)
  refine ⟨y.lagNext, run, ?_, ?_, ?_, ?_, ?_, ?_, ?_, ?_, ?_⟩
  · rw [State.core, cores]; exact block
  · rw [State.get_of_regs regs]; exact seqState
  · rw [State.get_of_regs regs]; exact count
  · rw [lag]
  · rw [lag, strokes]; rfl
  · rw [lag, strokes]; rfl
  · intro apart
    rw [lag, ← stroke]
    refine named ?_
    rw [stroke, strokes]
    exact apart
  · rw [kept, mem]; rfl
  · rw [State.devState, State.get_of_regs regs]; exact device _ (by decide)

theorem budgetEnd_again {s : State} {d c : Nat} {k : Core} {b : BlockRun} (one : s.OneBlock d c k b)
    (running : s.strokes.running = true) (serving : s.serving = true) (open' : s.strokes.ended = false)
    (again : b.overran = true) : ∃ t, exec .budgetEnd s = .next t ∧ (t.core d c).block = none ∧
      t.get (Base.core d c) Reg.seqState = 4 ∧
      t.get (Base.armature d) Reg.abortCount =
        min (s.get (Base.armature d) Reg.abortCount + 1) (2 ^ Reg.abortCount.w - 1) ∧
      t.strokes = { s.strokes with ended := true } ∧
      t.units = (s.workReason b.ctx b.kind b.seq Reason.overrun).units ∧ t.mem = s.mem := by
  have run : exec .budgetEnd s = .next s.budgetEnd := rfl
  rw [State.budgetEnd_one one running serving open', if_pos again] at run
  have inCore : (s.budgetOver.core d c).block = some b := (congrArg Core.block one.record).trans one.block
  obtain ⟨step, block, seqState⟩ := State.abortBlock_noted one.core inCore Reason.overrun
  have noted := s.budgetOver.abortNoted_offUnits d c Reason.overrun b
  refine ⟨_, run, block, seqState, ?_, ?_, ?_, ?_⟩
  · rw [step.get, State.abortNoted_abortCount]
    · rfl
    · simp only [blockOf, Base.armature, csr, Reg.abortCount]; omega
  · rw [State.strokes_of_offWork step.1, State.strokes_of_offUnits noted]; rfl
  · rw [State.units_of_offWork step.1, State.abortNoted_units]
    exact State.workReason_units_congr (s := s) (t := s.budgetOver) rfl rfl ..
  · rw [State.mem_of_offWork step.1, State.mem_of_offUnits noted]; rfl

/-- Settles O19: with one running block the budget end is `State.budgetEnd_one`: a first overrun is marked and the device
lags (`State.lagNext_spec`), a second one aborts the block (`State.abortBlock_noted`). -/
theorem budgetEndOverrun : Obligations.BudgetEndOverrun := by
  unfold Obligations.BudgetEndOverrun
  intro s d c k b
  refine ⟨fun running serving open' die core cores block engines up => ?_, fun rests => ?_⟩
  · have one : s.OneBlock d c k b := ⟨core, die, cores, block, engines, up⟩
    exact ⟨budgetEnd_first one running serving open', budgetEnd_again one running serving open'⟩
  · have run : exec .budgetEnd s = .next s.budgetEnd := rfl
    rw [Unchanged, run, State.budgetEnd_rests rests]

end Sys2Proof.Machine
end

section
/-! PROOFS. A core's command that is well formed runs and issues (R125, R132, R133, R135), words of the scratchpad that are
clean, and O27. -/

namespace Sys2Proof.Machine

/-! A well-formed command at the sequencer's word -/

/-- A command that meets no cause of R133 runs. -/
theorem State.seqCmd_run {s : State} {d c op nw : Nat} {b : BlockRun} {ws : List Word}
    (command : AtCommand s d c op nw b ws)
    (words : opWords op = some nw) {causes : BlockRun → List Word → List Nat} (fine : causes b ws = [])
    (run : BlockRun → List Word → State) : s.seqCmd d c op causes run = run b ws := by
  obtain ⟨block, open', up, eq, code, count, inside, early⟩ := command
  have first : ws.getD 0 0 = s.fetch d c b.pc := by rw [eq]; simp [List.range_succ_eq_map]
  rw [first] at code count early
  unfold State.seqCmd
  rw [block]
  dsimp only
  rw [if_neg (by simp [open', up]), code, words]
  dsimp only
  rw [if_neg (by omega), if_neg (by simp), ← eq, fine, if_neg (by omega)]
  cases at' : effAt b (s.fetch d c b.pc) with
  | none => rfl
  | some a =>
    dsimp only
    rw [if_neg fun late => Nat.not_lt.2 (early a at') late.2.2]
    rfl

/-! The issue of a command (R135) -/

/-- The running block once a command of it has issued. -/
def BlockRun.issued (b : BlockRun) (w0 : Word) (ready nw : Nat) : BlockRun :=
  { b with last := issueAt b w0 ready, done := max b.done (issueAt b w0 ready),
           loops := (advance b.loops (b.pc + 1 + nw)).1, pc := (advance b.loops (b.pc + 1 + nw)).2 }

/-- The first cycle in which a command may issue, ready or not (R135). -/
def ownCycle (b : BlockRun) (w0 : Word) : Nat :=
  max (match effAt b w0 with
    | some a => 120 + a
    | none => 0) (b.last + 1)

/-- A late command is counted (Table 04.15). -/
def State.lateCounted (s : State) (d c : Nat) (b : BlockRun) (w0 : Word) (ready : Nat) : State :=
  if ownCycle b w0 < ready then s.count (Base.core d c) Reg.lateIssue else s

/-- A sequencer that showed that its command waits shows that it runs. -/
def State.seqRuns (s : State) (d c : Nat) (b : BlockRun) : State :=
  if s.get (Base.core d c) Reg.seqState = 2 then s.put (Base.core d c) Reg.seqState (if b.overran then 3 else 1) else s

theorem State.issue_eq (s : State) (d c : Nat) (b : BlockRun) (w0 : Word) (ready nw : Nat) : s.issue d c b w0 ready nw =
    ((((s.lateCounted d c b w0 ready).setBlock d c (some (b.issued w0 ready nw))).modesShow d c
      (b.edge + issueAt b w0 ready)).seqRuns d c b) := rfl

/-- A property that every step of a fold keeps, as long as its elements are in the list. -/
theorem foldl_keeps {α β : Type} (P : β → Prop) (f : β → α → β) (l : List α) (b : β) (start : P b)
    (step : ∀ b, ∀ x ∈ l, P b → P (f b x)) : P (l.foldl f b) := by
  induction l generalizing b with
  | nil => exact start
  | cons x l ih =>
    exact ih _ (step b x List.mem_cons_self start) fun b y hy => step b y (List.mem_cons_of_mem x hy)

/-- Showing the arrays' modes changes no core, and of the registers the modes of that core's arrays alone. -/
theorem State.modesShow_keeps (s : State) (d c now : Nat) : (s.modesShow d c now).cores = s.cores ∧
    (s.modesShow d c now).contents = s.contents ∧
    ∀ a, (∀ i < 8, a ≠ Base.core d c + Reg.arrMode.off + i * Reg.arrMode.step) → (s.modesShow d c now).reg a =
      s.reg a := by
  refine foldl_keeps (fun t : State => t.cores = s.cores ∧ t.contents = s.contents ∧
    ∀ a, (∀ i < 8, a ≠ Base.core d c + Reg.arrMode.off + i * Reg.arrMode.step) → t.reg a = s.reg a) _ _ _
    ⟨rfl, rfl, fun _ _ => rfl⟩ fun t i hi ⟨cores, contents, regs⟩ => ?_
  split
  · refine ⟨(State.put_cores ..).trans cores, (State.put_contents ..).trans contents, fun a ha => ?_⟩
    rw [State.reg_put_other t _ _ _ _ (ha i (List.mem_range.1 hi))]
    exact regs a ha
  · exact ⟨cores, contents, regs⟩

theorem State.workStep_modesShow (s : State) (d : Nat) {c : Nat} (hc : c < 48) (now : Nat) :
    s.WorkStep (s.modesShow d c now) := by
  obtain ⟨-, contents, regs⟩ := s.modesShow_keeps d c now
  refine ⟨State.offWork_of_contents contents, fun a ha => regs a fun i hi same => ha ?_⟩
  rw [same, Nat.add_assoc]
  exact blockOf_core d hc (by simp only [Reg.arrMode]; omega)

theorem State.workStep_lateCounted (s : State) (d : Nat) {c : Nat} (hc : c < 48) (b : BlockRun) (w0 : Word)
    (ready : Nat) :
    s.WorkStep (s.lateCounted d c b w0 ready) := by
  unfold State.lateCounted
  split
  · exact State.workStep_put s d hc Reg.lateIssue _ 0 (by decide)
  · exact .refl s

theorem State.workStep_seqRuns (s : State) (d : Nat) {c : Nat} (hc : c < 48) (b : BlockRun) :
    s.WorkStep (s.seqRuns d c b) := by
  unfold State.seqRuns
  split
  · exact State.workStep_put s d hc _ _ _ (by decide)
  · exact .refl s

/-- Issuing changes the core alone. -/
theorem State.workStep_issue (s : State) (d : Nat) {c : Nat} (hc : c < 48) (b : BlockRun) (w0 : Word) (ready nw : Nat) :
    s.WorkStep (s.issue d c b w0 ready nw) := by
  rw [State.issue_eq]
  exact (State.workStep_lateCounted s d hc ..).trans ((State.workStep_setBlock _ d hc _).trans
    ((State.workStep_modesShow _ d hc _).trans (State.workStep_seqRuns _ d hc b)))

/-- Of a core's own registers, issuing changes the sequencer's and the arrays' alone. -/
theorem State.issue_get (s : State) (d c : Nat) (b : BlockRun) (w0 : Word) (ready nw : Nat) {f : Fld} {i : Nat}
    (lo : 0x10 ≤ f.off + i * f.step) (hi : f.off + i * f.step < 0x380) :
    (s.issue d c b w0 ready nw).get (Base.core d c) f i = s.get (Base.core d c) f i := by
  have late : (s.lateCounted d c b w0 ready).get (Base.core d c) f i = s.get (Base.core d c) f i := by
    unfold State.lateCounted
    split
    · refine State.get_count_addr _ _ _ _ _ _ _ _ ?_
      simp only [Reg.lateIssue]; omega
    · rfl
  have block : ∀ (t : State) (x : BlockRun),
    (t.setBlock d c (some x)).get (Base.core d c) f i = t.get (Base.core d c) f i := by
    intro t x
    refine (State.get_put_addr _ _ _ _ _ _ _ _ ?_).trans rfl
    simp only [Reg.seqPc]; omega
  have runs : ∀ t : State, (t.seqRuns d c b).get (Base.core d c) f i = t.get (Base.core d c) f i := by
    intro t
    unfold State.seqRuns
    split
    · refine State.get_put_addr _ _ _ _ _ _ _ _ ?_
      simp only [Reg.seqState]; omega
    · rfl
  have modes : ∀ (t : State) (now : Nat), (t.modesShow d c now).get (Base.core d c) f i = t.get (Base.core d c) f i := by
    intro t now
    rw [State.get, (t.modesShow_keeps d c now).2.2 _, State.get]
    intro j hj
    simp only [Reg.arrMode]; omega
  rw [State.issue_eq, runs, modes, block, late]

/-- A command that issues leaves the block as `Issued` says. -/
theorem State.issue_block (s : State) (d c : Nat) (b : BlockRun) (w0 : Word) (ready nw : Nat) :
    ((s.issue d c b w0 ready nw).core d c).block = some (b.issued w0 ready nw) ∧
      (s.issue d c b w0 ready nw).get (Base.core d c) Reg.seqPc = (b.issued w0 ready nw).pc % 2 ^ Reg.seqPc.w := by
  have runs : ∀ t : State, (t.seqRuns d c b).cores = t.cores ∧
      (t.seqRuns d c b).get (Base.core d c) Reg.seqPc = t.get (Base.core d c) Reg.seqPc := by
    intro t
    unfold State.seqRuns
    split
    · exact ⟨State.put_cores .., State.get_put_field _ _ _ _ _ _ _ _ rfl (by decide) (by decide)⟩
    · exact ⟨rfl, rfl⟩
  have modes : ∀ (t : State) (now : Nat),
      (t.modesShow d c now).get (Base.core d c) Reg.seqPc = t.get (Base.core d c) Reg.seqPc := by
    intro t now
    rw [State.get, (t.modesShow_keeps d c now).2.2 _, State.get]
    intro j hj
    simp only [Reg.arrMode, Reg.seqPc]; omega
  rw [State.issue_eq]
  constructor
  · rw [State.core, (runs _).1, (State.modesShow_keeps ..).1]
    exact State.block_setBlock ..
  · rw [(runs _).2, modes]
    exact State.get_put_same _ _ _ _ _ (by decide)

theorem State.boot_of_offWork {s t : State} (h : t.offWork = s.offWork) : t.boot = s.boot :=
  (congrArg State.boot h : t.offWork.boot = s.offWork.boot)

theorem State.arm_of_offWork {s t : State} (h : t.offWork = s.offWork) : t.arm = s.arm :=
  (congrArg State.arm h : t.offWork.arm = s.offWork.arm)

theorem State.pending_of_offWork {s t : State} (h : t.offWork = s.offWork) : t.pending = s.pending :=
  (congrArg State.pending h : t.offWork.pending = s.offWork.pending)

/-- What `Issued` asks of a state that has the core, the sequencer's word and the waiting frames of the state at issue. -/
theorem issued_of_issue {s t : State} {d c : Nat} (hc : c < 48) {b b' : BlockRun} {w0 : Word} {ready nw : Nat}
    (same : b' = b ∨ b' = { b with unfixed := true }) (cores : t.cores = (s.issue d c b' w0 ready nw).cores)
    (word : t.get (Base.core d c) Reg.seqPc = (s.issue d c b' w0 ready nw).get (Base.core d c) Reg.seqPc)
    (pending : t.pending = (s.issue d c b' w0 ready nw).pending) : Issued s t d c nw ready b w0 := by
  obtain ⟨block, pc⟩ := s.issue_block d c b' w0 ready nw
  have block' : (t.core d c).block = some (b'.issued w0 ready nw) := by rw [State.core, cores]; exact block
  have pending' : t.pending = s.pending :=
    pending.trans (State.pending_of_offWork (State.workStep_issue s d hc ..).1)
  rcases same with rfl | rfl
  · exact ⟨_, block', rfl, rfl, rfl, word.trans pc, pending'⟩
  · exact ⟨_, block', rfl, rfl, rfl, word.trans pc, pending'⟩

/-! Clean words of the scratchpad or of DDR -/

theorem blockOf_ddr (ch : Nat) {off : Nat} (h : off < 0x1000) : blockOf (Base.ddr ch + off) = 0x10 := by
  simp only [blockOf, Base.ddr, csr]
  omega

/-- DDR traffic is counted in blocks 0x10 (R264). -/
theorem State.ddrTraffic_reg (s : State) (x : Nat) (write : Bool) (bytes : Nat) {a : Nat} (h : blockOf a ≠ 0x10) :
    (s.ddrTraffic x write bytes).reg a = s.reg a := by
  unfold State.ddrTraffic
  split
  · unfold State.countUnits
    dsimp only
    split
    · rfl
    · refine (State.reg_put_other _ _ _ _ _ fun same => h ?_).trans rfl
      rw [same, Nat.add_assoc]
      refine blockOf_ddr _ ?_
      split <;> decide
  · rfl

/-- Two states that agree on memory and on where its words lie. -/
structure State.SameWords (s t : State) : Prop where
  mem : t.mem = s.mem
  faults : t.faults = s.faults
  segs : t.segs = s.segs
  epochs : t.epochs = s.epochs

theorem State.sameWords_of_contents {s t : State} (h : t.contents = s.contents) : s.SameWords t :=
  ⟨State.mem_of_contents h, State.faults_of_contents h, State.segs_of_contents h,
    (congrArg State.epochs h : t.contents.epochs = s.contents.epochs)⟩

theorem State.sameWords_of_offWork {s t : State} (h : t.offWork = s.offWork) : s.SameWords t :=
  ⟨State.mem_of_offWork h, (congrArg State.faults h : t.offWork.faults = s.offWork.faults),
    (congrArg State.segs h : t.offWork.segs = s.offWork.segs),
    (congrArg State.epochs h : t.offWork.epochs = s.offWork.epochs)⟩

theorem State.SameWords.trans {s t u : State} (h : s.SameWords t) (k : t.SameWords u) : s.SameWords u :=
  ⟨k.mem.trans h.mem, k.faults.trans h.faults, k.segs.trans h.segs, k.epochs.trans h.epochs⟩

theorem State.SameWords.load {s t : State} (h : s.SameWords t) (a : Nat) : (t.load a).1 = (s.load a).1 := by
  rw [State.load_fst, State.load_fst, h.mem, State.key_congr h.faults h.segs]

/-- Clean words are loaded as they stand, and loading them only counts their traffic. -/
theorem State.loads_clean {s : State} {a n : Nat} (clean : ∀ i < n, (s.load (a + 8 * i)).1.ecc = .clean) :
    (s.loads a n).1 = (List.range n).map (fun i => (s.load (a + 8 * i)).1) ∧ (s.loads a n).2.contents = s.contents ∧
      ∀ r, blockOf r ≠ 0x10 → (s.loads a n).2.reg r = s.reg r := by
  induction n generalizing s a with
  | zero => exact ⟨rfl, rfl, fun _ _ => rfl⟩
  | succ n ih =>
    have here : (s.load a).1.ecc = .clean := clean 0 (Nat.zero_lt_succ n)
    have counted : (s.load a).2 = s.ddrTraffic a false 8 := State.load_snd_clean false here
    have contents := s.ddrTraffic_contents a false 8
    have step : ∀ i, ((s.ddrTraffic a false 8).load (a + 8 + 8 * i)).1 = (s.load (a + 8 * (i + 1))).1 := fun i => by
      rw [(State.sameWords_of_contents contents).load]
      congr 2
      omega
    obtain ⟨words, rest, regs⟩ := ih (s := s.ddrTraffic a false 8) (a := a + 8) fun i hi => by
      rw [step]
      exact clean (i + 1) (Nat.succ_lt_succ hi)
    have eq : s.loads a (n + 1) =
      ((s.load a).1 :: ((s.load a).2.loads (a + 8) n).1, ((s.load a).2.loads (a + 8) n).2) := rfl
    rw [eq, counted]
    refine ⟨?_, rest.trans contents, fun r hr => (regs r hr).trans (State.ddrTraffic_reg s a false 8 hr)⟩
    rw [words, List.range_succ_eq_map, List.map_cons, List.map_map]
    simp only [step]
    rfl

theorem State.SameWords.loads {s t : State} (h : s.SameWords t) {a n : Nat}
    (clean : ∀ i < n, (s.load (a + 8 * i)).1.ecc = .clean) : (t.loads a n).1 = (s.loads a n).1 := by
  rw [(State.loads_clean clean).1, (State.loads_clean (s := t) fun i hi => by rw [h.load]; exact clean i hi).1]
  simp only [h.load]

/-- Storing a fresh word changes memory at its place, and counts its traffic. -/
theorem State.store_fresh (s : State) (a : Nat) (w : Word) : (s.store a (fresh w)).mem = s.memWith a w ∧
    (s.store a (fresh w)).offMem = s.offMem ∧ ∀ r, blockOf r ≠ 0x10 → (s.store a (fresh w)).reg r = s.reg r := by
  refine ⟨?_, s.store_offMem a (fresh w), fun r hr => ?_⟩
  · rw [fresh, State.store_wellFormed, State.ddrTraffic_mem]
  · rw [fresh, State.store_wellFormed, State.ddrTraffic_reg _ _ _ _ hr]
    rfl

theorem State.SameWords.storeTag {s t : State} (h : s.SameWords t) (a : Nat) : t.storeTag a = s.storeTag a := by
  unfold State.storeTag
  split
  next place =>
    unfold State.epochOf
    rw [place]
    simp only [State.ddrPd_congr h.faults, h.epochs]
  next => rfl

theorem State.SameWords.store {s t : State} (h : s.SameWords t) (a : Nat) (w : Word) :
    (s.store a (fresh w)).SameWords (t.store a (fresh w)) := by
  have off := (s.store_fresh a w).2.1
  have off' := (t.store_fresh a w).2.1
  refine ⟨?_, ?_, ?_, ?_⟩
  · rw [(s.store_fresh a w).1, (t.store_fresh a w).1]
    simp only [State.memWith, State.key_congr h.faults h.segs, h.storeTag, h.mem]
  · exact (congrArg State.faults off' :).trans (h.faults.trans (congrArg State.faults off :).symm)
  · exact (congrArg State.segs off' :).trans (h.segs.trans (congrArg State.segs off :).symm)
  · exact (congrArg State.epochs off' :).trans (h.epochs.trans (congrArg State.epochs off :).symm)

theorem State.SameWords.stores {s t : State} (h : s.SameWords t) (a : Nat) (ws : List Word) :
    (s.stores a (ws.map fresh)).SameWords (t.stores a (ws.map fresh)) := by
  induction ws generalizing s t a with
  | nil => exact h
  | cons w ws ih => exact ih (h.store a w) (a + 8)

theorem State.stores_reg (s : State) (a : Nat) (ws : List Word) {r : Nat} (hr : blockOf r ≠ 0x10) :
    (s.stores a (ws.map fresh)).reg r = s.reg r := by
  induction ws generalizing s a with
  | nil => rfl
  | cons w ws ih => exact (ih _ _).trans ((s.store_fresh a w).2.2 r hr)

/-! An event counter (R139 to R141) -/

theorem State.evcAdd_contents (s : State) (d c ec n : Nat) : (s.evcAdd d c ec n).contents = s.contents := by
  unfold State.evcAdd
  dsimp only
  split
  · exact State.put_contents ..
  · exact (State.count_contents ..).trans (State.put_contents ..)

/-- An event counter stops at 0xFF_FFFF. -/
theorem State.evcAdd_evc (s : State) (d c ec n : Nat) : (s.evcAdd d c ec n).get (Base.core d c) Reg.evc ec =
    min (s.get (Base.core d c) Reg.evc ec + n) (2 ^ 24 - 1) := by
  unfold State.evcAdd
  dsimp only
  split
  next fits =>
    rw [State.get_put_same _ _ _ _ _ (by decide)]
    simp only [Reg.evc] at fits ⊢
    omega
  next full =>
    rw [State.get_count_addr, State.get_put_same _ _ _ _ _ (by decide)]
    · simp only [Reg.evc] at full ⊢
      omega
    · simp only [Reg.evc, Reg.evcSat]; omega

theorem State.evcAdd_seqPc (s : State) (d c ec n : Nat) :
    (s.evcAdd d c ec n).get (Base.core d c) Reg.seqPc = s.get (Base.core d c) Reg.seqPc := by
  have evc : ∀ v, (s.put (Base.core d c) Reg.evc v ec).get (Base.core d c) Reg.seqPc = s.get (Base.core d c) Reg.seqPc :=
    fun v => State.get_put_addr _ _ _ _ _ _ _ _ (by simp only [Reg.seqPc, Reg.evc]; omega)
  unfold State.evcAdd
  dsimp only
  split
  · exact evc _
  · rw [State.get_count_addr _ _ _ _ _ _ _ _ (by simp only [Reg.seqPc, Reg.evcSat]; omega), evc]

/-! COLL (R61, R63, R139), and O27 -/

theorem State.nextDim_congr {s t : State} (boot : t.boot = s.boot) (num : t.myNum = s.myNum) (group : List (Nat × Nat))
    (d : Nat) : t.nextDim group d = s.nextDim group d := by
  have fabric : t.fabric = s.fabric := by rw [State.fabric, boot]; rfl
  simp only [State.nextDim, State.run, State.coords, fabric, num]

theorem State.collCauses_none {s : State} {d c : Nat} {ws : List Word}
    (src : s.offOk d c (s.effOff d c (bits (ws.getD 1 0) 63 61) (bits (ws.getD 1 0) 60 43) 32) 32 32 = true)
    (dst : s.offOk d c (s.effOff d c (bits (ws.getD 1 0) 42 40) (bits (ws.getD 1 0) 39 22) 32) 32 32 = true)
    (barrier : bit (ws.getD 0 0) 27 = true → bits (ws.getD 0 0) 15 0 = 7) : s.collCauses d c ws = [] := by
  unfold State.collCauses
  dsimp only
  rw [src, dst, if_neg]
  · rfl
  · rw [Bool.and_eq_true]
    rintro ⟨isBarrier, other⟩
    rw [barrier isBarrier] at other
    exact absurd other (by decide)

/-- The operations of a collective are checked one by one (Table 02.6). -/
theorem collOpsOk_iff (w : Word) : collOpsOk ((List.range 4).map fun i => bits w 15 0 / 16 ^ i % 16) = true ↔
    ∀ i < 4, bits w 15 0 / 16 ^ i % 16 ≤ 9 := by
  simp [collOpsOk, List.all_eq_true]

/-- `x` is `s` but for counts of DDR traffic. -/
structure State.ReadFrom (s x : State) : Prop where
  contents : x.contents = s.contents
  regs : ∀ r, blockOf r ≠ 0x10 → x.reg r = s.reg r

section
variable {s x : State} {d c cycle : Nat} {b : BlockRun} {w : Word} (hc : c < 48)
    (read : (s.issue d c b w cycle 1).ReadFrom x)
include hc read

theorem State.ReadFrom.offWork : x.offWork = s.offWork :=
  (State.offWork_of_contents read.contents).trans (State.workStep_issue s d hc ..).1

theorem State.ReadFrom.device {f : Fld} (hf : f.off < 0x10000) : x.get Base.device f = s.get Base.device f := by
  have block : blockOf (Base.device + f.off + 0 * f.step) = 0x00 := by simp only [blockOf, Base.device, csr]; omega
  rw [State.get, read.regs _ (by rw [block]; decide)]
  exact (State.workStep_issue s d hc ..).get (by rw [block]; decide)

theorem State.ReadFrom.core {f : Fld} {i : Nat} (hi : f.off + i * f.step < 0x400) :
    x.get (Base.core d c) f i = (s.issue d c b w cycle 1).get (Base.core d c) f i := by
  have block : blockOf (Base.core d c + f.off + i * f.step) = 0x02 := by rw [Nat.add_assoc]; exact blockOf_core d hc hi
  rw [State.get, read.regs _ (by rw [block]; decide), State.get]

/-- The core's parameters, groups and event counters read as before the issue. -/
theorem State.ReadFrom.coreReg {f : Fld} {i : Nat} (lo : 0x10 ≤ f.off + i * f.step) (hi : f.off + i * f.step < 0x380) :
    x.get (Base.core d c) f i = s.get (Base.core d c) f i := by
  rw [read.core hc (by omega), State.issue_get _ _ _ _ _ _ _ lo hi]

end

/-- A parameter of a core is one of eight registers. -/
theorem State.effOff_congr {s x : State} {d c : Nat}
    (same : ∀ n < 8, x.get (Base.core d c) Reg.param n = s.get (Base.core d c) Reg.param n)
    {sel : Nat} (hsel : sel < 8) (field unit : Nat) : x.effOff d c sel field unit = s.effOff d c sel field unit := by
  simp only [State.effOff, State.param, same sel hsel]

theorem bits_lt_pow (w : Word) (hi lo : Nat) : bits w hi lo < 2 ^ (hi + 1 - lo) := by
  exact Nat.mod_lt _ (Nat.two_pow_pos _)

/-- What a lone member's collective leaves: its words at their place, its event counted, its tag completed with OK. -/
def State.collDoneAt (x : State) (d c tag dst ec : Nat) (vals : List Word) : State :=
  (((x.withColls []).collEnd tag Status.ok).stores (scratchAddr d c dst) (vals.map fresh)).evcAdd d c ec 1

theorem State.collDoneAt_offMem (x : State) (d c tag dst ec : Nat) (vals : List Word) :
    (x.collDoneAt d c tag dst ec vals).offMem = ((x.withColls []).collEnd tag Status.ok).offMem := by
  rw [State.collDoneAt, State.offMem_of_contents (State.evcAdd_contents ..), State.stores_offMem]

theorem State.collDoneAt_mem (x : State) (d c tag dst ec : Nat) (vals : List Word) :
    (x.collDoneAt d c tag dst ec vals).mem =
      (((x.withColls []).collEnd tag Status.ok).stores (scratchAddr d c dst) (vals.map fresh)).mem := by
  rw [State.collDoneAt, State.mem_of_contents (State.evcAdd_contents ..)]

theorem State.takeCores_alone {x : State} {d c : Nat} (mtype tag ctx : Nat) (subject : Word) (ops : List Nat)
    (group : List (Nat × Nat)) (vals : List Word) {dst ec kind stroke : Nat} (up : x.coreUp d c = true) :
    (x.withColls [Coll.alone mtype tag ctx subject ops group vals 0 (d, c, dst, ec) kind stroke]).takeCores =
      x.collDoneAt d c tag dst ec vals := by
  rw [State.takeCores_single (c := Coll.alone mtype tag ctx subject ops group vals 0 (d, c, dst, ec) kind stroke)
    (ws := vals) (State.withColls_colls ..) rfl rfl rfl up, State.withColls_withColls, State.collDoneAt]
  rfl

/-- A lone member's collective has its result at once (R61). -/
theorem State.collIssue_alone {s : State} {d c cycle : Nat} {b : BlockRun} {ws : List Word} (hc : c < 48)
    (up : s.coreUp d c = true) (ops : ∀ i < 4, bits (ws.getD 0 0) 15 0 / 16 ^ i % 16 ≤ 9)
    (running : s.devState ≠ Dev.halted)
    (idle : s.arm.colls = []) (alone : s.nextDim (s.collGroup d c (bits (ws.getD 0 0) 29 28)) 0 = 4)
    (clean : ∀ i < 4, (s.load (scratchAddr d c (s.effOff d c (bits (ws.getD 1 0) 63 61)
      (bits (ws.getD 1 0) 60 43) 32) + 8 * i)).1.ecc
      = .clean) :
    ∃ x, (s.issue d c { b with unfixed := true } (ws.getD 0 0) cycle 1).ReadFrom x ∧ s.collIssue d c cycle b ws =
      x.collDoneAt d c (bits (ws.getD 0 0) 39 34) (s.effOff d c (bits (ws.getD 1 0) 42 40) (bits (ws.getD 1 0) 39 22) 32)
        (bits (ws.getD 0 0) 33 30)
        ((s.loads (scratchAddr d c (s.effOff d c (bits (ws.getD 1 0) 63 61)
          (bits (ws.getD 1 0) 60 43) 32)) 4).1.map (·.d)) := by
  have waits : ¬ (((s.findColl 0x09 (bits (ws.getD 0 0) 39 34)).map (·.posted)) = some true ∨
      s.devState = Dev.halted) := by
    rw [State.findColl_none_of_colls idle]
    simp [running]
  have issued : s.SameWords (s.issue d c { b with unfixed := true } (ws.getD 0 0) cycle 1) :=
    State.sameWords_of_offWork (State.workStep_issue s d hc ..).1
  have params : ∀ n < 8, (s.issue d c { b with unfixed := true } (ws.getD 0 0) cycle 1).get (Base.core d c) Reg.param n =
      s.get (Base.core d c) Reg.param n := fun n hn =>
    State.issue_get _ _ _ _ _ _ _ (by simp only [Reg.param]; omega) (by simp only [Reg.param]; omega)
  have words := issued.loads clean
  obtain ⟨-, contents, regs⟩ := State.loads_clean fun i hi => (congrArg Loaded.ecc (issued.load _)).trans (clean i hi)
  unfold State.collIssue
  dsimp only
  rw [if_neg waits, if_neg (by rw [(collOpsOk_iff _).2 ops]; decide), State.effOff_congr params (bits_lt_pow _ _ _)]
  generalize State.loads _ _ 4 = r at words contents regs ⊢
  have read : (s.issue d c { b with unfixed := true } (ws.getD 0 0) cycle 1).ReadFrom r.2 := ⟨contents, regs⟩
  refine ⟨r.2, read, ?_⟩
  have same := read.offWork hc
  have group : r.2.collGroup d c (bits (ws.getD 0 0) 29 28) = s.collGroup d c (bits (ws.getD 0 0) 29 28) := by
    have : bits (ws.getD 0 0) 29 28 < 4 := bits_lt_pow _ _ _
    rw [State.collGroup, read.coreReg hc (by simp only [Reg.collGroup]; omega) (by simp only [Reg.collGroup]; omega)]
    rfl
  have dst : ∀ sel < 8, ∀ field unit, r.2.effOff d c sel field unit = s.effOff d c sel field unit := fun sel hsel =>
    State.effOff_congr (fun n hn => read.coreReg hc (by simp only [Reg.param]; omega)
      (by simp only [Reg.param]; omega)) hsel
  have boot : r.2.boot = s.boot := State.boot_of_offWork same
  have arm : r.2.arm = s.arm := State.arm_of_offWork same
  have num : r.2.myNum = s.myNum := read.device hc (by decide)
  have up' : r.2.coreUp d c = true := by
    rw [State.coreUp, State.isFenced_congr (State.sameWords_of_offWork same).faults]
    exact up
  rw [group, dst _ (bits_lt_pow _ _ _), words]
  rw [State.collPost_alone _ _ _ _ _ _ _ _ _ (by rw [State.devState, read.device hc (by decide)]; exact running)
    (by rw [arm]; exact idle) (by rw [State.nextDim_congr boot num]; exact alone)]
  exact State.takeCores_alone _ _ _ _ _ _ _ up'

theorem State.collDoneAt_regs (x : State) (d c tag dst : Nat) (vals : List Word) {c' : Nat} (hc : c' < 48) {f : Fld}
    {i : Nat}
    (hi : f.off + i * f.step < 0x400) :
    (((x.withColls []).collEnd tag Status.ok).stores (scratchAddr d c dst) (vals.map fresh)).get (Base.core d c') f i =
      x.get (Base.core d c') f i := by
  have block : blockOf (Base.core d c' + f.off + i * f.step) = 0x02 := by rw [Nat.add_assoc]; exact blockOf_core d hc hi
  rw [State.get, State.stores_reg _ _ _ (by rw [block]; decide)]
  rfl

theorem State.cores_of_offMem {s t : State} (h : t.offMem = s.offMem) : t.cores = s.cores :=
  (congrArg State.cores h : t.offMem.cores = s.offMem.cores)

theorem State.units_of_offMem {s t : State} (h : t.offMem = s.offMem) : t.units = s.units :=
  (congrArg State.units h : t.offMem.units = s.offMem.units)

theorem State.pending_of_offMem {s t : State} (h : t.offMem = s.offMem) : t.pending = s.pending :=
  (congrArg State.pending h : t.offMem.pending = s.offMem.pending)

theorem State.pending_of_contents {s t : State} (h : t.contents = s.contents) : t.pending = s.pending :=
  (congrArg State.pending h : t.contents.pending = s.contents.pending)

theorem State.collEnd_collDone (s : State) (tag status : Nat) :
    cget (fun _ => 0) (s.collEnd tag status).arm.collDone tag = status :=
  cget_cset_same (fun _ => 0) s.arm.collDone tag status

/-- Noting a completion changes the armature's record alone. -/
theorem State.collEnd_rest (s : State) (tag status : Nat) : (s.collEnd tag status).cores = s.cores ∧
    (s.collEnd tag status).units = s.units ∧ (s.collEnd tag status).pending = s.pending ∧
    (s.collEnd tag status).mem = s.mem ∧ (s.collEnd tag status).arm.colls = s.arm.colls ∧
    (s.collEnd tag status).regs = s.regs := ⟨rfl, rfl, rfl, rfl, rfl, rfl⟩

theorem State.withColls_rest (s : State) (l : List Coll) : (s.withColls l).cores = s.cores ∧
    (s.withColls l).units = s.units ∧ (s.withColls l).pending = s.pending := ⟨rfl, rfl, rfl⟩

section
variable {s : State} {die : DieNo} {core : CoreNo} {b : BlockRun} {ws : List Word} {cycle : Half} {src dst : Nat}
  (command : AtCommand s die.val core.val 0x0C 1 b ws)
  (srcAt : s.effOff die.val core.val (bits (ws.getD 1 0) 63 61) (bits (ws.getD 1 0) 60 43) 32 = src)
  (dstAt : s.effOff die.val core.val (bits (ws.getD 1 0) 42 40) (bits (ws.getD 1 0) 39 22) 32 = dst)
  (srcOk : s.offOk die.val core.val src 32 32 = true) (dstOk : s.offOk die.val core.val dst 32 32 = true)
  (barrier : bit (ws.getD 0 0) 27 = true → bits (ws.getD 0 0) 15 0 = 7)
include command srcAt dstAt srcOk dstOk barrier

/-- A well-formed COLL goes to its issue. -/
theorem exec_coll : exec (.coll die core cycle) s = .next (s.collIssue die.val core.val cycle.toNat b ws) := by
  have run : exec (.coll die core cycle) s = .next (s.seqColl die.val core.val cycle.toNat) := rfl
  rw [run, State.seqColl, State.seqCmd_run command rfl
    (State.collCauses_none (by rw [srcAt]; exact srcOk) (by rw [dstAt]; exact dstOk) barrier)]

theorem coll_alone (ops : ∀ i, i < 4 → bits (ws.getD 0 0) 15 0 / 16 ^ i % 16 ≤ 9) (running : s.devState ≠ Dev.halted)
    (idle : s.arm.colls = [])
    (alone : s.nextDim (s.collGroup die.val core.val (bits (ws.getD 0 0) 29 28)) 0 = 4)
    (clean : ∀ i, i < 4 → (s.load (scratchAddr die.val core.val (src + 8 * i))).1.ecc = .clean) :
    ∃ t, exec (.coll die core cycle) s = .next t ∧ Issued s t die.val core.val 1 cycle.toNat b (ws.getD 0 0) ∧
      t.mem = (s.stores (scratchAddr die.val core.val dst)
        ((s.loads (scratchAddr die.val core.val src) 4).1.map fun w => fresh w.d)).mem ∧
      t.get (Base.core die.val core.val) Reg.evc (bits (ws.getD 0 0) 33 30) =
        min (s.get (Base.core die.val core.val) Reg.evc (bits (ws.getD 0 0) 33 30) + 1) (2 ^ 24 - 1) ∧
      cget (fun _ => 0) t.arm.collDone (bits (ws.getD 0 0) 39 34) = Status.ok ∧
      t.arm.colls = [] ∧ t.units = s.units := by
  have hc := core.isLt
  have clean' : ∀ i < 4, (s.load (scratchAddr die.val core.val src + 8 * i)).1.ecc = .clean := fun i hi => by
    rw [scratchAddr, Nat.add_assoc]
    exact clean i hi
  have : bits (ws.getD 0 0) 33 30 < 16 := bits_lt_pow _ _ _
  have run := exec_coll (cycle := cycle) command srcAt dstAt srcOk dstOk barrier
  obtain ⟨-, -, up, -⟩ := command
  obtain ⟨x, read, eq⟩ := State.collIssue_alone (cycle := cycle.toNat) (b := b) hc up ops running idle alone
    (by rw [srcAt]; exact clean')
  rw [eq, srcAt, dstAt] at run
  have done := x.collDoneAt_offMem die.val core.val (bits (ws.getD 0 0) 39 34) dst (bits (ws.getD 0 0) 33 30)
    ((s.loads (scratchAddr die.val core.val src) 4).1.map (·.d))
  have kept := read.offWork hc
  obtain ⟨cores, units, pending, -⟩ := (x.withColls []).collEnd_rest (bits (ws.getD 0 0) 39 34) Status.ok
  obtain ⟨cores', units', pending'⟩ := x.withColls_rest []
  refine ⟨_, run, issued_of_issue hc (.inr rfl) ?_ ?_ ?_, ?_, ?_, ?_, ?_, ?_⟩
  · exact (State.cores_of_offMem done).trans (cores.trans <| cores'.trans (State.cores_of_contents read.contents))
  · rw [State.collDoneAt, State.evcAdd_seqPc, State.collDoneAt_regs _ _ _ _ _ _ hc (by decide),
      read.core hc (by decide)]
  · exact (State.pending_of_offMem done).trans (pending.trans <| pending'.trans (State.pending_of_contents read.contents))
  · have words : s.SameWords ((x.withColls []).collEnd (bits (ws.getD 0 0) 39 34) Status.ok) :=
      (State.sameWords_of_offWork kept).trans ⟨rfl, rfl, rfl, rfl⟩
    rw [State.collDoneAt_mem, (words.stores _ _).mem, List.map_map]
    rfl
  · rw [State.collDoneAt, State.evcAdd_evc,
      State.collDoneAt_regs _ _ _ _ _ _ hc (by simp only [Reg.evc]; omega),
      read.coreReg hc (by simp only [Reg.evc]; omega) (by simp only [Reg.evc]; omega)]
  · rw [State.arm_of_offMem done, State.collEnd_collDone]
  · rw [State.arm_of_offMem done]
    rfl
  · exact (State.units_of_offMem done).trans (units.trans <| units'.trans (State.units_of_offWork kept))

theorem coll_waits (busy : (∃ k, s.findColl 0x09 (bits (ws.getD 0 0) 39 34) = some k ∧ k.posted = true) ∨
      s.devState = Dev.halted)
    (fits : b.overran = false) :
    exec (.coll die core cycle) s = .next (s.put (Base.core die.val core.val) Reg.seqState 2) := by
  have waits : ((s.findColl 0x09 (bits (ws.getD 0 0) 39 34)).map (·.posted)) = some true ∨ s.devState = Dev.halted :=
    busy.imp_left fun ⟨k, found, posted⟩ => by rw [found, Option.map_some, posted]
  rw [exec_coll command srcAt dstAt srcOk dstOk barrier, State.collIssue]
  dsimp only
  rw [if_pos waits, State.seqHold, fits]
  rfl

theorem coll_reserved (running : s.devState ≠ Dev.halted) (free : s.findColl 0x09 (bits (ws.getD 0 0) 39 34) = none)
    (reserved : ∃ i, i < 4 ∧ 9 < bits (ws.getD 0 0) 15 0 / 16 ^ i % 16) :
    ∃ t, exec (.coll die core cycle) s = .next t ∧ Issued s t die.val core.val 1 cycle.toNat b (ws.getD 0 0) ∧
      cget (fun _ => 0) t.arm.collDone (bits (ws.getD 0 0) 39 34) = Status.denied ∧
      t.arm.colls = s.arm.colls ∧ t.mem = s.mem ∧ t.units = s.units := by
  have run := exec_coll (cycle := cycle) command srcAt dstAt srcOk dstOk barrier
  have waits : ¬ (((s.findColl 0x09 (bits (ws.getD 0 0) 39 34)).map (·.posted)) = some true ∨
      s.devState = Dev.halted) := by
    rw [free]
    simp [running]
  have bad : ¬ collOpsOk ((List.range 4).map fun i => bits (ws.getD 0 0) 15 0 / 16 ^ i % 16) = true := fun ok => by
    obtain ⟨i, hi, beyond⟩ := reserved
    exact absurd ((collOpsOk_iff _).1 ok i hi) (Nat.not_le.2 beyond)
  rw [State.collIssue] at run
  dsimp only at run
  rw [if_neg waits, if_pos (by simpa using bad)] at run
  have kept := (State.workStep_issue s die.val core.isLt b (ws.getD 0 0) cycle.toNat 1).1
  obtain ⟨cores, units, pending, mem, colls, regs⟩ :=
    (s.issue die.val core.val b (ws.getD 0 0) cycle.toNat 1).collEnd_rest
    (bits (ws.getD 0 0) 39 34) Status.denied
  exact ⟨_, run, issued_of_issue core.isLt (.inl rfl) cores (State.get_of_regs regs ..) pending,
    State.collEnd_collDone .., colls.trans (congrArg Arm.colls (State.arm_of_offWork kept)),
    mem.trans (State.mem_of_offWork kept), units.trans (State.units_of_offWork kept)⟩

end

/-- Settles O27: a well-formed COLL runs (`exec_coll`); alone it has its own words as its result
(`State.collIssue_alone`), and it waits or ends DENIED by the first two cases of its issue. -/
theorem tinyCollectiveCommand : Obligations.TinyCollectiveCommand := by
  unfold Obligations.TinyCollectiveCommand
  intro s die core b ws cycle src dst command srcAt dstAt srcOk dstOk barrier
  exact ⟨coll_alone command srcAt dstAt srcOk dstOk barrier, coll_waits command srcAt dstAt srcOk dstOk barrier,
    coll_reserved command srcAt dstAt srcOk dstOk barrier⟩

end Sys2Proof.Machine
end

section
/-! PROOFS. The stroke edge of a device that settles and follows a master (R48, R52, R55, R67, R79), and O8. -/

namespace Sys2Proof.Machine

/-! Steps that change the stroke timer, the armature's record, the free values taken and registers alone -/

/-- The state's contents without its stroke timer, the armature's record, and which free value is next. -/
def State.offClock (s : State) : State :=
  { s.contents with strokes := State.reset.strokes, arm := State.reset.arm, free := 0 }

theorem State.offClock_of_contents {s t : State} (h : t.contents = s.contents) : t.offClock = s.offClock :=
  congrArg (fun x : State => { x with strokes := State.reset.strokes, arm := State.reset.arm, free := 0 }) h

theorem State.mem_of_offClock {s t : State} (h : t.offClock = s.offClock) : t.mem = s.mem :=
  (congrArg State.mem h : t.offClock.mem = s.offClock.mem)

theorem State.cores_of_offClock {s t : State} (h : t.offClock = s.offClock) : t.cores = s.cores :=
  (congrArg State.cores h : t.offClock.cores = s.offClock.cores)

theorem State.units_of_offClock {s t : State} (h : t.offClock = s.offClock) : t.units = s.units :=
  (congrArg State.units h : t.offClock.units = s.offClock.units)

theorem State.faults_of_offClock {s t : State} (h : t.offClock = s.offClock) : t.faults = s.faults :=
  (congrArg State.faults h : t.offClock.faults = s.offClock.faults)

theorem State.eff_of_offClock {s t : State} (h : t.offClock = s.offClock) : t.eff = s.eff :=
  (congrArg State.eff h : t.offClock.eff = s.offClock.eff)

theorem State.put_offClock (s : State) (b : Nat) (f : Fld) (v i : Nat) : (s.put b f v i).offClock = s.offClock :=
  State.offClock_of_contents (s.put_contents b f v i)

theorem State.withStrokes_regs (s : State) (k : Strokes) : (s.withStrokes k).regs = s.regs := rfl

theorem State.withStrokes_offClock (s : State) (k : Strokes) : (s.withStrokes k).offClock = s.offClock := rfl

/-- Folding steps over a list whose elements each change only some fields. -/
theorem OnlyFields.foldl_mem {α : Type} {l : List FieldOf} (f : State → α → State) (xs : List α) (s : State)
    (h : ∀ t, ∀ x ∈ xs, OnlyFields t (f t x) l) : OnlyFields s (xs.foldl f s) l := by
  induction xs generalizing s with
  | nil => exact OnlyFields.refl s l
  | cons x xs ih =>
    exact (h s x List.mem_cons_self).trans (ih _ fun t y hy => h t y (List.mem_cons_of_mem x hy))

/-! The array cycles of the stroke that ended (R45, R113) -/

/-- The modes of the arrays of the cores that hold anything. -/
def modeFields (cores : Cells Core) : List FieldOf :=
  cores.flatMap fun k => (List.range 8).map fun a => (Base.core (k.1 / 48) (k.1 % 48), Reg.arrMode, a)

theorem OnlyFields.modesShow (s : State) (d c now : Nat) {l : List FieldOf}
    (h : ∀ a < 8, (Base.core d c, Reg.arrMode, a) ∈ l) : OnlyFields s (s.modesShow d c now) l :=
  OnlyFields.foldl_mem _ _ _ fun t a ha => by
    split
    · exact OnlyFields.put _ _ _ _ _ (by decide) (h a (List.mem_range.1 ha))
    · exact OnlyFields.refl _ _

/-- A draw that is made only where there is something to choose. -/
def State.drawIf (s : State) (p : Prop) [Decidable p] : Word × State := if p then (0, s) else s.draw

theorem State.drawIf_keeps (s : State) (p : Prop) [Decidable p] : (s.drawIf p).2.offClock = s.offClock ∧
    (s.drawIf p).2.regs = s.regs ∧ (s.drawIf p).2.strokes = s.strokes := by
  unfold State.drawIf
  split <;> exact ⟨rfl, rfl, rfl⟩

def State.cyclesAdded (s : State) (n : Nat) : State := s.withStrokes { s.strokes with cycles := s.strokes.cycles + n }

/-- The modes of all cores that hold anything. -/
def State.modesAll (s : State) : State :=
  s.cores.foldl (fun s k => s.modesShow (k.1 / 48) (k.1 % 48) s.strokes.cycles) s

theorem State.edgeCycles_eq (s : State) : ∃ n, s.edgeCycles =
    ((s.drawIf (((s.boot.image.map (·.sscDepth)).getD 0) = 0)).2.cyclesAdded n).modesAll := ⟨_, rfl⟩

theorem State.modesAll_keeps (s : State) :
    s.modesAll.contents = s.contents ∧ OnlyFields s s.modesAll (modeFields s.cores) := by
  refine foldl_keeps (fun t : State => t.contents = s.contents ∧ OnlyFields s t (modeFields s.cores)) _ _ _
    ⟨rfl, OnlyFields.refl _ _⟩ fun t k hk ⟨contents, fields⟩ => ?_
  refine ⟨(t.modesShow_keeps _ _ _).2.1.trans contents, fields.trans (OnlyFields.modesShow t _ _ _ fun a ha => ?_)⟩
  exact List.mem_flatMap.2 ⟨k, hk, List.mem_map.2 ⟨a, List.mem_range.2 ha, rfl⟩⟩

/-- The array cycles of the stroke that ended are added, and the modes of arrays that have none left are shown. -/
theorem State.edgeCycles_keeps (s : State) : s.edgeCycles.offClock = s.offClock ∧
    OnlyFields s s.edgeCycles (modeFields s.cores) ∧
    ∃ n, s.edgeCycles.strokes = { s.strokes with cycles := n } := by
  obtain ⟨off, regs, strokes⟩ := s.drawIf_keeps (((s.boot.image.map (·.sscDepth)).getD 0) = 0)
  obtain ⟨n, eq⟩ := s.edgeCycles_eq
  rw [eq]
  generalize (s.drawIf (((s.boot.image.map (·.sscDepth)).getD 0) = 0)).2 = x at off regs strokes
  obtain ⟨contents, fields⟩ := (x.cyclesAdded n).modesAll_keeps
  have cores : (x.cyclesAdded n).cores = s.cores := State.cores_of_offClock off
  refine ⟨(State.offClock_of_contents contents).trans off, ?_, x.strokes.cycles + n, ?_⟩
  · rw [cores] at fields
    exact (OnlyFields.of_regs (t := x.cyclesAdded n) _ regs).trans fields
  · rw [State.strokes_of_contents contents, State.cyclesAdded, State.strokes_withStrokes, strokes]

/-! Parts of the edge that find nothing to do -/

/-- With no seal unit no outcome is due. -/
theorem State.edgeOutcomes_none {s : State} (h : s.units = []) (end_ : Nat) : s.edgeOutcomes end_ = s :=
  foldl_same _ _ _ fun c _ => by rw [h]; rfl

/-- With no unit to be fenced the fences of the edge change nothing. -/
theorem State.edgeFences_none {s : State} (h : s.faults.toFence = []) : s.edgeFences = s := by
  have due : s.dueFences = [] := by rw [State.dueFences, h]; rfl
  have lost : s.swallowed = [] := by rw [State.swallowed, h]; rfl
  have applied : s.applyFences = s := by
    unfold State.applyFences
    rw [due, lost]
    dsimp only [List.foldl_nil]
    rw [← h]
  have noneNew : (s.faults.fenced.filter fun u => !s.faults.fenced.contains u) = [] := by
    rw [List.filter_eq_nil_iff]
    intro u hu
    simp [hu]
  unfold State.edgeFences
  dsimp only
  rw [applied, noneNew]
  rfl

/-- A device that settles neither halts nor returns from HALTED. -/
theorem State.edgeHalt_settling {s : State} (h : s.devState = Dev.selftest) : s.edgeHalt = s := by
  unfold State.edgeHalt
  rw [h, if_neg fun x => absurd x.2 (by decide), if_neg fun x => absurd x.2 (by decide)]

theorem State.edgeUnits_none {s : State} (h : s.units = []) (n : Nat) : s.edgeUnits n = s := by
  unfold State.edgeUnits
  dsimp only
  rw [h, List.map_nil, ← h]

/-- With no mask of CP_WAYS changed no line is invalidated. -/
theorem State.edgeWays_same {s : State}
    (h : ∀ d c, d < 8 → c < 16 → s.effGet (Base.cachePart d) Reg.cpWays c = s.get (Base.cachePart d) Reg.cpWays c) :
    s.edgeWays = s :=
  foldl_same _ _ _ fun i hi => by
    have := List.mem_range.1 hi
    exact if_pos (h (i / 16) (i % 16) (by omega) (Nat.mod_lt _ (by decide)))

theorem State.edgeFirmware_notServing {s : State} (h : s.serving = false) : s.edgeFirmware = s := by
  unfold State.edgeFirmware
  exact if_pos (by rw [h]; rfl)

/-! The kind of the stroke that begins (R48, R67, R68) -/

theorem idleStroke_zero (n : Nat) : idleStroke n 0 = false := by simp [idleStroke]

theorem State.kindOf_plain {s : State} (slips : s.strokes.slips = []) (level : s.get Base.device Reg.throttleLevel = 0)
    (n : Nat) : s.kindOf n = .working := by
  unfold State.kindOf
  rw [slips, level, idleStroke_zero]
  rfl

/-- A working stroke moves SCHED_POS by one and shows LAG. -/
theorem State.edgeKind_working {s : State} {n : Nat} (h : s.kindOf n = .working) : ∃ (k : Strokes) (lag : Nat),
    s.edgeKind n = ((s.put Base.device Reg.schedPos (s.sched + 1)).withStrokes k).put Base.device Reg.lag lag ∧
      k.kind = .working ∧ k.marked = s.strokes.marked ∧ k.silent = s.strokes.silent := by
  unfold State.edgeKind
  rw [h]
  dsimp only
  rw [State.put_strokes]
  exact ⟨_, _, rfl, rfl, rfl, rfl⟩

/-! The marks and the dies' edges (R52, R55) -/

/-- The stroke timer of a device that is not the master, at an edge: a mark came in the stroke that ends, or none did. -/
def Strokes.atEdge (k : Strokes) : Strokes :=
  if k.marked then { k with marked := false, silent := 0 } else { k with good := 0, bad := 0, silent := k.silent + 1 }

theorem Strokes.atEdge_keeps (k : Strokes) : k.atEdge.marked = false ∧ k.atEdge.kind = k.kind ∧
    k.atEdge.silent = if k.marked then 0 else k.silent + 1 := by
  unfold Strokes.atEdge
  cases h : k.marked
  · exact ⟨rfl, rfl, rfl⟩
  · exact ⟨rfl, rfl, rfl⟩

/-- One more stroke without a frame of the armature. -/
def State.silentMore (s : State) : State := { s with arm := { s.arm with silence := s.arm.silence + 1 } }

/-- What the dies measure of their edges, in its register. -/
def nearEdge (v : Word) : Nat := unsgn 16 ((v.toNat % 11 : Nat) - 5)

/-- One die's measured offset is drawn. -/
def State.drawOffset (s : State) (base : Nat) (f : Fld) : State := s.draw.2.put base f (nearEdge s.draw.1)

theorem State.edgeClock_follower {s : State} (h : s.get Base.device Reg.isMaster = 0) (n : Nat) : s.edgeClock n =
    ((List.range 8).foldl (fun s d => s.drawOffset (Base.armature d) Reg.edgeOffset)
      (s.withStrokes s.strokes.atEdge).silentMore).drawOffset (Base.armature 0x11) Reg.correction := by
  have follows : ¬ (s.get Base.device Reg.isMaster = 1 ∧ (s.serving = true ∨ s.strokes.heardOld = false)) :=
    fun x => absurd (h.symm.trans x.1) (by decide)
  have strokes : (if s.strokes.marked then s.withStrokes { s.strokes with marked := false, silent := 0 }
      else s.withStrokes { s.strokes with good := 0, bad := 0, silent := s.strokes.silent + 1 }) =
      s.withStrokes s.strokes.atEdge := by
    unfold Strokes.atEdge
    split <;> rfl
  unfold State.edgeClock
  dsimp only
  rw [if_neg follows, ← strokes]
  rfl

theorem State.drawOffset_keeps (s : State) (base : Nat) (f : Fld) (hf : f.lo + f.w ≤ 64) {l : List FieldOf}
    (mem : (base, f, 0) ∈ l) :
    (s.drawOffset base f).offClock = s.offClock ∧ (s.drawOffset base f).strokes = s.strokes ∧
      OnlyFields s (s.drawOffset base f) l := by
  unfold State.drawOffset
  refine ⟨State.put_offClock .., State.put_strokes .., ?_⟩
  exact (OnlyFields.of_regs (t := s.draw.2) l rfl).trans (OnlyFields.put _ _ _ _ _ hf mem)

/-- The fields that an edge measures. -/
def edgeFields : List FieldOf :=
  (Base.armature 0x11, Reg.correction, 0) :: (List.range 8).map fun d => (Base.armature d, Reg.edgeOffset, 0)

/-- At a follower's edge the timer notes the mark or its absence, and the dies show what they measure. -/
theorem State.edgeClock_keeps {s : State} (h : s.get Base.device Reg.isMaster = 0) (n : Nat) :
    (s.edgeClock n).offClock = s.offClock ∧ (s.edgeClock n).strokes = s.strokes.atEdge ∧
      OnlyFields s (s.edgeClock n) edgeFields := by
  have start : (s.withStrokes s.strokes.atEdge).silentMore.offClock = s.offClock ∧
      (s.withStrokes s.strokes.atEdge).silentMore.strokes = s.strokes.atEdge ∧
      OnlyFields s (s.withStrokes s.strokes.atEdge).silentMore edgeFields :=
    ⟨rfl, rfl, OnlyFields.of_regs _ rfl⟩
  have dies := foldl_keeps (fun t : State => t.offClock = s.offClock ∧ t.strokes = s.strokes.atEdge ∧
      OnlyFields s t edgeFields) (fun t d => t.drawOffset (Base.armature d) Reg.edgeOffset) (List.range 8) _ start
    fun t d hd ⟨off, strokes, fields⟩ => by
      obtain ⟨off', strokes', fields'⟩ := t.drawOffset_keeps (Base.armature d) Reg.edgeOffset (by decide)
        (l := edgeFields) (List.mem_cons_of_mem _ (List.mem_map.2 ⟨d, hd, rfl⟩))
      exact ⟨off'.trans off, strokes'.trans strokes, fields.trans fields'⟩
  rw [State.edgeClock_follower h]
  obtain ⟨off, strokes, fields⟩ := dies
  obtain ⟨off', strokes', fields'⟩ := State.drawOffset_keeps ((List.range 8).foldl
    (fun t d => t.drawOffset (Base.armature d) Reg.edgeOffset) (s.withStrokes s.strokes.atEdge).silentMore)
    (Base.armature 0x11) Reg.correction (by decide) (l := edgeFields) List.mem_cons_self
  exact ⟨off'.trans off, strokes'.trans strokes, fields.trans fields'⟩

/-! The edge as a whole, and O8 -/

/-- Registers of another block read as before. -/
theorem OnlyFields.get_block {s t : State} {l : List FieldOf} (h : OnlyFields s t l) {n : Nat}
    (inBlock : ∀ p ∈ l, blockOf (regAddr p.1 p.2.1 p.2.2) = n) {b : Nat} {f : Fld} {i : Nat}
    (apart : blockOf (regAddr b f i) ≠ n) : t.get b f i = s.get b f i :=
  h.get b f i fun p hp same => apart (same ▸ inBlock p hp)

theorem blockOf_modeFields (cores : Cells Core) : ∀ p ∈ modeFields cores, blockOf (regAddr p.1 p.2.1 p.2.2) = 0x02 := by
  intro p hp
  obtain ⟨k, -, hk⟩ := List.mem_flatMap.1 hp
  obtain ⟨a, ha, rfl⟩ := List.mem_map.1 hk
  have := List.mem_range.1 ha
  rw [regAddr, Nat.add_assoc]
  exact blockOf_core _ (Nat.mod_lt _ (by decide)) (by simp only [Reg.arrMode]; omega)

theorem blockOf_edgeFields : ∀ p ∈ edgeFields, blockOf (regAddr p.1 p.2.1 p.2.2) = 0x01 := by decide

theorem blockOf_device {f : Fld} (h : f.off + 0 * f.step < 0x10000) : blockOf (regAddr Base.device f 0) = 0x00 := by
  simp only [blockOf, regAddr, Base.device, csr]
  omega

/-- A device whose timer does not run, or that is in FAILED, takes no edge. -/
theorem State.strokeEdge_none {s : State} (h : s.strokes.running = false ∨ s.devState = Dev.failed) :
    s.strokeEdge = s := by
  unfold State.strokeEdge
  refine if_pos ?_
  rcases h with h | h
  · simp [h]
  · have other : (s.devState == Dev.selftest || s.serving) = false := by
      rw [State.serving, h]
      decide
    rw [other]
    simp

/-- The registers that an edge changes in a device that settles. -/
def settlingFields (cores : Cells Core) : List FieldOf :=
  [(Base.device, Reg.strokeCount, 0), (Base.device, Reg.schedPos, 0), (Base.device, Reg.lag, 0),
    (Base.armature 0x11, Reg.correction, 0)] ++
    ((List.range 8).map fun d => (Base.armature d, Reg.edgeOffset, 0)) ++ modeFields cores

theorem edgeFields_subset (cores : Cells Core) : edgeFields ⊆ settlingFields cores := by
  intro p hp
  rcases List.mem_cons.1 hp with rfl | hp
  · simp [settlingFields]
  · exact List.mem_append_left _ (List.mem_append_right _ hp)

theorem modeFields_subset (cores : Cells Core) : modeFields cores ⊆ settlingFields cores := List.subset_append_right ..

theorem blockOf_settling :
    ∀ p ∈ [(Base.device, Reg.strokeCount, 0), (Base.device, Reg.schedPos, 0), (Base.device, Reg.lag, 0),
    (Base.armature 0x11, Reg.correction, 0)] ++ ((List.range 8).map fun d => (Base.armature d, Reg.edgeOffset, 0)),
    blockOf (regAddr p.1 p.2.1 p.2.2) ≠ 0x0A := by decide

/-- The state of an edge once its stroke is counted and its cycles are added. -/
def State.counted (s : State) : State := (s.put Base.device Reg.strokeCount (s.stroke + 1)).edgeCycles

/-- A device that settles takes the edge, with the actions of Table 02.9 in their order. -/
theorem State.strokeEdge_acts {s : State} (running : s.strokes.running = true) (settles : s.devState = Dev.selftest) :
    s.strokeEdge =
      let n := s.stroke + 1
      let x := ((s.put Base.device Reg.strokeCount n).edgeCycles).edgeOutcomes (n - 1)
      let x := if x.pins.haltN then x else x.edgeFences
      if x.devState = Dev.failed then x
      else
        let x := x.edgeHalt
        let x := if n % x.frame = 0 then x.edgeFrame else x
        (((x.edgeKind n).edgeUnits n).edgeClock n).edgeWays.edgeFirmware := by
  unfold State.strokeEdge
  rw [if_neg (by simp [running, settles])]

/-- A device that settles as a follower, with no unit, fence, slip stroke, throttle or way change pending. -/
structure State.Settling (s : State) : Prop where
  running : s.strokes.running = true
  settles : s.devState = Dev.selftest
  follows : s.get Base.device Reg.isMaster = 0
  units : s.units = []
  fences : s.faults.toFence = []
  slips : s.strokes.slips = []
  level : s.get Base.device Reg.throttleLevel = 0
  inFrame : (s.stroke + 1) % s.frame ≠ 0
  ways : ∀ d c, d < 8 → c < 16 → s.effGet (Base.cachePart d) Reg.cpWays c = s.get (Base.cachePart d) Reg.cpWays c

theorem State.counted_keeps (s : State) : s.counted.offClock = s.offClock ∧
    OnlyFields s s.counted ((Base.device, Reg.strokeCount, 0) :: modeFields s.cores) ∧
    s.counted.stroke = (s.stroke + 1) % 2 ^ 64 ∧
    ∃ n, s.counted.strokes = { s.strokes with cycles := n } := by
  obtain ⟨off, fields, n, strokes⟩ := (s.put Base.device Reg.strokeCount (s.stroke + 1)).edgeCycles_keeps
  rw [State.put_cores] at fields
  refine ⟨off.trans (State.put_offClock ..), ?_, ?_, n, ?_⟩
  · exact (OnlyFields.put _ _ _ _ _ (by decide) List.mem_cons_self).trans (fields.mono (List.subset_cons_self ..))
  · rw [State.stroke, State.counted, fields.get_block (blockOf_modeFields _) (by rw [blockOf_device (by decide)]; decide),
      State.get_put_same _ _ _ _ _ (by decide)]
    rfl
  · exact strokes.trans (by rw [State.put_strokes])

theorem State.counted_device (s : State) {f : Fld} (hf : f.off + 0 * f.step < 0x10000)
    (apart : f.off + 0 * f.step ≠ Reg.strokeCount.off) : s.counted.get Base.device f = s.get Base.device f := by
  obtain ⟨-, fields, -⟩ := s.counted_keeps
  refine fields.get _ _ _ fun p hp same => ?_
  rcases List.mem_cons.1 hp with rfl | hp
  · simp only [regAddr] at same
    omega
  · exact absurd ((congrArg blockOf same).symm.trans (blockOf_device hf)) (by rw [blockOf_modeFields _ p hp]; decide)

theorem State.notServing_of_settling {s : State} (h : s.devState = Dev.selftest) : s.serving = false := by
  rw [State.serving, h]
  decide

/-- What the kind of a working stroke leaves alone. -/
theorem State.edgeKind_keeps {s : State} {n : Nat} (h : s.kindOf n = .working) : (s.edgeKind n).offClock = s.offClock ∧
    OnlyFields s (s.edgeKind n) [(Base.device, Reg.schedPos, 0), (Base.device, Reg.lag, 0)] ∧
    (s.edgeKind n).sched = (s.sched + 1) % 2 ^ 64 ∧ (s.edgeKind n).devState = s.devState ∧
    (s.edgeKind n).get Base.device Reg.isMaster = s.get Base.device Reg.isMaster ∧
    (s.edgeKind n).strokes.kind = .working ∧ (s.edgeKind n).strokes.marked = s.strokes.marked ∧
    (s.edgeKind n).strokes.silent = s.strokes.silent := by
  obtain ⟨k, lag, eq, kind, marked, silent⟩ := State.edgeKind_working h
  have first : ∀ f : Fld, (Base.device + f.off + 0 * f.step = Base.device + Reg.lag.off + 0 * Reg.lag.step ∧
      (Reg.lag.lo + Reg.lag.w ≤ f.lo ∨ f.lo + f.w ≤ Reg.lag.lo)) →
      Base.device + f.off + 0 * f.step ≠ Base.device + Reg.schedPos.off + 0 * Reg.schedPos.step →
      (s.edgeKind n).get Base.device f = s.get Base.device f := fun f same apart => by
    rw [eq, State.get_put_field _ _ _ _ _ _ _ _ same.1 (by decide) same.2, State.get_withStrokes,
      State.get_put_addr _ _ _ _ _ _ _ _ apart]
  refine ⟨?_, ?_, ?_, first _ (by decide) (by decide), first _ (by decide) (by decide), ?_, ?_, ?_⟩
  · rw [eq, State.put_offClock, State.withStrokes_offClock, State.put_offClock]
  · rw [eq]
    refine (OnlyFields.put s Base.device Reg.schedPos _ 0 (by decide) (by simp)).trans (.trans
      (OnlyFields.of_regs _ (State.withStrokes_regs ..)) (OnlyFields.put _ Base.device Reg.lag _ 0 (by decide) (by simp)))
  · rw [State.sched, eq, State.get_put_addr _ _ _ _ _ _ _ _ (by decide), State.get_withStrokes,
      State.get_put_same _ _ _ _ _ (by decide)]
    rfl
  · rw [eq, State.put_strokes, State.strokes_withStrokes, kind]
  · rw [eq, State.put_strokes, State.strokes_withStrokes, marked]
  · rw [eq, State.put_strokes, State.strokes_withStrokes, silent]

/-- The edge of a device that settles: the stroke counted, its kind, and the marks. -/
def State.settledEdge (s : State) : State := (s.counted.edgeKind (s.stroke + 1)).edgeClock (s.stroke + 1)

section
variable {s : State} (settling : s.Settling)
include settling

theorem State.Settling.kind : s.counted.kindOf (s.stroke + 1) = .working := by
  obtain ⟨-, -, -, n, strokes⟩ := s.counted_keeps
  refine State.kindOf_plain ?_ ?_ _
  · rw [strokes]; exact settling.slips
  · rw [s.counted_device (by decide) (by decide)]; exact settling.level

theorem State.Settling.offClock : s.settledEdge.offClock = s.offClock := by
  obtain ⟨off, -, -, -⟩ := s.counted_keeps
  obtain ⟨off', -, -, -, master, -, -, -⟩ := State.edgeKind_keeps settling.kind
  have follows : (s.counted.edgeKind (s.stroke + 1)).get Base.device Reg.isMaster = 0 := by
    rw [master, s.counted_device (by decide) (by decide)]; exact settling.follows
  exact (State.edgeClock_keeps follows _).1.trans (off'.trans off)

/-- What such an edge shows in the device's registers and in the timer. -/
theorem State.Settling.shows : OnlyFields s s.settledEdge (settlingFields s.cores) ∧
    s.settledEdge.stroke = (s.stroke + 1) % 2 ^ 64 ∧ s.settledEdge.sched = (s.sched + 1) % 2 ^ 64 ∧
    s.settledEdge.devState = Dev.selftest ∧ s.settledEdge.strokes.marked = false ∧
    s.settledEdge.strokes.silent = (if s.strokes.marked then 0 else s.strokes.silent + 1) ∧
    s.settledEdge.strokes.kind = .working := by
  obtain ⟨-, fields, stroke, n, strokes⟩ := s.counted_keeps
  obtain ⟨-, fields', sched, dev, master, kind, marked, silent⟩ := State.edgeKind_keeps settling.kind
  have follows : (s.counted.edgeKind (s.stroke + 1)).get Base.device Reg.isMaster = 0 := by
    rw [master, s.counted_device (by decide) (by decide)]; exact settling.follows
  obtain ⟨-, strokes'', fields''⟩ := State.edgeClock_keeps follows (s.stroke + 1)
  obtain ⟨edgeMarked, edgeKind, edgeSilent⟩ := (s.counted.edgeKind (s.stroke + 1)).strokes.atEdge_keeps
  have device : ∀ f : Fld, f.off + 0 * f.step < 0x10000 →
      s.settledEdge.get Base.device f = (s.counted.edgeKind (s.stroke + 1)).get Base.device f := fun f hf =>
    fields''.get_block blockOf_edgeFields (by rw [blockOf_device hf]; decide)
  refine ⟨?_, ?_, ?_, ?_, ?_, ?_, ?_⟩
  · refine (fields.mono ?_).trans ((fields'.mono ?_).trans (fields''.mono (edgeFields_subset _)))
    · exact List.cons_subset.2 ⟨by simp [settlingFields], modeFields_subset _⟩
    · simp [settlingFields]
  · rw [State.stroke, device _ (by decide), fields'.get _ _ _ (by decide)]
    exact stroke
  · rw [State.sched, device _ (by decide)]
    exact sched.trans (by rw [State.sched, s.counted_device (by decide) (by decide)]; rfl)
  · rw [State.devState, device _ (by decide)]
    exact dev.trans ((s.counted_device (by decide) (by decide)).trans settling.settles)
  · rw [State.settledEdge, strokes'', edgeMarked]
  · rw [State.settledEdge, strokes'', edgeSilent, marked, silent, strokes]
  · rw [State.settledEdge, strokes'', edgeKind, kind]

/-- Every other part of such an edge finds nothing to do. -/
theorem State.Settling.edge : s.strokeEdge = s.settledEdge := by
  obtain ⟨off, -, -, -⟩ := s.counted_keeps
  obtain ⟨off', -, -, -, -, -, -, -⟩ := State.edgeKind_keeps settling.kind
  obtain ⟨fields, -, -, dev, -, -, -⟩ := settling.shows
  have units : s.counted.units = [] := (State.units_of_offClock off).trans settling.units
  have units' : (s.counted.edgeKind (s.stroke + 1)).units = [] := (State.units_of_offClock off').trans units
  have fences : s.counted.faults.toFence = [] :=
    (congrArg Faults.toFence (State.faults_of_offClock off)).trans settling.fences
  have state : s.counted.devState = Dev.selftest := (s.counted_device (by decide) (by decide)).trans settling.settles
  have frame : s.counted.frame = s.frame := congrArg (2 ^ ·) (s.counted_device (by decide) (by decide))
  have ways : ∀ d c, d < 8 → c < 16 →
      s.settledEdge.effGet (Base.cachePart d) Reg.cpWays c = s.settledEdge.get (Base.cachePart d) Reg.cpWays c := by
    intro d c hd hc
    have eff : s.settledEdge.eff = s.eff := State.eff_of_offClock settling.offClock
    have reg : s.settledEdge.get (Base.cachePart d) Reg.cpWays c = s.get (Base.cachePart d) Reg.cpWays c := by
      refine fields.get _ _ _ fun p hp same => ?_
      have block : blockOf (regAddr (Base.cachePart d) Reg.cpWays c) = 0x0A := by
        simp only [blockOf, regAddr, Base.cachePart, csr, Reg.cpWays]; omega
      rw [same] at block
      rcases List.mem_append.1 hp with hp | hp
      · exact absurd block (blockOf_settling p hp)
      · rw [blockOf_modeFields _ p hp] at block
        exact absurd block (by decide)
    rw [State.effGet, eff, reg]
    exact settling.ways d c hd hc
  have serving : s.settledEdge.serving = false := State.notServing_of_settling dev
  rw [State.strokeEdge_acts settling.running settling.settles]
  dsimp only
  rw [← State.counted, State.edgeOutcomes_none units, State.edgeFences_none fences, ite_self,
    if_neg (by rw [state]; decide), State.edgeHalt_settling state, frame, if_neg settling.inFrame,
    State.edgeUnits_none units', ← State.settledEdge, State.edgeWays_same ways, State.edgeFirmware_notServing serving]

end

/-- Settles O8: in a device that settles the edge is `State.settledEdge`, and without a running timer or in FAILED none. -/
theorem strokeEdgeWhileSettling : Obligations.StrokeEdgeWhileSettling := by
  unfold Obligations.StrokeEdgeWhileSettling
  intro s
  have run : exec .strokeEdge s = .next s.strokeEdge := rfl
  refine ⟨fun running settles follows units fences slips level inFrame ways => ?_, fun none => ?_⟩
  · have settling : s.Settling := ⟨running, settles, follows, units, fences, slips, level, inFrame, ways⟩
    obtain ⟨fields, stroke, sched, dev, marked, silent, kind⟩ := settling.shows
    have off := settling.offClock
    exact ⟨s.settledEdge, by rw [run, settling.edge], stroke, sched, dev, marked, silent, kind,
      State.mem_of_offClock off, State.cores_of_offClock off, (State.units_of_offClock off).trans units, fields⟩
  · rw [Unchanged, run, State.strokeEdge_none none]

end Sys2Proof.Machine
end

section
/-! PROOFS. The frame boundary of a device that is alone and at rest (R49, R80, R520), and O9. -/

namespace Sys2Proof.Machine

/-! What the parts of a boundary may change -/

/-- The state's contents without registers in force, the stroke timer, the faults' record, the links and the cores. -/
def State.offFrame (s : State) : State :=
  { s.contents with eff := [], strokes := State.reset.strokes, faults := State.reset.faults, links := [], cores := [] }

theorem State.offFrame_of_contents {s t : State} (h : t.contents = s.contents) : t.offFrame = s.offFrame :=
  congrArg (fun x : State =>
    { x with eff := [], strokes := State.reset.strokes, faults := State.reset.faults, links := [], cores := [] }) h

/-- `t` comes of `s` by steps of a boundary: what those steps do not name is kept. -/
structure State.FrameStep (s t : State) : Prop where
  rest : t.offFrame = s.offFrame
  /-- registers outside the POWER blocks and the block of contexts -/
  regs : ∀ a, blockOf a ≠ 0x0C → blockOf a ≠ 0x19 → a / 0x10000 ≠ Base.contexts / 0x10000 → t.reg a = s.reg a
  /-- the marks of a frame's own actions -/
  marks : ∀ k, 96 ≤ k → t.frameCount k = s.frameCount k
  /-- the cores but for their arrays -/
  cores : ∀ d c, { t.core d c with arrays := [] } = { s.core d c with arrays := [] }

theorem State.FrameStep.refl (s : State) : s.FrameStep s := ⟨rfl, fun _ _ _ _ => rfl, fun _ _ => rfl, fun _ _ => rfl⟩

theorem State.FrameStep.trans {s t u : State} (h : s.FrameStep t) (k : t.FrameStep u) : s.FrameStep u where
  rest := k.rest.trans h.rest
  regs a p q r := (k.regs a p q r).trans (h.regs a p q r)
  marks i hi := (k.marks i hi).trans (h.marks i hi)
  cores d c := (k.cores d c).trans (h.cores d c)

section
variable {s t : State}

theorem State.arm_of_offFrame (h : t.offFrame = s.offFrame) : t.arm = s.arm :=
  (congrArg State.arm h : t.offFrame.arm = s.offFrame.arm)

theorem State.boot_of_offFrame (h : t.offFrame = s.offFrame) : t.boot = s.boot :=
  (congrArg State.boot h : t.offFrame.boot = s.offFrame.boot)

theorem State.mem_of_offFrame (h : t.offFrame = s.offFrame) : t.mem = s.mem :=
  (congrArg State.mem h : t.offFrame.mem = s.offFrame.mem)

theorem State.units_of_offFrame (h : t.offFrame = s.offFrame) : t.units = s.units :=
  (congrArg State.units h : t.offFrame.units = s.offFrame.units)

theorem State.segs_of_offFrame (h : t.offFrame = s.offFrame) : t.segs = s.segs :=
  (congrArg State.segs h : t.offFrame.segs = s.offFrame.segs)

theorem State.um_of_offFrame (h : t.offFrame = s.offFrame) : t.um = s.um :=
  (congrArg State.um h : t.offFrame.um = s.offFrame.um)

theorem State.models_of_offFrame (h : t.offFrame = s.offFrame) : t.models = s.models :=
  (congrArg State.models h : t.offFrame.models = s.offFrame.models)

theorem State.loading_of_offFrame (h : t.offFrame = s.offFrame) : t.loading = s.loading :=
  (congrArg State.loading h : t.offFrame.loading = s.offFrame.loading)

theorem State.learns_of_offFrame (h : t.offFrame = s.offFrame) : t.learns = s.learns :=
  (congrArg State.learns h : t.offFrame.learns = s.offFrame.learns)

theorem State.ctxs_of_offFrame (h : t.offFrame = s.offFrame) : t.ctxs = s.ctxs :=
  (congrArg State.ctxs h : t.offFrame.ctxs = s.offFrame.ctxs)

/-- The device's own block keeps over a boundary. -/
theorem State.FrameStep.device (h : s.FrameStep t) {f : Fld} (hf : f.off + 0 * f.step < 0x10000) :
    t.get Base.device f = s.get Base.device f := by
  have block := blockOf_device hf
  rw [State.get, h.regs _ (by rw [regAddr] at block; rw [block]; decide)
    (by rw [regAddr] at block; rw [block]; decide), State.get]
  simp only [Base.device, Base.contexts, csr]
  omega

end

/-! Steps that put registers of the POWER blocks -/

theorem blockOf_power (u : Nat) {off : Nat} (h : off < 0x10000) :
    blockOf (Base.power u + off) = 0x0C ∨ blockOf (Base.power u + off) = 0x19 := by
  unfold Base.power blockOf csr
  split
  · left; omega
  · right; omega

/-- `t` differs from `s` in POWER blocks alone. -/
def State.PowerStep (s t : State) : Prop :=
  t.contents = s.contents ∧ ∀ a, blockOf a ≠ 0x0C → blockOf a ≠ 0x19 → t.reg a = s.reg a

theorem State.PowerStep.refl (s : State) : s.PowerStep s := ⟨rfl, fun _ _ _ => rfl⟩

theorem State.PowerStep.trans {s t u : State} (h : s.PowerStep t) (k : t.PowerStep u) : s.PowerStep u :=
  ⟨k.1.trans h.1, fun a p q => (k.2 a p q).trans (h.2 a p q)⟩

theorem State.powerStep_put (s : State) (u : Nat) (f : Fld) (v i : Nat) (h : f.off + i * f.step < 0x10000) :
    s.PowerStep (s.put (Base.power u) f v i) := by
  refine ⟨State.put_contents .., fun a p q => State.reg_put_other _ _ _ _ _ fun same => ?_⟩
  rw [Nat.add_assoc] at same
  rcases blockOf_power u h with e | e
  · exact p (same ▸ e)
  · exact q (same ▸ e)

theorem State.powerStep_foldl {α : Type} (f : State → α → State) (l : List α) (s : State)
    (h : ∀ t : State, ∀ x ∈ l, t.PowerStep (f t x)) : s.PowerStep (l.foldl f s) :=
  foldl_keeps (fun t => s.PowerStep t) f l s (.refl s) fun t x hx step => step.trans (h t x hx)

theorem State.powerStep_tempRead (s : State) (unit sensor temp : Nat) : s.PowerStep (s.tempRead unit sensor temp) := by
  unfold State.tempRead
  dsimp only
  split
  · exact (State.powerStep_put _ _ _ _ _ (by decide)).trans (State.powerStep_put _ _ _ _ _ (by decide))
  · exact State.powerStep_put _ _ _ _ _ (by decide)

/-- The readings of a frame but for its levels: temperatures and rails. -/
def State.readings (s : State) (x : PowerSample) : State :=
  (List.range 6).foldl (fun s r =>
    let w := x.rails.getD r 0
    (s.put (Base.power 0x10) Reg.railMv (bits w 63 48) r).put (Base.power 0x10) Reg.railMa (bits w 31 0) r)
    ((List.range 10).foldl (fun s i =>
      match x.temps[i]? with
      | none => s
      | some w => (List.range 4).foldl (fun s j =>
          s.tempRead (if i < 8 then i else 0x10 + (i - 8)) j (w.toNat / 2 ^ (8 * j) % 256)) s) s)

/-- The levels of a frame, shown with its input power, and the higher one requested (R520). -/
def State.levels (s : State) (watts lp lt : Nat) : State :=
  (((s.put (Base.power 0x10) Reg.pFrameW watts).put (Base.power 0x10) Reg.levelP lp).put (Base.power 0x10) Reg.levelT lt).put
    (Base.power 0x10) Reg.levelReq (max lp lt)

theorem State.powerTake_eq (s : State) (x : PowerSample) : s.powerTake x = (s.readings x).levels x.watts.toNat
    (powerLevel (s.readings x).strokes.prevLevel x.watts.toNat ((s.readings x).effGet (Base.power 0x10) Reg.capW))
    (tempLevel (s.readings x).hottest) := rfl

theorem State.powerStep_readings (s : State) (x : PowerSample) : s.PowerStep (s.readings x) := by
  unfold State.readings
  refine (State.powerStep_foldl _ _ _ fun t i _ => ?_).trans (State.powerStep_foldl _ _ _ fun t r hr => ?_)
  · split
    · exact .refl t
    · exact State.powerStep_foldl _ _ _ fun u j _ => State.powerStep_tempRead ..
  · have := List.mem_range.1 hr
    exact (State.powerStep_put _ _ _ _ _ (by simp only [Reg.railMv]; omega)).trans
      (State.powerStep_put _ _ _ _ _ (by simp only [Reg.railMa]; omega))

theorem State.powerStep_levels (s : State) (watts lp lt : Nat) : s.PowerStep (s.levels watts lp lt) :=
  (State.powerStep_put _ _ _ _ _ (by decide)).trans ((State.powerStep_put _ _ _ _ _ (by decide)).trans
    ((State.powerStep_put _ _ _ _ _ (by decide)).trans (State.powerStep_put _ _ _ _ _ (by decide))))

/-- The levels read as they were put, when they are at most 15. -/
theorem State.levels_show (s : State) {watts lp lt : Nat} (w : watts < 2 ^ 16) (p : lp ≤ 15) (t : lt ≤ 15) :
    (s.levels watts lp lt).get (Base.power 0x10) Reg.pFrameW = watts ∧
      (s.levels watts lp lt).get (Base.power 0x10) Reg.levelP = lp ∧
      (s.levels watts lp lt).get (Base.power 0x10) Reg.levelT = lt ∧
      (s.levels watts lp lt).get (Base.power 0x10) Reg.levelReq = max lp lt := by
  have field : ∀ (x : State) (g f : Fld) (v : Nat), g.off + 0 * g.step = f.off + 0 * f.step →
      f.lo + f.w ≤ 64 → (f.lo + f.w ≤ g.lo ∨ g.lo + g.w ≤ f.lo) →
      (x.put (Base.power 0x10) f v).get (Base.power 0x10) g = x.get (Base.power 0x10) g := fun x g f v same hf bits =>
    State.get_put_field _ _ _ _ _ _ _ _ (by rw [Nat.add_assoc, same, Nat.add_assoc]) hf bits
  unfold State.levels
  refine ⟨?_, ?_, ?_, ?_⟩
  · rw [field _ _ _ _ (by decide) (by decide) (by decide), field _ _ _ _ (by decide) (by decide) (by decide),
      field _ _ _ _ (by decide) (by decide) (by decide), State.get_put_same _ _ _ _ _ (by decide)]
    exact Nat.mod_eq_of_lt w
  · rw [field _ _ _ _ (by decide) (by decide) (by decide), field _ _ _ _ (by decide) (by decide) (by decide),
      State.get_put_same _ _ _ _ _ (by decide)]
    exact Nat.mod_eq_of_lt (by simp only [Reg.levelP]; omega)
  · rw [field _ _ _ _ (by decide) (by decide) (by decide), State.get_put_same _ _ _ _ _ (by decide)]
    exact Nat.mod_eq_of_lt (by simp only [Reg.levelT]; omega)
  · rw [State.get_put_same _ _ _ _ _ (by decide)]
    exact Nat.mod_eq_of_lt (by simp only [Reg.levelReq]; omega)

theorem powerLevel_le (applied p c : Nat) (h : applied ≤ 15) : powerLevel applied p c ≤ 15 := by
  unfold powerLevel
  split
  · omega
  · split
    · exact Nat.min_le_left ..
    · split <;> omega

theorem tempLevel_le (t : Int) : tempLevel t ≤ 15 := Nat.min_le_left ..

theorem State.PowerStep.frame {s t : State} (h : s.PowerStep t) : s.FrameStep t where
  rest := State.offFrame_of_contents h.1
  regs a p q _ := h.2 a p q
  marks k _ := by rw [State.frameCount, State.faults_of_contents h.1, State.frameCount]
  cores d c := by rw [State.core, State.cores_of_contents h.1, State.core]

/-! The other steps that a quiet boundary takes -/

/-- Only the action of the boundary itself is marked. -/
theorem State.frameStep_setFrameCount (s : State) {k v : Nat} (hk : k < 96) : s.FrameStep (s.setFrameCount k v) where
  rest := rfl
  regs _ _ _ _ := rfl
  marks _ hi := cget_cset_other _ _ _ (by omega)
  cores _ _ := rfl

theorem State.frameStep_frameRegs (s : State) : s.FrameStep s.frameRegs :=
    ⟨rfl, fun _ _ _ _ => rfl, fun _ _ => rfl, fun _ _ => rfl⟩

theorem State.frameStep_setLevel (s : State) (dev level : Nat) : s.FrameStep (s.setLevel dev level) :=
  ⟨rfl, fun _ _ _ _ => rfl, fun _ _ => rfl, fun _ _ => rfl⟩

theorem State.frameStep_bindMasks (s : State) : s.FrameStep s.bindMasks :=
  ⟨rfl, fun _ _ _ _ => rfl, fun _ _ => rfl, fun _ _ => rfl⟩

theorem State.frameStep_splitBlocks (s : State) : s.FrameStep s.splitBlocks :=
  ⟨rfl, fun _ _ _ _ => rfl, fun _ _ => rfl, fun _ _ => rfl⟩

/-- What steps keep, their fold keeps. -/
theorem State.frameStep_foldl {α : Type} (f : State → α → State) (l : List α) (s : State)
    (h : ∀ t : State, ∀ x ∈ l, t.FrameStep (f t x)) : s.FrameStep (l.foldl f s) :=
  foldl_keeps (fun t => s.FrameStep t) f l s (.refl s) fun t x hx step => step.trans (h t x hx)

/-- The links start their counts anew. -/
def State.linksAnew (s : State) : State :=
  { s with links := s.links.foldl (fun l p =>
      cset (fun _ => Link.idle) l p.1 { p.2 with stalls := 0, laneErr := [0, 0, 0, 0, 0, 0, 0, 0] }) s.links }

theorem State.frameStep_linksAnew (s : State) : s.FrameStep s.linksAnew :=
  ⟨rfl, fun _ _ _ _ => rfl, fun _ _ => rfl, fun _ _ => rfl⟩

/-- A channel's counts of the frame that ended. -/
def State.chanCounts (s : State) (c : Nat) : State :=
  ((if s.get (Base.ddr c) Reg.retrainLimit < s.frameCount c then s.setFrameCount (retrainKey c) 1 else s).setFrameCount c
    0).setFrameCount (32 + c) 0

theorem State.frameCounts_eq (s : State) : s.frameCounts = ((List.range 32).foldl State.chanCounts s).linksAnew := rfl

theorem State.frameStep_frameCounts (s : State) : s.FrameStep s.frameCounts := by
  rw [State.frameCounts_eq]
  refine .trans (State.frameStep_foldl _ _ _ fun t c hc => ?_) (State.frameStep_linksAnew _)
  have := List.mem_range.1 hc
  refine .trans (.trans ?_ (State.frameStep_setFrameCount _ (by omega))) (State.frameStep_setFrameCount _ (by omega))
  split
  · exact State.frameStep_setFrameCount _ (by simp only [retrainKey]; omega)
  · exact .refl t

theorem State.frameStep_putContexts (s : State) (f : Fld) (v : Nat) (h : f.off + 0 * f.step < 0x10000) :
    s.FrameStep (s.put Base.contexts f v) where
  rest := State.offFrame_of_contents (State.put_contents ..)
  regs a _ _ apart := State.reg_put_other _ _ _ _ _ fun same => apart (by
    rw [same, Base.contexts, csr]
    omega)
  marks k _ := by rw [State.frameCount, State.put_faults, State.frameCount]
  cores d c := by rw [State.core_put]

theorem State.frameStep_setArr (s : State) (d c a : Nat) (x : Arr) : s.FrameStep (s.setArr d c a x) where
  rest := rfl
  regs _ _ _ _ := rfl
  marks _ _ := rfl
  cores d' c' := by
    by_cases same : coreKey d' c' = coreKey d c
    · have core : ∀ t : State, t.core d' c' = t.core d c := fun t => by rw [State.core, State.core, same]
      rw [core, core, State.setArr, State.core_setCore]
    · rw [State.setArr, State.core_setCore_other _ _ _ _ same]

theorem State.frameStep_fillPlan (s : State) : s.FrameStep s.fillPlan := by
  unfold State.fillPlan
  refine State.frameStep_foldl _ _ _ fun t k _ => ?_
  dsimp only
  split
  · exact .refl t
  · refine State.frameStep_foldl _ _ _ fun u p _ => ?_
    split
    · exact .refl u
    · exact State.frameStep_setArr ..

/-! The pool of a device without contexts -/

theorem State.poolShow_empty {s : State} (h : s.live = []) : ∃ v w, s.poolShow =
    ((s.put Base.contexts Reg.freeSlots 4096).put Base.contexts Reg.freeWays v).put Base.contexts Reg.freeDdr w := by
  unfold State.poolShow
  dsimp only
  rw [h]
  simp only [List.foldl_nil, Nat.sub_zero]
  exact ⟨_, _, rfl⟩

theorem State.poolShow_freeSlots {s : State} (h : s.live = []) : s.poolShow.get Base.contexts Reg.freeSlots = 4096 := by
  obtain ⟨v, w, eq⟩ := State.poolShow_empty h
  rw [eq, State.get_put_field _ _ _ _ _ _ _ _ (by decide) (by decide) (by decide),
    State.get_put_field _ _ _ _ _ _ _ _ (by decide) (by decide) (by decide), State.get_put_same _ _ _ _ _ (by decide)]
  rfl

theorem State.frameStep_poolShow {s : State} (h : s.live = []) : s.FrameStep s.poolShow := by
  obtain ⟨v, w, eq⟩ := State.poolShow_empty h
  rw [eq]
  exact (State.frameStep_putContexts _ _ _ (by decide)).trans ((State.frameStep_putContexts _ _ _ (by decide)).trans
    (State.frameStep_putContexts _ _ _ (by decide)))

/-- Showing the pool leaves the states of contexts. -/
theorem State.live_poolShow {s : State} (h : s.live = []) : s.poolShow.live = [] := by
  obtain ⟨v, w, eq⟩ := State.poolShow_empty h
  rw [← h]
  unfold State.live
  refine List.filter_congr fun c hc => ?_
  have := List.mem_range.1 hc
  have apart : ∀ (x : State) (f : Fld) (n : Nat), f.off = 0x200 → f.step = 8 →
      (x.put Base.contexts f n).ctxState c = x.ctxState c := fun x f n off step => by
    refine State.get_put_addr _ _ _ _ _ _ _ _ ?_
    rw [off]
    simp only [Reg.cxState]
    omega
  rw [eq, apart _ _ _ rfl rfl, apart _ _ _ rfl rfl, apart _ _ _ rfl rfl]

/-! Parts of the boundary that find nothing to do -/

theorem State.fabricSet_alone {s : State} (only : s.devsInService = [s.myNum])
    (joined : (s.distances s.myNum).map (·.1) = [s.myNum]) : s.fabricSet = s := by
  have low : s.lowest = s.myNum := by rw [State.lowest, only]; rfl
  have out : (s.devsInService.filter fun d => !((s.distances s.lowest).map (·.1)).contains d) = [] := by
    rw [low, joined, only]
    simp
  unfold State.fabricSet
  dsimp only
  rw [out]
  rfl

theorem State.levelSend_master {s : State} (h : s.get Base.device Reg.masterNum = s.myNum) :
    s.levelSend = s.setLevel s.myNum (s.get (Base.power 0x10) Reg.levelReq) := by
  unfold State.levelSend
  dsimp only
  rw [if_pos h, h]

theorem State.segsLost_none {s : State} (h : s.segs = []) : s.segsLost = s := by
  unfold State.segsLost
  rw [h]
  rfl

theorem State.routesAgain_same {s : State} (h : s.frameCount routesKey = 0) : s.routesAgain = s := if_pos h

theorem State.sharesApply_none {s : State} (h : ∀ c, (s.ctxRec c).shares = none) : s.sharesApply = s :=
  foldl_same _ _ _ fun c _ => by rw [h]

theorem State.hwinApply_none {s : State} (h : s.um.waiting = []) : s.hwinApply = s := by
  unfold State.hwinApply
  rw [h]
  dsimp only [List.foldl_nil]
  rw [← h]

theorem State.fiApply_same {s : State}
    (h : ∀ l, l < 24 → s.reg (Base.linkFault (l / 12) + l % 12 * 0x10) = (s.link l).inForce) : s.fiApply = s :=
  foldl_same _ _ _ fun l hl => if_pos (h l (List.mem_range.1 hl))

theorem State.placeAll_none {s : State} (models : s.models = []) (progs : ∀ c, (s.learn c).prog = none) :
    s.placeAll = s := by
  unfold State.placeAll
  rw [models]
  exact foldl_same _ _ _ fun c _ => by dsimp only [List.foldl_nil]; rw [progs]

theorem State.loadsRetry_none {s : State} (h : s.loading = []) : s.loadsRetry = s := by
  unfold State.loadsRetry
  rw [h]
  rfl

theorem State.rehomeAll_same {s : State} (h : s.frameCount homesKey = 0) : s.rehomeAll = s := if_pos h

theorem State.preemptDecide_none {s : State} (live : s.live = []) (colls : s.arm.colls = []) : s.preemptDecide = s := by
  unfold State.preemptDecide
  rw [live]
  dsimp only [List.filter_nil, List.foldl_nil]
  unfold State.takePreempts
  rw [colls]
  rfl

/-! A device at rest -/

/-- A device that is alone in its fabric and its own master, with no segment, context, model, program or write waiting. -/
structure State.AtRest (s : State) : Prop where
  only : s.devsInService = [s.myNum]
  joined : (s.distances s.myNum).map (·.1) = [s.myNum]
  master : s.get Base.device Reg.masterNum = s.myNum
  segs : s.segs = []
  routes : s.frameCount routesKey = 0
  homes : s.frameCount homesKey = 0
  waiting : s.um.waiting = []
  colls : s.arm.colls = []
  live : s.live = []
  models : s.models = []
  loading : s.loading = []
  progs : ∀ c, (s.learn c).prog = none
  shares : ∀ c, (s.ctxRec c).shares = none

theorem State.devsInService_congr {s t : State} (arm : t.arm = s.arm) (boot : t.boot = s.boot) :
    t.devsInService = s.devsInService := by
  have fabric : t.fabric = s.fabric := by rw [State.fabric, boot]; rfl
  rw [State.devsInService, fabric, arm, State.devsInService]

theorem State.distances_congr {s t : State} (arm : t.arm = s.arm) (boot : t.boot = s.boot) (dev : Nat) :
    t.distances dev = s.distances dev := by
  have fabric : t.fabric = s.fabric := by rw [State.fabric, boot]; rfl
  rw [State.distances, fabric, arm, State.devsInService_congr arm boot, State.distances]

theorem State.live_congr {s t : State} (h : ∀ a, a / 0x10000 = Base.contexts / 0x10000 → t.reg a = s.reg a) :
    t.live = s.live := by
  unfold State.live
  refine List.filter_congr fun c hc => ?_
  have := List.mem_range.1 hc
  have same : t.ctxState c = s.ctxState c := by
    rw [State.ctxState, State.get, h, State.ctxState, State.get]
    simp only [Base.contexts, csr, Reg.cxState]
    omega
  rw [same]

theorem State.reg_of_regs {s t : State} (h : t.regs = s.regs) (a : Nat) : t.reg a = s.reg a := by
  unfold State.reg
  rw [h]

theorem State.live_of_regs {s t : State} (h : t.regs = s.regs) : t.live = s.live :=
  State.live_congr fun a _ => State.reg_of_regs h a

/-- Rest is kept by the steps of a boundary that leave the contexts' states. -/
theorem State.AtRest.keep {s t : State} (h : s.AtRest) (k : s.FrameStep t) (live : t.live = []) : t.AtRest := by
  have arm := State.arm_of_offFrame k.rest
  have boot := State.boot_of_offFrame k.rest
  have num : t.myNum = s.myNum := k.device (by decide)
  refine ⟨?_, ?_, ?_, ?_, ?_, ?_, ?_, ?_, live, ?_, ?_, fun c => ?_, fun c => ?_⟩
  · rw [State.devsInService_congr arm boot, num, h.only]
  · rw [State.distances_congr arm boot, num, h.joined]
  · rw [k.device (by decide), num, h.master]
  · rw [State.segs_of_offFrame k.rest, h.segs]
  · rw [k.marks _ (by decide), h.routes]
  · rw [k.marks _ (by decide), h.homes]
  · rw [State.um_of_offFrame k.rest, h.waiting]
  · rw [arm, h.colls]
  · rw [State.models_of_offFrame k.rest, h.models]
  · rw [State.loading_of_offFrame k.rest, h.loading]
  · rw [State.learn, State.learns_of_offFrame k.rest]; exact h.progs c
  · rw [State.ctxRec, State.ctxs_of_offFrame k.rest]; exact h.shares c

/-- Marking a boundary as done leaves the other marks. -/
theorem State.AtRest.marked {s : State} (h : s.AtRest) (v : Nat) : (s.setFrameCount frameDoneKey v).AtRest where
  only := h.only
  joined := h.joined
  master := h.master
  segs := h.segs
  routes := (cget_cset_other _ _ _ (by decide)).trans h.routes
  homes := (cget_cset_other _ _ _ (by decide)).trans h.homes
  waiting := h.waiting
  colls := h.colls
  live := h.live
  models := h.models
  loading := h.loading
  progs := h.progs
  shares := h.shares

/-! The boundary of a device at rest -/

/-- The boundary marked as done, with its readings taken and registers in force. -/
def State.framed (s : State) (p : PowerSample) : State :=
  ((s.setFrameCount frameDoneKey (s.stroke + 1)).powerTake p).frameRegs

theorem State.frameRegs_regs (s : State) : s.frameRegs.regs = s.regs := rfl

theorem State.setFrameCount_reg (s : State) (k v a : Nat) : (s.setFrameCount k v).reg a = s.reg a := rfl

/-- A boundary's steps once the request is noted, in a device at rest. -/
def State.framedRest (s : State) : State := s.frameCounts.poolShow.bindMasks.splitBlocks.fillPlan

theorem State.powerStep_powerTake (s : State) (p : PowerSample) : s.PowerStep (s.powerTake p) := by
  rw [State.powerTake_eq]
  exact (State.powerStep_readings s p).trans (State.powerStep_levels ..)

theorem State.powerStep_live {s t : State} (h : s.PowerStep t) : t.live = s.live :=
  State.live_congr fun a ha => by
    have block : blockOf a = 0x02 := by
      simp only [blockOf, Base.contexts, csr] at ha ⊢
      omega
    exact h.2 a (by rw [block]; decide) (by rw [block]; decide)

theorem State.linksAnew_regs (s : State) : s.linksAnew.regs = s.regs := rfl

theorem State.linksAnew_strokes (s : State) : s.linksAnew.strokes = s.strokes := rfl

theorem State.frameCounts_regs (s : State) : s.frameCounts.regs = s.regs ∧ s.frameCounts.strokes = s.strokes := by
  have counts : ((List.range 32).foldl State.chanCounts s).regs = s.regs ∧
      ((List.range 32).foldl State.chanCounts s).strokes = s.strokes := by
    refine foldl_keeps (fun t : State => t.regs = s.regs ∧ t.strokes = s.strokes) _ _ s ⟨rfl, rfl⟩ fun t c _ same => ?_
    unfold State.chanCounts
    split <;> exact same
  rw [State.frameCounts_eq, State.linksAnew_regs, State.linksAnew_strokes]
  exact counts

theorem State.fillPlan_regs (s : State) : s.fillPlan.regs = s.regs ∧ s.fillPlan.strokes = s.strokes := by
  unfold State.fillPlan
  refine foldl_keeps (fun t : State => t.regs = s.regs ∧ t.strokes = s.strokes) _ _ s ⟨rfl, rfl⟩ fun t k _ same => ?_
  dsimp only
  split
  · exact same
  · refine foldl_keeps (fun t : State => t.regs = s.regs ∧ t.strokes = s.strokes) _ _ t same fun u a _ same => ?_
    split <;> exact same

/-- The steps after the pool is shown put no register, and leave the levels. -/
theorem State.afterPool_regs (s : State) : s.bindMasks.splitBlocks.fillPlan.regs = s.regs ∧
    s.bindMasks.splitBlocks.fillPlan.strokes.levels = s.strokes.levels := by
  obtain ⟨regs, strokes⟩ := s.bindMasks.splitBlocks.fillPlan_regs
  rw [regs, strokes]
  exact ⟨rfl, rfl⟩

theorem State.frameStep_afterPool (s : State) : s.FrameStep s.bindMasks.splitBlocks.fillPlan :=
  s.frameStep_bindMasks.trans (s.bindMasks.frameStep_splitBlocks.trans (State.frameStep_fillPlan _))

/-- Taking the readings changes registers of the POWER blocks alone. -/
theorem State.framed_reg (s : State) (p : PowerSample) {a : Nat} (h : blockOf a ≠ 0x0C) (h' : blockOf a ≠ 0x19) :
    (s.framed p).reg a = s.reg a := by
  rw [State.framed, State.reg_of_regs (State.frameRegs_regs _), (State.powerStep_powerTake _ p).2 a h h',
    State.setFrameCount_reg]

theorem State.framed_device (s : State) (p : PowerSample) {f : Fld} (hf : f.off + 0 * f.step < 0x10000) :
    (s.framed p).get Base.device f = s.get Base.device f := by
  have block := blockOf_device hf
  rw [regAddr] at block
  rw [State.get, State.framed_reg s p (by rw [block]; decide) (by rw [block]; decide), State.get]

theorem State.frameRegs_links (s : State) : s.frameRegs.links = s.links := rfl

theorem State.setFrameCount_links (s : State) (k v : Nat) : (s.setFrameCount k v).links = s.links := rfl

theorem State.framed_link (s : State) (p : PowerSample) (l : Nat) : (s.framed p).link l = s.link l := by
  have links : (s.framed p).links = s.links := by
    rw [State.framed, State.frameRegs_links, State.links_of_contents (State.powerStep_powerTake _ p).1,
      State.setFrameCount_links]
  rw [State.link, links, State.link]

/-- The requested level is noted as the device's own. -/
def State.requested (s : State) : State := s.setLevel s.myNum (s.get (Base.power 0x10) Reg.levelReq)

theorem State.requested_reg (s : State) (a : Nat) : s.requested.reg a = s.reg a := rfl

theorem State.requested_link (s : State) (l : Nat) : s.requested.link l = s.link l := rfl

section
variable {s : State} (rest : s.AtRest)
include rest

theorem State.AtRest.framed (p : PowerSample) : (s.framed p).AtRest := by
  have marked := rest.marked (s.stroke + 1)
  have step := State.powerStep_powerTake (s.setFrameCount frameDoneKey (s.stroke + 1)) p
  have taken := marked.keep step.frame ((State.powerStep_live step).trans marked.live)
  exact taken.keep (State.frameStep_frameRegs _) ((State.live_of_regs (State.frameRegs_regs _)).trans taken.live)

theorem State.AtRest.requested : s.requested.AtRest :=
  rest.keep (State.frameStep_setLevel ..) ((State.live_of_regs rfl).trans rest.live)

theorem State.AtRest.frameCounts : s.frameCounts.AtRest :=
  rest.keep s.frameStep_frameCounts ((State.live_of_regs s.frameCounts_regs.1).trans rest.live)

theorem State.AtRest.framedRest : s.FrameStep s.framedRest ∧ s.framedRest.get Base.contexts Reg.freeSlots = 4096 ∧
    (∀ a, a / 0x10000 ≠ Base.contexts / 0x10000 → s.framedRest.reg a = s.reg a) ∧
    s.framedRest.strokes.levels = s.strokes.levels ∧ s.framedRest.live = [] := by
  have live := rest.frameCounts.live
  obtain ⟨regs, levels⟩ := s.frameCounts.poolShow.afterPool_regs
  obtain ⟨regs', strokes'⟩ := s.frameCounts_regs
  obtain ⟨v, w, eq⟩ := State.poolShow_empty live
  refine ⟨?_, ?_, fun a ha => ?_, ?_, ?_⟩
  · exact s.frameStep_frameCounts.trans ((State.frameStep_poolShow live).trans (State.frameStep_afterPool _))
  · exact (State.get_of_regs regs ..).trans (State.poolShow_freeSlots live)
  · have put : ∀ (x : State) (f : Fld) (n : Nat), f.off + 0 * f.step < 0x10000 →
        (x.put Base.contexts f n).reg a = x.reg a := fun x f n hf =>
      State.reg_put_other _ _ _ _ _ fun same => ha (by rw [same, Base.contexts, csr]; omega)
    rw [State.framedRest, State.reg_of_regs regs, eq, put _ _ _ (by decide), put _ _ _ (by decide), put _ _ _ (by decide),
      State.reg_of_regs regs']
  · rw [State.framedRest, levels, eq, State.put_strokes, State.put_strokes, State.put_strokes, strokes']
  · exact (State.live_of_regs regs).trans (State.live_poolShow live)

/-- The boundary in a device at rest: readings, the request, and the rest of its steps. -/
theorem State.AtRest.boundary (p : PowerSample) (serving : s.serving = true) (first : s.stroke % s.frame = 0)
    (new : s.frameCount frameDoneKey ≠ s.stroke + 1)
    (inForce : ∀ l, l < 24 → s.reg (Base.linkFault (l / 12) + l % 12 * 0x10) = (s.link l).inForce) :
    s.frameBoundary p = (s.framed p).requested.framedRest := by
  have framed := rest.framed p
  have requested := framed.requested
  have counts := requested.frameCounts
  have alive : (s.framed p).devState ≠ Dev.failed := fun failed => by
    have same : (s.framed p).devState = s.devState := s.framed_device p (by decide)
    rw [State.serving, ← same, failed] at serving
    exact absurd serving (by decide)
  have faults : ∀ l, l < 24 →
      (s.framed p).requested.reg (Base.linkFault (l / 12) + l % 12 * 0x10) =
        ((s.framed p).requested.link l).inForce := fun l hl => by
    have reg : (s.framed p).requested.reg (Base.linkFault (l / 12) + l % 12 * 0x10) =
        (s.framed p).reg (Base.linkFault (l / 12) + l % 12 * 0x10) := State.requested_reg ..
    have block : blockOf (Base.linkFault (l / 12) + l % 12 * 0x10) = 0x1C := by
      simp only [blockOf, Base.linkFault, csr]; omega
    rw [reg, s.framed_reg p (by rw [block]; decide) (by rw [block]; decide), inForce l hl, State.requested_link,
      State.framed_link]
  obtain ⟨step, -, -, -, live⟩ := requested.framedRest
  have colls : (s.framed p).requested.framedRest.arm.colls = [] := by
    rw [State.arm_of_offFrame step.rest, requested.colls]
  unfold State.frameBoundary
  rw [if_neg (by simp [serving, first, new])]
  dsimp only
  rw [← State.framed, State.fabricSet_alone framed.only framed.joined, if_neg alive, State.levelSend_master framed.master,
    ← State.requested, State.segsLost_none requested.segs, State.routesAgain_same requested.routes,
    State.sharesApply_none requested.shares, State.hwinApply_none requested.waiting, State.fiApply_same faults,
    State.placeAll_none counts.models counts.progs, State.loadsRetry_none counts.loading,
    State.rehomeAll_same counts.homes, ← State.framedRest, State.preemptDecide_none live colls]

end

/-! O9 -/

/-- What a boundary's readings show: the frame's input power, and the request as the higher level. -/
theorem State.framed_power {s : State} (p : PowerSample) (level : s.strokes.prevLevel ≤ 15) :
    (s.framed p).get (Base.power 0x10) Reg.pFrameW = p.watts.toNat ∧
      (s.framed p).get (Base.power 0x10) Reg.levelReq =
        max ((s.framed p).get (Base.power 0x10) Reg.levelP) ((s.framed p).get (Base.power 0x10) Reg.levelT) := by
  have strokes : ((s.setFrameCount frameDoneKey (s.stroke + 1)).readings p).strokes = s.strokes :=
    (State.strokes_of_contents (State.powerStep_readings _ p).1).trans rfl
  have read : ∀ f : Fld, (s.framed p).get (Base.power 0x10) f =
      ((s.setFrameCount frameDoneKey (s.stroke + 1)).powerTake p).get (Base.power 0x10) f := fun f =>
    State.get_of_regs (State.frameRegs_regs _) ..
  rw [read, read, read, read, State.powerTake_eq]
  obtain ⟨watts, lp, lt, req⟩ := State.levels_show ((s.setFrameCount frameDoneKey (s.stroke + 1)).readings p)
    p.watts.isLt (powerLevel_le _ p.watts.toNat (((s.setFrameCount frameDoneKey (s.stroke + 1)).readings p).effGet
      (Base.power 0x10) Reg.capW) (strokes ▸ level)) (tempLevel_le _)
  exact ⟨watts, by rw [req, lp, lt]⟩

/-- A boundary that is marked as done does nothing. -/
theorem frameBoundary_done {s : State} (h : s.frameCount frameDoneKey = s.stroke + 1) (p : PowerSample) :
    Unchanged (.frameBoundary p) s := by
  have run : exec (.frameBoundary p) s = .next (s.frameBoundary p) := rfl
  rw [Unchanged, run]
  exact congrArg _ (if_pos (by simp [h]))

/-- From a state to what its readings and its request make of it. -/
theorem State.frameStep_requested (s : State) (p : PowerSample) :
    (s.setFrameCount frameDoneKey (s.stroke + 1)).FrameStep (s.framed p).requested :=
  (State.powerStep_powerTake _ p).frame.trans ((State.frameStep_frameRegs _).trans (State.frameStep_setLevel ..))

/-- Settles O9: in a device at rest the boundary is `State.AtRest.boundary`: the readings (`State.framed_power`), the
request, and steps that leave all else (`State.FrameStep`). -/
theorem frameBoundaryAlone : Obligations.FrameBoundaryAlone := by
  unfold Obligations.FrameBoundaryAlone
  intro s p serving first new only joined master segs routes homes waiting colls live models loading progs shares level inForce
  have rest : s.AtRest :=
    ⟨only, joined, master, segs, routes, homes, waiting, colls, live, models, loading, progs, shares⟩
  have run : exec (.frameBoundary p) s = .next (s.frameBoundary p) := rfl
  rw [rest.boundary p serving first new inForce] at run
  have requested := (rest.framed p).requested
  obtain ⟨step, slots, regs, levels, -⟩ := requested.framedRest
  obtain ⟨watts, higher⟩ := State.framed_power p level
  have whole := (s.frameStep_requested p).trans step
  have power : ∀ f : Fld, f.off + 0 * f.step < 0x10000 →
      (s.framed p).requested.framedRest.get (Base.power 0x10) f = (s.framed p).get (Base.power 0x10) f := fun f hf => by
    rw [State.get, regs, State.requested_reg, State.get]
    rw [show Base.power 0x10 = csr 0x10 0x19 from rfl]
    simp only [Base.contexts, csr]
    omega
  have stroke : (s.framed p).requested.framedRest.stroke = s.stroke :=
    (whole.device (f := Reg.strokeCount) (by decide)).trans rfl
  have num : (s.framed p).myNum = s.myNum := s.framed_device p (by decide)
  refine ⟨_, run, ?_, ?_, ?_, slots, ?_, ?_, fun d c => ?_, fun a h h' apart => ?_, frameBoundary_done ?_ p⟩
  · rw [power _ (by decide), watts]
  · rw [power _ (by decide), power _ (by decide), power _ (by decide), higher]
  · rw [levels, power _ (by decide), State.requested, State.setLevel_levels, num, cget_cset_same]
  · exact (State.mem_of_offFrame whole.rest).trans rfl
  · exact (State.units_of_offFrame whole.rest).trans rfl
  · exact (whole.cores d c).trans rfl
  · exact (whole.regs a h h' apart).trans (State.setFrameCount_reg ..)
  · rw [whole.marks _ (by decide), stroke]
    exact State.frameCount_setFrameCount ..

end Sys2Proof.Machine
end

section
/-! PROOFS. Fill passes, their comparison and repeats, and gated cycles (R113 to R116, R438), and O41. -/

namespace Sys2Proof.Machine

/-! Fields of one array's registers (Table 03.19) -/

/-- Two fields of the registers that each array of a core has: of different words, or of different bits. -/
def Fld.apart (f g : Fld) : Bool :=
  decide (f.step = 16 ∧ g.step = 16 ∧ f.off % 16 ≠ g.off % 16) ||
    decide (f.off = g.off ∧ f.step = g.step ∧ (f.lo + f.w ≤ g.lo ∨ g.lo + g.w ≤ f.lo))

theorem State.get_put_apart (s : State) (b : Nat) {f g : Fld} (v a : Nat) (hf : f.lo + f.w ≤ 64)
    (h : f.apart g = true) : (s.put b f v a).get b g a = s.get b g a := by
  rw [Fld.apart, Bool.or_eq_true, decide_eq_true_eq, decide_eq_true_eq] at h
  rcases h with ⟨stepF, stepG, words⟩ | ⟨off, step, bits⟩
  · refine State.get_put_addr _ _ _ _ _ _ _ _ ?_
    rw [stepF, stepG]
    omega
  · exact State.get_put_field _ _ _ _ _ _ _ _ (by rw [off, step]) hf bits

theorem State.get_count_apart (s : State) (b : Nat) {f g : Fld} (n a : Nat) (hf : f.lo + f.w ≤ 64)
    (h : f.apart g = true) : (s.count b f n a).get b g a = s.get b g a := State.get_put_apart s b _ a hf h

/-- Registers of the ERROR blocks are not a core's. -/
theorem State.get_core_of_reg {s t : State} (same : ∀ a, blockOf a ≠ 0x0D → blockOf a ≠ 0x1A → t.reg a = s.reg a)
    (d : Nat) {c : Nat} (hc : c < 48) {f : Fld} {i : Nat} (ho : f.off + i * f.step < 0x400) :
    t.get (Base.core d c) f i = s.get (Base.core d c) f i := by
  have block : blockOf (Base.core d c + f.off + i * f.step) = 0x02 := by rw [Nat.add_assoc]; exact blockOf_core d hc ho
  rw [State.get, same _ (by rw [block]; decide) (by rw [block]; decide), State.get]

theorem State.count_errors_reg (s : State) (unit : Nat) {f : Fld} (n : Nat) (hf : f.off + 0 * f.step < 0x10000)
    {r : Nat} (h : blockOf r ≠ 0x0D) (h' : blockOf r ≠ 0x1A) : (s.count (Base.errors unit) f n).reg r = s.reg r := by
  refine State.reg_count_other _ _ _ _ _ fun same => ?_
  rw [Nat.add_assoc] at same
  rcases errors_block unit (f.off + 0 * f.step) hf with e | e
  · exact h (same ▸ e)
  · exact h' (same ▸ e)

/-! One array's record -/

@[simp] theorem State.arr_setArr (s : State) (d c a : Nat) (x : Arr) : (s.setArr d c a x).arr d c a = x := by
  simp [State.arr, State.setArr]

theorem State.arr_congr {s t : State} (h : t.cores = s.cores) (d c a : Nat) : t.arr d c a = s.arr d c a := by
  rw [State.arr, State.core, h]
  rfl

theorem State.workStep_setArr (s : State) (d c a : Nat) (x : Arr) : s.WorkStep (s.setArr d c a x) :=
  State.workStep_setCore ..

theorem State.setArr_get (s : State) (d c a : Nat) (x : Arr) (b : Nat) (f : Fld) (i : Nat) :
    (s.setArr d c a x).get b f i = s.get b f i := State.setCore_get ..

theorem State.workStep_count (s : State) (d : Nat) {c : Nat} (hc : c < 48) (f : Fld) (n i : Nat)
    (ho : f.off + i * f.step < 0x400) : s.WorkStep (s.count (Base.core d c) f n i) := State.workStep_put s d hc f _ i ho

theorem State.faults_of_offWork {s t : State} (h : t.offWork = s.offWork) : t.faults = s.faults :=
  (congrArg State.faults h : t.offWork.faults = s.offWork.faults)

theorem State.faults_of_offUnits {s t : State} (h : t.offUnits = s.offUnits) : t.faults = s.faults :=
  (congrArg State.faults h : t.offUnits.faults = s.offUnits.faults)

theorem State.WorkStep.sched {s t : State} (h : s.WorkStep t) : t.sched = s.sched := h.get (by decide)

theorem State.boundCtxs_congr {s t : State} (h : t.faults = s.faults) (u : UnitId) : t.boundCtxs u = s.boundCtxs u := by
  simp only [State.boundCtxs, h]

theorem State.findRetest_congr {s t : State} (h : t.faults = s.faults) (d c a : Nat) :
    t.findRetest d c a = s.findRetest d c a := by
  rw [State.findRetest, h, State.findRetest]

theorem uid_core {d c : Nat} (hd : d < 8) (hc : c < 48) : (uid d c).unit.toNat = d ∧ (uid d c).index.toNat = c := by
  simp only [uid, BitVec.toNat_ofNat]
  omega

/-! The repeats that an array owes (log 49) -/

@[simp] theorem State.findRetest_setRetest_none (s : State) (d c a : Nat) :
    (s.setRetest d c a none).findRetest d c a = none := by
  rw [State.findRetest, List.find?_eq_none]
  intro r hr
  have other := (List.mem_filter.1 hr).2
  rw [Bool.not_eq_true'] at other
  simp [other]

theorem State.findRetest_setRetest_some (s : State) (r : Retest) :
    (s.setRetest r.die r.core r.arr (some r)).findRetest r.die r.core r.arr = some r := by
  simp [State.findRetest, State.setRetest]

/-- Noting what repeats an array owes changes neither the rest of the faults nor anything else. -/
theorem State.setRetest_rest (s : State) (d c a : Nat) (r : Option Retest) :
    (s.setRetest d c a r).faults.toFence = s.faults.toFence ∧ (s.setRetest d c a r).faults.fenced = s.faults.fenced ∧
      (s.setRetest d c a r).units = s.units ∧ (s.setRetest d c a r).mem = s.mem ∧
      (s.setRetest d c a r).cores = s.cores ∧ (s.setRetest d c a r).regs = s.regs := ⟨rfl, rfl, rfl, rfl, rfl, rfl⟩

theorem State.goneUnit_congr {s t : State} (toFence : t.faults.toFence = s.faults.toFence)
    (fenced : t.faults.fenced = s.faults.fenced) (u : UnitId) : t.goneUnit u = s.goneUnit u := by
  simp only [State.goneUnit, State.isFenced, toFence, fenced]

@[simp] theorem State.quarantine_cores (s : State) (u : UnitId) (source index detail : Nat) :
    (s.quarantine u source index detail).cores = s.cores := by
  have one : ∀ (t : State) (v : UnitId), (t.quarantine1 v source index detail).cores = t.cores := fun t v => by
    unfold State.quarantine1; split <;> rfl
  unfold State.quarantine
  dsimp only
  split
  · rw [one, one]
  · exact one s u

/-! A record that differs (R115) -/

/-- The counts of a record that differs, and the pattern that it shows. -/
def State.failShown (s : State) (d c a p : Nat) : State :=
  (((s.count (Base.core d c) Reg.failCount 1 a).put (Base.core d c) Reg.lastFailPat p a).count (Base.errors d)
    Reg.errSelftest)

/-- The report of a core in service marks the staged units of its contexts, and logs. -/
theorem State.fillBad_reported {s : State} {d c : Nat} (hd : d < 8) (hc : c < 48) (up : s.coreUp d c = true)
    (a p : Nat) : ∃ action, s.fillBad d c a p =
      ((s.failShown d c a p).addReason (s.boundCtxs (uid d c)) Reason.selftest).log d action none 0x03 c
        (p * 16 + a) := by
  obtain ⟨unit, index⟩ := uid_core hd hc
  have faults : (s.failShown d c a p).faults = s.faults := by
    simp only [State.failShown, State.count_faults, State.put_faults]
  have inService : ¬ (s.failShown d c a p).isFenced (uid d c).unit.toNat (uid d c).index.toNat = true := by
    rw [State.isFenced_congr faults, unit, index]
    simpa [State.coreUp] using up
  refine ⟨b2n ((s.failShown d c a p).anyStaged (s.boundCtxs (uid d c))), ?_⟩
  rw [State.fillBad, State.report]
  rw [← State.failShown, if_neg inService, State.boundCtxs_congr faults, unit]

theorem State.failShown_reg (s : State) (d : Nat) {c a : Nat} (hc : c < 48) (ha : a < 8) (p : Nat) {r : Nat}
    (core : blockOf r ≠ 0x02) (h : blockOf r ≠ 0x0D) (h' : blockOf r ≠ 0x1A) :
    (s.failShown d c a p).reg r = s.reg r := by
  have cores : s.WorkStep ((s.count (Base.core d c) Reg.failCount 1 a).put (Base.core d c) Reg.lastFailPat p a) :=
    (State.workStep_count s d hc _ _ _ (by simp only [Reg.failCount]; omega)).trans
      (State.workStep_put _ d hc _ _ _ (by simp only [Reg.lastFailPat]; omega))
  rw [State.failShown, State.count_errors_reg _ _ _ (by decide) h h', cores.2 r core]

/-- What a record that differs changes: the units so, of the array's fields the failures alone, and of the rest
registers elsewhere. -/
theorem State.fillBad_shows {s : State} {d c a : Nat} (hd : d < 8) (hc : c < 48) (ha : a < 8)
    (up : s.coreUp d c = true) (p : Nat) : (s.fillBad d c a p).offUnits = s.offUnits ∧
      (s.fillBad d c a p).units = (s.addReason (s.boundCtxs (uid d c)) Reason.selftest).units ∧
      ∀ f : Fld, f.off + a * f.step < 0x400 → Reg.failCount.apart f = true → Reg.lastFailPat.apart f = true →
        (s.fillBad d c a p).get (Base.core d c) f a = s.get (Base.core d c) f a := by
  obtain ⟨action, eq⟩ := State.fillBad_reported hd hc up a p
  have contents : (s.failShown d c a p).contents = s.contents := by
    simp only [State.failShown, State.count_contents, State.put_contents]
  rw [eq]
  refine ⟨?_, ?_, fun f ho count last => ?_⟩
  · rw [State.offUnits_of_contents (State.log_contents ..), State.addReason_offUnits,
      State.offUnits_of_contents contents]
  · rw [State.units_of_contents (State.log_contents ..)]
    refine State.addReason_units_congr (State.units_of_contents contents) ?_ rfl _
    rw [State.sched, State.get, State.failShown_reg s d hc ha p (by decide) (by decide) (by decide)]
    rfl
  · rw [State.get_core_of_reg (fun r h h' => State.log_reg _ _ _ _ _ _ _ h h') d hc ho, State.addReason_get,
      State.failShown, State.get_core_of_reg (fun r h h' => State.count_errors_reg _ _ _ (by decide) h h') d hc ho,
      State.get_put_apart _ _ _ _ (by decide) last, State.get_count_apart _ _ _ _ (by decide) count]

/-! The pass itself (R113, R114) -/

/-- The array's record and the counts of its passes, once a pass that is due has run. -/
def State.passRun (s : State) (d c a : Nat) (y : Arr) : State :=
  ((s.count (Base.core d c) Reg.fillKcyc ((y.fillRem + 64) / 1000) a).setArr d c a
    { y with fillRem := (y.fillRem + 64) % 1000, lastFill := s.stroke + 1, cover := y.covered s.stroke }).count
      (Base.core d c) Reg.fillPasses 1 a

/-- An array without a command in issue shows that a pass runs. -/
def State.passShown (s : State) (d c a : Nat) : State :=
  if s.get (Base.core d c) Reg.arrMode a = 0 then s.put (Base.core d c) Reg.arrMode 7 a else s

/-- The conditions under which an array takes a pass that is due. -/
structure State.TakesPass (s : State) (d c a : Nat) : Prop where
  up : s.coreUp d c = true
  inUse : s.get (Base.core d c) Reg.withdrawn a = 0
  clocked : s.pins.gated = false
  awake : s.awake = true

theorem State.workStep_passRun (s : State) (d : Nat) {c a : Nat} (hc : c < 48) (ha : a < 8) (y : Arr) :
    s.WorkStep (s.passRun d c a y) :=
  (State.workStep_count s d hc _ _ _ (by simp only [Reg.fillKcyc]; omega)).trans ((State.workStep_setArr ..).trans
    (State.workStep_count _ d hc _ _ _ (by simp only [Reg.fillPasses]; omega)))

theorem State.workStep_passShown (s : State) (d : Nat) {c a : Nat} (hc : c < 48) (ha : a < 8) :
    s.WorkStep (s.passShown d c a) := by
  unfold State.passShown
  split
  · exact State.workStep_put s d hc _ _ _ (by simp only [Reg.arrMode]; omega)
  · exact .refl s

theorem State.passRun_arr (s : State) (d c a : Nat) (y : Arr) : (s.passRun d c a y).arr d c a =
    { y with fillRem := (y.fillRem + 64) % 1000, lastFill := s.stroke + 1, cover := y.covered s.stroke } := by
  rw [State.passRun, State.arr_congr (State.count_cores ..), State.arr_setArr]

theorem State.passRun_get (s : State) (d c a : Nat) (y : Arr) {f : Fld} (cycles : Reg.fillKcyc.apart f = true)
    (passes : Reg.fillPasses.apart f = true) :
    (s.passRun d c a y).get (Base.core d c) f a = s.get (Base.core d c) f a := by
  rw [State.passRun, State.get_count_apart _ _ _ _ (by decide) passes, State.setArr_get,
    State.get_count_apart _ _ _ _ (by decide) cycles]

theorem State.passRun_fillPasses (s : State) (d c a : Nat) (y : Arr) :
    (s.passRun d c a y).get (Base.core d c) Reg.fillPasses a =
      min (s.get (Base.core d c) Reg.fillPasses a + 1) (2 ^ Reg.fillPasses.w - 1) := by
  rw [State.passRun, State.get_count_same _ _ _ _ _ (by decide), State.setArr_get,
    State.get_count_apart _ _ _ _ (by decide) (by decide)]

theorem State.passShown_cores (s : State) (d c a : Nat) : (s.passShown d c a).cores = s.cores := by
  unfold State.passShown
  split
  · exact State.put_cores ..
  · rfl

theorem State.passShown_get (s : State) (d c a : Nat) {f : Fld} (h : Reg.arrMode.apart f = true) :
    (s.passShown d c a).get (Base.core d c) f a = s.get (Base.core d c) f a := by
  unfold State.passShown
  split
  · exact State.get_put_apart _ _ _ _ (by decide) h
  · rfl

/-! Comparing the record (R114, R115, R438) -/

section
variable {s : State} {d c a : Nat} {rec : BitVec 128} {first : Bool}

/-- A pass that repeats no pattern compares the record of NEXT_PAT, and moves it on. -/
theorem State.fillCheck_next (owed : s.findRetest d c a = none ∨ first = false) {p : Nat}
    (next : s.get (Base.core d c) Reg.nextPat a = p) : s.fillCheck d c a rec first =
      let t := s.put (Base.core d c) Reg.nextPat ((p + 1) % 16) a
      if rec = Config.fillRecord p then t
      else if ((t.fillBad d c a p).findRetest d c a).isSome then t.fillBad d c a p
      else (t.fillBad d c a p).setRetest d c a
        (some { die := d, core := c, arr := a, pattern := p, left := 2, failed := false }) := by
  have none' : (if first then s.findRetest d c a else none) = none := by
    rcases owed with h | h <;> simp [h]
  unfold State.fillCheck
  dsimp only
  rw [none']
  dsimp only
  rw [next]

/-- The first pass of a gap compares the record of the pattern that a repeat owes. -/
theorem State.fillCheck_repeat {r : Retest} (owed : s.findRetest d c a = some r) : s.fillCheck d c a rec true =
    if rec = Config.fillRecord r.pattern then
      s.setRetest d c a (if r.left ≤ 1 then none else some { r with left := r.left - 1 })
    else
      (((s.fillBad d c a r.pattern).setRetest d c a none).put (Base.core d c) Reg.withdrawn 1 a).quarantine (uid d c)
        0x03 c (r.pattern * 16 + a) := by
  unfold State.fillCheck
  dsimp only
  rw [if_pos rfl, owed]

theorem State.fillCheck_next_matches (owed : s.findRetest d c a = none ∨ first = false) {p : Nat}
    (next : s.get (Base.core d c) Reg.nextPat a = p) (same : rec = Config.fillRecord p) :
    s.fillCheck d c a rec first = s.put (Base.core d c) Reg.nextPat ((p + 1) % 16) a :=
  (State.fillCheck_next owed next).trans (if_pos same)

theorem State.fillCheck_next_differs (hd : d < 8) (hc : c < 48) (ha : a < 8) (up : s.coreUp d c = true)
    (owed : s.findRetest d c a = none ∨ first = false) {p : Nat}
    (next : s.get (Base.core d c) Reg.nextPat a = p) (differs : rec ≠ Config.fillRecord p) :
    (s.fillCheck d c a rec first).mem = s.mem ∧ (s.fillCheck d c a rec first).cores = s.cores ∧
      (s.fillCheck d c a rec first).units = (s.addReason (s.boundCtxs (uid d c)) Reason.selftest).units ∧
      ((s.fillCheck d c a rec first).findRetest d c a).isSome = true ∧
      ∀ f : Fld, f.off + a * f.step < 0x400 → Reg.failCount.apart f = true → Reg.lastFailPat.apart f = true →
        (s.fillCheck d c a rec first).get (Base.core d c) f a =
          (s.put (Base.core d c) Reg.nextPat ((p + 1) % 16) a).get (Base.core d c) f a := by
  have moved : s.WorkStep (s.put (Base.core d c) Reg.nextPat ((p + 1) % 16) a) :=
    State.workStep_put s d hc _ _ _ (by simp only [Reg.nextPat]; omega)
  have faults := State.faults_of_offWork moved.1
  obtain ⟨rest, units, fields⟩ := State.fillBad_shows (s := s.put (Base.core d c) Reg.nextPat ((p + 1) % 16) a) hd hc ha
    (by rw [State.coreUp, State.isFenced_congr faults]; exact up) p
  have mem := (State.mem_of_offUnits rest).trans (State.put_mem ..)
  have cores := (State.cores_of_offUnits rest).trans (State.put_cores ..)
  have marked := units.trans (State.addReason_units_congr (State.units_of_offWork moved.1) moved.sched
    (State.boundCtxs_congr faults (uid d c)) Reason.selftest)
  rw [State.fillCheck_next owed next]
  dsimp only
  rw [if_neg differs]
  split
  next already => exact ⟨mem, cores, marked, already, fields⟩
  next =>
    obtain ⟨-, -, units', mem', cores', regs'⟩ := ((s.put (Base.core d c) Reg.nextPat ((p + 1) % 16) a).fillBad d c a
      p).setRetest_rest d c a (some { die := d, core := c, arr := a, pattern := p, left := 2, failed := false })
    refine ⟨mem'.trans mem, cores'.trans cores, units'.trans marked, ?_, fun f ho h h' =>
      (State.get_of_regs regs' _ _ _).trans (fields f ho h h')⟩
    rw [State.findRetest_setRetest_some _ { die := d, core := c, arr := a, pattern := p, left := 2, failed := false }]
    rfl

/-- What a pass that repeats no pattern leaves, whatever its record. -/
theorem State.fillCheck_next_shows (hd : d < 8) (hc : c < 48) (ha : a < 8) (up : s.coreUp d c = true)
    (owed : s.findRetest d c a = none ∨ first = false) {p : Nat} (next : s.get (Base.core d c) Reg.nextPat a = p) :
    (s.fillCheck d c a rec first).mem = s.mem ∧ (s.fillCheck d c a rec first).cores = s.cores ∧
      (s.fillCheck d c a rec first).get (Base.core d c) Reg.nextPat a = (p + 1) % 16 ∧
      (s.fillCheck d c a rec first).get (Base.core d c) Reg.fillPasses a = s.get (Base.core d c) Reg.fillPasses a ∧
      (rec = Config.fillRecord p → (s.fillCheck d c a rec first).units = s.units ∧
        (s.fillCheck d c a rec first).faults = s.faults) ∧
      (rec ≠ Config.fillRecord p →
        (s.fillCheck d c a rec first).units = (s.addReason (s.boundCtxs (uid d c)) Reason.selftest).units ∧
        ((s.fillCheck d c a rec first).findRetest d c a).isSome = true) := by
  have nextPat : (s.put (Base.core d c) Reg.nextPat ((p + 1) % 16) a).get (Base.core d c) Reg.nextPat a =
      (p + 1) % 16 := by
    rw [State.get_put_same _ _ _ _ _ (by decide)]
    exact Nat.mod_mod ..
  have passes : (s.put (Base.core d c) Reg.nextPat ((p + 1) % 16) a).get (Base.core d c) Reg.fillPasses a =
      s.get (Base.core d c) Reg.fillPasses a := State.get_put_apart _ _ _ _ (by decide) (by decide)
  by_cases same : rec = Config.fillRecord p
  · rw [State.fillCheck_next_matches owed next same]
    exact ⟨State.put_mem .., State.put_cores .., nextPat, passes,
      fun _ => ⟨State.put_units .., State.put_faults ..⟩, fun differs => absurd same differs⟩
  · obtain ⟨mem, cores, units, retest, fields⟩ := State.fillCheck_next_differs hd hc ha up owed next same
    exact ⟨mem, cores, (fields _ (by simp only [Reg.nextPat]; omega) (by decide) (by decide)).trans nextPat,
      (fields _ (by simp only [Reg.fillPasses]; omega) (by decide) (by decide)).trans passes,
      fun matches' => absurd matches' same, fun _ => ⟨units, retest⟩⟩

/-- A repeat that mismatches withdraws the array and has its core fenced at the next edge. -/
theorem State.fillCheck_repeat_differs (hd : d < 8) (hc : c < 48) (ha : a < 8) (up : s.coreUp d c = true) {r : Retest}
    (owed : s.findRetest d c a = some r) (differs : rec ≠ Config.fillRecord r.pattern)
    (stands : s.goneUnit (uid d c) = false) :
    (s.fillCheck d c a rec true).mem = s.mem ∧
      (s.fillCheck d c a rec true).get (Base.core d c) Reg.withdrawn a = 1 ∧
      (s.fillCheck d c a rec true).units = (s.addReason (s.boundCtxs (uid d c)) Reason.selftest).units ∧
      ∃ q, (uid d c, q) ∈ (s.fillCheck d c a rec true).faults.toFence := by
  obtain ⟨rest, units, -⟩ := State.fillBad_shows hd hc ha up r.pattern
  obtain ⟨toFence, fenced, units', mem', -, -⟩ := (s.fillBad d c a r.pattern).setRetest_rest d c a none
  have faults := State.faults_of_offUnits rest
  rw [State.fillCheck_repeat owed, if_neg differs]
  refine ⟨?_, ?_, ?_, _, State.quarantine_toFence _ _ _ _ ?_⟩
  · rw [State.quarantine_mem, State.put_mem, mem', State.mem_of_offUnits rest]
  · rw [State.get_of_regs (State.quarantine_regs ..), State.get_put_same _ _ _ _ _ (by decide)]
    rfl
  · rw [State.quarantine_units, State.put_units, units', units]
  · rw [State.goneUnit_congr (s := s) _ _ _]
    · exact stands
    · rw [State.put_faults, toFence, faults]
    · rw [State.put_faults, fenced, faults]

end

section
variable {s : State} {d c a : Nat} {first : Bool} {y : Arr} {rec : BitVec 128}

theorem State.fillPass_due (hc : c < 48) (takes : s.TakesPass d c a)
    (due : s.fillTake d c a = some (first, y)) (ha : a < 8) :
    s.fillPass d c a rec first = ((s.passRun d c a y).fillCheck d c a rec first).passShown d c a := by
  obtain ⟨up, inUse, clocked, awake⟩ := takes
  have stroke : (s.count (Base.core d c) Reg.fillKcyc ((y.fillRem + 64) / 1000) a).stroke = s.stroke :=
    (State.workStep_count s d hc _ _ _ (by simp only [Reg.fillKcyc]; omega)).get (by decide)
  unfold State.fillPass
  dsimp only
  rw [if_neg (by simp [up, inUse, clocked, awake]), due]
  dsimp only
  rw [if_neg (by simp)]
  simp only [State.kcyc, stroke]
  rfl

/-- An array takes no pass when a condition of it fails, when it owes none, or when the command brings another one than
is due. -/
theorem State.fillPass_none (h : s.coreUp d c = false ∨ s.get (Base.core d c) Reg.withdrawn a = 1 ∨
    s.pins.gated = true ∨ s.awake = false ∨ s.fillTake d c a = none ∨ s.fillTake d c a = some (!first, y)) :
    s.fillPass d c a rec first = s := by
  unfold State.fillPass
  dsimp only
  split
  next => rfl
  next takes =>
    simp only [Bool.or_eq_true, Bool.not_eq_true', beq_iff_eq, not_or, Bool.not_eq_false, Bool.not_eq_true] at takes
    obtain ⟨⟨⟨up, inUse⟩, clocked⟩, awake⟩ := takes
    have due : s.fillTake d c a = none ∨ s.fillTake d c a = some (!first, y) := by
      simpa [up, inUse, clocked, awake] using h
    rcases due with due | due
    · rw [due]
    · rw [due]
      exact if_pos (by simp)

end

/-! Counting gated cycles (R113, log 181) -/

theorem State.clockGate_serving {s : State} {d c a cycle now : Nat} {x : Arr} (awake : s.awake = true)
    (up : s.coreUp d c = true) (arr : s.arr d c a = x) (at' : now = s.strokes.cycles + min cycle s.strokeCycles) :
    s.clockGate d c a cycle = (s.count (Base.core d c) Reg.gatedKcyc ((x.gatedRem + (x.gate + x.gatedNow now)) / 1000)
      a).setArr d c a { x with gate := 0, gateFrom := x.gateFrom + x.gatedNow now,
                               gatedRem := (x.gatedRem + (x.gate + x.gatedNow now)) % 1000 } := by
  subst arr at'
  unfold State.clockGate
  rw [if_pos (by simp [awake, up])]
  rfl

theorem State.sameButCores_count (s : State) (b : Nat) (f : Fld) (n i : Nat) : SameButCores s (s.count b f n i) :=
  Eq.trans rfl rfl

theorem State.sameButCores_setArr (s : State) (d c a : Nat) (x : Arr) : SameButCores s (s.setArr d c a x) :=
  Eq.trans rfl rfl

theorem State.clockGate_none {s : State} {d c a cycle : Nat} (h : s.awake = false ∨ s.coreUp d c = false) :
    s.clockGate d c a cycle = s := by
  unfold State.clockGate
  rw [if_neg]
  rcases h with h | h <;> simp [h]

/-! O41 -/

section
variable {s : State} {d c a : Nat} {y : Arr} {rec : BitVec 128} {first : Bool} (hd : d < 8) (hc : c < 48) (ha : a < 8)
  (takes : s.TakesPass d c a)

include hc ha takes in
/-- Before its record is compared, a pass finds the core, the patterns and the repeats as they were. -/
theorem State.TakesPass.ran (y : Arr) : s.WorkStep (s.passRun d c a y) ∧
    (s.passRun d c a y).faults = s.faults ∧ (s.passRun d c a y).coreUp d c = true ∧
    (s.passRun d c a y).findRetest d c a = s.findRetest d c a ∧
    (∀ r, ((s.passRun d c a y).addReason ((s.passRun d c a y).boundCtxs (uid d c)) r).units =
      (s.addReason (s.boundCtxs (uid d c)) r).units) := by
  have ran := s.workStep_passRun d hc ha y
  have faults := State.faults_of_offWork ran.1
  refine ⟨ran, faults, ?_, State.findRetest_congr faults .., fun r => State.addReason_units_congr
    (State.units_of_offWork ran.1) ran.sched (State.boundCtxs_congr faults _) r⟩
  rw [State.coreUp, State.isFenced_congr faults]
  exact takes.up

variable (due : s.fillTake d c a = some (first, y))
include hc ha takes due

include hd in
theorem fillPass_next {p : Nat} (next : s.get (Base.core d c) Reg.nextPat a = p)
    (owed : s.findRetest d c a = none ∨ first = false) :
    ∃ t, s.fillPass d c a rec first = t ∧
      t.get (Base.core d c) Reg.nextPat a = (p + 1) % 16 ∧ t.mem = s.mem ∧
      t.get (Base.core d c) Reg.fillPasses a =
        min (s.get (Base.core d c) Reg.fillPasses a + 1) (2 ^ Reg.fillPasses.w - 1) ∧
      (t.arr d c a).gaps = y.gaps ∧ (t.arr d c a).inserted = y.inserted ∧
      (rec = Config.fillRecord p → t.units = s.units ∧ t.faults = s.faults) ∧
      (rec ≠ Config.fillRecord p → t.units = (s.addReason (s.boundCtxs (uid d c)) Reason.selftest).units ∧
        (t.findRetest d c a).isSome = true) := by
  obtain ⟨ran, faults, up, retest, marked⟩ := takes.ran hc ha y
  obtain ⟨mem, cores, nextPat, passes, fine, bad⟩ := State.fillCheck_next_shows (rec := rec) hd hc ha up
    (by rw [retest]; exact owed) ((s.passRun_get d c a y (by decide) (by decide)).trans next)
  have shown := ((s.passRun d c a y).fillCheck d c a rec first).workStep_passShown d hc ha
  have arr := State.arr_congr ((State.passShown_cores _ d c a).trans cores) d c a
  rw [s.passRun_arr] at arr
  have units := State.units_of_offWork shown.1
  have faults' := State.faults_of_offWork shown.1
  refine ⟨_, State.fillPass_due hc takes due ha, ?_, ?_, ?_, by rw [arr], by rw [arr],
    fun same => ?_, fun differs => ?_⟩
  · rw [State.passShown_get _ _ _ _ (by decide), nextPat]
  · rw [State.mem_of_offWork shown.1, mem, State.mem_of_offWork ran.1]
  · rw [State.passShown_get _ _ _ _ (by decide), passes, State.passRun_fillPasses]
  · obtain ⟨sameUnits, sameFaults⟩ := fine same
    exact ⟨units.trans (sameUnits.trans (State.units_of_offWork ran.1)), faults'.trans (sameFaults.trans faults)⟩
  · obtain ⟨reason, repeats⟩ := bad differs
    exact ⟨units.trans (reason.trans (marked _)), by rw [State.findRetest_congr faults']; exact repeats⟩

variable {r : Retest} (owed : s.findRetest d c a = some r) (begins : first = true)
include owed begins

theorem fillPass_repeat_matches {p : Nat} (next : s.get (Base.core d c) Reg.nextPat a = p)
    (same : rec = Config.fillRecord r.pattern) :
    ∃ t, s.fillPass d c a rec first = t ∧ t.get (Base.core d c) Reg.nextPat a = p ∧ t.units = s.units ∧
      t.mem = s.mem ∧ (r.left ≤ 1 → t.findRetest d c a = none) := by
  subst begins
  obtain ⟨ran, -, -, retest, -⟩ := takes.ran hc ha y
  have check := (State.fillCheck_repeat (retest.trans owed)).trans (if_pos same)
  obtain ⟨-, -, units, mem, -, regs⟩ := (s.passRun d c a y).setRetest_rest d c a
    (if r.left ≤ 1 then none else some { r with left := r.left - 1 })
  have shown := ((s.passRun d c a y).fillCheck d c a rec true).workStep_passShown d hc ha
  refine ⟨_, State.fillPass_due hc takes due ha, ?_, ?_, ?_, fun last => ?_⟩
  · rw [State.passShown_get _ _ _ _ (by decide), check, State.get_of_regs regs,
      State.passRun_get _ _ _ _ _ (by decide) (by decide), next]
  · rw [State.units_of_offWork shown.1, check, units, State.units_of_offWork ran.1]
  · rw [State.mem_of_offWork shown.1, check, mem, State.mem_of_offWork ran.1]
  · rw [State.findRetest_congr (State.faults_of_offWork shown.1), check, if_pos last, State.findRetest_setRetest_none]

include hd in
theorem fillPass_repeat_differs (differs : rec ≠ Config.fillRecord r.pattern)
    (stands : s.goneUnit (uid d c) = false) :
    ∃ t, s.fillPass d c a rec first = t ∧ t.get (Base.core d c) Reg.withdrawn a = 1 ∧
      (∃ q, (uid d c, q) ∈ t.faults.toFence) ∧
      t.units = (s.addReason (s.boundCtxs (uid d c)) Reason.selftest).units ∧ t.mem = s.mem := by
  subst begins
  obtain ⟨ran, faults, up, retest, marked⟩ := takes.ran hc ha y
  obtain ⟨mem, withdrawn, units, fence⟩ := State.fillCheck_repeat_differs (rec := rec) hd hc ha up
    (retest.trans owed) differs (by rw [State.goneUnit_congr (s := s) (by rw [faults]) (by rw [faults])]; exact stands)
  have shown := ((s.passRun d c a y).fillCheck d c a rec true).workStep_passShown d hc ha
  refine ⟨_, State.fillPass_due hc takes due ha, ?_, ?_, ?_, ?_⟩
  · rw [State.passShown_get _ _ _ _ (by decide), withdrawn]
  · rw [State.faults_of_offWork shown.1]
    exact fence
  · rw [State.units_of_offWork shown.1, units, marked]
  · rw [State.mem_of_offWork shown.1, mem, State.mem_of_offWork ran.1]

end

/-- Settles O41: a pass that is due is `State.fillPass_due`, whose comparison moves NEXT_PAT on (`fillPass_next`) or
repeats a pattern (`fillPass_repeat_matches`, `fillPass_repeat_differs`); gated cycles are `State.clockGate_serving`. -/
theorem fillPassesAndGating : Obligations.FillPassesAndGating := by
  unfold Obligations.FillPassesAndGating
  intro s die core arr record first p r x y cycles now
  have hc := core.isLt
  have run : exec (.fillPass die core arr record first) s =
      .next (s.fillPass die.val core.val arr.val record first) := rfl
  have gate : exec (.arrayClockGate die core arr cycles) s =
      .next (s.clockGate die.val core.val arr.val cycles.toNat) := rfl
  refine ⟨fun up inUse clocked awake next due => ?_, fun none' => ?_, fun awake up at' when' => ?_, fun out => ?_⟩
  · have takes : s.TakesPass die.val core.val arr.val := ⟨up, inUse, clocked, awake⟩
    refine ⟨fun owed => ?_, fun owed begins => ⟨fun same => ?_, fun differs stands => ?_⟩⟩
    · obtain ⟨t, eq, shows⟩ := fillPass_next (rec := record) die.isLt hc arr.isLt takes due next owed
      exact ⟨t, run.trans (congrArg _ eq), shows⟩
    · obtain ⟨t, eq, shows⟩ :=
        fillPass_repeat_matches hc arr.isLt takes due owed begins next same
      exact ⟨t, run.trans (congrArg _ eq), shows⟩
    · obtain ⟨t, eq, shows⟩ :=
        fillPass_repeat_differs die.isLt hc arr.isLt takes due owed begins differs stands
      exact ⟨t, run.trans (congrArg _ eq), shows⟩
  · exact run.trans (congrArg _ (State.fillPass_none none'))
  · refine ⟨_, gate.trans (congrArg _ (State.clockGate_serving awake up at' when')), State.arr_setArr .., ?_, ?_, ?_⟩
    · rw [State.setArr_get, State.get_count_same _ _ _ _ _ (by decide)]
    · exact (OnlyFields.count s _ _ _ _ (by decide) List.mem_cons_self).trans
        (OnlyFields.of_regs _ (State.setCore_regs ..))
    · exact (State.sameButCores_setArr ..).trans (State.sameButCores_count ..)
  · exact gate.trans (congrArg _ (State.clockGate_none out))

end Sys2Proof.Machine
end

section
/-! PROOFS. What a command that moves operands leaves of its core's sequencer: loads, stores and the checks of the sum
buffer (R146, R236 to R238, R433). -/

namespace Sys2Proof.Machine

/-! Traffic to memory changes no core, and no core's register -/

/-- `t` has the cores of `s` and the registers of blocks 0x02 (R35). -/
structure State.Quiet (s t : State) : Prop where
  cores : t.cores = s.cores
  regs : ∀ a, blockOf a = 0x02 → t.reg a = s.reg a

namespace State.Quiet

theorem refl (s : State) : s.Quiet s := ⟨rfl, fun _ _ => rfl⟩

theorem trans {s t u : State} (h : s.Quiet t) (k : t.Quiet u) : s.Quiet u :=
  ⟨k.cores.trans h.cores, fun a ha => (k.regs a ha).trans (h.regs a ha)⟩

/-- Beside registers of other blocks, only fields that are no core's are changed. -/
theorem of_contents {s t : State} (h : t.contents = s.contents) (regs : ∀ a, blockOf a = 0x02 → t.reg a = s.reg a) :
    s.Quiet t := ⟨State.cores_of_contents h, regs⟩

theorem log (s : State) (unit action : Nat) (ctx : Option Nat) (source index detail : Nat) :
    s.Quiet (s.log unit action ctx source index detail) :=
  .of_contents (State.log_contents ..) fun a ha => State.log_reg s _ _ _ _ _ _ (by rw [ha]; decide) (by rw [ha]; decide)

theorem count_errors (s : State) (unit : Nat) {f : Fld} (n : Nat) (hf : f.off + 0 * f.step < 0x10000) :
    s.Quiet (s.count (Base.errors unit) f n) :=
  .of_contents (State.count_contents ..) fun a ha =>
    State.count_errors_reg s _ _ hf (by rw [ha]; decide) (by rw [ha]; decide)

theorem count_ddr (s : State) (ch : Nat) {f : Fld} (n : Nat) (hf : f.off + 0 * f.step < 0x1000) :
    s.Quiet (s.count (Base.ddr ch) f n) := by
  refine .of_contents (State.count_contents ..) fun a ha => State.reg_count_other s _ _ _ _ fun same => ?_
  rw [same, Nat.add_assoc, blockOf_ddr ch hf] at ha
  exact absurd ha (by decide)

theorem addReason (s : State) (ctxs : List Nat) (r : Nat) : s.Quiet (s.addReason ctxs r) := ⟨rfl, fun _ _ => rfl⟩

theorem report (s : State) (u : UnitId) (r source index detail : Nat) (ctx : Option Nat) :
    s.Quiet (s.report u r source index detail ctx) := by
  unfold State.report
  split
  · exact refl s
  · exact (addReason ..).trans (log ..)

theorem trigger (s : State) (kind : Nat) (u : UnitId) (detail : Nat) : s.Quiet (s.trigger kind u detail) :=
  ⟨rfl, fun _ _ => rfl⟩

theorem inFrame (s : State) (k n : Nat) : s.Quiet (s.inFrame k n) := ⟨rfl, fun _ _ => rfl⟩

theorem quarantine (s : State) (u : UnitId) (source index detail : Nat) :
    s.Quiet (s.quarantine u source index detail) :=
  ⟨State.quarantine_cores .., fun a _ => by rw [State.reg, State.quarantine_regs, State.reg]⟩

theorem quarantine_ite {s t : State} (h : s.Quiet t) (p : Prop) [Decidable p] (u : UnitId) (source index detail : Nat) :
    s.Quiet (if p then t.quarantine u source index detail else t) := by
  split
  · exact h.trans (quarantine ..)
  · exact h

theorem scratchBad (s : State) (die core a : Nat) : s.Quiet (s.scratchBad die core a) :=
  quarantine_ite (((count_errors s die 1 (by decide)).trans (report ..)).trans (trigger ..)) ..

theorem ddrBad (s : State) (ch a : Nat) : s.Quiet (s.ddrBad ch a) :=
  quarantine_ite (((count_ddr s ch 1 (by decide)).trans (report ..)).trans (inFrame ..)) ..

theorem mergeBad (s : State) (a : Nat) : s.Quiet (s.mergeBad a) := by
  unfold State.mergeBad
  split
  · exact (count_errors s _ 1 (by decide)).trans (log ..)
  · exact (count_ddr s _ 1 (by decide)).trans (log ..)

theorem ddrTraffic (s : State) (a : Nat) (write : Bool) (bytes : Nat) : s.Quiet (s.ddrTraffic a write bytes) :=
  .of_contents (s.ddrTraffic_contents a write bytes) fun r hr => s.ddrTraffic_reg a write bytes (by rw [hr]; decide)

/-- Another memory, and what follows from it. -/
theorem withMem {s t : State} {m : Mem} (h : { s with mem := m }.Quiet t) : s.Quiet t := ⟨h.cores, h.regs⟩

theorem load (s : State) (a : Nat) (merge : Bool) : s.Quiet (s.load a merge).2 := by
  have traffic := ddrTraffic s a false 8
  unfold State.load
  dsimp only
  split
  next => exact traffic
  next =>
    split
    next => exact traffic.trans (.withMem ((count_errors _ _ 1 (by decide)).trans (log ..)))
    next => exact traffic.trans (.withMem (((count_ddr _ _ 1 (by decide)).trans (inFrame ..)).trans (log ..)))
  next =>
    split
    next => exact traffic.trans (mergeBad ..)
    next =>
      split
      next => exact traffic.trans (scratchBad ..)
      next => exact traffic.trans (ddrBad ..)

theorem store (s : State) (a : Nat) (w : TWord) : s.Quiet (s.store a w) := by
  unfold State.store
  dsimp only
  split
  next => exact .withMem (ddrTraffic ..)
  next => exact .withMem ((ddrTraffic ..).trans ((count_errors _ _ 1 (by decide)).trans (log ..)))
  next => exact .withMem ((ddrTraffic ..).trans ((count_ddr _ _ 1 (by decide)).trans (log ..)))
  next => exact .withMem (ddrTraffic ..)
  next => exact .withMem ((ddrTraffic ..).trans ((count_ddr _ _ 1 (by decide)).trans (log ..)))

theorem loads (s : State) (a n : Nat) : s.Quiet (s.loads a n).2 := by
  induction n generalizing s a with
  | zero => exact refl s
  | succ n ih => exact (load s a false).trans (ih _ _)

theorem loadBytes (s : State) (a n : Nat) : s.Quiet (s.loadBytes a n).2 := loads ..

theorem storeBytesGo (s : State) (fuel a : Nat) (bs : List Byte) : s.Quiet (s.storeBytesGo fuel a bs) := by
  induction fuel generalizing s a bs with
  | zero => exact refl s
  | succ n ih =>
    cases bs with
    | nil => exact refl s
    | cons b bs =>
      rw [State.storeBytesGo]
      · refine trans ?_ (ih _ _ _)
        split
        · exact store ..
        · exact (load ..).trans (store ..)
      · rintro ⟨⟩

theorem storeBytes (s : State) (a : Nat) (bs : List Byte) : s.Quiet (s.storeBytes a bs) := storeBytesGo ..

end State.Quiet

/-! What a command does with an array keeps the core's block -/

/-- `t` runs the block of a core as `s` does, and has the registers of blocks 0x02. -/
structure State.Feeds (s t : State) (d c : Nat) : Prop where
  block : (t.core d c).block = (s.core d c).block
  regs : ∀ a, blockOf a = 0x02 → t.reg a = s.reg a

namespace State.Feeds

variable {s t u : State} {d c : Nat}

theorem refl (s : State) (d c : Nat) : s.Feeds s d c := ⟨rfl, fun _ _ => rfl⟩

theorem trans (h : s.Feeds t d c) (k : t.Feeds u d c) : s.Feeds u d c :=
  ⟨k.block.trans h.block, fun a ha => (k.regs a ha).trans (h.regs a ha)⟩

theorem of_quiet (h : s.Quiet t) : s.Feeds t d c := ⟨by rw [State.core, h.cores, State.core], h.regs⟩

theorem setArr (s : State) (d c a : Nat) (x : Arr) : s.Feeds (s.setArr d c a x) d c :=
  ⟨by simp [State.setArr], fun _ _ => rfl⟩

theorem foldl {α : Type} (f : State → α → State) (l : List α) (s : State) (h : ∀ (t : State) x, t.Feeds (f t x) d c) :
    s.Feeds (l.foldl f s) d c := by
  induction l generalizing s with
  | nil => exact refl s d c
  | cons x l ih => exact (h s x).trans (ih _)

theorem pairSeen (s : State) (d c a i : Nat) (v : Word) (o : Ecc) : s.Feeds (s.pairSeen d c a i v o) d c := by
  cases o with
  | clean => exact setArr ..
  | fixed => exact (setArr ..).trans (of_quiet ((State.Quiet.count_errors _ _ 1 (by decide)).trans (.log ..)))
  | bad => exact (setArr ..).trans (of_quiet ((State.Quiet.count_errors _ _ 1 (by decide)).trans (.report ..)))

theorem pairsCheck (s : State) (d c a lo hi : Nat) : s.Feeds (s.pairsCheck d c a lo hi) d c :=
  foldl _ _ _ fun _ _ => pairSeen ..

theorem arrLoad (s : State) (d c : Nat) (q : Matmul) : s.Feeds (s.arrLoad d c q) d c := by
  have read := State.Quiet.loadBytes s (scratchAddr d c q.tile) q.total
  unfold State.arrLoad
  generalize s.loadBytes (scratchAddr d c q.tile) q.total = r at read ⊢
  obtain ⟨bs, t⟩ := r
  dsimp only
  split
  · exact (of_quiet read).trans (setArr ..)
  · exact setArr ..

theorem rowScales (s : State) (d c : Nat) (q : Matmul) (m : Nat) : s.Feeds (s.rowScales d c q m).2 d c := by
  unfold State.rowScales
  split
  · exact of_quiet (State.Quiet.loadBytes ..)
  · exact refl ..

theorem rowResult (s : State) (d c : Nat) (q : Matmul) (mode : Mode) (m : Nat) :
    s.Feeds (s.rowResult d c q mode m).2 d c := by
  have read := State.Quiet.loadBytes s (scratchAddr d c (q.act + m * q.rowBytes)) q.rowBytes
  unfold State.rowResult
  generalize s.loadBytes (scratchAddr d c (q.act + m * q.rowBytes)) q.rowBytes = r at read ⊢
  obtain ⟨bs, t⟩ := r
  exact (of_quiet read).trans (rowScales ..)

theorem rowResults (s : State) (d c : Nat) (q : Matmul) (mode : Mode) (left : Nat) :
    s.Feeds (s.rowResults d c q mode left).2 d c := by
  induction left generalizing s with
  | zero => exact refl s d c
  | succ n ih => exact (rowResult ..).trans (ih _)

theorem storeRows (s : State) (d c : Nat) (q : Matmul) (n : Nat) (runs : List (List (List Num))) :
    s.Feeds (s.storeRows d c q n runs) d c :=
  foldl _ _ _ fun _ _ => foldl _ _ _ fun _ _ => foldl _ _ _ fun _ _ => of_quiet (State.Quiet.storeBytes ..)

theorem drain (s : State) (d c : Nat) (b : BlockRun) (q : Matmul) (mode : Mode) (results : List (List Num)) :
    s.Feeds (s.drain d c b q mode results) d c := by
  unfold State.drain
  dsimp only
  split
  · exact setArr ..
  · exact storeRows ..
  · split
    · exact refl ..
    · exact ⟨by simp, fun _ _ => rfl⟩
  · exact of_quiet (State.Quiet.storeBytes ..)

end State.Feeds

end Sys2Proof.Machine
end

section
/-! PROOFS. MATMUL: its issue, the cycles it takes and its causes (R95, R97, R127, R133). -/

namespace Sys2Proof.Machine

/-- A command that meets a cause of its own alone aborts its block with its lowest cause (R133). -/
theorem State.seqCmd_cause {s : State} {d c op nw : Nat} {b : BlockRun} {ws : List Word}
    (command : AtCommand s d c op nw b ws) (words : opWords op = some nw) {causes : BlockRun → List Word → List Nat}
    {cause : Nat} (lowest : minBy id (causes b ws) = some cause) (run : BlockRun → List Word → State) :
    s.seqCmd d c op causes run = s.malformed d c cause b.pc := by
  obtain ⟨block, open', up, eq, code, count, inside, early⟩ := command
  have first : ws.getD 0 0 = s.fetch d c b.pc := by rw [eq]; simp [List.range_succ_eq_map]
  rw [first] at code count early
  unfold State.seqCmd
  rw [block]
  dsimp only
  rw [if_neg (by simp [open', up]), code, words]
  dsimp only
  rw [if_neg (by omega), if_neg (by simp), ← eq, if_neg (by omega), List.nil_append]
  cases at' : effAt b (s.fetch d c b.pc) with
  | none => rw [List.append_nil, lowest]
  | some a =>
    dsimp only
    rw [if_neg fun late => Nat.not_lt.2 (early a at') late.2.2, List.append_nil, lowest]

/-! The parts of a MATMUL -/

/-- The command has issued, its weights are loaded, and its array shows its mode. -/
def State.matmulIssued (s : State) (d c : Nat) (b : BlockRun) (w0 : Word) (q : Matmul) (mode : Mode) : State :=
  let ready := (s.arr d c q.arr).ready - b.edge
  ((s.issue d c { b with done := max b.done (issueAt b w0 ready + q.cycles mode.n + 84) } w0 ready 2).arrLoad d c q).put
    (Base.core d c) Reg.arrMode mode.code q.arr

/-- Its rows are summed and drained. -/
def State.matmulSummed (s : State) (d c : Nat) (b : BlockRun) (q : Matmul) (mode : Mode) : State :=
  let r := s.rowResults d c q mode q.m
  let s := if q.m = 0 then r.2 else r.2.pairsCheck d c q.arr (q.entries mode q.sbase).1 (q.entries mode q.sbase).2
  let s := if q.m ≠ 0 ∧ q.dual = true then
    s.pairsCheck d c q.arr (q.entries mode q.sbase2).1 (q.entries mode q.sbase2).2 else s
  if q.m = 0 then s else s.drain d c b q mode r.1

/-- Its cycles are counted, and its array is taken from cycle `t` on. -/
def State.matmulTaken (s : State) (d c : Nat) (b : BlockRun) (q : Matmul) (mode : Mode) (t : Nat) : State :=
  let n := (s.arr d c q.arr).issueRem + if q.m = 0 then 0 else q.cycles mode.n
  let s := s.count (Base.core d c) Reg.issueKcyc (n / 1000) q.arr
  s.setArr d c q.arr { (s.arr d c q.arr).accept t (q.cycles mode.n) (q.moved mode.n) s.stroke
    (s.workStaged b.ctx b.kind b.seq) with issueRem := n % 1000 }

theorem State.matmulRun_eq (s : State) (d c : Nat) (b : BlockRun) (ws : List Word) (q : Matmul) (mode : Mode) :
    s.matmulRun d c b ws q mode = ((s.matmulIssued d c b (ws.getD 0 0) q mode).matmulSummed d c b q mode).matmulTaken
      d c b q mode (b.edge + issueAt b (ws.getD 0 0) ((s.arr d c q.arr).ready - b.edge)) := by
  rfl

theorem State.feeds_matmulSummed (s : State) (d c : Nat) (b : BlockRun) (q : Matmul) (mode : Mode) :
    s.Feeds (s.matmulSummed d c b q mode) d c := by
  have rows := State.Feeds.rowResults s d c q mode q.m
  unfold State.matmulSummed
  generalize s.rowResults d c q mode q.m = r at rows ⊢
  obtain ⟨sums, t⟩ := r
  dsimp only
  by_cases none' : q.m = 0
  · simpa [none'] using rows
  · simp only [none', if_false, ne_eq, not_false_eq_true, true_and]
    refine rows.trans (.trans (.pairsCheck t d c q.arr (q.entries mode q.sbase).1 (q.entries mode q.sbase).2) ?_)
    split
    · exact (State.Feeds.pairsCheck ..).trans (.drain ..)
    · exact .drain ..

/-! What a MATMUL leaves -/

theorem Mode.code_lt (mode : Mode) : mode.code % 2 ^ Reg.arrMode.w = mode.code := by cases mode <;> rfl

/-- Accepting a command leaves the sum buffer alone. -/
theorem Arr.accept_sum (x : Arr) (t cyc moved stroke : Nat) (staged : Bool) :
    (x.accept t cyc moved stroke staged).sum = x.sum ∧ (x.accept t cyc moved stroke staged).gen = x.gen := by
  have gap : (x.gapEnd t).sum = x.sum ∧ (x.gapEnd t).gen = x.gen := by
    unfold Arr.gapEnd
    dsimp only
    split
    · exact ⟨rfl, rfl⟩
    · split
      · exact ⟨rfl, rfl⟩
      · split <;> exact ⟨rfl, rfl⟩
  exact gap

theorem State.matmulTaken_arr (s : State) (d c : Nat) (b : BlockRun) (q : Matmul) (mode : Mode) (t : Nat) :
    ((s.matmulTaken d c b q mode t).arr d c q.arr).ready = t + q.cycles mode.n ∧
      ((s.matmulTaken d c b q mode t).arr d c q.arr).sum = (s.arr d c q.arr).sum ∧
      ((s.matmulTaken d c b q mode t).arr d c q.arr).gen = (s.arr d c q.arr).gen := by
  unfold State.matmulTaken
  dsimp only
  rw [State.arr_setArr]
  refine ⟨rfl, ?_, ?_⟩
  · rw [(Arr.accept_sum ..).1, State.arr_congr (State.count_cores ..)]
  · rw [(Arr.accept_sum ..).2, State.arr_congr (State.count_cores ..)]

theorem State.matmulTaken_block (s : State) (d c : Nat) (b : BlockRun) (q : Matmul) (mode : Mode) (t : Nat) :
    ((s.matmulTaken d c b q mode t).core d c).block = (s.core d c).block := by
  unfold State.matmulTaken
  dsimp only
  rw [(State.Feeds.setArr ..).block, State.core, State.count_cores, State.core]

theorem State.matmulTaken_get (s : State) (d c : Nat) (b : BlockRun) (q : Matmul) (mode : Mode) (t : Nat) {f : Fld}
    {i : Nat} (apart : f.off + i * f.step ≠ Reg.issueKcyc.off + q.arr * Reg.issueKcyc.step) :
    (s.matmulTaken d c b q mode t).get (Base.core d c) f i = s.get (Base.core d c) f i := by
  unfold State.matmulTaken
  dsimp only
  rw [State.setArr_get, State.get_count_addr _ _ _ _ _ _ _ _ (by omega)]

/-- The sums and the drain of a MATMUL leave the registers that its issue set. -/
theorem State.matmulSummed_get (s : State) (d : Nat) {c : Nat} (hc : c < 48) (b : BlockRun) (q : Matmul) (mode : Mode)
    {f : Fld} {i : Nat} (ho : f.off + i * f.step < 0x400) :
    (s.matmulSummed d c b q mode).get (Base.core d c) f i = s.get (Base.core d c) f i := by
  rw [State.get, (s.feeds_matmulSummed d c b q mode).regs _ (by rw [Nat.add_assoc]; exact blockOf_core d hc ho),
    State.get]

section
variable {s : State} {d c : Nat} {b : BlockRun} {w0 : Word} {q : Matmul} {mode : Mode} (hc : c < 48) (ha : q.arr < 8)
include hc ha

theorem State.matmulIssued_shows : ((s.matmulIssued d c b w0 q mode).core d c).block =
    some ({ b with done := max b.done (issueAt b w0 ((s.arr d c q.arr).ready - b.edge) + q.cycles mode.n + 84) }.issued
      w0 ((s.arr d c q.arr).ready - b.edge) 2) ∧
    (s.matmulIssued d c b w0 q mode).get (Base.core d c) Reg.seqPc =
      (b.issued w0 ((s.arr d c q.arr).ready - b.edge) 2).pc % 2 ^ Reg.seqPc.w ∧
    (s.matmulIssued d c b w0 q mode).get (Base.core d c) Reg.arrMode q.arr = mode.code := by
  obtain ⟨block, pc⟩ := s.issue_block d c
    { b with done := max b.done (issueAt b w0 ((s.arr d c q.arr).ready - b.edge) + q.cycles mode.n + 84) } w0
    ((s.arr d c q.arr).ready - b.edge) 2
  unfold State.matmulIssued
  dsimp only
  refine ⟨?_, ?_, ?_⟩
  · rw [State.core_put, (State.Feeds.arrLoad ..).block, block]
  · rw [State.get_put_addr _ _ _ _ _ _ _ _ (by simp only [Reg.seqPc, Reg.arrMode]; omega), State.get,
      (State.Feeds.arrLoad ..).regs _ (by rw [Nat.add_assoc]; exact blockOf_core d hc (by decide))]
    exact pc
  · rw [State.get_put_same _ _ _ _ _ (by decide), mode.code_lt]

theorem matmulRun_issued (ws : List Word) : Issued s (s.matmulRun d c b ws q mode) d c 2
    ((s.arr d c q.arr).ready - b.edge) b (ws.getD 0 0) := by
  obtain ⟨block, pc, -⟩ := State.matmulIssued_shows (s := s) (d := d) (b := b) (w0 := ws.getD 0 0) (mode := mode) hc ha
  have pending := congrArg Prod.fst (State.matmulRun_kept s d c b ws q mode)
  rw [State.matmulRun_eq] at pending ⊢
  rw [← (State.feeds_matmulSummed _ d c b q mode).block, ← State.matmulTaken_block _ d c b q mode (b.edge +
    issueAt b (ws.getD 0 0) ((s.arr d c q.arr).ready - b.edge))] at block
  refine ⟨_, block, rfl, rfl, rfl, ?_, pending⟩
  · rw [State.matmulTaken_get _ _ _ _ _ _ _ (by simp only [Reg.seqPc, Reg.issueKcyc]; omega),
      State.matmulSummed_get _ _ hc _ _ _ (by decide)]
    exact pc

theorem matmulRun_array (ws : List Word) :
    (s.matmulRun d c b ws q mode).get (Base.core d c) Reg.arrMode q.arr = mode.code ∧
    ((s.matmulRun d c b ws q mode).arr d c q.arr).ready =
      b.edge + issueAt b (ws.getD 0 0) ((s.arr d c q.arr).ready - b.edge) + q.cycles mode.n := by
  obtain ⟨-, -, shown⟩ := State.matmulIssued_shows (s := s) (d := d) (b := b) (w0 := ws.getD 0 0) (mode := mode) hc ha
  rw [State.matmulRun_eq]
  constructor
  · rw [State.matmulTaken_get _ _ _ _ _ _ _ (by simp only [Reg.arrMode, Reg.issueKcyc]; omega),
      State.matmulSummed_get _ _ hc _ _ _ (by simp only [Reg.arrMode]; omega), shown]
  · exact (State.matmulTaken_arr ..).1

end

end Sys2Proof.Machine
end

section
/-! PROOFS. One row of INT8 products in the sum buffer (R90, R92, R98, R104). -/

namespace Sys2Proof.Machine

/-! Lists cut into pieces, and values set out by their index -/

theorem chunks_eq {α : Type} {n : Nat} (hn : 0 < n) {m fuel : Nat} {l : List α} (len : l.length = n * m)
    (enough : m ≤ fuel) : chunks n fuel l = (List.range m).map fun i => (l.drop (n * i)).take n := by
  induction m generalizing l fuel with
  | zero =>
    obtain rfl : l = [] := List.length_eq_zero_iff.1 len
    cases fuel <;> rfl
  | succ m ih =>
    obtain ⟨f, rfl⟩ : ∃ f, fuel = f + 1 := ⟨fuel - 1, by omega⟩
    cases l with
    | nil =>
      have : 0 < n * (m + 1) := Nat.mul_pos hn m.succ_pos
      simp at len
      omega
    | cons a l =>
      have rest : ((a :: l).drop n).length = n * m := by rw [List.length_drop, len, Nat.mul_succ, Nat.add_sub_cancel]
      rw [chunks, ih rest (by omega), List.range_succ_eq_map, List.map_cons, List.map_map]
      · simp only [Function.comp_def, Nat.mul_zero, List.drop_zero, List.drop_drop, Nat.mul_succ, Nat.add_comm n]
      · rintro ⟨⟩

theorem chunks_one {α : Type} (l : List α) : chunks 1 l.length l = l.map fun a => [a] := by
  induction l with
  | nil => rfl
  | cons a l ih => exact congrArg ([a] :: ·) ih

theorem mapIdx_map_range {α β : Type} (f : Nat → α) (g : Nat → α → β) (n : Nat) :
    ((List.range n).map f).mapIdx g = (List.range n).map fun i => g i (f i) :=
  List.ext_getElem (by simp) fun i _ _ => by simp

/-! Integers of 8 bits (Table 03.8), and sums of 32 bits -/

/-- The value of an element of an INT8 or UINT8 row. -/
def byteVal (code x : Nat) : Int := if code = Code.uint8 then (x : Int) else sgn 8 x

/-- A code of INT8 or UINT8. -/
def IsByte (code : Nat) : Prop := code = Code.int8 ∨ code = Code.uint8

theorem IsByte.elemBits {code : Nat} (h : IsByte code) : elemBits code = 8 := by rcases h with rfl | rfl <;> rfl

theorem IsByte.elemNum {code : Nat} (h : IsByte code) (x : Nat) : elemNum code x = .int (byteVal code x) := by
  rcases h with rfl | rfl <;> rfl

theorem IsByte.unpack {code : Nat} (h : IsByte code) (bs : List Byte) : unpack code bs = bs.map BitVec.toNat := by
  rw [Machine.unpack, h.elemBits, if_neg (by decide)]
  have one : (8 / 8 : Nat) = 1 := rfl
  rw [one, chunks_one, List.map_map]
  exact List.map_congr_left fun b _ => by simp [leNat]

/-- The modes of 8-bit integers take operands of 8-bit integers alone, with no MX scales (Table 03.10). -/
theorem modeOf_int8 {w a : Nat} {mx : Bool} (h : modeOf w a mx = some .int8) : mx = false ∧ IsByte w ∧ IsByte a := by
  unfold modeOf at h
  dsimp only at h
  split at h
  · split at h
    · cases h
    · split at h <;> cases h
  · next plain =>
    refine ⟨by simpa using plain, ?_⟩
    split at h
    · cases h
    · split at h
      · cases h
      · split at h
        · next bytes => simpa [IsByte] using bytes
        · split at h
          · cases h
          · split at h <;> cases h

theorem unsgn_lt (i : Int) : unsgn 32 i < 2 ^ 32 := by unfold unsgn; omega

/-- A sum as its entry holds it is that sum modulo 2^32 (R104). -/
theorem unsgn_sgn (i : Int) : unsgn 32 (sgn 32 (unsgn 32 i)) = unsgn 32 i := by
  unfold sgn unsgn
  split <;> omega

/-! A row of the sum buffer (R90) -/

/-- The array whose buffer holds integers in the columns of a row. -/
def Arr.withRow (x : Arr) (cols row : Nat) (f : Nat → Int) : Arr :=
  { x with sum := (List.range cols).foldl (fun c n =>
      cset (fun _ => none) c (row * cols + n) (some (BitVec.ofNat 32 (unsgn 32 (f n))))) x.sum }

theorem Arr.foldl_setEntry (k v : Nat → Nat) (l : List Nat) (x : Arr) :
    l.foldl (fun x n => x.setEntry (k n) (v n)) x =
      { x with sum := l.foldl (fun c n => cset (fun _ => none) c (k n) (some (BitVec.ofNat 32 (v n)))) x.sum } := by
  induction l generalizing x with
  | nil => rfl
  | cons n l ih => exact ih _

theorem Arr.withRow_sumAt (x : Arr) {cols n : Nat} (row : Nat) (f : Nat → Int) (hn : n < cols) :
    (x.withRow cols row f).sumAt false true cols row n = .int (sgn 32 (unsgn 32 (f n))) := by
  have entry : cget (fun _ => none) (x.withRow cols row f).sum (row * cols + n) =
      some (BitVec.ofNat 32 (unsgn 32 (f n))) :=
    cget_foldl_same (fun n => row * cols + n) _ _ List.nodup_range (fun _ _ => Nat.add_left_cancel)
      (List.mem_range.2 hn)
  have value : (x.withRow cols row f).entry (row * cols + n) = unsgn 32 (f n) := by
    rw [Arr.entry, entry]
    exact Nat.mod_eq_of_lt (unsgn_lt (f n))
  simp only [Arr.sumAt, value]
  rfl

/-- The value held for a column depends on the buffer alone. -/
theorem Arr.sumAt_congr {x y : Arr} (sum : y.sum = x.sum) (gen : y.gen = x.gen) (wide isInt : Bool) (cols row n : Nat) :
    y.sumAt wide isInt cols row n = x.sumAt wide isInt cols row n := by
  simp only [Arr.sumAt, Arr.entry, sum, gen]

/-- A MATMUL of one row that is kept in the sum buffer from an initial 0 and not negated: it moves no weights, and has
no second run, wide sums or scales of its columns. -/
structure Matmul.KeptRow (q : Matmul) : Prop where
  m : q.m = 1
  drain : q.drain = 0
  dual : q.dual = false
  load : q.load = false
  swap : q.swap = false
  wide : q.wide = false
  wcs : q.wcs = false
  init : q.init = true
  sign1 : q.sign1 = false

section
variable {q : Matmul} {mode : Mode}

theorem putRow_int (wide : q.wide = false) (x : Arr) (row : Nat) (f : Nat → Int) :
    putRow q mode x row ((List.range mode.n).map fun n => .int (f n)) = x.withRow mode.n row f := by
  unfold putRow
  rw [mapIdx_map_range, List.foldl_map, wide]
  exact Arr.foldl_setEntry (fun n => row * mode.n + n) (fun n => unsgn 32 (f n)) (List.range mode.n) x

/-- Adding integers to a row that holds integers (R104). -/
theorem addRow_int (wide : q.wide = false) (shift : q.shift = 0) (wcs : q.wcs = false) (int : mode.isInt = true)
    (x : Arr) (row : Nat) (f g : Nat → Int) :
    addRow q mode (x.withRow mode.n row g) row false ((List.range mode.n).map fun n => .int (f n)) =
      (x.withRow mode.n row g).withRow mode.n row fun n => sgn 32 (unsgn 32 (sgn 32 (unsgn 32 (g n)) + f n)) := by
  unfold addRow
  rw [mapIdx_map_range]
  refine Eq.trans (congrArg (putRow q mode _ row) (List.map_congr_left fun n hn => ?_)) (putRow_int wide _ row _)
  rw [wide, shift, wcs, int, Bool.not_false, Bool.and_true, Arr.withRow_sumAt _ _ _ (List.mem_range.1 hn)]
  simp [drainAdd]

/-- A row kept from an initial 0 leaves each column its sum modulo 2^32. -/
theorem accumulate_sumAt (kept : q.KeptRow) (shift : q.shift = 0) (int : mode.isInt = true) (x : Arr) (f : Nat → Int)
    {n : Nat} (hn : n < mode.n) :
    (accumulate q mode x [(List.range mode.n).map fun n => .int (f n)]).sumAt false true mode.n q.sbase n =
      .int (sgn 32 (unsgn 32 (f n))) := by
  obtain ⟨m, -, dual, -, -, wide, wcs, init, sign1⟩ := kept
  have zeros : (List.replicate mode.n (.int 0) : List Num) = (List.range mode.n).map fun _ => .int 0 := by
    rw [List.map_const', List.length_range]
  have eq : accumulate q mode x [(List.range mode.n).map fun n => .int (f n)] =
      addRow q mode (putRow q mode x q.sbase (List.replicate mode.n (.int 0))) q.sbase false
        ((List.range mode.n).map fun n => .int (f n)) := by
    unfold accumulate
    simp [dual, init, sign1, wcs, int, m]
  rw [eq, zeros, putRow_int wide x q.sbase fun _ => 0, addRow_int wide shift wcs int, Arr.withRow_sumAt _ _ _ hn]
  have zero : sgn 32 (unsgn 32 0) = 0 := by decide
  rw [zero, Int.zero_add, unsgn_sgn]

end

end Sys2Proof.Machine
end

section
/-! PROOFS. The columns of a row of INT8 elements, and the row read from the scratchpad (R92, R98, R101), and O29. -/

namespace Sys2Proof.Machine

/-! The columns of a row -/

/-- The sum of the 64 products of a column (R101). -/
def byteSum (q : Matmul) (set row : List Byte) (n : Nat) : Int :=
  ((List.range 64).map fun k => byteVal q.wfmt (set.getD (64 * n + k) 0).toNat *
    byteVal q.afmt (row.getD k 0).toNat).foldl (· + ·) 0

theorem zipWith_bytes {f : Nat → Nat → Int} {set row : List Byte} {n : Nat} (hn : n < 32) (hs : 2048 ≤ set.length)
    (hr : row.length = 64) :
    List.zipWith f ((((set.take 2048).map BitVec.toNat).drop (64 * n)).take 64) (row.map BitVec.toNat) =
      (List.range 64).map fun k => f (set.getD (64 * n + k) 0).toNat (row.getD k 0).toNat := by
  refine List.ext_getElem (by simp; omega) fun k hk _ => ?_
  have inRow : k < 64 := by simp at hk; omega
  simp only [List.getElem_zipWith, List.getElem_map, List.getElem_take, List.getElem_drop, List.getElem_range]
  rw [List.getD_eq_getElem _ _ (show 64 * n + k < set.length by omega),
    List.getD_eq_getElem _ _ (show k < row.length by omega)]

theorem columnSum_bytes {q : Matmul} (wcs : q.wcs = false) (hw : IsByte q.wfmt) (ha : IsByte q.afmt) (ws as : List Nat)
    (side scales : List Byte) (n : Nat) : columnSum q .int8 ws side as scales n =
      .int ((List.zipWith (fun w a => byteVal q.wfmt w * byteVal q.afmt a) ws as).foldl (· + ·) 0) := by
  have int : Mode.int8.isInt = true := rfl
  unfold columnSum
  rw [if_pos int, wcs]
  simp only [hw.elemNum, ha.elemNum]
  rfl

theorem rowColumns_bytes {q : Matmul} (wcs : q.wcs = false) (hw : IsByte q.wfmt) (ha : IsByte q.afmt) {x : Arr}
    {set row : List Byte} (active : x.active = some set) (hs : set.length = 2176) (hr : row.length = 64)
    (scales : List Byte) :
    rowColumns q .int8 x row scales = (List.range Mode.int8.n).map fun n => .int (byteSum q set row n) := by
  have pieces : chunks Mode.int8.k 2048 ((set.take 2048).map BitVec.toNat) =
      (List.range 32).map fun n => (((set.take 2048).map BitVec.toNat).drop (64 * n)).take 64 :=
    chunks_eq (n := 64) (m := 32) (by decide) (by simp [hs]) (by decide)
  have held : setBytes x.gen x.active = set := by rw [active]; rfl
  unfold rowColumns
  dsimp only
  rw [held, hw.unpack, ha.unpack, pieces, mapIdx_map_range]
  refine List.map_congr_left fun n hn => ?_
  rw [columnSum_bytes wcs hw ha, zipWith_bytes (List.mem_range.1 hn) (by omega) hr]
  rfl

/-! The row read from the scratchpad -/

theorem length_leBytes (k n : Nat) : (leBytes k n).length = k := by
  induction k generalizing n with
  | zero => rfl
  | succ k ih => rw [leBytes, List.length_cons, ih]

theorem length_bytesOf (ws : List Word) : (bytesOf ws).length = 8 * ws.length := by
  simp [bytesOf, length_leBytes, Nat.mul_comm]

theorem State.loadBytes_eq (s : State) (a n : Nat) : s.loadBytes a n =
    (((bytesOf ((s.loads (a / 8 * 8) ((a + n + 7) / 8 - a / 8)).1.map (·.d))).drop (a - a / 8 * 8)).take n,
      (s.loads (a / 8 * 8) ((a + n + 7) / 8 - a / 8)).2) := rfl

/-- Reading whole words from a word's address. -/
theorem State.loadBytes_words (s : State) {a : Nat} (aligned : a % 8 = 0) (k : Nat) : s.loadBytes a (8 * k) =
    ((bytesOf ((s.loads a k).1.map (·.d))).take (8 * k), (s.loads a k).2) := by
  have start : a / 8 * 8 = a := by omega
  have words : (a + 8 * k + 7) / 8 - a / 8 = k := by omega
  rw [State.loadBytes_eq, start, words, Nat.sub_self, List.drop_zero]

/-- Clean words are read alike from any state with the same words, and reading them only counts traffic. -/
theorem State.SameWords.loadBytes {s t : State} (h : s.SameWords t) {a k : Nat} (aligned : a % 8 = 0)
    (clean : ∀ i < k, (s.load (a + 8 * i)).1.ecc = .clean) :
    (t.loadBytes a (8 * k)).1 = (s.loadBytes a (8 * k)).1 ∧ (t.loadBytes a (8 * k)).1.length = 8 * k ∧
      (t.loadBytes a (8 * k)).2.contents = t.contents := by
  obtain ⟨words, contents, -⟩ := State.loads_clean (s := t) (a := a) (n := k) fun i hi => by
    rw [h.load]; exact clean i hi
  have same := h.loads clean
  rw [t.loadBytes_words aligned, s.loadBytes_words aligned]
  refine ⟨?_, ?_, contents⟩
  · dsimp only
    rw [same]
  · dsimp only
    rw [List.length_take, length_bytesOf, words]
    simp

/-! The command -/

/-- A MATMUL of rows without a cause has its rows on a multiple of 64 bytes, and shifts wide sums alone (R126, R128). -/
theorem State.matmulCauses_none {s : State} {d c : Nat} {q : Matmul} (rows : 0 < q.m) (h : s.matmulCauses d c q = []) :
    q.act % 64 = 0 ∧ (q.wide = false → q.shift = 0) := by
  have none' : ∀ {p : Bool} {cause : Nat}, (if p = true then [cause] else []) = [] → p = false := by
    intro p cause; cases p <;> simp
  unfold State.matmulCauses at h
  dsimp only at h
  split at h
  · cases h
  · rw [List.append_eq_nil_iff, List.append_eq_nil_iff] at h
    obtain ⟨⟨places, -⟩, fields⟩ := h
    have places := none' places
    have fields := none' fields
    simp only [Bool.or_eq_false_iff, and_assoc] at places fields
    obtain ⟨act, -⟩ := places
    obtain ⟨-, -, shift, -⟩ := fields
    constructor
    · have fits : s.offOk d c q.act 64 (q.m * q.rowBytes) = true := by simpa [rows] using act
      rw [State.offOk, Bool.and_eq_true, beq_iff_eq] at fits
      exact fits.1
    · intro narrow
      simpa [narrow] using shift

theorem State.issue_arr (s : State) (d c : Nat) (b : BlockRun) (w0 : Word) (ready nw a : Nat) :
    (s.issue d c b w0 ready nw).arr d c a = s.arr d c a := by
  have runs : ∀ t : State, (t.seqRuns d c b).cores = t.cores := by
    intro t
    unfold State.seqRuns
    split
    · exact State.put_cores ..
    · rfl
  have late : (s.lateCounted d c b w0 ready).cores = s.cores := by
    unfold State.lateCounted
    split
    · exact State.count_cores ..
    · rfl
  have block : ∀ (t : State) (x : BlockRun), (t.setBlock d c (some x)).arr d c a = t.arr d c a := by
    intro t x
    unfold State.setBlock
    rw [State.arr_congr (State.put_cores ..), State.arr, State.core_setCore]
    rfl
  rw [State.issue_eq, State.arr_congr (runs _), State.arr_congr (State.modesShow_keeps ..).1, block,
    State.arr_congr late]

theorem State.pairsCheck_none {s : State} {d c a : Nat} (h : (s.arr d c a).check = []) (lo hi : Nat) :
    s.pairsCheck d c a lo hi = s := by
  rw [State.pairsCheck, h]
  rfl

theorem State.arrLoad_none {s : State} {d c : Nat} {q : Matmul} (load : q.load = false) (swap : q.swap = false) :
    s.arrLoad d c q = s.setArr d c q.arr (s.arr d c q.arr) := by
  simp [State.arrLoad, load, swap]

/-- A row without scales is read at its place, and its columns are summed. -/
theorem State.rowResult_first {s : State} {d c : Nat} {q : Matmul} {mode : Mode} (mx : q.mx = false)
    (bytes : q.rowBytes = 64) : s.rowResult d c q mode 0 =
      (rowColumns q mode ((s.loadBytes (scratchAddr d c q.act) 64).2.arr d c q.arr)
        (s.loadBytes (scratchAddr d c q.act) 64).1 [], (s.loadBytes (scratchAddr d c q.act) 64).2) := by
  unfold State.rowResult
  rw [bytes, Nat.zero_mul, Nat.add_zero]
  generalize s.loadBytes (scratchAddr d c q.act) 64 = r
  obtain ⟨bs, t⟩ := r
  simp [State.rowScales, mx]

section
variable {q : Matmul} (kept : q.KeptRow)
include kept

/-- The issue of a kept row changes its core's registers and its block alone. -/
theorem Matmul.KeptRow.issued (d : Nat) {c : Nat} (hc : c < 48) (ha : q.arr < 8) (s : State) (b : BlockRun)
    (w0 : Word) (mode : Mode) : s.WorkStep (s.matmulIssued d c b w0 q mode) ∧
      (s.matmulIssued d c b w0 q mode).arr d c q.arr = s.arr d c q.arr := by
  unfold State.matmulIssued
  dsimp only
  rw [State.arrLoad_none kept.load kept.swap]
  constructor
  · exact (State.workStep_issue s d hc ..).trans ((State.workStep_setArr ..).trans
      (State.workStep_put _ d hc _ _ _ (by simp only [Reg.arrMode]; omega)))
  · rw [State.arr_congr (State.put_cores ..), State.arr_setArr, State.issue_arr]

/-- A kept row is read, and its sums are put in the buffer. -/
theorem Matmul.KeptRow.summed {s t : State} {d c : Nat} {row : List Byte} {mode : Mode} (mx : q.mx = false)
    (bytes : q.rowBytes = 64) (read : s.loadBytes (scratchAddr d c q.act) 64 = (row, t))
    (check : (t.arr d c q.arr).check = []) (b : BlockRun) :
    s.matmulSummed d c b q mode =
      t.setArr d c q.arr (accumulate q mode (t.arr d c q.arr) [rowColumns q mode (t.arr d c q.arr) row []]) := by
  have rows : s.rowResults d c q mode q.m = ([rowColumns q mode (t.arr d c q.arr) row []], t) := by
    have first : q.m - (0 + 1) = 0 := by rw [kept.m]
    rw [kept.m, State.rowResults, first, State.rowResult_first mx bytes, read]
    rfl
  unfold State.matmulSummed
  rw [rows]
  simp [kept.m, kept.dual, State.drain, kept.drain, State.pairsCheck_none check]

end

/-- One row of bytes over bytes, kept from an initial 0, leaves each column's sum and changes neither memory nor
units. -/
theorem matmulRun_keptRow {s : State} {d c : Nat} {b : BlockRun} {ws : List Word} {q : Matmul} {set : List Byte}
    (hc : c < 48) (ha : q.arr < 8) (kept : q.KeptRow) (fine : s.matmulCauses d c q = [])
    (mode : modeOf q.wfmt q.afmt q.mx = some .int8) (check : (s.arr d c q.arr).check = [])
    (active : (s.arr d c q.arr).active = some set) (len : set.length = 2176)
    (clean : ∀ i < 8, (s.load (scratchAddr d c q.act + 8 * i)).1.ecc = .clean) :
    (s.matmulRun d c b ws q .int8).mem = s.mem ∧ (s.matmulRun d c b ws q .int8).units = s.units ∧
      ∀ n < 32, ((s.matmulRun d c b ws q .int8).arr d c q.arr).sumAt false true 32 q.sbase n =
        .int (sgn 32 (unsgn 32 (byteSum q set (s.loadBytes (scratchAddr d c q.act) 64).1 n))) := by
  obtain ⟨mx, hw, hb⟩ := modeOf_int8 mode
  obtain ⟨aligned, narrow⟩ := State.matmulCauses_none (by rw [kept.m]; decide) fine
  have place : scratchAddr d c q.act % 8 = 0 := by unfold scratchAddr; omega
  have bytes : q.rowBytes = 64 := by rw [Matmul.rowBytes, hb.elemBits]; rfl
  obtain ⟨step, arr⟩ := kept.issued d hc ha s b (ws.getD 0 0) .int8
  obtain ⟨same, whole, contents⟩ := (State.sameWords_of_offWork step.1).loadBytes place clean
  rw [show 8 * 8 = 64 from rfl] at same whole contents
  rcases read : (s.matmulIssued d c b (ws.getD 0 0) q .int8).loadBytes (scratchAddr d c q.act) 64 with ⟨row, t⟩
  rw [read] at same whole contents
  have held : t.arr d c q.arr = s.arr d c q.arr := (State.arr_congr (State.cores_of_contents contents) ..).trans arr
  have summed := kept.summed (mode := .int8) mx bytes read (by rw [held]; exact check) b
  rw [held, rowColumns_bytes kept.wcs hw hb active len whole] at summed
  have taken : ∀ u : State, ∀ at', u.WorkStep (u.matmulTaken d c b q .int8 at') := fun u at' =>
    (State.workStep_count u d hc _ _ _ (by simp only [Reg.issueKcyc]; omega)).trans (State.workStep_setArr ..)
  rw [State.matmulRun_eq, summed, ← same]
  refine ⟨?_, ?_, fun n hn => ?_⟩
  · rw [State.mem_of_offWork (taken _ _).1, State.mem_of_offWork (State.workStep_setArr ..).1,
      State.mem_of_contents contents, State.mem_of_offWork step.1]
  · rw [State.units_of_offWork (taken _ _).1, State.units_of_offWork (State.workStep_setArr ..).1,
      State.units_of_contents contents, State.units_of_offWork step.1]
  · obtain ⟨-, sum, gen⟩ := State.matmulTaken_arr (t.setArr d c q.arr (accumulate q .int8 (s.arr d c q.arr)
      [(List.range Mode.int8.n).map fun n => .int (byteSum q set row n)])) d c b q .int8
      (b.edge + issueAt b (ws.getD 0 0) ((s.arr d c q.arr).ready - b.edge))
    rw [Arr.sumAt_congr sum gen, State.arr_setArr]
    exact accumulate_sumAt kept (narrow kept.wide) rfl _ _ hn

/-- Settles O29: a command without a cause is `State.matmulRun` (`matmulRun_issued`, `matmulRun_array`), whose one row
of bytes is `matmulRun_keptRow`; one with a cause is `State.seqCmd_cause`. -/
theorem matrixCommand : Obligations.MatrixCommand := by
  unfold Obligations.MatrixCommand
  intro s die core b ws q mode command spelt
  have hc := core.isLt
  have ha : q.arr < 8 := by rw [← spelt]; exact bits_lt_pow _ _ _
  have run : exec (.matmul die core) s = .next (s.seqMatmul die.val core.val) := rfl
  rw [State.seqMatmul] at run
  refine ⟨fun fine permitted => ?_, fun cause lowest => ?_⟩
  · rw [State.seqCmd_run command rfl (by rw [spelt]; exact fine)] at run
    dsimp only at run
    rw [spelt, permitted] at run
    refine ⟨⟨_, run, matmulRun_issued hc ha ws, matmulRun_array hc ha ws⟩, ?_⟩
    intro set row int8 m drain dual load swap wide wcs init sign1 check active len clean read
    subst int8 read
    exact ⟨_, run, matmulRun_keptRow hc ha ⟨m, drain, dual, load, swap, wide, wcs, init, sign1⟩ fine permitted check
      active len clean⟩
  · rw [run, State.seqCmd_cause command rfl (by rw [spelt]; exact lowest)]

end Sys2Proof.Machine
end

section
/-! PROOFS. What the commands of a sequencer keep beside the core's own record and registers (R125, R132, R135), and O23. -/

namespace Sys2Proof.Machine

/-! Steps that change the registers and the cores' records alone -/

theorem SameButCores.refl (s : State) : SameButCores s s := rfl

theorem SameButCores.trans {s t u : State} (h : SameButCores s t) (k : SameButCores t u) : SameButCores s u := Eq.trans k h

/-- What depends on neither the registers nor the cores reads the same. -/
theorem SameButCores.read {α : Type} {s t : State} (h : SameButCores s t) (f : State → α)
    (hf : ∀ x : State, f { x with regs := [], cores := [] } = f x) : f t = f s := by
  rw [← hf t, ← hf s]
  exact congrArg f h

theorem SameButCores.foldl {α : Type} (f : State → α → State) (l : List α) (s : State)
    (h : ∀ t x, SameButCores t (f t x)) : SameButCores s (l.foldl f s) :=
  foldl_keeps (SameButCores s) f l s (.refl s) fun t x _ k => k.trans (h t x)

theorem State.sameButCores_put (s : State) (b : Nat) (f : Fld) (v i : Nat) : SameButCores s (s.put b f v i) :=
  Eq.trans rfl rfl

theorem State.sameButCores_setCore (s : State) (d c : Nat) (k : Core) : SameButCores s (s.setCore d c k) :=
  Eq.trans rfl rfl

theorem State.sameButCores_setBlock (s : State) (d c : Nat) (b : Option BlockRun) : SameButCores s (s.setBlock d c b) := by
  unfold State.setBlock
  cases b with
  | none => exact s.sameButCores_setCore ..
  | some b => exact (s.sameButCores_setCore ..).trans (State.sameButCores_put ..)

theorem State.sameButCores_modesShow (s : State) (d c now : Nat) : SameButCores s (s.modesShow d c now) :=
  SameButCores.foldl _ _ s fun t a => by
    split
    · exact t.sameButCores_put ..
    · exact .refl t

theorem State.sameButCores_issue (s : State) (d c : Nat) (b : BlockRun) (w0 : Word) (ready nw : Nat) :
    SameButCores s (s.issue d c b w0 ready nw) := by
  have late : SameButCores s (s.lateCounted d c b w0 ready) := by
    unfold State.lateCounted
    split
    · exact s.sameButCores_count ..
    · exact .refl s
  have runs (t : State) : SameButCores t (t.seqRuns d c b) := by
    unfold State.seqRuns
    split
    · exact t.sameButCores_put ..
    · exact .refl t
  rw [State.issue_eq]
  exact late.trans ((State.sameButCores_setBlock ..).trans ((State.sameButCores_modesShow ..).trans (runs _)))

/-! The issue of a command, whatever it notes in its block -/

/-- The blocks differ at most in what a command notes for its completion. -/
def BlockRun.SameIssue (b b' : BlockRun) : Prop :=
  { b' with done := 0, unfixed := false, holds := [], vprev := none } =
    { b with done := 0, unfixed := false, holds := [], vprev := none }

theorem BlockRun.SameIssue.read {α : Type} {b b' : BlockRun} (h : b.SameIssue b') (f : BlockRun → α)
    (hf : ∀ x : BlockRun, f { x with done := 0, unfixed := false, holds := [], vprev := none } = f x) : f b' = f b := by
  rw [← hf b', ← hf b]
  exact congrArg f h

theorem BlockRun.SameIssue.issueAt {b b' : BlockRun} (h : b.SameIssue b') (w0 : Word) (ready : Nat) :
    issueAt b' w0 ready = Machine.issueAt b w0 ready := by
  have loops : b'.loops = b.loops := h.read _ fun _ => rfl
  have last : b'.last = b.last := h.read _ fun _ => rfl
  simp only [Machine.issueAt, effAt, loops, last]

/-- A command that has issued from a state `u`, and then has changed neither the block, nor the sequencer's word, nor what
waits. -/
theorem issued_of_sameIssue {s t u : State} {d c : Nat} {b b' : BlockRun} {w0 : Word} {ready nw : Nat}
    (same : b.SameIssue b') (block : (t.core d c).block = ((u.issue d c b' w0 ready nw).core d c).block)
    (word : t.get (Base.core d c) Reg.seqPc = (u.issue d c b' w0 ready nw).get (Base.core d c) Reg.seqPc)
    (pending : t.pending = s.pending) : Issued s t d c nw ready b w0 := by
  obtain ⟨isBlock, isPc⟩ := u.issue_block d c b' w0 ready nw
  have loops : b'.loops = b.loops := same.read _ fun _ => rfl
  have pc : b'.pc = b.pc := same.read _ fun _ => rfl
  refine ⟨_, block.trans isBlock, same.issueAt w0 ready, ?_, ?_, word.trans isPc, pending⟩
  · simp only [BlockRun.issued, loops, pc]
  · exact congrArg (fun x : BlockRun => { x with last := 0, loops := [], pc := 0 }) same

theorem BlockRun.SameIssue.refl (b : BlockRun) : b.SameIssue b := rfl

/-- A field of a core's registers that no issue writes. -/
theorem State.issue_param (s : State) (d c : Nat) (b : BlockRun) (w0 : Word) (ready nw : Nat) {n : Nat} (hn : n < 8) :
    (s.issue d c b w0 ready nw).param d c n = s.param d c n := by
  unfold State.param
  rw [State.issue_get _ _ _ _ _ _ _ (by simp only [Reg.param]; omega) (by simp only [Reg.param]; omega)]

/-! END (R136) -/

/-- END issues as a command that names no earliest cycle. -/
theorem effAt_masked (b : BlockRun) (w : Word) : effAt b (w ||| 0x00FFFF0000000000) = none := by
  refine if_pos (Nat.eq_of_testBit_eq fun i => ?_)
  rw [bits, BitVec.toNat_or, Nat.testBit_mod_two_pow, Nat.testBit_div_two_pow, Nat.testBit_or,
    Nat.testBit_two_pow_sub_one 16 i]
  by_cases hi : i < 16
  · have mask : ∀ i < 16, (0x00FFFF0000000000#64).toNat.testBit (i + 40) = true := by decide
    rw [show BitVec.toNat (0x00FFFF0000000000 : Word) = (0x00FFFF0000000000#64).toNat from rfl, mask i hi]
    simp [hi]
  · simp [hi]

theorem State.seqEnd_issues {s : State} {d c : Nat} {b : BlockRun} (block : (s.core d c).block = some b)
    (open' : b.ended = false) (up : s.coreUp d c = true) (noLoops : b.loops = [])
    (code : bits (s.fetch d c b.pc) 63 58 = 0x02) (count : bits (s.fetch d c b.pc) 57 56 = 0)
    (inside : b.pc ≤ b.base + b.len - 1) :
    s.seqEnd d c = s.issue d c { b with ended := true } (s.fetch d c b.pc ||| 0x00FFFF0000000000) 0 0 := by
  unfold State.seqEnd State.seqCmd
  rw [block]
  dsimp only
  rw [if_neg (by simp [open', up]), code]
  have words : opWords 0x02 = some 0 := rfl
  rw [words]
  dsimp only
  rw [if_neg (Nat.not_lt.2 inside), if_neg (by simp), if_neg (by simp [count]), noLoops]
  cases effAt b (s.fetch d c b.pc) <;> rfl

/-- A command that never comes late changes no register but the sequencer's word and state and its arrays' modes. -/
theorem OnlyFields.issue (s : State) (d c : Nat) (b : BlockRun) (w0 : Word) (nw : Nat) {l : List FieldOf}
    (pc : (Base.core d c, Reg.seqPc, 0) ∈ l) (state : (Base.core d c, Reg.seqState, 0) ∈ l)
    (modes : ∀ a < 8, (Base.core d c, Reg.arrMode, a) ∈ l) : OnlyFields s (s.issue d c b w0 0 nw) l := by
  have late : s.lateCounted d c b w0 0 = s := if_neg (Nat.not_lt_zero _)
  have block (t : State) (x : BlockRun) : OnlyFields t (t.setBlock d c (some x)) l :=
    (OnlyFields.of_regs l (State.setCore_regs ..)).trans (.put _ _ _ _ _ (by decide) pc)
  have runs (t : State) : OnlyFields t (t.seqRuns d c b) l := by
    unfold State.seqRuns
    split
    · exact .put _ _ _ _ _ (by decide) state
    · exact .refl t l
  rw [State.issue_eq, late]
  exact (block s _).trans ((OnlyFields.modesShow _ d c _ modes).trans (runs _))

theorem issueAt_masked (b : BlockRun) (w : Word) : issueAt b (w ||| 0x00FFFF0000000000) 0 = b.last + 1 := by
  unfold issueAt
  rw [effAt_masked, Nat.zero_max, Nat.max_zero]

/-- The block once its END has issued. -/
theorem BlockRun.issued_end {b : BlockRun} (noLoops : b.loops = []) (w : Word) :
    ({ b with ended := true } : BlockRun).issued (w ||| 0x00FFFF0000000000) 0 0 =
      { b with ended := true, last := b.last + 1, done := max b.done (b.last + 1), pc := b.pc + 1 } := by
  rw [BlockRun.issued, issueAt_masked]
  dsimp only
  rw [noLoops]
  rfl

/-! LOOP (R132) -/

theorem State.seqLoop_opens {s : State} {d c : Nat} {b : BlockRun} {ws : List Word}
    (command : AtCommand s d c 0x03 0 b ws) {n body : Nat} (hn : bits (ws.getD 0 0) 39 28 = n)
    (hbody : bits (ws.getD 0 0) 27 16 = body) (some' : n ≠ 0) (long : body ≠ 0) (depth : b.loops.length < 4)
    (inside : b.pc + 1 + body ≤ b.base + b.len - 1)
    (outer : ∀ f, b.loops.head? = some f → b.pc + 1 + body ≤ f.stop)
    (good : s.bodyBad d c (b.pc + 1 + body) 4096 (b.pc + 1) = false) :
    s.seqLoop d c = s.setBlock d c (some { b with pc := b.pc + 1, loops :=
      { start := b.pc + 1, stop := b.pc + 1 + body, count := n, iter := 0, stride := bits (ws.getD 0 0) 15 0 } ::
        b.loops }) := by
  have within : ¬ (match b.loops with
      | f :: _ => decide (f.stop < b.pc + 1 + body)
      | [] => false) = true := by
    cases loops : b.loops with
    | nil => simp
    | cons f rest => simpa using outer f (by rw [loops]; rfl)
  subst hn hbody
  refine (State.seqCmd_run command rfl ?_ _).trans rfl
  dsimp only
  rw [Nat.min_eq_left (by omega), good, if_neg (by simp), if_neg (by omega), if_neg]
  · rfl
  · rintro (deep | beyond | crosses)
    · omega
    · omega
    · exact within crosses

/-! SETP and ADDP (Table 04.5) -/

section
variable {s : State} {d c op : Nat} {b : BlockRun} {ws : List Word}
  (command : AtCommand s d c op 0 b ws) (known : opWords op = some 0) (names : bits (ws.getD 0 0) 39 37 ≠ 0)
include command known names

/-- A command that sets a parameter issues, and gives that parameter its value. -/
theorem State.seqParam_sets (f : Nat → Nat → Nat) {n v : Nat} (hn : bits (ws.getD 0 0) 39 37 = n)
    (hv : f (s.param d c n) (bits (ws.getD 0 0) 31 0) = v) (fits : v < 2 ^ 32) :
    Issued s (s.seqParam d c op f) d c 0 0 b (ws.getD 0 0) ∧ (s.seqParam d c op f).param d c n = v ∧
      (∀ m, m < 8 → m ≠ n → (s.seqParam d c op f).param d c m = s.param d c m) ∧
      SameButCores s (s.seqParam d c op f) := by
  have hn8 : n < 8 := hn ▸ bits_lt_pow _ _ _
  have eq : s.seqParam d c op f = (s.issue d c b (ws.getD 0 0) 0 0).put (Base.core d c) Reg.param v n := by
    unfold State.seqParam
    rw [State.seqCmd_run command known (if_neg names)]
    dsimp only
    rw [hn, State.issue_param _ _ _ _ _ _ _ hn8, hv]
  rw [eq]
  refine ⟨issued_of_sameIssue (.refl b) (by rw [State.core_put]) ?_ ?_, ?_, ?_, ?_⟩
  · exact State.get_put_addr _ _ _ _ _ _ _ _ (by simp only [Reg.seqPc, Reg.param]; omega)
  · exact ((s.sameButCores_issue ..).trans (State.sameButCores_put ..)).read _ fun _ => rfl
  · rw [State.param, if_neg (hn ▸ names), State.get_put_same _ _ _ _ _ (by decide)]
    exact Nat.mod_eq_of_lt fits
  · intro m hm other
    rw [← State.issue_param s d c b (ws.getD 0 0) 0 0 hm]
    unfold State.param
    rw [State.get_put_addr _ _ _ _ _ _ _ _ (by simp only [Reg.param]; omega)]
  · exact (s.sameButCores_issue ..).trans (State.sameButCores_put ..)

end

/-- Settles O23: END issues in the cycle after the last issue (`State.seqEnd_issues`), a well-formed LOOP opens its body
(`State.seqLoop_opens`), and SETP and ADDP set one parameter (`State.seqParam_sets`). -/
theorem endLoopAndParameters : Obligations.EndLoopAndParameters := by
  unfold Obligations.EndLoopAndParameters
  intro s die core b ws
  refine ⟨fun block open' up noLoops code count inside => ?_, fun command some' long depth inside outer good => ?_,
    fun command names => ?_, fun command names => ?_⟩
  · have run : exec (.endBlock die core) s = .next (s.seqEnd die.val core.val) := rfl
    rw [run, State.seqEnd_issues block open' up noLoops code count inside]
    refine ⟨_, rfl, ?_, OnlyFields.issue _ _ _ _ _ _ (by simp) (by simp) ?_, State.sameButCores_issue ..⟩
    · rw [(State.issue_block ..).1, BlockRun.issued_end noLoops]
    · intro a ha
      exact List.mem_append_right _ (List.mem_map.2 ⟨a, List.mem_range.2 ha, rfl⟩)
  · have run : exec (.loop die core) s = .next (s.seqLoop die.val core.val) := rfl
    rw [run, State.seqLoop_opens command rfl rfl some' long depth inside outer good]
    refine ⟨_, rfl, State.block_setBlock .., ?_, State.sameButCores_setBlock ..⟩
    exact (OnlyFields.of_regs _ (State.setCore_regs ..)).trans (.put _ _ _ _ _ (by decide) (by simp))
  · have fits : bits (ws.getD 0 0) 31 0 < 2 ^ 32 := bits_lt_pow _ _ _
    exact ⟨_, rfl, State.seqParam_sets command rfl names (fun _ v => v) rfl rfl fits⟩
  · have fits (p : Nat) : (p + bits (ws.getD 0 0) 31 0) % 2 ^ 32 < 2 ^ 32 := Nat.mod_lt _ (by decide)
    exact ⟨_, rfl, State.seqParam_sets command rfl names (fun p v => (p + v) % 2 ^ 32) rfl rfl (fits _)⟩

end Sys2Proof.Machine
end

section
/-! PROOFS. Event counters: WAIT, SIGNAL, and what writes and increments a counter (R139 to R141), and O24. -/

namespace Sys2Proof.Machine

/-! An event counter that is written or added to -/

theorem State.sameRest_put (s : State) (b : Nat) (f : Fld) (v i : Nat) : SameRest s (s.put b f v i) := Eq.trans rfl rfl

theorem State.sameRest_put_reply (s : State) (b : Nat) (f : Fld) (v i : Nat) (status : Nat) :
    SameRest { s with answer := ((s.put b f v i).reply status).answer } ((s.put b f v i).reply status) := Eq.trans rfl rfl

theorem State.sameRest_evcAdd (s : State) (d c ec n : Nat) : SameRest s (s.evcAdd d c ec n) := by
  unfold State.evcAdd
  dsimp only
  split
  · exact s.sameRest_put ..
  · exact Eq.trans (State.sameRest_put ..) (s.sameRest_put ..)

theorem OnlyFields.evcAdd (s : State) (d c ec n : Nat) {l : List FieldOf} (counter : (Base.core d c, Reg.evc, ec) ∈ l)
    (full : (Base.core d c, Reg.evcSat, 0) ∈ l) : OnlyFields s (s.evcAdd d c ec n) l := by
  unfold State.evcAdd
  dsimp only
  split
  · exact .put _ _ _ _ _ (by decide) counter
  · exact (OnlyFields.put _ _ _ _ _ (by decide) counter).trans (.count _ _ _ _ _ (by decide) full)

/-! WAIT (R140) -/

/-- What a satisfied WAIT takes off its counter. -/
def State.paid (s : State) (d c ec v : Nat) (dec : Bool) : State :=
  if dec then s.put (Base.core d c) Reg.evc (s.get (Base.core d c) Reg.evc ec - v) ec else s

theorem State.sameButCores_paid (s : State) (d c ec v : Nat) (dec : Bool) : SameButCores s (s.paid d c ec v dec) := by
  unfold State.paid
  split
  · exact s.sameButCores_put ..
  · exact .refl s

theorem State.paid_evc (s : State) (d c ec v : Nat) (dec : Bool) : (s.paid d c ec v dec).get (Base.core d c) Reg.evc ec =
    s.get (Base.core d c) Reg.evc ec - (if dec then v else 0) := by
  unfold State.paid
  split
  · rw [State.get_put_same _ _ _ _ _ (by decide)]
    exact Nat.mod_eq_of_lt (Nat.lt_of_le_of_lt (Nat.sub_le ..) (State.get_lt ..))
  · rfl

theorem State.paid_evc_other (s : State) (d c ec v : Nat) (dec : Bool) {m : Nat} (other : m ≠ ec) :
    (s.paid d c ec v dec).get (Base.core d c) Reg.evc m = s.get (Base.core d c) Reg.evc m := by
  unfold State.paid
  split
  · exact State.get_put_addr _ _ _ _ _ _ _ _ (by simp only [Reg.evc]; omega)
  · rfl

/-- The event counters read after an issue as before it. -/
theorem State.issue_evc (s : State) (d c : Nat) (b : BlockRun) (w0 : Word) (ready nw : Nat) {m : Nat} (hm : m < 16) :
    (s.issue d c b w0 ready nw).get (Base.core d c) Reg.evc m = s.get (Base.core d c) Reg.evc m :=
  State.issue_get _ _ _ _ _ _ _ (by simp only [Reg.evc]; omega) (by simp only [Reg.evc]; omega)

section
variable {s : State} {d c cycle n v : Nat} {b : BlockRun} {ws : List Word} (command : AtCommand s d c 0x06 0 b ws)
  (hn : bits (ws.getD 0 0) 39 36 = n) (hv : bits (ws.getD 0 0) 23 0 = v)
include command hn hv

theorem State.seqWait_issues (reached : v ≤ s.get (Base.core d c) Reg.evc n) :
    s.seqWait d c cycle = (s.paid d c n v (bit (ws.getD 0 0) 35)).issue d c b (ws.getD 0 0) cycle 0 := by
  subst hn hv
  exact (State.seqCmd_run command rfl rfl _).trans (if_pos reached)

theorem State.seqWait_waits (short : s.get (Base.core d c) Reg.evc n < v) (inTime : b.overran = false) :
    s.seqWait d c cycle = s.put (Base.core d c) Reg.seqState 2 := by
  subst hn hv
  refine (State.seqCmd_run command rfl rfl _).trans ((if_neg (Nat.not_le.2 short)).trans ?_)
  rw [State.seqHold, inTime]
  rfl

end

/-! SIGNAL (R141) -/

theorem State.workReason_signals (s : State) (ctx kind seq r : Nat) :
    (s.workReason ctx kind seq r).signals = s.signals := by
  unfold State.workReason
  split <;> rfl

theorem State.coreUp_of_sameButCores {s t : State} (h : SameButCores s t) (d c : Nat) : t.coreUp d c = s.coreUp d c :=
  h.read (fun x => x.coreUp d c) fun _ => rfl

theorem State.seqSignal_issues {s : State} {d c : Nat} {b : BlockRun} {ws : List Word} (command : AtCommand s d c 0x07 0 b ws)
    (core : bits (ws.getD 0 0) 35 30 < 0x30 ∨ bits (ws.getD 0 0) 35 30 = 0x3F) :
    s.seqSignal d c = (s.issue d c b (ws.getD 0 0) 0 0).sendSignal d (signalCore c (bits (ws.getD 0 0) 35 30))
      (bits (ws.getD 0 0) 39 36) (bits (ws.getD 0 0) 23 0) b.ctx b.kind b.seq :=
  State.seqCmd_run command rfl (if_neg (by omega)) _

/-- A SIGNAL sent changes nothing but the signals on their way and the unit of its work. -/
theorem State.sendSignal_keeps (s : State) (d core ec inc ctx kind seq : Nat) :
    (s.sendSignal d core ec inc ctx kind seq).cores = s.cores ∧
      (s.sendSignal d core ec inc ctx kind seq).pending = s.pending ∧
      (s.sendSignal d core ec inc ctx kind seq).mem = s.mem ∧
      ∀ a, (s.sendSignal d core ec inc ctx kind seq).reg a = s.reg a := by
  unfold State.sendSignal
  split
  · exact ⟨rfl, rfl, rfl, fun _ => rfl⟩
  · have rest := State.workReason_offUnits s ctx kind seq Reason.gone
    exact ⟨State.cores_of_offUnits rest, congrArg Prod.fst (State.workReason_kept ..), State.mem_of_offUnits rest,
      fun _ => State.workReason_reg ..⟩

theorem State.sendSignal_up {s : State} {d core : Nat} (up : s.coreUp d core = true) (ec inc ctx kind seq : Nat) :
    (s.sendSignal d core ec inc ctx kind seq).signals = s.signals ++ [{ die := d, core, ec, inc }] ∧
      (s.sendSignal d core ec inc ctx kind seq).units = s.units := by
  rw [State.sendSignal, if_pos up]
  exact ⟨rfl, rfl⟩

/-! An increment that arrives (R139) -/

theorem State.signalArrive_adds {s : State} {g : Signal} (sent : g ∈ s.signals) (up : s.coreUp g.die g.core = true) :
    s.signalArrive g = ({ s with signals := s.signals.erase g } : State).evcAdd g.die g.core g.ec g.inc :=
  (if_pos (List.contains_iff_mem.2 sent)).trans (if_pos up)

theorem State.signalArrive_none {s : State} {g : Signal} (h : g ∉ s.signals) : s.signalArrive g = s :=
  if_neg fun sent => h (List.contains_iff_mem.1 sent)

section
variable {s : State} {die : DieNo} {core : CoreNo} {b : BlockRun} {ws : List Word} {cycle : Half} {ec : BitVec 4}
  {inc value : BitVec 24}

theorem wait_issues {n v : Nat} (command : AtCommand s die.val core.val 0x06 0 b ws)
    (hn : bits (ws.getD 0 0) 39 36 = n) (hv : bits (ws.getD 0 0) 23 0 = v)
    (reached : v ≤ s.get (Base.core die.val core.val) Reg.evc n) :
    ∃ t, exec (.wait die core cycle) s = .next t ∧ Issued s t die.val core.val 0 cycle.toNat b (ws.getD 0 0) ∧
      t.get (Base.core die.val core.val) Reg.evc n = s.get (Base.core die.val core.val) Reg.evc n -
        (if bit (ws.getD 0 0) 35 then v else 0) ∧
      (∀ m, m < 16 → m ≠ n → t.get (Base.core die.val core.val) Reg.evc m =
        s.get (Base.core die.val core.val) Reg.evc m) ∧ SameButCores s t := by
  have run : exec (.wait die core cycle) s = .next (s.seqWait die.val core.val cycle.toNat) := rfl
  have hn16 : n < 16 := hn ▸ bits_lt_pow _ _ _
  have paid := s.sameButCores_paid die.val core.val n v (bit (ws.getD 0 0) 35)
  rw [State.seqWait_issues command hn hv reached] at run
  refine ⟨_, run, issued_of_sameIssue (.refl b) rfl rfl ?_, ?_, fun m hm other => ?_,
    paid.trans (State.sameButCores_issue ..)⟩
  · exact (paid.trans (State.sameButCores_issue ..)).read _ fun _ => rfl
  · rw [State.issue_evc _ _ _ _ _ _ _ hn16, State.paid_evc]
  · rw [State.issue_evc _ _ _ _ _ _ _ hm, State.paid_evc_other _ _ _ _ _ _ other]

theorem signal_issues {k : Nat} (command : AtCommand s die.val core.val 0x07 0 b ws)
    (hk : bits (ws.getD 0 0) 35 30 = k) (named : k < 0x30 ∨ k = 0x3F) :
    ∃ t, exec (.signal die core) s = .next t ∧ Issued s t die.val core.val 0 0 b (ws.getD 0 0) ∧
      (s.coreUp die.val (if k = 0x3F then core.val else k) = true → t.signals = s.signals ++
        [{ die := die.val, core := if k = 0x3F then core.val else k, ec := bits (ws.getD 0 0) 39 36,
           inc := bits (ws.getD 0 0) 23 0 }] ∧ t.units = s.units) ∧
      (s.coreUp die.val (if k = 0x3F then core.val else k) = false → t.signals = s.signals ∧
        t.units = (s.workReason b.ctx b.kind b.seq Reason.gone).units) ∧ t.mem = s.mem := by
  subst hk
  have run : exec (.signal die core) s = .next (s.seqSignal die.val core.val) := rfl
  rw [State.seqSignal_issues command named] at run
  have issued := s.sameButCores_issue die.val core.val b (ws.getD 0 0) 0 0
  have work := s.workStep_issue die.val core.isLt b (ws.getD 0 0) 0 0
  generalize eq : s.issue die.val core.val b (ws.getD 0 0) 0 0 = u at run issued work
  obtain ⟨cores, pending, mem, regs⟩ := u.sendSignal_keeps die.val (signalCore core.val (bits (ws.getD 0 0) 35 30))
    (bits (ws.getD 0 0) 39 36) (bits (ws.getD 0 0) 23 0) b.ctx b.kind b.seq
  have units : u.units = s.units := issued.read State.units fun _ => rfl
  have signals : u.signals = s.signals := issued.read State.signals fun _ => rfl
  refine ⟨_, run, issued_of_sameIssue (.refl b) (u := s) ?_ ?_ ?_, fun up => ?_, fun down => ?_, ?_⟩
  · rw [eq, State.core, cores, State.core]
  · rw [eq, State.get, regs, State.get]
  · exact pending.trans (issued.read State.pending fun _ => rfl)
  · rw [← signals, ← units]
    exact State.sendSignal_up ((State.coreUp_of_sameButCores issued ..).trans up) ..
  · rw [State.sendSignal, signalCore, if_neg (by rw [State.coreUp_of_sameButCores issued, down]; decide)]
    refine ⟨?_, State.workReason_units_congr units work.sched ..⟩
    exact (State.workReason_signals ..).trans signals
  · exact mem.trans (issued.read State.mem fun _ => rfl)

theorem signalArrive_adds {g : Signal} (hg : g = { die := die.val, core := core.val, ec := ec.toNat, inc := inc.toNat })
    (sent : g ∈ s.signals) (up : s.coreUp die.val core.val = true) :
    ∃ t, exec (.signalArrive die core ec inc) s = .next t ∧ t.signals = s.signals.erase g ∧
      t.get (Base.core die.val core.val) Reg.evc ec.toNat =
        min (s.get (Base.core die.val core.val) Reg.evc ec.toNat + inc.toNat) (2 ^ 24 - 1) ∧
      OnlyFields s t [(Base.core die.val core.val, Reg.evc, ec.toNat), (Base.core die.val core.val, Reg.evcSat, 0)] ∧
      SameRest { s with signals := t.signals } t := by
  subst hg
  have run : exec (.signalArrive die core ec inc) s = .next (s.signalArrive
    { die := die.val, core := core.val, ec := ec.toNat, inc := inc.toNat }) := rfl
  rw [State.signalArrive_adds sent up] at run
  have rest (x : State) := x.sameRest_evcAdd die.val core.val ec.toNat inc.toNat
  have signals (x : State) : (x.evcAdd die.val core.val ec.toNat inc.toNat).signals = x.signals :=
    (congrArg State.signals (rest x) : _)
  refine ⟨_, run, signals _, State.evcAdd_evc .., ?_, ?_⟩
  · exact (OnlyFields.of_regs _ rfl).trans (.evcAdd _ _ _ _ _ (by simp) (by simp))
  · rw [signals]
    exact rest _

theorem evcWrite_sets (awake : s.awake = true) (here : s.isFenced die.val 0xFF = false) :
    ∃ t, exec (.evcWrite die core ec value) s = .next t ∧
      t.get (Base.core die.val core.val) Reg.evc ec.toNat = value.toNat ∧ t.answer = ⟨0, 0, []⟩ ∧
      OnlyFields s t [(Base.core die.val core.val, Reg.evc, ec.toNat)] ∧ SameRest { s with answer := t.answer } t := by
  have run : exec (.evcWrite die core ec value) s =
      .next ((s.put (Base.core die.val core.val) Reg.evc value.toNat ec.toNat).reply Status.ok) := by
    refine congrArg Host.Outcome.next ((if_neg (by simp [awake])).trans (if_neg (by simp [here])))
  refine ⟨_, run, ?_, rfl, ?_, State.sameRest_put_reply ..⟩
  · rw [State.reply_get, State.get_put_same _ _ _ _ _ (by decide)]
    exact Nat.mod_eq_of_lt value.isLt
  · exact (OnlyFields.put _ _ _ _ _ (by decide) (by simp)).trans (OnlyFields.of_regs _ (State.reply_regs ..))

end

/-- Settles O24: a WAIT pays and issues or waits (`wait_issues`, `State.seqWait_waits`), a SIGNAL issues and sends
(`signal_issues`), an increment arrives once (`signalArrive_adds`), and a controller's write sets (`evcWrite_sets`). -/
theorem waitsAndSignals : Obligations.WaitsAndSignals := by
  unfold Obligations.WaitsAndSignals
  intro s die core b ws cycle ec inc value
  refine ⟨fun command n v hn hv => ⟨wait_issues command hn hv, fun short inTime => ?_⟩,
    fun command k hk named => signal_issues command hk named,
    fun g hg => ⟨fun sent up => signalArrive_adds hg sent up, fun absent => ?_⟩, evcWrite_sets, fun awake fenced => ?_⟩
  · exact congrArg Host.Outcome.next (State.seqWait_waits command hn hv short inTime)
  · subst hg
    exact congrArg Host.Outcome.next (State.signalArrive_none absent)
  · exact congrArg Host.Outcome.next ((if_neg (by simp [awake])).trans (if_pos fenced))

end Sys2Proof.Machine
end

section
/-! PROOFS. A word that is no command aborts its block (R125, R133, R134), and O25. -/

namespace Sys2Proof.Machine

/-! What an abort leaves of its core's registers -/

theorem State.chanStop_reg (s : State) (d c : Nat) {ch a : Nat}
    (apart : a ≠ Base.core d c + Reg.chState.off + ch * Reg.chState.step) : (s.chanStop d c ch).reg a = s.reg a := by
  unfold State.chanStop
  dsimp only
  split
  · split
    · exact State.reg_put_other _ _ _ _ _ apart
    · exact (State.reg_put_other _ _ _ _ _ apart).trans (State.setCore_reg ..)
  · rfl

theorem State.endTargets_reg (s : State) (d c a : Nat) : (s.endTargets d c).reg a = s.reg a :=
  foldl_keeps (fun t => t.reg a = s.reg a) _ _ s rfl fun t _ _ k => (State.setCore_reg t d c _ a).trans k

theorem State.spanSet_reg (s : State) (ctx : Nat) (on : Bool) (a : Nat) : (s.spanSet ctx on).reg a = s.reg a := rfl

/-- Of a core's registers, the abort of its block changes only the sequencer's first word and the states of its
channels. -/
theorem State.abortBlock_reg (s : State) (d reason : Nat) {c off : Nat} (hc : c < 48) (low : 0 < off) (high : off < 0x200) :
    (s.abortBlock d c reason).reg (Base.core d c + off) = s.reg (Base.core d c + off) := by
  have inCore : blockOf (Base.core d c + off) = 0x02 := blockOf_core d hc (by omega)
  have counted : (s.count (Base.armature d) Reg.abortCount).reg (Base.core d c + off) = s.reg (Base.core d c + off) := by
    refine State.reg_count_other _ _ _ _ _ fun same => ?_
    rw [same] at inCore
    simp only [blockOf, Base.armature, Reg.abortCount, csr] at inCore
    omega
  have span (t : State) (b : BlockRun) :
      (if b.spanEnd then t.spanSet b.ctx false else t).reg (Base.core d c + off) = t.reg (Base.core d c + off) := by
    split
    · exact t.spanSet_reg ..
    · rfl
  have stop (t : State) (ch : Nat) : (if t.get (Base.core d c) Reg.chCarry ch = 0 then t.chanStop d c ch else t).reg
      (Base.core d c + off) = t.reg (Base.core d c + off) := by
    split
    · exact t.chanStop_reg d c (by simp only [Reg.chState]; omega)
    · rfl
  unfold State.abortBlock
  split
  · rfl
  · dsimp only
    rw [State.reg_put_other _ _ _ _ _ (by simp only [Reg.seqState]; omega), State.setBlock, State.setCore_reg,
      State.endTargets_reg, span]
    refine foldl_keeps (fun t : State => t.reg (Base.core d c + off) = s.reg (Base.core d c + off)) _ _ _ ?_
      fun t ch _ k => (stop t ch).trans k
    rw [State.log_reg _ _ _ _ _ _ _ (by rw [inCore]; decide) (by rw [inCore]; decide), State.workReason_reg, counted]

/-! A malformed command -/

/-- A malformed command counted and its word noted, before its block's abort (R133). -/
def State.malformedNoted (s : State) (d c cause pc : Nat) : State :=
  ((s.count (Base.core d c) Reg.malformed).put (Base.core d c) Reg.lastCause cause).put (Base.core d c) Reg.lastPc (pc % 4096)

theorem State.sameButCores_malformedNoted (s : State) (d c cause pc : Nat) :
    SameButCores s (s.malformedNoted d c cause pc) :=
  (s.sameButCores_count ..).trans ((State.sameButCores_put ..).trans (State.sameButCores_put ..))

theorem State.malformedNoted_reasons (s : State) (d cause pc ctx kind seq reason : Nat) {c : Nat} (hc : c < 48) :
    ((s.malformedNoted d c cause pc).workReason ctx kind seq reason).units = (s.workReason ctx kind seq reason).units := by
  have same := s.sameButCores_malformedNoted d c cause pc
  have work : s.WorkStep (s.malformedNoted d c cause pc) :=
    (State.workStep_count s d hc _ _ _ (by decide)).trans ((State.workStep_put _ d hc _ _ _ (by decide)).trans
      (State.workStep_put _ d hc _ _ _ (by decide)))
  exact State.workReason_units_congr (same.read State.units fun _ => rfl) work.sched ..

/-- What a malformed command leaves: its count, its cause and its word, the block aborted, and its unit's reason. -/
theorem State.malformed_aborts {s : State} {d c : Nat} {b : BlockRun} (hc : c < 48) (block : (s.core d c).block = some b)
    {cause : Nat} (known : cause < 16) :
    ((s.malformed d c cause b.pc).core d c).block = none ∧
      (s.malformed d c cause b.pc).get (Base.core d c) Reg.seqState = 4 ∧
      (s.malformed d c cause b.pc).get (Base.core d c) Reg.malformed =
        min (s.get (Base.core d c) Reg.malformed + 1) (2 ^ Reg.malformed.w - 1) ∧
      (s.malformed d c cause b.pc).get (Base.core d c) Reg.lastCause = cause ∧
      (s.malformed d c cause b.pc).get (Base.core d c) Reg.lastPc = b.pc % 4096 ∧
      (s.malformed d c cause b.pc).units = (s.workReason b.ctx b.kind b.seq Reason.overrun).units ∧
      (s.malformed d c cause b.pc).mem = s.mem := by
  have eq : s.malformed d c cause b.pc = (s.malformedNoted d c cause b.pc).abortBlock d c Reason.overrun := rfl
  have same := s.sameButCores_malformedNoted d c cause b.pc
  have running : ((s.malformedNoted d c cause b.pc).core d c).block = some b := by
    simpa only [State.malformedNoted, State.count, State.core_put] using block
  obtain ⟨⟨noted, -⟩, isNone, isState⟩ := State.abortBlock_noted hc running Reason.overrun
  have keeps (f : Fld) (at10 : f.off = 0x10) :
      (s.malformed d c cause b.pc).get (Base.core d c) f = (s.malformedNoted d c cause b.pc).get (Base.core d c) f := by
    rw [eq, State.get, State.get, at10, Nat.zero_mul, Nat.add_zero, State.abortBlock_reg _ _ _ hc (by decide) (by decide)]
  refine ⟨isNone, isState, ?_, ?_, ?_, ?_, ?_⟩
  · rw [keeps Reg.malformed rfl, State.malformedNoted, State.get_put_field _ _ _ _ _ _ _ _ (by rfl) (by decide) (by decide),
      State.get_put_field _ _ _ _ _ _ _ _ (by rfl) (by decide) (by decide), State.get_count_same _ _ _ _ _ (by decide)]
  · rw [keeps Reg.lastCause rfl, State.malformedNoted, State.get_put_field _ _ _ _ _ _ _ _ (by rfl) (by decide) (by decide),
      State.get_put_same _ _ _ _ _ (by decide)]
    exact Nat.mod_eq_of_lt known
  · rw [keeps Reg.lastPc rfl, State.malformedNoted, State.get_put_same _ _ _ _ _ (by decide)]
    exact Nat.mod_eq_of_lt (Nat.mod_lt _ (by decide))
  · rw [eq, State.units_of_offWork noted, State.abortNoted_units, State.malformedNoted_reasons _ _ _ _ _ _ _ _ hc]
  · rw [eq, State.mem_of_offWork noted, State.mem_of_offUnits (State.abortNoted_offUnits ..)]
    exact same.read State.mem fun _ => rfl

/-! Whatever the sequencer is to run -/

/-- A word of a reserved opcode is malformed for every command (Table 04.16). -/
theorem State.seqCmd_reserved {s : State} {d c : Nat} {b : BlockRun} (block : (s.core d c).block = some b)
    (open' : b.ended = false) (up : s.coreUp d c = true)
    (reserved : bits (s.fetch d c b.pc) 63 58 < 0x02 ∨ 0x0E < bits (s.fetch d c b.pc) 63 58) (op : Nat)
    (causes : BlockRun → List Word → List Nat) (run : BlockRun → List Word → State) :
    s.seqCmd d c op causes run = s.malformed d c 1 b.pc := by
  have words : opWords (bits (s.fetch d c b.pc) 63 58) = none := by
    unfold opWords
    repeat rw [if_neg (by omega)]
  unfold State.seqCmd
  rw [block]
  dsimp only
  rw [if_neg (by simp [open', up]), words]

/-- The core has no block, or one that has ended. -/
def State.noIssue (s : State) (d c : Nat) : Prop :=
  (s.core d c).block = none ∨ ∃ b, (s.core d c).block = some b ∧ b.ended = true

theorem State.seqCmd_noIssue {s : State} {d c : Nat} (h : s.noIssue d c) (op : Nat)
    (causes : BlockRun → List Word → List Nat) (run : BlockRun → List Word → State) : s.seqCmd d c op causes run = s := by
  unfold State.seqCmd
  obtain none | ⟨b, running, ended⟩ := h
  · rw [none]
  · rw [running]
    exact if_pos (by simp [ended])

theorem State.pmCmd_reserved {s : State} {d c : Nat} {b : BlockRun} (block : (s.core d c).block = some b)
    (open' : b.ended = false) (up : s.coreUp d c = true)
    (reserved : bits (s.fetch d c b.pc) 63 58 < 0x02 ∨ 0x0E < bits (s.fetch d c b.pc) 63 58) (sub : Nat)
    (run : BlockRun → List Word → State → State) : s.pmCmd d c sub run = s.malformed d c 1 b.pc := by
  unfold State.pmCmd
  rw [block]
  dsimp only
  rw [if_neg (by rw [List.getD_cons_zero]; omega), State.seqCmd_reserved block open' up reserved]

theorem State.pmCmd_noIssue {s : State} {d c : Nat} (h : s.noIssue d c) (sub : Nat)
    (run : BlockRun → List Word → State → State) : s.pmCmd d c sub run = s := by
  unfold State.pmCmd
  dsimp only
  rw [State.seqCmd_noIssue h]
  exact ite_self s

/-- Settles O25: every sequencer command meets a reserved word as `State.seqCmd_reserved` says, which leaves what
`State.malformed_aborts` states, and with nothing to issue none changes anything (`State.seqCmd_noIssue`). -/
theorem malformedCommands : Obligations.MalformedCommands := by
  unfold Obligations.MalformedCommands
  intro s die core b cycle
  refine ⟨fun block open' up reserved => ?_, fun none => ?_⟩
  · obtain ⟨isNone, isState, count, cause, pc, units, mem⟩ :=
      State.malformed_aborts core.isLt block (show 1 < 16 by decide)
    have all := State.seqCmd_reserved block open' up reserved
    have pm := State.pmCmd_reserved block open' up reserved
    exact ⟨_, isNone, isState, count, cause, pc, units, mem,
      congrArg Host.Outcome.next (all ..), congrArg Host.Outcome.next (all ..), congrArg Host.Outcome.next (all ..),
      congrArg Host.Outcome.next (all ..), congrArg Host.Outcome.next (all ..), congrArg Host.Outcome.next (all ..),
      congrArg Host.Outcome.next (all ..), congrArg Host.Outcome.next (all ..), congrArg Host.Outcome.next (all ..),
      congrArg Host.Outcome.next (all ..), congrArg Host.Outcome.next (all ..), congrArg Host.Outcome.next (pm ..),
      congrArg Host.Outcome.next (pm ..)⟩
  · have idle : s.noIssue die.val core.val := none.imp_right fun h => ⟨b, h⟩
    have all := State.seqCmd_noIssue idle
    have pm := State.pmCmd_noIssue idle
    exact ⟨congrArg Host.Outcome.next (all ..), congrArg Host.Outcome.next (all ..), congrArg Host.Outcome.next (all ..),
      congrArg Host.Outcome.next (all ..), congrArg Host.Outcome.next (all ..), congrArg Host.Outcome.next (all ..),
      congrArg Host.Outcome.next (all ..), congrArg Host.Outcome.next (all ..), congrArg Host.Outcome.next (all ..),
      congrArg Host.Outcome.next (all ..), congrArg Host.Outcome.next (all ..), congrArg Host.Outcome.next (pm ..),
      congrArg Host.Outcome.next (pm ..)⟩

end Sys2Proof.Machine
end

section
/-! PROOFS. DMA programs of a block, the block's end, and a carried program's deadline (R130, R136), and O26. -/

namespace Sys2Proof.Machine

/-! A channel written -/

@[simp] theorem State.chan_setChan (s : State) (d c ch : Nat) (x : Chan) : (s.setChan d c ch x).chan d c ch = x := by
  simp [State.chan, State.setChan]

theorem State.chan_congr {s t : State} (h : t.cores = s.cores) (d c ch : Nat) : t.chan d c ch = s.chan d c ch := by
  rw [State.chan, State.core, h]
  rfl

theorem State.setChan_block (s : State) (d c ch : Nat) (x : Chan) :
    ((s.setChan d c ch x).core d c).block = (s.core d c).block := by
  simp [State.setChan]

theorem State.sameButCores_setChan (s : State) (d c ch : Nat) (x : Chan) : SameButCores s (s.setChan d c ch x) :=
  s.sameButCores_setCore ..

theorem State.chSt_setChSt (s : State) (d c ch : Nat) {v : Nat} (hv : v < 16) : (s.setChSt d c ch v).chSt d c ch = v := by
  rw [State.chSt, State.setChSt, State.get_put_same _ _ _ _ _ (by decide)]
  exact Nat.mod_eq_of_lt hv

/-- An issue writes the block of the core's record, and nothing else of it. -/
theorem State.issue_core (s : State) (d c : Nat) (b : BlockRun) (w0 : Word) (ready nw : Nat) :
    (s.issue d c b w0 ready nw).core d c = { s.core d c with block := some (b.issued w0 ready nw) } := by
  have runs (t : State) : (t.seqRuns d c b).core d c = t.core d c := by
    unfold State.seqRuns
    split
    · exact State.core_put ..
    · rfl
  have late : (s.lateCounted d c b w0 ready).core d c = s.core d c := by
    unfold State.lateCounted
    split
    · exact State.core_put ..
    · rfl
  have shows (t : State) (now : Nat) : (t.modesShow d c now).core d c = t.core d c :=
    congrArg (cget _ · _) (t.modesShow_keeps d c now).1
  have block (t : State) (x : BlockRun) : (t.setBlock d c (some x)).core d c = { t.core d c with block := some x } := by
    unfold State.setBlock
    rw [State.core_put, State.core_setCore]
  rw [State.issue_eq, runs, shows, block, late]

theorem State.issue_chan (s : State) (d c : Nat) (b : BlockRun) (w0 : Word) (ready nw ch : Nat) :
    (s.issue d c b w0 ready nw).chan d c ch = s.chan d c ch := by
  rw [State.chan, State.issue_core, State.chan]

theorem State.issue_chSt (s : State) (d c : Nat) (b : BlockRun) (w0 : Word) (ready nw : Nat) {ch : Nat} (hch : ch < 4) :
    (s.issue d c b w0 ready nw).chSt d c ch = s.chSt d c ch :=
  State.issue_get _ _ _ _ _ _ _ (by simp only [Reg.chState]; omega) (by simp only [Reg.chState]; omega)

/-! A channel stopped (R130) -/

/-- A request of one of a channel's MOVEs is outstanding. -/
def Chan.busy (x : Chan) : Bool := x.moves.any fun m => m.reqs.any fun r => r.how == 0

section
variable {s : State} {d c ch : Nat} (runs : s.chSt d c ch = 1 ∨ s.chSt d c ch = 2)
include runs

theorem State.chanStop_idle (idle : (s.chan d c ch).busy = false) : s.chanStop d c ch =
    (s.setChan d c ch { s.chan d c ch with moves := [], loops := [] }).setChSt d c ch 0 :=
  (if_pos runs).trans (if_neg (by simpa [Chan.busy] using idle))

theorem State.chanStop_busy (busy : (s.chan d c ch).busy = true) : s.chanStop d c ch = s.setChSt d c ch 3 :=
  (if_pos runs).trans (if_pos busy)

end

theorem State.sameButCores_chanStop (s : State) (d c ch : Nat) : SameButCores s (s.chanStop d c ch) := by
  unfold State.chanStop
  dsimp only
  split
  · split
    · exact s.sameButCores_put ..
    · exact (s.sameButCores_setChan ..).trans (State.sameButCores_put ..)
  · exact .refl s

theorem State.chanStop_block (s : State) (d c ch : Nat) : ((s.chanStop d c ch).core d c).block = (s.core d c).block := by
  unfold State.chanStop
  dsimp only
  split
  · split
    · rw [State.setChSt, State.core_put]
    · rw [State.setChSt, State.core_put, State.setChan_block]
  · rfl

theorem State.chanStop_seqPc (s : State) (d c ch : Nat) :
    (s.chanStop d c ch).get (Base.core d c) Reg.seqPc = s.get (Base.core d c) Reg.seqPc := by
  rw [State.get, State.chanStop_reg _ _ _ (by simp only [Reg.seqPc, Reg.chState]; omega), State.get]

/-! DMA_START and DMA_STOP -/

theorem State.seqHold_shows {b : BlockRun} (inTime : b.overran = false) (s : State) (d c : Nat) :
    s.seqHold d c b = s.put (Base.core d c) Reg.seqState 2 := by
  rw [State.seqHold, inTime]
  rfl

/-- A channel begins a block's program at a place. -/
def State.chanBegin (s : State) (d c ch : Nat) (b : BlockRun) (pc base carry : Nat) : State :=
  ((((s.setChan d c ch
    { Chan.idle with ctx := b.ctx, kind := b.kind, seq := b.seq, start := b.pc, began := b.began + 1 }).setChSt d c ch 1).put
      (Base.core d c) Reg.chPc pc ch).put (Base.core d c) Reg.chBase base ch).put (Base.core d c) Reg.chCarry carry ch

theorem State.sameButCores_chanBegin (s : State) (d c ch : Nat) (b : BlockRun) (pc base carry : Nat) :
    SameButCores s (s.chanBegin d c ch b pc base carry) :=
  (s.sameButCores_setChan ..).trans ((State.sameButCores_put ..).trans ((State.sameButCores_put ..).trans
    ((State.sameButCores_put ..).trans (State.sameButCores_put ..))))

theorem State.chanBegin_core (s : State) (d c ch : Nat) (b : BlockRun) (pc base carry : Nat) :
    (s.chanBegin d c ch b pc base carry).core d c = (s.setChan d c ch
      { Chan.idle with ctx := b.ctx, kind := b.kind, seq := b.seq, start := b.pc, began := b.began + 1 }).core d c := by
  rw [State.chanBegin, State.core_put, State.core_put, State.core_put, State.setChSt, State.core_put]

theorem State.chanBegin_seqPc (s : State) (d c ch : Nat) (b : BlockRun) (pc base carry : Nat) :
    (s.chanBegin d c ch b pc base carry).get (Base.core d c) Reg.seqPc = s.get (Base.core d c) Reg.seqPc := by
  have apart (off : Nat) (h : 0x200 ≤ off) : Base.core d c + Reg.seqPc.off + 0 * Reg.seqPc.step ≠
      Base.core d c + off + ch * 0x20 := by simp only [Reg.seqPc]; omega
  unfold State.chanBegin
  rw [State.get_put_addr _ _ _ _ _ _ _ _ (apart 0x200 (by decide)),
    State.get_put_addr _ _ _ _ _ _ _ _ (apart 0x208 (by decide)),
    State.get_put_addr _ _ _ _ _ _ _ _ (apart 0x200 (by decide)), State.setChSt,
    State.get_put_addr _ _ _ _ _ _ _ _ (apart 0x200 (by decide)), State.setChan, State.setCore_get]

/-- What the channel's registers show once it has begun. -/
theorem State.chanBegin_shows (s : State) (d c ch : Nat) (b : BlockRun) (pc base : Nat) {carry : Nat} (hc : carry < 2) :
    (s.chanBegin d c ch b pc base carry).chSt d c ch = 1 ∧
      (s.chanBegin d c ch b pc base carry).get (Base.core d c) Reg.chPc ch = pc % 2 ^ 20 ∧
      (s.chanBegin d c ch b pc base carry).get (Base.core d c) Reg.chCarry ch = carry := by
  have apart : Base.core d c + 0x200 + ch * 0x20 ≠ Base.core d c + 0x208 + ch * 0x20 := by omega
  unfold State.chanBegin
  refine ⟨?_, ?_, ?_⟩
  · rw [State.chSt, State.get_put_field _ _ _ _ _ _ _ _ (by rfl) (by decide) (by decide),
      State.get_put_addr _ _ _ _ _ _ _ _ apart,
      State.get_put_field _ _ _ _ _ _ _ _ (by rfl) (by decide) (by decide)]
    exact State.chSt_setChSt _ _ _ _ (by decide)
  · rw [State.get_put_field _ _ _ _ _ _ _ _ (by rfl) (by decide) (by decide),
      State.get_put_addr _ _ _ _ _ _ _ _ apart, State.get_put_same _ _ _ _ _ (by decide)]
    rfl
  · rw [State.get_put_same _ _ _ _ _ (by decide)]
    exact Nat.mod_eq_of_lt hc

/-- The block once its program has started: it waits for one without `CARRY`. -/
def BlockRun.starting (b : BlockRun) (w0 : Word) : BlockRun :=
  { b with unfixed := b.unfixed || !bit w0 37,
           holds := if !bit w0 37 then bits w0 39 38 :: b.holds else b.holds }

section
variable {s : State} {d c cycle ch off : Nat} {b : BlockRun} {ws : List Word} (command : AtCommand s d c 0x0A 0 b ws)
  (hch : bits (ws.getD 0 0) 39 38 = ch)
  (hoff : s.effOff d c (bits (ws.getD 0 0) 36 34) (bits (ws.getD 0 0) 19 0) 8 = off)
  (inside : s.offOk d c off 8 8 = true)
include command hch hoff inside

theorem State.seqDmaStart_begins (free : s.chSt d c ch = 0 ∨ s.chSt d c ch = 4) : s.seqDmaStart d c cycle =
    (s.issue d c (b.starting (ws.getD 0 0)) (ws.getD 0 0) cycle 0).chanBegin d c ch b (off / 8)
      (s.param d c (bits (ws.getD 0 0) 33 31)) (b2n (bit (ws.getD 0 0) 37)) := by
  subst hch hoff
  exact (State.seqCmd_run command rfl (if_pos inside) _).trans (if_pos free)

theorem State.seqDmaStart_waits (running : s.chSt d c ch ≠ 0) (alive : s.chSt d c ch ≠ 4) (inTime : b.overran = false) :
    s.seqDmaStart d c cycle = s.put (Base.core d c) Reg.seqState 2 := by
  subst hch hoff
  exact (State.seqCmd_run command rfl (if_pos inside) _).trans
    ((if_neg (by rintro (h | h); exacts [running h, alive h])).trans (State.seqHold_shows inTime ..))

end

theorem b2n_lt_two (x : Bool) : b2n x < 2 := by cases x <;> decide

theorem dmaStart_begins {s : State} {die : DieNo} {core : CoreNo} {cycle : Half} {ch off : Nat} {b : BlockRun}
    {ws : List Word} (command : AtCommand s die.val core.val 0x0A 0 b ws) (hch : bits (ws.getD 0 0) 39 38 = ch)
    (hoff : s.effOff die.val core.val (bits (ws.getD 0 0) 36 34) (bits (ws.getD 0 0) 19 0) 8 = off)
    (inside : s.offOk die.val core.val off 8 8 = true)
    (free : s.chSt die.val core.val ch = 0 ∨ s.chSt die.val core.val ch = 4) :
    ∃ t, exec (.dmaStart die core cycle) s = .next t ∧ Issued s t die.val core.val 0 cycle.toNat b (ws.getD 0 0) ∧
      t.chSt die.val core.val ch = 1 ∧ t.chan die.val core.val ch =
        { Chan.idle with ctx := b.ctx, kind := b.kind, seq := b.seq, start := b.pc, began := b.began + 1 } ∧
      t.get (Base.core die.val core.val) Reg.chPc ch = off / 8 % 2 ^ 20 ∧
      t.get (Base.core die.val core.val) Reg.chCarry ch = b2n (bit (ws.getD 0 0) 37) ∧ SameButCores s t := by
  have run : exec (.dmaStart die core cycle) s = .next (s.seqDmaStart die.val core.val cycle.toNat) := rfl
  rw [State.seqDmaStart_begins command hch hoff inside free] at run
  have same := (s.sameButCores_issue die.val core.val (b.starting (ws.getD 0 0)) (ws.getD 0 0) cycle.toNat 0).trans
    (State.sameButCores_chanBegin _ die.val core.val ch b (off / 8)
      (s.param die.val core.val (bits (ws.getD 0 0) 33 31)) (b2n (bit (ws.getD 0 0) 37)))
  obtain ⟨state, pc, carry⟩ := State.chanBegin_shows
    (s.issue die.val core.val (b.starting (ws.getD 0 0)) (ws.getD 0 0) cycle.toNat 0) die.val core.val ch b (off / 8)
    (s.param die.val core.val (bits (ws.getD 0 0) 33 31)) (b2n_lt_two (bit (ws.getD 0 0) 37))
  refine ⟨_, run, issued_of_sameIssue (u := s) (b' := b.starting (ws.getD 0 0)) rfl ?_ ?_ ?_, state, ?_, pc, carry, same⟩
  · rw [State.chanBegin_core, State.setChan_block]
  · exact State.chanBegin_seqPc ..
  · exact same.read State.pending fun _ => rfl
  · rw [State.chan, State.chanBegin_core]
    exact State.chan_setChan ..

/-- The block once it has stopped a channel: it waits until that one is idle. -/
def BlockRun.stopping (b : BlockRun) (ch : Nat) : BlockRun := { b with unfixed := true, holds := ch :: b.holds }

theorem State.seqDmaStop_stops {s : State} {d c ch : Nat} {b : BlockRun} {ws : List Word}
    (command : AtCommand s d c 0x0B 0 b ws) (hch : bits (ws.getD 0 0) 39 38 = ch) : s.seqDmaStop d c =
      (s.issue d c (b.stopping ch) (ws.getD 0 0) 0 0).chanStop d c ch := by
  subst hch
  exact State.seqCmd_run command rfl rfl _

theorem dmaStop_stops {s : State} {die : DieNo} {core : CoreNo} {ch : Nat} (four : ch < 4) {b : BlockRun}
    {ws : List Word} (command : AtCommand s die.val core.val 0x0B 0 b ws) (hch : bits (ws.getD 0 0) 39 38 = ch) :
    ∃ t, exec (.dmaStop die core) s = .next t ∧ Issued s t die.val core.val 0 0 b (ws.getD 0 0) ∧ SameButCores s t ∧
      ((s.chSt die.val core.val ch = 1 ∨ s.chSt die.val core.val ch = 2) →
        (s.chan die.val core.val ch).busy = false →
        t.chSt die.val core.val ch = 0 ∧ (t.chan die.val core.val ch).moves = []) ∧
      ((s.chSt die.val core.val ch = 1 ∨ s.chSt die.val core.val ch = 2) →
        (s.chan die.val core.val ch).busy = true → t.chSt die.val core.val ch = 3) := by
  have run : exec (.dmaStop die core) s = .next (s.seqDmaStop die.val core.val) := rfl
  rw [State.seqDmaStop_stops command hch] at run
  have same := (s.sameButCores_issue die.val core.val (b.stopping ch) (ws.getD 0 0) 0 0).trans
    (State.sameButCores_chanStop _ die.val core.val ch)
  have chan := s.issue_chan die.val core.val (b.stopping ch) (ws.getD 0 0) 0 0 ch
  have state := s.issue_chSt die.val core.val (b.stopping ch) (ws.getD 0 0) 0 0 four
  refine ⟨_, run, issued_of_sameIssue (u := s) (b' := b.stopping ch) rfl (State.chanStop_block ..) (State.chanStop_seqPc ..) ?_,
    same, fun runs idle => ?_, fun runs busy => ?_⟩
  · exact same.read State.pending fun _ => rfl
  · rw [State.chanStop_idle (by rwa [state]) (by rwa [chan])]
    refine ⟨State.chSt_setChSt _ _ _ _ (by decide), ?_⟩
    rw [State.setChSt, State.chan_congr (State.put_cores ..), State.chan_setChan]
  · rw [State.chanStop_busy (by rwa [state]) (by rwa [chan])]
    exact State.chSt_setChSt _ _ _ _ (by decide)

/-! The end of a block (R136) -/

theorem State.arr_setArr_other (s : State) (d c : Nat) (x : Arr) {a a' : Nat} (other : a' ≠ a) :
    (s.setArr d c a x).arr d c a' = s.arr d c a' := by
  rw [State.arr, State.setArr, State.core_setCore]
  exact cget_cset_other _ _ _ other

theorem State.endTargets_target (s : State) (d c : Nat) {a : Nat} (ha : a < 8) :
    ((s.endTargets d c).arr d c a).target = none := by
  have all (l : List Nat) : ∀ t : State, a ∈ l ∨ (t.arr d c a).target = none →
      ((l.foldl (fun t a => t.setArr d c a { t.arr d c a with target := none }) t).arr d c a).target = none := by
    induction l with
    | nil => exact fun t h => h.resolve_left (by simp)
    | cons x l ih =>
      intro t h
      refine ih _ ?_
      by_cases same : a = x
      · exact .inr (by rw [same, State.arr_setArr])
      · refine h.imp (fun h => (List.mem_cons.1 h).resolve_left same) fun h => ?_
        rwa [State.arr_setArr_other _ _ _ _ same]
  exact all _ s (.inl (List.mem_range.2 ha))

theorem State.setBlock_none_arr (s : State) (d c a : Nat) : (s.setBlock d c none).arr d c a = s.arr d c a := by
  rw [State.arr, State.setBlock, State.core_setCore, State.arr]

theorem State.endTargets_same (s : State) (d c : Nat) : SameButCores s (s.endTargets d c) :=
  SameButCores.foldl _ _ s fun t _ => t.sameButCores_setCore ..

/-- The core after its block's end, before its registers show it. -/
def State.blockLeft (s : State) (d c : Nat) (b : BlockRun) : State :=
  if b.spanEnd then ((s.endTargets d c).setBlock d c none).spanSet b.ctx false else (s.endTargets d c).setBlock d c none

theorem State.spanSet_keeps (s : State) (ctx : Nat) (on : Bool) : (s.spanSet ctx on).cores = s.cores ∧
    (s.spanSet ctx on).mem = s.mem ∧ (s.spanSet ctx on).units = s.units := ⟨rfl, rfl, rfl⟩

theorem State.blockLeft_keeps (s : State) (d c : Nat) (b : BlockRun) :
    (s.blockLeft d c b).cores = ((s.endTargets d c).setBlock d c none).cores ∧ (s.blockLeft d c b).mem = s.mem ∧
      (s.blockLeft d c b).units = s.units ∧ ∀ a, (s.blockLeft d c b).reg a = s.reg a := by
  have same := (s.endTargets_same d c).trans ((s.endTargets d c).sameButCores_setBlock d c none)
  have mem := same.read State.mem fun _ => rfl
  have units := same.read State.units fun _ => rfl
  have regs (a : Nat) : ((s.endTargets d c).setBlock d c none).reg a = s.reg a :=
    (State.setCore_reg ..).trans (State.endTargets_reg ..)
  unfold State.blockLeft
  split
  · obtain ⟨cores, mem', units'⟩ := ((s.endTargets d c).setBlock d c none).spanSet_keeps b.ctx false
    exact ⟨cores, mem'.trans mem, units'.trans units, fun a => (State.spanSet_reg ..).trans (regs a)⟩
  · exact ⟨rfl, mem, units, regs⟩

theorem State.blockComplete_done {s : State} {d c : Nat} {b : BlockRun} (block : (s.core d c).block = some b)
    (ended : b.ended = true) (done : s.blockDone d c b = true) (cycle : Nat) : s.blockComplete d c cycle =
      (((s.blockLeft d c b).put (Base.core d c) Reg.seqState 0).count (Base.core d c) Reg.blocks).put (Base.core d c)
        Reg.lastEnd (lastEndOf b cycle) := by
  unfold State.blockComplete
  rw [block]
  exact if_pos (by rw [ended, done]; rfl)

theorem blockComplete_done {s : State} {die : DieNo} {core : CoreNo} {b : BlockRun}
    (block : (s.core die.val core.val).block = some b) (ended : b.ended = true)
    (done : s.blockDone die.val core.val b = true) (cycle : Half) :
    ∃ t, exec (.blockComplete die core cycle) s = .next t ∧ (t.core die.val core.val).block = none ∧
      t.get (Base.core die.val core.val) Reg.seqState = 0 ∧
      t.get (Base.core die.val core.val) Reg.blocks =
        min (s.get (Base.core die.val core.val) Reg.blocks + 1) (2 ^ 32 - 1) ∧
      t.get (Base.core die.val core.val) Reg.lastEnd = lastEndOf b cycle.toNat % 2 ^ Reg.lastEnd.w ∧
      (∀ a, a < 8 → (t.arr die.val core.val a).target = none) ∧ t.mem = s.mem ∧ t.units = s.units := by
  have run : exec (.blockComplete die core cycle) s = .next (s.blockComplete die.val core.val cycle.toNat) := rfl
  rw [State.blockComplete_done block ended done] at run
  obtain ⟨cores, mem, units, regs⟩ := s.blockLeft_keeps die.val core.val b
  generalize s.blockLeft die.val core.val b = u at run cores mem units regs
  have same : SameButCores u _ := (u.sameButCores_put (Base.core die.val core.val) Reg.seqState 0 0).trans
    ((State.sameButCores_count _ (Base.core die.val core.val) Reg.blocks 1 0).trans
      (State.sameButCores_put _ (Base.core die.val core.val) Reg.lastEnd (lastEndOf b cycle.toNat) 0))
  have first : Base.core die.val core.val + 0 + 0 * 8 ≠ Base.core die.val core.val + 8 + 0 * 8 := by omega
  refine ⟨_, run, ?_, ?_, ?_, State.get_put_same _ _ _ _ _ (by decide), fun a ha => ?_, ?_, ?_⟩
  · rw [State.core_put, State.count, State.core_put, State.core_put, State.core, cores, ← State.core, State.block_setBlock]
  · rw [State.get_put_field _ _ _ _ _ _ _ _ (by rfl) (by decide) (by decide), State.get_count_addr _ _ _ _ _ _ _ _ first,
      State.get_put_same _ _ _ _ _ (by decide)]
    rfl
  · rw [State.get_put_addr _ _ _ _ _ _ _ _ first.symm, State.get_count_same _ _ _ _ _ (by decide),
      State.get_put_addr _ _ _ _ _ _ _ _ first.symm, State.get, regs]
    rfl
  · rw [State.arr_congr (State.put_cores ..), State.arr_congr (State.count_cores ..), State.arr_congr (State.put_cores ..),
      State.arr_congr cores, State.setBlock_none_arr, State.endTargets_target _ _ _ ha]
  · exact (same.read State.mem fun _ => rfl).trans mem
  · exact (same.read State.units fun _ => rfl).trans units

theorem State.blockComplete_waits {s : State} {d c : Nat} {b : BlockRun} (cycle : Nat)
    (h : (s.core d c).block = none ∨ ((s.core d c).block = some b ∧ (b.ended = false ∨ s.blockDone d c b = false))) :
    s.blockComplete d c cycle = s := by
  unfold State.blockComplete
  obtain none | ⟨running, waits⟩ := h
  · rw [none]
  · rw [running]
    exact if_neg (by rcases waits with e | e <;> simp [e])

/-! A carried program's deadline (R130) -/

theorem carryDeadline_stops {s : State} {die : DieNo} {core : CoreNo} {ch : Fin 4}
    (runs : s.chSt die.val core.val ch.val = 1 ∨ s.chSt die.val core.val ch.val = 2)
    (carry : s.get (Base.core die.val core.val) Reg.chCarry ch.val = 1)
    (past : s.spanOver (s.chan die.val core.val ch.val) = true)
    (idle : (s.chan die.val core.val ch.val).busy = false) :
    ∃ t, exec (.carryDeadline die core ch) s = .next t ∧ t.chSt die.val core.val ch.val = 0 ∧
      t.units = (s.workReason (s.chan die.val core.val ch.val).ctx (s.chan die.val core.val ch.val).kind
        (s.chan die.val core.val ch.val).seq Reason.overrun).units ∧ t.mem = s.mem := by
  have stops : s.carryDeadline die.val core.val ch.val = _ := if_pos ⟨runs, carry, past⟩
  have run : exec (.carryDeadline die core ch) s = .next (s.carryDeadline die.val core.val ch.val) := rfl
  rw [stops] at run
  have same := s.sameButCores_chanStop die.val core.val ch.val
  have work := s.workStep_chanStop die.val core.isLt ch.isLt
  have state : (s.chanStop die.val core.val ch.val).chSt die.val core.val ch.val = 0 := by
    rw [State.chanStop_idle runs idle]
    exact State.chSt_setChSt _ _ _ _ (by decide)
  have inCore : blockOf (Base.core die.val core.val + Reg.chState.off + ch.val * Reg.chState.step) = 0x02 := by
    rw [Nat.add_assoc]
    exact blockOf_core _ core.isLt (by have := ch.isLt; simp only [Reg.chState]; omega)
  generalize s.chanStop die.val core.val ch.val = u at run same work state
  refine ⟨_, run, ?_, ?_, ?_⟩
  · rw [State.chSt, State.log_get _ _ _ _ _ _ _ _ _ _ (by rw [inCore]; decide) (by rw [inCore]; decide), State.get,
      State.workReason_reg]
    exact state
  · rw [State.units_of_contents (State.log_contents ..)]
    exact State.workReason_units_congr (same.read State.units fun _ => rfl) work.sched ..
  · rw [State.mem_of_contents (State.log_contents ..), State.mem_of_offUnits (State.workReason_offUnits ..)]
    exact same.read State.mem fun _ => rfl

theorem State.carryDeadline_before {s : State} {d c ch : Nat}
    (h : (s.chSt d c ch ≠ 1 ∧ s.chSt d c ch ≠ 2) ∨ s.get (Base.core d c) Reg.chCarry ch = 0 ∨
      s.spanOver (s.chan d c ch) = false) : s.carryDeadline d c ch = s := by
  refine if_neg ?_
  rintro ⟨runs, carry, past⟩
  rcases h with ⟨one, two⟩ | none | not
  · exact runs.elim one two
  · rw [none] at carry
    exact absurd carry (by decide)
  · rw [not] at past
    exact absurd past (by decide)

/-- Settles O26: DMA_START begins its program (`dmaStart_begins`) or waits, DMA_STOP stops one (`dmaStop_stops`), a block
whose commands have completed ends (`blockComplete_done`), and a carried program meets its deadline
(`carryDeadline_stops`). -/
theorem programsAndBlockEnd : Obligations.ProgramsAndBlockEnd := by
  unfold Obligations.ProgramsAndBlockEnd
  intro s die core b ws cycle ch
  refine ⟨fun command hch off hoff inside => ⟨dmaStart_begins command hch hoff inside, fun running alive inTime => ?_⟩,
    dmaStop_stops ch.isLt, fun block ended done => blockComplete_done block ended done cycle,
    fun waits => ?_, carryDeadline_stops, fun before => ?_⟩
  · exact congrArg Host.Outcome.next (State.seqDmaStart_waits command hch hoff inside running alive inTime)
  · exact congrArg Host.Outcome.next (State.blockComplete_waits _ waits)
  · exact congrArg Host.Outcome.next (State.carryDeadline_before before)

end Sys2Proof.Machine
end

section
/-! PROOFS. Slot entries: their push, and the comparison that starts or discards one (R122 to R124), and O22. -/

namespace Sys2Proof.Machine

/-! The rules of the queue's operations -/

theorem State.workStep_showQueue (s : State) (d : Nat) {c : Nat} (hc : c < 48) : s.WorkStep (s.showQueue d c) :=
  (State.workStep_put s d hc Reg.headSlot _ 0 (by decide)).trans (State.workStep_put _ d hc Reg.slotDepth _ 0 (by decide))

theorem State.showQueue_core (s : State) (d c : Nat) : (s.showQueue d c).core d c = s.core d c := by
  unfold State.showQueue
  rw [State.core_put, State.core_put]

theorem State.showQueue_get (s : State) (d c : Nat) {base : Nat} {f : Fld} {i : Nat}
    (apart : base + f.off + i * f.step ≠ Base.core d c + 0x18) : (s.showQueue d c).get base f i = s.get base f i := by
  unfold State.showQueue
  rw [State.get_put_addr _ _ _ _ _ _ _ _ (by simpa [Reg.slotDepth] using apart),
    State.get_put_addr _ _ _ _ _ _ _ _ (by simpa [Reg.headSlot] using apart)]

theorem State.showQueue_depth (s : State) (d c : Nat) :
    (s.showQueue d c).get (Base.core d c) Reg.slotDepth = (s.core d c).queue.length % 64 := by
  unfold State.showQueue
  rw [State.get_put_same _ _ _ _ _ (by decide)]
  rfl

theorem State.setCtxRec_keeps (s : State) (ctx : Nat) (r : CtxRec) :
    s.WorkStep (s.setCtxRec ctx r) ∧ (s.setCtxRec ctx r).cores = s.cores ∧ ∀ a, (s.setCtxRec ctx r).reg a = s.reg a :=
  ⟨⟨rfl, fun _ _ => rfl⟩, rfl, fun _ => rfl⟩

theorem State.spanRun_keeps (s : State) (w0 : Word) :
    s.WorkStep (s.spanRun w0) ∧ (s.spanRun w0).cores = s.cores ∧ ∀ a, (s.spanRun w0).reg a = s.reg a := by
  have sets (t : State) (on : Bool) (r : CtxRec) : ∀ u, u = (if on then t.setCtxRec (bits w0 47 44) r else t) →
      t.WorkStep u ∧ u.cores = t.cores ∧ ∀ a, u.reg a = t.reg a := by
    rintro u rfl
    split
    · exact t.setCtxRec_keeps ..
    · exact ⟨.refl t, rfl, fun _ => rfl⟩
  unfold State.spanRun
  dsimp only
  obtain ⟨begin', beginCores, beginRegs⟩ := sets s (bit w0 43)
    { s.ctxRec (bits w0 47 44) with span := true, spanLast := 0 } _ rfl
  obtain ⟨last, lastCores, lastRegs⟩ := sets _ (bit w0 42) _ _ rfl
  exact ⟨begin'.trans last, lastCores.trans beginCores, fun a => (lastRegs a).trans (beginRegs a)⟩

theorem State.grant_keeps (s : State) (ctx : Nat) (u : UnitId) : (s.grant ctx u).cores = s.cores ∧
    (s.grant ctx u).mem = s.mem ∧ (s.grant ctx u).units = s.units ∧ ∀ a, (s.grant ctx u).reg a = s.reg a := by
  unfold State.grant
  split <;> exact ⟨rfl, rfl, rfl, fun _ => rfl⟩

/-! A push (R122) -/

/-- The entry that a push of a fourth word makes. -/
def State.pushed (s : State) (d c : Nat) (w3 : Word) : List Word :=
  (List.range 3).map (fun i => cget (fun _ => 0) (s.core d c).latch i) ++ [w3]

/-- The core with the entry that a push makes. -/
def State.pushedCore (s : State) (d c : Nat) (w3 : Word) : Core :=
  { s.core d c with queue := (s.core d c).queue ++ [s.pushed d c w3] }

theorem State.slotPush_room {s : State} {d c : Nat} (here : s.isFenced d 0xFF = false)
    (room : (s.core d c).queue.length < 32) (w3 : Word) : s.slotPush d c w3 =
      (((s.setCore d c (s.pushedCore d c w3)).showQueue d c).workScheduled).reply Status.ok :=
  (if_neg (by simp [here])).trans (if_neg (Nat.not_le.2 room))

theorem State.workScheduled_keeps (s : State) : s.workScheduled.cores = s.cores ∧ s.workScheduled.mem = s.mem ∧
    s.workScheduled.units = s.units ∧ s.workScheduled.devState =
      (if s.devState = Dev.ready then Dev.running else s.devState) ∧
    ∀ a, a ≠ Base.device → s.workScheduled.reg a = s.reg a := by
  unfold State.workScheduled
  split
  · exact ⟨State.put_cores .., State.mem_of_contents (State.put_contents ..),
      State.units_of_contents (State.put_contents ..), State.get_put_same _ _ _ _ _ (by decide),
      fun a ha => State.reg_put_other _ _ _ _ _ ha⟩
  · exact ⟨rfl, rfl, rfl, rfl, fun _ _ => rfl⟩

theorem core_ne_device (d : Nat) {c : Nat} (hc : c < 48) {f : Fld} {i : Nat} (ho : f.off + i * f.step < 0x400) :
    Base.core d c + f.off + i * f.step ≠ Base.device := by
  intro same
  have inCore := blockOf_core d hc ho
  rw [← Nat.add_assoc, same] at inCore
  exact absurd inCore (by decide)

theorem slotPush_queues {s : State} {die : DieNo} {core : CoreNo} {w3 : Word} (awake : s.awake = true)
    (here : s.isFenced die.val 0xFF = false) (room : (s.core die.val core.val).queue.length < 32) :
    ∃ t, exec (.slotPush die core w3) s = .next t ∧ t.core die.val core.val = s.pushedCore die.val core.val w3 ∧
      t.get (Base.core die.val core.val) Reg.slotDepth = (s.core die.val core.val).queue.length + 1 ∧
      t.devState = (if s.devState = Dev.ready then Dev.running else s.devState) ∧ t.answer = ⟨0, 0, []⟩ ∧
      t.mem = s.mem ∧ t.units = s.units := by
  have run : exec (.slotPush die core w3) s = .next (s.slotPush die.val core.val w3) :=
    congrArg Host.Outcome.next (if_pos awake)
  rw [State.slotPush_room here room] at run
  have step := (s.workStep_setCore die.val core.val (s.pushedCore die.val core.val w3)).trans
    (State.workStep_showQueue _ die.val core.isLt)
  have record := (s.setCore die.val core.val (s.pushedCore die.val core.val w3)).showQueue_core die.val core.val
  have depth := (s.setCore die.val core.val (s.pushedCore die.val core.val w3)).showQueue_depth die.val core.val
  rw [State.core_setCore] at record depth
  generalize (s.setCore die.val core.val (s.pushedCore die.val core.val w3)).showQueue die.val core.val = u
    at run step record depth
  have dev : u.devState = s.devState := step.get (by decide)
  obtain ⟨cores, mem, units, state, regs⟩ := u.workScheduled_keeps
  generalize u.workScheduled = v at run cores mem units state regs
  refine ⟨_, run, ?_, ?_, ?_, rfl, ?_, ?_⟩
  · rw [State.core, State.reply_cores, cores, ← State.core, record]
  · rw [State.reply_get, State.get, regs _ (core_ne_device _ core.isLt (by decide)), ← State.get, depth, State.pushedCore, List.length_append]
    exact Nat.mod_eq_of_lt (by rw [List.length_singleton]; omega)
  · rw [State.devState, State.reply_get, ← State.devState, state, dev]
  · rw [State.reply_mem, mem, State.mem_of_offWork step.1]
  · rw [State.reply_units, units, State.units_of_offWork step.1]

/-! The comparison of a head entry (R123) -/

/-- How far an entry's slot lies ahead of the device's position, modulo 2^16. -/
def State.slotAhead (s : State) (e : List Word) : Nat := (bits (e.getD 0 0) 63 48 + 65536 - s.sched % 65536) % 65536

/-- The queue of a core without its head entry, shown. -/
def State.popped (s : State) (d c : Nat) (rest : List (List Word)) : State :=
  (s.setCore d c { s.core d c with queue := rest }).showQueue d c

/-- The core that has compared its entries in this stroke. -/
def State.comparedCore (s : State) (d c : Nat) : Core := { s.core d c with compared := s.stroke + 1 }

section
variable {s : State} {d c : Nat} {e : List Word} {rest : List (List Word)} (queue : (s.core d c).queue = e :: rest)
include queue

theorem State.slotCompare_later (fuel : Nat) (ahead : 0 < s.slotAhead e) (near : s.slotAhead e < 32768) :
    s.slotCompare d c (fuel + 1) = s := by
  unfold State.slotCompare
  rw [queue]
  exact (if_neg (Nat.ne_of_gt ahead)).trans (if_pos near)

theorem State.slotCompare_now (fuel : Nat) (now : s.slotAhead e = 0) :
    s.slotCompare d c (fuel + 1) = (s.popped d c rest).startBlock d c e := by
  unfold State.slotCompare
  rw [queue]
  exact if_pos now

end

/-- An entry whose slot has passed: counted, with the reason in its unit. -/
def State.slotMissed (s : State) (d c : Nat) (e : List Word) : State :=
  let w0 := e.getD 0 0
  let t := (s.count (Base.core d c) Reg.missedSlots).spanRun w0
  (if bit w0 42 then t.spanSet (bits w0 47 44) false else t).workReason (bits w0 47 44) (bits w0 41 40)
    (bits (e.getD 1 0) 63 32) Reason.missing

theorem State.slotCompare_passed {s : State} {d c : Nat} {e : List Word} {rest : List (List Word)}
    (queue : (s.core d c).queue = e :: rest) (fuel : Nat) (passed : 32768 ≤ s.slotAhead e) :
    s.slotCompare d c (fuel + 1) = ((s.popped d c rest).slotMissed d c e).slotCompare d c fuel := by
  rw [State.slotCompare.eq_def]
  dsimp only
  rw [queue]
  exact (if_neg (show s.slotAhead e ≠ 0 by omega)).trans (if_neg (show ¬ s.slotAhead e < 32768 by omega))

theorem State.slotCompare_empty {s : State} {d c : Nat} (queue : (s.core d c).queue = []) (fuel : Nat) :
    s.slotCompare d c fuel = s := by
  cases fuel with
  | zero => rfl
  | succ n =>
    rw [State.slotCompare.eq_def]
    dsimp only
    rw [queue]

theorem State.slotMissed_keeps (s : State) (d : Nat) {c : Nat} (hc : c < 48) (e : List Word) :
    (s.slotMissed d c e).core d c = s.core d c ∧
      (s.slotMissed d c e).get (Base.core d c) Reg.missedSlots =
        min (s.get (Base.core d c) Reg.missedSlots + 1) 255 ∧
      (s.slotMissed d c e).units = (s.workReason (bits (e.getD 0 0) 47 44) (bits (e.getD 0 0) 41 40)
        (bits (e.getD 1 0) 63 32) Reason.missing).units ∧ (s.slotMissed d c e).mem = s.mem := by
  obtain ⟨span, cores, regs⟩ := (s.count (Base.core d c) Reg.missedSlots).spanRun_keeps (e.getD 0 0)
  have counted := State.get_count_same s (Base.core d c) Reg.missedSlots 1 0 (by decide)
  have record : (s.count (Base.core d c) Reg.missedSlots).core d c = s.core d c := State.core_put ..
  have step := (s.workStep_count d hc Reg.missedSlots 1 0 (by decide)).trans span
  unfold State.slotMissed
  dsimp only
  generalize (s.count (Base.core d c) Reg.missedSlots).spanRun (e.getD 0 0) = u at span cores regs step
  have ends : ∀ v, v = (if bit (e.getD 0 0) 42 then u.spanSet (bits (e.getD 0 0) 47 44) false else u) →
      v.cores = u.cores ∧ (∀ a, v.reg a = u.reg a) ∧ u.WorkStep v := by
    rintro v rfl
    split
    · exact ⟨(State.spanSet_keeps ..).1, State.spanSet_reg _ _ _, State.workStep_spanSet ..⟩
    · exact ⟨rfl, fun _ => rfl, .refl u⟩
  generalize (if bit (e.getD 0 0) 42 then u.spanSet (bits (e.getD 0 0) 47 44) false else u) = v at ends
  obtain ⟨cores', regs', step'⟩ := ends v rfl
  have all := step.trans step'
  refine ⟨?_, ?_, ?_, ?_⟩
  · rw [State.core, State.cores_of_offUnits (State.workReason_offUnits ..), cores', cores, ← State.core, record]
  · rw [State.get, State.workReason_reg, regs', regs, ← State.get, counted]
    rfl
  · exact State.workReason_units_congr (State.units_of_offWork all.1) all.sched ..
  · rw [State.mem_of_offUnits (State.workReason_offUnits ..), State.mem_of_offWork all.1]

/-! The start of a block (R124) -/

/-- The block of an entry, at the word after its header. -/
def State.entryBlock (s : State) (d c : Nat) (e : List Word) : BlockRun :=
  let w0 := e.getD 0 0
  { ctx := bits w0 47 44, kind := bits w0 41 40, seq := bits (e.getD 1 0) 63 32, slot := bits w0 63 48,
    spanEnd := bit w0 42, cast := bits w0 15 0, base := bits w0 39 28, len := bits (s.fetch d c (bits w0 39 28)) 12 0,
    pc := bits w0 39 28 + 1, loops := [], last := 119, ended := false, overran := false, edge := s.strokes.cycles,
    began := s.stroke, done := 119, unfixed := false, holds := [], vprev := none }

/-- The values of P0 to P7 that an entry gives. -/
def entryParams (e : List Word) : List Nat :=
  [0, bits (e.getD 2 0) 31 0, bits (e.getD 2 0) 63 32, bits (e.getD 3 0) 31 0, bits (e.getD 3 0) 63 32, 0, 0, 0]

/-- The block runs, in the span of its entry. -/
def State.entryRuns (s : State) (d c : Nat) (e : List Word) : State :=
  ((s.grant (bits (e.getD 0 0) 47 44) (uid d c)).setBlock d c (some (s.entryBlock d c e))).spanRun (e.getD 0 0)

/-- The sequencer shows the block of an entry. -/
def State.entryShown (s : State) (d c : Nat) (e : List Word) : State :=
  ((s.put (Base.core d c) Reg.seqState 1).put (Base.core d c) Reg.seqCtx (bits (e.getD 0 0) 47 44)).put (Base.core d c)
    Reg.seqSlot (bits (e.getD 0 0) 63 48)

/-- The parameters of a core are set. -/
def State.paramsSet (s : State) (d c : Nat) (ps : List Nat) (n : Nat) : State :=
  (List.range n).foldl (fun s i => s.put (Base.core d c) Reg.param (ps.getD i 0) i) s

theorem State.paramsSet_succ (s : State) (d c : Nat) (ps : List Nat) (n : Nat) : s.paramsSet d c ps (n + 1) =
    (s.paramsSet d c ps n).put (Base.core d c) Reg.param (ps.getD n 0) n := by
  rw [State.paramsSet, List.range_succ, List.foldl_append]
  rfl

theorem State.paramsSet_param (s : State) (d c : Nat) (ps : List Nat) {n i : Nat} (hi : i < n) :
    (s.paramsSet d c ps n).get (Base.core d c) Reg.param i = ps.getD i 0 % 2 ^ 32 := by
  induction n with
  | zero => exact absurd hi (Nat.not_lt_zero i)
  | succ n ih =>
    rw [State.paramsSet_succ]
    by_cases last : i = n
    · rw [last]
      exact State.get_put_same _ _ _ _ _ (by decide)
    · rw [State.get_put_addr _ _ _ _ _ _ _ _ (by simp only [Reg.param]; omega), ih (by omega)]

theorem State.paramsSet_keeps (s : State) (d : Nat) {c n : Nat} (hc : c < 48) (hn : n ≤ 8) (ps : List Nat) :
    s.WorkStep (s.paramsSet d c ps n) ∧ (s.paramsSet d c ps n).core d c = s.core d c ∧
      (s.paramsSet d c ps n).get (Base.core d c) Reg.seqState = s.get (Base.core d c) Reg.seqState := by
  induction n with
  | zero => exact ⟨.refl s, rfl, rfl⟩
  | succ n ih =>
    obtain ⟨step, record, state⟩ := ih (by omega)
    rw [State.paramsSet_succ]
    refine ⟨step.trans (State.workStep_put _ d hc _ _ _ (by simp only [Reg.param]; omega)), ?_, ?_⟩
    · rw [State.core_put, record]
    · rw [State.get_put_addr _ _ _ _ _ _ _ _ (by simp only [Reg.param, Reg.seqState]; omega), state]

theorem State.entryRuns_keeps (s : State) (d : Nat) {c : Nat} (hc : c < 48) (e : List Word) :
    ((s.entryRuns d c e).core d c) = { s.core d c with block := some (s.entryBlock d c e) } ∧
      (s.entryRuns d c e).mem = s.mem ∧ (s.entryRuns d c e).units = s.units ∧
      ∀ a, blockOf a ≠ 0x02 → (s.entryRuns d c e).reg a = s.reg a := by
  obtain ⟨cores, mem, units, regs⟩ := s.grant_keeps (bits (e.getD 0 0) 47 44) (uid d c)
  unfold State.entryRuns
  generalize s.grant (bits (e.getD 0 0) 47 44) (uid d c) = u at cores mem units regs
  have set := u.workStep_setBlock d hc (some (s.entryBlock d c e))
  have record : (u.setBlock d c (some (s.entryBlock d c e))).core d c =
      { s.core d c with block := some (s.entryBlock d c e) } := by
    have same : u.core d c = s.core d c := congrArg (cget _ · _) cores
    rw [State.setBlock, State.core_put, State.core_setCore, same]
  generalize u.setBlock d c (some (s.entryBlock d c e)) = v at set record
  obtain ⟨span, cores', -⟩ := v.spanRun_keeps (e.getD 0 0)
  refine ⟨?_, ?_, ?_, fun a ha => ?_⟩
  · rw [State.core, cores', ← State.core, record]
  · rw [State.mem_of_offWork span.1, State.mem_of_offWork set.1, mem]
  · rw [State.units_of_offWork span.1, State.units_of_offWork set.1, units]
  · rw [span.2 a ha, set.2 a ha, regs]

theorem State.entryShown_keeps (s : State) (d : Nat) {c : Nat} (hc : c < 48) (e : List Word) :
    s.WorkStep (s.entryShown d c e) ∧ (s.entryShown d c e).core d c = s.core d c ∧
      (s.entryShown d c e).get (Base.core d c) Reg.seqState = 1 := by
  refine ⟨(State.workStep_put s d hc _ _ _ (by decide)).trans ((State.workStep_put _ d hc _ _ _ (by decide)).trans
    (State.workStep_put _ d hc _ _ _ (by decide))), ?_, ?_⟩
  · rw [State.entryShown, State.core_put, State.core_put, State.core_put]
  · rw [State.entryShown, State.get_put_field _ _ _ _ _ _ _ _ (by rfl) (by decide) (by decide),
      State.get_put_field _ _ _ _ _ _ _ _ (by rfl) (by decide) (by decide), State.get_put_same _ _ _ _ _ (by decide)]
    rfl

/-- The state in which an entry's block has started. -/
def State.entryStarted (s : State) (d c : Nat) (e : List Word) : State :=
  ((s.entryRuns d c e).entryShown d c e).paramsSet d c (entryParams e) 8

theorem State.entryStarted_keeps (s : State) (d : Nat) {c : Nat} (hc : c < 48) (e : List Word) :
    (s.entryStarted d c e).core d c = { s.core d c with block := some (s.entryBlock d c e) } ∧
      (s.entryStarted d c e).get (Base.core d c) Reg.seqState = 1 ∧ (s.entryStarted d c e).mem = s.mem ∧
      (s.entryStarted d c e).units = s.units ∧
      ∀ a, blockOf a ≠ 0x02 → (s.entryStarted d c e).reg a = s.reg a := by
  obtain ⟨record, mem, units, regs⟩ := s.entryRuns_keeps d hc e
  obtain ⟨shown, record', state⟩ := (s.entryRuns d c e).entryShown_keeps d hc e
  obtain ⟨set, record'', state'⟩ := ((s.entryRuns d c e).entryShown d c e).paramsSet_keeps d hc (Nat.le_refl 8)
    (entryParams e)
  have step := shown.trans set
  exact ⟨record''.trans (record'.trans record), state'.trans state, (State.mem_of_offWork step.1).trans mem,
    (State.units_of_offWork step.1).trans units, fun a ha => (step.2 a ha).trans (regs a ha)⟩

theorem State.startBlock_starts {s : State} {d c : Nat} (hc : c < 48) {e : List Word} {head : Word}
    (fetched : s.fetch d c (bits (e.getD 0 0) 39 28) = head) (code : bits head 63 58 = 0x01)
    (plain : bits head 57 56 = 0) (ctx : bits head 39 36 = bits (e.getD 0 0) 47 44)
    (budget : bits head 31 16 ≤ s.get Base.device Reg.budget) : s.startBlock d c e = s.entryStarted d c e := by
  obtain ⟨-, -, -, -, regs⟩ := s.entryStarted_keeps d hc e
  have same : (s.entryStarted d c e).get Base.device Reg.budget = s.get Base.device Reg.budget := by
    rw [State.get, regs _ (by decide), State.get]
  subst fetched
  refine if_pos ⟨code, plain, ctx, ?_⟩
  rw [← same] at budget
  exact budget

/-! Cycle 120 of a stroke that runs slots (R123) -/

section
variable {s : State} {die : DieNo} {core : CoreNo}

theorem State.slotStart_compares {d c : Nat} (slots : s.runsSlots = true) (up : s.coreUp d c = true)
    (idle : (s.core d c).block = none) (fresh' : (s.core d c).compared ≠ s.stroke + 1) : s.slotStart d c =
      (s.setCore d c (s.comparedCore d c)).slotCompare d c ((s.core d c).queue.length + 1) := by
  unfold State.slotStart
  dsimp only
  rw [if_pos (by simp [slots, up, idle, fresh'])]
  rfl

/-- The state after a core's entries are marked compared in this stroke. -/
def State.compares (s : State) (d c : Nat) : State := s.setCore d c (s.comparedCore d c)

theorem State.compares_ahead (s : State) (d c : Nat) (e : List Word) : (s.compares d c).slotAhead e = s.slotAhead e := by
  unfold State.slotAhead State.compares State.sched
  rw [State.setCore_get]

theorem State.popped_keeps (s : State) (d : Nat) {c : Nat} (hc : c < 48) (rest : List (List Word)) :
    s.WorkStep (s.popped d c rest) ∧ (s.popped d c rest).core d c = { s.core d c with queue := rest } ∧
      (s.popped d c rest).get (Base.core d c) Reg.missedSlots = s.get (Base.core d c) Reg.missedSlots := by
  refine ⟨(State.workStep_setCore ..).trans (State.workStep_showQueue _ d hc), ?_, ?_⟩
  · rw [State.popped, State.showQueue_core, State.core_setCore]
  · rw [State.popped, State.showQueue_get _ _ _ (by simp only [Reg.missedSlots]; omega), State.setCore_get]

variable {e : List Word} {rest : List (List Word)} (slots : s.runsSlots = true) (up : s.coreUp die.val core.val = true)
  (idle : (s.core die.val core.val).block = none) (new : (s.core die.val core.val).compared ≠ s.stroke + 1)
  (queue : (s.core die.val core.val).queue = e :: rest)
include slots up idle new queue

theorem slotStart_keeps (ahead : 0 < s.slotAhead e) (near : s.slotAhead e < 32768) :
    ∃ t, exec (.slotStart die core) s = .next t ∧ t.core die.val core.val = s.comparedCore die.val core.val ∧
      t.regs = s.regs ∧ t.mem = s.mem := by
  have run : exec (.slotStart die core) s = .next (s.slotStart die.val core.val) := rfl
  have same := s.compares_ahead die.val core.val e
  rw [State.slotStart_compares slots up idle new, State.slotCompare_later (by rw [State.core_setCore]; exact queue) _
    (same.symm ▸ ahead) (same.symm ▸ near)] at run
  exact ⟨_, run, State.core_setCore .., State.setCore_regs .., State.setCore_mem ..⟩

theorem slotStart_discards (passed : 32768 ≤ s.slotAhead e) (last : rest = []) :
    ∃ t, exec (.slotStart die core) s = .next t ∧
      t.core die.val core.val = { s.comparedCore die.val core.val with queue := [] } ∧
      t.get (Base.core die.val core.val) Reg.missedSlots =
        min (s.get (Base.core die.val core.val) Reg.missedSlots + 1) 255 ∧
      t.units = (s.workReason (bits (e.getD 0 0) 47 44) (bits (e.getD 0 0) 41 40) (bits (e.getD 1 0) 63 32)
        Reason.missing).units ∧ t.mem = s.mem := by
  subst last
  have run : exec (.slotStart die core) s = .next (s.slotStart die.val core.val) := rfl
  have same := s.compares_ahead die.val core.val e
  obtain ⟨step, record, missed⟩ := (s.compares die.val core.val).popped_keeps die.val core.isLt []
  rw [State.slotStart_compares slots up idle new, State.slotCompare_passed (by rw [State.core_setCore]; exact queue) _
    (same.symm ▸ passed), ← State.compares] at run
  have all := (s.workStep_setCore die.val core.val (s.comparedCore die.val core.val)).trans step
  generalize (s.compares die.val core.val).popped die.val core.val [] = u at run step record missed all
  obtain ⟨record', missed', units, mem⟩ := u.slotMissed_keeps die.val core.isLt e
  rw [State.slotCompare_empty (by rw [record', record])] at run
  refine ⟨_, run, ?_, ?_, ?_, ?_⟩
  · rw [record', record, State.compares, State.core_setCore]
  · rw [missed', missed, State.compares, State.setCore_get]
  · rw [units]
    exact State.workReason_units_congr (State.units_of_offWork all.1) all.sched ..
  · rw [mem, State.mem_of_offWork all.1]

theorem slotStart_starts (now : s.slotAhead e = 0) {head : Word}
    (fetched : s.fetch die.val core.val (bits (e.getD 0 0) 39 28) = head) (code : bits head 63 58 = 0x01)
    (plain : bits head 57 56 = 0) (ctx : bits head 39 36 = bits (e.getD 0 0) 47 44)
    (budget : bits head 31 16 ≤ s.get Base.device Reg.budget) :
    ∃ t b, exec (.slotStart die core) s = .next t ∧ (t.core die.val core.val).block = some b ∧
      (t.core die.val core.val).queue = rest ∧ b.ctx = bits (e.getD 0 0) 47 44 ∧
      b.kind = bits (e.getD 0 0) 41 40 ∧ b.seq = bits (e.getD 1 0) 63 32 ∧ b.slot = bits (e.getD 0 0) 63 48 ∧
      b.pc = bits (e.getD 0 0) 39 28 + 1 ∧ b.len = bits head 12 0 ∧ b.loops = [] ∧ b.ended = false ∧
      t.get (Base.core die.val core.val) Reg.seqState = 1 ∧
      t.get (Base.core die.val core.val) Reg.param 1 = bits (e.getD 2 0) 31 0 ∧
      t.get (Base.core die.val core.val) Reg.param 4 = bits (e.getD 3 0) 63 32 ∧
      t.get (Base.core die.val core.val) Reg.param 5 = 0 ∧ t.mem = s.mem ∧ t.units = s.units := by
  have run : exec (.slotStart die core) s = .next (s.slotStart die.val core.val) := rfl
  have same := s.compares_ahead die.val core.val e
  obtain ⟨step, record, -⟩ := (s.compares die.val core.val).popped_keeps die.val core.isLt rest
  rw [State.slotStart_compares slots up idle new, ← State.compares,
    State.slotCompare_now (by rw [State.compares, State.core_setCore]; exact queue) _ (same.trans now)] at run
  have all := (s.workStep_setCore die.val core.val (s.comparedCore die.val core.val)).trans step
  generalize (s.compares die.val core.val).popped die.val core.val rest = u at run step record all
  rw [State.compares, State.core_setCore] at record
  have fetched' : u.fetch die.val core.val (bits (e.getD 0 0) 39 28) = head := by
    rw [State.fetch, record, ← fetched]
    rfl
  have budget' : bits head 31 16 ≤ u.get Base.device Reg.budget := by rwa [all.get (by decide)]
  rw [State.startBlock_starts core.isLt fetched' code plain ctx budget'] at run
  obtain ⟨record', state, mem, units, -⟩ := u.entryStarted_keeps die.val core.isLt e
  have params (i : Nat) (hi : i < 8) := ((u.entryRuns die.val core.val e).entryShown die.val core.val e).paramsSet_param
    die.val core.val (entryParams e) hi
  refine ⟨_, u.entryBlock die.val core.val e, run, ?_, ?_, rfl, rfl, rfl, rfl, rfl, ?_, rfl, rfl, state, ?_, ?_, ?_, ?_, ?_⟩
  · rw [record']
  · rw [record', record]
  · rw [State.entryBlock, fetched']
  · exact (params 1 (by decide)).trans (Nat.mod_eq_of_lt (bits_lt_pow _ _ _))
  · exact (params 4 (by decide)).trans (Nat.mod_eq_of_lt (bits_lt_pow _ _ _))
  · exact params 5 (by decide)
  · rw [mem, State.mem_of_offWork all.1]
  · rw [units, State.units_of_offWork all.1]

end

theorem State.slotStart_none {s : State} {d c : Nat} (h : s.runsSlots = false ∨ (s.core d c).block ≠ none) :
    s.slotStart d c = s := by
  refine if_neg ?_
  rcases h with none | running
  · simp [none]
  · cases block : (s.core d c).block with
    | none => exact absurd block running
    | some b => simp

/-- Settles O22: a push queues or is refused (`slotPush_queues`), and the head entry of an idle core is kept
(`slotStart_keeps`), discarded (`slotStart_discards`) or started (`slotStart_starts`). -/
theorem slotEntries : Obligations.SlotEntries := by
  unfold Obligations.SlotEntries
  intro s die core w3 e rest
  refine ⟨fun awake fenced => ?_, fun awake here full => ?_, slotPush_queues, fun asleep => ?_,
    fun slots up idle new queue diff hdiff => ?_, fun none => ?_⟩
  · exact congrArg Host.Outcome.next ((if_pos awake).trans (if_pos fenced))
  · exact congrArg Host.Outcome.next ((if_pos awake).trans ((if_neg (by simp [here])).trans (if_pos full)))
  · exact congrArg Host.Outcome.next (if_neg (by simp [asleep]))
  · subst hdiff
    exact ⟨slotStart_keeps slots up idle new queue, slotStart_discards slots up idle new queue,
      fun now head fetched code plain ctx budget =>
        slotStart_starts slots up idle new queue now fetched code plain ctx budget⟩
  · exact congrArg Host.Outcome.next (State.slotStart_none none)

end Sys2Proof.Machine
end

section
/-! PROOFS. Words written for a unit (R31 to R33, R146): what they leave in memory, whatever else differs. -/

namespace Sys2Proof.Machine

/-! States in which writes leave the same memory -/

/-- Two states that agree on memory, on where its words lie, and on who may access them. -/
structure State.SameAccess (s t : State) : Prop extends s.SameWords t where
  eff : t.eff = s.eff
  um : t.um = s.um

theorem State.eff_of_contents {s t : State} (h : t.contents = s.contents) : t.eff = s.eff :=
  (congrArg State.eff h : t.contents.eff = s.contents.eff)

theorem State.um_of_contents {s t : State} (h : t.contents = s.contents) : t.um = s.um :=
  (congrArg State.um h : t.contents.um = s.contents.um)

theorem State.eff_of_offMem {s t : State} (h : t.offMem = s.offMem) : t.eff = s.eff :=
  (congrArg State.eff h : t.offMem.eff = s.offMem.eff)

theorem State.um_of_offMem {s t : State} (h : t.offMem = s.offMem) : t.um = s.um :=
  (congrArg State.um h : t.offMem.um = s.offMem.um)

theorem State.faults_of_offMem {s t : State} (h : t.offMem = s.offMem) : t.faults = s.faults :=
  (congrArg State.faults h : t.offMem.faults = s.offMem.faults)

theorem State.segs_of_offMem {s t : State} (h : t.offMem = s.offMem) : t.segs = s.segs :=
  (congrArg State.segs h : t.offMem.segs = s.offMem.segs)

theorem State.epochs_of_offMem {s t : State} (h : t.offMem = s.offMem) : t.epochs = s.epochs :=
  (congrArg State.epochs h : t.offMem.epochs = s.offMem.epochs)

namespace State.SameAccess

theorem refl (s : State) : s.SameAccess s := ⟨⟨rfl, rfl, rfl, rfl⟩, rfl, rfl⟩

theorem trans {s t u : State} (h : s.SameAccess t) (k : t.SameAccess u) : s.SameAccess u :=
  ⟨h.toSameWords.trans k.toSameWords, k.eff.trans h.eff, k.um.trans h.um⟩

theorem symm {s t : State} (h : s.SameAccess t) : t.SameAccess s :=
  ⟨⟨h.mem.symm, h.faults.symm, h.segs.symm, h.epochs.symm⟩, h.eff.symm, h.um.symm⟩

theorem of_contents {s t : State} (h : t.contents = s.contents) : s.SameAccess t :=
  ⟨State.sameWords_of_contents h, State.eff_of_contents h, State.um_of_contents h⟩

/-- Steps that each keep what is accessed keep the two states alike. -/
theorem steps {s t s' t' : State} (h : s.SameAccess t) (left : s.SameAccess s') (right : t.SameAccess t') :
    s'.SameAccess t' := left.symm.trans (h.trans right)

/-- Both states with another memory, where the rest was kept. -/
theorem of_offMem {s t s' t' : State} (h : s.SameAccess t) (left : s'.offMem = s.offMem) (right : t'.offMem = t.offMem)
    (mem : t'.mem = s'.mem) : s'.SameAccess t' := by
  refine ⟨⟨mem, ?_, ?_, ?_⟩, ?_, ?_⟩
  · rw [State.faults_of_offMem right, State.faults_of_offMem left, h.faults]
  · rw [State.segs_of_offMem right, State.segs_of_offMem left, h.segs]
  · rw [State.epochs_of_offMem right, State.epochs_of_offMem left, h.epochs]
  · rw [State.eff_of_offMem right, State.eff_of_offMem left, h.eff]
  · rw [State.um_of_offMem right, State.um_of_offMem left, h.um]

/-- An access has the same status in both. -/
theorem wordStatus {s t : State} (h : s.SameAccess t) (who : Requester) (a : Nat) :
    t.wordStatus who a = s.wordStatus who a := by
  have fenced := State.isFenced_congr h.faults
  have pd := State.ddrPd_congr h.faults
  have eff (b : Nat) (f : Fld) (i : Nat) : t.effGet b f i = s.effGet b f i := by rw [State.effGet, State.effGet, h.eff]
  unfold State.wordStatus
  split
  · simp only [State.ddrStatus, State.seg, State.chanOf, fenced, pd, h.segs]
    rfl
  · simp only [State.scratchStatus, fenced, eff]
  · simp only [State.winStatus, State.hostStatus, State.region, eff, h.um]
    rfl
  · rfl
  · rfl

end State.SameAccess

/-! A word stored -/

/-- What a word that arrives leaves in memory: its data and its check byte, bare (R236, R237). -/
def heldWord (w : TWord) : Word × Byte :=
  let (d, c, o) := eccDecode w.d w.c
  (d, if o = .bad then poisonCheck d else if o = .fixed then secded d else c)

theorem State.store_mem (s : State) (a : Nat) (w : TWord) : (s.store a w).mem =
    s.mem.put (s.key a) (heldWord w).1 ((heldWord w).2 ^^^ foldOf a (s.storeTag a).toNat) (s.storeTag a) := by
  unfold State.store heldWord State.storeTag
  generalize placeOf a = place
  cases place <;> dsimp only <;> split <;>
    simp only [State.log_mem, State.count_mem, State.ddrTraffic_mem, reduceCtorEq, if_true, if_false]

theorem State.SameAccess.store {s t : State} (h : s.SameAccess t) (a : Nat) (w : TWord) :
    (s.store a w).SameAccess (t.store a w) := by
  refine h.of_offMem (State.store_offMem ..) (State.store_offMem ..) ?_
  rw [State.store_mem, State.store_mem, h.mem, State.key_congr h.faults h.segs, h.storeTag]

/-! A word loaded to be merged -/

/-- The state with another memory. -/
def State.withMem (s : State) (m : Mem) : State := { s with mem := m }

/-- A corrected word is counted and logged. -/
def State.correctedNoted (s : State) (a : Nat) : State :=
  match placeOf a with
  | .scratch die core _ => (s.count (Base.errors die) Reg.sramCorrected).log die 0 none 0x01 core a
  | _ => ((s.count (Base.ddr (s.chanOf a)) Reg.ddrCorrected).inFrame (s.chanOf a)).log (0x10 + s.chanOf a / 16) 0 none 0x11
      (s.chanOf a % 16) a

/-- The state in which a word has been loaded that was corrected: it is written back and counted (R238). -/
def State.corrected (s : State) (a : Nat) (r : Loaded) : State :=
  (s.withMem (s.mem.put (s.key a) r.d (secded r.d ^^^ foldOf a r.tag.toNat) r.tag)).correctedNoted a

/-- What a narrow write's read leaves, by the outcome of the word (R146). -/
def State.mergeRead (s : State) (a : Nat) (r : Loaded) : State :=
  match r.ecc with
  | .clean => s
  | .fixed => s.corrected a r
  | .bad => s.mergeBad a

theorem State.ddrTraffic_key (s : State) (x : Nat) (write : Bool) (bytes a : Nat) :
    (s.ddrTraffic x write bytes).key a = s.key a :=
  State.key_congr (State.faults_of_contents (s.ddrTraffic_contents ..)) (State.segs_of_contents (s.ddrTraffic_contents ..)) a

theorem State.load_merge (s : State) (a : Nat) :
    (s.load a true).2 = (s.ddrTraffic a false 8).mergeRead a (s.load a true).1 := by
  rw [State.load_fst, State.mergeRead, State.corrected, State.ddrTraffic_key, State.ddrTraffic_mem]
  unfold State.load
  dsimp only
  rw [State.ddrTraffic_mem]
  generalize s.ddrTraffic a false 8 = u
  generalize s.mem.load (s.key a) a = r
  cases r.ecc with
  | clean => rfl
  | fixed =>
    dsimp only
    unfold State.correctedNoted State.withMem
    cases placeOf a <;> rfl
  | bad => rfl

theorem State.mergeBad_contents (s : State) (a : Nat) : (s.mergeBad a).contents = s.contents := by
  unfold State.mergeBad
  split
  · exact (State.log_contents ..).trans (State.count_contents ..)
  · exact (State.log_contents ..).trans (State.count_contents ..)

theorem State.inFrame_access {s t : State} (h : s.SameAccess t) (k n : Nat) :
    (s.inFrame k n).SameAccess (t.inFrame k n) :=
  ⟨⟨h.mem, by rw [State.inFrame, State.inFrame, h.faults], h.segs, h.epochs⟩, h.eff, h.um⟩

theorem State.putMem_access {s t : State} (h : s.SameAccess t) (m : Mem) :
    (s.withMem m).SameAccess (t.withMem m) :=
  ⟨⟨rfl, h.faults, h.segs, h.epochs⟩, h.eff, h.um⟩

namespace State.SameAccess

theorem log {s t : State} (h : s.SameAccess t) (unit action : Nat) (ctx : Option Nat) (source index detail : Nat) :
    (s.log unit action ctx source index detail).SameAccess (t.log unit action ctx source index detail) :=
  h.steps (of_contents (State.log_contents ..)) (of_contents (State.log_contents ..))

theorem count {s t : State} (h : s.SameAccess t) (b : Nat) (f : Fld) (n i : Nat) :
    (s.count b f n i).SameAccess (t.count b f n i) :=
  h.steps (of_contents (State.count_contents ..)) (of_contents (State.count_contents ..))

theorem chanOf {s t : State} (h : s.SameAccess t) (a : Nat) : t.chanOf a = s.chanOf a := by
  simp only [State.chanOf, State.seg, State.ddrPd_congr h.faults, h.segs]

theorem corrected {s t : State} (h : s.SameAccess t) (a : Nat) (r : Loaded) :
    (s.corrected a r).SameAccess (t.corrected a r) := by
  have put := State.putMem_access h (s.mem.put (s.key a) r.d (secded r.d ^^^ foldOf a r.tag.toNat) r.tag)
  rw [State.corrected, State.corrected, State.key_congr h.faults h.segs, h.mem]
  unfold State.correctedNoted
  split
  · exact (put.count ..).log ..
  · rw [put.chanOf]
    exact (State.inFrame_access (put.count ..) ..).log ..

theorem load {s t : State} (h : s.SameAccess t) (a : Nat) :
    (t.load a true).1 = (s.load a true).1 ∧ (s.load a true).2.SameAccess (t.load a true).2 := by
  have same : (t.load a true).1 = (s.load a true).1 := by
    rw [State.load_fst, State.load_fst, h.mem, State.key_congr h.faults h.segs]
  refine ⟨same, ?_⟩
  have traffic := h.steps (of_contents (s.ddrTraffic_contents a false 8)) (of_contents (t.ddrTraffic_contents a false 8))
  rw [State.load_merge, State.load_merge, same]
  unfold State.mergeRead
  split
  · exact traffic
  · exact traffic.corrected ..
  · exact traffic.steps (of_contents (State.mergeBad_contents ..)) (of_contents (State.mergeBad_contents ..))

theorem setCore {s : State} (d c : Nat) (k : Core) : s.SameAccess (s.setCore d c k) :=
  ⟨⟨State.setCore_mem .., State.setCore_faults .., State.setCore_segs .., State.setCore_epochs ..⟩, State.setCore_eff ..,
    State.setCore_um ..⟩

theorem cacheDrop (s : State) (d c a : Nat) : s.SameAccess (s.cacheDrop d c a) := setCore ..

theorem writeWord {s t : State} (h : s.SameAccess t) (who : Requester) (a : Nat) (w : TWord) :
    (s.writeWord who a w).2.SameAccess (t.writeWord who a w).2 := by
  unfold State.writeWord
  dsimp only
  rw [h.wordStatus]
  split
  · have stored := h.store a w
    cases who with
    | core d c x =>
      dsimp only
      split
      · exact stored.steps (cacheDrop ..) (cacheDrop ..)
      · exact stored
    | control n => exact stored
    | engine d x => exact stored
  · exact h.steps (of_contents (State.ddrErr_contents ..)) (of_contents (State.ddrErr_contents ..))

theorem of_offUnits {s t : State} (h : t.offUnits = s.offUnits) : s.SameAccess t :=
  ⟨⟨State.mem_of_offUnits h, State.faults_of_offUnits h, (congrArg State.segs h : t.offUnits.segs = s.offUnits.segs),
    (congrArg State.epochs h : t.offUnits.epochs = s.offUnits.epochs)⟩,
    (congrArg State.eff h : t.offUnits.eff = s.offUnits.eff), (congrArg State.um h : t.offUnits.um = s.offUnits.um)⟩

end State.SameAccess

/-- A unit's reasons change its units alone, beside what a refusal counts and logs. -/
theorem State.unitReason_offUnits (s : State) (d ctx st a : Nat) : (s.unitReason d ctx st a).offUnits = s.offUnits := by
  unfold State.unitReason
  split
  · rfl
  · split
    · exact State.addReason_offUnits ..
    · split
      · exact State.addReason_offUnits ..
      · split
        · exact (State.addReason_offUnits ..).trans (State.offUnits_of_contents (State.refused_contents ..))
        · rfl

/-- One step of a unit's write: the bytes that go into one word. -/
def State.unitWord (s : State) (d c ctx a : Nat) (bs : List (Byte × Bool)) : State :=
  let i := a % 8
  let now := bs.take (8 - i)
  let bad := now.any (·.2)
  let who := coreReq d c ctx
  let st := s.wordStatus who (a - i)
  if st ≠ Status.ok then s.unitReason d ctx st (a - i)
  else if now.length = 8 then
    let v := word (leNat (now.map (·.1)))
    (s.writeWord who (a - i) { d := v, c := if bad then poisonCheck v else secded v }).2
  else
    let o := s.load (a - i) true
    (o.2.writeWord who (a - i) (mergeWord o.1 i (now.map (·.1)) bad)).2

theorem State.unitWrite_cons (s : State) (d c ctx fuel a : Nat) (b : Byte × Bool) (bs : List (Byte × Bool)) :
    s.unitWrite d c ctx (fuel + 1) a (b :: bs) = (s.unitWord d c ctx a (b :: bs)).unitWrite d c ctx fuel
      (a + ((b :: bs).take (8 - a % 8)).length) ((b :: bs).drop (8 - a % 8)) := rfl

theorem State.unitWrite_nil (s : State) (d c ctx fuel a : Nat) : s.unitWrite d c ctx fuel a [] = s := by
  cases fuel <;> rfl

/-- What every step of a unit's write keeps, the write keeps. -/
theorem State.unitWrite_induct {s : State} {P : State → Prop} {d c ctx : Nat}
    (step : ∀ t a bs, P t → P (t.unitWord d c ctx a bs)) (fuel a : Nat) (bs : List (Byte × Bool)) (start : P s) :
    P (s.unitWrite d c ctx fuel a bs) := by
  induction fuel generalizing s a bs with
  | zero => exact start
  | succ n ih =>
    cases bs with
    | nil => exact start
    | cons b bs => exact ih _ _ (step s a (b :: bs) start)

theorem State.SameAccess.unitWord {s t : State} (h : s.SameAccess t) (d c ctx a : Nat) (bs : List (Byte × Bool)) :
    (s.unitWord d c ctx a bs).SameAccess (t.unitWord d c ctx a bs) := by
  unfold State.unitWord
  dsimp only
  rw [h.wordStatus]
  split
  · exact h.steps (.of_offUnits (State.unitReason_offUnits ..)) (.of_offUnits (State.unitReason_offUnits ..))
  · split
    · exact h.writeWord ..
    · obtain ⟨word, after⟩ := h.load (a - a % 8)
      rw [word]
      exact after.writeWord ..

/-- A unit's write leaves the same memory in states that agree on memory and on who may access it. -/
theorem State.SameAccess.unitWrite {s t : State} (h : s.SameAccess t) (d c ctx fuel a : Nat) (bs : List (Byte × Bool)) :
    (s.unitWrite d c ctx fuel a bs).SameAccess (t.unitWrite d c ctx fuel a bs) := by
  induction fuel generalizing s t a bs with
  | zero => exact h
  | succ n ih =>
    cases bs with
    | nil => exact h
    | cons b bs => exact ih (h.unitWord ..) _ _

end Sys2Proof.Machine
end

section
/-! PROOFS. Page-map commands and the append drain (R131, R199, R203, R205, R207), and O28. -/

namespace Sys2Proof.Machine

/-! A core's own scratchpad -/

theorem placeOf_scratch {d c off : Nat} (hd : d < 8) (hc : c < 48) (ho : off < 0x600000) :
    placeOf (scratchAddr d c off) = .scratch d c off := by
  have die : (scratchAddr d c off - 0x100000000000) / 2 ^ 30 = d := by unfold scratchAddr; omega
  have core : (scratchAddr d c off - 0x100000000000) / 2 ^ 24 % 64 = c := by unfold scratchAddr; omega
  have place : (scratchAddr d c off - 0x100000000000) % 2 ^ 24 = off := by unfold scratchAddr; omega
  have above : ¬ scratchAddr d c off < 0x080000000000 := by unfold scratchAddr; omega
  have within : 0x100000000000 ≤ scratchAddr d c off ∧ scratchAddr d c off < 0x100200000000 := by
    unfold scratchAddr; omega
  unfold placeOf
  dsimp only
  rw [if_neg above, if_pos within, core, place, die, if_pos ⟨hc, by unfold scratchRow; omega⟩]

/-- No place of a scratchpad lies in DDR. -/
theorem placeOf_scratchAddr (d c off : Nat) : placeOf (scratchAddr d c off) ≠ .ddr := by
  have far : ¬ scratchAddr d c off < 0x080000000000 := by unfold scratchAddr; omega
  unfold placeOf
  rw [if_neg far]
  dsimp only
  split
  · split <;> simp
  · split
    · simp
    · split <;> simp

theorem State.spLimit_le (s : State) (d c : Nat) : s.spLimit d c ≤ 0x600000 := by
  have small : s.effGet (Base.coreBind d) Reg.cbRunLimit c < 16 := bits_lt_pow _ 35 32
  unfold State.spLimit
  dsimp only
  split <;> omega

theorem State.offOk_bounds {s : State} {d c off unit extent : Nat} (h : s.offOk d c off unit extent = true) :
    off % unit = 0 ∧ off + extent ≤ 0x600000 := by
  rw [State.offOk, Bool.and_eq_true, beq_iff_eq, decide_eq_true_iff] at h
  exact ⟨h.1, h.2.trans (s.spLimit_le d c)⟩

theorem coreReq_eq (die : DieNo) (core : CoreNo) (ctx : Nat) :
    coreReq die.val core.val ctx = .core die core (Fin.ofNat 16 ctx) := by
  have hd : Fin.ofNat 8 die.val = die := Fin.ext (Nat.mod_eq_of_lt die.isLt)
  have hc : Fin.ofNat 48 core.val = core := Fin.ext (Nat.mod_eq_of_lt core.isLt)
  rw [coreReq, hd, hc]

theorem State.wordStatus_scratch (s : State) (who : Requester) {a d c off : Nat} (place : placeOf a = .scratch d c off) :
    s.wordStatus who a = s.scratchStatus who d c off := by
  unfold State.wordStatus
  rw [place]

theorem State.scratchStatus_own {s : State} {die : DieNo} {core : CoreNo} (here : s.isFenced die.val core.val = false)
    (ctx : Ctx) (off : Nat) : s.scratchStatus (.core die core ctx) die.val core.val off = Status.ok := by
  unfold State.scratchStatus
  rw [here]
  simp [reqCtx]

/-- A core's access to its own scratchpad is served while the core is (R32). -/
theorem State.wordStatus_own {s : State} {die : DieNo} {core : CoreNo} (up : s.coreUp die.val core.val = true)
    (ctx : Nat) {off : Nat} (ho : off < 0x600000) :
    s.wordStatus (coreReq die.val core.val ctx) (scratchAddr die.val core.val off) = Status.ok := by
  rw [State.wordStatus_scratch s _ (placeOf_scratch die.isLt core.isLt ho), coreReq_eq,
    State.scratchStatus_own (by simpa [State.coreUp] using up)]

/-! Whole words written by a core's unit -/

theorem leNat_leBytes (k n : Nat) : leNat (leBytes k n) = n % 256 ^ k := by
  induction k generalizing n with
  | zero => rw [leBytes, leNat, Nat.pow_zero, Nat.mod_one]
  | succ k ih =>
    have split : n % (256 * 256 ^ k) = n % 256 + 256 * (n / 256 % 256 ^ k) := Nat.mod_mul
    rw [leBytes, leNat, ih, Nat.pow_succ', split]
    rfl

theorem word_leBytes (w : Word) : word (leNat (leBytes 8 w.toNat)) = w := by
  have fits : w.toNat < 256 ^ 8 := w.isLt
  rw [leNat_leBytes, Nat.mod_eq_of_lt fits]
  exact BitVec.eq_of_toNat_eq (Nat.mod_eq_of_lt w.isLt)

/-- Bytes none of which came from an uncorrectable word. -/
def sound (bs : List Byte) : List (Byte × Bool) := bs.map fun x => (x, false)

theorem sound_none (bs : List Byte) : (sound bs).any (·.2) = false := by
  simp [sound]

theorem State.unitWrite_step (s : State) (d c ctx fuel a : Nat) {bs : List (Byte × Bool)} (h : bs ≠ []) :
    s.unitWrite d c ctx (fuel + 1) a bs = (s.unitWord d c ctx a bs).unitWrite d c ctx fuel
      (a + (bs.take (8 - a % 8)).length) (bs.drop (8 - a % 8)) := by
  cases bs with
  | nil => exact absurd rfl h
  | cons b bs => exact State.unitWrite_cons ..

theorem State.coreUp_congr {s t : State} (h : t.faults = s.faults) (d c : Nat) : t.coreUp d c = s.coreUp d c := by
  rw [State.coreUp, State.isFenced_congr h, State.coreUp]

/-- A word that lies in no DDR is stored where its status allows it. -/
theorem State.writeWord_scratch {s : State} {who : Requester} {a : Nat} (status : s.wordStatus who a = Status.ok) (w : TWord)
    (place : placeOf a ≠ .ddr) : (s.writeWord who a w).2 = s.store a w := by
  unfold State.writeWord
  dsimp only
  rw [status, if_pos rfl]
  cases who with
  | core d c ctx => exact if_neg place
  | control n => rfl
  | engine d ctx => rfl

section
variable {die : DieNo} {core : CoreNo}

/-- A whole word to the core's own scratchpad is stored, freshly formed. -/
theorem State.unitWord_own {s : State} (up : s.coreUp die.val core.val = true) (ctx : Nat) {off : Nat}
    (aligned : off % 8 = 0) (ho : off < 0x600000) (w : Word) (bs : List Byte) :
    s.unitWord die.val core.val ctx (scratchAddr die.val core.val off) (sound (leBytes 8 w.toNat ++ bs)) =
      s.store (scratchAddr die.val core.val off) (fresh w) := by
  have low : scratchAddr die.val core.val off % 8 = 0 := by unfold scratchAddr; omega
  have now : (sound (leBytes 8 w.toNat ++ bs)).take 8 = sound (leBytes 8 w.toNat) := by
    rw [sound, List.map_append, List.take_append_of_le_length (by simp [length_leBytes]), List.take_of_length_le
      (by simp [length_leBytes])]
    rfl
  have all : (sound (leBytes 8 w.toNat)).map (·.1) = leBytes 8 w.toNat := by
    rw [sound, List.map_map]
    exact List.map_id _
  have eight : (sound (leBytes 8 w.toNat)).length = 8 := by simp [sound, length_leBytes]
  have status := State.wordStatus_own up ctx ho
  unfold State.unitWord
  simp only [low, Nat.sub_zero, now]
  rw [status, if_neg (by simp), if_pos eight, all, word_leBytes, sound_none]
  exact State.writeWord_scratch status _ (placeOf_scratchAddr _ _ _)

theorem State.unitWrite_words {s : State} (up : s.coreUp die.val core.val = true) (ctx : Nat) {off : Nat}
    (aligned : off % 8 = 0) {fuel : Nat} (ws : List Word) (room : off + 8 * ws.length ≤ 0x600000)
    (enough : ws.length ≤ fuel) :
    s.unitWrite die.val core.val ctx fuel (scratchAddr die.val core.val off) (sound (bytesOf ws)) =
      s.stores (scratchAddr die.val core.val off) (ws.map fresh) := by
  induction ws generalizing s off fuel with
  | nil => exact State.unitWrite_nil ..
  | cons w ws ih =>
    obtain ⟨n, rfl⟩ : ∃ n, fuel = n + 1 := ⟨fuel - 1, by rw [List.length_cons] at enough; omega⟩
    rw [List.length_cons] at room enough
    have low : scratchAddr die.val core.val off % 8 = 0 := by unfold scratchAddr; omega
    have bytes : bytesOf (w :: ws) = leBytes 8 w.toNat ++ bytesOf ws := rfl
    have rest : (sound (leBytes 8 w.toNat ++ bytesOf ws)).drop 8 = sound (bytesOf ws) := by
      rw [sound, List.map_append, List.drop_append_of_le_length (by simp [length_leBytes]), List.drop_of_length_le
        (by simp [length_leBytes])]
      rfl
    have eight : ((sound (leBytes 8 w.toNat ++ bytesOf ws)).take 8).length = 8 := by
      simp [sound, length_leBytes]
    have next : scratchAddr die.val core.val off + 8 = scratchAddr die.val core.val (off + 8) := Nat.add_assoc ..
    have still : (s.store (scratchAddr die.val core.val off) (fresh w)).coreUp die.val core.val = true :=
      (State.coreUp_congr (State.faults_of_offMem (State.store_offMem ..)) ..).trans up
    rw [bytes, State.unitWrite_step _ _ _ _ _ _ (by simp [sound, leBytes]),
      State.unitWord_own up ctx aligned (by omega), low, Nat.sub_zero, eight, rest, next,
      ih still (by omega) (by omega) (by omega)]
    rfl

end

/-! LOOKUP and APPEND_SET (Table 04.10) -/

theorem State.pmCmd_run {s : State} {d c sub : Nat} {b : BlockRun} {ws : List Word}
    (command : AtCommand s d c 0x0D 1 b ws) (hsub : pmSub ws = sub) (fine : s.pmCauses d c ws = [])
    (run : BlockRun → List Word → State → State) : s.pmCmd d c sub run =
      run b ws (s.issue d c { b with unfixed := b.unfixed || sub == 0 } (ws.getD 0 0) 0 1) := by
  have first : (ws.getD 0 0) = s.fetch d c b.pc := by
    obtain ⟨-, -, -, eq, -⟩ := command
    rw [eq]
    simp [List.range_succ_eq_map]
  have named : pmSub [s.fetch d c b.pc] = sub := by
    rw [← hsub, pmSub, pmSub, first, List.getD_cons_zero]
  have block : (s.core d c).block = some b := command.1
  unfold State.pmCmd
  rw [block]
  dsimp only
  rw [named, if_neg fun h => h.2.1 rfl, State.seqCmd_run command rfl fine]

theorem State.pmCauses_none {s : State} {d c : Nat} {ws : List Word} (known : pmSub ws < 2) (some' : pmN ws ≠ 0)
    (inside : s.offOk d c (s.pmOff d c ws) 32 (if pmSub ws = 0 then 32 * pmN ws else 8 * pmN ws) = true) :
    s.pmCauses d c ws = [] := by
  rw [State.pmCauses, if_neg (by omega), if_pos inside]
  rfl

/-- The only record of a page that the map does not hold (R203). -/
def lookupNone : List Word := [word (Status.notResident * 2 ^ 56), 0, 0, 0]

theorem State.lookups_none {s : State} {d ctx handle ord : Nat} (absent : s.pageProbe d ctx handle ord = none)
    (c layer dst : Nat) : s.lookups d c ctx handle layer dst ord 1 =
      ((s.unitWrite d c ctx 5 (scratchAddr d c dst) (sound (bytesOf lookupNone))).count (Base.pageMap d)
        Reg.mapLookups).count (Base.pageMap d) Reg.mapNotRes := by
  have misses : s.misses d ctx handle ord = false := by rw [State.misses, absent]
  have record : s.lookupRecord d ctx handle ord layer = (false, lookupNone, s) := by rw [State.lookupRecord, absent]; rfl
  rw [State.lookups, misses, record]
  rfl

/-- An issue that is not late leaves every register above its core's block. -/
theorem State.issue_above (s : State) (d c : Nat) (b : BlockRun) (w0 : Word) (nw : Nat) {base : Nat} {f : Fld} {i : Nat}
    (above : Base.core d c + 0x400 ≤ regAddr base f i) : (s.issue d c b w0 0 nw).get base f i = s.get base f i := by
  have only := OnlyFields.issue s d c b w0 nw
    (l := [(Base.core d c, Reg.seqPc, 0), (Base.core d c, Reg.seqState, 0)] ++
      (List.range 8).map fun a => (Base.core d c, Reg.arrMode, a)) (by simp) (by simp)
    fun a ha => List.mem_append_right _ (List.mem_map.2 ⟨a, List.mem_range.2 ha, rfl⟩)
  refine only.get base f i fun p hp same => ?_
  rw [same] at above
  rcases List.mem_append.1 hp with own | mode
  · simp only [List.mem_cons, List.not_mem_nil, or_false] at own
    rcases own with rfl | rfl <;> simp only [regAddr, Reg.seqPc, Reg.seqState] at above <;> omega
  · obtain ⟨a, ha, rfl⟩ := List.mem_map.1 mode
    have := List.mem_range.1 ha
    simp only [regAddr, Reg.arrMode] at above
    omega

theorem State.issue_top (s : State) (d ctx : Nat) {c : Nat} (hc : c < 48) (b : BlockRun) (w0 : Word) (nw : Nat) :
    ((s.issue d c b w0 0 nw).pageCfg d ctx).top = (s.pageCfg d ctx).top :=
  State.issue_above _ _ _ _ _ _ (by simp only [regAddr, Base.core, Base.pageMap, csr, Reg.pgTopClass]; omega)

theorem State.issue_pmOff (s : State) (d c : Nat) (b : BlockRun) (w0 : Word) (ready nw : Nat) (ws : List Word) :
    (s.issue d c b w0 ready nw).pmOff d c ws = s.pmOff d c ws :=
  State.effOff_congr (fun n hn => State.issue_get _ _ _ _ _ _ _ (by simp only [Reg.param]; omega)
    (by simp only [Reg.param]; omega)) (bits_lt_pow _ 31 29) _ _

theorem State.pageProbe_issue (s : State) (d c : Nat) (b : BlockRun) (w0 : Word) (ready nw ctx handle ord : Nat) :
    (s.issue d c b w0 ready nw).pageProbe d ctx handle ord = s.pageProbe d ctx handle ord :=
  (s.sameButCores_issue d c b w0 ready nw).read (fun x => x.pageProbe d ctx handle ord) fun _ => rfl

theorem blockOf_pageMap (d : Nat) {f : Fld} {i : Nat} (h : f.off + i * f.step < 0x10000) :
    blockOf (Base.pageMap d + f.off + i * f.step) = 0x03 := by
  simp only [blockOf, Base.pageMap, csr]
  omega

/-- A page-map counter counted leaves the registers of other blocks. -/
theorem State.count_pageMap_get (s : State) (d : Nat) {f : Fld} (hf : f.off + 0 * f.step < 0x10000) (n : Nat) {base : Nat}
    {g : Fld} {i : Nat} (apart : blockOf (base + g.off + i * g.step) ≠ 0x03) :
    (s.count (Base.pageMap d) f n).get base g i = s.get base g i :=
  State.get_count_addr _ _ _ _ _ _ _ _ fun same => apart (same ▸ blockOf_pageMap d hf)

/-- What a LOOKUP of one page that is not there has done before its event. -/
def State.lookedUp (s : State) (d c dst : Nat) : State :=
  ((s.stores (scratchAddr d c dst) (lookupNone.map fresh)).count (Base.pageMap d) Reg.mapLookups).count (Base.pageMap d)
    Reg.mapNotRes

theorem State.lookedUp_offMem (s : State) (d c dst : Nat) : (s.lookedUp d c dst).offMem = s.offMem := by
  rw [State.lookedUp, State.count_offMem, State.count_offMem, State.stores_offMem]

theorem State.lookedUp_mem (s : State) (d c dst : Nat) :
    (s.lookedUp d c dst).mem = (s.stores (scratchAddr d c dst) (lookupNone.map fresh)).mem := by
  rw [State.lookedUp, State.count_mem, State.count_mem]

theorem State.stores_get (s : State) (a : Nat) (ws : List Word) {base : Nat} {f : Fld} {i : Nat}
    (apart : blockOf (base + f.off + i * f.step) ≠ 0x10) : (s.stores a (ws.map fresh)).get base f i = s.get base f i := by
  rw [State.get, State.stores_reg _ _ _ apart, State.get]

theorem State.lookedUp_core (s : State) (d dst : Nat) {c : Nat} (hc : c < 48) {f : Fld} {i : Nat}
    (hf : f.off + i * f.step < 0x400) : (s.lookedUp d c dst).get (Base.core d c) f i = s.get (Base.core d c) f i := by
  have inCore : blockOf (Base.core d c + f.off + i * f.step) = 0x02 := by
    rw [Nat.add_assoc]
    exact blockOf_core d hc hf
  rw [State.lookedUp, State.count_pageMap_get _ _ (by decide) _ (by rw [inCore]; decide),
    State.count_pageMap_get _ _ (by decide) _ (by rw [inCore]; decide), State.stores_get _ _ _ (by rw [inCore]; decide)]

theorem State.lookedUp_notRes (s : State) (d c dst : Nat) : (s.lookedUp d c dst).get (Base.pageMap d) Reg.mapNotRes =
    min (s.get (Base.pageMap d) Reg.mapNotRes + 1) (2 ^ Reg.mapNotRes.w - 1) := by
  rw [State.lookedUp, State.get_count_same _ _ _ _ _ (by decide),
    State.get_count_field _ _ _ _ _ _ _ _ (by rfl) (by decide) (by decide),
    State.stores_get _ _ _ (by rw [blockOf_pageMap d (by decide)]; decide)]

theorem State.workStep_evcAdd (s : State) (d n : Nat) {c ec : Nat} (hc : c < 48) (he : ec < 16) :
    s.WorkStep (s.evcAdd d c ec n) := by
  have inCore : Reg.evc.off + ec * Reg.evc.step < 0x400 := by simp only [Reg.evc]; omega
  unfold State.evcAdd
  dsimp only
  split
  · exact State.workStep_put s d hc _ _ _ inCore
  · exact (State.workStep_put s d hc _ _ _ inCore).trans (State.workStep_count _ d hc _ _ _ (by decide))

theorem State.maps_of_offMem {s t : State} (h : t.offMem = s.offMem) : t.maps = s.maps :=
  (congrArg State.maps h : t.offMem.maps = s.offMem.maps)

/-- A command that has issued has still issued after what changes neither its block, nor its word, nor what waits. -/
theorem Issued.after {s u t : State} {d c nw ready : Nat} {b : BlockRun} {w : Word} (h : Issued s u d c nw ready b w)
    (block : (t.core d c).block = (u.core d c).block) (word : t.get (Base.core d c) Reg.seqPc = u.get (Base.core d c) Reg.seqPc)
    (pending : t.pending = u.pending) : Issued s t d c nw ready b w := by
  obtain ⟨b', running, last, place, same, shown, waits⟩ := h
  exact ⟨b', block.trans running, last, place, same, word.trans shown, pending.trans waits⟩

section
variable {s : State} {die : DieNo} {core : CoreNo} {b : BlockRun} {ws : List Word}

/-- The block of a page-map command: a LOOKUP completes when its event comes. -/
def BlockRun.mapping (b : BlockRun) (sub : Nat) : BlockRun := { b with unfixed := b.unfixed || sub == 0 }

theorem BlockRun.sameIssue_mapping (b : BlockRun) (sub : Nat) : b.SameIssue (b.mapping sub) := rfl

theorem State.lookup_absent (command : AtCommand s die.val core.val 0x0D 1 b ws) (isLookup : pmSub ws = 0)
    (one : pmN ws = 1) (inside : s.offOk die.val core.val (s.pmOff die.val core.val ws) 32 32 = true)
    (absent : s.pageProbe die.val b.ctx (bits (ws.getD 1 0) 63 32)
      (pageOrd (s.pageCfg die.val b.ctx).top (bits (ws.getD 0 0) 23 0)) = none) :
    s.lookup die.val core.val = ((s.issue die.val core.val (b.mapping 0) (ws.getD 0 0) 0 1).lookedUp die.val core.val
      (s.pmOff die.val core.val ws)).evcAdd die.val core.val (bits (ws.getD 0 0) 35 32) 1 := by
  obtain ⟨aligned, room⟩ := State.offOk_bounds inside
  have up : s.coreUp die.val core.val = true := command.2.2.1
  have fine : s.pmCauses die.val core.val ws = [] := by
    refine State.pmCauses_none (by omega) (by omega) ?_
    rw [if_pos isLookup, one]
    exact inside
  have still : (s.issue die.val core.val (b.mapping 0) (ws.getD 0 0) 0 1).coreUp die.val core.val = true :=
    (State.coreUp_of_sameButCores (State.sameButCores_issue ..) ..).trans up
  unfold State.lookup
  rw [State.pmCmd_run command isLookup fine, ← BlockRun.mapping]
  dsimp only
  rw [State.issue_top _ _ _ core.isLt, State.issue_pmOff, one, State.lookups_none (by rw [State.pageProbe_issue, absent]),
    State.unitWrite_words still _ (by omega) lookupNone (by simp only [lookupNone, List.length_cons, List.length_nil]; omega)
      (by simp [lookupNone]), ← State.lookedUp]

theorem lookup_absent (command : AtCommand s die.val core.val 0x0D 1 b ws) (isLookup : pmSub ws = 0) (one : pmN ws = 1)
    (inside : s.offOk die.val core.val (s.pmOff die.val core.val ws) 32 32 = true)
    (absent : s.pageProbe die.val b.ctx (bits (ws.getD 1 0) 63 32)
      (pageOrd (s.pageCfg die.val b.ctx).top (bits (ws.getD 0 0) 23 0)) = none) :
    ∃ t, exec (.lookup die core) s = .next t ∧ Issued s t die.val core.val 1 0 b (ws.getD 0 0) ∧
      t.mem = (s.stores (scratchAddr die.val core.val (s.pmOff die.val core.val ws)) (lookupNone.map fresh)).mem ∧
      t.get (Base.pageMap die.val) Reg.mapNotRes =
        min (s.get (Base.pageMap die.val) Reg.mapNotRes + 1) (2 ^ Reg.mapNotRes.w - 1) ∧
      t.get (Base.core die.val core.val) Reg.evc (bits (ws.getD 0 0) 35 32) =
        min (s.get (Base.core die.val core.val) Reg.evc (bits (ws.getD 0 0) 35 32) + 1) (2 ^ 24 - 1) ∧
      t.maps = s.maps ∧ t.units = s.units := by
  have run : exec (.lookup die core) s = .next (s.lookup die.val core.val) := rfl
  rw [State.lookup_absent command isLookup one inside absent] at run
  have issued := s.sameButCores_issue die.val core.val (b.mapping 0) (ws.getD 0 0) 0 1
  have step := s.workStep_issue die.val core.isLt (b.mapping 0) (ws.getD 0 0) 0 1
  have ec : bits (ws.getD 0 0) 35 32 < 16 := bits_lt_pow _ 35 32
  have evc := s.issue_evc die.val core.val (b.mapping 0) (ws.getD 0 0) 0 1 ec
  have first : Issued s (s.issue die.val core.val (b.mapping 0) (ws.getD 0 0) 0 1) die.val core.val 1 0 b (ws.getD 0 0) :=
    issued_of_sameIssue (u := s) (b' := b.mapping 0) (BlockRun.sameIssue_mapping b 0) rfl rfl (issued.read State.pending fun _ => rfl)
  have words : s.SameWords (s.issue die.val core.val (b.mapping 0) (ws.getD 0 0) 0 1) := State.sameWords_of_offWork step.1
  generalize s.issue die.val core.val (b.mapping 0) (ws.getD 0 0) 0 1 = u at run issued step evc first words
  have looked := u.lookedUp_offMem die.val core.val (s.pmOff die.val core.val ws)
  have events := (u.lookedUp die.val core.val (s.pmOff die.val core.val ws)).evcAdd_contents die.val core.val
    (bits (ws.getD 0 0) 35 32) 1
  have all := (State.offMem_of_contents events).trans looked
  refine ⟨_, run, first.after ?_ ?_ (State.pending_of_offMem all), ?_, ?_, ?_, ?_, ?_⟩
  · rw [State.core, State.cores_of_offMem all, ← State.core]
  · rw [State.evcAdd_seqPc, State.lookedUp_core _ _ _ core.isLt (by decide)]
  · rw [State.mem_of_contents events, State.lookedUp_mem]
    exact (words.stores _ _).mem
  · rw [(State.workStep_evcAdd _ _ _ core.isLt ec).get (by rw [blockOf_pageMap _ (by decide)]; decide),
      State.lookedUp_notRes, step.get (by rw [blockOf_pageMap _ (by decide)]; decide)]
  · rw [State.evcAdd_evc, State.lookedUp_core _ _ _ core.isLt (by simp only [Reg.evc]; omega), evc]
  · rw [State.maps_of_offMem all, issued.read State.maps fun _ => rfl]
  · rw [State.units_of_offMem all, issued.read State.units fun _ => rfl]

theorem State.setArr_block (s : State) (d c a : Nat) (x : Arr) :
    ((s.setArr d c a x).core d c).block = (s.core d c).block := by
  simp [State.setArr]

/-- The target that an APPEND_SET names. -/
def State.setTarget (s : State) (d c : Nat) (ws : List Word) : ArrTarget :=
  { layer := pmLayer ws, head := bits (ws.getD 0 0) 23 16, kv := bits (ws.getD 0 0) 15 15,
    col := bits (ws.getD 0 0) 14 8, table := s.pmOff d c ws, n := pmN ws }

theorem State.appendSet_sets (command : AtCommand s die.val core.val 0x0D 1 b ws) (isSet : pmSub ws = 1)
    (some' : pmN ws ≠ 0) (inside : s.offOk die.val core.val (s.pmOff die.val core.val ws) 32 (8 * pmN ws) = true)
    {g : ArrTarget} (hg : g = s.setTarget die.val core.val ws) :
    s.appendSet die.val core.val = (s.issue die.val core.val (b.mapping 1) (ws.getD 0 0) 0 1).setArr die.val core.val
      (bits (ws.getD 1 0) 63 61) { s.arr die.val core.val (bits (ws.getD 1 0) 63 61) with target := some g } := by
  have fine : s.pmCauses die.val core.val ws = [] := by
    refine State.pmCauses_none (by omega) some' ?_
    rw [if_neg (by omega)]
    exact inside
  subst hg
  unfold State.appendSet
  rw [State.pmCmd_run command isSet fine, ← BlockRun.mapping]
  dsimp only
  rw [State.issue_arr, State.issue_pmOff, ← State.setTarget]

theorem appendSet_sets (command : AtCommand s die.val core.val 0x0D 1 b ws) (isSet : pmSub ws = 1)
    (some' : pmN ws ≠ 0) (inside : s.offOk die.val core.val (s.pmOff die.val core.val ws) 32 (8 * pmN ws) = true)
    {g : ArrTarget} (hg : g = s.setTarget die.val core.val ws) :
    ∃ t, exec (.appendSet die core) s = .next t ∧ Issued s t die.val core.val 1 0 b (ws.getD 0 0) ∧
      t.arr die.val core.val (bits (ws.getD 1 0) 63 61) =
        { s.arr die.val core.val (bits (ws.getD 1 0) 63 61) with target := some g } ∧
      (∀ a, a ≠ bits (ws.getD 1 0) 63 61 → t.arr die.val core.val a = s.arr die.val core.val a) ∧ SameButCores s t := by
  have run : exec (.appendSet die core) s = .next (s.appendSet die.val core.val) := rfl
  rw [State.appendSet_sets command isSet some' inside hg] at run
  have issued := s.sameButCores_issue die.val core.val (b.mapping 1) (ws.getD 0 0) 0 1
  have arrays := s.issue_arr die.val core.val (b.mapping 1) (ws.getD 0 0) 0 1
  have first : Issued s (s.issue die.val core.val (b.mapping 1) (ws.getD 0 0) 0 1) die.val core.val 1 0 b (ws.getD 0 0) :=
    issued_of_sameIssue (u := s) (b' := b.mapping 1) (BlockRun.sameIssue_mapping b 1) rfl rfl
      (issued.read State.pending fun _ => rfl)
  generalize s.issue die.val core.val (b.mapping 1) (ws.getD 0 0) 0 1 = u at run issued arrays first
  have same := u.sameButCores_setArr die.val core.val (bits (ws.getD 1 0) 63 61)
    { s.arr die.val core.val (bits (ws.getD 1 0) 63 61) with target := some g }
  refine ⟨_, run, first.after (State.setArr_block ..) (State.setArr_get ..) (same.read State.pending fun _ => rfl),
    State.arr_setArr .., fun a other => ?_, issued.trans same⟩
  · rw [State.arr_setArr_other _ _ _ _ other, arrays]

end

end Sys2Proof.Machine
end

section
/-! PROOFS. The append drain: what a row's write leaves, and O28 (R205, R207). -/

namespace Sys2Proof.Machine

/-! What a unit's write leaves beside memory -/

/-- `t` has the page maps of `s`, the registers of its page-map blocks, and the rows of its drains. -/
structure State.SamePages (s t : State) : Prop where
  maps : t.maps = s.maps
  regs : ∀ a, blockOf a = 0x03 → t.reg a = s.reg a
  rows : ∀ d c, (t.core d c).rows = (s.core d c).rows

namespace State.SamePages

theorem refl (s : State) : s.SamePages s := ⟨rfl, fun _ _ => rfl, fun _ _ => rfl⟩

theorem trans {s t u : State} (h : s.SamePages t) (k : t.SamePages u) : s.SamePages u :=
  ⟨k.maps.trans h.maps, fun a ha => (k.regs a ha).trans (h.regs a ha), fun d c => (k.rows d c).trans (h.rows d c)⟩

theorem of_fields {s t : State} (maps : t.maps = s.maps) (cores : t.cores = s.cores)
    (regs : ∀ a, blockOf a = 0x03 → t.reg a = s.reg a) : s.SamePages t :=
  ⟨maps, regs, fun d c => by rw [State.core, cores, State.core]⟩

theorem of_offMem {s t : State} (h : t.offMem = s.offMem) (regs : ∀ a, blockOf a = 0x03 → t.reg a = s.reg a) :
    s.SamePages t := of_fields (State.maps_of_offMem h) (State.cores_of_offMem h) regs

theorem log (s : State) (unit action : Nat) (ctx : Option Nat) (source index detail : Nat) :
    s.SamePages (s.log unit action ctx source index detail) :=
  of_offMem (State.log_offMem ..) fun a ha => State.log_reg s _ _ _ _ _ _ (by rw [ha]; decide) (by rw [ha]; decide)

theorem count_errors (s : State) (unit : Nat) {f : Fld} (n : Nat) (hf : f.off + 0 * f.step < 0x10000) :
    s.SamePages (s.count (Base.errors unit) f n) :=
  of_offMem (State.count_offMem ..) fun a ha =>
    State.count_errors_reg s _ _ hf (by rw [ha]; decide) (by rw [ha]; decide)

theorem count_ddr (s : State) (ch : Nat) {f : Fld} (n : Nat) (hf : f.off + 0 * f.step < 0x1000) :
    s.SamePages (s.count (Base.ddr ch) f n) := by
  refine of_offMem (State.count_offMem ..) fun a ha => State.reg_count_other s _ _ _ _ fun same => ?_
  rw [same, Nat.add_assoc, blockOf_ddr ch hf] at ha
  exact absurd ha (by decide)

theorem put_ddr (s : State) (ch : Nat) {f : Fld} (v : Nat) (hf : f.off + 0 * f.step < 0x1000) :
    s.SamePages (s.put (Base.ddr ch) f v) := by
  refine of_offMem (State.offMem_of_contents (State.put_contents ..)) fun a ha =>
    State.reg_put_other s _ _ _ _ fun same => ?_
  rw [same, Nat.add_assoc, blockOf_ddr ch hf] at ha
  exact absurd ha (by decide)

theorem ddrErr (s : State) (a st : Nat) : s.SamePages (s.ddrErr a st) := by
  unfold State.ddrErr
  split
  · exact (put_ddr s _ _ (by decide)).trans (put_ddr _ _ _ (by decide))
  · exact refl s

theorem addReason (s : State) (ctxs : List Nat) (r : Nat) : s.SamePages (s.addReason ctxs r) :=
  ⟨rfl, fun _ _ => rfl, fun _ _ => rfl⟩

theorem inFrame (s : State) (k n : Nat) : s.SamePages (s.inFrame k n) := ⟨rfl, fun _ _ => rfl, fun _ _ => rfl⟩

theorem withMem (s : State) (m : Mem) : s.SamePages (s.withMem m) := ⟨rfl, fun _ _ => rfl, fun _ _ => rfl⟩

theorem ddrTraffic (s : State) (a : Nat) (write : Bool) (bytes : Nat) : s.SamePages (s.ddrTraffic a write bytes) :=
  of_offMem (State.ddrTraffic_offMem ..) fun r hr => s.ddrTraffic_reg a write bytes (by rw [hr]; decide)

theorem refused (s : State) (die : Nat) (ctx : Option Nat) (index a : Nat) : s.SamePages (s.refused die ctx index a) :=
  (count_errors s die 1 (by decide)).trans (log ..)

theorem unitReason (s : State) (d ctx st a : Nat) : s.SamePages (s.unitReason d ctx st a) := by
  unfold State.unitReason
  split
  · exact refl s
  · split
    · exact addReason ..
    · split
      · exact addReason ..
      · split
        · exact (refused ..).trans (addReason ..)
        · exact refl s

theorem corrected (s : State) (a : Nat) (r : Loaded) : s.SamePages (s.corrected a r) := by
  have noted (x : State) : x.SamePages (x.correctedNoted a) := by
    unfold State.correctedNoted
    split
    · exact (count_errors _ _ 1 (by decide)).trans (log ..)
    · exact ((count_ddr _ _ 1 (by decide)).trans (inFrame ..)).trans (log ..)
  exact (withMem s _).trans (noted _)

theorem mergeBad (s : State) (a : Nat) : s.SamePages (s.mergeBad a) := by
  unfold State.mergeBad
  split
  · exact (count_errors _ _ 1 (by decide)).trans (log ..)
  · exact (count_ddr _ _ 1 (by decide)).trans (log ..)

theorem load (s : State) (a : Nat) : s.SamePages (s.load a true).2 := by
  rw [State.load_merge]
  refine (ddrTraffic s a false 8).trans ?_
  unfold State.mergeRead
  split
  · exact refl _
  · exact corrected ..
  · exact mergeBad ..

theorem store (s : State) (a : Nat) (w : TWord) : s.SamePages (s.store a w) := by
  refine of_offMem (State.store_offMem ..) fun r hr => ?_
  have traffic (x : State) : (x.ddrTraffic a true 8).reg r = x.reg r := (ddrTraffic x a true 8).regs r hr
  unfold State.store
  dsimp only
  split
  · exact traffic _
  · exact (((count_errors _ _ 1 (by decide)).trans (log ..)).regs r hr).trans (traffic _)
  · exact (((count_ddr _ _ 1 (by decide)).trans (log ..)).regs r hr).trans (traffic _)
  · exact traffic _
  · exact (((count_ddr _ _ 1 (by decide)).trans (log ..)).regs r hr).trans (traffic _)

theorem cacheDrop (s : State) (d c a : Nat) : s.SamePages (s.cacheDrop d c a) := by
  refine ⟨State.setCore_maps .., fun _ _ => State.setCore_reg .., fun d' c' => ?_⟩
  by_cases same : coreKey d' c' = coreKey d c
  · have read (x : State) : x.core d' c' = x.core d c := congrArg (cget _ x.cores) same
    rw [read, read, State.cacheDrop, State.core_setCore]
  · rw [State.cacheDrop, State.core_setCore_other _ _ _ _ same]

theorem writeWord (s : State) (who : Requester) (a : Nat) (w : TWord) : s.SamePages (s.writeWord who a w).2 := by
  unfold State.writeWord
  dsimp only
  split
  · cases who with
    | core d c x =>
      dsimp only
      split
      · exact (store ..).trans (cacheDrop ..)
      · exact store ..
    | control n => exact store ..
    | engine d x => exact store ..
  · exact ddrErr ..

theorem unitWord (s : State) (d c ctx a : Nat) (bs : List (Byte × Bool)) : s.SamePages (s.unitWord d c ctx a bs) := by
  unfold State.unitWord
  dsimp only
  split
  · exact unitReason ..
  · split
    · exact writeWord ..
    · exact (load ..).trans (writeWord ..)

theorem unitWrite (s : State) (d c ctx fuel a : Nat) (bs : List (Byte × Bool)) :
    s.SamePages (s.unitWrite d c ctx fuel a bs) :=
  State.unitWrite_induct (P := s.SamePages) (fun _ _ _ h => h.trans (unitWord ..)) fuel a bs (refl s)

end State.SamePages

/-! The row's page -/

/-- The state with another list of resolved pages at a drain. -/
def State.withDrains (s : State) (x : Cells (List (Nat × Nat × Nat))) : State := { s with drains := x }

theorem State.withDrains_keeps (s : State) (x : Cells (List (Nat × Nat × Nat))) : (s.withDrains x).cores = s.cores ∧
    (s.withDrains x).units = s.units ∧ (s.withDrains x).maps = s.maps ∧ ∀ a, (s.withDrains x).reg a = s.reg a :=
  ⟨rfl, rfl, rfl, fun _ => rfl⟩

theorem State.withDrains_access (s : State) (x : Cells (List (Nat × Nat × Nat))) : s.SameAccess (s.withDrains x) :=
  ⟨⟨rfl, rfl, rfl, rfl⟩, rfl, rfl⟩

/-- Resolving a row's page changes nothing but the drain's list. -/
theorem State.appendPage_drains (s : State) (d c ctx handle pos : Nat) :
    ∃ x, (s.appendPage d c ctx handle pos).2 = s.withDrains x := by
  unfold State.appendPage State.drainFind
  dsimp only
  split
  · exact ⟨s.drains, rfl⟩
  · split
    · exact ⟨s.drains, rfl⟩
    · exact ⟨_, rfl⟩

theorem State.drainFind_congr {s t : State} (maps : t.maps = s.maps) (drains : t.drains = s.drains)
    (d c handle ord : Nat) : (t.drainFind d c handle ord).1 = (s.drainFind d c handle ord).1 := by
  have list : t.drainList d c = s.drainList d c := by rw [State.drainList, drains, State.drainList]
  have find : t.mapFind d handle ord 1 = s.mapFind d handle ord 1 := by
    simp only [State.mapFind, State.mapAt, maps]
  unfold State.drainFind
  dsimp only
  rw [list, find]
  split
  · rfl
  · split <;> rfl

theorem State.drainFind_maps (s : State) (d c handle ord : Nat) : (s.drainFind d c handle ord).2.maps = s.maps := by
  unfold State.drainFind
  dsimp only
  split
  · rfl
  · split <;> rfl

/-- The page of a row depends on the map, the drain's list and the form of its context's pages alone. -/
theorem State.appendPage_congr {s t : State} (maps : t.maps = s.maps) (drains : t.drains = s.drains) {d ctx : Nat}
    (cfg : t.pageCfg d ctx = s.pageCfg d ctx) (c handle pos : Nat) :
    (t.appendPage d c ctx handle pos).1 = (s.appendPage d c ctx handle pos).1 := by
  unfold State.appendPage
  dsimp only
  simp only [State.mapAt, State.drainFind_maps, State.drainFind_congr maps drains, maps, cfg]

theorem State.pageCfg_setCore (s : State) (d c : Nat) (k : Core) (d' ctx : Nat) :
    (s.setCore d c k).pageCfg d' ctx = s.pageCfg d' ctx := by
  simp only [State.pageCfg, State.setCore_get]

/-! A row taken (R207) -/

/-- The core without its oldest row. -/
def State.rowTaken (s : State) (d c : Nat) (rest : List AppRow) : State := s.setCore d c { s.core d c with rows := rest }

theorem State.appendPage_rowTaken (s : State) (d c : Nat) (rest : List AppRow) (ctx handle pos : Nat) :
    ((s.rowTaken d c rest).appendPage d c ctx handle pos).1 = (s.appendPage d c ctx handle pos).1 :=
  State.appendPage_congr (State.setCore_maps ..) ((s.sameButCores_setCore d c _).read State.drains fun _ => rfl)
    (State.pageCfg_setCore ..) c handle pos

/-- A row with no page there: counted, with the reason in its unit. -/
def State.rowMissed (s : State) (d : Nat) (r : AppRow) : State :=
  (s.count (Base.pageMap d) Reg.appendMiss).workReason r.ctx r.kind r.seq Reason.missing

theorem State.rowMissed_keeps (s : State) (d : Nat) (r : AppRow) : (s.rowMissed d r).cores = s.cores ∧
    (s.rowMissed d r).get (Base.pageMap d) Reg.appendMiss =
      min (s.get (Base.pageMap d) Reg.appendMiss + 1) (2 ^ Reg.appendMiss.w - 1) ∧
    (s.rowMissed d r).units = (s.workReason r.ctx r.kind r.seq Reason.missing).units ∧
    (s.rowMissed d r).mem = s.mem := by
  have counted := s.count_contents (Base.pageMap d) Reg.appendMiss 1 0
  have sched : (s.count (Base.pageMap d) Reg.appendMiss).sched = s.sched :=
    State.count_pageMap_get _ _ (by decide) _ (by decide)
  have rest := State.workReason_offUnits (s.count (Base.pageMap d) Reg.appendMiss) r.ctx r.kind r.seq Reason.missing
  unfold State.rowMissed
  refine ⟨?_, ?_, ?_, ?_⟩
  · rw [State.cores_of_offUnits rest, State.count_cores]
  · rw [State.get, State.workReason_reg, ← State.get, State.get_count_same _ _ _ _ _ (by decide)]
  · exact State.workReason_units_congr (State.units_of_contents counted) sched ..
  · rw [State.mem_of_offUnits rest, State.count_mem]

/-- The address at which a row of a page is written. -/
def State.rowAddr (s : State) (d : Nat) (r : AppRow) (i pos : Nat) : Nat :=
  enLoc (s.mapAt d i) * 4096 +
    (s.pageCfg d r.ctx).rowOff (enClass (s.mapAt d i)) r.target.layer r.target.head r.target.kv
      (pos - pageFirst (s.pageCfg d r.ctx).top (enOrd (s.mapAt d i))) +
    r.target.col * 32 * (elemBits (s.pageCfg d r.ctx).fmt / 8)

/-- A row of a page without a summary is written at its place and counted (R205). -/
theorem State.appendWrite_plain {s : State} {d : Nat} {r : AppRow} {i : Nat}
    (plain : (s.pageCfg d r.ctx).summed (enClass (s.mapAt d i)) = false) (c pos : Nat) : s.appendWrite d c r i pos =
      ((((s.unitWrite d c r.ctx (r.bytes.length + 1) (s.rowAddr d r i pos) (sound r.bytes)).trackWrite
        (s.rowAddr d r i pos)).count (Base.pageMap d) Reg.appendRows).touch d i true) := by
  unfold State.appendWrite
  dsimp only
  rw [if_pos (by rw [plain]; rfl)]
  rfl

theorem State.trackWrite_keeps (s : State) (a : Nat) : s.SamePages (s.trackWrite a) ∧ (s.trackWrite a).mem = s.mem := by
  have put (v : Nat) : s.SamePages (s.put (Base.tier (s.ddrPd a)) Reg.trackHigh v) := by
    refine .of_offMem (State.offMem_of_contents (State.put_contents ..)) fun r hr =>
      State.reg_put_other s _ _ _ _ fun same => ?_
    rw [same] at hr
    simp only [blockOf, Base.tier, csr, Reg.trackHigh] at hr
    omega
  unfold State.trackWrite
  split
  · dsimp only
    split
    · exact ⟨put _, State.put_mem ..⟩
    · exact ⟨.refl s, rfl⟩
  · exact ⟨.refl s, rfl⟩

theorem State.touch_keeps (s : State) (d i : Nat) (rows : Bool) : (s.touch d i rows).mem = s.mem ∧
    (s.touch d i rows).maps = s.maps ∧ (s.touch d i rows).cores = s.cores ∧
    ∀ a, (s.touch d i rows).reg a = s.reg a := ⟨rfl, rfl, rfl, fun _ => rfl⟩

section
variable {s : State} {d c a : Nat} {r : AppRow} {rest : List AppRow} (rows : (s.core d c).rows = r :: rest) (own : r.arr = a)
include rows own

theorem State.appendRow_down (down : s.coreUp d c = false) : s.appendRow d c a = s.rowTaken d c rest := by
  have still : (s.rowTaken d c rest).coreUp d c = false := (State.coreUp_congr (State.setCore_faults ..) ..).trans down
  unfold State.appendRow
  dsimp only
  rw [rows]
  exact (if_neg (by simp [own])).trans (if_pos (by rw [← State.rowTaken, still]; rfl))

theorem State.appendRow_beyond (up : s.coreUp d c = true) (beyond : r.target.n ≤ r.row) :
    s.appendRow d c a = (s.rowTaken d c rest).rowMissed d r := by
  have still : (s.rowTaken d c rest).coreUp d c = true := (State.coreUp_congr (State.setCore_faults ..) ..).trans up
  unfold State.appendRow
  dsimp only
  rw [rows]
  exact (if_neg (by simp [own])).trans ((if_neg (by rw [← State.rowTaken, still]; simp)).trans (if_pos beyond))

/-- With the row's place in the table clean, its page is looked up in the state that has it taken. -/
theorem State.appendRow_resolves (up : s.coreUp d c = true) (within : r.row < r.target.n) {w : Loaded}
    (read : (s.load (scratchAddr d c (r.target.table + 8 * r.row))).1 = w) (clean : w.ecc = .clean) :
    s.appendRow d c a = match (s.appendPage d c r.ctx (bits w.d 31 0) (bits w.d 55 32)).1 with
      | none => (((s.rowTaken d c rest).appendPage d c r.ctx (bits w.d 31 0) (bits w.d 55 32)).2).rowMissed d r
      | some i => (((s.rowTaken d c rest).appendPage d c r.ctx (bits w.d 31 0) (bits w.d 55 32)).2).appendWrite d c r i
          (bits w.d 55 32) := by
  have still : (s.rowTaken d c rest).coreUp d c = true := (State.coreUp_congr (State.setCore_faults ..) ..).trans up
  have access : s.SameAccess (s.rowTaken d c rest) := .setCore ..
  have again : ((s.rowTaken d c rest).load (scratchAddr d c (r.target.table + 8 * r.row))).1 = w :=
    (access.toSameWords.load _).trans read
  have stays : ((s.rowTaken d c rest).load (scratchAddr d c (r.target.table + 8 * r.row))).2 = s.rowTaken d c rest := by
    rw [State.load_snd_clean false (by rw [again, clean]), State.ddrTraffic]
    split
    next place => exact absurd place (placeOf_scratchAddr _ _ _)
    next => rfl
  have page := s.appendPage_rowTaken d c rest r.ctx (bits w.d 31 0) (bits w.d 55 32)
  unfold State.appendRow
  dsimp only
  rw [rows]
  dsimp only
  rw [← State.rowTaken, if_neg (by simp [own]), still, if_neg (by simp), if_neg (Nat.not_le.2 within), again, stays, page]
  rfl

end

/-- The state once a row has been taken and its page resolved, whatever the drain's list then holds. -/
def State.rowResolved (s : State) (d c : Nat) (rest : List AppRow) (x : Cells (List (Nat × Nat × Nat))) : State :=
  (s.rowTaken d c rest).withDrains x

theorem State.rowResolved_keeps (s : State) (d c : Nat) (rest : List AppRow) (x : Cells (List (Nat × Nat × Nat))) :
    ((s.rowResolved d c rest x).core d c).rows = rest ∧ (s.rowResolved d c rest x).units = s.units ∧
      (s.rowResolved d c rest x).maps = s.maps ∧ s.SameAccess (s.rowResolved d c rest x) ∧
      ∀ a, (s.rowResolved d c rest x).reg a = s.reg a := by
  obtain ⟨cores, units, maps, regs⟩ := (s.rowTaken d c rest).withDrains_keeps x
  refine ⟨?_, units.trans (State.setCore_units ..), maps.trans (State.setCore_maps ..), ?_, fun a => (regs a).trans (State.setCore_reg ..)⟩
  · rw [State.core, State.rowResolved, cores, ← State.core, State.rowTaken, State.core_setCore]
  · exact State.SameAccess.trans (.setCore ..) (State.withDrains_access ..)

theorem State.rowResolved_get (s : State) (d c : Nat) (rest : List AppRow) (x : Cells (List (Nat × Nat × Nat))) (b : Nat)
    (f : Fld) (i : Nat) : (s.rowResolved d c rest x).get b f i = s.get b f i := by
  rw [State.get, (s.rowResolved_keeps d c rest x).2.2.2.2, State.get]

section
variable {s : State} {die : DieNo} {core : CoreNo} {arr : Fin 8} {r : AppRow} {rest : List AppRow}

/-- What a row with no page leaves. -/
theorem State.rowResolved_missed (s : State) (d c : Nat) (rest : List AppRow) (r : AppRow)
    (x : Cells (List (Nat × Nat × Nat))) : (((s.rowResolved d c rest x).rowMissed d r).core d c).rows = rest ∧
      ((s.rowResolved d c rest x).rowMissed d r).get (Base.pageMap d) Reg.appendMiss =
        min (s.get (Base.pageMap d) Reg.appendMiss + 1) (2 ^ Reg.appendMiss.w - 1) ∧
      ((s.rowResolved d c rest x).rowMissed d r).units = (s.workReason r.ctx r.kind r.seq Reason.missing).units ∧
      ((s.rowResolved d c rest x).rowMissed d r).mem = s.mem := by
  obtain ⟨rows, units, -, access, -⟩ := s.rowResolved_keeps d c rest x
  have get := s.rowResolved_get d c rest x
  generalize s.rowResolved d c rest x = u at rows units access get
  obtain ⟨cores, counted, reasons, mem⟩ := u.rowMissed_keeps d r
  refine ⟨?_, ?_, ?_, mem.trans access.mem⟩
  · rw [State.core, cores, ← State.core, rows]
  · rw [counted, get]
  · rw [reasons]
    exact State.workReason_units_congr units (get ..) ..

variable (rows : (s.core die.val core.val).rows = r :: rest) (own : r.arr = arr.val)
  (up : s.coreUp die.val core.val = true)
include rows own up

theorem appendRow_misses (none' : r.target.n ≤ r.row ∨
      ∃ w, (s.load (scratchAddr die.val core.val (r.target.table + 8 * r.row))).1 = w ∧
        w.ecc = .clean ∧ (s.appendPage die.val core.val r.ctx (bits w.d 31 0) (bits w.d 55 32)).1 = none) :
    ∃ t, exec (.appendRow die core arr) s = .next t ∧ (t.core die.val core.val).rows = rest ∧
      t.get (Base.pageMap die.val) Reg.appendMiss =
        min (s.get (Base.pageMap die.val) Reg.appendMiss + 1) (2 ^ Reg.appendMiss.w - 1) ∧
      t.units = (s.workReason r.ctx r.kind r.seq Reason.missing).units ∧ t.mem = s.mem := by
  have run : exec (.appendRow die core arr) s = .next (s.appendRow die.val core.val arr.val) := rfl
  by_cases beyond : r.target.n ≤ r.row
  · rw [State.appendRow_beyond rows own up beyond] at run
    exact ⟨_, run, s.rowResolved_missed die.val core.val rest r s.drains⟩
  · obtain ⟨w, read, clean, absent⟩ := none'.resolve_left beyond
    obtain ⟨x, page⟩ := (s.rowTaken die.val core.val rest).appendPage_drains die.val core.val r.ctx (bits w.d 31 0)
      (bits w.d 55 32)
    rw [State.appendRow_resolves rows own up (Nat.not_le.1 beyond) read clean, absent, page] at run
    exact ⟨_, run, s.rowResolved_missed die.val core.val rest r x⟩

theorem appendRow_writes {w : Loaded} {i pos : Nat} (within : r.row < r.target.n)
    (read : (s.load (scratchAddr die.val core.val (r.target.table + 8 * r.row))).1 = w) (clean : w.ecc = .clean)
    (hpos : bits w.d 55 32 = pos) (there : (s.appendPage die.val core.val r.ctx (bits w.d 31 0) pos).1 = some i)
    (plain : (s.pageCfg die.val r.ctx).summed (enClass (s.mapAt die.val i)) = false) :
    ∃ t, exec (.appendRow die core arr) s = .next t ∧ (t.core die.val core.val).rows = rest ∧
      t.mem = (s.unitWrite die.val core.val r.ctx (r.bytes.length + 1) (s.rowAddr die.val r i pos) (sound r.bytes)).mem ∧
      t.get (Base.pageMap die.val) Reg.appendRows =
        min (s.get (Base.pageMap die.val) Reg.appendRows + 1) (2 ^ Reg.appendRows.w - 1) ∧ t.maps = s.maps := by
  have run : exec (.appendRow die core arr) s = .next (s.appendRow die.val core.val arr.val) := rfl
  subst hpos
  obtain ⟨x, page⟩ := (s.rowTaken die.val core.val rest).appendPage_drains die.val core.val r.ctx (bits w.d 31 0)
    (bits w.d 55 32)
  rw [State.appendRow_resolves rows own up within read clean, there, page, ← State.rowResolved] at run
  dsimp only at run
  obtain ⟨taken, -, maps, access, regs⟩ := s.rowResolved_keeps die.val core.val rest x
  have get := s.rowResolved_get die.val core.val rest x
  generalize s.rowResolved die.val core.val rest x = u at run taken maps access regs get
  have cfg : u.pageCfg die.val r.ctx = s.pageCfg die.val r.ctx := by simp only [State.pageCfg, get]
  have entry : u.mapAt die.val i = s.mapAt die.val i := by rw [State.mapAt, maps, State.mapAt]
  have place : u.rowAddr die.val r i (bits w.d 55 32) = s.rowAddr die.val r i (bits w.d 55 32) := by
    simp only [State.rowAddr, cfg, entry]
  rw [State.appendWrite_plain (by rw [cfg, entry, plain]), place] at run
  have same := access.unitWrite die.val core.val r.ctx (r.bytes.length + 1) (s.rowAddr die.val r i (bits w.d 55 32))
    (sound r.bytes)
  have written := State.SamePages.unitWrite u die.val core.val r.ctx (r.bytes.length + 1)
    (s.rowAddr die.val r i (bits w.d 55 32)) (sound r.bytes)
  generalize u.unitWrite die.val core.val r.ctx (r.bytes.length + 1) (s.rowAddr die.val r i (bits w.d 55 32))
    (sound r.bytes) = v at run same written
  obtain ⟨tracked, mem⟩ := v.trackWrite_keeps (s.rowAddr die.val r i (bits w.d 55 32))
  generalize v.trackWrite (s.rowAddr die.val r i (bits w.d 55 32)) = z at run tracked mem
  obtain ⟨mem', maps', cores', regs'⟩ := (z.count (Base.pageMap die.val) Reg.appendRows).touch_keeps die.val i true
  have pages := written.trans tracked
  refine ⟨_, run, ?_, ?_, ?_, ?_⟩
  · rw [State.core, cores', State.count_cores, ← State.core, pages.rows, taken]
  · rw [mem', State.count_mem, mem, same.mem]
  · rw [State.get, regs', ← State.get, State.get_count_same _ _ _ _ _ (by decide), State.get,
      pages.regs _ (blockOf_pageMap _ (by decide)), ← State.get, get]
  · rw [maps', State.count_maps, pages.maps, maps]

end

/-- Settles O28: a LOOKUP of a page that is not there (`lookup_absent`), an APPEND_SET (`appendSet_sets`), and the drain's
oldest row, which is missed (`appendRow_misses`), written (`appendRow_writes`) or dropped with its core
(`State.appendRow_down`). -/
theorem pageMapCommands : Obligations.PageMapCommands := by
  unfold Obligations.PageMapCommands
  intro s die core b ws r rest arr
  refine ⟨lookup_absent, fun command isSet some' inside g hg => appendSet_sets command isSet some' inside hg,
    fun rows => ?_, fun rows other => ?_, fun rows own => ⟨fun down => ?_, fun up => ⟨appendRow_misses rows own up,
      fun w i pos within read clean hpos there plain => appendRow_writes rows own up within read clean hpos there plain⟩⟩⟩
  · refine congrArg Host.Outcome.next ?_
    unfold State.appendRow
    dsimp only
    rw [rows]
  · refine congrArg Host.Outcome.next ?_
    unfold State.appendRow
    dsimp only
    rw [rows]
    exact if_pos other
  · exact congrArg Host.Outcome.next (State.appendRow_down rows own down)

end Sys2Proof.Machine
end

section
/-! PROOFS. The vector engine's command: its operands and its issue (R129, R152, R153, R159). -/

namespace Sys2Proof.Machine

/-! Sums of INT32 elements -/

/-- The elements of a list of 32-bit integers. -/
def int32At (bs : List Byte) (e : Nat) : Nat := leNat ((bs.drop (4 * e)).take 4)

theorem unpack_int32 {bs : List Byte} {m : Nat} (h : bs.length = 4 * m) :
    unpack Code.int32 bs = (List.range m).map (int32At bs) := by
  have bits : elemBits Code.int32 = 32 := rfl
  rw [unpack, bits, if_neg (by decide), chunks_eq (n := 4) (m := m) (by decide) h (by omega), List.map_map]
  rfl

theorem unsgn_add_sgn (x y : Nat) : unsgn 32 (sgn 32 (unsgn 32 (sgn 32 x + sgn 32 y))) = (x + y) % 2 ^ 32 := by
  rw [unsgn_sgn]
  unfold unsgn sgn
  split <;> split <;> omega

/-- What an addition of INT32 writes: each sum modulo 2^32. -/
def sumBytes32 (count : Nat) (ba bb : List Byte) : List Byte :=
  (List.range count).flatMap fun e => leBytes 4 ((int32At ba e + int32At bb e) % 2 ^ 32)

/-- The command is an addition of INT32 to INT32 over advancing sources. -/
structure Vec.Adds (q : Vec) : Prop where
  op : q.op = 0x02
  ifmt : q.ifmt = 0x9
  ofmt : q.ofmt = 0x9
  sa : q.sa = 0
  sb : q.sb = 0

theorem elemNum_int32 (x : Nat) : elemNum 0x9 x = .int (sgn 32 x) := rfl

theorem vecOut_int32 (i : Int) : vecOut 0x9 (.int i) = unsgn 32 i := rfl

theorem pack_int32 (es : List Nat) : pack 0x9 es = es.flatMap (leBytes 4) := rfl

theorem Vec.Adds.vecBytes {q : Vec} (h : q.Adds) {ba bb : List Byte} (ha : ba.length = 4 * q.count)
    (hb : bb.length = 4 * q.count) (bc : List Byte) : vecBytes q ba bb bc = sumBytes32 q.count ba bb := by
  obtain ⟨op, ifmt, ofmt, sa, sb⟩ := h
  have ea : unpack 0x9 ba = (List.range q.count).map (int32At ba) := unpack_int32 ha
  have eb : unpack 0x9 bb = (List.range q.count).map (int32At bb) := unpack_int32 hb
  have perRow : vopPerRow 0x02 = false := rfl
  have row : vopRow 0x02 = false := rfl
  have wide : vopT 0x02 = false := rfl
  have ints : ((floatFmt 0x9).isNone && (0x9 == Code.int8 || 0x9 == Code.int32)) = true := rfl
  unfold Machine.vecBytes
  simp only [op, ifmt, ofmt, sa, sb, perRow, row, wide, ints, Bool.false_eq_true, if_false, if_true,
    show ¬ (0x02 = 0x0C) by decide, show ¬ (0x02 = 0x0D) by decide, show ¬ (0x02 = 0x30) by decide,
    show ¬ (0x9 = Code.pair) by decide]
  rw [pack_int32, sumBytes32, List.map_map, List.flatMap_map]
  refine List.flatMap_congr fun e he => ?_
  have valueA : srcElem 0 0x9 (unpack 0x9 ba) e = int32At ba e := by
    rw [srcElem, if_pos rfl, ea]
    simp [List.mem_range.1 he]
  have valueB : srcElem 0 0x9 (unpack 0x9 bb) e = int32At bb e := by
    rw [srcElem, if_pos rfl, eb]
    simp [List.mem_range.1 he]
  simp only [Function.comp, valueA, valueB, elemNum_int32, vecOut_int32, vecInt]
  rw [unsgn_add_sgn]

/-! Bytes stored and loaded -/

/-- One step of a store of bytes: those that go into one word. -/
def State.bytesWord (s : State) (a : Nat) (bs : List Byte) : State :=
  let now := bs.take (8 - a % 8)
  if now.length = 8 then s.store (a - a % 8) (fresh (word (leNat now)))
  else
    let o := s.load (a - a % 8) true
    o.2.store (a - a % 8) (mergeWord o.1 (a % 8) now false)

theorem State.storeBytesGo_cons (s : State) (fuel a : Nat) (b : Byte) (bs : List Byte) :
    s.storeBytesGo (fuel + 1) a (b :: bs) = (s.bytesWord a (b :: bs)).storeBytesGo fuel
      (a + ((b :: bs).take (8 - a % 8)).length) ((b :: bs).drop (8 - a % 8)) := rfl

theorem State.SameAccess.bytesWord {s t : State} (h : s.SameAccess t) (a : Nat) (bs : List Byte) :
    (s.bytesWord a bs).SameAccess (t.bytesWord a bs) := by
  unfold State.bytesWord
  dsimp only
  split
  · exact h.store ..
  · obtain ⟨word, after⟩ := h.load (a - a % 8)
    rw [word]
    exact after.store ..

/-- Stored bytes leave the same memory in states that agree on memory and on where its words lie. -/
theorem State.SameAccess.storeBytesGo {s t : State} (h : s.SameAccess t) (fuel a : Nat) (bs : List Byte) :
    (s.storeBytesGo fuel a bs).SameAccess (t.storeBytesGo fuel a bs) := by
  induction fuel generalizing s t a bs with
  | zero => exact h
  | succ n ih =>
    cases bs with
    | nil => exact h
    | cons b bs =>
      rw [State.storeBytesGo_cons, State.storeBytesGo_cons]
      exact ih (h.bytesWord ..) ..

theorem State.SameAccess.storeBytes {s t : State} (h : s.SameAccess t) (a : Nat) (bs : List Byte) :
    (s.storeBytes a bs).SameAccess (t.storeBytes a bs) := h.storeBytesGo ..

theorem State.SameAccess.of_butCores {s t : State} (h : SameButCores s t) : s.SameAccess t :=
  ⟨⟨h.read State.mem fun _ => rfl, h.read State.faults fun _ => rfl, h.read State.segs fun _ => rfl,
    h.read State.epochs fun _ => rfl⟩, h.read State.eff fun _ => rfl, h.read State.um fun _ => rfl⟩

/-- Bytes of clean words are loaded alike from any state with the same words, and loading them only counts traffic. -/
theorem State.SameWords.loadBytes_clean {s t : State} (h : s.SameWords t) {a n : Nat} (aligned : a % 8 = 0)
    (clean : ∀ i < (n + 7) / 8, (s.load (a + 8 * i)).1.ecc = .clean) :
    (t.loadBytes a n).1 = (s.loadBytes a n).1 ∧ (s.loadBytes a n).1.length = n ∧
      (t.loadBytes a n).2.contents = t.contents := by
  have start : a / 8 * 8 = a := by omega
  have words : (a + n + 7) / 8 - a / 8 = (n + 7) / 8 := by omega
  obtain ⟨list, -, -⟩ := State.loads_clean clean
  obtain ⟨-, contents, -⟩ := State.loads_clean (s := t) (a := a) (n := (n + 7) / 8) fun i hi => by
    rw [h.load]; exact clean i hi
  rw [t.loadBytes_eq, s.loadBytes_eq, start, words, Nat.sub_self, h.loads clean]
  refine ⟨rfl, ?_, contents⟩
  simp only [List.drop_zero, List.length_take, length_bytesOf, List.length_map, list, List.length_range]
  omega

/-! The parts of a VEC -/

/-- What a VEC writes, and the state in which its sources have been read, from the state that gave its occupancy. -/
def State.vecReads (s : State) (d c : Nat) (q : Vec) (prev : Option VecPrev) : List Byte × State :=
  let ra := s.vecFirst d c q prev
  let rb := ra.2.vecSource d c (q.srcs.getD 1 none)
  let rc := rb.2.vecSource d c (q.srcs.getD 2 none)
  (vecBytes q ra.1 rb.1 rc.1, rc.2)

/-- What a VEC writes, and the state in which its sources have been read. -/
def State.vecRead (s : State) (d c t : Nat) (q : Vec) (prev : Option VecPrev) : List Byte × State :=
  (s.vecOccupancy d c t q prev).2.vecReads d c q prev

/-- The engine accepts its next command at a cycle. -/
def State.vecBusy (s : State) (d c t : Nat) : State := s.setCore d c { s.core d c with vready := t }

theorem State.vecBusy_keeps (s : State) (d c t : Nat) : ((s.vecBusy d c t).core d c).block = (s.core d c).block ∧
    ((s.vecBusy d c t).core d c).vready = t ∧
    (s.vecBusy d c t).get (Base.core d c) Reg.seqPc = s.get (Base.core d c) Reg.seqPc := by
  simp [State.vecBusy]

/-- The block after a VEC, which a later one may chain to. -/
def BlockRun.vectored (b : BlockRun) (q : Vec) (done : Nat) (out : List Byte) : BlockRun :=
  { b with
    done := max b.done done,
    vprev := some
      { dst := q.dst, bytes := q.dstBytes, count := q.count, out := out,
        chain := match b.vprev with
          | some p => if q.chained b.vprev then p.chain + 1 else 1
          | none => 1
        ofmt := if vopPlaneOut q.op || vopPerRow q.op || q.op == 0x30 then none else some q.ofmt } }

theorem BlockRun.sameIssue_vectored (b : BlockRun) (q : Vec) (done : Nat) (out : List Byte) :
    b.SameIssue (b.vectored q done out) := rfl

/-- The cycle in which the engine accepts the block's next command. -/
def State.vecReady (s : State) (d c : Nat) (b : BlockRun) : Nat := (s.core d c).vready - b.edge

theorem State.vecRun_eq (s : State) (d c : Nat) (b : BlockRun) (ws : List Word) (q : Vec) :
    s.vecRun d c b ws q =
      (((s.vecRead d c (b.edge + issueAt b (ws.getD 0 0) (s.vecReady d c b)) q b.vprev).2.issue d c
        (b.vectored q (issueAt b (ws.getD 0 0) (s.vecReady d c b) +
          (s.vecOccupancy d c (b.edge + issueAt b (ws.getD 0 0) (s.vecReady d c b)) q b.vprev).1 + 24)
          (s.vecRead d c (b.edge + issueAt b (ws.getD 0 0) (s.vecReady d c b)) q b.vprev).1)
        (ws.getD 0 0) (s.vecReady d c b) 2).vecBusy d c
          (b.edge + issueAt b (ws.getD 0 0) (s.vecReady d c b) +
            (s.vecOccupancy d c (b.edge + issueAt b (ws.getD 0 0) (s.vecReady d c b)) q b.vprev).1)).storeBytes
        (scratchAddr d c q.dst)
        (s.vecRead d c (b.edge + issueAt b (ws.getD 0 0) (s.vecReady d c b)) q b.vprev).1 := rfl

/-! Its sources are read -/

theorem State.vecShare_quiet (s : State) (d c t : Nat) : s.Quiet (s.vecShare d c t).2 ∧
    s.SameAccess (s.vecShare d c t).2 := by
  unfold State.vecShare State.draw
  dsimp only
  split
  · exact ⟨⟨rfl, fun _ _ => rfl⟩, ⟨⟨rfl, rfl, rfl, rfl⟩, rfl, rfl⟩⟩
  · exact ⟨.refl s, .refl s⟩

theorem State.vecOccupancy_keeps (s : State) (d c t : Nat) (q : Vec) (prev : Option VecPrev) :
    q.lanes ≤ (s.vecOccupancy d c t q prev).1 ∧ s.Quiet (s.vecOccupancy d c t q prev).2 ∧
      s.SameAccess (s.vecOccupancy d c t q prev).2 := by
  refine ⟨?_, s.vecShare_quiet d c t⟩
  exact (Nat.le_add_right ..).trans (Nat.le_max_left ..)

theorem State.Quiet.vecSource (s : State) (d c : Nat) (src : Option (Nat × Nat × Nat × Nat)) :
    s.Quiet (s.vecSource d c src).2 := by
  unfold State.vecSource
  split
  · exact .loadBytes ..
  · exact .refl s

theorem State.Quiet.vecFirst (s : State) (d c : Nat) (q : Vec) (prev : Option VecPrev) :
    s.Quiet (s.vecFirst d c q prev).2 := by
  unfold State.vecFirst
  split
  · exact .refl s
  · exact .vecSource ..

theorem State.Quiet.vecReads (s : State) (d c : Nat) (q : Vec) (prev : Option VecPrev) :
    s.Quiet (s.vecReads d c q prev).2 := ((vecFirst ..).trans (vecSource ..)).trans (vecSource ..)

theorem State.Quiet.vecRead (s : State) (d c t : Nat) (q : Vec) (prev : Option VecPrev) :
    s.Quiet (s.vecRead d c t q prev).2 := (s.vecOccupancy_keeps d c t q prev).2.1.trans (vecReads ..)

/-! The command issues -/

theorem State.pending_of_kept {s t : State} (h : t.kept = s.kept) : t.pending = s.pending := congrArg Prod.fst h

theorem blockOf_coreField (d : Nat) {c : Nat} (hc : c < 48) {f : Fld} {i : Nat} (ho : f.off + i * f.step < 0x400) :
    blockOf (Base.core d c + f.off + i * f.step) = 0x02 := by
  rw [Nat.add_assoc]
  exact blockOf_core d hc ho

section
variable {s : State} {die : DieNo} {core : CoreNo} {b : BlockRun} {ws : List Word} {q : Vec}
  (command : AtCommand s die.val core.val 0x09 2 b ws) (hq : s.vecOf die.val core.val ws = q)
include command hq

theorem State.seqVec_runs (fine : s.vecCauses die.val core.val q = []) :
    s.seqVec die.val core.val = s.vecRun die.val core.val b ws q := by
  subst hq
  exact State.seqCmd_run command rfl fine _

theorem vec_issues (fine : s.vecCauses die.val core.val q = []) :
    ∃ t, exec (.vec die core) s = .next t ∧
      Issued s t die.val core.val 2 ((s.core die.val core.val).vready - b.edge) b (ws.getD 0 0) ∧
      b.edge + issueAt b (ws.getD 0 0) ((s.core die.val core.val).vready - b.edge) + q.lanes ≤
        (t.core die.val core.val).vready := by
  have run : exec (.vec die core) s = .next (s.seqVec die.val core.val) := rfl
  have pending := State.pending_of_kept (s.vecRun_kept die.val core.val b ws q)
  rw [State.seqVec_runs command hq fine] at run
  rw [State.vecRun_eq] at run pending
  rw [← State.vecReady]
  obtain ⟨lanes, -⟩ := s.vecOccupancy_keeps die.val core.val
    (b.edge + issueAt b (ws.getD 0 0) (s.vecReady die.val core.val b)) q b.vprev
  generalize s.vecReady die.val core.val b = ready at run pending lanes
  generalize (s.vecOccupancy die.val core.val (b.edge + issueAt b (ws.getD 0 0) ready) q b.vprev).1 = v at run pending lanes
  generalize s.vecRead die.val core.val (b.edge + issueAt b (ws.getD 0 0) ready) q b.vprev = r at run pending
  have same := b.sameIssue_vectored q (issueAt b (ws.getD 0 0) ready + v + 24) r.1
  generalize b.vectored q (issueAt b (ws.getD 0 0) ready + v + 24) r.1 = b' at run pending same
  obtain ⟨stored, regs⟩ := State.Quiet.storeBytes ((r.2.issue die.val core.val b' (ws.getD 0 0) ready 2).vecBusy die.val
    core.val (b.edge + issueAt b (ws.getD 0 0) ready + v)) (scratchAddr die.val core.val q.dst) r.1
  obtain ⟨block, accepts, word⟩ := (r.2.issue die.val core.val b' (ws.getD 0 0) ready 2).vecBusy_keeps die.val core.val
    (b.edge + issueAt b (ws.getD 0 0) ready + v)
  refine ⟨_, run, issued_of_sameIssue (u := r.2) same ?_ ?_ pending, ?_⟩
  · rw [State.core, stored, ← State.core, block]
  · rw [State.get, regs _ (blockOf_coreField _ core.isLt (by decide)), ← State.get, word]
  · rw [State.core, stored, ← State.core, accepts]
    exact Nat.add_le_add_left lanes _

end

/-! An addition's sources -/

theorem Vec.Adds.sources {q : Vec} (h : q.Adds) :
    q.sources = [(q.a, 0, 4 * q.count, 32), (q.b, 0, 4 * q.count, 32)] := by
  obtain ⟨op, ifmt, ofmt, sa, sb⟩ := h
  have bytes : srcBytes 0 (elemBits 0x9) q.count = 4 * q.count := by
    rw [srcBytes, if_pos rfl, show elemBits 0x9 = 32 from rfl, ceilDiv]
    omega
  unfold Vec.sources
  simp only [op, ifmt, sa, sb, bytes]
  rfl

theorem Vec.Adds.srcs {q : Vec} (h : q.Adds) :
    q.srcs = [some (q.a, 0, 4 * q.count, 32), some (q.b, 0, 4 * q.count, 32), none] := by
  unfold Vec.srcs
  rw [h.sources, h.op]
  rfl

theorem State.vecCauses_none {s : State} {d c : Nat} {q : Vec} (fine : s.vecCauses d c q = []) :
    ∀ x ∈ q.sources, s.offOk d c x.1 4096 x.2.2.1 = true := by
  have second (p : Bool) (l : List Nat) : (if p = true then [0x2] else l) = [] → l = [] := by cases p <;> simp
  have third (p : Bool) : (if p = true then [0x3] else ([] : List Nat)) = [] → p = false := by cases p <;> simp
  have inside := third _ (second _ _ fine)
  rw [Bool.or_eq_false_iff, Bool.or_eq_false_iff] at inside
  intro x hx
  simpa using List.any_eq_false.1 inside.1.2 x hx

theorem scratchAddr_aligned {d c off : Nat} (h : off % 4096 = 0) : scratchAddr d c off % 8 = 0 := by
  unfold scratchAddr
  omega

/-- A clean source is read as it stands, in any state with the same words. -/
theorem State.SameAccess.vecSource {s t : State} (h : s.SameAccess t) {d c off n m bits : Nat} (place : off % 4096 = 0)
    (clean : ∀ i < (n + 7) / 8, (s.load (scratchAddr d c off + 8 * i)).1.ecc = .clean) :
    (t.vecSource d c (some (off, m, n, bits))).1 = (s.loadBytes (scratchAddr d c off) n).1 ∧
      (s.loadBytes (scratchAddr d c off) n).1.length = n ∧
      s.SameAccess (t.vecSource d c (some (off, m, n, bits))).2 := by
  obtain ⟨bytes, length, contents⟩ := h.toSameWords.loadBytes_clean (scratchAddr_aligned place) clean
  exact ⟨bytes, length, h.trans (.of_contents contents)⟩

end Sys2Proof.Machine
end

section
/-! PROOFS. What an addition of INT32 reads and writes (R152, R159, R160), and O30. -/

namespace Sys2Proof.Machine

theorem State.vecSource_none (s : State) (d c : Nat) : s.vecSource d c none = ([], s) := Eq.trans rfl rfl

/-- A source a that is clean in the scratchpad, or on the result path of the command before (R160). -/
def State.firstIs (s : State) (d c : Nat) (q : Vec) (prev : Option VecPrev) (ba : List Byte) : Prop :=
  (q.chained prev = false ∧
      (∀ i < (4 * q.count + 7) / 8, (s.load (scratchAddr d c q.a + 8 * i)).1.ecc = .clean) ∧
      (s.loadBytes (scratchAddr d c q.a) (4 * q.count)).1 = ba) ∨
    (∃ p, prev = some p ∧ q.chained prev = true ∧ p.out = ba ∧ ba.length = 4 * q.count)

theorem State.vecFirst_alone {q : Vec} {prev : Option VecPrev} (alone : q.chained prev = false) (s : State) (d c : Nat) :
    s.vecFirst d c q prev = s.vecSource d c (q.srcs.getD 0 none) := by
  unfold State.vecFirst
  rw [alone]

theorem State.vecFirst_chained {q : Vec} {p : VecPrev} (chained : q.chained (some p) = true) (s : State) (d c : Nat) :
    s.vecFirst d c q (some p) = (p.out, s) := by
  unfold State.vecFirst
  rw [chained]

/-- A command of two sources reads no third. -/
theorem State.vecReads_two {q : Vec} {a b : Option (Nat × Nat × Nat × Nat)} (srcs : q.srcs = [a, b, none]) (s : State)
    (d c : Nat) (prev : Option VecPrev) :
    (s.vecReads d c q prev).1 =
        vecBytes q (s.vecFirst d c q prev).1 ((s.vecFirst d c q prev).2.vecSource d c b).1 [] ∧
      (s.vecReads d c q prev).2 = ((s.vecFirst d c q prev).2.vecSource d c b).2 := by
  unfold State.vecReads
  generalize s.vecFirst d c q prev = r
  rw [srcs, List.getD_cons_succ, List.getD_cons_zero, List.getD_cons_succ, List.getD_cons_succ, List.getD_cons_zero]
  dsimp only
  generalize r.2.vecSource d c b = x
  rw [State.vecSource_none]
  exact ⟨rfl, rfl⟩

section
variable {s u : State} {d c : Nat} {q : Vec} {prev : Option VecPrev} {ba bb : List Byte} (access : s.SameAccess u)
  (adds : q.Adds)
include access adds

theorem State.vecFirst_adds (placeA : q.a % 4096 = 0) (first : s.firstIs d c q prev ba) :
    (u.vecFirst d c q prev).1 = ba ∧ ba.length = 4 * q.count ∧ s.SameAccess (u.vecFirst d c q prev).2 := by
  rcases first with ⟨alone, clean, bytes⟩ | ⟨p, rfl, chained, bytes, length⟩
  · obtain ⟨same, length, after⟩ := access.vecSource (m := 0) (bits := 32) placeA clean
    rw [State.vecFirst_alone alone, adds.srcs, List.getD_cons_zero, same]
    exact ⟨bytes, bytes ▸ length, after⟩
  · rw [State.vecFirst_chained chained]
    exact ⟨bytes, length, access⟩

/-- What an addition reads: its first source from the scratchpad or from the command that it chains to. -/
theorem State.vecReads_adds (placeA : q.a % 4096 = 0) (placeB : q.b % 4096 = 0)
    (cleanB : ∀ i < (4 * q.count + 7) / 8, (s.load (scratchAddr d c q.b + 8 * i)).1.ecc = .clean)
    (first : s.firstIs d c q prev ba) (second : (s.loadBytes (scratchAddr d c q.b) (4 * q.count)).1 = bb) :
    (u.vecReads d c q prev).1 = sumBytes32 q.count ba bb ∧ s.SameAccess (u.vecReads d c q prev).2 := by
  obtain ⟨bytesA, lengthA, access⟩ := State.vecFirst_adds access adds placeA first
  obtain ⟨bytesB, lengthB, access⟩ := access.vecSource (m := 0) (bits := 32) placeB cleanB
  obtain ⟨written, after⟩ := u.vecReads_two adds.srcs d c prev
  rw [written, after]
  refine ⟨?_, access⟩
  rw [bytesA, bytesB, second, adds.vecBytes lengthA (second ▸ lengthB)]

end

theorem State.vecRead_adds {s : State} {d c : Nat} {q : Vec} {prev : Option VecPrev} {ba bb : List Byte} (adds : q.Adds)
    (placeA : q.a % 4096 = 0) (placeB : q.b % 4096 = 0)
    (cleanB : ∀ i < (4 * q.count + 7) / 8, (s.load (scratchAddr d c q.b + 8 * i)).1.ecc = .clean)
    (first : s.firstIs d c q prev ba) (second : (s.loadBytes (scratchAddr d c q.b) (4 * q.count)).1 = bb) (t : Nat) :
    (s.vecRead d c t q prev).1 = sumBytes32 q.count ba bb ∧ s.SameAccess (s.vecRead d c t q prev).2 :=
  State.vecReads_adds (s.vecOccupancy_keeps d c t q prev).2.2 adds placeA placeB cleanB first second

/-- The memory that an addition leaves. -/
theorem vec_adds {s : State} {die : DieNo} {core : CoreNo} {b : BlockRun} {ws : List Word} {q : Vec} {ba bb : List Byte}
    (command : AtCommand s die.val core.val 0x09 2 b ws) (hq : s.vecOf die.val core.val ws = q)
    (fine : s.vecCauses die.val core.val q = []) (adds : q.Adds)
    (cleanB : ∀ i < (4 * q.count + 7) / 8, (s.load (scratchAddr die.val core.val q.b + 8 * i)).1.ecc = .clean)
    (first : s.firstIs die.val core.val q b.vprev ba)
    (second : (s.loadBytes (scratchAddr die.val core.val q.b) (4 * q.count)).1 = bb) :
    ∃ t, exec (.vec die core) s = .next t ∧
      t.mem = (s.storeBytes (scratchAddr die.val core.val q.dst) (sumBytes32 q.count ba bb)).mem := by
  have run : exec (.vec die core) s = .next (s.seqVec die.val core.val) := rfl
  rw [State.seqVec_runs command hq fine, State.vecRun_eq] at run
  have places := State.vecCauses_none fine
  have placeA := (State.offOk_bounds (places (q.a, 0, 4 * q.count, 32) (by rw [adds.sources]; simp))).1
  have placeB := (State.offOk_bounds (places (q.b, 0, 4 * q.count, 32) (by rw [adds.sources]; simp))).1
  obtain ⟨written, access⟩ := State.vecRead_adds adds placeA placeB cleanB first second
    (b.edge + issueAt b (ws.getD 0 0) (s.vecReady die.val core.val b))
  rw [written] at run
  refine ⟨_, run, ?_⟩
  have issued := access.trans (.of_butCores (State.sameButCores_issue _ die.val core.val
    (b.vectored q (issueAt b (ws.getD 0 0) (s.vecReady die.val core.val b) + (s.vecOccupancy die.val core.val
      (b.edge + issueAt b (ws.getD 0 0) (s.vecReady die.val core.val b)) q b.vprev).1 + 24) (sumBytes32 q.count ba bb))
    (ws.getD 0 0) (s.vecReady die.val core.val b) 2))
  exact ((issued.trans (.setCore ..)).storeBytes ..).mem

/-- Settles O30: a VEC issues (`vec_issues`), an addition of INT32 writes its wrapped sums (`vec_adds`), and one with a
cause aborts its block (`State.seqCmd_cause`). -/
theorem vectorCommand : Obligations.VectorCommand := by
  unfold Obligations.VectorCommand
  intro s die core b ws q ba bb command hq
  refine ⟨fun fine => ⟨vec_issues command hq fine, fun op ifmt ofmt sa sb cleanB first second =>
    vec_adds command hq fine ⟨op, ifmt, ofmt, sa, sb⟩ cleanB first second⟩, fun cause lowest => ?_⟩
  subst hq
  exact congrArg Host.Outcome.next (State.seqCmd_cause command rfl lowest _)

end Sys2Proof.Machine
end

section
/-! PROOFS. Requests of a channel's MOVEs that go out or wait for quota (R146, R147, R248). -/

namespace Sys2Proof.Machine

/-! What sending requests leaves -/

theorem State.sameWords_refl (s : State) : s.SameWords s := ⟨rfl, rfl, rfl, rfl⟩

/-- `t` is `s` but for what sending requests changes: of a channel's MOVEs only which requests have gone out, and nothing
of the register that shows its state. -/
structure State.Sends (d c ch : Nat) (s t : State) : Prop where
  words : s.SameWords t
  units : t.units = s.units
  moves : (t.chan d c ch).moves.map DmaMv.unsent = (s.chan d c ch).moves.map DmaMv.unsent
  shown : t.reg (Base.core d c + 0x200 + ch * 0x20) = s.reg (Base.core d c + 0x200 + ch * 0x20)

/-- A field of the register that shows a channel's state. -/
structure Fld.OfChannel (f : Fld) : Prop where
  off : f.off = 0x200
  step : f.step = 0x20

/-- The register that shows a channel's state lies in a core's block. -/
theorem blockOf_shown (d : Nat) {c ch : Nat} (hc : c < 48) (hch : ch < 4) :
    blockOf (Base.core d c + 0x200 + ch * 0x20) = 0x02 := by
  rw [Nat.add_assoc]
  exact blockOf_core d hc (by omega)

namespace State.Sends

variable {d c ch : Nat}

theorem refl (s : State) : Sends d c ch s s := ⟨s.sameWords_refl, rfl, rfl, rfl⟩

theorem trans {s t u : State} (h : Sends d c ch s t) (k : Sends d c ch t u) : Sends d c ch s u :=
  ⟨h.words.trans k.words, k.units.trans h.units, k.moves.trans h.moves, k.shown.trans h.shown⟩

theorem get {s t : State} (h : Sends d c ch s t) {f : Fld} (hf : f.OfChannel) :
    t.get (Base.core d c) f ch = s.get (Base.core d c) f ch := by
  rw [State.get, State.get, hf.off, hf.step, h.shown]

theorem of_contents {s t : State} (h : t.contents = s.contents)
    (shown : t.reg (Base.core d c + 0x200 + ch * 0x20) = s.reg (Base.core d c + 0x200 + ch * 0x20)) :
    Sends d c ch s t :=
  ⟨State.sameWords_of_contents h, State.units_of_contents h,
    by rw [State.chan_congr (State.cores_of_contents h)], shown⟩

theorem put (s : State) {b : Nat} {f : Fld} {i : Nat} (v : Nat)
    (apart : Base.core d c + 0x200 + ch * 0x20 ≠ b + f.off + i * f.step) : Sends d c ch s (s.put b f v i) :=
  of_contents (State.put_contents ..) (State.reg_put_other _ _ _ _ _ apart)

theorem count (s : State) {b : Nat} {f : Fld} {i : Nat} (n : Nat)
    (apart : Base.core d c + 0x200 + ch * 0x20 ≠ b + f.off + i * f.step) : Sends d c ch s (s.count b f n i) :=
  of_contents (State.count_contents ..) (State.reg_count_other _ _ _ _ _ apart)

theorem setCore (s : State) {k : Core} (chans : k.chans = (s.core d c).chans) : Sends d c ch s (s.setCore d c k) := by
  refine ⟨(State.SameAccess.setCore ..).toSameWords, State.setCore_units .., ?_, State.setCore_reg ..⟩
  rw [State.chan, State.core_setCore, chans, State.chan]

end State.Sends

/-! The quota (R248) -/

/-- A waiting request of a MOVE goes out. -/
def DmaMv.sendOut (m : DmaMv) (index now : Nat) : DmaMv :=
  { m with reqs := m.reqs.map fun r => if r.index = index then { r with issued := some now } else r }

theorem DmaMv.unsent_sendOut (m : DmaMv) (index now : Nat) : (m.sendOut index now).unsent = m.unsent := by
  rw [DmaMv.sendOut, DmaMv.unsent, DmaMv.unsent, List.map_map]
  refine congrArg (fun rs => ({ m with reqs := rs } : DmaMv)) (List.map_congr_left fun r _ => ?_)
  simp only [Function.comp]
  split <;> rfl

theorem State.sendOut_eq (s : State) (d c ch index : Nat) : s.sendOut d c ch index =
    (s.setChan d c ch { s.chan d c ch with
      moves := (s.chan d c ch).moves.map fun m => m.sendOut index s.stroke }).count (Base.core d c) Reg.chRequests 1 ch :=
  rfl

theorem State.chan_setChan_other (s : State) (d c : Nat) (x : Chan) {ch ch' : Nat} (other : ch' ≠ ch) :
    (s.setChan d c ch x).chan d c ch' = s.chan d c ch' := by
  rw [State.chan, State.setChan, State.core_setCore]
  exact cget_cset_other _ _ _ other

theorem State.Sends.requests (d c ch : Nat) (s : State) (n ch' : Nat) :
    State.Sends d c ch s (s.count (Base.core d c) Reg.chRequests n ch') :=
  .count _ _ (by simp only [Reg.chRequests]; omega)

theorem State.Sends.setChan (d c ch : Nat) (s : State) {ch' : Nat} {x : Chan}
    (moves : x.moves.map DmaMv.unsent = (s.chan d c ch').moves.map DmaMv.unsent) :
    State.Sends d c ch s (s.setChan d c ch' x) := by
  have core : s.SameAccess (s.setChan d c ch' x) := .setCore ..
  refine ⟨core.toSameWords, State.setCore_units .., ?_, State.setCore_reg ..⟩
  by_cases same : ch = ch'
  · rw [same, State.chan_setChan, moves]
  · rw [State.chan_setChan_other _ _ _ _ same]

theorem State.Sends.sendOut (d c ch : Nat) (s : State) (ch' index : Nat) :
    State.Sends d c ch s (s.sendOut d c ch' index) := by
  rw [State.sendOut_eq]
  refine (State.Sends.setChan d c ch s ?_).trans (.requests ..)
  rw [List.map_map]
  exact List.map_congr_left fun m _ => m.unsent_sendOut ..

theorem State.Sends.quotaFill (d c ch : Nat) (s : State) (p fuel : Nat) :
    State.Sends d c ch s (s.quotaFill d c p fuel) := by
  induction fuel generalizing s with
  | zero => exact .refl s
  | succ n ih =>
    unfold State.quotaFill
    split
    · exact .refl s
    · dsimp only
      split
      · exact .refl s
      · split
        · exact .refl s
        · refine State.Sends.trans (State.Sends.trans ?_ (sendOut ..)) (ih _)
          exact setCore s rfl

theorem State.Sends.trackShow (d : Nat) {c ch : Nat} (hc : c < 48) (hch : ch < 4) (s : State) :
    State.Sends d c ch s s.trackShow := by
  have apart (p i : Nat) {f : Fld} (hf : f.off + i * f.step = 0x20) :
      Base.core d c + 0x200 + ch * 0x20 ≠ Base.tier p + f.off + i * f.step := fun same => by
    have inCore := blockOf_shown d hc hch
    rw [same, Nat.add_assoc, hf] at inCore
    simp only [blockOf, Base.tier, csr] at inCore
    omega
  refine foldl_keeps (State.Sends d c ch s) _ _ s (.refl s) fun t p _ h => h.trans ?_
  dsimp only
  split
  · exact (put t _ (apart p 0 rfl)).trans (put _ _ (apart p 0 rfl))
  · exact put t _ (apart p 0 rfl)

theorem State.Sends.quotaServe (d : Nat) {c ch : Nat} (hc : c < 48) (hch : ch < 4) (s : State) :
    State.Sends d c ch s (s.quotaServe d c) :=
  ((quotaFill ..).trans (quotaFill ..)).trans (trackShow d hc hch _)

/-! Requests made (R146) -/

theorem State.Sends.cachePart (d : Nat) {c ch : Nat} (hc : c < 48) (hch : ch < 4) (s : State) {f : Fld}
    (hf : f.off + 0 * f.step < 0x10000) (n : Nat) : State.Sends d c ch s (s.count (Base.cachePart d) f n) :=
  .count _ _ fun same => by
    have inCore := blockOf_shown d hc hch
    rw [same, Nat.add_assoc] at inCore
    simp only [blockOf, Base.cachePart, csr] at inCore
    omega

section
variable (d : Nat) {c ch : Nat} (hc : c < 48) (hch : ch < 4) (s : State)

theorem State.Sends.cacheLook (ctx a : Nat) : State.Sends d c ch s (s.cacheLook d c ctx a).2 := by
  unfold State.cacheLook
  dsimp only
  split
  · exact .refl s
  · exact setCore s rfl

theorem State.Sends.withUm (x : Umajo) : State.Sends d c ch s { s with um := x } :=
  ⟨⟨rfl, rfl, rfl, rfl⟩, rfl, rfl, rfl⟩

theorem State.Sends.hostRead (ctx off bytes : Nat) (owner : RdOwner) :
    State.Sends d c ch s (s.hostRead ctx off bytes owner) := by
  unfold State.hostRead State.hostGet
  split
  · exact withUm d s _
  · exact (withUm d s _).trans (withUm d _ _)

include hc hch

theorem State.Sends.cacheHit (lo hi : Nat) (expect : Option Nat) (line : Option CLine) :
    State.Sends d c ch s (s.cacheHit d c lo hi expect line).2 := by
  have counted (t : State) (f : Fld) (hf : f.off + 0 * f.step < 0x10000) :
      State.Sends d c ch t (t.count (Base.cachePart d) f) := cachePart d hc hch t hf 1
  unfold State.cacheHit
  split
  · exact counted s Reg.cpMisses (by decide)
  · split
    · refine State.Sends.trans (State.Sends.trans ?_ (counted _ Reg.cpMisses (by decide)))
        (counted _ Reg.cpEpochMiss (by decide))
      exact setCore s rfl
    · split
      · split
        · exact counted s Reg.cpHits (by decide)
        · exact counted s Reg.cpMisses (by decide)
      · exact counted s Reg.cpMisses (by decide)

theorem State.Sends.cacheLines (ctx : Nat) (expect : Option Nat) (w0 w1 l n : Nat) :
    State.Sends d c ch s (s.cacheLines d c ctx expect w0 w1 l n).2 := by
  induction n generalizing s l with
  | zero => exact .refl s
  | succ n ih => exact ((cacheLook d s _ _).trans (cacheHit d hc hch _ _ _ _ _)).trans (ih _ _)

/-- A request that does not run ahead is made and is not done, whatever the core cache or the quota say. -/
theorem State.moveRequest_made (echk : Bool) (epoch : Option Nat) (i lo hi : Nat) :
    State.Sends d c ch s (s.moveRequest d c ch false echk epoch i lo hi).2 ∧
      ((s.moveRequest d c ch false echk epoch i lo hi).1.index, (s.moveRequest d c ch false echk epoch i lo hi).1.lo,
        (s.moveRequest d c ch false echk epoch i lo hi).1.hi) = (i, lo, hi) ∧
      (s.moveRequest d c ch false echk epoch i lo hi).1.how = 0 := by
  unfold State.moveRequest
  dsimp only
  rw [Bool.false_and, if_neg Bool.false_ne_true]
  split
  · exact ⟨.requests .., rfl, rfl⟩
  · have lines := State.Sends.cacheLines d hc hch s (s.chan d c ch).ctx
      (if echk && (placeOf lo == .ddr || placeOf lo == .host) then some (epoch.getD (s.epochOf lo).toNat) else none)
      (lo / 8) (ceilDiv hi 8) (lo / 128) (ceilDiv hi 128 - lo / 128)
    split
    · exact ⟨lines.trans (.requests ..), rfl, rfl⟩
    · split
      · refine ⟨(lines.trans (.requests d c ch _ 1 ch)).trans ?_, rfl, rfl⟩
        dsimp only
        exact .hostRead ..
      · exact ⟨lines, rfl, rfl⟩

theorem State.moveRequests_made (echk : Bool) (epoch : Option Nat) (parts : List (Nat × Nat × Nat)) :
    State.Sends d c ch s (s.moveRequests d c ch false echk epoch parts).2 ∧
      (s.moveRequests d c ch false echk epoch parts).1.map (fun q => (q.index, q.lo, q.hi)) = parts ∧
      ∀ q ∈ (s.moveRequests d c ch false echk epoch parts).1, q.how = 0 := by
  induction parts generalizing s with
  | nil => exact ⟨.refl s, rfl, fun _ h => absurd h List.not_mem_nil⟩
  | cons p parts ih =>
    obtain ⟨i, lo, hi⟩ := p
    obtain ⟨first, extent, open'⟩ := s.moveRequest_made d hc hch echk epoch i lo hi
    obtain ⟨others, extents, opens⟩ := ih (s.moveRequest d c ch false echk epoch i lo hi).2
    refine ⟨first.trans others, congrArg₂ List.cons extent extents, fun q hq => ?_⟩
    rcases List.mem_cons.1 hq with rfl | later
    · exact open'
    · exact opens q later

end

end Sys2Proof.Machine
end

section
/-! PROOFS. A MOVE that starts (R143, R146): its requests, its place in the channel, and the descriptor left behind. -/

namespace Sys2Proof.Machine

/-- The MOVE that a descriptor makes, with its requests. -/
def State.moveOf (s : State) (d c ch : Nat) (ws : List Word) (rs : List DmaReq) : DmaMv :=
  { src := (s.moveAddrs d c ch ws).1, dst := (s.moveAddrs d c ch ws).2, len := bits (ws.getD 2 0) 31 0,
    half := if bit (ws.getD 0 0) 59 then some (bits (ws.getD 0 0) 57 54) else none,
    full := if bit (ws.getD 0 0) 58 then some (bits (ws.getD 0 0) 53 50) else none,
    echk := bits (ws.getD 2 0) 55 54 == 1, attempt := 0, runahead := bit (ws.getD 2 0) 53, reqs := rs,
    halfDone := false }

/-- The extents of the requests of a descriptor's MOVE. -/
def State.moveParts (s : State) (d c ch : Nat) (ws : List Word) : List (Nat × Nat × Nat) :=
  splitMove (bits (ws.getD 2 0) 31 0 / 256 + 2) (s.chan d c ch).next (s.moveAddrs d c ch ws).1
    ((s.moveAddrs d c ch ws).1 + bits (ws.getD 2 0) 31 0)

/-- A MOVE comes into its channel, which runs on behind its descriptor. -/
def State.moveQueued (s : State) (d c ch : Nat) (mv : DmaMv) (n : Nat) : State :=
  let u := s.setChan d c ch
    { s.chan d c ch with moves := (s.chan d c ch).moves ++ [mv], next := (s.chan d c ch).next + n }
  (u.setChPc d c ch (u.get (Base.core d c) Reg.chPc ch + 3)).setChSt d c ch 1

theorem State.moveQueued_moves (s : State) (d c ch : Nat) (mv : DmaMv) (n : Nat) :
    ((s.moveQueued d c ch mv n).chan d c ch).moves = (s.chan d c ch).moves ++ [mv] := by
  unfold State.moveQueued
  dsimp only
  rw [State.setChSt, State.chan_congr (State.put_cores ..), State.setChPc, State.chan_congr (State.put_cores ..),
    State.chan_setChan]

theorem State.moveQueued_shows (s : State) (d c ch : Nat) (mv : DmaMv) (n : Nat) :
    (s.moveQueued d c ch mv n).chSt d c ch = 1 ∧ (s.moveQueued d c ch mv n).get (Base.core d c) Reg.chPc ch =
      (s.get (Base.core d c) Reg.chPc ch + 3) % 2 ^ 20 := by
  refine ⟨State.chSt_setChSt _ _ _ _ (by decide), ?_⟩
  unfold State.moveQueued
  dsimp only
  rw [State.setChSt, State.get_put_field _ _ _ _ _ _ _ _ (by rfl) (by decide) (by decide), State.setChPc,
    State.get_put_same _ _ _ _ _ (by decide), State.setChan, State.setCore_get]
  rfl

theorem State.sameButCores_moveQueued (s : State) (d c ch : Nat) (mv : DmaMv) (n : Nat) :
    SameButCores s (s.moveQueued d c ch mv n) :=
  (s.sameButCores_setChan ..).trans ((State.sameButCores_put ..).trans (State.sameButCores_put ..))

theorem splitMove_ne_nil {fuel i lo hi : Nat} (h : lo < hi) : splitMove (fuel + 1) i lo hi ≠ [] := by
  rw [splitMove, if_neg (Nat.not_le.2 h)]
  exact List.cons_ne_nil _ _

/-- A MOVE with requests, none of which is done, is not done. -/
theorem allDone_open {mv : DmaMv} (some' : mv.reqs ≠ []) (open' : ∀ q ∈ mv.reqs, q.how = 0) : allDone mv = false := by
  obtain ⟨q, rest, eq⟩ := List.exists_cons_of_ne_nil some'
  rw [allDone, eq, List.all_cons, open' q (by rw [eq]; exact List.mem_cons_self)]
  rfl

theorem State.moveRun_eq {s : State} {d c ch : Nat} {ws : List Word} {rs : List DmaReq} {u : State}
    (made : s.moveRequests d c ch (bit (ws.getD 2 0) 53) (bits (ws.getD 2 0) 55 54 == 1)
      (some (bits (ws.getD 2 0) 63 56)) (s.moveParts d c ch ws) = (rs, u))
    (open' : allDone (s.moveOf d c ch ws rs) = false) : s.moveRun d c ch ws =
      (u.moveQueued d c ch (s.moveOf d c ch ws rs) (s.moveParts d c ch ws).length).quotaServe d c := by
  have run : s.moveRun d c ch ws =
    (let r := s.moveRequests d c ch (bit (ws.getD 2 0) 53) (bits (ws.getD 2 0) 55 54 == 1)
      (some (bits (ws.getD 2 0) 63 56)) (s.moveParts d c ch ws)
     let v := r.2.moveQueued d c ch (s.moveOf d c ch ws r.1) (s.moveParts d c ch ws).length
     (if allDone (s.moveOf d c ch ws r.1) then
       v.moveEvents d c ch ((r.2.chan d c ch).moves.length) (s.moveOf d c ch ws r.1) else v).quotaServe d c) := rfl
  rw [run, made]
  dsimp only
  rw [if_neg (by simp [open'])]

theorem State.moveBad_length {s : State} {d c ch : Nat} {ws : List Word} (fine : s.moveBad d c ch ws = none) :
    bits (ws.getD 2 0) 31 0 ≠ 0 := by
  intro zero
  unfold State.moveBad at fine
  dsimp only at fine
  split at fine
  · exact absurd fine (by simp)
  · rw [if_pos (.inl zero)] at fine
    exact absurd fine (by simp)

/-- A channel in service at a well-formed descriptor of a code runs it. -/
theorem State.chanCmd_runs {s : State} {d c ch op : Nat} {ws : List Word} (at' : AtDescriptor s d c ch op ws s)
    (known : op ≠ 0 ∧ op ≤ 5) {bad : List Word → Option Nat} (fine : bad ws = none) (run : List Word → State → State) :
    s.chanCmd d c ch op bad run = run ws s := by
  obtain ⟨runs, room, code, words⟩ := at'
  have some' : 1 ≤ descLen op := by
    unfold descLen
    split
    · omega
    · split <;> omega
  unfold State.chanCmd
  dsimp only
  rw [runs, if_neg (by simp), if_neg (by omega), code, if_neg (by omega), if_neg (by simp), if_neg (by omega), words]
  dsimp only
  rw [fine]

theorem dmaMove_starts {s : State} {die : DieNo} {core : CoreNo} {ch : Fin 4} {ws : List Word}
    (at' : AtDescriptor s die.val core.val ch.val 0x1 ws s) (fine : s.moveBad die.val core.val ch.val ws = none)
    (stays : bit (ws.getD 2 0) 53 = false) :
    ∃ (t : State) (m : DmaMv), exec (.dmaMove die core ch) s = .next t ∧
      (t.chan die.val core.val ch.val).moves.map DmaMv.unsent =
        (s.chan die.val core.val ch.val).moves.map DmaMv.unsent ++ [m.unsent] ∧
      (m.src, m.dst) = s.moveAddrs die.val core.val ch.val ws ∧ m.len = bits (ws.getD 2 0) 31 0 ∧
      m.reqs.map (fun q => (q.index, q.lo, q.hi)) =
        splitMove (m.len / 256 + 2) (s.chan die.val core.val ch.val).next m.src (m.src + m.len) ∧
      (∀ q ∈ m.reqs, q.how = 0) ∧ t.chSt die.val core.val ch.val = 1 ∧
      t.get (Base.core die.val core.val) Reg.chPc ch.val =
        (s.get (Base.core die.val core.val) Reg.chPc ch.val + 3) % 2 ^ 20 ∧ t.mem = s.mem ∧ t.units = s.units := by
  have run : exec (.dmaMove die core ch) s = .next (s.chanCmd die.val core.val ch.val 0x1
    (s.moveBad die.val core.val ch.val) fun ws s => s.moveRun die.val core.val ch.val ws) := rfl
  rw [State.chanCmd_runs at' ⟨by decide, by decide⟩ fine] at run
  have length := State.moveBad_length fine
  obtain ⟨made, extents, open'⟩ := s.moveRequests_made die.val core.isLt ch.isLt (bits (ws.getD 2 0) 55 54 == 1)
    (some (bits (ws.getD 2 0) 63 56)) (s.moveParts die.val core.val ch.val ws)
  rw [← stays] at made extents open'
  obtain ⟨rs, u, eq⟩ : ∃ rs u, s.moveRequests die.val core.val ch.val (bit (ws.getD 2 0) 53)
    (bits (ws.getD 2 0) 55 54 == 1) (some (bits (ws.getD 2 0) 63 56)) (s.moveParts die.val core.val ch.val ws) = (rs, u) :=
    ⟨_, _, rfl⟩
  rw [eq] at made extents open'
  have requests : rs ≠ [] := by
    rintro rfl
    exact splitMove_ne_nil (by omega) extents.symm
  rw [State.moveRun_eq eq (allDone_open requests open')] at run
  have queued := u.sameButCores_moveQueued die.val core.val ch.val (s.moveOf die.val core.val ch.val ws rs)
    (s.moveParts die.val core.val ch.val ws).length
  have moves := u.moveQueued_moves die.val core.val ch.val (s.moveOf die.val core.val ch.val ws rs)
    (s.moveParts die.val core.val ch.val ws).length
  obtain ⟨state, pc⟩ := u.moveQueued_shows die.val core.val ch.val (s.moveOf die.val core.val ch.val ws rs)
    (s.moveParts die.val core.val ch.val ws).length
  generalize u.moveQueued die.val core.val ch.val (s.moveOf die.val core.val ch.val ws rs)
    (s.moveParts die.val core.val ch.val ws).length = v at run queued moves state pc
  have served := State.Sends.quotaServe die.val core.isLt ch.isLt v
  refine ⟨_, s.moveOf die.val core.val ch.val ws rs, run, ?_, rfl, rfl, extents, open', ?_, ?_, ?_, ?_⟩
  · rw [served.moves, moves, List.map_append, made.moves]
    rfl
  · exact (served.get ⟨rfl, rfl⟩).trans state
  · rw [served.get ⟨rfl, rfl⟩, pc, made.get ⟨rfl, rfl⟩]
  · rw [served.words.mem, queued.read State.mem fun _ => rfl, made.words.mem]
  · rw [served.units, queued.read State.units fun _ => rfl, made.units]

end Sys2Proof.Machine
end

section
/-! PROOFS. Requests that end (R145, R148): a failed one, and a MOVE that is done. -/

namespace Sys2Proof.Machine

/-! A MOVE that is done leaves its channel -/

/-- A MOVE's event changes event counters alone, and not the status shown. -/
theorem State.postEvent_keeps (s : State) (d c ch : Nat) (ec : Option Nat) :
    (s.postEvent d c ch ec).contents = s.contents ∧
      (s.postEvent d c ch ec).get (Base.core d c) Reg.chLastStatus ch = s.get (Base.core d c) Reg.chLastStatus ch := by
  unfold State.postEvent
  split
  next e =>
    split
    · exact ⟨rfl, rfl⟩
    · refine ⟨State.evcAdd_contents .., ?_⟩
      have counter (v : Nat) : (s.put (Base.core d c) Reg.evc v e).get (Base.core d c) Reg.chLastStatus ch =
          s.get (Base.core d c) Reg.chLastStatus ch := by
        by_cases here : Base.core d c + Reg.chLastStatus.off + ch * Reg.chLastStatus.step =
            Base.core d c + Reg.evc.off + e * Reg.evc.step
        · exact State.get_put_field _ _ _ _ _ _ _ _ here (by decide) (by decide)
        · exact State.get_put_addr _ _ _ _ _ _ _ _ here
      unfold State.evcAdd
      dsimp only
      split
      · exact counter _
      · rw [State.get_count_addr _ _ _ _ _ _ _ _ (by simp only [Reg.chLastStatus, Reg.evcSat]; omega)]
        exact counter _
  next => exact ⟨rfl, rfl⟩

/-- A MOVE leaves its channel; the channel may come to rest. -/
theorem State.dropMove_keeps (s : State) (d c ch i : Nat) : SameButCores s (s.dropMove d c ch i) ∧
    ((s.dropMove d c ch i).chan d c ch).moves = (s.chan d c ch).moves.eraseIdx i ∧
    (s.dropMove d c ch i).get (Base.core d c) Reg.chLastStatus ch = s.get (Base.core d c) Reg.chLastStatus ch := by
  have kept := s.sameButCores_setChan d c ch { s.chan d c ch with moves := (s.chan d c ch).moves.eraseIdx i }
  have moves : ((s.setChan d c ch { s.chan d c ch with moves := (s.chan d c ch).moves.eraseIdx i }).chan d c ch).moves =
    (s.chan d c ch).moves.eraseIdx i := by rw [State.chan_setChan]
  have last : (s.setChan d c ch { s.chan d c ch with moves := (s.chan d c ch).moves.eraseIdx i }).get (Base.core d c)
    Reg.chLastStatus ch = s.get (Base.core d c) Reg.chLastStatus ch := State.setCore_get ..
  unfold State.dropMove
  dsimp only
  generalize s.setChan d c ch { s.chan d c ch with moves := (s.chan d c ch).moves.eraseIdx i } = u at kept moves last
  unfold State.chanIdle
  dsimp only
  split
  · refine ⟨kept.trans (State.sameButCores_put ..), ?_, ?_⟩
    · rw [State.setChSt, State.chan_congr (State.put_cores ..), moves]
    · rw [State.setChSt, State.get_put_field _ _ _ _ _ _ _ _ (by rfl) (by decide) (by decide), last]
  · exact ⟨kept, moves, last⟩

theorem State.sameWords_of_butCores {s t : State} (h : SameButCores s t) : s.SameWords t :=
  (State.SameAccess.of_butCores h).toSameWords

/-- `t` is `s` once the channel's MOVE at place `i` has gone. -/
structure State.MoveGone (d c ch i : Nat) (s t : State) : Prop where
  words : s.SameWords t
  units : t.units = s.units
  moves : (t.chan d c ch).moves.map DmaMv.unsent = ((s.chan d c ch).moves.eraseIdx i).map DmaMv.unsent
  last : t.get (Base.core d c) Reg.chLastStatus ch = s.get (Base.core d c) Reg.chLastStatus ch

/-- A MOVE whose requests are all done posts its events and goes. -/
theorem State.moveEvents_done (s : State) (d c ch i : Nat) {mv : DmaMv} (done : allDone mv = true) :
    State.MoveGone d c ch i s (s.moveEvents d c ch i mv) := by
  obtain ⟨u, contents, last, eq⟩ : ∃ u : State, u.contents = s.contents ∧
      u.get (Base.core d c) Reg.chLastStatus ch = s.get (Base.core d c) Reg.chLastStatus ch ∧
      s.moveEvents d c ch i mv = (u.postEvent d c ch mv.full).dropMove d c ch i := by
    have split' : s.moveEvents d c ch i mv =
      ((if !mv.halfDone && halfDone mv then s.postEvent d c ch mv.half else s).postEvent d c ch mv.full).dropMove d c ch i :=
      if_pos done
    by_cases half : (!mv.halfDone && halfDone mv) = true
    · rw [if_pos half] at split'
      exact ⟨_, (s.postEvent_keeps d c ch mv.half).1, (s.postEvent_keeps d c ch mv.half).2, split'⟩
    · rw [if_neg half] at split'
      exact ⟨s, rfl, rfl, split'⟩
  obtain ⟨posted, still⟩ := u.postEvent_keeps d c ch mv.full
  rw [eq]
  generalize u.postEvent d c ch mv.full = v at posted still
  obtain ⟨kept, moves, shown⟩ := v.dropMove_keeps d c ch i
  have same := posted.trans contents
  refine ⟨(State.sameWords_of_contents same).trans (State.sameWords_of_butCores kept), ?_, ?_, ?_⟩
  · rw [kept.read State.units fun _ => rfl, State.units_of_contents same]
  · rw [moves, State.chan_congr (State.cores_of_contents same)]
  · rw [shown, still, last]

theorem State.MoveGone.sends {d c ch i : Nat} {s t u : State} (h : State.MoveGone d c ch i s t)
    (k : State.Sends d c ch t u) : State.MoveGone d c ch i s u :=
  ⟨h.words.trans k.words, k.units.trans h.units, k.moves.trans h.moves, (k.get ⟨rfl, rfl⟩).trans h.last⟩

theorem State.MoveGone.after {d c ch i : Nat} {s t u : State} (h : State.MoveGone d c ch i t u)
    (k : State.Sends d c ch s t) : State.MoveGone d c ch i s u :=
  ⟨k.words.trans h.words, h.units.trans k.units,
    by rw [h.moves, ← List.eraseIdx_map, k.moves, List.eraseIdx_map], h.last.trans (k.get ⟨rfl, rfl⟩)⟩

/-! A request that fails (R148) -/

/-- A status shown in the channel's register and in its die's. -/
def State.statusShown (s : State) (d c ch st a : Nat) : State :=
  (((((s.put (Base.core d c) Reg.chLastStatus st ch).put (Base.dma d) Reg.dmaStatus st).put (Base.dma d) Reg.dmaCore
    c).put (Base.dma d) Reg.dmaCh ch).put (Base.dma d) Reg.dmaAddr a).count (Base.dma d) Reg.dmaErrors

/-- The reason that a status sets in a unit (Table 04.14). -/
def statusReason (st : Nat) : Option Nat :=
  if st = Status.gone ∨ st = Status.quarantined then some Reason.gone
  else if st = Status.tierFail then some Reason.tierFail else none

/-- A channel's status logged, and its reason set. -/
def State.reasonNoted (s : State) (d c : Nat) (x : Chan) (st a : Nat) : State :=
  let s := s.log d (b2n ((statusReason st).isSome && s.workStaged x.ctx x.kind x.seq)) (some x.ctx) 0x12 c a
  match statusReason st with
  | some r => s.workReason x.ctx x.kind x.seq r
  | none => s

theorem State.dmaOutcome_eq (s : State) (d c ch : Nat) {st : Nat} (notDenied : st ≠ Status.denied) (a : Nat) :
    s.dmaOutcome d c ch st a = (s.statusShown d c ch st a).reasonNoted d c (s.chan d c ch) st a := if_neg notDenied

theorem State.reasonNoted_keeps (s : State) (d c : Nat) (x : Chan) (st a : Nat) :
    (s.reasonNoted d c x st a).offUnits = s.offUnits ∧
      ∀ r, blockOf r = 0x02 → (s.reasonNoted d c x st a).reg r = s.reg r := by
  have logged (act : Nat) : (s.log d act (some x.ctx) 0x12 c a).offUnits = s.offUnits :=
    State.offUnits_of_contents (State.log_contents ..)
  have regs (act r : Nat) (hr : blockOf r = 0x02) : (s.log d act (some x.ctx) 0x12 c a).reg r = s.reg r :=
    State.log_reg _ _ _ _ _ _ _ (by rw [hr]; decide) (by rw [hr]; decide)
  unfold State.reasonNoted
  dsimp only
  split
  · exact ⟨(State.workReason_offUnits ..).trans (logged _), fun r hr => (State.workReason_reg ..).trans (regs _ r hr)⟩
  · exact ⟨logged _, regs _⟩

theorem State.statusShown_keeps (s : State) (d : Nat) {c ch : Nat} (hc : c < 48) (hch : ch < 4) {st : Nat}
    (known : st < 256) (a : Nat) : (s.statusShown d c ch st a).contents = s.contents ∧
      (s.statusShown d c ch st a).get (Base.core d c) Reg.chLastStatus ch = st := by
  have apart {f : Fld} (hf : f.off + 0 * f.step < 0x10000) :
      Base.core d c + Reg.chLastStatus.off + ch * Reg.chLastStatus.step ≠ Base.dma d + f.off + 0 * f.step := fun same => by
    have inCore : blockOf (Base.core d c + Reg.chLastStatus.off + ch * Reg.chLastStatus.step) = 0x02 :=
      blockOf_shown d hc hch
    rw [same, Nat.add_assoc] at inCore
    simp only [blockOf, Base.dma, csr] at inCore
    omega
  unfold State.statusShown
  refine ⟨by simp only [State.count_contents, State.put_contents], ?_⟩
  rw [State.get_count_addr _ _ _ _ _ _ _ _ (apart (by decide)), State.get_put_addr _ _ _ _ _ _ _ _ (apart (by decide)),
    State.get_put_addr _ _ _ _ _ _ _ _ (apart (by decide)), State.get_put_addr _ _ _ _ _ _ _ _ (apart (by decide)),
    State.get_put_addr _ _ _ _ _ _ _ _ (apart (by decide)), State.get_put_same _ _ _ _ _ (by decide)]
  exact Nat.mod_eq_of_lt known

/-- The status of a failed request is shown; the core's record and memory stay. -/
theorem State.dmaOutcome_shows (s : State) (d : Nat) {c ch : Nat} (hc : c < 48) (hch : ch < 4) {st : Nat}
    (known : st < 256) (notDenied : st ≠ Status.denied) (a : Nat) : (s.dmaOutcome d c ch st a).cores = s.cores ∧
      (s.dmaOutcome d c ch st a).mem = s.mem ∧
      (s.dmaOutcome d c ch st a).get (Base.core d c) Reg.chLastStatus ch = st := by
  obtain ⟨contents, shown⟩ := s.statusShown_keeps d hc hch known a
  rw [State.dmaOutcome_eq s d c ch notDenied a]
  generalize s.statusShown d c ch st a = u at contents shown
  obtain ⟨rest, regs⟩ := u.reasonNoted_keeps d c (s.chan d c ch) st a
  have same := rest.trans (State.offUnits_of_contents contents)
  have still := regs _ (blockOf_shown d hc hch)
  exact ⟨State.cores_of_offUnits same, State.mem_of_offUnits same, (congrArg Reg.chLastStatus.get still).trans shown⟩

/-! Blocks of a MOVE that has nothing to write (R148) -/

theorem funnelBytes_failed {mv : DmaMv} (failed : ∀ q ∈ mv.reqs, q.how ≠ 1) (w : Nat) :
    funnelBytes mv w = List.replicate 8 none := by
  have word (x : Nat) : reqWord mv.reqs x = none := by
    unfold reqWord
    split
    next r found => exact if_neg (failed r (List.mem_of_find?_eq_some found))
    next => rfl
  refine List.eq_replicate_iff.2 ⟨by simp [funnelBytes], fun b hb => ?_⟩
  obtain ⟨j, -, rfl⟩ := List.mem_map.1 hb
  dsimp only
  split
  · rfl
  · rw [word]
    rfl

theorem State.funnelWord_failed (s : State) (d c ctx : Nat) {mv : DmaMv} (failed : ∀ q ∈ mv.reqs, q.how ≠ 1) (w : Nat) :
    s.funnelWord d c ctx mv w = (Status.ok, 0, s) := by
  have nothing : ((funnelBytes mv w).filter Option.isSome).length = 0 := by rw [funnelBytes_failed failed]; decide
  exact if_pos nothing

theorem State.funnelBlock_failed (s : State) (d c ctx : Nat) {mv : DmaMv} (failed : ∀ q ∈ mv.reqs, q.how ≠ 1) (b : Nat) :
    s.funnelBlock d c ctx mv b = (Status.ok, 0, s) := by
  unfold State.funnelBlock
  dsimp only
  split
  · exact if_pos (List.all_eq_true.2 fun i _ => by rw [funnelBytes_failed failed]; decide)
  · refine foldl_same _ _ _ fun i _ => ?_
    dsimp only
    rw [State.funnelWord_failed _ _ _ _ failed]
    rfl

theorem State.writeBlock_failed (s : State) (d c ch : Nat) {mv : DmaMv} (failed : ∀ q ∈ mv.reqs, q.how ≠ 1) (b : Nat) :
    s.writeBlock d c ch mv b = s.count (Base.core d c) Reg.chBytes 0 ch := by
  unfold State.writeBlock
  rw [State.funnelBlock_failed s _ _ _ failed]
  rfl

theorem State.Sends.writeBlock_failed (d c ch : Nat) (s : State) {mv : DmaMv} (failed : ∀ q ∈ mv.reqs, q.how ≠ 1)
    (b : Nat) : State.Sends d c ch s (s.writeBlock d c ch mv b) := by
  rw [State.writeBlock_failed _ _ _ _ failed]
  exact .count _ _ (by simp only [Reg.chBytes]; omega)

/-! The failure -/

theorem State.dmaComplete_fails {s : State} {d c ch index i : Nat} {mv : DmaMv} {r : DmaReq} (hc : c < 48) (hch : ch < 4)
    (up : s.coreUp d c = true) (found : s.findReq d c ch index = some (i, mv, r)) (only : mv.reqs = [r])
    (plain : mv.echk = false) {f : ReqFail} (notDenied : f ≠ .denied) :
    ((s.dmaComplete d c ch index (.failed f)).chan d c ch).moves.map DmaMv.unsent =
        ((s.chan d c ch).moves.eraseIdx i).map DmaMv.unsent ∧
      (s.dmaComplete d c ch index (.failed f)).get (Base.core d c) Reg.chLastStatus ch = failCode f ∧
      (s.dmaComplete d c ch index (.failed f)).mem = s.mem := by
  have known : failCode f < 256 ∧ failCode f ≠ Status.denied := by
    cases f with
    | denied => exact absurd rfl notDenied
    | gone => decide
    | tierFail => decide
    | quarantined => decide
  have reqs : (mv.reqs.map fun q => if q.index = r.index then { q with how := 3 } else q) = [{ r with how := 3 }] := by
    rw [only, List.map_singleton, if_pos rfl]
  have fails : s.dmaComplete d c ch index (.failed f) = ((s.dmaOutcome d c ch (failCode f) r.lo).moveGoesOn d c ch i
      { mv with reqs := [{ r with how := 3 }] } r).quotaServe d c := by
    rw [State.dmaComplete, if_pos up, found, ← reqs]
    rfl
  obtain ⟨cores, mem, shown⟩ := s.dmaOutcome_shows d hc hch known.1 known.2 r.lo
  rw [fails]
  generalize s.dmaOutcome d c ch (failCode f) r.lo = u at cores mem shown
  rw [State.moveGoesOn, if_neg (by simp [plain])]
  dsimp only
  have blocks := foldl_keeps (State.Sends d c ch u)
    (fun s b => s.writeBlock d c ch { mv with reqs := [{ r with how := 3 }] } b)
    ((blocksOf { mv with reqs := [{ r with how := 3 }] } r.lo r.hi).filter
      (blockReady { mv with reqs := [{ r with how := 3 }] })) u (.refl u)
    fun t b _ h => h.trans (.writeBlock_failed d c ch t (by simp) b)
  generalize ((blocksOf { mv with reqs := [{ r with how := 3 }] } r.lo r.hi).filter
    (blockReady { mv with reqs := [{ r with how := 3 }] })).foldl
      (fun s b => s.writeBlock d c ch { mv with reqs := [{ r with how := 3 }] } b) u = v at blocks
  have gone := v.moveEvents_done d c ch i (mv := { mv with reqs := [{ r with how := 3 }] }) rfl
  generalize v.moveEvents d c ch i { mv with reqs := [{ r with how := 3 }] } = z at gone
  have ends := (gone.sends (.quotaServe d hc hch z)).after blocks
  exact ⟨by rw [ends.moves, State.chan_congr cores], ends.last.trans shown, ends.words.mem.trans mem⟩

end Sys2Proof.Machine
end

section
/-! PROOFS. The end of the requests that own a page leaves the cores (R262, R359). -/

namespace Sys2Proof.Machine

/-- `t` has the cores and the memory of `s`, and the registers of the compute dies' cores. -/
structure State.SameDies (s t : State) : Prop where
  cores : t.cores = s.cores
  mem : t.mem = s.mem
  regs : ∀ a, blockOf a = 0x02 → a < csr 8 0 → t.reg a = s.reg a

namespace State.SameDies

theorem refl (s : State) : s.SameDies s := ⟨rfl, rfl, fun _ _ _ => rfl⟩

theorem trans {s t u : State} (h : s.SameDies t) (k : t.SameDies u) : s.SameDies u :=
  ⟨k.cores.trans h.cores, k.mem.trans h.mem, fun a ha low => (k.regs a ha low).trans (h.regs a ha low)⟩

theorem foldl {α : Type} (f : State → α → State) (l : List α) (s : State) (h : ∀ (t : State) x, t.SameDies (f t x)) :
    s.SameDies (l.foldl f s) :=
  foldl_keeps (s.SameDies) f l s (refl s) fun t x _ k => k.trans (h t x)

/-- What changes neither memory, nor the cores, nor any register. -/
theorem of_regs {s t : State} (cores : t.cores = s.cores) (mem : t.mem = s.mem) (regs : t.regs = s.regs) :
    s.SameDies t := ⟨cores, mem, fun a _ _ => by rw [State.reg, regs, State.reg]⟩

theorem put (s : State) (b : Nat) (f : Fld) (v i : Nat)
    (apart : blockOf (b + f.off + i * f.step) ≠ 0x02 ∨ csr 8 0 ≤ b) : s.SameDies (s.put b f v i) := by
  refine ⟨State.put_cores .., State.put_mem .., fun a ha low => State.reg_put_other _ _ _ _ _ fun same => ?_⟩
  rcases apart with block | high
  · exact block (same ▸ ha)
  · omega

theorem count (s : State) (b : Nat) (f : Fld) (n i : Nat)
    (apart : blockOf (b + f.off + i * f.step) ≠ 0x02 ∨ csr 8 0 ≤ b) : s.SameDies (s.count b f n i) := put _ _ _ _ _ apart

theorem refused (s : State) (die : Nat) (ctx : Option Nat) (index a : Nat) : s.SameDies (s.refused die ctx index a) := by
  have quiet := (State.Quiet.count_errors s die (f := Reg.errDenied) 1 (by decide)).trans
    (.log _ die 0 ctx 0x09 index a)
  have contents := s.refused_contents die ctx index a
  exact ⟨quiet.cores, State.mem_of_contents contents, fun r hr _ => quiet.regs r hr⟩

/-! Messages to the host -/

theorem umSend (s : State) (m : UmMsg) : s.SameDies (s.umSend m) := of_regs rfl rfl rfl

theorem hostPut (s : State) (ctx off : Nat) (ws : List TWord) (m0 m1 : Nat) : s.SameDies (s.hostPut ctx off ws m0 m1) :=
  of_regs rfl rfl rfl

theorem hostBytes (s : State) (ctx fuel off : Nat) (bs : List (Byte × Bool)) :
    s.SameDies (s.hostBytes ctx fuel off bs) := by
  induction fuel generalizing s off bs with
  | zero => exact refl s
  | succ n ih =>
    cases bs with
    | nil => exact refl s
    | cons b bs =>
      unfold State.hostBytes
      dsimp only
      exact (hostPut ..).trans (ih _ _ _)

theorem toHost (s : State) (ctx : Option Nat) (a : Nat) (ws : List Word) : s.SameDies (s.toHost ctx a ws) := by
  unfold State.toHost
  split
  · exact hostBytes ..
  · exact refused ..

theorem setHq (s : State) (q : Nat) (x : HostQ) : s.SameDies (s.setHq q x) := of_regs rfl rfl rfl

theorem umajo (s : State) (f : Fld) (v i : Nat) : s.SameDies (s.put Base.umajo f v i) :=
  put _ _ _ _ _ (.inr (by decide))

theorem contexts (s : State) (f : Fld) (n i : Nat) : s.SameDies (s.count Base.contexts f n i) :=
  count _ _ _ _ _ (.inr (by decide))

theorem requests (s : State) (f : Fld) (n i : Nat) : s.SameDies (s.count Base.requests f n i) :=
  count _ _ _ _ _ (.inr (by decide))

theorem recordWrite (s : State) (q : Nat) (r : List Word) : s.SameDies (s.recordWrite q r) := by
  unfold State.recordWrite
  dsimp only
  split
  · exact (((toHost ..).trans (umajo ..)).trans ((toHost ..).trans (setHq ..))).trans ((setHq ..).trans (umSend ..))
  · exact ((toHost ..).trans (umajo ..)).trans ((toHost ..).trans (setHq ..))

theorem recordPut (s : State) (q : Nat) (r : List Word) : s.SameDies (s.recordPut q r) := by
  unfold State.recordPut
  dsimp only
  split
  · exact (setHq ..).trans (recordWrite ..)
  · split
    · exact setHq ..
    · split
      · exact (setHq ..).trans (contexts ..)
      · exact setHq ..

theorem event (s : State) (q kind status tag handle : Nat) (results : List Word) :
    s.SameDies (s.event q kind status tag handle results) := recordPut ..

theorem complete (s : State) (c : HostCmd) (status handle : Nat) (results : List Word) :
    s.SameDies (s.complete c status handle results) := by
  have with' (h : Nat) (rs : List Word) : s.SameDies (s.completeWith c status h rs) := (setHq ..).trans (recordPut ..)
  unfold State.complete
  split
  · exact with' ..
  · exact with' ..

/-! Requests and their pages -/

theorem setReq (s : State) (i : Nat) (r : Option Req) : s.SameDies (s.setReq i r) := of_regs rfl rfl rfl

theorem ringRecord (s : State) (i : Nat) (w0 w1 : Word) : s.SameDies (s.ringRecord i w0 w1) := by
  unfold State.ringRecord
  split
  · exact refl s
  · exact ((toHost ..).trans (toHost ..)).trans (setReq ..)

theorem reqShow (s : State) : s.SameDies s.reqShow :=
  (put _ _ _ _ _ (.inr (by decide))).trans (put _ _ _ _ _ (.inr (by decide)))

theorem mapShow (s : State) (d : Nat) : s.SameDies (s.mapShow d) := by
  have shows (t : State) {f : Fld} (v i : Nat) (low : f.off + i * f.step < 0x10000) :
      t.SameDies (t.put (Base.pageMap d) f v i) := put _ _ _ _ _ (.inl (by rw [blockOf_pageMap d low]; decide))
  refine ((shows s _ _ (by decide)).trans (shows _ _ _ (by decide))).trans
    (foldl_keeps (State.SameDies _) _ _ _ (refl _) fun t i hi h => h.trans (shows t _ i ?_))
  have := List.mem_range.1 hi
  simp only [Reg.quotaUsed]
  omega

theorem releaseAll (s : State) (l : List Storage) : s.SameDies (s.releaseAll l) := of_regs rfl rfl rfl

theorem setSumAt (s : State) (handle o a : Nat) : s.SameDies (s.setSumAt handle o a) := of_regs rfl rfl rfl

theorem setMapAt (s : State) (d i : Nat) (e : Word × Word) : s.SameDies (s.setMapAt d i e) := of_regs rfl rfl rfl

theorem releasePage (s : State) (d i : Nat) (e : Word × Word) : s.SameDies ((s.releaseLater d e).setMapAt d i (0, 0)) :=
  ((releaseAll ..).trans (setSumAt ..)).trans (setMapAt ..)

theorem pagesFree (s : State) (handle : Nat) : s.SameDies (s.pagesFree handle) := by
  have redone (t : State) : t.SameDies { t with redone := t.redone.filter fun x => x.1 != handle } := of_regs rfl rfl rfl
  exact ((foldl _ _ s fun t p => releasePage t ..).trans (redone _)).trans (foldl _ _ _ mapShow)

theorem prefixSweep (s : State) : s.SameDies s.prefixSweep := by
  have dropped (t : State) (i : Nat) : t.SameDies (t.setPrefix i none) := of_regs rfl rfl rfl
  refine foldl _ _ s fun t p => ?_
  split
  · exact ((pagesFree ..).trans (dropped ..)).trans (reqShow _)
  · exact refl t

theorem rollout (s : State) (r : Req) : s.SameDies (s.rollout r) := by
  have loop (t : State) (c : Nat) (x : Loop) : t.SameDies (t.setLoop c x) := of_regs rfl rfl rfl
  unfold State.rollout
  dsimp only
  split
  · exact (loop ..).trans (put _ _ _ _ _ (.inr (by decide)))
  · exact refl s

/-- The end of a request. -/
theorem reqEnd (s : State) (i status : Nat) : s.SameDies (s.reqEnd i status) := by
  unfold State.reqEnd
  split
  · exact refl s
  next r _ =>
    have late (t : State) : t.SameDies (if status = Status.lateEnd then t.count Base.requests Reg.rqLateEnds else t) := by
      split
      · exact requests ..
      · exact refl t
    have rolled (t : State) : t.SameDies (if status = Status.ok then t.rollout r else t) := by
      split
      · exact rollout ..
      · exact refl t
    have ended := (ringRecord s i (ringWord0 r.sealed r.handle) (ringWord1 status 3 false false 0 0 0)).trans
      (requests _ Reg.rqEnded 1 0)
    have freed (t : State) : t.SameDies (((t.pagesFree r.handle).setReq i none).prefixSweep).reqShow :=
      (((pagesFree ..).trans (setReq ..)).trans (prefixSweep _)).trans (reqShow _)
    have told := ((ended.trans (late _)).trans
      (event _ r.ctx 2 status r.userTag r.handle [word (r.sealed * 2 ^ 40)])).trans (rolled _)
    dsimp only
    generalize r.pausing = pausing
    rcases pausing with _ | ⟨c, -⟩
    · exact told.trans (freed _)
    · exact (told.trans (complete ..)).trans (freed _)

theorem reqFail (s : State) (i status : Nat) : s.SameDies (s.reqFail i status) := by
  have back : s.SameDies (s.retract i) := by
    unfold State.retract
    split
    · exact refl s
    · exact (ringRecord ..).trans (requests ..)
  unfold State.reqFail
  split
  · exact refl s
  · exact back.trans (reqEnd ..)

/-- The end of the requests that own a page (R262). -/
theorem ownerFail (s : State) (h status : Nat) : s.SameDies (s.ownerFail h status) := by
  unfold State.ownerFail
  split
  · exact reqFail ..
  · exact foldl _ _ s fun t p => reqFail ..

end State.SameDies

theorem State.requestComplete_found {s : State} {d c ch index i : Nat} {mv : DmaMv} {r : DmaReq}
    (found : s.findReq d c ch index = some (i, mv, r)) (how : ReqEnd) :
    (s.dmaComplete d c ch index how).SameDies (s.requestComplete d c ch index how) := by
  unfold State.requestComplete
  rw [found]
  dsimp only
  split
  · exact .foldl _ _ _ fun t h => .ownerFail ..
  · exact .refl _

section
variable {s : State} {die : DieNo} {core : CoreNo} {ch : Fin 4} {index i : Nat} {mv : DmaMv} {r : DmaReq}
  (up : s.coreUp die.val core.val = true) (found : s.findReq die.val core.val ch.val index = some (i, mv, r))
  (only : mv.reqs = [r]) (plain : mv.echk = false)
include up found only plain

theorem dmaRequest_fails {f : ReqFail} (notDenied : f ≠ .denied) :
    ∃ t, exec (.dmaRequestComplete die core ch index (.failed f)) s = .next t ∧
      (t.chan die.val core.val ch.val).moves.map DmaMv.unsent =
        ((s.chan die.val core.val ch.val).moves.eraseIdx i).map DmaMv.unsent ∧
      t.get (Base.core die.val core.val) Reg.chLastStatus ch.val = failCode f ∧ t.mem = s.mem := by
  have run : exec (.dmaRequestComplete die core ch index (.failed f)) s =
    .next (s.requestComplete die.val core.val ch.val index (.failed f)) := rfl
  obtain ⟨moves, shown, mem⟩ := State.dmaComplete_fails core.isLt ch.isLt up found only plain notDenied
  have owners := State.requestComplete_found found (.failed f)
  have low : Base.core die.val core.val + 0x200 + ch.val * 0x20 < csr 8 0 := by
    have := die.isLt
    have := core.isLt
    have := ch.isLt
    simp only [Base.core, csr]
    omega
  have still := owners.regs _ (blockOf_shown die.val core.isLt ch.isLt) low
  exact ⟨_, run, by rw [State.chan_congr owners.cores, moves], (congrArg Reg.chLastStatus.get still).trans shown,
    owners.mem.trans mem⟩

end

end Sys2Proof.Machine
end

section
/-! PROOFS. Eight bytes of host memory that come for a MOVE to the core's own scratchpad (R145, R146, R466). -/

namespace Sys2Proof.Machine

/-! The core cache takes what came -/

theorem State.Sends.cacheFill (d c ch : Nat) (s : State) (ctx a : Nat) (ws : List (Option CWord)) :
    State.Sends d c ch s (s.cacheFill d c ctx a ws) := by
  unfold State.cacheFill
  dsimp only
  split
  · exact .refl s
  · exact setCore s rfl

theorem State.Sends.cacheTake (d c ch : Nat) (s : State) (ctx : Nat) (mv : DmaMv) (r : DmaReq)
    (ws : List (CWord × Bool)) : State.Sends d c ch s (s.cacheTake d c ctx mv r ws) := by
  unfold State.cacheTake
  dsimp only
  split
  · exact .refl s
  · exact foldl_keeps (State.Sends d c ch s) _ _ s (.refl s) fun t i _ h => h.trans (.cacheFill ..)

/-! One word of the funnel (R146) -/

/-- A fold in which one element alone acts. -/
theorem foldl_one {α β : Type} {f : β → α → β} {m : α} (others : ∀ x ≠ m, ∀ b, f b x = b) {l : List α} (once : l.Nodup)
    (mem : m ∈ l) (b : β) : l.foldl f b = f b m := by
  induction l with
  | nil => exact absurd mem List.not_mem_nil
  | cons x l ih =>
    obtain ⟨new, once⟩ := List.nodup_cons.1 once
    by_cases here : x = m
    · subst here
      exact foldl_same _ _ _ fun y hy => others y (fun same => new (same ▸ hy)) _
    · rw [List.foldl_cons, others x here]
      exact ih once ((List.mem_cons.1 mem).resolve_left fun same => here same.symm)

/-- A MOVE of one word, whose only request has brought it. -/
structure DmaMv.OneWord (mv : DmaMv) (r : DmaReq) (p : CWord × Bool) : Prop where
  reqs : mv.reqs = [r]
  lo : r.lo = mv.src
  hi : r.hi = mv.src + 8
  len : mv.len = 8
  aligned : mv.src % 8 = 0
  how : r.how = 1
  data : r.data = [p]

section
variable {mv : DmaMv} {r : DmaReq} {p : CWord × Bool} (one : mv.OneWord r p)
include one

theorem reqWord_one {j : Nat} (hj : j < 8) : reqWord mv.reqs (mv.src + j) = some p := by
  obtain ⟨reqs, lo, hi, -, aligned, how, data⟩ := one
  have inside : (decide (r.lo ≤ mv.src + j) && decide (mv.src + j < r.hi)) = true := by
    rw [Bool.and_eq_true, decide_eq_true_iff, decide_eq_true_iff]
    omega
  have found : [r].find? (fun q => decide (q.lo ≤ mv.src + j) && decide (mv.src + j < q.hi)) = some r :=
    List.find?_cons_of_pos inside
  have first : (mv.src + j) / 8 - r.lo / 8 = 0 := by omega
  rw [reqWord, reqs, found]
  dsimp only
  rw [if_pos how, first, data]
  rfl

/-- Another word of the destination's block gets nothing. -/
theorem funnelBytes_other {w : Nat} (other : w + 8 ≤ mv.dst ∨ mv.dst + 8 ≤ w) :
    ((funnelBytes mv w).filter Option.isSome).length = 0 := by
  rw [List.length_eq_zero_iff, List.filter_eq_nil_iff]
  intro b hb
  obtain ⟨j, hj, rfl⟩ := List.mem_map.1 hb
  have := List.mem_range.1 hj
  have len := one.len
  dsimp only
  rw [if_pos (by omega)]
  simp

/-- The destination word gets all its bytes. -/
theorem funnelBytes_whole : ((funnelBytes mv mv.dst).filter Option.isSome).length = 8 := by
  have all : (funnelBytes mv mv.dst).filter Option.isSome = funnelBytes mv mv.dst := by
    refine List.filter_eq_self.2 fun b hb => ?_
    obtain ⟨j, hj, rfl⟩ := List.mem_map.1 hb
    have := List.mem_range.1 hj
    have len := one.len
    dsimp only
    rw [if_neg (by omega), Nat.add_sub_cancel_left, reqWord_one one this]
    rfl
  rw [all]
  simp [funnelBytes]

end

/-- A whole word, aligned with its source word, is written as it came (R146). -/
theorem State.funnelWord_copies {s : State} {d c ctx w : Nat} {mv : DmaMv} {p : CWord × Bool}
    (bytes : ((funnelBytes mv w).filter Option.isSome).length = 8) (status : s.wordStatus (coreReq d c ctx) w = Status.ok)
    (low : (mv.dst + 2 ^ 48 - mv.src) % 8 = 0) (whole : reqWord mv.reqs (mv.src + (w - mv.dst)) = some p) :
    s.funnelWord d c ctx mv w = (Status.ok, 8, (s.writeWord (coreReq d c ctx) w { d := p.1.d, c := p.1.c }).2) := by
  have some' : ¬ ((funnelBytes mv w).filter Option.isSome).length = 0 := by omega
  refine (if_neg some').trans ((if_neg (fun h => h status)).trans ((if_pos bytes).trans ?_))
  rw [if_pos low, whole]

/-- Eight bytes come for a word of the core's own scratchpad. -/
structure DmaMv.ToOwn (mv : DmaMv) (r : DmaReq) (d c off : Nat) (data : Word) (tag : Byte) : Prop
    extends mv.OneWord r ({ d := data, c := secded data, tag := tag }, false) where
  below : mv.src < 2 ^ 48
  room : off < 0x600000
  word : off % 8 = 0
  dst : mv.dst = scratchAddr d c off

section
variable {s : State} {die : DieNo} {core : CoreNo} {off : Nat} {mv : DmaMv} {r : DmaReq} {data : Word} {tag : Byte}
  (up : s.coreUp die.val core.val = true) (own : mv.ToOwn r die.val core.val off data tag)
include up own

theorem State.funnelWord_whole (ctx : Nat) : s.funnelWord die.val core.val ctx mv mv.dst =
    (Status.ok, 8, s.store mv.dst (fresh data)) := by
  have bytes := funnelBytes_whole own.toOneWord
  have whole : reqWord mv.reqs (mv.src + (mv.dst - mv.dst)) = some ({ d := data, c := secded data, tag := tag }, false) := by
    rw [Nat.sub_self]
    exact reqWord_one own.toOneWord (by decide)
  have low : (mv.dst + 2 ^ 48 - mv.src) % 8 = 0 := by
    have := own.below
    have := own.aligned
    have := own.word
    rw [own.dst, scratchAddr]
    omega
  have status : s.wordStatus (coreReq die.val core.val ctx) mv.dst = Status.ok := by
    rw [own.dst]
    exact State.wordStatus_own up ctx own.room
  have place : placeOf mv.dst ≠ .ddr := by
    rw [own.dst]
    exact placeOf_scratchAddr _ _ _
  rw [State.funnelWord_copies bytes status low whole, State.writeWord_scratch status _ place]
  rfl

omit up in
/-- The block of the destination word. -/
theorem block_place : ∃ o, o < 0x600000 ∧ mv.dst / 64 * 64 = scratchAddr die.val core.val o ∧ ∃ m < 8,
    mv.dst = mv.dst / 64 * 64 + 8 * m := by
  have room := own.room
  have word := own.word
  refine ⟨off / 64 * 64, by omega, ?_, off / 8 % 8, by omega, ?_⟩
  · rw [own.dst, scratchAddr, scratchAddr]
    omega
  · rw [own.dst, scratchAddr]
    omega

theorem State.funnelBlock_whole (ctx : Nat) : s.funnelBlock die.val core.val ctx mv (mv.dst / 64 * 64) =
    (Status.ok, 8, s.store mv.dst (fresh data)) := by
  obtain ⟨o, ho, block, m, hm, here⟩ := block_place own
  have far : placeOf (mv.dst / 64 * 64) ≠ .host := by
    rw [block, placeOf_scratch die.isLt core.isLt ho]
    simp
  have others (i : Nat) (other : i ≠ m) (t : State) :
      t.funnelWord die.val core.val ctx mv (mv.dst / 64 * 64 + 8 * i) = (Status.ok, 0, t) :=
    if_pos (funnelBytes_other own.toOneWord (by omega))
  unfold State.funnelBlock
  dsimp only
  rw [if_neg far, foldl_one (m := m) ?_ List.nodup_range (List.mem_range.2 hm), ← here, State.funnelWord_whole up own]
  · rfl
  · rintro i other ⟨st, n, t⟩
    dsimp only
    rw [others i other]
    dsimp only
    split
    next ok => rw [ok, Nat.add_zero]
    next => rfl

/-- Once the block is written, the word is stored, and only counters tell of it beside. -/
theorem State.writeBlock_whole {ch : Nat} :
    State.Sends die.val core.val ch (s.store mv.dst (fresh data))
      (s.writeBlock die.val core.val ch mv (mv.dst / 64 * 64)) := by
  obtain ⟨o, ho, block, -⟩ := block_place own
  have place : placeOf (mv.dst / 64 * 64) ≠ .ddr := by
    rw [block]
    exact placeOf_scratchAddr _ _ _
  have whole := State.funnelBlock_whole up own (s.chan die.val core.val ch).ctx
  have written : s.writeBlock die.val core.val ch mv (mv.dst / 64 * 64) =
      ((s.store mv.dst (fresh data)).count (Base.core die.val core.val) Reg.chBytes 8 ch).count
        (Base.core die.val core.val) Reg.chNarrow 1 ch := by
    unfold State.writeBlock
    rw [whole]
    dsimp only
    rw [if_pos (show Status.ok = Status.ok from rfl), if_pos (show 0 < 8 ∧ 8 < 64 by decide),
      if_pos (show 0 < 8 by decide), State.trackWrite, if_neg place]
  rw [written]
  exact (State.Sends.count _ _ (by simp only [Reg.chBytes]; omega)).trans
    (.count _ _ (by simp only [Reg.chNarrow]; omega))

end

end Sys2Proof.Machine
end

section
/-! PROOFS. Host data that comes for a MOVE of one word (R145, R146, R466). -/

namespace Sys2Proof.Machine

/-! Data for a MOVE of one word -/

/-- A request once its one word has come, with no epoch expected. -/
def DmaReq.got (r : DmaReq) (p : CWord × Bool) : DmaReq := { r with how := 1, data := [p], stale := 0 }

/-- A MOVE of one request, once its one word has come. -/
def DmaMv.got (mv : DmaMv) (r : DmaReq) (p : CWord × Bool) : DmaMv := { mv with reqs := [r.got p] }

theorem State.moveData_one {s : State} {d c ch i : Nat} {mv : DmaMv} {r : DmaReq} {p : CWord × Bool}
    (only : mv.reqs = [r]) (expect : r.expect = none) (good : p.2 = false) : s.moveData d c ch i mv r [p] true =
      ((s.cacheTake d c (s.chan d c ch).ctx mv r [p]).moveGoesOn d c ch i (mv.got r p) (r.got p)).quotaServe d c := by
  have reqs (q : DmaReq) : (mv.reqs.map fun x => if x.index = r.index then q else x) = [q] := by
    rw [only, List.map_singleton, if_pos rfl]
  have sound' : ([p].any fun x => x.2) = false := by simp [good]
  have current : [p].map (staleKind none) = [0] := rfl
  unfold State.moveData
  dsimp only
  rw [reqs, sound', expect, current, if_neg Bool.false_ne_true, if_pos rfl, if_neg (by decide), if_neg (by decide),
    DmaMv.got, DmaReq.got, expect]

theorem blocksOf_one {mv : DmaMv} {r : DmaReq} {p : CWord × Bool} (one : mv.OneWord r p) (word : mv.dst % 8 = 0) :
    blocksOf mv r.lo r.hi = [mv.dst / 64 * 64] := by
  have first : (mv.dst + (r.lo - mv.src)) / 64 = mv.dst / 64 := by rw [one.lo, Nat.sub_self, Nat.add_zero]
  have last : (mv.dst + (r.hi - mv.src) + 63) / 64 = mv.dst / 64 + 1 := by
    rw [one.hi, Nat.add_sub_cancel_left]
    omega
  unfold blocksOf
  dsimp only
  rw [first, last, Nat.add_sub_cancel_left]
  rfl

/-- The one block of a MOVE of one word is ready once the word has come, and the MOVE is then done. -/
theorem DmaMv.got_done (mv : DmaMv) (r : DmaReq) (p : CWord × Bool) :
    allDone (mv.got r p) = true ∧ ∀ b, blockReady (mv.got r p) b = true := ⟨rfl, fun _ => rfl⟩

/-- A word of host memory, sound, with its tag (R466). -/
def hostWord (data : Word) (tag : Byte) : CWord × Bool := ({ d := data, c := secded data, tag := tag }, false)

section
variable {s : State} {die : DieNo} {core : CoreNo} {ch : Fin 4} {index i off : Nat} {mv : DmaMv} {r : DmaReq}
  {data : Word} {tags : List Byte} (up : s.coreUp die.val core.val = true)
  (found : s.findReq die.val core.val ch.val index = some (i, mv, r)) (only : mv.reqs = [r]) (plain : mv.echk = false)
  (expect : r.expect = none)
  (own : (mv.got r (hostWord data (tags.getD 0 0))).ToOwn (r.got (hostWord data (tags.getD 0 0))) die.val core.val off data
    (tags.getD 0 0))
include up found only plain expect own

/-- The word is stored, and the MOVE goes. -/
theorem State.dmaComplete_host : ∃ u, State.Sends die.val core.val ch.val s u ∧
    State.MoveGone die.val core.val ch.val i (u.store mv.dst (fresh data))
      (s.dmaComplete die.val core.val ch.val index (.host [data] tags [false])) := by
  have words : hostWords [data] tags [false] = [hostWord data (tags.getD 0 0)] := rfl
  have runs : s.dmaComplete die.val core.val ch.val index (.host [data] tags [false]) =
      s.moveData die.val core.val ch.val i mv r [hostWord data (tags.getD 0 0)] true := by
    rw [State.dmaComplete, if_pos up, found, ← words]
  have sameDst : (mv.got r (hostWord data (tags.getD 0 0))).dst = mv.dst := rfl
  have echk : (mv.got r (hostWord data (tags.getD 0 0))).echk = mv.echk := rfl
  have aligned : (mv.got r (hostWord data (tags.getD 0 0))).dst % 8 = 0 := by
    have := own.word
    rw [own.dst, scratchAddr]
    omega
  rw [runs, State.moveData_one only expect rfl, ← sameDst]
  have taken := State.Sends.cacheTake die.val core.val ch.val s (s.chan die.val core.val ch.val).ctx mv r
    [hostWord data (tags.getD 0 0)]
  generalize s.cacheTake die.val core.val (s.chan die.val core.val ch.val).ctx mv r
    [hostWord data (tags.getD 0 0)] = u at taken
  have blocks := blocksOf_one own.toOneWord aligned
  have written := State.writeBlock_whole (ch := ch.val) (s := u) (by rw [State.coreUp_congr taken.words.faults, up]) own
  obtain ⟨done, ready⟩ := mv.got_done r (hostWord data (tags.getD 0 0))
  rw [← echk] at plain
  generalize mv.got r (hostWord data (tags.getD 0 0)) = mv' at plain blocks written done ready
  rw [State.moveGoesOn, if_neg (by simp [plain]), blocks, List.filter_cons_of_pos (ready _), List.filter_nil]
  dsimp only [List.foldl_cons, List.foldl_nil]
  generalize u.writeBlock die.val core.val ch.val mv' (mv'.dst / 64 * 64) = v at written
  have gone := v.moveEvents_done die.val core.val ch.val i done
  generalize v.moveEvents die.val core.val ch.val i mv' = z at gone
  exact ⟨u, taken, (gone.sends (.quotaServe die.val core.isLt ch.isLt z)).after written⟩

end

end Sys2Proof.Machine
end

section
/-! PROOFS. Words read in states that differ in their cores alone (R238, R243). -/

namespace Sys2Proof.Machine

/-! What a load of words depends on -/

/-- `t` places words as `s` does: no segment, and no unit in service, differs. -/
structure State.SamePlaces (s t : State) : Prop where
  fenced : t.faults.fenced = s.faults.fenced
  segs : t.segs = s.segs

namespace State.SamePlaces

theorem refl (s : State) : s.SamePlaces s := ⟨rfl, rfl⟩

theorem trans {s t u : State} (h : s.SamePlaces t) (k : t.SamePlaces u) : s.SamePlaces u :=
  ⟨k.fenced.trans h.fenced, k.segs.trans h.segs⟩

theorem symm {s t : State} (h : s.SamePlaces t) : t.SamePlaces s := ⟨h.fenced.symm, h.segs.symm⟩

theorem of_contents {s t : State} (h : t.contents = s.contents) : s.SamePlaces t :=
  ⟨congrArg Faults.fenced (State.faults_of_contents h), State.segs_of_contents h⟩

theorem isFenced {s t : State} (h : s.SamePlaces t) (unit index : Nat) : t.isFenced unit index = s.isFenced unit index := by
  rw [State.isFenced, h.fenced, State.isFenced]

theorem key {s t : State} (h : s.SamePlaces t) (a : Nat) : t.key a = s.key a := by
  have pd : t.ddrPd a = s.ddrPd a := by simp only [State.ddrPd, h.isFenced]
  simp only [State.key, State.seg, pd, h.segs]

theorem withMem (s : State) (m : Mem) : s.SamePlaces (s.withMem m) := ⟨rfl, rfl⟩

theorem inFrame (s : State) (k n : Nat) : s.SamePlaces (s.inFrame k n) := ⟨rfl, rfl⟩

theorem trigger (s : State) (kind : Nat) (u : UnitId) (detail : Nat) : s.SamePlaces (s.trigger kind u detail) := ⟨rfl, rfl⟩

theorem addReason (s : State) (ctxs : List Nat) (r : Nat) : s.SamePlaces (s.addReason ctxs r) := ⟨rfl, rfl⟩

theorem report (s : State) (u : UnitId) (r source index detail : Nat) (ctx : Option Nat) :
    s.SamePlaces (s.report u r source index detail ctx) := by
  unfold State.report
  split
  · exact refl s
  · exact (addReason ..).trans (of_contents (State.log_contents ..))

theorem quarantine (s : State) (u : UnitId) (source index detail : Nat) :
    s.SamePlaces (s.quarantine u source index detail) := by
  have noted (t : State) (v : UnitId) : t.SamePlaces (t.quarantine1 v source index detail) := by
    unfold State.quarantine1
    split
    · exact refl t
    · exact ⟨rfl, rfl⟩
  unfold State.quarantine
  dsimp only
  split
  · exact (noted s u).trans (noted _ _)
  · exact noted s u

theorem scratchBad (s : State) (die core a : Nat) : s.SamePlaces (s.scratchBad die core a) := by
  have noted := ((of_contents (s.count_contents (Base.errors die) Reg.sramUncorr 1 0)).trans
    (report _ (uid die core) Reason.check 0x01 core a none)).trans (trigger _ 1 (uid die core) a)
  unfold State.scratchBad
  dsimp only
  split
  · exact noted.trans (quarantine ..)
  · exact noted

theorem ddrBad (s : State) (ch a : Nat) : s.SamePlaces (s.ddrBad ch a) := by
  have noted := ((of_contents (s.count_contents (Base.ddr ch) Reg.ddrUncorr 1 0)).trans
    (report _ (chanUnit ch) Reason.check 0x0A (ch % 16) a none)).trans (inFrame _ (32 + ch) 1)
  unfold State.ddrBad
  dsimp only
  split
  · exact noted.trans (quarantine ..)
  · exact noted

theorem corrected (s : State) (a : Nat) (r : Loaded) : s.SamePlaces (s.corrected a r) := by
  have noted (t : State) : t.SamePlaces (t.correctedNoted a) := by
    unfold State.correctedNoted
    split
    · exact of_contents ((State.log_contents ..).trans (State.count_contents ..))
    · exact ((of_contents (State.count_contents ..)).trans (inFrame ..)).trans (of_contents (State.log_contents ..))
  exact (withMem ..).trans (noted _)

end State.SamePlaces

/-- What the read of an uncorrectable word leaves (R238). -/
def State.badRead (s : State) (a : Nat) : State :=
  match placeOf a with
  | .scratch die core _ => s.scratchBad die core a
  | _ => s.ddrBad (s.chanOf a) a

/-- What a read leaves, by the outcome of the word (R238). -/
def State.plainRead (s : State) (a : Nat) (r : Loaded) : State :=
  match r.ecc with
  | .clean => s
  | .fixed => s.corrected a r
  | .bad => s.badRead a

theorem State.load_plain (s : State) (a : Nat) : (s.load a).2 = (s.ddrTraffic a false 8).plainRead a (s.load a).1 := by
  rw [State.load_fst, State.plainRead, State.corrected, State.ddrTraffic_key, State.ddrTraffic_mem, State.badRead]
  unfold State.load
  dsimp only
  rw [State.ddrTraffic_mem]
  generalize s.ddrTraffic a false 8 = u
  generalize s.mem.load (s.key a) a = r
  cases r.ecc with
  | clean => rfl
  | fixed =>
    dsimp only
    unfold State.correctedNoted State.withMem
    cases placeOf a <;> rfl
  | bad =>
    dsimp only
    rw [if_neg Bool.false_ne_true]
    cases placeOf a <;> rfl

theorem State.badRead_keeps (s : State) (a : Nat) : s.SamePlaces (s.badRead a) ∧ (s.badRead a).mem = s.mem := by
  unfold State.badRead
  split
  · exact ⟨.scratchBad .., State.scratchBad_mem ..⟩
  · exact ⟨.ddrBad .., State.ddrBad_mem ..⟩

theorem State.corrected_mem (s : State) (a : Nat) (r : Loaded) :
    (s.corrected a r).mem = s.mem.put (s.key a) r.d (secded r.d ^^^ foldOf a r.tag.toNat) r.tag := by
  have frame (t : State) (k n : Nat) : (t.inFrame k n).mem = t.mem := rfl
  have noted (t : State) : (t.correctedNoted a).mem = t.mem := by
    unfold State.correctedNoted
    split
    · rw [State.log_mem, State.count_mem]
    · rw [State.log_mem, frame, State.count_mem]
  rw [State.corrected, noted]
  rfl

/-- A word is read alike in states with the same memory that place words alike, and leaves them so. -/
theorem State.SamePlaces.load {s t : State} (h : s.SamePlaces t) (mem : t.mem = s.mem) (a : Nat) :
    (t.load a).1 = (s.load a).1 ∧ (s.load a).2.SamePlaces (t.load a).2 ∧ (t.load a).2.mem = (s.load a).2.mem := by
  have word : (t.load a).1 = (s.load a).1 := by rw [State.load_fst, State.load_fst, mem, h.key]
  have left := of_contents (s.ddrTraffic_contents a false 8)
  have right := of_contents (t.ddrTraffic_contents a false 8)
  have places := left.symm.trans (h.trans right)
  have mems : (t.ddrTraffic a false 8).mem = (s.ddrTraffic a false 8).mem := by
    rw [State.ddrTraffic_mem, State.ddrTraffic_mem, mem]
  refine ⟨word, ?_⟩
  rw [State.load_plain, State.load_plain, word]
  generalize s.ddrTraffic a false 8 = u at places mems
  generalize t.ddrTraffic a false 8 = v at places mems
  unfold State.plainRead
  split
  · exact ⟨places, mems⟩
  · exact ⟨(corrected u a _).symm.trans (places.trans (corrected v a _)),
      by rw [State.corrected_mem, State.corrected_mem, mems, places.key]⟩
  · obtain ⟨first, kept⟩ := u.badRead_keeps a
    obtain ⟨second, kept'⟩ := v.badRead_keeps a
    exact ⟨first.symm.trans (places.trans second), by rw [kept, kept', mems]⟩

theorem State.SamePlaces.loads {s t : State} (h : s.SamePlaces t) (mem : t.mem = s.mem) (a n : Nat) :
    (t.loads a n).1 = (s.loads a n).1 := by
  induction n generalizing s t a with
  | zero => rfl
  | succ n ih =>
    obtain ⟨word, places, mems⟩ := h.load mem a
    exact congrArg₂ List.cons word (ih places mems (a + 8))

theorem State.SamePlaces.loadBytes {s t : State} (h : s.SamePlaces t) (mem : t.mem = s.mem) (a n : Nat) :
    (t.loadBytes a n).1 = (s.loadBytes a n).1 := by
  rw [State.loadBytes_eq, State.loadBytes_eq]
  dsimp only
  rw [h.loads mem]

/-! The sampler's rows -/

/-- The rows of a sampler's job are the same in a state that differs in its cores. -/
theorem State.samplerRows_setChan (s : State) (d c ch : Nat) (x : Chan) (d' : Nat) :
    (s.setChan d c ch x).samplerRows d' = s.samplerRows d' := by
  have same := s.sameButCores_setChan d c ch x
  have places : s.SamePlaces (s.setChan d c ch x) :=
    ⟨congrArg Faults.fenced (same.read State.faults fun _ => rfl), same.read State.segs fun _ => rfl⟩
  have engine : (s.setChan d c ch x).eng d' 0 = s.eng d' 0 := same.read (fun y => y.eng d' 0) fun _ => rfl
  have mem := same.read State.mem fun _ => rfl
  unfold State.samplerRows
  rw [engine]
  split
  · rfl
  · rw [places.loadBytes mem]

end Sys2Proof.Machine
end

section
/-! PROOFS. Requests answered by the host and MOVEs that met stale words (R148, R243, R262), and O32. -/

namespace Sys2Proof.Machine

/-! Host data for a word of the core's own scratchpad -/

theorem State.findReq_congr {s t : State} (h : t.cores = s.cores) (d c ch index : Nat) :
    t.findReq d c ch index = s.findReq d c ch index := by
  unfold State.findReq
  rw [State.chan_congr h]

/-- A request that shows no failure ends no owner's request (R262). -/
theorem State.requestComplete_fine {s : State} {d c ch index i : Nat} {mv : DmaMv} {r : DmaReq} {how : ReqEnd}
    (found : s.findReq d c ch index = some (i, mv, r))
    (fine : ((s.put (Base.core d c) Reg.chLastStatus 0 ch).dmaComplete d c ch index how).get (Base.core d c)
      Reg.chLastStatus ch = 0) : s.requestComplete d c ch index how = s.dmaComplete d c ch index how := by
  unfold State.requestComplete
  rw [found]
  dsimp only
  rw [fine]
  exact if_neg fun h => h.2.elim (by decide) (by decide)

section
variable {s : State} {die : DieNo} {core : CoreNo} {ch : Fin 4} {index i : Nat} {mv : DmaMv} {r : DmaReq}
  {data : Word} {tags : List Byte} (up : s.coreUp die.val core.val = true)
  (found : s.findReq die.val core.val ch.val index = some (i, mv, r)) (only : mv.reqs = [r]) (plain : mv.echk = false)
include up found only plain

theorem dmaRequest_host (expect : r.expect = none) (lo : r.lo = mv.src) (hi : r.hi = mv.src + 8) (len : mv.len = 8)
    (aligned : mv.src % 8 = 0) (below : mv.src < hostBase + 2 ^ 44)
    (own : ∃ off, off < 0x600000 ∧ off % 8 = 0 ∧ mv.dst = scratchAddr die.val core.val off) :
    ∃ t, exec (.dmaRequestComplete die core ch index (.host [data] tags [false])) s = .next t ∧
      (t.load mv.dst).1.d = data ∧ (t.load mv.dst).1.ecc = .clean ∧
      (t.chan die.val core.val ch.val).moves.map DmaMv.unsent =
        ((s.chan die.val core.val ch.val).moves.eraseIdx i).map DmaMv.unsent ∧ t.units = s.units := by
  obtain ⟨off, room, word, dst⟩ := own
  have toOwn : (mv.got r (hostWord data (tags.getD 0 0))).ToOwn (r.got (hostWord data (tags.getD 0 0))) die.val core.val
      off data (tags.getD 0 0) :=
    { reqs := rfl, lo := lo, hi := hi, len := len, aligned := aligned, how := rfl, data := rfl
      below := below.trans (by decide), room := room, word := word, dst := dst }
  have stored (u : State) : (u.store mv.dst (fresh data)).get (Base.core die.val core.val) Reg.chLastStatus ch.val =
      u.get (Base.core die.val core.val) Reg.chLastStatus ch.val :=
    congrArg Reg.chLastStatus.get ((u.store_fresh mv.dst data).2.2 _ fun ddr =>
      absurd ((blockOf_shown die.val core.isLt ch.isLt).symm.trans ddr) (by decide))
  have fine : ((s.put (Base.core die.val core.val) Reg.chLastStatus 0 ch.val).dmaComplete die.val core.val ch.val index
      (.host [data] tags [false])).get (Base.core die.val core.val) Reg.chLastStatus ch.val = 0 := by
    obtain ⟨u, sends, gone⟩ := State.dmaComplete_host
      (s := s.put (Base.core die.val core.val) Reg.chLastStatus 0 ch.val)
      ((State.coreUp_congr (State.put_faults ..) ..).trans up)
      ((State.findReq_congr (State.put_cores ..) ..).trans found) only plain expect toOwn
    rw [gone.last, stored, sends.get ⟨rfl, rfl⟩, State.get_put_same _ _ _ _ _ (by decide), Nat.zero_mod]
  have run : exec (.dmaRequestComplete die core ch index (.host [data] tags [false])) s =
    .next (s.requestComplete die.val core.val ch.val index (.host [data] tags [false])) := rfl
  rw [State.requestComplete_fine found fine] at run
  obtain ⟨u, sends, gone⟩ := State.dmaComplete_host up found only plain expect toOwn
  obtain ⟨mem, rest, -⟩ := u.store_fresh mv.dst data
  have back := State.load_memWith (gone.words.mem.trans mem) (gone.words.faults.trans (State.faults_of_offMem rest))
    (gone.words.segs.trans (State.segs_of_offMem rest))
  refine ⟨_, run, by rw [back], by rw [back], ?_, ?_⟩
  · rw [gone.moves, State.chan_congr (State.cores_of_offMem rest), ← List.eraseIdx_map, sends.moves, List.eraseIdx_map]
  · rw [gone.units, State.units_of_offMem rest, sends.units]

end

/-! MOVEs that met stale words (R243) -/

/-- The state once firmware has taken a channel's stale MOVEs from it. -/
def State.deferredTaken (s : State) (d c ch : Nat) : State := s.setChan d c ch { s.chan d c ch with deferred := [] }

theorem State.deferredTaken_same (s : State) (d c ch : Nat) : SameButCores s (s.deferredTaken d c ch) :=
  s.sameButCores_setChan ..

section
variable {s : State} {d c ch : Nat}

theorem State.staleDefer_none (none' : (s.chan d c ch).deferred = []) (hs : List Nat) : s.staleDefer d c ch hs = s :=
  if_pos (by rw [none']; rfl)

variable (some' : (s.chan d c ch).deferred ≠ [])
include some'

theorem State.staleDefer_unnamed : s.staleDefer d c ch [] = (s.deferredTaken d c ch).workReason (s.chan d c ch).ctx
    (s.chan d c ch).kind (s.chan d c ch).seq Reason.missing :=
  if_neg (by simp [some'])

theorem State.staleDefer_named (h : Nat) : s.staleDefer d c ch [h] = (s.deferredTaken d c ch).rowDefer h :=
  if_neg (by simp [some'])

/-- A request whose row no sampler has leaves the step. -/
theorem State.staleDefer_unsampled {h k : Nat} {q : Req} (request : s.reqOf h = some (k, q)) (fresh' : q.sampled = false)
    (waits : ∀ d', d' < 8 → h ∉ s.samplerRows d') : s.staleDefer d c ch [h] =
      (s.deferredTaken d c ch).setReq k (some { q with inStep := false, piece := 0 }) := by
  have same : (s.deferredTaken d c ch).reqOf h = s.reqOf h :=
    (s.deferredTaken_same d c ch).read (fun x => x.reqOf h) fun _ => rfl
  have rows (d' : Nat) : (s.deferredTaken d c ch).samplerRows d' = s.samplerRows d' := s.samplerRows_setChan ..
  have idle : (q.sampled || (List.range 8).any fun d' => ((s.deferredTaken d c ch).samplerRows d').contains h) = false := by
    rw [fresh', Bool.false_or, List.any_eq_false]
    intro d' hd
    rw [rows, List.contains_iff_mem]
    exact waits d' (List.mem_range.1 hd)
  rw [State.staleDefer_named some', State.rowDefer, same, request]
  exact if_neg (by rw [idle]; exact Bool.false_ne_true)

end

theorem staleDefer_unnamed {s : State} {die : DieNo} {core : CoreNo} {ch : Fin 4}
    (some' : (s.chan die.val core.val ch.val).deferred ≠ []) :
    ∃ t, exec (.stalePageDefer die core ch []) s = .next t ∧
      t.chan die.val core.val ch.val = { s.chan die.val core.val ch.val with deferred := [] } ∧
      t.units = (s.workReason (s.chan die.val core.val ch.val).ctx (s.chan die.val core.val ch.val).kind
        (s.chan die.val core.val ch.val).seq Reason.missing).units ∧ t.regs = s.regs ∧ t.mem = s.mem := by
  have run : exec (.stalePageDefer die core ch []) s = .next (s.staleDefer die.val core.val ch.val []) := rfl
  rw [State.staleDefer_unnamed some'] at run
  have same := s.deferredTaken_same die.val core.val ch.val
  have chan : (s.deferredTaken die.val core.val ch.val).chan die.val core.val ch.val =
    { s.chan die.val core.val ch.val with deferred := [] } := State.chan_setChan ..
  have regs : (s.deferredTaken die.val core.val ch.val).regs = s.regs := State.setCore_regs ..
  have sched : (s.deferredTaken die.val core.val ch.val).sched = s.sched := State.setCore_get ..
  generalize s.deferredTaken die.val core.val ch.val = u at run same chan regs sched
  have reasons (ctx kind seq r : Nat) : (u.workReason ctx kind seq r).regs = u.regs := by
    unfold State.workReason
    split <;> rfl
  have rest := u.workReason_offUnits (s.chan die.val core.val ch.val).ctx (s.chan die.val core.val ch.val).kind
    (s.chan die.val core.val ch.val).seq Reason.missing
  refine ⟨_, run, ?_, ?_, (reasons ..).trans regs, ?_⟩
  · rw [State.chan_congr (State.cores_of_offUnits rest), chan]
  · exact State.workReason_units_congr (same.read State.units fun _ => rfl) sched ..
  · rw [State.mem_of_offUnits rest, same.read State.mem fun _ => rfl]

/-- Settles O32: a MOVE asks for its blocks (`dmaMove_starts`), a failed request writes nothing (`dmaRequest_fails`), host
data reaches its word (`dmaRequest_host`), and stale MOVEs are taken from their channel (`State.staleDefer_unsampled`,
`staleDefer_unnamed`). -/
theorem movesAndRequests : Obligations.MovesAndRequests := by
  unfold Obligations.MovesAndRequests
  intro s die core ch ws index how i mv r f data tags
  refine ⟨dmaMove_starts, fun up found only plain => dmaRequest_fails up found only plain, ?_, fun none' => ?_, fun none' hs => ?_, fun some' h k q request fresh' waits => ?_,
    staleDefer_unnamed⟩
  · exact fun up found only plain expect lo hi len aligned _ below own =>
      dmaRequest_host up found only plain expect lo hi len aligned below own
  · refine congrArg Host.Outcome.next ?_
    unfold State.requestComplete
    rw [none']
  · exact congrArg Host.Outcome.next (State.staleDefer_none none' _)
  · exact congrArg Host.Outcome.next (State.staleDefer_unsampled some' request fresh' waits)

end Sys2Proof.Machine
end

section
/-! PROOFS. Engine jobs: their push, the comparison that starts or discards one, and their end (R163 to R166), and O33. -/

namespace Sys2Proof.Machine

/-! The registers of an engine are not the DEVICE block's -/

theorem blockOf_engine (d e : Nat) {off : Nat} (he : e < 6) (ho : off < 0x100) : blockOf (Base.engine d e + off) ≠ 0 := by
  simp only [blockOf, Base.engine, Base.pointing, csr]
  split <;> omega

theorem State.get_put_engine (s : State) (d e : Nat) (he : e < 6) {f g : Fld} (v i : Nat) (hf : f.off + 0 * f.step < 0x100)
    (hg : g.off + i * g.step < 0x10000) : (s.put (Base.engine d e) f v).get Base.device g i = s.get Base.device g i := by
  refine State.get_put_addr _ _ _ _ _ _ _ _ fun same => blockOf_engine d e he hf ?_
  rw [← Nat.add_assoc, ← same]
  simp only [blockOf, Base.device, csr]
  omega

theorem State.count_engine_sched (s : State) (d e : Nat) (he : e < 6) {f : Fld} (n : Nat)
    (hf : f.off + 0 * f.step < 0x100) : (s.count (Base.engine d e) f n).sched = s.sched :=
  s.get_put_engine d e he _ _ hf (by decide)

theorem State.setEng_sched (s : State) (d e : Nat) (x : Eng) : (s.setEng d e x).sched = s.sched := State.setEng_get ..

theorem State.engShow_sched (s : State) (d : Nat) {e : Nat} (he : e < 6) : (s.engShow d e).sched = s.sched :=
  s.get_put_engine d e he _ _ (by decide) (by decide)

theorem State.workReason_engines (s : State) (ctx kind seq r : Nat) :
    (s.workReason ctx kind seq r).engines = s.engines := State.engines_of_offUnits (State.workReason_offUnits ..)

theorem State.grant_engines (s : State) (ctx : Nat) (u : UnitId) : (s.grant ctx u).engines = s.engines := by
  unfold State.grant
  split <;> rfl

theorem State.eng_congr {s t : State} (h : t.engines = s.engines) (d e : Nat) : t.eng d e = s.eng d e := by
  rw [State.eng, h, State.eng]

/-! A push (R163) -/

/-- The engine with the entry that a push of a fourth word makes. -/
def State.pushedEng (s : State) (d e : Nat) (w3 : Word) : Eng :=
  { s.eng d e with queue := (s.eng d e).queue ++
      [(List.range 3).map (fun i => cget (fun _ => 0) (s.eng d e).latch i) ++ [w3]] }

theorem State.jobPush_room {s : State} {d e : Nat} (here : s.isFenced d 0xFF = false)
    (room : (s.eng d e).queue.length < 64) (w3 : Word) : s.jobPush d e w3 =
      (((s.setEng d e (s.pushedEng d e w3)).engShow d e).workScheduled).reply Status.ok :=
  (if_neg (by simp [here])).trans (if_neg (Nat.not_le.2 room))

theorem State.workScheduled_engines (s : State) : s.workScheduled.engines = s.engines := by
  unfold State.workScheduled
  split
  · exact State.put_engines ..
  · rfl

theorem jobPush_queues {s : State} {die : DieNo} {e : Fin 6} {w3 : Word} (awake : s.awake = true)
    (here : s.isFenced die.val 0xFF = false) (room : (s.eng die.val e.val).queue.length < 64) :
    ∃ t, exec (.jobPush die e w3) s = .next t ∧ t.eng die.val e.val = s.pushedEng die.val e.val w3 ∧
      t.devState = (if s.devState = Dev.ready then Dev.running else s.devState) ∧ t.answer = ⟨0, 0, []⟩ ∧
      t.mem = s.mem ∧ t.units = s.units ∧ t.cores = s.cores := by
  have run : exec (.jobPush die e w3) s = .next (s.jobPush die.val e.val w3) :=
    congrArg Host.Outcome.next (if_pos awake)
  rw [State.jobPush_room here room] at run
  have record : ((s.setEng die.val e.val (s.pushedEng die.val e.val w3)).engShow die.val e.val).eng die.val e.val =
      s.pushedEng die.val e.val w3 := State.eng_setEng ..
  have dev : ((s.setEng die.val e.val (s.pushedEng die.val e.val w3)).engShow die.val e.val).devState = s.devState :=
    State.get_put_engine _ _ _ e.isLt _ _ (by decide) (by decide)
  obtain ⟨mem', units', cores'⟩ :
      ((s.setEng die.val e.val (s.pushedEng die.val e.val w3)).engShow die.val e.val).mem = s.mem ∧
      ((s.setEng die.val e.val (s.pushedEng die.val e.val w3)).engShow die.val e.val).units = s.units ∧
      ((s.setEng die.val e.val (s.pushedEng die.val e.val w3)).engShow die.val e.val).cores = s.cores :=
    ⟨rfl, rfl, rfl⟩
  generalize (s.setEng die.val e.val (s.pushedEng die.val e.val w3)).engShow die.val e.val = u
    at run record dev mem' units' cores'
  obtain ⟨cores, mem, units, state, -⟩ := u.workScheduled_keeps
  have engines := u.workScheduled_engines
  refine ⟨_, run, ?_, ?_, rfl, mem.trans mem', units.trans units', cores.trans cores'⟩
  · rw [State.eng_congr ((State.reply_engines ..).trans engines), record]
  · rw [State.devState, State.reply_get, ← State.devState, state, dev]

/-! The comparison of a head entry (R164) -/

/-- How far a job's slot lies ahead of the device's position, modulo 2^16. -/
def State.jobAhead (s : State) (j : List Word) : Nat := (jobSlot j + 65536 - s.sched % 65536) % 65536

/-- The queue of an engine without its head entry, shown. -/
def State.jobPopped (s : State) (d e : Nat) (rest : List (List Word)) : State :=
  (s.setEng d e { s.eng d e with queue := rest }).engShow d e

theorem State.jobPopped_eng (s : State) (d e : Nat) (rest : List (List Word)) :
    (s.jobPopped d e rest).eng d e = { s.eng d e with queue := rest } := State.eng_setEng ..

theorem State.jobPopped_sched (s : State) (d : Nat) {e : Nat} (he : e < 6) (rest : List (List Word)) :
    (s.jobPopped d e rest).sched = s.sched := (State.engShow_sched _ d he).trans (State.setEng_sched ..)

/-- An entry whose slot has passed: counted, with the reason in its unit. -/
def State.jobMissed (s : State) (d e : Nat) (j : List Word) : State :=
  (s.count (Base.engine d e) Reg.engMissed).workReason (jobCtx j) (jobKind j) (jobSeq j) Reason.missing

section
variable {s : State} {d e : Nat} {j : List Word} {rest : List (List Word)} (queue : (s.eng d e).queue = j :: rest)
include queue

theorem State.jobCompare_now (fuel : Nat) (now : s.jobAhead j = 0) :
    s.jobCompare d e (fuel + 1) = (s.jobPopped d e rest).jobStart d e j := by
  unfold State.jobCompare
  rw [queue]
  exact if_pos now

theorem State.jobCompare_later (fuel : Nat) (ahead : 0 < s.jobAhead j) (near : s.jobAhead j < 32768) :
    s.jobCompare d e (fuel + 1) = s := by
  unfold State.jobCompare
  rw [queue]
  exact (if_neg (Nat.ne_of_gt ahead)).trans (if_pos near)

theorem State.jobCompare_passed (fuel : Nat) (passed : 32768 ≤ s.jobAhead j) :
    s.jobCompare d e (fuel + 1) = ((s.jobPopped d e rest).jobMissed d e j).jobCompare d e fuel := by
  rw [State.jobCompare.eq_def]
  dsimp only
  rw [queue]
  exact (if_neg (show s.jobAhead j ≠ 0 by omega)).trans (if_neg (show ¬ s.jobAhead j < 32768 by omega))

end

theorem State.jobCompare_empty {s : State} {d e : Nat} (queue : (s.eng d e).queue = []) (fuel : Nat) :
    s.jobCompare d e fuel = s := by
  cases fuel with
  | zero => rfl
  | succ n =>
    rw [State.jobCompare.eq_def]
    dsimp only
    rw [queue]

theorem State.jobMissed_keeps (s : State) (d e : Nat) (he : e < 6) (j : List Word) :
    (s.jobMissed d e j).eng d e = s.eng d e ∧
      (s.jobMissed d e j).get (Base.engine d e) Reg.engMissed =
        min (s.get (Base.engine d e) Reg.engMissed + 1) (2 ^ Reg.engMissed.w - 1) ∧
      (s.jobMissed d e j).units = (s.workReason (jobCtx j) (jobKind j) (jobSeq j) Reason.missing).units ∧
      (s.jobMissed d e j).mem = s.mem := by
  refine ⟨State.eng_congr (State.workReason_engines ..) d e, ?_, ?_, State.mem_of_offUnits (State.workReason_offUnits ..)⟩
  · rw [State.get, State.jobMissed, State.workReason_reg]
    exact State.get_count_same _ _ _ _ _ (by decide)
  · exact State.workReason_units_congr (State.count_units ..) (s.count_engine_sched d e he _ (by decide)) ..

/-- The engine holds a job that starts, granted to its context. -/
def State.jobHeld (s : State) (d e : Nat) (j : List Word) : State :=
  (s.setEng d e { s.eng d e with job := some j, overran := false }).grant (jobCtx j) (uid d (engIndex e))

theorem State.jobStart_eq (s : State) (d e : Nat) (j : List Word) : s.jobStart d e j =
    (((s.jobHeld d e j).put (Base.engine d e) Reg.engState 1).put (Base.engine d e) Reg.engCtx (jobCtx j)).put
      (Base.engine d e) Reg.engSlot (jobSlot j) := rfl

theorem State.jobHeld_keeps (s : State) (d e : Nat) (j : List Word) :
    (s.jobHeld d e j).eng d e = { s.eng d e with job := some j, overran := false } ∧
      (s.jobHeld d e j).mem = s.mem ∧ (s.jobHeld d e j).units = s.units := by
  unfold State.jobHeld
  obtain ⟨-, mem, units, -⟩ := (s.setEng d e { s.eng d e with job := some j, overran := false }).grant_keeps (jobCtx j)
    (uid d (engIndex e))
  refine ⟨(State.eng_congr (State.grant_engines ..) d e).trans (State.eng_setEng ..), ?_, ?_⟩
  · rw [mem, State.setEng_mem]
  · rw [units, State.setEng_units]

/-- A job that starts is its engine's, which shows that it runs. -/
theorem State.jobStart_keeps (s : State) (d e : Nat) (j : List Word) :
    (s.jobStart d e j).eng d e = { s.eng d e with job := some j, overran := false } ∧
      (s.jobStart d e j).get (Base.engine d e) Reg.engState = 1 ∧ (s.jobStart d e j).mem = s.mem ∧
      (s.jobStart d e j).units = s.units := by
  obtain ⟨record, mem, units⟩ := s.jobHeld_keeps d e j
  rw [State.jobStart_eq]
  generalize s.jobHeld d e j = u at record mem units
  refine ⟨?_, ?_, ?_, ?_⟩
  · rw [← record]
    exact State.eng_congr (by simp only [State.put_engines]) d e
  · rw [State.get_put_field _ _ _ _ _ _ _ _ (by rfl) (by decide) (by decide),
      State.get_put_field _ _ _ _ _ _ _ _ (by rfl) (by decide) (by decide), State.get_put_same _ _ _ _ _ (by decide)]
    rfl
  · rw [State.put_mem, State.put_mem, State.put_mem, mem]
  · rw [State.put_units, State.put_units, State.put_units, units]

/-! Cycle 120 of a stroke that runs slots (R164) -/

/-- The engine that has compared its entries in this stroke. -/
def State.comparedEng (s : State) (d e : Nat) : Eng := { s.eng d e with compared := s.stroke + 1 }

/-- The state after an engine's entries are marked compared in this stroke. -/
def State.jobCompares (s : State) (d e : Nat) : State := s.setEng d e (s.comparedEng d e)

theorem State.jobCompares_eng (s : State) (d e : Nat) : (s.jobCompares d e).eng d e = s.comparedEng d e :=
  State.eng_setEng ..

theorem State.jobCompares_ahead (s : State) (d e : Nat) (j : List Word) : (s.jobCompares d e).jobAhead j = s.jobAhead j := by
  unfold State.jobAhead State.jobCompares
  rw [State.setEng_sched]

theorem State.jobCycle_compares {s : State} {d e : Nat} (slots : s.runsSlots = true) (up : s.engUp d e = true)
    (idle : (s.eng d e).job = none) (fresh' : (s.eng d e).compared ≠ s.stroke + 1) :
    s.jobCycle d e = (s.jobCompares d e).jobCompare d e ((s.eng d e).queue.length + 1) :=
  if_pos (by simp [slots, up, idle, fresh'])

theorem State.jobCycle_none {s : State} {d e : Nat} (h : s.runsSlots = false ∨ s.engUp d e = false ∨
    (s.eng d e).job ≠ none ∨ (s.eng d e).compared = s.stroke + 1) : s.jobCycle d e = s := by
  refine if_neg ?_
  rcases h with none | down | running | compared
  · simp [none]
  · simp [down]
  · cases job : (s.eng d e).job with
    | none => exact absurd job running
    | some j => simp
  · simp [compared]

section
variable {s : State} {die : DieNo} {e : Fin 6} {j : List Word} {rest : List (List Word)} (slots : s.runsSlots = true)
  (up : s.engUp die.val e.val = true) (idle : (s.eng die.val e.val).job = none)
  (new : (s.eng die.val e.val).compared ≠ s.stroke + 1) (queue : (s.eng die.val e.val).queue = j :: rest)
include slots up idle new queue

theorem jobSlotCompare_starts (now : s.jobAhead j = 0) :
    ∃ t, exec (.jobSlotCompare die e) s = .next t ∧
      t.eng die.val e.val = { s.eng die.val e.val with
        compared := s.stroke + 1, queue := rest, job := some j, overran := false } ∧
      t.get (Base.engine die.val e.val) Reg.engState = 1 ∧ t.mem = s.mem ∧ t.units = s.units := by
  have run : exec (.jobSlotCompare die e) s = .next (s.jobCycle die.val e.val) := rfl
  rw [State.jobCycle_compares slots up idle new, State.jobCompare_now (by rw [State.jobCompares_eng]; exact queue) _
    ((State.jobCompares_ahead ..).trans now)] at run
  obtain ⟨record, state, mem, units⟩ := ((s.jobCompares die.val e.val).jobPopped die.val e.val rest).jobStart_keeps
    die.val e.val j
  refine ⟨_, run, ?_, state, mem, units⟩
  rw [record, State.jobPopped_eng, State.jobCompares_eng]
  rfl

theorem jobSlotCompare_keeps (ahead : 0 < s.jobAhead j) (near : s.jobAhead j < 32768) :
    ∃ t, exec (.jobSlotCompare die e) s = .next t ∧
      t.eng die.val e.val = { s.eng die.val e.val with compared := s.stroke + 1 } ∧ t.regs = s.regs ∧ t.mem = s.mem := by
  have run : exec (.jobSlotCompare die e) s = .next (s.jobCycle die.val e.val) := rfl
  have same := s.jobCompares_ahead die.val e.val j
  rw [State.jobCycle_compares slots up idle new, State.jobCompare_later (by rw [State.jobCompares_eng]; exact queue) _
    (same.symm ▸ ahead) (same.symm ▸ near)] at run
  exact ⟨_, run, State.jobCompares_eng .., rfl, rfl⟩

theorem jobSlotCompare_discards (passed : 32768 ≤ s.jobAhead j) (last : rest = []) :
    ∃ t, exec (.jobSlotCompare die e) s = .next t ∧
      t.get (Base.engine die.val e.val) Reg.engMissed =
        min (s.get (Base.engine die.val e.val) Reg.engMissed + 1) (2 ^ Reg.engMissed.w - 1) ∧
      t.eng die.val e.val = { s.eng die.val e.val with compared := s.stroke + 1, queue := [] } ∧
      t.units = (s.workReason (jobCtx j) (jobKind j) (jobSeq j) Reason.missing).units ∧ t.mem = s.mem := by
  subst last
  have run : exec (.jobSlotCompare die e) s = .next (s.jobCycle die.val e.val) := rfl
  have same := s.jobCompares_ahead die.val e.val j
  rw [State.jobCycle_compares slots up idle new, State.jobCompare_passed (by rw [State.jobCompares_eng]; exact queue) _
    (same.symm ▸ passed)] at run
  have record := (s.jobCompares die.val e.val).jobPopped_eng die.val e.val []
  have sched : ((s.jobCompares die.val e.val).jobPopped die.val e.val []).sched = s.sched :=
    (State.jobPopped_sched _ _ e.isLt _).trans (State.setEng_sched ..)
  have missed : ((s.jobCompares die.val e.val).jobPopped die.val e.val []).get (Base.engine die.val e.val) Reg.engMissed =
      s.get (Base.engine die.val e.val) Reg.engMissed :=
    State.get_put_addr _ _ _ _ _ _ _ _ (by simp [Reg.engDepth, Reg.engMissed])
  obtain ⟨mem', units'⟩ : ((s.jobCompares die.val e.val).jobPopped die.val e.val []).mem = s.mem ∧
      ((s.jobCompares die.val e.val).jobPopped die.val e.val []).units = s.units := ⟨rfl, rfl⟩
  generalize (s.jobCompares die.val e.val).jobPopped die.val e.val [] = u
    at run record sched missed mem' units'
  obtain ⟨record', missed', units, mem⟩ := u.jobMissed_keeps die.val e.val e.isLt j
  rw [State.jobCompare_empty (by rw [record', record])] at run
  refine ⟨_, run, ?_, ?_, ?_, mem.trans mem'⟩
  · rw [missed', missed]
  · rw [record', record, State.jobCompares_eng]
    rfl
  · rw [units]
    exact State.workReason_units_congr units' sched ..

end

/-! The job of an engine, run and ended (R166) -/

/-- A job of an operation that its engine lacks ends with `DENIED`. -/
theorem State.jobRow_unknown {s : State} {d e op : Nat} {j : List Word} (job : (s.eng d e).job = some j)
    (up : s.engUp d e = true) (unknown : jobKnown e (jobOp j) = false) (run : List Word → State → Nat × State) :
    s.jobRow d e op run = s.jobDone d e j Status.denied := by
  unfold State.jobRow
  rw [job]
  exact (if_neg (by simp [up])).trans (if_pos (by simp [unknown]))

/-- A job of the operation runs, and ends with the status that it finds. -/
theorem State.jobRow_runs {s : State} {d e op : Nat} {j : List Word} (here : AtJob s d e op j)
    (known : jobKnown e op = true) (run : List Word → State → Nat × State) :
    s.jobRow d e op run = (run j s).2.jobDone d e j (run j s).1 := by
  obtain ⟨job, up, rfl⟩ := here
  unfold State.jobRow
  rw [job]
  exact (if_neg (by simp [up])).trans ((if_neg (by simp [known])).trans (if_neg fun h => h rfl))

/-- The end of a job with a status other than `OK` is noted, and its reason set in the unit of its work. -/
def State.jobNoted (s : State) (d e : Nat) (j : List Word) (st : Nat) : State :=
  let s := if st = Status.ok then s else s.put (Base.engine d e) Reg.engLastStatus st
  if st = Status.gone ∨ st = Status.quarantined then s.workReason (jobCtx j) (jobKind j) (jobSeq j) Reason.gone
  else if st = Status.denied then s.workReason (jobCtx j) (jobKind j) (jobSeq j) Reason.overrun
  else s

/-- The engine has counted a job that ended, and holds none. -/
def State.jobEnded (s : State) (d e : Nat) : State :=
  let t := (s.count (Base.engine d e) Reg.engJobs).put (Base.engine d e) Reg.engState 0
  t.setEng d e { t.eng d e with job := none, overran := false }

/-- The next entry of a job's slot starts. -/
def State.jobNext (s : State) (d e : Nat) (j : List Word) : State :=
  match (s.eng d e).queue with
  | n :: rest => if jobSlot n = jobSlot j then (s.jobPopped d e rest).jobStart d e n else s
  | [] => s

theorem State.jobDone_eq (s : State) (d e : Nat) (j : List Word) (st : Nat) :
    s.jobDone d e j st = ((s.jobNoted d e j st).jobEnded d e).jobNext d e j := rfl

theorem State.jobNoted_denied (s : State) (d e : Nat) (j : List Word) : s.jobNoted d e j Status.denied =
    (s.put (Base.engine d e) Reg.engLastStatus Status.denied).workReason (jobCtx j) (jobKind j) (jobSeq j)
      Reason.overrun := by
  unfold State.jobNoted
  rw [if_neg (show Status.denied ≠ Status.ok by decide),
    if_neg (show ¬(Status.denied = Status.gone ∨ Status.denied = Status.quarantined) by decide), if_pos rfl]

theorem State.jobNoted_eng (s : State) (d e : Nat) (j : List Word) (st : Nat) :
    (s.jobNoted d e j st).eng d e = s.eng d e := by
  refine State.eng_congr ?_ d e
  have put : ∀ t : State, t = (if st = Status.ok then s else s.put (Base.engine d e) Reg.engLastStatus st) →
      t.engines = s.engines := by
    rintro t rfl
    split
    · rfl
    · exact State.put_engines ..
  unfold State.jobNoted
  dsimp only
  split
  · rw [State.workReason_engines, put _ rfl]
  · split
    · rw [State.workReason_engines, put _ rfl]
    · exact put _ rfl

theorem State.jobEnded_eng (s : State) (d e : Nat) :
    (s.jobEnded d e).eng d e = { s.eng d e with job := none, overran := false } := by
  have same : ((s.count (Base.engine d e) Reg.engJobs).put (Base.engine d e) Reg.engState 0).eng d e = s.eng d e :=
    State.eng_congr ((State.put_engines ..).trans (State.count_engines ..)) d e
  rw [State.jobEnded, State.eng_setEng, same]

/-- With no entry left, a job that ends leaves its engine idle. -/
theorem State.jobDone_last {s : State} {d e : Nat} (last : (s.eng d e).queue = []) (j : List Word) (st : Nat) :
    s.jobDone d e j st = (s.jobNoted d e j st).jobEnded d e := by
  rw [State.jobDone_eq, State.jobNext, State.jobEnded_eng, State.jobNoted_eng, last]

theorem raw_unknown {s : State} {die : DieNo} {j : List Word} (job : (s.eng die.val 1).job = some j)
    (up : s.engUp die.val 1 = true) (unknown : jobOp j = 0 ∨ 4 < jobOp j) (last : (s.eng die.val 1).queue = []) :
    ∃ t, exec (.raw die) s = .next t ∧ (t.eng die.val 1).job = none ∧
      t.get (Base.engine die.val 1) Reg.engLastStatus = Status.denied ∧
      t.get (Base.engine die.val 1) Reg.engState = 0 ∧
      t.units = (s.workReason (jobCtx j) (jobKind j) (jobSeq j) Reason.overrun).units ∧ t.mem = s.mem := by
  have foreign' : jobKnown 1 (jobOp j) = false := by
    simp only [jobKnown, Nat.reduceLT, if_true, Bool.and_eq_false_iff, decide_eq_false_iff_not]
    omega
  have run : exec (.raw die) s = .next ((s.jobNoted die.val 1 j Status.denied).jobEnded die.val 1) :=
    congrArg Host.Outcome.next ((State.jobRow_unknown job up foreign' _).trans (State.jobDone_last last j _))
  rw [State.jobNoted_denied] at run
  refine ⟨_, run, ?_, ?_, ?_, ?_, ?_⟩
  · rw [State.jobEnded_eng]
  · rw [State.jobEnded, State.setEng_get, State.get_put_field _ _ _ _ _ _ _ _ (by rfl) (by decide) (by decide),
      State.get_count_addr _ _ _ _ _ _ _ _ (by simp [Reg.engJobs, Reg.engLastStatus]), State.get,
      State.workReason_reg]
    exact State.get_put_same _ _ _ _ _ (by decide)
  · rw [State.jobEnded, State.setEng_get]
    exact State.get_put_same _ _ _ _ _ (by decide)
  · rw [State.jobEnded, State.setEng_units, State.put_units, State.count_units]
    exact State.workReason_units_congr (State.put_units ..)
      (s.get_put_engine die.val 1 (by decide) (g := Reg.schedPos) _ _ (by decide) (by decide)) ..
  · rw [State.jobEnded, State.setEng_mem, State.put_mem, State.count_mem,
      State.mem_of_offUnits (State.workReason_offUnits ..), State.put_mem]

/-- Settles O33: a push queues or is refused (`jobPush_queues`), the head entry of an idle engine is started
(`jobSlotCompare_starts`), kept (`jobSlotCompare_keeps`) or discarded (`jobSlotCompare_discards`), and a job of an
operation that the engine lacks is denied (`raw_unknown`). -/
theorem engineQueues : Obligations.EngineQueues := by
  unfold Obligations.EngineQueues
  intro s die e w3 j rest
  refine ⟨fun awake fenced => ?_, fun awake here full => ?_, jobPush_queues,
    fun slots up idle new queue diff hdiff => ?_, fun none => ?_, raw_unknown⟩
  · exact congrArg Host.Outcome.next ((if_pos awake).trans (if_pos fenced))
  · exact congrArg Host.Outcome.next ((if_pos awake).trans ((if_neg (by simp [here])).trans (if_pos full)))
  · subst hdiff
    exact ⟨jobSlotCompare_starts slots up idle new queue, jobSlotCompare_keeps slots up idle new queue,
      jobSlotCompare_discards slots up idle new queue⟩
  · exact congrArg Host.Outcome.next (State.jobCycle_none none)

end Sys2Proof.Machine
end

section
/-! PROOFS. What a job reads of its die's store and what it writes (R33, R163), the random-number engine (R173 to R177), and
O34. -/

namespace Sys2Proof.Machine

/-! Reading a parameter record -/

theorem placeOf_ddr_iff (a : Nat) : placeOf a = .ddr ↔ a < 0x080000000000 := by
  refine ⟨fun place => ?_, fun low => if_pos low⟩
  by_contra high
  unfold placeOf at place
  rw [if_neg high] at place
  dsimp only at place
  split at place
  · split at place <;> cases place
  · split at place
    · cases place
    · split at place <;> cases place

/-- A word of an extent that begins in a die's store is none of DDR. -/
theorem placeOf_inDie {d a : Nat} (here : inDie d a = true) (i : Nat) : placeOf (a / 8 * 8 + 8 * i) ≠ .ddr := by
  have high : ¬ a < 0x080000000000 := fun low => by
    rw [inDie, (placeOf_ddr_iff a).2 low] at here
    cases here
  rw [Ne, placeOf_ddr_iff]
  omega

theorem State.ddrTraffic_notDdr (s : State) {a : Nat} (place : placeOf a ≠ .ddr) (write : Bool) (bytes : Nat) :
    s.ddrTraffic a write bytes = s := by
  unfold State.ddrTraffic
  split
  next ddr => exact absurd ddr place
  next => rfl

/-- Loading clean words of the scratchpads changes nothing. -/
theorem State.loads_notDdr {s : State} {a n : Nat} (clean : ∀ i < n, (s.load (a + 8 * i)).1.ecc = .clean)
    (place : ∀ i, placeOf (a + 8 * i) ≠ .ddr) : (s.loads a n).2 = s := by
  induction n generalizing a with
  | zero => rfl
  | succ n ih =>
    have here : (s.load a).2 = s :=
      (State.load_snd_clean false (clean 0 (Nat.zero_lt_succ n))).trans (s.ddrTraffic_notDdr (place 0) false 8)
    have next (i : Nat) : a + 8 + 8 * i = a + 8 * (i + 1) := by omega
    have rest : (s.loads (a + 8) n).2 = s := ih
      (fun i hi => by rw [next]; exact clean (i + 1) (Nat.succ_lt_succ hi)) (fun i => by rw [next]; exact place (i + 1))
    have eq : (s.loads a (n + 1)).2 = ((s.load a).2.loads (a + 8) n).2 := rfl
    rw [eq, here, rest]

/-- A job reads clean bytes of its die's store as they stand, and changes nothing by it. -/
theorem State.jobRead_inDie {s : State} {d a n : Nat} {j : List Word} {bs : List Byte} (here : inDie d a = true)
    (source : JobSource s d j a n bs) : s.jobRead d j a n = (Status.ok, bs, s) := by
  obtain ⟨status, clean, rfl⟩ := source
  have same : (s.loadBytes a n).2 = s := State.loads_notDdr
    (fun i hi => by rw [show a / 8 * 8 + 8 * i = (a / 8 + i) * 8 by omega]; exact clean i hi) (placeOf_inDie here)
  have eq : s.jobRead d j a n = (s.jobStatus d j a n, (s.loadBytes a n).1, (s.loadBytes a n).2) := if_pos status
  rw [eq, status, same]

/-- A job whose record is readable goes on with it. -/
theorem State.withRecord_read {s : State} {d n : Nat} {j : List Word} {r : List Byte} (record : JobRecord s d j n r)
    (run : List Byte → State → Nat × State) : s.withRecord d j n run = run r s := by
  obtain ⟨here, source⟩ := record
  unfold State.withRecord
  rw [if_pos here, State.jobRead_inDie here source]
  rfl

theorem State.jobWrite_ok {s : State} {d a : Nat} {j : List Word} {bs : List Byte}
    (status : s.jobStatus d j a bs.length = Status.ok) : s.jobWrite d j a bs = (Status.ok, s.storeBytes a bs) := by
  rw [← status]
  exact if_pos status

/-! The jobs of the random-number engine (R174, R176, R177) -/

section
variable {s : State} {d op : Nat} {j : List Word} {r : List Byte} (here : AtJob s d 1 op j)
  (known : jobKnown 1 op = true) (record : JobRecord s d j 32 r) (per : Nat)
  (out : List Byte → List (List Nat) → Nat → List Byte)
include here known record

/-- A class that the engine does not have ends the job with `DENIED`. -/
theorem State.rngJob_denied (cls : recNat r 0 1 % 16 = 0 ∨ 3 < recNat r 0 1 % 16) :
    s.rngJob d op per out = s.jobDone d 1 j Status.denied := by
  rw [State.rngJob, State.jobRow_runs here known, State.withRecord_read record]
  dsimp only
  rw [if_pos cls]

/-- A job of class 1, 2 or 3 writes the elements of its blocks. -/
theorem State.rngJob_writes {bs : List Byte} (least : 1 ≤ recNat r 0 1 % 16) (most : recNat r 0 1 % 16 ≤ 3)
    (elems : out r (s.rngBlocks d (jobCtx j) r (jobCount j) per) (jobCount j) = bs)
    (status : s.jobStatus d j (jobOut j) bs.length = Status.ok) :
    s.rngJob d op per out = (s.storeBytes (jobOut j) bs).jobDone d 1 j Status.ok := by
  rw [State.rngJob, State.jobRow_runs here known, State.withRecord_read record]
  dsimp only
  rw [if_neg (by omega), elems, State.jobWrite_ok status]

end

/-! The elements of the blocks -/

theorem flatMap_rawElems (bs : List (List Nat)) : bs.flatMap rawElems = bs.flatten := List.flatMap_id

theorem flatMap_uniformElems (bs : List (List Nat)) :
    bs.flatMap uniformElems = bs.flatten.map fun w => f32enc (.fin false (2 * (w / 256) + 1) (-25)) := by
  rw [List.map_flatten, List.flatMap_def]
  rfl

theorem flatMap_maskElems (t : Nat) (bs : List (List Nat)) : bs.flatMap (maskElems t) =
    bs.flatten.flatMap fun w => [decide (t ≤ w % 65536), decide (t ≤ w / 65536)] := by
  rw [← List.flatMap_id, List.flatMap_assoc]
  rfl

/-- Settles O34: a class that the engine lacks ends each job with `DENIED` (`State.rngJob_denied`), and a job of another
writes the elements of its blocks (`State.rngJob_writes`), which each operation forms word by word. -/
theorem randomNumberJobs : Obligations.RandomNumberJobs := by
  unfold Obligations.RandomNumberJobs
  intro s die j r n op here record count
  subst count
  refine ⟨fun least most => ⟨fun raw status => ?_, fun uniform bs hbs status => ?_, fun mask bs hbs status => ?_,
    fun normal bs hbs status => ?_⟩, fun cls => ⟨?_, ?_, ?_, ?_⟩⟩
  · subst raw
    exact congrArg Host.Outcome.next (State.rngJob_writes here rfl record 4 _ least most
      (by rw [flatMap_rawElems]; rfl) status)
  · subst uniform
    refine congrArg Host.Outcome.next (State.rngJob_writes here rfl record 4 _ least most ?_ status)
    rw [hbs, flatMap_uniformElems]
    rfl
  · subst mask
    refine congrArg Host.Outcome.next (State.rngJob_writes here rfl record 8 _ least most ?_ status)
    rw [hbs, flatMap_maskElems]
  · subst normal
    exact congrArg Host.Outcome.next (State.rngJob_writes here rfl record 4 _ least most hbs.symm status)
  all_goals
    rintro rfl
    exact congrArg Host.Outcome.next (State.rngJob_denied here rfl record _ _ cls)

end Sys2Proof.Machine
end

section
/-! PROOFS. Jobs that read DDR: their bytes are counted at the channel (R264), so that more changes than a finished job's own
results, and O35, O36 and O37. -/

namespace Sys2Proof.Machine

/-! A device on which a job may read DDR -/

/-- The memory with words from a key on. -/
def Mem.withWords (m : Mem) (k : Nat) (ws : List Word) : Mem :=
  (ws.mapIdx fun i w => (k + 8 * i, w)).foldl (fun m p => m.setWord p.1 p.2) m

/-- Address `x` of the scratchpad of core 0 of CD0. -/
def storeAddr (x : Nat) : Word := word (scratchAddr 0 0 x)

/-- An entry for one job of context 0, with its record at the first byte of the scratchpad of core 0. -/
def ddrJob (op out : Nat) : List Word := [word (op * 2 ^ 32), 1, storeAddr 0, word out]

/-- Engine `e` of CD0 runs a job of context 0, which core 0 is bound to and DDR segment 0 belongs to: `record` stands at the
first byte of the scratchpad of core 0, and `first` at address 0 of DDR. -/
def ddrState (e : Nat) (j record : List Word) (first : Word) : State :=
  { State.reset with
    eff := [(Base.coreBind 0 + Reg.cbRunValid.off, Reg.cbRunValid.put 0 1)]
    segs := [(0, word (2 ^ 63 + 1))]
    engines := [(e, { Eng.new with job := some j })]
    mem := (State.reset.mem.withWords (scratchAddr 0 0 0) record).withWords (2 ^ 48) [first] }

/-- Clean planes in a die's store are read as they stand, and nothing changes by it. -/
theorem State.readPlanes_inDie {s : State} {d : Nat} {j : List Word} {ps : List (Nat × Nat)}
    (allowed : ∀ p ∈ ps, inDie d p.1 = true ∧ s.jobStatus d j p.1 p.2 = Status.ok)
    (clean : ∀ p ∈ ps, CleanWords s p.1 p.2) :
    s.readPlanes d j ps = (Status.ok, ps.map fun p => leNat (s.loadBytes p.1 p.2).1, s) := by
  induction ps with
  | nil => rfl
  | cons p ps ih =>
    obtain ⟨here, status⟩ := allowed p List.mem_cons_self
    have rest := ih (fun q hq => allowed q (List.mem_cons_of_mem p hq)) (fun q hq => clean q (List.mem_cons_of_mem p hq))
    rw [State.readPlanes, State.jobRead_inDie here ⟨status, clean p List.mem_cons_self, rfl⟩]
    dsimp only
    rw [if_neg (fun h => h rfl), rest]
    rfl

/-! An update of one element whose accumulator lies in DDR -/

/-- Every scalar 0, N2 at 0x100, the live planes at 0x200 and the shadow planes at 0x300, the accumulators at address 0 of
DDR, no addend, and planes 8 bytes apart. -/
def sgdRecord : List Word := [0, 0, 0, 0, 0, storeAddr 0x100, storeAddr 0x200, storeAddr 0x300, 0, 0, 0, 8]

def sgdRec : FinRec := finRec (bytesOf sgdRecord)

def sgdState : State := ddrState 2 (ddrJob 3 0) sgdRecord 0

/-- The state after the element's new planes are written, and nothing else. -/
def sgdWritten : State :=
  (sgdState.writePlanes (0 : DieNo).val (ddrJob 3 0)
    (((planeAddrs sgdRec.shadow sgdRec.plane sgdRec.first).take 3).zip [(splitBits 0).1, (splitBits 0).2, 0, 0])).2

theorem sgdPlanes : sgdState.readPlanes (0 : DieNo).val (ddrJob 3 0)
    ((planeAddrs sgdRec.live sgdRec.plane sgdRec.first).take 3) = (Status.ok, [0, 0, 0], sgdState) :=
  (State.readPlanes_inDie (by decide +kernel) (by unfold CleanWords; decide +kernel)).trans
    (congrArg (fun vs => (Status.ok, vs, sgdState)) (by decide +kernel))

theorem sgdJob_parts : (sgdState.finJob 0 0x03).parts = [(0, 8)] := by decide +kernel

theorem sgdWritten_parts : (sgdWritten.jobDone 0 2 (ddrJob 3 0) Status.ok).parts = [] := by decide +kernel

/-- Refutes O35: with the accumulator in DDR an SGD job of one element counts the 8 bytes of its word at the channel
(`sgdJob_parts`), where writing the new planes and ending counts none (`sgdWritten_parts`). -/
theorem not_finishingJobs : ¬ Obligations.FinishingJobs := by
  unfold Obligations.FinishingJobs
  intro h
  obtain ⟨update, -, -⟩ := h sgdState sgdWritten 0 (ddrJob 3 0) (bytesOf sgdRecord) (leBytes 8 0) (leBytes 4 0)
    sgdRec (.sgd 0) 3 3 [0, 0, 0]
  have here : AtJob sgdState 0 2 3 (ddrJob 3 0) := by unfold AtJob; decide +kernel
  have record : JobRecord sgdState 0 (ddrJob 3 0) 96 (bytesOf sgdRecord) := by
    unfold JobRecord JobSource CleanWords; decide +kernel
  have normHere : inDie 0 sgdRec.n2 = true := by decide +kernel
  have norm : JobSource sgdState 0 (ddrJob 3 0) sgdRec.n2 8 (leBytes 8 0) := by
    unfold JobSource CleanWords; decide +kernel
  have acc : JobSource sgdState 0 (ddrJob 3 0) (sgdRec.acc + 4 * sgdRec.first) 4 (leBytes 4 0) := by
    unfold JobSource CleanWords; decide +kernel
  have run := (update (.inr (.inr ⟨rfl, rfl⟩)) here record rfl normHere norm (by decide +kernel) (by decide +kernel) rfl
    sgdPlanes acc (by decide +kernel) 0 0 0 (by decide +kernel)).1 (by decide +kernel)
    (Prod.ext (by decide +kernel) (by rw [sgdWritten]))
  have parts : (sgdState.finJob 0 0x03).parts = (sgdWritten.jobDone 0 2 (ddrJob 3 0) Status.ok).parts :=
    congrArg State.parts (Host.Outcome.next.inj run)
  rw [sgdJob_parts, sgdWritten_parts] at parts
  cases parts

/-! A comparison with results in DDR -/

/-- The second results stand at 0x800. -/
def compareRecord : List Word := [storeAddr 0x800, 0]

def compareState : State := ddrState 3 (ddrJob 1 0) compareRecord 0

theorem compareJob_parts : (compareState.compareJob 0).parts = [(0, 8)] := by decide +kernel

theorem compareEnded_parts : (compareState.jobDone 0 3 (ddrJob 1 0) Status.ok).parts = [] := by decide +kernel

/-- Refutes O36: with the first results in DDR a COMPARE of equal results counts the 8 bytes of their word at the channel
(`compareJob_parts`), where the end of the job alone counts none (`compareEnded_parts`). -/
theorem not_checkJobs : ¬ Obligations.CheckJobs := by
  unfold Obligations.CheckJobs
  intro h
  obtain ⟨compare, -, -⟩ := h compareState 0 (ddrJob 1 0) (bytesOf compareRecord) (leBytes 4 0) (leBytes 4 0) 0 0 0
  have here : AtJob compareState 0 3 1 (ddrJob 1 0) := by unfold AtJob; decide +kernel
  have record : JobRecord compareState 0 (ddrJob 1 0) 16 (bytesOf compareRecord) := by
    unfold JobRecord JobSource CleanWords; decide +kernel
  have run := (compare here record (by unfold JobSource CleanWords; decide +kernel)
    (by unfold JobSource CleanWords; decide +kernel) _ rfl).1 (by decide +kernel)
  have parts : (compareState.compareJob 0).parts = (compareState.jobDone 0 3 (ddrJob 1 0) Status.ok).parts :=
    congrArg State.parts (Host.Outcome.next.inj run)
  rw [compareJob_parts, compareEnded_parts] at parts
  cases parts

/-! A shortlist of a row in DDR -/

/-- A greedy row of one FP32 logit, at address 0 of DDR. -/
def listRecord : List Word := [0, word (0x8 * 2 ^ 60), word (0x3F800000 * 2 ^ 32), 0]

/-- The logit is no number, so that each value of the list is fixed. -/
def listState : State := ddrState 0 (ddrJob 2 0x2000) listRecord 0x7FC00000

def listRow : SmpRow := smpRow 0 (bytesOf listRecord)

def listFirst : SmpFirst := listState.smpFirst 0 0 0 listRow (listRow.zs (leBytes 4 0x7FC00000))

/-- The list of the row. -/
def listBytes : List Byte := [listFirst.m, listFirst.sum, listFirst.best, listFirst.key].flatMap (leBytes 4) ++
  listFirst.cand.flatMap (fun p => leBytes 8 (p.2 * 2 ^ 32 + p.1)) ++
  (List.range (listRow.kc - listFirst.cand.length)).flatMap (fun _ => leBytes 8 (0xFF800000 * 2 ^ 32))

theorem shortlistJob_parts : (listState.smpShort 0).parts = [(0, 8), (1, 16)] := by decide +kernel

theorem listWritten_parts :
    ((listState.storeBytes 0x2000 listBytes).jobDone 0 0 (ddrJob 2 0x2000) Status.ok).parts = [(1, 16)] := by
  decide +kernel

/-- Refutes O37: with its logit in DDR, and `OUT` there too, a SHORTLIST counts the 8 bytes of the logit's word at the
channel (`shortlistJob_parts`), where writing the list and ending counts the bytes written alone
(`listWritten_parts`). -/
theorem not_samplerJobs : ¬ Obligations.SamplerJobs := by
  unfold Obligations.SamplerJobs
  intro h
  have here : AtJob listState 0 0 2 (ddrJob 2 0x2000) := by unfold AtJob; decide +kernel
  have record : JobRecord listState 0 (ddrJob 2 0x2000) 32 (bytesOf listRecord) := by
    unfold JobRecord JobSource CleanWords; decide +kernel
  have logits : JobSource listState 0 (ddrJob 2 0x2000) listRow.logits listRow.bytes (leBytes 4 0x7FC00000) := by
    unfold JobSource CleanWords; decide +kernel
  have out : jobOut (ddrJob 2 0x2000) = 0x2000 := by decide +kernel
  obtain ⟨-, shortlist, -⟩ := h listState 0 false 0 (ddrJob 2 0x2000) (bytesOf listRecord) (leBytes 4 0x7FC00000) listRow
    listFirst 0 [] 2 here record (by decide +kernel) (by decide +kernel) (by decide +kernel) (by decide +kernel)
    (by decide +kernel)
  have run := shortlist (by decide +kernel) rfl logits (by decide +kernel) listBytes rfl (by decide +kernel)
  rw [out] at run
  have parts : (listState.smpShort 0).parts =
      ((listState.storeBytes 0x2000 listBytes).jobDone 0 0 (ddrJob 2 0x2000) Status.ok).parts :=
    congrArg State.parts (Host.Outcome.next.inj run)
  rw [shortlistJob_parts, listWritten_parts] at parts
  cases parts

end Sys2Proof.Machine
end

section
/-! PROOFS. The maintenance commands of a page map (R196, R201): which entries a command changes, and what it reports. -/

namespace Sys2Proof.Machine

/-! What a command's report and the counts of entries leave -/

theorem State.maps_of_contents {s t : State} (h : t.contents = s.contents) : t.maps = s.maps :=
  (congrArg State.maps h : t.contents.maps = s.contents.maps)

theorem State.mapAt_of_maps {s t : State} (h : t.maps = s.maps) (d i : Nat) : t.mapAt d i = s.mapAt d i := by
  rw [State.mapAt, h, State.mapAt]

/-- The counts shown are registers. -/
theorem State.mapShow_contents (s : State) (d : Nat) : (s.mapShow d).contents = s.contents := by
  unfold State.mapShow
  refine foldl_keeps (fun t : State => t.contents = s.contents) _ _ _ ?_ fun t c _ h => ?_
  · simp only [State.put_contents]
  · rw [State.put_contents, h]

@[simp] theorem State.mapShow_maps (s : State) (d : Nat) : (s.mapShow d).maps = s.maps :=
  State.maps_of_contents (s.mapShow_contents d)

@[simp] theorem State.mapShow_mem (s : State) (d : Nat) : (s.mapShow d).mem = s.mem :=
  State.mem_of_contents (s.mapShow_contents d)

@[simp] theorem State.mapShow_mapAt (s : State) (d d' i : Nat) : (s.mapShow d).mapAt d' i = s.mapAt d' i :=
  State.mapAt_of_maps (s.mapShow_maps d) d' i

/-- A report shows registers and answers. -/
theorem State.mapReport_contents (r : Nat × Nat × State) (d : Nat) :
    (State.mapReport r d).contents = r.2.2.contents := by
  unfold State.mapReport
  dsimp only
  rw [State.reply_contents]
  split
  · rw [State.put_contents, State.put_contents]
  · rw [State.put_contents]

@[simp] theorem State.mapReport_maps (r : Nat × Nat × State) (d : Nat) : (State.mapReport r d).maps = r.2.2.maps :=
  State.maps_of_contents (State.mapReport_contents r d)

@[simp] theorem State.mapReport_mem (r : Nat × Nat × State) (d : Nat) : (State.mapReport r d).mem = r.2.2.mem :=
  State.mem_of_contents (State.mapReport_contents r d)

@[simp] theorem State.mapReport_mapAt (r : Nat × Nat × State) (d d' i : Nat) :
    (State.mapReport r d).mapAt d' i = r.2.2.mapAt d' i :=
  State.mapAt_of_maps (State.mapReport_maps r d) d' i

@[simp] theorem State.mapReport_answer (r : Nat × Nat × State) (d : Nat) :
    (State.mapReport r d).answer = ⟨0, 0, []⟩ := rfl

@[simp] theorem State.mapReport_status (st i : Nat) (s : State) (d : Nat) :
    (State.mapReport (st, i, s) d).get (Base.pageMap d) Reg.mapStatus = st % 2 ^ 8 := by
  unfold State.mapReport
  dsimp only
  rw [State.reply_get]
  split
  · exact (State.get_put_field _ _ Reg.mapIndex i 0 _ Reg.mapStatus 0 rfl (by decide) (by decide)).trans
      (State.get_put_same _ _ _ _ _ (by decide))
  · exact State.get_put_same _ _ _ _ _ (by decide)

@[simp] theorem State.mapReport_index (i : Nat) (s : State) (d : Nat) :
    (State.mapReport (Status.ok, i, s) d).get (Base.pageMap d) Reg.mapIndex = i % 2 ^ Reg.mapIndex.w := by
  unfold State.mapReport
  dsimp only
  rw [if_pos rfl, State.reply_get]
  exact State.get_put_same _ _ _ _ _ (by decide)

/-- The words that READ shows stand in registers that a report does not touch. -/
@[simp] theorem State.mapReport_mapR (r : Nat × Nat × State) (d j : Nat) :
    (State.mapReport r d).get (Base.pageMap d) Reg.mapR j = r.2.2.get (Base.pageMap d) Reg.mapR j := by
  have apart (f : Fld) (off : f.off = 0x38) (v : Nat) (s : State) :
      (s.put (Base.pageMap d) f v).get (Base.pageMap d) Reg.mapR j = s.get (Base.pageMap d) Reg.mapR j :=
    State.get_put_addr _ _ _ _ _ _ _ _ (by simp only [off, Reg.mapR]; omega)
  unfold State.mapReport
  dsimp only
  rw [State.reply_get]
  split
  · rw [apart _ rfl, apart _ rfl]
  · rw [apart _ rfl]

/-! Entries -/

theorem State.mapAt_setMapAt_apart (s : State) (d : Nat) {i k : Nat} (e : Word × Word) (h : k ≠ i) :
    (s.setMapAt d i e).mapAt d k = s.mapAt d k :=
  State.mapAt_setMapAt_other s d i e (by omega)

/-- A shift writes the entry to its new place, then frees the old one. -/
theorem State.mapAt_mapShift (s : State) (d i t k : Nat) :
    (s.mapShift d i t).mapAt d k = ((s.setMapAt d t (s.mapAt d i)).setMapAt d i (0, 0)).mapAt d k := rfl

/-- A command that writes entry `i` alone, and reports it. -/
theorem State.mapReport_entry {s t : State} {d i : Nat} {e : Word × Word} (maps : t.maps = (s.setMapAt d i e).maps)
    (mem : t.mem = s.mem) :
    (State.mapReport (Status.ok, i, t) d).mapAt d i = e ∧
      (∀ k, k ≠ i → (State.mapReport (Status.ok, i, t) d).mapAt d k = s.mapAt d k) ∧
      (State.mapReport (Status.ok, i, t) d).get (Base.pageMap d) Reg.mapStatus = Status.ok ∧
      (State.mapReport (Status.ok, i, t) d).mem = s.mem := by
  refine ⟨?_, fun k other => ?_, State.mapReport_status .., (State.mapReport_mem ..).trans mem⟩
  · rw [State.mapReport_mapAt, State.mapAt_of_maps maps, State.mapAt_setMapAt]
  · rw [State.mapReport_mapAt, State.mapAt_of_maps maps, State.mapAt_setMapAt_apart _ _ _ other]

/-! The entry that a command names -/

/-- The map registers of die `d` key entry `i`, with a class that is not reserved. -/
structure State.Keys (s : State) (d i : Nat) : Prop where
  sized : enClass (s.mapArgs d) < 9
  keyed : s.mapKeyed d = some i

theorem State.mapKeyed_eq (s : State) (d : Nat) : s.mapKeyed d = if enKind (s.mapArgs d) = 0 then none else
    s.mapFind d (enHandle (s.mapArgs d)) (enOrd (s.mapArgs d)) (enKind (s.mapArgs d)) := rfl

theorem State.keys_of_find {s : State} {d i : Nat} (sized : enClass (s.mapArgs d) < 9) (kind : enKind (s.mapArgs d) ≠ 0)
    (there : s.mapFind d (enHandle (s.mapArgs d)) (enOrd (s.mapArgs d)) (enKind (s.mapArgs d)) = some i) : s.Keys d i :=
  ⟨sized, by rw [State.mapKeyed_eq, if_neg kind, there]⟩

theorem State.Keys.mapOn {s : State} {d i : Nat} (h : s.Keys d i) (f : Nat → State → Nat × Nat × State) :
    s.mapOn d f = f i s := by
  rw [State.mapOn, if_neg (Nat.not_le.2 h.sized), h.keyed]

/-- With no entry of that key, every command on an entry reports so and changes none. -/
theorem State.mapOn_absent {s : State} {d : Nat} (sized : enClass (s.mapArgs d) < 9)
    (absent : s.mapFind d (enHandle (s.mapArgs d)) (enOrd (s.mapArgs d)) (enKind (s.mapArgs d)) = none)
    (f : Nat → State → Nat × Nat × State) : s.mapOn d f = (Status.notResident, 0, s) := by
  rw [State.mapOn, if_neg (Nat.not_le.2 sized), State.mapKeyed_eq, absent, ite_self]

/-! Each command's effect -/

/-- INSERT of a new key puts the entry in the first free way of its candidates (R196). -/
theorem State.mapInsert_placed {s : State} {d i : Nat} (kind : enKind (s.mapArgs d) = 1 ∨ enKind (s.mapArgs d) = 2)
    (sized : enClass (s.mapArgs d) < 9)
    (absent : s.mapFind d (enHandle (s.mapArgs d)) (enOrd (s.mapArgs d)) (enKind (s.mapArgs d)) = none)
    (quota : (s.mapEntries d).foldl (fun n q => if enCtx q.2 = enCtx (s.mapArgs d) then n + 1 else n) 0 <
      s.get (Base.pageMap d) Reg.quotaLimit (enCtx (s.mapArgs d)))
    (way : ((candidates (enHandle (s.mapArgs d)) (enOrd (s.mapArgs d))).find? fun k => enKind (s.mapAt d k) == 0) = some i) :
    s.mapInsert d = State.mapReport (Status.ok, i, (s.setMapAt d i (s.mapArgs d)).mapShow d) d := by
  have put : s.mapPut d (s.mapArgs d) = (Status.ok, i, (s.setMapAt d i (s.mapArgs d)).mapShow d) := by
    unfold State.mapPut
    simp only [absent, way, sized, quota, Option.isNone_none, Bool.and_true, decide_true, Bool.not_eq_true',
      Bool.or_eq_false_iff, beq_eq_false_iff_ne]
    exact if_neg (by omega)
  rw [State.mapInsert, put]

/-- INSERT of a key that is in use is refused. -/
theorem State.mapInsert_taken {s : State} {d i : Nat}
    (there : s.mapFind d (enHandle (s.mapArgs d)) (enOrd (s.mapArgs d)) (enKind (s.mapArgs d)) = some i) :
    s.mapInsert d = State.mapReport (Status.denied, 0, s) d := by
  have put : s.mapPut d (s.mapArgs d) = (Status.denied, 0, s) := by
    unfold State.mapPut
    simp only [there, Option.isNone_some, Bool.and_false, Bool.false_and, Bool.not_false, if_true]
  rw [State.mapInsert, put]

namespace State.Keys

variable {s : State} {d i : Nat}

theorem mapUpdate (h : s.Keys d i) : s.mapUpdate d =
    State.mapReport (Status.ok, i, s.setMapAt d i ((s.mapAt d i).1, (s.mapArgs d).2)) d := by
  rw [State.mapUpdate, h.mapOn]

theorem mapRemove (h : s.Keys d i) : s.mapRemove d =
    State.mapReport (Status.ok, i, (s.setMapAt d i (0, 0)).mapShow d) d := by
  rw [State.mapRemove, h.mapOn, State.mapDrop]

theorem mapRead (h : s.Keys d i) : s.mapRead d = State.mapReport (Status.ok, i,
    ((s.drainsClear d i).put (Base.pageMap d) Reg.mapR (s.mapAt d i).1.toNat 0).put (Base.pageMap d) Reg.mapR
      (s.mapAt d i).2.toNat 1) d := by
  rw [State.mapRead, h.mapOn]

theorem moveTo (h : s.Keys d i) {t : Nat} (free : s.moveOk d i t = true) : s.moveTo d t =
    State.mapReport (Status.ok, t, (s.mapShift d i t).mapShow d) d := by
  rw [State.moveTo, h.mapOn, if_pos free]

/-- READ shows both words of the entry. -/
theorem mapRead_shows (h : s.Keys d i) :
    (s.mapRead d).get (Base.pageMap d) Reg.mapR 0 = (s.mapAt d i).1.toNat ∧
      (s.mapRead d).get (Base.pageMap d) Reg.mapR 1 = (s.mapAt d i).2.toNat := by
  have whole (t : State) (w : Word) (j : Nat) :
      (t.put (Base.pageMap d) Reg.mapR w.toNat j).get (Base.pageMap d) Reg.mapR j = w.toNat :=
    (State.get_put_same _ _ _ _ _ (by decide)).trans (Nat.mod_eq_of_lt w.isLt)
  rw [h.mapRead, State.mapReport_mapR, State.mapReport_mapR]
  refine ⟨?_, whole _ _ 1⟩
  rw [State.get_put_addr _ _ _ _ _ _ _ _ (by simp only [Reg.mapR]; omega), whole]

/-- READ changes no entry. -/
theorem mapRead_maps (h : s.Keys d i) : (s.mapRead d).maps = s.maps := by
  rw [h.mapRead, State.mapReport_maps]
  exact (State.put_maps ..).trans (State.put_maps ..)

/-- MOVE_TO leaves the entry at its new place alone. -/
theorem moveTo_entries (h : s.Keys d i) {t : Nat} (free : s.moveOk d i t = true) (apart : t ≠ i) :
    (s.moveTo d t).mapAt d t = s.mapAt d i ∧ (s.moveTo d t).mapAt d i = (0, 0) ∧
      ∀ k, k ≠ i → k ≠ t → (s.moveTo d t).mapAt d k = s.mapAt d k := by
  rw [h.moveTo free]
  simp only [State.mapReport_mapAt, State.mapShow_mapAt, State.mapAt_mapShift]
  refine ⟨?_, State.mapAt_setMapAt .., fun k old new => ?_⟩
  · rw [State.mapAt_setMapAt_apart _ _ _ apart, State.mapAt_setMapAt]
  · rw [State.mapAt_setMapAt_apart _ _ _ old, State.mapAt_setMapAt_apart _ _ _ new]

end State.Keys

/-! The five commands on a die in service -/

section
variable {s : State} {die : DieNo} (up : s.dieUp die.val = true)
include up

theorem exec_mapInsert_up : exec (.mapInsert die) s = .next (s.mapInsert die.val) :=
  congrArg Host.Outcome.next (if_pos up)

theorem exec_mapUpdate_up : exec (.mapUpdate die) s = .next (s.mapUpdate die.val) :=
  congrArg Host.Outcome.next (if_pos up)

theorem exec_mapRemove_up : exec (.mapRemove die) s = .next (s.mapRemove die.val) :=
  congrArg Host.Outcome.next (if_pos up)

theorem exec_mapRead_up : exec (.mapRead die) s = .next (s.mapRead die.val) :=
  congrArg Host.Outcome.next (if_pos up)

theorem exec_moveTo_up (t : BitVec 16) : exec (.moveTo die t) s = .next (s.moveTo die.val t.toNat) :=
  congrArg Host.Outcome.next (if_pos up)

end

end Sys2Proof.Machine
end

section
/-! PROOFS. What an access to memory may change, and the spilling of a page to host memory (R202, R219, R226), with O43. -/

namespace Sys2Proof.Machine

/-! Accesses to memory -/

/-- The state without its memory, its faults, its staged units, and what is counted and answered in registers. -/
def State.offAccess (s : State) : State := { s.offMem with faults := State.reset.faults, units := [] }

/-- `t` differs from `s` at most in memory, faults, staged units, and registers of the ERROR and DDR blocks (R35): what
traffic to memory may change. -/
structure State.MemStep (s t : State) : Prop where
  rest : t.offAccess = s.offAccess
  regs : ∀ a, blockOf a ≠ 0x0D → blockOf a ≠ 0x10 → blockOf a ≠ 0x1A → t.reg a = s.reg a

namespace State.MemStep

theorem refl (s : State) : s.MemStep s := ⟨rfl, fun _ _ _ _ => rfl⟩

theorem trans {s t u : State} (h : s.MemStep t) (k : t.MemStep u) : s.MemStep u :=
  ⟨k.rest.trans h.rest, fun a err ddr err' => (k.regs a err ddr err').trans (h.regs a err ddr err')⟩

theorem foldl {α : Type} (f : State → α → State) (l : List α) (s : State) (h : ∀ (t : State) x, t.MemStep (f t x)) :
    s.MemStep (l.foldl f s) :=
  foldl_keeps s.MemStep f l s (refl s) fun t x _ k => k.trans (h t x)

theorem of_offMem {s t : State} (h : t.offMem = s.offMem)
    (regs : ∀ a, blockOf a ≠ 0x0D → blockOf a ≠ 0x10 → blockOf a ≠ 0x1A → t.reg a = s.reg a) : s.MemStep t :=
  ⟨congrArg (fun x : State => { x with faults := State.reset.faults, units := [] }) h, regs⟩

theorem of_regs {s t : State} (rest : t.offAccess = s.offAccess) (regs : t.regs = s.regs) : s.MemStep t :=
  ⟨rest, fun a _ _ _ => by rw [State.reg, regs, State.reg]⟩

theorem log (s : State) (unit action : Nat) (ctx : Option Nat) (source index detail : Nat) :
    s.MemStep (s.log unit action ctx source index detail) :=
  of_offMem (State.log_offMem ..) fun _ err _ err' => State.log_reg s _ _ _ _ _ _ err err'

theorem count_errors (s : State) (unit : Nat) {f : Fld} (n : Nat) (hf : f.off + 0 * f.step < 0x10000) :
    s.MemStep (s.count (Base.errors unit) f n) :=
  of_offMem (State.count_offMem ..) fun _ err _ err' => State.count_errors_reg s _ _ hf err err'

theorem count_ddr (s : State) (ch : Nat) {f : Fld} (n : Nat) (hf : f.off + 0 * f.step < 0x1000) :
    s.MemStep (s.count (Base.ddr ch) f n) := by
  refine of_offMem (State.count_offMem ..) fun a _ ddr _ => State.reg_count_other s _ _ _ _ fun same => ddr ?_
  rw [same, Nat.add_assoc, blockOf_ddr ch hf]

theorem ddrTraffic (s : State) (a : Nat) (write : Bool) (bytes : Nat) : s.MemStep (s.ddrTraffic a write bytes) :=
  of_offMem (State.ddrTraffic_offMem ..) fun _ _ ddr _ => s.ddrTraffic_reg a write bytes ddr

theorem withMem (s : State) (m : Mem) : s.MemStep (s.withMem m) := of_regs rfl rfl

theorem inFrame (s : State) (k n : Nat) : s.MemStep (s.inFrame k n) := of_regs rfl rfl

theorem trigger (s : State) (kind : Nat) (u : UnitId) (detail : Nat) : s.MemStep (s.trigger kind u detail) :=
  of_regs rfl rfl

theorem addReason (s : State) (ctxs : List Nat) (r : Nat) : s.MemStep (s.addReason ctxs r) := of_regs rfl rfl

theorem report (s : State) (u : UnitId) (r source index detail : Nat) (ctx : Option Nat) :
    s.MemStep (s.report u r source index detail ctx) := by
  unfold State.report
  split
  · exact refl s
  · exact (addReason ..).trans (log ..)

theorem quarantine1 (s : State) (u : UnitId) (source index detail : Nat) :
    s.MemStep (s.quarantine1 u source index detail) := by
  unfold State.quarantine1
  split
  · exact refl s
  · exact of_regs rfl rfl

theorem quarantine (s : State) (u : UnitId) (source index detail : Nat) :
    s.MemStep (s.quarantine u source index detail) := by
  unfold State.quarantine
  dsimp only
  split
  · exact (quarantine1 ..).trans (quarantine1 ..)
  · exact quarantine1 ..

theorem quarantine_ite {s t : State} (h : s.MemStep t) (p : Prop) [Decidable p] (u : UnitId) (source index detail : Nat) :
    s.MemStep (if p then t.quarantine u source index detail else t) := by
  split
  · exact h.trans (quarantine ..)
  · exact h

theorem badRead (s : State) (a : Nat) : s.MemStep (s.badRead a) := by
  unfold State.badRead
  split
  · exact quarantine_ite (((count_errors s _ 1 (by decide)).trans (report ..)).trans (trigger ..)) ..
  · exact quarantine_ite (((count_ddr s _ 1 (by decide)).trans (report ..)).trans (inFrame ..)) ..

theorem mergeBad (s : State) (a : Nat) : s.MemStep (s.mergeBad a) := by
  unfold State.mergeBad
  split
  · exact (count_errors s _ 1 (by decide)).trans (log ..)
  · exact (count_ddr s _ 1 (by decide)).trans (log ..)

theorem corrected (s : State) (a : Nat) (r : Loaded) : s.MemStep (s.corrected a r) := by
  have noted (t : State) : t.MemStep (t.correctedNoted a) := by
    unfold State.correctedNoted
    split
    · exact (count_errors _ _ 1 (by decide)).trans (log ..)
    · exact ((count_ddr _ _ 1 (by decide)).trans (inFrame ..)).trans (log ..)
  exact (withMem s _).trans (noted _)

theorem load (s : State) (a : Nat) (merge : Bool) : s.MemStep (s.load a merge).2 := by
  cases merge with
  | false =>
    rw [State.load_plain, State.plainRead]
    refine (ddrTraffic s a false 8).trans ?_
    split
    · exact refl _
    · exact corrected ..
    · exact badRead ..
  | true =>
    rw [State.load_merge, State.mergeRead]
    refine (ddrTraffic s a false 8).trans ?_
    split
    · exact refl _
    · exact corrected ..
    · exact mergeBad ..

theorem store (s : State) (a : Nat) (w : TWord) : s.MemStep (s.store a w) := by
  have written (m : Mem) : s.MemStep ((s.withMem m).ddrTraffic a true 8) := (withMem s m).trans (ddrTraffic ..)
  unfold State.store
  dsimp only
  split
  · exact written _
  · exact (written _).trans ((count_errors _ _ 1 (by decide)).trans (log ..))
  · exact (written _).trans ((count_ddr _ _ 1 (by decide)).trans (log ..))
  · exact written _
  · exact (written _).trans ((count_ddr _ _ 1 (by decide)).trans (log ..))

theorem loads (s : State) (a n : Nat) : s.MemStep (s.loads a n).2 := by
  induction n generalizing s a with
  | zero => exact refl s
  | succ n ih => exact (load s a false).trans (ih _ _)

theorem loadBytes (s : State) (a n : Nat) : s.MemStep (s.loadBytes a n).2 := loads ..

theorem bytesWord (s : State) (a : Nat) (bs : List Byte) : s.MemStep (s.bytesWord a bs) := by
  unfold State.bytesWord
  dsimp only
  split
  · exact store ..
  · exact (load ..).trans (store ..)

theorem storeBytesGo (s : State) (fuel a : Nat) (bs : List Byte) : s.MemStep (s.storeBytesGo fuel a bs) := by
  induction fuel generalizing s a bs with
  | zero => exact refl s
  | succ n ih =>
    cases bs with
    | nil => exact refl s
    | cons b bs =>
      rw [State.storeBytesGo_cons]
      exact (bytesWord ..).trans (ih ..)

theorem storeBytes (s : State) (a : Nat) (bs : List Byte) : s.MemStep (s.storeBytes a bs) := storeBytesGo ..

end State.MemStep

/-! What stays while a page's rows are copied -/

/-- `t` has the page maps of `s`, the storage that is to be released, and the stroke. -/
structure State.SamePlacing (s t : State) : Prop where
  maps : t.maps = s.maps
  toRelease : t.toRelease = s.toRelease
  stroke : t.stroke = s.stroke

namespace State.SamePlacing

theorem refl (s : State) : s.SamePlacing s := ⟨rfl, rfl, rfl⟩

theorem trans {s t u : State} (h : s.SamePlacing t) (k : t.SamePlacing u) : s.SamePlacing u :=
  ⟨k.maps.trans h.maps, k.toRelease.trans h.toRelease, k.stroke.trans h.stroke⟩

theorem of_memStep {s t : State} (h : s.MemStep t) : s.SamePlacing t where
  maps := (congrArg State.maps h.rest : t.offAccess.maps = s.offAccess.maps)
  toRelease := (congrArg State.toRelease h.rest : t.offAccess.toRelease = s.offAccess.toRelease)
  stroke := by
    have block : blockOf (Base.device + Reg.strokeCount.off + 0 * Reg.strokeCount.step) = 0 := by decide
    rw [State.stroke, State.get, h.regs _ (by rw [block]; decide) (by rw [block]; decide) (by rw [block]; decide),
      State.stroke, State.get]

theorem draw (s : State) : s.SamePlacing s.draw.2 := ⟨rfl, rfl, rfl⟩

theorem hostPut (s : State) (ctx off : Nat) (ws : List TWord) (m0 m1 : Nat) :
    s.SamePlacing (s.hostPut ctx off ws m0 m1) := ⟨rfl, rfl, rfl⟩

theorem hostBytes (s : State) (ctx fuel off : Nat) (bs : List (Byte × Bool)) :
    s.SamePlacing (s.hostBytes ctx fuel off bs) := by
  induction fuel generalizing s off bs with
  | zero => exact refl s
  | succ n ih =>
    cases bs with
    | nil => exact refl s
    | cons b bs =>
      unfold State.hostBytes
      dsimp only
      exact (hostPut ..).trans (ih ..)

theorem sumsRedo (s : State) (d : Nat) (e : Word × Word) : s.SamePlacing (s.sumsRedo d e) := by
  unfold State.sumsRedo
  dsimp only
  split
  · exact refl s
  · exact trans (of_memStep (.foldl _ _ s fun t k => .storeBytes t ..)) ⟨rfl, rfl, rfl⟩

end State.SamePlacing

/-! One page's way to host memory -/

/-- The page's entry says that it is at tier 2. -/
theorem enTier_withPlace_host (e : Word × Word) (loc epoch : Nat) : enTier (withPlace e 2 loc epoch) = 2 := by
  have word := e.1.isLt
  simp only [enTier, withPlace, bits, BitVec.toNat_ofNat]
  omega

/-- Where a page's rows lie in DDR. -/
def State.rowsInDdr (s : State) (p : Nat × (Word × Word)) : Storage :=
  .bytes (enLoc p.2 * 4096) ((s.pageCfg (p.1 / 65536) (enCtx p.2)).data (enClass p.2))

/-- A page's rows are copied into the host window: the offset there, and the state that the copy leaves. -/
def State.rowsToHost (s : State) (p : Nat × (Word × Word)) : Nat × State :=
  let c := s.pageCfg (p.1 / 65536) (enCtx p.2)
  let (w, t) := (s.sumsRedo (p.1 / 65536) p.2).draw
  let off := w.toNat % 2 ^ 32 * 4096
  let (bs, t) := t.loadBytes (enLoc p.2 * 4096) (c.data (enClass p.2))
  (off, t.hostBytes (enCtx p.2) (bs.length / 4096 + 2) off (bs.map fun b => (b, false)))

theorem State.SamePlacing.rowsToHost (s : State) (p : Nat × (Word × Word)) : s.SamePlacing (s.rowsToHost p).2 :=
  (((sumsRedo s _ p.2).trans (draw _)).trans (of_memStep (.loadBytes ..))).trans (hostBytes ..)

/-- Where a page has summaries, their place in DDR is noted (R219). -/
def State.sumsStay (s : State) (c : PageCfg) (e : Word × Word) : State :=
  if c.summed (enClass e) then s.setSumAt (enHandle e) (enOrd e) (enLoc e * 4096 + c.data (enClass e)) else s

theorem State.SamePlacing.sumsStay (s : State) (c : PageCfg) (e : Word × Word) : s.SamePlacing (s.sumsStay c e) := by
  unfold State.sumsStay
  split <;> exact ⟨rfl, rfl, rfl⟩

theorem State.pageToHost_eq (s : State) (p : Nat × (Word × Word)) : s.pageToHost p =
    let r := s.rowsToHost p
    let t := (r.2.releaseAll [s.rowsInDdr p]).sumsStay (s.pageCfg (p.1 / 65536) (enCtx p.2)) p.2
    t.setMapAt (p.1 / 65536) (p.1 % 65536)
      (withPlace p.2 2 ((hostBase + r.1) / 4096) (t.epochOf (hostBase + r.1)).toNat) := rfl

/-- A page's move to host memory rewrites its entry alone. -/
theorem State.pageToHost_maps (s : State) (p : Nat × (Word × Word)) : ∃ loc epoch,
    (s.pageToHost p).maps = cset (fun _ => (0, 0)) s.maps p.1 (withPlace p.2 2 loc epoch) := by
  rw [State.pageToHost_eq]
  dsimp only
  generalize r : s.rowsToHost p = x
  have copied : s.SamePlacing x.2 := r ▸ .rowsToHost s p
  have stay := State.SamePlacing.sumsStay (x.2.releaseAll [s.rowsInDdr p]) (s.pageCfg (p.1 / 65536) (enCtx p.2)) p.2
  generalize (x.2.releaseAll [s.rowsInDdr p]).sumsStay _ p.2 = t at stay
  have maps : t.maps = s.maps := stay.maps.trans copied.maps
  refine ⟨(hostBase + x.1) / 4096, (t.epochOf (hostBase + x.1)).toNat, ?_⟩
  unfold State.setMapAt
  dsimp only
  rw [maps, Nat.div_add_mod]

/-- It plans the release of the page's rows for two strokes on (R202). -/
theorem State.pageToHost_toRelease (s : State) (p : Nat × (Word × Word)) :
    (s.pageToHost p).toRelease = s.toRelease ++ [(s.stroke + 2, s.rowsInDdr p)] := by
  have copied := State.SamePlacing.rowsToHost s p
  rw [State.pageToHost_eq]
  dsimp only
  rw [State.setMapAt_toRelease, (State.SamePlacing.sumsStay ..).toRelease, State.releaseAll, copied.toRelease,
    copied.stroke]
  rfl

/-! A spill -/

/-- The page of entry `k` is in host memory, and the release of `x` is planned. -/
structure State.Fallen (k : Nat) (x : Nat × Storage) (s : State) : Prop where
  tier : enTier (cget (fun _ => (0, 0)) s.maps k) = 2
  planned : x ∈ s.toRelease

/-- A page's move to host memory makes it so, whatever stood there. -/
theorem State.fallen_pageToHost (s : State) (p : Nat × (Word × Word)) :
    State.Fallen p.1 (s.stroke + 2, s.rowsInDdr p) (s.pageToHost p) := by
  obtain ⟨loc, epoch, maps⟩ := s.pageToHost_maps p
  refine ⟨?_, ?_⟩
  · rw [maps, cget_cset_same, enTier_withPlace_host]
  · rw [State.pageToHost_toRelease]
    exact List.mem_append_right _ (List.mem_singleton.2 rfl)

/-- The moves of other pages keep it so. -/
theorem State.Fallen.pageToHost {k : Nat} {x : Nat × Storage} {s : State} (h : State.Fallen k x s)
    (p : Nat × (Word × Word)) : State.Fallen k x (s.pageToHost p) := by
  obtain ⟨loc, epoch, maps⟩ := s.pageToHost_maps p
  refine ⟨?_, ?_⟩
  · rw [maps]
    by_cases same : k = p.1
    · rw [same, cget_cset_same, enTier_withPlace_host]
    · rw [cget_cset_other _ _ _ same, h.tier]
  · rw [State.pageToHost_toRelease]
    exact List.mem_append_left _ h.planned

theorem State.Fallen.fallHost {k : Nat} {x : Nat × Storage} {s : State} (h : State.Fallen k x s) (ctx low fuel : Nat) :
    State.Fallen k x (s.fallHost ctx low fuel) := by
  induction fuel generalizing s with
  | zero => exact h
  | succ n ih =>
    rw [State.fallHost]
    split
    · exact h
    · split
      · exact ih (h.pageToHost _)
      · exact h

/-- A page to move is listed, so a spill that may move as many pages as are listed moves one. -/
theorem State.maps_of_oldest {s : State} {ctx tier : Nat} {p : Nat × (Word × Word)} (h : s.oldest ctx tier = some p) :
    ∃ n, s.maps.length = n + 1 := by
  cases maps : s.maps with
  | nil =>
    rw [State.oldest, maps] at h
    cases h
  | cons q l => exact ⟨l.length, rfl⟩

/-- A context past its high-water mark in DDR, and not in the host, has its page used longest ago moved to the host. -/
theorem State.fallen_pageSpill {s : State} {ctx : Nat} {p : Nat × (Word × Word)}
    (host : s.hostUse ctx * 100 ≤ s.get (Base.tier 0) Reg.hostHigh ctx * s.hostShare ctx)
    (high : s.get (Base.tier 0) Reg.highPct ctx * s.ddrShare ctx < s.ddrUsed ctx * 100)
    (low : s.get (Base.tier 0) Reg.lowPct ctx * s.ddrShare ctx < s.ddrUsed ctx * 100) (old : s.oldest ctx 1 = some p) :
    State.Fallen p.1 (s.stroke + 2, s.rowsInDdr p) (s.pageSpill ctx) := by
  obtain ⟨n, length⟩ := State.maps_of_oldest old
  unfold State.pageSpill
  dsimp only
  rw [if_neg (Nat.not_lt.2 host), if_pos high, length, State.fallHost, if_neg (Nat.not_le.2 low), old]
  exact (s.fallen_pageToHost p).fallHost ..

theorem exec_pageSpill_given {s : State} {die : DieNo} (ctx : Ctx) (serving : s.serving = true)
    (up : s.isFenced die.val 0xFF = false) : exec (.pageSpill die ctx) s = .next (s.pageSpill ctx.val) :=
  congrArg Host.Outcome.next (if_pos (by rw [serving, up]; rfl))

theorem exec_pageSpill_idle {s : State} {die : DieNo} (ctx : Ctx)
    (idle : s.serving = false ∨ s.isFenced die.val 0xFF = true) : Unchanged (.pageSpill die ctx) s := by
  refine congrArg Host.Outcome.next (if_neg ?_)
  rcases idle with h | h <;> simp [h]

/-- Settles O43: each maintenance command is a report over its writes of entries (`State.mapInsert_placed`,
`State.Keys`, `State.mapReport_entry`), and a page moved to host memory stays there through the moves that follow it
(`State.Fallen`). -/
theorem pageMapMaintenance : Obligations.PageMapMaintenance := by
  unfold Obligations.PageMapMaintenance
  intro s die e i target ctx p
  refine ⟨?_, fun serving host high low old up => ?_, exec_pageSpill_idle ctx⟩
  · rintro up rfl
    refine ⟨fun kind sized absent quota way => ?_, fun there _ => ?_, fun there kind sized => ?_, fun absent sized => ?_⟩
    · refine ⟨_, exec_mapInsert_up up, ?_⟩
      rw [State.mapInsert_placed kind sized absent quota way]
      obtain ⟨entry, others, status, mem⟩ := State.mapReport_entry (State.mapShow_maps ..) (State.mapShow_mem ..)
      exact ⟨entry, others, status, State.mapReport_index .., mem, rfl⟩
    · refine ⟨_, exec_mapInsert_up up, ?_⟩
      rw [State.mapInsert_taken there]
      exact ⟨State.mapReport_maps .., State.mapReport_status ..⟩
    · have keys := State.keys_of_find sized kind there
      refine ⟨⟨_, exec_mapUpdate_up up, ?_⟩, ⟨_, exec_mapRemove_up up, ?_⟩, ⟨_, exec_mapRead_up up, ?_⟩,
        fun free apart => ⟨_, exec_moveTo_up up target, ?_⟩⟩
      · rw [keys.mapUpdate]
        exact State.mapReport_entry rfl rfl
      · rw [keys.mapRemove]
        exact State.mapReport_entry (State.mapShow_maps ..) (State.mapShow_mem ..)
      · obtain ⟨first, second⟩ := keys.mapRead_shows
        exact ⟨first, second, keys.mapRead_maps, by rw [keys.mapRead, State.mapReport_status]; rfl⟩
      · obtain ⟨new, old, rest⟩ := keys.moveTo_entries free apart
        exact ⟨new, old, rest, by rw [keys.moveTo free, State.mapReport_status]; rfl⟩
    · have report := State.mapOn_absent sized absent
      refine ⟨State.mapReport (Status.notResident, 0, s) die.val, ?_, ?_, ?_, ?_, State.mapReport_maps ..,
        State.mapReport_status ..⟩
      · rw [exec_mapUpdate_up up, State.mapUpdate, report]
      · rw [exec_mapRemove_up up, State.mapRemove, report]
      · rw [exec_mapRead_up up, State.mapRead, report]
      · rw [exec_moveTo_up up, State.moveTo, report]
  · obtain ⟨tier, planned⟩ := State.fallen_pageSpill host high low old
    exact ⟨_, exec_pageSpill_given ctx serving up, tier, planned⟩

end Sys2Proof.Machine
end

section
/-! PROOFS. What shows of the flash's targets and space, and the events of its objects and targets (R254, R256, R259), and
O45. -/

namespace Sys2Proof.Machine

/-! States that differ in registers alone -/

theorem SameRest.refl (s : State) : SameRest s s := Eq.refl _

theorem SameRest.trans {s t u : State} (h : SameRest s t) (k : SameRest t u) : SameRest s u := Eq.trans k h

/-- What reads no register is the same in both. -/
theorem SameRest.read {α : Type} {s t : State} (h : SameRest s t) (f : State → α)
    (off : ∀ x : State, f { x with regs := [] } = f x) : f t = f s := by
  rw [← off t, ← off s]
  exact congrArg f h

/-- Both states with another content of the flash. -/
theorem SameRest.withFlash {s t : State} (h : SameRest s t) (x : Flash) :
    SameRest { s with flash := x } { t with flash := x } := by
  have same := congrArg (fun y : State => { y with flash := x }) h
  exact same

/-! The targets and the space as shown (Tables 07.16, 12.10, R42) -/

/-- `t` differs from `s` in registers alone, and in the FLASH blocks (R35) in none beyond the first two, which show the
targets and the space. -/
structure State.SpaceShown (s t : State) : Prop where
  rest : SameRest s t
  regs : ∀ a, blockOf a = 0x12 → 0x10 ≤ a % 0x10000 → t.reg a = s.reg a

namespace State.SpaceShown

theorem refl (s : State) : s.SpaceShown s := ⟨SameRest.refl s, fun _ _ _ => rfl⟩

theorem trans {s t u : State} (h : s.SpaceShown t) (k : t.SpaceShown u) : s.SpaceShown u :=
  ⟨h.rest.trans k.rest, fun a block beyond => (k.regs a block beyond).trans (h.regs a block beyond)⟩

theorem put (s : State) {b : Nat} {f : Fld} (v : Nat) {i : Nat}
    (h : blockOf (b + f.off + i * f.step) ≠ 0x12 ∨ (b + f.off + i * f.step) % 0x10000 < 0x10) :
    s.SpaceShown (s.put b f v i) := by
  refine ⟨s.sameRest_put b f v i, fun a block beyond => State.reg_put_other s b f v i ?_⟩
  rintro rfl
  rcases h with other | low
  · exact other block
  · omega

/-- A field of the first two registers of a FLASH block. -/
theorem putSpace (s : State) (p : Nat) {f : Fld} (v : Nat) (h : f.off + 0 * f.step < 0x10) :
    s.SpaceShown (s.put (Base.flash p) f v) := by
  refine put s v (.inr ?_)
  simp only [Base.flash, csr]
  omega

theorem flashShow (s : State) : s.SpaceShown s.flashShow := by
  have present (t : State) (p v : Nat) : t.SpaceShown (t.put (Base.hubId p) Reg.flashPresent v) := by
    refine put t v (.inl ?_)
    simp only [blockOf, Base.hubId, csr, Reg.flashPresent]
    omega
  have used (t : State) {c : Nat} (v : Nat) (hc : c < 16) : t.SpaceShown (t.put Base.contexts Reg.cxFlashUsed v c) := by
    refine put t v (.inl ?_)
    simp only [blockOf, Base.contexts, csr, Reg.cxFlashUsed]
    omega
  unfold State.flashShow
  refine foldl_keeps s.SpaceShown _ _ _ (foldl_keeps s.SpaceShown _ _ _ (refl s) fun t p _ shown => ?_)
    fun t c hc shown => shown.trans (used t _ (List.mem_range.1 hc))
  exact (((((shown.trans (present ..)).trans (putSpace _ p _ (by decide))).trans (putSpace _ p _ (by decide))).trans
    (putSpace _ p _ (by decide))).trans (putSpace _ p _ (by decide))).trans (putSpace _ p _ (by decide))

/-- The counters of a FLASH block stand beyond the registers that show the space. -/
theorem get {s t : State} (h : s.SpaceShown t) (p : Nat) {f : Fld}
    (hf : 0x10 ≤ f.off + 0 * f.step ∧ f.off + 0 * f.step < 0x10000) :
    t.get (Base.flash p) f = s.get (Base.flash p) f := by
  obtain ⟨beyond, within⟩ := hf
  rw [State.get, h.regs, State.get]
  all_goals
    simp only [blockOf, Base.flash, csr]
    omega

theorem flash {s t : State} (h : s.SpaceShown t) : t.flash = s.flash := h.rest.read State.flash fun _ => rfl

theorem faults {s t : State} (h : s.SpaceShown t) : t.faults = s.faults := h.rest.read State.faults fun _ => rfl

theorem mem {s t : State} (h : s.SpaceShown t) : t.mem = s.mem := h.rest.read State.mem fun _ => rfl

theorem units {s t : State} (h : s.SpaceShown t) : t.units = s.units := h.rest.read State.units fun _ => rfl

end State.SpaceShown

/-! One object of the flash -/

theorem State.obj_congr {s t : State} (h : t.flash = s.flash) (n : Nat) : t.obj n = s.obj n := by
  rw [State.obj, h, State.obj]

theorem State.num_of_obj {s : State} {n : Nat} {o : FlObj} (there : s.obj n = some o) : o.num = n :=
  eq_of_beq (List.find?_some (p := fun o : FlObj => o.num == n) there)

/-- An object of the list in place of the one with its number. -/
def FlObj.swap (o x : FlObj) : FlObj := if x.num == o.num then o else x

theorem FlObj.swap_num (o x : FlObj) : (o.swap x).num = x.num := by
  unfold FlObj.swap
  split
  · exact (eq_of_beq ‹_›).symm
  · rfl

theorem State.setObj_objects (s : State) (o : FlObj) : (s.setObj o).flash.objects = s.flash.objects.map o.swap := rfl

/-- The object that is set is the one found under its number. -/
theorem State.obj_setObj {s : State} {n : Nat} {o o' : FlObj} (there : s.obj n = some o) (num : o'.num = n) :
    (s.setObj o').obj n = some o' := by
  have same : ((fun x : FlObj => x.num == n) ∘ o'.swap) = fun x : FlObj => x.num == n :=
    funext fun x => by simp only [Function.comp_apply, FlObj.swap_num]
  have found : o'.swap o = o' := if_pos (by simp [State.num_of_obj there, num])
  rw [State.obj] at there
  rw [State.obj, State.setObj_objects, List.find?_map, same, there, Option.map_some, found]

/-- Every object of another number is left as it was. -/
theorem State.setObj_others (s : State) (o : FlObj) :
    (s.setObj o).flash.objects.filter (·.num != o.num) = s.flash.objects.filter (·.num != o.num) := by
  have same : ((fun x : FlObj => x.num != o.num) ∘ o.swap) = fun x : FlObj => x.num != o.num :=
    funext fun x => by simp only [Function.comp_apply, FlObj.swap_num]
  have kept : ∀ x ∈ s.flash.objects.filter (·.num != o.num), o.swap x = id x := fun x hx =>
    if_neg (by simpa using (List.mem_filter.1 hx).2)
  rw [State.setObj_objects, List.filter_map, same, List.map_congr_left kept, List.map_id]

/-! The events -/

/-- An object expires: it is marked, counted, and the space shown again. -/
def State.expired (s : State) (p : Nat) (o : FlObj) : State :=
  (s.setObj { o with state := 3 }).count (Base.flash p) Reg.flExpired

theorem State.expired_flash (s : State) (p : Nat) (o : FlObj) :
    (s.expired p o).flash = (s.setObj { o with state := 3 }).flash := State.count_flash ..

theorem State.expired_mem (s : State) (p : Nat) (o : FlObj) : (s.expired p o).mem = s.mem :=
  (State.count_mem (s.setObj { o with state := 3 }) ..).trans rfl

theorem State.expired_counts (s : State) (p : Nat) (o : FlObj) : (s.expired p o).get (Base.flash p) Reg.flExpired =
    min (s.get (Base.flash p) Reg.flExpired + 1) (2 ^ Reg.flExpired.w - 1) := by
  have regs : (s.setObj { o with state := 3 }).regs = s.regs := rfl
  rw [State.expired, State.get_count_same _ _ _ _ _ (by decide), State.get_of_regs regs]

theorem exec_objectExpiry_due {s : State} {pd : Pd} {num : Nat} {o : FlObj} (serving : s.serving = true)
    (up : s.pdUp pd.val = true) (there : s.obj num = some o) (kept : o.state = 2) (limited : o.ttl ≠ 0)
    (out : s.ttlLeft o = 0) : exec (.objectExpiry pd num) s = .next (s.expired pd.val o).flashShow := by
  have due : s.objNow o = 3 := if_pos ⟨kept, limited, out⟩
  change Host.Outcome.next (s.objExpire pd.val num) = _
  simp [State.objExpire, there, serving, up, kept, due, State.expired]

theorem objectExpiry_expires {s : State} {pd : Pd} {num : Nat} {o : FlObj} (serving : s.serving = true)
    (up : s.pdUp pd.val = true) (there : s.obj num = some o) (kept : o.state = 2) (limited : o.ttl ≠ 0)
    (out : s.ttlLeft o = 0) :
    ∃ t, exec (.objectExpiry pd num) s = .next t ∧ t.obj num = some { o with state := 3 } ∧
      t.flash.objects.filter (·.num != num) = s.flash.objects.filter (·.num != num) ∧
      t.get (Base.flash pd.val) Reg.flExpired =
        min (s.get (Base.flash pd.val) Reg.flExpired + 1) (2 ^ Reg.flExpired.w - 1) ∧ t.mem = s.mem := by
  have shown := State.SpaceShown.flashShow (s.expired pd.val o)
  have own := State.num_of_obj there
  have flash := shown.flash.trans (s.expired_flash pd.val o)
  refine ⟨_, exec_objectExpiry_due serving up there kept limited out, ?_, ?_, ?_, shown.mem.trans (s.expired_mem ..)⟩
  · rw [State.obj_congr flash]
    exact State.obj_setObj there own
  · rw [flash, ← own]
    exact s.setObj_others { o with state := 3 }
  · rw [shown.get _ (by decide), State.expired_counts]

theorem objectExpiry_notSealed {s : State} {num : Nat} {o : FlObj} (pd : Pd)
    (h : s.obj num = none ∨ (s.obj num = some o ∧ o.state ≠ 2)) : Unchanged (.objectExpiry pd num) s := by
  change Host.Outcome.next (s.objExpire pd.val num) = _
  rcases h with absent | ⟨there, other⟩
  · simp [State.objExpire, absent]
  · simp [State.objExpire, there, other]

/-- A block of a target is reclaimed: it is counted, and the block erased. -/
def State.reclaimed (s : State) (p t : Nat) : State := (s.count (Base.flash p) Reg.readReclaims).erased (32 * p + t) 1

theorem State.reclaimed_counts (s : State) (p t : Nat) : (s.reclaimed p t).get (Base.flash p) Reg.readReclaims =
    min (s.get (Base.flash p) Reg.readReclaims + 1) (2 ^ Reg.readReclaims.w - 1) := by
  have regs : (s.reclaimed p t).regs = (s.count (Base.flash p) Reg.readReclaims).regs := rfl
  rw [State.get_of_regs regs, State.get_count_same _ _ _ _ _ (by decide)]

theorem State.reclaimed_flash (s : State) (p t : Nat) : (s.reclaimed p t).flash = (s.erased (32 * p + t) 1).flash := by
  rw [State.reclaimed, State.erased, State.count_flash, State.erased]

/-- Beside the count, reclaiming changes the flash alone. -/
theorem State.reclaimed_rest (s : State) (p t : Nat) :
    SameRest { s with flash := (s.reclaimed p t).flash } (s.reclaimed p t) :=
  (s.sameRest_put (Base.flash p) Reg.readReclaims _ 0).withFlash (s.reclaimed p t).flash

theorem readReclaim_reclaims {s : State} {pd : Pd} {target : Fin 32} (block : Nat) (serving : s.serving = true)
    (up : s.pdUp pd.val = true) (there : s.targetUp (32 * pd.val + target.val) = true) :
    ∃ t, exec (.readReclaim pd target block) s = .next t ∧
      t.get (Base.flash pd.val) Reg.readReclaims =
        min (s.get (Base.flash pd.val) Reg.readReclaims + 1) (2 ^ Reg.readReclaims.w - 1) ∧
      t.flash = { s.flash with
        erases := cset (fun _ => 0) s.flash.erases (32 * pd.val + target.val)
          (cget (fun _ => 0) s.flash.erases (32 * pd.val + target.val) + 1) } ∧
      SameRest { s with flash := t.flash } t := by
  have shown := State.SpaceShown.flashShow (s.reclaimed pd.val target.val)
  have run : exec (.readReclaim pd target block) s = .next (s.reclaimed pd.val target.val).flashShow := by
    change Host.Outcome.next (s.readReclaim pd.val target.val) = _
    simp [State.readReclaim, serving, up, there, State.reclaimed]
  refine ⟨_, run, ?_, shown.flash.trans (s.reclaimed_flash ..), ?_⟩
  · rw [shown.get _ (by decide), State.reclaimed_counts]
  · rw [shown.flash]
    exact (s.reclaimed_rest ..).trans shown.rest

/-- A target's failure is logged, and the target is to be fenced. -/
def State.targetNoted (s : State) (p t : Nat) : State :=
  (s.log (0x10 + p) 0 none 0x0D t 0).quarantine (uid (0x10 + p) (0x20 + t)) 0x0D t 0

theorem State.targetNoted_flash (s : State) (p t : Nat) : (s.targetNoted p t).flash = s.flash :=
  have step := (State.MemStep.log s (0x10 + p) 0 none 0x0D t 0).trans (State.MemStep.quarantine ..)
  (congrArg State.flash step.rest : (s.targetNoted p t).offAccess.flash = s.offAccess.flash)

theorem State.targetNoted_toFence {s : State} {p t : Nat} (stands : s.goneUnit (uid (0x10 + p) (0x20 + t)) = false) :
    (uid (0x10 + p) (0x20 + t), 0x0D, t, 0) ∈ (s.targetNoted p t).faults.toFence := by
  have logged := State.faults_of_contents (s.log_contents (0x10 + p) 0 none 0x0D t 0)
  exact State.quarantine_toFence _ _ _ _
    ((State.goneUnit_congr (by rw [logged]) (by rw [logged]) _).trans stands)

theorem State.targetNoted_units (s : State) (p t : Nat) : (s.targetNoted p t).units = s.units :=
  (State.quarantine_units ..).trans (State.units_of_contents (State.log_contents ..))

theorem State.targetNoted_mem (s : State) (p t : Nat) : (s.targetNoted p t).mem = s.mem :=
  (State.quarantine_mem ..).trans (State.log_mem ..)

theorem State.targetFail_up {s : State} {p t : Nat} (up : s.pdUp p = true) (there : s.targetUp (32 * p + t) = true) :
    s.targetFail p t = (s.targetNoted p t).flashLost (· == 32 * p + t) := by
  rw [State.targetFail, up, there]
  rfl

/-- Losing what stands on some targets marks the objects that have not expired, and shows the space again. -/
theorem State.flashLost_keeps (s : State) (gone : Nat → Bool) :
    (s.flashLost gone).faults = s.faults ∧ (s.flashLost gone).mem = s.mem ∧ (s.flashLost gone).units = s.units ∧
      (s.flashLost gone).flash.objects = s.flash.objects.map (fun (o : FlObj) =>
        if o.state ≠ 3 ∧ o.targets.any gone = true then { o with state := 4 } else o) := by
  unfold State.flashLost
  have shown := State.SpaceShown.flashShow
  exact ⟨(shown _).faults, (shown _).mem, (shown _).units, congrArg Flash.objects (shown _).flash⟩

theorem flashTargetFail_fences {s : State} {pd : Pd} {target : Fin 32} (up : s.pdUp pd.val = true)
    (there : s.targetUp (32 * pd.val + target.val) = true)
    (stands : s.goneUnit (uid (0x10 + pd.val) (0x20 + target.val)) = false) :
    ∃ t, exec (.flashTargetFail pd target) s = .next t ∧
      (uid (0x10 + pd.val) (0x20 + target.val), 0x0D, target.val, 0) ∈ t.faults.toFence ∧
      t.flash.objects = s.flash.objects.map (fun (o : FlObj) =>
        if o.state ≠ 3 ∧ (32 * pd.val + target.val) ∈ o.targets then { o with state := 4 } else o) ∧
      t.mem = s.mem ∧ t.units = s.units := by
  have run : exec (.flashTargetFail pd target) s = .next (s.targetFail pd.val target.val) := rfl
  rw [State.targetFail_up up there] at run
  obtain ⟨faults, mem, units, objects⟩ :=
    (s.targetNoted pd.val target.val).flashLost_keeps (· == 32 * pd.val + target.val)
  refine ⟨_, run, ?_, ?_, mem.trans (s.targetNoted_mem ..), units.trans (s.targetNoted_units ..)⟩
  · rw [faults]
    exact State.targetNoted_toFence stands
  · rw [objects, State.targetNoted_flash]
    simp only [List.any_beq', List.contains_iff_mem]

theorem flashTargetFail_out {s : State} (pd : Pd) (target : Fin 32)
    (h : s.pdUp pd.val = false ∨ s.targetUp (32 * pd.val + target.val) = false) :
    Unchanged (.flashTargetFail pd target) s := by
  change Host.Outcome.next (s.targetFail pd.val target.val) = _
  rcases h with down | out
  · simp [State.targetFail, down]
  · simp [State.targetFail, out]

/-- Settles O45: each event marks, counts or fences what it names, and showing the space again changes registers
alone. -/
theorem flashEvents : Obligations.FlashEvents := by
  intro s pd num block target o
  exact ⟨objectExpiry_expires, objectExpiry_notSealed pd, readReclaim_reclaims block, flashTargetFail_fences,
    flashTargetFail_out pd target⟩

end Sys2Proof.Machine
end

section
/-! PROOFS. Accesses to the host window, late requests, and the patrol scrub (R229, R260, R461, R465, R466, R468), and
O40. -/

namespace Sys2Proof.Machine

/-! A word for the host window (R461) -/

/-- The host window's part of the address map (R33). -/
theorem placeOf_host {a : Nat} (h : placeOf a = .host) : hostBase ≤ a ∧ a < 0x300000000000 := by
  unfold placeOf at h
  dsimp only at h
  unfold hostBase
  split at h
  · cases h
  · split at h
    · split at h <;> cases h
    · split at h
      · assumption
      · split at h <;> cases h

/-- An aligned word lies within one 4 KiB block. -/
theorem hostPieces_word {off : Nat} (aligned : off % 8 = 0) : hostPieces 2 off 1 = [(off, 1)] := by
  have whole : min 1 ((4096 - off % 4096) / 8) = 1 := by omega
  simp only [hostPieces, whole]
  rfl

theorem getD_setAt {α : Type} {l : List α} {i : Nat} (h : i < l.length) (v d : α) : (setAt l i v).getD i d = v := by
  induction l generalizing i with
  | nil => exact absurd h (Nat.not_lt_zero i)
  | cons a l ih =>
    cases i with
    | zero => rfl
    | succ i => exact ih (Nat.lt_of_succ_lt_succ h)

/-- The message of a write to the window. -/
def State.hostMsg (s : State) (ctx off : Nat) (ws : List TWord) (m0 m1 : Nat) : UmMsg :=
  let e := s.region (off / 2 ^ 26)
  let dec := ws.map fun w => if rgGuard e then eccDecode w.d w.c else (w.d, w.c, Ecc.clean)
  let bad := dec.map fun x => decide (x.2.2 = .bad)
  { umBare 0x01 s.um.mtag ctx off (word (m0 + m1 * 256)) with
    dlen := BitVec.ofNat 13 (8 * ws.length), poisoned := rgGuard e && bad.any id,
    etag := if rgGuard e then s.epochOf (hostBase + off) else 0, data := dec.map (·.1), poison := bad }

/-- A message that is posted takes the next tag, is kept under it, and is queued as the last of its class. -/
def State.umPosted (s : State) (m : UmMsg) : Umajo :=
  { s.um with
    mtag := (s.um.mtag + 1) % 65536, writes := cset (fun _ => none) s.um.writes s.um.mtag (some (m, false, s.stroke)),
    stamp := s.um.stamp + 1, out := setAt s.um.out 0 (s.um.out.getD 0 [] ++ [(s.um.stamp, m)]) }

theorem State.umPosted_writes (s : State) (m : UmMsg) :
    cget (fun _ => none) (s.umPosted m).writes s.um.mtag = some (m, false, s.stroke) := by
  rw [State.umPosted, cget_cset_same]

theorem State.hostPut_eq (s : State) (ctx off : Nat) (ws : List TWord) (m0 m1 : Nat) :
    s.hostPut ctx off ws m0 m1 = { s with um := s.umPosted (s.hostMsg ctx off ws m0 m1) } := rfl

/-- A well-formed word is sent as it is, be its region guarded or not. -/
theorem State.hostMsg_word (s : State) (ctx off : Nat) (w : Word) (m0 m1 : Nat) :
    (s.hostMsg ctx off [{ d := w, c := secded w }] m0 m1).data = [w] := by
  simp only [State.hostMsg, List.map_cons, List.map_nil, eccDecode_secded, ite_self]

theorem State.hostMsg_mtype (s : State) (ctx off : Nat) (ws : List TWord) (m0 m1 : Nat) :
    (s.hostMsg ctx off ws m0 m1).mtype = 0x01 := rfl

theorem State.hostMsg_addr (s : State) (ctx : Nat) {off : Nat} (fits : off < 2 ^ 48) (ws : List TWord) (m0 m1 : Nat) :
    (s.hostMsg ctx off ws m0 m1).addr.toNat = off := Nat.mod_eq_of_lt fits

section
variable {s : State} {acc : Access} {a : Nat}

theorem exec_hostWindow (awake : s.awake = true) (addr : acc.addr.toNat / 8 * 8 = a) (place : placeOf a = .host) :
    exec (.hostWindowRequest acc) s = .next (s.hostAccess acc) := by
  change execHostWindowRequest acc s = _
  simp [execHostWindowRequest, awake, addr, place]

/-- A write takes its lines out of the writing core's cache (R247). -/
def State.hostDrop (s : State) (who : Requester) (off n : Nat) : State :=
  match who with
  | .core d c _ => (List.range (ceilDiv (off % 128 + 8 * n) 128)).foldl (fun (s : State) i =>
      s.cacheDrop d.val c.val (hostBase + off + 128 * i)) s
  | _ => s

theorem State.hostDrop_keeps (s : State) (who : Requester) (off n : Nat) :
    (s.hostDrop who off n).um = s.um ∧ (s.hostDrop who off n).mem = s.mem := by
  cases who with
  | core d c x =>
    exact foldl_keeps (fun t : State => t.um = s.um ∧ t.mem = s.mem) _ _ _ ⟨rfl, rfl⟩ fun t i _ kept =>
      ⟨(State.setCore_um ..).trans kept.1, (State.setCore_mem ..).trans kept.2⟩
  | control n => exact ⟨rfl, rfl⟩
  | engine d x => exact ⟨rfl, rfl⟩

/-- An allowed write of one word. -/
theorem State.hostAccess_write {w : TWord} {off : Nat} (place : acc.addr.toNat / 8 * 8 - hostBase = off)
    (aligned : off % 8 = 0) (allowed : s.winStatus (reqCtx acc.who) off = Status.ok) (write : acc.write = some [w]) :
    s.hostAccess acc =
      ((s.hostPut ((reqCtx acc.who).getD 0) off [w] 0xFF 0xFF).hostDrop acc.who off 1).reply Status.ok := by
  unfold State.hostAccess
  dsimp only
  rw [place, if_neg (not_not_intro allowed), write]
  dsimp only [List.length_cons, List.length_nil]
  rw [hostPieces_word aligned]
  simp only [List.foldl_cons, List.foldl_nil, Nat.sub_self, Nat.zero_div, List.drop_zero,
    List.take_succ_cons, List.take_zero]
  rfl

/-- An allowed read of one word. -/
theorem State.hostAccess_read {off : Nat} (place : acc.addr.toNat / 8 * 8 - hostBase = off) (aligned : off % 8 = 0)
    (allowed : s.winStatus (reqCtx acc.who) off = Status.ok) (write : acc.write = none) (one : acc.words = 1) :
    s.hostAccess acc = (s.hostRead ((reqCtx acc.who).getD 0) off 8 .access).reply Status.ok := by
  unfold State.hostAccess
  dsimp only
  rw [place, if_neg (not_not_intro allowed), write, one, hostPieces_word aligned]
  simp only [List.foldl_cons, List.foldl_nil, Nat.mul_one]

theorem State.hostAccess_refused {off : Nat} (place : acc.addr.toNat / 8 * 8 - hostBase = off)
    (refused : s.winStatus (reqCtx acc.who) off ≠ Status.ok) :
    s.hostAccess acc = s.accessDone acc (s.winStatus (reqCtx acc.who) off) 0 := by
  unfold State.hostAccess
  dsimp only
  rw [place, if_pos refused]

end

/-! Read slots (R465) -/

/-- The lowest slot that is not busy. -/
def State.lowestFree (s : State) : Option Nat := (List.range 1024).find? fun i => !(s.slot i).busy

/-- A slot's read as it is taken. -/
def RdSlot.taken (x : RdSlot) (gen : Nat) : RdSlot := { x with gen := (gen + 1) % 64, busy := true }

theorem State.hostGet_takes {s : State} {k : Nat} (free : s.lowestFree = some k) (x : RdSlot) :
    s.hostGet x = (s.setSlot k (x.taken (s.slot k).gen)).umSend (slotRead k (x.taken (s.slot k).gen)) := by
  unfold State.hostGet
  split
  · next taken => exact absurd (free.symm.trans taken) (Option.some_ne_none k)
  · next i found =>
    obtain rfl := Option.some.inj (free.symm.trans found)
    rfl

theorem State.hostGet_waits {s : State} (busy : ∀ n, n < 1024 → (s.slot n).busy = true) (x : RdSlot) :
    s.hostGet x = { s with um := { s.um with rdWait := s.um.rdWait ++ [x] } } := by
  have full : s.lowestFree = none := List.find?_eq_none.2 fun n hn => by simp [busy n (List.mem_range.1 hn)]
  unfold State.hostGet
  split
  · rfl
  · next i found => exact absurd (full.symm.trans found) (Option.some_ne_none i).symm

theorem State.slot_umSend (s : State) (m : UmMsg) (n : Nat) : (s.umSend m).slot n = s.slot n := rfl

theorem State.umSend_mem (s : State) (m : UmMsg) : (s.umSend m).mem = s.mem := rfl

theorem State.slot_reply (s : State) (st : Nat) (d : Word) (n : Nat) : (s.reply st d).slot n = s.slot n := rfl

/-- A read that finds a free slot takes the lowest and sends its request. -/
theorem State.hostRead_takes {s : State} {k : Nat} (free : s.lowestFree = some k) (ctx off bytes : Nat)
    (owner : RdOwner) :
    ∃ x m, s.hostRead ctx off bytes owner = (s.setSlot k x).umSend m ∧ x.busy = true ∧ x.addr = off ∧ x.bytes = bytes ∧
      x.owner = owner ∧ x.began = s.stroke ∧ x.gen = ((s.slot k).gen + 1) % 64 :=
  ⟨_, _, State.hostGet_takes free _, rfl, rfl, rfl, rfl, rfl, rfl⟩

theorem sharePick_nil (grants : List Nat) (turn : Nat) (share qos : Nat → Nat) :
    sharePick grants turn share qos [] = none := rfl

/-- Where no read waits, a slot that is given back stays free. -/
theorem State.slotFree_idle {s : State} (idle : s.um.rdWait = []) (i : Nat) :
    s.slotFree i = s.setSlot i { RdSlot.free with gen := (s.slot i).gen } := by
  have wait : (s.setSlot i { RdSlot.free with gen := (s.slot i).gen }).um.rdWait = [] := idle
  unfold State.slotFree
  dsimp only
  rw [wait, List.map_nil, List.eraseDups_nil, sharePick_nil]

/-! The host-window commands -/

section
variable {s : State} {acc : Access} {a : Nat} (awake : s.awake = true) (addr : acc.addr.toNat / 8 * 8 = a)
  (place : placeOf a = .host)
include awake addr place

theorem hostWindow_writes {w : Word} (allowed : s.winStatus (reqCtx acc.who) (a - hostBase) = Status.ok)
    (write : acc.write = some [{ d := w, c := secded w }]) (queues : 0 < s.um.out.length) :
    ∃ t m, exec (.hostWindowRequest acc) s = .next t ∧ t.answer = ⟨0, 0, []⟩ ∧
      t.um.mtag = (s.um.mtag + 1) % 65536 ∧ cget (fun _ => none) t.um.writes s.um.mtag = some (m, false, s.stroke) ∧
      m.mtype = 0x01 ∧ m.addr.toNat = a - hostBase ∧ m.data = [w] ∧
      t.um.out.getD (umClass 1) [] = s.um.out.getD (umClass 1) [] ++ [(s.um.stamp, m)] ∧ t.mem = s.mem := by
  obtain ⟨low, high⟩ := placeOf_host place
  have aligned : (a - hostBase) % 8 = 0 := by unfold hostBase at *; omega
  have fits : a - hostBase < 2 ^ 48 := by unfold hostBase; omega
  have run := exec_hostWindow awake addr place
  rw [State.hostAccess_write (congrArg (· - hostBase) addr) aligned allowed write, State.hostPut_eq] at run
  generalize msg : s.hostMsg ((reqCtx acc.who).getD 0) (a - hostBase) [{ d := w, c := secded w }] 0xFF 0xFF = m at run
  obtain ⟨um, mem⟩ := State.hostDrop_keeps { s with um := s.umPosted m } acc.who (a - hostBase) 1
  refine ⟨_, m, run, rfl, ?_, ?_, ?_, ?_, ?_, ?_, (State.reply_mem ..).trans mem⟩
  · rw [State.reply_um, um]
    rfl
  · rw [State.reply_um, um]
    exact s.umPosted_writes m
  · rw [← msg, State.hostMsg_mtype]
  · rw [← msg, State.hostMsg_addr _ _ fits]
  · rw [← msg, State.hostMsg_word]
  · rw [State.reply_um, um]
    exact getD_setAt queues _ _

theorem hostWindow_reads (allowed : s.winStatus (reqCtx acc.who) (a - hostBase) = Status.ok) (write : acc.write = none)
    (one : acc.words = 1) : exec (.hostWindowRequest acc) s =
      .next ((s.hostRead ((reqCtx acc.who).getD 0) (a - hostBase) 8 .access).reply Status.ok) := by
  obtain ⟨low, high⟩ := placeOf_host place
  have aligned : (a - hostBase) % 8 = 0 := by unfold hostBase at *; omega
  rw [exec_hostWindow awake addr place, State.hostAccess_read (congrArg (· - hostBase) addr) aligned allowed write one]

theorem hostWindow_takesSlot (allowed : s.winStatus (reqCtx acc.who) (a - hostBase) = Status.ok)
    (write : acc.write = none) (one : acc.words = 1) {k : Nat} (free : s.lowestFree = some k) :
    ∃ t, exec (.hostWindowRequest acc) s = .next t ∧ t.answer = ⟨0, 0, []⟩ ∧ (t.slot k).busy = true ∧
      (t.slot k).addr = a - hostBase ∧ (t.slot k).bytes = 8 ∧ (t.slot k).owner = .access ∧ (t.slot k).began = s.stroke ∧
      (t.slot k).gen = ((s.slot k).gen + 1) % 64 ∧ (∀ n, n ≠ k → t.slot n = s.slot n) ∧ t.mem = s.mem := by
  have run := hostWindow_reads awake addr place allowed write one
  obtain ⟨x, m, taken, slot⟩ := State.hostRead_takes free ((reqCtx acc.who).getD 0) (a - hostBase) 8 .access
  obtain ⟨busy, offset, bytes, owner, began, gen⟩ := slot
  rw [taken] at run
  have slots (n : Nat) : (((s.setSlot k x).umSend m).reply Status.ok).slot n = (s.setSlot k x).slot n := by
    rw [State.slot_reply, State.slot_umSend]
  have here := (slots k).trans (s.slot_setSlot k x)
  refine ⟨_, run, rfl, ?_, ?_, ?_, ?_, ?_, ?_, fun n other => (slots n).trans (s.slot_setSlot_other k x other), ?_⟩
  · rw [here, busy]
  · rw [here, offset]
  · rw [here, bytes]
  · rw [here, owner]
  · rw [here, began]
  · rw [here, gen]
  · rw [State.reply_mem, State.umSend_mem, State.setSlot_mem]

theorem hostWindow_waits (allowed : s.winStatus (reqCtx acc.who) (a - hostBase) = Status.ok)
    (write : acc.write = none) (one : acc.words = 1) (busy : ∀ n, n < 1024 → (s.slot n).busy = true) :
    ∃ t, exec (.hostWindowRequest acc) s = .next t ∧
      t.um.rdWait.length = s.um.rdWait.length + 1 ∧ t.um.slots = s.um.slots ∧ t.um.out = s.um.out := by
  have run := hostWindow_reads awake addr place allowed write one
  rw [State.hostRead, State.hostGet_waits busy] at run
  exact ⟨_, run, List.length_append, rfl, rfl⟩

theorem hostWindow_refuses (plain : acc.runahead = false)
    (refused : s.winStatus (reqCtx acc.who) (a - hostBase) ≠ Status.ok) :
    ∃ t, exec (.hostWindowRequest acc) s = .next t ∧
      t.answer = ⟨BitVec.ofNat 8 (s.winStatus (reqCtx acc.who) (a - hostBase)), 0, []⟩ ∧ t.um = s.um ∧
      t.mem = s.mem := by
  have run := exec_hostWindow awake addr place
  have same := s.accessDone_contents (acc := acc) (s.winStatus (reqCtx acc.who) (a - hostBase)) 0
  rw [State.hostAccess_refused (congrArg (· - hostBase) addr) refused] at run
  refine ⟨_, run, ?_, State.um_of_contents same, State.mem_of_contents same⟩
  rw [State.accessDone_notOk addr plain refused]
  rfl

end

/-! Late requests (R260, R262) -/

theorem exec_tierDeadline {s : State} (serving : s.serving = true) (late : LateReq) :
    exec (.tierDeadline late) s = .next (s.tierLate late) := by
  change execTierDeadline late s = _
  rw [execTierDeadline, if_pos serving]

theorem tierDeadline_request {s : State} (tier : Tier) {h : W32} (serving : s.serving = true)
    (there : (s.reqOf h.toNat).isSome = true) :
    exec (.tierDeadline (.request h tier)) s = .next ((s.lateCount tier 0).handleFail h.toNat Status.tierFail) := by
  rw [exec_tierDeadline serving, State.tierLate, if_pos there]

theorem State.lateCount_um (s : State) (t : Tier) (p : Nat) : (s.lateCount t p).um = s.um := State.count_um ..

theorem State.lateCount_mem (s : State) (t : Tier) (p : Nat) : (s.lateCount t p).mem = s.mem := State.count_mem ..

/-- A plain access that is late gives its slot back and answers TIER_FAIL. -/
theorem State.slotFail_access {s : State} {i : Nat} (busy : (s.slot i).busy = true) (plain : (s.slot i).owner = .access)
    (idle : s.um.rdWait = []) (st : Nat) :
    s.slotFail i st = (s.setSlot i { RdSlot.free with gen := (s.slot i).gen }).reply st := by
  rw [State.slotFail, if_neg (by simp [busy]), plain, State.slotFree_idle idle, State.readFail]

theorem tierDeadline_hostRead {s : State} {i : Fin 1024} (serving : s.serving = true)
    (busy : (s.slot i.val).busy = true) (plain : (s.slot i.val).owner = .access) (idle : s.um.rdWait = [])
    (late : (s.slot i.val).began + 8 < s.stroke) :
    ∃ t, exec (.tierDeadline (.hostRead i)) s = .next t ∧ t.get (Base.tier 0) Reg.hostLate =
        min (s.get (Base.tier 0) Reg.hostLate + 1) (2 ^ Reg.hostLate.w - 1) ∧
      t.slot i.val = { RdSlot.free with gen := (s.slot i.val).gen } ∧
      (∀ n, n ≠ i.val → t.slot n = s.slot n) ∧ t.answer = ⟨BitVec.ofNat 8 Status.tierFail, 0, []⟩ ∧ t.mem = s.mem := by
  have um := s.lateCount_um .host 0
  have counted (n : Nat) : (s.lateCount .host 0).slot n = s.slot n := by rw [State.slot, um, State.slot]
  have run := exec_tierDeadline serving (.hostRead i)
  rw [State.tierLate, if_pos (by simp [busy, State.overdue, tierLimit, late]),
    State.slotFail_access (by rw [counted, busy]) (by rw [counted, plain]) (by rw [um, idle]), counted] at run
  refine ⟨_, run, ?_, ?_, fun n other => ?_, rfl, ?_⟩
  · rw [State.reply_get, State.setSlot_get]
    exact State.get_count_same s _ _ _ _ (by decide)
  · rw [State.slot_reply, State.slot_setSlot]
  · rw [State.slot_reply, State.slot_setSlot_other _ _ _ other, counted]
  · rw [State.reply_mem, State.setSlot_mem, State.lateCount_mem]

theorem tierDeadline_inTime {s : State} {i : Fin 1024}
    (h : s.serving = false ∨ (s.slot i.val).busy = false ∨ s.stroke ≤ (s.slot i.val).began + 8) :
    Unchanged (.tierDeadline (.hostRead i)) s := by
  change execTierDeadline (.hostRead i) s = _
  rcases h with out | free | within
  · simp [execTierDeadline, out]
  · simp [execTierDeadline, State.tierLate, free]
  · simp [execTierDeadline, State.tierLate, State.overdue, tierLimit, Nat.not_lt.2 within]

/-! The patrol scrub (R229) -/

/-- What the scrub has read is counted at the channel. -/
def State.scrubbed (s : State) (a : Nat) : State :=
  (s.load a true).2.countUnits (4 * s.chanOf a + 2) (2 ^ 30) (Base.ddr (s.chanOf a)) Reg.scrubGib 8

theorem exec_patrolScrub_word {s : State} {addr : Addr} {a : Nat} (awake : s.awake = true)
    (target : addr.toNat / 8 * 8 = a) (place : placeOf a = .ddr) (allowed : s.ddrStatus (.control s.bootNow) a = Status.ok) :
    exec (.patrolScrub addr 1) s = .next (s.scrubbed a) := by
  change execPatrolScrub addr 1 s = _
  rw [execPatrolScrub, if_pos awake, target, State.scrub, if_pos ⟨place, allowed⟩]
  rfl

theorem State.scrubbed_contents (s : State) (a : Nat) : (s.scrubbed a).contents = (s.load a true).2.contents :=
  State.countUnits_contents ..

theorem State.scrubbed_clean {s : State} {a : Nat} (clean : (s.load a).1.ecc = .clean) :
    (s.scrubbed a).contents = s.contents := by
  have word : (s.load a true).1.ecc = .clean := by rw [State.load_fst, ← s.load_fst a false, clean]
  rw [State.scrubbed_contents, State.load_snd_clean true word, State.ddrTraffic_contents]

theorem State.correctedNoted_units (s : State) (a : Nat) : (s.correctedNoted a).units = s.units := by
  have frame (t : State) (k n : Nat) : (t.inFrame k n).units = t.units := rfl
  unfold State.correctedNoted
  split
  · rw [State.units_of_contents (State.log_contents ..), State.count_units]
  · rw [State.units_of_contents (State.log_contents ..), frame, State.count_units]

theorem State.corrected_units (s : State) (a : Nat) (r : Loaded) : (s.corrected a r).units = s.units :=
  State.correctedNoted_units ..

/-- A corrected word is written back as a clean one, with its data and its tag (R238). -/
theorem State.corrected_load (s : State) (a : Nat) (r : Loaded) :
    ((s.corrected a r).load a).1 = { d := r.d, c := secded r.d, tag := r.tag, ecc := .clean } := by
  rw [State.load_fst, (State.SamePlaces.corrected s a r).key, State.corrected_mem, Mem.load_put]

theorem State.scrubbed_fixed {s : State} {a : Nat} (fixed : (s.load a).1.ecc = .fixed) :
    ((s.scrubbed a).load a).1 = { (s.load a).1 with c := secded (s.load a).1.d, ecc := .clean } ∧
      (s.scrubbed a).units = s.units := by
  have word : (s.load a true).1 = (s.load a).1 := by rw [State.load_fst, State.load_fst]
  have read : (s.load a true).2 = (s.ddrTraffic a false 8).corrected a (s.load a).1 := by
    rw [State.load_merge, word, State.mergeRead, fixed]
  have same := s.scrubbed_contents a
  rw [read] at same
  obtain ⟨stored, -⟩ := (State.SamePlaces.of_contents same).load (State.mem_of_contents same) a
  have units := State.units_of_contents (s.ddrTraffic_contents a false 8)
  exact ⟨stored.trans (State.corrected_load ..),
    (State.units_of_contents same).trans ((State.corrected_units ..).trans units)⟩

/-- Settles O40: an access to the window ends as `State.hostAccess` says of one word, a late read gives its slot back,
and the scrub's reads write corrected words back. -/
theorem hostWindowAndDeadlines : Obligations.HostWindowAndDeadlines := by
  intro s who addr w a acc ctx tier i h
  refine ⟨fun awake target place requester named plain => ?_, fun serving => exec_tierDeadline serving _,
    tierDeadline_request tier, tierDeadline_hostRead, tierDeadline_inTime, fun awake target place allowed => ?_⟩
  · subst requester named
    refine ⟨hostWindow_writes awake target place, fun allowed write one => ⟨fun k free => ?_, ?_⟩,
      fun st status refused => ?_⟩
    · exact hostWindow_takesSlot awake target place allowed write one free
    · exact hostWindow_waits awake target place allowed write one
    · subst status
      exact hostWindow_refuses awake target place plain refused
  · have run := exec_patrolScrub_word awake target place allowed
    refine ⟨fun clean => ⟨_, run, ?_⟩, fun fixed => ⟨_, run, ?_⟩⟩
    · have same := State.scrubbed_clean clean
      exact ⟨State.mem_of_contents same, State.units_of_contents same⟩
    · obtain ⟨word, units⟩ := State.scrubbed_fixed fixed
      exact ⟨by rw [word], by rw [word], units⟩

end Sys2Proof.Machine
end

section
/-! PROOFS. Registers of a peer link, and units noted to be fenced (R35, R270, R442). -/

namespace Sys2Proof.Machine

/-! Fields of one block -/

/-- Two single fields of a block: of different words, or of different bits. -/
def Fld.disjoint (f g : Fld) : Bool := decide (g.off ≠ f.off) || decide (f.lo + f.w ≤ g.lo ∨ g.lo + g.w ≤ f.lo)

theorem State.get_put_disjoint (s : State) (b : Nat) {f g : Fld} (v : Nat) (fits : f.lo + f.w ≤ 64)
    (h : f.disjoint g = true) : (s.put b f v).get b g = s.get b g := by
  rw [Fld.disjoint, Bool.or_eq_true, decide_eq_true_eq, decide_eq_true_eq] at h
  by_cases same : g.off = f.off
  · exact State.get_put_field _ _ _ _ _ _ _ _ (by omega) fits (h.resolve_left (not_not_intro same))
  · exact State.get_put_addr _ _ _ _ _ _ _ _ (by omega)

theorem State.get_count_disjoint (s : State) (b : Nat) {f g : Fld} (n : Nat) (fits : f.lo + f.w ≤ 64)
    (h : f.disjoint g = true) : (s.count b f n).get b g = s.get b g := State.get_put_disjoint s b _ fits h

/-! The links' blocks -/

theorem blockOf_peerLink (l : Nat) {off : Nat} (h : off < 0x1000) : blockOf (Base.peerLink l + off) = 0x13 := by
  simp only [blockOf, Base.peerLink, csr]
  omega

/-- A log record leaves the registers of the links. -/
theorem State.log_peerLink (s : State) (unit action : Nat) (ctx : Option Nat) (source index detail l : Nat) {f : Fld}
    (h : f.off + 0 * f.step < 0x1000) :
    (s.log unit action ctx source index detail).get (Base.peerLink l) f = s.get (Base.peerLink l) f := by
  have block := blockOf_peerLink l h
  rw [← Nat.add_assoc] at block
  exact State.log_get _ _ _ _ _ _ _ _ _ _ (by rw [block]; decide) (by rw [block]; decide)

/-- Naming a master leaves every register but those of the DEVICE and ARMATURE blocks. -/
theorem State.setMaster_reg (s : State) (m : Nat) {a : Nat} (device : blockOf a ≠ 0x00) (armature : blockOf a ≠ 0x01) :
    (s.setMaster m).reg a = s.reg a := by
  have far {b off : Nat} (h : blockOf (b + off) = 0x00 ∨ blockOf (b + off) = 0x01) : a ≠ b + off := by
    rintro rfl
    exact h.elim device armature
  unfold State.setMaster
  dsimp only
  rw [State.reg_put_other, State.reg_put_other, State.reg_put_other, State.reg_put_other]
  · exact far (by decide)
  · exact far (by decide)
  · exact far (by decide)
  · exact far (by decide)

theorem State.setMaster_peerLink (s : State) (m l : Nat) {f : Fld} (h : f.off + 0 * f.step < 0x1000) :
    (s.setMaster m).get (Base.peerLink l) f = s.get (Base.peerLink l) f := by
  have block := blockOf_peerLink l h
  rw [← Nat.add_assoc] at block
  rw [State.get, State.setMaster_reg s m (by rw [block]; decide) (by rw [block]; decide), State.get]

/-! The links' own records, apart from registers -/

theorem State.link_of_links {s t : State} (h : t.links = s.links) (l : Nat) : t.link l = s.link l := by
  rw [State.link, h, State.link]

@[simp] theorem State.count_link (s : State) (b : Nat) (f : Fld) (n i l : Nat) : (s.count b f n i).link l = s.link l :=
  State.link_of_links (State.count_links ..) l

/-- The same record on the same links gives the same links. -/
theorem State.setLink_links_congr {s t : State} (h : t.links = s.links) (l : Nat) (k : Link) :
    (t.setLink l k).links = (s.setLink l k).links := by
  rw [State.setLink, h, State.setLink]

/-! Units noted to be fenced -/

theorem State.goneUnit_quarantine1_mono {s : State} {v : UnitId} (h : s.goneUnit v = true) (u : UnitId)
    (source index detail : Nat) : (s.quarantine1 u source index detail).goneUnit v = true := by
  unfold State.quarantine1
  split
  · exact h
  · simp only [State.goneUnit, State.isFenced, List.any_append, Bool.or_eq_true] at h ⊢
    exact h.imp_right .inl

theorem State.goneUnit_quarantine1 (s : State) (u : UnitId) (source index detail : Nat) :
    (s.quarantine1 u source index detail).goneUnit u = true := by
  unfold State.quarantine1
  split
  · assumption
  · simp [State.goneUnit]

/-- A unit that is gone stays gone whatever is quarantined beside it. -/
theorem State.goneUnit_quarantine_mono {s : State} {v : UnitId} (h : s.goneUnit v = true) (u : UnitId)
    (source index detail : Nat) : (s.quarantine u source index detail).goneUnit v = true := by
  unfold State.quarantine
  dsimp only
  split
  · exact State.goneUnit_quarantine1_mono (State.goneUnit_quarantine1_mono h ..) ..
  · exact State.goneUnit_quarantine1_mono h ..

theorem State.goneUnit_quarantine (s : State) (u : UnitId) (source index detail : Nat) :
    (s.quarantine u source index detail).goneUnit u = true := by
  have noted := s.goneUnit_quarantine1 u source index detail
  unfold State.quarantine
  dsimp only
  split
  · exact State.goneUnit_quarantine1_mono noted ..
  · exact noted

/-- `t` differs from `s` at most in what is noted to be fenced. -/
structure State.FenceStep (s t : State) : Prop where
  regs : t.regs = s.regs
  links : t.links = s.links
  mem : t.mem = s.mem
  units : t.units = s.units
  gone : ∀ u, s.goneUnit u = true → t.goneUnit u = true

theorem State.FenceStep.refl (s : State) : s.FenceStep s := ⟨rfl, rfl, rfl, rfl, fun _ h => h⟩

theorem State.FenceStep.trans {s t u : State} (h : s.FenceStep t) (k : t.FenceStep u) : s.FenceStep u :=
  ⟨k.regs.trans h.regs, k.links.trans h.links, k.mem.trans h.mem, k.units.trans h.units,
    fun v gone => k.gone v (h.gone v gone)⟩

theorem State.fenceStep_fenceLink (s : State) (l : Nat) : s.FenceStep (s.fenceLink l) :=
  ⟨State.quarantine_regs .., State.quarantine_links .., State.quarantine_mem .., State.quarantine_units ..,
    fun _ gone => State.goneUnit_quarantine_mono gone ..⟩

theorem State.goneUnit_fenceLink (s : State) (l : Nat) : (s.fenceLink l).goneUnit (linkUnit l) = true :=
  State.goneUnit_quarantine ..

theorem State.fenceStep_fenceLinks (s : State) (ls : List Nat) :
    s.FenceStep (ls.foldl (fun s k => s.fenceLink k) s) :=
  foldl_keeps s.FenceStep _ ls s (.refl s) fun t k _ h => h.trans (t.fenceStep_fenceLink k)

/-- Every link of a list that is fenced one after another is gone. -/
theorem State.goneUnit_fenceLinks (s : State) {ls : List Nat} {m : Nat} (h : m ∈ ls) :
    (ls.foldl (fun s k => s.fenceLink k) s).goneUnit (linkUnit m) = true := by
  induction ls generalizing s with
  | nil => exact absurd h List.not_mem_nil
  | cons k ls ih =>
    rcases List.mem_cons.1 h with rfl | later
    · exact ((s.fenceLink m).fenceStep_fenceLinks ls).gone _ (s.goneUnit_fenceLink m)
    · exact ih _ later

end Sys2Proof.Machine
end

section
/-! PROOFS. Lanes that fail, retraining, and replays (R268, R270, R271, R274), and O46. -/

namespace Sys2Proof.Machine

/-! A link that is to retrain -/

/-- A link that keeps two lanes in no group is to be fenced. -/
theorem State.linkRetrain_narrow {s : State} {l : Nat} (h : linkWidthOf (s.get (Base.peerLink l) Reg.laneOk) = 0) :
    s.linkRetrain l = s.fenceLink l := if_pos h

/-- The registers of a link that retrains: RETRAINING at width 0, and counted. -/
def State.retraining (s : State) (l : Nat) : State :=
  ((s.put (Base.peerLink l) Reg.linkState 3).put (Base.peerLink l) Reg.linkWidth 0).count (Base.peerLink l) Reg.plRetrains

theorem State.linkRetrain_wide {s : State} {l : Nat} (h : linkWidthOf (s.get (Base.peerLink l) Reg.laneOk) ≠ 0) :
    s.linkRetrain l = (s.retraining l).log (0x10 + l / 12) 0 none 0x0C (l % 12) 0 := if_neg h

theorem State.retraining_contents (s : State) (l : Nat) : (s.retraining l).contents = s.contents := by
  rw [State.retraining, State.count_contents, State.put_contents, State.put_contents]

theorem State.retraining_linkState (s : State) (l : Nat) : (s.retraining l).get (Base.peerLink l) Reg.linkState = 3 := by
  rw [State.retraining, State.get_count_disjoint _ _ _ (by decide) (by decide),
    State.get_put_disjoint _ _ _ (by decide) (by decide), State.get_put_same _ _ _ _ _ (by decide)]
  rfl

theorem State.retraining_linkWidth (s : State) (l : Nat) : (s.retraining l).get (Base.peerLink l) Reg.linkWidth = 0 := by
  rw [State.retraining, State.get_count_disjoint _ _ _ (by decide) (by decide), State.get_put_same _ _ _ _ _ (by decide)]
  rfl

theorem State.retraining_plRetrains (s : State) (l : Nat) : (s.retraining l).get (Base.peerLink l) Reg.plRetrains =
    min (s.get (Base.peerLink l) Reg.plRetrains + 1) 65535 := by
  rw [State.retraining, State.get_count_same _ _ _ _ _ (by decide), State.get_put_disjoint _ _ _ (by decide) (by decide),
    State.get_put_disjoint _ _ _ (by decide) (by decide)]
  rfl

/-- A link that can be trained shows RETRAINING at width 0, the retraining counted, and no fault is noted (R270). -/
theorem State.linkRetrain_trains {s : State} {l : Nat} (h : linkWidthOf (s.get (Base.peerLink l) Reg.laneOk) ≠ 0) :
    (s.linkRetrain l).get (Base.peerLink l) Reg.linkState = 3 ∧ (s.linkRetrain l).get (Base.peerLink l) Reg.linkWidth = 0 ∧
      (s.linkRetrain l).get (Base.peerLink l) Reg.plRetrains = min (s.get (Base.peerLink l) Reg.plRetrains + 1) 65535 ∧
      (s.linkRetrain l).faults = s.faults := by
  rw [State.linkRetrain_wide h, State.log_peerLink _ _ _ _ _ _ _ _ (by decide),
    State.log_peerLink _ _ _ _ _ _ _ _ (by decide), State.log_peerLink _ _ _ _ _ _ _ _ (by decide)]
  exact ⟨s.retraining_linkState l, s.retraining_linkWidth l, s.retraining_plRetrains l,
    State.faults_of_contents ((State.log_contents ..).trans (s.retraining_contents l))⟩

/-- Whichever way it goes, a retraining leaves the links' records, memory and staged units. -/
theorem State.linkRetrain_keeps (s : State) (l : Nat) :
    (s.linkRetrain l).links = s.links ∧ (s.linkRetrain l).mem = s.mem ∧ (s.linkRetrain l).units = s.units := by
  by_cases narrow : linkWidthOf (s.get (Base.peerLink l) Reg.laneOk) = 0
  · rw [State.linkRetrain_narrow narrow]
    have step := s.fenceStep_fenceLink l
    exact ⟨step.links, step.mem, step.units⟩
  · rw [State.linkRetrain_wide narrow]
    have same := (State.log_contents (s.retraining l) (0x10 + l / 12) 0 none 0x0C (l % 12) 0).trans (s.retraining_contents l)
    exact ⟨State.links_of_contents same, State.mem_of_contents same, State.units_of_contents same⟩

/-- A retraining leaves the link's registers but those of its state and its own count. -/
theorem State.linkRetrain_get (s : State) (l : Nat) {g : Fld} (inBlock : g.off + 0 * g.step < 0x1000)
    (state : Reg.linkState.disjoint g = true) (width : Reg.linkWidth.disjoint g = true)
    (count : Reg.plRetrains.disjoint g = true) :
    (s.linkRetrain l).get (Base.peerLink l) g = s.get (Base.peerLink l) g := by
  by_cases narrow : linkWidthOf (s.get (Base.peerLink l) Reg.laneOk) = 0
  · rw [State.linkRetrain_narrow narrow]
    exact State.get_of_regs (s.fenceStep_fenceLink l).regs ..
  · rw [State.linkRetrain_wide narrow, State.log_peerLink _ _ _ _ _ _ _ _ inBlock, State.retraining,
      State.get_count_disjoint _ _ _ (by decide) count, State.get_put_disjoint _ _ _ (by decide) width,
      State.get_put_disjoint _ _ _ (by decide) state]

/-! A bulk lane fails (R270) -/

/-- The link is in service or retraining, and the lane is good. -/
def State.laneServes (s : State) (l lane : Nat) : Prop :=
  (s.get (Base.peerLink l) Reg.linkState = 2 ∨ s.get (Base.peerLink l) Reg.linkState = 3) ∧
    (s.get (Base.peerLink l) Reg.laneOk).testBit lane = true

theorem State.laneFail_serving {s : State} {l lane : Nat} (h : s.laneServes l lane) : s.laneFail l lane =
    (s.put (Base.peerLink l) Reg.laneOk (s.get (Base.peerLink l) Reg.laneOk - 2 ^ lane)).linkRetrain l := by
  have cleared : s.clearBit (Base.peerLink l) Reg.laneOk lane =
    s.put (Base.peerLink l) Reg.laneOk (s.get (Base.peerLink l) Reg.laneOk - 2 ^ lane) := if_pos h.2
  rw [← cleared]
  exact if_pos h

theorem laneFail_retrains {s : State} {link : LinkNo} {lane : Fin 8} (h : s.laneServes link.val lane.val) {b ok : Nat}
    (hb : b = Base.peerLink link.val) (hok : ok = s.get b Reg.laneOk) :
    ∃ t, exec (.laneFail link lane) s = .next t ∧ t.get b Reg.laneOk = ok - 2 ^ lane.val ∧
      t.mem = s.mem ∧ t.links = s.links ∧ t.units = s.units ∧
      (linkWidthOf (ok - 2 ^ lane.val) ≠ 0 → t.get b Reg.linkState = 3 ∧ t.get b Reg.linkWidth = 0 ∧
        t.get b Reg.plRetrains = min (s.get b Reg.plRetrains + 1) 65535 ∧ t.faults = s.faults) ∧
      (linkWidthOf (ok - 2 ^ lane.val) = 0 → t.goneUnit (linkUnit link.val) = true) := by
  subst hb hok
  have run : exec (.laneFail link lane) s = .next (s.laneFail link.val lane.val) := rfl
  rw [State.laneFail_serving h] at run
  generalize put : s.put (Base.peerLink link.val) Reg.laneOk
    (s.get (Base.peerLink link.val) Reg.laneOk - 2 ^ lane.val) = v at run
  have lanes : v.get (Base.peerLink link.val) Reg.laneOk =
      s.get (Base.peerLink link.val) Reg.laneOk - 2 ^ lane.val := by
    rw [← put, State.get_put_same _ _ _ _ _ (by decide),
      Nat.mod_eq_of_lt (lt_of_le_of_lt (Nat.sub_le ..) (State.get_lt ..))]
  obtain ⟨links, mem, units⟩ := v.linkRetrain_keeps link.val
  refine ⟨_, run, ?_, ?_, ?_, ?_, fun wide => ?_, fun narrow => ?_⟩
  · rw [State.linkRetrain_get _ _ (by decide) (by decide) (by decide) (by decide), lanes]
  · rw [mem, ← put, State.put_mem]
  · rw [links, ← put, State.put_links]
  · rw [units, ← put, State.put_units]
  · rw [← lanes] at wide
    obtain ⟨state, width, count, faults⟩ := State.linkRetrain_trains wide
    refine ⟨state, width, ?_, ?_⟩
    · rw [count, ← put, State.get_put_disjoint _ _ _ (by decide) (by decide)]
    · rw [faults, ← put, State.put_faults]
  · rw [← lanes] at narrow
    rw [State.linkRetrain_narrow narrow]
    exact v.goneUnit_fenceLink link.val

theorem laneFail_ignored {s : State} {link : LinkNo} {lane : Fin 8} (h : ¬ s.laneServes link.val lane.val) :
    Unchanged (.laneFail link lane) s := congrArg Host.Outcome.next (if_neg h)

/-! A retraining ends (R268, R270) -/

theorem exec_linkRetrainEnd {s : State} {link : LinkNo} (h : s.get (Base.peerLink link.val) Reg.linkState = 3)
    (locked : Bool) : exec (.linkRetrainEnd link locked) s = .next (if locked then
      ((s.put (Base.peerLink link.val) Reg.linkState 2).put (Base.peerLink link.val) Reg.linkWidth
        (linkWidthOf (s.get (Base.peerLink link.val) Reg.laneOk))).setLink link.val
        { s.link link.val with resend := (s.link link.val).replay, held := none }
      else s.fenceLink link.val) := congrArg Host.Outcome.next (if_pos h)

/-- No group has more than eight lanes. -/
theorem linkWidthOf_lt (ok : Nat) : linkWidthOf ok < 16 := by
  unfold linkWidthOf
  split
  next g found =>
    have widths : ∀ g ∈ laneGroups, g.1 < 16 := by decide
    exact widths g (List.mem_of_find?_eq_some found)
  next => decide

theorem linkRetrainEnd_locks {s : State} {link : LinkNo} {b : Nat} (hb : b = Base.peerLink link.val)
    (h : s.get b Reg.linkState = 3) :
    ∃ t, exec (.linkRetrainEnd link true) s = .next t ∧ t.get b Reg.linkState = 2 ∧
      t.get b Reg.linkWidth = linkWidthOf (s.get b Reg.laneOk) ∧
      t.links = (s.setLink link.val
        { s.link link.val with resend := (s.link link.val).replay, held := none }).links ∧
      OnlyFields s t [(b, Reg.linkState, 0), (b, Reg.linkWidth, 0)] ∧ t.mem = s.mem ∧ t.faults = s.faults := by
  subst hb
  refine ⟨_, exec_linkRetrainEnd h true, ?_, ?_, ?_, ?_, ?_, ?_⟩
  · rw [if_pos rfl, State.setLink_get, State.get_put_disjoint _ _ _ (by decide) (by decide),
      State.get_put_same _ _ _ _ _ (by decide)]
    rfl
  · rw [if_pos rfl, State.setLink_get, State.get_put_same _ _ _ _ _ (by decide)]
    exact Nat.mod_eq_of_lt (linkWidthOf_lt _)
  · exact State.setLink_links_congr ((State.put_links ..).trans (State.put_links ..)) ..
  · exact ((OnlyFields.put _ _ _ _ _ (by decide) (by simp)).trans (.put _ _ _ _ _ (by decide) (by simp))).trans
      (.of_regs _ (State.setLink_regs ..))
  · rw [if_pos rfl, State.setLink_mem, State.put_mem, State.put_mem]
  · rw [if_pos rfl, State.setLink_faults, State.put_faults, State.put_faults]

theorem linkRetrainEnd_fences {s : State} {link : LinkNo} (h : s.get (Base.peerLink link.val) Reg.linkState = 3) :
    ∃ t, exec (.linkRetrainEnd link false) s = .next t ∧ t.goneUnit (linkUnit link.val) = true ∧ t.regs = s.regs ∧
      t.links = s.links ∧ t.mem = s.mem := by
  have step := s.fenceStep_fenceLink link.val
  exact ⟨_, exec_linkRetrainEnd h false, s.goneUnit_fenceLink _, step.regs, step.links, step.mem⟩

theorem linkRetrainEnd_ignored {s : State} {link : LinkNo} (h : s.get (Base.peerLink link.val) Reg.linkState ≠ 3)
    (locked : Bool) : Unchanged (.linkRetrainEnd link locked) s := congrArg Host.Outcome.next (if_neg h)

/-! Replays (R274) -/

theorem State.replayStart_empty {s : State} {l : Nat} (h : (s.link l).replay = []) : s.replayStart l = s :=
  if_pos (by rw [h]; rfl)

/-- A link whose replays have had no progress so often: the replay counted, with its new counts of them. -/
def State.replaying (s : State) (l noProgress stalls : Nat) : State :=
  (s.count (Base.peerLink l) Reg.plReplays).setLink l
    { s.link l with resend := (s.link l).replay, noProgress := noProgress, stalls := stalls }

theorem State.replayStart_again {s : State} {l : Nat} (unacked : (s.link l).replay ≠ [])
    (few : (s.link l).noProgress + 1 < 8) :
    s.replayStart l = s.replaying l ((s.link l).noProgress + 1) (s.link l).stalls := by
  rw [State.replayStart, if_neg (by simp [unacked]), if_pos few]
  rfl

/-- The eighth replay without progress retrains, or fences where it is not the frame's first such event. -/
theorem State.replayStart_eighth {s : State} {l : Nat} (unacked : (s.link l).replay ≠ [])
    (many : 8 ≤ (s.link l).noProgress + 1) :
    s.replayStart l = if 1 ≤ (s.link l).stalls then (s.replaying l 0 ((s.link l).stalls + 1)).fenceLink l
      else (s.replaying l 0 ((s.link l).stalls + 1)).linkRetrain l := by
  rw [State.replayStart, if_neg (by simp [unacked]), if_neg (Nat.not_lt.2 many)]
  rfl

theorem State.replaying_link (s : State) (l n m : Nat) : (s.replaying l n m).link l =
    { s.link l with resend := (s.link l).replay, noProgress := n, stalls := m } := State.link_setLink ..

theorem State.replaying_get (s : State) (l n m : Nat) {g : Fld} (apart : Reg.plReplays.disjoint g = true) :
    (s.replaying l n m).get (Base.peerLink l) g = s.get (Base.peerLink l) g := by
  rw [State.replaying, State.setLink_get, State.get_count_disjoint _ _ _ (by decide) apart]

theorem State.replaying_plReplays (s : State) (l n m : Nat) : (s.replaying l n m).get (Base.peerLink l) Reg.plReplays =
    min (s.get (Base.peerLink l) Reg.plReplays + 1) 65535 := by
  rw [State.replaying, State.setLink_get, State.get_count_same _ _ _ _ _ (by decide)]
  rfl

theorem State.replaying_mem (s : State) (l n m : Nat) : (s.replaying l n m).mem = s.mem := by
  rw [State.replaying, State.setLink_mem, State.count_mem]

/-- Wherever it leads, a replay that starts sends what is unacknowledged again, is counted, and of the link changes its two
counts beside. -/
theorem State.replayStart_replays {s : State} {l : Nat} (unacked : (s.link l).replay ≠ []) :
    (∃ n m, (s.replayStart l).link l =
      { s.link l with resend := (s.link l).replay, noProgress := n, stalls := m }) ∧
    (s.replayStart l).get (Base.peerLink l) Reg.plReplays = min (s.get (Base.peerLink l) Reg.plReplays + 1) 65535 ∧
    (s.replayStart l).mem = s.mem := by
  by_cases few : (s.link l).noProgress + 1 < 8
  · rw [State.replayStart_again unacked few]
    exact ⟨⟨_, _, s.replaying_link ..⟩, s.replaying_plReplays .., s.replaying_mem ..⟩
  · rw [State.replayStart_eighth unacked (Nat.not_lt.1 few)]
    split
    · have step := (s.replaying l 0 ((s.link l).stalls + 1)).fenceStep_fenceLink l
      exact ⟨⟨_, _, (State.link_of_links step.links l).trans (s.replaying_link ..)⟩,
        (State.get_of_regs step.regs ..).trans (s.replaying_plReplays ..), step.mem.trans (s.replaying_mem ..)⟩
    · obtain ⟨links, mem, -⟩ := (s.replaying l 0 ((s.link l).stalls + 1)).linkRetrain_keeps l
      exact ⟨⟨_, _, (State.link_of_links links l).trans (s.replaying_link ..)⟩,
        (State.linkRetrain_get _ _ (by decide) (by decide) (by decide) (by decide)).trans (s.replaying_plReplays ..),
        mem.trans (s.replaying_mem ..)⟩

/-- The eighth replay without progress, the frame's first such event, on a link that can be trained. -/
theorem State.replayStart_trains {s : State} {l : Nat} (unacked : (s.link l).replay ≠ [])
    (many : 8 ≤ (s.link l).noProgress + 1) (first : (s.link l).stalls = 0)
    (wide : linkWidthOf (s.get (Base.peerLink l) Reg.laneOk) ≠ 0) :
    (s.replayStart l).get (Base.peerLink l) Reg.linkState = 3 ∧
      (s.replayStart l).get (Base.peerLink l) Reg.plRetrains =
        min (s.get (Base.peerLink l) Reg.plRetrains + 1) 65535 ∧ ((s.replayStart l).link l).stalls = 1 := by
  rw [State.replayStart_eighth unacked many, first, if_neg (by decide)]
  rw [← s.replaying_get l 0 (0 + 1) (g := Reg.laneOk) (by decide)] at wide
  obtain ⟨state, -, count, -⟩ := State.linkRetrain_trains wide
  refine ⟨state, ?_, ?_⟩
  · rw [count, State.replaying_get _ _ _ _ (by decide)]
  · rw [State.link_of_links (State.linkRetrain_keeps ..).1, State.replaying_link]

theorem State.replayStart_fences {s : State} {l : Nat} (unacked : (s.link l).replay ≠ [])
    (many : 8 ≤ (s.link l).noProgress + 1) (second : 1 ≤ (s.link l).stalls) :
    (s.replayStart l).goneUnit (linkUnit l) = true := by
  rw [State.replayStart_eighth unacked many, if_pos second]
  exact State.goneUnit_fenceLink ..

theorem exec_replayTimeout {s : State} {link : LinkNo} (h : s.get (Base.peerLink link.val) Reg.linkState = 2) :
    exec (.replayTimeout link) s = .next (s.replayStart link.val) := congrArg Host.Outcome.next (if_pos h)

theorem replayTimeout_replays {s : State} {link : LinkNo} {b : Nat} {k : Link} (hb : b = Base.peerLink link.val)
    (hk : k = s.link link.val) (h : s.get b Reg.linkState = 2) (unacked : k.replay ≠ []) :
    ∃ t, exec (.replayTimeout link) s = .next t ∧
      t.get b Reg.plReplays = min (s.get b Reg.plReplays + 1) 65535 ∧ (t.link link.val).resend = k.replay ∧
      (t.link link.val).replay = k.replay ∧ (t.link link.val).fseq = k.fseq ∧ t.mem = s.mem ∧
      (k.noProgress + 1 < 8 → (t.link link.val).noProgress = k.noProgress + 1 ∧ t.get b Reg.linkState = 2 ∧
        OnlyFields s t [(b, Reg.plReplays, 0)] ∧ t.faults = s.faults) ∧
      (8 ≤ k.noProgress + 1 → k.stalls = 0 → linkWidthOf (s.get b Reg.laneOk) ≠ 0 → t.get b Reg.linkState = 3 ∧
        t.get b Reg.plRetrains = min (s.get b Reg.plRetrains + 1) 65535 ∧ (t.link link.val).stalls = 1) ∧
      (8 ≤ k.noProgress + 1 → 1 ≤ k.stalls → t.goneUnit (linkUnit link.val) = true) := by
  subst hb hk
  obtain ⟨⟨n, m, record⟩, count, mem⟩ := State.replayStart_replays unacked
  refine ⟨_, exec_replayTimeout h, count, ?_, ?_, ?_, mem, fun few => ?_, State.replayStart_trains unacked,
    State.replayStart_fences unacked⟩
  · rw [record]
  · rw [record]
  · rw [record]
  · rw [State.replayStart_again unacked few]
    refine ⟨?_, ?_, ?_, ?_⟩
    · rw [State.replaying_link]
    · rw [State.replaying_get _ _ _ _ (by decide), h]
    · exact (OnlyFields.count _ _ _ _ _ (by decide) (by simp)).trans (.of_regs _ (State.setLink_regs ..))
    · rw [State.replaying, State.setLink_faults, State.count_faults]

theorem replayTimeout_ignored {s : State} {link : LinkNo}
    (h : s.get (Base.peerLink link.val) Reg.linkState ≠ 2 ∨ (s.link link.val).replay = []) :
    Unchanged (.replayTimeout link) s := by
  by_cases up : s.get (Base.peerLink link.val) Reg.linkState = 2
  · rw [Unchanged, exec_replayTimeout up, State.replayStart_empty (h.resolve_left (not_not_intro up))]
  · exact congrArg Host.Outcome.next (if_neg up)

/-! An armature lane fails (R271) -/

/-- The registers after a link's armature lane has failed: ARM_OK is clear, and the way to the master is found anew. -/
def State.laneLost (s : State) (l : Nat) : State :=
  (s.put (Base.peerLink l) Reg.armOk 0).setMaster ((s.put (Base.peerLink l) Reg.armOk 0).get Base.device Reg.masterNum)

theorem State.laneLost_contents (s : State) (l : Nat) : (s.laneLost l).contents = s.contents := by
  rw [State.laneLost, State.setMaster_contents, State.put_contents]

/-- Of the links' registers a failed armature lane changes its own ARM_OK alone. -/
theorem State.laneLost_get (s : State) (l m : Nat) {f : Fld} (h : f.off + 0 * f.step < 0x1000)
    (apart : m ≠ l ∨ Reg.armOk.disjoint f = true) :
    (s.laneLost l).get (Base.peerLink m) f = s.get (Base.peerLink m) f := by
  rw [State.laneLost, State.setMaster_peerLink _ _ _ h]
  by_cases same : m = l
  · subst same
    exact State.get_put_disjoint _ _ _ (by decide) (apart.resolve_left (not_not_intro rfl))
  · refine State.get_put_addr _ _ _ _ _ _ _ _ fun eq => same ?_
    simp only [Base.peerLink, csr, Reg.armOk] at eq
    omega

theorem State.laneLost_armOk (s : State) (l : Nat) : (s.laneLost l).get (Base.peerLink l) Reg.armOk = 0 := by
  rw [State.laneLost, State.setMaster_peerLink _ _ _ (by decide), State.get_put_same _ _ _ _ _ (by decide)]
  rfl

theorem State.laneLost_peer (s : State) (l m : Nat) : (s.laneLost l).peer m = s.peer m :=
  s.laneLost_get l m (by decide) (.inr (by decide))

theorem State.laneLost_linkState (s : State) (l m : Nat) :
    (s.laneLost l).get (Base.peerLink m) Reg.linkState = s.get (Base.peerLink m) Reg.linkState :=
  s.laneLost_get l m (by decide) (.inr (by decide))

theorem State.laneLost_linksTo (s : State) (l dev : Nat) : (s.laneLost l).linksTo dev = s.linksTo dev := by
  simp only [State.linksTo, State.laneLost_linkState, State.laneLost_peer]

theorem State.laneLost_armUp_same (s : State) (l : Nat) : (s.laneLost l).armUp l = false := by
  rw [State.armUp, State.laneLost_armOk]
  exact Bool.and_false _

theorem State.laneLost_armUp_other (s : State) {l m : Nat} (h : m ≠ l) : (s.laneLost l).armUp m = s.armUp m := by
  rw [State.armUp, State.laneLost_linkState, State.laneLost_get _ _ _ (by decide) (.inl h), State.armUp]

theorem State.armLaneFail_up {s : State} {l : Nat} (h : s.armUp l = true) :
    s.armLaneFail l = (s.laneLost l).neighbourCheck (s.peer l) := by
  have peer : (s.put (Base.peerLink l) Reg.armOk 0).peer l = s.peer l :=
    State.get_put_disjoint _ _ _ (by decide) (by decide)
  rw [State.armLaneFail, if_pos h, ← peer]
  rfl

theorem State.mem_linksTo {s : State} {m dev : Nat} : m ∈ s.linksTo dev ↔ m < 24 ∧
    (s.get (Base.peerLink m) Reg.linkState = 2 ∨ s.get (Base.peerLink m) Reg.linkState = 3) ∧ s.peer m = dev := by
  simp [State.linksTo]

theorem State.mem_linksTo_of_armUp {s : State} {m : Nat} (lt : m < 24) (up : s.armUp m = true) :
    m ∈ s.linksTo (s.peer m) := by
  simp only [State.armUp, Bool.and_eq_true, Bool.or_eq_true, beq_iff_eq] at up
  exact State.mem_linksTo.2 ⟨lt, up.1, rfl⟩

theorem State.fenceStep_neighbourCheck (s : State) (dev : Nat) : s.FenceStep (s.neighbourCheck dev) := by
  unfold State.neighbourCheck
  dsimp only
  split
  · exact .refl s
  · exact s.fenceStep_fenceLinks _

/-- Another link to the neighbour still carries armature messages. -/
theorem State.neighbourCheck_reached {s : State} {dev m : Nat} (mem : m ∈ s.linksTo dev) (up : s.armUp m = true) :
    s.neighbourCheck dev = s := if_pos (List.any_eq_true.2 ⟨m, mem, up⟩)

theorem State.neighbourCheck_lost {s : State} {dev m : Nat} (down : ∀ n ∈ s.linksTo dev, s.armUp n = false)
    (mem : m ∈ s.linksTo dev) : (s.neighbourCheck dev).goneUnit (linkUnit m) = true := by
  have none : ¬ (s.linksTo dev).any s.armUp = true := by
    rw [List.any_eq_true]
    rintro ⟨n, reaches, up⟩
    rw [down n reaches] at up
    exact Bool.noConfusion up
  rw [State.neighbourCheck, if_neg none]
  exact s.goneUnit_fenceLinks mem

theorem armatureLaneFail_down {s : State} {link : LinkNo} {b : Nat} (hb : b = Base.peerLink link.val)
    (h : s.armUp link.val = true) :
    ∃ t, exec (.armatureLaneFail link) s = .next t ∧ t.get b Reg.armOk = 0 ∧
      t.get b Reg.linkState = s.get b Reg.linkState ∧ t.links = s.links ∧ t.mem = s.mem ∧
      ((∃ m, m < 24 ∧ m ≠ link.val ∧ s.armUp m = true ∧ s.peer m = s.peer link.val) → t.faults = s.faults) ∧
      ((∀ m, m < 24 → m ≠ link.val → s.peer m = s.peer link.val → s.armUp m = false) →
        ∀ m ∈ s.linksTo (s.peer link.val), t.goneUnit (linkUnit m) = true) := by
  subst hb
  have run : exec (.armatureLaneFail link) s = .next (s.armLaneFail link.val) := rfl
  rw [State.armLaneFail_up h] at run
  have step := (s.laneLost link.val).fenceStep_neighbourCheck (s.peer link.val)
  have same := s.laneLost_contents link.val
  have links := s.laneLost_linksTo link.val (s.peer link.val)
  refine ⟨_, run, ?_, ?_, ?_, ?_, fun ⟨m, lt, ne, up, peer⟩ => ?_, fun down m mem => ?_⟩
  · exact (State.get_of_regs step.regs ..).trans (s.laneLost_armOk _)
  · exact (State.get_of_regs step.regs ..).trans (s.laneLost_linkState ..)
  · exact step.links.trans (State.links_of_contents same)
  · exact step.mem.trans (State.mem_of_contents same)
  · have reaches : m ∈ s.linksTo (s.peer link.val) := peer ▸ State.mem_linksTo_of_armUp lt up
    rw [State.neighbourCheck_reached (by rw [links]; exact reaches) ((s.laneLost_armUp_other ne).trans up)]
    exact State.faults_of_contents same
  · refine State.neighbourCheck_lost (fun n reaches => ?_) (by rw [links]; exact mem)
    by_cases own : n = link.val
    · rw [own]
      exact s.laneLost_armUp_same _
    · obtain ⟨lt, -, peer⟩ := State.mem_linksTo.1 (by rw [links] at reaches; exact reaches)
      rw [State.laneLost_armUp_other _ own]
      exact down n lt own peer

theorem armatureLaneFail_ignored {s : State} {link : LinkNo} (h : s.armUp link.val = false) :
    Unchanged (.armatureLaneFail link) s :=
  congrArg Host.Outcome.next (if_neg (by rw [h]; exact Bool.noConfusion))

/-- Settles O46: a lane that fails and a replay without progress lead to `State.linkRetrain`, which trains the link or
notes its fence, and an armature lane that fails to `State.neighbourCheck`. -/
theorem linkLanesAndReplay : Obligations.LinkLanesAndReplay := by
  intro s link lane k b ok hb hk hok
  refine ⟨fun state good => ?_, fun idle => ?_, fun state => ⟨?_, ?_⟩, fun state => ⟨?_, ?_⟩, fun state unacked => ?_,
    fun idle => ?_, armatureLaneFail_down hb, armatureLaneFail_ignored⟩
  · exact laneFail_retrains (by subst hb hok; exact ⟨state, good⟩) hb hok
  · exact laneFail_ignored fun serves => idle (by subst hb hok; exact serves)
  · rw [hk, hok]
    exact linkRetrainEnd_locks hb state
  · exact linkRetrainEnd_fences (hb ▸ state)
  · exact linkRetrainEnd_ignored (hb ▸ state) true
  · exact linkRetrainEnd_ignored (hb ▸ state) false
  · rw [hok]
    exact replayTimeout_replays hb hk state unacked
  · exact replayTimeout_ignored (by subst hb hk; exact idle)

end Sys2Proof.Machine
end

section
/-! PROOFS. What the armature lane's frames leave of its link (R278, R279, log 192), and the flits that a link sends (R272 to
R276). -/

namespace Sys2Proof.Machine

/-! The armature lane sends -/

/-- A link with the armature lane and the injection generators of another. -/
def Link.withArm (k x : Link) : Link :=
  { k with gens := x.gens, aseq := x.aseq, aexpect := x.aexpect, areplay := x.areplay, aresend := x.aresend,
           awaiting := x.awaiting, anakSend := x.anakSend, anoProgress := x.anoProgress, asent := x.asent }

/-- `t` differs from `s` at most in links, of which link `l` only in its armature lane and generators, in faults, and in
registers of the LINK_FAULT blocks. -/
structure State.LaneStep (l : Nat) (s t : State) : Prop where
  link : ∃ x, t.link l = (s.link l).withArm x
  regs : ∀ a, blockOf a ≠ 0x1C → t.reg a = s.reg a
  mem : t.mem = s.mem

namespace State.LaneStep

theorem refl (l : Nat) (s : State) : State.LaneStep l s s := ⟨⟨s.link l, rfl⟩, fun _ _ => rfl, rfl⟩

theorem trans {l : Nat} {s t u : State} (h : State.LaneStep l s t) (k : State.LaneStep l t u) : State.LaneStep l s u := by
  obtain ⟨x, hx⟩ := h.link
  obtain ⟨y, hy⟩ := k.link
  exact ⟨⟨y, by rw [hy, hx]; rfl⟩, fun a ha => (k.regs a ha).trans (h.regs a ha), k.mem.trans h.mem⟩

theorem record (s : State) (l : Nat) (k : Link) (h : k = (s.link l).withArm k) : State.LaneStep l s (s.setLink l k) :=
  ⟨⟨k, by rw [State.link_setLink, ← h]⟩, fun _ _ => State.setLink_reg .., State.setLink_mem ..⟩

theorem count (s : State) (l p : Nat) (f : Fld) (n i : Nat) (h : f.off + i * f.step < 0x10000) :
    State.LaneStep l s (s.count (Base.linkFault p) f n i) := by
  refine ⟨⟨s.link l, State.count_link ..⟩, fun a ha => State.reg_count_other _ _ _ _ _ fun same => ha ?_,
    State.count_mem ..⟩
  rw [same, Nat.add_assoc]
  simp only [blockOf, Base.linkFault, csr]
  omega

theorem ite {l : Nat} {s t u : State} (p : Prop) [Decidable p] (h : State.LaneStep l s t) (k : State.LaneStep l s u) :
    State.LaneStep l s (if p then t else u) := by
  split <;> assumption

theorem foldl {α : Type} (f : State → α → State) (xs : List α) (l : Nat) (s : State)
    (h : ∀ (t : State) x, State.LaneStep l t (f t x)) : State.LaneStep l s (xs.foldl f s) :=
  foldl_keeps (State.LaneStep l s) f xs s (refl l s) fun t x _ k => k.trans (h t x)

theorem armPut (s : State) (l aseq : Nat) (idle : Bool) (ws : List Word) (flip : Option Nat) :
    State.LaneStep l s (s.armPut l aseq idle ws flip) := record s l _ rfl

theorem armFirst (s : State) (l : Nat) (ws : List Word) : State.LaneStep l s (s.armFirst l ws) := by
  have lane : l % 12 < 12 := Nat.mod_lt _ (by decide)
  unfold State.armFirst
  refine ite _ ((record s l _ rfl).trans (count _ _ _ _ _ _ ?_))
    (ite _ (((record s l _ rfl).trans (armPut ..)).trans (count _ _ _ _ _ _ ?_)) ((record s l _ rfl).trans (armPut ..)))
  · simp only [Reg.fiDropped]; omega
  · simp only [Reg.fiCorrupted]; omega

theorem armSend (s : State) (l : Nat) : State.LaneStep l s (s.armSend l) := by
  unfold State.armSend
  have sent := ((record s l { s.link l with
      asent := [], aresend := [],
      awaiting := (s.link l).awaiting.drop ((s.link l).awaiting.take (32 - (s.link l).areplay.length)).length } rfl).trans
    (foldl _ (s.link l).aresend l _ fun t p => armPut t l p.1 false p.2 none)).trans
    (foldl _ ((s.link l).awaiting.take (32 - (s.link l).areplay.length)) l _ fun t ws => armFirst t l ws)
  exact ite _ (sent.trans (armPut ..)) sent

end State.LaneStep

/-- The state once the link's armature lane, where it is up, has carried its frames. -/
def State.laneSent (s : State) (l : Nat) : State := if s.armUp l then s.armSend l else s

theorem State.laneSent_def (s : State) (l : Nat) : (if s.armUp l then s.armSend l else s) = s.laneSent l := rfl

theorem State.laneStep_laneSent (s : State) (l : Nat) : State.LaneStep l s (s.laneSent l) :=
  .ite _ (.armSend s l) (.refl l s)

theorem State.laneSent_linkState (s : State) (l : Nat) :
    (s.laneSent l).get (Base.peerLink l) Reg.linkState = s.get (Base.peerLink l) Reg.linkState := by
  have block : blockOf (Base.peerLink l + Reg.linkState.off + 0 * Reg.linkState.step) ≠ 0x1C := by
    rw [Nat.add_assoc, blockOf_peerLink l (by decide)]
    decide
  rw [State.get, (s.laneStep_laneSent l).regs _ block, State.get]

/-! What a header says (Table 08.1) -/

/-- The credits that a header returns fit their fields. -/
theorem Link.returns_fit (k : Link) (i : Nat) : k.returns.1.getD i 0 ≤ 127 ∧ k.returns.2 ≤ 127 := by
  constructor
  · simp only [Link.returns, List.getD_eq_getElem?_getD, List.getElem?_map]
    cases k.owed[i]? with
    | none => exact Nat.zero_le _
    | some n => exact Nat.min_le_left ..
  · simp only [Link.returns]
    split
    · exact Nat.min_le_left ..
    · exact Nat.zero_le _

theorem b2n_le_one (b : Bool) : b2n b ≤ 1 := by cases b <;> decide

/-- FSEQ and TYPE of a header word that is formed now. -/
theorem bits_ackWord (k x : Link) (seq : Nat) {ftype : Nat} (h : ftype < 4) :
    bits (ackWord k seq ftype x.returns.1 x.returns.2) 63 52 = seq % 4096 ∧
      bits (ackWord k seq ftype x.returns.1 x.returns.2) 38 37 = ftype := by
  have ack : (k.expect + 4095) % 4096 < 4096 := Nat.mod_lt _ (by decide)
  have nak := b2n_le_one k.nakSend
  obtain ⟨vc0, cack⟩ := x.returns_fit 0
  have vc1 := (x.returns_fit 1).1
  have vc2 := (x.returns_fit 2).1
  simp only [ackWord, bits, word, BitVec.toNat_ofNat]
  generalize (k.expect + 4095) % 4096 = a at ack
  generalize b2n k.nakSend = n at nak
  generalize x.returns.1.getD 0 0 = c0 at vc0
  generalize x.returns.1.getD 1 0 = c1 at vc1
  generalize x.returns.1.getD 2 0 = c2 at vc2
  generalize x.returns.2 = r at cack
  omega

/-! A flit put on the lanes without injection -/

/-- With no injection in force a sequenced flit goes out as formed, takes the next FSEQ and is kept; one that was held back
before follows it. -/
theorem State.firstSend_plain {s : State} {l : Nat} (off : bit (s.link l).inForce 63 = false) (f : Flit) (retx : Bool) :
    ∃ held resend, s.firstSend l f retx = s.setLink l
      { s.link l with fseq := ((s.link l).fseq + 1) % 4096, replay := (s.link l).replay ++ [flitFormed f],
                      tx := some (flitFormed f), held := held, resend := resend } := by
  unfold State.firstSend
  simp only [off, Bool.false_and, Bool.false_eq_true, if_false, genStep]
  cases (s.link l).held with
  | none => exact ⟨_, _, rfl⟩
  | some h => exact ⟨_, _, rfl⟩

/-- The control flit of now, with the first 512 NAK records that wait. -/
def Link.controlFlit (k : Link) : Flit :=
  { h0 := ackWord k k.fseq 2 k.returns.1 k.returns.2, h1 := 0, h2 := 0, h3 := 0,
    payload := (k.control.take 512).flatMap fun r => [r.1, r.2] }

/-- The link after a control flit without injection: the flit is on the lanes and kept, and its records wait no more. -/
theorem State.sendControl_plain {s : State} {l : Nat} (off : bit (s.link l).inForce 63 = false) :
    (∃ held resend, (s.sendControl l).link l =
      { (s.link l).returned with
        control := (s.link l).control.drop 512, fseq := ((s.link l).fseq + 1) % 4096,
        replay := (s.link l).replay ++ [flitFormed (s.link l).controlFlit],
        tx := some (flitFormed (s.link l).controlFlit), held := held, resend := resend }) ∧
      (s.sendControl l).regs = s.regs ∧ (s.sendControl l).mem = s.mem := by
  have quiet : bit ((s.setLink l { (s.link l).returned with control := (s.link l).control.drop 512 }).link l).inForce 63 =
      false := by
    rw [State.link_setLink]
    exact off
  obtain ⟨held, resend, sent⟩ := State.firstSend_plain quiet (s.link l).controlFlit false
  have run : s.sendControl l = _ := sent
  rw [run]
  refine ⟨⟨held, resend, ?_⟩, ?_, ?_⟩
  · rw [State.link_setLink, State.link_setLink]
    rfl
  · rw [State.setLink_regs, State.setLink_regs]
  · rw [State.setLink_mem, State.setLink_mem]

/-! The cases of FLIT_SEND -/

theorem State.flitSend_down {s : State} {l : Nat} (h : s.get (Base.peerLink l) Reg.linkState ≠ 2) :
    s.flitSend l = s.laneSent l :=
  if_pos (by rw [← s.laneSent_linkState l] at h; exact h)

section
variable {s : State} {l : Nat} (up : s.get (Base.peerLink l) Reg.linkState = 2)
include up

theorem State.flitSend_replays {g : Flit} {rest : List Flit} (h : ((s.laneSent l).link l).resend = g :: rest) :
    s.flitSend l = (s.laneSent l).setLink l
      { (s.laneSent l).link l with tx := some (flitRenew g ((s.laneSent l).link l)), resend := rest, nakSend := false } := by
  rw [← s.laneSent_linkState l] at up
  simp only [State.flitSend, State.laneSent_def, up, ne_eq, not_true_eq_false, if_false, h]

variable (fresh : ((s.laneSent l).link l).resend = [])
include fresh

theorem State.flitSend_idles (h : 32 ≤ ((s.laneSent l).link l).replay.length ∨
      (((s.laneSent l).link l).control = [] ∧ (s.laneSent l).vcReady l = [])) :
    s.flitSend l = (s.laneSent l).setLink l
      { ((s.laneSent l).link l).returned with tx := some ((s.laneSent l).link l).idleFlit } := by
  have silent (turn : Nat) : r16 turn 3 [] = none := rfl
  rw [← s.laneSent_linkState l] at up
  by_cases full : 32 ≤ ((s.laneSent l).link l).replay.length
  · simp only [State.flitSend, State.laneSent_def, up, ne_eq, not_true_eq_false, if_false, fresh, full, if_true]
  · obtain ⟨control, ready⟩ := h.resolve_left full
    simp only [State.flitSend, State.laneSent_def, up, ne_eq, not_true_eq_false, if_false, fresh, full, control,
      List.isEmpty_nil, Bool.not_true, Bool.false_eq_true, ready, silent]

theorem State.flitSend_controls (room : ((s.laneSent l).link l).replay.length < 32)
    (h : ((s.laneSent l).link l).control ≠ []) : s.flitSend l = (s.laneSent l).sendControl l := by
  have waits : (!((s.laneSent l).link l).control.isEmpty) = true := by simpa using h
  rw [← s.laneSent_linkState l] at up
  simp only [State.flitSend, State.laneSent_def, up, ne_eq, not_true_eq_false, if_false, fresh, Nat.not_le.2 room, waits,
    if_true]

theorem State.flitSend_data (room : ((s.laneSent l).link l).replay.length < 32)
    (control : ((s.laneSent l).link l).control = []) {v turn i : Nat} {k : Link}
    (vc : r16 ((s.laneSent l).link l).vcTurn 3 ((s.laneSent l).vcReady l) = some (v, turn))
    (pick : (s.laneSent l).vcPick l v = some (i, k)) :
    s.flitSend l = (s.laneSent l).sendData l v i { k with vcTurn := turn } := by
  rw [← s.laneSent_linkState l] at up
  simp only [State.flitSend, State.laneSent_def, up, ne_eq, not_true_eq_false, if_false, fresh, Nat.not_le.2 room, control,
    List.isEmpty_nil, Bool.not_true, Bool.false_eq_true, vc, pick]

end

/-! A data flit -/

/-- The chunk that a channel picks moves at most the channel's orders of requesters on. -/
theorem State.vcPick_link {s : State} {l v i : Nat} {k : Link} (h : s.vcPick l v = some (i, k)) :
    ∃ grants ctxTurn reqTurn, k = { s.link l with grants := grants, ctxTurn := ctxTurn, reqTurn := reqTurn } := by
  have same {j : Nat} (h : some (j, s.link l) = some (i, k)) :
      ∃ grants ctxTurn reqTurn, k = { s.link l with grants := grants, ctxTurn := ctxTurn, reqTurn := reqTurn } := by
    obtain ⟨-, rfl⟩ := Prod.mk.inj (Option.some.inj h)
    exact ⟨_, _, _, rfl⟩
  unfold State.vcPick at h
  dsimp only at h
  split at h
  · exact nomatch h
  · split at h
    · split at h
      · exact same h
      · exact nomatch h
    · split at h
      · exact nomatch h
      · split at h
        · exact same h
        · split at h
          · exact nomatch h
          · split at h
            · exact nomatch h
            · obtain ⟨j, -, eq⟩ := Option.map_eq_some_iff.1 h
              obtain ⟨-, rfl⟩ := Prod.mk.inj eq
              exact ⟨_, _, _, rfl⟩

/-- The flit in turn is the chunk's last. -/
def Chunk.atLast (c : Chunk) : Bool := decide (c.clen ≤ 1024 * (c.sent + 1))

/-- The link once a channel has given the next flit of its chunk `c`, place `i` of its queue: a credit is taken, and a chunk
whose last flit it is goes to retention. -/
def Link.took (k : Link) (v i : Nat) (c : Chunk) : Link :=
  { k with
    queues := setAt k.queues v (if c.atLast then (k.queues.getD v []).eraseIdx i
      else { c with sent := c.sent + 1 } :: (k.queues.getD v []).eraseIdx i),
    retention := k.retention ++ (if c.atLast then [c] else []),
    credits := setAt k.credits v (k.credits.getD v 0 - 1) }

/-- The data flit in turn of a chunk, as the link's header words make it. -/
def Link.dataFlit (k : Link) (c : Chunk) : Flit :=
  { h0 := ackWord k k.fseq 1 k.returns.1 k.returns.2, h1 := c.h1 c.sent c.atLast, h2 := c.h2,
    h3 := if c.atLast then word (c.ccrc.toNat * 2 ^ 32) else 0, payload := c.flitWords c.sent }

theorem State.sendData_eq (s : State) (l : Nat) {v i : Nat} {k : Link} {c : Chunk}
    (h : (k.queues.getD v [])[i]? = some c) : s.sendData l v i k =
    (((((if c.again && c.sent == 0 then s.count (Base.peerLink l) Reg.retx else s).grant c.ctx (linkUnit l)).setLink l
      (k.took v i c).returned).firstSend l ((k.took v i c).dataFlit c) c.retx).plTraffic l true
        (8 * (c.flitWords c.sent).length)) := by
  unfold State.sendData
  dsimp only
  rw [h]
  unfold Link.took Link.dataFlit Chunk.atLast
  by_cases last : c.clen ≤ 1024 * (c.sent + 1)
  · simp only [last, decide_true, if_true]
  · simp only [last, decide_false, Bool.false_eq_true, if_false, List.append_nil]

/-- The link with the payload bytes that it has put on the lanes, or taken from them, counted on. -/
def Link.counted (k : Link) (tx : Bool) (n : Nat) : Link :=
  if tx then { k with txBytes := n % 2 ^ 20 } else { k with rxBytes := n % 2 ^ 20 }

/-- Counting payload bytes changes the link's own counts, and the MiB counters alone. -/
theorem State.plTraffic_cases (s : State) (l : Nat) (tx : Bool) (bytes : Nat) :
    ∃ n f m, f.off + 0 * f.step < 0x1000 ∧ (s.plTraffic l tx bytes = s.setLink l ((s.link l).counted tx n) ∨
      s.plTraffic l tx bytes = (s.setLink l ((s.link l).counted tx n)).count (Base.peerLink l) f m) := by
  refine ⟨(if tx then (s.link l).txBytes else (s.link l).rxBytes) + bytes, if tx then Reg.plTxMib else Reg.plRxMib,
    ((if tx then (s.link l).txBytes else (s.link l).rxBytes) + bytes) / 2 ^ 20, ?_, ?_⟩
  · cases tx <;> decide
  · by_cases few : ((if tx then (s.link l).txBytes else (s.link l).rxBytes) + bytes) / 2 ^ 20 = 0
    · exact .inl (if_pos few)
    · exact .inr (if_neg few)

theorem State.plTraffic_link (s : State) (l : Nat) (tx : Bool) (bytes : Nat) :
    ∃ n, (s.plTraffic l tx bytes).link l = (s.link l).counted tx n := by
  obtain ⟨n, f, m, -, run | run⟩ := s.plTraffic_cases l tx bytes
  · exact ⟨n, by rw [run, State.link_setLink]⟩
  · exact ⟨n, by rw [run, State.count_link, State.link_setLink]⟩

@[simp] theorem State.plTraffic_mem (s : State) (l : Nat) (tx : Bool) (bytes : Nat) :
    (s.plTraffic l tx bytes).mem = s.mem := by
  obtain ⟨n, f, m, -, run | run⟩ := s.plTraffic_cases l tx bytes
  · rw [run, State.setLink_mem]
  · rw [run, State.count_mem, State.setLink_mem]

@[simp] theorem State.plTraffic_units (s : State) (l : Nat) (tx : Bool) (bytes : Nat) :
    (s.plTraffic l tx bytes).units = s.units := by
  obtain ⟨n, f, m, -, run | run⟩ := s.plTraffic_cases l tx bytes
  · rw [run, State.setLink_units]
  · rw [run, State.count_units, State.setLink_units]

@[simp] theorem State.grant_mem (s : State) (ctx : Nat) (u : UnitId) : (s.grant ctx u).mem = s.mem := by
  unfold State.grant; split <;> rfl

/-- The link after a data flit without injection: the flit is on the lanes and kept, and the chunk's place has moved on. -/
theorem State.sendData_plain (s : State) (l : Nat) {v i : Nat} {k : Link} {c : Chunk}
    (h : (k.queues.getD v [])[i]? = some c) (off : bit k.inForce 63 = false) :
    (∃ held resend n, (s.sendData l v i k).link l =
      { (k.took v i c).returned with
        fseq := (k.fseq + 1) % 4096, replay := k.replay ++ [flitFormed ((k.took v i c).dataFlit c)],
        tx := some (flitFormed ((k.took v i c).dataFlit c)), held := held, resend := resend, txBytes := n }) ∧
      (s.sendData l v i k).mem = s.mem := by
  rw [State.sendData_eq s l h]
  generalize begun : ((if c.again && c.sent == 0 then s.count (Base.peerLink l) Reg.retx else s).grant c.ctx
    (linkUnit l)) = t
  have mem : t.mem = s.mem := by
    rw [← begun, State.grant_mem]
    split
    · exact State.count_mem ..
    · rfl
  have quiet : bit ((t.setLink l (k.took v i c).returned).link l).inForce 63 = false := by
    rw [State.link_setLink]
    exact off
  obtain ⟨held, resend, sent⟩ := State.firstSend_plain quiet ((k.took v i c).dataFlit c) c.retx
  obtain ⟨n, link⟩ := State.plTraffic_link ((t.setLink l (k.took v i c).returned).firstSend l
    ((k.took v i c).dataFlit c) c.retx) l true (8 * (c.flitWords c.sent).length)
  refine ⟨⟨held, resend, n % 2 ^ 20, ?_⟩, ?_⟩
  · rw [link, sent, State.link_setLink, State.link_setLink]
    rfl
  · rw [State.plTraffic_mem, sent, State.setLink_mem, State.setLink_mem, mem]

end Sys2Proof.Machine
end

section
/-! PROOFS. Flits that arrive (R272 to R276, R286), and O47. -/

namespace Sys2Proof.Machine

/-! What FLIT_SEND puts on the lanes -/

theorem flitSend_down {s : State} {link : LinkNo} {u : State} {b : Nat} (hb : b = Base.peerLink link.val)
    (hu : u = s.laneSent link.val) (down : s.get b Reg.linkState ≠ 2) :
    exec (.flitSend link) s = .next u := by
  subst hb hu
  exact congrArg Host.Outcome.next (State.flitSend_down down)

section
variable {s : State} {link : LinkNo} {k : Link} {u : State} {b : Nat}
variable (hb : b = Base.peerLink link.val) (hk : k = s.link link.val) (hu : u = s.laneSent link.val)
include hb hk hu

variable (up : s.get b Reg.linkState = 2)
include up

theorem flitSend_replay {g : Flit} {rest : List Flit} (h : k.resend = g :: rest) :
    ∃ t, exec (.flitSend link) s = .next t ∧
      (t.link link.val).tx = some (flitRenew g k) ∧ (t.link link.val).resend = rest ∧
      (t.link link.val).replay = k.replay ∧ (t.link link.val).credits = k.credits ∧
      (t.link link.val).asent = (u.link link.val).asent ∧ t.regs = u.regs ∧ t.mem = s.mem := by
  subst hb
  have lane := s.laneStep_laneSent link.val
  rw [← hu] at lane
  obtain ⟨x, record⟩ := lane.link
  rw [← hk] at record
  have run : exec (.flitSend link) s = .next (s.flitSend link.val) := rfl
  rw [State.flitSend_replays up (g := g) (rest := rest) (by rw [← hu, record]; exact h), ← hu] at run
  refine ⟨_, run, ?_⟩
  rw [State.link_setLink, record]
  exact ⟨rfl, rfl, rfl, rfl, rfl, State.setLink_regs .., (State.setLink_mem ..).trans lane.mem⟩

variable (none : k.resend = [])
include none

theorem flitSend_idle (h : 32 ≤ k.replay.length ∨ (k.control = [] ∧ u.vcReady link.val = [])) :
    ∃ t, exec (.flitSend link) s = .next t ∧ (t.link link.val).tx = some k.idleFlit ∧
      (t.link link.val).replay = k.replay ∧ (t.link link.val).fseq = k.fseq ∧
      (t.link link.val).queues = k.queues ∧ (t.link link.val).credits = k.credits ∧ t.regs = u.regs ∧ t.mem = s.mem := by
  subst hb
  have lane := s.laneStep_laneSent link.val
  rw [← hu] at lane
  obtain ⟨x, record⟩ := lane.link
  rw [← hk] at record
  have run : exec (.flitSend link) s = .next (s.flitSend link.val) := rfl
  rw [State.flitSend_idles up (by rw [← hu, record]; exact none) (by rw [← hu, record]; exact h), ← hu] at run
  refine ⟨_, run, ?_⟩
  rw [State.link_setLink, record]
  exact ⟨rfl, rfl, rfl, rfl, rfl, State.setLink_regs .., (State.setLink_mem ..).trans lane.mem⟩

variable (room : k.replay.length < 32)
include room

theorem flitSend_control (waits : k.control ≠ []) (off : bit k.inForce 63 = false) :
    ∃ t g, exec (.flitSend link) s = .next t ∧ (t.link link.val).tx = some g ∧
      (t.link link.val).replay = k.replay ++ [g] ∧ bits g.h0 63 52 = k.fseq % 4096 ∧ bits g.h0 38 37 = 2 ∧
      g.payload = (k.control.take 512).flatMap (fun r => [r.1, r.2]) ∧
      (t.link link.val).control = k.control.drop 512 ∧ (t.link link.val).fseq = (k.fseq + 1) % 4096 ∧
      (t.link link.val).queues = k.queues ∧ t.regs = u.regs ∧ t.mem = s.mem := by
  subst hb
  have lane := s.laneStep_laneSent link.val
  rw [← hu] at lane
  obtain ⟨x, record⟩ := lane.link
  rw [← hk] at record
  have run : exec (.flitSend link) s = .next (s.flitSend link.val) := rfl
  rw [State.flitSend_controls up (by rw [← hu, record]; exact none) (by rw [← hu, record]; exact room)
    (by rw [← hu, record]; exact waits), ← hu] at run
  obtain ⟨⟨held, resend, sent⟩, regs, mem⟩ := State.sendControl_plain (s := u) (l := link.val) (by rw [record]; exact off)
  obtain ⟨seq, type⟩ := bits_ackWord (k.withArm x) k k.fseq (ftype := 2) (by decide)
  refine ⟨_, flitFormed (k.withArm x).controlFlit, run, ?_⟩
  rw [sent, record]
  exact ⟨rfl, rfl, seq, type, rfl, rfl, rfl, rfl, regs, mem.trans lane.mem⟩

theorem flitSend_data (v turn i : Nat) (k' : Link) (c : Chunk) (control : k.control = []) (off : bit k.inForce 63 = false)
    (vc : r16 k.vcTurn 3 (u.vcReady link.val) = some (v, turn)) (pick : u.vcPick link.val v = some (i, k'))
    (chunk : (k'.queues.getD v [])[i]? = some c) :
    ∃ t g, exec (.flitSend link) s = .next t ∧ (t.link link.val).tx = some g ∧
      (t.link link.val).replay = k.replay ++ [g] ∧ bits g.h0 38 37 = 1 ∧
      g.h1 = c.h1 c.sent (decide (c.clen ≤ 1024 * (c.sent + 1))) ∧ g.h2 = c.h2 ∧ g.payload = c.flitWords c.sent ∧
      (t.link link.val).credits = setAt k.credits v (k.credits.getD v 0 - 1) ∧
      (t.link link.val).fseq = (k.fseq + 1) % 4096 ∧ (t.link link.val).vcTurn = turn ∧
      (t.link link.val).retention = k.retention ++ (if c.clen ≤ 1024 * (c.sent + 1) then [c] else []) ∧ t.mem = s.mem := by
  subst hb
  have lane := s.laneStep_laneSent link.val
  rw [← hu] at lane
  obtain ⟨x, record⟩ := lane.link
  rw [← hk] at record
  have run : exec (.flitSend link) s = .next (s.flitSend link.val) := rfl
  rw [State.flitSend_data up (by rw [← hu, record]; exact none) (by rw [← hu, record]; exact room)
    (by rw [← hu, record]; exact control) (by rw [← hu, record]; exact vc) (by rw [← hu]; exact pick), ← hu] at run
  obtain ⟨grants, ctxTurn, reqTurn, orders⟩ := State.vcPick_link pick
  rw [record] at orders
  subst orders
  obtain ⟨⟨held, resend, n, sent⟩, mem⟩ := u.sendData_plain link.val (k := { k.withArm x with
    grants := grants, ctxTurn := ctxTurn, reqTurn := reqTurn, vcTurn := turn }) chunk off
  refine ⟨_, flitFormed (Link.dataFlit (Link.took { k.withArm x with
    grants := grants, ctxTurn := ctxTurn, reqTurn := reqTurn, vcTurn := turn } v i c) c), run, ?_⟩
  rw [sent]
  refine ⟨rfl, rfl, (bits_ackWord _ _ _ (by decide)).2, rfl, rfl, rfl, rfl, rfl, rfl, ?_, mem.trans lane.mem⟩
  simp only [Link.returned, Link.took, Chunk.atLast, decide_eq_true_eq, Link.withArm]

end

/-! A flit that is discarded, and what a header tells -/

/-- What a header tells a link, before a NAK acts. -/
def Link.headed (k : Link) (f : Flit) : Link :=
  let n := (bits f.h0 51 40 + 4096 - k.acked) % 4096
  let gone := if n ≤ k.replay.length then n else 0
  { k with
    acked := if gone = 0 then k.acked else bits f.h0 51 40, replay := k.replay.drop gone,
    resend := k.resend.filter fun r => !((k.replay.take gone).any fun q => bits q.h0 63 52 == bits r.h0 63 52),
    noProgress := if gone = 0 then k.noProgress else 0,
    credits := List.zipWith (· + ·) k.credits [bits f.h0 36 30, bits f.h0 29 23, bits f.h0 22 16],
    retention := k.retention.drop (bits f.h0 15 9) }

theorem State.takeHeader_eq (s : State) (l : Nat) (f : Flit) : s.takeHeader l f =
    if bit f.h0 39 then (s.setLink l ((s.link l).headed f)).replayStart l else s.setLink l ((s.link l).headed f) := rfl

theorem State.takeHeader_noNak (s : State) (l : Nat) {f : Flit} (h : bit f.h0 39 = false) :
    s.takeHeader l f = s.setLink l ((s.link l).headed f) := by
  rw [State.takeHeader_eq, if_neg (by rw [h]; exact Bool.noConfusion)]

theorem State.takeHeader_nak (s : State) (l : Nat) {f : Flit} (h : bit f.h0 39 = true) :
    s.takeHeader l f = (s.setLink l ((s.link l).headed f)).replayStart l := if_pos h

/-- A header leaves the link as told, but for what a replay that it starts puts to be sent again and counts. -/
theorem State.takeHeader_link (s : State) (l : Nat) (f : Flit) : (∃ r n m, (s.takeHeader l f).link l =
    { (s.link l).headed f with resend := r, noProgress := n, stalls := m }) ∧ (s.takeHeader l f).mem = s.mem := by
  cases nak : bit f.h0 39 with
  | false =>
    rw [State.takeHeader_noNak s l nak]
    exact ⟨⟨_, _, _, State.link_setLink ..⟩, State.setLink_mem ..⟩
  | true =>
    rw [State.takeHeader_nak s l nak]
    by_cases none : ((s.setLink l ((s.link l).headed f)).link l).replay = []
    · rw [State.replayStart_empty none]
      exact ⟨⟨_, _, _, State.link_setLink ..⟩, State.setLink_mem ..⟩
    · obtain ⟨⟨n, m, record⟩, -, mem⟩ := State.replayStart_replays none
      rw [State.link_setLink] at record
      exact ⟨⟨_, n, m, record⟩, mem.trans (State.setLink_mem ..)⟩

section
variable {s : State} {link : LinkNo} {f : Flit} {fec : Bool} {k : Link} {b : Nat}
variable (hb : b = Base.peerLink link.val)
include hb

theorem flitReceive_ignored (down : s.get b Reg.linkState ≠ 2) : Unchanged (.flitReceive link f fec) s := by
  subst hb
  exact congrArg Host.Outcome.next (if_pos down)

variable (hk : k = s.link link.val) (up : s.get b Reg.linkState = 2)
include hk up

theorem flitReceive_discards (h : flitGood f fec = false ∨ (bits f.h0 38 37 ≠ 0 ∧ bits f.h0 63 52 ≠ k.expect)) :
    ∃ t, exec (.flitReceive link f fec) s = .next t ∧
      t.links = (s.setLink link.val { k with nakSend := k.nakSend || !k.nakOpen, nakOpen := true }).links ∧
      t.get b Reg.flitBad = min (s.get b Reg.flitBad + 1) (2 ^ 32 - 1) ∧ OnlyFields s t [(b, Reg.flitBad, 0)] ∧
      t.mem = s.mem ∧ t.units = s.units := by
  subst hb hk
  have discarded : s.flitReceive link.val f fec = s.flitDiscard link.val := by
    rw [State.flitReceive, if_neg (not_not_intro up)]
    by_cases good : flitGood f fec = true
    · obtain ⟨sequenced, gap⟩ := h.resolve_left (by rw [good]; exact Bool.noConfusion)
      rw [if_neg (by rw [good]; decide), if_neg sequenced]
      exact if_pos gap
    · exact if_pos (by simpa using good)
  have run : exec (.flitReceive link f fec) s = .next (s.flitReceive link.val f fec) := rfl
  rw [discarded] at run
  refine ⟨_, run, State.count_links .., ?_, ?_, ?_, ?_⟩
  · rw [State.flitDiscard, State.get_count_same _ _ _ _ _ (by decide), State.setLink_get]
    rfl
  · exact (OnlyFields.of_regs _ (State.setLink_regs ..)).trans (.count _ _ _ _ _ (by decide) (by simp))
  · rw [State.flitDiscard, State.count_mem, State.setLink_mem]
  · rw [State.flitDiscard, State.count_units, State.setLink_units]

variable (good : flitGood f fec = true)
include good

theorem flitReceive_idle {n : Nat} (type : bits f.h0 38 37 = 0) (hn : n = (bits f.h0 51 40 + 4096 - k.acked) % 4096)
    (kept : n ≤ k.replay.length) :
    ∃ t, exec (.flitReceive link f fec) s = .next t ∧ (t.link link.val).replay = k.replay.drop n ∧
      (t.link link.val).credits =
        List.zipWith (· + ·) k.credits [bits f.h0 36 30, bits f.h0 29 23, bits f.h0 22 16] ∧
      (t.link link.val).expect = k.expect ∧ t.mem = s.mem ∧
      (bit f.h0 39 = false → t.regs = s.regs ∧ (t.link link.val).retention = k.retention.drop (bits f.h0 15 9)) ∧
      (bit f.h0 39 = true → n < k.replay.length → (t.link link.val).resend = k.replay.drop n) := by
  subst hb hk
  have run : exec (.flitReceive link f fec) s = .next (s.flitReceive link.val f fec) := rfl
  rw [State.flitReceive, if_neg (not_not_intro up), if_neg (by rw [good]; decide), if_pos type] at run
  have replay : ((s.link link.val).headed f).replay = (s.link link.val).replay.drop n := by
    simp only [Link.headed, ← hn, if_pos kept]
  obtain ⟨⟨r, m, m', record⟩, mem⟩ := s.takeHeader_link link.val f
  refine ⟨_, run, ?_, ?_, ?_, mem, fun nak => ?_, fun nak more => ?_⟩
  · rw [record, ← replay]
  · rw [record]
    rfl
  · rw [record]
    rfl
  · rw [State.takeHeader_noNak _ _ nak, State.link_setLink]
    exact ⟨State.setLink_regs .., rfl⟩
  · have left : ((s.setLink link.val ((s.link link.val).headed f)).link link.val).replay ≠ [] := by
      rw [State.link_setLink, replay, Ne, List.drop_eq_nil_iff]
      omega
    obtain ⟨⟨_, _, again⟩, -, -⟩ := State.replayStart_replays left
    rw [State.takeHeader_nak _ _ nak, again, State.link_setLink]
    exact replay

end

/-! A chunk's only flit -/

/-- A chunk of one flit as it arrives, its words filled up to the flit's length and cut to the chunk's. -/
def flitChunk (f : Flit) : Chunk :=
  { Chunk.ofHeader f.h1 f.h2 with
    words := (f.payload ++ List.replicate (1024 - f.payload.length) 0).take (min 1024 (Chunk.ofHeader f.h1 f.h2).clen),
    poison := if bit f.h1 9 then [0] else [], whole := true, badfwd := bit f.h1 7,
    ccrc := BitVec.ofNat 32 (bits f.h3 63 32) }

/-- The link once a chunk's only flit has come: the chunk is ready, and the channel's credit is owed. -/
def Link.gotChunk (k : Link) (f : Flit) : Link :=
  { k with
    owed := setAt k.owed (Chunk.ofHeader f.h1 f.h2).vc (k.owed.getD (Chunk.ofHeader f.h1 f.h2).vc 0 + 1),
    rx := k.rx.filter fun c => c.vc != (Chunk.ofHeader f.h1 f.h2).vc, ready := k.ready ++ [flitChunk f] }

theorem State.plTraffic_myNum (s : State) (l : Nat) (tx : Bool) (bytes : Nat) :
    (s.plTraffic l tx bytes).myNum = s.myNum := by
  obtain ⟨n, f, m, inBlock, run | run⟩ := s.plTraffic_cases l tx bytes
  · rw [run]
    exact State.setLink_get ..
  · rw [run]
    refine (State.get_count_addr _ _ _ _ _ _ _ _ fun same => ?_).trans (State.setLink_get ..)
    have block := congrArg blockOf same
    rw [Nat.add_assoc (Base.peerLink l), blockOf_peerLink l inBlock] at block
    exact absurd block (by decide)

/-- A chunk's only flit makes the chunk ready, and sends it on where it is a transfer for another device. -/
theorem State.takeData_single (s : State) (l : Nat) {f : Flit} (first : bits f.h1 15 13 = 0) (last : bit f.h1 12 = true) :
    s.takeData l f =
      let t := (s.setLink l ((s.link l).gotChunk f)).plTraffic l false (8 * min 1024 (Chunk.ofHeader f.h1 f.h2).clen)
      if !(flitChunk f).coll && (flitChunk f).dst != t.myNum && decide ((flitChunk f).phase ≤ 4) then
        t.forwardFlit l (flitChunk f)
      else t := by
  unfold State.takeData
  simp only [first, last, if_true, Nat.mul_zero, Nat.sub_zero, Bool.true_and]
  rfl

/-- A chunk that is this device's, or a collective's, is not sent on. -/
theorem State.takeData_here {s : State} {l : Nat} {f : Flit} (first : bits f.h1 15 13 = 0) (last : bit f.h1 12 = true)
    (here : (Chunk.ofHeader f.h1 f.h2).coll = true ∨ (Chunk.ofHeader f.h1 f.h2).dst = s.myNum) :
    s.takeData l f = (s.setLink l ((s.link l).gotChunk f)).plTraffic l false
      (8 * min 1024 (Chunk.ofHeader f.h1 f.h2).clen) := by
  have num := (State.plTraffic_myNum (s.setLink l ((s.link l).gotChunk f)) l false
    (8 * min 1024 (Chunk.ofHeader f.h1 f.h2).clen)).trans (State.setLink_get ..)
  rw [s.takeData_single l first last]
  refine if_neg ?_
  rw [num]
  rcases here with coll | dst
  · simp [flitChunk, coll]
  · simp [flitChunk, dst, State.myNum]

/-- The link once a sequenced flit is accepted. -/
def Link.accepted (k : Link) : Link := { k with expect := (k.expect + 1) % 4096, nakOpen := false }

theorem State.flitReceive_data {s : State} {l : Nat} {f : Flit} {fec : Bool}
    (up : s.get (Base.peerLink l) Reg.linkState = 2) (good : flitGood f fec = true) (type : bits f.h0 38 37 = 1)
    (inOrder : bits f.h0 63 52 = (s.link l).expect) :
    s.flitReceive l f fec = ((s.setLink l (s.link l).accepted).takeHeader l f).takeData l f := by
  rw [State.flitReceive, if_neg (not_not_intro up), if_neg (by rw [good]; decide), if_neg (by rw [type]; decide)]
  dsimp only
  rw [if_neg (not_not_intro inOrder), if_pos type]
  rfl

theorem flitReceive_chunk {s : State} {link : LinkNo} {f : Flit} {fec : Bool} {k : Link} {b : Nat}
    {c : Chunk} (hb : b = Base.peerLink link.val) (hk : k = s.link link.val)
    (up : s.get b Reg.linkState = 2) (good : flitGood f fec = true) (type : bits f.h0 38 37 = 1)
    (inOrder : bits f.h0 63 52 = k.expect) (noNak : bit f.h0 39 = false) (hc : c = Chunk.ofHeader f.h1 f.h2)
    (first : bits f.h1 15 13 = 0) (last : bit f.h1 12 = true) (here : c.coll = true ∨ c.dst = s.myNum) :
    ∃ t x, exec (.flitReceive link f fec) s = .next t ∧ (t.link link.val).ready = k.ready ++ [x] ∧
      x.words = (f.payload ++ List.replicate (1024 - f.payload.length) 0).take (min 1024 c.clen) ∧
      x.same c = true ∧ x.vc = c.vc ∧ x.whole = true ∧ x.ccrc = BitVec.ofNat 32 (bits f.h3 63 32) ∧
      (t.link link.val).expect = (k.expect + 1) % 4096 ∧
      (t.link link.val).owed = setAt k.owed c.vc (k.owed.getD c.vc 0 + 1) ∧ t.mem = s.mem ∧ t.units = s.units := by
  subst hb hk hc
  have run : exec (.flitReceive link f fec) s = .next (s.flitReceive link.val f fec) := rfl
  rw [State.flitReceive_data up good type inOrder, State.takeHeader_noNak _ _ noNak, State.link_setLink] at run
  generalize moved : (s.setLink link.val (s.link link.val).accepted).setLink link.val
    ((s.link link.val).accepted.headed f) = u at run
  have record : u.link link.val = (s.link link.val).accepted.headed f := by rw [← moved, State.link_setLink]
  rw [State.takeData_here first last (by rw [← moved]; exact here)] at run
  obtain ⟨n, counted⟩ := State.plTraffic_link (u.setLink link.val ((u.link link.val).gotChunk f)) link.val false
    (8 * min 1024 (Chunk.ofHeader f.h1 f.h2).clen)
  rw [State.link_setLink] at counted
  refine ⟨_, flitChunk f, run, ?_, rfl, ?_, rfl, rfl, rfl, ?_, ?_, ?_, ?_⟩
  · rw [counted, record]; rfl
  · simp [Chunk.same, flitChunk]
  · rw [counted, record]; rfl
  · rw [counted, record]; rfl
  · rw [State.plTraffic_mem, State.setLink_mem, ← moved, State.setLink_mem, State.setLink_mem]
  · rw [State.plTraffic_units, State.setLink_units, ← moved, State.setLink_units, State.setLink_units]

/-- Settles O47: FLIT_SEND by the cases of `State.flitSend` after the armature lane's own frames (`State.LaneStep`), and
FLIT_RECEIVE by what a header tells (`Link.headed`) and what a chunk's only flit leaves (`Link.gotChunk`). -/
theorem flitsSentAndReceived : Obligations.FlitsSentAndReceived := by
  intro s link f fec k u b hb hk hu
  refine ⟨fun down => ⟨flitSend_down hb hu down, flitReceive_ignored hb down⟩, fun up =>
    ⟨fun g rest => flitSend_replay hb hk hu up, flitSend_idle hb hk hu up, flitSend_control hb hk hu up,
      fun v turn i k' c none room control off => flitSend_data hb hk hu up none room v turn i k' c control off,
      flitReceive_discards hb hk up, fun n good type => flitReceive_idle hb hk up good type,
      fun c good type => flitReceive_chunk hb hk up good type⟩⟩

end Sys2Proof.Machine
end

section
/-! PROOFS. Chunks where they are used (R280, R282, R286). -/

namespace Sys2Proof.Machine

/-! What a unit's write leaves of the windows -/

theorem State.windows_of_memStep {s t : State} (h : s.MemStep t) : t.windows = s.windows :=
  (congrArg State.windows h.rest : t.offAccess.windows = s.offAccess.windows)

theorem State.windows_of_offUnits {s t : State} (h : t.offUnits = s.offUnits) : t.windows = s.windows :=
  (congrArg State.windows h : t.offUnits.windows = s.offUnits.windows)

theorem State.writeWord_windows (s : State) (who : Requester) (a : Nat) (w : TWord) :
    (s.writeWord who a w).2.windows = s.windows := by
  have stored := State.windows_of_memStep (State.MemStep.store s a w)
  unfold State.writeWord
  dsimp only
  split
  · cases who with
    | core d c x =>
      dsimp only
      split
      · exact (State.setCore_windows ..).trans stored
      · exact stored
    | control n => exact stored
    | engine d x => exact stored
  · exact State.windows_of_offUnits (State.offUnits_of_contents (State.ddrErr_contents ..))

theorem State.unitWord_windows (s : State) (d c ctx a : Nat) (bs : List (Byte × Bool)) :
    (s.unitWord d c ctx a bs).windows = s.windows := by
  unfold State.unitWord
  dsimp only
  split
  · exact State.windows_of_offUnits (State.unitReason_offUnits ..)
  · split
    · exact State.writeWord_windows ..
    · exact (State.writeWord_windows ..).trans (State.windows_of_memStep (.load ..))

theorem State.unitWrite_windows (s : State) (d c ctx fuel a : Nat) (bs : List (Byte × Bool)) :
    (s.unitWrite d c ctx fuel a bs).windows = s.windows :=
  State.unitWrite_induct (P := fun t => t.windows = s.windows) (fun t _ _ h => (t.unitWord_windows ..).trans h) fuel a bs rfl

/-! A clean chunk lands (R282) -/

/-- The window takes the chunk: it is of the chunk's stream, and the chunk within its capacity has not landed yet. -/
def Window.takes (w : Window) (c : Chunk) : Prop :=
  w.src = c.src ∧ w.stream = c.stream ∧ w.ctx = c.ctx ∧ c.cseq < w.cap ∧ c.cseq ∉ w.landed

/-- The test of a window that `State.land` makes. -/
theorem Window.takes_iff (w : Window) (c : Chunk) : (w.src == c.src && w.stream == c.stream && w.ctx == c.ctx &&
    decide (c.cseq < w.cap) && !w.landed.contains c.cseq) = true ↔ w.takes c := by
  simp [Window.takes, and_assoc]

theorem State.land_untaken {s : State} {c : Chunk} (l : Nat) (h : ∀ w ∈ s.windows, ¬ w.takes c) :
    s.land l c = s.count (Base.peerLink l) Reg.unmatched := by
  have nowhere : s.windows.findIdx? (fun w => w.src == c.src && w.stream == c.stream && w.ctx == c.ctx &&
      decide (c.cseq < w.cap) && !w.landed.contains c.cseq) = none :=
    List.findIdx?_eq_none_iff.2 fun w mem => Bool.eq_false_iff.2 fun fits => h w mem ((w.takes_iff c).1 fits)
  unfold State.land
  dsimp only
  rw [nowhere]

/-- The chunk is written for the window's poster, at its place in the window. -/
def State.landed (s : State) (w : Window) (c : Chunk) : State :=
  s.unitWrite (w.core / 48) (w.core % 48) w.ctx (8 * c.clen + 1) (w.base + 65536 * c.cseq) c.stored

/-- The state with other receive windows. -/
def State.withWindows (s : State) (l : List Window) : State := { s with windows := l }

theorem State.land_taken {s : State} {c : Chunk} {w : Window} (l : Nat) (only : s.windows = [w]) (h : w.takes c) :
    s.land l c =
      if w.landed.length + 1 = w.cap then
        ((s.landed w c).withWindows [{ w with landed := c.cseq :: w.landed }]).evcAdd (w.core / 48) (w.core % 48) w.ec 1
      else (s.landed w c).withWindows [{ w with landed := c.cseq :: w.landed }] := by
  have first : s.windows.findIdx? (fun w => w.src == c.src && w.stream == c.stream && w.ctx == c.ctx &&
      decide (c.cseq < w.cap) && !w.landed.contains c.cseq) = some 0 := by
    rw [only, List.findIdx?_cons, if_pos ((w.takes_iff c).2 h)]
  have there : s.windows[0]? = some w := by rw [only]; rfl
  have windows : (s.unitWrite (w.core / 48) (w.core % 48) w.ctx (8 * c.clen + 1) (w.base + 65536 * c.cseq)
    c.stored).windows = [w] := (s.unitWrite_windows ..).trans only
  unfold State.land
  dsimp only
  rw [first]
  dsimp only
  rw [there]
  dsimp only
  rw [windows]
  rfl

/-! The cases of CHUNK_RECEIVE (R280, R286) -/

section
variable {s : State} {l : Nat} {c : Chunk} {rest : List Chunk} (ready : (s.link l).ready = c :: rest)
include ready

theorem State.chunkReceive_badfwd (bad : c.badfwd = true) : s.chunkReceive l =
    s.setLink l { s.link l with ready := rest, cackOwed := (s.link l).cackOwed + 1 } := by
  simp only [State.chunkReceive, ready, bad, if_true]

variable (whole : c.badfwd = false)
include whole

/-- The link once a chunk has been looked at: it is counted, and not asked for any more. -/
def Link.checked (k : Link) (c : Chunk) (rest : List Chunk) : Link :=
  { k with ready := rest, cackOwed := k.cackOwed + 1,
           asked := k.asked.filter fun r => !c.same (Chunk.ofHeader r.1 r.2) }

theorem State.chunkReceive_reserved (transfer : c.coll = false) (phase : 4 < c.phase) : s.chunkReceive l =
    (s.setLink l ((s.link l).checked c rest)).count (Base.peerLink l) Reg.unmatched := by
  simp only [State.chunkReceive, ready, whole, transfer, phase, Bool.false_eq_true, if_false, Bool.not_false, decide_true,
    Bool.and_self, if_true]
  rfl

variable (known : c.phase ≤ 4) (transfer : c.coll = false)
include known transfer

theorem State.chunkReceive_lands (good : chunkCrc c.words = c.ccrc) (here : c.dst = s.myNum) : s.chunkReceive l =
    (s.setLink l ((s.link l).checked c rest)).land l c := by
  have mine : c.dst = (s.setLink l ((s.link l).checked c rest)).myNum := here.trans (State.setLink_get ..).symm
  simp only [State.chunkReceive, ready, whole, transfer, Nat.not_lt.2 known, good, Bool.false_eq_true, if_false,
    Bool.not_false, decide_false, Bool.and_false, beq_self_eq_true, if_true]
  exact if_pos mine

/-- A chunk whose CCRC fails is asked for, once, and counted. -/
theorem State.chunkReceive_fails (bad : chunkCrc c.words ≠ c.ccrc) : s.chunkReceive l =
    (s.setLink l (if (s.link l).asked.any fun r => c.same (Chunk.ofHeader r.1 r.2) then (s.link l).checked c rest
      else { (s.link l).checked c rest with
        control := (s.link l).control ++ [c.record],
        asked := ((s.link l).checked c rest).asked ++ [c.record] })).count (Base.peerLink l) Reg.crcFail := by
  simp only [State.chunkReceive, ready, whole, transfer, Nat.not_lt.2 known, beq_eq_false_iff_ne.2 bad, Bool.false_eq_true,
    if_false, Bool.not_false, decide_false, Bool.and_false]
  rfl

end

theorem exec_chunkReceive {s : State} {link : LinkNo} (up : s.get (Base.peerLink link.val) Reg.linkState = 2) :
    exec (.chunkReceive link) s = .next (s.chunkReceive link.val) := congrArg Host.Outcome.next (if_pos up)

theorem chunkReceive_ignored {s : State} {link : LinkNo}
    (h : s.get (Base.peerLink link.val) Reg.linkState ≠ 2 ∨ (s.link link.val).ready = []) :
    Unchanged (.chunkReceive link) s := by
  by_cases up : s.get (Base.peerLink link.val) Reg.linkState = 2
  · have none := h.resolve_left (not_not_intro up)
    rw [Unchanged, exec_chunkReceive up, State.chunkReceive]
    simp only [none]
  · exact congrArg Host.Outcome.next (if_neg up)

/-- A chunk that its window takes: memory is as written for the poster, the window notes it, and a full window gives its
event. -/
theorem State.land_taken_effect {s : State} {c : Chunk} {w : Window} (l : Nat) (only : s.windows = [w]) (h : w.takes c) :
    (s.land l c).mem = (s.landed w c).mem ∧ (s.land l c).windows = [{ w with landed := c.cseq :: w.landed }] ∧
      (w.landed.length + 1 ≠ w.cap → (s.land l c).regs = (s.landed w c).regs) ∧
      (w.landed.length + 1 = w.cap → (s.land l c).get (Base.core (w.core / 48) (w.core % 48)) Reg.evc w.ec =
        min ((s.landed w c).get (Base.core (w.core / 48) (w.core % 48)) Reg.evc w.ec + 1) (2 ^ 24 - 1)) := by
  rw [State.land_taken l only h]
  by_cases full : w.landed.length + 1 = w.cap
  · have same := ((s.landed w c).withWindows [{ w with landed := c.cseq :: w.landed }]).evcAdd_contents (w.core / 48)
      (w.core % 48) w.ec 1
    rw [if_pos full]
    exact ⟨(State.mem_of_contents same).trans rfl, State.windows_of_offUnits (State.offUnits_of_contents same),
      fun short => absurd full short, fun _ => State.evcAdd_evc ..⟩
  · rw [if_neg full]
    exact ⟨rfl, rfl, fun _ => rfl, fun full' => absurd full' full⟩

theorem chunkReceive_fails {s : State} {link : LinkNo} {c : Chunk} {rest : List Chunk} {b : Nat} {k : Link}
    (hb : b = Base.peerLink link.val) (hk : k = s.link link.val) (up : s.get b Reg.linkState = 2)
    (ready : k.ready = c :: rest) (whole : c.badfwd = false) (known : c.phase ≤ 4) (bad : chunkCrc c.words ≠ c.ccrc)
    (transfer : c.coll = false) :
    ∃ t, exec (.chunkReceive link) s = .next t ∧
      (t.link link.val).control = k.control ++
        (if k.asked.any (fun r => c.same (Chunk.ofHeader r.1 r.2)) then [] else [c.record]) ∧
      (t.link link.val).ready = rest ∧ t.get b Reg.crcFail = min (s.get b Reg.crcFail + 1) (2 ^ Reg.crcFail.w - 1) ∧
      t.windows = s.windows ∧ t.mem = s.mem := by
  subst hb hk
  refine ⟨_, (exec_chunkReceive up).trans (congrArg _ (State.chunkReceive_fails ready whole known transfer bad)),
    ?_, ?_, ?_, ?_, ?_⟩
  · rw [State.count_link, State.link_setLink]
    split
    · exact (List.append_nil _).symm
    · rfl
  · rw [State.count_link, State.link_setLink]
    split <;> rfl
  · rw [State.get_count_same _ _ _ _ _ (by decide), State.setLink_get]
  · rw [State.count_windows, State.setLink_windows]
  · rw [State.count_mem, State.setLink_mem]

/-! A chunk NAK record (R286) -/

theorem exec_chunkNak {s : State} {link : LinkNo} (up : s.get (Base.peerLink link.val) Reg.linkState = 2) (w1 w2 : Word) :
    exec (.chunkNak link w1 w2) s = .next (s.nakRecord link.val w1 w2) := congrArg Host.Outcome.next (if_pos up)

/-- The only chunk kept, not yet sent again, is queued once more at the end of its channel. -/
theorem State.nakRecord_requeues {s : State} {l : Nat} {w1 w2 : Word} {c : Chunk} (kept : (s.link l).retention = [c])
    (same : c.same (Chunk.ofHeader w1 w2) = true) (once : c.again = false)
    (new : ∀ d ∈ (s.link l).queues.getD c.vc [], ¬(d.again = true ∧ d.same c = true)) :
    s.nakRecord l w1 w2 = s.setLink l { s.link l with
      queues := setAt (s.link l).queues c.vc
        ((s.link l).queues.getD c.vc [] ++ [{ c with retx := true, again := true, sent := 0 }]) } := by
  have found : ((s.link l).retention.find? fun c => c.same (Chunk.ofHeader w1 w2) && !c.again) = some c := by
    rw [kept, List.find?_cons_of_pos (by simp [same, once])]
  have unqueued : ¬ ((s.link l).queues.getD c.vc []).any (fun d => d.again && d.same c) = true := by
    rw [List.any_eq_true]
    rintro ⟨d, mem, both⟩
    exact new d mem ((Bool.and_eq_true _ _).mp both)
  unfold State.nakRecord
  dsimp only
  rw [found]
  exact if_neg unqueued

theorem chunkNak_ignored {s : State} {link : LinkNo} (w1 w2 : Word)
    (h : s.get (Base.peerLink link.val) Reg.linkState ≠ 2 ∨ (s.link link.val).retention = []) :
    Unchanged (.chunkNak link w1 w2) s := by
  by_cases up : s.get (Base.peerLink link.val) Reg.linkState = 2
  · have none := h.resolve_left (not_not_intro up)
    rw [Unchanged, exec_chunkNak up, State.nakRecord, none]
    rfl
  · exact congrArg Host.Outcome.next (if_neg up)

end Sys2Proof.Machine
end

section
/-! PROOFS. Deadlines of windows and collectives (R285, R287). -/

namespace Sys2Proof.Machine

/-! Steps that change registers of link blocks and logs alone -/

theorem blockOf_collective (p : Nat) {off : Nat} (h : off < 0x10000) : blockOf (Base.collective p + off) = 0x14 := by
  simp only [blockOf, Base.collective, csr]
  omega

/-- `t` differs from `s` at most in staged units and in registers of the PEER_LINK, COLLECTIVE and ERROR blocks. -/
structure State.DeadlineStep (s t : State) : Prop where
  rest : t.offUnits = s.offUnits
  regs : ∀ a, blockOf a ≠ 0x13 → blockOf a ≠ 0x14 → blockOf a ≠ 0x0D → blockOf a ≠ 0x1A → t.reg a = s.reg a

namespace State.DeadlineStep

theorem trans {s t u : State} (h : s.DeadlineStep t) (k : t.DeadlineStep u) : s.DeadlineStep u :=
  ⟨k.rest.trans h.rest, fun a link coll err err' => (k.regs a link coll err err').trans (h.regs a link coll err err')⟩

theorem put_collective (s : State) (p : Nat) {f : Fld} (v : Nat) (h : f.off + 0 * f.step < 0x10000) :
    s.DeadlineStep (s.put (Base.collective p) f v) := by
  refine ⟨State.offUnits_of_contents (State.put_contents ..), fun a _ coll _ _ => State.reg_put_other _ _ _ _ _ ?_⟩
  rintro rfl
  exact coll (by rw [Nat.add_assoc]; exact blockOf_collective p h)

theorem count_collective (s : State) (p : Nat) {f : Fld} (n : Nat) (h : f.off + 0 * f.step < 0x10000) :
    s.DeadlineStep (s.count (Base.collective p) f n) := put_collective s p _ h

theorem count_peerLink (s : State) (l : Nat) {f : Fld} (n : Nat) (h : f.off + 0 * f.step < 0x1000) :
    s.DeadlineStep (s.count (Base.peerLink l) f n) := by
  refine ⟨State.offUnits_of_contents (State.count_contents ..), fun a link _ _ _ => State.reg_count_other _ _ _ _ _ ?_⟩
  rintro rfl
  exact link (by rw [Nat.add_assoc]; exact blockOf_peerLink l h)

theorem log (s : State) (unit action : Nat) (ctx : Option Nat) (source index detail : Nat) :
    s.DeadlineStep (s.log unit action ctx source index detail) :=
  ⟨State.offUnits_of_contents (State.log_contents ..), fun _ _ _ err err' => State.log_reg s _ _ _ _ _ _ err err'⟩

theorem addReason (s : State) (ctxs : List Nat) (r : Nat) : s.DeadlineStep (s.addReason ctxs r) :=
  ⟨State.addReason_offUnits .., fun _ _ _ _ _ => rfl⟩

theorem chunksMissing (s : State) (l ctx n : Nat) : s.DeadlineStep (s.chunksMissing l ctx n) :=
  ((count_peerLink s l n (by decide)).trans (addReason ..)).trans (log ..)

theorem linkShow (s : State) : s.DeadlineStep s.linkShow :=
  (((put_collective s 0 _ (by decide)).trans (put_collective _ 0 _ (by decide))).trans
    (put_collective _ 1 _ (by decide))).trans (put_collective _ 1 _ (by decide))

/-- The registers of a core stay. -/
theorem core {s t : State} (h : s.DeadlineStep t) (d : Nat) {c : Nat} (hc : c < 48) {f : Fld} {i : Nat}
    (ho : f.off + i * f.step < 0x400) : t.get (Base.core d c) f i = s.get (Base.core d c) f i := by
  have block := blockOf_coreField d hc ho
  rw [State.get, h.regs _ (by rw [block]; decide) (by rw [block]; decide) (by rw [block]; decide)
    (by rw [block]; decide), State.get]

theorem sched {s t : State} (h : s.DeadlineStep t) : t.sched = s.sched := by
  rw [State.sched, State.get, h.regs _ (by decide) (by decide) (by decide) (by decide), State.sched, State.get]

end State.DeadlineStep

theorem State.linkShow_contents (s : State) : s.linkShow.contents = s.contents := by
  have pds : List.range 2 = [0, 1] := rfl
  simp only [State.linkShow, pds, List.foldl_cons, List.foldl_nil, State.put_contents]

theorem State.linkShow_units (s : State) : s.linkShow.units = s.units := State.units_of_contents s.linkShow_contents

theorem State.linkShow_windows (s : State) : s.linkShow.windows = s.windows :=
  State.windows_of_offUnits (State.offUnits_of_contents s.linkShow_contents)

theorem State.bulk_of_offUnits {s t : State} (h : t.offUnits = s.offUnits) : t.bulk = s.bulk :=
  (congrArg State.bulk h : t.offUnits.bulk = s.offUnits.bulk)

theorem State.linkShow_bulk (s : State) : s.linkShow.bulk = s.bulk :=
  State.bulk_of_offUnits (State.offUnits_of_contents s.linkShow_contents)

theorem OnlyFields.linkShow (s : State) : OnlyFields s s.linkShow [(Base.collective 0, Reg.winInFlight, 0),
    (Base.collective 0, Reg.winWindows, 0), (Base.collective 1, Reg.winInFlight, 0),
    (Base.collective 1, Reg.winWindows, 0)] :=
  (((OnlyFields.put s (Base.collective 0) Reg.winInFlight _ 0 (by decide) (by simp)).trans
    (.put _ (Base.collective 0) Reg.winWindows _ 0 (by decide) (by simp))).trans
    (.put _ (Base.collective 1) Reg.winInFlight _ 0 (by decide) (by simp))).trans
    (.put _ (Base.collective 1) Reg.winWindows _ 0 (by decide) (by simp))

/-- Chunks that are missing set CHUNK in the context's staged units, wherever they are counted. -/
theorem State.chunksMissing_units (s : State) (l ctx n : Nat) :
    (s.chunksMissing l ctx n).units = (s.addReason [ctx] Reason.chunk).units := by
  rw [State.chunksMissing, State.reportCtx, State.units_of_contents (State.log_contents ..)]
  exact State.addReason_units_congr (State.count_units ..)
    (State.DeadlineStep.count_peerLink s l n (by decide)).sched rfl _

/-! A window's deadline (R285) -/

/-- The only window, due, closes; one still short has its missing chunks reported and gives its event. -/
theorem State.windowEnd_due {s : State} {w : Window} (only : s.windows = [w]) (due : s.slotOver (w.slot + 1) = true) :
    s.windowEnd w.src w.stream =
      if w.landed.length = w.cap then (s.withWindows []).linkShow
      else (((s.withWindows []).linkShow).chunksMissing ((((s.withWindows []).linkShow).hopTo w.src).getD 0) w.ctx
        (w.cap - w.landed.length)).evcAdd (w.core / 48) (w.core % 48) w.ec 1 := by
  have found : (s.windows.find? fun x => x.src == w.src && x.stream == w.stream && s.slotOver (x.slot + 1)) = some w := by
    rw [only, List.find?_cons_of_pos (by simp [due])]
  have gone : s.windows.erase w = [] := by rw [only, List.erase_cons_head]
  unfold State.windowEnd
  rw [found]
  dsimp only
  rw [gone]
  rfl

theorem State.windowEnd_early {s : State} {src stream : Nat}
    (h : ∀ w ∈ s.windows, w.src = src → w.stream = stream → s.slotOver (w.slot + 1) = false) :
    s.windowEnd src stream = s := by
  have none : (s.windows.find? fun x => x.src == src && x.stream == stream && s.slotOver (x.slot + 1)) = none := by
    refine List.find?_eq_none.2 fun w mem due => ?_
    simp only [Bool.and_eq_true, beq_iff_eq] at due
    rw [h w mem due.1.1 due.1.2] at due
    exact Bool.noConfusion due.2
  rw [State.windowEnd, none]

theorem windowDeadline_closes {s : State} {src : BitVec 12} {stream : BitVec 7} {w : Window} (only : s.windows = [w])
    (source : w.src = src.toNat) (named : w.stream = stream.toNat) (counter : w.ec < 16)
    (due : s.slotOver (w.slot + 1) = true) :
    ∃ t, exec (.chunkDeadline (.window src stream)) s = .next t ∧ t.windows = [] ∧ t.mem = s.mem ∧
      (w.landed.length = w.cap → t.units = s.units ∧ OnlyFields s t [(Base.collective 0, Reg.winInFlight, 0),
        (Base.collective 0, Reg.winWindows, 0), (Base.collective 1, Reg.winInFlight, 0),
        (Base.collective 1, Reg.winWindows, 0)]) ∧
      (w.landed.length ≠ w.cap → t.units = (s.addReason [w.ctx] Reason.chunk).units ∧
        t.get (Base.core (w.core / 48) (w.core % 48)) Reg.evc w.ec =
          min (s.get (Base.core (w.core / 48) (w.core % 48)) Reg.evc w.ec + 1) (2 ^ 24 - 1)) := by
  have run : exec (.chunkDeadline (.window src stream)) s = .next (s.windowEnd src.toNat stream.toNat) := rfl
  rw [← source, ← named, State.windowEnd_due only due] at run
  have shown := State.DeadlineStep.linkShow (s.withWindows [])
  by_cases full : w.landed.length = w.cap
  · rw [if_pos full] at run
    exact ⟨_, run, State.linkShow_windows _, (State.mem_of_offUnits shown.rest).trans rfl,
      fun _ => ⟨State.linkShow_units _, (OnlyFields.of_regs _ rfl).trans (.linkShow (s.withWindows []))⟩,
      fun short => absurd full short⟩
  · rw [if_neg full] at run
    generalize (((s.withWindows []).linkShow).hopTo w.src).getD 0 = l at run
    have missing := State.DeadlineStep.chunksMissing ((s.withWindows []).linkShow) l w.ctx (w.cap - w.landed.length)
    have all := shown.trans missing
    have event := State.evcAdd_contents (((s.withWindows []).linkShow).chunksMissing l w.ctx (w.cap - w.landed.length))
      (w.core / 48) (w.core % 48) w.ec 1
    refine ⟨_, run, ?_, ?_, fun full' => absurd full' full, fun _ => ⟨?_, ?_⟩⟩
    · rw [State.windows_of_offUnits ((State.offUnits_of_contents event).trans all.rest)]
      rfl
    · rw [State.mem_of_offUnits ((State.offUnits_of_contents event).trans all.rest)]
      rfl
    · rw [State.units_of_contents event, State.chunksMissing_units]
      exact State.addReason_units_congr (State.linkShow_units _) shown.sched rfl _
    · rw [State.evcAdd_evc, all.core _ (Nat.mod_lt _ (by decide)) (by simp only [Reg.evc]; omega)]
      rfl

/-! A collective's deadline (R287) -/

/-- The state with other ring collectives. -/
def State.withBulk (s : State) (l : List Bulk) : State := { s with bulk := l }

theorem State.withBulk_mem (s : State) (l : List Bulk) : (s.withBulk l).mem = s.mem := rfl

theorem State.withBulk_units (s : State) (l : List Bulk) : (s.withBulk l).units = s.units := rfl

theorem State.withBulk_get (s : State) (l : List Bulk) (b : Nat) (f : Fld) (i : Nat) :
    (s.withBulk l).get b f i = s.get b f i := rfl

/-- The only collective, due and not yet told, ends as failed: what is missing is reported, and its poster has its event. -/
theorem State.bulkEnd_due {s : State} {x : Bulk} (only : s.bulk = [x]) (due : s.slotOver (x.slot + x.lat) = true)
    (untold : x.told = false) : ∃ l n p, s.bulkEnd x.cid =
      ((((s.chunksMissing l x.ctx n).evcAdd (x.core / 48) (x.core % 48) x.ec 1).count (Base.collective p)
        Reg.collFailed).withBulk []).linkShow := by
  have found : s.bulkOf x.cid = some x := by
    rw [State.bulkOf, only, List.find?_cons_of_pos (by simp)]
  have alone (l n : Nat) (p : Nat) : (((s.chunksMissing l x.ctx n).evcAdd (x.core / 48) (x.core % 48) x.ec 1).count
      (Base.collective p) Reg.collFailed).bulk.filter (fun b => b.cid != x.cid) = [] := by
    rw [State.count_bulk, State.bulk_of_offUnits (State.offUnits_of_contents (State.evcAdd_contents ..)),
      State.bulk_of_offUnits (State.DeadlineStep.chunksMissing s l x.ctx n).rest, only]
    simp
  unfold State.bulkEnd
  rw [found]
  dsimp only
  rw [due, if_neg (by decide), untold, if_neg (by decide), alone]
  exact ⟨_, _, _, rfl⟩

theorem State.bulkEnd_early {s : State} {cid : Nat}
    (h : ∀ x ∈ s.bulk, x.cid = cid → s.slotOver (x.slot + x.lat) = false) : s.bulkEnd cid = s := by
  unfold State.bulkEnd
  split
  next => rfl
  next x found =>
    have named : x.cid = cid := by simpa using List.find?_some found
    exact if_pos (h x (List.mem_of_find?_eq_some found) named)

theorem collectiveDeadline_ends {s : State} {cid : BitVec 6} {x : Bulk} (only : s.bulk = [x]) (named : x.cid = cid.toNat)
    (due : s.slotOver (x.slot + x.lat) = true) (untold : x.told = false) (counter : x.ec < 16) :
    ∃ t, exec (.chunkDeadline (.collective cid)) s = .next t ∧ t.bulk = [] ∧ t.mem = s.mem ∧
      t.units = (s.addReason [x.ctx] Reason.chunk).units ∧
      t.get (Base.core (x.core / 48) (x.core % 48)) Reg.evc x.ec =
        min (s.get (Base.core (x.core / 48) (x.core % 48)) Reg.evc x.ec + 1) (2 ^ 24 - 1) := by
  have run : exec (.chunkDeadline (.collective cid)) s = .next (s.bulkEnd cid.toNat) := rfl
  obtain ⟨l, n, p, ended⟩ := State.bulkEnd_due only due untold
  rw [← named, ended] at run
  have missing := State.DeadlineStep.chunksMissing s l x.ctx n
  have event := State.evcAdd_contents (s.chunksMissing l x.ctx n) (x.core / 48) (x.core % 48) x.ec 1
  generalize counted : (s.chunksMissing l x.ctx n).evcAdd (x.core / 48) (x.core % 48) x.ec 1 = u at run event
  have place : Reg.evc.off + x.ec * Reg.evc.step < 0x400 := by simp only [Reg.evc]; omega
  have shown := State.DeadlineStep.linkShow ((u.count (Base.collective p) Reg.collFailed).withBulk [])
  refine ⟨_, run, State.linkShow_bulk _, ?_, ?_, ?_⟩
  · rw [State.mem_of_offUnits shown.rest, State.withBulk_mem, State.count_mem, State.mem_of_contents event,
      State.mem_of_offUnits missing.rest]
  · rw [State.linkShow_units, State.withBulk_units, State.count_units, State.units_of_contents event,
      State.chunksMissing_units]
  · have failed := State.DeadlineStep.count_collective u p (f := Reg.collFailed) 1 (by decide)
    rw [shown.core _ (Nat.mod_lt _ (by decide)) place, State.withBulk_get,
      failed.core _ (Nat.mod_lt _ (by decide)) place, ← counted, State.evcAdd_evc,
      missing.core _ (Nat.mod_lt _ (by decide)) place]

end Sys2Proof.Machine
end

section
/-! PROOFS. Frames of the armature lane (R278, R279), and O48. -/

namespace Sys2Proof.Machine

/-! Counting nothing -/

/-- A field put to what it holds leaves the word. -/
theorem Fld.put_get (f : Fld) (r : Word) : f.put r (f.get r) = r := by
  have parts : r.toNat / 2 ^ (f.lo + f.w) * 2 ^ (f.lo + f.w) + r.toNat / 2 ^ f.lo % 2 ^ f.w * 2 ^ f.lo +
      r.toNat % 2 ^ f.lo = r.toNat :=
    calc
      _ = (r.toNat / 2 ^ f.lo / 2 ^ f.w * 2 ^ f.w + r.toNat / 2 ^ f.lo % 2 ^ f.w) * 2 ^ f.lo + r.toNat % 2 ^ f.lo := by
        rw [Nat.pow_add, Nat.div_div_eq_div_mul]
        ring
      _ = r.toNat := by rw [Nat.div_add_mod', Nat.div_add_mod']
  rw [Fld.put, Fld.get, Nat.mod_mod, parts, BitVec.ofNat_toNat, BitVec.setWidth_eq]

theorem State.count_zero_reg (s : State) (b : Nat) (f : Fld) (i a : Nat) : (s.count b f 0 i).reg a = s.reg a := by
  by_cases here : a = b + f.off + i * f.step
  · have full : min (s.get b f i + 0) (2 ^ f.w - 1) = s.get b f i := by
      have := s.get_lt b f i
      omega
    rw [here, State.count, full, State.put, State.reg_setReg_same]
    exact f.put_get _
  · exact State.reg_count_other s b f 0 i here

/-! A frame on a lane in service -/

theorem exec_armatureFrameReceive (s : State) (link : LinkNo) (f : ArmFrame) :
    exec (.armatureFrameReceive link f) s = .next (s.armReceive link.val f) := rfl

theorem State.armReceive_undecoded {s : State} {l : Nat} {f : ArmFrame} (up : s.armUp l = true) (bad : f.codeOk = false) :
    s.armReceive l f = s.armReject l := by
  simp only [State.armReceive, up, bad, Bool.not_true, Bool.false_eq_true, if_false, Bool.not_false, if_true]

/-- With nothing kept for replay, a decoded message frame without NAK or corrected symbols is taken as it is. -/
theorem State.armReceive_message {s : State} {l : Nat} {f : ArmFrame} (up : s.armUp l = true) (good : f.codeOk = true)
    (noNak : f.nak = false) (message : f.idle = false) (clean : f.corrected = 0) (none : (s.link l).areplay = []) :
    s.armReceive l f = (s.count (Base.peerLink l) Reg.armCorr 0).armAccept l f := by
  have acked : (s.count (Base.peerLink l) Reg.armCorr 0).armAcked l f.aack.toNat =
      s.count (Base.peerLink l) Reg.armCorr 0 := by
    unfold State.armAcked
    dsimp only
    rw [State.count_link, none]
    rfl
  simp only [State.armReceive, up, good, noNak, message, clean, Bool.not_true, Bool.false_eq_true, if_false, acked]

theorem State.armAccept_outOfOrder {s : State} {l : Nat} {f : ArmFrame} (crc : armCrcOk f.words = true)
    (gap : f.aseq.toNat ≠ (s.link l).aexpect) : s.armAccept l f = s.armReject l := by
  rw [State.armAccept, if_neg (by rw [crc]; decide), if_pos gap]

theorem State.armAccept_inOrder {s : State} {l : Nat} {f : ArmFrame} (crc : armCrcOk f.words = true)
    (next : f.aseq.toNat = (s.link l).aexpect) : s.armAccept l f =
      ((s.setLink l { s.link l with aexpect := ((s.link l).aexpect + 1) % 256 }).armHeard).armDeliver l
        (armOfWords f.words) := by
  rw [State.armAccept, if_neg (by rw [crc]; decide), if_neg (not_not_intro next)]

/-- A THROTTLE message for this device sets its sender's level (R80). -/
theorem State.armDeliver_throttle {s : State} {m : ArmMsg} (l : Nat) (type : m.mtype = 6) (here : m.dest.toNat = s.myNum) :
    s.armDeliver l m = s.setLevel m.src.toNat (bits (m.payload.getD 0 0) 3 0) := by
  unfold State.armDeliver
  rw [type]
  exact if_pos here

theorem State.setLevel_level (s : State) (dev level : Nat) :
    cget (fun _ => none) (s.setLevel dev level).strokes.levels dev = some level := by
  unfold State.setLevel
  exact cget_cset_same (fun _ => none) s.strokes.levels dev (some level)

theorem State.setLevel_reg (s : State) (dev level a : Nat) : (s.setLevel dev level).reg a = s.reg a := rfl

theorem State.setLevel_link (s : State) (dev level l : Nat) : (s.setLevel dev level).link l = s.link l := rfl

theorem State.setLevel_arm (s : State) (dev level : Nat) : (s.setLevel dev level).arm = s.arm := rfl

theorem State.setLevel_mem (s : State) (dev level : Nat) : (s.setLevel dev level).mem = s.mem := rfl

theorem State.armHeard_reg (s : State) (a : Nat) : s.armHeard.reg a = s.reg a := rfl

theorem State.armHeard_link (s : State) (l : Nat) : s.armHeard.link l = s.link l := rfl

theorem State.armHeard_mem (s : State) : s.armHeard.mem = s.mem := rfl

theorem State.armHeard_silence (s : State) : s.armHeard.arm.silence = 0 := rfl

section
variable {s : State} {link : LinkNo} {f : ArmFrame} {k : Link} {b : Nat}
variable (hk : k = s.link link.val) (up : s.armUp link.val = true)
include hk up

theorem armatureFrame_undecoded (hb : b = Base.peerLink link.val) (bad : f.codeOk = false) :
    ∃ t, exec (.armatureFrameReceive link f) s = .next t ∧
      t.links = (s.setLink link.val { k with anakSend := true }).links ∧
      t.get b Reg.armBad = min (s.get b Reg.armBad + 1) (2 ^ Reg.armBad.w - 1) ∧
      OnlyFields s t [(b, Reg.armBad, 0)] ∧ t.arm = s.arm ∧ t.mem = s.mem := by
  subst hb hk
  have run := exec_armatureFrameReceive s link f
  rw [State.armReceive_undecoded up bad] at run
  refine ⟨_, run, State.setLink_links_congr (State.count_links ..) .., ?_, ?_, ?_, ?_⟩
  · rw [State.armReject, State.setLink_get, State.get_count_same _ _ _ _ _ (by decide)]
  · exact (OnlyFields.count _ _ _ _ _ (by decide) (by simp)).trans (.of_regs _ (State.setLink_regs ..))
  · rw [State.armReject, State.setLink_arm, State.count_arm]
  · rw [State.armReject, State.setLink_mem, State.count_mem]

variable (good : f.codeOk = true) (noNak : f.nak = false) (message : f.idle = false) (clean : f.corrected = 0)
variable (none : k.areplay = []) (crc : armCrcOk f.words = true)
include good noNak message clean none crc

theorem armatureFrame_outOfOrder (gap : f.aseq.toNat ≠ k.aexpect) :
    ∃ t, exec (.armatureFrameReceive link f) s = .next t ∧ (t.link link.val).anakSend = true ∧
      (t.link link.val).aexpect = k.aexpect ∧ t.arm = s.arm ∧ t.mem = s.mem := by
  subst hk
  have run := exec_armatureFrameReceive s link f
  rw [State.armReceive_message up good noNak message clean none,
    State.armAccept_outOfOrder crc (by rw [State.count_link]; exact gap)] at run
  refine ⟨_, run, ?_, ?_, ?_, ?_⟩
  · rw [State.armReject, State.link_setLink]
  · rw [State.armReject, State.link_setLink, State.count_link]
  · rw [State.armReject, State.setLink_arm, State.count_arm, State.count_arm]
  · rw [State.armReject, State.setLink_mem, State.count_mem, State.count_mem]

theorem armatureFrame_throttle (m : ArmMsg) (next : f.aseq.toNat = k.aexpect) (hm : m = armOfWords f.words)
    (type : m.mtype = 6) (here : m.dest.toNat = s.myNum) :
    ∃ t, exec (.armatureFrameReceive link f) s = .next t ∧ (t.link link.val).aexpect = (k.aexpect + 1) % 256 ∧
      cget (fun _ => Option.none) t.strokes.levels m.src.toNat = some (bits (m.payload.getD 0 0) 3 0) ∧
      t.arm.silence = 0 ∧ (∀ a, t.reg a = s.reg a) ∧ t.mem = s.mem := by
  subst hk
  have run := exec_armatureFrameReceive s link f
  rw [State.armReceive_message up good noNak message clean none,
    State.armAccept_inOrder crc (by rw [State.count_link]; exact next), ← hm] at run
  generalize counted : s.count (Base.peerLink link.val) Reg.armCorr 0 = u at run
  have regs (a : Nat) : u.reg a = s.reg a := counted ▸ s.count_zero_reg ..
  have record : u.link link.val = s.link link.val := counted ▸ State.count_link ..
  have num (x : Link) : ((u.setLink link.val x).armHeard).myNum = s.myNum := by
    rw [State.myNum, State.get, State.armHeard_reg, State.setLink_reg, regs, State.myNum, State.get]
  have taken := State.armDeliver_throttle (s := (u.setLink link.val { u.link link.val with
    aexpect := ((u.link link.val).aexpect + 1) % 256 }).armHeard) link.val type (here.trans (num _).symm)
  rw [taken] at run
  refine ⟨_, run, ?_, State.setLevel_level .., ?_, fun a => ?_, ?_⟩
  · rw [State.setLevel_link, State.armHeard_link, State.link_setLink, record]
  · rw [State.setLevel_arm, State.armHeard_silence]
  · rw [State.setLevel_reg, State.armHeard_reg, State.setLink_reg, regs]
  · rw [State.setLevel_mem, State.armHeard_mem, State.setLink_mem, ← counted, State.count_mem]

end

theorem armatureFrame_ignored {s : State} {link : LinkNo} {f : ArmFrame} (down : s.armUp link.val = false) :
    Unchanged (.armatureFrameReceive link f) s :=
  congrArg Host.Outcome.next (if_pos (by rw [down]; rfl))

/-- Settles O48: CHUNK_RECEIVE by what becomes of the chunk (`State.land` where it is clean), a NAK record by
`State.nakRecord`, the deadlines by the steps of `State.DeadlineStep`, and a frame of the armature lane by
`State.armAccept` and `State.armReject`. -/
theorem chunksLandAndExpire : Obligations.ChunksLandAndExpire := by
  intro s link k b c rest w1 w2 src stream cid fr hb hk
  refine ⟨fun up ready => ⟨fun bad => ?_, fun u wait hwait hu => ⟨fun whole transfer phase => ?_,
      fun whole known good transfer here untaken => ?_,
      fun w v whole known good transfer here only source named ctx room new hv => ?_⟩,
      chunkReceive_fails hb hk up ready⟩,
    fun idle => chunkReceive_ignored (by subst hb hk; exact idle), fun up kept same once new qs hqs => ?_,
    fun idle => chunkNak_ignored w1 w2 (by subst hb hk; exact idle),
    fun w only source named _ counter due => windowDeadline_closes only source named counter due,
    fun early => congrArg Host.Outcome.next (State.windowEnd_early early),
    fun x only named due untold _ counter => collectiveDeadline_ends only named due untold counter,
    fun early => congrArg Host.Outcome.next (State.bulkEnd_early early), fun up => armatureFrame_undecoded hk up hb,
    fun up good noNak message clean none crc => armatureFrame_outOfOrder hk up good noNak message clean none crc,
    fun m up good noNak message clean none crc next =>
      armatureFrame_throttle hk up good noNak message clean none crc m next, armatureFrame_ignored⟩
  all_goals subst hb hk
  · exact (exec_chunkReceive up).trans (congrArg _ (State.chunkReceive_badfwd ready bad))
  · subst hwait hu
    exact (exec_chunkReceive up).trans (congrArg _ (State.chunkReceive_reserved ready whole transfer phase))
  · subst hwait hu
    refine (exec_chunkReceive up).trans (congrArg _
      ((State.chunkReceive_lands ready whole known transfer good here).trans (State.land_untaken link.val ?_)))
    rw [State.setLink_windows]
    exact untaken
  · subst hwait hu hv
    have lands := (exec_chunkReceive up).trans
      (congrArg Host.Outcome.next (State.chunkReceive_lands ready whole known transfer good here))
    obtain ⟨mem, windows, short, full⟩ := State.land_taken_effect
      (s := s.setLink link.val ((s.link link.val).checked c rest)) (c := c) (w := w) link.val
      ((State.setLink_windows ..).trans only) ⟨source, named, ctx, room, new⟩
    exact ⟨_, lands, mem, windows, short, fun last _ _ => full last⟩
  · rw [exec_chunkNak up, State.nakRecord_requeues kept same once new, hqs]

end Sys2Proof.Machine
end

section
/-! PROOFS. A host command that runs, and what its completion changes (R377, R419, R420, R470, R474 to R476). -/

namespace Sys2Proof.Machine

/-- A command that runs is given to its operation. -/
theorem CmdRuns.hostCmd {s : State} {c : HostCmd} {op : Nat} (h : CmdRuns s c op) (run : State → State) :
    s.hostCmd c op run = run s := by
  obtain ⟨named, unfenced, serving, queue⟩ := h
  rw [State.hostCmd, if_neg (by simp [named, unfenced]), if_pos serving, if_pos queue]

/-! Messages and records to the host -/

/-- The state's contents without the Umajo port. -/
def State.offUm (s : State) : State := { s.contents with um := State.reset.um }

theorem State.learn_of_offUm {s t : State} (h : t.offUm = s.offUm) (c : Nat) : t.learn c = s.learn c :=
  (congrArg (fun u : State => u.learn c) h : t.offUm.learn c = s.offUm.learn c)

theorem State.units_of_offUm {s t : State} (h : t.offUm = s.offUm) : t.units = s.units :=
  (congrArg State.units h : t.offUm.units = s.offUm.units)

/-- `t` comes of `s` by messages and records to the host: beside registers and counts only the Umajo port may differ, and
each queue holds the same commands. -/
structure State.Told (s t : State) : Prop where
  rest : t.offUm = s.offUm
  cmds : ∀ q, (t.hq q).cmds = (s.hq q).cmds

namespace State.Told

theorem refl (s : State) : s.Told s := ⟨rfl, fun _ => rfl⟩

theorem trans {s t u : State} (h : s.Told t) (k : t.Told u) : s.Told u :=
  ⟨k.rest.trans h.rest, fun q => (k.cmds q).trans (h.cmds q)⟩

theorem of_contents {s t : State} (h : t.contents = s.contents) : s.Told t :=
  ⟨congrArg (fun u : State => { u with um := State.reset.um }) h,
    fun q => (congrArg (fun u : State => (u.hq q).cmds) h : (t.contents.hq q).cmds = (s.contents.hq q).cmds)⟩

theorem put (s : State) (b : Nat) (f : Fld) (v i : Nat) : s.Told (s.put b f v i) := of_contents (s.put_contents ..)

theorem setHq (s : State) (q : Nat) {x : HostQ} (h : x.cmds = (s.hq q).cmds) : s.Told (s.setHq q x) := by
  refine ⟨rfl, fun q' => ?_⟩
  by_cases same : q' = q
  · subst same
    rw [State.hq_setHq, h]
  · rw [State.hq_setHq_other _ _ _ same]

theorem umSend (s : State) (m : UmMsg) : s.Told (s.umSend m) := ⟨rfl, fun _ => rfl⟩

theorem hostPut (s : State) (ctx off : Nat) (ws : List TWord) (m0 m1 : Nat) : s.Told (s.hostPut ctx off ws m0 m1) :=
  ⟨rfl, fun _ => rfl⟩

theorem hostBytes (s : State) (ctx fuel off : Nat) (bs : List (Byte × Bool)) : s.Told (s.hostBytes ctx fuel off bs) := by
  induction fuel generalizing s off bs with
  | zero => exact refl s
  | succ n ih =>
    cases bs with
    | nil => exact refl s
    | cons b bs => exact (hostPut ..).trans (ih ..)

theorem toHost (s : State) (ctx : Option Nat) (a : Nat) (ws : List Word) : s.Told (s.toHost ctx a ws) := by
  unfold State.toHost
  split
  · exact hostBytes ..
  · exact of_contents (s.refused_contents ..)

theorem notify (s : State) (q : Nat) : s.Told (s.notify q) := (setHq _ _ (by rfl)).trans (umSend ..)

theorem recordWrite (s : State) (q : Nat) (r : List Word) : s.Told (s.recordWrite q r) := by
  unfold State.recordWrite
  dsimp only
  split
  · exact (((toHost ..).trans (put ..)).trans ((toHost ..).trans (setHq _ _ (by rfl)))).trans (notify ..)
  · exact ((toHost ..).trans (put ..)).trans ((toHost ..).trans (setHq _ _ (by rfl)))

theorem recordPut (s : State) (q : Nat) (r : List Word) : s.Told (s.recordPut q r) := by
  unfold State.recordPut
  dsimp only
  split
  · exact (setHq _ _ (by rfl)).trans (recordWrite ..)
  · split
    · exact setHq _ _ (by rfl)
    · split
      · exact (setHq _ _ (by rfl)).trans (of_contents (State.count_contents ..))
      · exact setHq _ _ (by rfl)

end State.Told

/-! A completion takes the command off its queue -/

theorem State.completeWith_offUm (s : State) (c : HostCmd) (status handle : Nat) (results : List Word) :
    (s.completeWith c status handle results).offUm = s.offUm := (State.Told.recordPut ..).rest.trans rfl

theorem State.completeWith_cmds (s : State) (c : HostCmd) (status handle : Nat) (results : List Word) :
    ((s.completeWith c status handle results).hq c.queue.val).cmds = (s.hq c.queue.val).cmds.erase c := by
  unfold State.completeWith
  dsimp only
  rw [(State.Told.recordPut ..).cmds, State.hq_setHq]

theorem State.complete_offUm (s : State) (c : HostCmd) (status handle : Nat) (results : List Word) :
    (s.complete c status handle results).offUm = s.offUm := by
  unfold State.complete
  split
  · exact State.completeWith_offUm ..
  · exact State.completeWith_offUm ..

theorem State.complete_cmds (s : State) (c : HostCmd) (status handle : Nat) (results : List Word) :
    ((s.complete c status handle results).hq c.queue.val).cmds = (s.hq c.queue.val).cmds.erase c := by
  unfold State.complete
  split
  · exact State.completeWith_cmds ..
  · exact State.completeWith_cmds ..

end Sys2Proof.Machine
end

section
/-! PROOFS. Learning: its commands, the start of a step and its norm (R305 to R309, R321, R329, R335, R337), and O50. -/

namespace Sys2Proof.Machine

/-! The words of a program stand in the cores' stores -/

/-- The state without its cores and the last answer. -/
def State.offStores (s : State) : State := { s with cores := [], answer := State.reset.answer }

theorem State.regs_of_offStores {s t : State} (h : t.offStores = s.offStores) : t.regs = s.regs :=
  (congrArg State.regs h : t.offStores.regs = s.offStores.regs)

theorem State.mem_of_offStores {s t : State} (h : t.offStores = s.offStores) : t.mem = s.mem :=
  (congrArg State.mem h : t.offStores.mem = s.offStores.mem)

theorem State.units_of_offStores {s t : State} (h : t.offStores = s.offStores) : t.units = s.units :=
  (congrArg State.units h : t.offStores.units = s.offStores.units)

theorem State.um_of_offStores {s t : State} (h : t.offStores = s.offStores) : t.um = s.um :=
  (congrArg State.um h : t.offStores.um = s.offStores.um)

theorem State.learn_of_offStores {s t : State} (h : t.offStores = s.offStores) (c : Nat) : t.learn c = s.learn c :=
  (congrArg (fun u : State => u.learn c) h : t.offStores.learn c = s.offStores.learn c)

theorem State.storeWord_offStores (s : State) (d c : Nat) (w : BitVec 12 × Word) :
    (s.storeWord d c w).offStores = s.offStores := by
  unfold State.storeWord
  dsimp only
  split <;> rfl

theorem State.storeProgram_offStores (s : State) (p : Program) (bound : List (Option Nat)) :
    (s.storeProgram p bound).offStores = s.offStores := by
  refine foldl_keeps (fun t : State => t.offStores = s.offStores) _ _ _ rfl fun t kb _ h => ?_
  split
  · exact foldl_keeps (fun t : State => t.offStores = s.offStores) _ _ _ h fun u w _ k =>
      (u.storeWord_offStores ..).trans k
  · exact h

/-- What is stored does not depend on what the contexts learn. -/
theorem State.storeWord_setLearn (s : State) (ctx : Nat) (x : Learn) (d c : Nat) (w : BitVec 12 × Word) :
    (s.setLearn ctx x).storeWord d c w = (s.storeWord d c w).setLearn ctx x := by
  rw [State.storeWord, State.storeWord, apply_ite (fun t : State => t.setLearn ctx x)]
  rfl

theorem State.storeProgram_setLearn (s : State) (ctx : Nat) (x : Learn) (p : Program) (bound : List (Option Nat)) :
    (s.setLearn ctx x).storeProgram p bound = (s.storeProgram p bound).setLearn ctx x := by
  refine List.foldl_hom (fun t : State => t.setLearn ctx x) fun t kb => ?_
  obtain ⟨k, _ | g⟩ := kb
  · rfl
  · exact List.foldl_hom (fun t : State => t.setLearn ctx x) fun u w => u.storeWord_setLearn ..

/-! `LEARN_STEP` (R335) -/

theorem exec_learnStep {s : State} {cmd : HostCmd} (runs : CmdRuns s cmd 0x20) (p : Program) :
    exec (.learnStep cmd p) s = .next (s.learnStep cmd p) := congrArg Host.Outcome.next (runs.hostCmd _)

theorem State.learnStep_refused {s : State} {c : HostCmd} {p : Program} (h : s.learnRefused c p = true) :
    s.learnStep c p = s.complete c Status.denied := if_pos h

/-- The cores that a command's program is bound to: those that the context has, where the command names no program. -/
def State.learnBound (s : State) (c : HostCmd) (g : Program) : List (Option Nat) :=
  if lsProg c = 0 ∧ (s.learn c.queue.val).bound ≠ [] then (s.learn c.queue.val).bound else s.placement c.queue.val g

/-- What the context learns after an accepted command. -/
def State.learnAfter (s : State) (c : HostCmd) (g : Program) : Learn :=
  { (s.learnConfigure c g).learn c.queue.val with
    bound := s.learnBound c g, cmd := some c, left := lsSteps c, next := lsBatch c, sealed := 0, voids := 0, run := none,
    skipped := false, gnorm := 0, tokens := 0, faultReason := 0, faultLayer := 511, faultRs := false }

/-- The device after an accepted command, before a command without steps completes. -/
def State.learnTaken (s : State) (c : HostCmd) (g : Program) : State :=
  (if lsProg c = 0 ∧ (s.learn c.queue.val).bound ≠ [] then s.learnConfigure c g
    else (s.learnConfigure c g).storeProgram g (s.placement c.queue.val g)).setLearn c.queue.val (s.learnAfter c g)

/-- The configuration of a context is set in its record alone, which keeps its binding. -/
theorem State.learnConfigure_eq (s : State) (c : HostCmd) (g : Program) :
    ∃ x, s.learnConfigure c g = s.setLearn c.queue.val x ∧ x.bound = (s.learn c.queue.val).bound := ⟨_, rfl, rfl⟩

theorem State.learnStep_accepted {s : State} {c : HostCmd} {p g : Program} (accepted : s.learnRefused c p = false)
    (prog : s.learnProg c p = some g) :
    s.learnStep c p =
      if lsSteps c = 0 then (s.learnTaken c g).learnEnd c.queue.val Status.ok 0 else s.learnTaken c g := by
  have bound : ((s.learnConfigure c g).learn c.queue.val).bound = (s.learn c.queue.val).bound := by
    obtain ⟨x, eq, kept⟩ := s.learnConfigure_eq c g
    rw [eq, State.learn_setLearn, kept]
  rw [State.learnStep, if_neg (by simp [accepted]), prog]
  dsimp only
  rw [bound, State.learnTaken, State.learnAfter, State.learnBound]
  by_cases keeps : lsProg c = 0 ∧ (s.learn c.queue.val).bound ≠ []
  · simp only [if_pos keeps]
  · simp only [if_neg keeps]
    rfl

section
variable (s : State) (c : HostCmd) (g : Program)

theorem State.learnTaken_learn : (s.learnTaken c g).learn c.queue.val = s.learnAfter c g := State.learn_setLearn ..

theorem State.learnTaken_keeps : (s.learnTaken c g).regs = s.regs ∧ (s.learnTaken c g).mem = s.mem ∧
    (s.learnTaken c g).units = s.units ∧ (s.learnTaken c g).um = s.um := by
  unfold State.learnTaken
  split
  · exact ⟨rfl, rfl, rfl, rfl⟩
  · have stored := (s.learnConfigure c g).storeProgram_offStores g (s.placement c.queue.val g)
    exact ⟨(State.regs_of_offStores stored :), (State.mem_of_offStores stored :), (State.units_of_offStores stored :),
      (State.um_of_offStores stored :)⟩

theorem State.learnTaken_other {k : Nat} (other : k ≠ c.queue.val) : (s.learnTaken c g).learn k = s.learn k := by
  have configured : (s.learnConfigure c g).learn k = s.learn k := State.learn_setLearn_other _ _ _ other
  rw [State.learnTaken, State.learn_setLearn_other _ _ _ other]
  split
  · exact configured
  · exact (State.learn_of_offStores (State.storeProgram_offStores ..) k).trans configured

theorem State.learnTaken_binding : if lsProg c = 0 ∧ (s.learn c.queue.val).bound ≠ []
    then (s.learnAfter c g).bound = (s.learn c.queue.val).bound ∧ (s.learnTaken c g).cores = s.cores
    else (s.learnAfter c g).bound = s.placement c.queue.val g ∧
      (s.learnTaken c g).cores = (s.storeProgram g (s.placement c.queue.val g)).cores := by
  unfold State.learnTaken State.learnAfter State.learnBound
  split
  · exact ⟨rfl, rfl⟩
  · obtain ⟨x, eq, -⟩ := s.learnConfigure_eq c g
    rw [eq, State.storeProgram_setLearn]
    exact ⟨rfl, rfl⟩

/-- A first configuration of a model starts at step 1 (R307), with the first of its master sets. -/
theorem State.learnAfter_start :
    (s.learnAfter c g).step = (if ((s.learn c.queue.val).cfg.map (·.model)) = some (lsModel c)
      then (s.learn c.queue.val).step else 1) ∧
    (s.learnAfter c g).live = (if ((s.learn c.queue.val).cfg.map (·.model)) = some (lsModel c)
      then (s.learn c.queue.val).live else 0) := by
  simp only [State.learnAfter, State.learnConfigure, State.learn_setLearn, lsCfg]
  by_cases same : (s.learn c.queue.val).cfg.map (·.model) = some (lsModel c)
  · simp [same]
  · simp [same]

theorem State.learnAfter_kept : (s.learnAfter c g).cfg = some (lsCfg c) ∧ (s.learnAfter c g).prog = some g ∧
    (s.learnAfter c g).batches = (s.learn c.queue.val).batches := by
  simp only [State.learnAfter, State.learnConfigure, State.learn_setLearn, and_self]

end

/-! The end of a command -/

/-- A command that learns completes once its context's record is without it, and without the batches it releases. -/
theorem State.learnEnd_completes {s : State} {ctx : Nat} {c : HostCmd} (h : (s.learn ctx).cmd = some c) (st n : Nat) :
    ∃ (u : State) (words : List Word) (batches : List Batch), s.learnEnd ctx st n = u.completeWith c st 0 words ∧
      u.learn ctx = { s.learn ctx with cmd := none, left := 0, run := none, voids := 0, batches := batches } ∧
      u.units = s.units ∧ u.um = s.um := by
  rw [State.learnEnd, h]
  dsimp only
  split
  · exact ⟨_, _, _, rfl, by rw [State.batchDrop, State.learn_setLearn, State.learn_setLearn], rfl, rfl⟩
  · exact ⟨_, _, _, rfl, by rw [State.batchDrop, State.learn_setLearn, State.learn_setLearn], rfl, rfl⟩

/-- A command without steps sets the configuration and completes. -/
theorem State.learnTaken_end (s : State) (c : HostCmd) (g : Program) {t : State}
    (ht : t = (s.learnTaken c g).learnEnd c.queue.val Status.ok 0) :
    (t.learn c.queue.val).cfg = some (lsCfg c) ∧ (t.learn c.queue.val).prog = some g ∧
      (t.learn c.queue.val).cmd = none ∧ (t.hq c.queue.val).cmds = (s.hq c.queue.val).cmds.erase c ∧
      t.units = s.units := by
  have named : ((s.learnTaken c g).learn c.queue.val).cmd = some c := congrArg Learn.cmd (s.learnTaken_learn c g)
  obtain ⟨u, words, batches, ends, learn, units, um⟩ := State.learnEnd_completes named Status.ok 0
  obtain ⟨cfg, prog, -⟩ := s.learnAfter_kept c g
  have rest := u.completeWith_offUm c Status.ok 0 words
  obtain ⟨-, -, unitsKept, umKept⟩ := s.learnTaken_keeps c g
  have queue : u.hq c.queue.val = s.hq c.queue.val := by rw [State.hq, um, umKept, State.hq]
  rw [ht, ends, State.learn_of_offUm rest, learn, State.learnTaken_learn, State.completeWith_cmds, queue,
    State.units_of_offUm rest, units, unitsKept]
  exact ⟨cfg, prog, rfl, rfl, rfl⟩

/-! `LOAD_BATCH` (R337) -/

theorem exec_loadBatch {s : State} {cmd : HostCmd} (runs : CmdRuns s cmd 0x21) (image : Option (List Word)) :
    exec (.loadBatch cmd image) s = .next (s.loadBatch cmd image) := congrArg Host.Outcome.next (runs.hostCmd _)

theorem State.loadBatch_refused {s : State} {c : HostCmd} (image : Option (List Word))
    (h : lbReserved c = true ∨ (s.learn c.queue.val).batches.any (·.num == lbBatch c) = true ∨
      16 ≤ (s.learn c.queue.val).batches.length ∨ s.ddrFits c.queue.val (lbBytes c) = false) :
    s.loadBatch c image = s.complete c Status.denied :=
  if_pos (by simpa [or_assoc] using h)

section
variable {s : State} {c : HostCmd} (formed : lbReserved c = false)
  (new : (s.learn c.queue.val).batches.any (·.num == lbBatch c) = false)
  (room : (s.learn c.queue.val).batches.length < 16) (fits : s.ddrFits c.queue.val (lbBytes c) = true)
include formed new room fits

/-- A batch that may come is read: its command ends with the read that fails. -/
theorem State.loadBatch_unread : s.loadBatch c none = s.complete c Status.tierFail := by
  simp only [State.loadBatch, formed, new, fits, decide_eq_false (Nat.not_le.2 room), Bool.or_false, Bool.not_true,
    Bool.false_eq_true, if_false]

theorem State.loadBatch_image (ws : List Word) : s.loadBatch c (some ws) =
    if batchImageOk (lbBytes c) (s.learnVocab c.queue.val) ws then
      (s.setLearn c.queue.val { s.learn c.queue.val with batches := (s.learn c.queue.val).batches ++
        [{ num := lbBatch c, bytes := lbBytes c, seqs := imageSeqs ws, tokens := imageTokens ws,
           looped := false }] }).complete c Status.ok
    else s.complete c Status.denied := by
  simp only [State.loadBatch, formed, new, fits, decide_eq_false (Nat.not_le.2 room), Bool.or_false, Bool.not_true,
    Bool.false_eq_true, if_false]

/-- A good image is kept under its batch's number. -/
theorem State.loadBatch_keeps {ws : List Word} {b : Batch}
    (ok : batchImageOk (lbBytes c) (s.learnVocab c.queue.val) ws = true)
    (is : b = { num := lbBatch c, bytes := lbBytes c, seqs := imageSeqs ws, tokens := imageTokens ws, looped := false })
    {t : State} (ht : t = s.loadBatch c (some ws)) :
    (t.learn c.queue.val).batches = (s.learn c.queue.val).batches ++ [b] ∧
      (t.hq c.queue.val).cmds = (s.hq c.queue.val).cmds.erase c ∧
      (t.learn c.queue.val).cmd = (s.learn c.queue.val).cmd ∧ t.units = s.units := by
  rw [State.loadBatch_image formed new room fits, if_pos ok, ← is] at ht
  have rest := ht ▸ State.complete_offUm _ c Status.ok 0 []
  rw [State.learn_of_offUm rest, State.units_of_offUm rest, ht, State.complete_cmds, State.learn_setLearn]
  exact ⟨rfl, rfl, rfl, rfl⟩

end

/-! The start of a step (R308, R309, R321) -/

section
variable {s : State} {ctx : Nat} {f : LearnCfg} (cfg : (s.learn ctx).cfg = some f) (slots : s.runsSlots = true)
  (wants : s.wantsStep ctx = true) (idle : (s.learn ctx).run = none) (noStep : s.unitOpen ctx 0 = false)
  (noTurn : s.unitOpen ctx 2 = false)
include cfg slots wants idle noStep noTurn

/-- A step's batch is dealt, and the step runs. -/
theorem State.learnBegin_deals {b : Batch} {deal : List (Nat × Nat × Nat)}
    (found : (s.learn ctx).batches.find? (fun b => b.num == s.stepBatch ctx) = some b)
    (dealt : dealBatch (s.stageSize ctx f.stages) f.mb (b.seqs.map (·.1)) = some deal) :
    ∃ n x r, s.learnBegin ctx = ({ s with free := n } : State).setLearn ctx x ∧ x.run = some r ∧
      x.step = (s.learn ctx).step ∧ r.batch = b.num ∧ r.deal = deal ∧ r.seq = s.planSeq ctx ∧
      r.whole = ((s.learn ctx).changed || f.test || decide (2 ≤ (s.learn ctx).voids)) ∧ r.posted = false ∧
      r.norm = none := by
  rw [State.learnBegin, cfg]
  dsimp only
  rw [if_neg (by simp [slots, wants, idle, noStep, noTurn]), found]
  dsimp only
  rw [dealt]
  dsimp only
  split
  · exact ⟨s.free, _, _, rfl, rfl, rfl, rfl, rfl, rfl, rfl, rfl, rfl⟩
  · exact ⟨_, _, _, rfl, rfl, rfl, rfl, rfl, rfl, rfl, rfl, rfl⟩

theorem State.learnBegin_undealt {b : Batch} (command : (s.learn ctx).cmd.isSome = true)
    (found : (s.learn ctx).batches.find? (fun b => b.num == s.stepBatch ctx) = some b)
    (undealt : dealBatch (s.stageSize ctx f.stages) f.mb (b.seqs.map (·.1)) = none) :
    s.learnBegin ctx = s.learnEnd ctx Status.denied (s.learn ctx).lastStep := by
  rw [State.learnBegin, cfg]
  dsimp only
  rw [if_neg (by simp [slots, wants, idle, noStep, noTurn]), found]
  dsimp only
  rw [undealt]
  exact if_pos command

theorem State.learnBegin_noBatch (command : (s.learn ctx).cmd.isSome = true)
    (missing : (s.learn ctx).batches.find? (fun b => b.num == s.stepBatch ctx) = none) :
    s.learnBegin ctx = s.learnEnd ctx Status.notResident (s.learn ctx).lastStep := by
  rw [State.learnBegin, cfg]
  dsimp only
  rw [if_neg (by simp [slots, wants, idle, noStep, noTurn]), missing]
  exact if_pos command

end

theorem State.learnBegin_waits {s : State} {ctx : Nat}
    (h : s.runsSlots = false ∨ s.wantsStep ctx = false ∨ (s.learn ctx).run ≠ none ∨ (s.learn ctx).cfg = none ∨
      s.unitOpen ctx 0 = true ∨ s.unitOpen ctx 2 = true) : s.learnBegin ctx = s := by
  unfold State.learnBegin
  dsimp only
  split
  · rfl
  next f cfg =>
    refine if_pos ?_
    simpa [cfg, or_assoc, ← Option.ne_none_iff_isSome] using h

/-! The norm of a step (R329) -/

/-- With no collective in flight a tag is free: at most 16 of the 64 are reserved (R63). -/
theorem State.freeTag_of_noColls {s : State} (none : s.arm.colls = []) : ∃ tag, s.freeTag = some tag := by
  have free : s.freeTags = List.range 64 :=
    List.filter_eq_self.2 fun t _ => by rw [State.findColl_none_of_colls none]; rfl
  have reserved : s.reservedTags ≤ 16 := (List.length_filter_le ..).trans_eq List.length_range
  have length : s.poolTags.length = 64 - s.reservedTags := by
    rw [State.poolTags, free, List.length_take, List.length_range]
    omega
  exact Option.ne_none_iff_exists'.1 fun empty => by
    rw [List.head?_eq_none_iff.1 empty] at length
    simp only [List.length_nil] at length
    omega

theorem State.not_halted_of_runsSlots {s : State} (h : s.runsSlots = true) : s.devState ≠ Dev.halted := by
  intro halted
  simp [State.runsSlots, halted, Dev.halted, Dev.running, Dev.ready] at h

/-- The reduced norm and count are taken into the running step. -/
theorem State.normTake_takes {s : State} {ctx : Nat} {f : LearnCfg} {r : LearnRun} (cfg : (s.learn ctx).cfg = some f)
    (run : (s.learn ctx).run = some r) (ws : List Word) :
    ∃ x r', s.normTake ctx ws = s.setLearn ctx x ∧ x.run = some r' ∧ r'.posted = r.posted ∧
      r'.norm = some (ws.getD 0 0, ws.getD 1 0) ∧ r'.batch = r.batch ∧ r'.deal = r.deal ∧
      x.tokens = (ws.getD 1 0).toNat := by
  rw [State.normTake, cfg, run]
  exact ⟨_, _, rfl, rfl, rfl, rfl, rfl, rfl, rfl⟩

theorem State.takeNorms_single {s : State} {k : Coll} {ws : List Word} (only : s.arm.colls = [k]) (norm : k.purpose = 3)
    (result : k.result = some ws) : s.takeNorms = (s.withColls []).normTake k.ctx ws := by
  simp only [State.takeNorms, only, List.foldl_cons, List.foldl_nil, norm, result, beq_self_eq_true,
    State.dropColl_single only]

/-- The step's record once its norm is posted. -/
def State.normPosted (s : State) (ctx : Nat) (r : LearnRun) : State :=
  s.setLearn ctx { s.learn ctx with run := some { r with posted := true } }

/-- The only member of its group takes its own norm and count. -/
theorem State.normPost_alone {s : State} {ctx : Nat} {r : LearnRun} (run : (s.learn ctx).run = some r)
    (open_ : r.posted = false) (slots : s.runsSlots = true) (none : s.arm.colls = [])
    (alone : s.nextDim (s.groupOf ctx) 0 = 4) :
    s.normPost ctx = (s.normPosted ctx r).normTake ctx
      [word (s.normPartial (s.learn ctx)), word (s.lossTokens ctx (s.learn ctx) r), 0, 0] := by
  obtain ⟨tag, free⟩ := State.freeTag_of_noColls none
  have running : (s.normPosted ctx r).devState ≠ Dev.halted := State.not_halted_of_runsSlots slots
  have posted := State.collPost_alone (s := s.normPosted ctx r) 0x09 tag ctx (word (s.learn ctx).step) [1, 3, 0, 0]
    [word (s.normPartial (s.learn ctx)), word (s.lossTokens ctx (s.learn ctx) r), 0, 0] 3 (0, 0, 0, 0) 3 running none
    alone
  rw [State.normPost, run]
  dsimp only
  rw [if_neg (by simp [open_, slots]), free]
  dsimp only
  refine (congrArg State.takeNorms posted).trans ?_
  rw [State.takeNorms_single (State.withColls_colls ..) rfl rfl, State.withColls_withColls,
    State.withColls_same (s := s.normPosted ctx r) none]
  rfl

theorem State.normPost_waits {s : State} {ctx : Nat} (h : (s.learn ctx).run = none ∨ s.runsSlots = false) :
    s.normPost ctx = s := by
  unfold State.normPost
  dsimp only
  split
  · rfl
  next r run => exact if_pos (by simpa [run] using Or.inr (h.resolve_left (by simp [run])))

/-- Settles O50: an accepted LEARN_STEP is `State.learnTaken`, which a command without steps ends at once
(`State.learnTaken_end`); LOAD_BATCH keeps a good image (`State.loadBatch_keeps`); a step that may begin is dealt
(`State.learnBegin_deals`) or ends its command; and the norm of an only member is its own (`State.normPost_alone`). -/
theorem learnCommandsAndSteps : Obligations.LearnCommandsAndSteps := by
  intro s cmd p image ctx q hq
  subst hq
  refine ⟨fun runs refused => (exec_learnStep runs p).trans (congrArg _ (State.learnStep_refused refused)),
    fun g runs accepted prog steps => ?_, fun g runs accepted prog steps => ?_,
    fun b runs formed new room fits => ⟨?_, ?_, ?_⟩,
    fun runs bad => (exec_loadBatch runs image).trans (congrArg _ (State.loadBatch_refused image bad)),
    fun f x hx cfg slots wants idle noStep noTurn => ?_,
    fun waits => congrArg Host.Outcome.next (State.learnBegin_waits waits),
    fun f r x hx cfg run open_ slots none alone => ?_,
    fun waits => congrArg Host.Outcome.next (State.normPost_waits waits)⟩
  · obtain ⟨cfg, kept, batches⟩ := s.learnAfter_kept cmd g
    obtain ⟨step, live⟩ := s.learnAfter_start cmd g
    refine ⟨s.learnTaken cmd g, ?_, ?_⟩
    · rw [exec_learnStep runs, State.learnStep_accepted accepted prog, if_neg steps]
    · rw [s.learnTaken_learn cmd g]
      exact ⟨cfg, kept, rfl, rfl, rfl, rfl, rfl, batches, step, live, s.learnTaken_binding cmd g,
        fun c other => s.learnTaken_other cmd g other, s.learnTaken_keeps cmd g⟩
  · refine ⟨_, ?_, s.learnTaken_end cmd g rfl⟩
    rw [exec_learnStep runs, State.learnStep_accepted accepted prog, if_pos steps]
  · rintro rfl
    rw [exec_loadBatch runs, State.loadBatch_unread formed new room fits]
  · rintro ws rfl bad
    rw [exec_loadBatch runs, State.loadBatch_image formed new room fits, if_neg (by simp [bad])]
  · rintro ws rfl good num bytes seqs tokens looped
    refine ⟨_, exec_loadBatch runs _, State.loadBatch_keeps formed new room fits good ?_ rfl⟩
    rw [← num, ← bytes, ← seqs, ← tokens, ← looped]
  · subst hx
    refine ⟨fun b deal found dealt => ?_,
      fun b found command undealt => congrArg Host.Outcome.next
        (State.learnBegin_undealt cfg slots wants idle noStep noTurn command found undealt),
      fun missing command => congrArg Host.Outcome.next
        (State.learnBegin_noBatch cfg slots wants idle noStep noTurn command missing)⟩
    obtain ⟨n, y, r, begins, runs, step, batch, deals, seq, whole, unposted, noNorm⟩ :=
      State.learnBegin_deals cfg slots wants idle noStep noTurn found dealt
    refine ⟨_, r, congrArg Host.Outcome.next begins, ?_⟩
    rw [State.learn_setLearn]
    exact ⟨runs, batch, deals, seq, whole, unposted, noNorm, step,
      fun c other => State.learn_setLearn_other _ _ _ other, rfl, rfl, rfl, rfl⟩
  · subst hx
    have posted : (s.normPosted ctx.val r).learn ctx.val =
        { s.learn ctx.val with run := some { r with posted := true } } := State.learn_setLearn ..
    obtain ⟨y, r', takes, after, isPosted, norm, batch, deal, tokens⟩ := State.normTake_takes
      (s := s.normPosted ctx.val r) (by rw [posted]; exact cfg) (by rw [posted])
      [word (s.normPartial (s.learn ctx.val)), word (s.lossTokens ctx.val (s.learn ctx.val) r), 0, 0]
    refine ⟨_, r', congrArg Host.Outcome.next ((State.normPost_alone run open_ slots none alone).trans takes), ?_⟩
    rw [State.learn_setLearn]
    exact ⟨after, isPosted, norm, batch, deal, tokens.trans (BitVec.toNat_ofNat ..), none,
      fun c other => (State.learn_setLearn_other _ _ _ other).trans (State.learn_setLearn_other _ _ _ other), rfl, rfl,
      rfl⟩

end Sys2Proof.Machine
end
